-- ==== Sys2Proof/Word.lean ====
section
/-! DEFINITION. The plainest words of the model: bytes, 32-bit and 64-bit words, and the sparse
table every large piece of plain data is held in (R6, R114, R294). -/

namespace Sys2Proof

/-- One byte of a memory or of a message. -/
abbrev Byte := BitVec 8

/-- One 32-bit word: a vector register of one lane (R114). -/
abbrev Word := BitVec 32

/-- One 64-bit word: an object handle (R9), a base register (R114). -/
abbrev DWord := BitVec 64

/-- A sparse table: keys strictly rising, no entry equal to the value an unlisted key reads as. -/
abbrev Tab (α : Type) := List (Nat × α)

end Sys2Proof
end

