-- ==== Sys2Proof/Syntax.lean ====
section
/-! DEFINITION. The commands of the block: one constructor per row of spec/opcode_table.json. Every row is a
step the spec calls whole and indivisible (spec/95_what_each_step_holds.md); the operands carry what the
event brings with it and the state does not hold. `t` is a time in nanoseconds since power-up (R150), `w`
names a descriptor, `tile` is 16 × die + tile. -/

namespace Sys2Proof

/-- A descriptor in flight: a queue and a position of it (R143), or an instantiated batch (R161). -/
inductive WRef where
  | q (queue pos : Nat)
  | b (id : Nat)
  deriving DecidableEq, Repr

/-- A launch as every die and module knows it: origin die, origin module, launch-table entry (R165). -/
structure LKey where
  odie : Nat
  ocoord : Nat
  entry : Nat
  deriving DecidableEq, Repr

/-- Bytes the host stored in its own memory before it rang a doorbell (R398). -/
structure HostStore where
  addr : Nat
  data : List Byte
  deriving DecidableEq, Repr

/-- What an access of the host does to a register, and when: the value written, or none where it reads (R395). -/
structure RegOp where
  wr : Option Nat
  t : Nat
  deriving DecidableEq, Repr

/-- The transport a dictionary message arrives by (R435, R436, R438, R421). A field network message comes in
its frame: destination, source, EtherType, field header, message. -/
inductive DictSrc where
  | cxl
  | mctp
  | fln
  | firmware (master : Nat)
  deriving DecidableEq, Repr

/-- What a unit detects: the fields of the error record of R478 that the unit supplies. -/
structure ErrIn where
  unit : Nat
  code : Nat
  addr : Nat := 0
  subunit : Nat := 0
  master : Nat := 0
  status : Nat := 0
  tag : Nat := 0
  step : Nat := 0
  syndrome : Nat := 0
  deriving DecidableEq, Repr

/-- What training finds in one DIMM slot (R2, R301): present, identity, MRDIMM or RDIMM, capacity, result. -/
structure DimmIn where
  present : Bool
  spdId : Nat
  mrdimm : Bool
  capacity : Nat
  trained : Bool
  deriving DecidableEq, Repr

/-- What a port's lanes bring (R335, R336, log 120): a flit whose codewords held no error, or the codewords of one codeword
time, one of each active lane, each as its 546 symbols of 10 bits. -/
inductive LineIn where
  | flit (data : List Byte)
  | codewords (words : List (List Nat))
  deriving DecidableEq, Repr

/-- The commands. -/
inductive Instr where
  /-- DESCRIPTOR_FETCH (R143). -/
  | descriptorFetch (q : Nat) (t : Nat)
  /-- DESCRIPTOR_COMPLETE (R151). -/
  | descriptorComplete (w : WRef) (t : Nat)
  /-- QUEUE_IRQ_TIMER (R399). -/
  | queueIrqTimer (q : Nat) (t : Nat)
  /-- DENSE_CONTRACTION (R97). -/
  | denseContraction (w : WRef)
  /-- SPARSE_CONTRACTION (R100). -/
  | sparseContraction (w : WRef)
  /-- ELEMENT_WISE_PRODUCT (R104). -/
  | elementWiseProduct (w : WRef)
  /-- EXPERT_ROUTED_CONTRACTION (R173). -/
  | expertRoutedContraction (w : WRef)
  /-- SWAP (R96). -/
  | swap (tile : Nat)
  /-- DRAIN_ROW (R98). -/
  | drainRow (tile : Nat)
  /-- VECTOR_PROGRAM (R117). -/
  | vectorProgram (w : WRef)
  /-- DRAIN_COUPLED_PROGRAM (R134). -/
  | drainCoupledProgram (w : WRef)
  /-- INSTRUCTION_LIMIT (R119). -/
  | instructionLimit (tile : Nat)
  /-- VEC_NOP (R122). -/
  | vecNop (tile : Nat)
  /-- END (R117). -/
  | vEnd (tile : Nat)
  /-- BRA (R122). -/
  | bra (tile : Nat)
  /-- LOOP (R122). -/
  | vLoop (tile : Nat)
  /-- SETL (R122). -/
  | setl (tile : Nat)
  /-- BANY (R122). -/
  | bany (tile : Nat)
  /-- BNONE (R122). -/
  | bnone (tile : Nat)
  /-- MOVI (R122). -/
  | movi (tile : Nat)
  /-- MOVB (R122). -/
  | movb (tile : Nat)
  /-- ADDB (R122). -/
  | addb (tile : Nat)
  /-- ADDBI (R122). -/
  | addbi (tile : Nat)
  /-- MOVX (R122). -/
  | movx (tile : Nat)
  /-- ADD (R122). -/
  | vAdd (tile : Nat)
  /-- SUB (R122). -/
  | vSub (tile : Nat)
  /-- MUL (R122). -/
  | vMul (tile : Nat)
  /-- MULH (R122). -/
  | mulh (tile : Nat)
  /-- ADDS (R122). -/
  | adds (tile : Nat)
  /-- SUBS (R122). -/
  | subs (tile : Nat)
  /-- MULS (R122). -/
  | muls (tile : Nat)
  /-- AND (R122). -/
  | vAnd (tile : Nat)
  /-- OR (R122). -/
  | vOr (tile : Nat)
  /-- XOR (R122). -/
  | vXor (tile : Nat)
  /-- ANDN (R122). -/
  | andn (tile : Nat)
  /-- SHL (R122). -/
  | shl (tile : Nat)
  /-- SHR (R122). -/
  | shr (tile : Nat)
  /-- SRA (R122). -/
  | sra (tile : Nat)
  /-- ADDI (R122). -/
  | addi (tile : Nat)
  /-- MOV (R122). -/
  | mov (tile : Nat)
  /-- FADD (R124). -/
  | fadd (tile : Nat)
  /-- FSUB (R124). -/
  | fsub (tile : Nat)
  /-- FMUL (R124). -/
  | fmul (tile : Nat)
  /-- FMA (R124). -/
  | fma (tile : Nat)
  /-- FNMA (R124). -/
  | fnma (tile : Nat)
  /-- FMS (R124). -/
  | fms (tile : Nat)
  /-- FABS (R122). -/
  | fabs (tile : Nat)
  /-- FNEG (R122). -/
  | fneg (tile : Nat)
  /-- CMP (R123). -/
  | cmp (tile : Nat)
  /-- SEL (R122). -/
  | sel (tile : Nat)
  /-- MIN (R122). -/
  | vMin (tile : Nat)
  /-- MAX (R122). -/
  | vMax (tile : Nat)
  /-- FCLS (R122). -/
  | fcls (tile : Nat)
  /-- CVT (R124). -/
  | cvt (tile : Nat)
  /-- CVTX (R124). -/
  | cvtx (tile : Nat)
  /-- XADD (R122). -/
  | xadd (tile : Nat)
  /-- TLU (R126). -/
  | tlu (tile : Nat)
  /-- FRCP (R127). -/
  | frcp (tile : Nat)
  /-- FRSQ (R127). -/
  | frsq (tile : Nat)
  /-- FDIV (R127). -/
  | fdiv (tile : Nat)
  /-- FSQRT (R127). -/
  | fsqrt (tile : Nat)
  /-- FEXP (R127). -/
  | fexp (tile : Nat)
  /-- FEXP2 (R127). -/
  | fexp2 (tile : Nat)
  /-- FLOG (R127). -/
  | flog (tile : Nat)
  /-- FLOG2 (R127). -/
  | flog2 (tile : Nat)
  /-- FSIN (R127). -/
  | fsin (tile : Nat)
  /-- FCOS (R127). -/
  | fcos (tile : Nat)
  /-- FTANH (R127). -/
  | ftanh (tile : Nat)
  /-- LRED (R128). -/
  | lred (tile : Nat)
  /-- LPERM (R122). -/
  | lperm (tile : Nat)
  /-- LDI (R129). -/
  | ldi (tile : Nat)
  /-- LDX (R129). -/
  | ldx (tile : Nat)
  /-- STI (R129). -/
  | sti (tile : Nat)
  /-- STX (R129). -/
  | stx (tile : Nat)
  /-- STA (R132). -/
  | sta (tile : Nat)
  /-- DRV (R134). -/
  | drv (tile : Nat)
  /-- DRX (R134). -/
  | drx (tile : Nat)
  /-- RND (R133). -/
  | rnd (tile : Nat)
  /-- QAND (R122). -/
  | qand (tile : Nat)
  /-- QOR (R122). -/
  | qor (tile : Nat)
  /-- QNOT (R122). -/
  | qnot (tile : Nat)
  /-- FLGQ (R122). -/
  | flgq (tile : Nat)
  /-- NOP (R156). -/
  | nop (w : WRef)
  /-- WAIT_QUEUE (R156). -/
  | waitQueue (w : WRef) (t : Nat)
  /-- WAIT_QUEUE_TIMEOUT (R156). -/
  | waitQueueTimeout (w : WRef) (t : Nat)
  /-- LAUNCH (R160). -/
  | launch (w : WRef) (t : Nat)
  /-- STRAND_CREATE (R168). -/
  | strandCreate (die : Nat) (entry : Nat) (t : Nat)
  /-- BATCH_DUE (R171). -/
  | batchDue (die : Nat) (l : LKey) (pos : Nat) (t : Nat)
  /-- BIN_ROUND_CLOSE (R172). -/
  | binRoundClose (die : Nat) (l : LKey) (pos : Nat) (t : Nat)
  /-- PRD_BIND (R176). -/
  | prdBind (w : WRef)
  /-- PRD_UNBIND (R156). -/
  | prdUnbind (w : WRef)
  /-- SAMPLE (R201). -/
  | sample (w : WRef)
  /-- PREFIX (R205). -/
  | smpPrefix (w : WRef)
  /-- COMPACT (R206). -/
  | compact (w : WRef)
  /-- BUILD (R214). -/
  | build (w : WRef)
  /-- EDGE_GRAD (R215). -/
  | edgeGrad (w : WRef)
  /-- EDGE_DIFF (R216). -/
  | edgeDiff (w : WRef)
  /-- GATHER (R223). -/
  | gather (w : WRef)
  /-- SCATTER_ADD (R234). -/
  | scatterAdd (w : WRef)
  /-- SCATTER_WRITE (R244). -/
  | scatterWrite (w : WRef)
  /-- READOUT (R235). -/
  | readout (w : WRef)
  /-- CLEAR (R236). -/
  | clear (w : WRef)
  /-- PIN_REFRESH (R250). -/
  | pinRefresh (w : WRef)
  /-- TABLE_PUBLISH (R241). -/
  | tablePublish (w : WRef) (t : Nat)
  /-- PROMOTE (R256). -/
  | promote (w : WRef) (t : Nat)
  /-- TABLE_RELEASE (R242). -/
  | tableRelease (slot : Nat) (t : Nat)
  /-- ADDEND_ENTRY (R229). -/
  | addendEntry (n : Nat)
  /-- CACHE_FILL (R252). -/
  | cacheFill (n : Nat)
  /-- SKETCH_HALVING (R251). -/
  | sketchHalving (die : Nat)
  /-- MIGRATION_START (R253). -/
  | migrationStart (obj : Nat) (row : Nat) (t : Nat)
  /-- SNAPSHOT_ACK (R253). -/
  | snapshotAck (obj : Nat) (row : Nat) (t : Nat)
  /-- MIGRATION_COMMIT (R253). -/
  | migrationCommit (obj : Nat) (row : Nat) (t : Nat)
  /-- MIG_OLD_FREE (R253). -/
  | migOldFree (obj : Nat) (row : Nat) (t : Nat)
  /-- MIGRATION_TIMEOUT (R254). -/
  | migrationTimeout (obj : Nat) (row : Nat) (t : Nat)
  /-- UPD_SGD (R270). -/
  | updSgd (w : WRef)
  /-- UPD_ADAM (R270). -/
  | updAdam (w : WRef)
  /-- UPD_ADAGRAD (R270). -/
  | updAdagrad (w : WRef)
  /-- SAVE (R274). -/
  | save (w : WRef)
  /-- RESTORE (R281). -/
  | restore (w : WRef)
  /-- CKPT_EXPORT (R287). -/
  | ckptExport (w : WRef)
  /-- CKPT_IMPORT (R288). -/
  | ckptImport (w : WRef)
  /-- DECLARE (R308). -/
  | declare (w : WRef)
  /-- UNDECLARE (R310). -/
  | undeclare (w : WRef)
  /-- EPOCH_ADVANCE (R319). -/
  | epochAdvance (w : WRef)
  /-- RESIDE (R311). -/
  | reside (w : WRef) (t : Nat)
  /-- RELEASE (R312). -/
  | release (w : WRef)
  /-- PAGE_MOVE_START (R323). -/
  | pageMoveStart (obj : Nat) (page : Nat) (t : Nat)
  /-- PAGE_COPY_DONE (R323). -/
  | pageCopyDone (obj : Nat) (page : Nat) (t : Nat)
  /-- PAGE_MOVE_COMMIT (R323). -/
  | pageMoveCommit (obj : Nat) (page : Nat) (t : Nat)
  /-- PAGE_FRAME_FREE (R323). -/
  | pageFrameFree (obj : Nat) (page : Nat) (t : Nat)
  /-- PAGE_MOVE_TIMEOUT (R326). -/
  | pageMoveTimeout (obj : Nat) (page : Nat) (t : Nat)
  /-- PATROL_SCRUB (R300). -/
  | patrolScrub (unit : Nat) (addr : Nat)
  /-- REDUCE (R366). -/
  | reduce (w : WRef) (t : Nat)
  /-- FAB_PUT (R356). -/
  | fabPut (w : WRef) (t : Nat)
  /-- FAB_MSG (R356). -/
  | fabMsg (w : WRef) (t : Nat)
  /-- MSG_RETRY (R355). -/
  | msgRetry (id : Nat) (t : Nat)
  /-- RED_WATCHDOG (R380). -/
  | redWatchdog (ctx : Nat) (t : Nat)
  /-- RED_ABORT_EXPIRY (R381). -/
  | redAbortExpiry (redid : Nat) (t : Nat)
  /-- LINK_TRAINING_START (R337). -/
  | linkTrainingStart (p : Nat) (t : Nat)
  /-- EXCHANGE_FRAME (R337). -/
  | exchangeFrame (p : Nat) (frame : List Byte) (t : Nat)
  /-- LINK_TRAIN_TIMEOUT (R337). -/
  | linkTrainTimeout (p : Nat) (t : Nat)
  /-- LINK_RETRAIN (R338). -/
  | linkRetrain (p : Nat) (t : Nat)
  /-- LINK_TIMEOUT (R339). -/
  | linkTimeout (p : Nat) (t : Nat)
  /-- FLIT_RECEIVE (R342). -/
  | flitReceive (p : Nat) (line : LineIn) (t : Nat)
  /-- NAK_RETRY (R342). -/
  | nakRetry (p : Nat) (t : Nat)
  /-- PACKET_ROUTE (R351). -/
  | packetRoute (p : Nat) (t : Nat)
  /-- RD_REQ (R355). -/
  | rdReq (t : Nat)
  /-- RD_RSP (R355). -/
  | rdRsp (t : Nat)
  /-- WR_REQ (R350). -/
  | wrReq (t : Nat)
  /-- WR_ACK (R355). -/
  | wrAck (t : Nat)
  /-- ADD_REQ (R355). -/
  | addReq (t : Nat)
  /-- ADD_ACK (R355). -/
  | addAck (t : Nat)
  /-- STRAND (R31). -/
  | strand (t : Nat)
  /-- CHAIN (R167). -/
  | chain (t : Nat)
  /-- UPDATE (R268). -/
  | update (t : Nat)
  /-- MAILBOX (R417). -/
  | mailbox (t : Nat)
  /-- PLACE (R350). -/
  | place (t : Nat)
  /-- MSG_RSP (R355). -/
  | msgRsp (t : Nat)
  /-- SACK (R354). -/
  | sack (t : Nat)
  /-- SACK_TIMER (R352). -/
  | sackTimer (peer : Nat) (tc : Nat) (t : Nat)
  /-- SLUICE_RTO (R352). -/
  | sluiceRto (peer : Nat) (tc : Nat) (t : Nat)
  /-- DROP_REPORT (R359). -/
  | dropReport (t : Nat)
  /-- MULTICAST_RESEND (R359). -/
  | multicastResend (id : Nat) (t : Nat)
  /-- RED (R378). -/
  | red (t : Nat)
  /-- RED_JOIN (R374). -/
  | redJoin (t : Nat)
  /-- RED_CREDIT (R373). -/
  | redCredit (t : Nat)
  /-- RED_END (R385). -/
  | redEnd (t : Nat)
  /-- RED_ABORT (R381). -/
  | redAbort (t : Nat)
  /-- DRAIN_COMPLETE (R361). -/
  | drainComplete (t : Nat)
  /-- FAB_DRAIN_TIMEOUT (R361). -/
  | fabDrainTimeout (t : Nat)
  /-- DICT_MESSAGE (R428). -/
  | dictMessage (src : DictSrc) (msg : List Byte) (t : Nat)
  /-- UNBIND_COMPLETE (R402). -/
  | unbindComplete (a : Nat)
  /-- LOAD_IDLE_TIMEOUT (R464). -/
  | loadIdleTimeout (t : Nat)
  /-- FIRMWARE_READY (R465). -/
  | firmwareReady (t : Nat)
  /-- ACTIVATION_FALLBACK (R466). -/
  | activationFallback (t : Nat)
  /-- WATCHDOG_EXPIRY (R467). -/
  | watchdogExpiry (t : Nat)
  /-- SENSOR_SAMPLE (R454). -/
  | sensorSample (ss : Nat) (vs : List Int) (t : Nat)
  /-- ERROR_RECORD (R479). -/
  | errorRecord (e : ErrIn) (t : Nat)
  /-- IMAGE_BANK_ERROR (R453). -/
  | imageBankError (t : Nat)
  /-- AUTO_DUSK (R507). -/
  | autoDusk (t : Nat)
  /-- WAKE_EVENT (R508). -/
  | wakeEvent (t : Nat)
  /-- POWER_TRANSITION_DONE (R510). -/
  | powerTransitionDone (t : Nat)
  /-- REFERENCE_LOSS (R513). -/
  | referenceLoss (t : Nat)
  /-- COLD_POWER_UP (R498). -/
  | coldPowerUp (t : Nat)
  /-- MANAGEMENT_READY (R513). -/
  | managementReady (t : Nat)
  /-- RAILS_UP (R503). -/
  | railsUp (t : Nat)
  /-- RAIL_TIMEOUT (R503). -/
  | railTimeout (t : Nat)
  /-- ROOT_PLL_LOCK (R512). -/
  | rootPllLock (t : Nat)
  /-- MEMORY_TRAINED (R2). -/
  | memoryTrained (hbm : List Bool) (dimms : List DimmIn) (t : Nat)
  /-- UNDERVOLTAGE (R498). -/
  | undervoltage (t : Nat)
  /-- OVERVOLTAGE (R498). -/
  | overvoltage (t : Nat)
  /-- OVERCURRENT_TRIP (R498). -/
  | overcurrentTrip (t : Nat)
  /-- THROTTLE_STEP (R500). -/
  | throttleStep (t : Nat)
  /-- PWR_EN_LOW (R515). -/
  | pwrEnLow (t : Nat)
  /-- PWR_EN_HIGH (R515). -/
  | pwrEnHigh (t : Nat)
  /-- PERST_N_ASSERT (R394). -/
  | perstNAssert (t : Nat)
  /-- PERST_N_DEASSERT (R393). -/
  | perstNDeassert (t : Nat)
  /-- CXL_LINK_UP (R393). -/
  | cxlLinkUp (cxl : Bool) (width : Nat) (speed : Nat) (t : Nat)
  /-- FREEZE_N_LOW (R489). -/
  | freezeNLow (t : Nat)
  /-- FREEZE_N_HIGH (R492). -/
  | freezeNHigh (t : Nat)
  /-- WAKE_N_FALL (R508). -/
  | wakeNFall (t : Nat)
  /-- INPUT_STORM (R526). -/
  | inputStorm (sig : Nat) (t : Nat)
  /-- PRODUCER (R397). -/
  | producer (q : Nat) (v : Nat) (stores : List HostStore) (t : Nat)
  /-- COMPL_CONSUMER (R397). -/
  | complConsumer (q : Nat) (v : Nat) (stores : List HostStore) (t : Nat)
  /-- MBX_LOCK (R411). -/
  | mbxLock (m : Nat) (c : Nat) (t : Nat)
  /-- MBX_RELEASE (R412). -/
  | mbxRelease (m : Nat) (c : Nat) (t : Nat)
  /-- MBX_DOORBELL (R412). -/
  | mbxDoorbell (m : Nat) (c : Nat) (code : Nat) (t : Nat)
  /-- MBX_DONE (R412). -/
  | mbxDone (m : Nat) (c : Nat) (t : Nat)
  /-- FORCE_FREE (R412). -/
  | forceFree (m : Nat) (c : Nat) (t : Nat)
  /-- MBX_HOLD_EXPIRY (R416). -/
  | mbxHoldExpiry (c : Nat) (t : Nat)
  /-- HDM_COMMIT (R400). -/
  | hdmCommit (base : Nat) (size : Nat)
  /-- HDM_ACCESS (R403). -/
  | hdmAccess (addr : Nat) (len : Nat) (wr : Option (List Byte))
  /-- H2D_SNOOP (R405). -/
  | h2dSnoop (addr : Nat)
  /-- CONFIG_REQUEST (R394). -/
  | configRequest (reg : Nat) (wr : Option Nat)
  /-- GET_TIMESTAMP (R406). -/
  | getTimestamp (t : Nat)
  /-- SET_TIMESTAMP (R406). -/
  | setTimestamp (v : Nat) (t : Nat)
  /-- GET_SUPPORTED_LOGS (R406). -/
  | getSupportedLogs
  /-- GET_LOG (R406). -/
  | getLog (off : Nat) (len : Nat)
  /-- SPDM_REQUEST (R469). -/
  | spdmRequest (viaDoe : Bool) (req : List Byte)
  /-- ENTDAA (R436). -/
  | entdaa (addr : Nat)
  /-- SET_ENDPOINT_ID (R436). -/
  | setEndpointId (eid : Nat)
  /-- GET_ENDPOINT_ID (R436). -/
  | getEndpointId
  /-- GET_MCTP_VERSION_SUPPORT (R436). -/
  | getMctpVersionSupport (ty : Nat)
  /-- GET_MESSAGE_TYPE_SUPPORT (R436). -/
  | getMessageTypeSupport
  /-- FREEZE (R489). -/
  | freeze (t : Nat)
  /-- THAW (R492). -/
  | thaw (t : Nat)
  /-- FREEZE_COMPLETE (R490). -/
  | freezeComplete (t : Nat)
  /-- FREEZE_TOO_LONG (R492). -/
  | freezeTooLong (t : Nat)
  /-- READOUT_DONE (R494). -/
  | readoutDone (t : Nat)
  /-- JTAG_INTERNAL_SCAN (R495). -/
  | jtagInternalScan (t : Nat)
  /-- LIGHT_DETECTED (R337). -/
  | lightDetected (p : Nat) (t : Nat)
  /-- FEC_LOCK (R337). -/
  | fecLock (p : Nat) (t : Nat)
  /-- VERIFY_COMPLETE (R465). -/
  | verifyComplete (t : Nat)
  /-- FUSE_STEP_BLOWN (R460). -/
  | fuseStepBlown (t : Nat)
  /-- PRIMARY_MAILBOX_READY (R394). -/
  | primaryMailboxReady (t : Nat)
  /-- IGNORED_REGISTER_ACCESS (R395). -/
  | ignoredRegisterAccess (off : Nat) (bytes : Nat) (op : RegOp)
  /-- MBX_BUFFER_WRITE (R413). -/
  | mbxBufferWrite (m : Nat) (c : Nat) (off : Nat) (data : List Byte)
  /-- DOE_DISCOVERY (R408). -/
  | doeDiscovery (n : Nat)
  /-- CXL_TABLE_ACCESS (R408). -/
  | cxlTableAccess (entry : Nat)
  /-- ALERT_PULSE_END (R524). -/
  | alertPulseEnd (t : Nat)
  /-- SWITCH_RELEASE (R498). -/
  | switchRelease (t : Nat)
  /-- RETURN_TO_SERVICE (R482). -/
  | returnToService (unit : Nat) (t : Nat)
  /-- EXTEST (R495). -/
  | extest (cells : List Bool)
  deriving DecidableEq, Repr

end Sys2Proof
end

