-- ==== Sys2Proof/Decode.lean ====
section
/-! DEFINITION. The command a word of the opcode table spells. The table gives its rows no bits: the block's
commands are events, not words. -/

namespace Sys2Proof

/-- No row of the table has bits, so no word spells a command. -/
def decodeTableWord (_nbits _w : Nat) : Option Instr := none

end Sys2Proof
end

