-- ==== Sys2Proof/Machine/Table.lean ====
section
/-! DEFINITION. The named operations over a sparse table and over lists of bytes: one read, one
write, one canonical form, and the little-endian byte order of R6. -/

namespace Sys2Proof.Machine
open Sys2Proof

/-- The value at key `k`; an unlisted key reads as `d`. -/
def Tab.get {α : Type} (d : α) : Tab α → Nat → α
  | [], _ => d
  | (k, v) :: t, x => if x = k then v else Tab.get d t x

/-- Writes `v` at key `x`, keeping keys rising; writing the unlisted value removes the entry. -/
def Tab.set {α : Type} [DecidableEq α] (d : α) : Tab α → Nat → α → Tab α
  | [], x, v => if v = d then [] else [(x, v)]
  | (k, w) :: t, x, v =>
    if v = d then (if x = k then Tab.set d t x v else (k, w) :: Tab.set d t x v)
    else if x < k then (x, v) :: (k, w) :: t
    else if x = k then (x, v) :: t
    else (k, w) :: Tab.set d t x v

/-- Every key of the table is above `lo`, keys rise strictly, and no entry holds the unlisted value. -/
def Tab.wfFrom {α : Type} [DecidableEq α] (d : α) : Nat → Tab α → Bool
  | _, [] => true
  | lo, (k, v) :: t => decide (lo ≤ k) && (decide (v ≠ d) && Tab.wfFrom d (k + 1) t)

/-- The canonical form of a table. -/
def Tab.wf {α : Type} [DecidableEq α] (d : α) (t : Tab α) : Bool := Tab.wfFrom d 0 t

/-- Removes every entry whose key meets `p`. -/
def Tab.dropKeys {α : Type} (p : Nat → Bool) (t : Tab α) : Tab α :=
  t.filter (fun e => !p e.1)

/-- Writes `vs` at the consecutive keys from `x`. -/
def Tab.setRange {α : Type} [DecidableEq α] (d : α) : Tab α → Nat → List α → Tab α
  | t, _, [] => t
  | t, x, v :: vs => Tab.setRange d (Tab.set d t x v) (x + 1) vs

/-- The values at `n` consecutive keys from `x`. -/
def Tab.getRange {α : Type} (d : α) (t : Tab α) (x : Nat) : Nat → List α
  | 0 => []
  | n + 1 => Tab.get d t x :: Tab.getRange d t (x + 1) n

/-- The number a list of bytes spells, least significant byte first (R6). -/
def leNat : List Byte → Nat
  | [] => 0
  | b :: bs => b.toNat + 256 * leNat bs

/-- The `n` bytes of `v`, least significant first (R6). -/
def leBytes : Nat → Nat → List Byte
  | 0, _ => []
  | n + 1, v => BitVec.ofNat 8 v :: leBytes n (v / 256)

/-- The number a list of bytes spells, most significant byte first (external standards, R6). -/
def beNat (bs : List Byte) : Nat := leNat bs.reverse

/-- The `n` bytes of `v`, most significant first. -/
def beBytes (n v : Nat) : List Byte := (leBytes n v).reverse

/-- The little-endian field of `n` bytes at byte `at_` of a record. -/
def field (bs : List Byte) (at_ n : Nat) : Nat := leNat ((bs.drop at_).take n)

/-- Bits `lo .. lo + n - 1` of `v`. -/
def bits (v lo n : Nat) : Nat := (v / 2 ^ lo) % 2 ^ n

/-- Bit `i` of `v`. -/
def bit (v i : Nat) : Bool := (v / 2 ^ i) % 2 = 1

/-- The signed reading of the low `n` bits of `v` (two's complement). -/
def signed (n v : Nat) : Int :=
  let w := v % 2 ^ n
  if w < 2 ^ (n - 1) then (w : Int) else (w : Int) - (2 ^ n : Nat)

/-- The `n`-bit two's complement pattern of `v`. -/
def unsigned (n : Nat) (v : Int) : Nat := (v % ((2 ^ n : Nat) : Int)).toNat

/-- `v` with the little-endian field of `n` bytes at byte `at_` replaced. -/
def putField (bs : List Byte) (at_ n v : Nat) : List Byte :=
  bs.take at_ ++ leBytes n v ++ bs.drop (at_ + n)

/-- The 32-bit counters of the spec stick at their top (R57). -/
def stick32 (n : Nat) : Nat := min n 0xFFFFFFFF

/-- 64-bit counters wrap modulo 2^64 unless their entry says otherwise. -/
def wrap64 (n : Nat) : Nat := n % 2 ^ 64

/-- The smallest `k` with `n ≤ 2^k`, 0 for `n ≤ 1`. -/
def clog2 (n : Nat) : Nat := if n ≤ 1 then 0 else Nat.log2 (n - 1) + 1

/-- Ceiling division. -/
def cdiv (a b : Nat) : Nat := (a + b - 1) / b

/-- The list with element `i` replaced by `f` of it. -/
def modNth {α : Type} (f : α → α) : Nat → List α → List α
  | _, [] => []
  | 0, x :: xs => f x :: xs
  | n + 1, x :: xs => x :: modNth f n xs

/-- `n` consecutive numbers from `lo`. -/
def rangeFrom (lo : Nat) : Nat → List Nat
  | 0 => []
  | n + 1 => lo :: rangeFrom (lo + 1) n

end Sys2Proof.Machine
end

