-- ==== Sys2Proof/Machine/Num.lean ====
section
/-! DEFINITION. The number formats and conversions of chapter 2 (R33-R57), the slicer of R62-R65, the
data-driven window of R72, and exact arithmetic on dyadic values. -/

namespace Sys2Proof.Machine
open Sys2Proof

/-- The twelve formats of R33. -/
inductive Fmt where
  | s4 | u4 | s8 | u8 | s32 | bs4 | bs8 | bu8 | bf16 | fp32 | lf32 | xa128
  deriving DecidableEq, Repr

/-- The format a 4-bit code names; codes 0xC..0xF are reserved (R33, R34). -/
def Fmt.ofCode : Nat → Option Fmt
  | 0 => some .s4 | 1 => some .u4 | 2 => some .s8 | 3 => some .u8 | 4 => some .s32
  | 5 => some .bs4 | 6 => some .bs8 | 7 => some .bu8 | 8 => some .bf16 | 9 => some .fp32
  | 10 => some .lf32 | 11 => some .xa128 | _ => none

/-- The code of a format (R33). -/
def Fmt.code : Fmt → Nat
  | .s4 => 0 | .u4 => 1 | .s8 => 2 | .u8 => 3 | .s32 => 4 | .bs4 => 5 | .bs8 => 6 | .bu8 => 7
  | .bf16 => 8 | .fp32 => 9 | .lf32 => 10 | .xa128 => 11

/-- Block formats hold 32 elements under one exponent (R36). -/
def Fmt.isBlock : Fmt → Bool
  | .bs4 | .bs8 | .bu8 => true
  | _ => false

/-- Floating formats (R39). -/
def Fmt.isFloat : Fmt → Bool
  | .bf16 | .fp32 | .lf32 => true
  | _ => false

/-- Integer formats. -/
def Fmt.isInt : Fmt → Bool
  | .s4 | .u4 | .s8 | .u8 | .s32 => true
  | _ => false

/-- Bits of storage of one element of a format that has no blocks; mantissa bits of one that has. -/
def Fmt.elemBits : Fmt → Nat
  | .s4 | .u4 | .bs4 => 4
  | .s8 | .u8 | .bs8 | .bu8 => 8
  | .bf16 => 16
  | .s32 | .fp32 | .lf32 => 32
  | .xa128 => 128

/-- Bytes of one block group of 32 blocks (R37). -/
def Fmt.groupBytes : Fmt → Nat
  | .bs4 => 544
  | _ => 1056

/-- Bytes of a row of `n` elements (R35, R38, R41). -/
def Fmt.rowBytes (f : Fmt) (n : Nat) : Nat :=
  if f.isBlock then cdiv n 1024 * f.groupBytes else cdiv (n * f.elemBits) 8

/-- An exact value: NaN, a signed infinity, or `(-1)^neg × mag × 2^ex` with a signed zero (R46). -/
inductive Num where
  | nan
  | inf (neg : Bool)
  | fin (neg : Bool) (mag : Nat) (ex : Int)
  deriving DecidableEq, Repr

/-- Rounding modes of R48. -/
inductive RMode where
  | nearest | zero | stochastic
  deriving DecidableEq, Repr

/-- The mode bits 7-8 of the flags select; 0b11 is reserved (R48). -/
def RMode.ofBits : Nat → Option RMode
  | 0 => some .nearest | 1 => some .zero | 2 => some .stochastic | _ => none

/-- The four flags one conversion of one element can raise (R55). -/
structure Ev where
  inv : Bool := false
  sat : Bool := false
  flu : Bool := false
  inx : Bool := false
  deriving DecidableEq, Repr

/-- Sticky flags and the three counts of a completion record (R56, R57). -/
structure Acc where
  flags : Ev := {}
  satN : Nat := 0
  fluN : Nat := 0
  invN : Nat := 0
  deriving DecidableEq, Repr

/-- The OR of two sets of flags. -/
def Ev.or (a b : Ev) : Ev :=
  { inv := a.inv || b.inv, sat := a.sat || b.sat, flu := a.flu || b.flu, inx := a.inx || b.inx }

/-- The flag word of bytes 6-7 of a completion record (R56). -/
def Ev.toNat (a : Ev) : Nat := a.inv.toNat + 2 * a.sat.toNat + 4 * a.flu.toNat + 8 * a.inx.toNat

/-- The flags a flag word names. -/
def Ev.ofNat (n : Nat) : Ev := { inv := bit n 0, sat := bit n 1, flu := bit n 2, inx := bit n 3 }

/-- One element event at one conversion point (R57). -/
def Acc.add (a : Acc) (e : Ev) : Acc :=
  { flags := a.flags.or e, satN := stick32 (a.satN + e.sat.toNat),
    fluN := stick32 (a.fluN + e.flu.toNat), invN := stick32 (a.invN + e.inv.toNat) }

/-- Two accumulations joined (R56, R57). -/
def Acc.join (a b : Acc) : Acc :=
  { flags := a.flags.or b.flags, satN := stick32 (a.satN + b.satN),
    fluN := stick32 (a.fluN + b.fluN), invN := stick32 (a.invN + b.invN) }

/-- `mag` with a sign. -/
def sgn (neg : Bool) (mag : Nat) : Int := if neg then -(mag : Int) else (mag : Int)

/-- The integer `v` as an exact value; zero is +0. -/
def Num.ofScaled (v : Int) (e : Int) : Num := .fin (decide (v < 0)) v.natAbs e

/-- The integer `v` as an exact value. -/
def Num.ofInt (v : Int) : Num := Num.ofScaled v 0

/-- `2^k` for an exponent that is not negative. -/
def pow2 (k : Int) : Nat := 2 ^ k.toNat

/-- The value as an integer times `2^e`, for `e` at most its own exponent. -/
def Num.at (x : Num) (e : Int) : Int :=
  match x with
  | .fin n m ex => sgn n (m * pow2 (ex - e))
  | _ => 0

/-- The exponent a value is held at. -/
def Num.exp : Num → Int
  | .fin _ _ e => e
  | _ => 0

/-- A value with its sign inverted. -/
def Num.neg : Num → Num
  | .nan => .nan
  | .inf n => .inf (!n)
  | .fin n m e => .fin (!n) m e

/-- A value without its sign. -/
def Num.abs : Num → Num
  | .nan => .nan
  | .inf _ => .inf false
  | .fin _ m e => .fin false m e

/-- NaN. -/
def Num.isNan : Num → Bool
  | .nan => true
  | _ => false

/-- A signed infinity. -/
def Num.isInf : Num → Bool
  | .inf _ => true
  | _ => false

/-- A zero of either sign. -/
def Num.isZero : Num → Bool
  | .fin _ m _ => m == 0
  | _ => false

/-- The sign of a value. -/
def Num.isNeg : Num → Bool
  | .inf n => n
  | .fin n _ _ => n
  | .nan => false

/-- The sum of two finite values; an exact zero is +0 unless both are -0. -/
def finAdd (a b : Num) : Num :=
  let e := min a.exp b.exp
  let v := a.at e + b.at e
  if v = 0 then .fin (a.isNeg && b.isNeg) 0 0 else Num.ofScaled v e

/-- The exact sum and whether it is invalid (R124: infinity minus infinity). -/
def Num.add (a b : Num) : Num × Bool :=
  match a, b with
  | .nan, _ => (.nan, false)
  | _, .nan => (.nan, false)
  | .inf n, .inf k => if n = k then (.inf n, false) else (.nan, true)
  | .inf n, _ => (.inf n, false)
  | _, .inf n => (.inf n, false)
  | a, b => (finAdd a b, false)

/-- The exact product and whether it is invalid (R124: zero times infinity). -/
def Num.mul (a b : Num) : Num × Bool :=
  match a, b with
  | .nan, _ => (.nan, false)
  | _, .nan => (.nan, false)
  | .inf n, .inf k => (.inf (n != k), false)
  | .inf n, .fin k m _ => if m = 0 then (.nan, true) else (.inf (n != k), false)
  | .fin k m _, .inf n => if m = 0 then (.nan, true) else (.inf (n != k), false)
  | .fin n m e, .fin k l f => (.fin (n != k) (m * l) (e + f), false)

/-- a × b + c with one exact result (R124). -/
def Num.fma (a b c : Num) : Num × Bool :=
  if a.isNan || b.isNan || c.isNan then (.nan, false)
  else
    let p := Num.mul a b
    if p.2 then (.nan, true) else Num.add p.1 c

/-- Numerical order of two finite or infinite values (NaN never reaches it). -/
def Num.lt (a b : Num) : Bool :=
  match a, b with
  | .inf n, .inf k => n && !k
  | .inf n, .fin _ _ _ => n
  | .fin _ _ _, .inf n => !n
  | .fin _ _ _, .fin _ _ _ =>
    let e := min a.exp b.exp
    decide (a.at e < b.at e)
  | _, _ => false

/-- Equality of exact values; the two zeros are equal. -/
def Num.eqv (a b : Num) : Bool :=
  !a.isNan && !b.isNan && !Num.lt a b && !Num.lt b a

/-- floor(log2 |x|) of a finite non-zero value. -/
def Num.flog2 : Num → Int
  | .fin _ m e => (Nat.log2 m : Int) + e
  | _ => 0

/-- v × 2^k rounded to an integer: nearest with ties to even, toward zero, or R49's stochastic choice
with generator word `r`. -/
def roundScaled (md : RMode) (r : Nat) (v : Int) (k : Int) : Int :=
  if 0 ≤ k then v * (pow2 k : Int)
  else
    let d : Int := (pow2 (-k) : Int)
    let q := v / d
    let rem := v % d
    if rem = 0 then q
    else match md with
      | .nearest => if 2 * rem < d then q else if d < 2 * rem then q + 1 else if q % 2 = 0 then q else q + 1
      | .zero => if 0 ≤ v then q else q + 1
      | .stochastic => if (r : Int) < rem * (2 ^ 32 : Nat) / d then q + 1 else q

/-- v × 2^k is an integer. -/
def scaledExact (v : Int) (k : Int) : Bool :=
  if 0 ≤ k then true else decide (v % (pow2 (-k) : Int) = 0)

/-- v × 2^k < n. -/
def scaledLt (v : Int) (k : Int) (n : Int) : Bool :=
  if 0 ≤ k then decide (v * (pow2 k : Int) < n) else decide (v < n * (pow2 (-k) : Int))

/-- n < v × 2^k. -/
def scaledGt (v : Int) (k : Int) (n : Int) : Bool :=
  if 0 ≤ k then decide (n < v * (pow2 k : Int)) else decide (n * (pow2 (-k) : Int) < v)

/-- The range of an integer format (R33). -/
def intRange : Fmt → Int × Int
  | .s4 => (-8, 7) | .u4 => (0, 15) | .s8 => (-128, 127) | .u8 => (0, 255)
  | .s32 => (-2147483648, 2147483647)
  | .bs4 => (-8, 7) | .bs8 => (-128, 127) | .bu8 => (0, 255)
  | _ => (0, 0)

/-- A finite value clamped and rounded to an integer of the range `lo..hi` (R50). -/
def finToInt (md : RMode) (r : Nat) (lo hi : Int) (v k : Int) : Int × Ev :=
  if scaledLt v k lo then (lo, { sat := true, inx := true })
  else if scaledGt v k hi then (hi, { sat := true, inx := true })
  else
    let q := roundScaled md r v k
    (q, { flu := decide (q = 0 ∧ v ≠ 0), inx := !scaledExact v k })

/-- Conversion to the integer range `lo..hi` (R50, R53). -/
def convRange (md : RMode) (r : Nat) (lo hi : Int) : Num → Int × Ev
  | .nan => (0, { inv := true })
  | .inf n => (if n then lo else hi, { sat := true })
  | .fin n m e => finToInt md r lo hi (sgn n m) e

/-- Conversion to an integer format (R50). -/
def convInt (f : Fmt) (md : RMode) (r : Nat) (x : Num) : Int × Ev :=
  convRange md r (intRange f).1 (intRange f).2 x

/-- Significand bits of a floating format (R39). -/
def Fmt.sig : Fmt → Nat
  | .bf16 => 8 | .lf32 => 21 | _ => 24

/-- Exponent bias (R39). -/
def Fmt.bias : Fmt → Int
  | .lf32 => 1023 | _ => 127

/-- Exponent of the smallest normal value (R39). -/
def Fmt.emin : Fmt → Int
  | .lf32 => -1022 | _ => -126

/-- Fraction bits (R39). -/
def Fmt.frac (f : Fmt) : Nat := f.sig - 1

/-- The largest exponent field of a finite value (R39). -/
def Fmt.emaxField : Fmt → Nat
  | .lf32 => 2046 | _ => 254

/-- The sign bit of a floating encoding. -/
def Fmt.signBit (f : Fmt) (neg : Bool) : Nat := if neg then 2 ^ (f.elemBits - 1) else 0

/-- The canonical NaN (R40). -/
def Fmt.canonNan : Fmt → Nat
  | .bf16 => 0x7FC0 | .lf32 => 0x7FF80000 | _ => 0x7FC00000

/-- The largest finite encoding (R39). -/
def Fmt.maxBits (f : Fmt) : Nat := f.emaxField * 2 ^ f.frac + (2 ^ f.frac - 1)

/-- The encoding of an infinity (BF16 and FP32 only). -/
def Fmt.infBits (f : Fmt) : Nat := (f.emaxField + 1) * 2 ^ f.frac

/-- The encoding of the non-zero magnitude a × 2^q, which lies on the format's grid. -/
def encodeMag (f : Fmt) (a : Nat) (q : Int) : Nat :=
  let l := Nat.log2 a
  let k : Int := (l : Int) + q
  if k < f.emin then a
  else
    let m := if l ≤ f.frac then a * 2 ^ (f.frac - l) else a / 2 ^ (l - f.frac)
    (k + f.bias).toNat * 2 ^ f.frac + (m - 2 ^ f.frac)

/-- The exponent of the last place a value is rounded at (R51). -/
def quantum (f : Fmt) (k : Int) : Int :=
  if f = .lf32 then k - 20 else max (k - f.frac) (f.emin - f.frac)

/-- Conversion to a floating format (R51, R53). -/
def convFloat (f : Fmt) (md : RMode) (r : Nat) : Num → Nat × Ev
  | .nan => (f.canonNan, {})
  | .inf n => if f = .lf32 then (f.signBit n + f.maxBits, { sat := true }) else (f.signBit n + f.infBits, {})
  | .fin n m e =>
    if m = 0 then (f.signBit n, {})
    else
      let q := quantum f ((Nat.log2 m : Int) + e)
      let a := (roundScaled md r (sgn n m) (e - q)).natAbs
      if a = 0 then (f.signBit n, { flu := true, inx := true })
      else
        let k := (Nat.log2 a : Int) + q
        if f = .lf32 ∧ k < f.emin then (f.signBit n, { flu := true, inx := true })
        else if (f.emaxField : Int) - f.bias < k then (f.signBit n + f.maxBits, { sat := true, inx := true })
        else (f.signBit n + encodeMag f a q, { inx := !scaledExact (sgn n m) (e - q) })

/-- The top of XA128 (R54). -/
def xaMax : Int := 2 ^ 127 - 1

/-- The bottom of XA128 (R54). -/
def xaMin : Int := -(2 ^ 127)

/-- An exact integer brought into the range of XA128, and whether it saturated (R54). -/
def xaClamp (v : Int) : Int × Bool :=
  if xaMax < v then (xaMax, true) else if v < xaMin then (xaMin, true) else (v, false)

/-- Conversion to XA128 with window `T`, always to nearest even (R48, R53, R54). -/
def convXa (T : Int) : Num → Int × Ev
  | .nan => (0, { inv := true })
  | .inf n => (if n then xaMin else xaMax, { sat := true })
  | .fin n m e =>
    let v := sgn n m
    let k := e - (T - 127)
    let q := roundScaled .nearest 0 v k
    let c := xaClamp q
    (c.1, { sat := c.2, flu := decide (q = 0 ∧ m ≠ 0), inx := c.2 || !scaledExact v k })

/-- The exact value of an XA128 integer in window `T` (R41, R54: a zero is +0). -/
def xaNum (T : Int) (v : Int) : Num := Num.ofScaled v (T - 127)

/-- The two's complement pattern of a non-block element, from its integer or floating encoding. -/
def convScalar (f : Fmt) (md : RMode) (r : Nat) (x : Num) : Nat × Ev :=
  if f.isFloat then convFloat f md r x
  else
    let c := convInt f md r x
    (unsigned f.elemBits c.1, c.2)

/-- The exact value of a floating encoding (R39). -/
def decFloat (f : Fmt) (b : Nat) : Num :=
  let fr := b % 2 ^ f.frac
  let e := (b / 2 ^ f.frac) % (f.emaxField + 2)
  let n := bit b (f.elemBits - 1)
  if e = 0 then (if f = .lf32 then .fin n 0 0 else .fin n fr (f.emin - f.frac))
  else if e = f.emaxField + 1 then (if f = .lf32 ∨ fr ≠ 0 then .nan else .inf n)
  else .fin n (2 ^ f.frac + fr) ((e : Int) - f.bias - f.frac)

/-- The exact value of one element of a format without blocks; XA128 needs its window. -/
def decScalar (f : Fmt) (T : Int) (b : Nat) : Num :=
  match f with
  | .s4 | .s8 | .s32 | .bs4 | .bs8 => Num.ofInt (signed f.elemBits b)
  | .u4 | .u8 | .bu8 => Num.ofInt (b % 2 ^ f.elemBits : Nat)
  | .xa128 => xaNum T (signed 128 b)
  | .bf16 | .fp32 | .lf32 => decFloat f b

/-- The mantissa of a block element as an integer (R36). -/
def mantissa (f : Fmt) (m : Nat) : Int :=
  match f with
  | .u4 | .u8 | .bu8 => ((m % 2 ^ f.elemBits : Nat) : Int)
  | _ => signed f.elemBits m

/-- The exact value of a block element (R36). -/
def decBlockElem (f : Fmt) (e m : Nat) : Num :=
  if e = 255 then .nan
  else if e = 0 then .fin false 0 0
  else Num.ofScaled (mantissa f m) ((e : Int) - 127)

/-- K of R52. -/
def blockK : Fmt → Int
  | .bs4 => 2 | .bs8 => 6 | _ => 7

/-- The largest finite non-zero magnitude exponent of a list, if any. -/
def maxFlog2 : List Num → Option Int
  | [] => none
  | x :: xs =>
    if x.isZero || x.isNan || x.isInf then maxFlog2 xs
    else match maxFlog2 xs with
      | none => some x.flog2
      | some k => some (max k x.flog2)

/-- One mantissa of a block at exponent `e`, before saturation. -/
def blockRound (md : RMode) (e : Int) (x : Num) (r : Nat) : Int :=
  match x with
  | .fin n m ex => roundScaled md r (sgn n m) (ex - (e - 127))
  | _ => 0

/-- One saturated mantissa of a block at exponent `e` with its events (R52, R55); saturation is judged on the exact
scaled value, as R50 has it (log 60). -/
def blockElem (f : Fmt) (md : RMode) (e : Int) (x : Num) (r : Nat) : Int × Ev :=
  let lo := (intRange f).1
  let hi := (intRange f).2
  match x with
  | .nan => (0, { inv := true })
  | .inf n => (if n then lo else hi, { sat := true })
  | .fin n m ex =>
    let q := blockRound md e x r
    let y := Num.fin n m (ex - (e - 127))
    if m ≠ 0 ∧ n ∧ f = .bu8 then (0, { sat := true, inx := true })
    else if Num.lt (Num.ofInt hi) y then (hi, { sat := true, inx := true })
    else if Num.lt y (Num.ofInt lo) then (lo, { sat := true, inx := true })
    else (q, { flu := decide (q = 0 ∧ m ≠ 0), inx := !scaledExact (sgn n m) (ex - (e - 127)) })

/-- The exponent R52 chooses for a block with no infinity, after at most one increment. -/
def blockExp (f : Fmt) (md : RMode) (xs : List (Num × Nat)) (k : Int) : Int :=
  let e := min (max (k - blockK f + 127) 1) 254
  let high := xs.any (fun x =>
    let q := blockRound md e x.1 x.2
    decide ((intRange f).2 < q) || (decide (f ≠ .bu8) && decide (q < (intRange f).1)))
  if high && decide (e < 254) then e + 1 else e

/-- The exponent the elements of a block are rounded at (R52): 254 beside an infinity, 1 in a block of zeros. -/
def blockAt (f : Fmt) (md : RMode) (xs : List (Num × Nat)) : Int :=
  let vs := xs.map (·.1)
  if vs.any Num.isInf then 254
  else match maxFlog2 (if f = .bu8 then vs.filter (fun v => !v.isNeg) else vs) with
    | none => 1
    | some k => blockExp f md xs k

/-- Conversion of one block of elements, each with its generator word: exponent, mantissas, events
(R52, R53). -/
def convBlock (f : Fmt) (md : RMode) (xs : List (Num × Nat)) : Nat × List Int × Acc :=
  let vs := xs.map (·.1)
  let cand := if f = .bu8 then vs.filter (fun v => !v.isNeg) else vs
  let pick (e : Int) : List (Int × Ev) := xs.map (fun x => blockElem f md e x.1 x.2)
  let fin (e : Int) : Nat × List Int × Acc :=
    let qs := pick e
    let ms := qs.map (·.1)
    ((if ms.all (· == 0) then 0 else e.toNat), ms, (qs.map (·.2)).foldl Acc.add {})
  if vs.any Num.isInf then fin 254
  else match maxFlog2 cand with
    | none => (0, xs.map (fun _ => 0), ((pick 1).map (·.2)).foldl Acc.add {})
    | some k => fin (blockExp f md xs k)

/-- The limits of a sliced value in precision mode `p` (R62). -/
def sliceLimits : Nat → Int × Int
  | 1 => (-128, 127)
  | 2 => (-16448, 16319)
  | _ => (-2105408, 2088895)

/-- One element rounded at slice exponent `e` (R62). -/
def sliceRound (p : Nat) (e : Int) (x : Num) : Int :=
  match x with
  | .fin n m ex => roundScaled .nearest 0 (sgn n m) (ex + (7 * ((p : Int) - 1) - (e - 127)))
  | _ => 0

/-- One saturated sliced element and its events (R62, R64). -/
def sliceElem (p : Nat) (e : Int) (x : Num) : Int × Ev :=
  let lim := sliceLimits p
  match x with
  | .nan => (0, { inv := true })
  | .inf n => (if n then lim.1 else lim.2, { sat := true })
  | .fin n m ex =>
    let q := sliceRound p e x
    if lim.2 < q then (lim.2, { sat := true, inx := true })
    else if q < lim.1 then (lim.1, { sat := true, inx := true })
    else (q, { flu := decide (q = 0 ∧ m ≠ 0),
               inx := !scaledExact (sgn n m) (ex + (7 * ((p : Int) - 1) - (e - 127))) })

/-- The balanced digits of `q`, high digit first: `p` digits, each below the high one in -64..63 (R62). -/
def digits : Nat → Int → List Int
  | 0, _ => []
  | 1, q => [q]
  | p + 2, q =>
    let d := (q + 64) % 128 - 64
    digits (p + 1) ((q - d) / 128) ++ [d]

/-- The slicer of R62: block exponent, one digit list per element, and the events of R64. -/
def sliceBlock (p : Nat) (xs : List Num) : Nat × List (List Int) × Acc :=
  let fin (e : Int) : Nat × List (List Int) × Acc :=
    let qs := xs.map (sliceElem p e)
    let zero := qs.all (fun q => q.1 == 0)
    ((if zero then 0 else e.toNat), qs.map (fun q => digits p q.1), (qs.map (·.2)).foldl Acc.add {})
  if xs.any Num.isInf then fin 254
  else match maxFlog2 xs with
    | none => (0, xs.map (fun _ => digits p 0), (xs.map (fun x => (sliceElem p 1 x).2)).foldl Acc.add {})
    | some k =>
      let e := min (max (k - 6 + 127) 1) 254
      let lim := sliceLimits p
      let high := xs.any (fun x => decide (lim.2 < sliceRound p e x) || decide (sliceRound p e x < lim.1))
      fin (if high && decide (e < 254) then e + 1 else e)

/-- The block magnitude bound b of R67's table: mantissa formats, and slices by level. -/
def magBits (f : Fmt) (slice : Nat) : Int :=
  match f with
  | .s4 | .bs4 => 3
  | .u4 => 4
  | .s8 | .bs8 => 7
  | .u8 | .bu8 => 8
  | _ => if slice = 0 then 7 else 6

/-- The exact sum of finite values in the data-driven window of R72, with the entry events. -/
def dataSum (xs : List Num) : Num × Acc :=
  match maxFlog2 xs with
  | none => (.fin false 0 0, {})
  | some m =>
    let T := m + 1 + clog2 xs.length
    let es := xs.map (convXa T)
    let v := es.foldl (fun a e => a + e.1) 0
    (xaNum T v, (es.map (fun e => { e.2 with sat := false })).foldl Acc.add {})

/-- R72 with its special participants: the exact value, whether it is the invalid NaN, entry events. -/
def exactSum (xs : List Num) : Num × Bool × Acc :=
  if xs.any Num.isNan || (xs.any (fun x => x == .inf true) && xs.any (fun x => x == .inf false)) then
    (.nan, true, {})
  else if xs.any (fun x => x == .inf true) then (.inf true, false, {})
  else if xs.any (fun x => x == .inf false) then (.inf false, false, {})
  else
    let s := dataSum xs
    (s.1, false, s.2)

end Sys2Proof.Machine
end

