-- ==== Sys2Proof/Machine/Elem.lean ====
section
/-! DEFINITION. The correctly rounded functions of R74 and the seed tables of R126. A quotient or a root is
formed with a sticky last bit; a transcendental value is bracketed by two dyadic values in integer
arithmetic, at rising precision until both round to the same encoding. -/

namespace Sys2Proof.Machine
open Sys2Proof

/-- A quotient of magnitudes with at least 64 significant bits and a sticky last bit. -/
def stickyDiv (n : Bool) (m : Nat) (e : Int) (l : Nat) (f : Int) : Num :=
  let s := 66 + Nat.log2 l
  let q := m * 2 ^ s / l
  let st := if m * 2 ^ s % l = 0 then 0 else 1
  .fin n (2 * q + st) (e - f - s - 1)

/-- a / b as an exact or sticky value, and whether it is invalid (R124). -/
def Num.div (a b : Num) : Num × Bool :=
  match a, b with
  | .nan, _ => (.nan, false)
  | _, .nan => (.nan, false)
  | .inf _, .inf _ => (.nan, true)
  | .inf n, .fin k _ _ => (.inf (n != k), false)
  | .fin n _ _, .inf k => (.fin (n != k) 0 0, false)
  | .fin n m e, .fin k l f =>
    if l = 0 then (if m = 0 then (.nan, true) else (.inf (n != k), false))
    else if m = 0 then (.fin (n != k) 0 0, false)
    else (stickyDiv (n != k) m e l f, false)

/-- floor(sqrt n), one bit a step from bit `i - 1` down: `r` is the root of the bits read. -/
def isqrtGo (n : Nat) : Nat → Nat → Nat
  | 0, r => r
  | i + 1, r =>
    let c := r + 2 ^ i
    isqrtGo n i (if c * c ≤ n then c else r)

/-- floor(sqrt n). -/
def isqrt (n : Nat) : Nat := isqrtGo n (Nat.log2 n / 2 + 1) 0

/-- The square root of m × 2^e, sticky. -/
def stickySqrt (m : Nat) (e : Int) : Num :=
  let odd := e % 2
  let m' := (if odd = 0 then m else 2 * m) * 2 ^ 132
  let q := isqrt m'
  .fin false (2 * q + (if q * q = m' then 0 else 1)) ((e - odd - 132) / 2 - 1)

/-- The reciprocal square root of m × 2^e, sticky. -/
def stickyRsqrt (m : Nat) (e : Int) : Num :=
  let odd := e % 2
  let m' := if odd = 0 then m else 2 * m
  let k := 66 + Nat.log2 m'
  let q := isqrt (2 ^ (2 * k) / m')
  .fin false (2 * q + (if q * q * m' = 2 ^ (2 * k) then 0 else 1)) (-((e - odd) / 2) - k - 1)

/-- Square root with R124's special results. -/
def Num.sqrt : Num → Num × Bool
  | .nan => (.nan, false)
  | .inf n => if n then (.nan, true) else (.inf false, false)
  | .fin n m e => if m = 0 then (.fin n 0 0, false) else if n then (.nan, true) else (stickySqrt m e, false)

/-- Reciprocal square root with R124's special results: a zero is a finite value whose reciprocal is an
infinity of its sign. -/
def Num.rsqrt : Num → Num × Bool
  | .nan => (.nan, false)
  | .inf n => if n then (.nan, true) else (.fin false 0 0, false)
  | .fin n m e => if m = 0 then (.inf n, false) else if n then (.nan, true) else (stickyRsqrt m e, false)

/-- The bracket of a value: two integers at one exponent, `lo × 2^ex ≤ value ≤ hi × 2^ex`. -/
structure Bracket where
  lo : Int
  hi : Int
  ex : Int
  deriving DecidableEq, Repr

/-- A bracket of `err` units either side of `v × 2^ex`. -/
def Bracket.around (v : Int) (err : Nat) (ex : Int) : Bracket := { lo := v - err, hi := v + err, ex := ex }

/-- sum of t^(2i+1)/(2i+1) × sign^i at `w` fraction bits, for `t = p/q`: `term` is t^(2i+1). -/
def atanGo (alt : Bool) (p q : Nat) : Nat → Nat → Int → Nat → Int
  | 0, _, acc, _ => acc
  | fuel + 1, i, acc, term =>
    if term = 0 then acc
    else
      let t : Int := (term / (2 * i + 1) : Nat)
      atanGo alt p q fuel (i + 1) (if alt && i % 2 = 1 then acc - t else acc + t) (term * p * p / (q * q))

/-- atan (alternating) or atanh of p/q < 1/2 at `w` fraction bits. -/
def atanSeries (alt : Bool) (p q w : Nat) : Int := atanGo alt p q (w + 4) 0 0 (2 ^ w * p / q)

/-- pi at `w` fraction bits (Machin: 16 atan(1/5) - 4 atan(1/239)); within 2^12 units for w below 2^12. -/
def piFix (w : Nat) : Int := 16 * atanSeries true 1 5 w - 4 * atanSeries true 1 239 w

/-- ln 2 at `w` fraction bits: 2 atanh(1/3). -/
def ln2Fix (w : Nat) : Int := 2 * atanSeries false 1 3 w

/-- Taylor series of exp for |r| < 1 at `w` fraction bits. -/
def expGo (w : Nat) (r : Int) : Nat → Nat → Int → Int → Int
  | 0, _, acc, _ => acc
  | fuel + 1, i, acc, term =>
    if term = 0 then acc
    else
      let t := term * r / ((2 ^ w : Nat) : Int) / ((i + 1 : Nat) : Int)
      expGo w r fuel (i + 1) (acc + t) (if t = -1 then 0 else t)

/-- exp of a fixed-point r with |r| < 1. -/
def expFix (w : Nat) (r : Int) : Int := expGo w r (w + 4) 0 (2 ^ w : Nat) (2 ^ w : Nat)

/-- v × 2^e at `w` fraction bits, rounded down. -/
def toFix (w : Nat) (v e : Int) : Int :=
  let k := e + w
  if 0 ≤ k then v * (pow2 k : Int) else v / (pow2 (-k) : Int)

/-- The bracket of exp(v × 2^e) at working precision `w` (|x| below 2^12): x = k ln 2 + r. -/
def expBracket (w : Nat) (v e : Int) : Bracket :=
  let g := w + 32
  let x := toFix g v e
  let l2 := ln2Fix g
  let k := x / l2
  Bracket.around (expFix g (x - k * l2)) (2 ^ 28) (k - g)

/-- The bracket of 2^(v × 2^e). -/
def exp2Bracket (w : Nat) (v e : Int) : Bracket :=
  let g := w + 32
  let x := toFix g v e
  let one : Int := (2 ^ g : Nat)
  let k := x / one
  Bracket.around (expFix g ((x - k * one) * ln2Fix g / one)) (2 ^ 24) (k - g)

/-- ln(m × 2^e) at `g` fraction bits: m is scaled into [3/4, 3/2). -/
def lnFix (g m : Nat) (e : Int) : Int :=
  let l := Nat.log2 m
  let up := 3 * 2 ^ l ≤ 2 * m
  let d : Nat := if up then 2 ^ (l + 1) else 2 ^ l
  let k := (l : Int) + e + (if up then 1 else 0)
  let num : Int := (m : Int) - d
  let a := atanGo false num.natAbs (m + d) (g + 4) 0 0 (2 ^ g * num.natAbs / (m + d))
  k * ln2Fix g + (if 0 ≤ num then 2 * a else -(2 * a))

/-- The bracket of ln x. -/
def lnBracket (w m : Nat) (e : Int) : Bracket :=
  let g := w + 32
  Bracket.around (lnFix g m e) (2 ^ 24) (-g)

/-- The bracket of log2 x. -/
def log2Bracket (w m : Nat) (e : Int) : Bracket :=
  let g := w + 32
  Bracket.around (lnFix g m e * ((2 ^ g : Nat) : Int) / ln2Fix g) (2 ^ 26) (-g)

/-- Taylor series of sine (`odd`) or cosine for |r| < 1 at `w` fraction bits. -/
def sinGo (w : Nat) (r2 : Int) : Nat → Nat → Int → Int → Int
  | 0, _, acc, _ => acc
  | fuel + 1, i, acc, term =>
    if term = 0 then acc
    else
      let t := -(term * r2 / ((2 ^ w : Nat) : Int) / (((i + 1) * (i + 2) : Nat) : Int))
      sinGo w r2 fuel (i + 2) (acc + t) (if t = 1 then 0 else t)

/-- The bracket of sin x (`c = 0`) or cos x (`c = 1`): x = k pi/2 + r, with pi taken to the operand's
exponent plus the working precision. -/
def sinBracket (c : Int) (w : Nat) (v e : Int) : Bracket :=
  let g := w + 32
  let big := g + 40 + ((Nat.log2 v.natAbs : Int) + e).toNat
  let x := toFix big v e
  let h := piFix big / 2
  let k := (x + h / 2) / h
  let r := (x - k * h) / ((2 ^ (big - g) : Nat) : Int)
  let one : Int := (2 ^ g : Nat)
  let r2 := r * r / one
  let q := (k + c) % 4
  let y := if q % 2 = 0 then sinGo g r2 (g + 4) 1 r r else sinGo g r2 (g + 4) 0 one one
  Bracket.around (if q < 2 then y else -y) (2 ^ 24) (-g)

/-- The bracket of tanh(v × 2^e) = 1 - 2 / (exp(2x) + 1). -/
def tanhBracket (w : Nat) (v e : Int) : Bracket :=
  let g := w + 32
  let b := expBracket (g + 200) v (e + 1)
  let one : Int := (2 ^ g : Nat)
  let ex := toFix (g + 64) b.lo b.ex
  let o : Int := (2 ^ (g + 64) : Nat)
  Bracket.around (one - 2 * one * o / (ex + o)) (2 ^ 24) (-g)

/-- The value both ends of a bracket round to in format `f`, at rising precision. -/
def bracketGo (f : Fmt) (b : Nat → Bracket) : Nat → Nat → Num
  | 0, w => Num.ofScaled (b w).lo (b w).ex
  | fuel + 1, w =>
    let k := b w
    let lo := Num.ofScaled k.lo k.ex
    if (convFloat f .nearest 0 lo).1 = (convFloat f .nearest 0 (Num.ofScaled k.hi k.ex)).1 then lo
    else bracketGo f b fuel (2 * w)

/-- The proxy of a transcendental value that rounds as the value does (64 to 8,192 bits). -/
def bracketed (f : Fmt) (b : Nat → Bracket) : Num := bracketGo f b 7 64

/-- 1 moved by far less than half a last place, upward or downward. -/
def nearOne (up : Bool) : Num := .fin false (if up then 2 ^ 90 + 1 else 2 ^ 90 - 1) (-90)

/-- A value whose exponential overflows or vanishes in every format. -/
def farExp (neg : Bool) : Num := .fin false 1 (if neg then -5000 else 5000)

/-- exp (R74, R124). -/
def Num.expF (f : Fmt) : Num → Num × Bool
  | .nan => (.nan, false)
  | .inf n => (if n then .fin false 0 0 else .inf false, false)
  | .fin n m e =>
    if m = 0 then (.fin false 1 0, false)
    else
      let k := (Nat.log2 m : Int) + e
      if 12 ≤ k then (farExp n, false)
      else if k < -40 then (nearOne (!n), false)
      else (bracketed f (fun w => expBracket w (sgn n m) e), false)

/-- exp2 (R74): a power of two is exact. -/
def Num.exp2F (f : Fmt) : Num → Num × Bool
  | .nan => (.nan, false)
  | .inf n => (if n then .fin false 0 0 else .inf false, false)
  | .fin n m e =>
    if m = 0 then (.fin false 1 0, false)
    else
      let k := (Nat.log2 m : Int) + e
      if 12 ≤ k then (farExp n, false)
      else if k < -40 then (nearOne (!n), false)
      else if scaledExact (sgn n m) e then (.fin false 1 (roundScaled .nearest 0 (sgn n m) e), false)
      else (bracketed f (fun w => exp2Bracket w (sgn n m) e), false)

/-- A logarithm with R124's special results, from its bracket and its exact cases. -/
def logSpecial (x : Num) (go : Nat → Int → Num) : Num × Bool :=
  match x with
  | .nan => (.nan, false)
  | .inf n => if n then (.nan, true) else (.inf false, false)
  | .fin n m e => if m = 0 then (.inf true, false) else if n then (.nan, true) else (go m e, false)

/-- ln (R74): ln 1 is +0. -/
def Num.lnF (f : Fmt) (x : Num) : Num × Bool :=
  logSpecial x (fun m e =>
    if m = 2 ^ Nat.log2 m ∧ (Nat.log2 m : Int) + e = 0 then .fin false 0 0
    else bracketed f (fun w => lnBracket w m e))

/-- log2 (R74): exact at powers of two. -/
def Num.log2F (f : Fmt) (x : Num) : Num × Bool :=
  logSpecial x (fun m e =>
    if m = 2 ^ Nat.log2 m then Num.ofInt ((Nat.log2 m : Int) + e)
    else bracketed f (fun w => log2Bracket w m e))

/-- x moved toward zero by far less than half a last place: sine and tanh of a tiny value. -/
def shrink (n : Bool) (m : Nat) (e : Int) : Num := .fin n (m * 2 ^ 90 - 1) (e - 90)

/-- sin (R74, R124: invalid at an infinity). -/
def Num.sinF (f : Fmt) : Num → Num × Bool
  | .nan => (.nan, false)
  | .inf _ => (.nan, true)
  | .fin n m e =>
    if m = 0 then (.fin n 0 0, false)
    else if (Nat.log2 m : Int) + e < -40 then (shrink n m e, false)
    else (bracketed f (fun w => sinBracket 0 w (sgn n m) e), false)

/-- cos. -/
def Num.cosF (f : Fmt) : Num → Num × Bool
  | .nan => (.nan, false)
  | .inf _ => (.nan, true)
  | .fin n m e =>
    if m = 0 then (.fin false 1 0, false)
    else if (Nat.log2 m : Int) + e < -40 then (nearOne false, false)
    else (bracketed f (fun w => sinBracket 1 w (sgn n m) e), false)

/-- tanh. -/
def Num.tanhF (f : Fmt) : Num → Num × Bool
  | .nan => (.nan, false)
  | .inf n => (.fin n 1 0, false)
  | .fin n m e =>
    if m = 0 then (.fin n 0 0, false)
    else
      let k := (Nat.log2 m : Int) + e
      if k < -40 then (shrink n m e, false)
      else if 6 ≤ k then ((if n then Num.neg (nearOne false) else nearOne false), false)
      else (bracketed f (fun w => tanhBracket w (sgn n m) e), false)

/-- The functions of R74. -/
inductive SeqFn where
  | rcp | rsq | div | sqrt | exp | exp2 | log | log2 | sin | cos | tanh
  deriving DecidableEq, Repr

/-- The exact, sticky or bracketed value of a sequence function, and whether the operation is invalid. -/
def seqValue (fn : SeqFn) (f : Fmt) (a b : Num) : Num × Bool :=
  match fn with
  | .rcp => Num.div (Num.ofInt 1) a
  | .rsq => Num.rsqrt a
  | .div => Num.div a b
  | .sqrt => Num.sqrt a
  | .exp => Num.expF f a
  | .exp2 => Num.exp2F f a
  | .log => Num.lnF f a
  | .log2 => Num.log2F f a
  | .sin => Num.sinF f a
  | .cos => Num.cosF f a
  | .tanh => Num.tanhF f a

/-- An encoding with the invalid flag of R124 joined in. -/
def invalidOr (bad : Bool) (c : Nat × Ev) : Nat × Ev := (c.1, { c.2 with inv := c.2.inv || bad })

/-- A sequence function in FP32 or LF32: always to nearest even (R74). -/
def seqRound (fn : SeqFn) (f : Fmt) (a b : Num) : Nat × Ev :=
  let v := seqValue fn f a b
  invalidOr v.2 (convFloat f .nearest 0 v.1)

/-- A sequence function in any floating format: BF16 rounds the FP32 result in the instruction's mode
(R74, R124). The flags are those of both roundings of the one result. -/
def seqApply (fn : SeqFn) (f : Fmt) (md : RMode) (r : Nat) (a b : Num) : Nat × Ev :=
  if f = .bf16 then
    let x := seqRound fn .fp32 a b
    let y := convFloat .bf16 md r (decFloat .fp32 x.1)
    (y.1, x.2.or y.2)
  else seqRound fn f a b

/-- 2^k as an exact value. -/
def numPow2 (k : Int) : Num := .fin false 1 k

/-- An entry of seed table `tab` at index `i`, rounded to nearest even to 24 bits (R126). -/
def seedEntry (tab i : Nat) : Num :=
  let one := Num.ofInt 1
  let x : Num :=
    match tab with
    | 0 => (Num.div (Num.ofInt 256) (Num.ofInt (2 * i + 257 : Nat))).1
    | 1 => (Num.rsqrt (.fin false (128 + (2 * (i % 64) + 1)) (-7 + (i / 64 : Nat)))).1
    | 2 => (Num.exp2F .fp32 (.fin false i (-7))).1
    | _ => if i = 0 then .fin false 0 0 else (Num.log2F .fp32 (.fin false (128 + i) (-7))).1
  if i = 0 ∧ tab = 2 then one else decFloat .fp32 (convFloat .fp32 .nearest 0 x).1

/-- The top `k` bits of the fraction of a normalised magnitude (R126). -/
def fracTop (m k : Nat) : Nat :=
  let l := Nat.log2 m
  (m - 2 ^ l) * 2 ^ k / 2 ^ l

/-- A TLU on the exact value of an FP32 or LF32 operand (R126). -/
def tluValue (tab : Nat) : Num → Num
  | .nan => .nan
  | .inf _ => .nan
  | .fin n m ex =>
    if m = 0 then .nan
    else
      let e := (Nat.log2 m : Int) + ex
      match tab with
      | 0 => (match seedEntry 0 (fracTop m 7) with
              | .fin _ a b => .fin n a (b - e)
              | x => x)
      | 1 => (match seedEntry 1 ((e % 2).toNat * 64 + fracTop m 6) with
              | .fin s a b => .fin s a (b - (e - e % 2) / 2)
              | x => x)
      | 2 => seedEntry 2 ((toFix 7 (sgn n m) ex % 128).toNat)
      | _ => seedEntry 3 (fracTop m 7)

end Sys2Proof.Machine
end

