-- ==== Sys2Proof/Machine/Gen.lean ====
section
/-! DEFINITION. The counter-based generator of R190: a 32-bit word from seed, step, operation identifier and
element index. -/

namespace Sys2Proof.Machine
open Sys2Proof

/-- Rotation of a 32-bit word to the left. -/
def rotl32 (v n : Nat) : Nat := (v * 2 ^ n + v / 2 ^ (32 - n)) % 2 ^ 32

/-- The ten rounds of R190. -/
def genRounds : Nat → Nat → Nat → Nat → Nat → Nat → Nat → Nat
  | 0, a, _, c, _, _, _ => Nat.xor a c
  | n + 1, a, b, c, d, k0, k1 =>
    let p := Nat.xor a k0 * 0xA7C15E4B
    let q := Nat.xor c k1 * 0x93D765DD
    genRounds n (Nat.xor b (q / 2 ^ 32) % 2 ^ 32) (rotl32 (q % 2 ^ 32) 11) (Nat.xor d (p / 2 ^ 32) % 2 ^ 32)
      (rotl32 (p % 2 ^ 32) 17) ((k0 + 0x4F1BBCDD) % 2 ^ 32) ((k1 + 0x8A5CD789) % 2 ^ 32)

/-- A generator word (R190). -/
def genWord (seed step opid elem : Nat) : Nat :=
  genRounds 10 (elem % 2 ^ 32) (elem / 2 ^ 32 % 2 ^ 32) (step % 2 ^ 32) (opid % 2 ^ 16) (seed % 2 ^ 32)
    (seed / 2 ^ 32 % 2 ^ 32)

end Sys2Proof.Machine
end

