-- ==== Sys2Proof/Config.lean ====
section
/-! DEFINITION. What an implementation fixes and the values the spec leaves open. A free value is an opaque
constant with no body: nothing proves a value of it. -/

namespace Sys2Proof

/-- A value the spec leaves open, drawn with a counter the step advances (log 1). -/
opaque Config.freeValue : Nat → Nat

/-- A value the spec leaves open in a descriptor's result, which R81 keeps the same from run to run: by the job seed, the
Ephemeris version, the descriptor and the place of the value in its work (log 150). -/
opaque Config.openValue : List Nat → Nat

/-- SHA-384 of a byte string, an external standard the spec names and does not restate (log 7). -/
opaque Config.sha384 : List Byte → Nat

/-- The order n of the base point of brainpoolP384r1 (RFC 5639, log 160). -/
def Config.brainpoolOrder : Nat :=
  0x8CB91E82A3386D280F5D6F7E50E641DF152F7109ED5456B31F166E6CAC0425A7CF3AB6AF6B7FC3103B883202E9046565

/-- ECDSA verification on brainpoolP384r1 of a 384-bit hash with a 768-bit public key and a 768-bit
signature whose r and s are in range, an external standard (log 7). -/
opaque Config.ecdsaValid : Nat → Nat → Nat → Bool

/-- The capabilities the SPDM responder offers (R469). -/
inductive SpdmCap where
  | cert | chal | measSigned | measFresh | keyEx | encrypt | mac | hbeat | keyUpd
  deriving DecidableEq, Repr

/-- The hashes of SPDM the responder offers (R469). -/
inductive SpdmHash where
  | sha384
  deriving DecidableEq, Repr

/-- The signature algorithms: extended asymmetric, in the registry of the PCI-SIG under a vendor ID (R469). -/
inductive SpdmSig where
  | extended (vendor algorithm : Nat)
  deriving DecidableEq, Repr

/-- The key exchanges (R469). -/
inductive SpdmDhe where
  | secp384r1
  deriving DecidableEq, Repr

/-- The ciphers of a session (R469). -/
inductive SpdmAead where
  | aes256Gcm
  deriving DecidableEq, Repr

/-- What the responder offers (R469): versions of DSP0274 and DSP0277 as major × 16 + minor, capabilities, algorithms,
sessions at once. -/
structure SpdmOffer where
  versions : List Nat
  secured : List Nat
  caps : List SpdmCap
  hash : SpdmHash
  sig : SpdmSig
  dhe : SpdmDhe
  aead : SpdmAead
  sessions : Nat
  deriving DecidableEq, Repr

/-- The DMTF type of a measurement (R468). -/
inductive MeasType where
  | digest | rawBits
  deriving DecidableEq, Repr

/-- The answer of the SPDM responder to a request, an external standard (DSP0274) the spec names and does
not restate: what it offers, session and transcript state, the chains of its certificate slots, the private keys of the
slots, the measurements with their types, the request; response bytes out (log 7). -/
opaque Config.spdmResponse : SpdmOffer → Nat → List (List (List Byte)) → List Nat → List (MeasType × List Byte) → List Byte →
  List Byte

/-- The fused DEVICE_SECRET, which only the key derivation engine reads (R458, R470, log 5). -/
opaque Config.deviceSecret : Nat

/-- The key derivation engine: a private key from DEVICE_SECRET and measurements (R470, log 141). -/
opaque Config.deriveKey : Nat → List (List Byte) → Nat

/-- The public key of a private key on brainpoolP384r1 (R470, log 141). -/
opaque Config.publicKey : Nat → Nat

/-- The Trorov root certificate, X.509 v3 DER (R470, log 141). -/
opaque Config.rootCert : List Byte

/-- The Trorov LN4 device CA certificate (R470, log 141). -/
opaque Config.deviceCaCert : List Byte

/-- The DeviceID certificate: the template in ROM with ID_SERIAL, the public key and DEVCERT_SIG (R470, log 141). -/
opaque Config.deviceIdCert : Nat → Nat → Nat → List Byte

/-- The alias certificate: signed by the DeviceID key, over the alias public key, FW_VERSION and SVN (R470, log 141). -/
opaque Config.aliasCert : Nat → Nat → Nat → Nat → List Byte

/-- The state of the IDE streams after an SPDM request, which may carry IDE_KM (DSP0277, log 7). -/
opaque Config.ideAfter : Nat → List Byte → Nat

/-- The secured sessions open after an SPDM request (DSP0274, log 7). -/
opaque Config.sessionsAfter : Nat → List Byte → Nat

/-- Power-up contents of configuration space by byte offset where the spec does not give them (PCIe, CXL 3.1, log 7). -/
opaque Config.configReset : Nat → Nat

/-- The power-up values of the CXL device and component registers by BAR0 offset (CXL 3.1, log 146). -/
opaque Config.deviceRegister : Nat → Nat

/-- Whether a CXL device or component register stands at a BAR0 offset (CXL 3.1, log 146). -/
opaque Config.deviceDefined : Nat → Bool

/-- Whether the CXL device or component register at a BAR0 offset is read only (CXL 3.1, log 146). -/
opaque Config.deviceReadOnly : Nat → Bool

/-- Where in the CXL device registers the primary mailbox stands: the BAR0 offset of its capabilities register over 64, past
0x40000 (CXL 3.1, log 146). -/
opaque Config.mailboxSlot : Nat

/-- The provisional ID that ENTDAA offers, drawn from ID_UNIQUE; the spec does not say which bits (R436, log 161). -/
opaque Config.provisionalId : Nat → Nat

/-- The fused identity values the spec programs at manufacture and does not give (R458, log 5). -/
def Config.fuseSerial : Nat := 0

/-- Fused unique identity (log 5). -/
def Config.fuseUnique : Nat := 1

/-- Fused package revision (log 5). -/
def Config.fusePkgRev : Nat := 1

/-- Fused module revision (log 5). -/
def Config.fuseModuleRev : Nat := 1

/-- The levels of the SLOT_ID straps, which the board sets (R529, log 5). -/
opaque Config.slotId : Nat

/-- The fused key hashes the spec programs at manufacture and does not give (R458, log 5). -/
opaque Config.keyHash : Nat → Nat

/-- The fused DeviceID signature (R458, log 5). -/
opaque Config.devcertSig : Nat

/-- SHA-384 of the boot ROM (R468, log 5). -/
opaque Config.romHash : Nat

/-- The bytes that measurement 2 hashes, from items of so many bits and such a value in table order; the spec does not say
in which order an item's bits lie nor how items of fewer than 8 bits are packed (R468, log 5). -/
opaque Config.packFuses : List (Nat × Nat) → List Byte

/-- The MCTP base and message type versions the module reports, by message type (DSP0236, log 52). -/
opaque Config.mctpVersion : Nat → Nat

/-- The low 12 bits of the JTAG IDCODE, which IEEE 1149.1 forms from the maker's identity and the spec does not give (R495,
log 159). -/
opaque Config.jtagMaker : Nat

/-- The vendor ID that configuration space reports, as SPDM and MCTP carry it (R436, log 7). -/
opaque Config.vendorId : Nat

end Sys2Proof
end

