-- ==== Sys2Proof/Machine/Keys.lean ====
section
/-! DEFINITION. The dictionary entries the chapters list (R444): one packed key (R11) for each, and the
table of types, access codes, masks, sizes and power-up values (R422-R426). An entry with a sub-index or an
index of its own family is one row with a stride and a count. -/

namespace Sys2Proof.Machine
open Sys2Proof

/-- EPH_SUPPORTED (R61). -/
def Key.ephSupported : Nat := 0x22000100
/-- EPH_PIN (R61). -/
def Key.ephPin : Nat := 0x22000200
/-- EPH_REJECTS (R61). -/
def Key.ephRejects : Nat := 0x22000300
/-- ARR_COUNT (R113). -/
def Key.arrCount : Nat := 0x20000100
/-- ARR_FEATURES (R113). -/
def Key.arrFeatures : Nat := 0x20000200
/-- ARR_STREAM_CYCLES (R113). -/
def Key.arrStreamCycles : Nat := 0x20001000
/-- ARR_HOLD_CYCLES (R113). -/
def Key.arrHoldCycles : Nat := 0x20001100
/-- ARR_LOGICAL_MACS (R113). -/
def Key.arrLogicalMacs : Nat := 0x20001200
/-- ARR_SWAPS (R113). -/
def Key.arrSwaps : Nat := 0x20001300
/-- ARR_SPARSE_META_FAULTS (R113). -/
def Key.arrSparseMetaFaults : Nat := 0x20002000
/-- ARR_EXPMAX_FAULTS (R113). -/
def Key.arrExpmaxFaults : Nat := 0x20002100
/-- ARR_COUNTER_CLEAR (R113). -/
def Key.arrCounterClear : Nat := 0x20003000
/-- VEC_COUNT (R141). -/
def Key.vecCount : Nat := 0x21000100
/-- VEC_FEATURES (R141). -/
def Key.vecFeatures : Nat := 0x21000200
/-- VEC_PROG_MAX (R141). -/
def Key.vecProgMax : Nat := 0x21000300
/-- VEC_LIMIT_DEFAULT (R141). -/
def Key.vecLimitDefault : Nat := 0x21000400
/-- VEC_ISSUE_CYCLES (R141). -/
def Key.vecIssueCycles : Nat := 0x21001000
/-- VEC_STALL_CYCLES (R141). -/
def Key.vecStallCycles : Nat := 0x21001100
/-- VEC_PORT_WAIT_CYCLES (R141). -/
def Key.vecPortWaitCycles : Nat := 0x21001200
/-- VEC_PROG_LOADS (R141). -/
def Key.vecProgLoads : Nat := 0x21001300
/-- VEC_VPROG_FAULTS (R141). -/
def Key.vecVprogFaults : Nat := 0x21002000
/-- VEC_TIMEOUTS (R141). -/
def Key.vecTimeouts : Nat := 0x21002100
/-- VEC_DRAIN_FAULTS (R141). -/
def Key.vecDrainFaults : Nat := 0x21002200
/-- VEC_COUNTER_CLEAR (R141). -/
def Key.vecCounterClear : Nat := 0x21003000
/-- DSP_QUEUE_COUNT (R184). -/
def Key.dspQueueCount : Nat := 0x22001000
/-- DSP_TRAIN_GUARD (R184). -/
def Key.dspTrainGuard : Nat := 0x22001100
/-- DSP_QUERY_RESERVE (R184). -/
def Key.dspQueryReserve : Nat := 0x22001200
/-- DSP_FWD_RESERVE (R184). -/
def Key.dspFwdReserve : Nat := 0x22001300
/-- DSP_BATCH_WAIT (R184). -/
def Key.dspBatchWait : Nat := 0x22001400
/-- DSP_QUERY_BATCH_WAIT (R184). -/
def Key.dspQueryBatchWait : Nat := 0x22001500
/-- DSP_BIN_ROUND (R184). -/
def Key.dspBinRound : Nat := 0x22001600
/-- DSP_BIN_WAIT (R184). -/
def Key.dspBinWait : Nat := 0x22001700
/-- DSP_STRANDS_RESIDENT (R184). -/
def Key.dspStrandsResident : Nat := 0x22002000
/-- DSP_STRANDS_FORWARDED (R184). -/
def Key.dspStrandsForwarded : Nat := 0x22002100
/-- DSP_SPILL_BATCHES (R184). -/
def Key.dspSpillBatches : Nat := 0x22002200
/-- DSP_GUARD_GRANTS (R184). -/
def Key.dspGuardGrants : Nat := 0x22002300
/-- QUEUE_BASE (R184). -/
def Key.queueBase : Nat := 0x22010000
/-- QUEUE_SIZE (R184). -/
def Key.queueSize : Nat := 0x22010001
/-- QUEUE_CLASS (R184). -/
def Key.queueClass : Nat := 0x22010002
/-- QUEUE_COMPL_BASE (R184). -/
def Key.queueComplBase : Nat := 0x22010003
/-- QUEUE_ENABLE (R184). -/
def Key.queueEnable : Nat := 0x22010004
/-- QUEUE_PRODUCER (R184). -/
def Key.queueProducer : Nat := 0x22010005
/-- QUEUE_COMPL_CONSUMER (R184). -/
def Key.queueComplConsumer : Nat := 0x22010006
/-- QUEUE_FRONTIER (R184). -/
def Key.queueFrontier : Nat := 0x22010007
/-- QUEUE_FAULT_LATCH (R184). -/
def Key.queueFaultLatch : Nat := 0x22010008
/-- QUEUE_ABORT (R184). -/
def Key.queueAbort : Nat := 0x22010009
/-- PRD_BIND_SLOTS (R185). -/
def Key.prdBindSlots : Nat := 0x23000100
/-- PRD_ALLOW_COUNT_TRAINING (R185). -/
def Key.prdAllowCountTraining : Nat := 0x23000200
/-- PRD_CONFIRMED (R185). -/
def Key.prdConfirmed : Nat := 0x23001000
/-- PRD_UNCONFIRMED (R185). -/
def Key.prdUnconfirmed : Nat := 0x23001100
/-- PRD_MADE_UP (R185). -/
def Key.prdMadeUp : Nat := 0x23001200
/-- PRD_COUNTED (R185). -/
def Key.prdCounted : Nat := 0x23001300
/-- PRD_REBUILDS (R185). -/
def Key.prdRebuilds : Nat := 0x23001400
/-- PRD_FAULTS (R185). -/
def Key.prdFaults : Nat := 0x23002000
/-- PRD_COUNTER_CLEAR (R185). -/
def Key.prdCounterClear : Nat := 0x23003000
/-- GEN_SEED (R220). -/
def Key.genSeed : Nat := 0x24000100
/-- SMP_COUNT (R220). -/
def Key.smpCount : Nat := 0x24000200
/-- NBL_COUNT (R220). -/
def Key.nblCount : Nat := 0x24000300
/-- SMP_FEATURES (R220). -/
def Key.smpFeatures : Nat := 0x24000400
/-- SMP_SLOTS (R220). -/
def Key.smpSlots : Nat := 0x24001000
/-- SMP_DRAWS (R220). -/
def Key.smpDraws : Nat := 0x24001100
/-- SMP_BUSY_CYCLES (R220). -/
def Key.smpBusyCycles : Nat := 0x24001200
/-- NBL_PAIR_TESTS (R220). -/
def Key.nblPairTests : Nat := 0x24002000
/-- NBL_EDGES (R220). -/
def Key.nblEdges : Nat := 0x24002100
/-- NBL_BUSY_CYCLES (R220). -/
def Key.nblBusyCycles : Nat := 0x24002200
/-- SMP_GRAPH_FAULTS (R220). -/
def Key.smpGraphFaults : Nat := 0x24003000
/-- NBL_OVERFLOWS (R220). -/
def Key.nblOverflows : Nat := 0x24003100
/-- NBL_CELL_FAULTS (R220). -/
def Key.nblCellFaults : Nat := 0x24003200
/-- SMP_COUNTER_CLEAR (R220). -/
def Key.smpCounterClear : Nat := 0x24004000
/-- GSE_COUNT (R258). -/
def Key.gseCount : Nat := 0x25000100
/-- GSE_FEATURES (R258). -/
def Key.gseFeatures : Nat := 0x25000200
/-- GSE_MAX_OUTSTANDING (R258). -/
def Key.gseMaxOutstanding : Nat := 0x25000300
/-- GSE_ROWS_GATHERED (R258). -/
def Key.gseRowsGathered : Nat := 0x25001000
/-- GSE_ADDEND_ROWS (R258). -/
def Key.gseAddendRows : Nat := 0x25001100
/-- GSE_BUSY_CYCLES (R258). -/
def Key.gseBusyCycles : Nat := 0x25001200
/-- GSE_INDEX_FAULTS (R258). -/
def Key.gseIndexFaults : Nat := 0x25002000
/-- GSE_VERSION_FAULTS (R258). -/
def Key.gseVersionFaults : Nat := 0x25002100
/-- GSE_SHADOW_FAULTS (R258). -/
def Key.gseShadowFaults : Nat := 0x25002200
/-- STG_UNGUARDED_ROWS (R258). -/
def Key.stgUnguardedRows : Nat := 0x25002300
/-- GSE_COUNTER_CLEAR (R258). -/
def Key.gseCounterClear : Nat := 0x25003000
/-- HRD_ENTRIES (R259). -/
def Key.hrdEntries : Nat := 0x26000100
/-- HRD_PIN_WAYS (R259). -/
def Key.hrdPinWays : Nat := 0x26000200
/-- HOT_MIB_PER_SLICE (R259). -/
def Key.hotMibPerSlice : Nat := 0x26000300
/-- SKETCH_PERIOD (R259). -/
def Key.sketchPeriod : Nat := 0x26000400
/-- TBL_LINGER_US (R259). -/
def Key.tblLingerUs : Nat := 0x26000500
/-- MIG_LINGER_US (R259). -/
def Key.migLingerUs : Nat := 0x26000600
/-- MIG_TIMEOUT_US (R259). -/
def Key.migTimeoutUs : Nat := 0x26000700
/-- HRD_PINNED (R259). -/
def Key.hrdPinned : Nat := 0x26001000
/-- HRD_CACHED (R259). -/
def Key.hrdCached : Nat := 0x26001100
/-- HRD_RELOCATED (R259). -/
def Key.hrdRelocated : Nat := 0x26001200
/-- HRD_TRAIN_HITS (R259). -/
def Key.hrdTrainHits : Nat := 0x26001300
/-- HRD_QUERY_HITS (R259). -/
def Key.hrdQueryHits : Nat := 0x26001400
/-- HRD_QUERY_MISSES (R259). -/
def Key.hrdQueryMisses : Nat := 0x26001500
/-- HRD_ADMITS (R259). -/
def Key.hrdAdmits : Nat := 0x26001600
/-- HRD_REJECTS (R259). -/
def Key.hrdRejects : Nat := 0x26001700
/-- MIG_COMMITS (R259). -/
def Key.migCommits : Nat := 0x26002000
/-- MIG_RESTARTS (R259). -/
def Key.migRestarts : Nat := 0x26002100
/-- MIG_ABORTS (R259). -/
def Key.migAborts : Nat := 0x26002200
/-- MIG_REFUSED (R259). -/
def Key.migRefused : Nat := 0x26002300
/-- PROMOTIONS (R259). -/
def Key.promotions : Nat := 0x26002400
/-- TBL_CUR (R259). -/
def Key.tblCur : Nat := 0x26010000
/-- TBL_OLD (R259). -/
def Key.tblOld : Nat := 0x26010001
/-- TBL_DRAFT_OPEN (R259). -/
def Key.tblDraftOpen : Nat := 0x26010002
/-- TBL_REFS_CUR (R259). -/
def Key.tblRefsCur : Nat := 0x26010003
/-- TBL_REFS_OLD (R259). -/
def Key.tblRefsOld : Nat := 0x26010004
/-- TBL_SHADOWS_USED (R259). -/
def Key.tblShadowsUsed : Nat := 0x26010005
/-- HRD_COUNTER_CLEAR (R259). -/
def Key.hrdCounterClear : Nat := 0x26003000
/-- UPD_COUNT (R290). -/
def Key.updCount : Nat := 0x27000100
/-- UPD_FEATURES (R290). -/
def Key.updFeatures : Nat := 0x27000200
/-- UPD_ELEMENTS (R290). -/
def Key.updElements : Nat := 0x27001000
/-- UPD_BUSY_CYCLES (R290). -/
def Key.updBusyCycles : Nat := 0x27001100
/-- UPD_STALLED_TOTAL (R290). -/
def Key.updStalledTotal : Nat := 0x27002000
/-- LAYER_GSHIFT (R290). -/
def Key.layerGshift : Nat := 0x27100000
/-- LAYER_LRSHIFT (R290). -/
def Key.layerLrshift : Nat := 0x27100001
/-- LAYER_STALLED (R290). -/
def Key.layerStalled : Nat := 0x27100002
/-- LAYER_SATURATED (R290). -/
def Key.layerSaturated : Nat := 0x27100003
/-- UPD_COUNTER_CLEAR (R290). -/
def Key.updCounterClear : Nat := 0x27003000
/-- SAV_COUNT (R291). -/
def Key.savCount : Nat := 0x28000100
/-- SAV_FEATURES (R291). -/
def Key.savFeatures : Nat := 0x28000200
/-- CKPT_BASE (R291). -/
def Key.ckptBase : Nat := 0x28000300
/-- CKPT_SIZE (R291). -/
def Key.ckptSize : Nat := 0x28000400
/-- SAV_DENSE_BYTES (R291). -/
def Key.savDenseBytes : Nat := 0x28001000
/-- SAV_STORED_BYTES (R291). -/
def Key.savStoredBytes : Nat := 0x28001100
/-- SAV_RAW_TILES (R291). -/
def Key.savRawTiles : Nat := 0x28001200
/-- SAV_BUSY_CYCLES (R291). -/
def Key.savBusyCycles : Nat := 0x28001300
/-- SAV_FULL_FAULTS (R291). -/
def Key.savFullFaults : Nat := 0x28002000
/-- SAV_RESTORE_FAULTS (R291). -/
def Key.savRestoreFaults : Nat := 0x28002100
/-- SAV_COUNTER_CLEAR (R291). -/
def Key.savCounterClear : Nat := 0x28003000
/-- PLC_EPOCH (R331). -/
def Key.plcEpoch : Nat := 0x30000100
/-- PLC_MEMBERS (R331). -/
def Key.plcMembers : Nat := 0x30000200
/-- PLC_AUTO (R331). -/
def Key.plcAuto : Nat := 0x30000300
/-- PLC_SAMPLE_RATE (R331). -/
def Key.plcSampleRate : Nat := 0x30000400
/-- PLC_MOVE_MIN (R331). -/
def Key.plcMoveMin : Nat := 0x30000500
/-- PLC_MOVE_SHARE (R331). -/
def Key.plcMoveShare : Nat := 0x30000600
/-- PLC_MAX_MOVES (R331). -/
def Key.plcMaxMoves : Nat := 0x30000700
/-- PLC_COLD_EPOCHS (R331). -/
def Key.plcColdEpochs : Nat := 0x30000800
/-- PLC_HBM_RESERVE (R331). -/
def Key.plcHbmReserve : Nat := 0x30000900
/-- PLC_LINGER_US (R331). -/
def Key.plcLingerUs : Nat := 0x30000A00
/-- PLC_MOVE_TIMEOUT_US (R331). -/
def Key.plcMoveTimeoutUs : Nat := 0x30000B00
/-- PLC_FRAMES_TOTAL (R331). -/
def Key.plcFramesTotal : Nat := 0x30001000
/-- PLC_FRAMES_FREE (R331). -/
def Key.plcFramesFree : Nat := 0x30001100
/-- PLC_OBJECTS (R331). -/
def Key.plcObjects : Nat := 0x30002000
/-- PLC_MOVES_DONE (R331). -/
def Key.plcMovesDone : Nat := 0x30002100
/-- PLC_MOVES_REFUSED (R331). -/
def Key.plcMovesRefused : Nat := 0x30002200
/-- PLC_MOVES_ABORTED (R331). -/
def Key.plcMovesAborted : Nat := 0x30002300
/-- PLC_DISPLACED (R331). -/
def Key.plcDisplaced : Nat := 0x30002400
/-- PLC_ROW_MOVES (R331). -/
def Key.plcRowMoves : Nat := 0x30002500
/-- PLC_PINS_DROPPED (R331). -/
def Key.plcPinsDropped : Nat := 0x30002600
/-- PLC_PAGES_LOST (R331). -/
def Key.plcPagesLost : Nat := 0x30002700
/-- PLC_SAMPLES_DROPPED (R331). -/
def Key.plcSamplesDropped : Nat := 0x30002800
/-- PLC_COUNTER_CLEAR (R331). -/
def Key.plcCounterClear : Nat := 0x30003000
/-- HBM_STACKS (R332). -/
def Key.hbmStacks : Nat := 0x31000100
/-- HBM_SCRUB_HOURS (R332). -/
def Key.hbmScrubHours : Nat := 0x31000200
/-- HBM_STATE (R332). -/
def Key.hbmState : Nat := 0x31001000
/-- HBM_CAPACITY (R332). -/
def Key.hbmCapacity : Nat := 0x31001100
/-- HBM_CE_COUNT (R332). -/
def Key.hbmCeCount : Nat := 0x31001200
/-- HBM_UE_COUNT (R332). -/
def Key.hbmUeCount : Nat := 0x31001300
/-- HBM_READ_BYTES (R332). -/
def Key.hbmReadBytes : Nat := 0x31001400
/-- HBM_WRITE_BYTES (R332). -/
def Key.hbmWriteBytes : Nat := 0x31001500
/-- HBM_COUNTER_CLEAR (R332). -/
def Key.hbmCounterClear : Nat := 0x31003000
/-- DDR_CHANNELS (R333). -/
def Key.ddrChannels : Nat := 0x32000100
/-- DDR_MODE (R333). -/
def Key.ddrMode : Nat := 0x32000200
/-- DDR_SCRUB_HOURS (R333). -/
def Key.ddrScrubHours : Nat := 0x32000300
/-- DDR_STATE (R333). -/
def Key.ddrState : Nat := 0x32001000
/-- DDR_CAPACITY (R333). -/
def Key.ddrCapacity : Nat := 0x32001100
/-- DDR_CE_COUNT (R333). -/
def Key.ddrCeCount : Nat := 0x32001200
/-- DDR_UE_COUNT (R333). -/
def Key.ddrUeCount : Nat := 0x32001300
/-- DDR_READ_BYTES (R333). -/
def Key.ddrReadBytes : Nat := 0x32001400
/-- DDR_WRITE_BYTES (R333). -/
def Key.ddrWriteBytes : Nat := 0x32001500
/-- DDR_SPD_ID (R333). -/
def Key.ddrSpdId : Nat := 0x32001600
/-- DDR_COUNTER_CLEAR (R333). -/
def Key.ddrCounterClear : Nat := 0x32003000
/-- FAB_PORTS (R365). -/
def Key.fabPorts : Nat := 0x40000100
/-- FAB_COMPAT_MAX (R365). -/
def Key.fabCompatMax : Nat := 0x40000200
/-- FAB_COORD (R365). -/
def Key.fabCoord : Nat := 0x40000300
/-- FAB_STATE (R365). -/
def Key.fabState : Nat := 0x40000400
/-- FAB_CONTROL (R365). -/
def Key.fabControl : Nat := 0x40000500
/-- FAB_FENCE (R365). -/
def Key.fabFence : Nat := 0x40000600
/-- FAB_PART_ID (R365). -/
def Key.fabPartId : Nat := 0x40001000
/-- FAB_BOX_ORIGIN (R365). -/
def Key.fabBoxOrigin : Nat := 0x40001100
/-- FAB_BOX_SIZE (R365). -/
def Key.fabBoxSize : Nat := 0x40001200
/-- FAB_EPOCH (R365). -/
def Key.fabEpoch : Nat := 0x40001300
/-- FAB_PART_LEVEL (R365). -/
def Key.fabPartLevel : Nat := 0x40001400
/-- FAB_FENCE_TABLE (R365). -/
def Key.fabFenceTable : Nat := 0x40001500
/-- FAB_MEMBERS (R365). -/
def Key.fabMembers : Nat := 0x40001600
/-- FAB_NEXT_PART_ID (R365). -/
def Key.fabNextPartId : Nat := 0x40002000
/-- FAB_NEXT_ORIGIN (R365). -/
def Key.fabNextOrigin : Nat := 0x40002100
/-- FAB_NEXT_SIZE (R365). -/
def Key.fabNextSize : Nat := 0x40002200
/-- FAB_NEXT_EPOCH (R365). -/
def Key.fabNextEpoch : Nat := 0x40002300
/-- FAB_NEXT_LEVEL (R365). -/
def Key.fabNextLevel : Nat := 0x40002400
/-- FAB_NEXT_FENCE_TABLE (R365). -/
def Key.fabNextFenceTable : Nat := 0x40002500
/-- SLUICE_WIN (R365). -/
def Key.sluiceWin : Nat := 0x40003000
/-- SLUICE_ACK_EVERY (R365). -/
def Key.sluiceAckEvery : Nat := 0x40003100
/-- SLUICE_RTO_US (R365). -/
def Key.sluiceRtoUs : Nat := 0x40003200
/-- SLUICE_RETRIES (R365). -/
def Key.sluiceRetries : Nat := 0x40003300
/-- FAB_CE_THRESH (R365). -/
def Key.fabCeThresh : Nat := 0x40003400
/-- FAB_LOW_GUARD (R365). -/
def Key.fabLowGuard : Nat := 0x40003500
/-- FAB_BUSY_BACKOFF_US (R365). -/
def Key.fabBusyBackoffUs : Nat := 0x40003600
/-- FAB_DRAIN_TIMEOUT_US (R365). -/
def Key.fabDrainTimeoutUs : Nat := 0x40003700
/-- LINK_TIMEOUT_US (R365). -/
def Key.linkTimeoutUs : Nat := 0x40003800
/-- FAB_PART_DROPS (R365). -/
def Key.fabPartDrops : Nat := 0x40004000
/-- FAB_STALE_DROPS (R365). -/
def Key.fabStaleDrops : Nat := 0x40004100
/-- FAB_FENCE_DROPS (R365). -/
def Key.fabFenceDrops : Nat := 0x40004200
/-- FAB_MC_DROPPED (R365). -/
def Key.fabMcDropped : Nat := 0x40004300
/-- FAB_E2E_CRC_ERR (R365). -/
def Key.fabE2eCrcErr : Nat := 0x40004400
/-- FAB_OOO_DROPS (R365). -/
def Key.fabOooDrops : Nat := 0x40004500
/-- FAB_RETRANSMITS (R365). -/
def Key.fabRetransmits : Nat := 0x40004600
/-- FAB_TIMEOUTS (R365). -/
def Key.fabTimeouts : Nat := 0x40004700
/-- FAB_LINK_DROPS (R365). -/
def Key.fabLinkDrops : Nat := 0x40004800
/-- FAB_BAD_TYPE (R365). -/
def Key.fabBadType : Nat := 0x40004900
/-- FAB_CE_MARKS (R365). -/
def Key.fabCeMarks : Nat := 0x40004A00
/-- LINK_ENABLE (R365). -/
def Key.linkEnable : Nat := 0x40010000
/-- LINK_STATE (R365). -/
def Key.linkState : Nat := 0x40010001
/-- LINK_LEVEL (R365). -/
def Key.linkLevel : Nat := 0x40010002
/-- LINK_PEER (R365). -/
def Key.linkPeer : Nat := 0x40010003
/-- LINK_FEC_CORRECTED (R365). -/
def Key.linkFecCorrected : Nat := 0x40010004
/-- LINK_FEC_UNCORRECTED (R365). -/
def Key.linkFecUncorrected : Nat := 0x40010005
/-- LINK_REPLAYS (R365). -/
def Key.linkReplays : Nat := 0x40010006
/-- LINK_RETRAINS (R365). -/
def Key.linkRetrains : Nat := 0x40010007
/-- LINK_TX_BYTES (R365). -/
def Key.linkTxBytes : Nat := 0x40010008
/-- LINK_RX_BYTES (R365). -/
def Key.linkRxBytes : Nat := 0x40010009
/-- FAB_COUNTER_CLEAR (R365). -/
def Key.fabCounterClear : Nat := 0x40005000
/-- RED_CONTEXTS (R390). -/
def Key.redContexts : Nat := 0x41000100
/-- RED_FEATURES (R390). -/
def Key.redFeatures : Nat := 0x41000200
/-- RED_CHECK_SHIFT (R390). -/
def Key.redCheckShift : Nat := 0x41000300
/-- RED_WATCHDOG_US (R390). -/
def Key.redWatchdogUs : Nat := 0x41000400
/-- RED_ACTIVE (R390). -/
def Key.redActive : Nat := 0x41000500
/-- RED_COMPLETED (R390). -/
def Key.redCompleted : Nat := 0x41001000
/-- RED_SKIPPED (R390). -/
def Key.redSkipped : Nat := 0x41001100
/-- RED_PIECES_SENT (R390). -/
def Key.redPiecesSent : Nat := 0x41001200
/-- RED_RESCALES (R390). -/
def Key.redRescales : Nat := 0x41001300
/-- RED_CHECK_BLOCKS (R390). -/
def Key.redCheckBlocks : Nat := 0x41001400
/-- RED_CHECK_DIRECT (R390). -/
def Key.redCheckDirect : Nat := 0x41001500
/-- RED_RELAYED (R390). -/
def Key.redRelayed : Nat := 0x41001600
/-- RED_LATE_ADDENDS (R390). -/
def Key.redLateAddends : Nat := 0x41001700
/-- RED_MISMATCHES (R390). -/
def Key.redMismatches : Nat := 0x41002000
/-- RED_TIMEOUTS (R390). -/
def Key.redTimeouts : Nat := 0x41002100
/-- RED_COUNTER_CLEAR (R390). -/
def Key.redCounterClear : Nat := 0x41003000
/-- CXL_DEVICE_ID (R419). -/
def Key.cxlDeviceId : Nat := 0x50000100
/-- CXL_LINK_STATE (R419). -/
def Key.cxlLinkState : Nat := 0x50000200
/-- CXL_LINK_WIDTH (R419). -/
def Key.cxlLinkWidth : Nat := 0x50000300
/-- CXL_LINK_SPEED (R419). -/
def Key.cxlLinkSpeed : Nat := 0x50000400
/-- CXL_LINK_DEGRADED (R419). -/
def Key.cxlLinkDegraded : Nat := 0x50000500
/-- CXL_IDE_REQUIRED (R419). -/
def Key.cxlIdeRequired : Nat := 0x50000600
/-- CXL_IDE_STATE (R419). -/
def Key.cxlIdeState : Nat := 0x50000700
/-- CXL_HDM_BASE (R419). -/
def Key.cxlHdmBase : Nat := 0x50000800
/-- CXL_DB_REJECTS (R419). -/
def Key.cxlDbRejects : Nat := 0x50001000
/-- CXL_UNBOUND_ACCESSES (R419). -/
def Key.cxlUnboundAccesses : Nat := 0x50001100
/-- CXL_COMPL_DROPPED (R419). -/
def Key.cxlComplDropped : Nat := 0x50001200
/-- CXL_BI_EVICTIONS (R419). -/
def Key.cxlBiEvictions : Nat := 0x50001300
/-- QUEUE_CPI_ADDR (R419). -/
def Key.queueCpiAddr : Nat := 0x50010000
/-- QUEUE_VECTOR (R419). -/
def Key.queueVector : Nat := 0x50010001
/-- QUEUE_IRQ_COUNT (R419). -/
def Key.queueIrqCount : Nat := 0x50010002
/-- QUEUE_IRQ_US (R419). -/
def Key.queueIrqUs : Nat := 0x50010003
/-- APT_OBJECT (R419). -/
def Key.aptObject : Nat := 0x50020000
/-- APT_LENGTH (R419). -/
def Key.aptLength : Nat := 0x50020001
/-- APT_BIND (R419). -/
def Key.aptBind : Nat := 0x50020002
/-- APT_STATE (R419). -/
def Key.aptState : Nat := 0x50020003
/-- MBX_CHANNELS (R420). -/
def Key.mbxChannels : Nat := 0x51000100
/-- MBX_BIND_LOCK (R420). -/
def Key.mbxBindLock : Nat := 0x51000200
/-- MBX_BIND_LOCKED (R420). -/
def Key.mbxBindLocked : Nat := 0x51000300
/-- MBX_HOLD_US (R420). -/
def Key.mbxHoldUs : Nat := 0x51000400
/-- MBX_FAB_RETRY_US (R420). -/
def Key.mbxFabRetryUs : Nat := 0x51000500
/-- MBX_DENIED (R420). -/
def Key.mbxDenied : Nat := 0x51001000
/-- MBX_EXPIRED (R420). -/
def Key.mbxExpired : Nat := 0x51001100
/-- MBX_WAKES (R420). -/
def Key.mbxWakes : Nat := 0x51001200
/-- MBX_ALLOW (R420). -/
def Key.mbxAllow : Nat := 0x51010000
/-- MBX_RECEIVER (R420). -/
def Key.mbxReceiver : Nat := 0x51010001
/-- MBX_HOST_VECTOR (R420). -/
def Key.mbxHostVector : Nat := 0x51010002
/-- MBX_LOCK (R420). -/
def Key.mbxLock : Nat := 0x51010003
/-- MBX_CONTROL (R420). -/
def Key.mbxControl : Nat := 0x51010004
/-- MBX_LEN (R420). -/
def Key.mbxLen : Nat := 0x51010005
/-- MBX_STATUS (R420). -/
def Key.mbxStatus : Nat := 0x51010006
/-- MBX_BUFFER (R420). -/
def Key.mbxBuffer : Nat := 0x51010007
/-- MBX_PEER (R420). -/
def Key.mbxPeer : Nat := 0x51010008
/-- ID_VENDOR (R445). -/
def Key.idVendor : Nat := 0x00000100
/-- ID_PRODUCT (R445). -/
def Key.idProduct : Nat := 0x00000200
/-- ID_PART (R445). -/
def Key.idPart : Nat := 0x00000300
/-- ID_SERIAL (R445). -/
def Key.idSerial : Nat := 0x00000400
/-- ID_UNIQUE (R445). -/
def Key.idUnique : Nat := 0x00000500
/-- ID_PKG_REV (R445). -/
def Key.idPkgRev : Nat := 0x00000600
/-- ID_MODULE_REV (R445). -/
def Key.idModuleRev : Nat := 0x00000700
/-- ID_ROM_VERSION (R445). -/
def Key.idRomVersion : Nat := 0x00000800
/-- ID_SLOT (R445). -/
def Key.idSlot : Nat := 0x00000900
/-- ID_UPTIME_NS (R445). -/
def Key.idUptimeNs : Nat := 0x00000A00
/-- DICT_VERSION (R446). -/
def Key.dictVersion : Nat := 0x01000100
/-- DICT_WRITERS (R446). -/
def Key.dictWriters : Nat := 0x01000200
/-- DICT_GENERATION (R446). -/
def Key.dictGeneration : Nat := 0x01000300
/-- DICT_CONFIG_TAG (R446). -/
def Key.dictConfigTag : Nat := 0x01000400
/-- DICT_MESSAGES (R446). -/
def Key.dictMessages : Nat := 0x01001000
/-- DICT_REFUSALS (R446). -/
def Key.dictRefusals : Nat := 0x01001100
/-- DICT_LAST_REFUSAL (R446). -/
def Key.dictLastRefusal : Nat := 0x01001200
/-- DICT_BAD_MESSAGES (R446). -/
def Key.dictBadMessages : Nat := 0x01001300
/-- DICT_DROPPED (R446). -/
def Key.dictDropped : Nat := 0x01001400
/-- FLN_ENABLE (R446). -/
def Key.flnEnable : Nat := 0x01002000
/-- FLN_NODE_ID (R446). -/
def Key.flnNodeId : Nat := 0x01002100
/-- FLN_MAC (R446). -/
def Key.flnMac : Nat := 0x01002200
/-- FLN_NOTIFY (R446). -/
def Key.flnNotify : Nat := 0x01002300
/-- FLN_NOTIFY_MAC (R446). -/
def Key.flnNotifyMac : Nat := 0x01002400
/-- FLN_BAD_FRAMES (R446). -/
def Key.flnBadFrames : Nat := 0x01002500
/-- FLN_DUPLICATES (R446). -/
def Key.flnDuplicates : Nat := 0x01002600
/-- I3C_DYN_ADDR (R446). -/
def Key.i3cDynAddr : Nat := 0x01003000
/-- PWR_STATE (R447). -/
def Key.pwrState : Nat := 0x10000100
/-- PWR_REQUEST (R447). -/
def Key.pwrRequest : Nat := 0x10000200
/-- PWR_LIMIT_W (R447). -/
def Key.pwrLimitW : Nat := 0x10000300
/-- PWR_AUTO_DUSK_US (R447). -/
def Key.pwrAutoDuskUs : Nat := 0x10000400
/-- PWR_TRANSITIONS (R447). -/
def Key.pwrTransitions : Nat := 0x10000500
/-- CLK_REF_SELECT (R447). -/
def Key.clkRefSelect : Nat := 0x10001000
/-- CLK_REF_STATE (R447). -/
def Key.clkRefState : Nat := 0x10001100
/-- CLK_PLL_LOCKED (R447). -/
def Key.clkPllLocked : Nat := 0x10001200
/-- SEN_VALUE (R449). -/
def Key.senValue : Nat := 0x60000000
/-- SEN_WARN_LO (R449). -/
def Key.senWarnLo : Nat := 0x60000001
/-- SEN_WARN_HI (R449). -/
def Key.senWarnHi : Nat := 0x60000002
/-- SEN_PEAK (R449). -/
def Key.senPeak : Nat := 0x60000003
/-- SEN_STATE (R449). -/
def Key.senState : Nat := 0x60000004
/-- ALM_DEPTH (R450). -/
def Key.almDepth : Nat := 0x61000100
/-- ALM_NEXT (R450). -/
def Key.almNext : Nat := 0x61000200
/-- ALM_ENTRIES (R450). -/
def Key.almEntries : Nat := 0x61000300
/-- ALM_OVERWRITTEN (R450). -/
def Key.almOverwritten : Nat := 0x61000400
/-- ALM_MARK (R450). -/
def Key.almMark : Nat := 0x61000500
/-- ERR_PENDING (R451). -/
def Key.errPending : Nat := 0x70000100
/-- ERR_CONTAINED (R451). -/
def Key.errContained : Nat := 0x70000200
/-- ERR_FIRST (R451). -/
def Key.errFirst : Nat := 0x70010000
/-- ERR_SUBSEQ (R451). -/
def Key.errSubseq : Nat := 0x70010001
/-- ERR_OVERFLOW (R451). -/
def Key.errOverflow : Nat := 0x70010002
/-- ERR_VALID (R451). -/
def Key.errValid : Nat := 0x70010003
/-- BOOT_STATE (R473). -/
def Key.bootState : Nat := 0x11000100
/-- BOOT_RESULT (R473). -/
def Key.bootResult : Nat := 0x11000200
/-- BOOT_IMAGE (R473). -/
def Key.bootImage : Nat := 0x11000300
/-- BOOT_LOAD_OWNER (R473). -/
def Key.bootLoadOwner : Nat := 0x11000400
/-- BOOT_LOADED (R473). -/
def Key.bootLoaded : Nat := 0x11000500
/-- BOOT_COMMAND (R473). -/
def Key.bootCommand : Nat := 0x11000600
/-- BOOT_LOAD_IDLE_MS (R473). -/
def Key.bootLoadIdleMs : Nat := 0x11000700
/-- FW_VERSION (R473). -/
def Key.fwVersion : Nat := 0x11001000
/-- FW_SVN (R473). -/
def Key.fwSvn : Nat := 0x11001100
/-- FW_EPH_MASK (R473). -/
def Key.fwEphMask : Nat := 0x11001200
/-- FW_STAGED_VERSION (R473). -/
def Key.fwStagedVersion : Nat := 0x11001300
/-- BOOT_STARTS (R473). -/
def Key.bootStarts : Nat := 0x11002000
/-- BOOT_WATCHDOGS (R473). -/
def Key.bootWatchdogs : Nat := 0x11002100
/-- RST_CAUSE (R473). -/
def Key.rstCause : Nat := 0x11002200
/-- SEC_FUSED_SVN (R474). -/
def Key.secFusedSvn : Nat := 0x62000100
/-- SEC_SVN_COMMIT (R474). -/
def Key.secSvnCommit : Nat := 0x62000200
/-- SEC_KEY_HASH (R474). -/
def Key.secKeyHash : Nat := 0x62000300
/-- SEC_KEY_REVOKED (R474). -/
def Key.secKeyRevoked : Nat := 0x62000400
/-- SEC_KEY_REVOKE (R474). -/
def Key.secKeyRevoke : Nat := 0x62000500
/-- SEC_MEAS (R474). -/
def Key.secMeas : Nat := 0x62000600
/-- SEC_SPDM_SESSIONS (R474). -/
def Key.secSpdmSessions : Nat := 0x62000700
/-- WEIR_HITS (R474). -/
def Key.weirHits : Nat := 0x62010000
/-- FRZ_STATE (R497). -/
def Key.frzState : Nat := 0x71000100
/-- FRZ_CONTROL (R497). -/
def Key.frzControl : Nat := 0x71000200
/-- FRZ_CAUSE (R497). -/
def Key.frzCause : Nat := 0x71000300
/-- FRZ_STATUS (R497). -/
def Key.frzStatus : Nat := 0x71000400
/-- FRZ_ENTRY_NS (R497). -/
def Key.frzEntryNs : Nat := 0x71000500
/-- FRZ_ELAPSED_US (R497). -/
def Key.frzElapsedUs : Nat := 0x71000600
/-- FRZ_PROPAGATE (R497). -/
def Key.frzPropagate : Nat := 0x71000700
/-- FRZ_ON_FATAL (R497). -/
def Key.frzOnFatal : Nat := 0x71000800
/-- FRZ_COUNT (R497). -/
def Key.frzCount : Nat := 0x71000900
/-- FRZ_READ_ADDR (R497). -/
def Key.frzReadAddr : Nat := 0x71001000
/-- FRZ_READ_LEN (R497). -/
def Key.frzReadLen : Nat := 0x71001100
/-- FRZ_DUMP_ADDR (R497). -/
def Key.frzDumpAddr : Nat := 0x71001200
/-- FRZ_READ_START (R497). -/
def Key.frzReadStart : Nat := 0x71001300
/-- FRZ_READ_STATE (R497). -/
def Key.frzReadState : Nat := 0x71001400
/-- FRZ_READ_DONE (R497). -/
def Key.frzReadDone : Nat := 0x71001500
/-- FRZ_READ_POISON (R497). -/
def Key.frzReadPoison : Nat := 0x71001600
/-- FRZ_READ_BUF (R497). -/
def Key.frzReadBuf : Nat := 0x71001700
/-- DBG_SCAN_ENABLE (R497). -/
def Key.dbgScanEnable : Nat := 0x71002000

/-- One dictionary entry, or one family of entries: first key, stride, count, type and access codes, bytes,
rows of a table, read and write masks, power-up value (R422-R426). -/
structure EntryD where
  base : Nat
  stride : Nat
  count : Nat
  ty : Nat
  acc : Nat
  size : Nat
  rows : Nat
  rmask : Nat
  wmask : Nat
  pu : Nat
  deriving DecidableEq, Repr

/-- Entries from key 0x00000100. -/
def dictEntries0 : List EntryD := [
  ⟨0x00000100, 1, 1, 11, 1, 16, 0, 15, 0, 0x676E697475706D6F4320766F726F7254⟩,
  ⟨0x00000200, 1, 1, 11, 1, 16, 0, 15, 0, 0x344E4C206C616E6E614C⟩,
  ⟨0x00000300, 1, 1, 11, 1, 16, 0, 15, 0, 0x4D2D344E4C2D565254⟩,
  ⟨0x00000400, 1, 1, 11, 1, 16, 0, 15, 0, Config.fuseSerial⟩,
  ⟨0x00000500, 1, 1, 12, 1, 16, 0, 15, 0, Config.fuseUnique⟩,
  ⟨0x00000600, 1, 1, 2, 1, 1, 0, 15, 0, Config.fusePkgRev⟩,
  ⟨0x00000700, 1, 1, 2, 1, 1, 0, 15, 0, Config.fuseModuleRev⟩,
  ⟨0x00000800, 1, 1, 4, 1, 4, 0, 15, 0, 0x10000⟩,
  ⟨0x00000900, 1, 1, 2, 1, 1, 0, 15, 0, 0⟩,
  ⟨0x00000A00, 1, 1, 5, 1, 8, 0, 15, 0, 0⟩,
  ⟨0x01000100, 1, 1, 2, 1, 1, 0, 15, 0, 1⟩,
  ⟨0x01000200, 1, 1, 10, 5, 4, 0, 15, 7, 7⟩,
  ⟨0x01000300, 1, 1, 4, 1, 4, 0, 15, 0, 0⟩,
  ⟨0x01000400, 1, 1, 5, 2, 8, 0, 15, 7, 0⟩,
  ⟨0x01001000, 1, 1, 5, 1, 8, 0, 15, 0, 0⟩,
  ⟨0x01001100, 1, 1, 5, 1, 8, 0, 15, 0, 0⟩,
  ⟨0x01001200, 1, 1, 5, 1, 8, 0, 15, 0, 0⟩,
  ⟨0x01001300, 1, 1, 5, 1, 8, 0, 15, 0, 0⟩,
  ⟨0x01001400, 1, 1, 5, 1, 8, 0, 15, 0, 0⟩,
  ⟨0x01002000, 1, 1, 1, 2, 1, 0, 15, 7, 1⟩,
  ⟨0x01002100, 1, 1, 2, 1, 1, 0, 15, 0, 0⟩,
  ⟨0x01002200, 1, 1, 12, 1, 6, 0, 15, 0, 0⟩,
  ⟨0x01002300, 1, 1, 10, 2, 4, 0, 15, 7, 3⟩,
  ⟨0x01002400, 1, 1, 12, 2, 6, 0, 15, 7, 0⟩,
  ⟨0x01002500, 1, 1, 5, 1, 8, 0, 15, 0, 0⟩,
  ⟨0x01002600, 1, 1, 5, 1, 8, 0, 15, 0, 0⟩,
  ⟨0x01003000, 1, 1, 2, 1, 1, 0, 15, 0, 0⟩,
  ⟨0x10000100, 1, 1, 9, 1, 1, 0, 15, 0, 0xFF⟩,
  ⟨0x10000200, 1, 1, 9, 6, 1, 0, 15, 7, 0⟩,
  ⟨0x10000300, 1, 1, 3, 2, 2, 0, 15, 7, 0xA28⟩]

/-- Entries from key 0x10000400. -/
def dictEntries1 : List EntryD := [
  ⟨0x10000400, 1, 1, 4, 2, 4, 0, 15, 7, 0⟩,
  ⟨0x10000500, 1, 1, 5, 1, 8, 0, 15, 0, 0⟩,
  ⟨0x10001000, 1, 1, 9, 2, 1, 0, 15, 7, 0⟩,
  ⟨0x10001100, 1, 1, 9, 1, 1, 0, 15, 0, 0⟩,
  ⟨0x10001200, 1, 1, 1, 1, 1, 0, 15, 0, 0⟩,
  ⟨0x11000100, 1, 1, 9, 1, 1, 0, 15, 0, 0⟩,
  ⟨0x11000200, 1, 1, 9, 1, 1, 0, 15, 0, 0⟩,
  ⟨0x11000300, 1, 1, 12, 3, 8388608, 0, 15, 7, 0⟩,
  ⟨0x11000400, 1, 1, 2, 1, 1, 0, 15, 0, 0⟩,
  ⟨0x11000500, 1, 1, 4, 1, 4, 0, 15, 0, 0⟩,
  ⟨0x11000600, 1, 1, 2, 6, 1, 0, 15, 7, 0⟩,
  ⟨0x11000700, 1, 1, 4, 2, 4, 0, 15, 7, 0x2710⟩,
  ⟨0x11001000, 1, 1, 4, 1, 4, 0, 15, 0, 0⟩,
  ⟨0x11001100, 1, 1, 3, 1, 2, 0, 15, 0, 0⟩,
  ⟨0x11001200, 1, 1, 10, 1, 4, 0, 15, 0, 0⟩,
  ⟨0x11001300, 1, 1, 4, 1, 4, 0, 15, 0, 0⟩,
  ⟨0x11002000, 1, 1, 4, 1, 4, 0, 15, 0, 0⟩,
  ⟨0x11002100, 1, 1, 4, 1, 4, 0, 15, 0, 0⟩,
  ⟨0x11002200, 1, 1, 9, 1, 1, 0, 15, 0, 0⟩,
  ⟨0x20000100, 1, 1, 2, 1, 1, 0, 15, 0, 0x40⟩,
  ⟨0x20000200, 1, 1, 10, 1, 4, 0, 15, 0, 0xFF⟩,
  ⟨0x20001000, 1, 64, 5, 1, 8, 0, 15, 0, 0⟩,
  ⟨0x20001100, 1, 64, 5, 1, 8, 0, 15, 0, 0⟩,
  ⟨0x20001200, 1, 64, 5, 1, 8, 0, 15, 0, 0⟩,
  ⟨0x20001300, 1, 64, 5, 1, 8, 0, 15, 0, 0⟩,
  ⟨0x20002000, 1, 1, 4, 1, 4, 0, 15, 0, 0⟩,
  ⟨0x20002100, 1, 1, 4, 1, 4, 0, 15, 0, 0⟩,
  ⟨0x20003000, 1, 1, 2, 6, 1, 0, 15, 7, 0⟩,
  ⟨0x21000100, 1, 1, 2, 1, 1, 0, 15, 0, 0x40⟩,
  ⟨0x21000200, 1, 1, 10, 1, 4, 0, 15, 0, 0x3F⟩]

/-- Entries from key 0x21000300. -/
def dictEntries2 : List EntryD := [
  ⟨0x21000300, 1, 1, 3, 1, 2, 0, 15, 0, 0x1000⟩,
  ⟨0x21000400, 1, 1, 4, 2, 4, 0, 15, 7, 0x100000⟩,
  ⟨0x21001000, 1, 64, 5, 1, 8, 0, 15, 0, 0⟩,
  ⟨0x21001100, 1, 64, 5, 1, 8, 0, 15, 0, 0⟩,
  ⟨0x21001200, 1, 64, 5, 1, 8, 0, 15, 0, 0⟩,
  ⟨0x21001300, 1, 64, 5, 1, 8, 0, 15, 0, 0⟩,
  ⟨0x21002000, 1, 1, 4, 1, 4, 0, 15, 0, 0⟩,
  ⟨0x21002100, 1, 1, 4, 1, 4, 0, 15, 0, 0⟩,
  ⟨0x21002200, 1, 1, 4, 1, 4, 0, 15, 0, 0⟩,
  ⟨0x21003000, 1, 1, 2, 6, 1, 0, 15, 7, 0⟩,
  ⟨0x22000100, 1, 1, 10, 1, 4, 0, 15, 0, 2⟩,
  ⟨0x22000200, 1, 1, 3, 2, 2, 0, 15, 7, 0⟩,
  ⟨0x22000300, 1, 1, 4, 1, 4, 0, 15, 0, 0⟩,
  ⟨0x22001000, 1, 1, 2, 1, 1, 0, 15, 0, 0x40⟩,
  ⟨0x22001100, 1, 1, 2, 2, 1, 0, 15, 7, 7⟩,
  ⟨0x22001200, 1, 1, 4, 2, 4, 0, 15, 7, 0x10000⟩,
  ⟨0x22001300, 1, 1, 4, 2, 4, 0, 15, 7, 0x10000⟩,
  ⟨0x22001400, 1, 1, 3, 2, 2, 0, 15, 7, 0x100⟩,
  ⟨0x22001500, 1, 1, 3, 2, 2, 0, 15, 7, 0x10⟩,
  ⟨0x22001600, 1, 1, 4, 2, 4, 0, 15, 7, 0x10000⟩,
  ⟨0x22001700, 1, 1, 4, 2, 4, 0, 15, 7, 0x4000⟩,
  ⟨0x22002000, 1, 4, 4, 1, 4, 0, 15, 0, 0⟩,
  ⟨0x22002100, 1, 4, 5, 1, 8, 0, 15, 0, 0⟩,
  ⟨0x22002200, 1, 4, 5, 1, 8, 0, 15, 0, 0⟩,
  ⟨0x22002300, 1, 4, 5, 1, 8, 0, 15, 0, 0⟩,
  ⟨0x22010000, 256, 64, 5, 2, 8, 0, 15, 7, 0⟩,
  ⟨0x22010001, 256, 64, 2, 2, 1, 0, 15, 7, 4⟩,
  ⟨0x22010002, 256, 64, 9, 2, 1, 0, 15, 7, 0⟩,
  ⟨0x22010003, 256, 64, 5, 2, 8, 0, 15, 7, 0⟩,
  ⟨0x22010004, 256, 64, 1, 2, 1, 0, 15, 7, 0⟩]

/-- Entries from key 0x22010005. -/
def dictEntries3 : List EntryD := [
  ⟨0x22010005, 256, 64, 4, 1, 4, 0, 15, 0, 0⟩,
  ⟨0x22010006, 256, 64, 4, 1, 4, 0, 15, 0, 0⟩,
  ⟨0x22010007, 256, 64, 5, 1, 8, 0, 15, 0, 0⟩,
  ⟨0x22010008, 256, 64, 1, 4, 1, 0, 15, 7, 0⟩,
  ⟨0x22010009, 256, 64, 2, 6, 1, 0, 15, 7, 0⟩,
  ⟨0x23000100, 1, 1, 2, 1, 1, 0, 15, 0, 0x40⟩,
  ⟨0x23000200, 1, 1, 1, 2, 1, 0, 15, 7, 0⟩,
  ⟨0x23001000, 1, 64, 5, 1, 8, 0, 15, 0, 0⟩,
  ⟨0x23001100, 1, 64, 5, 1, 8, 0, 15, 0, 0⟩,
  ⟨0x23001200, 1, 64, 5, 1, 8, 0, 15, 0, 0⟩,
  ⟨0x23001300, 1, 64, 5, 1, 8, 0, 15, 0, 0⟩,
  ⟨0x23001400, 1, 64, 5, 1, 8, 0, 15, 0, 0⟩,
  ⟨0x23002000, 1, 1, 4, 1, 4, 0, 15, 0, 0⟩,
  ⟨0x23003000, 1, 1, 2, 6, 1, 0, 15, 7, 0⟩,
  ⟨0x24000100, 1, 1, 5, 2, 8, 0, 15, 7, 0⟩,
  ⟨0x24000200, 1, 1, 2, 1, 1, 0, 15, 0, 0x10⟩,
  ⟨0x24000300, 1, 1, 2, 1, 1, 0, 15, 0, 4⟩,
  ⟨0x24000400, 1, 1, 10, 1, 4, 0, 15, 0, 0x1FF⟩,
  ⟨0x24001000, 1, 16, 5, 1, 8, 0, 15, 0, 0⟩,
  ⟨0x24001100, 1, 16, 5, 1, 8, 0, 15, 0, 0⟩,
  ⟨0x24001200, 1, 16, 5, 1, 8, 0, 15, 0, 0⟩,
  ⟨0x24002000, 1, 4, 5, 1, 8, 0, 15, 0, 0⟩,
  ⟨0x24002100, 1, 4, 5, 1, 8, 0, 15, 0, 0⟩,
  ⟨0x24002200, 1, 4, 5, 1, 8, 0, 15, 0, 0⟩,
  ⟨0x24003000, 1, 1, 4, 1, 4, 0, 15, 0, 0⟩,
  ⟨0x24003100, 1, 1, 4, 1, 4, 0, 15, 0, 0⟩,
  ⟨0x24003200, 1, 1, 4, 1, 4, 0, 15, 0, 0⟩,
  ⟨0x24004000, 1, 1, 2, 6, 1, 0, 15, 7, 0⟩,
  ⟨0x25000100, 1, 1, 2, 1, 1, 0, 15, 0, 0x10⟩,
  ⟨0x25000200, 1, 1, 10, 1, 4, 0, 15, 0, 0x1F⟩]

/-- Entries from key 0x25000300. -/
def dictEntries4 : List EntryD := [
  ⟨0x25000300, 1, 1, 3, 2, 2, 0, 15, 7, 0x1000⟩,
  ⟨0x25001000, 1, 16, 5, 1, 8, 0, 15, 0, 0⟩,
  ⟨0x25001100, 1, 16, 5, 1, 8, 0, 15, 0, 0⟩,
  ⟨0x25001200, 1, 16, 5, 1, 8, 0, 15, 0, 0⟩,
  ⟨0x25002000, 1, 1, 4, 1, 4, 0, 15, 0, 0⟩,
  ⟨0x25002100, 1, 1, 4, 1, 4, 0, 15, 0, 0⟩,
  ⟨0x25002200, 1, 1, 4, 1, 4, 0, 15, 0, 0⟩,
  ⟨0x25002300, 1, 1, 5, 1, 8, 0, 15, 0, 0⟩,
  ⟨0x25003000, 1, 1, 2, 6, 1, 0, 15, 7, 0⟩,
  ⟨0x26000100, 1, 1, 4, 1, 4, 0, 15, 0, 0x100000⟩,
  ⟨0x26000200, 1, 1, 2, 2, 1, 0, 15, 7, 8⟩,
  ⟨0x26000300, 1, 1, 2, 2, 1, 0, 15, 7, 0⟩,
  ⟨0x26000400, 1, 1, 4, 2, 4, 0, 15, 7, 0x100000⟩,
  ⟨0x26000500, 1, 1, 4, 2, 4, 0, 15, 7, 0x64⟩,
  ⟨0x26000600, 1, 1, 4, 2, 4, 0, 15, 7, 0x14⟩,
  ⟨0x26000700, 1, 1, 4, 2, 4, 0, 15, 7, 0x3E8⟩,
  ⟨0x26001000, 1, 4, 4, 1, 4, 0, 15, 0, 0⟩,
  ⟨0x26001100, 1, 4, 4, 1, 4, 0, 15, 0, 0⟩,
  ⟨0x26001200, 1, 4, 4, 1, 4, 0, 15, 0, 0⟩,
  ⟨0x26001300, 1, 4, 5, 1, 8, 0, 15, 0, 0⟩,
  ⟨0x26001400, 1, 4, 5, 1, 8, 0, 15, 0, 0⟩,
  ⟨0x26001500, 1, 4, 5, 1, 8, 0, 15, 0, 0⟩,
  ⟨0x26001600, 1, 4, 5, 1, 8, 0, 15, 0, 0⟩,
  ⟨0x26001700, 1, 4, 5, 1, 8, 0, 15, 0, 0⟩,
  ⟨0x26002000, 1, 4, 5, 1, 8, 0, 15, 0, 0⟩,
  ⟨0x26002100, 1, 4, 5, 1, 8, 0, 15, 0, 0⟩,
  ⟨0x26002200, 1, 4, 5, 1, 8, 0, 15, 0, 0⟩,
  ⟨0x26002300, 1, 4, 5, 1, 8, 0, 15, 0, 0⟩,
  ⟨0x26002400, 1, 4, 5, 1, 8, 0, 15, 0, 0⟩,
  ⟨0x26003000, 1, 1, 2, 6, 1, 0, 15, 7, 0⟩]

/-- Entries from key 0x26010000. -/
def dictEntries5 : List EntryD := [
  ⟨0x26010000, 256, 256, 3, 1, 2, 0, 15, 0, 0⟩,
  ⟨0x26010001, 256, 256, 3, 1, 2, 0, 15, 0, 0⟩,
  ⟨0x26010002, 256, 256, 1, 1, 1, 0, 15, 0, 1⟩,
  ⟨0x26010003, 256, 256, 4, 1, 4, 0, 15, 0, 0⟩,
  ⟨0x26010004, 256, 256, 4, 1, 4, 0, 15, 0, 0⟩,
  ⟨0x26010005, 256, 256, 4, 1, 4, 0, 15, 0, 0⟩,
  ⟨0x27000100, 1, 1, 2, 1, 1, 0, 15, 0, 4⟩,
  ⟨0x27000200, 1, 1, 10, 1, 4, 0, 15, 0, 0x3F⟩,
  ⟨0x27001000, 1, 4, 5, 1, 8, 0, 15, 0, 0⟩,
  ⟨0x27001100, 1, 4, 5, 1, 8, 0, 15, 0, 0⟩,
  ⟨0x27002000, 1, 1, 5, 1, 8, 0, 15, 0, 0⟩,
  ⟨0x27003000, 1, 1, 2, 6, 1, 0, 15, 7, 0⟩,
  ⟨0x27100000, 256, 4096, 6, 2, 4, 0, 15, 7, 0⟩,
  ⟨0x27100001, 256, 4096, 6, 2, 4, 0, 15, 7, 0⟩,
  ⟨0x27100002, 256, 4096, 5, 1, 8, 0, 15, 0, 0⟩,
  ⟨0x27100003, 256, 4096, 5, 1, 8, 0, 15, 0, 0⟩,
  ⟨0x28000100, 1, 1, 2, 1, 1, 0, 15, 0, 0x10⟩,
  ⟨0x28000200, 1, 1, 10, 1, 4, 0, 15, 0, 0x1F⟩,
  ⟨0x28000300, 1, 1, 5, 2, 8, 0, 15, 7, 0⟩,
  ⟨0x28000400, 1, 1, 5, 2, 8, 0, 15, 7, 0⟩,
  ⟨0x28001000, 1, 16, 5, 1, 8, 0, 15, 0, 0⟩,
  ⟨0x28001100, 1, 16, 5, 1, 8, 0, 15, 0, 0⟩,
  ⟨0x28001200, 1, 16, 5, 1, 8, 0, 15, 0, 0⟩,
  ⟨0x28001300, 1, 16, 5, 1, 8, 0, 15, 0, 0⟩,
  ⟨0x28002000, 1, 1, 4, 1, 4, 0, 15, 0, 0⟩,
  ⟨0x28002100, 1, 1, 4, 1, 4, 0, 15, 0, 0⟩,
  ⟨0x28003000, 1, 1, 2, 6, 1, 0, 15, 7, 0⟩,
  ⟨0x30000100, 1, 1, 3, 1, 2, 0, 15, 0, 0⟩,
  ⟨0x30000200, 1, 1, 3, 1, 2, 0, 15, 0, 1⟩,
  ⟨0x30000300, 1, 1, 1, 2, 1, 0, 15, 7, 1⟩]

/-- Entries from key 0x30000400. -/
def dictEntries6 : List EntryD := [
  ⟨0x30000400, 1, 1, 3, 2, 2, 0, 15, 7, 0x100⟩,
  ⟨0x30000500, 1, 1, 4, 2, 4, 0, 15, 7, 0x40⟩,
  ⟨0x30000600, 1, 1, 2, 2, 1, 0, 15, 7, 0xC0⟩,
  ⟨0x30000700, 1, 1, 4, 2, 4, 0, 15, 7, 0x1000⟩,
  ⟨0x30000800, 1, 1, 2, 2, 1, 0, 15, 7, 4⟩,
  ⟨0x30000900, 1, 1, 4, 2, 4, 0, 15, 7, 0x10000⟩,
  ⟨0x30000A00, 1, 1, 4, 2, 4, 0, 15, 7, 0x14⟩,
  ⟨0x30000B00, 1, 1, 4, 2, 4, 0, 15, 7, 0x2710⟩,
  ⟨0x30001000, 1, 4, 5, 1, 8, 0, 15, 0, 0⟩,
  ⟨0x30001100, 1, 4, 5, 1, 8, 0, 15, 0, 0⟩,
  ⟨0x30002000, 1, 1, 4, 1, 4, 0, 15, 0, 0⟩,
  ⟨0x30002100, 1, 1, 5, 1, 8, 0, 15, 0, 0⟩,
  ⟨0x30002200, 1, 1, 5, 1, 8, 0, 15, 0, 0⟩,
  ⟨0x30002300, 1, 1, 5, 1, 8, 0, 15, 0, 0⟩,
  ⟨0x30002400, 1, 1, 4, 1, 4, 0, 15, 0, 0⟩,
  ⟨0x30002500, 1, 1, 5, 1, 8, 0, 15, 0, 0⟩,
  ⟨0x30002600, 1, 1, 5, 1, 8, 0, 15, 0, 0⟩,
  ⟨0x30002700, 1, 1, 5, 1, 8, 0, 15, 0, 0⟩,
  ⟨0x30002800, 1, 1, 5, 1, 8, 0, 15, 0, 0⟩,
  ⟨0x30003000, 1, 1, 2, 6, 1, 0, 15, 7, 0⟩,
  ⟨0x31000100, 1, 1, 2, 1, 1, 0, 15, 0, 8⟩,
  ⟨0x31000200, 1, 1, 2, 2, 1, 0, 15, 7, 0x18⟩,
  ⟨0x31001000, 1, 8, 9, 1, 1, 0, 15, 0, 0⟩,
  ⟨0x31001100, 1, 8, 5, 1, 8, 0, 15, 0, 0⟩,
  ⟨0x31001200, 1, 8, 5, 1, 8, 0, 15, 0, 0⟩,
  ⟨0x31001300, 1, 8, 4, 1, 4, 0, 15, 0, 0⟩,
  ⟨0x31001400, 1, 8, 5, 1, 8, 0, 15, 0, 0⟩,
  ⟨0x31001500, 1, 8, 5, 1, 8, 0, 15, 0, 0⟩,
  ⟨0x31003000, 1, 1, 2, 6, 1, 0, 15, 7, 0⟩,
  ⟨0x32000100, 1, 1, 2, 1, 1, 0, 15, 0, 0x10⟩]

/-- Entries from key 0x32000200. -/
def dictEntries7 : List EntryD := [
  ⟨0x32000200, 1, 1, 9, 1, 1, 0, 15, 0, 0⟩,
  ⟨0x32000300, 1, 1, 2, 2, 1, 0, 15, 7, 0x18⟩,
  ⟨0x32001000, 1, 16, 9, 1, 1, 0, 15, 0, 0⟩,
  ⟨0x32001100, 1, 16, 5, 1, 8, 0, 15, 0, 0⟩,
  ⟨0x32001200, 1, 16, 5, 1, 8, 0, 15, 0, 0⟩,
  ⟨0x32001300, 1, 16, 4, 1, 4, 0, 15, 0, 0⟩,
  ⟨0x32001400, 1, 16, 5, 1, 8, 0, 15, 0, 0⟩,
  ⟨0x32001500, 1, 16, 5, 1, 8, 0, 15, 0, 0⟩,
  ⟨0x32001600, 1, 16, 12, 1, 16, 0, 15, 0, 0⟩,
  ⟨0x32003000, 1, 1, 2, 6, 1, 0, 15, 7, 0⟩,
  ⟨0x40000100, 1, 1, 2, 1, 1, 0, 15, 0, 6⟩,
  ⟨0x40000200, 1, 1, 2, 1, 1, 0, 15, 0, 1⟩,
  ⟨0x40000300, 1, 1, 3, 2, 2, 0, 15, 7, 0xFFFF⟩,
  ⟨0x40000400, 1, 1, 9, 1, 1, 0, 15, 0, 0⟩,
  ⟨0x40000500, 1, 1, 2, 6, 1, 0, 15, 7, 0⟩,
  ⟨0x40000600, 1, 1, 3, 6, 2, 0, 15, 7, 0⟩,
  ⟨0x40001000, 1, 1, 3, 1, 2, 0, 15, 0, 0⟩,
  ⟨0x40001100, 1, 1, 3, 1, 2, 0, 15, 0, 0xFFFF⟩,
  ⟨0x40001200, 1, 1, 3, 1, 2, 0, 15, 0, 0⟩,
  ⟨0x40001300, 1, 1, 3, 1, 2, 0, 15, 0, 0⟩,
  ⟨0x40001400, 1, 1, 2, 1, 1, 0, 15, 0, 0⟩,
  ⟨0x40001500, 1, 1, 12, 1, 1024, 0, 15, 0, 0⟩,
  ⟨0x40001600, 1, 1, 3, 1, 2, 0, 15, 0, 0⟩,
  ⟨0x40002000, 1, 1, 3, 2, 2, 0, 15, 7, 0⟩,
  ⟨0x40002100, 1, 1, 3, 2, 2, 0, 15, 7, 0xFFFF⟩,
  ⟨0x40002200, 1, 1, 3, 2, 2, 0, 15, 7, 0⟩,
  ⟨0x40002300, 1, 1, 3, 2, 2, 0, 15, 7, 0⟩,
  ⟨0x40002400, 1, 1, 2, 2, 1, 0, 15, 7, 0⟩,
  ⟨0x40002500, 1, 1, 12, 2, 1024, 0, 15, 7, 0⟩,
  ⟨0x40003000, 1, 1, 3, 2, 2, 0, 15, 7, 0x40⟩]

/-- Entries from key 0x40003100. -/
def dictEntries8 : List EntryD := [
  ⟨0x40003100, 1, 1, 2, 2, 1, 0, 15, 7, 8⟩,
  ⟨0x40003200, 1, 1, 4, 2, 4, 0, 15, 7, 0xC8⟩,
  ⟨0x40003300, 1, 1, 2, 2, 1, 0, 15, 7, 6⟩,
  ⟨0x40003400, 1, 1, 3, 2, 2, 0, 15, 7, 0x200⟩,
  ⟨0x40003500, 1, 1, 2, 2, 1, 0, 15, 7, 0xF⟩,
  ⟨0x40003600, 1, 1, 3, 2, 2, 0, 15, 7, 2⟩,
  ⟨0x40003700, 1, 1, 4, 2, 4, 0, 15, 7, 0x2710⟩,
  ⟨0x40003800, 1, 1, 4, 1, 4, 0, 15, 0, 0x1388⟩,
  ⟨0x40004000, 1, 1, 5, 1, 8, 0, 15, 0, 0⟩,
  ⟨0x40004100, 1, 1, 5, 1, 8, 0, 15, 0, 0⟩,
  ⟨0x40004200, 1, 1, 5, 1, 8, 0, 15, 0, 0⟩,
  ⟨0x40004300, 1, 1, 5, 1, 8, 0, 15, 0, 0⟩,
  ⟨0x40004400, 1, 1, 5, 1, 8, 0, 15, 0, 0⟩,
  ⟨0x40004500, 1, 1, 5, 1, 8, 0, 15, 0, 0⟩,
  ⟨0x40004600, 1, 1, 5, 1, 8, 0, 15, 0, 0⟩,
  ⟨0x40004700, 1, 1, 5, 1, 8, 0, 15, 0, 0⟩,
  ⟨0x40004800, 1, 1, 5, 1, 8, 0, 15, 0, 0⟩,
  ⟨0x40004900, 1, 1, 5, 1, 8, 0, 15, 0, 0⟩,
  ⟨0x40004A00, 1, 1, 5, 1, 8, 0, 15, 0, 0⟩,
  ⟨0x40005000, 1, 1, 2, 6, 1, 0, 15, 7, 0⟩,
  ⟨0x40010000, 256, 6, 1, 2, 1, 0, 15, 7, 1⟩,
  ⟨0x40010001, 256, 6, 9, 1, 1, 0, 15, 0, 0⟩,
  ⟨0x40010002, 256, 6, 2, 1, 1, 0, 15, 0, 0⟩,
  ⟨0x40010003, 256, 6, 3, 1, 2, 0, 15, 0, 0xFFFF⟩,
  ⟨0x40010004, 256, 6, 5, 1, 8, 0, 15, 0, 0⟩,
  ⟨0x40010005, 256, 6, 5, 1, 8, 0, 15, 0, 0⟩,
  ⟨0x40010006, 256, 6, 5, 1, 8, 0, 15, 0, 0⟩,
  ⟨0x40010007, 256, 6, 4, 1, 4, 0, 15, 0, 0⟩,
  ⟨0x40010008, 256, 6, 5, 1, 8, 0, 15, 0, 0⟩,
  ⟨0x40010009, 256, 6, 5, 1, 8, 0, 15, 0, 0⟩]

/-- Entries from key 0x41000100. -/
def dictEntries9 : List EntryD := [
  ⟨0x41000100, 1, 1, 2, 1, 1, 0, 15, 0, 6⟩,
  ⟨0x41000200, 1, 1, 10, 1, 4, 0, 15, 0, 0xF⟩,
  ⟨0x41000300, 1, 1, 2, 2, 1, 0, 15, 7, 0xA⟩,
  ⟨0x41000400, 1, 1, 4, 2, 4, 0, 15, 7, 0xF4240⟩,
  ⟨0x41000500, 1, 1, 2, 1, 1, 0, 15, 0, 0⟩,
  ⟨0x41001000, 1, 1, 5, 1, 8, 0, 15, 0, 0⟩,
  ⟨0x41001100, 1, 1, 5, 1, 8, 0, 15, 0, 0⟩,
  ⟨0x41001200, 1, 1, 5, 1, 8, 0, 15, 0, 0⟩,
  ⟨0x41001300, 1, 1, 5, 1, 8, 0, 15, 0, 0⟩,
  ⟨0x41001400, 1, 1, 5, 1, 8, 0, 15, 0, 0⟩,
  ⟨0x41001500, 1, 1, 5, 1, 8, 0, 15, 0, 0⟩,
  ⟨0x41001600, 1, 1, 5, 1, 8, 0, 15, 0, 0⟩,
  ⟨0x41001700, 1, 1, 5, 1, 8, 0, 15, 0, 0⟩,
  ⟨0x41002000, 1, 1, 4, 1, 4, 0, 15, 0, 0⟩,
  ⟨0x41002100, 1, 1, 4, 1, 4, 0, 15, 0, 0⟩,
  ⟨0x41003000, 1, 1, 2, 6, 1, 0, 15, 7, 0⟩,
  ⟨0x50000100, 1, 1, 3, 1, 2, 0, 15, 0, 0x4C34⟩,
  ⟨0x50000200, 1, 1, 9, 1, 1, 0, 15, 0, 0⟩,
  ⟨0x50000300, 1, 1, 2, 1, 1, 0, 15, 0, 0⟩,
  ⟨0x50000400, 1, 1, 2, 1, 1, 0, 15, 0, 0⟩,
  ⟨0x50000500, 1, 1, 1, 1, 1, 0, 15, 0, 0⟩,
  ⟨0x50000600, 1, 1, 1, 2, 1, 0, 15, 7, 0⟩,
  ⟨0x50000700, 1, 1, 10, 1, 4, 0, 15, 0, 0⟩,
  ⟨0x50000800, 1, 1, 5, 1, 8, 0, 15, 0, 0⟩,
  ⟨0x50001000, 1, 1, 5, 1, 8, 0, 15, 0, 0⟩,
  ⟨0x50001100, 1, 1, 5, 1, 8, 0, 15, 0, 0⟩,
  ⟨0x50001200, 1, 1, 5, 1, 8, 0, 15, 0, 0⟩,
  ⟨0x50001300, 1, 1, 5, 1, 8, 0, 15, 0, 0⟩,
  ⟨0x50010000, 256, 64, 5, 2, 8, 0, 15, 7, 0⟩,
  ⟨0x50010001, 256, 64, 3, 2, 2, 0, 15, 7, 0xFFFF⟩]

/-- Entries from key 0x50010002. -/
def dictEntries10 : List EntryD := [
  ⟨0x50010002, 256, 64, 3, 2, 2, 0, 15, 7, 1⟩,
  ⟨0x50010003, 256, 64, 3, 2, 2, 0, 15, 7, 0⟩,
  ⟨0x50020000, 256, 64, 5, 2, 8, 0, 15, 7, 0⟩,
  ⟨0x50020001, 256, 64, 5, 2, 8, 0, 15, 7, 0⟩,
  ⟨0x50020002, 256, 64, 2, 6, 1, 0, 15, 7, 0⟩,
  ⟨0x50020003, 256, 64, 9, 1, 1, 0, 15, 0, 0⟩,
  ⟨0x51000100, 1, 1, 2, 1, 1, 0, 15, 0, 0x40⟩,
  ⟨0x51000200, 1, 1, 2, 6, 1, 0, 15, 7, 0⟩,
  ⟨0x51000300, 1, 1, 1, 1, 1, 0, 15, 0, 0⟩,
  ⟨0x51000400, 1, 1, 4, 2, 4, 0, 15, 7, 0x186A0⟩,
  ⟨0x51000500, 1, 1, 4, 2, 4, 0, 15, 7, 0x3E8⟩,
  ⟨0x51001000, 1, 1, 5, 1, 8, 0, 15, 0, 0⟩,
  ⟨0x51001100, 1, 1, 5, 1, 8, 0, 15, 0, 0⟩,
  ⟨0x51001200, 1, 1, 5, 1, 8, 0, 15, 0, 0⟩,
  ⟨0x51010000, 256, 64, 5, 2, 8, 0, 15, 7, 0⟩,
  ⟨0x51010001, 256, 64, 2, 2, 1, 0, 15, 7, 0⟩,
  ⟨0x51010002, 256, 64, 3, 2, 2, 0, 15, 7, 0xFFFF⟩,
  ⟨0x51010003, 256, 64, 2, 1, 1, 0, 15, 0, 0⟩,
  ⟨0x51010004, 256, 64, 4, 6, 4, 0, 15, 7, 0⟩,
  ⟨0x51010005, 256, 64, 3, 2, 2, 0, 15, 7, 0⟩,
  ⟨0x51010006, 256, 64, 4, 1, 4, 0, 15, 0, 0⟩,
  ⟨0x51010007, 256, 64, 12, 2, 4096, 0, 15, 7, 0⟩,
  ⟨0x51010008, 256, 64, 3, 1, 2, 0, 15, 0, 0xFFFF⟩,
  ⟨0x60000000, 256, 40, 6, 1, 4, 0, 15, 0, 0⟩,
  ⟨0x60000001, 256, 40, 6, 2, 4, 0, 15, 7, 0⟩,
  ⟨0x60000002, 256, 40, 6, 2, 4, 0, 15, 7, 0⟩,
  ⟨0x60000003, 256, 40, 6, 2, 4, 0, 15, 7, 0x80000000⟩,
  ⟨0x60000004, 256, 40, 9, 1, 1, 0, 15, 0, 3⟩,
  ⟨0x61000100, 1, 1, 3, 1, 2, 0, 15, 0, 0x4000⟩,
  ⟨0x61000200, 1, 1, 4, 1, 4, 0, 15, 0, 0⟩]

/-- Entries from key 0x61000300. -/
def dictEntries11 : List EntryD := [
  ⟨0x61000300, 1, 1, 13, 1, 64, 16384, 15, 0, 0⟩,
  ⟨0x61000400, 1, 1, 5, 1, 8, 0, 15, 0, 0⟩,
  ⟨0x61000500, 1, 1, 4, 6, 4, 0, 15, 15, 0⟩,
  ⟨0x62000100, 1, 1, 3, 1, 2, 0, 15, 0, 0⟩,
  ⟨0x62000200, 1, 1, 3, 6, 2, 0, 15, 7, 0⟩,
  ⟨0x62000300, 1, 1, 13, 1, 48, 4, 15, 0, 0⟩,
  ⟨0x62000400, 1, 1, 10, 1, 4, 0, 15, 0, 0⟩,
  ⟨0x62000500, 1, 1, 2, 6, 1, 0, 15, 7, 0⟩,
  ⟨0x62000600, 1, 1, 13, 1, 48, 6, 15, 0, 0⟩,
  ⟨0x62000700, 1, 1, 2, 1, 1, 0, 15, 0, 0⟩,
  ⟨0x62010100, 256, 12, 5, 1, 8, 0, 15, 0, 0⟩,
  ⟨0x70000100, 1, 1, 5, 1, 8, 0, 15, 0, 0⟩,
  ⟨0x70000200, 1, 1, 1, 1, 1, 0, 15, 0, 0⟩,
  ⟨0x70010000, 256, 57, 12, 1, 64, 0, 15, 0, 0⟩,
  ⟨0x70010001, 256, 57, 12, 1, 64, 0, 15, 0, 0⟩,
  ⟨0x70010002, 256, 57, 4, 1, 4, 0, 15, 0, 0⟩,
  ⟨0x70010003, 256, 57, 10, 4, 4, 0, 15, 7, 0⟩,
  ⟨0x71000100, 1, 1, 9, 1, 1, 0, 15, 0, 0⟩,
  ⟨0x71000200, 1, 1, 2, 6, 1, 0, 15, 7, 0⟩,
  ⟨0x71000300, 1, 1, 9, 1, 1, 0, 15, 0, 0⟩,
  ⟨0x71000400, 1, 1, 10, 1, 4, 0, 15, 0, 0⟩,
  ⟨0x71000500, 1, 1, 5, 1, 8, 0, 15, 0, 0⟩,
  ⟨0x71000600, 1, 1, 4, 1, 4, 0, 15, 0, 0⟩,
  ⟨0x71000700, 1, 1, 1, 2, 1, 0, 15, 7, 1⟩,
  ⟨0x71000800, 1, 1, 1, 2, 1, 0, 15, 7, 0⟩,
  ⟨0x71000900, 1, 1, 4, 1, 4, 0, 15, 0, 0⟩,
  ⟨0x71001000, 1, 1, 5, 2, 8, 0, 15, 7, 0⟩,
  ⟨0x71001100, 1, 1, 5, 2, 8, 0, 15, 7, 0⟩,
  ⟨0x71001200, 1, 1, 5, 2, 8, 0, 15, 7, 0⟩,
  ⟨0x71001300, 1, 1, 2, 6, 1, 0, 15, 7, 0⟩]

/-- Entries from key 0x71001400. -/
def dictEntries12 : List EntryD := [
  ⟨0x71001400, 1, 1, 9, 1, 1, 0, 15, 0, 0⟩,
  ⟨0x71001500, 1, 1, 5, 1, 8, 0, 15, 0, 0⟩,
  ⟨0x71001600, 1, 1, 4, 1, 4, 0, 15, 0, 0⟩,
  ⟨0x71001700, 1, 1, 12, 1, 4096, 0, 15, 0, 0⟩,
  ⟨0x71002000, 1, 1, 1, 5, 1, 0, 15, 7, 0⟩]

/-- Every entry of the dictionary, in key order of the families' first keys. -/
def dictEntries : List EntryD :=
  dictEntries0 ++ dictEntries1 ++ dictEntries2 ++ dictEntries3 ++ dictEntries4 ++ dictEntries5 ++ dictEntries6 ++ dictEntries7 ++ dictEntries8 ++ dictEntries9 ++ dictEntries10 ++ dictEntries11 ++ dictEntries12

/-- The entry a key belongs to. -/
def EntryD.holds (e : EntryD) (k : Nat) : Bool :=
  decide (e.base ≤ k) && (decide (k - e.base < e.stride * e.count) && decide ((k - e.base) % e.stride = 0))

/-- The defined entry of a key, if any (R433, check 2). -/
def entryOf (k : Nat) : Option EntryD := dictEntries.find? (fun e => e.holds k)

/-- Power-up limits of sensor `ss` as two's complement patterns (R448). -/
def sensorWarnLo (ss : Nat) : Nat :=
  if ss = 0 then 55000 else if ss = 0x10 then 10000 else 0x80000000

/-- Power-up upper limits (R448). -/
def sensorWarnHi (ss : Nat) : Nat :=
  if ss = 0 then 71000 else if ss = 1 then 48000 else if ss = 2 then 2500000
  else if ss ≤ 7 then 95000 else if ss ≤ 0x0F then 85000 else if ss = 0x10 then 45000
  else if ss = 0x11 then 60000 else if ss ≤ 0x17 then 70000 else 85000

/-- Entries whose power-up value is not zero: first key, stride, count, value (R426). -/
def powerUpRows : List (Nat × Nat × Nat × Nat) := [
  (0x00000100, 1, 1, 0x676E697475706D6F4320766F726F7254),
  (0x00000200, 1, 1, 0x344E4C206C616E6E614C),
  (0x00000300, 1, 1, 0x4D2D344E4C2D565254),
  (0x00000400, 1, 1, Config.fuseSerial),
  (0x00000500, 1, 1, Config.fuseUnique),
  (0x00000600, 1, 1, Config.fusePkgRev),
  (0x00000700, 1, 1, Config.fuseModuleRev),
  (0x00000800, 1, 1, 0x10000),
  (0x01000100, 1, 1, 1),
  (0x01000200, 1, 1, 7),
  (0x01002000, 1, 1, 1),
  (0x01002300, 1, 1, 3),
  (0x10000100, 1, 1, 0xFF),
  (0x10000300, 1, 1, 0xA28),
  (0x11000700, 1, 1, 0x2710),
  (0x20000100, 1, 1, 0x40),
  (0x20000200, 1, 1, 0xFF),
  (0x21000100, 1, 1, 0x40),
  (0x21000200, 1, 1, 0x3F),
  (0x21000300, 1, 1, 0x1000),
  (0x21000400, 1, 1, 0x100000),
  (0x22000100, 1, 1, 2),
  (0x22001000, 1, 1, 0x40),
  (0x22001100, 1, 1, 7),
  (0x22001200, 1, 1, 0x10000),
  (0x22001300, 1, 1, 0x10000),
  (0x22001400, 1, 1, 0x100),
  (0x22001500, 1, 1, 0x10),
  (0x22001600, 1, 1, 0x10000),
  (0x22001700, 1, 1, 0x4000),
  (0x22010001, 256, 64, 4),
  (0x23000100, 1, 1, 0x40),
  (0x24000200, 1, 1, 0x10),
  (0x24000300, 1, 1, 4),
  (0x24000400, 1, 1, 0x1FF),
  (0x25000100, 1, 1, 0x10),
  (0x25000200, 1, 1, 0x1F),
  (0x25000300, 1, 1, 0x1000),
  (0x26000100, 1, 1, 0x100000),
  (0x26000200, 1, 1, 8),
  (0x26000400, 1, 1, 0x100000),
  (0x26000500, 1, 1, 0x64),
  (0x26000600, 1, 1, 0x14),
  (0x26000700, 1, 1, 0x3E8),
  (0x26010002, 256, 256, 1),
  (0x27000100, 1, 1, 4),
  (0x27000200, 1, 1, 0x3F),
  (0x28000100, 1, 1, 0x10),
  (0x28000200, 1, 1, 0x1F),
  (0x30000200, 1, 1, 1),
  (0x30000300, 1, 1, 1),
  (0x30000400, 1, 1, 0x100),
  (0x30000500, 1, 1, 0x40),
  (0x30000600, 1, 1, 0xC0),
  (0x30000700, 1, 1, 0x1000),
  (0x30000800, 1, 1, 4),
  (0x30000900, 1, 1, 0x10000),
  (0x30000A00, 1, 1, 0x14),
  (0x30000B00, 1, 1, 0x2710),
  (0x31000100, 1, 1, 8),
  (0x31000200, 1, 1, 0x18),
  (0x32000100, 1, 1, 0x10),
  (0x32000300, 1, 1, 0x18),
  (0x40000100, 1, 1, 6),
  (0x40000200, 1, 1, 1),
  (0x40000300, 1, 1, 0xFFFF),
  (0x40001100, 1, 1, 0xFFFF),
  (0x40002100, 1, 1, 0xFFFF),
  (0x40003000, 1, 1, 0x40),
  (0x40003100, 1, 1, 8),
  (0x40003200, 1, 1, 0xC8),
  (0x40003300, 1, 1, 6),
  (0x40003400, 1, 1, 0x200),
  (0x40003500, 1, 1, 0xF),
  (0x40003600, 1, 1, 2),
  (0x40003700, 1, 1, 0x2710),
  (0x40003800, 1, 1, 0x1388),
  (0x40010000, 256, 6, 1),
  (0x40010003, 256, 6, 0xFFFF),
  (0x41000100, 1, 1, 6),
  (0x41000200, 1, 1, 0xF),
  (0x41000300, 1, 1, 0xA),
  (0x41000400, 1, 1, 0xF4240),
  (0x50000100, 1, 1, 0x4C34),
  (0x50010001, 256, 64, 0xFFFF),
  (0x50010002, 256, 64, 1),
  (0x51000100, 1, 1, 0x40),
  (0x51000400, 1, 1, 0x186A0),
  (0x51000500, 1, 1, 0x3E8),
  (0x51010002, 256, 64, 0xFFFF),
  (0x51010008, 256, 64, 0xFFFF),
  (0x60000003, 256, 40, 0x80000000),
  (0x60000004, 256, 40, 3),
  (0x61000100, 1, 1, 0x4000),
  (0x71000700, 1, 1, 1)]

/-- The power-up value of the entry at key `k` (R426); 0 for an undefined key. -/
def powerUp (k : Nat) : Nat :=
  if Key.senValue ≤ k ∧ k < Key.senValue + 40 * 256 ∧ k % 256 = 1 then sensorWarnLo ((k / 256) % 256)
  else if Key.senValue ≤ k ∧ k < Key.senValue + 40 * 256 ∧ k % 256 = 2 then sensorWarnHi ((k / 256) % 256)
  else match powerUpRows.find? (fun r => decide (r.1 ≤ k) && (decide (k - r.1 < r.2.1 * r.2.2.1) &&
      decide ((k - r.1) % r.2.1 = 0))) with
    | some r => r.2.2.2
    | none => 0

end Sys2Proof.Machine
end

