-- ==== Sys2Proof/Machine/Parts.lean ====
section
/-! DEFINITION. The pieces of state the chapters give the module, as plain data: descriptors in flight, queues,
objects and pages, tables, the hot row directory, vector units, strands, apertures, mailboxes. -/

namespace Sys2Proof.Machine
open Sys2Proof

/-! ## Descriptors in flight (chapter 6) -/

/-- Where a fetched descriptor stands: fetched, started on its engine, its effects done with acknowledgements
still owed, or its result decided and its completion due (R145, R151). -/
inductive Phase where
  | fetched | running | acks | done
  deriving DecidableEq, Repr

/-- Bytes a remote module returned for a read of a descriptor (R226), and which module that was. -/
structure RBuf where
  obj : Nat
  off : Nat
  data : List Byte
  peer : Nat := 0
  deriving DecidableEq, Repr

/-- The launch a batch belongs to, its chain position and strands (R161). -/
structure BatchTag where
  launch : LKey
  pos : Nat
  die : Nat
  cluster : Nat
  seqs : List Nat
  spill : Bool
  query : Bool
  deriving DecidableEq, Repr

/-- A descriptor in flight (R143, R145, R150). `readyAt` orders candidates (R169); `ver` is the table slot and
version a look-up resolved (R240), `vers` those a query's other reads resolved, out of `snap`, what each slot's
CUR was when it started (R28); `order` numbers the starts of the module, 0 for one that has not started; `owed` counts
acknowledgements outstanding, `readFail` is the failure a remote read was answered with (R355). `req` marks work done for a
request of another module: its module and TXID; `reqQc` is that request's class (R22). `holds` names the modules that hold
a part of a staging row for it, with object and row (R233, log 107). -/
structure Work where
  ref : WRef
  desc : List Byte
  phase : Phase := .fetched
  unit : Nat := 0
  readyAt : Option Nat := none
  began : Nat := 0
  status : Nat := 0
  acc : Acc := {}
  events : Nat := 0
  owed : Nat := 0
  rbuf : List RBuf := []
  readFail : Option Nat := none
  req : Option (Nat × Nat) := none
  ver : Option (Nat × Nat) := none
  batch : Option BatchTag := none
  cursor : Nat := 0
  names : List Nat := []
  order : Nat := 0
  vers : List (Nat × Nat) := []
  reqQc : Bool := false
  holds : List (Nat × Nat × Nat) := []
  snap : List (Nat × Nat) := []
  deriving DecidableEq, Repr

/-- The indices of a work queue (R143, R396): absolute counts from its enabling. `doneAt` holds the complete
positions at or above the frontier, `failed` those that completed with failure (R154); `ringApt`, `complApt`
and `cpiApt` say which rings lie in an aperture (R400); `lost` says that PERST_N disabled the queue, so that records
still owed are discarded (R394, log 61). `gen` counts the enablings that found such descriptors still in progress: a
descriptor's name holds it above its position (log 103). `hdmBase` is the base of the HDM range when the queue was enabled: it
says where in an aperture a ring lies (R400). -/
structure Queue where
  prod : Nat := 0
  cons : Nat := 0
  compl : Nat := 0
  next : Nat := 0
  frontier : Nat := 0
  doneAt : List Nat := []
  failed : List Nat := []
  stopped : Bool := false
  ringApt : Bool := false
  complApt : Bool := false
  cpiApt : Bool := false
  unnotified : Nat := 0
  firstAt : Nat := 0
  lost : Bool := false
  gen : Nat := 0
  hdmBase : Nat := 0
  deriving DecidableEq, Repr

/-- An addend on its way to a memory-side adder (R229, R73): the issuing descriptor, if it is of this module, the
module and die it comes from, target element, format, window of an XA128 addend, pattern, class; the gather-scatter engine it
counts to, and whether it has the slot of its die's pool it enters with (R15, R221). -/
structure Addend where
  issuer : Option WRef
  peer : Nat
  die : Nat
  obj : Nat
  elem : Nat
  fmt : Fmt
  tsrc : Int := 0
  val : Nat
  qc : Bool := false
  gse : Option Nat := none
  sent : Bool := true
  deriving DecidableEq, Repr

/-! ## Vector units (chapter 5) -/

/-- A vector unit (R114): each register is 512 words, lane 0 first, each predicate 512 bits, predicate 0 the
active mask; base registers, loop counters, lane flags; the program held (R118); position, batch and
instructions issued of the descriptor in progress, with the VEC_LIMIT_DEFAULT it started under (R429); the items of the batch's lanes (R117, R134, R162); the paired
matrix descriptor with its M, N, C, drain mode and output format, then of its OUT the row pitch, the object's row pitch
and elements per row, and the handle's offset; the OUT rows of its bin list (R173); whether the batch has read the drain
and whether the pair has failed (R135). -/
structure VecUnit where
  work : Option WRef := none
  prog : Nat := 0
  progStamp : Option Nat := none
  words : List Nat := []
  regs : Tab (List Word) := []
  preds : Tab (List Bool) := []
  base : Tab DWord := []
  loops : Tab Word := []
  laneFlags : List Ev := []
  items : List Nat := []
  pos : Nat := 0
  batch : Nat := 0
  issued : Nat := 0
  limit : Nat := 0
  pair : Option WRef := none
  shape : List Nat := []
  outRows : List Nat := []
  drained : Bool := false
  cancel : Bool := false
  deriving DecidableEq, Repr

/-- A predictor bind slot (R176-R178): `l1` holds the words the bind computed, `stamp` the weight object's
write stamp at that moment. -/
structure Bind where
  wgt : Nat := 0
  table : Nat := 0
  l1 : Nat := 0
  k : Nat := 0
  n : Nat := 0
  fmt : Nat := 0
  mode : Nat := 0
  rank : Nat := 0
  shift : Nat := 0
  gate : Nat := 0
  used : Bool := false
  stamp : Nat := 0
  deriving DecidableEq, Repr

/-! ## Arrays (chapter 4) -/

/-- A row in a drain queue: its row and first column in the output, and per column the rounded bits with the
block exponent (mode VEC) or the raw value with its window (mode RAW) (R105, R134). -/
structure DrainRow where
  row : Nat
  col : Nat
  vals : List (Int × Int)
  deriving DecidableEq, Repr

/-- A bank of weight registers (R95): by column of the stationary the exponent and digits of the slice loaded, block
after block of 32 contraction indices, and in 2:4 mode the selects of the groups (R100). -/
structure Bank where
  cols : List Nat := []
  digits : List (List (Int × List Int)) := []
  selects : List (List Nat) := []
  deriving DecidableEq, Repr

/-- An output tile that drains (R98): its row batch and column block, the next row, its part of the accumulator store by
row of the batch × 2^32 + column, the maxima of its rows, the columns the predictor leaves out. -/
structure DrainTile where
  rb : Nat
  blk : Nat
  row : Nat := 0
  acc : Tab Int := []
  amax : List (Option Int) := []
  skip : List Nat := []
  deriving DecidableEq, Repr

/-- An array (R85-R98): the descriptor in progress; its row batch, the column blocks to stream for it, the next
stationary as column block, chunk and weight slice; the column blocks of the batch the drain has taken, the tile that
drains, rows drained; the accumulator store, keyed as that of a tile that drains; the held maxima of activation rows and
weight columns (R90-R94); columns already streamed (R64); the predictor's bind and the columns of the batch it leaves
out (R178, R181); the status of a check that failed while a tile drains (R93, R102); the accumulator entries poisoned (R481); the drain queue; the two weight
banks, and the tag that entering elements take (R95, R96). -/
structure ArrUnit where
  work : Option WRef := none
  rb : Nat := 0
  begun : Bool := false
  blocks : List (List Nat) := []
  blk : Nat := 0
  ck : Nat := 0
  sw : Nat := 0
  outs : List Nat := []
  drain : Option DrainTile := none
  rows : Nat := 0
  acc : Tab Int := []
  amax : List (Option Int) := []
  wmax : List (Option Int) := []
  seen : List Nat := []
  bind : Option Bind := none
  skip : List Nat := []
  failed : Option Nat := none
  bad : List Nat := []
  queue : List DrainRow := []
  fore : Bank := {}
  shadow : Bank := {}
  tag : Bool := false
  deriving DecidableEq, Repr

/-! ## Objects, pages and tables (chapters 8 and 10) -/

/-- The home of a page as this module holds it (R292, R322): a frame of its own, a page of the backing range,
awaiting its content from the previous home, displaced there, or there with no room left in the displaced list. -/
inductive Home where
  | frame (addr : Nat)
  | host (addr : Nat)
  | awaiting (coord : Nat)
  | displaced (coord : Nat)
  | unlisted (coord : Nat)
  deriving DecidableEq, Repr

/-- A page record (R292, R311, R321); `again`: a move within the module was refused and is planned again (R322); `shut`:
the page's new home could not list it as displaced, so that every access to it fails (R322). -/
structure PageRec where
  page : Nat
  home : Home
  held : Bool := false
  cold : Nat := 0
  again : Bool := false
  shut : Bool := false
  deriving DecidableEq, Repr

/-- The tag word of a row of a versioned table (R238). -/
structure TagW where
  ver : Nat := 0
  sver : Nat := 0
  shadow : Nat := 0
  deriving DecidableEq, Repr

/-- A declared object (R303-R309). `num = 0` is the undeclared object; `die` owns the queue that declared it;
`stamp` counts writes (R118, R178); `undeclaring` is the
order number of the UNDECLARE in progress (R310). -/
structure Obj where
  num : Nat := 0
  fmt : Nat := 0
  role : Nat := 0
  tslot : Nat := 0
  t : Int := 0
  rowlen : Nat := 0
  shadow : Nat := 0
  rows : Nat := 0
  hints : Nat := 0
  scope : Nat := 0
  stripe : Nat := 0
  backing : Nat := 0
  hostAddr : Nat := 0
  rowBase : Nat := 0
  die : Nat := 0
  pages : List PageRec := []
  tags : Tab TagW := []
  shadows : Tab (List Byte) := []
  stamp : Nat := 0
  undeclaring : Option Nat := none
  deriving DecidableEq, Repr

/-- Version state of a table slot (R237, R241, R242); `oldIdle` is when the last reference to OLD ended. -/
structure TableSlot where
  obj : Nat := 0
  cur : Nat := 0
  old : Option Nat := none
  draftOpen : Bool := true
  oldIdle : Nat := 0
  deriving DecidableEq, Repr

/-- Kinds of directory entries (R246). -/
inductive DirKind where
  | pinned | cache | reloc
  deriving DecidableEq, Repr

/-- States of a relocation entry (R246, R253). -/
inductive MState where
  | resident | copying | draining | moved
  deriving DecidableEq, Repr

/-- A directory entry (R246) of shard `die`; a hot copy lies at `addr` (module physical), a moved row at module
`coord` and relocation slot `slot`. -/
structure DirEntry where
  die : Nat
  set : Nat
  way : Nat
  kind : DirKind
  mstate : MState := .resident
  table : Nat
  row : Nat
  ver : Nat := 0
  addr : Nat := 0
  bytes : Nat := 0
  coord : Nat := 0
  slot : Nat := 0
  delta : Nat := 0
  deriving DecidableEq, Repr

/-- A row migration in progress (R253): `destCoord`, `destDie` and, once granted, `destAddr` are the new location,
`oldAddr` the old one of a row that goes back; the snapshot; the delta buffer with its entry count and highest
exponent; first entry to COPYING and time of commit. `back` returns a row to its page's home (R327); `timeoutUs` and
`lingerUs` are the settings it started under (R429). -/
structure Migration where
  obj : Nat
  row : Nat
  state : MState
  destCoord : Nat
  destDie : Nat
  destAddr : Nat := 0
  granted : Bool := false
  oldAddr : Nat := 0
  snapshot : List Byte := []
  delta : Tab Nat := []
  deltaN : Nat := 0
  deltaHigh : Nat := 0xFF
  start : Nat
  commitAt : Nat := 0
  promote : Bool := false
  back : Bool := false
  timeoutUs : Nat := 0
  lingerUs : Nat := 0
  deriving DecidableEq, Repr

/-- A row migration planned (R321, R256). -/
structure MigPlan where
  obj : Nat
  row : Nat
  destCoord : Nat
  destDie : Nat
  promote : Bool := false
  back : Bool := false
  deriving DecidableEq, Repr

/-- A missed query look-up whose home read has returned, on die `die`: the data and version tag it returned
(R252). -/
structure Fill where
  die : Nat
  obj : Nat
  row : Nat
  ver : Nat := 0
  data : List Byte := []
  deriving DecidableEq, Repr

/-- A row whose home is a location of this module that is not its page's (R253). -/
structure Guest where
  obj : Nat
  row : Nat
  addr : Nat
  deriving DecidableEq, Repr

/-- The hot row directory of the four shards (R246-R252): entries, sketch counters by
262,144 × die + 65,536 × k + i, query look-ups since the last halving by die, fills due, migrations in progress and
planned, and the rows that have moved to a location of this module. -/
structure Directory where
  entries : List DirEntry := []
  sketch : Tab Nat := []
  lookups : Tab Nat := []
  fills : List Fill := []
  migs : List Migration := []
  plans : List MigPlan := []
  guests : List Guest := []
  deriving DecidableEq, Repr

/-- States of a page move (R323). -/
inductive MoveState where
  | planned | copying | draining | moved
  deriving DecidableEq, Repr

/-- A page move (R323): source; destination module, and on it the tier and die wanted and, once chosen or granted,
the frame. `cause` is the RESIDE that waits for it; `q` is the page's local sequence there (R316);
`promote`: a write of a row in the host tier waits for it (R317); `timeoutUs` and `lingerUs` are the settings it started
under (R429). -/
structure Move where
  obj : Nat
  page : Nat
  state : MoveState := .planned
  src : Home
  coord : Nat
  tier : Nat := 1
  die : Option Nat := none
  q : Nat := 0
  chosen : Bool := false
  dest : Nat := 0
  dirty : List Nat := []
  start : Nat := 0
  commitAt : Nat := 0
  hold : Bool := false
  cause : Option WRef := none
  mandatory : Bool := false
  promote : Bool := false
  timeoutUs : Nat := 0
  lingerUs : Nat := 0
  deriving DecidableEq, Repr

/-- Space of this module that a placement engine elsewhere may write by physical address: a frame for a page, or
a row's location (R350). -/
structure Grant where
  coord : Nat
  obj : Nat
  unit : Nat
  isRow : Bool
  addr : Nat
  len : Nat
  deriving DecidableEq, Repr

/-- An access record of a sample store (R320): object, page, row, requesting module and its die. -/
structure Sample where
  die : Nat
  obj : Nat
  page : Nat
  row : Nat
  byDie : Nat
  byCoord : Nat
  deriving DecidableEq, Repr

/-- The placement engine (chapter 10): home table and the one before, membership it names, moves, sample
stores, accesses served since the last sample by unit. -/
structure Placement where
  home : Tab Nat := []
  prev : Tab Nat := []
  members : List Nat := []
  moves : List Move := []
  samples : List Sample := []
  served : Tab Nat := []
  grants : List Grant := []
  deriving DecidableEq, Repr

/-- Memory by module physical address, and the first addresses of its poisoned codewords (R294, R298, R299). -/
structure Memory where
  bytes : Tab Byte := []
  poison : List Nat := []
  deriving DecidableEq, Repr

/-! ## Strands and the predictor (chapter 6) -/

/-- A template record of a chain (R159). -/
structure TRec where
  desc : List Byte
  countAt : Nat
  next : Nat
  bin : Bool
  binCap : Nat
  experts : Nat
  stride : Nat
  expMax : Nat
  deriving DecidableEq, Repr

/-- States of a strand record (R165). -/
inductive SState where
  | ready | issued | binned | forward
  deriving DecidableEq, Repr

/-- A resident strand record (R165); `die` is the pool it lies in, `since` when it reached its position,
`target` where a strand awaiting forward is homed. -/
structure Strand where
  die : Nat
  item : Nat
  key : Nat
  seq : Nat
  launch : LKey
  etype : Nat
  pos : Nat
  query : Bool
  state : SState
  since : Nat
  batch : Nat := 0
  targetCoord : Nat := 0
  targetDie : Nat := 0
  deriving DecidableEq, Repr

/-- A launch-table entry of its origin die (R160, R164). -/
structure Launch where
  key : LKey
  work : WRef
  cluster : Nat
  query : Bool
  desc : List Byte
  chain : Tab (Option TRec)
  n : Nat
  nextSeq : Nat := 0
  retired : Nat := 0
  acc : Acc := {}
  spills : Nat := 0
  failure : Option Nat := none
  sentTo : List (Nat × Nat) := []
  deriving DecidableEq, Repr

/-- A copy of a launch's validated chain on another die or module (R167). -/
structure ChainCopy where
  key : LKey
  die : Nat
  cluster : Nat
  query : Bool
  chain : Tab (Option TRec)
  failed : Bool := false
  deriving DecidableEq, Repr

/-- A batch list or bin list in the dispatch area of a die (R161, R166, R173). -/
structure ListArea where
  batch : Nat
  die : Nat
  off : Nat
  len : Nat
  deriving DecidableEq, Repr

/-- Launches, chain copies, strand pools, the batches instantiated and their lists (R160-R168); `areas` names the
object through which a die's dispatch area is reached while it holds a list (log 30). -/
structure Strands where
  launches : List Launch := []
  copies : List ChainCopy := []
  pool : List Strand := []
  nextBatch : Nat := 0
  lists : List ListArea := []
  areas : Tab Nat := []
  deriving DecidableEq, Repr

/-! ## The host interface (chapter 13) -/

/-- States of an aperture (R402). -/
inductive AptState where
  | unbound | bound | unbinding
  deriving DecidableEq, Repr

/-- An aperture (R401, R402). -/
structure Aperture where
  state : AptState := .unbound
  obj : Nat := 0
  off : Nat := 0
  len : Nat := 0
  deriving DecidableEq, Repr

/-- A line the host may hold (R404): aperture, line number, whether the host may have modified it. -/
structure HostLine where
  apt : Nat
  line : Nat
  modified : Bool
  deriving DecidableEq, Repr

/-- A host access to an aperture that waits: offset in the device range, bytes read, or the bytes written (R323, R491). -/
structure HostAcc where
  off : Nat
  len : Nat
  wr : Option (List Byte)
  deriving DecidableEq, Repr

/-- The CXL controller (R391-R408): HDM decoder, filter, viral, configuration space and primary mailbox ready, time of
the accepted PERST_N edge, host timestamp offset; the words of the MSI-X table (R395), that of a vector's control held
as it differs from masked (log 145), the vectors pending in the bit array; the device and component registers by BAR0
offset as they differ from their power-up values (log 146); the host accesses that wait, oldest first (R323, R491). -/
structure Cxl where
  hdm : Option (Nat × Nat) := none
  hdmError : Bool := false
  filter : List HostLine := []
  apts : Tab Aperture := []
  config : Tab Nat := []
  ready : Bool := false
  viral : Bool := false
  stamp : Nat := 0
  stampAt : Nat := 0
  msix : Tab Nat := []
  msixDue : List Nat := []
  regs : Tab Nat := []
  held : List HostAcc := []
  deriving DecidableEq, Repr

/-- States of a mailbox channel (R412). -/
inductive ChState where
  | free | held | posted | replied
  deriving DecidableEq, Repr

/-- A mailbox channel (R409-R412); `notice`: the control processors whose
interrupt follows once Noon is reached (R414, R415). -/
structure Chan where
  state : ChState := .free
  expired : Bool := false
  owner : Nat := 0
  code : Nat := 0
  len : Nat := 0
  buf : Tab Byte := []
  peer : Nat := 0xFFFF
  grantAt : Nat := 0
  notice : List Nat := []
  deriving DecidableEq, Repr

/-- The dictionary server and its transports (R425, R436-R441): locked RWO keys, responses kept by source
address, the source of the last accepted request, MCTP endpoint ID; when the service of each buffered I3C message and field
network frame ends (R436, R438, log 95). -/
structure Server where
  locked : List Nat := []
  kept : List (Nat × Nat × List Byte) := []
  lastSrc : Option Nat := none
  eid : Nat := 0
  i3cDue : List Nat := []
  flnDue : List Nat := []
  deriving DecidableEq, Repr

/-- The Almanac ring (R456): entries held, oldest first. -/
structure Almanac where
  next : Nat := 0
  held : List (List Byte) := []
  deriving DecidableEq, Repr

/-- What the module sends (the model's own record, log 6). -/
inductive Out where
  | msix (vector : Nat)
  | ibi (data : Nat)
  | frame (dst : Nat) (body : List Byte)
  | irq (master : Nat)
  | dictResp (src : DictSrc) (msg : List Byte)
  | biSnoop (inv : Bool) (line : Nat)
  | rdCurr (line : Nat)
  | itoMWr (line : Nat) (data : List Byte)
  | woWrInv (line : Nat) (be : List Bool) (data : List Byte)
  | provisionalId (id : Nat)
  | hdmData (data : List Byte) (poison : Bool)
  | snoopResp
  | config (value : Nat) (retry : Bool)
  | register (value : Nat)
  | mailbox (code : Nat) (data : List Byte)
  | doe (data : List Byte)
  | mctp (data : List Byte)
  | hostError
  | hostFlit (data : List Byte)
  | flit (port : Nat) (data : List Byte)
  | codewords (port : Nat) (words : List (List Nat))
  | exchange (port : Nat) (data : List Byte)
  deriving DecidableEq, Repr

/-! ## The fabric (chapter 11) -/

/-- A fabric packet: header (R349), multicast extension (R357) and payload. `sum` is the CRC it carries. -/
structure Pkt where
  ty : Nat
  tc : Nat := 0
  vc : Nat := 0
  ord : Bool := false
  flag : Bool := false
  ce : Bool := false
  ece : Bool := false
  mc : Bool := false
  dst : Nat := 0
  src : Nat := 0
  epoch : Nat := 0
  part : Nat := 0
  eph : Nat := 0
  sdie : Nat := 0
  seq : Nat := 0
  txid : Nat := 0
  len : Nat := 0
  addr : Nat := 0
  aux : Nat := 0
  qc : Bool := false
  shr : Bool := false
  sum : Nat := 0
  xmask : Nat := 0
  ymask : Nat := 0
  zmask : Nat := 0
  stage : Nat := 0
  dir : Bool := false
  payload : List Byte := []
  deriving DecidableEq, Repr

/-- A Sluice window as its source holds it (R352, R354): packets kept until acknowledged, packets waiting for
the window's limit or for RESUME. -/
structure SrcWin where
  peer : Nat
  tc : Nat
  next : Nat := 0
  kept : List Pkt := []
  waiting : List Pkt := []
  cw : Nat
  recover : Nat := 0xFFFF
  ackRun : Nat := 0
  lastSent : Nat := 0
  resends : Nat := 0
  since : Nat := 0
  deriving DecidableEq, Repr

/-- A Sluice window as its receiver holds it (R352). -/
structure RcvWin where
  peer : Nat
  tc : Nat
  expect : Nat := 0
  unacked : Nat := 0
  firstAt : Nat := 0
  ce : Bool := false
  deriving DecidableEq, Repr

/-- Kinds of initiator transactions (R355). -/
inductive TxKind where
  | rd | wr | add | strand | chain | update | mailbox | place | row
  deriving DecidableEq, Repr

/-- A transaction this module has issued and not seen answered (R355); `busyAt` is when a BUSY answer came; `sent`
says that its packet has left, so that a request holds its slot of R15; `gse` is the gather-scatter engine it counts to
(R221). -/
structure Txn where
  id : Nat
  kind : TxKind
  pkt : Pkt
  issuer : Option WRef
  obj : Nat := 0
  off : Nat := 0
  start : Nat := 0
  busyAt : Option Nat := none
  sent : Bool := false
  gse : Option Nat := none
  deriving DecidableEq, Repr

/-- A multicast packet in progress (R359): destinations not accounted for; whether they were sent it again; `held`
until the fabric runs (R361). -/
structure MCast where
  id : Nat
  pkt : Pkt
  issuer : WRef
  left : List Nat
  start : Nat
  resent : Bool := false
  held : Bool := false
  deriving DecidableEq, Repr

/-- A fabric port (R337-R343, R348): lanes active, sequence numbers, replay buffer, credit held, credit to
return, chunks of the packet being received, packets waiting in and out; chunks granted and not yet in a flit, with the
positions among them at which packets start (R342). `timed`: the link has been UP, so that the timeout of R339 runs. Of the
link after PARK and WIDEN came together, `darkDue`: the peer goes dark (R509). Of the
lanes (R335, R336): how many carry each direction (R340), bytes not yet in a codeword, bytes received that are no whole flit yet, the last 58 bits of each
lane's scrambler and descrambler, the times of the uncorrectable codewords of the last millisecond (R338). -/
structure Port where
  lanes : Nat := 16
  rxLanes : Nat := 16
  parkSet : Bool := false
  peerPark : Bool := false
  widenSet : Bool := false
  peerWiden : Bool := false
  relocked : Bool := false
  darkDue : Bool := false
  nextSeq : Nat := 0
  expect : Nat := 0
  nakAt : Option Nat := none
  replay : List (Nat × List Byte) := []
  shared : Nat := 8192
  classes : Tab Nat := []
  freed : Tab Nat := []
  chunks : List Byte := []
  inq : List Pkt := []
  outq : List Pkt := []
  stream : List Byte := []
  starts : List Nat := []
  streak : Nat := 0
  peerPart : Nat := 0
  trainAt : Nat := 0
  lastValid : Nat := 0
  timed : Bool := false
  txLine : List Byte := []
  txHist : List Nat := []
  rxLine : List Byte := []
  rxHist : List Nat := []
  badAt : List Nat := []
  deriving DecidableEq, Repr

/-- A staging row an adder has read out, or read out and cleared, in one atomic read for a module that takes it in
pieces: the module, the die and the AUX of its requests, the handle of the part's first byte (R233, log 107). -/
structure RowRead where
  peer : Nat
  die : Nat
  tag : Nat
  addr : Nat
  data : List Byte
  deriving DecidableEq, Repr

/-- A staging row of which a part here has been taken for a read-out or clear of the whole row, and which takes no addition
until that has all its parts: the module that asked for it, the die and the tag of the taker (R233, log 107). -/
structure RowHold where
  peer : Nat
  die : Nat
  tag : Nat
  obj : Nat
  row : Nat
  deriving DecidableEq, Repr

/-- The Hexnov side of the hub (chapter 11); `loose` holds control packets until the module may initiate them (R361,
R483). -/
structure Fabric where
  ports : Tab Port := []
  src : List SrcWin := []
  rcv : List RcvWin := []
  txns : List Txn := []
  nextTx : Nat := 0
  inbox : List Pkt := []
  mcasts : List MCast := []
  reads : List RowRead := []
  holds : List RowHold := []
  loose : List Pkt := []
  drainAt : Nat := 0
  deriving DecidableEq, Repr

/-! ## Reduction (chapter 12) -/

/-- A packet of a reduction context that waits for credit or for the neighbour's RED_JOIN: phase code (4 for check
pieces), the module it goes to, the piece payload (R373, R375). -/
structure RedOut where
  phase : Nat
  dst : Nat
  payload : List Byte
  deriving DecidableEq, Repr

/-- A piece's values on the way down or waiting for its comparison: summed ENTRIES and HIGHEST, RSC bits, and the
XA128 values, or per block its exponent followed by 32 mantissas (R375, R385). -/
structure RedPiece where
  entries : Nat := 0
  high : Nat := 0
  rsc : Nat := 0
  vals : List Int := []
  deriving DecidableEq, Repr

/-- A reduction context (R371): the descriptor's range and parameters, this rank, the members in rank order; per
phase the pieces sent, the count last reported by the receiver, the pieces taken here; pieces received and not yet
taken; pieces that wait to be sent; own contributions by piece; agreed exponents and local maxima by block of the
range; of the dual-path check the own values and results by block, the blocks gathered for the next check piece and
the pieces formed so far;
at the last rank, totals that wait for their comparison; pieces written; the status RED_END brought. -/
structure RedCtx where
  work : WRef
  redid : Nat
  step : Nat
  wstart : Nat
  mode : Nat
  obj : Nat
  first : Nat
  nrows : Nat
  rowlen : Nat
  t : Int
  n : Nat
  rank : Nat
  coords : List Nat
  dp : Bool
  shift : Nat
  watchUs : Nat := 0
  joined : Bool := false
  sent : Tab Nat := []
  room : Tab Nat := []
  took : Tab Nat := []
  inq : List Pkt := []
  outq : List RedOut := []
  own : Tab RedPiece := []
  agreed : Tab Nat := []
  chkOwn : Tab (List Int) := []
  chkRes : Tab (List Int) := []
  chkOut : List (Nat × List Int) := []
  chkN : Nat := 0
  totals : Tab RedPiece := []
  read : Nat := 0
  agreeRead : Nat := 0
  written : Nat := 0
  compared : Nat := 0
  mismatches : Nat := 0
  firstBad : Option Nat := none
  ended : Option Nat := none
  acc : Acc := {}
  events : Nat := 0
  lastAt : Nat := 0
  deriving DecidableEq, Repr

/-- The check pieces of one rank that a relay holds in its store of first or of second hops (R384): how many it has sent on,
and the count the next module last reported. -/
structure Relay where
  redid : Nat
  origin : Nat
  second : Bool
  held : List (List Byte) := []
  done : Nat := 0
  room : Nat := 0
  deriving DecidableEq, Repr

/-- The reduction engine (R371, R374, R381, R384, R386): contexts, RED_JOINs that came before their REDUCE (sender and
payload), aborts kept (identifier, step, status, time), whether a FENCED bit was set since the last cutover, the relay
stores, the identifier and step of each REDUCE started. -/
structure RedEngine where
  ctxs : List RedCtx := []
  joins : List (Nat × List Byte) := []
  aborts : List (Nat × Nat × Nat × Nat) := []
  fencedSince : Bool := false
  relays : List Relay := []
  steps : List (Nat × Nat) := []
  deriving DecidableEq, Repr

/-! ## Power, pins, boot, sensors, errors, freeze (chapters 15 to 18) -/

/-- Power and pins (R498-R515, R523-R528): hot-swap switch closed, opened by overcurrent, when PWR_EN was accepted
low; the management domain runs; rows of R503 in regulation, the VOPT rails as two, those of them the present state has
switched off, and when the next was enabled; the rails of a
transition or of steps 7 to 12 rise; THERMTRIP_N; the transition in progress with the state it
leads to, whether a wake stopped it, the steps of an entry done and the deepest state whose rail or memory actions have begun
(R509, R510), the state to enter once Noon is reached; a freeze or a wake kept; steps below
the full issue rate; when the module last had work; accepted levels of the filtered inputs; end of the ALERT_N pulse;
last INPUT_STORM entry of a refused PWR_REQUEST; strapped slot; boundary-scan cells. -/
structure Power where
  closed : Bool := false
  tripped : Bool := false
  lowAt : Nat := 0
  managed : Bool := false
  rows : Nat := 0
  down : List Nat := []
  rowAt : Nat := 0
  raising : Bool := false
  thermtrip : Bool := false
  target : Option Nat := none
  stopping : Bool := false
  stage : Nat := 0
  deep : Nat := 0
  after : Option Nat := none
  freezeDue : Option (Nat × Nat) := none
  wakeHeld : Bool := false
  throttle : Nat := 0
  idleAt : Nat := 0
  pwrEn : Bool := false
  perstN : Bool := false
  freezeN : Bool := true
  wakeN : Bool := true
  alertEnd : Nat := 0
  stormAt : Option Nat := none
  cells : List Bool := []
  deriving DecidableEq, Repr

/-- Firmware (R453, R458-R468): staging and running bank; a running image exists; the state before LOADING; the last
loader; last write of the loader; start of an activation; the memory units have trained; expiries of the watchdog;
the two fuse cells of each of the 64 SVN steps, blown as 1, by 2 × step + cell (R459); revoked slots, steps blown since
power-up, the commit in progress; the alias key and certificate of the
last image start; when each Weir limit last wrote its entry; the times of the in-band interrupts and of firmware's Almanac
entries of the last second; the working SRAM (R452). -/
structure Boot where
  staging : Tab Byte := []
  running : Tab Byte := []
  hasImage : Bool := false
  before : Nat := 0
  loader : Nat := 0
  loadAt : Nat := 0
  startAt : Nat := 0
  memReady : Bool := false
  dogs : List Nat := []
  cells : Tab Nat := []
  revoked : Nat := 0
  blown : Nat := 0
  commit : Option Nat := none
  aliasKey : Option Nat := none
  aliasCert : List Byte := []
  weirAt : Tab Nat := []
  ibiAt : List Nat := []
  markAt : List Nat := []
  sram : Tab Byte := []
  deriving DecidableEq, Repr

/-- Sensor sampling (R449, R454, R455): consecutive samples at or above the trip threshold and the time of the last
warning, by sensor. -/
structure Sensors where
  hot : Tab Nat := []
  warned : Tab Nat := []
  deriving DecidableEq, Repr

/-- Errors and freeze (R482, R483, R489-R494): fatal handling in progress; units stopped; ports UP at the
freeze; when it began (R490); the address, length and destination a read-out started with (R429, R494). -/
structure ErrState where
  fatal : Bool := false
  stopped : List Nat := []
  upAt : List Nat := []
  frozeAt : Nat := 0
  readAddr : Nat := 0
  readLen : Nat := 0
  readDest : Nat := 0
  deriving DecidableEq, Repr

end Sys2Proof.Machine
end

