-- ==== Sys2Proof/Machine/State.lean ====
section
/-! DEFINITION. The state of the module as plain data, the state after reset, and the ways a step can stop. -/

namespace Sys2Proof.Machine
open Sys2Proof

/-- The model's faults. No rule of the spec stops the whole block: every error is a status, a result code, a
record or a counter, so no meaning raises one. -/
inductive Fault where
  /-- Raised by nobody; kept so that the type is inhabited. Safe. -/
  | stuck
  deriving DecidableEq, Repr

/-- The model's refusals. -/
inductive Refusal where
  /-- A command whose meaning is not written yet; raised by the dispatcher alone. Safe. -/
  | notModelled (mnemonic : String)
  deriving DecidableEq, Repr

/-- Every piece of state the spec gives the module, the queue of waiting commands, and the model's own `out` and
`fresh`. `starts` counts descriptors started; `lines` holds, by page or table slot, the descriptors held there in
order of arrival (R242, R323). The values of dictionary entries are in `dict` by packed key (R11); an unlisted key reads as its
power-up value (R426). -/
structure State where
  pending : List Instr := []
  time : Nat := 0
  fresh : Nat := 0
  out : List Out := []
  dict : Tab Nat := []
  mem : Memory := {}
  host : Tab Byte := []
  hostPoison : List Nat := []
  objs : Tab Obj := []
  slots : Tab TableSlot := []
  queues : Tab Queue := []
  work : List Work := []
  tick : Nat := 0
  starts : Nat := 0
  lines : Tab (List WRef) := []
  guard : Tab Nat := []
  turn : Tab Nat := []
  addends : List Addend := []
  arr : Tab ArrUnit := []
  vec : Tab VecUnit := []
  strands : Strands := {}
  binds : Tab Bind := []
  dir : Directory := {}
  place : Placement := {}
  fab : Fabric := {}
  cxl : Cxl := {}
  mbx : Tab Chan := []
  srv : Server := {}
  alm : Almanac := {}
  red : RedEngine := {}
  pwr : Power := {}
  boot : Boot := {}
  sens : Sensors := {}
  err : ErrState := {}
  deriving DecidableEq, Repr

/-- The module with input power removed: every entry at its power-up value, every unit empty (R3, R426). -/
def State.reset : State := {}

end Sys2Proof.Machine
end

