-- ==== Sys2Proof/Machine/Ops.lean ====
section
/-! DEFINITION. The named operations every family shares: dictionary registers, the time base, the Almanac, the
torus and its fence table, module memory with its poison, objects and where their bytes live, and the reads
and writes of an engine. -/

namespace Sys2Proof.Machine
open Sys2Proof

/-! ## Registers, time, output -/

/-- The value of the dictionary register at key `k` (R426). -/
def reg (s : State) (k : Nat) : Nat := Tab.get (powerUp k) s.dict k

/-- Sets the register at key `k`. -/
def setReg (s : State) (k v : Nat) : State := { s with dict := Tab.set (powerUp k) s.dict k v }

/-- Adds to a 64-bit counter. -/
def bump (s : State) (k n : Nat) : State := setReg s k (wrap64 (reg s k + n))

/-- Adds to a 32-bit counter that sticks at its top. -/
def bump32 (s : State) (k n : Nat) : State := setReg s k (stick32 (reg s k + n))

/-- The time base never runs backward (R150). -/
def atTime (s : State) (t : Nat) : State := { s with time := max s.time t }

/-- Records something the module sends (log 6). -/
def send (s : State) (o : Out) : State := { s with out := s.out ++ [o] }

/-- Records several things the module sends, in order. -/
def sendAll (s : State) (os : List Out) : State := { s with out := s.out ++ os }

/-- A value the spec leaves open (log 1). -/
def drawFree (s : State) : Nat × State := (Config.freeValue s.fresh, { s with fresh := s.fresh + 1 })

/-- An Almanac entry (R456, R457): origin, unit, kind, status, step, tag, data. -/
def almEntry (seq time origin unit kind status step tag : Nat) (data : List Byte) : List Byte :=
  leBytes 4 seq ++ leBytes 8 time ++ leBytes 1 origin ++ leBytes 1 unit ++ leBytes 2 kind ++
  leBytes 2 status ++ leBytes 2 0 ++ leBytes 4 step ++ leBytes 4 tag ++ (data ++ List.replicate 36 0).take 36

/-- Writes one Almanac entry; a full ring overwrites its oldest (R456). -/
def almFull (s : State) (origin unit kind status step tag : Nat) (data : List Byte) : State :=
  let e := almEntry s.alm.next s.time origin unit kind status step tag data
  let full := decide (16384 ≤ s.alm.held.length)
  let held := (if full then s.alm.held.drop 1 else s.alm.held) ++ [e]
  let s := { s with alm := { next := (s.alm.next + 1) % 2 ^ 32, held := held } }
  if full then bump s Key.almOverwritten 1 else s

/-- An Almanac entry that concerns no descriptor. -/
def alm (s : State) (unit kind : Nat) (data : List Byte) : State := almFull s 0 unit kind 0 0 0 data

/-- The module is in Noon and its compute is not stopped by a freeze (R490, R504). -/
def computing (s : State) : Bool := decide (reg s Key.pwrState = 0) && decide (reg s Key.frzState = 0)

/-- A page may move: compute runs, or the module enters Midnight or New Moon (R509, R510). -/
def movable (s : State) : Bool := computing s || (s.pwr.target.isSome && decide (reg s Key.frzState = 0))

/-- The module empties its scratchpad for Midnight or New Moon (R509). -/
def evicting (s : State) : Bool := s.pwr.target == some 3 || s.pwr.target == some 4

/-- Notes the moment of work the idle time of R507 is counted from. -/
def touch (s : State) : State := { s with pwr := { s.pwr with idleAt := s.time } }

/-- A wake event is on its way to the power sequencer (R508); from New Moon only a strong one occurs. -/
def raiseWake (s : State) (strong : Bool) : State :=
  if reg s Key.pwrState = 0 ∧ s.pwr.target = none then s
  else if reg s Key.pwrState = 0xFF ∨ (reg s Key.pwrState = 4 ∧ strong = false) then s
  else { s with pwr := { s.pwr with wakeHeld := true } }

/-! ## The torus (R8, R344, R345) -/

/-- x of a coordinate word. -/
def cx (c : Nat) : Nat := bits c 0 4
/-- y of a coordinate word. -/
def cy (c : Nat) : Nat := bits c 4 4
/-- z of a coordinate word. -/
def cz (c : Nat) : Nat := bits c 8 4
/-- A coordinate word. -/
def coordOf (x y z : Nat) : Nat := x % 16 + 16 * (y % 16) + 256 * (z % 16)

/-- A partition box: origin and sizes. -/
structure Box where
  origin : Nat
  a : Nat
  b : Nat
  c : Nat
  deriving DecidableEq, Repr

/-- The current box (R344, R365). -/
def boxOf (s : State) : Box :=
  let z := reg s Key.fabBoxSize
  { origin := reg s Key.fabBoxOrigin, a := cx z + 1, b := cy z + 1, c := cz z + 1 }

/-- The coordinates of snake rank `k` (R8). -/
def rankCoord (bx : Box) (k : Nat) : Nat :=
  let xi := k % bx.a
  let row := k / bx.a
  let yi := row % bx.b
  let zi := row / bx.b
  let yo := if zi % 2 = 0 then yi else bx.b - 1 - yi
  let xo := if row % 2 = 0 then xi else bx.a - 1 - xi
  coordOf (cx bx.origin + xo) (cy bx.origin + yo) (cz bx.origin + zi)

/-- Local index of a coordinate in a dimension. -/
def localIx (o c : Nat) : Nat := (c + 16 - o) % 16

/-- The snake rank of a coordinate, if it lies in the box (R8). -/
def coordRank (bx : Box) (c : Nat) : Option Nat :=
  let xo := localIx (cx bx.origin) (cx c)
  let yo := localIx (cy bx.origin) (cy c)
  let zi := localIx (cz bx.origin) (cz c)
  if xo < bx.a ∧ yo < bx.b ∧ zi < bx.c then
    let yi := if zi % 2 = 0 then yo else bx.b - 1 - yo
    let row := zi * bx.b + yi
    let xi := if row % 2 = 0 then xo else bx.a - 1 - xo
    some (row * bx.a + xi)
  else none

/-- This module's own coordinates: FAB_COORD as written, whose bits 12..15 are kept and compared with the rest (log 134). -/
def self (s : State) : Nat := reg s Key.fabCoord

/-- The module belongs to a partition (R344). -/
def inPartition (s : State) : Bool := decide (reg s Key.fabPartId ≠ 0)

/-- The FENCED bit of a coordinate (R344). -/
def fenced (s : State) (c : Nat) : Bool :=
  inPartition s && (match coordRank (boxOf s) c with
    | some r => bit (reg s Key.fabFenceTable) (2 * r)
    | none => false)

/-- The NOFWD bit of a coordinate (R344). -/
def noFwd (s : State) (c : Nat) : Bool :=
  match coordRank (boxOf s) c with
  | some r => bit (reg s Key.fabFenceTable) (2 * r + 1)
  | none => false

/-- The members of the partition in member-rank order (R344); outside a partition the module alone. -/
def members (s : State) : List Nat :=
  if inPartition s then
    let bx := boxOf s
    ((List.range (bx.a * bx.b * bx.c)).map (rankCoord bx)).filter (fun c => !fenced s c)
  else [self s]

/-! ## Routes (R345) -/

/-- Direction in one dimension: none when there, some true for + (R345). -/
def dirOf (origin size s d : Nat) : Option Bool :=
  let si := localIx origin s
  let di := localIx origin d
  if si = di then none
  else if size = 16 then some (decide ((di + 16 - si) % 16 ≤ 8))
  else some (decide (si < di))

/-- The output port toward a destination (R345): 2 × dimension + (0 for +, 1 for −). -/
def nextPort (bx : Box) (s d : Nat) : Option Nat :=
  match dirOf (cx bx.origin) bx.a (cx s) (cx d) with
  | some p => some (if p then 0 else 1)
  | none => match dirOf (cy bx.origin) bx.b (cy s) (cy d) with
    | some p => some (if p then 2 else 3)
    | none => match dirOf (cz bx.origin) bx.c (cz s) (cz d) with
      | some p => some (if p then 4 else 5)
      | none => none

/-- The neighbour a port faces. -/
def portPeer (c p : Nat) : Nat :=
  match p with
  | 0 => coordOf (cx c + 1) (cy c) (cz c)
  | 1 => coordOf (cx c + 15) (cy c) (cz c)
  | 2 => coordOf (cx c) (cy c + 1) (cz c)
  | 3 => coordOf (cx c) (cy c + 15) (cz c)
  | 4 => coordOf (cx c) (cy c) (cz c + 1)
  | _ => coordOf (cx c) (cy c) (cz c + 15)

/-- The path from a module to a destination meets a NOFWD module before its end (R360). -/
def pathBlocked (s : State) (bx : Box) (dst : Nat) : Nat → Nat → Bool
  | 0, _ => false
  | fuel + 1, c => match nextPort bx c dst with
    | none => false
    | some p =>
      let n := portPeer c p
      if n = dst then false else noFwd s n || pathBlocked s bx dst fuel n

/-! ## Module memory (R294, R298, R299) -/

/-- Base of the HBM4 region. -/
def hbmBase : Nat := 0x010000000000
/-- Base of the DDR5 region. -/
def ddrBase : Nat := 0x040000000000
/-- Bytes of a scratchpad slice. -/
def sliceBytes : Nat := 0x10000000
/-- Base address of the slice of a global tile (R294). -/
def sliceBase (tile : Nat) : Nat := tile * sliceBytes

/-- Tier of a module physical address (R292, R294). -/
def tierOf (a : Nat) : Nat := if a < hbmBase then 0 else if a < ddrBase then 1 else 2

/-- Codeword size of the tier an address lies in (R298). -/
def cwBytes (a : Nat) : Nat :=
  match tierOf a with
  | 0 => 8
  | 1 => 32
  | _ => 64

/-- The memory unit of an address: tile slices 0..63, HBM4 stacks 64..71, DDR5 channels 72..87. -/
def unitOf (a : Nat) : Nat :=
  match tierOf a with
  | 0 => a / sliceBytes
  | 1 => 64 + (a - hbmBase) / 2 ^ 36
  | _ => 72 + (a - ddrBase) / 2 ^ 38

/-- The die a memory unit is attached to (R14). -/
def unitDie (u : Nat) : Nat := if u < 64 then u / 16 else if u < 72 then (u - 64) / 2 else (u - 72) / 4

/-- First address of the codeword an address lies in. -/
def cwOf (a : Nat) : Nat := a - a % cwBytes a

/-- A poisoned codeword meets the range (R299). -/
def poisoned (m : Memory) (a n : Nat) : Bool :=
  m.poison.any (fun p => decide (p < a + n) && decide (a < p + cwBytes p))

/-- The bytes of a range, unless a codeword of it is poisoned (R299). -/
def readPhys (s : State) (a n : Nat) : Option (List Byte) :=
  if poisoned s.mem a n then none else some (Tab.getRange 0 s.mem.bytes a n)

/-- Writes bytes; a write that covers a whole codeword clears its poison (R299). -/
def writePhys (s : State) (a : Nat) (bs : List Byte) : State :=
  { s with mem :=
    { bytes := Tab.setRange 0 s.mem.bytes a bs
      poison := s.mem.poison.filter (fun p => !(decide (a ≤ p) && decide (p + cwBytes p ≤ a + bs.length))) } }

/-- Marks the codeword an address lies in as poisoned (R299). -/
def poison (s : State) (a : Nat) : State :=
  if cwOf a ∈ s.mem.poison then s
  else { s with mem := { s.mem with poison := s.mem.poison ++ [cwOf a] } }

/-- The 64-byte lines of a range of host memory. -/
def hostLines (a n : Nat) : List Nat := if n = 0 then [] else rangeFrom (a / 64) ((a + n - 1) / 64 + 1 - a / 64)

/-- The requests by which the module reads a range of host memory: RdCurr of each line (R405). -/
def d2hReads (a n : Nat) : List Out := (hostLines a n).map .rdCurr

/-- The request that writes a line's part of a range of host memory: ItoMWr of a whole line, WOWrInv with its byte enables
of a part (R405). -/
def d2hWrite (a : Nat) (bs : List Byte) (l : Nat) : Out :=
  let inside (i : Nat) : Bool := decide (a ≤ 64 * l + i) && decide (64 * l + i < a + bs.length)
  let data := (List.range 64).map (fun i => if inside i then bs.getD (64 * l + i - a) 0 else 0)
  if a ≤ 64 * l ∧ 64 * l + 64 ≤ a + bs.length then .itoMWr l data else .woWrInv l ((List.range 64).map inside) data

/-- Bytes of host memory (R405). -/
def readHost (s : State) (a n : Nat) : Option (List Byte) :=
  if s.hostPoison.any (fun p => decide (p < a + n) && decide (a < p + 64)) then none
  else some (Tab.getRange 0 s.host a n)

/-- Host memory takes bytes at an address. -/
def writeHost (s : State) (a : Nat) (bs : List Byte) : State := { s with host := Tab.setRange 0 s.host a bs }

/-- The module writes host memory (R405). -/
def putHost (s : State) (a : Nat) (bs : List Byte) : State :=
  writeHost (sendAll s ((hostLines a bs.length).map (d2hWrite a bs))) a bs

/-- The host link carries CXL.cache and CXL.mem (R393, R407). -/
def hostLinkUp (s : State) : Bool :=
  decide (reg s Key.cxlLinkState = 2) &&
  (decide (reg s Key.cxlIdeRequired = 0) || decide (reg s Key.cxlIdeState = 3))

/-- A word of the MSI-X table; an unwritten vector control reads masked (R391, R395, log 145). -/
def msixWord (c : Cxl) (w : Nat) : Nat :=
  let v := Tab.get 0 c.msix w
  if w % 4 = 3 then Nat.xor v 1 else v

/-- A vector's message, or while it is masked its bit in the pending bit array (R395, log 145). -/
def raiseMsix (s : State) (v : Nat) : State :=
  if bit (msixWord s.cxl (4 * v + 3)) 0 then
    (if v ∈ s.cxl.msixDue then s else { s with cxl := { s.cxl with msixDue := s.cxl.msixDue ++ [v] } })
  else send s (.msix v)

/-- The SVN steps of which a cell is blown, up to the first that has none (R459). -/
def Boot.svn (b : Boot) : Nat :=
  ((List.range 64).takeWhile (fun i => Tab.get 0 b.cells (2 * i) == 1 || Tab.get 0 b.cells (2 * i + 1) == 1)).length

/-! ## Objects (R9, R10, R303-R309) -/

/-- Object number of a handle (R9). -/
def hObj (h : Nat) : Nat := h / 2 ^ 40
/-- Offset of a handle (R9). -/
def hOff (h : Nat) : Nat := h % 2 ^ 40

/-- The object of a number; `num = 0` when undeclared. -/
def objOf (s : State) (n : Nat) : Obj := Tab.get {} s.objs n

/-- Changes an object's record. -/
def setObj (s : State) (o : Obj) : State := { s with objs := Tab.set {} s.objs o.num o }

/-- The object's format; its code was checked when it was declared (R307). -/
def Obj.format (o : Obj) : Fmt := (Fmt.ofCode o.fmt).getD .u8

/-- Rounds up to a multiple of 64 (R110, R194). -/
def pad64 (n : Nat) : Nat := cdiv n 64 * 64

/-- Row pitch of a declaration (R306): format, elements per row, size of a byte object. -/
def pitchOf (f : Fmt) (rowlen rows : Nat) : Nat :=
  if rowlen = 0 then rows
  else if f = .xa128 then 64 + 16 * rowlen
  else pad64 (f.rowBytes rowlen)

/-- Row pitch of an object; a byte object is one row. -/
def Obj.pitch (o : Obj) : Nat := pitchOf o.format o.rowlen o.rows

/-- Declared size (R306). -/
def Obj.size (o : Obj) : Nat := if o.rowlen = 0 then o.rows else o.rows * o.pitch

/-- Row count; a byte object is one row. -/
def Obj.rowCount (o : Obj) : Nat := if o.rowlen = 0 then 1 else o.rows

/-- Roles WEIGHTS, TRAIN_TABLE and QUERY_TABLE are versioned (R304). -/
def Obj.versioned (o : Obj) : Bool := o.role == 2 || o.role == 5 || o.role == 6

/-- The roles of training state (R23). -/
def Obj.trainingState (o : Obj) : Bool := o.role == 2 || o.role == 3 || o.role == 4 || o.role == 5 || o.role == 8

/-- The object is declared. -/
def Obj.declared (o : Obj) : Bool := o.num != 0

/-- R10 for an object's record. -/
def Obj.spans (o : Obj) (off len : Nat) : Bool := o.declared && decide (off + len ≤ o.size)

/-! ## The common header (R147, R148) -/

/-- OPCODE. -/
def Work.op (w : Work) : Nat := field w.desc 0 2
/-- Engine class: bits 8..15 of the opcode. -/
def Work.cls (w : Work) : Nat := w.op / 256
/-- FLAGS. -/
def Work.flags (w : Work) : Nat := field w.desc 2 2
/-- Fence-before. -/
def Work.fb (w : Work) : Bool := bit w.flags 0
/-- Fence-after. -/
def Work.fa (w : Work) : Bool := bit w.flags 1
/-- Completion wanted. -/
def Work.cw (w : Work) : Bool := bit w.flags 2
/-- Query class (R22). -/
def Work.qc (w : Work) : Bool := bit w.flags 3
/-- Precision mode P. -/
def Work.prec (w : Work) : Nat := bits w.flags 4 2
/-- Eligible for the dual-path check. -/
def Work.dp (w : Work) : Bool := bit w.flags 6
/-- Rounding mode bits (R48). -/
def Work.rnd (w : Work) : Nat := bits w.flags 7 2
/-- TAG. -/
def Work.tag (w : Work) : Nat := field w.desc 4 4
/-- STEP. -/
def Work.step (w : Work) : Nat := field w.desc 8 4
/-- LAYER. -/
def Work.layer (w : Work) : Nat := field w.desc 12 2 % 4096
/-- DEPS. -/
def Work.deps (w : Work) : Nat := field w.desc 14 2
/-- The table slots and versions a descriptor's reads are resolved to (R28, R240): that of its look-ups, those of a
query's other reads, for a CKPT_EXPORT the ones noted after the seed and Ephemeris version of its start (R287). -/
def Work.refs (w : Work) : List (Nat × Nat) :=
  w.ver.toList ++ w.vers ++ (if w.op = 0x0702 ∧ w.req = none then (w.names.drop 2).map (fun x => (x / 65536, x % 65536)) else [])
/-- A field of the descriptor. -/
def Work.f (w : Work) (at_ n : Nat) : Nat := field w.desc at_ n

/-- What names a descriptor alike in every run of a plan (R81): its queue, position and content; of a batch its place in the
chain and its header, as which strands share a batch is timing (R163). -/
def Work.place (w : Work) : List Nat :=
  match w.batch, w.ref with
  | some t, _ => [t.pos, leNat (w.desc.take 16)]
  | none, .q q n => [q, n, leNat w.desc]
  | none, .b n => [n, leNat w.desc]

/-- The open value at a place `ks` of a descriptor's work, under a job seed and an Ephemeris version (R81, log 150). -/
def openWord (seed eph : Nat) (w : Work) (ks : List Nat) : Nat := Config.openValue ([seed, eph] ++ w.place ++ ks)

/-- The open value at a place of a descriptor's work. -/
def openHere (s : State) (w : Work) (ks : List Nat) : Nat := openWord (reg s Key.genSeed) (reg s Key.ephPin) w ks

/-- The dispatcher a descriptor belongs to, as 4 × die + cluster (R142, log 20). -/
def Work.dsp (w : Work) : Nat :=
  match w.ref, w.batch with
  | _, some b => 4 * b.die + b.cluster % 4
  | .q q _, none => q / 16 * 4 + q % 16 / 4
  | .b _, none => 4 * w.unit

/-- The die a descriptor runs on. -/
def Work.die (w : Work) : Nat := w.dsp / 4

/-- The object through which a die's reserved dispatch area is reached (R166, log 30). -/
def isArea (s : State) (n : Nat) : Bool := s.strands.areas.any (fun e => e.2 == n)

/-- A descriptor may name a declared object: one that is being undeclared only if it started before the UNDECLARE
(R310), a dispatch area only if it is a batch, whose lists lie there (R166). -/
def mayName (w : Work) (s : State) (o : Obj) : Bool :=
  o.declared &&
  (match o.undeclaring with
    | none => true
    | some k => decide (w.order ≠ 0) && decide (w.order < k)) &&
  (w.batch.isSome || !isArea s o.num)

/-- R10 for `len` bytes from `d` bytes past a handle of a descriptor; a sum that leaves the 40 bits of an offset is
beyond every object. -/
def handleAt (w : Work) (s : State) (h d len : Nat) : Bool :=
  let o := objOf s (hObj h)
  o.spans (hOff h + d) len && mayName w s o

/-- R10 for a handle of a descriptor. -/
def handleOk (w : Work) (s : State) (h len : Nat) : Bool := handleAt w s h 0 len

/-- The element position of a handle's row 0 within its object: rows are counted from the handle's offset. -/
def rowAt (o : Obj) (h row : Nat) : Nat := hOff h + row * o.pitch

/-- The home-table entry of a page of a SPREAD object (R314). -/
def homeEntry (o : Obj) (p : Nat) : Nat := (p / 2 ^ o.stripe + o.num * 0x9E3779B1) % 4096

/-- A home-table word: 0 is the module itself (R315), otherwise coordinates + 1. -/
def homeWord (s : State) (t : Tab Nat) (e : Nat) : Nat :=
  match Tab.get 0 t e with
  | 0 => self s
  | c + 1 => c

/-- The module a page is homed on (R313, R314). -/
def pageModule (s : State) (o : Obj) (p : Nat) : Nat :=
  if o.scope = 0 then self s else homeWord s s.place.home (homeEntry o p)

/-- The home of a page under a table. -/
def homeUnder (s : State) (t : Tab Nat) (o : Obj) (p : Nat) : Nat := homeWord s t (homeEntry o p)

/-- The local sequence of a page under a table on this module (R316). -/
def seqUnder (s : State) (t : Tab Nat) (o : Obj) (p : Nat) : Nat :=
  ((List.range p).filter (fun k => homeUnder s t o k == self s)).length

/-- The page sequence q of R297: the page number of a LOCAL object, the local sequence of a SPREAD one. -/
def localSeq (s : State) (o : Obj) (p : Nat) : Nat := if o.scope = 0 then p else seqUnder s s.place.home o p

/-- The directory's table number of an object (R246). -/
def Obj.tableNo (o : Obj) : Nat := if o.versioned then o.tslot else 0xFF

/-- The directory's row number of a row (R309). -/
def Obj.rowNo (o : Obj) (row : Nat) : Nat := if o.versioned then row else o.rowBase + row

/-- Where a moved row lies (R249): module, and the address when it is this one. -/
def movedRow (s : State) (o : Obj) (row : Nat) : Option (Nat × Nat) :=
  match s.dir.guests.find? (fun g => g.obj == o.num && g.row == row) with
  | some g => some (self s, g.addr)
  | none => (s.dir.entries.find? (fun e => decide (e.kind = .reloc) && decide (e.mstate = .moved) &&
      e.table == o.tableNo && e.row == o.rowNo row)).map (fun e => (e.coord, e.addr))

/-- The page record a module holds. -/
def Obj.page (o : Obj) (p : Nat) : Option PageRec := o.pages.find? (fun r => r.page == p)

/-- The move of a page in progress (R323). -/
def moveOf (s : State) (n p : Nat) : Option Move :=
  s.place.moves.find? (fun m => m.obj == n && m.page == p && decide (m.state ≠ .planned))

/-- Where a byte of an object is served: module memory, host memory, another module, a status, or held while
its page drains (R323). -/
inductive Loc where
  | here (addr : Nat)
  | hostM (addr : Nat)
  | remote (coord : Nat)
  | stop (status : Nat)
  | wait
  deriving DecidableEq, Repr

/-- Status codes (R152, R219, R257, R289, R330, R364, R389, R417, R484). -/
def Status.ok : Nat := 0x0000
/-- PARTIAL. -/
def Status.partialOk : Nat := 0x0001
/-- CANCELLED. -/
def Status.cancelled : Nat := 0x0002
/-- TIMEOUT. -/
def Status.timeout : Nat := 0x0003
/-- FENCED. -/
def Status.fenced : Nat := 0x0004
/-- FAULT_HANDLE. -/
def Status.handle : Nat := 0x0010
/-- FAULT_FORMAT. -/
def Status.format : Nat := 0x0011
/-- FAULT_SHAPE. -/
def Status.shape : Nat := 0x0012
/-- FAULT_OPCODE. -/
def Status.opcode : Nat := 0x0013
/-- FAULT_CLASS. -/
def Status.cls : Nat := 0x0014
/-- FAULT_EPHEMERIS. -/
def Status.ephemeris : Nat := 0x0015
/-- FAULT_TIER. -/
def Status.tier : Nat := 0x0016
/-- FAULT_ALIAS. -/
def Status.aliased : Nat := 0x0017
/-- FAULT_DRAIN. -/
def Status.drain : Nat := 0x0018
/-- FAULT_POISON. -/
def Status.poison : Nat := 0x0019
/-- FAULT_HW. -/
def Status.hw : Nat := 0x001A
/-- FAULT_SPARSE_META. -/
def Status.sparseMeta : Nat := 0x0101
/-- FAULT_EXPMAX. -/
def Status.expMax : Nat := 0x0102
/-- FAULT_PREDICT. -/
def Status.predict : Nat := 0x0103
/-- FAULT_VPROG. -/
def Status.vprog : Nat := 0x0201
/-- FAULT_INDEX. -/
def Status.index : Nat := 0x0501
/-- FAULT_VERSION. -/
def Status.version : Nat := 0x0502
/-- FAULT_SHADOW. -/
def Status.shadow : Nat := 0x0503
/-- FAULT_STAGE. -/
def Status.stage : Nat := 0x0504
/-- FAULT_GRAPH. -/
def Status.graph : Nat := 0x0301
/-- FAULT_NBR_OVERFLOW. -/
def Status.nbrOverflow : Nat := 0x0401
/-- FAULT_CELL. -/
def Status.cell : Nat := 0x0402
/-- FAULT_SAVE_FULL. -/
def Status.saveFull : Nat := 0x0701
/-- FAULT_RESTORE. -/
def Status.restore : Nat := 0x0702
/-- FAULT_CKPT. -/
def Status.ckpt : Nat := 0x0703
/-- FAULT_REDUCE_MISMATCH. -/
def Status.mismatch : Nat := 0x0801
/-- FAULT_REDUCE_TIMEOUT. -/
def Status.redTimeout : Nat := 0x0802
/-- FAULT_REDUCE_PARAM. -/
def Status.redParam : Nat := 0x0803
/-- FAULT_ROUTE. -/
def Status.route : Nat := 0x0810
/-- FAULT_MAILBOX. -/
def Status.mailbox : Nat := 0x0811
/-- FAULT_TEMPLATE. -/
def Status.template : Nat := 0x0901
/-- FAULT_DECLARE. -/
def Status.declare : Nat := 0x0A01
/-- FAULT_CAPACITY. -/
def Status.capacity : Nat := 0x0A02
/-- FAULT_EPOCH. -/
def Status.epoch : Nat := 0x0A03

/-- FAULT_STAGE of R227 is 0x0504; OK and PARTIAL are success (R152). -/
def success (st : Nat) : Bool := st == 0 || st == 1

/-- A remote module: FAULT_ROUTE outside the box (R345), FENCED when it is fenced or its path crosses a NOFWD module
(R226, R328, R360). -/
def remoteLoc (s : State) (c : Nat) : Loc :=
  if (coordRank (boxOf s) c).isNone then .stop Status.route
  else if fenced s c || pathBlocked s (boxOf s) c 64 (self s) then .stop Status.fenced
  else .remote c

/-- Where a page's home serves an offset; `shut`: no access to the page is served (R322). -/
def homeLoc (s : State) (shut : Bool) (off : Nat) (h : Home) : Loc :=
  match h with
  | .frame a => if shut then .stop Status.capacity else .here (a + off % 65536)
  | .host a => if shut then .stop Status.capacity else .hostM (a + off % 65536)
  | .awaiting c => remoteLoc s c
  | .displaced c => remoteLoc s c
  | .unlisted _ => .stop Status.capacity

/-- Where the page of an offset is served (R292, R313, R322, R323). -/
def locatePage (s : State) (o : Obj) (off : Nat) : Loc :=
  let p := off / 65536
  match moveOf s o.num p with
  | some m =>
    if m.state = .draining then .wait
    else match m.state, m.coord == self s with
      | .moved, true => .here (m.dest + off % 65536)
      | .moved, false => remoteLoc s m.coord
      | _, _ => homeLoc s ((o.page p).any (·.shut)) off m.src
  | none =>
    match o.page p with
    | some r => homeLoc s r.shut off r.home
    | none =>
      let c := pageModule s o p
      if c = self s then .stop Status.capacity else remoteLoc s c

/-- An HBM4 stack or DDR5 channel that has failed: accesses to it complete FAULT_POISON (R477, R482). -/
def unitFailed (s : State) (u : Nat) : Bool :=
  if u < 64 then false
  else if u < 72 then reg s (Key.hbmState + (u - 64)) == 3
  else reg s (Key.ddrState + (u - 72)) == 5

/-- A location in a failed memory unit is lost (R482). -/
def alive (s : State) (l : Loc) : Loc :=
  match l with
  | .here a => if unitFailed s (unitOf a) then .stop Status.poison else .here a
  | l => l

/-- Where a byte of an object is served: a moved row first (R249), else its page. -/
def locate (s : State) (o : Obj) (off : Nat) : Loc :=
  let row := if o.rowlen = 0 then 0 else off / o.pitch
  alive s (match (if o.rowlen = 0 then none else movedRow s o row) with
  | some e => if e.1 = self s then .here (e.2 + off % o.pitch) else remoteLoc s e.1
  | none => locatePage s o off)

/-- The pieces of a range that lie in one aligned span of `g` bytes: offset and length. -/
def pieces (g : Nat) : Nat → Nat → Nat → List (Nat × Nat)
  | 0, _, _ => []
  | fuel + 1, off, len =>
    if len = 0 then []
    else
      let n := min len (g - off % g)
      (off, n) :: pieces g fuel (off + n) (len - n)

/-- The 16-byte spans of a range: each lies in one row and one page. -/
def spans16 (off len : Nat) : List (Nat × Nat) := pieces 16 (len / 16 + 2) off len

/-- Every page of a range lies in the scratchpad of die `d` (R110, R129, R225). -/
def inScratch (s : State) (d : Nat) (h len : Nat) : Bool :=
  let o := objOf s (hObj h)
  (pieces 65536 (len / 65536 + 2) (hOff h) len).all (fun p =>
    match locatePage s o p.1 with
    | .here a => tierOf a == 0 && unitDie (unitOf a) == d
    | .wait => true
    | _ => false)

/-- Two handle ranges overlap. -/
def overlaps (h1 n1 h2 n2 : Nat) : Bool :=
  hObj h1 == hObj h2 && decide (hOff h1 < hOff h2 + n2) && decide (hOff h2 < hOff h1 + n1)

/-! ## What an access does beside moving bytes -/

/-- Adds `n` bytes to the read or write counter of the unit an address belongs to (R332, R333). -/
def countBytes (s : State) (wr : Bool) (a n : Nat) : State :=
  let u := unitOf a
  if u < 64 then s
  else if u < 72 then bump s ((if wr then Key.hbmWriteBytes else Key.hbmReadBytes) + (u - 64)) n
  else bump s ((if wr then Key.ddrWriteBytes else Key.ddrReadBytes) + (u - 72)) n

/-- Counts the bytes of a range of an object that lie in this module's memory (R332, R333). -/
def countRange (s : State) (wr : Bool) (o : Obj) (off len : Nat) : State :=
  (spans16 off len).foldl (fun s p => match locate s o p.1 with
    | .here a => countBytes s wr a p.2
    | _ => s) s

/-- The accesses a die's sample store holds at most in one placement epoch (R320). -/
def sampleCap : Nat := 65536

/-- One access served by the unit of address `a` (R320): one in every PLC_SAMPLE_RATE is recorded with the die and
module that asked. -/
def sampleAccess (s : State) (o : Obj) (off a : Nat) (byDie byCoord : Nat) : State :=
  let u := unitOf a
  let n := Tab.get 0 s.place.served u + 1
  if n < reg s Key.plcSampleRate then { s with place := { s.place with served := Tab.set 0 s.place.served u n } }
  else
    let d := unitDie u
    let s := { s with place := { s.place with served := Tab.set 0 s.place.served u 0 } }
    if sampleCap ≤ (s.place.samples.filter (fun x => x.die == d)).length then bump s Key.plcSamplesDropped 1
    else { s with place := { s.place with samples := s.place.samples ++
      [{ die := d, obj := o.num, page := off / 65536, row := (if o.rowlen = 0 then 0 else off / o.pitch),
         byDie := byDie, byCoord := byCoord }] } }

/-- A write to a page in COPYING marks its span of 256 bytes dirty (R323). -/
def markDirty (s : State) (n off : Nat) : State :=
  { s with place := { s.place with moves := s.place.moves.map (fun m =>
      if m.obj == n && m.page == off / 65536 && decide (m.state = .copying) &&
          !(m.dirty.contains ((off % 65536) / 256))
      then { m with dirty := m.dirty ++ [(off % 65536) / 256] } else m) } }

/-- The host-held lines of an object's range that an access meets: a read snoops lines the host may hold
modified, a write or an addition every line it may hold (R404); no snoop is issued while the host link carries none (R407). -/
def snoopRange (s : State) (n off len : Nat) (inv : Bool) : State :=
  if !hostLinkUp s then s else
  let hit (l : HostLine) : Bool :=
    let a := Tab.get {} s.cxl.apts l.apt
    decide (a.state ≠ .unbound) && a.obj == n && decide (a.off + 64 * l.line < off + len) &&
      decide (off < a.off + 64 * l.line + 64) && (inv || l.modified)
  let hits := s.cxl.filter.filter hit
  let s := hits.foldl (fun s l => send s (.biSnoop inv (l.apt * 2 ^ 26 + l.line))) s
  if inv then { s with cxl := { s.cxl with filter := s.cxl.filter.filter (fun l => !hit l) } }
  else { s with cxl := { s.cxl with filter := s.cxl.filter.map (fun l => if hit l then { l with modified := false } else l) } }

/-! ## Versions (R237, R240) -/

/-- `a ≤ b` by the signed 16-bit difference (R237). -/
def verLe (a b : Nat) : Bool := decide ((b + 65536 - a % 65536) % 65536 < 32768)

/-- The version a look-up of a table object resolves to (R240). -/
def resolveVer (s : State) (o : Obj) (v : Nat) : Option Nat :=
  let x := Tab.get {} s.slots o.tslot
  let r := if v = 0xFFFF then x.cur else v
  if r = 0 ∨ (r ≠ x.cur ∧ x.old ≠ some r) then none else some r

/-- The content of a local row under version `v`, and its tag: the row, or the shadow of its earlier content
(R240). -/
def rowUnder (o : Obj) (row v : Nat) : Option (List Byte) :=
  let tag := Tab.get {} o.tags row
  if verLe tag.ver v then none
  else (o.shadows.find? (fun e => e.1 == tag.shadow)).map (·.2)

/-! ## Rows a write meets (R239, R248, R254) -/

/-- Reads bytes of an object all in this module's memory; none at poison or elsewhere. -/
def readLocal (s : State) (o : Obj) (off len : Nat) : Option (List Byte) :=
  (spans16 off len).foldl (fun acc p => match acc, locate s o p.1 with
    | some bs, .here a => (readPhys s a p.2).map (fun x => bs ++ x)
    | _, _ => none) (some [])

/-- The lines of a host-backed object's range that lie in host memory are asked for (R317, R405). -/
def askHost (s : State) (n off len : Nat) : State :=
  let o := objOf s n
  if o.backing = 0 ∨ hostLinkUp s = false then s
  else sendAll s ((pieces 64 (len / 64 + 2) off len).flatMap (fun p => match locate s o p.1 with
    | .hostM a => d2hReads a p.2
    | _ => []))

/-- The bytes of a row of which every part lies in this module's memory or in host memory that can be read (R253, R256). -/
def rowSource (s : State) (o : Obj) (off len : Nat) : Option (List Byte) :=
  (spans16 off len).foldl (fun acc p => match acc, locate s o p.1 with
    | some bs, .here a => (readPhys s a p.2).map (fun x => bs ++ x)
    | some bs, .hostM a => if hostLinkUp s then (readHost s a p.2).map (fun x => bs ++ x) else none
    | _, _ => none) (some [])

/-- What reading a row of an object does beside: lines the host may have modified come back, the host is asked for what lies
in its memory, the units count (R332, R404, R405). -/
def tellRead (s : State) (o : Obj) (off len : Nat) : State :=
  countRange (askHost (snoopRange s o.num off len false) o.num off len) false o off len

/-- Every byte of the codeword at `p` lies in one of the pieces of memory. -/
def covered (ps : List (Nat × Nat)) (p : Nat) : Bool :=
  (List.range (cwBytes p)).all (fun i => ps.any (fun x => decide (x.1 ≤ p + i) && decide (p + i < x.1 + x.2)))

/-- The pieces of a range of an object that lie in this module's memory: address and length. -/
def herePieces (s : State) (o : Obj) (off len : Nat) : List (Nat × Nat) :=
  (spans16 off len).filterMap (fun p => match locate s o p.1 with
    | .here a => some (a, p.2)
    | _ => none)

/-- A write of a range clears the poison of each codeword it covers whole (R299). -/
def clearCovered (s : State) (n off len : Nat) : State :=
  if s.mem.poison.isEmpty then s
  else
    let ps := herePieces s (objOf s n) off len
    { s with mem := { s.mem with poison := s.mem.poison.filter (fun p => !covered ps p) } }

/-- The rows a range of an object meets. -/
def rowsOf (o : Obj) (off len : Nat) : List Nat :=
  if o.rowlen = 0 ∨ len = 0 then [0] else rangeFrom (off / o.pitch) ((off + len - 1) / o.pitch + 1 - off / o.pitch)

/-- What R239 answers to a write of a row. -/
inductive RowWrite where
  | ok (s : State)
  | wait
  | stop (status : Nat)

/-- The lowest shadow slot of a table's pool that is free (R239). -/
def Obj.freeShadow (o : Obj) : Nat :=
  ((List.range (o.shadows.length + 1)).find? (fun k => !o.shadows.any (fun e => e.1 == k))).getD 0

/-- The draft version of a table slot. -/
def draftOf (x : TableSlot) : Nat := (x.cur + 1) % 65536

/-- R239 before the bytes of a row homed here change: the tag, and the shadow of the earlier content. -/
def draftRow (s : State) (n row : Nat) : RowWrite :=
  let o := objOf s n
  if !o.versioned then .ok s
  else
    let x := Tab.get {} s.slots o.tslot
    let tag := Tab.get {} o.tags row
    if !x.draftOpen then .wait
    else if tag.ver = draftOf x ∨ x.cur = 0 then
      .ok (setObj s { o with tags := Tab.set {} o.tags row { tag with ver := draftOf x } })
    else if o.shadow ≤ o.shadows.length then .stop Status.shadow
    else match readLocal s o (row * o.pitch) o.pitch with
      | none => .stop Status.poison
      | some bs =>
        let k := o.freeShadow
        let s := countRange (countRange s false o (row * o.pitch) o.pitch) true o (row * o.pitch) o.pitch
        .ok (setObj s { o with shadows := o.shadows ++ [(k, bs)],
                               tags := Tab.set {} o.tags row { ver := draftOf x, sver := tag.ver, shadow := k } })

/-- R239 for every row of a range whose first byte of the range is homed here. -/
def draftRows (s : State) (n off len : Nat) : RowWrite :=
  let o := objOf s n
  if !o.versioned then .ok s
  else (rowsOf o off len).foldl (fun r row => match r with
    | .ok s => (match locate s o (max off (row * o.pitch)) with
      | .here _ => draftRow s n row
      | _ => .ok s)
    | r => r) (.ok s)

/-- The migration of a row that has not committed (R253). -/
def migrationOf (s : State) (n row : Nat) : Option Migration :=
  s.dir.migs.find? (fun m => m.obj == n && m.row == row && decide (m.state ≠ .moved))

/-- Changes a migration. -/
def setMigration (s : State) (m : Migration) : State :=
  { s with dir := { s.dir with migs := s.dir.migs.map (fun x => if x.obj == m.obj && x.row == m.row then m else x) } }

/-- Sets the state of a row's relocation entry. -/
def setMState (s : State) (o : Obj) (row : Nat) (st : MState) : State :=
  { s with dir := { s.dir with entries := s.dir.entries.map (fun e =>
      if e.kind = .reloc ∧ e.table = o.tableNo ∧ e.row = o.rowNo row then { e with mstate := st } else e) } }

/-- The content of a row under the version `v`, if it lies here unpoisoned, and the version tag of that content (R240). -/
def rowAs (s : State) (o : Obj) (row : Nat) (v : Option Nat) : Option (Nat × List Byte) :=
  let tag := Tab.get {} o.tags row
  match v.bind (rowUnder o row) with
  | some bs => some (tag.sver, bs)
  | none => (readLocal s o (row * o.pitch) o.pitch).map (fun bs => (tag.ver, bs))

/-- Brings every hot copy of a row, and a copy on its way to the cache, to the row's content and tag (R248, log 35). -/
def refreshCopies (s : State) (o : Obj) (row : Nat) : State :=
  let mine (e : DirEntry) : Bool := decide (e.kind ≠ .reloc) && e.table == o.tableNo && e.row == o.rowNo row
  let due (f : Fill) : Bool := f.obj == o.num && f.row == row
  if s.dir.entries.any mine || s.dir.fills.any due then
    match rowAs s o row none with
    | none => { s with dir := { s.dir with
        entries := s.dir.entries.filter (fun e => !mine e), fills := s.dir.fills.filter (fun f => !due f) } }
    | some (ver, bs) =>
      let s := (s.dir.entries.filter mine).foldl (fun s e => writePhys s e.addr bs) s
      { s with dir := { s.dir with
        entries := s.dir.entries.map (fun e => if mine e then { e with ver := ver } else e)
        fills := s.dir.fills.map (fun f => if due f then { f with ver := ver, data := bs } else f) } }
  else s

/-- Adds a transaction to the fabric's table and to its window, where it waits to be sent (R352, R355). -/
def postTxn (s : State) (kind : TxKind) (issuer : Option WRef) (obj off : Nat) (p : Pkt) : State :=
  let id := s.fab.nextTx
  let p := { p with txid := id, src := self s, epoch := reg s Key.fabEpoch, part := reg s Key.fabPartId,
                    eph := reg s Key.ephPin }
  let gse := ((issuer.bind (fun r => s.work.find? (fun w => decide (w.ref = r)))).filter (fun w => w.cls == 5)).map (·.dsp)
  let t : Txn := { id := id, kind := kind, pkt := p, issuer := issuer, obj := obj, off := off, start := s.time, gse := gse }
  let win : SrcWin :=
    (s.fab.src.find? (fun x => x.peer == p.dst && x.tc == p.tc)).getD
      { peer := p.dst, tc := p.tc, cw := reg s Key.sluiceWin }
  let rest := s.fab.src.filter (fun x => !(x.peer == p.dst && x.tc == p.tc))
  { s with fab := { s.fab with
      txns := s.fab.txns ++ [t], nextTx := (id + 1) % 65536,
      src := rest ++ [{ win with waiting := win.waiting ++ [p] }] } }

/-- The die that homes a page on this module; a page in the host tier counts to the die of its DECLARE (log 31). -/
def homeDie (s : State) (o : Obj) (off : Nat) : Nat :=
  match locatePage s o off with
  | .here a => unitDie (unitOf a)
  | _ => o.die

/-- The snapshot of a migration to another module goes to its new location (R253, R350). -/
def sendSnapshot (s : State) (m : Migration) : State :=
  if m.destCoord ≠ self s ∧ m.granted = true then
    postTxn s .row none m.obj m.row
      { ty := 0x03, dst := m.destCoord, addr := m.destAddr, aux := 1, ord := true, flag := true,
        sdie := homeDie s (objOf s m.obj) (m.row * (objOf s m.obj).pitch), len := m.snapshot.length, payload := m.snapshot }
  else s

/-- Posts a PLACE message (R350). -/
def postPlace (s : State) (kind : TxKind) (coord obj unit : Nat) (body : List Byte) : State :=
  postTxn s kind none obj unit { ty := 0x07, dst := coord, aux := 5, len := body.length, payload := body }

/-- The head of a PLACE message (log 34): operation, object, page or row. -/
def placeHead (op obj unit : Nat) : List Byte := leBytes 1 op ++ leBytes 3 obj ++ leBytes 8 unit

/-- A migration ends without its commit: the entry returns to RESIDENT, the new location and the delta buffer are free
(R254, R255). -/
def abortMigration (s : State) (m : Migration) : State :=
  let o := objOf s m.obj
  let s := bump s (Key.migAborts + homeDie s o (m.row * o.pitch)) 1
  let s := touch { s with dir := { s.dir with migs := s.dir.migs.filter (fun x => !(x.obj == m.obj && x.row == m.row)) } }
  let s := if m.back then s else setMState s o m.row .resident
  if m.destCoord = self s ∨ fenced s m.destCoord = true then s
  else postPlace s .row m.destCoord m.obj m.row (placeHead 10 m.obj m.row)

/-- A write to a migrating row restarts its migration in COPYING; where poison lets no snapshot be read it then ends as
one that cannot start does (R254, log 25). -/
def restartMigration (s : State) (o : Obj) (row : Nat) : State :=
  match migrationOf s o.num row with
  | none => s
  | some m =>
    let s := bump s (Key.migRestarts + homeDie s o (row * o.pitch)) 1
    match rowSource s o (row * o.pitch) o.pitch with
    | none => abortMigration s m
    | some bs =>
      let s := tellRead s o (row * o.pitch) o.pitch
      let m := { m with state := .copying, snapshot := bs, delta := [], deltaN := 0, deltaHigh := 0xFF }
      sendSnapshot (setMState (setMigration s m) o row .copying) m

/-- What follows the change of a range of an object: hot copies, migrations, the write stamp (R118, R178). -/
def stampObj (s : State) (n : Nat) : State :=
  let o := objOf s n
  if o.declared then setObj s { o with stamp := o.stamp + 1 } else s

/-- The rows of a range after their bytes have changed. -/
def afterWrite (s : State) (n off len : Nat) : State :=
  let o := objOf s n
  let s := if s.dir.entries.isEmpty && s.dir.migs.isEmpty && s.dir.fills.isEmpty then s
    else (rowsOf o off len).foldl (fun s row => restartMigration (refreshCopies s o row) o row) s
  stampObj s n

/-! ## Descriptors held in order of arrival (R242, R323) -/

/-- The line of a page. -/
def linePage (n page : Nat) : Nat := 2 * (n * 2 ^ 26 + page)
/-- The line of a table slot whose draft is closed. -/
def lineDraft (slot : Nat) : Nat := 2 * slot + 1

/-- The descriptors held in a line, oldest first. -/
def lineOf (s : State) (k : Nat) : List WRef := Tab.get [] s.lines k

/-- A descriptor joins a line, once. -/
def joinLine (s : State) (k : Nat) (r : WRef) : State :=
  if (lineOf s k).contains r then s else { s with lines := Tab.set [] s.lines k (lineOf s k ++ [r]) }

/-- A descriptor leaves lines. -/
def leaveLines (s : State) (r : WRef) (ks : List Nat) : State :=
  ks.foldl (fun s k => { s with lines := Tab.set [] s.lines k ((lineOf s k).filter (fun x => !decide (x = r))) }) s

/-- A descriptor leaves every line. -/
def leaveAll (s : State) (r : WRef) : State :=
  if s.lines.isEmpty then s else leaveLines s r (s.lines.map (·.1))

/-! ## The engines' monad -/

/-- Why an engine stops: a status, a read another module must answer (`aux` is that of its RD_REQ, none for the
version its object is read under), a promotion, the turn of a line, or another condition it waits for. -/
inductive Stop where
  | status (code : Nat)
  | need (coord obj off len : Nat) (aux : Option Nat)
  | promote (obj row : Nat)
  | line (key : Nat)
  | wait
  deriving DecidableEq, Repr

/-- What an engine carries: the state, flags and counts, the event count, responses owed; the descriptor, the die
it runs on, the lines whose turn it has had. -/
structure Ectx where
  s : State
  w : Work
  die : Nat := 0
  acc : Acc := {}
  events : Nat := 0
  owed : Nat := 0
  passed : List Nat := []

/-- An engine's computation: effects stand where it stops. -/
abbrev Eng := ExceptT Stop (StateM Ectx)

/-- What a command's meaning answers: every one of them is a next state. -/
abbrev Res := Host.Outcome State Fault Refusal

/-- The state an engine sees. -/
def getS : Eng State := do return (← get).s

/-- Changes the state. -/
def modS (f : State → State) : Eng Unit := modify (fun c => { c with s := f c.s })

/-- Stops with a status. -/
def stopWith {α : Type} (code : Nat) : Eng α := throw (.status code)

/-- Stops with a status unless a check holds. -/
def require (b : Bool) (code : Nat) : Eng Unit := if b then pure () else stopWith code

/-- One element event (R57). -/
def event (e : Ev) : Eng Unit := modify (fun c => { c with acc := c.acc.add e })

/-- The events of many elements. -/
def eventsOf (a : Acc) : Eng Unit := modify (fun c => { c with acc := c.acc.join a })

/-- The open value at a place of the descriptor's work (R81, log 150). -/
def openAt (ks : List Nat) : Eng Nat := do
  let c ← get
  return openHere c.s c.w ks

/-- Adds to the descriptor's event count. -/
def addEvents (n : Nat) : Eng Unit := modify (fun c => { c with events := stick32 (c.events + n) })

/-- Runs an engine for each element of a list in order. -/
def eachDo {α : Type} (f : α → Eng Unit) : List α → Eng Unit
  | [] => pure ()
  | x :: xs => do f x; eachDo f xs

/-- Runs an engine for each element of a list in order and collects the answers. -/
def mapDo {α β : Type} (f : α → Eng β) : List α → Eng (List β)
  | [] => pure []
  | x :: xs => do
    let y ← f x
    let ys ← mapDo f xs
    pure (y :: ys)

/-- Bytes the spec leaves open (log 150). -/
def openBytes (n : Nat) : Eng (List Byte) := mapDo (fun i => do return BitVec.ofNat 8 (← openAt [i])) (List.range n)

/-- An access goes on when no descriptor held before this one still waits in the line (R242, R323). -/
def takeTurn (k : Nat) : Eng Unit := do
  let c ← get
  match lineOf c.s k with
  | [] => pure ()
  | r :: _ =>
    if r = c.w.ref then modify (fun c => { c with s := leaveLines c.s r [k], passed := k :: c.passed })
    else throw (.line k)

/-- The bytes of a remote range that have already arrived for this descriptor. -/
def inRbuf (w : Work) (n off len : Nat) : Option (List Byte) :=
  match w.rbuf.find? (fun b => b.obj == n && decide (b.off ≤ off) && decide (off + len ≤ b.off + b.data.length)) with
  | some b => some ((b.data.drop (off - b.off)).take len)
  | none => none

/-- Reads one 16-byte span for an engine. -/
def rdSpan (n off len : Nat) : Eng (List Byte) := do
  let c ← get
  let o := objOf c.s n
  let l := locate c.s o off
  if l ≠ .wait then takeTurn (linePage n (off / 65536))
  match l with
  | .here a =>
    match readPhys c.s a len with
    | some bs => modS (fun s => countBytes s false a len); pure bs
    | none => stopWith Status.poison
  | .hostM a =>
    if hostLinkUp c.s then
      match readHost c.s a len with
      | some bs => pure bs
      | none => stopWith Status.poison
    else throw .wait
  | .remote coord =>
    match inRbuf c.w n off len, c.w.readFail with
    | some bs, _ => pure bs
    | none, some st => stopWith st
    | none, none => throw (.need coord n (off - off % 256) (min 256 (o.size - (off - off % 256))) none)
  | .stop st => match inRbuf c.w n off len with
    | some bs => pure bs
    | none => stopWith st
  | .wait => throw (.line (linePage n (off / 65536)))

/-- Samples one access for each request of a read served here (R221, R320). -/
def sampleRead (n off len : Nat) : Eng Unit := do
  let c ← get
  let o := objOf c.s n
  eachDo (fun (p : Nat × Nat) => modS (fun s => match locate s o p.1 with
    | .here a => sampleAccess s o p.1 a c.die ((c.w.req.map (·.1)).getD (self s))
    | _ => s)) (pieces 256 (len / 256 + 2) off len)

/-- Reads bytes of an object in place (R10 is the caller's). -/
def rdPlain (n off len : Nat) : Eng (List Byte) := do
  modS (fun s => askHost (snoopRange s n off len false) n off len)
  let parts ← mapDo (fun p => rdSpan n p.1 p.2) (spans16 off len)
  sampleRead n off len
  pure parts.flatten

/-- The version a query's reads of a table object are resolved to: CUR when its descriptor started (R28, R240). -/
def queryVer (o : Obj) : Eng Nat := do
  let c ← get
  match c.w.refs.find? (fun r => r.1 == o.tslot), c.w.snap.find? (fun r => r.1 == o.tslot) with
  | some r, _ => pure r.2
  | none, some r =>
    require (resolveVer c.s o r.2 == some r.2) Status.version
    modify (fun c => { c with w := { c.w with vers := c.w.vers ++ [r] } })
    pure r.2
  | none, none => stopWith Status.version

/-- Reads part of a row at its home under a version (R240); a shadow's bytes count to the unit of its row (R320, R332,
log 147). -/
def rdUnder (o : Obj) (off len v : Nat) : Eng (List Byte) := do
  let s ← getS
  match locate s o off, rowUnder o (off / o.pitch) v with
  | .here _, some bs =>
    modS (fun s => countRange s false o off len)
    sampleRead o.num off len
    pure ((bs.drop (off % o.pitch)).take len)
  | _, _ => rdPlain o.num off len

/-- Reads bytes of an object: a query reads a versioned one under the version current when its descriptor started
(R28); the training class reads it in place (log 108). -/
def rdObj (n off len : Nat) : Eng (List Byte) := do
  let c ← get
  let o := objOf c.s n
  if c.w.qc && o.versioned then
    let v ← queryVer o
    let parts ← mapDo (fun (p : Nat × Nat) => rdUnder o p.1 p.2 v) (pieces o.pitch (len / o.pitch + 2) off len)
    pure parts.flatten
  else rdPlain n off len

/-- Reads through a handle. -/
def rdH (h len : Nat) : Eng (List Byte) := rdObj (hObj h) (hOff h) len

/-- Reads a little-endian number through a handle. -/
def rdNat (h len : Nat) : Eng Nat := do return leNat (← rdH h len)

/-- `new` written over the part of `old`, which starts at `at_`, that bytes from `off` on meet. -/
def overlay (at_ : Nat) (old : List Byte) (off : Nat) (new : List Byte) : List Byte :=
  (List.zip (List.range old.length) old).map (fun e =>
    if off ≤ at_ + e.1 ∧ at_ + e.1 < off + new.length then new.getD (at_ + e.1 - off) e.2 else e.2)

/-- Bytes a descriptor holds of a remote object follow its own later write of them. -/
def patchRbuf (w : Work) (n off : Nat) (bs : List Byte) : Work :=
  { w with rbuf := w.rbuf.map (fun b => if b.obj = n then { b with data := overlay b.off b.data off bs } else b) }

/-- Posts a remote write of an engine; its acknowledgement is owed (R131, R355). -/
def postWrite (coord h aux : Nat) (flag : Bool) (bs : List Byte) : Eng Unit := do
  let c ← get
  modS (fun s => postTxn s .wr (some c.w.ref) (hObj h) (hOff h)
    { ty := 0x03, dst := coord, addr := h, aux := aux, ord := true, flag := flag, qc := c.w.qc || c.w.reqQc,
      len := bs.length, payload := bs, sdie := c.die })
  modify (fun c => { c with owed := c.owed + 1, w := patchRbuf c.w (hObj h) (hOff h) bs })

/-- Writes one 16-byte span for an engine; `flag` is the order flag of a remote write. -/
def wrSpan (n off : Nat) (flag : Bool) (bs : List Byte) : Eng Unit := do
  let c ← get
  let o := objOf c.s n
  let l := locate c.s o off
  if l ≠ .wait then takeTurn (linePage n (off / 65536))
  match l with
  | .here a => modS (fun s => countBytes (markDirty (writePhys s a bs) n off) true a bs.length)
  | .hostM _ => throw (.promote n (if o.rowlen = 0 then 0 else off / o.pitch))
  | .remote coord => postWrite coord (n * 2 ^ 40 + off) (if o.versioned then 2 else 0) flag bs
  | .stop st => stopWith st
  | .wait => throw (.line (linePage n (off / 65536)))

/-- Writes the 16-byte spans of a piece; the order flag goes with the last of them. -/
def wrSpans (n off : Nat) (flag : Bool) (bs : List Byte) : Eng Unit :=
  eachDo (fun (p : Nat × Nat) =>
    wrSpan n p.1 (flag && p.1 + p.2 == off + bs.length) ((bs.drop (p.1 - off)).take p.2)) (spans16 off bs.length)

/-- Writes a piece of one 256-byte span: one request when all of it is homed on one other module. -/
def wrPiece (n off : Nat) (flag : Bool) (bs : List Byte) : Eng Unit := do
  let c ← get
  let o := objOf c.s n
  let l := locate c.s o off
  let die := c.die
  match l with
  | .remote coord =>
    if (spans16 off bs.length).all (fun p => decide (locate c.s o p.1 = l)) then
      postWrite coord (n * 2 ^ 40 + off) (if o.versioned then 2 else 0) flag bs
    else wrSpans n off flag bs
  | .here a =>
    wrSpans n off flag bs
    modS (fun s => sampleAccess s o off a die ((c.w.req.map (·.1)).getD (self s)))
  | _ => wrSpans n off flag bs

/-- SCATTER_WRITE and the update unit set the order flag on the last packet of each row they write (R353). -/
def flagsRows (w : Work) : Bool := w.op == 0x0502 || w.cls == 6

/-- Writes bytes of an object (R10 is the caller's). -/
def wrObj (n off : Nat) (bs : List Byte) : Eng Unit := do
  let c ← get
  modS (fun s => snoopRange s n off bs.length true)
  let o := objOf c.s n
  match draftRows (← getS) n off bs.length with
  | .wait => throw (.line (lineDraft o.tslot))
  | .stop st => stopWith st
  | .ok s =>
    if o.versioned then takeTurn (lineDraft o.tslot)
    modS (fun s' => { s with lines := s'.lines })
  eachDo (fun (p : Nat × Nat) => do
    wrPiece n p.1 (flagsRows c.w && p.1 + p.2 == off + bs.length) ((bs.drop (p.1 - off)).take p.2)
    modS (fun s => clearCovered s n off (p.1 + p.2 - off))) (pieces 256 (bs.length / 256 + 2) off bs.length)
  modS (fun s => afterWrite s n off bs.length)

/-- Writes through a handle. -/
def wrH (h : Nat) (bs : List Byte) : Eng Unit := wrObj (hObj h) (hOff h) bs

/-! ## Memory units and frames (R295) -/

/-- First address and count of the allocatable frames of a memory unit. -/
def unitFrames (s : State) (u : Nat) : Nat × Nat :=
  if u < 64 then (sliceBase u, 16 * (252 - reg s Key.hotMibPerSlice))
  else if u < 72 then
    let st := reg s (Key.hbmState + (u - 64))
    (hbmBase + (u - 64) * 2 ^ 36 + 268435456, if st = 1 ∨ st = 2 then 728325 else 0)
  else
    let st := reg s (Key.ddrState + (u - 72))
    (ddrBase + (u - 72) * 2 ^ 38, if st = 1 ∨ st = 2 then reg s (Key.ddrCapacity + (u - 72)) / 65536 else 0)

/-- The frames in use: of pages, of moves at both ends, of rows moved or moving here, of grants. -/
def usedFrames (s : State) : List Nat :=
  let ofHome (h : Home) : List Nat := match h with
    | .frame a => [a]
    | _ => []
  let frameOf (a : Nat) : Nat := a - a % 65536
  (s.objs.flatMap (fun e => e.2.pages.flatMap (fun r => ofHome r.home))) ++
  (s.place.moves.flatMap (fun m => ofHome m.src ++ (if m.chosen && m.coord == self s then [m.dest] else []))) ++
  s.dir.guests.map (fun g => frameOf g.addr) ++
  ((s.dir.migs.filter (fun m => m.granted && m.destCoord == self s)).map (fun m => frameOf m.destAddr)) ++
  ((s.dir.migs.filter (fun m => m.back)).map (fun m => frameOf m.oldAddr)) ++
  s.place.grants.map (fun g => frameOf g.addr)

/-- The frames of a unit in use. -/
def usedIn (s : State) (u : Nat) (used : List Nat) : List Nat :=
  let f := unitFrames s u
  used.filter (fun a => decide (f.1 ≤ a) && decide (a < f.1 + f.2 * 65536))

/-- Free frames of a unit. -/
def freeCount (s : State) (u : Nat) : Nat :=
  (unitFrames s u).2 - (usedIn s u (usedFrames s)).eraseDups.length

/-- The lowest-addressed free frame of a unit (R297). -/
def freeFrame (s : State) (u : Nat) : Option Nat :=
  let f := unitFrames s u
  let used := usedIn s u (usedFrames s)
  ((rangeFrom 0 (min f.2 (used.length + 1))).map (fun i => f.1 + i * 65536)).find? (fun a => !used.contains a)

/-- The first unit of a list with a free frame, and that frame. -/
def firstFrame (s : State) : List Nat → Option Nat
  | [] => none
  | u :: us => match freeFrame s u with
    | some a => some a
    | none => firstFrame s us

/-- The units of a tier (R294). -/
def tierUnits (tier : Nat) : List Nat :=
  match tier with
  | 0 => rangeFrom 0 64
  | 1 => rangeFrom 64 8
  | 2 => rangeFrom 72 16
  | _ => []

end Sys2Proof.Machine
end

