-- ==== Sys2Proof/Machine/Fec.lean ====
section
/-! DEFINITION. What lies between flits and the light of a port's lanes (R335, R336): the Reed-Solomon code RS(546,520)
over GF(2^10), the self-synchronous scrambler, and the dealing of bytes to lanes. The order of bits and symbols is
log 120. -/

namespace Sys2Proof.Machine
open Sys2Proof

/-! ## GF(2^10) with primitive polynomial x^10 + x^3 + 1 (R335) -/

/-- Multiplies by α. -/
def gfDouble (a : Nat) : Nat := if 512 ≤ a then Nat.xor (2 * a) 0x409 else 2 * a

/-- Multiplies by the lowest `n` bits of `b`. -/
def gfMulBits : Nat → Nat → Nat → Nat
  | 0, _, _ => 0
  | n + 1, a, b => Nat.xor (if b % 2 = 1 then a else 0) (gfMulBits n (gfDouble a) (b / 2))

/-- The product of two elements. -/
def gfMul (a b : Nat) : Nat := if a = 0 ∨ b = 0 then 0 else gfMulBits 10 a b

/-- α^n. -/
def gfPow : Nat → Nat
  | 0 => 1
  | n + 1 => gfDouble (gfPow n)

/-- The product of a^2, a^4, ... of `n` squarings. -/
def gfSquares : Nat → Nat → Nat
  | 0, _ => 1
  | n + 1, a => let q := gfMul a a; gfMul q (gfSquares n q)

/-- The inverse of a non-zero element: a^1022. -/
def gfInv (a : Nat) : Nat := gfSquares 9 a

/-- A polynomial, lowest coefficient first, at a point. -/
def gfEval (p : List Nat) (x : Nat) : Nat := p.foldr (fun c v => Nat.xor c (gfMul v x)) 0

/-- The sum of two polynomials. -/
def gfAdd : List Nat → List Nat → List Nat
  | [], q => q
  | p, [] => p
  | a :: p, b :: q => Nat.xor a b :: gfAdd p q

/-- The product of two polynomials. -/
def gfPolyMul : List Nat → List Nat → List Nat
  | [], _ => []
  | a :: p, q => gfAdd (q.map (gfMul a)) (0 :: gfPolyMul p q)

/-! ## RS(546,520) (R335) -/

/-- The generator polynomial: the product of (x − α^i) for i in 0..25, lowest coefficient first. -/
def rsGenerator : List Nat := (List.range 26).foldl (fun g i => gfPolyMul [gfPow i, 1] g) [1]

/-- One data symbol enters the division by the generator; the remainder's highest coefficient comes first. -/
def rsShift (g rem_ : List Nat) (d : Nat) : List Nat :=
  let f := Nat.xor d (rem_.headD 0)
  gfAdd (rem_.drop 1 ++ [0]) (g.map (gfMul f))

/-- The codeword of 520 data symbols: the data, then 26 check symbols. -/
def rsEncode (data : List Nat) : List Nat :=
  let g := (rsGenerator.reverse).drop 1
  data ++ data.foldl (rsShift g) (List.replicate 26 0)

/-- The syndromes of a received word, first symbol the highest power. -/
def rsSyndromes (word : List Nat) : List Nat :=
  (List.range 26).map (fun i => let x := gfPow i; word.foldl (fun v c => Nat.xor (gfMul v x) c) 0)

/-- The state of the search for the shortest error locator: locator, the one before its last change, its length, steps since
that change, the discrepancy then. -/
structure Locator where
  c : List Nat := [1]
  b : List Nat := [1]
  l : Nat := 0
  m : Nat := 1
  d : Nat := 1
  deriving DecidableEq, Repr

/-- One step of the search, with the syndromes up to the `n`th, latest first. -/
def Locator.next (x : Locator) (n : Nat) (latest : List Nat) : Locator :=
  let d := (List.zip x.c latest).foldl (fun v e => Nat.xor v (gfMul e.1 e.2)) 0
  if d = 0 then { x with m := x.m + 1 }
  else
    let c := gfAdd x.c (List.replicate x.m 0 ++ x.b.map (gfMul (gfMul d (gfInv x.d))))
    if 2 * x.l ≤ n then { c := c, b := x.c, l := n + 1 - x.l, m := 1, d := d }
    else { x with c := c, m := x.m + 1 }

/-- The error locator of a list of syndromes (Berlekamp and Massey's search). -/
def rsLocator (syn : List Nat) : Locator :=
  (List.range syn.length).foldl (fun x n => x.next n ((syn.take (n + 1)).reverse)) {}

/-- The size of an error at the position whose locator is `x`, from the locator polynomial and the evaluator. -/
def rsSize (loc ev : List Nat) (x : Nat) : Nat :=
  let y := gfInv x
  let odd := (List.range loc.length).map (fun i => if i % 2 = 1 then loc.getD i 0 else 0)
  gfMul (gfMul x (gfEval ev y)) (gfInv (gfEval (odd.drop 1) y))

/-- The codeword within 13 symbols of a received word: its symbols and how many were wrong; none where there is none
(R335). -/
def rsDecode (word : List Nat) : Option (List Nat × Nat) :=
  let syn := rsSyndromes word
  if syn.all (· == 0) then some (word, 0)
  else
    let x := rsLocator syn
    if 13 < x.l then none
    else
      let ev := (gfPolyMul syn x.c).take 26
      let fixed := (List.zip (List.range word.length) word).map (fun e =>
        let p := gfPow (word.length - 1 - e.1)
        if gfEval x.c (gfInv p) = 0 then Nat.xor e.2 (rsSize x.c ev p) else e.2)
      let n := (List.zip fixed word).filter (fun e => e.1 != e.2)
      if (rsSyndromes fixed).all (· == 0) && decide (n.length ≤ 13) then some (fixed, n.length) else none

/-! ## The scrambler x^58 + x^39 + 1 (R335) -/

/-- Scrambles bits; `h` holds the last 58 bits sent, the latest lowest. -/
def scramble : Nat → List Bool → List Bool × Nat
  | h, [] => ([], h)
  | h, b :: bs =>
    let x := xor b (xor (h.testBit 38) (h.testBit 57))
    let r := scramble ((2 * h + x.toNat) % 2 ^ 58) bs
    (x :: r.1, r.2)

/-- Takes the scrambling off; `h` holds the last 58 bits received. -/
def descramble : Nat → List Bool → List Bool × Nat
  | h, [] => ([], h)
  | h, b :: bs =>
    let r := descramble ((2 * h + b.toNat) % 2 ^ 58) bs
    (xor b (xor (h.testBit 38) (h.testBit 57)) :: r.1, r.2)

/-- The bits of a number's lowest `n`, lowest first. -/
def bitsOf (n v : Nat) : List Bool := (List.range n).map v.testBit

/-- The number of a list of bits, lowest first. -/
def ofBits (bs : List Bool) : Nat := bs.foldr (fun b n => b.toNat + 2 * n) 0

/-- Cuts a list into `n` pieces of length `k`. -/
def cutInto {α : Type} (k : Nat) : Nat → List α → List (List α)
  | 0, _ => []
  | n + 1, xs => xs.take k :: cutInto k n (xs.drop k)

/-! ## Lanes (R336) -/

/-- Data bytes a codeword carries: 520 symbols of 10 bits. -/
def wordBytes : Nat := 650

/-- The bytes of a stream that lane `n` of `l` carries: byte k goes to lane k mod L. -/
def laneBytes (l n : Nat) (bs : List Byte) : List Byte :=
  ((List.zip (List.range bs.length) bs).filter (fun e => e.1 % l == n)).map (·.2)

/-- The stream the lanes' bytes make up. -/
def dealt (lanes : List (List Byte)) : List Byte :=
  let l := lanes.length
  (List.range (l * (lanes.headD []).length)).map (fun k => (lanes.getD (k % l) []).getD (k / l) 0)

/-- The codeword of a lane's 650 bytes, and its scrambler after it. -/
def laneWord (h : Nat) (bs : List Byte) : List Nat × Nat :=
  let r := scramble h (bs.flatMap (fun b => bitsOf 8 b.toNat))
  (rsEncode ((cutInto 10 520 r.1).map ofBits), r.2)

/-- The bytes of a lane's codeword as decoded, and its descrambler after it. -/
def laneData (h : Nat) (word : List Nat) : List Byte × Nat :=
  let r := descramble h ((word.take 520).flatMap (bitsOf 10))
  ((cutInto 8 wordBytes r.1).map (fun b => BitVec.ofNat 8 (ofBits b)), r.2)

end Sys2Proof.Machine
end

