-- ==== Sys2Proof/Machine/FabTx.lean ====
section
/-! DEFINITION. The sending side of the fabric: packet headers (R349, R357), cyclic redundancy checks (R275,
R341), the route of a packet (R345, R346), Sluice windows as their source (R352), arbitration, credit and
flits of an output port (R341-R343, R348). -/

namespace Sys2Proof.Machine
open Sys2Proof

/-! ## Checks -/

/-- One bit of a reflected CRC with polynomial `poly` (reflected). -/
def crcBit (poly c : Nat) : Nat := if c % 2 = 1 then Nat.xor (c / 2) poly else c / 2

/-- One byte of a reflected CRC. -/
def crcByte (poly c : Nat) (b : Byte) : Nat :=
  let x := Nat.xor c b.toNat
  crcBit poly (crcBit poly (crcBit poly (crcBit poly (crcBit poly (crcBit poly (crcBit poly (crcBit poly x)))))))

/-- A reflected CRC of 32 bits with initial value and final XOR 0xFFFFFFFF. -/
def crc32With (poly : Nat) (bs : List Byte) : Nat :=
  Nat.xor (bs.foldl (crcByte poly) 0xFFFFFFFF) 0xFFFFFFFF

/-- CRC-32 of R275: polynomial 0x04C11DB7, reflected 0xEDB88320. -/
def crc32 (bs : List Byte) : Nat := crc32With 0xEDB88320 bs

/-- CRC-32C of R341: polynomial 0x1EDC6F41, reflected 0x82F63B78. -/
def crc32c (bs : List Byte) : Nat := crc32With 0x82F63B78 bs

/-! ## Packets -/

/-- The header of R349 as a number, without its CRC. -/
def hdrNat (p : Pkt) : Nat :=
  p.ty % 256 + p.tc % 4 * 2 ^ 8 + p.vc % 2 * 2 ^ 10 + p.ord.toNat * 2 ^ 11 + p.flag.toNat * 2 ^ 12 +
  p.ce.toNat * 2 ^ 13 + p.ece.toNat * 2 ^ 14 + p.mc.toNat * 2 ^ 15 + p.dst % 4096 * 2 ^ 16 +
  p.src % 4096 * 2 ^ 28 + p.epoch % 65536 * 2 ^ 40 + p.part % 4096 * 2 ^ 56 + p.eph % 65536 * 2 ^ 68 +
  p.sdie % 4 * 2 ^ 84 + p.seq % 65536 * 2 ^ 88 + p.txid % 65536 * 2 ^ 104 + p.len % 8192 * 2 ^ 120 +
  p.addr % 2 ^ 64 * 2 ^ 136 + p.aux % 65536 * 2 ^ 200 + p.qc.toNat * 2 ^ 216 + p.shr.toNat * 2 ^ 217

/-- The extension of R357 as a number. -/
def extNat (p : Pkt) : Nat :=
  p.xmask % 65536 + p.ymask % 65536 * 2 ^ 16 + p.zmask % 65536 * 2 ^ 32 + p.stage % 4 * 2 ^ 48 +
  p.dir.toNat * 2 ^ 50

/-- The CRC a packet should carry: VC, CE, SHR, CRC, STAGE and DIR taken as zero (R349). -/
def pktCrc (p : Pkt) : Nat :=
  let z := { p with vc := 0, ce := false, shr := false, stage := 0, dir := false }
  crc32 (leBytes 32 (hdrNat z) ++ (if p.mc then leBytes 16 (extNat z) else []) ++ p.payload)

/-- A packet with its CRC in place. -/
def sealPkt (p : Pkt) : Pkt := { p with sum := pktCrc p }

/-- Pads to a multiple of 16 bytes. -/
def pad16 (bs : List Byte) : List Byte := bs ++ List.replicate ((16 - bs.length % 16) % 16) 0

/-- The bytes of a packet, whole chunks (R341, R349). -/
def encodePkt (p : Pkt) : List Byte :=
  leBytes 32 (hdrNat p + p.sum % 2 ^ 32 * 2 ^ 224) ++ (if p.mc then leBytes 16 (extNat p) else []) ++
  pad16 p.payload

/-- The payload bytes that follow a header: none for an RD_REQ, whose LEN names the bytes requested. -/
def payloadLen (ty len : Nat) : Nat := if ty = 1 then 0 else len

/-- Chunks a header says its packet occupies. -/
def pktChunks (p : Pkt) : Nat := 2 + (if p.mc then 1 else 0) + cdiv (payloadLen p.ty p.len) 16

/-- The header fields of 32 bytes. -/
def decodeHdr (bs : List Byte) : Pkt :=
  let n := leNat (bs.take 32)
  { ty := bits n 0 8, tc := bits n 8 2, vc := bits n 10 1, ord := bit n 11, flag := bit n 12, ce := bit n 13,
    ece := bit n 14, mc := bit n 15, dst := bits n 16 12, src := bits n 28 12, epoch := bits n 40 16,
    part := bits n 56 12, eph := bits n 68 16, sdie := bits n 84 2, seq := bits n 88 16, txid := bits n 104 16,
    len := bits n 120 13, addr := bits n 136 64, aux := bits n 200 16, qc := bit n 216, shr := bit n 217,
    sum := bits n 224 32 }

/-- The packet at the front of a chunk stream, if it is whole, and the rest. -/
def decodePkt (bs : List Byte) : Option (Pkt × List Byte) :=
  if bs.length < 32 then none
  else
    let h := decodeHdr bs
    let n := 16 * pktChunks h
    if bs.length < n then none
    else
      let e := leNat ((bs.drop 32).take 16)
      let p := if h.mc then { h with xmask := bits e 0 16, ymask := bits e 16 16, zmask := bits e 32 16,
                                     stage := bits e 48 2, dir := bit e 50 } else h
      some ({ p with payload := (bs.drop (if h.mc then 48 else 32)).take (payloadLen h.ty h.len) }, bs.drop n)

/-! ## Routes -/

/-- Coordinate of a module in the dimension of a port. -/
def dimCoord (c p : Nat) : Nat := if p < 2 then cx c else if p < 4 then cy c else cz c

/-- Size of the box in the dimension of a port. -/
def dimSize (bx : Box) (p : Nat) : Nat := if p < 2 then bx.a else if p < 4 then bx.b else bx.c

/-- The hop through port `p` crosses the Meridian (R346). -/
def crosses (c p : Nat) : Bool :=
  (p % 2 == 0 && dimCoord c p == 15) || (p % 2 == 1 && dimCoord c p == 0)

/-- The virtual channel of a packet on the hop through `p`, having come in by `from_` (none at its source):
it enters each dimension on VC0 and stays on VC1 after the Meridian (R346). -/
def vcOn (bx : Box) (c p : Nat) (inPort : Option Nat) (vc : Nat) : Nat :=
  let same := match inPort with
    | some q => q / 2 == p / 2
    | none => false
  if dimSize bx p == 16 && (crosses c p || (same && vc == 1)) then 1 else 0

/-! ## Output ports -/

/-- The port record of a port. -/
def portOf (s : State) (p : Nat) : Port := Tab.get {} s.fab.ports p

/-- Changes a port record. -/
def setPort (s : State) (p : Nat) (x : Port) : State :=
  { s with fab := { s.fab with ports := Tab.set {} s.fab.ports p x } }

/-- LINK_STATE of a port. -/
def linkState (s : State) (p : Nat) : Nat := reg s (Key.linkState + 256 * p)

/-- A port that carries packets: UP or PARKED, with a peer of its own partition (R337). -/
def carries (s : State) (p : Nat) : Bool :=
  (linkState s p == 6 || linkState s p == 7) && (portOf s p).peerPart == reg s Key.fabPartId

/-- The buffer class of a packet (R343). -/
def Pkt.cls (p : Pkt) : Nat := 2 * p.tc + p.vc

/-- Class credit left of a port (1,024 chunks less what is out). -/
def classCredit (x : Port) (k : Nat) : Nat := 1024 - Tab.get 0 x.classes k

/-- Credit for the whole packet is at hand in one pool (R343). -/
def hasCredit (x : Port) (p : Pkt) : Bool :=
  decide (pktChunks p ≤ x.shared) || decide (pktChunks p ≤ classCredit x p.cls)

/-- Order of traffic at an output (R348): TC3, TC1, TC2, TC0 with query class first. -/
def grantOrder (p : Pkt) : Nat :=
  if p.tc = 3 then 0 else if p.tc = 1 then 1 else if p.tc = 2 then 2 else if p.qc then 3 else 4

/-- An earlier packet goes before a later one: of its window, whatever the class (R352), or of its buffer class and
traffic class (R348). -/
def goesBefore (e k : Pkt) : Bool :=
  (!e.mc && !k.mc && e.src == k.src && e.dst == k.dst && e.tc == k.tc) || (e.cls == k.cls && grantOrder e == grantOrder k)

/-- The packets of an output queue that could be granted: credit is at hand and none that goes before waits. -/
def grantable (x : Port) : List Pkt → List Pkt → List Pkt
  | _, [] => []
  | before, k :: ks =>
    let rest := grantable x (before ++ [k]) ks
    if hasCredit x k && !before.any (fun e => goesBefore e k) then k :: rest else rest

/-- The first packet with credit of the lowest (or highest) order number. -/
def pickPkt (x : Port) (lowest : Bool) : Option Pkt :=
  let ok := grantable x [] x.outq
  ok.foldl (fun b p => match b with
    | none => some p
    | some q => if (if lowest then decide (grantOrder q < grantOrder p) else decide (grantOrder p < grantOrder q))
        then some p else b) none

/-- One grant of an output port (R348, R343): the packet, and the port after it. -/
def grant (guard : Nat) (x : Port) : Option (Pkt × Port) :=
  let forced := decide (guard ≤ x.streak)
  match pickPkt x forced with
  | none => none
  | some p =>
    let lower := x.outq.any (fun q => decide (grantOrder p < grantOrder q))
    let shr := decide (pktChunks p ≤ x.shared)
    let x := { x with
      outq := x.outq.erase p
      streak := if forced then 0 else if lower then x.streak + 1 else 0
      shared := if shr then x.shared - pktChunks p else x.shared
      classes := if shr then x.classes else Tab.set 0 x.classes p.cls (Tab.get 0 x.classes p.cls + pktChunks p) }
    some ({ p with shr := shr }, x)

/-- All grants an output port can make now. -/
def grantAll (guard : Nat) : Nat → Port → List Pkt × Port
  | 0, x => ([], x)
  | fuel + 1, x => match grant guard x with
    | none => ([], x)
    | some (p, y) =>
      let r := grantAll guard fuel y
      (p :: r.1, r.2)

/-- The two credit returns of a flit (R341): pool codes and chunk counts; code 15 means none. -/
def creditFields (x : Port) : Nat × Port :=
  let one (t : Tab Nat) : Nat × Tab Nat := match t with
    | [] => (15, [])
    | (k, n) :: r => if n ≤ 4095 then (k + 16 * n, r) else (k + 16 * 4095, (k, n - 4095) :: r)
  let a := one x.freed
  let b := one a.2
  (a.1 + 65536 * b.1, { x with freed := b.2 })

/-- A flit (R341): header fields, 240 bytes of payload, CRC-32C. -/
def mkFlit (seq ack : Nat) (nak idle park widen : Bool) (pstart credits : Nat) (payload : List Byte) : List Byte :=
  let h := seq % 4096 + ack % 4096 * 2 ^ 12 + nak.toNat * 2 ^ 24 + idle.toNat * 2 ^ 25 + park.toNat * 2 ^ 26 +
    widen.toNat * 2 ^ 27 + pstart % 16 * 2 ^ 28 + credits % 2 ^ 32 * 2 ^ 32
  let body := leBytes 12 h ++ (payload ++ List.replicate 240 0).take 240
  body ++ leBytes 4 (crc32c body)

/-- The last flit received in order (R341). -/
def Port.fack (x : Port) : Nat := (x.expect + 4095) % 4096

/-- Bytes that wait for the lanes go out once they fill a codeword on each active lane (R335, R336). -/
def sendWords (s : State) (p : Nat) : State :=
  let x := portOf s p
  let l := max 1 x.lanes
  if x.txLine.length < wordBytes * l then s
  else
    let bs := x.txLine.take (wordBytes * l)
    let rs := (List.range l).map (fun n => laneWord (x.txHist.getD n 0) (laneBytes l n bs))
    send (setPort s p { x with txLine := x.txLine.drop (wordBytes * l), txHist := rs.map (·.2) ++ x.txHist.drop l })
      (.codewords p (rs.map (·.1)))

/-- A parked link is wide again once both directions are (R340). -/
def widened (s : State) (p : Nat) : State :=
  let x := portOf s p
  if x.lanes = 16 ∧ x.rxLanes = 16 ∧ linkState s p = 7 then
    setReg (setPort s p { x with parkSet := false, peerPark := false, widenSet := false, peerWiden := false, relocked := false })
      (Key.linkState + 256 * p) 6
  else s

/-- Both ends of a parked link have set WIDEN and the lanes have locked again: a flit whose FSEQ is a multiple of 64 changes
L (R340). -/
def widens (s : State) (p seq : Nat) : Bool :=
  let x := portOf s p
  linkState s p == 7 && x.widenSet && x.peerWiden && x.relocked && seq % 64 == 0

/-- A flit goes out: back to back with the one before it, on the lanes (R336, R340). -/
def putFlit (s : State) (p : Nat) (f : List Byte) : State :=
  let s := if widens s p (field f 0 2 % 4096) then widened (setPort s p { portOf s p with lanes := 16 }) p else s
  let s := send s (.flit p f)
  sendWords (setPort s p { portOf s p with txLine := (portOf s p).txLine ++ f }) p

/-- The link is UP or PARKED: it carries flits (R337, R340). -/
def flitsRun (s : State) (p : Nat) : Bool := linkState s p == 6 || linkState s p == 7

/-- Sends one flit that carries no payload (R341, R342): FSEQ of the next non-idle flit, current FACK. A port that is
neither UP nor PARKED sends none (R337). -/
def sendIdle (s : State) (p : Nat) (nak : Bool) : State :=
  if flitsRun s p then
    let x := portOf s p
    let c := creditFields x
    let f := mkFlit x.nextSeq x.fack nak true x.parkSet x.widenSet 15 c.1 []
    putFlit (setPort s p c.2) p f
  else s

/-- The packet-start index of each flit of a packed chunk stream: starts are chunk positions. -/
def pstartOf (starts : List Nat) (base : Nat) : Nat :=
  match starts.find? (fun k => decide (base ≤ k) && decide (k < base + 15)) with
  | some k => k - base
  | none => 15

/-- Flits a transmitter keeps at most until FACK covers them (R342). -/
def replayFlits : Nat := 2048

/-- Sends the granted chunks of a port as non-idle flits, keeping each in the replay buffer, while fewer than 2,048 are
unacknowledged (R342). -/
def sendFlits (p : Nat) : Nat → State → State
  | 0, s => s
  | fuel + 1, s =>
    let x := portOf s p
    if x.stream.isEmpty || decide (replayFlits ≤ x.replay.length) then s
    else
      let c := creditFields x
      let y := c.2
      let f := mkFlit y.nextSeq y.fack false false y.parkSet y.widenSet (pstartOf y.starts 0) c.1 (y.stream.take 240)
      sendFlits p fuel (putFlit (setPort s p { y with
        nextSeq := (y.nextSeq + 1) % 4096
        replay := y.replay ++ [(y.nextSeq, f)]
        stream := y.stream.drop 240
        starts := (y.starts.filter (fun k => decide (15 ≤ k))).map (fun k => k - 15) }) p f)

/-- Chunk positions at which the packets of a list start. -/
def startsOf : Nat → List Pkt → List Nat
  | _, [] => []
  | k, p :: ps => k :: startsOf (k + pktChunks p) ps

/-- Grants what an output port can grant now (R348): the packets go to its stream of chunks. The rest of the last flit of
a grant is zero chunks (log 14). -/
def grantPort (s : State) (p : Nat) : State :=
  let x := portOf s p
  if x.stream.isEmpty && decide (x.replay.length < replayFlits) then
    let g := grantAll (reg s Key.fabLowGuard) x.outq.length x
    let bytes := (g.1.map encodePkt).flatten
    bump (setPort s p { g.2 with stream := bytes, starts := startsOf 0 g.1 }) (Key.linkTxBytes + 256 * p) bytes.length
  else s

/-- Sends what an output port can send now: what was granted, then new grants without gaps between packets (R341,
R342, R348); an ISOLATED module sends idle flits alone (R361). -/
def transmit (s : State) (p : Nat) : State :=
  if carries s p = true ∧ reg s Key.frzState = 0 ∧ reg s Key.fabState ≠ 5 then
    let flush (s : State) : State := sendFlits p ((portOf s p).stream.length / 240 + 1) s
    flush (grantPort (flush s) p)
  else s

/-- Chunks of one buffer class waiting at an output. -/
def queuedChunks (x : Port) (k : Nat) : Nat :=
  ((x.outq.filter (fun q => q.cls == k)).map pktChunks).sum

/-- A port's freed chunks with those of packets that leave its input buffer (R343). -/
def freedBy (x : Port) (ks : List Pkt) : Tab Nat :=
  ks.foldl (fun t k => let pool := if k.shr then 8 else k.cls; Tab.set 0 t pool (Tab.get 0 t pool + pktChunks k)) x.freed

/-- An ISOLATED port drops what it holds at ingress, whose credit returns, and at egress, what was granted included; from
then on it sends idle flits alone (R343, R361). -/
def isolatePort (s : State) (p : Nat) : State :=
  let x := portOf s p
  let s := setPort s p { x with outq := [], inq := [], stream := [], starts := [], replay := [], freed := freedBy x x.inq }
  if x.inq.isEmpty then s else sendIdle s p false

/-- Every port is ISOLATED (R361). -/
def isolatePorts (s : State) : State := (List.range 6).foldl isolatePort s

/-- Puts a packet into an output queue; CE is set when the queue already holds more than FAB_CE_THRESH chunks
of its class (R354). ISOLATED drops it (R361). -/
def enqueue (s : State) (p : Nat) (k : Pkt) : State :=
  if reg s Key.fabState = 5 then s
  else
    let x := portOf s p
    let mark := decide (reg s Key.fabCeThresh < queuedChunks x k.cls)
    let s := if mark && !k.ce then bump s Key.fabCeMarks 1 else s
    transmit (setPort s p { x with outq := x.outq ++ [{ k with ce := k.ce || mark }] }) p

/-- Sends a packet of this module on its first hop (R345, R346). -/
def emitPkt (s : State) (k : Pkt) : State :=
  match nextPort (boxOf s) (self s) k.dst with
  | none => s
  | some p => enqueue s p { k with vc := vcOn (boxOf s) (self s) p none 0 }

/-! ## Sluice windows as their source -/

/-- Initiator packets go out only in RUNNING and not in fatal handling; responses also while the module drains
(R361, R483). -/
def mayStart (s : State) (tc : Nat) : Bool :=
  let f := reg s Key.fabState
  if tc = 1 then f == 1 || f == 2 || f == 3 || f == 4 else f == 1 && !s.err.fatal

/-- A packet is a memory request, which holds a slot of its die's pool while it is outstanding (R15, R221). -/
def isReq (p : Pkt) : Bool := p.tc == 0 && (p.ty == 1 || p.ty == 3 || p.ty == 5)

/-- Outstanding memory requests of a die's pool (R15). -/
def reqSlots : Nat := 16384

/-- The requests outstanding that meet `f` on the fabric, or `g` as addends on their way to an adder of this module. -/
def outstanding (s : State) (f : Txn → Bool) (g : Addend → Bool) : Nat :=
  (s.fab.txns.filter (fun x => x.sent && isReq x.pkt && f x)).length +
  (s.addends.filter (fun x => x.sent && x.issuer.isSome && g x)).length

/-- The pool of a die has a slot left, and a gather-scatter engine holds fewer requests than GSE_MAX_OUTSTANDING (R15,
R221, log 109). -/
def slotLeft (s : State) (die : Nat) (gse : Option Nat) : Bool :=
  decide (outstanding s (fun y => y.pkt.sdie == die) (fun y => y.die == die) < reqSlots) &&
  (match gse with
    | none => true
    | some d => decide (outstanding s (fun y => y.gse == some d) (fun y => y.gse == some d) < reg s (Key.gseMaxOutstanding + d)))

/-- A request has a slot (R15, R221). -/
def hasSlot (s : State) (p : Pkt) : Bool :=
  !isReq p || (match s.fab.txns.find? (fun x => x.id == p.txid && x.pkt.dst == p.dst) with
    | none => true
    | some x => x.sent || slotLeft s p.sdie x.gse)

/-- The addends to adders of this module take slots in the order they were formed, as far as there are any (R15, R221). -/
def pumpAddends (s : State) : State :=
  (List.range s.addends.length).foldl (fun s i => match s.addends[i]? with
    | some x => if !x.sent && slotLeft s x.die x.gse
        then { s with addends := modNth (fun x => { x with sent := true }) i s.addends } else s
    | none => s) s

/-- The packet of a transaction leaves: its request holds a slot from now on. -/
def markSent (s : State) (p : Pkt) : State :=
  if isReq p then { s with fab := { s.fab with txns := s.fab.txns.map (fun x =>
    if x.id == p.txid && x.pkt.dst == p.dst then { x with sent := true } else x) } } else s

/-- Bytes of the Sluice store (R352). -/
def sluiceStore : Nat := 2 ^ 25

/-- Bytes of packets in the Sluice store. -/
def storeBytes (ps : List Pkt) : Nat := (ps.map (fun p => 16 * pktChunks p)).sum

/-- A response to this module's own request, with a status, as the module that refuses to send it answers it (R345,
R360). -/
def refusal (s : State) (p : Pkt) (st : Nat) : Pkt :=
  sealPkt { ty := p.ty + 1, tc := 1, dst := self s, src := p.dst, aux := st, txid := p.txid, sdie := p.sdie, qc := p.qc,
            eph := reg s Key.ephPin, epoch := reg s Key.fabEpoch, part := reg s Key.fabPartId }

/-- Adds a packet to what this module has received. -/
def toInbox (s : State) (p : Pkt) : State := { s with fab := { s.fab with inbox := s.fab.inbox ++ [p] } }

/-- The status with which an initiator refuses to send a packet: FAULT_ROUTE outside the box (R345), FENCED to a fenced
module or past a NOFWD one (R360); responses and reduction packets are refused outside the box only. -/
def sendStatus (s : State) (p : Pkt) : Option Nat :=
  match remoteLoc s p.dst with
  | .stop st => if p.tc = 0 ∨ st = Status.route then some st else none
  | _ => none

/-- Starts waiting packets of a window while fewer than cw are unacknowledged and the Sluice store, of which other
windows hold `held` bytes, has room (R352, R354); a packet to the module itself needs no window. A packet that may not be
sent ends its transaction at once (R345, R360, log 110). -/
def pumpWin (held : Nat) : Nat → SrcWin → State → State × SrcWin
  | 0, w, s => (s, w)
  | fuel + 1, w, s => match w.waiting with
    | [] => (s, w)
    | p :: ps =>
      if w.peer = self s then
        if hasSlot s p = true then
          pumpWin held fuel { w with waiting := ps }
            (toInbox (markSent s p) (sealPkt { p with epoch := reg s Key.fabEpoch, part := reg s Key.fabPartId }))
        else (s, w)
      else match sendStatus s p with
        | some st => pumpWin held fuel { w with waiting := ps } (if p.tc = 0 then toInbox s (refusal s p st) else s)
        | none =>
          if w.kept.length < w.cw ∧ mayStart s w.tc = true ∧ hasSlot s p = true ∧
              held + storeBytes w.kept + 16 * pktChunks p ≤ sluiceStore then
            let p := sealPkt { p with seq := w.next, epoch := reg s Key.fabEpoch, part := reg s Key.fabPartId }
            let w := { w with waiting := ps, next := (w.next + 1) % 65536, lastSent := w.next,
                              since := if w.kept.isEmpty then s.time else w.since, kept := w.kept ++ [p] }
            pumpWin held fuel w (emitPkt (markSent s p) p)
          else (s, w)

/-- Starts what each window can start now; `done` holds the windows already looked at. -/
def pumpAll : List SrcWin → List SrcWin → State → State × List SrcWin
  | done, [], s => (s, done)
  | done, w :: ws, s =>
    let r := pumpWin (storeBytes ((done ++ ws).flatMap (·.kept))) w.waiting.length w s
    pumpAll (done ++ [r.2]) ws r.1

/-- Sends a packet outside any window: control and acknowledgements of TC3, multicast (R347, R357). -/
def postLoose (s : State) (p : Pkt) : State :=
  emitPkt s (sealPkt { p with src := self s, epoch := reg s Key.fabEpoch, part := reg s Key.fabPartId,
                              eph := reg s Key.ephPin })

/-- A control packet is held: every one in fatal handling (R483), a RED_JOIN outside RUNNING (R361); DRAIN holds no
other (R387). -/
def ctrlHeld (s : State) (p : Pkt) : Bool := s.err.fatal || (p.aux == 0x0020 && reg s Key.fabState != 1)

/-- Sends a control packet, or holds it until the module may initiate it (R361, R483). -/
def postCtrl (s : State) (p : Pkt) : State :=
  if ctrlHeld s p then { s with fab := { s.fab with loose := s.fab.loose ++ [p] } } else postLoose s p

/-- Sends the held control packets that may go now. -/
def releaseCtrl (s : State) : State :=
  s.fab.loose.foldl postCtrl { s with fab := { s.fab with loose := [] } }

/-- Starts what every window can start now, after the control packets that were held and the addends that stay here. -/
def pump (s : State) : State :=
  let s := pumpAddends (releaseCtrl s)
  let r := pumpAll [] s.fab.src s
  { r.1 with fab := { r.1.fab with src := r.2 } }

/-- Queues a packet that is no transaction of its own (a response, a reduction packet) in its window. -/
def postPkt (s : State) (p : Pkt) : State :=
  let p := { p with src := self s, epoch := reg s Key.fabEpoch, part := reg s Key.fabPartId,
                    eph := reg s Key.ephPin }
  let win : SrcWin := (s.fab.src.find? (fun x => x.peer == p.dst && x.tc == p.tc)).getD
    { peer := p.dst, tc := p.tc, cw := reg s Key.sluiceWin }
  let rest := s.fab.src.filter (fun x => !(x.peer == p.dst && x.tc == p.tc))
  pump { s with fab := { s.fab with src := rest ++ [{ win with waiting := win.waiting ++ [p] }] } }

end Sys2Proof.Machine
end

