-- ==== Sys2Proof/Machine/Adder.lean ====
section
/-! DEFINITION. The memory-side adders and staging objects (R227-R233): where an element lies, one atomic
addition with its row header, and the sending of addends to the adder that fronts their target. -/

namespace Sys2Proof.Machine
open Sys2Proof

/-- A window exponent is in the range of R41. -/
def windowOk (T : Int) : Bool := decide (-4096 ≤ T) && decide (T ≤ 4095)

/-- The object is an adder target (R227, R304). -/
def Obj.adderTarget (o : Obj) : Bool :=
  o.declared && (o.fmt == 11 || o.fmt == 4) && (o.role == 0 || o.role == 3)

/-- Elements per row of an adder target (R227). -/
def Obj.rowElems (o : Obj) : Nat := if o.rowlen = 0 then o.rows / 4 else o.rowlen

/-- Offset of element `c` (R227). -/
def Obj.elemOff (o : Obj) (c : Nat) : Nat :=
  if o.fmt = 11 then c / o.rowlen * o.pitch + 64 + 16 * (c % o.rowlen)
  else if o.rowlen = 0 then 4 * c
  else c / o.rowlen * o.pitch + 4 * (c % o.rowlen)

/-- Bytes of an element of an adder target. -/
def Obj.elemBytes (o : Obj) : Nat := if o.fmt = 11 then 16 else 4

/-- Formats an adder accepts as addends (R42). -/
def addendFmt : Fmt → Bool
  | .s32 | .bf16 | .fp32 | .lf32 | .xa128 => true
  | _ => false

/-- The header of a staging row after one entry (R228, R229): HIGHEST raised, ENTRIES counted. -/
def headerEntry (hd : List Byte) (v : Int) : List Byte :=
  let hi := field hd 2 1
  let k := Nat.log2 v.natAbs
  let hi' := if v = 0 then hi else if hi = 0xFF then k else max hi k
  putField (putField hd 2 1 hi') 4 4 (stick32 (field hd 4 4 + 1))

/-- One addition at a physical element address with its row header address (R229, R230): none when a codeword
of either is poisoned. -/
def addAt (s : State) (xa : Bool) (a hdr : Nat) (v : Int) : Option State :=
  if xa then
    match readPhys s a 16, readPhys s hdr 64 with
    | some e, some h =>
      let s := countBytes (countBytes (writePhys s a (leBytes 16 (unsigned 128 (leNat e + v)))) false hdr 64) true hdr 64
      some (writePhys s hdr (headerEntry h v))
    | _, _ => none
  else match readPhys s a 4 with
    | some e => some (writePhys s a (leBytes 4 (unsigned 32 (leNat e + v))))
    | none => none

/-- One addition of an XA128 value to an element whose row header another module homes (R230, R233): none when its
codeword is poisoned. -/
def addApart (s : State) (a : Nat) (v : Int) : Option State :=
  (readPhys s a 16).map (fun e => writePhys s a (leBytes 16 (unsigned 128 (leNat e + v))))

/-- A read-out or clear of the whole row holds it here (R233). -/
def rowHeld (s : State) (n row : Nat) : Bool := s.fab.holds.any (fun h => h.obj == n && h.row == row)

/-- HIGHEST and ENTRIES of one entry, for the module that homes the row's header (log 34). -/
def headMsg (obj row : Nat) (v : Int) : List Byte :=
  placeHead 17 obj row ++ leBytes 4 1 ++ leBytes 1 (if v = 0 then 0xFF else Nat.log2 v.natAbs)

/-- Entries of a row made here are not yet in its header on another module (R233). -/
def headPending (s : State) (n row : Nat) : Bool :=
  s.fab.txns.any (fun x => decide (x.kind = .row) && x.obj == n && x.off == row && field x.pkt.payload 0 1 == 17)

/-- What an addend meets at its target. -/
inductive AddRes where
  | done (s : State) (e : Ev)
  | remote (coord : Nat)
  | stop (status : Nat)
  | wait

/-- The PLACE message that adds values to columns of a row at its new location (log 34). -/
def rowAddMsg (obj row entries high : Nat) (vs : List (Nat × Nat)) : List Byte :=
  placeHead 8 obj row ++ leBytes 4 entries ++ leBytes 1 high ++ vs.flatMap (fun v => leBytes 2 v.1 ++ leBytes 16 v.2)

/-- Adds an entry to the delta buffer of a migration in COPYING, or to the new location in DRAINING (R253). -/
def addMigrating (s : State) (o : Obj) (row col : Nat) (v : Int) : State :=
  match migrationOf s o.num row with
  | none => s
  | some m => match m.state with
    | .copying =>
      let d := unsigned 128 (Tab.get 0 m.delta col + v)
      let k := Nat.log2 v.natAbs
      let hi := if v = 0 then m.deltaHigh else if m.deltaHigh = 0xFF then k else max m.deltaHigh k
      setMigration s { m with delta := Tab.set 0 m.delta col d, deltaN := m.deltaN + 1, deltaHigh := hi }
    | .draining =>
      if m.destCoord = self s then
        (addAt s (o.fmt == 11) (m.destAddr + (if o.fmt = 11 then 64 + 16 * col else 4 * col)) m.destAddr v).getD s
      else
        let k := if v = 0 then 0xFF else Nat.log2 v.natAbs
        postPlace s .row m.destCoord m.obj m.row (rowAddMsg m.obj m.row 1 k [(col, unsigned 128 v)])
    | _ => s

/-- One addend at the adder that fronts its target (R229, R230, R233). -/
def enterAddend (s : State) (x : Addend) : AddRes :=
  let o := objOf s x.obj
  if !o.adderTarget then .stop Status.handle
  else if o.fmt = 4 ∧ x.fmt ≠ .s32 then .stop Status.format
  else
    let off := o.elemOff x.elem
    let row := if o.rowlen = 0 then 0 else x.elem / o.rowlen
    if !o.spans off o.elemBytes then .stop Status.handle
    else if rowHeld s o.num row then .wait
    else match locate s o off, locate s o (if o.fmt = 11 then row * o.pitch else off) with
      | .here a, .here h =>
        let c : Int × Ev := if o.fmt = 11 then convXa o.t (decScalar x.fmt x.tsrc x.val)
          else (signed 32 x.val, {})
        let s := snoopRange s o.num off o.elemBytes true
        match addAt s (o.fmt == 11) a h c.1 with
        | none => .stop Status.poison
        | some s =>
          let s := markDirty (markDirty s o.num off) o.num (row * o.pitch)
          let s := countBytes (countBytes s false a o.elemBytes) true a o.elemBytes
          let s := addMigrating s o row (if o.rowlen = 0 then x.elem else x.elem % o.rowlen) c.1
          let s := refreshCopies (sampleAccess s o off a x.die x.peer) o row
          .done (stampObj s o.num) c.2
      | .wait, _ => .wait
      | .hostM _, _ => .stop Status.tier
      | .remote c, _ => .remote c
      | .stop st, _ => .stop st
      | _, .wait => .wait
      | _, .stop st => .stop st
      | _, .hostM _ => .stop Status.tier
      | .here a, .remote c =>
        let v := convXa o.t (decScalar x.fmt x.tsrc x.val)
        match addApart (snoopRange s o.num off o.elemBytes true) a v.1 with
        | none => .stop Status.poison
        | some s =>
          let s := countBytes (countBytes (markDirty s o.num off) false a o.elemBytes) true a o.elemBytes
          let s := pump (postPlace (sampleAccess s o off a x.die x.peer) .row c o.num row (headMsg o.num row v.1))
          .done (stampObj s o.num) v.2

/-- The bytes of one addend element of a format. -/
def addendBytes (f : Fmt) : Nat := f.elemBits / 8

/-- The ADD_REQ of one addend, in the class of what caused it (R22, R350). -/
def addReqPkt (coord : Nat) (x : Addend) (o : Obj) (die : Nat) : Pkt :=
  let pre := if x.fmt = .xa128 then leBytes 16 (unsigned 16 x.tsrc) else []
  let body := pre ++ leBytes (addendBytes x.fmt) x.val
  { ty := 0x05, dst := coord, addr := x.obj * 2 ^ 40 + o.elemOff x.elem, aux := x.fmt.code, ord := true,
    len := body.length, payload := body, sdie := die, qc := x.qc }

/-- Sends one addend to the adder of its target (R232): it is owed until it has entered. A target in the host
tier or on a fenced module stops the sender. -/
def sendAddend (n elem : Nat) (f : Fmt) (tsrc : Int) (v : Nat) : Eng Unit := do
  let c ← get
  let o := objOf c.s n
  let x : Addend := { issuer := some c.w.ref, peer := self c.s, die := c.die, obj := n, elem := elem, fmt := f, tsrc := tsrc, val := v,
                       qc := c.w.qc, gse := if c.w.cls = 5 then some c.w.dsp else none, sent := false }
  if o.fmt = 4 ∧ f ≠ .s32 then stopWith Status.format
  else match locate c.s o (o.elemOff elem) with
    | .here _ => modS (fun s => { s with addends := s.addends ++ [x] })
    | .wait => modS (fun s => { s with addends := s.addends ++ [x] })
    | .hostM _ => stopWith Status.tier
    | .stop st => stopWith st
    | .remote coord =>
      modS (fun s => postTxn s .add (some c.w.ref) n (o.elemOff elem) (addReqPkt coord x o c.die))
  modify (fun c => { c with owed := c.owed + 1 })

/-- Sends consecutive addends. -/
def sendAddends (n : Nat) (f : Fmt) (tsrc : Int) : Nat → List Nat → Eng Unit
  | _, [] => pure ()
  | elem, v :: vs => do
    sendAddend n elem f tsrc v
    sendAddends n f tsrc (elem + 1) vs

/-- A cleared staging row header (R236). -/
def clearedHeader (T : Int) : List Byte := leBytes 2 (unsigned 16 T) ++ leBytes 1 0xFF ++ List.replicate 61 0

/-- The bytes of a cleared row: of an adder target (R236), and of a gradient row of another format (R268). -/
def Obj.clearedRow (o : Obj) : List Byte :=
  if o.fmt = 11 then clearedHeader o.t ++ List.replicate (16 * o.rowlen) 0
  else if o.rowlen = 0 then List.replicate (o.rows / 4 * 4) 0
  else List.replicate (o.format.rowBytes o.rowlen) 0

/-! ## Rows read out and cleared in one atomic step (R233, R236) -/

/-- What an RD_REQ asks of a part of a staging row: to read it out in one atomic read (log 107). -/
def auxRead : Nat := 1
/-- To read it out and clear it (log 107). -/
def auxTake : Nat := 2
/-- To clear it (log 107). -/
def auxClear : Nat := 3
/-- To let a row go of which a part has been taken (log 107). -/
def auxRelease : Nat := 4
/-- Added to the first three: the row is held from then on, because other parts of it follow (log 107). -/
def auxHold : Nat := 4

/-- The tag of the descriptor that asks, by the order of its start (log 107). -/
def rowTag (w : Work) : Nat := w.order % 8191

/-- AUX of an RD_REQ of a row operation: what it asks, and for whom (log 107). -/
def rowAux (op tag : Nat) : Nat := op * 2 ^ 13 + tag

/-- The row operation that AUX of an RD_REQ to an object asks for (log 107). -/
def rowOpOf (o : Obj) (aux : Nat) : Option Nat :=
  if o.versioned = true ∨ aux = 0xFFFF ∨ aux < 2 ^ 13 then none else some (aux / 2 ^ 13)

/-- The request lets a row be held on the module that serves it (log 107). -/
def holdsRow (o : Obj) (aux : Option Nat) : Bool :=
  match aux.bind (rowOpOf o) with
  | some op => decide (auxHold < op)
  | none => false

/-- The row an offset lies in. -/
def Obj.rowOf (o : Obj) (off : Nat) : Nat := if o.rowlen = 0 then 0 else off / o.pitch

/-- The request that lets a row go on another module, or on this one as another part's module (log 107). -/
def postRelease (s : State) (die tag coord n off : Nat) : State :=
  postTxn s .rd none n off
    { ty := 0x01, dst := coord, addr := n * 2 ^ 40 + off, len := 1, ord := true, sdie := die, aux := rowAux auxRelease tag }

/-- Every row held for a descriptor is let go (R233, log 107). -/
def releaseHolds (s : State) (w : Work) : State :=
  w.holds.foldl (fun s h => postRelease s w.die (rowTag w) h.1 h.2.1 h.2.2) s

/-- A row is let go here. -/
def dropHold (s : State) (h : RowHold) : State := { s with fab := { s.fab with holds := s.fab.holds.erase h } }

/-- A row is held here for another taker (R233). -/
def heldByOther (s : State) (x : RowHold) : Bool := s.fab.holds.any (fun h => h.obj == x.obj && h.row == x.row && decide (h ≠ x))

/-- A row is held here. -/
def addHold (s : State) (h : RowHold) : State :=
  if h ∈ s.fab.holds then s else { s with fab := { s.fab with holds := s.fab.holds ++ [h] } }

/-- The parts of a row that lie in one page each: offset and length. -/
def rowParts (o : Obj) (row : Nat) : List (Nat × Nat) :=
  pieces 65536 (o.clearedRow.length / 65536 + 2) (row * o.pitch) o.clearedRow.length

/-- Takes the bytes of a piece that have arrived for this descriptor: each arrival serves one taking. -/
def takeRbuf (n off len : Nat) : Eng (Option (List Byte)) := do
  let c ← get
  match c.w.rbuf.find? (fun b => b.obj == n && decide (b.off = off) && decide (b.data.length = len)) with
  | some b =>
    modify (fun c => { c with w := { c.w with rbuf := c.w.rbuf.erase b } })
    pure (some b.data)
  | none => pure none

/-- Reads out, clears, or both, a part of a row homed here, in one atomic step. -/
def partHere (o : Obj) (row off len aux : Nat) : Eng (List Byte) := do
  let bs ← if aux = auxClear then pure [] else rdObj o.num off len
  if aux ≠ auxRead then wrObj o.num off ((o.clearedRow.drop (off - row * o.pitch)).take len)
  pure bs

/-- The bytes of a part of a row another module has read out for this descriptor; the pieces after the first come from
the module that took the first. -/
def partAway (o : Obj) (coord off len aux tag : Nat) : Eng (List Byte) := do
  let ps := if aux % auxHold = auxClear then [(off, 1)] else pieces 256 (len / 256 + 2) off len
  let w := (← get).w
  let from_ := ((w.rbuf.find? (fun b => b.obj == o.num && b.off == off)).map (·.peer)).getD coord
  let parts ← mapDo (fun (p : Nat × Nat) => do
    match ← takeRbuf o.num p.1 p.2, w.readFail with
    | some bs, _ => pure bs
    | none, some st => stopWith st
    | none, none => throw (.need from_ o.num p.1 p.2 (some (rowAux aux tag)))) ps
  pure (if aux % auxHold = auxClear then [] else parts.flatten)

/-- A part of a row has been asked of another module already. -/
def partAsked (w : Work) (n off : Nat) : Bool := w.rbuf.any (fun b => b.obj == n && b.off == off)

/-- Reads out, clears, or both, a part of a row, by a request if another module homes it. -/
def partAt (o : Obj) (row off len aux tag : Nat) : Eng (List Byte) := do
  let c ← get
  if partAsked c.w o.num off then partAway o (self c.s) off len aux tag
  else match locate c.s o off with
    | .remote coord => partAway o coord off len aux tag
    | _ => partHere o row off len aux

/-- The same by a request in every case, to this module too. -/
def partFar (o : Obj) (off len aux tag : Nat) : Eng (List Byte) := do
  let c ← get
  if partAsked c.w o.num off then partAway o (self c.s) off len aux tag
  else match locate c.s o off with
    | .remote coord => partAway o coord off len aux tag
    | .here _ => partAway o (self c.s) off len aux tag
    | .hostM _ => stopWith Status.tier
    | .stop st => stopWith st
    | .wait => throw (.line (linePage o.num (off / 65536)))

/-- Reads out, clears, or both, row `row`: in one atomic step where it lies in one page or all of it is here; otherwise its
later parts are taken one after another, each module holding the row from then on, and the part of its header last, at
which moment the whole row is taken; a row another taker holds is waited for (R233, log 107). -/
def rowAtomic (o : Obj) (row aux : Nat) : Eng (List Byte) := do
  let c ← get
  let tag := rowTag c.w
  match rowParts o row with
  | [] => pure []
  | [p] => partAt o row p.1 p.2 aux tag
  | p :: ps =>
    if (p :: ps).any (fun q => partAsked c.w o.num q.1 || (match locate c.s o q.1 with
        | .remote _ => true
        | _ => false)) then
      let tail ← mapDo (fun (q : Nat × Nat) => partFar o q.1 q.2 (auxHold + aux) tag) ps
      let head ← partFar o p.1 p.2 aux tag
      pure (head ++ tail.flatten)
    else if rowHeld c.s o.num row then throw .wait
    else
      let parts ← mapDo (fun (q : Nat × Nat) => partHere o row q.1 q.2 aux) (p :: ps)
      pure parts.flatten

/-- Clears row `row` of an adder target (R236). -/
def clearRow (o : Obj) (row : Nat) : Eng Unit := do
  let _ ← rowAtomic o row auxClear

/-! ## Accesses on their way (R253, R323) -/

/-- Two ranges of offsets meet. -/
def meets (a n b m : Nat) : Bool := decide (a < b + m) && decide (b < a + n)

/-- An access to a range of an object is on its way here: an addend, a request received, or one that is being served, whose
record names its range (log 112). -/
def accessPending (s : State) (n off len : Nat) : Bool :=
  s.addends.any (fun x => x.obj == n && meets ((objOf s n).elemOff x.elem) 1 off len) ||
  s.fab.inbox.any (fun k => isReq k && hObj k.addr == n && meets (hOff k.addr) (max 1 k.len) off len) ||
  s.fab.inbox.any (fun k => k.ty == 7 && k.aux == 5 && field k.payload 0 1 == 17 && field k.payload 1 3 == n &&
    meets (field k.payload 4 8 * (objOf s n).pitch) 64 off len) ||
  s.fab.holds.any (fun h => h.obj == n && meets (h.row * (objOf s n).pitch) (objOf s n).pitch off len) ||
  s.work.any (fun w => w.req.isSome && (match w.names with
    | [m, o, l] => m == n && meets o (max 1 l) off len
    | _ => false))

end Sys2Proof.Machine
end

