-- ==== Sys2Proof/Machine/Work.lean ====
section
/-! DEFINITION. The life of a descriptor (chapter 6): the common header, when it may start (R153-R155), the
checks of its start (R149), the issue decision of its dispatcher (R169, R170), running its engine, and its
completion with record, notice, latch and the retirement of strands (R151, R164, R399). -/

namespace Sys2Proof.Machine
open Sys2Proof

/-! ## Finding and changing descriptors in flight -/

/-- The descriptor of a name. -/
def findWork (s : State) (r : WRef) : Option Work := s.work.find? (fun w => decide (w.ref = r))

/-- Replaces a descriptor's record. -/
def setWork (s : State) (w : Work) : State :=
  { s with work := s.work.map (fun x => if x.ref = w.ref then w else x) }

/-- Removes a descriptor. -/
def delWork (s : State) (r : WRef) : State := { s with work := s.work.filter (fun x => !decide (x.ref = r)) }

/-- The indices of a queue. -/
def queueOf (s : State) (q : Nat) : Queue := Tab.get {} s.queues q

/-- Changes the indices of a queue. -/
def setQueue (s : State) (q : Nat) (x : Queue) : State := { s with queues := Tab.set {} s.queues q x }

/-- The position in a descriptor's name. -/
def posOf (p : Nat) : Nat := p % 2 ^ 64
/-- The generation of its queue in a descriptor's name (log 103). -/
def genOf (p : Nat) : Nat := p / 2 ^ 64
/-- The name of a position of a queue. -/
def posName (x : Queue) (i : Nat) : Nat := x.gen * 2 ^ 64 + i

/-! ## When a descriptor may start -/

/-- The position is complete; positions below the frontier are (R153, R156). -/
def Queue.done (x : Queue) (p : Nat) : Bool := decide (p < x.frontier) || x.doneAt.contains p

/-- R153, within the look-ahead of R145; a batch waits for nothing (R161). -/
def startable (s : State) (w : Work) : Bool :=
  match w.ref with
  | .b _ => true
  | .q q n =>
    let x := queueOf s q
    let p := posOf n
    decide (p ≤ x.frontier + 64) &&
    (rangeFrom (p - w.deps) (min w.deps p)).all x.done &&
    (!w.fb || decide (p ≤ x.frontier)) &&
    s.work.all (fun v => match v.ref with
      | .q q' n' => !(q' == q && genOf n' == genOf n && decide (n' < n) && v.fa)
      | .b _ => true)

/-- A descriptor it waits for completed with failure (R154). -/
def depFailed (s : State) (w : Work) : Bool :=
  match w.ref with
  | .b _ => false
  | .q q p => (queueOf s q).failed.any (fun k => decide (k < posOf p) && decide (posOf p ≤ k + w.deps))

/-- FB = 1 under the fault latch (R155). -/
def latched (s : State) (w : Work) : Bool :=
  match w.ref with
  | .b _ => false
  | .q q _ => w.fb && decide (reg s (Key.queueFaultLatch + 256 * q) = 1)

/-- It completes CANCELLED instead of starting (R154, R155). -/
def cancelled (s : State) (w : Work) : Bool := depFailed s w || (latched s w && startable s w)

/-! ## The checks of the start (R149) -/

/-- The opcode is defined by its engine's chapter. -/
def opKnown (op : Nat) : Bool :=
  match op / 256, op % 256 with
  | 0x1, k => decide (k ≤ 3)
  | 0x2, k => decide (k ≤ 1)
  | 0x3, k => decide (k ≤ 2)
  | 0x4, k => decide (k ≤ 2)
  | 0x5, k => decide (k ≤ 4) || (decide (0x10 ≤ k) && decide (k ≤ 0x12))
  | 0x6, k => decide (k ≤ 2)
  | 0x7, k => decide (k ≤ 3)
  | 0x8, k => k == 0 || k == 0x80 || k == 0x81
  | 0x9, k => k == 0 || k == 1 || k == 0x10 || k == 0x30 || k == 0x31
  | 0xA, k => decide (k ≤ 4)
  | _, _ => false

/-- The handles of the objects a descriptor of class 0x1, 0x3, 0x4 or 0x5 writes, scatter-adds or drains into, or a
PRD_BIND its L1 words (R23, R177). -/
def targets (w : Work) : List Nat :=
  match w.op with
  | 0x0100 | 0x0101 | 0x0102 | 0x0103 => [w.f 32 8]
  | 0x0300 => [w.f 32 8]
  | 0x0302 => [w.f 24 8, w.f 32 8, w.f 48 8]
  | 0x0400 => [w.f 24 8, w.f 32 8, w.f 40 8]
  | 0x0401 => [w.f 32 8] ++ (if bit (w.f 56 1) 0 then [w.f 40 8] else [])
  | 0x0402 => [w.f 32 8]
  | 0x0500 | 0x0501 => [w.f 32 8]
  | 0x0502 | 0x0504 => [w.f 16 8]
  | 0x0503 => [w.f 24 8] ++ (if bit (w.f 41 1) 0 then [w.f 16 8] else [])
  | 0x0930 => [w.f 32 8]
  | _ => []

/-- Training state by handle (R23). -/
def isTraining (s : State) (h : Nat) : Bool := (objOf s (hObj h)).trainingState

/-- The graph header a PREFIX names, where it lies here, gives it a CUMW of a training role to write (R23, R205, R219). -/
def prefixTarget (s : State) (w : Work) : Bool :=
  let o := objOf s (hObj (w.f 16 8))
  w.op == 0x0301 && o.spans (hOff (w.f 16 8)) 64 &&
  (match readLocal s o (hOff (w.f 16 8)) 64 with
    | some bs => bit (field bs 56 1) 4 && isTraining s (field bs 32 8)
    | none => false)

/-- R23, R144 and R245. -/
def classFault (s : State) (w : Work) : Bool :=
  (match w.ref with
    | .q q _ => !(w.qc == decide (reg s (Key.queueClass + 256 * q) = 1))
    | .b _ => false) ||
  (w.qc && (w.cls == 6 || w.cls == 7 || w.cls == 8 || w.op == 0x0510 ||
    (targets w).any (isTraining s) || prefixTarget s w ||
    (w.op == 0x0511 && (objOf s (Tab.get {} s.slots (w.f 16 2)).obj).trainingState) ||
    (w.op == 0x0512 && isTraining s (w.f 16 8))))

/-- The opcodes whose own checks say where FAULT_FORMAT comes among them. -/
def checksRnd (w : Work) : Bool :=
  w.cls == 1 || w.cls == 2 || w.cls == 6 || w.op == 0x0503 || w.op == 0x0700 || w.op == 0x0701

/-- The status of the first check of R149 that fails, 0 when none does; the reserved rounding mode is the first of an
engine's own checks where its chapter does not place it (R48, log 74). -/
def headerStatus (s : State) (w : Work) : Nat :=
  if !opKnown w.op then Status.opcode
  else if classFault s w then Status.cls
  else if decide (w.cls ≤ 8) && decide (reg s Key.ephPin = 0) then Status.ephemeris
  else if !checksRnd w && w.rnd == 3 then Status.format
  else 0

/-- A fetched descriptor that may start and passes the checks of R149. -/
def runnable (s : State) (w : Work) : Bool :=
  decide (w.phase = .fetched) && startable s w && !cancelled s w && headerStatus s w == 0

/-! ## Issue decisions (R146, R169, R170) -/

/-- The engine kind of an opcode (R170): arrays, vector units, sampler, gather-scatter, save, builder, update,
reduction, placement; 9 for the dispatcher itself. -/
def kindOf (op : Nat) : Nat :=
  match op / 256 with
  | 0x1 => 0 | 0x2 => 1 | 0x3 => 2 | 0x5 => 3 | 0x7 => 4 | 0x4 => 5 | 0x6 => 6 | 0x8 => 7 | 0xA => 8
  | _ => 9

/-- The matrix descriptor a drain-coupled descriptor names (R134), among those in flight on its cluster. -/
def pairOf (s : State) (w : Work) : Option Work :=
  s.work.find? (fun m => m.cls == 1 && m.tag == w.f 40 4 && m.dsp == w.dsp &&
    (decide (m.phase = .running) || decide (m.phase = .fetched)))

/-- The global tiles of a dispatcher. -/
def tilesOf (dsp : Nat) : List Nat := rangeFrom (4 * dsp) 4

/-- The descriptor has started and is not complete (R151): it runs, or its acknowledgements or its record are owed. -/
def Work.engaged (w : Work) : Bool := decide (w.order ≠ 0) && decide (w.phase ≠ .fetched)

/-- No descriptor of this class that is not complete holds the tile (R25, R117). -/
def tileIdle (s : State) (cls tile : Nat) : Bool :=
  s.work.all (fun w => !(w.cls == cls && w.engaged && w.unit == tile))

/-- The tile whose own slice holds the first byte of a handle. -/
def homeTile (s : State) (h : Nat) : Option Nat :=
  let o := objOf s (hObj h)
  if o.spans (hOff h) 1 then
    match locatePage s o (hOff h) with
    | .here a => if unitOf a < 64 then some (unitOf a) else none
    | _ => none
  else none

/-- The tile a matrix or vector descriptor goes to (R146). -/
def tileFor (s : State) (w : Work) : Option Nat :=
  if w.op = 0x0201 then
    match pairOf s w with
    | some m => if m.phase = .running ∧ tileIdle s 2 m.unit = true then some m.unit else none
    | none => (tilesOf w.dsp).find? (tileIdle s 2)
  else
    let idle := (tilesOf w.dsp).filter (tileIdle s w.cls)
    match homeTile s (w.f 16 8) with
    | some t => if idle.contains t then some t else idle.head?
    | none => idle.head?

/-- The error unit whose engines a descriptor runs on (R475). -/
def errUnitOf (w : Work) : Nat :=
  match kindOf w.op with
  | 5 | 6 => 0x10 + w.die
  | 7 => 0x33
  | 8 => 0x34
  | _ => w.dsp

/-- Another descriptor runs on the engine this one needs, or its unit is stopped by a UNIT error (R482). -/
def engineBusy (s : State) (w : Work) : Bool :=
  s.err.stopped.contains (errUnitOf w) ||
  let running := s.work.filter (fun v => decide (v.phase = .running) && kindOf v.op == kindOf w.op)
  let engaged := s.work.filter (fun v => v.engaged && kindOf v.op == kindOf w.op)
  match kindOf w.op with
  | 0 | 1 => (tileFor s w).isNone
  | 2 | 3 | 4 => running.any (fun v => v.dsp == w.dsp)
  | 5 | 6 => running.any (fun v => v.die == w.die)
  | 8 => !engaged.isEmpty
  | _ => false

/-- A due REDUCE that has reached the reduction engine and waits for a context; the cursor is its place in the order of
arrival (R371). -/
def Work.waiting (w : Work) : Bool := w.op == 0x0800 && w.cursor != 0 && decide (w.phase = .fetched)

/-- A candidate for an engine kind of a dispatcher: a drain-coupled descriptor is held until its pair is issued
(R146). -/
def candidate (s : State) (dsp kind : Nat) (w : Work) : Bool :=
  w.dsp == dsp && kindOf w.op == kind && runnable s w && !w.waiting &&
  (w.op != 0x0201 || (match pairOf s w with
    | some m => decide (m.phase = .running)
    | none => true))

/-- Ready longer, or equally long with the lower queue, launch-table entry, position (R169, log 21). -/
def older (a b : Work) : Bool :=
  let key (w : Work) : Nat × Nat × Nat := match w.ref, w.batch with
    | .q q p, _ => (q, 0, p)
    | .b i, some t => (64, t.launch.entry, i)
    | .b i, none => (64, 0, i)
  let ra := a.readyAt.getD 0
  let rb := b.readyAt.getD 0
  let ka := key a
  let kb := key b
  if ra = rb then
    if ka.1 = kb.1 then (if ka.2.1 = kb.2.1 then decide (ka.2.2 < kb.2.2) else decide (ka.2.1 < kb.2.1))
    else decide (ka.1 < kb.1)
  else decide (ra < rb)

/-- The oldest of a list of candidates. -/
def oldest : List Work → Option Work
  | [] => none
  | w :: ws => match oldest ws with
    | none => some w
    | some v => if older v w then some v else some w

/-- Notes the moment each newly ready descriptor became ready. -/
def markReady (s : State) : State :=
  { s with
    tick := s.tick + 1
    work := s.work.map (fun w => if w.readyAt.isNone && runnable s w then { w with readyAt := some s.tick } else w) }

/-- The descriptor the next decision for an engine kind of a dispatcher goes to, and whether the guard gave it
to the training class (R170). -/
def decision (s : State) (dsp kind : Nat) : Option (Work × Bool) :=
  let cs := s.work.filter (candidate s dsp kind)
  let train := oldest (cs.filter (fun w => !w.qc))
  let query := oldest (cs.filter (fun w => w.qc))
  let guarded := decide (reg s Key.dspTrainGuard ≤ Tab.get 0 s.guard (16 * dsp + kind))
  match query, train with
  | some q, some t => if guarded then some (t, true) else some (q, false)
  | some q, none => some (q, false)
  | none, some t => some (t, false)
  | none, none => none

/-- The dispatcher whose turn it is for an engine the dies' four dispatchers share (R146). -/
def turnOf (s : State) (die kind : Nat) : Option Nat :=
  let last := Tab.get 3 s.turn (8 * die + kind)
  ((rangeFrom 1 4).map (fun i => 4 * die + (last + i) % 4)).find? (fun d => (decision s d kind).isSome)

/-- One issue decision: the state after it, if it goes to `w` (R169, R170). Classes 0x9 is the dispatcher's own. -/
def issue (s : State) (w : Work) : Option State :=
  let kind := kindOf w.op
  if kind = 9 then some s
  else if engineBusy s w then none
  else if (kind == 5 || kind == 6) && turnOf s w.die kind != some w.dsp then none
  else match decision s w.dsp kind with
    | none => none
    | some (v, byGuard) =>
      if v.ref ≠ w.ref then none
      else
        let k := 16 * w.dsp + kind
        let s := if kind = 5 ∨ kind = 6 then { s with turn := Tab.set 3 s.turn (8 * w.die + kind) (w.dsp % 4) } else s
        if v.qc then
          let contested := s.work.any (fun x => candidate s w.dsp kind x && !x.qc)
          some { s with guard := if contested then Tab.set 0 s.guard k (Tab.get 0 s.guard k + 1) else s.guard }
        else
          let s := { s with guard := Tab.set 0 s.guard k 0 }
          some (if byGuard then bump s (Key.dspGuardGrants + w.die) 1 else s)

/-! ## Running an engine -/

/-- The 256-byte chunk of a remote object as a read request (R226, R355); `aux` none names the version the object is read
under. -/
def readReq (s : State) (w : Work) (coord obj off len : Nat) (aux : Option Nat) : State :=
  postTxn s .rd (some w.ref) obj off
    { ty := 0x01, dst := coord, addr := obj * 2 ^ 40 + off, len := len, ord := true, qc := w.qc || w.reqQc, sdie := w.die,
      aux := match aux with
        | some a => a
        | none => if (objOf s obj).versioned then
            ((w.refs.find? (fun r => r.1 == (objOf s obj).tslot)).map (·.2)).getD 0xFFFF
          else 0xFFFF }

/-- The pages a row meets. -/
def rowPages (o : Obj) (row : Nat) : List Nat :=
  let first := row * o.pitch / 65536
  rangeFrom first ((row * o.pitch + o.pitch - 1) / 65536 + 1 - first)

/-- Plans the moves of the pages of a row that lie in the host tier here (R317). -/
def promotePages (s : State) (o : Obj) (row die : Nat) : State :=
  (rowPages o row).foldl (fun s p => match o.page p with
    | some r => (match r.home with
      | .host _ =>
        if s.place.moves.any (fun m => m.obj == o.num && m.page == p) then s
        else { s with place := { s.place with moves := s.place.moves ++
          [{ obj := o.num, page := p, src := r.home, coord := self s, tier := 1, die := some die, q := localSeq s o p,
             promote := true }] } }
      | _ => s)
    | none => s) s

/-- The other modules that home a page of a row. -/
def rowModules (s : State) (o : Obj) (row : Nat) : List Nat :=
  ((rowPages o row).filterMap (fun p => match locatePage s o (65536 * p) with
    | .remote c => some c
    | _ => none)).eraseDups

/-- Plans the promotion of a row in the host tier (R256, R317): a row migration, or moves of every page it meets, of
which the other modules that home one are told (log 34). A shorter row of which another module homes a part is promoted by
moves too, as no adder reads it in one step (log 154). -/
def planPromote (s : State) (o : Obj) (row die : Nat) : State :=
  if o.rowlen ≠ 0 ∧ o.pitch ≤ 4096 ∧ rowModules s o row = [] then
    let p : MigPlan := { obj := o.num, row := row, destCoord := self s, destDie := die, promote := true }
    if s.dir.plans.contains p || (migrationOf s o.num row).isSome then s
    else { s with dir := { s.dir with plans := s.dir.plans ++ [p] } }
  else
    let s' := promotePages s o row die
    let ours := s.place.moves.any (fun m => m.obj == o.num && (rowPages o row).contains m.page)
    if ours ∨ s.fab.txns.any (fun x => x.obj == 0 && x.pkt.payload.take 12 == placeHead 15 o.num row) then s'
    else pump ((rowModules s o row).foldl (fun s c => postPlace s .place c 0 0 (placeHead 15 o.num row ++ leBytes 1 die)) s')

/-- The state an engine's run leaves (R131): its effects stand when it ends or stops with a status; where it
needs another module's bytes or must wait, the run is undone and repeated later with what has arrived. One that stops
in a line joins it, and leaves the lines whose turn it had (R242, R323). Rows held for one that ends are let go (R233). -/
def settle (s0 : State) (w0 : Work) (r : Except Stop Unit) (c : Ectx) : State :=
  let kept : Work := { w0 with phase := .running, ver := c.w.ver, vers := c.w.vers, names := c.w.names,
                               cursor := c.w.cursor }
  let ended (code : Nat) : State :=
    pump (setWork (releaseHolds c.s c.w) { c.w with
      holds := [], phase := if c.owed = 0 then .done else .acks,
      status := if success code && !success c.w.status then c.w.status else code, acc := c.acc,
      events := c.events, owed := c.owed })
  match r with
  | .ok _ => ended Status.ok
  | .error (.status code) => ended code
  | .error .wait => setWork s0 kept
  | .error (.line k) => setWork (joinLine (leaveLines s0 w0.ref c.passed) k w0.ref) kept
  | .error (.need coord obj off len aux) =>
    if s0.fab.txns.any (fun t => decide (t.kind = .rd) && decide (t.issuer = some w0.ref)) then setWork s0 kept
    else
      let at_ := (coord, obj, off)
      let kept := if holdsRow (objOf s0 obj) aux = true ∧ w0.req = none ∧ at_ ∉ kept.holds then { kept with holds := kept.holds ++ [at_] } else kept
      setWork (pump (readReq s0 kept coord obj off len aux)) kept
  | .error (.promote obj row) => setWork (planPromote s0 (objOf s0 obj) row w0.die) kept

/-- Runs an engine's body on a descriptor that is running. -/
def runBody (body : Eng Unit) (w : Work) (s : State) : State :=
  let r := (body.run).run { s := s, w := w, die := w.die }
  settle s w r.1 r.2

/-- The current version of each table slot that has one (R28). -/
def currentVersions (s : State) : List (Nat × Nat) :=
  (s.slots.filter (fun e => e.2.cur != 0)).map (fun e => (e.1, e.2.cur))

/-- A descriptor as it starts: running on `unit`, next in the order of starts, a query or a CKPT_EXPORT with the versions
of this moment (R28, R287). -/
def Work.start (w : Work) (s : State) (unit : Nat) : Work :=
  { w with phase := .running, unit := unit, began := s.time, order := s.starts + 1,
           snap := if w.qc || w.op == 0x0702 then currentVersions s else [] }

/-- Starts a descriptor: it is running on `unit`. -/
def started (s : State) (w : Work) (unit : Nat) : State × Work :=
  (setWork { s with starts := s.starts + 1 } (w.start s unit), w.start s unit)

/-- The command of an engine on a descriptor: a first run takes an issue decision; a run that waited is
repeated. A descriptor that may not start, or of another opcode, leaves the state as it is; one that fails a
check of R149 has its status decided. -/
def runEngine (op : Nat) (body : Eng Unit) (r : WRef) (s : State) : State :=
  match findWork s r with
  | none => s
  | some w =>
    if w.op ≠ op ∨ w.req.isSome ∨ computing s = false then s
    else match w.phase with
      | .running => runBody body w s
      | .fetched =>
        if startable s w && !cancelled s w then
          let st := headerStatus s w
          if st ≠ 0 then setWork s { w with phase := .done, status := st }
          else
            let s := markReady s
            match issue s w with
            | none => s
            | some s =>
              let p := started s w 0
              runBody body p.2 p.1
        else s
      | _ => s

/-! ## Object bytes the host interface reaches (R404) -/

/-- Every byte of a range is in this module's memory and no page of it drains. -/
def allHere (s : State) (o : Obj) (off len : Nat) : Bool :=
  (pieces 65536 (len / 65536 + 2) off len).all (fun p => match locatePage s o p.1 with
    | .here _ => true
    | _ => false)

/-- An access of the host or of the dispatcher counts in the access statistics as one of die 0 of this module (R320,
log 116). -/
def sampleRange (s : State) (o : Obj) (off len : Nat) : State :=
  (pieces 256 (len / 256 + 2) off len).foldl (fun s p => match locate s o p.1 with
    | .here a => sampleAccess s o p.1 a 0 (self s)
    | _ => s) s

/-- Writes bytes of a local object; the rows of a versioned one have passed R239. -/
def writeLocal (s : State) (o : Obj) (off : Nat) (bs : List Byte) : State :=
  let s := (spans16 off bs.length).foldl (fun s p => match locate s o p.1 with
    | .here a => countBytes (markDirty (writePhys s a ((bs.drop (p.1 - off)).take p.2)) o.num p.1) true a p.2
    | _ => s) s
  afterWrite (clearCovered (sampleRange s o off bs.length) o.num off bs.length) o.num off bs.length

/-- Where a host physical address leads in a range that begins at `base`: object and offset of the aperture it falls in
(R401, R402). -/
def aptTarget (s : State) (base a : Nat) : Nat × Nat :=
  let d := a - base
  let x := Tab.get {} s.cxl.apts (d / 2 ^ 32)
  (x.obj, x.off + d % 2 ^ 32)

/-- The bytes of a ring (R400): of an aperture's object, or of host memory; none at poison or while held. -/
def ringRead (s : State) (apt : Bool) (base a n : Nat) : Option (List Byte) :=
  if apt then
    let x := aptTarget s base a
    readLocal s (objOf s x.1) x.2 n
  else readHost s a n

/-- What the reading of a ring does beside: snoops, statistics and counts of an aperture's object, or the requests to the
host (R320, R332, R404, R405). -/
def ringSeen (s : State) (apt : Bool) (base a n : Nat) : State :=
  if apt then
    let x := aptTarget s base a
    let s := snoopRange s x.1 x.2 n false
    countRange (sampleRange s (objOf s x.1) x.2 n) false (objOf s x.1) x.2 n
  else sendAll s (d2hReads a n)

/-- Writes bytes of a ring (R400, R404). -/
def ringWrite (s : State) (apt : Bool) (base a : Nat) (bs : List Byte) : State :=
  if apt then
    let x := aptTarget s base a
    writeLocal (snoopRange s x.1 x.2 bs.length true) (objOf s x.1) x.2 bs
  else putHost s a bs

/-- Bytes of a ring can be reached now: the aperture's page does not drain, or host memory is reachable (R323, R405,
R407). -/
def ringOpen (s : State) (apt : Bool) (base a n : Nat) : Bool :=
  if apt then
    let y := aptTarget s base a
    allHere s (objOf s y.1) y.2 n
  else hostLinkUp s

/-! ## Completion -/

/-- The completion record of R150. -/
def recordOf (w : Work) (t : Nat) : List Byte :=
  leBytes 4 w.tag ++ leBytes 2 w.status ++ leBytes 2 w.acc.flags.toNat ++ leBytes 4 w.acc.satN ++
  leBytes 4 w.acc.fluN ++ leBytes 4 w.acc.invN ++ leBytes 4 w.events ++ leBytes 8 t

/-- The counters of cycles in which the unit of a descriptor waited or was held (R113, R141; chapters 7 to 9). -/
def busyKeys (w : Work) : List Nat :=
  match w.cls with
  | 0x01 => [Key.arrHoldCycles + w.unit % 64]
  | 0x02 => [Key.vecStallCycles + w.unit % 64, Key.vecPortWaitCycles + w.unit % 64]
  | 0x03 => [Key.smpBusyCycles + w.dsp % 16]
  | 0x04 => [Key.nblBusyCycles + w.die % 4]
  | 0x05 => [Key.gseBusyCycles + w.dsp % 16]
  | 0x06 => [Key.updBusyCycles + w.die % 4]
  | 0x07 => [Key.savBusyCycles + w.dsp % 16]
  | _ => []

/-- How many cycles a started descriptor took is timing: each of its counters rises by an amount left free (log 88). -/
def countCycles (s : State) (w : Work) : State :=
  if w.phase = .done ∧ w.order ≠ 0 then
    (busyKeys w).foldl (fun s k =>
      let f := drawFree s
      bump f.2 k f.1) s
  else s

/-- The counters of completions by status. -/
def countStatus (s : State) (w : Work) : State :=
  let up (k : Nat) : State := bump32 s k 1
  if w.status = Status.ephemeris then up Key.ephRejects
  else if w.status = Status.sparseMeta then up Key.arrSparseMetaFaults
  else if w.status = Status.expMax then up Key.arrExpmaxFaults
  else if w.status = Status.vprog then up Key.vecVprogFaults
  else if w.status = Status.timeout then up Key.vecTimeouts
  else if w.status = Status.drain then up Key.vecDrainFaults
  else if w.status = Status.predict then up Key.prdFaults
  else if w.status = Status.graph then up Key.smpGraphFaults
  else if w.status = Status.nbrOverflow then up Key.nblOverflows
  else if w.status = Status.cell then up Key.nblCellFaults
  else if w.status = Status.index then up Key.gseIndexFaults
  else if w.status = Status.version then up Key.gseVersionFaults
  else if w.status = Status.shadow then up Key.gseShadowFaults
  else if w.status = Status.saveFull then up Key.savFullFaults
  else if w.status = Status.restore then up Key.savRestoreFaults
  else s

/-- R369: a REDUCE is due in its step. -/
def redDue (w : Work) : Bool := (w.step + 2 ^ 32 - w.f 36 4 + 1) % 2 ^ 32 % w.f 35 1 == 0

/-- RED_COMPLETED counts the due REDUCEs that complete, whatever their status (R390). -/
def countRed (s : State) (w : Work) : State :=
  if w.op = 0x0800 ∧ w.req = none ∧ w.f 35 1 ≠ 0 ∧ w.f 35 1 ≤ 64 ∧ redDue w = true then bump s Key.redCompleted 1 else s

/-- The references to a version of a table slot (R240, R242). -/
def versionRefs (s : State) (slot v : Nat) : Nat :=
  (s.work.filter (fun w => w.refs.contains (slot, v))).length

/-- OLD of a slot begins its linger when its last reference ends (R242). -/
def dropRef (s : State) (w : Work) : State :=
  w.refs.foldl (fun s r =>
    let x := Tab.get {} s.slots r.1
    if x.old = some r.2 ∧ versionRefs s r.1 r.2 = 0 then
      { s with slots := Tab.set {} s.slots r.1 { x with oldIdle := s.time } }
    else s) s

/-- Moves the frontier past complete positions (R156). -/
def advance : Nat → Queue → Queue
  | 0, x => x
  | n + 1, x => if x.doneAt.contains x.frontier
      then advance n { x with frontier := x.frontier + 1, doneAt := x.doneAt.erase x.frontier } else x

/-- Completion notice (R399): COMPL_PRODUCER, the CPI word, the MSI-X vector when the count is reached. -/
def notify (s : State) (q t : Nat) : State :=
  let x := queueOf s q
  let x := { x with compl := x.compl + 1, unnotified := x.unnotified + 1,
                    firstAt := if x.unnotified = 0 then t else x.firstAt }
  let s := setQueue s q x
  let cpi := reg s (Key.queueCpiAddr + 256 * q)
  let s := if cpi = 0 then s else ringWrite s x.cpiApt x.hdmBase cpi (leBytes 4 x.compl)
  let v := reg s (Key.queueVector + 256 * q)
  if reg s (Key.queueIrqCount + 256 * q) ≤ x.unnotified then
    let s := setQueue s q { x with unnotified := 0 }
    if v = 0xFFFF then s else raiseMsix s v
  else s

/-- Writes the record of a descriptor into the completion ring, or discards it when the link is down or
PERST_N took the queue (R151, R394, log 61). -/
def writeRecord (s : State) (q : Nat) (w : Work) (t : Nat) : State :=
  if reg s Key.cxlLinkState ≠ 2 ∨ (queueOf s q).lost = true then bump s Key.cxlComplDropped 1
  else
    let x := queueOf s q
    let slot := x.compl % 2 ^ reg s (Key.queueSize + 256 * q)
    notify (ringWrite s x.complApt x.hdmBase (reg s (Key.queueComplBase + 256 * q) + 32 * slot) (recordOf w t)) q t

/-- A position of a queue completes (R151, R154, R155); of an earlier generation nothing but the discarded record is
left (R394, log 103). -/
def completeQ (s : State) (q n : Nat) (w : Work) (t : Nat) : State :=
  let fail := !success w.status
  if genOf n ≠ (queueOf s q).gen then (if w.cw || fail then bump s Key.cxlComplDropped 1 else s)
  else
  let p := posOf n
  let s := if w.cw || fail then writeRecord s q w t else s
  let s := if fail then setReg s (Key.queueFaultLatch + 256 * q) 1 else s
  let x := queueOf s q
  let x := advance (x.doneAt.length + 1) { x with doneAt := x.doneAt ++ [p] }
  setQueue s q { x with failed := (if fail then x.failed ++ [p] else x.failed).filter (fun k => decide (x.frontier ≤ k + 65536)) }

/-- The next slot of a queue's completion ring and its CPI word can be written now. -/
def ringReady (s : State) (q : Nat) : Bool :=
  let x := queueOf s q
  let at_ := reg s (Key.queueComplBase + 256 * q) + 32 * (x.compl % 2 ^ reg s (Key.queueSize + 256 * q))
  let cpi := reg s (Key.queueCpiAddr + 256 * q)
  decide (reg s Key.cxlLinkState ≠ 2) || x.lost ||
  (ringOpen s x.complApt x.hdmBase at_ 32 && (cpi == 0 || ringOpen s x.cpiApt x.hdmBase cpi 4))

/-! ## Strands of a batch that completes (R164) -/

/-- The launch of a key on its origin module, if this is it. -/
def launchOf (s : State) (k : LKey) : Option Launch := s.strands.launches.find? (fun l => decide (l.key = k))

/-- Changes a launch-table entry. -/
def setLaunch (s : State) (l : Launch) : State :=
  { s with strands := { s.strands with launches := s.strands.launches.map (fun x => if x.key = l.key then l else x) } }

/-- The template record at a position of a launch's chain on a die: its launch table on the origin die, else the
copy (R167). -/
def recordAt (s : State) (k : LKey) (die pos : Nat) : Option TRec :=
  match (if k.ocoord = self s ∧ k.odie = die then (launchOf s k).map (·.chain)
         else (s.strands.copies.find? (fun c => decide (c.key = k) && c.die == die)).map (·.chain)) with
  | some t => Tab.get none t pos
  | none => none

/-- The report of retired strands to an origin module: a MSG of kind STRAND whose record has STATE 0 (log 22). -/
def retireMsg (k : LKey) (n status : Nat) (acc : Acc) (spills : Nat) : List Byte :=
  leBytes 20 0 ++ leBytes 12 (k.entry % 65536 + k.odie % 4 * 2 ^ 40 + k.ocoord % 4096 * 2 ^ 42) ++
  leBytes 4 n ++ leBytes 2 status ++ leBytes 2 acc.flags.toNat ++ leBytes 4 acc.satN ++ leBytes 4 acc.fluN ++
  leBytes 4 acc.invN ++ leBytes 4 spills

/-- Ends the LAUNCH descriptor when all its strands have retired (R164). -/
def endLaunch (s : State) (k : LKey) : State :=
  match launchOf s k with
  | none => s
  | some l =>
    if l.n ≤ l.retired then
      match findWork s l.work with
      | none => s
      | some w =>
        let s := { s with strands := { s.strands with
          copies := s.strands.copies.filter (fun c => !(decide (c.key = k))),
          launches := s.strands.launches.filter (fun x => !(decide (x.key = k))) } }
        setWork s { w with phase := .done, status := l.failure.getD 0, acc := l.acc, events := stick32 l.spills }
    else s

/-- A CHAIN message (R167): launch, cluster and class, then position and 128 bytes for each record (log 32). -/
def chainMsg (l : Launch) (chain : Tab (Option TRec)) : List Byte :=
  leBytes 2 l.key.entry ++ leBytes 1 l.key.odie ++ leBytes 2 l.key.ocoord ++ leBytes 1 l.cluster ++
  leBytes 1 l.query.toNat ++ leBytes 1 chain.length ++
  chain.flatMap (fun e => match e.2 with
    | some r => leBytes 16 e.1 ++ (r.desc ++ List.replicate 64 0).take 64 ++ leBytes 1 r.countAt ++ leBytes 1 r.next ++
        leBytes 1 r.bin.toNat ++ leBytes 1 0 ++ leBytes 2 r.binCap ++ leBytes 2 r.experts ++ leBytes 8 r.stride ++
        leBytes 8 r.expMax ++ List.replicate 40 0
    | none => [])

/-- Posts a CHAIN message of a launch, in its class (R22). -/
def postChain (s : State) (l : Launch) (coord : Nat) (chain : Tab (Option TRec)) : State :=
  let body := chainMsg l chain
  postTxn s .chain none 0 0
    { ty := 0x07, dst := coord, aux := 2, len := body.length, payload := body, sdie := l.key.odie, qc := l.query }

/-- Adds retirements, flags and counts, spill batches and a failure to a launch at its origin (R164). A failure
retires every strand of the launch that is not issued, created or not, and the modules that hold strands of it are told
by a CHAIN message of no record (log 111). -/
def creditLaunch (s : State) (k : LKey) (n status : Nat) (acc : Acc) (spills : Nat) : State :=
  match launchOf s k with
  | none => s
  | some l =>
    let bad := !success status && l.failure.isNone
    let failure := if bad then some status else l.failure
    let idle (x : Strand) : Bool := decide (x.launch = k) && decide (x.state ≠ .issued) &&
      !(decide (x.state = .forward) && x.targetCoord != self s)
    let waiting := if failure.isSome then (s.strands.pool.filter idle).length else 0
    let unborn := if failure.isSome then l.n - l.nextSeq else 0
    let s := setLaunch s { l with retired := l.retired + n + waiting + unborn, failure := failure,
                                  nextSeq := if failure.isSome then l.n else l.nextSeq,
                                  acc := l.acc.join acc, spills := l.spills + spills }
    let s := if failure.isSome
      then { s with strands := { s.strands with pool := s.strands.pool.filter (fun x => !idle x) } } else s
    let s := if bad then (l.sentTo.filter (fun e => e.1 != self s)).foldl (fun s e => postChain s l e.1 []) s else s
    endLaunch (pump s) k

/-- A launch has failed on a module that is not its origin: the strands of it that are not issued here retire without
effect, and later ones will; how many there were (R164). -/
def failHere (s : State) (k : LKey) : Nat × State :=
  let idle (x : Strand) : Bool := decide (x.launch = k) && decide (x.state ≠ .issued)
  ((s.strands.pool.filter idle).length,
   { s with strands := { s.strands with
      pool := s.strands.pool.filter (fun x => !idle x)
      copies := s.strands.copies.map (fun c => if c.key = k then { c with failed := true } else c) } })

/-- Reports retirements to the origin of a launch: here, or by a message to its module; with a failure go the strands
that retire by it on this module. -/
def report (s : State) (k : LKey) (n status : Nat) (acc : Acc) (spills : Nat) : State :=
  if k.ocoord = self s then creditLaunch s k n status acc spills
  else
    let f := if success status then (0, s) else failHere s k
    let s := f.2
    let body := retireMsg k (n + f.1) status acc spills
    pump (postTxn s .strand none 0 0 { ty := 0x07, dst := k.ocoord, aux := 1, len := body.length, payload := body })

/-- A strand reaches chain position `pos` at time `t`: ready, or waiting for a bin (R165, R172); its edge type
must be below EXPERTS there (R160). -/
def enterPos (s : State) (x : Strand) (pos t : Nat) : Strand × Bool :=
  match recordAt s x.launch x.die pos with
  | some r => ({ x with pos := pos, state := if r.bin then .binned else .ready, since := t },
               !r.bin || decide (x.etype < r.experts))
  | none => ({ x with pos := pos, state := .ready, since := t }, true)

/-- Strand slots of a die's pool (R166). -/
def poolSlots : Nat := 1048576

/-- Free slots of a die's strand pool. -/
def freeSlots (s : State) (die : Nat) : Nat := poolSlots - (s.strands.pool.filter (fun x => x.die == die)).length

/-- Strands that wait for a slot on another die of the module take one, in arrival order (R31). -/
def pumpForward (t : Nat) : Nat → State → State
  | 0, s => s
  | fuel + 1, s =>
    match s.strands.pool.find? (fun x => decide (x.state = .forward) && x.targetCoord == self s &&
        decide (0 < freeSlots s x.targetDie)) with
    | none => s
    | some x =>
      let s1 := bump s (Key.dspStrandsForwarded + x.die) 1
      let y := enterPos s1 { x with die := x.targetDie } 0 t
      let s1 := { s1 with strands := { s1.strands with pool := s1.strands.pool.erase x ++ [y.1] } }
      pumpForward t fuel (if y.2 then s1 else report s1 x.launch 0 Status.template {} 0)

/-- Strands that wait for a slot look again once slots may have been freed (R31). -/
def wakeForward (s : State) : State := pumpForward s.time s.strands.pool.length s

/-- The lists of a batch are freed; an area that holds none is no object any more (log 30). -/
def freeLists (s : State) (id : Nat) : State :=
  let ls := s.strands.lists.filter (fun x => x.batch != id)
  let s := { s with strands := { s.strands with lists := ls } }
  (rangeFrom 0 4).foldl (fun s d =>
    if ls.any (fun x => x.die == d) then s
    else
      let n := Tab.get 0 s.strands.areas d
      { s with objs := if n = 0 then s.objs else Tab.set {} s.objs n {}
               strands := { s.strands with areas := Tab.set 0 s.strands.areas d 0 } }) s

/-- The strands of a completed batch move on or retire; on a module that has heard of the launch's failure they retire
(R164). -/
def retireBatch (s : State) (w : Work) (b : BatchTag) (t : Nat) : State :=
  let mine (x : Strand) : Bool := decide (x.launch = b.launch) && x.die == b.die && b.seqs.contains x.seq && decide (x.state = .issued)
  let next := match recordAt s b.launch b.die b.pos with
    | some r => r.next
    | none => 0xFF
  let gone := { s with strands := { s.strands with pool := s.strands.pool.filter (fun x => !mine x) } }
  let told := b.launch.ocoord != self s &&
    s.strands.copies.any (fun c => decide (c.key = b.launch) && c.die == b.die && c.failed)
  if !success w.status || next == 0xFF || told then report gone b.launch b.seqs.length w.status w.acc 0
  else
    let moved := s.strands.pool.map (fun x => if mine x then enterPos s x next t else (x, true))
    let s := { s with strands := { s.strands with pool := moved.map (·.1) } }
    let bad := moved.any (fun x => !x.2)
    report s b.launch 0 (if bad then Status.template else 0) w.acc 0

/-! ## The end of a descriptor -/

/-- A descriptor completes with the status it holds (R151, R154, R164, R399). -/
def completeWork (s : State) (w : Work) (t : Nat) : State :=
  let s := touch (dropRef (leaveAll (delWork (countRed (countStatus (countCycles s w) w) w) w.ref) w.ref) w)
  let s := match w.ref, w.batch with
    | .q q p, _ => completeQ s q p w t
    | .b i, some b =>
      let s := freeLists (retireBatch s w b t) i
      pumpForward t s.strands.pool.length s
    | .b _, none => s
  markReady s

/-- The status a descriptor that is due to complete completes with: decided already, or CANCELLED, or the first
failing check of its start (R149, R154, R155). -/
def dueStatus (s : State) (w : Work) : Option Nat :=
  match w.phase with
  | .done => if w.req.isSome then none else some w.status
  | .fetched =>
    if cancelled s w then some Status.cancelled
    else if startable s w ∧ headerStatus s w ≠ 0 then some (headerStatus s w)
    else none
  | _ => none

/-- The ring a completion would write can be written. -/
def canRecord (s : State) (w : Work) : Bool :=
  match w.ref with
  | .q q n => decide (genOf n ≠ (queueOf s q).gen) || ringReady s q
  | .b _ => true

/-- DESCRIPTOR_COMPLETE. -/
def execDescriptorComplete (r : WRef) (t : Nat) (s : State) : Res :=
  .next (match findWork s r with
    | none => s
    | some w => match dueStatus s w with
      | none => s
      | some st =>
        if canRecord s w then
          let s := atTime s t
          completeWork s (if w.phase = .done then w else { w with status := st, acc := {}, events := 0 }) s.time
        else s)

/-- An acknowledgement owed to a descriptor arrives with its status and events (R131, R355). -/
def ackWork (s : State) (r : WRef) (status : Nat) (acc : Acc) : State :=
  match findWork s r with
  | none => s
  | some w =>
    let st := if success w.status && !success status then status else w.status
    let w := { w with owed := w.owed - 1, acc := w.acc.join acc, status := st }
    setWork s { w with phase := if w.phase = .acks ∧ w.owed = 0 then .done else w.phase }

end Sys2Proof.Machine
end

