-- ==== Sys2Proof/Machine/VecOps.lean ====
section
/-! DEFINITION. The vector engine's shared operations (R114-R121, R133): instruction words, program validation,
executing lanes and register writes, batches, and the step of one instruction. -/

namespace Sys2Proof.Machine
open Sys2Proof

/-! ## Instruction words (R120, R121) -/

/-- The fields of an instruction word: forms V and W share OP, VD, VA and VB. -/
structure VIns where
  op : Nat
  vd : Nat
  va : Nat
  vb : Nat
  vc : Nat
  qs : Nat
  zm : Bool
  ty : Nat
  rn : Bool
  fn : Nat
  imm20 : Nat
  imm32 : Nat
  deriving DecidableEq, Repr

/-- Decodes an instruction word. -/
def VIns.of (w : Nat) : VIns :=
  { op := bits w 0 8, vd := bits w 8 6, va := bits w 14 6, vb := bits w 20 6, vc := bits w 26 6, qs := bits w 32 3,
    zm := bit w 35, ty := bits w 36 4, rn := bit w 40, fn := bits w 41 3, imm20 := bits w 44 20, imm32 := bits w 32 32 }

/-- IMM20 as a signed number. -/
def VIns.imm (i : VIns) : Int := signed 20 i.imm20

/-- The opcodes of R122. -/
def vopKnown (op : Nat) : Bool :=
  decide (op ≤ 0x0B) || (decide (0x10 ≤ op) && decide (op ≤ 0x27)) || (decide (0x30 ≤ op) && decide (op ≤ 0x34)) ||
  (decide (0x40 ≤ op) && decide (op ≤ 0x42)) || (decide (0x50 ≤ op) && decide (op ≤ 0x5B)) || op == 0x60 ||
  op == 0x61 || (decide (0x70 ≤ op) && decide (op ≤ 0x74)) || op == 0x80 || op == 0x81 ||
  (decide (0x90 ≤ op) && decide (op ≤ 0x94))

/-- The TY values of R123. -/
def vtyOk (op ty fn : Nat) : Bool :=
  let flt := ty == 8 || ty == 9 || ty == 10
  if op = 0x13 then ty == 4 || ty == 3
  else if op = 0x14 ∨ op = 0x15 ∨ op = 0x16 then decide (ty ≤ 4)
  else if (0x10 ≤ op ∧ op ≤ 0x12) ∨ (0x17 ≤ op ∧ op ≤ 0x1F) then ty == 4
  else if (0x20 ≤ op ∧ op ≤ 0x25) ∨ (0x50 ≤ op ∧ op ≤ 0x5B) then flt
  else if op = 0x30 ∨ op = 0x32 ∨ op = 0x33 then ty == 4 || ty == 3 || flt
  else if op = 0x26 ∨ op = 0x27 ∨ op = 0x34 then flt
  else if op = 0x31 then decide (ty ≤ 10)
  else if op = 0x40 ∨ op = 0x41 ∨ op = 0x80 then decide (ty ≤ 4) || flt
  else if op = 0x42 then ty == 4 || flt
  else if op = 0x60 then ty == 4 || flt || (ty == 11 && fn == 1)
  else if 0x70 ≤ op ∧ op ≤ 0x73 then decide (ty ≤ 10)
  else if op = 0x74 then ty == 4 || flt || ty == 11
  else true

/-- The FN, IMM20, quad and predicate rules of R118 for one instruction. -/
def vfieldsOk (i : VIns) (coupled : Bool) : Bool :=
  let op := i.op
  (if op = 0x80 ∨ (0x70 ≤ op ∧ op ≤ 0x73) ∨ op = 0x60 then decide (i.fn ≤ 3) else true) &&
  (if op = 0x90 ∨ op = 0x1B ∨ op = 0x1C ∨ op = 0x1D then decide (i.fn ≤ 1) else true) &&
  (if op = 0x40 then (let f := i.imm20 % 16; (decide (f ≤ 4) || f == 8 || f == 9 || f == 10) && i.imm20 / 16 == 0) else true) &&
  (if op = 0x50 then decide (i.imm20 ≤ 3) else true) &&
  (if op = 0x0B then decide (i.imm20 ≤ 2) else true) &&
  (if op = 0x41 ∨ ((op = 0x60 ∨ op = 0x74) ∧ i.ty = 11) then i.va % 4 == 0 else true) &&
  (if op = 0x42 ∨ op = 0x81 ∨ (op = 0x60 ∧ i.ty = 11) then i.vd % 4 == 0 else true) &&
  (if op = 0x30 ∨ op = 0x34 ∨ (0x91 ≤ op ∧ op ≤ 0x94) then decide (1 ≤ i.vd) && decide (i.vd ≤ 7) else true) &&
  (if op = 0x05 ∨ op = 0x06 ∨ (0x91 ≤ op ∧ op ≤ 0x93) then decide (i.va ≤ 7) else true) &&
  (if 0x91 ≤ op ∧ op ≤ 0x93 then decide (i.vb ≤ 7) else true) &&
  (if op = 0x80 ∨ op = 0x81 then coupled else true)

/-- The branch opcodes. -/
def vbranches (op : Nat) : Bool := op == 0x02 || op == 0x03 || op == 0x05 || op == 0x06

/-- The branch and END rules of R118 for the instruction at position `p`. -/
def vflowOk (i : VIns) (p plen pro : Nat) : Bool :=
  (if vbranches i.op then
    let t : Int := (p : Int) + i.imm
    if p < pro then decide (0 ≤ t) && decide (t < pro) else decide ((pro : Int) ≤ t) && decide (t < plen)
   else true) &&
  !(i.op == 0x01 && decide (p < pro))

/-- The program passes R118; a program run from a template holds no block LDI or STI (R162). -/
def vprogOk (words : List Nat) (pro : Nat) (coupled templ : Bool) : Bool :=
  (words.zipIdx).all (fun e =>
    let i := VIns.of e.1
    vopKnown i.op && vtyOk i.op i.ty i.fn && vfieldsOk i coupled && vflowOk i e.2 words.length pro &&
    !(templ && (i.op == 0x70 || i.op == 0x72) && (i.ty == 5 || i.ty == 6 || i.ty == 7)))

/-! ## Units, registers, lanes -/

/-- The vector unit of a tile. -/
def vecOf (s : State) (tile : Nat) : VecUnit := Tab.get {} s.vec tile

/-- Changes a vector unit. -/
def setVec (s : State) (tile : Nat) (u : VecUnit) : State := { s with vec := Tab.set {} s.vec tile u }

/-- The array of a tile. -/
def arrOf (s : State) (tile : Nat) : ArrUnit := Tab.get {} s.arr tile

/-- Changes an array. -/
def setArr (s : State) (tile : Nat) (a : ArrUnit) : State := { s with arr := Tab.set {} s.arr tile a }

/-- A register of 512 lanes, all zero. -/
def zeroReg : List Word := List.replicate 512 0

/-- A predicate of 512 lanes, all zero. -/
def zeroPred : List Bool := List.replicate 512 false

/-- A vector register: 512 lanes. -/
def VecUnit.reg (u : VecUnit) (r : Nat) : List Word := (Tab.get zeroReg u.regs r ++ zeroReg).take 512

/-- A predicate register: 512 lanes. -/
def VecUnit.pred (u : VecUnit) (q : Nat) : List Bool := (Tab.get zeroPred u.preds q ++ zeroPred).take 512

/-- Sets a vector register. -/
def VecUnit.setReg (u : VecUnit) (r : Nat) (v : List Word) : VecUnit := { u with regs := Tab.set zeroReg u.regs r v }

/-- Sets a predicate register. -/
def VecUnit.setPred (u : VecUnit) (q : Nat) (v : List Bool) : VecUnit := { u with preds := Tab.set zeroPred u.preds q v }

/-- A base register. -/
def VecUnit.b (u : VecUnit) (r : Nat) : DWord := Tab.get 0 u.base (r % 16)

/-- A loop counter. -/
def VecUnit.l (u : VecUnit) (r : Nat) : Word := Tab.get 0 u.loops (r % 4)

/-- What an instruction sees: unit before it, fields, position, descriptor, tile, job seed and Ephemeris
version. -/
structure VRun where
  tile : Nat
  w : Work
  u : VecUnit
  i : VIns
  pos : Nat
  seed : Nat
  eph : Nat
  coupled : Bool

/-- What an instruction leaves: the unit, its events, whether the events count in the paired matrix descriptor (R135). -/
structure VOut where
  u : VecUnit
  acc : Acc := {}
  forPair : Bool := false

/-- The executing lanes (R115): Q0, and Qs when QS is not 0. -/
def VRun.mask (x : VRun) : List Bool :=
  if x.i.qs = 0 then x.u.pred 0 else List.zipWith (· && ·) (x.u.pred 0) (x.u.pred x.i.qs)

/-- The rounding mode RN selects (R120, R124). -/
def VRun.mode (x : VRun) : RMode := if x.i.rn then .nearest else (RMode.ofBits x.w.rnd).getD .nearest

/-- The format TY names. -/
def VRun.fmt (x : VRun) : Fmt := (Fmt.ofCode x.i.ty).getD .s32

/-- The generator word of a rounding of an item (R133). -/
def VRun.word (x : VRun) (ix d : Nat) : Nat :=
  genWord x.seed x.w.step (x.w.f 44 2) ((ix * 65536 + x.pos * 16 + d) % 2 ^ 64)

/-- The word that keys stochastic rounding of element `h` of an item (R133). -/
def VRun.roundWord (x : VRun) (f : Fmt) (item h : Nat) : Nat :=
  if x.mode = .stochastic then x.word (if f = .bf16 then 2 * item + h else item) 0 else 0

/-- The open value at a place of the instruction: its batch, how many instructions the batch has issued, the place (R81,
log 150). -/
def VRun.openWord (x : VRun) (ks : List Nat) : Nat :=
  Sys2Proof.Machine.openWord x.seed x.eph x.w ([x.u.batch, x.u.issued] ++ ks)

/-- An open half word of an item's register (log 24). -/
def VRun.freeBits (x : VRun) (item : Nat) : Nat := x.openWord [0, item] % 65536

/-- The lanes with their items. -/
def VRun.items (x : VRun) : List Nat := x.u.items ++ List.replicate (512 - x.u.items.length) 0

/-- A lane's result: the word and the events of its elements; none where it does not execute. -/
abbrev LaneRes := Option (Word × List Ev)

/-- Applies `f` to the items and the words of three registers on the lanes of `m`. -/
def lanesOn : List Bool → List Nat → List Word → List Word → List Word →
    (Nat → Word → Word → Word → Word × List Ev) → List LaneRes
  | m :: ms, t :: ts, a :: as, b :: bs, c :: cs, f => (if m then some (f t a b c) else none) :: lanesOn ms ts as bs cs f
  | _, _, _, _, _, _ => []

/-- Applies `f` on the executing lanes of an instruction. -/
def VRun.lanes (x : VRun) (f : Nat → Word → Word → Word → Word × List Ev) : List LaneRes :=
  lanesOn x.mask x.items (x.u.reg x.i.va) (x.u.reg x.i.vb) (x.u.reg x.i.vc) f

/-- Merges results into a register under ZM (R116). -/
def mergeLanes (zm : Bool) : List LaneRes → List Word → List Word
  | r :: rs, o :: os => (match r with
    | some v => v.1
    | none => if zm then 0 else o) :: mergeLanes zm rs os
  | [], os => os
  | _, [] => []

/-- The flags of one lane's events. -/
def evsOr (es : List Ev) : Ev := es.foldl Ev.or {}

/-- Adds the events of the lanes to the lane flags (R114). -/
def flagLanes (rs : List LaneRes) (fs : List Ev) : List Ev :=
  List.zipWith (fun (f : Ev) (r : LaneRes) => match r with
    | some v => f.or (evsOr v.2)
    | none => f) ((fs ++ List.replicate 512 ({} : Ev)).take 512) rs

/-- A lane raised no event. -/
def quietLane (r : LaneRes) : Bool :=
  match r with
  | some v => v.2.isEmpty
  | none => true

/-- All events of the lanes. -/
def accLanes (rs : List LaneRes) : Acc :=
  rs.foldl (fun a r => match r with
    | some v => v.2.foldl Acc.add a
    | none => a) {}

/-- Writes lane results to a register with their events (R116, R125). -/
def VRun.put (x : VRun) (u : VecUnit) (r : Nat) (rs : List LaneRes) : VOut :=
  { u := { (u.setReg r (mergeLanes x.i.zm rs (u.reg r))) with
             laneFlags := if rs.all quietLane then u.laneFlags else flagLanes rs u.laneFlags }
    acc := accLanes rs }

/-- Merges predicate results under ZM (R116). -/
def mergePreds (zm : Bool) : List Bool → List Bool → List Bool → List Bool
  | m :: ms, v :: vs, o :: os => (if m then v else if zm then false else o) :: mergePreds zm ms vs os
  | _, _, os => os

/-- Writes a predicate result on the executing lanes. -/
def VRun.putPred (x : VRun) (vs : List Bool) : VOut :=
  { u := x.u.setPred x.i.vd (mergePreds x.i.zm x.mask vs (x.u.pred x.i.vd)) }

/-! ## Values in registers -/

/-- The pattern of an element held in a register: extended for the small integers (R114). -/
def regOf (f : Fmt) (b : Nat) : Word :=
  match f with
  | .s4 | .s8 => BitVec.ofInt 32 (signed f.elemBits b)
  | _ => BitVec.ofNat 32 (b % 2 ^ f.elemBits)

/-- The elements of a register: two for BF16 (R114). -/
def elems (f : Fmt) (v : Word) : List Nat :=
  if f = .bf16 then [v.toNat % 65536, v.toNat / 65536] else [v.toNat]

/-- A register from the elements `elems` gave. -/
def pack (f : Fmt) (es : List Nat) : Word :=
  match f, es with
  | .bf16, [a, b] => BitVec.ofNat 32 (a % 65536 + 65536 * b)
  | _, a :: _ => BitVec.ofNat 32 a
  | _, [] => 0

/-- A register's integer: U4 and U8 unsigned, the others signed (R114, R123). -/
def regInt (f : Fmt) (v : Word) : Int :=
  match f with
  | .u4 | .u8 => (v.toNat : Int)
  | _ => v.toInt

/-- The exact value of an element of a register. -/
def regNum (f : Fmt) (e : Nat) : Num :=
  if f.isFloat then decFloat f e else Num.ofInt (regInt f (BitVec.ofNat 32 e))

/-- Element-wise results of up to three operands: encoded element and event of each element. -/
def elemsZip (f : Fmt) (a b c : Word) (g : Nat → Nat → Nat → Nat → Nat × Ev) : Word × List Ev :=
  let as := elems f a
  let bs := elems f b
  let cs := elems f c
  let rs := (List.range as.length).map (fun h => g h (as.getD h 0) (bs.getD h 0) (cs.getD h 0))
  (pack f (rs.map (·.1)), rs.map (·.2))

/-- A result of one element in format TY: BF16 fills the low half of the register and leaves the other half open
(log 24). -/
def oneElem (f : Fmt) (hi : Nat) (b : Nat) : Word :=
  if f = .bf16 then BitVec.ofNat 32 (b % 65536 + 65536 * (hi % 65536)) else regOf f b

/-- A quad's value (R114). -/
def quadVal (a b c d : Word) : Int :=
  signed 128 (a.toNat + 2 ^ 32 * b.toNat + 2 ^ 64 * c.toNat + 2 ^ 96 * d.toNat)

/-- The values of a quad on every lane. -/
def VecUnit.quad (u : VecUnit) (r : Nat) : List Int :=
  List.zipWith (fun (p q : Word × Word) => quadVal p.1 p.2 q.1 q.2)
    (List.zip (u.reg r) (u.reg (r + 1))) (List.zip (u.reg (r + 2)) (u.reg (r + 3)))

/-- Word `k` of a 128-bit value. -/
def quadWord (v : Int) (k : Nat) : Word := BitVec.ofNat 32 (unsigned 128 v / 2 ^ (32 * k))

/-- Writes a quad on the lanes that hold a value. -/
def VRun.putQuad (x : VRun) (u : VecUnit) (r : Nat) (vs : List (Option Int)) : VecUnit :=
  (List.range 4).foldl (fun u k =>
    u.setReg (r + k) (mergeLanes x.i.zm (vs.map (fun v => v.map (fun n => (quadWord n k, [])))) (u.reg (r + k)))) u

/-! ## The fields of a matrix descriptor (R109, R134) -/

/-- M of the descriptor; the bin list gives it for opcode 0x0103 (R173). -/
def Work.mM (w : Work) : Nat := if w.op = 0x0103 then w.names.length else w.f 48 4
/-- K. -/
def Work.mK (w : Work) : Nat := w.f 52 3
/-- Operand format code. -/
def Work.mFmtCode (w : Work) : Nat := w.f 55 1 % 16
/-- Operand format. -/
def Work.mFmt (w : Work) : Fmt := (Fmt.ofCode w.mFmtCode).getD .s8
/-- Output format code. -/
def Work.mOutCode (w : Work) : Nat := w.f 55 1 / 16
/-- Output format. -/
def Work.mOut (w : Work) : Fmt := (Fmt.ofCode w.mOutCode).getD .s32
/-- N. -/
def Work.mN (w : Work) : Nat := w.f 56 4
/-- Drain mode. -/
def Work.mMode (w : Work) : Nat := bits (w.f 60 2) 0 2
/-- TRANSPOSE. -/
def Work.mTrans (w : Work) : Bool := bit (w.f 60 2) 2
/-- EXPMAX. -/
def Work.mExpMax (w : Work) : Bool := bit (w.f 60 2) 3
/-- Predictor policy. -/
def Work.mPolicy (w : Work) : Nat := bits (w.f 60 2) 4 2
/-- Column-block width C (R86). -/
def colWidth (f : Fmt) : Nat := if f.elemBits = 4 then 256 else 128
/-- Most rows of a row batch (R90, R97). -/
def batchMax (f : Fmt) : Nat := if colWidth f = 128 then 512 else 256
/-- Slices of an operand in precision mode P. -/
def sliceCount (p : Nat) : Nat := max p 1
/-- Streaming units u of R66. -/
def streamUnits (p : Nat) : Nat := if p = 2 then 3 else if p = 3 then 6 else 1
/-- Contraction indices of a chunk (R97). -/
def Work.mDepth (w : Work) : Nat := if w.op = 0x0101 then 256 else 128
/-- Operand row `i` of the operation in ACT and OUT (R173). -/
def Work.mRow (w : Work) (i : Nat) : Nat := if w.op = 0x0103 then w.names.getD i 0 else i
/-- The weight operand's handle: WGT with e × stride, which `cursor` holds, added to its offset (R173). A sum that leaves the
40 bits of an offset passes no check of R10 (`mWgtOk`). -/
def Work.mWgt (w : Work) : Nat := w.f 24 8 + w.cursor
/-- The weight operand's offset is one. -/
def Work.mWgtOk (w : Work) : Bool := decide (hOff (w.f 24 8) + w.cursor < 2 ^ 40)

/-- Natural bytes of an output row; in mode RAW in the declared format of OUT (log 28). -/
def outBytes (s : State) (w : Work) : Nat :=
  let f := if w.mMode = 2 then (objOf s (hObj (w.f 32 8))).format else w.mOut
  if f = .xa128 then 16 * w.mN else f.rowBytes w.mN

/-- Pitch of an output row (R110). -/
def outPitch (s : State) (w : Work) : Nat := pad64 (outBytes s w)

/-- The index of an output element within the OUT object, row-major over its declared shape (R106): `off` is where
the output row starts in the object. -/
def outIndex (f : Fmt) (objPitch rowlen off j : Nat) : Nat :=
  let el (n : Nat) : Nat := if f.isBlock then n / f.groupBytes * 1024 else n * 8 / f.elemBits
  (if rowlen = 0 then el off else off / objPitch * rowlen + el (off % objPitch)) + j

/-! ## Batches -/

/-- Batches of a drain-coupled descriptor and the place of batch `b` (R134): first row, first column, rows,
columns. `shape` is M, N, C. -/
def drainBatch (m n c b : Nat) : Option (Nat × Nat × Nat × Nat) :=
  let mb := if c = 128 then 512 else 256
  let per := 512 / c
  let nb := cdiv n c
  let full := m / mb
  let vt := mb / per
  let cell (rb blk sub rows : Nat) : Nat × Nat × Nat × Nat :=
    (rb * mb + sub * per, blk * c, min per (rows - sub * per), min c (n - blk * c))
  if b < full * nb * vt then some (cell (b / (nb * vt)) (b % (nb * vt) / vt) (b % vt) mb)
  else
    let ml := m % mb
    let k := b - full * nb * vt
    let pl := cdiv ml per
    if k < nb * pl then some (cell full (k / pl) (k % pl) ml) else none

/-- The index in OUT of element `j` of operation row `i` of the paired matrix descriptor (R106, R134). -/
def VecUnit.outItem (u : VecUnit) (i j : Nat) : Nat :=
  let row := if u.outRows.isEmpty then i else u.outRows.getD i 0
  outIndex ((Fmt.ofCode (u.shape.getD 4 0)).getD .s32) (u.shape.getD 6 1) (u.shape.getD 7 0)
    (u.shape.getD 8 0 + row * u.shape.getD 5 0) j

/-- The items of batch `b` and which lanes carry one (R115, R117, R134, R162); none past the last batch. -/
def batchItems (u : VecUnit) (w : Work) (b : Nat) : Option (List (Nat × Bool)) :=
  if w.op = 0x0201 then
    let c := u.shape.getD 2 128
    let n := u.shape.getD 1 1
    (drainBatch (u.shape.getD 0 1) n c b).map (fun g => (List.range 512).map (fun l =>
      (u.outItem (g.1 + l / c) (g.2.1 + l % c), decide (l / c < g.2.2.1) && decide (l % c < g.2.2.2))))
  else match w.batch with
    | some t =>
      if b = 0 then some ((t.seqs.map (fun q => (q, true))) ++ List.replicate (512 - t.seqs.length) (0, false)) else none
    | none =>
      let n := w.f 32 4
      if b * 512 < n then some ((rangeFrom (b * 512) 512).map (fun i => (i, decide (i < n)))) else none

/-- The unit at the start of batch `b` (R115, R117, R119): lane flags clear, position at the body. -/
def beginBatch (u : VecUnit) (w : Work) (b : Nat) (its : List (Nat × Bool)) : VecUnit :=
  { (u.setPred 0 (its.map (·.2))) with
    items := its.map (·.1), batch := b, pos := if b = 0 then 0 else w.f 38 2, issued := 0, laneFlags := [], drained := false }

/-- A unit whose descriptor has ended: it keeps the program it holds (R118). -/
def VecUnit.freed (u : VecUnit) : VecUnit := { prog := u.prog, progStamp := u.progStamp, words := u.words }

/-- An array whose descriptor has ended: its weight banks keep what was loaded. -/
def ArrUnit.freed (a : ArrUnit) : ArrUnit := { fore := a.fore, shadow := a.shadow, tag := a.tag }

/-- Ends the paired matrix descriptor with a status (R135). -/
def endPair (s : State) (tile : Nat) (u : VecUnit) (status : Nat) : State :=
  match u.pair with
  | none => s
  | some r => match findWork s r with
    | some m =>
      if m.phase = .running then
        setArr (setWork s { m with phase := if m.owed = 0 then .done else .acks, status := status }) tile (arrOf s tile).freed
      else s
    | none => s

/-- The status of a descriptor that ends with `code`: an earlier failure of an acknowledged addend stands (R132). -/
def Work.closing (w : Work) (code : Nat) : Nat := if success code && !success w.status then w.status else code

/-- Ends the vector descriptor of a unit with a status. -/
def endVec (s : State) (tile : Nat) (status : Nat) : State :=
  let u := vecOf s tile
  let s := setVec s tile u.freed
  let s := if u.pair.isSome then setArr s tile { arrOf s tile with queue := [] } else s
  match u.work with
  | none => s
  | some r => match findWork s r with
    | some w => setWork s { w with phase := if w.owed = 0 then .done else .acks, status := w.closing status }
    | none => s

/-- A descriptor of a unit stops with a fault; its pair completes with FAULT_DRAIN or CANCELLED (R135). -/
def faultVec (s : State) (tile : Nat) (status : Nat) : State :=
  let u := vecOf s tile
  let s := if u.pair.isSome
    then endPair s tile u (if status = Status.drain then Status.drain else Status.cancelled) else s
  endVec s tile status

/-- Rows a batch of the drain takes. -/
def batchRows (u : VecUnit) : Nat :=
  match drainBatch (u.shape.getD 0 1) (u.shape.getD 1 1) (u.shape.getD 2 128) u.batch with
  | some g => g.2.2.1
  | none => 0

/-- Completion of a matrix descriptor in mode RAW waits for its last row (R106). -/
def releaseRows (s : State) (tile : Nat) (u : VecUnit) : State :=
  let a := arrOf s tile
  let a := { a with queue := a.queue.drop (batchRows u) }
  let s := setArr s tile a
  match u.pair with
  | none => s
  | some r => match findWork s r with
    | some m =>
      let rows := u.shape.getD 0 1 * cdiv (u.shape.getD 1 1) (u.shape.getD 2 128)
      if m.phase = .running ∧ m.f 60 1 % 4 = 2 ∧ a.queue.isEmpty = true ∧ a.work = some r ∧ rows ≤ a.rows then
        setArr (setWork s { m with phase := .done }) tile a.freed
      else s
    | none => s

/-- The end of a batch (R117, R134, R135); EVENTS counts the batches that end here, not one that a fault, a timeout or
FAULT_DRAIN stopped (log 131). -/
def endBatch (s : State) (tile : Nat) : State :=
  let u := vecOf s tile
  match u.work with
  | none => s
  | some r => match findWork s r with
    | none => s
    | some w =>
      if u.pair.isSome ∧ u.drained = false then faultVec s tile Status.drain
      else
        let s := setWork s { w with events := stick32 (w.events + 1) }
        let s := if u.pair.isSome then releaseRows s tile u else s
        if u.cancel then endVec s tile Status.cancelled
        else match batchItems u w (u.batch + 1) with
          | some its => setVec s tile (beginBatch u w (u.batch + 1) its)
          | none => endVec s tile Status.ok

/-! ## One instruction -/

/-- The limit of a batch (R119): the descriptor's, or the default its unit started under (R429). -/
def limitOf (u : VecUnit) (w : Work) : Nat := if w.f 48 4 = 0 then u.limit else w.f 48 4

/-- The descriptor and the next instruction of a unit that can issue one. -/
def nextIns (s : State) (tile : Nat) : Option (Work × VIns) :=
  let u := vecOf s tile
  match u.work with
  | none => none
  | some r => match findWork s r with
    | none => none
    | some w =>
      if w.phase = .running ∧ computing s = true ∧ u.pos < u.words.length then some (w, VIns.of (u.words.getD u.pos 0)) else none

/-- Adds events to the descriptor of a name. -/
def addAcc (s : State) (r : WRef) (a : Acc) : State :=
  match findWork s r with
  | some w => setWork s { w with acc := w.acc.join a }
  | none => s

/-- The state after an instruction: unit, events, the position after it, the end of the program (R117). The prologue runs
on the lanes of batch 0, and the lane flags it raised are cleared where the body begins (log 126). -/
def retire (s : State) (tile : Nat) (w : Work) (u0 : VecUnit) (o : VOut) : State :=
  let u := { o.u with issued := o.u.issued + 1 }
  let u := if u0.pos < w.f 38 2 ∧ w.f 38 2 ≤ u.pos then { u with laneFlags := [] } else u
  let s := bump (setVec s tile u) (Key.vecIssueCycles + tile) 1
  let target := match o.forPair, u.pair with
    | true, some r => if (findWork s r).isSome then r else w.ref
    | _, _ => w.ref
  let s := addAcc s target o.acc
  if u.words.length ≤ u.pos then endBatch s tile else s

/-- What an instruction sees when the unit of a tile issues it. -/
def vecRun (s : State) (tile : Nat) (w : Work) (i : VIns) : VRun :=
  let u := vecOf s tile
  { tile := tile, w := w, u := { u with pos := u.pos + 1 }, i := i, pos := u.pos, seed := reg s Key.genSeed,
    eph := reg s Key.ephPin, coupled := w.op == 0x0201 }

/-- The state an instruction's run leaves: a fault leaves the earlier instructions standing and takes no effect
itself but the cycle it was issued in (R131, R141); one that must wait is issued again later, in its turn where it is held
in a line (R323). -/
def vecSettle (s : State) (tile : Nat) (w : Work) (r : Except Stop VOut) (c : Ectx) : State :=
  match r with
  | .ok o =>
    let s' := if c.w.vers = w.vers then c.s else setWork c.s { w with vers := c.w.vers }
    let w' : Work := { w with vers := c.w.vers }
    retire (if c.owed = 0 then s' else pump (setWork s' { w' with owed := w.owed + c.owed })) tile w' (vecOf s tile) o
  | .error (.status code) => faultVec (bump s (Key.vecIssueCycles + tile) 1) tile code
  | .error (.line k) => joinLine (leaveLines s w.ref c.passed) k w.ref
  | .error _ => s

/-- One instruction of the unit of a tile, when the next instruction is of opcode `op` (R116, R119, R131). -/
def vecStep (op : Nat) (body : VRun → Eng VOut) (tile : Nat) (s : State) : State :=
  match nextIns s tile with
  | none => s
  | some (w, i) =>
    if i.op ≠ op ∨ limitOf (vecOf s tile) w ≤ (vecOf s tile).issued then s
    else
      let r := ((body (vecRun s tile w i)).run).run { s := s, w := w, die := w.die }
      vecSettle s tile w r.1 r.2

/-- An instruction that touches neither memory nor the drain. -/
def vecPure (op : Nat) (f : VRun → VOut) (tile : Nat) (s : State) : State :=
  vecStep op (fun x => pure (f x)) tile s

end Sys2Proof.Machine
end

