-- ==== Sys2Proof/Machine/MatOps.lean ====
section
/-! DEFINITION. Operands of a contraction (R34-R38, R62-R71, R93, R100-R104): blocks of 32 contraction indices
with their slices, the layouts they are read from, block magnitude exponents, windows and entries. -/

namespace Sys2Proof.Machine
open Sys2Proof

/-! ## Operand blocks -/

/-- A block of 32 elements: per slice the exponent E − 127 (less 7 per level) and the 32 mantissas; the events of
reading it (R36, R62-R64). -/
structure OBlk where
  slices : List (Int × List Int)
  acc : Acc := {}
  deriving DecidableEq, Repr

/-- A slice block with a non-zero mantissa (R67). -/
def liveSlice (s : Int × List Int) : Bool := s.2.any (· != 0)

/-- A block of a format with its own exponent: zero at E = 0, invalid at E = 255 (R36, R64). -/
def blockOf (e : Nat) (ms : List Int) : OBlk :=
  if e = 255 then { slices := [(0, List.replicate 32 0)], acc := (List.replicate 32 ({ inv := true } : Ev)).foldl Acc.add {} }
  else if e = 0 then { slices := [(0, List.replicate 32 0)] }
  else { slices := [((e : Int) - 127, ms)] }

/-- Pads to 32 elements. -/
def pad32 {α : Type} (z : α) (xs : List α) : List α := (xs ++ List.replicate 32 z).take 32

/-- A block of scalar elements: integers enter as they are, floating values through the slicer (R62, R63). -/
def scalarBlk (f : Fmt) (p : Nat) (raws : List Nat) : OBlk :=
  if f.isFloat then
    let s := sliceBlock p (pad32 (.fin false 0 0) (raws.map (decFloat f)))
    { slices := (List.range p).map (fun (k : Nat) =>
        ((s.1 : Int) - 127 - 7 * (k : Int), s.2.1.map (fun d => if s.1 = 0 then 0 else d.getD k 0))), acc := s.2.2 }
  else { slices := [(0, pad32 0 (raws.map (mantissa f)))] }

/-- Elements packed in bytes. -/
def unpackElems (f : Fmt) (bs : List Byte) (first n : Nat) : List Nat :=
  (List.range n).map (fun i =>
    if f.elemBits = 4 then bits (field bs ((first + i) / 2) 1) (4 * ((first + i) % 2)) 4
    else field bs ((first + i) * (f.elemBits / 8)) (f.elemBits / 8))

/-- Reads elements `lo .. lo + n - 1` of a scalar row that starts at handle `h`. -/
def readElems (h : Nat) (f : Fmt) (lo n : Nat) : Eng (List Nat) := do
  if n = 0 then pure []
  else
    let first := lo * f.elemBits / 8
    let last := ((lo + n) * f.elemBits + 7) / 8
    let bs ← rdH (h + first) (last - first)
    pure (unpackElems f bs (lo - first * 8 / f.elemBits) n)

/-- The mantissas of a block-format block. -/
def readMants (h : Nat) (f : Fmt) (n : Nat) : Eng (List Int) := do
  let bs ← rdH h (n * f.elemBits / 8)
  pure ((unpackElems f bs 0 n).map (mantissa f))

/-- Block `b` of a row of `len` elements at handle `h` (R37, R63). -/
def lineBlk (h : Nat) (f : Fmt) (p len b : Nat) : Eng OBlk := do
  if f.isBlock then
    let g := h + b / 32 * f.groupBytes
    let e ← rdNat (g + b % 32) 1
    let ms ← readMants (g + 32 + b % 32 * (4 * f.elemBits)) f 32
    pure (blockOf e ((ms.take (len - 32 * b)) ++ List.replicate (32 - (len - 32 * b)) 0))
  else
    let rs ← readElems h f (32 * b) (min 32 (len - 32 * b))
    pure (scalarBlk f p rs)

/-- Natural size of a dense operand row (R110). -/
def denseBytes (f : Fmt) (n : Nat) : Nat := f.rowBytes n

/-- Bytes of the value part of a 2:4 row of `n` logical elements (R101). -/
def sparseValues (f : Fmt) (n : Nat) : Nat :=
  if f.isBlock then cdiv (cdiv n 32) 32 * (32 + 32 * (2 * f.elemBits)) else cdiv (n / 2 * f.elemBits) 8

/-- Bytes of a 2:4 row: values, then metadata, each padded to 64 (R101). -/
def sparseBytes (f : Fmt) (n : Nat) : Nat := pad64 (sparseValues f n) + pad64 (cdiv (cdiv n 4) 2)

/-- The metadata entry of group `g` of the 2:4 row at `h`. -/
def sparseMeta (h : Nat) (f : Fmt) (n g : Nat) : Eng Nat := do
  let v ← rdNat (h + pad64 (sparseValues f n) + g / 2) 1
  pure (bits v (4 * (g % 2)) 4)

/-- Spreads two kept values over the four positions of a group (R101). -/
def spread {α : Type} (z : α) (m : Nat) (a b : α) : List α :=
  (List.range 4).map (fun p => if p = m % 4 then a else if p = m / 4 then b else z)

/-- Spreads the kept values of eight groups over 32 positions. -/
def spreadAll {α : Type} (z : α) : List Nat → List α → List α
  | m :: ms, a :: b :: vs => spread z m a b ++ spreadAll z ms vs
  | _, _ => []

/-- Block `b` of a 2:4 row of `len` logical elements (R100, R101). -/
def sparseBlk (h : Nat) (f : Fmt) (p len b : Nat) : Eng OBlk := do
  let ng := min 8 (len / 4 - 8 * b)
  let ms ← mapDo (fun g => sparseMeta h f len (8 * b + g)) (List.range ng)
  if f.isBlock then
    let gsz := 32 + 32 * (2 * f.elemBits)
    let g := h + b / 32 * gsz
    let e ← rdNat (g + b % 32) 1
    let vs ← readMants (g + 32 + b % 32 * (2 * f.elemBits)) f 16
    pure (blockOf e (pad32 0 (spreadAll 0 ms vs)))
  else
    let rs ← readElems h f (16 * b) (2 * ng)
    pure (scalarBlk f p (spreadAll 0 ms rs))

/-- Element `j` of the 2:4 row at `h` of `len` logical elements, 0 where it is pruned (R103). -/
def sparseElem (h : Nat) (f : Fmt) (len j : Nat) : Eng Nat := do
  let m ← sparseMeta h f len (j / 4)
  if j % 4 = m % 4 then return (← readElems h f (2 * (j / 4)) 1).headD 0
  else if j % 4 = m / 4 then return (← readElems h f (2 * (j / 4) + 1) 1).headD 0
  else return 0

/-- Block `b` of weight column `j` (R101, R103, R109). -/
def wgtBlk (w : Work) (j b : Nat) : Eng OBlk := do
  let f := w.mFmt
  let k := w.mK
  let n := w.mN
  if w.mTrans then
    let rows := rangeFrom (32 * b) (min 32 (k - 32 * b))
    if w.op = 0x0101 then
      let rs ← mapDo (fun r => sparseElem (w.mWgt + r * sparseBytes f n) f n j) rows
      pure (scalarBlk f w.prec rs)
    else
      let rs ← mapDo (fun r => do return (← readElems (w.mWgt + r * pad64 (denseBytes f n)) f j 1).headD 0) rows
      pure (scalarBlk f w.prec rs)
  else if w.op = 0x0101 then sparseBlk (w.mWgt + j * sparseBytes f k) f w.prec k b
  else lineBlk (w.mWgt + j * pad64 (denseBytes f k)) f w.prec k b

/-- Elements of an activation row: K, or N in element-wise mode (R104). -/
def Work.mLine (w : Work) : Nat := if w.op = 0x0102 then w.mN else w.mK

/-- Block `b` of operation row `i` of the activation operand. -/
def actBlk (w : Work) (i b : Nat) : Eng OBlk :=
  lineBlk (w.f 16 8 + w.mRow i * pad64 (denseBytes w.mFmt w.mLine)) w.mFmt w.prec w.mLine b

/-- Stored rows of the weight operand and bytes of each. -/
def wgtRows (w : Work) : Nat × Nat :=
  let f := w.mFmt
  if w.op = 0x0102 then (w.mM, pad64 (denseBytes f w.mN))
  else
    let n := if w.mTrans then w.mK else w.mN
    let l := if w.mTrans then w.mN else w.mK
    (n, if w.op = 0x0101 then sparseBytes f l else pad64 (denseBytes f l))

/-! ## Magnitudes, windows, entries -/

/-- The g of slice `k` of a block (R67). -/
def sliceG (f : Fmt) (k : Nat) (s : Int × List Int) : Int := s.1 + magBits f k

/-- The g of a non-zero block: that of its first slice with a non-zero mantissa as the largest of them, so that a block whose
high slice is all zero takes that of a later slice (R67; log 125). -/
def OBlk.g (f : Fmt) (o : OBlk) : Option Int :=
  (o.slices.zipIdx).foldl (fun m e => if liveSlice e.1 then
    (match m with
      | none => some (sliceG f e.2 e.1)
      | some v => some (max v (sliceG f e.2 e.1))) else m) none

/-- The larger of two maxima. -/
def maxOpt : Option Int → Option Int → Option Int
  | none, b => b
  | a, none => a
  | some a, some b => some (max a b)

/-- The maxima of an integer operand are constant (R92). -/
def constMax (f : Fmt) : Bool := f.isInt

/-- The window of an output from its two maxima (R67, R90). -/
def windowOf (f : Fmt) (a w : Option Int) : Int := a.getD (magBits f 0) + w.getD (magBits f 0) + 37

/-- Entry of one block pair product with exponent sum `e` into window `T` (R68). -/
def pairEntry (T e sum : Int) : Int × Ev :=
  let k := e - T + 127
  let q := roundScaled .nearest 0 sum k
  (q, { flu := decide (q = 0 ∧ sum ≠ 0), inx := !scaledExact sum k })

/-- The sum of the products of two lists of mantissas. -/
def dotInt : List Int → List Int → Int
  | a :: as, b :: bs => a * b + dotInt as bs
  | _, _ => 0

/-- The entries of one activation block against exponent and digits of weight slice `sw`: activation slices of level at
most P (R66). -/
def blockEntries (p : Nat) (T : Int) (a : OBlk) (ws : Int × List Int) (sw : Nat) : Int × Acc :=
  (a.slices.take (sliceCount p - sw)).foldl (fun st s =>
    let e := pairEntry T (s.1 + ws.1) (dotInt s.2 ws.2)
    (st.1 + e.1, st.2.add e.2)) (0, {})

end Sys2Proof.Machine
end

