-- ==== Sys2Proof/Machine/Queue.lean ====
section
/-! DEFINITION. Work queues (R142-R145, R184, R399, R400, R534): fetching, enabling, disabling, aborting, the
notice timer; the descriptors the dispatcher executes itself, NOP and WAIT_QUEUE (R156). -/

namespace Sys2Proof.Machine
open Sys2Proof

/-- QUEUE_ENABLE is 1. -/
def enabled (s : State) (q : Nat) : Bool := decide (reg s (Key.queueEnable + 256 * q) = 1)

/-- 2^SIZE. -/
def ringSlots (s : State) (q : Nat) : Nat := 2 ^ reg s (Key.queueSize + 256 * q)

/-- A descriptor the queue has fetched since its enabling is not complete. -/
def inFlight (s : State) (q : Nat) : Bool := s.work.any (fun w => match w.ref with
  | .q k n => k == q && genOf n == (queueOf s q).gen
  | .b _ => false)

/-- The queue is draining (R534); one that PERST_N took is not, for R394 applies to it instead. -/
def draining (s : State) (q : Nat) : Bool := !enabled s q && inFlight s q && !(queueOf s q).lost

/-- Firmware runs and no activation or halt holds the queues (R3, R443, R464-R467). -/
def fwRuns (s : State) : Bool :=
  match reg s Key.bootState with
  | 1 | 2 => s.boot.before == 4
  | 4 | 5 => true
  | _ => false

/-- The queue may fetch its next position (R143, R415, R466, R467, R490). -/
def mayFetch (s : State) (q : Nat) : Bool :=
  let x := queueOf s q
  enabled s q && !x.stopped && computing s && fwRuns s && decide (x.next < x.prod) && decide (x.next < x.cons + ringSlots s q) &&
  ringOpen s x.ringApt x.hdmBase (reg s (Key.queueBase + 256 * q) + 64 * (x.next % ringSlots s q)) 64

/-- DESCRIPTOR_FETCH: the next position of the queue (R143); a poisoned slot fails its descriptor (R405, log 23). -/
def execDescriptorFetch (q t : Nat) (s : State) : Res :=
  .next (if q < 64 ∧ mayFetch s q = true then
    let s := atTime s t
    let x := queueOf s q
    let at_ := reg s (Key.queueBase + 256 * q) + 64 * (x.next % ringSlots s q)
    let w : Work := match ringRead s x.ringApt x.hdmBase at_ 64 with
      | some d => { ref := .q q (posName x x.next), desc := d }
      | none => { ref := .q q (posName x x.next), desc := List.replicate 64 0, phase := .done, status := Status.poison }
    let s := ringSeen s x.ringApt x.hdmBase at_ 64
    markReady { (setQueue s q { x with next := x.next + 1 }) with work := s.work ++ [w] }
  else s)

/-- QUEUE_IRQ_TIMER: the time limit of the notice (R399). -/
def execQueueIrqTimer (q t : Nat) (s : State) : Res :=
  let x := queueOf s q
  let us := reg s (Key.queueIrqUs + 256 * q)
  .next (if q < 64 ∧ us ≠ 0 ∧ 0 < x.unnotified ∧ x.firstAt + 1000 * us ≤ max s.time t then
    let s := setQueue (atTime s t) q { x with unnotified := 0 }
    let v := reg s (Key.queueVector + 256 * q)
    if v = 0xFFFF then s else raiseMsix s v
  else s)

/-! ## Enabling and disabling -/

/-- Where a range of host physical addresses lies: outside the committed range, wholly within one bound aperture,
or neither (R400). -/
def rangePlace (s : State) (a n : Nat) : Option Bool :=
  match s.cxl.hdm with
  | none => some false
  | some (b, z) =>
    if a + n ≤ b ∨ b + z ≤ a then some false
    else if b ≤ a ∧ a + n ≤ b + z then
      let k := (a - b) / 2 ^ 32
      let x := Tab.get {} s.cxl.apts k
      if x.state = .bound ∧ (a - b) % 2 ^ 32 + n ≤ x.len then some true else none
    else none

/-- The ranges of a queue: descriptor ring, completion ring, CPI word (empty when there is none). -/
def queueRanges (s : State) (q : Nat) : List (Nat × Nat) :=
  let cpi := reg s (Key.queueCpiAddr + 256 * q)
  [(reg s (Key.queueBase + 256 * q), 64 * ringSlots s q), (reg s (Key.queueComplBase + 256 * q), 32 * ringSlots s q)] ++
  (if cpi = 0 then [] else [(cpi, 4)])

/-- A write of 1 to QUEUE_ENABLE (R400, R407); none is refused with IN_USE. Records of the time before that no message has
announced are forgotten with the indices (R184, log 148). -/
def enableQueue (s : State) (q : Nat) : Option State :=
  if enabled s q then some s
  else if draining s q || decide (reg s Key.cxlLinkState ≠ 2) || !hostLinkUp s then none
  else
    match (queueRanges s q).map (fun r => rangePlace s r.1 r.2) with
    | some a :: some b :: rest =>
      if rest.contains none then none
      else
        let gen := (queueOf s q).gen + (inFlight s q).toNat
        let s := setQueue s q {
          gen := gen, ringApt := a, complApt := b, cpiApt := (rest.head?.getD none).getD false,
          hdmBase := reg s Key.cxlHdmBase }
        some (setReg s (Key.queueEnable + 256 * q) 1)
    | _ => none

/-- A write of 0 to QUEUE_ENABLE (R534). -/
def disableQueue (s : State) (q : Nat) : State := setReg s (Key.queueEnable + 256 * q) 0

/-- QUEUE_ABORT: fetched, unstarted descriptors complete CANCELLED and fetching stops (R184); a LAUNCH that waits
for a table entry and a REDUCE that waits for a context count as unstarted (log 148). -/
def abortQueue (s : State) (q : Nat) : State :=
  let mine := s.work.filter (fun w => decide (w.phase = .fetched) && (match w.ref with
    | .q k _ => k == q
    | .b _ => false))
  let s := setQueue s q { queueOf s q with stopped := true }
  mine.foldl (fun s w =>
    let w := { w with status := Status.cancelled }
    if canRecord s w then completeWork s w s.time else setWork s { w with phase := .done }) s

/-! ## The dispatcher's own descriptors -/

/-- Starts a descriptor the dispatcher executes itself: its checks of R149 pass. -/
def runControl (op : Nat) (body : Work → State → State) (r : WRef) (s : State) : State :=
  match findWork s r with
  | none => s
  | some w =>
    if w.op = op ∧ w.phase = .fetched ∧ computing s = true ∧ startable s w = true ∧ cancelled s w = false then
      let st := headerStatus s w
      if st ≠ 0 then setWork s { w with phase := .done, status := st } else body w s
    else s

/-- A descriptor's result is decided. -/
def decide_ (s : State) (w : Work) (status : Nat) : State := setWork s { w with phase := .done, status := status }

/-- NOP completes OK when it starts (R156). -/
def execNop (r : WRef) (s : State) : Res := .next (runControl 0x0900 (fun w s => decide_ s w Status.ok) r s)

/-- WAIT_QUEUE: starts, or looks again whether the frontier of queue Q has reached F (R156). -/
def execWaitQueue (r : WRef) (t : Nat) (s : State) : Res :=
  let look (w : Work) (s : State) : State :=
    if 63 < w.f 16 2 then decide_ s w Status.shape
    else if w.f 24 8 ≤ (queueOf s (w.f 16 2)).frontier then decide_ s w Status.ok
    else setWork s { w with phase := .running }
  .next (match findWork s r with
    | none => s
    | some w =>
      if w.op = 0x0901 ∧ w.phase = .running then look w (atTime s t)
      else runControl 0x0901 (fun w s => look { w with began := s.time } s) r (atTime s t))

/-- WAIT_QUEUE_TIMEOUT: W microseconds have passed since the wait began (R156). -/
def execWaitQueueTimeout (r : WRef) (t : Nat) (s : State) : Res :=
  .next (match findWork s r with
    | none => s
    | some w =>
      if w.op = 0x0901 ∧ w.phase = .running ∧ w.f 32 4 ≠ 0 ∧ w.began + 1000 * w.f 32 4 ≤ t ∧
          (queueOf s (w.f 16 2)).frontier < w.f 24 8 then
        decide_ (atTime s t) w Status.timeout
      else s)

end Sys2Proof.Machine
end

