-- ==== Sys2Proof/Machine/Predict.lean ====
section
/-! DEFINITION. The activity predictor (R174-R183): binding, L1 words, proposals, confirmation, gates. -/

namespace Sys2Proof.Machine
open Sys2Proof

/-! ## L1 words (R177) -/

/-- The L1 word of an exact positive bound `a × 2^q`; a value no E of 8 bits fits is left open (logs 27, 150). -/
def l1Word (free a : Nat) (q : Int) : Nat :=
  if a = 0 then 0
  else
    let k := (Nat.log2 a : Int) + q
    let d := q - (k - 7)
    let m : Nat := if 0 ≤ d then a * 2 ^ d.toNat else cdiv a (2 ^ (-d).toNat)
    let e := k - 7 + 127 + (if m = 256 then 1 else 0)
    if 1 ≤ e ∧ e ≤ 255 then (if m = 256 then 128 else m) + 256 * e.toNat else free % 65536

/-- The exact sum of |d| × 2^(e) over the slices of a block, scaled by its least exponent. -/
def absBound (o : OBlk) : Nat × Int :=
  let low := (o.slices.map (·.1)).foldl min 0
  ((o.slices.map (fun s => (s.2.map Int.natAbs).sum * 2 ^ (s.1 - low).toNat)).sum, low)

/-- The value of an L1 word. -/
def l1Num (word : Nat) : Num :=
  if word / 256 = 0 then .fin false 0 0 else .fin false (word % 256) ((word / 256 : Nat) - 127)

/-- A matrix descriptor with the weight fields of a binding. -/
def bindWork (b : Bind) : Work :=
  { ref := .b 0
    desc := leBytes 2 (if bit b.mode 3 then 0x0101 else 0x0100) ++ leBytes 2 (b.mode % 4 * 16) ++ List.replicate 20 0 ++
      leBytes 8 b.wgt ++ List.replicate 16 0 ++ leBytes 4 1 ++ leBytes 3 b.k ++ leBytes 1 b.fmt ++ leBytes 4 b.n ++
      leBytes 2 (if bit b.mode 2 then 4 else 0) ++ leBytes 2 0 }

/-- Blocks of 32 along the contraction. -/
def blocksOf (k : Nat) : Nat := cdiv k 32

/-- Computes and stores the L1 words of a binding (R177): column after column, blocks in order. -/
def fillL1 (b : Bind) : Eng Unit := do
  let nb := blocksOf b.k
  eachDo (fun j => eachDo (fun k => do
    let o ← wgtBlk (bindWork b) j k
    let v := absBound o
    let w := l1Word (← openAt [j, k]) v.1 v.2
    wrH (b.l1 + 2 * (j * nb + k)) (leBytes 2 w)) (List.range nb)) (List.range b.n)

/-- The binding a PRD_BIND descriptor gives (R176). -/
def bindOf (w : Work) : Bind :=
  { wgt := w.f 16 8, table := w.f 24 8, l1 := w.f 32 8, k := w.f 40 4, n := w.f 44 4, fmt := w.f 48 1 % 16,
    mode := w.f 49 1 % 16, rank := w.f 50 1, shift := w.f 51 1, gate := w.f 52 1, used := true }

/-- Offsets of the four parts of a predictor table: U, V, PTH, TAU, and its size (R176). -/
def tableParts (b : Bind) : Nat × Nat × Nat × Nat :=
  let v := pad64 (b.k * b.rank)
  let p := v + pad64 (b.rank * b.n)
  let t := p + pad64 (4 * b.n)
  (v, p, t, t + 4 * b.n)

/-- The body of PRD_BIND (R176, R177). -/
def prdBindBody : Eng Unit := do
  let c ← get
  let b := bindOf c.w
  let f := Fmt.ofCode b.fmt
  require (decide (1 ≤ b.k) && decide (b.k ≤ 16777215) && decide (1 ≤ b.n) && decide (b.n ≤ 65536) &&
    (b.rank == 8 || b.rank == 16 || b.rank == 32) && decide (b.shift ≤ 63) && decide (b.gate ≤ 1) &&
    decide (c.w.f 53 1 ≤ 63)) Status.shape
  let ok := match f with
    | some x => decide (x ≠ .s32) && decide (x ≠ .xa128) && (x.isFloat == decide (b.mode % 4 ≠ 0)) && !(bit b.mode 2 && x.isBlock)
    | none => false
  require ok Status.format
  let z := wgtRows (bindWork b)
  require (handleOk c.w c.s b.wgt (z.1 * z.2) && handleOk c.w c.s b.table (tableParts b).2.2.2 &&
    handleOk c.w c.s b.l1 (b.n * blocksOf b.k * 2)) Status.handle
  fillL1 b
  modS (fun s => { s with binds := Tab.set {} s.binds (c.w.f 53 1) { b with stamp := (objOf s (hObj b.wgt)).stamp } })

/-- PRD_BIND. -/
def execPrdBind (r : WRef) (s : State) : Res := .next (runEngine 0x0930 prdBindBody r s)

/-- PRD_UNBIND (R156). -/
def execPrdUnbind (r : WRef) (s : State) : Res :=
  .next (runControl 0x0931 (fun w s =>
    if 63 < w.f 16 1 then decide_ s w Status.shape
    else decide_ { s with binds := Tab.set {} s.binds (w.f 16 1) {} } w Status.ok) r s)

/-- The bind slot a matrix descriptor uses (R178). -/
def bindFor (s : State) (w : Work) : Option (Nat × Bind) :=
  let mode := w.prec + (if w.mTrans then 4 else 0) + (if w.op = 0x0101 then 8 else 0)
  ((List.range 64).map (fun k => (k, Tab.get {} s.binds k))).find? (fun e =>
    e.2.used && e.2.wgt == w.f 24 8 && e.2.k == w.mK && e.2.n == w.mN && e.2.fmt == w.mFmtCode && e.2.mode == mode)

/-! ## Proposals and confirmation (R179, R180) -/

/-- S8 values of bytes. -/
def s8s (bs : List Byte) : List Int := bs.map (fun b => signed 8 b.toNat)

/-- h of one row: the first slice of each block, in order (R179). -/
def hOf (bs : List OBlk) : List Int := bs.flatMap (fun o => (o.slices.headD (0, [])).2)

/-- z8 of one row (R179). -/
def z8Of (b : Bind) (u : List (List Int)) (h : List Int) : List Int :=
  let z := (List.zip h u).foldl (fun acc e => List.zipWith (fun a x => a + e.1 * x) acc e.2) (List.replicate b.rank 0)
  z.map (fun v => min (max (v / (2 ^ b.shift : Nat)) (-128)) 127)

/-- The bound of R180 for one row and column. -/
def boundOf (f : Fmt) (p k : Nat) (T : Int) (acts : List OBlk) (l1 : List Nat) : Num :=
  let c : Int := if f.isFloat then 1 else 0
  let term (e : OBlk × Nat) : Num :=
    if e.1.slices.any liveSlice then
      (Num.mul (.fin false 1 (sliceG f 0 (e.1.slices.headD (0, [])) + c)) (l1Num e.2)).1
    else .fin false 0 0
  ((List.zip acts l1).map term).foldl (fun a x => (Num.add a x).1)
    (.fin false (blocksOf k * streamUnits p) (T - 128))

/-- The proposed and the confirmed columns of a row batch (R179, R180): activation blocks and maxima by row. -/
def predictBatch (b : Bind) (f : Fmt) (p : Nat) (rows : List (List OBlk × Option Int)) (wmax : List (Option Int)) :
    Eng (List Nat × List Nat) := do
  let t := tableParts b
  let u ← mapDo (fun k => do return s8s (← rdH (b.table + k * b.rank) b.rank)) (List.range b.k)
  let v ← mapDo (fun l => do return s8s (← rdH (b.table + t.1 + l * b.n) b.n)) (List.range b.rank)
  let z := rows.map (fun r => z8Of b u (hOf r.1))
  let nb := blocksOf b.k
  let cols ← mapDo (fun j => do
    let pth ← rdNat (b.table + t.2.1 + 4 * j) 4
    let prop := z.all (fun zr => decide (((List.zip zr v).map (fun e => e.1 * e.2.getD j 0)).sum < signed 32 pth))
    if prop then
      let tau ← rdNat (b.table + t.2.2.1 + 4 * j) 4
      let l1 ← mapDo (fun k => rdNat (b.l1 + 2 * (j * nb + k)) 2) (List.range nb)
      let tn := decFloat .fp32 tau
      let ok := !tn.isNan && rows.all (fun r =>
        !Num.lt tn (boundOf f p b.k (windowOf f r.2 (wmax.getD j none)) r.1 l1))
      pure (j, true, ok)
    else pure (j, false, false)) (List.range b.n)
  pure ((cols.filter (fun c => c.2.1)).map (·.1), (cols.filter (fun c => c.2.2)).map (·.1))

/-- The gate of an output (R174). -/
def gated (b : Bind) (tau : Nat) (y : Num) : Bool :=
  let t := decFloat .fp32 tau
  !t.isNan && !Num.lt t (if b.gate = 0 then y.abs else y)

/-- The bits of the threshold of a column. -/
def tauOf (b : Bind) (j : Nat) : Eng Nat := rdNat (b.table + (tableParts b).2.2.1 + 4 * j) 4

end Sys2Proof.Machine
end

