-- ==== Sys2Proof/Machine/Array.lean ====
section
/-! DEFINITION. The Millstone arrays (chapter 4): the checks and start of a matrix descriptor (R110), a swap and
the stream of one stationary (R96, R97), the drain of one output row (R98, R105). -/

namespace Sys2Proof.Machine
open Sys2Proof

/-! ## Checks (R110) -/

/-- An exponent scan is needed (R92). -/
def needScan (w : Work) : Bool := (w.mFmt.isBlock || w.mFmt.isFloat) && !w.mExpMax && w.op != 0x0102

/-- The maxima are supplied (R92). -/
def supplied (w : Work) : Bool := !constMax w.mFmt && w.mExpMax

/-- Checks 1 to 3 of R110. -/
def matChecks (s : State) (w : Work) : Nat :=
  let rounds := w.mMode == 0 || w.mMode == 1
  let outOk := match Fmt.ofCode w.mOutCode with
    | some f => !(decide (f = .s4) || decide (f = .u4) || decide (f = .xa128))
    | none => false
  let opndOk := match Fmt.ofCode w.mFmtCode with
    | some f => !(decide (f = .s32) || decide (f = .xa128)) && (f.isFloat == decide (w.prec ≠ 0))
    | none => false
  if (w.op ≠ 0x0103 ∧ w.f 48 4 = 0) ∨ w.mK = 0 ∨ w.mN = 0 ∨ (w.op = 0x0102 ∧ w.mK ≠ 1) then Status.shape
  else if needScan w && decide (65536 < w.mN) then Status.shape
  else if !opndOk || (rounds && !outOk) || w.rnd == 3 || (w.mTrans && w.mFmt.isBlock && w.op != 0x0102) ||
      (w.op == 0x0102 && (w.mTrans || w.mExpMax)) then Status.format
  else if w.mPolicy ≠ 0 ∧ (w.op = 0x0102 ∨ w.op = 0x0103 ∨ w.mMode = 3) then Status.predict
  else if w.mPolicy = 2 ∧ w.qc = false ∧ reg s Key.prdAllowCountTraining = 0 then Status.cls
  else 0

/-- One more than the largest operation row (R173). -/
def topRow (w : Work) : Nat := if w.op = 0x0103 then w.names.foldl max 0 + 1 else w.mM

/-- The four regions of a matrix descriptor: ACT, WGT, OUT, AUX, each handle and length; length 0 when unused. -/
def matRegions (s : State) (w : Work) : (Nat × Nat) × (Nat × Nat) × (Nat × Nat) × (Nat × Nat) :=
  let row := denseBytes w.mFmt w.mLine
  let wr := wgtRows w
  let o := objOf s (hObj (w.f 32 8))
  ((w.f 16 8, topRow w * pad64 row), (w.mWgt, wr.1 * wr.2),
   (if w.mMode = 3 then (o.num * 2 ^ 40 + o.elemOff 0, o.elemOff (topRow w * w.mN - 1) + o.elemBytes - o.elemOff 0)
    else (w.f 32 8, topRow w * outPitch s w)),
   (if w.op = 0x0103 then (w.f 40 8, 64 + 4 * w.mM) else if supplied w then (w.f 40 8, 2 * (w.mM + w.mN)) else (0, 0)))

/-- Position of a row or column maximum in the exponent-maxima operand (R93, R173). -/
def maxPos (s : State) (w : Work) (isCol : Bool) (i : Nat) (expert : Nat) : Nat :=
  if w.op = 0x0103 then
    let ract := (objOf s (hObj (w.f 16 8))).rowCount
    if isCol then ract + expert * w.mN + i else w.mRow i
  else if isCol then w.mM + i else i

/-- The supplied maximum of a row or column; −32768 means none (R93). -/
def readMax (w : Work) (h expert : Nat) (isCol : Bool) (i : Nat) : Eng (Option Int) := do
  let s ← getS
  let v ← rdNat (h + 2 * maxPos s w isCol i expert) 2
  pure (if v = 0x8000 then none else some (signed 16 v))

/-- Blocks of a contraction. -/
def Work.mBlocks (w : Work) : Nat := cdiv w.mK 32

/-- The scanned maximum of a list of blocks (R92). -/
def scanMax (f : Fmt) (os : List OBlk) : Option Int := os.foldl (fun m o => maxOpt m (o.g f)) none

/-- The expert's number, stride and maxima operand from the bin list (R173). -/
def binHead (w : Work) : Eng (Nat × Nat × Nat × Nat) := do
  let bs ← rdH (w.f 40 8) 24
  pure (field bs 0 4, field bs 4 4, field bs 8 8, field bs 16 8)

/-- Reads the bin list of an expert-routed descriptor into its record (R173): the descriptor with its rows, the expert, the
maxima operand. -/
def loadBin (w : Work) : Eng (Work × Nat × Nat) := do
  if w.op = 0x0103 then
    let s ← getS
    require (handleOk w s (w.f 40 8) 64) Status.handle
    let b ← binHead w
    require (decide (b.2.1 ≠ 0)) Status.shape
    require (handleOk w s (w.f 40 8) (64 + 4 * b.2.1)) Status.handle
    let ns ← mapDo (fun i => rdNat (w.f 40 8 + 64 + 4 * i) 4) (List.range b.2.1)
    modify (fun c => { c with w := { c.w with names := ns, cursor := b.1 * b.2.2.1 } })
    pure ((← get).w, b.1, b.2.2.2)
  else pure (w, 0, w.f 40 8)

/-- Checks 4 and 5 of R110. -/
def matMemChecks (w : Work) (auxH expert : Nat) : Eng Unit := do
  let s ← getS
  let g := matRegions s w
  let stage := w.mMode = 3
  let o := objOf s (hObj (w.f 32 8))
  let expOk := !(w.op == 0x0103 && supplied w) ||
    handleOk w s auxH (2 * (max (topRow w) ((objOf s (hObj (w.f 16 8))).rowCount + (expert + 1) * w.mN)))
  let outOk := if stage then mayName w s o && (!o.adderTarget || o.spans 0 (hOff g.2.2.1.1 + g.2.2.1.2))
    else handleOk w s g.2.2.1.1 g.2.2.1.2
  require (handleOk w s g.1.1 g.1.2 && w.mWgtOk && handleOk w s g.2.1.1 g.2.1.2 && outOk &&
    (g.2.2.2.2 == 0 || handleOk w s g.2.2.2.1 g.2.2.2.2) && expOk) Status.handle
  let out := g.2.2.1
  require (!(overlaps out.1 out.2 g.1.1 g.1.2 || overlaps out.1 out.2 g.2.1.1 g.2.1.2 ||
    (g.2.2.2.2 != 0 && overlaps out.1 out.2 g.2.2.2.1 g.2.2.2.2))) Status.aliased
  require (inScratch s w.die g.1.1 g.1.2 && inScratch s w.die g.2.1.1 g.2.1.2 &&
    (g.2.2.2.2 == 0 || inScratch s w.die g.2.2.2.1 g.2.2.2.2) && (decide stage || inScratch s w.die out.1 out.2)) Status.tier
  require (!decide stage || o.adderTarget) Status.stage

/-- The expert and the operand that supplies the maxima (R93, R173). -/
def maximaOf (w : Work) : Eng (Nat × Nat) := do
  if w.op = 0x0103 then
    let b ← binHead w
    pure (b.1, b.2.2.2)
  else pure (0, w.f 40 8)

/-- The maximum of an activation row (R92, R93). -/
def rowMax (w : Work) (auxH expert i : Nat) : Eng (Option Int) := do
  if constMax w.mFmt then pure (some (magBits w.mFmt 0))
  else if supplied w then readMax w auxH expert false i
  else return scanMax w.mFmt (← mapDo (fun b => actBlk w i b) (List.range w.mBlocks))

/-- The maximum of a weight column (R92, R93). -/
def colMax (w : Work) (auxH expert j : Nat) : Eng (Option Int) := do
  if constMax w.mFmt then pure (some (magBits w.mFmt 0))
  else if supplied w then readMax w auxH expert true j
  else return scanMax w.mFmt (← mapDo (fun b => wgtBlk w j b) (List.range w.mBlocks))

/-! ## Output tiles (R90, R97, R98) -/

/-- A list cut into lists of `n`. -/
def chunksOf {α : Type} (n : Nat) : Nat → List α → List (List α)
  | 0, _ => []
  | k + 1, xs => if xs.isEmpty then [] else xs.take n :: chunksOf n k (xs.drop n)

/-- Rows of row batch `rb`. -/
def batchLen (w : Work) (rb : Nat) : Nat := min (batchMax w.mFmt) (w.mM - rb * batchMax w.mFmt)

/-- Row batch `rb` exists. -/
def batchLeft (w : Work) (rb : Nat) : Bool := decide (rb * batchMax w.mFmt < w.mM)

/-- Column blocks of the output. -/
def Work.mTiles (w : Work) : Nat := cdiv w.mN (colWidth w.mFmt)

/-- The columns of column block `blk`. -/
def tileCols (w : Work) (blk : Nat) : List Nat :=
  rangeFrom (blk * colWidth w.mFmt) (min (colWidth w.mFmt) (w.mN - blk * colWidth w.mFmt))

/-- How many blocks of the batch have streamed once an output tile has had its last stationary (R98). With a predictor bound
the active columns of a batch are streamed in blocks of their own (R181); the tile stays the column block of the output,
and its last stationary is the last that holds a column of it (log 123). -/
def tileLast (w : Work) (a : ArrUnit) (k : Nat) : Nat :=
  if a.bind.isNone then k + 1
  else ((tileCols w k).filter (fun j => !a.skip.contains j)).foldl (fun m j => max m (a.blocks.findIdx (·.contains j) + 1)) 0

/-- An output tile has had its last stationary (R98); an element-wise tile streams while it drains (R104). -/
def tileReady (w : Work) (a : ArrUnit) (k : Nat) : Bool :=
  if w.op = 0x0102 then batchLeft w a.rb else a.begun && decide (tileLast w a k ≤ a.blk)

/-- The tile the drain takes next: of those not yet taken the one that was complete first (R98); where a vector unit takes
the rows, whose batches follow the columns of OUT, the first of them (R134, log 123). -/
def nextTile (w : Work) (a : ArrUnit) : Option Nat :=
  let left := (List.range w.mTiles).filter (fun k => !a.outs.contains k)
  if w.mMode = 1 ∨ w.mMode = 2 then left.head?.filter (tileReady w a)
  else (left.filter (tileReady w a)).foldl (fun b k => match b with
    | some c => if tileLast w a k < tileLast w a c then some k else some c
    | none => some k) none

/-- The column of an accumulator key. -/
def keyCol (k : Nat) : Nat := k % 2 ^ 32

/-- The drain takes over the next complete tile when it is idle (R98). -/
def handOver (w : Work) (a : ArrUnit) : ArrUnit :=
  match a.drain, nextTile w a with
  | none, some k =>
    let mine (e : Nat × Int) : Bool := (tileCols w k).contains (keyCol e.1)
    { a with drain := some { rb := a.rb, blk := k, acc := a.acc.filter mine, amax := a.amax, skip := a.skip }
             acc := a.acc.filter (fun e => !mine e), outs := a.outs ++ [k] }
  | _, _ => a

/-- After the last tile of a batch, the next batch (R97). -/
def nextBatch (w : Work) (a : ArrUnit) : ArrUnit :=
  if decide (w.mTiles ≤ a.outs.length) && (w.op == 0x0102 || (a.begun && decide (a.blocks.length ≤ a.blk))) then
    { a with begun := false, blocks := [], blk := 0, ck := 0, sw := 0, outs := [], rb := a.rb + 1, acc := [], amax := [], skip := [] }
  else a

/-- What follows a stationary or the end of a tile's drain. -/
def onward (w : Work) (a : ArrUnit) : ArrUnit := nextBatch w (handOver w a)

/-! ## Start -/

/-- The start of a matrix descriptor on a tile: all checks of R110 after those of R149, the weight maxima. -/
def beginArr (tile : Nat) : Eng Unit := do
  let c ← get
  let st := matChecks c.s c.w
  require (st == 0) st
  let (w, expert, auxH) ← loadBin c.w
  matMemChecks w auxH expert
  let bind := if w.mPolicy = 0 then none else bindFor c.s w
  require (w.mPolicy == 0 || bind.isSome) Status.predict
  let wmax ← (if w.op = 0x0102 then pure [] else mapDo (fun j => colMax w auxH expert j) (List.range w.mN) : Eng _)
  if supplied w then
    let amax ← mapDo (fun i => readMax w auxH expert false i) (List.range w.mM)
    require (amax.all (fun a => wmax.all (fun b => windowOk (windowOf w.mFmt a b)))) Status.format
  let b := bind.map (·.2)
  (match bind with
    | some (k, bd) =>
      if bd.stamp ≠ (objOf c.s (hObj bd.wgt)).stamp then do
        fillL1 bd
        modS (fun s => bump { s with binds := Tab.set {} s.binds k { bd with stamp := (objOf s (hObj bd.wgt)).stamp } }
          (Key.prdRebuilds + tile) 1)
      else pure ()
    | none => pure ())
  modS (fun s => setArr s tile (onward w { (arrOf s tile).freed with
    work := some w.ref, wmax := wmax, bind := b, queue := (arrOf s tile).queue }))
  let c ← get
  modS (fun s => setWork s { c.w with phase := .running })

/-- The vector descriptor paired with a matrix descriptor that ends early is cancelled (R135). -/
def cancelPair (s : State) (tile : Nat) (r : WRef) : State :=
  let u := vecOf s tile
  if u.pair = some r then setVec s tile { u with cancel := true } else s

/-- Ends the matrix descriptor of a tile with a status; an earlier failure of an acknowledged addend stands (R110, R226). -/
def endArr (s : State) (tile : Nat) (w : Work) (status : Nat) : State :=
  let s := setArr s tile { (arrOf s tile).freed with queue := (arrOf s tile).queue }
  let s := if success status then s else cancelPair s tile w.ref
  setWork s { w with phase := if w.owed = 0 then .done else .acks, status := w.closing status }

/-- Starts a matrix descriptor (R97, R146). -/
def startArr (op : Nat) (r : WRef) (s : State) : State :=
  match findWork s r with
  | none => s
  | some w =>
    if w.op ≠ op ∨ w.phase ≠ .fetched ∨ computing s = false ∨ startable s w = false ∨ cancelled s w = true then s
    else
      let st := headerStatus s w
      if st ≠ 0 then setWork s { w with phase := .done, status := st }
      else
        let s := markReady s
        match tileFor s w, issue s w with
        | some tile, some s =>
          let p := started s w tile
          let x := ((beginArr tile).run).run { s := p.1, w := p.2, die := w.die }
          (match x.1 with
            | .ok _ => x.2.s
            | .error (.status code) => setWork x.2.s { p.2 with phase := .done, status := code }
            | .error (.line k) => joinLine s k r
            | .error _ => s)
        | _, _ => s

/-- DENSE_CONTRACTION (R97). -/
def execDenseContraction (r : WRef) (s : State) : Res := .next (startArr 0x0100 r s)
/-- SPARSE_CONTRACTION (R100). -/
def execSparseContraction (r : WRef) (s : State) : Res := .next (startArr 0x0101 r s)
/-- ELEMENT_WISE_PRODUCT (R104). -/
def execElementWiseProduct (r : WRef) (s : State) : Res := .next (startArr 0x0102 r s)
/-- EXPERT_ROUTED_CONTRACTION (R173). -/
def execExpertRoutedContraction (r : WRef) (s : State) : Res := .next (startArr 0x0103 r s)

/-! ## Swaps -/

/-- Counts of skip units in the EVENTS field (R183). -/
def addUnits (ev unconf conf : Nat) : Nat := min 0xFFFF (ev % 65536 + unconf) + 65536 * min 0xFFFF (ev / 65536 + conf)

/-- The start of a row batch: maxima of its rows, the predictor's skips (R92, R179-R181). -/
def beginBatchArr (tile : Nat) (w : Work) (a : ArrUnit) : Eng ArrUnit := do
  let f := w.mFmt
  let (expert, auxH) ← maximaOf w
  let base := a.rb * batchMax f
  let m := batchLen w a.rb
  let amax ← mapDo (fun i => rowMax w auxH expert (base + i)) (List.range m)
  let c := colWidth f
  match a.bind with
  | none => pure { a with begun := true, amax := amax, blocks := chunksOf c (w.mN + 1) (List.range w.mN), skip := [] }
  | some b =>
    let acts ← mapDo (fun i => mapDo (fun k => actBlk w (base + i) k) (List.range w.mBlocks)) (List.range m)
    let p ← predictBatch b f w.prec (List.zip acts amax) a.wmax
    let unconf := p.1.filter (fun j => !p.2.contains j)
    modify (fun x => { x with events := addUnits x.events unconf.length p.2.length })
    modS (fun s => bump (bump s (Key.prdConfirmed + tile) p.2.length) (Key.prdUnconfirmed + tile) unconf.length)
    require (!(w.mPolicy == 3 && !unconf.isEmpty)) Status.predict
    let active := (List.range w.mN).filter (fun j => !p.1.contains j)
    let late := if w.mPolicy = 1 then unconf else []
    let counted := if w.mPolicy = 2 then unconf else []
    modS (fun s => bump (bump s (Key.prdMadeUp + tile) late.length) (Key.prdCounted + tile) counted.length)
    pure { a with begun := true, amax := amax, skip := p.2 ++ counted,
                  blocks := chunksOf c (w.mN + 1) active ++ chunksOf c (w.mN + 1) late }

/-- Stops with FAULT_SPARSE_META and its Almanac entry (R102). -/
def sparseFault (tile : Nat) (w : Work) (row group : Nat) : Eng Unit := do
  modS (fun s => almFull s 1 tile 0x0030 Status.sparseMeta w.step w.tag
    (leBytes 2 w.op ++ leBytes 1 (match w.ref with
      | .q q _ => q
      | .b _ => 0) ++ leBytes 1 0 ++ leBytes 8 row ++ leBytes 8 group))
  stopWith Status.sparseMeta

/-- The loader's metadata checks of one stationary (R102): stored rows and groups it loads. Where no single entry fails, the
Almanac names row 0 and group 0 for a K that is no multiple of 4, and row 4q for a failing 4 × 4 tile (log 132). -/
def checkMeta (tile : Nat) (w : Work) (cols : List Nat) (ck : Nat) : Eng Unit := do
  if w.op = 0x0101 then
    let f := w.mFmt
    if w.mK % 4 ≠ 0 then sparseFault tile w 0 0
    else
      let ks := rangeFrom (256 * ck) (min 256 (w.mK - 256 * ck))
      let rows := if w.mTrans then ks else cols
      let groups := ((if w.mTrans then cols else ks).map (· / 4)).eraseDups
      let len := if w.mTrans then w.mN else w.mK
      let metas ← mapDo (fun r => do
        let ms ← mapDo (fun g => do
          let m ← sparseMeta (w.mWgt + r * sparseBytes f len) f len g
          if m / 4 ≤ m % 4 then sparseFault tile w r g
          pure m) groups
        pure (r, ms)) rows
      if w.mTrans then
        eachDo (fun q =>
          let four := metas.filter (fun e => e.1 / 4 == q)
          eachDo (fun (g : Nat × Nat) =>
            let ms := four.map (fun e => e.2.getD g.2 0)
            if (List.range 4).any (fun p => decide (2 < (ms.filter (fun m => m % 4 == p || m / 4 == p)).length))
            then sparseFault tile w (4 * q) g.1 else pure ()) groups.zipIdx) ((rows.map (· / 4)).eraseDups)
      else pure ()
  else pure ()

/-- A block respects its supplied maximum (R93). -/
def withinMax (f : Fmt) (m : Option Int) (o : OBlk) : Bool :=
  match o.g f, m with
  | none, _ => true
  | some _, none => false
  | some g, some v => decide (g ≤ v)

/-- The key of an accumulator entry. -/
def accKey (i j : Nat) : Nat := i * 2 ^ 32 + j

/-- The blocks of 32 contraction indices of the current chunk. -/
def chunkBlocks (w : Work) (ck : Nat) : List Nat :=
  let per := w.mDepth / 32
  rangeFrom (ck * per) (min per (w.mBlocks - ck * per))

/-- The stationary after this one (R97). -/
def nextStat (w : Work) (a : ArrUnit) : ArrUnit :=
  if a.sw + 1 < sliceCount w.prec then { a with sw := a.sw + 1 }
  else if a.ck + 1 < cdiv w.mK w.mDepth then { a with sw := 0, ck := a.ck + 1 }
  else { a with sw := 0, ck := 0, blk := a.blk + 1, seen := if a.bind.isSome then a.seen ++ a.blocks.getD a.blk [] else a.seen }

/-- The selects of column `j` for the groups of a chunk (R100): its metadata entries, or those the transposer gives, the
positions of the stored rows of a tile that name the column's place (R103). -/
def selectsOf (w : Work) (ck j : Nat) : Eng (List Nat) := do
  let f := w.mFmt
  let gs := rangeFrom (64 * ck) (min 64 (w.mK / 4 - 64 * ck))
  if w.op ≠ 0x0101 then pure []
  else if w.mTrans then
    mapDo (fun q => do
      let ps ← mapDo (fun p => do
        let m ← sparseMeta (w.mWgt + (4 * q + p) * sparseBytes f w.mN) f w.mN (j / 4)
        pure (p, m % 4 == j % 4 || m / 4 == j % 4)) (List.range 4)
      let ns := (ps.filter (·.2)).map (·.1)
      pure (ns.headD 0 + 4 * ns.getLastD 0)) gs
  else mapDo (fun g => sparseMeta (w.mWgt + j * sparseBytes f w.mK) f w.mK g) gs

/-- The loader writes the next stationary into the shadow bank (R95): its checks (R102), each column's blocks of the slice it
loads, their selects; the events of slicing count with the first stream of an element (R64, R99). -/
def loadStat (tile : Nat) (w : Work) (a : ArrUnit) : Eng (ArrUnit × List (List OBlk)) := do
  let cols := a.blocks.getD a.blk []
  checkMeta tile w cols a.ck
  let ws ← mapDo (fun j => mapDo (fun b => wgtBlk w j b) (chunkBlocks w a.ck)) cols
  let sel ← mapDo (selectsOf w a.ck) cols
  if a.sw = 0 then
    eachDo (fun (e : Nat × List OBlk) =>
      if (if a.bind.isSome then a.seen.contains e.1 else decide (a.rb ≠ 0)) then pure ()
      else eachDo (fun (o : OBlk) => eventsOf o.acc) e.2) (List.zip cols ws)
  pure ({ a with shadow := { cols := cols, digits := ws.map (fun os => os.map (fun o => o.slices.getD a.sw (0, []))), selects := sel } }, ws)

/-- The swap (R96): the banks change places and the tag that entering elements take flips. -/
def swapBanks (a : ArrUnit) : ArrUnit := { a with fore := a.shadow, shadow := a.fore, tag := !a.tag }

/-- The streams of the foreground stationary, whose blocks are `ws`: every row of the batch against its columns and chunk
(R66-R68, R97). Entries of a new tile follow, in time, the drain's reads of their rows (R96 condition 4, R98). -/
def streamStat (tile : Nat) (w : Work) (a : ArrUnit) (ws : List (List OBlk)) : Eng ArrUnit := do
  let f := w.mFmt
  let base := a.rb * batchMax f
  let m := batchLen w a.rb
  let cols := a.fore.cols
  let as ← mapDo (fun i => mapDo (fun b => actBlk w (base + i) b) (chunkBlocks w a.ck)) (List.range m)
  if supplied w then
    require ((List.zip a.amax as).all (fun e => e.2.all (withinMax f e.1)) &&
      (List.zip cols ws).all (fun e => e.2.all (withinMax f (a.wmax.getD e.1 none)))) Status.expMax
  if a.sw = 0 ∧ a.blk = 0 then eachDo (fun r => eachDo (fun (o : OBlk) => eventsOf o.acc) r) as
  let res := (as.zipIdx).map (fun r => (List.zip cols a.fore.digits).map (fun c =>
    let T := windowOf f (a.amax.getD r.2 none) (a.wmax.getD c.1 none)
    let e := (List.zip r.1 c.2).foldl (fun st ab =>
      let x := blockEntries w.prec T ab.1 ab.2 a.sw
      (st.1 + x.1, st.2.join x.2)) ((0 : Int), ({} : Acc))
    (accKey r.2 c.1, e)))
  eachDo (fun row => eachDo (fun (e : Nat × Int × Acc) => eventsOf e.2.2) row) res
  let acc := res.flatten.foldl (fun t e => Tab.set 0 t e.1 (Tab.get 0 t e.1 + e.2.1)) a.acc
  let streams := sliceCount w.prec - a.sw
  let ks := min w.mDepth (w.mK - a.ck * w.mDepth)
  modS (fun s => bump (bump s (Key.arrStreamCycles + tile) (m * streams))
    (Key.arrLogicalMacs + tile) (m * cols.length * ks * streams))
  pure (nextStat w { a with acc := acc })

/-- One swap: the first of a row batch begins the batch (R92, R179); a batch whose columns are all left out has none. -/
def swapOne (tile : Nat) (a : ArrUnit) (w : Work) : Eng ArrUnit := do
  let a ← (if a.begun then pure a else beginBatchArr tile w a)
  if a.blocks.length ≤ a.blk then pure (onward w a)
  else do
    let (a, ws) ← loadStat tile w a
    let a := swapBanks a
    modS (fun s => bump (setArr s tile a) (Key.arrSwaps + tile) 1)
    return onward w (← streamStat tile w a ws)

/-- The array and descriptor of a tile when its array runs one. -/
def arrRun (s : State) (tile : Nat) : Option (ArrUnit × Work) :=
  let a := arrOf s tile
  match a.work with
  | none => none
  | some r => match findWork s r with
    | some w => if w.phase = .running ∧ computing s = true then some (a, w) else none
    | none => none

/-- What an array's step leaves in the descriptor: events, counts, owed responses, the versions it reads under. -/
def arrWork (w : Work) (c : Ectx) : Work :=
  { w with acc := w.acc.join c.acc, events := c.events, owed := w.owed + c.owed, vers := c.w.vers }

/-- A check failed: a tile that drains finishes with its values, and nothing else is streamed or written (R93, R102; log 124). -/
def failArr (s : State) (tile : Nat) (a : ArrUnit) (w : Work) (code : Nat) : State :=
  match a.drain with
  | some d => setArr (setWork s w) tile { (arrOf s tile) with
      work := a.work, wmax := a.wmax, bind := a.bind, rows := a.rows, queue := a.queue, drain := some d, failed := some code }
  | none => endArr s tile w code

/-- The context in which an array's step runs. -/
def arrCtx (s : State) (w : Work) : Ectx := { s := s, w := w, die := w.die, events := w.events }

/-- Runs a step of an array, keeping events, counts and owed responses in the descriptor. -/
def arrStep (body : ArrUnit → Work → Eng ArrUnit) (tile : Nat) (s : State) (a : ArrUnit) (w : Work)
    (after : State → Work → ArrUnit → State) (stop : State → Work → Nat → State) : State :=
  let r := ((body a w).run).run (arrCtx s w)
  let w' := arrWork w r.2
  match r.1 with
  | .ok b => pump (after (setArr (setWork r.2.s w') tile b) w' b)
  | .error (.status code) => pump (stop r.2.s w' code)
  | .error (.line k) => joinLine (leaveLines s w.ref r.2.passed) k w.ref
  | .error _ => s

/-- No swap comes: an element-wise descriptor has none, a failed one no more, nor has one whose rows have all been streamed;
the first stationary of a tile waits while the tile before it is complete and an earlier one still drains (R98). -/
def swapHeld (w : Work) (a : ArrUnit) : Bool :=
  w.op == 0x0102 || a.failed.isSome || !batchLeft w a.rb ||
  (a.drain.isSome && (nextTile w a).isSome && a.sw == 0 && a.ck == 0)

/-- SWAP: the loader's shadow bank, checked and full, becomes the foreground bank, and its stationary streams (R95-R97). The
failing stationary of R102 is not swapped in; the drain of a tile whose streams have passed is not held up by a failure
behind it (R93, R102; log 124). -/
def execSwap (tile : Nat) (s : State) : Res :=
  .next (match arrRun s tile with
    | none => s
    | some (a, w) =>
      if swapHeld w a then s
      else arrStep (swapOne tile) tile s a w (fun s _ _ => s) (fun s w c => failArr s tile a w c))

/-! ## The drain -/

/-- The exact value and window of output (i, j) in element-wise mode (R104), with entry and reading events. -/
def elemOut (w : Work) (i : Nat) (cols : List Nat) : Eng (List (Int × Int)) := do
  let f := w.mFmt
  let p := w.prec
  let bs := (cols.map (· / 32)).eraseDups
  let blks ← mapDo (fun b => do
    let a ← actBlk w i b
    let x ← lineBlk (w.mWgt + i * pad64 (denseBytes f w.mN)) f p w.mN b
    eventsOf a.acc
    eventsOf x.acc
    pure (b, a, x)) bs
  mapDo (fun j =>
    match blks.find? (fun e => e.1 == j / 32) with
    | none => pure (0, 0)
    | some (_, a, x) => do
      let T := windowOf f (a.g f) (x.g f)
      let es := (List.range (sliceCount p)).flatMap (fun sw => (a.slices.take (sliceCount p - sw)).map (fun sa =>
        let ws := x.slices.getD sw (0, [])
        pairEntry T (sa.1 + ws.1) (sa.2.getD (j % 32) 0 * ws.2.getD (j % 32) 0)))
      eachDo (fun (e : Int × Ev) => event e.2) es
      pure ((es.map (·.1)).sum, T)) cols

/-- The exact values and windows of one output row of a column block, gated (R69, R174, R181). -/
def outRow (w : Work) (a : ArrUnit) (d : DrainTile) (cols : List Nat) : Eng (List (Int × Int)) := do
  if w.op = 0x0102 then elemOut w (d.rb * batchMax w.mFmt + d.row) cols
  else mapDo (fun j => do
    let T := windowOf w.mFmt (d.amax.getD d.row none) (a.wmax.getD j none)
    let v := Tab.get 0 d.acc (accKey d.row j)
    match a.bind with
    | none => pure (v, T)
    | some b =>
      if d.skip.contains j then pure (0, T)
      else
        let tau ← tauOf b j
        pure (if gated b tau (xaNum T v) then 0 else v, T)) cols

/-- Converts an output row to the output format (R52, R69, R106, R107): bits and block exponent of each column. -/
def roundRow (w : Work) (i : Nat) (cols : List Nat) (vs : List (Int × Int)) : Eng (List (Int × Int)) := do
  let s ← getS
  let f := w.mOut
  let h := w.f 32 8
  let o := objOf s (hObj h)
  let md := (RMode.ofBits w.rnd).getD .nearest
  let word (j : Nat) : Nat := if md = .stochastic then
      genWord (reg s Key.genSeed) w.step (w.f 62 2) (outIndex f o.pitch o.rowlen (hOff h + w.mRow i * outPitch s w) j) else 0
  let ns := (List.zip cols vs).map (fun e => (xaNum e.2.2 e.2.1, word e.1))
  if f.isBlock then
    let parts ← mapDo (fun (g : List (Num × Nat)) => do
      let c := convBlock f md (g ++ List.replicate (32 - g.length) (.fin false 0 0, 0))
      eventsOf c.2.2
      pure ((c.2.1.take g.length).map (fun m => (m, (c.1 : Int))))) (chunksOf 32 (ns.length + 1) ns)
    pure parts.flatten
  else mapDo (fun (e : Num × Nat) => do
    let c := convScalar f md e.2 e.1
    event c.2
    pure ((c.1 : Int), (0 : Int))) ns

/-- Packs 4-bit codes two to a byte (R35). -/
def pack4 : List Nat → List Byte
  | a :: b :: xs => BitVec.ofNat 8 (a % 16 + 16 * (b % 16)) :: pack4 xs
  | [a] => [BitVec.ofNat 8 (a % 16)]
  | [] => []

/-- The columns of the row that drains whose accumulator entries are poisoned (R481, R487): an entry is row × columns of the
store + column. -/
def badCols (w : Work) (a : ArrUnit) (d : DrainTile) (cols : List Nat) : List Nat :=
  cols.filter (fun j => a.bad.contains (d.row * colWidth w.mFmt + (j - cols.headD 0)))

/-- Element codes of `bits` bits as they lie in bytes. -/
def splitCodes (bits : Nat) (bs : List Byte) : List Nat :=
  if bits = 4 then bs.flatMap (fun b => [b.toNat % 16, b.toNat / 16]) else bs.map (·.toNat)

/-- Writes the columns of an output row in mode MEM, and the padding after its last column (R38, R107); a column whose
accumulator entry is poisoned keeps what memory holds (R481). -/
def writeOut (w : Work) (i : Nat) (cols bad : List Nat) (vs : List (Int × Int)) : Eng Unit := do
  let s ← getS
  let f := w.mOut
  let h := w.f 32 8 + w.mRow i * outPitch s w
  let first := cols.headD 0
  let last := first + cols.length = w.mN
  if f.isBlock then
    let nb := if last then cdiv w.mN 1024 * 32 else (first + cols.length) / 32
    eachDo (fun b => do
      let part := (vs.drop (32 * (b - first / 32))).take 32
      let e := (part.headD (0, 0)).2.toNat
      let new := pad32 0 (part.map (fun v => unsigned f.elemBits v.1))
      let codes ← (if bad.any (fun j => j / 32 == b) then do
          let old ← rdH (h + b / 32 * f.groupBytes + 32 + b % 32 * (4 * f.elemBits)) (4 * f.elemBits)
          pure ((List.zip (List.range 32) (List.zip (splitCodes f.elemBits old) new)).map (fun e =>
            if bad.contains (32 * b + e.1) then e.2.1 else e.2.2))
        else pure new)
      wrH (h + b / 32 * f.groupBytes + b % 32) (leBytes 1 e)
      wrH (h + b / 32 * f.groupBytes + 32 + b % 32 * (4 * f.elemBits))
        (if f.elemBits = 4 then pack4 codes else codes.map (BitVec.ofNat 8))) (rangeFrom (first / 32) (nb - first / 32))
  else
    let n := f.elemBits / 8
    let body := vs.flatMap (fun v => leBytes n v.1.toNat)
    let pad := if last then outPitch s w - n * w.mN else 0
    if bad.isEmpty then wrH (h + n * first) (body ++ List.replicate pad 0)
    else do
      eachDo (fun (e : Nat × Int × Int) => if bad.contains e.1 then pure () else wrH (h + n * e.1) (leBytes n e.2.1.toNat))
        (List.zip cols vs)
      if pad = 0 then pure () else wrH (h + n * w.mN) (List.replicate pad 0)

/-- The drain moves to the next row of its tile; after the last, to the next complete tile (R97, R98). -/
def nextRow (w : Work) (a : ArrUnit) (d : DrainTile) : ArrUnit :=
  if d.row + 1 < batchLen w d.rb then { a with drain := some { d with row := d.row + 1 }, rows := a.rows + 1 }
  else
    let a := { a with drain := none, rows := a.rows + 1 }
    if a.failed.isSome then a else onward w a

/-- The drain of one row in the descriptor's mode (R105). A poisoned accumulator entry drains no value, and the descriptor
completes FAULT_POISON (R481): after its tile in modes MEM and STAGE, at once where a row goes to a vector unit (log 143). -/
def drainOne (tile : Nat) (d : DrainTile) (a : ArrUnit) (w : Work) : Eng ArrUnit := do
  let i := d.rb * batchMax w.mFmt + d.row
  let cols := tileCols w d.blk
  let bad := badCols w a d cols
  let vs ← (do
    let vs ← outRow w a d cols
    pure (if bad.isEmpty then vs
      else (List.zip cols vs).map (fun (e : Nat × Int × Int) => if bad.contains e.1 then (0, e.2.2) else e.2)))
  let a := if bad.isEmpty then a else { a with failed := some (a.failed.getD Status.poison) }
  (if !bad.isEmpty && (w.mMode == 1 || w.mMode == 2) then stopWith Status.poison else pure ())
  (if w.op = 0x0102 then
    modS (fun s => bump (bump s (Key.arrStreamCycles + tile) (streamUnits w.prec)) (Key.arrLogicalMacs + tile)
      (cols.length * streamUnits w.prec))
  else pure ())
  let queued (vals : List (Int × Int)) : ArrUnit := nextRow w { a with queue := a.queue ++ [{ row := i, col := cols.headD 0, vals := vals }] } d
  match w.mMode with
  | 0 => do
    let rs ← roundRow w i cols vs
    writeOut w i cols bad rs
    pure (nextRow w a d)
  | 1 => return queued (← roundRow w i cols vs)
  | 2 => pure (queued vs)
  | _ => do
    eachDo (fun (e : Nat × Int × Int) =>
      if bad.contains e.1 then pure () else sendAddend (hObj (w.f 32 8)) (w.mRow i * w.mN + e.1) .xa128 e.2.2 (unsigned 128 e.2.1)) (List.zip cols vs)
    pure (nextRow w a d)

/-- A vector descriptor reads this tile's drain queue for the matrix descriptor (R134). -/
def hasReader (s : State) (tile : Nat) (w : Work) : Bool :=
  let u := vecOf s tile
  u.work.isSome && u.pair == some w.ref

/-- A drain-coupled descriptor that may start names this one: in modes MEM and STAGE both are to complete FAULT_DRAIN and
touch no memory (R135), so that nothing drains before it has started. -/
def hasClaim (s : State) (w : Work) : Bool :=
  s.work.any (fun v => v.op == 0x0201 && v.f 40 4 == w.tag && runnable s v && (match pairOf s v with
    | some m => decide (m.ref = w.ref)
    | none => true))

/-- The drain waits: modes VEC and RAW for a reader and for room in the queue of 16 rows (log 29), the others for a
drain-coupled descriptor that names this one (log 136). -/
def drainHeld (s : State) (tile : Nat) (a : ArrUnit) (w : Work) : Bool :=
  if w.mMode = 1 ∨ w.mMode = 2 then !hasReader s tile w || decide (16 ≤ a.queue.length) else hasClaim s w

/-- The descriptor has drained its last row. -/
def allDrained (w : Work) (a : ArrUnit) : Bool := a.drain.isNone && !batchLeft w a.rb

/-- What follows the drain of a row: a failed descriptor ends when the tile that drained is out (R93, R102), another after its
last row (R112), in mode RAW when the epilogue has consumed it (R106). -/
def afterRow (tile : Nat) (s : State) (w : Work) (a : ArrUnit) : State :=
  match a.failed with
  | some code => if a.drain.isNone then endArr s tile w code else s
  | none => if allDrained w a && w.mMode != 2 then endArr s tile w Status.ok else s

/-- DRAIN_ROW: the drain reads one accumulator row and rounds, forwards or stages it (R98, R105). -/
def execDrainRow (tile : Nat) (s : State) : Res :=
  .next (match arrRun s tile with
    | none => s
    | some (a, w) => match a.drain with
      | none => s
      | some d =>
        if drainHeld s tile a w then s
        else arrStep (drainOne tile d) tile s a w (afterRow tile) (fun s w c => endArr s tile w (a.failed.getD c)))

end Sys2Proof.Machine
end

