-- ==== Sys2Proof/Machine/HostMem.lean ====
section
/-! DEFINITION. Host accesses to the apertures (R403, R404): the back-invalidate filter, the access itself, those that wait
until their page or table can be reached (R239, R323, R491). -/

namespace Sys2Proof.Machine
open Sys2Proof

/-- Lines the back-invalidate filter holds (R404). -/
def filterLines : Nat := 1048576

/-- The host may hold a line from now on; a full filter gives up its oldest (R404). -/
def trackLine (s : State) (apt line : Nat) : State :=
  let rest := s.cxl.filter.filter (fun l => !(l.apt == apt && l.line == line))
  let s := match (if filterLines ≤ rest.length then rest.head? else none) with
    | some l => bump (send { s with cxl := { s.cxl with filter := rest.drop 1 } } (.biSnoop true (l.apt * 2 ^ 26 + l.line)))
        Key.cxlBiEvictions 1
    | none => { s with cxl := { s.cxl with filter := rest } }
  { s with cxl := { s.cxl with filter := s.cxl.filter ++ [{ apt := apt, line := line, modified := true }] } }

/-- The 64-byte lines a range touches. -/
def linesOf (off len : Nat) : List Nat := (List.range ((off + len + 63) / 64 - off / 64)).map (· + off / 64)

/-- The host may hold every line of a range from now on (R404). -/
def trackLines (s : State) (apt off len : Nat) : State := (linesOf off len).foldl (fun s l => trackLine s apt l) s

/-- Every byte of a range is in memory the host can be given now. -/
def hostReach (s : State) (o : Obj) (off len : Nat) : Bool :=
  (spans16 off len).all (fun p => match locate s o p.1 with
    | .here _ => true
    | .stop _ => true
    | _ => false)

/-- Bytes of a range with poison set aside: data, poisoned (R403). -/
def hostRead (s : State) (o : Obj) (off len : Nat) : List Byte × Bool :=
  (spans16 off len).foldl (fun r p => match locate s o p.1 with
    | .here a => (r.1 ++ Tab.getRange 0 s.mem.bytes a p.2, r.2 || poisoned s.mem a p.2)
    | _ => (r.1 ++ List.replicate p.2 0, true)) ([], false)

/-- The host's read counts in the statistics of the units it reaches (R320, R332, R333, log 116). -/
def countHostRead (s : State) (o : Obj) (off len : Nat) : State := countRange (sampleRange s o off len) false o off len

/-- A host access to the object bound there, if it can be served now (R403, R404): a read may leave its lines with the
host, a write returns them (log 50). A write that R239 stops is discarded (log 149). -/
def aptAccess (s : State) (x : HostAcc) : Option State :=
  let a := x.off / 2 ^ 32
  let off := x.off % 2 ^ 32
  let y := Tab.get {} s.cxl.apts a
  if y.state = .unbound ∨ y.len < off + x.len then
    let s := bump s Key.cxlUnboundAccesses 1
    some (match x.wr with
      | none => send s (.hdmData (List.replicate x.len 0) false)
      | some _ => s)
  else
    let o := objOf s y.obj
    if !hostReach s o (y.off + off) x.len then none
    else match x.wr with
      | none =>
        let r := hostRead s o (y.off + off) x.len
        some (send (trackLines (countHostRead s o (y.off + off) x.len) a off x.len) (.hdmData r.1 r.2))
      | some bs =>
        match draftRows s o.num (y.off + off) bs.length with
        | .ok s =>
          let back (l : HostLine) : Bool := l.apt == a && (linesOf off x.len).contains l.line
          let s := { s with cxl := { s.cxl with filter := s.cxl.filter.filter (fun l => !back l) } }
          some (markReady (writeLocal s (objOf s o.num) (y.off + off) bs))
        | .wait => none
        | .stop _ => some s

/-- Two accesses meet in a page of the device range. -/
def HostAcc.meets (x y : HostAcc) : Bool :=
  decide (x.off / 65536 ≤ (y.off + y.len - 1) / 65536) && decide (y.off / 65536 ≤ (x.off + x.len - 1) / 65536)

/-- A host access is served, or waits behind what waits for its page (R323). -/
def tryAccess (s : State) (x : HostAcc) : State :=
  let wait : State := { s with cxl := { s.cxl with held := s.cxl.held ++ [x] } }
  if s.cxl.held.any x.meets then wait else (aptAccess s x).getD wait

/-- A host access that a module which will not thaw answers with poison (R491). -/
def poisonAccess (s : State) (x : HostAcc) : State :=
  match x.wr with
  | none => send s (.hdmData (List.replicate x.len 0) true)
  | some _ => s

/-- A host access arrives: FREEZING and FROZEN hold it, FROZEN_FINAL and CONTAINED answer it with poison (R491). -/
def hostAccess (s : State) (x : HostAcc) : State :=
  match reg s Key.frzState with
  | 0 => tryAccess s x
  | 1 | 2 => { s with cxl := { s.cxl with held := s.cxl.held ++ [x] } }
  | _ => poisonAccess s x

/-- The accesses that waited are looked at again, in the order of their arrival (R323, R491). -/
def serveHeld (s : State) : State :=
  if s.cxl.held.isEmpty || !hostLinkUp s then s
  else
    let xs := s.cxl.held
    match reg s Key.frzState with
    | 0 => xs.foldl tryAccess { s with cxl := { s.cxl with held := [] } }
    | 1 | 2 => s
    | _ => xs.foldl poisonAccess { s with cxl := { s.cxl with held := [] } }

end Sys2Proof.Machine
end

