-- ==== Sys2Proof/Machine/Errors.lean ====
section
/-! DEFINITION. ALERT_N and its notification (R441, R524), freeze and thaw (R489-R493), error records and what each
severity does (R475-R486). -/

namespace Sys2Proof.Machine
open Sys2Proof

/-! ## Notices -/

/-- A frame of the field network (R438): destination and source, addresses as the bytes of their entries stand, EtherType,
field header and message. -/
def flnFrame (s : State) (dst : Nat) (body : List Byte) : List Byte :=
  leBytes 6 dst ++ leBytes 6 (reg s Key.flnMac) ++ beBytes 2 0x88B5 ++ body

/-- A notification frame of R441: event, channel, code, Almanac sequence number. -/
def notifyFln (s : State) (event chan code seq : Nat) : State :=
  if reg s Key.flnEnable = 1 ∧ bit (reg s Key.flnNotify) (event - 1) = true then
    let body := leBytes 4 3 ++ leBytes 1 event ++ leBytes 1 chan ++ leBytes 2 code ++ leBytes 4 seq ++ leBytes 8 s.time
    let mac := reg s Key.flnNotifyMac
    if mac ≠ 0 then send s (.frame mac (flnFrame s mac body))
    else match s.srv.lastSrc with
      | some src => send s (.frame src (flnFrame s src body))
      | none => s
  else s

/-- ALERT_N is driven low for 100 µs (R524); `seq` is the causing Almanac entry, 0 if none. -/
def alert (s : State) (seq : Nat) : State :=
  notifyFln { s with pwr := { s.pwr with alertEnd := max s.pwr.alertEnd (s.time + 100000) } } 2 0 0 seq

/-- ERR_PENDING (R479): bit uu equals bit 0 of ERR_VALID of unit uu. -/
def errPending (s : State) : Nat :=
  ((List.range 57).filter (fun u => bit (reg s (Key.errValid + 256 * u)) 0)).foldl (fun n u => n + 2 ^ u) 0

/-- ALERT_N is low (R524). -/
def alertLow (s : State) : Bool :=
  s.pwr.alertEnd != 0 || errPending s != 0 || reg s Key.frzState == 4 || reg s Key.bootState == 7

/-- ALERT_PULSE_END: the pulse of an event ends (R524). -/
def execAlertPulseEnd (t : Nat) (s : State) : Res :=
  .next (if s.pwr.alertEnd ≠ 0 ∧ s.pwr.alertEnd ≤ max s.time t then
    { (atTime s t) with pwr := { s.pwr with alertEnd := 0 } } else s)

/-! ## Control packets (R350, R490, R492) -/

/-- Control kind of a FREEZE packet (log 38). -/
def ctrlFreeze : Nat := 0x0010
/-- Control kind of a THAW packet (log 38). -/
def ctrlThaw : Nat := 0x0011

/-- A link that is UP or parked. -/
def linkUp (s : State) (p : Nat) : Bool := linkState s p == 6 || linkState s p == 7

/-- The peer of a port is a member of this module's partition. -/
def memberPort (s : State) (p : Nat) : Bool :=
  inPartition s && linkUp s p && (portOf s p).peerPart == reg s Key.fabPartId &&
  !fenced s (reg s (Key.linkPeer + 256 * p))

/-- A FREEZE or THAW control packet. -/
def isWatch (k : Pkt) : Bool := k.ty == 0x0C && (k.aux == ctrlFreeze || k.aux == ctrlThaw)

/-- FREEZE and THAW packets that wait are gone: none acts on another freeze than its own (R489, R492). -/
def dropWatch (s : State) : State := { s with fab := { s.fab with inbox := s.fab.inbox.filter (fun k => !isWatch k) } }

/-- Sends a control packet of one hop through a port, before what waits there (R490, R492). -/
def sendCtrl (s : State) (p kind : Nat) : State :=
  let k := sealPkt {
    ty := 0x0C, tc := 3, dst := reg s (Key.linkPeer + 256 * p), src := self s, aux := kind, epoch := reg s Key.fabEpoch,
    part := reg s Key.fabPartId, eph := reg s Key.ephPin }
  if reg s Key.fabState = 5 then s
  else transmit (setPort s p { portOf s p with outq := k :: (portOf s p).outq, streak := 0 }) p

/-! ## Freeze (R489-R493) -/

/-- The ports that are UP. -/
def upPorts (s : State) : List Nat := (List.range 6).filter (linkUp s)

/-- The module leaves RUNNING for a freeze (R489, R490, R496): cause, port whose packet caused it (7: none). -/
def enterFreeze (s : State) (cause port : Nat) : State :=
  let s := ((List.range 6).filter (memberPort s)).foldl (fun s p => sendCtrl s p ctrlFreeze) (dropWatch s)
  let s := bump32 (setReg (setReg s Key.frzCause cause) Key.frzStatus (port * 2 ^ 24)) Key.frzCount 1
  setReg { s with err := { s.err with upAt := upPorts s, frozeAt := s.time } } Key.frzState 1

/-- A freeze is requested: later causes are ignored, and during a power transition it waits (R489, R510). -/
def freeze (s : State) (cause port : Nat) : State :=
  if reg s Key.frzState ≠ 0 then s
  else if s.pwr.target.isSome then
    { s with pwr := { s.pwr with freezeDue := match s.pwr.freezeDue with
      | none => some (cause, port)
      | some x => some x } }
  else enterFreeze s cause port

/-- FREEZE_COMPLETE: requests in flight are done, clocks stop (R490). -/
def execFreezeComplete (t : Nat) (s : State) : Res :=
  .next (if reg s Key.frzState = 1 then
    let s := atTime s t
    setReg (setReg s Key.frzState 2) Key.frzEntryNs s.time
  else s)

/-- The timers a freeze suspends run on from where they stood (R490). -/
def shiftTimers (s : State) (d : Nat) : State :=
  { s with
    slots := s.slots.map (fun e => (e.1, { e.2 with oldIdle := e.2.oldIdle + (if e.2.old.isSome then d else 0) }))
    dir := { s.dir with migs := s.dir.migs.map (fun m => { m with start := m.start + d }) }
    place := { s.place with moves := s.place.moves.map (fun m => { m with start := m.start + d }) }
    fab := { s.fab with
      src := s.fab.src.map (fun w => { w with since := w.since + d })
      rcv := s.fab.rcv.map (fun w => { w with firstAt := w.firstAt + d }) }
    red := { s.red with ctxs := s.red.ctxs.map (fun c => { c with lastAt := c.lastAt + d }) }
    mbx := s.mbx.map (fun e => (e.1, { e.2 with grantAt := e.2.grantAt + d })) }

/-- LINK_TIMEOUT_US has not passed since the freeze, its ports are still UP, no late flit came, no scan ran (R492). -/
def thawClean (s : State) : Bool :=
  decide (s.time - reg s Key.frzEntryNs < 1000 * reg s Key.linkTimeoutUs) && s.err.upAt.all (linkUp s) &&
  reg s Key.frzStatus % 64 == 0 && !bit (reg s Key.frzStatus) 17

/-- A thaw: timers run on, each port sends THAW first and then what waited; the host's accesses that were held are served
(R491, R492). -/
def doThaw (s : State) : State :=
  let s := shiftTimers (dropWatch (setReg s Key.frzState 0)) (s.time - s.err.frozeAt)
  let s := (s.err.upAt.filter (memberPort s)).foldl (fun s p => sendCtrl s p ctrlThaw) s
  serveHeld (pump (s.err.upAt.foldl transmit s))

/-- A thaw is requested (R492): the state after it, and whether it thawed. Condition 3, 4 or 5 failing, or a scan, makes the
freeze final whatever FREEZE_N shows; a FATAL error makes a thaw impossible (R491). -/
def thaw (s : State) : State × Bool :=
  if reg s Key.frzState = 2 then
    if !thawClean s then (serveHeld (setReg s Key.frzState 3), false)
    else if s.pwr.freezeN = false ∨ bit (reg s Key.frzStatus) 18 = true then (s, false)
    else (doThaw s, true)
  else (s, false)

/-- FREEZE_TOO_LONG (R492, R493, R496). -/
def execFreezeTooLong (t : Nat) (s : State) : Res :=
  .next (if reg s Key.frzState = 2 ∧ reg s Key.frzEntryNs + 1000 * reg s Key.linkTimeoutUs ≤ max s.time t then
    let s := atTime s t
    let st := reg s Key.frzStatus
    serveHeld (setReg (setReg s Key.frzStatus (if bit st 16 then st else st + 2 ^ 16)) Key.frzState 3)
  else s)

/-- JTAG_INTERNAL_SCAN (R495). -/
def execJtagInternalScan (t : Nat) (s : State) : Res :=
  let f := reg s Key.frzState
  .next (if reg s Key.dbgScanEnable = 1 ∧ 2 ≤ f then
    let s := atTime s t
    let st := reg s Key.frzStatus
    let s := setReg s Key.frzStatus (if bit st 17 then st else st + 2 ^ 17)
    if f = 2 then serveHeld (setReg s Key.frzState 3) else s
  else s)

/-! ## Units that stop (R482, R483) -/

/-- A control packet between ranks (R373). -/
def redCtrl (s : State) (dst kind : Nat) (body : List Byte) : State :=
  postCtrl s { ty := 0x0C, tc := 3, dst := dst, aux := kind, len := body.length, payload := body }

/-- RED_ABORT's payload: REDID, STEP, status (log 39). -/
def abortBody (c : RedCtx) (status : Nat) : List Byte := leBytes 2 c.redid ++ leBytes 4 c.step ++ leBytes 2 status

/-- The neighbours of a context in its chain. -/
def redPeers (c : RedCtx) : List Nat :=
  (if c.rank = 0 then [] else (c.coords[c.rank - 1]?).toList) ++ (c.coords[c.rank + 1]?).toList

/-- A context ends: it is freed, its descriptor's result is decided (R371, R379). -/
def endCtx (s : State) (c : RedCtx) (status : Nat) : State :=
  let s := { s with red := { s.red with ctxs := s.red.ctxs.filter (fun x => x.redid != c.redid) } }
  match findWork s c.work with
  | some w => setWork s { w with phase := .done, status := status, acc := c.acc, events := c.events }
  | none => s

/-- A context ends with a failure and aborts its neighbours but `from_` (R381); in fatal handling the aborts are held
(R483). -/
def failCtx (s : State) (c : RedCtx) (status : Nat) (from_ : Option Nat) : State :=
  endCtx (((redPeers c).filter (fun d => some d != from_)).foldl (fun s d => redCtrl s d 0x0023 (abortBody c status)) s)
    c status

/-- Descriptors that run and meet `p` end with a status; a LAUNCH fails and ends when its strands have retired. -/
def haltWork (s : State) (p : Work → Bool) (status : Nat) : State :=
  (s.work.filter (fun w => p w && (decide (w.phase = .running) || decide (w.phase = .acks)))).foldl (fun s w =>
    if w.op = 0x0910 then
      match s.strands.launches.find? (fun l => decide (l.work = w.ref)) with
      | some l => creditLaunch s l.key 0 status {} 0
      | none => setWork s { w with phase := .done, status := status }
    else match s.red.ctxs.find? (fun c => decide (c.work = w.ref)) with
      | some c => failCtx s c status none
      | none => setWork (releaseHolds s w) { w with phase := .done, status := status, holds := [] }) s

/-- The arrays and vector units of a list of tiles lose their working state. -/
def clearTiles (s : State) (ts : List Nat) : State :=
  { s with arr := Tab.dropKeys (fun k => ts.contains k) s.arr, vec := Tab.dropKeys (fun k => ts.contains k) s.vec }

/-- Fetched descriptors of a stopped unit that have not started complete CANCELLED (R482). -/
def cancelFetched (s : State) (p : Work → Bool) : State :=
  { s with work := s.work.map (fun w =>
      if p w && decide (w.phase = .fetched) && w.req.isNone then { w with phase := .done, status := Status.cancelled } else w) }

/-- A UNIT error stops its unit (R482): a memory unit fails, and its pages are lost until the next advance gives them new
frames (R328); of any other the running descriptors end FAULT_HW, those fetched for it CANCELLED, the working state is
cleared, and a failed table loses its contents (log 40). -/
def stopUnit (s : State) (e : ErrIn) : State :=
  if e.code = 0x0203 ∧ 0x14 ≤ e.unit ∧ e.unit ≤ 0x1B then setReg s (Key.hbmState + (e.unit - 0x14)) 3
  else if e.code = 0x0203 ∧ 0x1C ≤ e.unit ∧ e.unit ≤ 0x2B then setReg s (Key.ddrState + (e.unit - 0x1C)) 5
  else
    let s := { s with err := { s.err with stopped := if s.err.stopped.contains e.unit then s.err.stopped else s.err.stopped ++ [e.unit] } }
    let s := cancelFetched (haltWork s (fun w => errUnitOf w == e.unit) Status.hw) (fun w => errUnitOf w == e.unit)
    let s := if e.unit < 0x10 then clearTiles s (tilesOf e.unit) else s
    if e.code = 0x0201 ∧ e.unit < 0x10 then { s with binds := Tab.set {} s.binds (e.subunit % 64) {} }
    else if e.code = 0x0201 ∧ 0x10 ≤ e.unit ∧ e.unit < 0x14 then
      if e.subunit = 0 then
        { s with dir := { s.dir with entries := s.dir.entries.filter (fun x => x.die != e.unit - 0x10) } }
      else (s.strands.launches.filter (fun l => l.key.odie == e.unit - 0x10)).foldl
        (fun s l => creditLaunch s l.key 0 Status.hw {} 0) s
    else if e.code = 0x0201 ∧ e.unit = 0x33 then { s with red := { s.red with relays := [] } }
    else s

/-- RETURN_TO_SERVICE: a stopped unit is reloaded (R482). -/
def execReturnToService (unit t : Nat) (s : State) : Res :=
  .next (if s.err.stopped.contains unit then
    let s := atTime s t
    markReady { s with err := { s.err with stopped := s.err.stopped.filter (· != unit) } }
  else s)

/-- Every queue behaves as if 0x01 had been written to its QUEUE_ABORT (R394, R467, R483). -/
def abortAll (s : State) : State := (List.range 64).foldl abortQueue s

/-- The start of fatal handling (R483): queues abort, running descriptors end FAULT_HW, every latch is set. -/
def startFatal (s : State) : State :=
  let s := abortAll { s with err := { s.err with fatal := true } }
  let s := { s with work := s.work.map (fun w => match w.ref, w.phase with
    | .b _, .fetched => { w with phase := .done, status := Status.cancelled }
    | _, _ => w) }
  let s := clearTiles (haltWork s (fun _ => true) Status.hw) (List.range 64)
  (List.range 64).foldl (fun s q => setReg s (Key.queueFaultLatch + 256 * q) 1) s

/-- Hardware containment (R485): ports ISOLATED, compute frozen, viral raised, ALERT_N. -/
def contain (s : State) (seq : Nat) : State :=
  let s := setReg (setReg s Key.fabState 5) Key.errContained 1
  let s := isolatePorts { s with cxl := { s.cxl with viral := true } }
  let f := reg s Key.frzState
  let s := if f = 0 then enterFreeze s 5 7 else s
  let s := if f < 2 then setReg s Key.frzEntryNs s.time else s
  alert (serveHeld (setReg s Key.frzState 4)) seq

/-! ## Error records (R475-R480) -/

/-- Severity of an error code (R477); 0 for a code the table does not list. -/
def severity (code : Nat) : Nat :=
  match code with
  | 0x0101 | 0x0102 | 0x0103 => 1
  | 0x0201 | 0x0202 | 0x0203 => 2
  | 0x0301 | 0x0302 | 0x0303 | 0x0304 | 0x0305 | 0x0306 => 3
  | _ => 0

/-- The Almanac's unit code of an error unit (R456, R475). -/
def almUnit (u : Nat) : Nat :=
  if u < 0x10 then 0x40 + u else if u < 0x14 then 0x50 + (u - 0x10) else if u < 0x1C then 0x58 + (u - 0x14)
  else if u < 0x2C then 0x60 + (u - 0x1C) else if u < 0x32 then 0x70 + (u - 0x2C) else if u < 0x35 then 0x54
  else if u = 0x35 then 0x78 else if u = 0x36 then 0x79 else if u = 0x37 then 0x7A else 0xFF

/-- The record of R478 as a number. -/
def errRecord (e : ErrIn) (sev : Nat) (contained replaced : Bool) (time seq : Nat) : Nat :=
  e.unit % 256 + sev * 2 ^ 8 + contained.toNat * 2 ^ 10 + replaced.toNat * 2 ^ 11 + e.code % 65536 * 2 ^ 16 +
  time % 2 ^ 64 * 2 ^ 32 + seq % 2 ^ 32 * 2 ^ 96 + e.addr % 2 ^ 64 * 2 ^ 128 + e.subunit % 256 * 2 ^ 192 +
  e.master % 256 * 2 ^ 200 + e.status % 65536 * 2 ^ 208 + e.tag % 2 ^ 32 * 2 ^ 224 + e.step % 2 ^ 32 * 2 ^ 256 +
  e.syndrome % 2 ^ 32 * 2 ^ 288

/-- Where an error goes (R479). -/
def placeRecord (s : State) (e : ErrIn) (sev : Nat) (rec_ : Bool → Nat) : State :=
  let k := 256 * e.unit
  let v := reg s (Key.errValid + k)
  if !bit v 0 then setReg (setReg s (Key.errFirst + k) (rec_ false)) (Key.errValid + k) (v + 1)
  else if !bit v 1 then setReg (setReg s (Key.errSubseq + k) (rec_ false)) (Key.errValid + k) (v + 2)
  else if sev = 3 ∧ bits (reg s (Key.errSubseq + k)) 8 2 < 3 then
    bump32 (setReg s (Key.errSubseq + k) (rec_ true)) (Key.errOverflow + k) 1
  else bump32 s (Key.errOverflow + k) 1

/-- An entry of the accumulator store of a tile is poisoned (R481, R487). The record does not say which: it is a free one
(log 143). -/
def poisonEntry (s : State) (tile : Nat) : State :=
  let a := Tab.get {} s.arr tile
  if a.work.isNone then s
  else
    let n := Config.freeValue s.fresh % 65536
    { s with fresh := s.fresh + 1, arr := Tab.set {} s.arr tile { a with bad := a.bad ++ [n] } }

/-- A codeword found uncorrectable is poisoned and counted (R299, R332, R333). A cluster's error that names no address is
one of the accumulator store of the tile its SUBUNIT gives (R475, R478, log 143). -/
def markPoison (s : State) (e : ErrIn) : State :=
  if e.code ≠ 0x0101 then s
  else if e.unit < 0x10 ∧ e.addr = 0 then poisonEntry s ((tilesOf e.unit).getD (e.subunit % 4) 0)
  else
    let u := unitOf e.addr
    let s := poison s e.addr
    if 64 ≤ u ∧ u < 72 then bump32 s (Key.hbmUeCount + (u - 64)) 1
    else if 72 ≤ u ∧ u < 88 then bump32 s (Key.ddrUeCount + (u - 72)) 1 else s

/-- A memory unit found and corrected an error: its report has code 0, no error record's (R299, log 119). -/
def countCorrected (s : State) (e : ErrIn) : State :=
  if e.code ≠ 0 then s
  else if 0x14 ≤ e.unit ∧ e.unit < 0x1C then bump s (Key.hbmCeCount + (e.unit - 0x14)) 1
  else if 0x1C ≤ e.unit ∧ e.unit < 0x2C then bump s (Key.ddrCeCount + (e.unit - 0x1C)) 1
  else s

/-- An IDE integrity failure ends the stream (R407): a HOST_LINK error does not say whether it is one nor of which stream,
so which streams stay active is free (log 143). -/
def endStreams (s : State) : State :=
  { setReg s Key.cxlIdeState (reg s Key.cxlIdeState &&& Config.freeValue s.fresh) with fresh := s.fresh + 1 }

/-- A unit records an error (R479), which may bring ALERT_N low (R441, R524), and its severity takes effect
(R481-R486, R489, R491); a corrected one is only counted (R299). -/
def recordError (e : ErrIn) (s : State) : State :=
  let sev := severity e.code
  if sev = 0 ∨ 57 ≤ e.unit then countCorrected s e
  else
    let seq := s.alm.next
    let b := reg s Key.bootState
    let held := decide (reg s Key.frzState = 4)
    let grave := decide (sev = 3) && !held && (s.err.fatal || !(b == 4 || b == 5 || b == 6))
    let low := alertLow s
    let s := almFull s e.master (almUnit e.unit) 0x0060 e.status e.step e.tag
      (leBytes 1 e.unit ++ leBytes 1 sev ++ leBytes 2 e.code ++ leBytes 8 e.addr ++ leBytes 1 e.subunit ++ leBytes 3 0 ++
        leBytes 4 e.syndrome)
    let s := placeRecord s e sev (fun r => errRecord e sev grave r s.time seq)
    let s := if decide (sev < 3) && !low && alertLow s then notifyFln s 2 0 0 seq else s
    let st := reg s Key.frzStatus
    let s := if sev = 3 ∧ reg s Key.frzState ≠ 0 ∧ bit st 18 = false then setReg s Key.frzStatus (st + 2 ^ 18) else s
    if held then (if sev = 1 then markPoison s e else s)
    else
      match sev with
      | 1 => markPoison s e
      | 2 => stopUnit s e
      | _ =>
        let s := if e.code = 0x0304 then endStreams s else s
        if grave then contain s seq
        else
          let s := alert (startFatal s) seq
          if reg s Key.frzOnFatal = 1 then freeze s 4 7 else s

/-- ERROR_RECORD (R479). -/
def execErrorRecord (e : ErrIn) (t : Nat) (s : State) : Res := .next (recordError e (atTime s t))

/-- A write of 1s to ERR_VALID releases records (R480) and may end fatal handling (R483). -/
def releaseErrors (s : State) (u v : Nat) : State :=
  let k := 256 * u
  let valid := reg s (Key.errValid + k)
  let first := bit v 0 && bit valid 0
  let ends := first && bits (reg s (Key.errFirst + k)) 8 2 == 3 && decide (reg s Key.frzState ≠ 4)
  let s := if first then
      (if bit valid 1 then
        setReg (setReg (setReg s (Key.errFirst + k) (reg s (Key.errSubseq + k))) (Key.errSubseq + k) 0) (Key.errValid + k) 1
      else setReg (setReg s (Key.errFirst + k) 0) (Key.errValid + k) 0)
    else s
  let s := if bit v 1 then
      (if first then
        (if bit valid 1 then setReg (setReg s (Key.errFirst + k) 0) (Key.errValid + k) 0 else s)
      else if bit valid 1 then setReg (setReg s (Key.errSubseq + k) 0) (Key.errValid + k) (valid - 2) else s)
    else s
  if ends && s.err.fatal then pump { s with err := { s.err with fatal := false } } else s

/-! ## Freezing and thawing by pin and by packet (R489, R492) -/

/-- PWR_EN was accepted low in this housekeeping cycle of 10 ns: it overrides the other inputs (R527). -/
def pwrEnWins (s : State) : Bool := !s.pwr.pwrEn && decide (s.pwr.lowAt ≠ 0) && decide (s.time < s.pwr.lowAt + 10)

/-- FREEZE_N_LOW: FREEZE_N is accepted low. -/
def execFreezeNLow (t : Nat) (s : State) : Res :=
  .next (let s := atTime s t
    if s.pwr.managed && s.pwr.freezeN then
      let s := { s with pwr := { s.pwr with freezeN := false } }
      if pwrEnWins s then s else freeze s 1 7
    else s)

end Sys2Proof.Machine
end

