-- ==== Sys2Proof/Machine/Operands.lean ====
section
/-! DEFINITION. Operand forms the engines share: rows of elements as bytes (R35-R38, R41, R110), index lists
(R224), and the reading of a row as a look-up (R240, R248, R249, R251). -/

namespace Sys2Proof.Machine
open Sys2Proof

/-! ## Rows as bytes -/

/-- A list in pieces of `n`. -/
def pieceBy {α : Type} (n : Nat) : Nat → List α → List (List α)
  | 0, _ => []
  | fuel + 1, xs => if xs.isEmpty then [] else xs.take n :: pieceBy n fuel (xs.drop n)

/-- Packs 4-bit codes two to a byte, the first in the low half (R35). -/
def nibbles : List Nat → List Byte
  | a :: b :: xs => BitVec.ofNat 8 (a % 16 + 16 * (b % 16)) :: nibbles xs
  | [a] => [BitVec.ofNat 8 (a % 16)]
  | [] => []

/-- The bytes of elements of `n` bits, 4 or a multiple of 8. -/
def packBits (n : Nat) (vs : List Nat) : List Byte := if n = 4 then nibbles vs else vs.flatMap (leBytes (n / 8))

/-- `k` elements of `n` bits from element `first` of a byte list. -/
def unpackBits (n : Nat) (bs : List Byte) (first k : Nat) : List Nat :=
  (List.range k).map (fun i =>
    if n = 4 then bits (field bs ((first + i) / 2) 1) (4 * ((first + i) % 2)) 4
    else field bs ((first + i) * (n / 8)) (n / 8))

/-- Fills a list up to `n` elements. -/
def fillTo {α : Type} (z : α) (n : Nat) (xs : List α) : List α := (xs ++ List.replicate (n - xs.length) z).take n

/-- The bytes of a block group of 32 blocks: 32 exponents, then the mantissas (R37). -/
def groupOf (f : Fmt) (bs : List (Nat × List Int)) : List Byte :=
  let bs := fillTo (0, List.replicate 32 0) 32 bs
  bs.flatMap (fun b => leBytes 1 b.1) ++ bs.flatMap (fun b => packBits f.elemBits (b.2.map (unsigned f.elemBits)))

/-- Converts a row of exact values, each with its generator word, to a format: its natural bytes (R35-R38) and
the events of its conversions (R50-R57). -/
def encRow (f : Fmt) (md : RMode) (ns : List (Num × Nat)) : List Byte × Acc :=
  if f.isBlock then
    let blocks := (pieceBy 32 ns.length ns).map (fun g => convBlock f md (fillTo (.fin false 0 0, 0) 32 g))
    let acc := blocks.foldl (fun a b => a.join b.2.2) {}
    (((pieceBy 32 blocks.length (blocks.map (fun b => (b.1, b.2.1)))).map (groupOf f)).flatten, acc)
  else
    let cs := ns.map (fun e => convScalar f md e.2 e.1)
    (packBits f.elemBits (cs.map (·.1)), cs.foldl (fun a c => a.add c.2) {})

/-- The exact values of `n` elements of a row in a format (R33-R41). -/
def decRow (f : Fmt) (T : Int) (n : Nat) (bs : List Byte) : List Num :=
  if f.isBlock then
    (List.range n).map (fun j =>
      let b := j / 32
      let g := b / 32 * f.groupBytes
      let m := (unpackBits f.elemBits (bs.drop (g + 32 + b % 32 * (4 * f.elemBits))) (j % 32) 1).headD 0
      decBlockElem f (field bs (g + b % 32) 1) m)
  else (unpackBits f.elemBits bs 0 n).map (decScalar f T)

/-! ## Index lists -/

/-- Bytes of one index. -/
def idxBytes (wide : Bool) : Nat := if wide then 8 else 4

/-- Index `i` of a list; none when it is all ones (R223). -/
def readIndex (h : Nat) (wide : Bool) (i : Nat) : Eng (Option Nat) := do
  let n := idxBytes wide
  let v ← rdNat (h + n * i) n
  pure (if v = 2 ^ (8 * n) - 1 then none else some v)

/-! ## The directory (R246-R252) -/

/-- The set of a row (R247). -/
def setOf (table row : Nat) : Nat :=
  (row * 0x9E3779B97F4A7C15 + table * 0xC2B2AE3D27D4EB4F) % 2 ^ 64 / 2 ^ 50

/-- Constants C_k of R251. -/
def sketchC : Nat → Nat
  | 0 => 0xBF58476D1CE4E5B9
  | 1 => 0xFF51AFD7ED558CCD
  | 2 => 0xA24BAED4963EE407
  | _ => 0x9FB21C651E98DF2B

/-- The counter of sketch row `k` for a row of a table (R251). -/
def sketchIx (die table row k : Nat) : Nat :=
  262144 * die + 65536 * k + (row * sketchC k + table * 0x94D049BB133111EB) % 2 ^ 64 / 2 ^ 48

/-- The estimate of a row (R251). -/
def estimate (s : State) (die table row : Nat) : Nat :=
  let c (k : Nat) : Nat := Tab.get 0 s.dir.sketch (sketchIx die table row k)
  min (min (c 0) (c 1)) (min (c 2) (c 3))

/-- Halves every counter of a shard (R251). -/
def halveSketch (s : State) (die : Nat) : State :=
  let t := s.dir.sketch.filterMap (fun e => if e.1 / 262144 = die
    then (if e.2 / 2 = 0 then none else some (e.1, e.2 / 2)) else some e)
  { s with dir := { s.dir with sketch := t, lookups := Tab.set 0 s.dir.lookups die 0 } }

/-- SKETCH_PERIOD look-ups have passed on a shard since the last halving. -/
def halvingDue (s : State) (die : Nat) : Bool := decide (reg s Key.sketchPeriod ≤ Tab.get 0 s.dir.lookups die)

/-- One query look-up that searches a shard (R251); a halving that is due comes between two look-ups. -/
def sketchHit (s : State) (die table row : Nat) : State :=
  let s := if halvingDue s die then halveSketch s die else s
  let up (t : Tab Nat) (k : Nat) : Tab Nat :=
    let i := sketchIx die table row k
    Tab.set 0 t i (min 15 (Tab.get 0 t i + 1))
  { s with dir := { s.dir with
      sketch := up (up (up (up s.dir.sketch 0) 1) 2) 3
      lookups := Tab.set 0 s.dir.lookups die (Tab.get 0 s.dir.lookups die + 1) } }

/-- The hot copy a look-up on a die may use (R248, R249). -/
def hotCopy (s : State) (die : Nat) (query : Bool) (o : Obj) (row : Nat) (v : Option Nat) : Option DirEntry :=
  s.dir.entries.find? (fun e => e.die == die && e.table == o.tableNo && e.row == o.rowNo row &&
    (decide (e.kind = .pinned) || (query && decide (e.kind = .cache))) &&
    (match v with
      | some v => verLe e.ver v
      | none => true))

/-! ## A look-up (R240, R248, R249) -/

/-- Reads bytes of a row at its home, under a version if it has one. -/
def homeRead (o : Obj) (off len : Nat) (v : Option Nat) : Eng (List Byte) :=
  match v with
  | some v => rdUnder o off len v
  | none => rdPlain o.num off len

/-- One look-up of bytes of a row: a hot copy of the look-up die, whose slice port serves it (R320), or the home location. -/
def lookRow (o : Obj) (row off len : Nat) (v : Option Nat) (bypass : Bool) : Eng (List Byte) := do
  let c ← get
  let q := c.w.qc
  if bypass then
    let bs ← homeRead o off len v
    if q then modS (fun s => bump s (Key.hrdQueryMisses + c.die) 1)
    pure bs
  else
    if q then modS (fun s => sketchHit s c.die o.tableNo (o.rowNo row))
    match hotCopy c.s c.die q o row v with
    | some e =>
      match readPhys c.s (e.addr + off % o.pitch) len with
      | some bs =>
        modS (fun s => sampleAccess (bump s ((if q then Key.hrdQueryHits else Key.hrdTrainHits) + c.die) 1) o off e.addr c.die (self s))
        pure bs
      | none => stopWith Status.poison
    | none =>
      let bs ← homeRead o off len v
      if q then
        modS (fun s => bump s (Key.hrdQueryMisses + c.die) 1)
        let s ← getS
        if o.pitch ≤ 4096 ∧ o.rowlen ≠ 0 then match locate s o (row * o.pitch) with
          | .here _ => match rowAs s o row v with
            | some (ver, data) =>
              let f : Fill := { die := c.die, obj := o.num, row := row, ver := ver, data := data }
              modS (fun s => { s with dir := { s.dir with fills := s.dir.fills ++ [f] } })
            | none => pure ()
          | _ => pure ()
      pure bs

/-- Reads a range of an object as look-ups of the rows it meets. -/
def lookRange (o : Obj) (off len : Nat) (v : Option Nat) (bypass : Bool) : Eng (List Byte) := do
  if o.rowlen = 0 then rdObj o.num off len
  else
    let parts ← mapDo (fun (p : Nat × Nat) => lookRow o (p.1 / o.pitch) p.1 p.2 v bypass)
      (pieces o.pitch (len / o.pitch + 2) off len)
    pure parts.flatten

/-- The version a descriptor reads an object under, resolved when it starts (R240). -/
def versionFor (o : Obj) (v : Nat) : Eng (Option Nat) := do
  if !o.versioned then pure none
  else
    let c ← get
    match c.w.ver with
    | some (slot, r) => if slot = o.tslot then pure (some r) else stopWith Status.version
    | none => match resolveVer c.s o v with
      | some r => do
        modify (fun c => { c with w := { c.w with ver := some (o.tslot, r) } })
        pure (some r)
      | none => stopWith Status.version

end Sys2Proof.Machine
end

