-- ==== Sys2Proof/Machine/Gather.lean ====
section
/-! DEFINITION. The gather-scatter engine (R223-R245, R250-R252): GATHER, SCATTER_ADD, SCATTER_WRITE, READOUT,
CLEAR, table versions, the pinned set and the query cache, entries at the memory-side adders. -/

namespace Sys2Proof.Machine
open Sys2Proof

/-- N of a gather-scatter descriptor. -/
def Work.gN (w : Work) : Nat := w.f 40 4
/-- Rows an object has from the offset of a handle. -/
def Obj.rowsFrom (o : Obj) (h : Nat) : Nat := if o.rowlen = 0 then 1 else o.rows - hOff h / o.pitch

/-- The rows an index list names, each with its position: those before the first index that is not below the row count, and
whether one is. A row that leaves the object stops the descriptor before any effect (R10, R225, log 153). -/
def rowList (o : Obj) (h : Nat) (wide : Bool) (n : Nat) (fits : Nat → Bool) : Eng (List (Option Nat × Nat) × Bool) := do
  let is ← mapDo (readIndex h wide) (List.range n)
  let rows := is.takeWhile (fun i => (i.map (fun r => decide (r < o.rowCount))).getD true)
  require (rows.all (fun i => (i.map fits).getD true)) Status.handle
  pure (rows.zipIdx, decide (rows.length < n))

/-- Runs an engine for each row of an index list; an index out of range stops it after the rows before it (R225). -/
def eachRow (rows : List (Option Nat × Nat) × Bool) (f : Option Nat → Nat → Eng Unit) : Eng Unit := do
  eachDo (fun (r : Option Nat × Nat) => f r.1 r.2) rows.1
  require (!rows.2) Status.index

/-- Runs an engine for 0, 1, .. n − 1. -/
def upTo (n : Nat) (f : Nat → Eng Unit) : Eng Unit := eachDo f (List.range n)

/-! ## GATHER (R223-R226) -/

/-- The body of GATHER. -/
def gatherBody : Eng Unit := do
  let c ← get
  let w := c.w
  let src := objOf c.s (hObj (w.f 16 8))
  let n := w.gN
  let col := w.f 44 4
  let colb := w.f 48 4
  let wide := bit (w.f 54 1) 0
  let pitch := pad64 colb
  require (decide (n ≠ 0) && decide (1 ≤ colb) && decide (colb ≤ 65536)) Status.shape
  require (mayName w c.s src) Status.handle
  require (decide (col + colb ≤ src.pitch)) Status.shape
  require (handleOk w c.s (w.f 24 8) (idxBytes wide * n) && handleOk w c.s (w.f 32 8) (n * pitch)) Status.handle
  require (inScratch c.s c.die (w.f 32 8) (n * pitch)) Status.tier
  require (!(overlaps (w.f 32 8) (n * pitch) (w.f 16 8) (src.size - hOff (w.f 16 8)) ||
    overlaps (w.f 32 8) (n * pitch) (w.f 24 8) (idxBytes wide * n))) Status.aliased
  let v ← versionFor src (w.f 52 2)
  let rows ← rowList src (w.f 24 8) wide n (fun r => src.spans (rowAt src (w.f 16 8) r + col) colb)
  eachRow rows (fun row i => do
    let bs ← (match row with
      | none => pure (List.replicate colb (0 : Byte))
      | some r => lookRange src (rowAt src (w.f 16 8) r + col) colb v (bit (w.f 54 1) 1))
    wrH (w.f 32 8 + i * pitch) (bs ++ List.replicate (pitch - colb) 0)
    modS (fun s => bump s (Key.gseRowsGathered + w.dsp) 1))

/-- GATHER. -/
def execGather (r : WRef) (s : State) : Res := .next (runEngine 0x0500 gatherBody r s)

/-! ## SCATTER_ADD (R234) -/

/-- Elements of an adder target before the offset of a handle, which addresses row 0 of the operation; none where the
offset is not that of a row (log 113). -/
def Obj.elemsBefore (o : Obj) (off : Nat) : Option Nat :=
  if off = 0 then some 0
  else if o.rowlen = 0 then (if off % 4 = 0 ∧ off < o.size then some (off / 4) else none)
  else if off % o.pitch = 0 ∧ off < o.size then some (off / o.pitch * o.rowElems) else none

/-- The body of SCATTER_ADD. -/
def scatterAddBody : Eng Unit := do
  let c ← get
  let w := c.w
  let dst := objOf c.s (hObj (w.f 32 8))
  let n := w.gN
  let el := w.f 44 4
  let ne := w.f 48 4
  let wide := bit (w.f 53 1) 0
  require (decide (n ≠ 0) && decide (1 ≤ ne) && decide (ne ≤ 16384)) Status.shape
  let fc := w.f 52 1 % 16
  require (fc == 4 || fc == 8 || fc == 9 || fc == 10 || (fc == 11 && windowOk (signed 16 (w.f 54 2)))) Status.format
  let f := (Fmt.ofCode fc).getD .s32
  let eb := f.elemBits / 8
  let pitch := pad64 (ne * eb)
  require (mayName w c.s dst && (dst.elemsBefore (hOff (w.f 32 8))).isSome) Status.handle
  let base := (dst.elemsBefore (hOff (w.f 32 8))).getD 0
  require (!dst.adderTarget || decide (el + ne ≤ dst.rowElems)) Status.shape
  require (handleOk w c.s (w.f 16 8) ((n - 1) * pitch + ne * eb) && handleOk w c.s (w.f 24 8) (idxBytes wide * n)) Status.handle
  require (inScratch c.s c.die (w.f 16 8) ((n - 1) * pitch + ne * eb)) Status.tier
  require (!(overlaps (w.f 16 8) (n * pitch) (w.f 32 8) (dst.size - hOff (w.f 32 8)) ||
    overlaps (w.f 16 8) (n * pitch) (w.f 24 8) (idxBytes wide * n))) Status.aliased
  require dst.adderTarget Status.stage
  require (!(dst.fmt == 4) || fc == 4) Status.format
  let rows ← rowList dst (w.f 24 8) wide n (fun r => dst.spans (dst.elemOff (base + r * dst.rowElems + el)) dst.elemBytes)
  eachRow rows (fun row i => do
    match row with
    | none => pure ()
    | some r =>
      let bs ← rdH (w.f 16 8 + i * pitch) (ne * eb)
      sendAddends dst.num f (signed 16 (w.f 54 2)) (base + r * dst.rowElems + el) (unpackBits f.elemBits bs 0 ne)
      addEvents 1
      modS (fun s => bump s (Key.gseAddendRows + w.dsp) 1))

/-- SCATTER_ADD. -/
def execScatterAdd (r : WRef) (s : State) : Res := .next (runEngine 0x0501 scatterAddBody r s)

/-! ## SCATTER_WRITE (R244) -/

/-- The body of SCATTER_WRITE. -/
def scatterWriteBody : Eng Unit := do
  let c ← get
  let w := c.w
  let dst := objOf c.s (hObj (w.f 16 8))
  let n := w.gN
  let col := w.f 44 4
  let colb := w.f 48 4
  let wide := bit (w.f 54 1) 0
  let pitch := pad64 colb
  require (decide (n ≠ 0) && decide (1 ≤ colb) && decide (colb ≤ 65536)) Status.shape
  require (mayName w c.s dst) Status.handle
  require (decide (col + colb ≤ dst.pitch)) Status.shape
  require (handleOk w c.s (w.f 32 8) ((n - 1) * pitch + colb) && handleOk w c.s (w.f 24 8) (idxBytes wide * n)) Status.handle
  require (inScratch c.s c.die (w.f 32 8) ((n - 1) * pitch + colb)) Status.tier
  require (!(overlaps (w.f 32 8) (n * pitch) (w.f 16 8) (dst.size - hOff (w.f 16 8)) ||
    overlaps (w.f 32 8) (n * pitch) (w.f 24 8) (idxBytes wide * n))) Status.aliased
  let rows ← rowList dst (w.f 24 8) wide n (fun r => dst.spans (rowAt dst (w.f 16 8) r + col) colb)
  eachRow rows (fun row i => do
    match row with
    | none => pure ()
    | some r => wrObj dst.num (rowAt dst (w.f 16 8) r + col) (← rdH (w.f 32 8 + i * pitch) colb))

/-- SCATTER_WRITE. -/
def execScatterWrite (r : WRef) (s : State) : Res := .next (runEngine 0x0502 scatterWriteBody r s)

/-! ## READOUT and CLEAR (R231, R233, R235, R236) -/

/-- A staging row is unguarded (R231): the bytes of its header. -/
def unguarded (hd : List Byte) : Bool :=
  decide (0 < field hd 4 4) && decide (127 < field hd 2 1 + 1 + clog2 (field hd 4 4))

/-- The checks READOUT and CLEAR share on the rows of a staging object, and the first of them: rows are counted from the one
the handle's offset addresses (R10, log 113). -/
def stageRows (h first n : Nat) : Eng (Obj × Nat) := do
  let c ← get
  let o := objOf c.s (hObj h)
  let base := hOff h / o.pitch
  require (decide (n ≠ 0)) Status.shape
  require (mayName c.w c.s o && decide (hOff h = base * o.pitch) && decide (base + first + n ≤ o.rowCount)) Status.handle
  pure (o, base + first)

/-- The body of READOUT. -/
def readoutBody : Eng Unit := do
  let c ← get
  let w := c.w
  let fc := w.f 40 1 % 16
  let (o, first) ← stageRows (w.f 16 8) (w.f 32 4) (w.f 36 4)
  require (decide (fc ≤ 10) && (!(o.adderTarget && o.fmt == 4) || fc == 4) && w.rnd != 3) Status.format
  let f := (Fmt.ofCode fc).getD .s32
  let nat := f.rowBytes o.rowElems
  let pitch := pad64 nat
  require (handleOk w c.s (w.f 24 8) (w.f 36 4 * pitch)) Status.handle
  require o.adderTarget Status.stage
  require (!overlaps (w.f 24 8) (w.f 36 4 * pitch) (o.num * 2 ^ 40 + first * o.pitch) (w.f 36 4 * o.pitch)) Status.aliased
  let md := (RMode.ofBits w.rnd).getD .nearest
  upTo (w.f 36 4) (fun i => do
    let row := first + i
    let bs ← rowAtomic o row (if bit (w.f 41 1) 0 then auxTake else auxRead)
    if o.fmt = 4 then wrH (w.f 24 8 + i * pitch) (fillTo 0 pitch bs)
    else
      if unguarded bs then
        addEvents 1
        modS (fun s => bump s Key.stgUnguardedRows 1)
      let vs := decRow .xa128 o.t o.rowlen (bs.drop 64)
      let s ← getS
      let word (j : Nat) : Nat := if md = .stochastic then
        genWord (reg s Key.genSeed) w.step (w.f 42 2) (row * o.rowlen + j) else 0
      let e := encRow f md ((List.range vs.length).map (fun j => (vs.getD j (.fin false 0 0), word j)))
      eventsOf e.2
      wrH (w.f 24 8 + i * pitch) (fillTo 0 pitch e.1))

/-- READOUT. -/
def execReadout (r : WRef) (s : State) : Res := .next (runEngine 0x0503 readoutBody r s)

/-- The body of CLEAR. -/
def clearBody : Eng Unit := do
  let c ← get
  let w := c.w
  let (o, first) ← stageRows (w.f 16 8) (w.f 32 4) (w.f 36 4)
  require o.adderTarget Status.stage
  upTo (w.f 36 4) (fun i => clearRow o (first + i))

/-- CLEAR. -/
def execClear (r : WRef) (s : State) : Res := .next (runEngine 0x0504 clearBody r s)

/-! ## Publishing and releasing versions (R241, R242) -/

/-- A descriptor in progress, or a write of another module that is being served, may still write a table: it names it as
a target, or is a vector program, an update, a save, a restore or an import; a PREFIX, whose graph header names the array it
writes; a FAB_PUT whose report may lie there; a matrix descriptor whose predictor words do (R178, R205, R262, R359). -/
def mayWrite (s : State) (n : Nat) (w : Work) : Bool :=
  (decide (w.phase = .running) || decide (w.phase = .acks)) &&
  ((targets w).any (fun h => hObj h == n) || w.cls == 2 || w.op == 0x0703 ||
   ((w.cls == 6 || w.op == 0x0700 || w.op == 0x0701) && (hObj (w.f 16 8) == n || hObj (w.f 24 8) == n)) ||
   (w.op == 0x0301 && (match readLocal s (objOf s (hObj (w.f 16 8))) (hOff (w.f 16 8)) 64 with
     | some bs => hObj (field bs 32 8) == n
     | none => true)) ||
   (w.op == 0x0880 && bit (w.f 38 1) 0 && hObj (w.f 48 8) == n) ||
   (w.cls == 1 && bits (w.f 60 2) 4 2 != 0 && s.binds.any (fun b => hObj b.2.l1 == n)) ||
   (w.req.isSome && w.names.head? == some n))

/-- Hot copies of a table, and copies on their way, follow the version that is now current (R248, log 114). -/
def refreshTable (s : State) (x : TableSlot) : State :=
  let o := objOf s x.obj
  let mine := (s.dir.entries.filter (fun e => decide (e.kind ≠ .reloc) && o.versioned && e.table == o.tableNo)).map (·.row) ++
    (s.dir.fills.filter (fun f => f.obj == o.num)).map (·.row)
  mine.eraseDups.foldl (fun s row => refreshCopies s o row) s

/-- The body of TABLE_PUBLISH. -/
def publishBody (r : WRef) : Eng Unit := do
  let c ← get
  let slot := c.w.f 16 2
  require (decide (slot < 256)) Status.shape
  let x := Tab.get {} c.s.slots slot
  require x.old.isNone Status.version
  if c.s.work.any (fun w => decide (w.ref ≠ r) && decide (w.order < c.w.order) && mayWrite c.s x.obj w) then throw .wait
  else
    let y : TableSlot := { obj := x.obj, cur := draftOf x, old := (if x.cur = 0 then none else some x.cur),
                           draftOpen := decide (x.cur = 0), oldIdle := c.s.time }
    modS (fun s => refreshTable { s with slots := Tab.set {} s.slots slot y } y)

/-- TABLE_PUBLISH. -/
def execTablePublish (r : WRef) (t : Nat) (s : State) : Res :=
  .next (runEngine 0x0511 (publishBody r) r (atTime s t))

/-- TABLE_RELEASE: OLD has had no reference for TBL_LINGER_US; the draft opens, and the host's writes that waited for it go
on (R239, R242). -/
def execTableRelease (slot t : Nat) (s : State) : Res :=
  let x := Tab.get {} s.slots slot
  .next (match x.old with
    | none => s
    | some v =>
      if versionRefs s slot v = 0 ∧ x.oldIdle + 1000 * reg s Key.tblLingerUs ≤ max s.time t then
        let s := atTime s t
        let s := { s with slots := Tab.set {} s.slots slot { x with old := none, draftOpen := true } }
        let o := objOf s x.obj
        serveHeld (if o.declared then setObj s { o with shadows := [] } else s)
      else s)

/-! ## The pinned set and the query cache (R250-R252) -/

/-- First address and bytes of the hot area of slice `k` of a die. -/
def hotSlice (s : State) (die k : Nat) : Nat × Nat :=
  let n := reg s Key.hotMibPerSlice * 2 ^ 20
  (sliceBase (16 * die + k) + 252 * 2 ^ 20 - n, n)

/-- Runs of the hot area in use: address and bytes. -/
def hotRuns (s : State) (die : Nat) : List (Nat × Nat) :=
  (s.dir.entries.filter (fun e => decide (e.kind ≠ .reloc) && e.die == die)).map (fun e => (e.addr, pad64 e.bytes))

/-- The lowest-addressed free run of `n` bytes of a slice's hot area. -/
def runIn (base size n : Nat) (used : List (Nat × Nat)) : Option Nat :=
  let ok (a : Nat) : Bool := decide (base ≤ a) && decide (a + n ≤ base + size) &&
    used.all (fun u => decide (a + n ≤ u.1) || decide (u.1 + u.2 ≤ a))
  (base :: used.map (fun u => u.1 + u.2)).foldl (fun b a =>
    if ok a then (match b with
      | some x => some (min a x)
      | none => some a)
    else b) none

/-- The lowest-addressed free run of `n` bytes of a die's hot area, with some runs counted as free. -/
def hotRun (s : State) (die n : Nat) (freed : List Nat) : Option Nat :=
  let used := (hotRuns s die).filter (fun u => !freed.contains u.1)
  ((List.range 16).filterMap (fun k => let h := hotSlice s die k; runIn h.1 h.2 n used)).head?

/-- The entry in a way of a set of a shard. -/
def wayOf (s : State) (die set way : Nat) : Option DirEntry :=
  s.dir.entries.find? (fun e => e.die == die && e.set == set && e.way == way)

/-- The lowest way of a range of ways with no entry. -/
def freeWay (s : State) (die set : Nat) (ways : List Nat) : Option Nat := ways.find? (fun k => (wayOf s die set k).isNone)

/-- Ways that may hold pinned entries, and ways that may hold cache entries (R247). -/
def pinWays (s : State) : List Nat := List.range (min 16 (reg s Key.hrdPinWays))
/-- Ways that may hold cache entries. -/
def cacheWays (s : State) : List Nat := rangeFrom (min 16 (reg s Key.hrdPinWays)) (16 - min 16 (reg s Key.hrdPinWays))

/-- The object and row a directory table number and row number name (R246, R309). -/
def rowNamed (s : State) (table row : Nat) : Option (Obj × Nat) :=
  let byBase : Option (Obj × Nat) :=
    (s.objs.find? (fun e => !e.2.versioned && e.2.rowlen != 0 && decide (e.2.rowBase ≤ row) &&
      decide (row < e.2.rowBase + e.2.rows))).map (fun e => (e.2, row - e.2.rowBase))
  let x := Tab.get {} s.slots table
  if x.obj ≠ 0 then (if row < (objOf s x.obj).rowCount then some (objOf s x.obj, row) else none)
  else if table = 0xFF then byBase else none

/-- The version a copy of a row is made at: the current one (R250). -/
def copyVer (s : State) (o : Obj) : Option Nat :=
  let cur := (Tab.get {} s.slots o.tslot).cur
  if o.versioned && cur != 0 then some cur else none

/-- Makes or renews the pinned copy of a row on a die; false where R250 makes no entry. -/
def pinRow (s : State) (die : Nat) (o : Obj) (row : Nat) : State × Bool :=
  let set := setOf o.tableNo (o.rowNo row)
  match rowAs s o row (copyVer s o) with
  | none => (s, false)
  | some (ver, bs) =>
    let old := s.dir.entries.find? (fun e => e.die == die && decide (e.kind = .pinned) && e.table == o.tableNo && e.row == o.rowNo row)
    match old, freeWay s die set (pinWays s), hotRun s die (pad64 o.pitch) [] with
    | some e, _, _ =>
      let s := writePhys s e.addr (fillTo 0 (pad64 o.pitch) bs)
      ({ s with dir := { s.dir with entries := s.dir.entries.map (fun x => if x = e then { x with ver := ver } else x) } }, true)
    | none, some way, some a =>
      let e : DirEntry := { die := die, set := set, way := way, kind := .pinned, table := o.tableNo, row := o.rowNo row,
                            ver := ver, addr := a, bytes := o.pitch }
      let s := writePhys s a (fillTo 0 (pad64 o.pitch) bs)
      ({ s with dir := { s.dir with entries := s.dir.entries ++ [e] } }, true)
    | none, _, _ => (s, false)

/-- The body of PIN_REFRESH. -/
def pinBody : Eng Unit := do
  let c ← get
  let w := c.w
  require (decide (w.gN ≠ 0)) Status.shape
  require (handleOk w c.s (w.f 16 8) (16 * w.gN)) Status.handle
  let es ← mapDo (fun i => rdH (w.f 16 8 + 16 * i) 16) (List.range w.gN)
  let dies := es.map (fun e => field e 10 1)
  if bit (w.f 44 1) 0 then
    modS (fun s => { s with dir := { s.dir with
      entries := s.dir.entries.filter (fun e => !(decide (e.kind = .pinned) && dies.contains e.die)) } })
  eachDo (fun e => do
    let s ← getS
    let die := field e 10 1
    match (if die < 4 then rowNamed s (field e 8 2) (field e 0 8) else none) with
    | none => addEvents 1
    | some (o, row) =>
      if 4096 < o.pitch ∨ o.rowlen = 0 then addEvents 1
      else
        modS (fun s => countRange (snoopRange s o.num (row * o.pitch) o.pitch false) false o (row * o.pitch) o.pitch)
        sampleRead o.num (row * o.pitch) o.pitch
        let r := pinRow (← getS) die o row
        modS (fun _ => r.1)
        if !r.2 then addEvents 1) es

/-- PIN_REFRESH. -/
def execPinRefresh (r : WRef) (s : State) : Res := .next (runEngine 0x0510 pinBody r s)

/-- Admits a row into a way of a shard at an address (R252). -/
def addRow (s : State) (die set way : Nat) (o : Obj) (row a ver : Nat) (bs : List Byte) : State :=
  let e : DirEntry := { die := die, set := set, way := way, kind := .cache, table := o.tableNo, row := o.rowNo row,
                        ver := ver, addr := a, bytes := o.pitch }
  let es := s.dir.entries.filter (fun x => !(x.die == die && x.set == set && x.way == way))
  bump (writePhys { s with dir := { s.dir with entries := es ++ [e] } } a (fillTo 0 (pad64 o.pitch) bs))
    (Key.hrdAdmits + die) 1

/-- The cache entry of a set with the lowest estimate, ties to the lowest way (R252). -/
def victim (s : State) (die set : Nat) : Option DirEntry :=
  (cacheWays s).foldl (fun b k => match wayOf s die set k with
    | some e => if e.kind ≠ .cache then b else (match b with
      | some x => if estimate s die e.table e.row < estimate s die x.table x.row then some e else b
      | none => some e)
    | none => b) none

/-- R252 for a row whose home read has returned. -/
def fillRow (s : State) (die : Nat) (o : Obj) (row ver : Nat) (bs : List Byte) : State :=
  let s := if halvingDue s die then halveSketch s die else s
  let set := setOf o.tableNo (o.rowNo row)
  let n := pad64 o.pitch
  let reject := bump s (Key.hrdRejects + die) 1
  if s.dir.entries.any (fun e => e.die == die && e.table == o.tableNo && e.row == o.rowNo row && decide (e.kind ≠ .reloc))
  then s
  else match freeWay s die set (cacheWays s), hotRun s die n [] with
    | some way, some a => addRow s die set way o row a ver bs
    | _, _ => match victim s die set with
      | none => reject
      | some v =>
        if estimate s die o.tableNo (o.rowNo row) ≤ estimate s die v.table v.row then reject
        else match hotRun s die n [v.addr] with
          | none => reject
          | some a => addRow s die set v.way o row a ver bs

/-- CACHE_FILL: the `i`-th fill due (R252, log 35). -/
def execCacheFill (i : Nat) (s : State) : Res :=
  .next (match s.dir.fills[i]? with
    | none => s
    | some f =>
      let s := { s with dir := { s.dir with fills := s.dir.fills.eraseIdx i } }
      let o := objOf s f.obj
      match locate s o (f.row * o.pitch) with
      | .here _ => if o.declared then fillRow s f.die o f.row f.ver f.data else s
      | _ => s)

/-- SKETCH_HALVING: SKETCH_PERIOD look-ups have passed on a shard (R251). -/
def execSketchHalving (die : Nat) (s : State) : Res :=
  .next (if die < 4 ∧ halvingDue s die = true then halveSketch s die else s)

/-! ## Entries at the adders (R229) -/

/-- ADDEND_ENTRY: the `i`-th addend on its way enters its element, or its issuer learns why not; the slot it holds is free
then (R15, R221). -/
def execAddendEntry (i : Nat) (s : State) : Res :=
  .next (match s.addends[i]? with
    | none => s
    | some x =>
      let gone (s : State) : State := { s with addends := s.addends.eraseIdx i }
      let ack (s : State) (st : Nat) (acc : Acc) : State := pump (match x.issuer with
        | some r => ackWork s r st acc
        | none => s)
      if !x.sent then s
      else match enterAddend s x with
      | .done s e => ack (gone s) 0 (({} : Acc).add e)
      | .remote c =>
        pump (postTxn (gone s) .add x.issuer x.obj ((objOf s x.obj).elemOff x.elem) (addReqPkt c x (objOf s x.obj) x.die))
      | .stop st => ack (gone s) st {}
      | .wait => s)

/-! ## PROMOTE (R256) -/

/-- The body of PROMOTE: rows in the host tier are planned, and it waits until none is left there. -/
def promoteBody : Eng Unit := do
  let c ← get
  let w := c.w
  let o := objOf c.s (hObj (w.f 16 8))
  let wide := bit (w.f 54 1) 0
  require (decide (w.gN ≠ 0)) Status.shape
  require (mayName w c.s o && handleOk w c.s (w.f 24 8) (idxBytes wide * w.gN)) Status.handle
  let rows ← rowList o (w.f 24 8) wide w.gN (fun r => o.spans (rowAt o (w.f 16 8) r) o.pitch)
  eachRow rows (fun row _ => do
    match row with
    | none => pure ()
    | some r =>
      let at_ (p : Nat × Nat) : Loc := locate c.s o p.1
      let ps := pieces 65536 (o.pitch / 65536 + 2) (rowAt o (w.f 16 8) r) o.pitch
      if ps.any (fun p => match at_ p with
        | .hostM _ => true
        | _ => false) then throw (.promote o.num (rowAt o (w.f 16 8) r / o.pitch))
      else if ps.any (fun p => match at_ p with
        | .wait => true
        | _ => false) then throw .wait
      else pure ())

/-- PROMOTE. -/
def execPromote (r : WRef) (t : Nat) (s : State) : Res := .next (runEngine 0x0512 promoteBody r (atTime s t))

end Sys2Proof.Machine
end

