-- ==== Sys2Proof/Machine/Migrate.lean ====
section
/-! DEFINITION. Hot row migration (R253-R256, R327): the placement engine moves the home of one row of at most
4,096 bytes. -/

namespace Sys2Proof.Machine
open Sys2Proof

/-! ## Locations for rows -/

/-- The memory units of a tier on a die. -/
def dieUnits (tier die : Nat) : List Nat :=
  match tier with
  | 0 => rangeFrom (16 * die) 16
  | 1 => rangeFrom (64 + 2 * die) 2
  | 2 => rangeFrom (72 + 4 * die) 4
  | _ => []

/-- Addresses of row locations in use on this module. -/
def rowSlots (s : State) : List Nat :=
  s.dir.guests.map (·.addr) ++ ((s.dir.migs.filter (fun m => m.granted && m.destCoord == self s)).map (·.destAddr)) ++
  ((s.dir.migs.filter (·.back)).map (·.oldAddr)) ++ ((s.place.grants.filter (·.isRow)).map (·.addr))

/-- A free location for a row: a 4 KiB slot of a frame that holds rows on the die's stacks, else a new frame of
them, of any stack, of a DDR5 channel (R321). -/
def rowSlot (s : State) (die : Nat) : Option Nat :=
  let used := rowSlots s
  let near := used.filter (fun a => (dieUnits 1 die).contains (unitOf a))
  let cands := near.flatMap (fun a => (List.range 16).map (fun i => a - a % 65536 + 4096 * i))
  match cands.find? (fun a => !used.contains a) with
  | some a => some a
  | none => firstFrame s (dieUnits 1 die ++ tierUnits 1 ++ tierUnits 2)

/-! ## Relocation entries (R246, R255) -/

/-- A way of a row's set for its relocation entry: that of the entry a migration of the row left RESIDENT, a free one, else
that of a cache entry, which is evicted. -/
def relocWay (s : State) (die set table row : Nat) : Option (Nat × State) :=
  let old := s.dir.entries.find? (fun e => e.die == die && e.set == set && decide (e.kind = .reloc) && e.table == table && e.row == row)
  match old, freeWay s die set (List.range 16) with
  | some e, _ => some (e.way, { s with dir := { s.dir with entries := s.dir.entries.erase e } })
  | none, some k => some (k, s)
  | none, none => (victim s die set).map (fun e => (e.way, { s with dir := { s.dir with entries := s.dir.entries.erase e } }))

/-- The lowest free delta buffer of a die (R253). -/
def freeDelta (s : State) (die : Nat) : Option Nat :=
  let used := (s.dir.entries.filter (fun e => e.die == die && decide (e.kind = .reloc) &&
    (decide (e.mstate = .copying) || decide (e.mstate = .draining)))).map (·.delta)
  if 4096 ≤ used.length then none else (List.range (used.length + 1)).find? (fun k => !used.contains k)

/-- Removes the relocation entry of a row. -/
def dropReloc (s : State) (o : Obj) (row : Nat) : State :=
  { s with dir := { s.dir with entries := s.dir.entries.filter (fun e =>
      !(decide (e.kind = .reloc) && e.table == o.tableNo && e.row == o.rowNo row)) } }

/-- Removes the hot copies of a row (R253). -/
def dropCopies (s : State) (o : Obj) (row : Nat) : State :=
  { s with dir := { s.dir with entries := s.dir.entries.filter (fun e =>
      !(decide (e.kind ≠ .reloc) && e.table == o.tableNo && e.row == o.rowNo row)) } }

/-- Removes a migration. -/
def dropMigration (s : State) (n row : Nat) : State :=
  touch { s with dir := { s.dir with migs := s.dir.migs.filter (fun m => !(m.obj == n && m.row == row)) } }

/-- Removes the plans of a row. -/
def dropPlans (s : State) (n row : Nat) : State :=
  { s with dir := { s.dir with plans := s.dir.plans.filter (fun p => !(p.obj == n && p.row == row)) } }

/-! ## Messages about rows (R350, log 34) -/

/-- Posts a PLACE message about a row. -/
def rowMsg (s : State) (op coord obj row : Nat) (body : List Byte) : State :=
  postPlace s .row coord obj row (placeHead op obj row ++ body)

/-- The tag word of a row of a versioned table and, where a version that can still be read needs it, the shadow content, as
PLACE messages of at most 2 KiB of content each (R325). -/
def sendTag (s : State) (kind : TxKind) (coord unit : Nat) (o : Obj) (row : Nat) : State :=
  let tag := Tab.get {} o.tags row
  if !o.versioned then s
  else
    let x := Tab.get {} s.slots o.tslot
    let need := !verLe tag.ver (x.old.getD x.cur)
    let sh := if need then ((o.shadows.find? (fun e => e.1 == tag.shadow)).map (·.2)).getD [] else []
    let parts := pieceBy 2048 sh.length sh
    let head (off : Nat) : List Byte :=
      placeHead 3 o.num row ++ leBytes 2 tag.ver ++ leBytes 2 tag.sver ++ leBytes 4 off ++ leBytes 4 sh.length
    if parts.isEmpty then postPlace s kind coord o.num unit (head 0)
    else (List.zip (List.range parts.length) parts).foldl (fun s p =>
      postPlace s kind coord o.num unit (head (2048 * p.1) ++ p.2)) s

/-- The tags of rows that have left, and their shadow contents, are no longer here (R325). -/
def dropTags (s : State) (n : Nat) (rows : List Nat) : State :=
  let o := objOf s n
  let gone := (o.tags.filter (fun e => rows.contains e.1)).map (fun e => e.2.shadow)
  let tags := o.tags.filter (fun e => !rows.contains e.1)
  if gone.isEmpty then s
  else setObj s { o with
    tags := tags
    shadows := o.shadows.filter (fun x => !gone.contains x.1 || tags.any (fun e => e.2.shadow == x.1)) }

/-- Messages about a row that are not yet answered. -/
def rowPending (s : State) (n row : Nat) : Bool :=
  s.fab.txns.any (fun t => decide (t.kind = .row) && t.obj == n && t.off == row)

/-! ## The commands -/

/-- Starts a planned migration (R253, R255, R256). -/
def startMigration (s : State) (p : MigPlan) (o : Obj) : State :=
  let off := p.row * o.pitch
  let die := homeDie s o off
  let set := setOf o.tableNo (o.rowNo p.row)
  let plain := dropPlans s o.num p.row
  let refused := bump plain (Key.migRefused + die) 1
  match relocWay plain die set o.tableNo (o.rowNo p.row), freeDelta s die, rowSource s o off o.pitch with
  | some (way, s1), some delta, some bs =>
    let here := p.destCoord == self s
    match (if here then rowSlot s p.destDie else some 0) with
    | none => refused
    | some dest =>
      let e : DirEntry := { die := die, set := set, way := way, kind := .reloc, mstate := .copying, table := o.tableNo,
                            row := o.rowNo p.row, coord := p.destCoord, addr := dest, bytes := o.pitch, delta := delta }
      let m : Migration := { obj := o.num, row := p.row, state := .copying, destCoord := p.destCoord, destDie := p.destDie,
                             destAddr := dest, granted := here, snapshot := bs, start := s.time, promote := p.promote
                             timeoutUs := reg s Key.migTimeoutUs, lingerUs := reg s Key.migLingerUs }
      let s1 := tellRead s1 o off o.pitch
      let s1 := { s1 with dir := { s1.dir with entries := s1.dir.entries ++ [e], migs := s1.dir.migs ++ [m] } }
      let s1 := if p.promote then s1 else bump s1 Key.plcRowMoves 1
      if here then s1
      else pump (rowMsg s1 6 p.destCoord o.num p.row (leBytes 1 p.destDie ++ leBytes 2 o.pitch))
  | some _, some _, none => bump plain (Key.migAborts + die) 1
  | _, _, _ => refused

/-- Asks the module a row has moved to for its return (R327): the row's place in its page is granted to it. -/
def startReturn (s : State) (o : Obj) (row coord : Nat) : State :=
  match locatePage s o (row * o.pitch) with
  | .here a =>
    let g : Grant := { coord := coord, obj := o.num, unit := row, isRow := true, addr := a, len := o.pitch }
    let s := { s with place := { s.place with grants := s.place.grants ++ [g] } }
    pump (rowMsg s 11 coord o.num row (leBytes 8 a))
  | _ => s

/-- MIGRATION_START: a planned migration enters COPYING (R253). -/
def execMigrationStart (obj row t : Nat) (s : State) : Res :=
  let o := objOf s obj
  .next (match s.dir.plans.find? (fun p => p.obj == obj && p.row == row) with
    | none => s
    | some p =>
      if !computing s || !o.declared || o.undeclaring.isSome || (migrationOf s obj row).isSome ||
          (rowPages o row).any (fun q => (moveOf s obj q).isSome) then s
      else
        let s := atTime s t
        if p.back then (match movedRow s o row with
          | some (c, _) => if c = self s ∨ fenced s c = true then dropPlans s obj row
              else startReturn (dropPlans s obj row) o row c
          | none => dropPlans s obj row)
        else if (movedRow s o row).isSome || fenced s p.destCoord then dropPlans s obj row
        else startMigration s p o)

/-- Messages that fold the delta buffer into a row on another module (R253). -/
def foldMsgs (s : State) (m : Migration) : State :=
  let parts := pieceBy 128 m.delta.length m.delta
  let first := postPlace s .row m.destCoord m.obj m.row (rowAddMsg m.obj m.row m.deltaN m.deltaHigh [])
  parts.foldl (fun s vs => postPlace s .row m.destCoord m.obj m.row (rowAddMsg m.obj m.row 0 0xFF vs)) first

/-- SNAPSHOT_ACK: the new location has the snapshot; the migration enters DRAINING (R253). -/
def execSnapshotAck (obj row t : Nat) (s : State) : Res :=
  .next (match migrationOf s obj row with
    | none => s
    | some m =>
      if m.state = .copying ∧ m.granted = true ∧ rowPending s obj row = false ∧ computing s = true then
        let s := setMState (setMigration (atTime s t) { m with state := .draining }) (objOf s obj) row .draining
        if m.destCoord = self s then countBytes (writePhys s m.destAddr m.snapshot) true m.destAddr m.snapshot.length
        else if m.deltaN = 0 then s else pump (foldMsgs s m)
      else s)

/-- The header of a row after a fold (R253). -/
def foldHeader (hd : List Byte) (n high : Nat) : List Byte :=
  let h := field hd 2 1
  let h' := if high = 0xFF then h else if h = 0xFF then high else max h high
  putField (putField hd 2 1 h') 4 4 (stick32 (field hd 4 4 + n))

/-- Folds delta values into a row at a physical address (R253, R332). -/
def foldRow (s : State) (xa : Bool) (a n high : Nat) (vs : List (Nat × Nat)) : State :=
  let s := vs.foldl (fun s v =>
    let w := if xa then 16 else 4
    let p := if xa then a + 64 + 16 * v.1 else a + 4 * v.1
    countBytes (countBytes (writePhys s p (leBytes w (leNat (Tab.getRange 0 s.mem.bytes p w) + v.2))) false p w) true p w) s
  if xa then countBytes (countBytes (writePhys s a (foldHeader (Tab.getRange 0 s.mem.bytes a 64) n high)) false a 64) true a 64
  else s

/-- The row's new location becomes its home (R253). -/
def commitMigration (s : State) (m : Migration) (o : Obj) : State :=
  let die := homeDie s o (m.row * o.pitch)
  let s := setMigration s { m with state := .moved, delta := [], snapshot := [], commitAt := s.time }
  let s := bump s (Key.migCommits + die) 1
  let s := if m.promote then bump s (Key.promotions + die) 1 else s
  let s := dropCopies s o m.row
  let s := setMState s o m.row .moved
  let s := if m.back then
      { s with dir := { s.dir with guests := s.dir.guests.filter (fun g => !(g.obj == m.obj && g.row == m.row)) } }
    else if m.destCoord = self s then
      { s with dir := { s.dir with guests := s.dir.guests ++ [{ obj := m.obj, row := m.row, addr := m.destAddr }] } }
    else s
  if m.destCoord = self s then s
  else pump (rowMsg (dropTags (sendTag s .row m.destCoord m.row o m.row) o.num [m.row]) (if m.back then 12 else 9) m.destCoord
    m.obj m.row [])

/-- MIGRATION_COMMIT: the delta fold is complete and the entry becomes MOVED (R253). -/
def execMigrationCommit (obj row t : Nat) (s : State) : Res :=
  .next (match migrationOf s obj row with
    | none => s
    | some m =>
      if m.state = .draining ∧ rowPending s obj row = false ∧ computing s = true then
        let s := atTime s t
        let o := objOf s obj
        let s := if m.destCoord = self s then foldRow s (o.fmt == 11) m.destAddr m.deltaN m.deltaHigh m.delta else s
        serveHeld (commitMigration s m o)
      else s)

/-- MIG_OLD_FREE: the old location is freed MIG_LINGER_US after the commit, once no access to the row is on its way (R253,
log 112). -/
def execMigOldFree (obj row t : Nat) (s : State) : Res :=
  .next (match s.dir.migs.find? (fun m => m.obj == obj && m.row == row && decide (m.state = .moved)) with
    | none => s
    | some m =>
      if m.commitAt + 1000 * m.lingerUs ≤ t ∧ rowPending s obj row = false ∧
          accessPending s obj (row * (objOf s obj).pitch) (objOf s obj).pitch = false then
        { (atTime s t) with dir := { s.dir with migs := s.dir.migs.erase m } }
      else s)

/-- MIGRATION_TIMEOUT: MIG_TIMEOUT_US since the first entry to COPYING (R254); a freeze suspends the timer (R490). -/
def execMigrationTimeout (obj row t : Nat) (s : State) : Res :=
  .next (match migrationOf s obj row with
    | none => s
    | some m =>
      if m.start + 1000 * m.timeoutUs ≤ t ∧ reg s Key.frzState = 0 then pump (abortMigration (atTime s t) m) else s)

end Sys2Proof.Machine
end

