-- ==== Sys2Proof/Machine/Strand.lean ====
section
/-! DEFINITION. Strands (R157-R173): the LAUNCH descriptor and its template chain, the creation and homing of
strands, batches and their lists, expert binning. -/

namespace Sys2Proof.Machine
open Sys2Proof

/-! ## Template chains -/

/-- A template record of 128 bytes (R159). -/
def templateRec (bs : List Byte) : TRec :=
  { desc := bs.take 64, countAt := field bs 64 1, next := field bs 65 1, bin := bit (field bs 66 1) 0,
    binCap := field bs 68 2, experts := field bs 70 2, stride := field bs 72 8, expMax := field bs 80 8 }

/-- The checks of R160 on a record at a position; a NEXT of 16..254 fails as one that does not lead forward does (log 152). -/
def templateOk (pos : Nat) (r : TRec) : Bool :=
  field r.desc 1 1 != 9 &&
  (r.next == 0xFF || (decide (pos < r.next) && decide (r.next < 16))) &&
  (r.countAt == 0 || (decide (16 ≤ r.countAt) && decide (r.countAt ≤ 60) && r.countAt % 4 == 0)) &&
  (!r.bin || (field r.desc 0 2 == 0x0103 && decide (1 ≤ r.binCap) && decide (r.binCap ≤ 512) &&
    decide (1 ≤ r.experts) && decide (r.experts ≤ 4096)))

/-- Reads and checks the reachable records of a chain from position `pos` (R160). -/
def readChain (h : Nat) : Nat → Nat → Tab (Option TRec) → Eng (Tab (Option TRec))
  | 0, _, t => pure t
  | fuel + 1, pos, t => do
    let c ← get
    require (handleAt c.w c.s h (128 * pos) 128) Status.handle
    let r := templateRec (← rdH (h + 128 * pos) 128)
    require (templateOk pos r) Status.template
    let t := Tab.set none t pos (some r)
    if r.next = 0xFF then pure t else readChain h fuel r.next t

/-! ## LAUNCH (R157, R160) -/

/-- Item list entries are U64. -/
def Work.lWide (w : Work) : Bool := bit (w.f 61 1) 0
/-- Range mode. -/
def Work.lRange (w : Work) : Bool := bit (w.f 61 1) 1
/-- KEYIDX is used. -/
def Work.lKeyIdx (w : Work) : Bool := bit (w.f 61 1) 2
/-- KEYIDX entries are U64. -/
def Work.lKeyWide (w : Work) : Bool := bit (w.f 61 1) 3
/-- ETYPE is used. -/
def Work.lTyped (w : Work) : Bool := bit (w.f 61 1) 4
/-- Bytes of an item entry. -/
def Work.lItemBytes (w : Work) : Nat := if w.lWide then 8 else 4

/-- What a LAUNCH does when it starts: the checks of its fields, the chain. -/
def launchBody : Eng (Tab (Option TRec)) := do
  let c ← get
  let w := c.w
  require (decide (w.f 56 4 ≠ 0) && decide (w.f 60 1 ≤ 24)) Status.shape
  require (handleOk w c.s (w.f 32 8) 1 && (w.lRange || handleOk w c.s (w.f 16 8) (w.lItemBytes * w.f 56 4)) &&
    (!w.lKeyIdx || handleOk w c.s (w.f 40 8) 1) && (!w.lTyped || handleOk w c.s (w.f 48 8) 1)) Status.handle
  readChain (w.f 24 8) 16 0 []

/-- The lowest free launch-table entry of a die (R160). -/
def freeEntry (s : State) (die : Nat) : Option Nat :=
  let used := (s.strands.launches.filter (fun l => l.key.odie == die && l.key.ocoord == self s)).map (·.key.entry)
  if 4096 ≤ used.length then none else (List.range (used.length + 1)).find? (fun k => !used.contains k)

/-- LAUNCH: validates the chain and takes a launch-table entry; it waits for a free one (R160). -/
def execLaunch (r : WRef) (t : Nat) (s : State) : Res :=
  let go (w : Work) (s : State) : State :=
    match freeEntry s w.die with
    | none => s
    | some e =>
      let p := if w.phase = .running then (s, w) else started s w 0
      let x := launchBody.run.run { s := p.1, w := p.2, die := w.die }
      match x.1 with
      | .ok chain =>
        let l : Launch := { key := { odie := w.die, ocoord := self s, entry := e }, work := r, cluster := w.dsp % 4,
                            query := w.qc, desc := w.desc, chain := chain, n := w.f 56 4 }
        setWork { x.2.s with strands := { x.2.s.strands with launches := x.2.s.strands.launches ++ [l] } }
          { x.2.w with rbuf := [] }
      | .error e => settle p.1 p.2 (.error e) x.2
  .next (match findWork s r with
    | none => s
    | some w =>
      if w.op = 0x0910 ∧ w.phase = .running ∧ computing s = true then
        (if s.strands.launches.any (fun l => decide (l.work = r)) then s else go w (atTime s t))
      else runControl 0x0910 go r (atTime s t))

/-! ## Creating and homing strands (R158, R167, R168) -/

/-- Entry `i` of a list of values of `n` bytes. -/
def listEntry (h n i : Nat) : Eng Nat := do
  let c ← get
  require (handleAt c.w c.s h (n * i) n) Status.handle
  rdNat (h + n * i) n

/-- Strand `q` of a launch: item, placement key, edge type (R158). -/
def formStrand (w : Work) (q : Nat) : Eng (Nat × Nat × Nat) := do
  let item ← if w.lRange then pure q else listEntry (w.f 16 8) w.lItemBytes q
  let idx ← if w.lKeyIdx then listEntry (w.f 40 8) (if w.lKeyWide then 8 else 4) item else pure item
  let key := w.f 32 8 + idx * 2 ^ w.f 60 1
  let c ← get
  require (handleAt w c.s (w.f 32 8) (idx * 2 ^ w.f 60 1) 1) Status.handle
  if w.lTyped then
    let e ← listEntry (w.f 48 8) 2 item
    pure (item, key, e)
  else pure (item, key, 0)

/-- Where a strand runs (R30): module and die; a key in the host tier stays on its origin die (log 31). -/
inductive Homed where
  | on (die : Nat)
  | away (coord : Nat)
  | stop (status : Nat)
  | wait
  deriving DecidableEq, Repr

/-- The home of a placement key. -/
def homeOf (s : State) (key origin : Nat) : Homed :=
  match locate s (objOf s (hObj key)) (hOff key) with
  | .here a => .on (unitDie (unitOf a))
  | .hostM _ => .on origin
  | .remote c => .away c
  | .stop st => .stop st
  | .wait => .wait

/-- The strand record of R165. -/
def strandRec (x : Strand) (state : Nat) : List Byte :=
  leBytes 8 x.item ++ leBytes 8 x.key ++ leBytes 4 x.seq ++
  leBytes 12 (x.launch.entry % 65536 + x.etype % 65536 * 2 ^ 16 + x.pos % 16 * 2 ^ 32 + x.query.toNat * 2 ^ 36 +
    state % 8 * 2 ^ 37 + x.launch.odie % 4 * 2 ^ 40 + x.launch.ocoord % 4096 * 2 ^ 42)

/-- The first strand a launch sends to a die or module is preceded by a copy of its chain (R167). -/
def sendChain (s : State) (l : Launch) (coord die : Nat) : State :=
  let key := (coord, if coord = self s then die else 0)
  if l.sentTo.contains key then s
  else
    let s := setLaunch s { l with sentTo := l.sentTo ++ [key] }
    if coord = self s then
      { s with strands := { s.strands with copies := s.strands.copies ++
        [{ key := l.key, die := die, cluster := l.cluster, query := l.query, chain := l.chain }] } }
    else postChain s l coord l.chain

/-- A strand message to the module of its home (R30, R353). -/
def sendStrand (s : State) (x : Strand) : State :=
  let body := strandRec x 1
  postTxn s .strand none x.launch.entry x.seq
    { ty := 0x07, dst := x.targetCoord, aux := 1, len := body.length, payload := body, sdie := x.die, qc := x.query }

/-- Adds a created strand to the pool, homes it, forwards it (R30, R31, R167); one that has no home retires with the
status, which ends its launch (R164). -/
def homeStrand (s : State) (l : Launch) (x : Strand) (h : Homed) (t : Nat) : State :=
  let put (s : State) (x : Strand) : State := { s with strands := { s.strands with pool := s.strands.pool ++ [x] } }
  let bad (s : State) (ok : Bool) : State := if ok then s else wakeForward (report s l.key 0 Status.template {} 0)
  match h with
  | .on d =>
    if d = l.key.odie then
      let y := enterPos s x 0 t
      bad (put s y.1) y.2
    else
      let s := put (sendChain s l (self s) d) { x with state := .forward, targetCoord := self s, targetDie := d }
      pumpForward t s.strands.pool.length s
  | .away c =>
    let x := { x with state := .forward, targetCoord := c }
    let s := bump (put (sendChain s l c 0) x) (Key.dspStrandsForwarded + l.key.odie) 1
    pump (sendStrand s x)
  | .stop st => wakeForward (report s l.key 1 st {} 0)
  | .wait => s

/-- The launch's die may create a strand (R168). -/
def mayCreate (s : State) (l : Launch) : Bool :=
  let reserve := reg s Key.dspFwdReserve + (if l.query then 0 else reg s Key.dspQueryReserve)
  decide (l.nextSeq < l.n) && l.failure.isNone && decide (reserve < freeSlots s l.key.odie)

/-- STRAND_CREATE: the next strand of a launch, in ascending SEQ (R158, R168). -/
def execStrandCreate (die entry t : Nat) (s : State) : Res :=
  .next (match launchOf s { odie := die, ocoord := self s, entry := entry } with
  | none => s
  | some l => match findWork s l.work with
    | none => s
    | some w =>
      if mayCreate s l && computing s then
        let s := atTime s t
        let x := (formStrand w l.nextSeq).run.run { s := s, w := w, die := die }
        match x.1 with
        | .ok (item, key, e) =>
          let s := setWork x.2.s { x.2.w with rbuf := [] }
          let h := homeOf s key die
          match h with
          | .wait => s
          | _ =>
            let l := { l with nextSeq := l.nextSeq + 1 }
            let y : Strand := { die := die, item := item, key := key, seq := l.nextSeq - 1, launch := l.key, etype := e,
                                pos := 0, query := l.query, state := .ready, since := s.time }
            markReady (homeStrand (setLaunch s l) l y h s.time)
        | .error (.status st) => wakeForward (report s l.key 0 st {} 0)
        | .error e => settle s w (.error e) x.2
      else s)

/-! ## Batches (R161, R171) -/

/-- Byte offsets of the handle fields of an opcode's descriptor. -/
def handleFields (op : Nat) : List Nat :=
  match op with
  | 0x0100 | 0x0101 | 0x0102 | 0x0103 => [16, 24, 32, 40]
  | 0x0200 | 0x0201 => [16, 24]
  | 0x0300 => [16, 24, 32]
  | 0x0301 => [16]
  | 0x0302 => [16, 24, 32, 48]
  | 0x0400 => [16, 24, 32, 40]
  | 0x0401 | 0x0402 => [16, 24, 32, 40]
  | 0x0500 | 0x0501 | 0x0502 => [16, 24, 32]
  | 0x0503 => [16, 24]
  | 0x0504 | 0x0510 => [16]
  | 0x0512 => [16, 24]
  | 0x0600 | 0x0602 => [16, 24, 32, 48]
  | 0x0601 => [16, 24, 32, 40, 48]
  | 0x0700 | 0x0701 => [16, 24]
  | 0x0702 | 0x0703 | 0x0800 | 0x0881 | 0x0A03 | 0x0A04 => [16]
  | 0x0880 => [16, 24, 48]
  | 0x0A02 => [24]
  | _ => []

/-- First module physical address of a die's dispatch area on slice `k` of it (R166). -/
def dispatchBase (die k : Nat) : Nat := sliceBase (16 * die + k) + 252 * 2 ^ 20

/-- Bytes of a die's dispatch area. -/
def dispatchBytes : Nat := 16 * 2 ^ 21

/-- The object through which a die's dispatch area is reached, declared when it is not (log 30): the highest
object number not in use. -/
def areaObj (s : State) (die : Nat) : Nat × State :=
  let n := Tab.get 0 s.strands.areas die
  if n ≠ 0 then (n, s)
  else
    let n := ((List.range (s.objs.length + 1)).map (fun k => 0xFFFFFF - k)).find? (fun k => !(objOf s k).declared)
    let n := n.getD 1
    let o : Obj := {
      num := n, fmt := 3, rows := dispatchBytes, die := die
      pages := (List.range 512).map (fun p => { page := p, home := .frame (dispatchBase die (p / 32) + p % 32 * 65536) }) }
    (n, { (setObj s o) with strands := { s.strands with areas := Tab.set 0 s.strands.areas die n } })

/-- Room for `n` bytes in a die's dispatch area: the lowest offset, a multiple of 64. -/
def listRoom (s : State) (die n : Nat) : Option Nat :=
  let mine := s.strands.lists.filter (fun x => x.die == die)
  let fits (o : Nat) : Bool := decide (o + n ≤ dispatchBytes) &&
    mine.all (fun x => decide (o + n ≤ x.off) || decide (x.off + x.len ≤ o))
  (0 :: mine.map (fun x => pad64 (x.off + x.len))).foldl (fun b o =>
    if fits o then (match b with
      | some p => some (min o p)
      | none => some o)
    else b) none

/-- Writes a list of a batch into the dispatch area and answers its handle; none where there is no room. -/
def putList (s : State) (die batch : Nat) (bs : List Byte) : Option (Nat × State) :=
  match listRoom s die bs.length with
  | none => none
  | some o =>
    let a := areaObj s die
    let s := writeLocal a.2 (objOf a.2 a.1) o bs
    some (a.1 * 2 ^ 40 + o, { s with strands := { s.strands with
      lists := s.strands.lists ++ [{ batch := batch, die := die, off := o, len := bs.length }] } })

/-- The batch list of strands in ascending SEQ (R161). -/
def batchList (xs : List Strand) : List Byte :=
  leBytes 64 xs.length ++ xs.flatMap (fun x => leBytes 8 x.item ++ leBytes 4 x.seq ++ leBytes 2 x.etype ++ leBytes 2 0)

/-- The bin list of an expert's strands (R173). -/
def binList (r : TRec) (e : Nat) (xs : List Strand) : List Byte :=
  leBytes 4 e ++ leBytes 4 xs.length ++ leBytes 8 r.stride ++ leBytes 8 r.expMax ++ List.replicate 40 0 ++
  xs.flatMap (fun x => leBytes 4 x.seq)

/-- Inserts a strand by SEQ. -/
def insertSeq (x : Strand) : List Strand → List Strand
  | [] => [x]
  | y :: ys => if x.seq < y.seq then x :: y :: ys else y :: insertSeq x ys

/-- Strands in ascending SEQ. -/
def bySeq (xs : List Strand) : List Strand := xs.foldl (fun a x => insertSeq x a) []

/-- The template's descriptor for a batch (R161): handles of OBJECT 0 replaced, count written, DEPS 0. -/
def instantiate (r : TRec) (list : Nat) (bin : Option Nat) (n : Nat) : List Byte :=
  let d := (handleFields (field r.desc 0 2)).foldl (fun d o =>
    if hObj (field d o 8) = 0 then putField d o 8 (list + field d o 8) else d) r.desc
  let d := match bin with
    | some h => putField d 40 8 h
    | none => d
  let d := if r.countAt = 0 then d else putField d r.countAt 4 n
  putField d 14 2 0

/-- Cluster and class of a launch on a die of this module (R167). -/
def launchInfo (s : State) (k : LKey) (die : Nat) : Nat × Bool :=
  if k.ocoord = self s ∧ k.odie = die then ((launchOf s k).map (fun l => (l.cluster, l.query))).getD (0, false)
  else ((s.strands.copies.find? (fun c => decide (c.key = k) && c.die == die)).map (fun c => (c.cluster, c.query))).getD (0, false)

/-- Instantiates a batch of strands at a position; with `bin`, a bin of that expert (R161, R173). -/
def issueBatch (s : State) (die : Nat) (k : LKey) (pos : Nat) (r : TRec) (xs : List Strand) (bin : Option Nat)
    (spill : Bool) : Option State :=
  let xs := bySeq xs
  let id := s.strands.nextBatch
  match putList s die id (batchList xs) with
  | none => none
  | some (h, s) =>
    let withBin : Option (Option Nat × State) := match bin with
      | none => some (none, s)
      | some e => (putList s die id (binList r e xs)).map (fun p => (some p.1, p.2))
    match withBin with
    | none => none
    | some (b, s) =>
      let seqs := xs.map (·.seq)
      let w : Work := {
        ref := .b id, desc := instantiate r h b xs.length
        batch := some { launch := k, pos := pos, die := die, cluster := (launchInfo s k die).1, seqs := seqs,
                        spill := spill, query := (launchInfo s k die).2 } }
      let taken (x : Strand) : Bool := decide (x.launch = k) && x.die == die && x.pos == pos && seqs.contains x.seq &&
        decide (x.state ≠ .forward)
      some { s with
        work := s.work ++ [w]
        strands := { s.strands with
          nextBatch := id + 1
          pool := s.strands.pool.map (fun x => if taken x then { x with state := .issued, batch := id } else x) } }

/-- Strands of a launch that wait at a position of a die. -/
def waitingAt (s : State) (die : Nat) (k : LKey) (pos : Nat) (st : SState) : List Strand :=
  s.strands.pool.filter (fun x => decide (x.launch = k) && x.die == die && x.pos == pos && decide (x.state = st))

/-- No strand of the launch remains at an earlier position on the die; strands its origin die has yet to create
count as such there (R171, R172, log 33). -/
def exhausted (s : State) (die : Nat) (k : LKey) (pos : Nat) : Bool :=
  s.strands.pool.all (fun x => !(decide (x.launch = k) && x.die == die && decide (x.pos < pos) && decide (x.state ≠ .forward))) &&
  (match launchOf s k with
    | some l => l.key.odie != die || decide (l.n ≤ l.nextSeq)
    | none => true)

/-- `n` cycles of 2.1 GHz have passed since a time in nanoseconds (R512). -/
def cyclesPassed (since now n : Nat) : Bool := decide (10 * n ≤ 21 * (now - since))

/-- The strand of a list that has waited longest became ready at this time. -/
def oldestSince (xs : List Strand) : Nat := xs.foldl (fun m x => min m x.since) (2 ^ 64)

/-- The launch issues further batches on this die (R164). -/
def issues (s : State) (k : LKey) (die : Nat) : Bool :=
  computing s && (match launchOf s k with
    | some l => l.failure.isNone
    | none => s.strands.copies.any (fun c => decide (c.key = k) && c.die == die && !c.failed))

/-- BATCH_DUE: a batch that is due is instantiated (R161, R171). -/
def execBatchDue (die : Nat) (k : LKey) (pos t : Nat) (s : State) : Res :=
  .next (match recordAt s k die pos with
  | none => s
  | some r =>
    let xs := (waitingAt s die k pos .ready).take 512
    let wait := reg s (if (launchInfo s k die).2 then Key.dspQueryBatchWait else Key.dspBatchWait)
    let due := decide (xs.length = 512) || cyclesPassed (oldestSince xs) (max s.time t) wait || exhausted s die k pos
    if !xs.isEmpty && due && !r.bin && issues s k die then
      ((issueBatch (atTime s t) die k pos r xs none false).map markReady).getD s
    else s)

/-! ## Expert binning (R172, R173) -/

/-- A list cut into lists of `n`. -/
def cutBy {α : Type} (n : Nat) : Nat → List α → List (List α)
  | 0, _ => []
  | fuel + 1, xs => if xs.isEmpty then [] else xs.take n :: cutBy n fuel (xs.drop n)

/-- Issues bins of one expert each in order. -/
def issueBins (die : Nat) (k : LKey) (pos : Nat) (r : TRec) (spill : Bool) : List (Nat × List Strand) → State → Option State
  | [], s => some s
  | (e, xs) :: bs, s => match issueBatch s die k pos r xs (some e) spill with
    | none => none
    | some s => issueBins die k pos r spill bs s

/-- BIN_ROUND_CLOSE: primary bins in ascending expert, then spill batches (R172). -/
def execBinRoundClose (die : Nat) (k : LKey) (pos t : Nat) (s : State) : Res :=
  .next (match recordAt s k die pos with
  | none => s
  | some r =>
    let xs := waitingAt s die k pos .binned
    let due := decide (reg s Key.dspBinRound ≤ xs.length) ||
      cyclesPassed (oldestSince xs) (max s.time t) (reg s Key.dspBinWait) || exhausted s die k pos
    if !xs.isEmpty && due && r.bin && issues s k die then
      let byType := (List.range r.experts).map (fun e => (e, bySeq (xs.filter (fun x => x.etype == e))))
      let prim := (byType.map (fun p => (p.1, p.2.take r.binCap))).filter (fun p => !p.2.isEmpty)
      let spill := byType.flatMap (fun p => (cutBy r.binCap p.2.length (p.2.drop r.binCap)).map (fun b => (p.1, b)))
      match (issueBins die k pos r false prim (atTime s t)).bind (issueBins die k pos r true spill) with
      | none => s
      | some s =>
        let s := bump s (Key.dspSpillBatches + die) spill.length
        markReady (if spill.isEmpty then s else report s k 0 0 {} spill.length)
    else s)

end Sys2Proof.Machine
end

