-- ==== Sys2Proof/Machine/Place.lean ====
section
/-! DEFINITION. The placement engine's descriptors (R302-R321, R327-R329): DECLARE, UNDECLARE, RESIDE, RELEASE,
EPOCH_ADVANCE. -/

namespace Sys2Proof.Machine
open Sys2Proof

/-! ## Running a descriptor that waits in stages -/

/-- The command of an engine on a descriptor whose effects come in stages: `go` finds it running and either decides
its result or leaves it running. -/
def runStaged (op : Nat) (go : Work → State → State) (r : WRef) (s : State) : State :=
  match findWork s r with
  | none => s
  | some w =>
    if w.op ≠ op ∨ computing s = false then s
    else match w.phase with
      | .running => go w s
      | .fetched =>
        if startable s w && !cancelled s w then
          let st := headerStatus s w
          if st ≠ 0 then setWork s { w with phase := .done, status := st }
          else
            let s := markReady s
            match issue s w with
            | none => s
            | some s =>
              let p := started s w 0
              go p.2 p.1
        else s
      | _ => s

/-! ## Where a page goes (R297, R308) -/

/-- TIER hint. -/
def Obj.hintTier (o : Obj) : Nat := bits o.hints 0 3
/-- DIE hint. -/
def Obj.hintDie (o : Obj) : Nat := bits o.hints 3 3

/-- The units of a tier in the order R297 searches them from its chosen unit: modulo the die's units first, then
over the module. -/
def unitOrder (tier first : Nat) : List Nat :=
  let m := if tier = 1 then 2 else 4
  let all := if tier = 1 then 8 else 16
  let base := if tier = 1 then 64 else 72
  let b := first - first % m
  ((List.range m).map (fun i => base + b + (first % m + i) % m)) ++
  ((List.range all).map (fun i => base + (first + i) % all))

/-- The unit of a list with the most free frames, ties to the first. -/
def mostFree (s : State) (us : List Nat) : Option Nat :=
  us.foldl (fun b u => match b with
    | none => some u
    | some v => if freeCount s v < freeCount s u then some u else b) none

/-- The first unit R297 names in a tier for page sequence `q` (log 36: the die of an automatic hint). -/
def firstUnit (s : State) (o : Obj) (tier q : Nat) (die : Option Nat) : Nat :=
  let m := if tier = 1 then 2 else 4
  let all := if tier = 1 then 8 else 16
  let base := if tier = 1 then 64 else 72
  match die with
  | some d => m * d + q % m
  | none =>
    let h := o.hintDie
    if h < 4 then m * h + q % m
    else if h = 4 then (q + o.num) % all
    else (mostFree s (dieUnits tier o.die)).getD base - base

/-- The slices of the scratchpad in the order R308 searches them. -/
def sliceOrder (o : Obj) (q : Nat) : List Nat :=
  let h := o.hintDie
  let k := if h = 4 then (q + o.num) / 4 % 16 else q % 16
  let d := if h < 4 then h else if h = 4 then (q + o.num) % 4 else o.die
  (List.range 4).flatMap (fun i => (List.range 16).map (fun j => 16 * ((d + i) % 4) + (k + j) % 16))

/-- A frame of a tier for page sequence `q` of an object. -/
def tierFrame (s : State) (o : Obj) (tier q : Nat) (die : Option Nat) : Option Nat :=
  if tier = 0 then firstFrame s (sliceOrder o q) else firstFrame s (unitOrder tier (firstUnit s o tier q die))

/-- The tiers a role's pages take, in order (R308). -/
def roleTiers (o : Obj) : List Nat :=
  let base := if o.role = 0 ∨ o.role = 1 ∨ o.role = 7 then [0, 1, 2] else [1, 2]
  if o.hintTier = 0 then base else (o.hintTier - 1) :: base.filter (fun t => t != o.hintTier - 1)

/-- A frame of the first tier of a list that has one. -/
def anyFrame (s : State) (o : Obj) (q : Nat) (die : Option Nat) : List Nat → Option Nat
  | [] => none
  | t :: ts => match tierFrame s o t q die with
    | some a => some a
    | none => anyFrame s o q die ts

/-- Pages of an object. -/
def Obj.pageCount (o : Obj) : Nat := cdiv o.size 65536

/-- The pages an object has on this module (R308, R313). -/
def localPages (s : State) (o : Obj) : List Nat :=
  (List.range o.pageCount).filter (fun p => o.scope == 0 || homeWord s s.place.home (homeEntry o p) == self s)

/-- Allocates pages in ascending order, the sequence numbers from `q` (R308, R316); none when a frame is missing. -/
def allocPages (s : State) (o : Obj) : Nat → List Nat → Option Obj
  | _, [] => some o
  | q, p :: ps =>
    if o.backing = 1 then
      allocPages s { o with pages := o.pages ++ [{ page := p, home := .host (o.hostAddr + p * 65536) }] } (q + 1) ps
    else match anyFrame (setObj s o) o (if o.scope = 0 then p else q) none (roleTiers o) with
      | none => none
      | some a => allocPages s { o with pages := o.pages ++ [{ page := p, home := .frame a }] } (q + 1) ps

/-- The lowest row base of a free range of `n` row numbers (R309). -/
def rowBaseFor (s : State) (n : Nat) : Option Nat :=
  let used := (s.objs.filter (fun e => !e.2.versioned && e.2.rowlen != 0)).map (fun e => (e.2.rowBase, e.2.rows))
  runIn 0 (2 ^ 40) n used

/-! ## DECLARE (R303-R309) -/

/-- The object record a DECLARE names. -/
def declObj (w : Work) : Obj :=
  { num := w.f 16 3, stamp := 2 ^ 64 * w.order, fmt := w.f 19 1 % 16, role := w.f 20 1, tslot := w.f 21 1, t := signed 16 (w.f 22 2),
    rowlen := w.f 24 4, shadow := w.f 28 4, rows := w.f 32 8, hints := w.f 40 4, scope := w.f 44 1,
    stripe := w.f 45 1, backing := w.f 46 1, hostAddr := w.f 48 8, die := w.die }

/-- Checks 1 to 4 of R307: the first status, 0 when none fails. -/
def declCheck (s : State) (w : Work) (o : Obj) : Nat :=
  let xa := o.fmt == 11
  if o.fmt ≤ 11 && (o.size == 0 || decide (2 ^ 40 < o.size) || (xa && (o.rowlen == 0 || decide (16384 < o.rowlen)))) then
    Status.shape
  else if decide (11 < o.fmt) || (xa && !(decide (-4096 ≤ o.t) && decide (o.t ≤ 4095))) then Status.format
  else if o.num == 0 || (objOf s o.num).declared || decide (8 < o.role) || decide (3 < o.hintTier) ||
      o.hintDie == 5 || o.hintDie == 6 ||
      ((xa || o.fmt == 4) && !(o.role == 0 || o.role == 3)) ||
      (o.rowlen == 0 && !(o.role == 0 || o.role == 1 || o.role == 7)) ||
      decide (1 < o.backing) || (o.backing == 1 && (o.role == 0 || o.role == 3 || o.role == 4 || o.role == 8)) ||
      decide (1 < o.scope) || (o.scope == 1 && o.role == 8) || decide (12 < o.stripe) ||
      (o.versioned && (Tab.get {} s.slots o.tslot).obj != 0) then Status.declare
  else if w.qc && !(o.role == 6 || o.role == 1 || o.role == 0) then Status.cls
  else 0

/-- DECLARE when it runs. -/
def goDeclare (w : Work) (s : State) : State :=
  let o := declObj w
  let fin (s : State) (st : Nat) : State := setWork s { w with phase := .done, status := st }
  if isArea s o.num && decide (o.num ≠ 0) then setWork s w
  else
    let st := declCheck s w o
    if st ≠ 0 then fin s st
    else
      let base := if o.versioned || o.rowlen == 0 then some 0 else rowBaseFor s o.rows
      match base, allocPages s o 0 (localPages s o) with
      | some b, some o =>
        let s := setObj s { o with rowBase := b }
        let s := if o.versioned then { s with slots := Tab.set {} s.slots o.tslot { obj := o.num } } else s
        fin s 0
      | _, _ => fin s Status.capacity

/-- DECLARE. -/
def execDeclare (r : WRef) (s : State) : Res := .next (runStaged 0x0A00 goDeclare r s)

/-! ## UNDECLARE (R310) -/

/-- The list of a CKPT_EXPORT names an object (R285); one that cannot be read here may name every object (log 117). -/
def ckptNames (s : State) (n : Nat) (w : Work) : Bool :=
  w.op == 0x0702 && (match readLocal s (objOf s (hObj (w.f 16 8))) (hOff (w.f 16 8)) (4 * w.f 32 4) with
    | some bs => (List.range (w.f 32 4)).any (fun i => field bs (4 * i) 4 == n)
    | none => true)

/-- A descriptor in progress names an object: a handle field of it, an object of its list, or a base register of its
vector unit; a CKPT_IMPORT may name every object (log 117). -/
def namesObj (s : State) (n : Nat) (w : Work) : Bool :=
  w.engaged &&
  (w.op == 0x0703 || ckptNames s n w ||
   (handleFields w.op ++ (if w.op = 0x0910 then [16, 24, 32, 40, 48] else [])).any (fun o => hObj (w.f o 8) == n) ||
   (w.cls == 2 && s.vec.any (fun e => decide (e.2.work = some w.ref) && e.2.base.any (fun b => hObj b.2.toNat == n))))

/-- Removes every trace of an object (R310). -/
def freeObj (s : State) (o : Obj) : State :=
  let mine (e : DirEntry) : Bool := e.table == o.tableNo &&
    (o.versioned || (o.rowlen != 0 && decide (o.rowBase ≤ e.row) && decide (e.row < o.rowBase + o.rows)))
  { s with
    objs := Tab.set {} s.objs o.num {}
    slots := if o.versioned then Tab.set {} s.slots o.tslot {} else s.slots
    dir := { s.dir with
      entries := s.dir.entries.filter (fun e => !mine e)
      fills := s.dir.fills.filter (fun f => f.obj != o.num)
      migs := s.dir.migs.filter (fun m => m.obj != o.num)
      plans := s.dir.plans.filter (fun p => p.obj != o.num)
      guests := s.dir.guests.filter (fun g => g.obj != o.num) }
    place := { s.place with
      moves := s.place.moves.filter (fun m => m.obj != o.num)
      samples := s.place.samples.filter (fun x => x.obj != o.num)
      grants := s.place.grants.filter (fun g => g.obj != o.num) } }

/-- UNDECLARE when it runs: it waits for the descriptors that name the object, for its moves, those that come in included, and
until no aperture is bound to it (R310, R402). -/
def goUndeclare (w : Work) (s : State) : State :=
  let n := w.f 16 3
  let o := objOf s n
  let fin (s : State) (st : Nat) : State := setWork s { w with phase := .done, status := st }
  if !o.declared || isArea s n then fin s Status.declare
  else
    let s := setObj s { o with undeclaring := some w.order }
    let busy := s.work.any (fun v => decide (v.order < w.order) && namesObj s n v) ||
      s.place.moves.any (fun m => m.obj == n && decide (m.state = .copying ∨ m.state = .draining)) ||
      s.dir.migs.any (fun m => m.obj == n && decide (m.state ≠ .moved)) || s.place.grants.any (fun g => g.obj == n) ||
      s.addends.any (fun x => x.obj == n) || s.cxl.apts.any (fun e => decide (e.2.state ≠ .unbound) && e.2.obj == n)
    if busy then setWork s w else fin (freeObj s o) 0

/-- UNDECLARE. -/
def execUndeclare (r : WRef) (s : State) : Res := .next (runStaged 0x0A01 goUndeclare r s)

/-! ## RESIDE and RELEASE (R311, R312) -/

/-- The pages a range of an object meets. -/
def pagesOf (h len : Nat) : List Nat :=
  rangeFrom (hOff h / 65536) ((hOff h + len - 1) / 65536 + 1 - hOff h / 65536)

/-- Slice order of R311. -/
def resideOrder (die tile : Nat) : List Nat :=
  (List.range 16).map (fun i => 16 * die + (if tile = 0xFF then i else (tile + i) % 16))

/-- The page lies in a slice of the die. -/
def onDie (die : Nat) (r : PageRec) : Bool := match r.home with
  | .frame a => tierOf a == 0 && unitDie (unitOf a) == die
  | _ => false

/-- A page with a move that is planned or in progress. -/
def movingPage (s : State) (n p : Nat) : Bool :=
  s.place.moves.any (fun m => m.obj == n && m.page == p && decide (m.state ≠ .moved))

/-- Sets the hold of pages of an object. -/
def holdPages (o : Obj) (ps : List Nat) (b : Bool) : Obj :=
  { o with pages := o.pages.map (fun r => if ps.contains r.page then { r with held := b } else r) }

/-- Unheld pages of other objects in a slice: frame, object, page. -/
def evictable (s : State) (n unit : Nat) : List (Nat × Nat × Nat) :=
  s.objs.flatMap (fun e => if e.1 = n ∨ isArea s e.1 = true then [] else e.2.pages.filterMap (fun r => match r.home with
    | .frame a => if unitOf a = unit ∧ tierOf a = 0 ∧ r.held = false ∧ movingPage s e.1 r.page = false
        then some (a, e.1, r.page) else none
    | _ => none))

/-- The lowest-addressed of a list of victims. -/
def lowestVictim : List (Nat × Nat × Nat) → Option (Nat × Nat × Nat)
  | [] => none
  | v :: vs => match lowestVictim vs with
    | none => some v
    | some u => if u.1 < v.1 then some u else some v

/-- Where an evicted page goes (R311). -/
def evictFrame (s : State) (die : Nat) : Option Nat :=
  let best (us : List Nat) : Option Nat := (mostFree s (us.filter (fun u => decide (0 < freeCount s u)))).bind (freeFrame s)
  match best (dieUnits 1 die) with
  | some a => some a
  | none => match best (dieUnits 2 die) with
    | some a => some a
    | none => firstFrame s (tierUnits 1 ++ tierUnits 2)

/-- Adds a planned move. -/
def addMove (s : State) (m : Move) : State := { s with place := { s.place with moves := s.place.moves ++ [m] } }

/-- Plans the move of one page of a RESIDE, with an eviction where no frame is free; none where it cannot be. -/
def residePage (s : State) (w : Work) (o : Obj) (order : List Nat) (r : PageRec) : Option State :=
  let die := w.f 32 1
  let m : Move := { obj := o.num, page := r.page, src := r.home, coord := self s, tier := 0, die := some die,
                    chosen := true, hold := true, cause := some w.ref, q := localSeq s o r.page }
  match firstFrame s order with
  | some a => some (addMove s { m with dest := a })
  | none => match (order.filterMap (fun u => lowestVictim (evictable s o.num u))).head? with
    | none => none
    | some (a, n, p) => match evictFrame s die with
      | none => none
      | some d =>
        let ev : Move := { obj := n, page := p, src := .frame a, coord := self s, tier := 1, die := some die,
                           chosen := true, dest := d, q := localSeq s (objOf s n) p }
        some (addMove (addMove s ev) { m with dest := a })

/-- Plans the moves of a RESIDE. -/
def resideAll (w : Work) (o : Obj) (order : List Nat) : List PageRec → State → Option State
  | [], s => some s
  | r :: rs, s => match residePage s w o order r with
    | none => none
    | some s => resideAll w o order rs s

/-- RESIDE when it runs. -/
def goReside (w : Work) (s : State) : State :=
  let h := w.f 16 8
  let o := objOf s (hObj h)
  let fin (s : State) (st ev : Nat) : State := setWork s { w with phase := .done, status := st, events := ev }
  let die := w.f 32 1
  let tile := w.f 33 1
  if w.f 24 8 = 0 ∨ 2 ^ 40 < w.f 24 8 ∨ 3 < die ∨ (15 < tile ∧ tile ≠ 0xFF) then fin s Status.shape 0
  else if !handleOk w s h (w.f 24 8) then fin s Status.handle 0
  else if o.scope ≠ 0 ∨ o.backing ≠ 0 then fin s Status.tier 0
  else
    let ps := pagesOf h (w.f 24 8)
    let recs := o.pages.filter (fun r => ps.contains r.page)
    let away := recs.filter (fun r => !onDie die r)
    if ps.any (movingPage s o.num) then setWork s w
    else if away.isEmpty then
      let other := recs.filter (fun r => w.names.contains r.page && (match r.home with
        | .frame a => unitOf a != 16 * die + tile
        | _ => false))
      fin (setObj s (holdPages o ps true)) 0 (if tile = 0xFF then 0 else other.length)
    else
      let order := resideOrder die tile
      let room := ((order.map (freeCount s)).sum) + ((order.map (fun u => (evictable s o.num u).length)).sum)
      if room < away.length then fin s Status.capacity 0
      else match resideAll w o order away s with
        | none => fin s Status.capacity 0
        | some s =>
          let near := (recs.filter (onDie die)).map (·.page)
          setWork (setObj s (holdPages (objOf s o.num) near true)) { w with names := w.names ++ away.map (·.page) }

/-- RESIDE. -/
def execReside (r : WRef) (t : Nat) (s : State) : Res := .next (runStaged 0x0A03 goReside r (atTime s t))

/-- RELEASE when it runs. -/
def goRelease (w : Work) (s : State) : State :=
  let h := w.f 16 8
  let fin (s : State) (st : Nat) : State := setWork s { w with phase := .done, status := st }
  if w.f 24 8 = 0 ∨ 2 ^ 40 < w.f 24 8 then fin s Status.shape
  else if !handleOk w s h (w.f 24 8) then fin s Status.handle
  else
    let ps := pagesOf h (w.f 24 8)
    let s := setObj s (holdPages (objOf s (hObj h)) ps false)
    fin { s with place := { s.place with moves := s.place.moves.map (fun m =>
      if m.obj = hObj h ∧ ps.contains m.page = true then { m with hold := false } else m) } } 0

/-- RELEASE. -/
def execRelease (r : WRef) (s : State) : Res := .next (runStaged 0x0A04 goRelease r s)

/-! ## The home table (R315) -/

/-- How many entries of a table of 4,096 words name a member. -/
def entriesOf (t : List Nat) (c : Nat) : Nat := (t.filter (· == c)).length

/-- The member of a list for which a count is least (or most), ties to the first (or last). -/
def bestMember (most : Bool) (t : List Nat) : List Nat → Option Nat
  | [] => none
  | c :: cs => match bestMember most t cs with
    | none => some c
    | some d =>
      if most then (if entriesOf t d < entriesOf t c then some c else some d)
      else (if entriesOf t c ≤ entriesOf t d then some c else some d)

/-- Replaces the last entry of a list equal to `c` by `d`. -/
def replaceLast (c d : Nat) (t : List Nat) : List Nat :=
  let r := t.reverse
  (r.takeWhile (· != c) ++ (match r.dropWhile (· != c) with
    | [] => []
    | _ :: xs => d :: xs)).reverse

/-- A new member takes entries until it holds its share (R315 step 3). -/
def takeShare (ms : List Nat) (share c : Nat) : Nat → List Nat → List Nat
  | 0, t => t
  | fuel + 1, t =>
    if share ≤ entriesOf t c then t
    else match bestMember true t ms with
      | none => t
      | some d => takeShare ms share c fuel (replaceLast d c t)

/-- The table of R315 from the current one, as 4,096 coordinate words; `named` says the current one names members. -/
def newTable (old : List Nat) (named : Bool) (ms : List Nat) : List Nat :=
  if !named || old.all (fun c => !ms.contains c) then (List.range 4096).map (fun e => ms.getD (e % ms.length) 0)
  else
    let stay := ms.filter (fun c => old.contains c)
    let step2 := (List.range 4096).foldl (fun (t : List Nat) e =>
      if ms.contains (t.getD e 0) then t
      else match bestMember false t stay with
        | some c => t.set e c
        | none => t) old
    (ms.filter (fun c => !old.contains c)).foldl (fun t c => takeShare ms (4096 / ms.length) c 4096 t) step2

/-- The home table as 4,096 coordinate words. -/
def tableWords (s : State) (t : Tab Nat) : List Nat := (List.range 4096).map (homeWord s t)

/-- A table from 4,096 coordinate words. -/
def tableOf (ws : List Nat) : Tab Nat := (List.zip (List.range 4096) ws).map (fun e => (e.1, e.2 + 1))

/-! ## Planning moves (R319, R321, R327, R328) -/

/-- The tier of a page's frame. -/
def recTier (r : PageRec) : Nat := match r.home with
  | .frame a => tierOf a
  | _ => 1

/-- The tiers the engine itself places pages of an object in: never scratchpad (R321). -/
def engineTiers (o : Obj) : List Nat := (roleTiers o).filter (fun t => t != 0)

/-- The mandatory moves of a SPREAD object after the table changed from `old` (R319 step 5): of each page homed elsewhere
under the new table, which a page in the host tier is too, and of each in module memory that stays and whose local sequence
changed or whose move was refused (R316, R322). None goes into scratchpad (R321, log 118). -/
def mandatory (s : State) (old : Tab Nat) (o : Obj) : List Move :=
  o.pages.filterMap (fun r => match r.home with
    | .frame a =>
      let c := homeUnder s s.place.home o r.page
      let tier := if tierOf a = 0 then (engineTiers o).headD 1 else tierOf a
      let m : Move := { obj := o.num, page := r.page, src := r.home, coord := c, tier := tier, mandatory := true }
      let q := seqUnder s s.place.home o r.page
      if c ≠ self s then some m
      else if r.again = true ∨ homeUnder s old o r.page ≠ self s ∨ q ≠ seqUnder s old o r.page then some { m with q := q }
      else none
    | .host _ =>
      let c := homeUnder s s.place.home o r.page
      if c ≠ self s then some { obj := o.num, page := r.page, src := r.home, coord := c, mandatory := true } else none
    | _ => none)

/-- Gives a page a fresh frame with undefined content (R328). -/
def freshPage (s : State) (o : Obj) (p : Nat) : State :=
  let o := { o with pages := o.pages.filter (fun r => r.page != p) }
  let s := bump (setObj s o) Key.plcPagesLost 1
  match anyFrame s o (localSeq s o p) none (engineTiers o) with
  | some a => setObj s { o with pages := o.pages ++ [{ page := p, home := .frame a }] }
  | none => s

/-- The pages of an object that lay in a memory unit that has failed are lost (R328, R482). -/
def freshPages (s : State) (n : Nat) : State :=
  let lost (r : PageRec) : Bool := match r.home with
    | .frame a => unitFailed s (unitOf a)
    | _ => false
  (((objOf s n).pages.filter lost).map (·.page)).foldl (fun s p => freshPage s (objOf s n) p) s

/-- The record of one page of a SPREAD object after the table changed from `old` (R322, R328). One whose holder is fenced is
lost, wherever its home is now. -/
def newRecord (old : Tab Nat) (n : Nat) (s : State) (p : Nat) : State :=
  let o := objOf s n
  let mineNow := homeUnder s s.place.home o p == self s
  let was := homeUnder s old o p
  let put (h : Home) : State := setObj s { o with pages := o.pages.filter (fun r => r.page != p) ++ [{ page := p, home := h }] }
  let held (c : Nat) : State := if fenced s c then freshPage s o p else if mineNow then put (.awaiting c) else s
  match o.page p with
  | some r => (match r.home with
    | .frame _ => s
    | .host _ => s
    | .awaiting c => held c
    | .displaced c => held c
    | .unlisted c => held c)
  | none =>
    if !mineNow then s
    else if was = self s ∨ fenced s was = true then freshPage s o p
    else put (.awaiting was)

/-- Samples of a list from one die of this module. -/
def fromDie (s : State) (xs : List Sample) (d : Nat) : Nat :=
  (xs.filter (fun x => x.byCoord == self s && x.byDie == d)).length

/-- The die of 0..3 for which a count is largest, ties to the lowest. -/
def topDie (f : Nat → Nat) : Nat :=
  (List.range 4).foldl (fun b d => if f b < f d then d else b) 0

/-- Free frames of HBM4. -/
def hbmFree (s : State) : Nat := ((tierUnits 1).map (freeCount s)).sum

/-- The statistics move of a page, if one applies (R321). -/
def pageStat (s : State) (o : Obj) (r : PageRec) (xs : List Sample) : Option Move :=
  let n := xs.length
  let d := topDie (fromDie s xs)
  let nd := fromDie s xs d
  let big := decide (reg s Key.plcMoveMin ≤ n)
  let m : Move := { obj := o.num, page := r.page, src := r.home, coord := self s, die := some d, q := localSeq s o r.page }
  match r.home with
  | .frame a =>
    if tierOf a = 2 ∧ big = true ∧ reg s Key.plcHbmReserve < hbmFree s then some { m with tier := 1 }
    else if tierOf a ≠ 0 ∧ big = true ∧ n * reg s Key.plcMoveShare ≤ nd * 256 ∧ d ≠ unitDie (unitOf a) then
      some { m with tier := tierOf a }
    else if tierOf a = 1 ∧ reg s Key.plcColdEpochs ≤ r.cold ∧ xs = [] ∧ hbmFree s < reg s Key.plcHbmReserve then
      some { m with tier := 2, die := some (unitDie (unitOf a)) }
    else none
  | .host _ => if big then some { m with tier := 1 } else none
  | _ => none

/-- The row migrations a HOTROWS object's samples of one page ask for (R321). -/
def rowStats (s : State) (o : Obj) (xs : List Sample) : List MigPlan :=
  if !bit o.hints 7 || decide (4096 < o.pitch) || o.rowlen == 0 then []
  else ((xs.map (·.row)).eraseDups).filterMap (fun row =>
    let rs := xs.filter (fun x => x.row == row)
    let others := ((rs.filter (fun x => x.byCoord != self s)).map (·.byCoord)).eraseDups
    let cnt (c : Nat) : Nat := (rs.filter (fun x => x.byCoord == c)).length
    let hot := others.filter (fun c => decide (reg s Key.plcMoveMin ≤ cnt c) &&
      decide (rs.length * reg s Key.plcMoveShare ≤ cnt c * 256))
    if (movedRow s o row).isSome then none
    else hot.head?.map (fun c =>
      let die := topDie (fun d => (rs.filter (fun x => x.byCoord == c && x.byDie == d)).length)
      { obj := o.num, row := row, destCoord := c, destDie := die }))

/-- A page with its samples, before another in the order of R321. -/
def statBefore (a b : Nat × Nat × Nat) : Bool :=
  if a.1 = b.1 then (if a.2.1 = b.2.1 then decide (a.2.2 < b.2.2) else decide (a.2.1 < b.2.1)) else decide (b.1 < a.1)

/-- Inserts a page in the order of R321. -/
def insertStat (x : Nat × Nat × Nat) : List (Nat × Nat × Nat) → List (Nat × Nat × Nat)
  | [] => [x]
  | y :: ys => if statBefore x y then x :: y :: ys else y :: insertStat x ys

/-- Plans the statistics moves (R321): at most PLC_MAX_MOVES. -/
def planStats (s : State) : List Move × List MigPlan :=
  let samplesAt (n p : Nat) : List Sample := s.place.samples.filter (fun x => x.obj == n && x.page == p)
  let pages := s.objs.flatMap (fun e => if isArea s e.1 then [] else (e.2.pages.filter (fun r => !r.held && !bit e.2.hints 6)).map
    (fun r => ((samplesAt e.1 r.page).length, e.1, r.page)))
  let order := pages.foldl (fun l x => insertStat x l) []
  let one (x : Nat × Nat × Nat) : List (Move ⊕ MigPlan) :=
    let o := objOf s x.2.1
    match o.page x.2.2 with
    | none => []
    | some r =>
      if movingPage s x.2.1 x.2.2 then []
      else
        let xs := samplesAt x.2.1 x.2.2
        (match pageStat s o r xs with
          | some m => [.inl m]
          | none => []) ++ (rowStats s o xs).map .inr
  let all := (order.flatMap one).take (reg s Key.plcMaxMoves)
  (all.filterMap (fun x => match x with
    | .inl m => some m
    | .inr _ => none),
   all.filterMap (fun x => match x with
    | .inr p => some p
    | .inl _ => none))

/-- Counts epochs without a sample (R321). -/
def ageCold (s : State) (o : Obj) : Obj :=
  { o with pages := o.pages.map (fun r =>
      if s.place.samples.any (fun x => x.obj == o.num && x.page == r.page) then { r with cold := 0 }
      else { r with cold := r.cold + 1 }) }

/-- Changes every declared object's record. -/
def mapObjs (f : State → Obj → Obj) (s : State) : State :=
  s.objs.foldl (fun s e => setObj s (f s (objOf s e.1))) s

/-- Steps 3 to 5 of EPOCH_ADVANCE: the state and the number of moves planned. -/
def advanceEpoch (s : State) (epoch : Nat) (leave : List Nat) : State × Nat :=
  let ms := (members s).filter (fun c => !leave.contains c)
  let old := s.place.home
  let same := s.place.members == ms || (!inPartition s && s.place.members.isEmpty)
  let table := if same then old else tableOf (newTable (tableWords s old) (!old.isEmpty) ms)
  let s := { s with place := { s.place with home := table, prev := old, members := if same then s.place.members else ms } }
  let s := setReg (setReg s Key.plcEpoch epoch) Key.plcMembers ms.length
  let spread := (s.objs.filter (fun e => e.2.scope == 1)).map (·.1)
  let gone (e : DirEntry) : Bool := fenced s e.coord || (e.coord == self s && unitFailed s (unitOf e.addr))
  let live (e : DirEntry) : Bool := !(decide (e.kind = .reloc) && decide (e.mstate = .moved) && gone e)
  let stays (g : Guest) : Bool :=
    let o := objOf s g.obj
    let home := if o.scope = 0 then self s else homeUnder s old o (g.row * o.pitch / 65536)
    !fenced s home && !(home == self s && unitFailed s (unitOf g.addr))
  let s := { s with dir := { s.dir with entries := s.dir.entries.filter live, guests := s.dir.guests.filter stays } }
  let s := (s.objs.map (·.1)).foldl freshPages s
  let s := spread.foldl (fun s n => (List.range (objOf s n).pageCount).foldl (newRecord old n) s) s
  let kept := s.place.moves.filter (fun m => decide (m.state ≠ .planned) || m.cause.isSome ||
    (match m.src with
      | .host _ => true
      | _ => false) || m.chosen)
  let s := { s with place := { s.place with moves := kept } }
  let must := spread.flatMap (fun n => (mandatory s old (objOf s n)).filter (fun m => !movingPage s n m.page))
  let back : List MigPlan := (s.dir.entries.filter (fun e => decide (e.kind = .reloc) && decide (e.mstate = .moved) &&
    leave.contains e.coord)).filterMap (fun e => (rowNamed s e.table e.row).map (fun r =>
      { obj := r.1.num, row := r.2, destCoord := self s, destDie := e.die, back := true }))
  let s := { s with place := { s.place with moves := s.place.moves ++ must } }
  let s := mapObjs (fun s o => { ageCold s o with pages := (ageCold s o).pages.map (fun r => { r with again := false, shut := false }) }) s
  let stats := if reg s Key.plcAuto = 1 then planStats s else ([], [])
  let s := { s with
    place := { s.place with moves := s.place.moves ++ stats.1, samples := [] }
    dir := { s.dir with plans := s.dir.plans.filter (fun p => p.promote) ++ back ++ stats.2 } }
  (s, must.length + back.length + stats.1.length + stats.2.length)

/-- EPOCH_ADVANCE when it runs: it waits for every move in progress, and for the mandatory moves and returns planned at
the advance before (R319 step 2, R327 step 4). -/
def goAdvance (w : Work) (s : State) : State :=
  let fin (s : State) (st ev : Nat) : State := setWork s { w with phase := .done, status := st, events := ev }
  let n := w.f 18 2
  if w.qc then fin s Status.cls 0
  else if 4095 < n then fin s Status.shape 0
  else if n ≠ 0 ∧ handleOk w s (w.f 24 8) (2 * n) = false then fin s Status.handle 0
  else if w.f 16 2 ≠ (reg s Key.plcEpoch + 1) % 65536 then fin s Status.epoch 0
  else if s.place.moves.any (fun m => decide (m.state = .copying ∨ m.state = .draining) || (m.mandatory && decide (m.state = .planned))) ||
      s.dir.migs.any (fun m => decide (m.state ≠ .moved)) || s.dir.plans.any (·.back) then setWork s w
  else
    let x := ((if n = 0 then pure [] else rdH (w.f 24 8) (2 * n)) : Eng (List Byte)).run.run { s := s, w := w, die := w.die }
    match x.1 with
    | .ok bs =>
      let r := advanceEpoch x.2.s (w.f 16 2) ((List.range n).map (fun i => field bs (2 * i) 2 % 4096))
      fin r.1 0 r.2
    | .error e => settle s w (.error e) x.2

/-- EPOCH_ADVANCE. -/
def execEpochAdvance (r : WRef) (s : State) : Res := .next (runStaged 0x0A02 goAdvance r s)

end Sys2Proof.Machine
end

