-- ==== Sys2Proof/Machine/Moves.lean ====
section
/-! DEFINITION. Page moves (R322-R326) and the messages placement engines exchange (R350, log 34). -/

namespace Sys2Proof.Machine
open Sys2Proof

/-! ## Moves -/

/-- The move of a page in one of some states. -/
def findMove (s : State) (n p : Nat) (ok : MoveState → Bool) : Option Move :=
  s.place.moves.find? (fun m => m.obj == n && m.page == p && ok m.state)

/-- Replaces a move. -/
def setMove (s : State) (m m' : Move) : State :=
  { s with place := { s.place with moves := s.place.moves.map (fun x => if x = m then m' else x) } }

/-- Removes a move. -/
def dropMove (s : State) (m : Move) : State :=
  serveHeld (touch { s with place := { s.place with moves := s.place.moves.erase m } })

/-- Posts a PLACE message about a page. -/
def pageMsg (s : State) (op coord obj page : Nat) (body : List Byte) : State :=
  postPlace s .place coord obj page (placeHead op obj page ++ body)

/-- Messages and copies of a page that are not yet answered. -/
def pagePending (s : State) (n p : Nat) : Bool :=
  s.fab.txns.any (fun t => decide (t.kind = .place) && t.obj == n && t.off == p)

/-- The rows of an object a page holds a part of. -/
def pageRows (o : Obj) (p : Nat) : List Nat :=
  if o.rowlen = 0 then [] else
    let first := p * 65536 / o.pitch
    rangeFrom first (min o.rows ((p * 65536 + 65535) / o.pitch + 1) - first)

/-- A row of the page is in COPYING or DRAINING, or goes back to its place in the page, which is planned or granted (R324,
R327). -/
def rowsBusy (s : State) (o : Obj) (p : Nat) : Bool :=
  (pageRows o p).any (fun r => (migrationOf s o.num r).isSome ||
    s.dir.plans.any (fun x => x.back && x.obj == o.num && x.row == r) ||
    s.place.grants.any (fun g => g.isRow && g.obj == o.num && g.unit == r))

/-- Bytes of a page at its source, poison aside. -/
def pageBytes (s : State) (h : Home) (off n : Nat) : List Byte :=
  match h with
  | .frame a => Tab.getRange 0 s.mem.bytes (a + off) n
  | .host a => Tab.getRange 0 s.host (a + off) n
  | _ => List.replicate n 0

/-- Bytes read from a page's source count to its unit (R332, R333), or are asked of the host (R405). -/
def countSrc (s : State) (h : Home) (off n : Nat) : State :=
  match h with
  | .frame a => countBytes s false (a + off) n
  | .host a => sendAll s (d2hReads (a + off) n)
  | _ => s

/-- Offsets in a page of the words of 8 bytes of some spans that its source holds poisoned (R299). -/
def badWords (s : State) (h : Home) (ks : List Nat) : List Nat :=
  let words (base : Nat) (ps : List (Nat × Nat)) : List Nat :=
    (ps.flatMap (fun p => (rangeFrom 0 (p.2 / 8)).map (fun i => p.1 + 8 * i))).filterMap (fun q =>
      if base ≤ q ∧ q < base + 65536 ∧ ks.contains ((q - base) / 256) = true then some (q - base) else none)
  match h with
  | .frame a => words a (s.mem.poison.map (fun q => (q, cwBytes q)))
  | .host a => words a (s.hostPoison.map (fun q => (q, 64)))
  | _ => []

/-- Copies one span of a page within the module with its poison (R299, R323). -/
def copySpan (src : Home) (dest : Nat) (s : State) (k : Nat) : State :=
  let s1 := writePhys (countSrc s src (256 * k) 256) (dest + 256 * k) (pageBytes s src (256 * k) 256)
  (badWords s src [k]).foldl (fun s d => poison s (dest + d)) (countBytes s1 true (dest + 256 * k) 256)

/-- Copies spans of a page to a granted frame of another module, 256 bytes a packet; the last carries OF (R353). The
poison markings of those spans follow (R299). -/
def sendSpans (s : State) (m : Move) (ks : List Nat) : State :=
  let die := homeDie s (objOf s m.obj) (65536 * m.page)
  let s := snoopRange s m.obj (65536 * m.page) 65536 false
  let s := (List.zip (List.range ks.length) ks).foldl (fun s e =>
    postTxn (countSrc s m.src (256 * e.2) 256) .place none m.obj m.page
      { ty := 0x03, dst := m.coord, addr := m.dest + 256 * e.2, aux := 1, ord := true, flag := decide (e.1 + 1 = ks.length),
        sdie := die, len := 256, payload := pageBytes s m.src (256 * e.2) 256 }) s
  let bad := badWords s m.src ks
  (pieceBy 512 bad.length bad).foldl (fun s ps => pageMsg s 14 m.coord m.obj m.page (ps.flatMap (leBytes 4))) s

/-- The move is refused; a mandatory one within the module is planned again at the next advance (R322, R324). -/
def refuseMove (s : State) (m : Move) : State :=
  let s := bump (dropMove s m) Key.plcMovesRefused 1
  if m.mandatory && m.coord == self s then
    let o := objOf s m.obj
    setObj s { o with pages := o.pages.map (fun r => if r.page = m.page then { r with again := true } else r) }
  else s

/-- The relocation entries of a page's moved rows that lie outside the shard of a die. -/
def pageRelocs (s : State) (o : Obj) (p die : Nat) : List DirEntry :=
  s.dir.entries.filter (fun e => decide (e.kind = .reloc) && e.table == o.tableNo && e.die != die &&
    (pageRows o p).any (fun r => e.row == o.rowNo r))

/-- The free ways of a set of a shard. -/
def freeWays (s : State) (die set : Nat) : Nat := ((List.range 16).filter (fun k => (wayOf s die set k).isNone)).length

/-- Each of some sets has as many free ways in a shard as it takes entries (R324). -/
def waysFor (s : State) (die : Nat) (sets : List Nat) : Bool :=
  sets.all (fun k => decide ((sets.filter (· == k)).length ≤ freeWays s die k))

/-- Every moved row of the page finds a free way in the shard of the new home die (R324). -/
def relocRoom (s : State) (o : Obj) (p die : Nat) : Bool := waysFor s die ((pageRelocs s o p die).map (·.set))

/-- The frame a move within the module takes. -/
def moveFrame (s : State) (o : Obj) (m : Move) : Option Nat :=
  if m.chosen then
    let others := (s.objs.flatMap (fun e => e.2.pages.filterMap (fun r => match r.home with
        | .frame a => if e.1 = m.obj ∧ r.page = m.page then none else some a
        | _ => none))) ++
      s.place.moves.flatMap (fun x => if x = m then [] else (match x.src with
        | .frame a => [a]
        | _ => []) ++ (if x.chosen ∧ x.coord = self s ∧ x.state ≠ .planned then [x.dest] else []))
    if others.contains m.dest then none else some m.dest
  else
    let rest := [1, 2].filter (fun t => t != m.tier)
    anyFrame s o m.q m.die (m.tier :: rest)

/-- The page cannot be read at its source now: the host link is down (R405). -/
def hostDown (s : State) (h : Home) : Bool :=
  match h with
  | .host _ => !hostLinkUp s
  | _ => false

/-- The page lay in a memory unit that has failed: it is lost (R482). -/
def pageLost (s : State) (h : Home) : Bool :=
  match h with
  | .frame a => unitFailed s (unitOf a)
  | _ => false

/-- PAGE_MOVE_START: a planned move enters COPYING (R323-R325, R404). -/
def execPageMoveStart (obj page t : Nat) (s : State) : Res :=
  let o := objOf s obj
  .next (match findMove s obj page (fun x => decide (x = .planned)), o.page page with
    | some m, some r =>
      if !movable s || (moveOf s obj page).isSome || rowsBusy s o page || o.undeclaring.isSome || hostDown s r.home then s
      else
        let s := atTime s t
        let m' := { m with state := .copying, src := r.home, start := s.time, dirty := []
                           timeoutUs := reg s Key.plcMoveTimeoutUs, lingerUs := reg s Key.plcLingerUs }
        if pageLost s r.home then dropMove s m
        else if m.coord = self s then
          match moveFrame s o m with
          | none => if m.chosen then s else refuseMove s m
          | some f =>
            if !relocRoom s o page (unitDie (unitOf f)) then refuseMove s m
            else
              (List.range 256).foldl (copySpan r.home f)
                (setMove (snoopRange s obj (65536 * page) 65536 false) m { m' with chosen := true, dest := f })
        else if fenced s m.coord then dropMove s m
        else
          let x : TableSlot := Tab.get {} s.slots o.tslot
          let shadows := ((pageRows o page).filter (fun (row : Nat) =>
            let tag : TagW := Tab.get {} o.tags row
            o.versioned && decide (tag ≠ ({} : TagW)) && !verLe tag.ver (x.old.getD x.cur))).length
          let s := setMove s m m'
          let first := page * 65536 / o.pitch
          let moved := (pageRows o page).filter (fun r => (movedRow s o r).isSome)
          pump (pageMsg s 1 m.coord obj page (leBytes 2 x.cur ++ leBytes 2 (x.old.getD 0) ++ leBytes 1 x.old.isSome.toNat ++
            leBytes 4 shadows ++ moved.flatMap (fun r => leBytes 2 (r - first))))
    | _, _ => s)

/-- PAGE_COPY_DONE: every span is copied; the page drains (R323, R324, R404), once no part of a row of it is held for a
read-out (R233). -/
def execPageCopyDone (obj page t : Nat) (s : State) : Res :=
  .next (match findMove s obj page (fun x => decide (x = .copying)) with
    | some m =>
      if m.chosen ∧ pagePending s obj page = false ∧ movable s = true ∧
          (pageRows (objOf s obj) page).any (rowHeld s obj) = false then
        let s := snoopRange (atTime s t) obj (page * 65536) 65536 true
        let s := setMove s m { m with state := .draining }
        if m.coord = self s then s else pump (sendSpans s m m.dirty)
      else s
    | none => s)

/-- The relocation entries of a page's moved rows go to the shard of its new home die (R324): to a free way, else to that
of a cache entry taken since the move began. -/
def moveRelocs (s : State) (o : Obj) (p die : Nat) : State :=
  (pageRelocs s o p die).foldl (fun s e => match relocWay s die e.set e.table e.row with
    | some (k, s) => { s with dir := { s.dir with entries := s.dir.entries.map (fun x => if x = e then { e with die := die, way := k } else x) } }
    | none => s) s

/-- The rows of more than 4,096 bytes that a committed page move has promoted count to their home dies: those whose
first byte lies here and of which no page lies in the host tier any more (R256, R258). -/
def countPromoted (s : State) (o : Obj) (p : Nat) : State :=
  let rows := if o.rowlen = 0 then [0] else pageRows o p
  rows.foldl (fun s row =>
    let done := (rowPages o row).all (fun q => match o.page q with
      | some r => (match r.home with
        | .host _ => false
        | _ => true)
      | none => true)
    match locatePage s o (row * o.pitch) with
    | .here a => if done then bump s (Key.promotions + unitDie (unitOf a)) 1 else s
    | _ => s) s

/-- The rows of a page of which no other part is on this module. -/
def rowsOnly (o : Obj) (p : Nat) : List Nat :=
  (pageRows o p).filter (fun r => (rowPages o r).all (fun q => q == p || !(o.page q).any (fun x => match x.home with
    | .frame _ => true
    | .host _ => true
    | _ => false)))

/-- A page leaves this module: its rows' hot copies go, its tags and relocation entries follow it (R324, R325). -/
def leavePage (s : State) (m : Move) (o : Obj) : State :=
  let rows := pageRows o m.page
  let gone (e : DirEntry) : Bool := decide (e.kind ≠ .reloc) && e.table == o.tableNo && rows.any (fun r => e.row == o.rowNo r)
  let s := bump s Key.plcPinsDropped (s.dir.entries.filter gone).length
  let s := { s with dir := { s.dir with entries := s.dir.entries.filter (fun e => !gone e) } }
  let s := rows.foldl (fun s r => sendTag s .place m.coord m.page o r) s
  let s := rows.foldl (fun s r => match movedRow s o r with
    | some (c, a) => dropReloc (pageMsg s 13 m.coord o.num r (leBytes 2 c ++ leBytes 8 a)) o r
    | none => s) s
  let o := objOf s o.num
  let s := dropTags (setObj s { o with pages := o.pages.filter (fun r => r.page != m.page) }) o.num (rowsOnly o m.page)
  pump (pageMsg s 4 m.coord o.num m.page (leBytes 1 m.hold.toNat))

/-- PAGE_MOVE_COMMIT: the dirty spans are copied again and the page record names the new frame (R323). -/
def execPageMoveCommit (obj page t : Nat) (s : State) : Res :=
  .next (match findMove s obj page (fun x => decide (x = .draining)) with
    | some m =>
      if pagePending s obj page = false ∧ movable s = true then
        let s := atTime s t
        let o := objOf s obj
        let s := setMove s m { m with state := .moved, commitAt := s.time, dirty := [] }
        let s := bump s Key.plcMovesDone 1
        if m.coord = self s then
          let s := m.dirty.foldl (copySpan m.src m.dest) s
          let o' := { o with pages := o.pages.map (fun r => if r.page = page
            then { r with home := .frame m.dest, held := (r.held && !evicting s) || m.hold, cold := 0 } else r) }
          let s := serveHeld (moveRelocs (setObj s o') o' page (unitDie (unitOf m.dest)))
          if m.promote then countPromoted s o' page else s
        else leavePage s m o
      else s
    | none => s)

/-- PAGE_FRAME_FREE: PLC_LINGER_US after the commit, once no access to the page is on its way or held, the old frame is
freed (R323, log 112). -/
def execPageFrameFree (obj page t : Nat) (s : State) : Res :=
  .next (match findMove s obj page (fun x => decide (x = .moved)) with
    | some m =>
      if m.commitAt + 1000 * m.lingerUs ≤ t ∧ pagePending s obj page = false ∧
          accessPending s obj (65536 * page) 65536 = false ∧ lineOf s (linePage obj page) = [] then dropMove (atTime s t) m
      else s
    | none => s)

/-- A move aborts: the page stays at its old home (R326). -/
def abortMove (s : State) (m : Move) : State :=
  let s := bump (dropMove s m) Key.plcMovesAborted 1
  if m.coord = self s ∨ fenced s m.coord = true then s else pump (pageMsg s 5 m.coord m.obj m.page [])

/-- PAGE_MOVE_TIMEOUT: PLC_MOVE_TIMEOUT_US without reaching DRAINING (R326); a freeze suspends the timer (R490). -/
def execPageMoveTimeout (obj page t : Nat) (s : State) : Res :=
  .next (match findMove s obj page (fun x => decide (x = .copying)) with
    | some m => if m.start + 1000 * m.timeoutUs ≤ t ∧ reg s Key.frzState = 0 then abortMove (atTime s t) m else s
    | none => s)

/-- The relocation entries a page will bring take their ways in the shard of its new home die (R324). -/
def reserveWays (s : State) (o : Obj) (die : Nat) (rows : List Nat) : State :=
  rows.foldl (fun s row =>
    let set := setOf o.tableNo (o.rowNo row)
    match freeWay s die set (List.range 16) with
    | some k =>
      let e : DirEntry := { die := die, set := set, way := k, kind := .reloc, table := o.tableNo, row := o.rowNo row,
                            bytes := o.pitch }
      { s with dir := { s.dir with entries := s.dir.entries ++ [e] } }
    | none => s) s

/-- The ways taken for a page that does not come are free again. -/
def releaseWays (s : State) (o : Obj) (p : Nat) : State :=
  { s with dir := { s.dir with entries := s.dir.entries.filter (fun e =>
      !(decide (e.kind = .reloc) && decide (e.mstate = .resident) && e.table == o.tableNo &&
        (pageRows o p).any (fun r => e.row == o.rowNo r))) } }

/-- Moves and migrations that involve a module just fenced abort (R255, R326). -/
def fenceMoves (s : State) (c : Nat) : State :=
  let ms := s.place.moves.filter (fun m => decide (m.state = .copying ∨ m.state = .draining) && m.coord == c)
  let gs := s.dir.migs.filter (fun m => decide (m.state ≠ .moved) && m.destCoord == c)
  let s := (s.place.grants.filter (fun g => g.coord == c && !g.isRow)).foldl (fun s g => releaseWays s (objOf s g.obj) g.unit) s
  let s := { s with place := { s.place with grants := s.place.grants.filter (fun g => g.coord != c) } }
  pump (gs.foldl abortMigration (ms.foldl abortMove s))

/-! ## Messages received (log 34) -/

/-- The answer to a PLACE message: a response status and the state. -/
abbrev PlaceAns := Nat × State

/-- BUSY of a MSG_RSP. -/
def busyRsp : Nat := 0xFFFF

/-- The displaced list of a module holds this many records (R322). -/
def displacedMax : Nat := 1048576

/-- Displaced records held. -/
def displacedCount (s : State) : Nat :=
  ((s.objs.map (fun e => (e.2.pages.filter (fun r => match r.home with
    | .displaced _ => true
    | _ => false)).length))).sum

/-- A refused page keeps its place: its awaiting record becomes a displaced one; with the list full, of which the module that
holds the page is told, accesses to it complete with FAULT_CAPACITY until a later advance (R322, log 34). -/
def displace (s : State) (src : Nat) (o : Obj) (p : Nat) : State :=
  let full := decide (displacedMax ≤ displacedCount s)
  let s := setObj s { o with pages := o.pages.map (fun r => if r.page = p then (match r.home with
    | .awaiting c => { r with home := if full then .unlisted c else .displaced c }
    | _ => r) else r) }
  if full then pump (pageMsg s 18 src o.num p []) else s

/-- No access to a page held here is served until a later advance (R322). -/
def shutPage (s : State) (o : Obj) (p : Nat) : State :=
  setObj s { o with pages := o.pages.map (fun r => if r.page = p then { r with shut := true } else r) }

/-- A request to place a page here (R322, R324, R325). -/
def askPage (s : State) (src : Nat) (o : Obj) (p : Nat) (bs : List Byte) : PlaceAns :=
  let x := Tab.get {} s.slots o.tslot
  let old := if field bs 16 1 = 1 then some (field bs 14 2) else none
  if !o.declared || o.undeclaring.isSome then (Status.handle, s)
  else if s.place.grants.any (fun g => !g.isRow && g.obj == o.num && g.unit == p) then (0, s)
  else if o.versioned && !(x.cur == field bs 12 2 && decide (x.old = old)) then (busyRsp, s)
  else if o.versioned && decide (o.shadow < o.shadows.length + field bs 17 4) then (Status.capacity, displace s src o p)
  else match anyFrame s o (seqUnder s s.place.home o p) none (engineTiers o) with
    | none => (Status.capacity, displace s src o p)
    | some a =>
      let rows := (List.range ((bs.length - 21) / 2)).map (fun i => p * 65536 / o.pitch + field bs (21 + 2 * i) 2)
      let die := unitDie (unitOf a)
      if !waysFor s die (rows.map (fun r => setOf o.tableNo (o.rowNo r))) then (Status.capacity, displace s src o p)
      else
      let s := reserveWays s o die rows
      let g : Grant := { coord := src, obj := o.num, unit := p, isRow := false, addr := a, len := 65536 }
      let s := { s with place := { s.place with grants := s.place.grants ++ [g] } }
      (0, pump (pageMsg s 2 src o.num p (leBytes 8 a)))

/-- A tag word, and shadow content of a row, arrive with its page or row (R325). -/
def takeTag (s : State) (o : Obj) (row : Nat) (bs : List Byte) : State :=
  let off := field bs 16 4
  let total := field bs 20 4
  let part := bs.drop 24
  let o := objOf s o.num
  if total = 0 then setObj s { o with tags := Tab.set {} o.tags row { ver := field bs 12 2, sver := field bs 14 2 } }
  else
    let k := o.freeShadow
    let o := if off = 0 then { o with
        tags := Tab.set {} o.tags row { ver := field bs 12 2, sver := field bs 14 2, shadow := k }
        shadows := o.shadows ++ [(k, part)] }
      else
        let slot := (Tab.get {} o.tags row).shadow
        { o with shadows := o.shadows.map (fun e => if e.1 = slot then (e.1, e.2 ++ part) else e) }
    setObj s o

/-- The grant of a page or row. -/
def grantOf (s : State) (isRow : Bool) (n u : Nat) : Option Grant :=
  s.place.grants.find? (fun g => g.isRow == isRow && g.obj == n && g.unit == u)

/-- Removes a grant. -/
def dropGrant (s : State) (isRow : Bool) (n u : Nat) : State :=
  { s with place := { s.place with grants := s.place.grants.filter (fun g => !(g.isRow == isRow && g.obj == n && g.unit == u)) } }

/-- A page has arrived: this module is its home (R323). -/
def arrivePage (s : State) (o : Obj) (p : Nat) : State :=
  match grantOf s false o.num p with
  | none => s
  | some g =>
    let s := dropGrant s false o.num p
    let o := objOf s o.num
    setObj s { o with pages := (o.pages.filter (fun r => r.page != p)) ++ [{ page := p, home := .frame g.addr }] }

/-- The relocation entry of a moved row arrives with its page (R324): it takes the way reserved for it. -/
def takeReloc (s : State) (o : Obj) (row : Nat) (bs : List Byte) : State :=
  let c := field bs 12 2
  let mine (e : DirEntry) : Bool := decide (e.kind = .reloc) && e.table == o.tableNo && e.row == o.rowNo row
  if c = self s then dropReloc s o row
  else { s with dir := { s.dir with entries := s.dir.entries.map (fun e =>
    if mine e then { e with mstate := .moved, coord := c, addr := field bs 14 8 } else e) } }

/-- A row is asked for by the module of its page's home: it goes back there (R327). -/
def returnRow (s : State) (src : Nat) (o : Obj) (row addr : Nat) : PlaceAns :=
  match s.dir.guests.find? (fun g => g.obj == o.num && g.row == row), readLocal s o (row * o.pitch) o.pitch with
  | some g, some bs =>
    let m : Migration := { obj := o.num, row := row, state := .copying, destCoord := src, destDie := 0, destAddr := addr,
                           granted := true, oldAddr := g.addr, snapshot := bs, start := s.time, back := true
                           timeoutUs := reg s Key.migTimeoutUs, lingerUs := reg s Key.migLingerUs }
    let s := tellRead s o (row * o.pitch) o.pitch
    (0, pump (sendSnapshot { s with dir := { s.dir with migs := s.dir.migs ++ [m] } } m))
  | _, _ => (Status.handle, s)

/-- Entries of a row made on another module enter the row's header here (R233, log 34), or go on to where it lies now. A hold
does not keep them back: they were made before their part was held (log 107). -/
def takeEntries (s : State) (o : Obj) (row : Nat) (bs : List Byte) : PlaceAns :=
  let off := row * o.pitch
  if !o.declared then (Status.handle, s)
  else match locate s o off with
    | .here a =>
      let s := foldRow (snoopRange s o.num off 64 true) true a (field bs 12 4) (field bs 16 1) []
      (0, stampObj (refreshCopies (markDirty s o.num off) o row) o.num)
    | .remote c => (0, pump (postPlace s .row c o.num row bs))
    | .stop st => (st, s)
    | .hostM _ => (Status.tier, s)
    | .wait => (busyRsp, s)

/-- A PLACE message from another placement engine (R350). -/
def placeMessage (s : State) (src : Nat) (bs : List Byte) : PlaceAns :=
  let o := objOf s (field bs 1 3)
  let u := field bs 4 8
  match field bs 0 1 with
  | 1 => askPage s src o u bs
  | 2 => (match findMove s o.num u (fun x => decide (x = .copying)) with
    | some m =>
      let m' := { m with chosen := true, dest := field bs 12 8, dirty := [] }
      (0, pump (sendSpans (setMove s m m') m' (List.range 256)))
    | none => (0, s))
  | 3 => (0, takeTag s o u bs)
  | 4 => (0, arrivePage s o u)
  | 5 => (0, releaseWays (dropGrant s false o.num u) o u)
  | 6 => if !o.declared || o.undeclaring.isSome then (Status.handle, s) else (match rowSlot s (field bs 12 1 % 4) with
    | none => (Status.capacity, s)
    | some a =>
      let g : Grant := { coord := src, obj := o.num, unit := u, isRow := true, addr := a, len := o.pitch }
      let s := { s with place := { s.place with grants := s.place.grants ++ [g] } }
      (0, pump (rowMsg s 7 src o.num u (leBytes 8 a))))
  | 7 => (match migrationOf s o.num u with
    | some m =>
      let m := { m with granted := true, destAddr := field bs 12 8 }
      let s := { (setMigration s m) with dir := { (setMigration s m).dir with entries := s.dir.entries.map (fun e =>
        if e.kind = .reloc ∧ e.table = o.tableNo ∧ e.row = o.rowNo u then { e with addr := m.destAddr } else e) } }
      (0, pump (sendSnapshot s m))
    | none => (0, s))
  | 8 =>
    let vs := (List.range ((bs.length - 17) / 18)).map (fun i => (field bs (17 + 18 * i) 2, field bs (19 + 18 * i) 16))
    let at_ := match grantOf s true o.num u with
      | some g => some g.addr
      | none => (s.dir.guests.find? (fun g => g.obj == o.num && g.row == u)).map (·.addr)
    (0, match at_ with
      | some a => foldRow s (o.fmt == 11) a (field bs 12 4) (field bs 16 1) vs
      | none => s)
  | 9 => (match grantOf s true o.num u with
    | some g =>
      let s := dropGrant s true o.num u
      (0, { s with dir := { s.dir with guests := s.dir.guests ++ [{ obj := o.num, row := u, addr := g.addr }] } })
    | none => (0, s))
  | 10 => (0, dropGrant s true o.num u)
  | 11 => returnRow s src o u (field bs 12 8)
  | 12 => (0, dropReloc (dropGrant s true o.num u) o u)
  | 13 => (0, takeReloc s o u bs)
  | 14 => (match grantOf s false o.num u with
    | some g => (0, (List.range ((bs.length - 12) / 4)).foldl (fun s i => poison s (g.addr + field bs (12 + 4 * i) 4)) s)
    | none => (0, s))
  | 15 => if o.declared then (0, promotePages s o u (field bs 12 1 % 4)) else (Status.handle, s)
  | 17 => takeEntries s o u bs
  | 18 => (0, shutPage s o u)
  | _ => (Status.shape, s)

/-- A placement message or copy of this module is answered with a failure: the move is refused where the destination has no
room for it, and aborts otherwise (R322, R326, R328), as a migration does (R255). -/
def placeFailed (s : State) (x : Txn) (status : Nat) : State :=
  match x.kind with
  | .place => (match findMove s x.obj x.off (fun st => decide (st = .copying ∨ st = .draining)) with
    | some m => if status = Status.capacity then refuseMove s m else abortMove s m
    | none => s)
  | .row => (match migrationOf s x.obj x.off with
    | some m => pump (abortMigration s m)
    | none => if field x.pkt.payload 0 1 = 11 then dropGrant s true x.obj x.off else s)
  | _ => s

/-- A module physical address write is allowed to a source (R350). -/
def granted (s : State) (src addr n : Nat) : Bool :=
  s.place.grants.any (fun g => g.coord == src && decide (g.addr ≤ addr) && decide (addr + n ≤ g.addr + g.len))

/-- PATROL_SCRUB: the controller of a trained unit reads a codeword it backs; whether the read met a correctable error,
which is then counted and written back, is left free, and what the codeword holds does not change (R299, R300, log 101). -/
def execPatrolScrub (unit addr : Nat) (s : State) : Res :=
  let hbm := decide (unit < 8)
  let hours := if hbm then reg s Key.hbmScrubHours else reg s Key.ddrScrubHours
  let ready := if hbm then reg s (Key.hbmState + unit) == 1 else reg s (Key.ddrState + (unit - 8)) == 1
  let key (h d : Nat) : Nat := if hbm then h + unit else d + (unit - 8)
  let base := if hbm then hbmBase + unit * 2 ^ 36 else ddrBase + (unit - 8) * 2 ^ 38
  .next (if hours = 0 ∨ 24 ≤ unit ∨ unitOf addr ≠ 64 + unit ∨ ready = false ∨
      base + reg s (key Key.hbmCapacity Key.ddrCapacity) ≤ addr ∨ poisoned s.mem addr 1 = true then s
    else
      let d := drawFree (bump s (key Key.hbmReadBytes Key.ddrReadBytes) (cwBytes addr))
      if d.1 % 2 = 1 then
        bump (bump d.2 (key Key.hbmCeCount Key.ddrCeCount) 1) (key Key.hbmWriteBytes Key.ddrWriteBytes) (cwBytes addr)
      else d.2)

end Sys2Proof.Machine
end

