-- ==== Sys2Proof/Machine/Trust.lean ====
section
/-! DEFINITION. The fields of a firmware image (R462), the six measurements (R468), the certificate slots and their keys
(R470), what the SPDM responder answers from (R469). -/

namespace Sys2Proof.Machine
open Sys2Proof

/-! ## The image (R462) -/

/-- Bytes of an image in a bank. -/
def imgBytes (bank : Tab Byte) (a n : Nat) : List Byte := Tab.getRange 0 bank a n
/-- A little-endian header field. -/
def imgNat (bank : Tab Byte) (a n : Nat) : Nat := leNat (imgBytes bank a n)

/-- KEYSLOT. -/
def imgSlot (b : Tab Byte) : Nat := imgNat b 6 2
/-- FW_VERSION. -/
def imgVersion (b : Tab Byte) : Nat := imgNat b 8 4
/-- SVN. -/
def imgSvn (b : Tab Byte) : Nat := imgNat b 12 2
/-- EPH_MASK. -/
def imgEph (b : Tab Byte) : Nat := imgNat b 16 4
/-- LENGTH. -/
def imgLength (b : Tab Byte) : Nat := imgNat b 20 4
/-- DIMM_OFFSET. -/
def imgDimmAt (b : Tab Byte) : Nat := imgNat b 28 4
/-- DIMM_COUNT. -/
def imgDimms (b : Tab Byte) : Nat := imgNat b 32 4

/-! ## Measurements (R468) -/

/-- The fuse items of R458 but DEVICE_SECRET in table order: bits and value; a step of SVN is two cells (R459). -/
def fuseItems (s : State) : List (Nat × Nat) :=
  [(128, reg s Key.idSerial), (128, reg s Key.idUnique), (8, reg s Key.idPkgRev), (8, reg s Key.idModuleRev)] ++
  (List.range 4).map (fun i => (384, Config.keyHash i)) ++ [(4, s.boot.revoked)] ++
  (List.range 128).map (fun i => (1, Tab.get 0 s.boot.cells i)) ++ [(768, Config.devcertSig)]

/-- Measurement `n` as 48 bytes. -/
def measurement (s : State) (n : Nat) : List Byte :=
  let b := s.boot.running
  let zero : List Byte := List.replicate 48 0
  let bytes := match n with
    | 1 => beBytes 48 Config.romHash
    | 2 => beBytes 48 (Config.sha384 (Config.packFuses (fuseItems s)))
    | 3 => if s.boot.hasImage then beBytes 48 (Config.sha384 (imgBytes b 0 512)) else zero
    | 4 => if s.boot.hasImage then imgBytes b 176 48 else zero
    | 5 => leBytes 4 (reg s Key.fwVersion) ++ leBytes 2 (reg s Key.fwSvn) ++ leBytes 2 s.boot.svn
    | _ => leBytes 4 (reg s Key.dictWriters) ++ leBytes 1 (reg s Key.cxlIdeRequired) ++ leBytes 1 (reg s Key.mbxBindLocked) ++
           leBytes 1 (reg s Key.errContained) ++ leBytes 1 0
  (bytes ++ zero).take 48

/-- The DMTF type of measurement `n`. -/
def measType (n : Nat) : MeasType := if n ≤ 4 then .digest else .rawBits

/-- Measurements `1` to `n`. -/
def measurements (s : State) (n : Nat) : List (List Byte) := (rangeFrom 1 n).map (measurement s)

/-! ## Keys and certificates (R470, log 141) -/

/-- The DeviceID private key: of DEVICE_SECRET and the ROM measurement, the same at every power-up. -/
def deviceIdKey (s : State) : Nat := Config.deriveKey Config.deviceSecret (measurements s 1)

/-- The DeviceID certificate. -/
def deviceIdCert (s : State) : List Byte :=
  Config.deviceIdCert (reg s Key.idSerial) (Config.publicKey (deviceIdKey s)) Config.devcertSig

/-- The chain of slot 0: Trorov's root, the LN4 device CA, DeviceID. -/
def slotZero (s : State) : List (List Byte) := [Config.rootCert, Config.deviceCaCert, deviceIdCert s]

/-- An image starts: the alias key pair is derived, and its certificate, signed by the DeviceID key, carries FW_VERSION
and SVN. -/
def deriveAlias (s : State) : State :=
  let k := Config.deriveKey Config.deviceSecret (measurements s 4)
  let cert := Config.aliasCert (deviceIdKey s) (Config.publicKey k) (reg s Key.fwVersion) (reg s Key.fwSvn)
  { s with boot := { s.boot with aliasKey := some k, aliasCert := cert } }

/-- The chain of slot 1: slot 0's, then the alias certificate; empty before an image has started. -/
def slotOne (s : State) : List (List Byte) := if s.boot.aliasKey.isSome then slotZero s ++ [s.boot.aliasCert] else []

/-- What the responder offers (R469). -/
def spdmOffer : SpdmOffer :=
  { versions := [0x12, 0x13], secured := [0x11]
    caps := [.cert, .chal, .measSigned, .measFresh, .keyEx, .encrypt, .mac, .hbeat, .keyUpd]
    hash := .sha384, sig := .extended Config.vendorId 1, dhe := .secp384r1, aead := .aes256Gcm, sessions := 4 }

/-- The measurements with their types as a report gives them (R468). -/
def measReport (s : State) : List (MeasType × List Byte) := (rangeFrom 1 6).map (fun n => (measType n, measurement s n))

/-- The answer of the SPDM responder to a request: from what it offers, its certificate slots, the keys it signs with, the
measurements of the moment (R468-R470; the rest as the standard rules, log 7). -/
def spdmAnswer (s : State) (req : List Byte) : List Byte :=
  Config.spdmResponse spdmOffer s.fresh [slotZero s, slotOne s] (deviceIdKey s :: s.boot.aliasKey.toList) (measReport s) req

end Sys2Proof.Machine
end

