-- ==== Sys2Proof/Machine/Power.lean ====
section
/-! DEFINITION. Power (chapter 17) and the control inputs (chapter 18): domains, the ladder, cold power-up, warm
reset, clocks, the input's trips; the sensors (R448, R449, R454, R455); freezing and thawing by pin (R492). -/

namespace Sys2Proof.Machine
open Sys2Proof

/-! ## Domains (R427, R504, R514) -/

/-- The power domain of a dictionary group: 0 management, 1 hub always-on, 2 memory, 3 hub engines and router,
4 compute. -/
def domainOf (group : Nat) : Nat :=
  if 0x20 ≤ group ∧ group ≤ 0x28 then 4
  else if group = 0x30 ∨ group = 0x40 ∨ group = 0x41 then 3
  else if group = 0x31 ∨ group = 0x32 then 2
  else if group = 0x50 ∨ group = 0x51 then 1
  else 0

/-- Rows of R503 a domain needs in regulation. -/
def domainRows (d : Nat) : Nat :=
  match d with
  | 0 => 0
  | 1 => 2
  | 2 => 6
  | 3 => 3
  | _ => 8

/-- A domain is powered: by the ladder's state, and by its rails while the timeline of a start runs (R504, R514). -/
def domainOn (s : State) (d : Nat) : Bool :=
  let p := reg s Key.pwrState
  if d = 0 then true
  else if p = 0xFF then decide (domainRows d ≤ s.pwr.rows)
  else if p = 4 then false
  else if p = 3 then d ≤ 2
  else if p = 2 then d ≤ 3
  else true

/-- Counters of the domains (R427): first key, stride, count. -/
def counterRows : List (Nat × Nat × Nat) := [
  (Key.ephRejects, 1, 1), (Key.arrStreamCycles, 1, 4 * 256), (Key.arrSparseMetaFaults, 256, 2),
  (Key.vecIssueCycles, 1, 4 * 256), (Key.vecVprogFaults, 256, 3), (Key.dspStrandsForwarded, 1, 3 * 256),
  (Key.prdConfirmed, 1, 6 * 256), (Key.prdFaults, 1, 1), (Key.smpSlots, 1, 3 * 256), (Key.nblPairTests, 1, 3 * 256), (Key.smpGraphFaults, 256, 3),
  (Key.gseRowsGathered, 1, 3 * 256), (Key.gseIndexFaults, 256, 3), (Key.stgUnguardedRows, 1, 1),
  (Key.hrdTrainHits, 1, 5 * 256), (Key.migCommits, 1, 5 * 256), (Key.updElements, 1, 2 * 256), (Key.updStalledTotal, 1, 1),
  (Key.layerStalled, 256, 4096), (Key.layerSaturated, 256, 4096), (Key.savDenseBytes, 1, 4 * 256),
  (Key.savFullFaults, 256, 2), (Key.plcMovesDone, 256, 3), (Key.plcRowMoves, 256, 4), (Key.hbmCeCount, 1, 256),
  (Key.hbmUeCount, 1, 3 * 256), (Key.ddrCeCount, 1, 256), (Key.ddrUeCount, 1, 3 * 256), (Key.fabPartDrops, 256, 11),
  (Key.linkFecCorrected, 256, 6), (Key.linkFecUncorrected, 256, 6), (Key.linkReplays, 256, 6), (Key.linkRetrains, 256, 6),
  (Key.linkTxBytes, 256, 6), (Key.linkRxBytes, 256, 6), (Key.redCompleted, 256, 8), (Key.redMismatches, 256, 2),
  (Key.cxlDbRejects, 256, 4), (Key.mbxDenied, 256, 3)]

/-- The key is a counter of its unit. -/
def isCounter (k : Nat) : Bool :=
  counterRows.any (fun r => decide (r.1 ≤ k) && decide (k - r.1 < r.2.1 * r.2.2) && decide ((k - r.1) % r.2.1 = 0))

/-- Group of a packed key (R11). -/
def keyGroup (k : Nat) : Nat := k / 2 ^ 24

/-- The counters of the domains that meet `p` return to their power-up values (R427). -/
def resetCounters (s : State) (p : Nat → Bool) : State :=
  { s with dict := Tab.dropKeys (fun k => isCounter k && p (domainOf (keyGroup k))) s.dict }

/-- A reset of every domain but management returns what is no setting to its power-up value (R516). -/
def resetEntries (s : State) : State :=
  { s with dict := Tab.dropKeys (fun k => decide (domainOf (keyGroup k) ≠ 0) && k != Key.mbxBindLocked &&
      (decide (Key.queueEnable ≤ k) && decide (k < Key.queueEnable + 256 * 64) && decide ((k - Key.queueEnable) % 256 = 0) ||
       (match entryOf k with
        | some e => e.acc == 1 || e.acc == 4
        | none => false))) s.dict }

/-! ## Work in hand (R60, R506, R507) -/

/-- Positions of enabled queues produced and not fetched (R60). -/
def unfetched (s : State) : Bool :=
  (List.range 64).any (fun q => enabled s q && decide ((queueOf s q).next < (queueOf s q).prod))

/-- A descriptor of any class is queued or running; what is done for a peer's request is none. -/
def anyWork (s : State) : Bool := unfetched s || s.work.any (fun w => w.req.isNone)

/-- A descriptor of class 0x1..0x8 is queued or running (R60). -/
def engineWork (s : State) : Bool := unfetched s || s.work.any (fun w => decide (1 ≤ w.cls) && decide (w.cls ≤ 8))

/-- The conditions of R506 for Dusk do not hold. -/
def duskBusy (s : State) : Bool :=
  anyWork s || !s.red.ctxs.isEmpty || !s.place.moves.isEmpty || !s.dir.migs.isEmpty

/-- Declared objects but the dispatch areas (PLC_OBJECTS). -/
def objectCount (s : State) : Nat := (s.objs.filter (fun e => !isArea s e.1)).length

/-- Pages of this module homed in scratchpad: object, record, die. -/
def scratchPages (s : State) : List (Nat × PageRec × Nat) :=
  s.objs.flatMap (fun e => if isArea s e.1 then [] else e.2.pages.filterMap (fun r => match r.home with
    | .frame a => if tierOf a = 0 then some (e.1, r, unitDie (unitOf a)) else none
    | _ => none))

/-- Free HBM4 and DDR5 frames. -/
def memFree (s : State) : Nat := ((tierUnits 1 ++ tierUnits 2).map (freeCount s)).sum

/-- WAKE_N is low. It is high until a falling edge is accepted; after one, the board may have raised it again, which
no command tells: the level is open (log 42). Once it has been found high it is high until it falls again. -/
def wakeLow (s : State) : Bool × State :=
  if s.pwr.wakeN then (false, s)
  else
    let f := drawFree s
    let low := f.1 % 2 == 1
    (low, { f.2 with pwr := { f.2.pwr with wakeN := !low } })

/-- A request for state `v` is refused with IN_USE (R491, R506); `low`: WAKE_N is low. -/
def powerRefused (s : State) (v : Nat) (low : Bool) : Bool :=
  s.pwr.target.isSome || !s.pwr.pwrEn || reg s Key.frzState != 0 || reg s Key.bootState != 4 ||
  (decide (1 ≤ v) && duskBusy s) || (decide (2 ≤ v) && low) ||
  (decide (3 ≤ v) && (inPartition s || decide (memFree s < (scratchPages s).length))) ||
  (decide (4 ≤ v) && (objectCount s != 0 || (List.range 64).any (enabled s) ||
    s.cxl.apts.any (fun e => decide (e.2.state ≠ .unbound))))

/-! ## Entries and exits (R506-R510) -/

/-- The moves that empty the scratchpad: to HBM4 of the page's die, or DDR5 (R509). -/
def planEvictions (s : State) : State :=
  (scratchPages s).foldl (fun s x =>
    if s.place.moves.any (fun m => m.obj == x.1 && m.page == x.2.1.page) then s
    else addMove s { obj := x.1, page := x.2.1.page, src := x.2.1.home, coord := self s, tier := 1, die := some x.2.2,
                     q := localSeq s (objOf s x.1) x.2.1.page }) s

/-- The entry into a deeper state begins. -/
def beginEntry (s : State) (v : Nat) : State :=
  let s := { s with pwr := { s.pwr with target := some v, stopping := false, stage := 0, deep := 0, wakeHeld := false } }
  if 3 ≤ v then planEvictions s else s

/-- Rows of R503, its VOPT_3V3 and VOPT_0V9 counted apart. -/
def railRows : Nat := 10

/-- Every rail is in regulation. -/
def railsUp (s : State) : Bool := s.pwr.rows == railRows && s.pwr.down.isEmpty

/-- The exit to Noon begins, after which state `after` is entered (R506): the rails that are off rise (R503, R510). -/
def beginExit (s : State) (after : Option Nat) : State :=
  { s with pwr := { s.pwr with target := some 0, stopping := false, after := after, rowAt := s.time, raising := !railsUp s } }

/-- A freeze that was requested during a transition is entered once that is over (R510). -/
def lateFreeze (s : State) : State :=
  match s.pwr.freezeDue with
  | some x => enterFreeze { s with pwr := { s.pwr with freezeDue := none } } x.1 x.2
  | none => s

/-- An entry that a wake event has stopped (R510): back to Noon at once where no rail or memory action has begun. -/
def stopEntry (s : State) : State :=
  if reg s Key.pwrState = 0 ∧ s.pwr.deep = 0 then
    lateFreeze { s with pwr := { s.pwr with target := none, stopping := false, stage := 0 } }
  else beginExit s none

/-- An accepted request for state `v` ≥ 1 (R506). -/
def requestPower (s : State) (v : Nat) : State :=
  let p := reg s Key.pwrState
  if v = p then s
  else if p < v then beginEntry s v
  else beginExit s (some v)

/-- The wake event reaches the sequencer: it stops an entry or starts the exit (R508, R510); a freeze holds it
(R491). -/
def takeWake (s : State) : State :=
  if s.pwr.wakeHeld ∧ reg s Key.frzState = 0 then
    let s := { s with pwr := { s.pwr with wakeHeld := false } }
    match s.pwr.target with
    | some 0 => { s with pwr := { s.pwr with after := none } }
    | some _ =>
      let s := { s with place := { s.place with moves := s.place.moves.filter (fun m => decide (m.state ≠ .planned)) },
                        pwr := { s.pwr with after := none } }
      if s.place.moves.isEmpty && reg s Key.pwrState == 0 && s.pwr.stage == 0 then stopEntry s
      else { s with pwr := { s.pwr with stopping := true } }
    | none => if reg s Key.pwrState = 0 ∨ reg s Key.pwrState = 0xFF then s else beginExit s none
  else s

/-- WAKE_EVENT (R508, R510). -/
def execWakeEvent (t : Nat) (s : State) : Res := .next (takeWake (atTime s t))

/-- Memory units enter or leave self-refresh. -/
def selfRefresh (s : State) (on : Bool) : State :=
  let a := if on then 1 else 2
  let b := if on then 2 else 1
  let s := (List.range 8).foldl (fun s u => if reg s (Key.hbmState + u) = a then setReg s (Key.hbmState + u) b else s) s
  (List.range 16).foldl (fun s u => if reg s (Key.ddrState + u) = a then setReg s (Key.ddrState + u) b else s) s

/-- Ports park their transmit side on lane 0; the peer parks its own (R340). -/
def parkPorts (s : State) : State :=
  (upPorts s).foldl (fun s p =>
    sendIdle (setPort (setReg s (Key.linkState + 256 * p) 7) p
      { portOf s p with parkSet := true, lanes := 1, widenSet := false, relocked := false }) p false) s

/-- Ports announce that they go dark and switch off (R509). -/
def darkPorts (s : State) : State :=
  let s := (upPorts s).foldl (fun s p => sendIdle (setPort s p { portOf s p with parkSet := true, widenSet := true }) p false) s
  let s := (List.range 6).foldl (fun s p => setReg s (Key.linkState + 256 * p) 0) s
  { s with fab := { s.fab with ports := [] } }

/-- What is discarded in Midnight: hot copies and entries, sketches, pools, launch tables, units' state (R509). -/
def discardVolatile (s : State) : State :=
  { s with
    dir := { s.dir with entries := s.dir.entries.filter (fun e => decide (e.kind = .reloc)), sketch := [], lookups := [], fills := [] }
    strands := { nextBatch := s.strands.nextBatch }
    arr := []
    vec := [] }

/-- The CXL controller, the HDM decoder and the primary mailbox are reset (R394). -/
def resetCxl (s : State) : State :=
  let s := { s with cxl := { viral := s.cxl.viral } }
  [Key.cxlLinkState, Key.cxlLinkWidth, Key.cxlLinkSpeed, Key.cxlLinkDegraded, Key.cxlIdeState, Key.cxlHdmBase].foldl
    (fun s k => setReg s k (powerUp k)) s

/-- The SRAM decks go off: the scratchpad, which the entry has emptied of pages, holds nothing (R504, R505). -/
def dropScratch (s : State) : State :=
  { s with mem := { bytes := Tab.dropKeys (fun k => decide (k < hbmBase)) s.mem.bytes
                    poison := s.mem.poison.filter (fun p => decide (hbmBase ≤ p)) } }

/-- The domain a sensor's unit is in is powered and the unit exists; the optical engines' rails are the last to rise (R449,
R454, R503, R514). -/
def sensorOn (s : State) (ss : Nat) : Bool :=
  if ss ≤ 2 then true
  else if ss ≤ 6 then domainOn s 4
  else if ss = 7 then domainOn s 3 || domainOn s 1
  else if ss ≤ 0x0F then domainOn s 2
  else if ss ≤ 0x11 then true
  else if ss ≤ 0x17 then domainOn s 3 && (reg s Key.pwrState != 0xFF || s.pwr.rows == railRows)
  else if ss ≤ 0x27 then domainOn s 2 && reg s (Key.ddrState + (ss - 0x18)) != 0
  else false

/-- The sensors of domains that are off: SEN_STATE is 3 until the next sample, and samples at a trip are counted anew (R454,
R455). -/
def sleepSensors (s : State) : State :=
  ((List.range 0x28).filter (fun ss => !sensorOn s ss)).foldl (fun s ss =>
    { (setReg s (Key.senState + 256 * ss) 3) with sens := { s.sens with hot := Tab.set 0 s.sens.hot ss 0 } }) s

/-- Compute rails off in Twilight; deck, compute and optical rails off in Midnight, whose exit skips the rows up to 6 (R509,
R510, log 156). -/
def railsOff (v : Nat) : List Nat := if v = 2 then [8] else [7, 8, 9, 10]

/-- Everything New Moon does not retain: all but settings, the Almanac and the firmware banks (R505). -/
def dropRetained (s : State) : State :=
  let s := setReg (setReg s Key.plcEpoch (powerUp Key.plcEpoch)) Key.plcMembers (powerUp Key.plcMembers)
  resetCxl { s with
    mem := {}, objs := [], slots := [], queues := [], work := [], lines := [], guard := [], turn := [], addends := [], arr := []
    vec := [], strands := {}, binds := [], dir := {}, place := {}, fab := {}, mbx := [], red := {}
    pwr := { s.pwr with rows := 0, down := [], raising := false } }

/-- The steps of an entry (R509): Midnight's four, and one more for New Moon. -/
def entrySteps (v : Nat) : Nat := if v = 3 then 4 else if v = 4 then 5 else 1

/-- Step `k` of an entry into state `v` (R504, R509): the scratchpad is empty once Midnight's first step is done. -/
def entryStep (s : State) (v k : Nat) : State :=
  if v = 1 then s
  else if v = 2 then
    let s := selfRefresh (parkPorts s) true
    { s with pwr := { s.pwr with deep := 2, down := railsOff 2 } }
  else match k with
    | 1 => s
    | 2 => discardVolatile s
    | 3 => darkPorts s
    | 4 =>
      let s := setReg (dropScratch (selfRefresh s true)) Key.clkPllLocked 0
      { s with pwr := { s.pwr with deep := 3, down := railsOff 3 } }
    | _ => dropRetained s

/-- What an exit to Noon restores (R427, R510, R340). -/
def leaveState (s : State) (v : Nat) : State :=
  let s := if 2 ≤ v then selfRefresh s false else s
  let s := if v = 2 then (List.range 6).foldl (fun s p =>
      if linkState s p = 7 then sendIdle (setPort s p { portOf s p with parkSet := false, widenSet := true }) p false else s) s
    else s
  if v = 3 then resetCounters s (fun d => d == 3 || d == 4)
  else if v = 4 then resetCounters s (fun d => d != 0)
  else s

/-- Interrupts to control processors that waited for Noon follow (R415). -/
def sendNotices (s : State) : State :=
  let s := sendAll s (s.mbx.flatMap (fun e => e.2.notice.map .irq))
  { s with mbx := s.mbx.map (fun e => (e.1, { e.2 with notice := [] })) }

/-- A transition is complete (R506): PWR_STATE, PWR_TRANSITIONS, a freeze that waited (R510). -/
def endTransition (s : State) (v : Nat) : State :=
  let s := { s with pwr := { s.pwr with target := none, stopping := false, stage := 0, deep := 0 } }
  lateFreeze (sleepSensors (bump (setReg s Key.pwrState v) Key.pwrTransitions 1))

/-- A step of an entry is complete (R509): the next begins, the entry ends, or a wake event stops it here (R510). -/
def stepEntry (s : State) (v : Nat) : State :=
  let k := s.pwr.stage + 1
  let s := entryStep s v k
  if s.pwr.stopping then stopEntry s
  else if k < entrySteps v then { s with pwr := { s.pwr with stage := k } }
  else endTransition s v

/-- POWER_TRANSITION_DONE: a step of an entry, or the exit, is complete (R506, R509, R510). -/
def execPowerTransitionDone (t : Nat) (s : State) : Res :=
  let p := max (reg s Key.pwrState) s.pwr.deep
  .next (match s.pwr.target with
    | none => s
    | some 0 =>
      if (2 ≤ p ∧ railsUp s = false) ∨ (3 ≤ p ∧ reg s Key.clkPllLocked = 0) ∨ reg s Key.frzState ≠ 0 then s
      else
        let s := markReady (sendNotices (touch (endTransition (leaveState (atTime s t) p) 0)))
        match s.pwr.after with
        | some v =>
          let s := { s with pwr := { s.pwr with after := none } }
          let x := wakeLow s
          if powerRefused x.2 v x.1 then x.2 else requestPower x.2 v
        | none => s
    | some v =>
      if reg s Key.frzState ≠ 0 ∨ s.place.moves ≠ [] then s
      else
        let s := atTime s t
        if s.pwr.stopping = true ∧ s.pwr.stage = 0 then stopEntry s
        else if 3 ≤ v ∧ s.pwr.stage = 0 ∧ scratchPages s ≠ [] then planEvictions s
        else stepEntry s v)

/-- AUTO_DUSK (R507). -/
def execAutoDusk (t : Nat) (s : State) : Res :=
  let us := reg s Key.pwrAutoDuskUs
  .next (if us ≠ 0 ∧ reg s Key.pwrState = 0 ∧ powerRefused s 1 false = false ∧ s.pwr.idleAt + 1000 * us ≤ max s.time t then
    beginEntry (atTime s t) 1 else s)

/-! ## The input, the rails, the clocks (R498-R503, R511-R514) -/

/-- The switch opens: the result equals removal of input power (R3, R498). What is no part of the module stays: the
commands that wait, host memory, the blown fuses, what was sent. -/
def powerLoss (s : State) (tripped : Bool) : State :=
  { State.reset with
    pending := s.pending, fresh := s.fresh, host := s.host, hostPoison := s.hostPoison, out := s.out
    boot := { cells := s.boot.cells, revoked := s.boot.revoked }
    pwr := { tripped := tripped } }

/-- COLD_POWER_UP: the switch closes (R498, R499). -/
def execColdPowerUp (t : Nat) (s : State) : Res :=
  .next (if s.pwr.closed = false ∧ s.pwr.tripped = false then
    { (atTime s t) with pwr := { s.pwr with closed := true } } else s)

/-- MANAGEMENT_READY: fuses sensed, straps latched, WAIT_IMAGE (R437, R513, R529). -/
def execManagementReady (t : Nat) (s : State) : Res :=
  .next (if s.pwr.closed ∧ s.pwr.managed = false then
    let s := { (atTime s t) with pwr := { s.pwr with managed := true } }
    let slot := Config.slotId % 64
    let s := setReg (setReg s Key.idSlot slot) Key.flnNodeId (slot + 1)
    setReg (setReg s Key.flnMac (0x525402 + slot * 2 ^ 40)) Key.bootState 0
  else s)

/-- The sequencer begins to raise the rails (R503). -/
def startRails (s : State) : State := { s with pwr := { s.pwr with raising := true, rowAt := s.time } }

/-- RAILS_UP: a row is in regulation and the next is enabled: the lowest that the present state had switched off, or the one
after those that are up (R503). -/
def execRailsUp (t : Nat) (s : State) : Res :=
  .next (if s.pwr.raising ∧ railsUp s = false then
    let s := atTime s t
    let s := match s.pwr.down with
      | _ :: rest => { s with pwr := { s.pwr with down := rest, rowAt := s.time } }
      | [] => { s with pwr := { s.pwr with rows := s.pwr.rows + 1, rowAt := s.time } }
    { s with pwr := { s.pwr with raising := !railsUp s } }
  else s)

/-- Every rail the present state needs is in regulation (R503, R504). -/
def railsGood (s : State) : Bool :=
  let off := match reg s Key.pwrState with
    | 2 => railsOff 2
    | 3 => railsOff 3
    | 4 => rangeFrom 1 railRows
    | _ => []
  (rangeFrom 1 railRows).all (fun r => off.contains r || (decide (r ≤ s.pwr.rows) && !s.pwr.down.contains r))

/-- PWR_GOOD reads high (R503, R523): released, or high impedance in a module without its management domain. -/
def pwrGood (s : State) : Bool := !s.pwr.managed || (s.pwr.pwrEn && !s.pwr.thermtrip && railsGood s)

/-- PRSNT_N reads low: it is tied to GND in a module that is fitted, powered or not (R523). -/
def prsntN : Bool := false

/-- TDO is driven, only while the test access port shifts (R523). -/
def tdoDriven (s : State) (shifting : Bool) : Bool := s.pwr.managed && shifting

/-- What the CXL_TX pairs present. -/
inductive PairState where
  | highZ | idle | link
  deriving DecidableEq, Repr

/-- The CXL_TX pairs: high impedance, electrical idle in reset, else as the link's protocol has them (R523). -/
def cxlTx (s : State) : PairState :=
  if !s.pwr.managed then .highZ else if !s.pwr.pwrEn || reg s Key.cxlLinkState == 0 then .idle else .link

/-- The external reference proves good at a lock or not: the board's, which the spec leaves open (log 41). Almanac
kind of the entry: none of R457 names it. -/
def lockReference (s : State) : State :=
  if reg s Key.clkRefSelect = 0 then setReg s Key.clkRefState 0
  else
    let f := drawFree s
    if f.1 % 2 = 1 then setReg f.2 Key.clkRefState 1
    else
      let g := drawFree f.2
      setReg (alm g.2 0x7A (g.1 % 65536) []) Key.clkRefState 2

/-- ROOT_PLL_LOCK: clocks run (R512, R513); a warm reset restarts the running image (R470, R515). -/
def execRootPllLock (t : Nat) (s : State) : Res :=
  .next (if reg s Key.clkPllLocked = 0 ∧ 2 ≤ s.pwr.rows ∧ (reg s Key.pwrState = 0xFF ∨ s.pwr.target = some 0) then
    let s := lockReference (setReg (atTime s t) Key.clkPllLocked 1)
    let s := if s.pwr.perstN ∧ reg s Key.cxlLinkState = 0 then setReg s Key.cxlLinkState 1 else s
    if reg s Key.pwrState = 0xFF ∧ s.boot.hasImage = true ∧ reg s Key.bootState = 0 then
      deriveAlias (bump32 (setReg s Key.bootState 3) Key.bootStarts 1)
    else s
  else s)

/-- REFERENCE_LOSS: the root PLL goes over to the on-module oscillator (R513). -/
def execReferenceLoss (t : Nat) (s : State) : Res :=
  .next (if reg s Key.clkRefState = 1 then
    let f := drawFree (atTime s t)
    let seq := f.2.alm.next
    alert (setReg (alm f.2 0x7A (f.1 % 65536) []) Key.clkRefState 2) seq
  else s)

/-- UNDERVOLTAGE (R498); with the switch open, VIN64 has been removed, which ends an overcurrent trip (log 155). -/
def execUndervoltage (t : Nat) (s : State) : Res :=
  .next (if s.pwr.closed then powerLoss (atTime s t) false
    else if s.pwr.tripped then { (atTime s t) with pwr := { s.pwr with tripped := false, lowAt := 0 } } else s)

/-- OVERVOLTAGE (R498). -/
def execOvervoltage (t : Nat) (s : State) : Res := .next (if s.pwr.closed then powerLoss (atTime s t) false else s)

/-- OVERCURRENT_TRIP: the switch stays open (R498). -/
def execOvercurrentTrip (t : Nat) (s : State) : Res :=
  .next (if s.pwr.closed then powerLoss (atTime s t) true else s)

/-- SWITCH_RELEASE: PWR_EN has been accepted low for 10 ms (R498). -/
def execSwitchRelease (t : Nat) (s : State) : Res :=
  .next (if s.pwr.tripped ∧ s.pwr.lowAt ≠ 0 ∧ s.pwr.lowAt + 10000000 ≤ max s.time t then
    { (atTime s t) with pwr := { s.pwr with tripped := false } } else s)

/-- THROTTLE_STEP: the issue rate goes down or back up by a sixteenth (R498, R500); timing only. -/
def execThrottleStep (t : Nat) (s : State) : Res :=
  let cur := signed 32 (reg s (Key.senValue + 256 * 1))
  let pow := signed 32 (reg s (Key.senValue + 256 * 2))
  let lim : Int := 1000 * (reg s Key.pwrLimitW : Int)
  let s := atTime s t
  .next (if 50000 < cur ∨ lim < pow then { s with pwr := { s.pwr with throttle := min 15 (s.pwr.throttle + 1) } }
    else if 100 * cur < 95 * 50000 ∧ 100 * pow < 95 * lim then { s with pwr := { s.pwr with throttle := s.pwr.throttle - 1 } }
    else s)

/-! ## Warm reset (R515, R516) -/

/-- Every unit outside the management domain loses its state (R501, R516). -/
def dropDomains (s : State) : State :=
  let s := resetEntries s
  sleepSensors { State.reset with
    pending := s.pending, time := s.time, fresh := s.fresh, out := s.out, dict := s.dict, host := s.host
    hostPoison := s.hostPoison, srv := s.srv, alm := s.alm, boot := { s.boot with memReady := false }
    sens := s.sens
    pwr := { s.pwr with
      rows := 0, down := [], raising := false, target := none, stopping := false, stage := 0, deep := 0, after := none
      wakeHeld := false, freezeDue := none, throttle := 0 }
    err := s.err
    mbx := (List.range 64).map (fun c => (c, { expired := true })) }

/-- The effects of a warm reset (R515, R516). -/
def warmReset (s : State) : State :=
  let cause := if reg s Key.frzState = 4 then 2 else 1
  let s := dropDomains s
  let s := { s with err := {}, pwr := { s.pwr with thermtrip := false } }
  let b := reg s Key.bootState
  let s := setReg (setReg (setReg s Key.bootState (if b = 7 then 7 else 0)) Key.bootLoadOwner 0) Key.fwStagedVersion 0
  let s := setReg (setReg s Key.frzState 0) Key.rstCause cause
  sleepSensors (setReg (setReg s Key.pwrState 0xFF) Key.clkPllLocked 0)

/-- RAIL_TIMEOUT: error RAIL; every rail raised is taken down, and what they supply loses its state (R503, log 157). -/
def execRailTimeout (t : Nat) (s : State) : Res :=
  .next (if s.pwr.raising ∧ s.pwr.rowAt + 5000000 ≤ max s.time t then
    setReg (dropDomains (recordError { unit := 0x38, code := 0x0306 } (atTime s t))) Key.clkPllLocked 0
  else s)

/-- PWR_EN_LOW: a warm reset begins (R515, R525). -/
def execPwrEnLow (t : Nat) (s : State) : Res :=
  .next (let s := atTime s t
    if s.pwr.managed then
      if s.pwr.pwrEn ∨ s.pwr.thermtrip then
        let s := warmReset s
        { s with pwr := { s.pwr with pwrEn := false, lowAt := s.time } }
      else s
    else if s.pwr.tripped ∧ s.pwr.lowAt = 0 then { s with pwr := { s.pwr with lowAt := max 1 s.time } }
    else s)

/-- PWR_EN_HIGH: the main rails rise (R503, R515). -/
def execPwrEnHigh (t : Nat) (s : State) : Res :=
  .next (let s := atTime s t
    if s.pwr.managed then
      (if s.pwr.pwrEn then s
       else
         let s := { s with pwr := { s.pwr with pwrEn := true } }
         if s.pwr.thermtrip then s else startRails s)
    else if s.pwr.tripped then { s with pwr := { s.pwr with lowAt := 0 } }
    else s)

/-- THERMTRIP_N is asserted: every rail but VMGMT and VAUX_3V3 goes off (R501). -/
def thermTrip (s : State) : State :=
  if s.pwr.thermtrip then s
  else
    let s := dropDomains s
    sleepSensors (setReg (setReg { s with pwr := { s.pwr with thermtrip := true } } Key.pwrState 0xFF) Key.clkPllLocked 0)

/-! ## Sensors (R448, R449, R454, R455) -/

/-- The fixed trip of a sensor (R455). -/
def tripAt (ss : Nat) : Option Int :=
  if 3 ≤ ss ∧ ss ≤ 7 then some 110000
  else if 8 ≤ ss ∧ ss ≤ 0x0F then some 95000
  else if ss = 0x11 then some 70000
  else none

/-- DATA of a sensor entry (R457). -/
def sensorData (ss : Nat) (v lim : Int) : List Byte :=
  leBytes 1 ss ++ leBytes 3 0 ++ leBytes 4 (unsigned 32 v) ++ leBytes 4 (unsigned 32 lim)

/-- The value a sensor reports of a period's readings (R454): the mean of the input monitor's conversions, whose rounding is
open (log 158), else the largest. -/
def sensorValue (ss : Nat) (vs : List Int) (s : State) : Int × State :=
  if ss ≤ 2 then
    let n : Int := max 1 vs.length
    let q := vs.sum / n
    if vs.sum % n = 0 then (q, s)
    else
      let f := drawFree s
      (q + (f.1 % 2 : Nat), f.2)
  else (vs.foldl max (vs.headD 0), s)

/-- SENSOR_SAMPLE: value, peak, limits, trips (R449, R454, R455). -/
def execSensorSample (ss : Nat) (vs : List Int) (t : Nat) (s : State) : Res :=
  .next (if 0x28 ≤ ss ∨ vs.isEmpty = true ∨ sensorOn s ss = false ∨ s.pwr.managed = false then s
    else
      let (v, s) := sensorValue ss vs (atTime s t)
      let k := Key.senValue + 256 * ss
      let x := signed 32 (unsigned 32 v)
      let lo := signed 32 (reg s (k + 1))
      let hi := signed 32 (reg s (k + 2))
      let old := reg s (k + 4)
      let s := setReg s k (unsigned 32 x)
      let s := setReg s (k + 3) (unsigned 32 (max x (signed 32 (reg s (k + 3)))))
      let trip := tripAt ss
      let n := match trip with
        | some l => if l ≤ x then Tab.get 0 s.sens.hot ss + 1 else 0
        | none => 0
      let s := { s with sens := { s.sens with hot := Tab.set 0 s.sens.hot ss n } }
      let out := decide (x < lo) || decide (hi < x)
      let hbm := decide (8 ≤ ss) && decide (ss ≤ 0x0F)
      if 2 ≤ n then
        let s := setReg s (k + 4) 2
        if old ≠ 2 ∨ (hbm = false ∧ s.pwr.thermtrip = false) then
          let s := alm s 0x7C 0x0011 (sensorData ss x (trip.getD 0))
          if hbm then s else thermTrip s
        else s
      else if old = 2 ∧ hbm = true ∧ 90000 ≤ x then s
      else if out then
        let s := setReg s (k + 4) 1
        let last := Tab.get 0 s.sens.warned ss
        if old ≠ 1 ∧ (last = 0 ∨ last + 1000000000 ≤ s.time) then
          let seq := s.alm.next
          let s := alm s 0x7C 0x0010 (sensorData ss x (if x < lo then lo else hi))
          alert { s with sens := { s.sens with warned := Tab.set 0 s.sens.warned ss (max 1 s.time) } } seq
        else s
      else setReg s (k + 4) 0)

/-! ## Control inputs (R525-R528) -/

/-- WAKE_N_FALL: a wake event (R508). -/
def execWakeNFall (t : Nat) (s : State) : Res :=
  .next (let s := atTime s t
    if s.pwr.managed then raiseWake { s with pwr := { s.pwr with wakeN := false } } true else s)

/-- FREEZE_N_HIGH: FREEZE_N is accepted high and a thaw is requested (R492). -/
def execFreezeNHigh (t : Nat) (s : State) : Res :=
  .next (let s := atTime s t
    if s.pwr.managed && !s.pwr.freezeN then
      let s := { s with pwr := { s.pwr with freezeN := true } }
      if reg s Key.frzState = 2 then markReady (thaw s).1 else s
    else s)

/-- Level of a filtered input (R526). -/
def inputLevel (s : State) (sig : Nat) : Bool :=
  match sig with
  | 1 => s.pwr.pwrEn
  | 2 => s.pwr.perstN
  | 3 => s.pwr.freezeN
  | _ => s.pwr.wakeN

/-- INPUT_STORM (R526): an Almanac entry with the held level, which of WAKE_N after a fall is open (log 42). -/
def execInputStorm (sig t : Nat) (s : State) : Res :=
  .next (if s.pwr.managed ∧ 1 ≤ sig ∧ sig ≤ 4 then
    let s := if sig = 4 then (wakeLow (atTime s t)).2 else atTime s t
    alm s 0xFF 0x0012 (leBytes 1 sig ++ leBytes 1 (inputLevel s sig).toNat) else s)

/-- IDCODE of the JTAG port: the part number in bits 12..27, ID_PKG_REV in 28..31; the bits below are IEEE 1149.1's (R495,
log 159). -/
def jtagIdcode (s : State) : Nat :=
  Config.jtagMaker % 4096 + 0x4C34 * 2 ^ 12 + reg s Key.idPkgRev % 16 * 2 ^ 28

/-- BYPASS of the JTAG port: one bit between TDI and TDO (R495). -/
def jtagBypass (tdi : List Bool) : List Bool := (false :: tdi).take tdi.length

/-- SAMPLE of the JTAG port: the filtered inputs as the module holds them (R495, log 159). -/
def jtagSample (s : State) : List Bool := [s.pwr.pwrEn, s.pwr.perstN, s.pwr.freezeN, s.pwr.wakeN]

/-- EXTEST: the boundary-scan cells take the levels shifted in, in any state (R495). -/
def execExtest (cells : List Bool) (s : State) : Res := .next { s with pwr := { s.pwr with cells := cells } }

end Sys2Proof.Machine
end

