-- ==== Sys2Proof/Machine/Link.lean ====
section
/-! DEFINITION. Ports as receivers (R334-R343), the router (R351), multicast replicas (R358, R359), Sluice windows as
their receiver (R352). -/

namespace Sys2Proof.Machine
open Sys2Proof

/-! ## Training (R337-R339) -/

/-- Sets LINK_STATE. -/
def setLink (s : State) (p v : Nat) : State := setReg s (Key.linkState + 256 * p) v

/-- DATA of a LINK entry (R457). -/
def linkData (s : State) (p : Nat) : List Byte :=
  leBytes 1 p ++ leBytes 1 (linkState s p) ++ leBytes 2 (reg s (Key.linkPeer + 256 * p)) ++
  leBytes 4 (reg s (Key.linkRetrains + 256 * p))

/-- Training may run: LINK_ENABLE is 1 in Noon or Dusk (R337). -/
def mayTrain (s : State) (p : Nat) : Bool :=
  decide (p < 6) && reg s (Key.linkEnable + 256 * p) == 1 && decide (reg s Key.pwrState ≤ 1) && decide (reg s Key.frzState = 0)

/-- Training begins at step 2. -/
def startTraining (s : State) (p : Nat) : State :=
  setPort (setLink s p 1) p { portOf s p with trainAt := s.time, darkDue := false }

/-- LINK_TRAINING_START; a FAILED link keeps attempting training (R337, R339). -/
def execLinkTrainingStart (p t : Nat) (s : State) : Res :=
  .next (if mayTrain s p ∧ (linkState s p = 0 ∨ linkState s p = 9) then startTraining (atTime s t) p else s)

/-- LIGHT_DETECTED (R337). -/
def execLightDetected (p t : Nat) (s : State) : Res :=
  .next (if mayTrain s p ∧ linkState s p = 1 then setLink (atTime s t) p 2 else s)

/-- The exchange frame: FAB_COORD, port, FAB_COMPAT_MAX, FAB_PART_ID, FAB_EPOCH (R337; layout log 44). -/
def exchangeBytes (s : State) (p : Nat) : List Byte :=
  leBytes 2 (self s) ++ leBytes 1 p ++ leBytes 1 (reg s Key.fabCompatMax) ++ leBytes 2 (reg s Key.fabPartId) ++
  leBytes 2 (reg s Key.fabEpoch)

/-- FEC_LOCK: the lanes lock, LINK_STATE LOCK, are deskewed, DESKEW, and the exchange frame goes out, EXCHANGE (R337): LOCK
and DESKEW begin and end within this one command (log 121); on a parked link that widens lanes 1..15 are locked again
(R340). -/
def execFecLock (p t : Nat) (s : State) : Res :=
  .next (if mayTrain s p ∧ linkState s p = 2 then
      let s := atTime s t
      send (setLink (setLink (setLink s p 3) p 4) p 5) (.exchange p (exchangeBytes s p))
    else if p < 6 ∧ linkState s p = 7 then setPort (atTime s t) p { portOf s p with relocked := true }
    else s)

/-- A replayed flit carries the current FACK, PARK and WIDEN (R342), and the credit it carried, unless the link has come up
anew, which restores all credit (`void`, R343). -/
def refreshFlit (x : Port) (void : Bool) (f : List Byte) : List Byte :=
  let h := leNat (f.take 4)
  let h := h % 4096 + x.fack % 4096 * 2 ^ 12 + x.parkSet.toNat * 2 ^ 26 + x.widenSet.toNat * 2 ^ 27 + bits h 28 4 * 2 ^ 28
  let body := leBytes 4 h ++ (if void then leBytes 4 0xF000F else (f.take 8).drop 4) ++ (f.take 252).drop 8
  body ++ leBytes 4 (crc32c body)

/-- Sends the replay buffer again (R342); an ISOLATED module has nothing to send (R361). -/
def replayAll (s : State) (p : Nat) (void : Bool) : State :=
  let x := portOf s p
  if reg s Key.fabState = 5 then s else x.replay.foldl (fun s f => putFlit s p (refreshFlit x void f.2)) s

/-- EXCHANGE_FRAME: level, MISWIRED or UP (R337); what was not acknowledged is replayed (R338). -/
def execExchangeFrame (p : Nat) (frame : List Byte) (t : Nat) (s : State) : Res :=
  .next (if mayTrain s p ∧ linkState s p = 5 ∧ frame.length = 8 then
    let s := atTime s t
    let peer := field frame 0 2
    let s := setReg s (Key.linkPeer + 256 * p) peer
    if self s = 0xFFFF ∨ peer = 0xFFFF then s
    else if peer ≠ portPeer (self s) p then
      let s := setLink s p 8
      alm s (0x70 + p) 0x0040 (linkData s p)
    else
      let s := setReg s (Key.linkLevel + 256 * p) (min (field frame 3 1) (reg s Key.fabCompatMax))
      let x := portOf s p
      let s := setPort (setLink s p 6) p { x with
        lanes := 16, rxLanes := 16, darkDue := false, parkSet := false, peerPark := false, widenSet := false, peerWiden := false, relocked := false,
        shared := 8192, classes := [], freed := [], peerPart := field frame 4 2, lastValid := s.time, nakAt := none,
        timed := true, txLine := [], txHist := [], rxLine := [], rxHist := [], badAt := [] }
      transmit (replayAll s p true) p
  else s)

/-- LINK_TRAIN_TIMEOUT: not UP 10 ms after training began (R337). -/
def execLinkTrainTimeout (p t : Nat) (s : State) : Res :=
  .next (if mayTrain s p ∧ 1 ≤ linkState s p ∧ linkState s p ≤ 5 ∧ (portOf s p).trainAt + 10000000 ≤ max s.time t then
    startTraining (bump32 (atTime s t) (Key.linkRetrains + 256 * p) 1) p else s)

/-- A link that is UP or parked leaves that state and trains again (R338). -/
def retrain (s : State) (p : Nat) : State := startTraining (bump32 s (Key.linkRetrains + 256 * p) 1) p

/-- LINK_RETRAIN: FEC lock lost or too many uncorrectable codewords (R338); a peer that announced it goes dark has lost its
light, and the port waits for it in DETECT (R509). -/
def execLinkRetrain (p t : Nat) (s : State) : Res :=
  .next (if p < 6 ∧ linkUp s p = true then
    (if (portOf s p).darkDue then startTraining (atTime s t) p else retrain (atTime s t) p) else s)

/-- The timeout of R339 runs: the link is UP or parked, or has been and retrains; not after the peer has announced that it
goes dark (R509). -/
def mayTimeOut (s : State) (p : Nat) : Bool :=
  (linkUp s p && !(portOf s p).darkDue) || ((portOf s p).timed && decide (1 ≤ linkState s p) && decide (linkState s p ≤ 5))

/-- LINK_TIMEOUT: no valid flit for LINK_TIMEOUT_US (R339). The sequence begins anew (log 43). -/
def execLinkTimeout (p t : Nat) (s : State) : Res :=
  .next (if p < 6 ∧ mayTimeOut s p = true ∧ (portOf s p).lastValid + 1000 * reg s Key.linkTimeoutUs ≤ max s.time t then
    let s := atTime s t
    let x := portOf s p
    let s := bump s Key.fabLinkDrops (x.outq.length + x.starts.length)
    let s := setPort (setLink s p 9) p { x with
      replay := [], outq := [], stream := [], starts := [], nextSeq := 0, expect := 0, chunks := [], nakAt := none, timed := false }
    alert (alm s (0x70 + p) 0x0040 (linkData s p)) s.alm.next
  else s)

/-! ## Flits (R340-R343, R491) -/

/-- A flit of 256 bytes whose CRC-32C holds (R341). -/
def flitOk (f : List Byte) : Bool := f.length == 256 && field f 252 4 == crc32c (f.take 252)

/-- Credit of one return field (R343). -/
def takeCredit (x : Port) (c : Nat) : Port :=
  let k := c % 16
  let n := c / 16
  if k < 8 then { x with classes := Tab.set 0 x.classes k (Tab.get 0 x.classes k - n) }
  else if k = 8 then { x with shared := min 8192 (x.shared + n) }
  else x

/-- Drops from the replay buffer what FACK covers (R342). -/
def takeAck (x : Port) (fack : Nat) : Port :=
  { x with replay := x.replay.filter (fun e => decide (2048 ≤ (fack + 4096 - e.1) % 4096)) }

/-- Cuts whole packets from a chunk stream; zero chunks after the last packet are filler (log 14). -/
def cutPackets : Nat → List Byte → List Pkt × List Byte
  | 0, bs => ([], bs)
  | fuel + 1, bs =>
    if bs.length < 32 ∨ field bs 0 1 = 0 then ([], if field bs 0 1 = 0 then [] else bs)
    else match decodePkt bs with
      | none => ([], bs)
      | some (p, rest) =>
        let r := cutPackets fuel rest
        (p :: r.1, r.2)

/-- Sends NAK once; it is repeated by NAK_RETRY (R342). -/
def nakOnce (s : State) (p : Nat) : State :=
  let x := portOf s p
  if x.nakAt.isSome then s else sendIdle (setPort s p { x with nakAt := some s.time }) p true

/-- PARK and WIDEN of a received flit (R340, R509). Both together announce that the peer goes dark. PARK parks the direction
it comes in, and this port parks its own; WIDEN is answered, and remembered until both directions are wide. -/
def takeWidth (s : State) (p : Nat) (park widen : Bool) (seq : Nat) : State :=
  let x := portOf s p
  let parked := linkState s p == 7
  if park && widen then setPort s p { x with timed := false, darkDue := true }
  else if park && !parked then
    sendIdle (setPort (setLink s p 7) p { x with peerPark := true, parkSet := true, lanes := 1, rxLanes := 1, widenSet := false,
                                                 peerWiden := false, relocked := false }) p false
  else if park then setPort s p { x with peerPark := true, rxLanes := 1, peerWiden := false }
  else if widen && parked then
    let answer := !x.widenSet
    let s := setPort s p { x with peerPark := false, peerWiden := true, widenSet := true, parkSet := false }
    let s := if widens s p seq then widened (setPort s p { portOf s p with rxLanes := 16 }) p else s
    if answer then sendIdle s p false else s
  else if widens s p seq then widened (setPort s p { x with rxLanes := 16 }) p
  else s

/-- The packets a flit carries whole, as a watch receiver decodes them (R491), and whether it carries nothing else. -/
def watchPackets (f : List Byte) (pstart : Nat) : List Pkt × Bool :=
  if pstart = 15 then ([], false)
  else
    let r := cutPackets 8 (((f.drop 12).take 240).drop (16 * pstart))
    (r.1, pstart == 0 && r.2.isEmpty)

/-- A control packet of one hop that a module takes from the neighbour at a port (R351, R489, R492). -/
def fromMember (s : State) (p : Nat) (k : Pkt) : Bool :=
  memberPort s p && k.src == reg s (Key.linkPeer + 256 * p) && k.part == reg s Key.fabPartId && k.epoch == reg s Key.fabEpoch &&
  pktCrc k == k.sum

/-- A valid flit at a watch receiver (R491, R492): a THAW is taken; a FREEZE changes nothing any more (R489). -/
def watchFlit (s : State) (p : Nat) (f : List Byte) (idle : Bool) (pstart : Nat) : State :=
  let r := if idle then ([], false) else watchPackets f pstart
  let only := r.2 && !r.1.isEmpty && r.1.all isWatch
  let ks := r.1.filter (fun k => k.ty == 0x0C && k.aux == ctrlThaw && fromMember s p k)
  let st := reg s Key.frzStatus
  let s := if memberPort s p && !only && decide (2 ≤ reg s Key.frzState) && decide (reg s Key.frzEntryNs + 10000 < s.time) && !bit st p
    then setReg s Key.frzStatus (st + 2 ^ p) else s
  { s with fab := { s.fab with inbox := s.fab.inbox ++ ks } }

/-- One flit at a port (R340-R343, R491): one whose CRC fails and a non-idle one out of order are discarded whole. -/
def takeFlit (p : Nat) (f : List Byte) (s : State) : State :=
  if linkUp s p = false then s
    else
    if !flitOk f then (if reg s Key.frzState = 0 then nakOnce s p else s)
    else
      let h := leNat (f.take 12)
      if reg s Key.frzState ≠ 0 then watchFlit (setPort s p { portOf s p with lastValid := s.time }) p f (bit h 25) (bits h 28 4)
      else if bit h 25 = false ∧ h % 4096 ≠ (portOf s p).expect then nakOnce s p
      else
        let x := { portOf s p with lastValid := s.time }
        let x := takeCredit (takeCredit (takeAck x (bits h 12 12)) (bits h 32 16)) (bits h 48 16)
        let s := setPort s p x
        let s := if bit h 24 then replayAll (bump s (Key.linkReplays + 256 * p) 1) p false else s
        let s := takeWidth s p (bit h 26) (bit h 27) (h % 4096)
        if bit h 25 then transmit s p
        else
          let x := portOf s p
          let data := (f.drop 12).take 240
          let fresh := if bits h 28 4 = 15 then [] else data.drop (16 * bits h 28 4)
          let r := cutPackets 8 (if x.chunks.isEmpty then fresh else x.chunks ++ data)
          let n := (r.1.map (fun k => 16 * pktChunks k)).sum
          let s := setPort s p { x with expect := (x.expect + 1) % 4096, nakAt := none, chunks := r.2, inq := x.inq ++ r.1 }
          transmit (sendIdle (bump s (Key.linkRxBytes + 256 * p) n) p false) p

/-- Whole flits of a byte stream, and what is left. -/
def cutFlits (bs : List Byte) : List (List Byte) × List Byte :=
  (cutInto 256 (bs.length / 256) bs, bs.drop (256 * (bs.length / 256)))

/-- One codeword of each lane the peer sends on, lane 0 alone once it parks (R335, R336, R340): those with wrong symbols are corrected and counted, the uncorrectable ones
counted and passed on as they are; the scrambling comes off, and the bytes of the lanes make up the flits. More than 16
uncorrectable ones within 1 ms make the link retrain (R338). -/
def takeWords (p : Nat) (ws : List (List Nat)) (s : State) : State :=
  let x := portOf s p
  if linkUp s p = false ∨ (ws.length ≠ 1 ∧ (ws.length ≠ 16 ∨ (x.rxLanes ≠ 16 ∧ x.relocked = false))) then s
  else
    let ds := ws.map rsDecode
    let bad := (ds.filter (·.isNone)).length
    let fixed := (ds.filter (fun d => (d.map (·.2)).getD 0 != 0)).length
    let s := bump (bump s (Key.linkFecCorrected + 256 * p) fixed) (Key.linkFecUncorrected + 256 * p) bad
    let rs := (List.zip (List.range ws.length) (List.zip ws ds)).map (fun e =>
      laneData (x.rxHist.getD e.1 0) ((e.2.2.map (·.1)).getD e.2.1))
    let c := cutFlits (x.rxLine ++ dealt (rs.map (·.1)))
    let x := { x with rxLine := c.2, rxHist := rs.map (·.2) ++ x.rxHist.drop ws.length,
                      badAt := x.badAt.filter (fun a => decide (s.time < a + 1000000)) ++ List.replicate bad s.time }
    let s := c.1.foldl (fun s f => takeFlit p f s) (setPort s p x)
    if 16 < x.badAt.length ∧ linkUp s p = true then retrain s p else s

/-- FLIT_RECEIVE (R335, R336, R340-R343, R491). -/
def execFlitReceive (p : Nat) (line : LineIn) (t : Nat) (s : State) : Res :=
  .next (if 6 ≤ p ∨ linkUp s p = false then s
    else match line with
      | .flit f => takeFlit p f (atTime s t)
      | .codewords ws => takeWords p ws (atTime s t))

/-- NAK_RETRY: every 1 µs until the expected flit arrives (R342). -/
def execNakRetry (p t : Nat) (s : State) : Res :=
  .next (match (portOf s p).nakAt with
    | some a =>
      if p < 6 ∧ linkUp s p = true ∧ reg s Key.frzState = 0 ∧ a + 1000 ≤ max s.time t then
        let s := atTime s t
        sendIdle (setPort s p { portOf s p with nakAt := some s.time }) p true
      else s
    | none => s)

/-! ## Sluice windows as their receiver (R352, R354) -/

/-- Changes a receive window. -/
def setRcv (s : State) (w : RcvWin) : State :=
  { s with fab := { s.fab with rcv := s.fab.rcv.filter (fun x => !(x.peer == w.peer && x.tc == w.tc)) ++ [w] } }

/-- A receive window. -/
def rcvOf (s : State) (peer tc : Nat) : RcvWin :=
  (s.fab.rcv.find? (fun x => x.peer == peer && x.tc == tc)).getD { peer := peer, tc := tc }

/-- Sends the SACK of a receive window (R352, R354). -/
def sendSack (s : State) (w : RcvWin) : State :=
  let s := setRcv s { w with unacked := 0, ce := false }
  postLoose s { ty := 0x09, tc := 3, dst := w.peer, aux := w.tc, seq := (w.expect + 65535) % 65536, ece := w.ce }

/-- Sequence number `a` lies before `b` (modulo 2^16). -/
def seqLt (a b : Nat) : Bool := decide (a ≠ b) && decide ((b + 65536 - a) % 65536 < 32768)

/-- The Sluice rules of R352 on a packet that arrives: whether it is accepted. -/
def sluiceAccept (s : State) (k : Pkt) : State × Bool :=
  let w := rcvOf s k.src k.tc
  if k.seq = w.expect then
    let w := { w with expect := (w.expect + 1) % 65536, unacked := w.unacked + 1,
                      firstAt := if w.unacked = 0 then s.time else w.firstAt, ce := w.ce || k.ce }
    (if reg s Key.sluiceAckEvery ≤ w.unacked then sendSack s w else setRcv s w, true)
  else if seqLt k.seq w.expect then (sendSack s w, false)
  else (bump s Key.fabOooDrops 1, false)

/-- SACK_TIMER: 2 µs since the first packet not acknowledged (R352, R490). -/
def execSackTimer (peer tc t : Nat) (s : State) : Res :=
  let w := rcvOf s peer tc
  .next (if 0 < w.unacked ∧ w.firstAt + 2000 ≤ max s.time t ∧ reg s Key.frzState = 0 then sendSack (atTime s t) w else s)

/-! ## Delivery (R350, R351) -/

/-- The defined packet types (R350). -/
def knownType (ty : Nat) : Bool := decide (1 ≤ ty) && decide (ty ≤ 0x0C)

/-- The packet does something under a pinned version (R61, R351 check 4). -/
def ephChecked (k : Pkt) : Bool := k.ty == 0x05 || (k.ty == 0x07 && decide (1 ≤ k.aux) && decide (k.aux ≤ 3)) || k.ty == 0x0B

/-- A packet reaches its destination (R351): CRC, fenced source, Sluice, type; then it waits for its step. A request
to a module in Dusk or Twilight is a wake event (R363); requests alone count for R507. -/
def deliver (s : State) (k : Pkt) : State :=
  if pktCrc k ≠ k.sum then bump s Key.fabE2eCrcErr 1
  else if fenced s k.src then s
  else
    let r := if k.tc = 3 ∨ k.mc = true then (s, true) else sluiceAccept s k
    if !r.2 then r.1
    else if !knownType k.ty then bump r.1 Key.fabBadType 1
    else
      let s := { r.1 with fab := { r.1.fab with inbox := r.1.fab.inbox ++ [k] } }
      let p := reg s Key.pwrState
      if k.tc ≠ 0 then s
      else touch (if p = 1 ∨ p = 2 ∨ s.pwr.target.isSome = true then raiseWake s false else s)

/-! ## Multicast (R357-R359) -/

/-- The mask of a dimension. -/
def Pkt.mask (k : Pkt) (dim : Nat) : Nat := match dim with
  | 0 => k.xmask
  | 1 => k.ymask
  | _ => k.zmask

/-- The coordinate of a module in a dimension. -/
def coordIn (c dim : Nat) : Nat := match dim with
  | 0 => cx c
  | 1 => cy c
  | _ => cz c

/-- A module's coordinates with one replaced. -/
def withCoord (c dim v : Nat) : Nat := match dim with
  | 0 => coordOf v (cy c) (cz c)
  | 1 => coordOf (cx c) v (cz c)
  | _ => coordOf (cx c) (cy c) v

/-- Size of a box in a dimension. -/
def boxIn (bx : Box) (dim : Nat) : Nat := match dim with
  | 0 => bx.a
  | 1 => bx.b
  | _ => bx.c

/-- Mask coordinates of a dimension inside the box. -/
def maskCoords (bx : Box) (k : Pkt) (dim : Nat) : List Nat :=
  (List.range 16).filter (fun v => bit (k.mask dim) v && decide (localIx (coordIn bx.origin dim) v < boxIn bx dim))

/-- Hops from `a` to `b` in a direction of a dimension. -/
def hopsIn (dir : Bool) (a b : Nat) : Nat := if dir then (b + 16 - a) % 16 else (a + 16 - b) % 16

/-- The coordinates a branch of direction `dir` made at `start` still has to reach beyond `cur`. -/
def ahead (bx : Box) (k : Pkt) (dim : Nat) (dir : Bool) (start cur : Nat) : List Nat :=
  (maskCoords bx k dim).filter (fun v => dirOf (coordIn bx.origin dim) (boxIn bx dim) start v == some dir &&
    decide (hopsIn dir start cur < hopsIn dir start v))

/-- The destinations behind a coordinate of a branch's dimension: the masks of the later dimensions. -/
def behind (bx : Box) (k : Pkt) (dim at_ : Nat) : List Nat :=
  match dim with
  | 0 => (maskCoords bx k 1).flatMap (fun y => (maskCoords bx k 2).map (fun z => coordOf (cx at_) y z))
  | 1 => (maskCoords bx k 2).map (fun z => coordOf (cx at_) (cy at_) z)
  | _ => [at_]

/-- The mask of a list of coordinates. -/
def maskOf (vs : List Nat) : Nat := vs.eraseDups.foldl (fun n v => n + 2 ^ v) 0

/-- A router that removed destinations counts them and sends a DROP_REPORT that lists them; what the sender itself leaves
out is no drop (R359). -/
def reportDrops (s : State) (k : Pkt) (gone : List Nat) : State :=
  if gone.isEmpty ∨ k.src = self s then s
  else
    let s := bump s Key.fabMcDropped gone.length
    postPkt s { ty := 0x0A, tc := 1, dst := k.src, aux := gone.length, txid := k.txid, len := 2 * gone.length,
                     payload := gone.flatMap (leBytes 2) }

/-- A replica whose masks have changed carries the CRC of its new header, unless the packet's own was wrong (R349, R359). -/
def reseal (k r : Pkt) : Pkt := if pktCrc k = k.sum then sealPkt r else r

/-- Coordinates and the box of their masks. -/
def boxOfSet (cs : List Nat) : List Nat × List Nat × List Nat :=
  ((cs.map cx).eraseDups, (cs.map cy).eraseDups, (cs.map cz).eraseDups)

/-- A set of coordinates as boxes of masks that name them alone: one where it is a box, else by x, else by x and y (log 45). -/
def splitSet (cs : List Nat) : List (List Nat × List Nat × List Nat) :=
  let whole (cs : List Nat) : Bool :=
    let b := boxOfSet cs
    cs.eraseDups.length == b.1.length * b.2.1.length * b.2.2.length
  if whole cs then [boxOfSet cs]
  else ((cs.map cx).eraseDups).flatMap (fun x =>
    let px := cs.filter (fun c => cx c == x)
    if whole px then [boxOfSet px]
    else ((px.map cy).eraseDups).map (fun y => boxOfSet (px.filter (fun c => cy c == y))))

/-- One branch of a multicast packet (R358): the fence table removes destinations; where the masks of one packet cannot name
those that are left alone, the branch goes as several packets (R359, log 45). -/
def sendBranch (s : State) (k : Pkt) (dim : Nat) (dir : Bool) (start cur : Nat) : State :=
  let bx := boxOf s
  let me := self s
  let vs := ahead bx k dim dir start cur
  let dests := vs.flatMap (fun v => (behind bx k dim (withCoord me dim v)).map (fun c => (v, c)))
  let blocked (v c : Nat) : Bool := (List.range 16).any (fun u =>
    decide (0 < hopsIn dir cur u) && decide (hopsIn dir cur u ≤ hopsIn dir cur v) && noFwd s (withCoord me dim u) &&
    c != withCoord me dim u)
  let bad (e : Nat × Nat) : Bool := fenced s e.2 || e.2 == k.src || blocked e.1 e.2
  let left := dests.filter (fun e => !bad e)
  if left.isEmpty then reportDrops s k ((dests.filter (fun e => bad e && e.2 != k.src)).map (·.2))
  else
    let gone := (dests.filter (fun e => bad e && e.2 != k.src)).map (·.2)
    let port := 2 * dim + (if dir then 0 else 1)
    (splitSet (left.map (·.2))).foldl (fun s b =>
      enqueue s port (reseal k { k with
        xmask := if dim = 0 then maskOf b.1 else k.xmask
        ymask := if dim ≤ 1 then maskOf b.2.1 else k.ymask
        zmask := maskOf b.2.2, stage := dim, dir := dir
        vc := vcOn bx me port (if start = cur then none else some port) k.vc })) (reportDrops s k gone)

/-- A module processes stage `dim` (R358); one that is fenced in its own table is no destination (R359). -/
def mcStage (k : Pkt) : Nat → Nat → State → State
  | 0, _, s => s
  | fuel + 1, dim, s =>
    if 3 ≤ dim then (if k.src = self s then s else if fenced s (self s) then reportDrops s k [self s] else deliver s k)
    else
      let me := coordIn (self s) dim
      let s := sendBranch s k dim true me me
      let s := sendBranch s k dim false me me
      if bit (k.mask dim) me then mcStage k fuel (dim + 1) s else s

/-- A branch arrives (R358). -/
def mcReceive (s : State) (k : Pkt) : State :=
  let me := coordIn (self s) k.stage
  let start := coordIn k.src k.stage
  let s := sendBranch s k k.stage k.dir start me
  if bit (k.mask k.stage) me then mcStage k 4 (k.stage + 1) s else s

/-! ## The router (R343, R351) -/

/-- The input buffer of a packet is freed; its credit goes back with the next flit (R343). -/
def freeBuffer (s : State) (p : Nat) (k : Pkt) : State :=
  let x := portOf s p
  sendIdle (setPort s p { x with freed := freedBy x [k] }) p false

/-- A router's checks and its forwarding (R345, R346, R351). -/
def routePkt (s : State) (p : Nat) (k : Pkt) : State :=
  let me := self s
  if k.part ≠ reg s Key.fabPartId then bump s Key.fabPartDrops 1
  else if k.epoch ≠ reg s Key.fabEpoch then bump s Key.fabStaleDrops 1
  else if k.mc then mcReceive s k
  else if fenced s k.dst then bump s Key.fabFenceDrops 1
  else if k.dst = me then deliver s k
  else match nextPort (boxOf s) me k.dst with
    | none => bump s Key.fabFenceDrops 1
    | some q =>
      if noFwd s (portPeer me q) then bump s Key.fabFenceDrops 1
      else enqueue s q { k with vc := vcOn (boxOf s) me q (some p) k.vc }

/-- PACKET_ROUTE: the router takes the next packet of an input port; ISOLATED drops it (R351, R361, R504). -/
def execPacketRoute (p t : Nat) (s : State) : Res :=
  .next (match (portOf s p).inq with
    | [] => s
    | k :: ks =>
      if 6 ≤ p ∨ 3 ≤ reg s Key.pwrState ∨ reg s Key.frzState ≠ 0 then s
      else
        let s := atTime s t
        let s := freeBuffer (setPort s p { portOf s p with inq := ks }) p k
        if reg s Key.fabState = 5 then s else routePkt s p k)

/-! ## FREEZE and THAW from a peer (R489, R492) -/

/-- Removes the first packet of the inbox that meets `f`. -/
def takeInbox (s : State) (f : Pkt → Bool) : Option (Pkt × State) :=
  match s.fab.inbox.find? f with
  | none => none
  | some k => some (k, { s with fab := { s.fab with inbox := s.fab.inbox.erase k } })

/-- The port toward a neighbour. -/
def portTo (s : State) (c : Nat) : Nat := ((List.range 6).find? (fun p => portPeer (self s) p == c)).getD 7

/-- FREEZE: a FREEZE control packet from a member neighbour (R489). -/
def execFreeze (t : Nat) (s : State) : Res :=
  .next (match takeInbox s (fun k => k.ty == 0x0C && k.aux == ctrlFreeze) with
    | none => s
    | some (k, s) =>
      if reg s Key.frzPropagate = 1 ∧ fromMember s (portTo s k.src) k = true then freeze (atTime s t) 3 (portTo s k.src) else s)

/-- THAW: a THAW control packet from a member peer, for a module frozen by propagation (R492). -/
def execThaw (t : Nat) (s : State) : Res :=
  .next (match takeInbox s (fun k => k.ty == 0x0C && k.aux == ctrlThaw) with
    | none => s
    | some (k, s) =>
      if reg s Key.frzCause = 3 ∧ fromMember s (portTo s k.src) k = true ∧ reg s Key.frzState = 2 then markReady (thaw (atTime s t)).1 else s)

end Sys2Proof.Machine
end

