-- ==== Sys2Proof/Machine/Save.lean ====
section
/-! DEFINITION. The save engine (R274-R281) and step checkpoints (R285-R288). -/

namespace Sys2Proof.Machine
open Sys2Proof

/-! ## Tile codings (R275-R277) -/

/-- Bytes of a dense tile. -/
def tileBytes : Nat := 4096

/-- Element size of a tile in bytes (R274). -/
def saveEsize (f : Fmt) : Nat := match f with
  | .bf16 => 2
  | .s32 | .fp32 | .lf32 => 4
  | _ => 1

/-- ESIZE code (R275). -/
def esizeCode (n : Nat) : Nat := if n = 1 then 0 else if n = 2 then 1 else 2

/-- The elements of a tile as unsigned integers. -/
def tileElems (es : Nat) (bs : List Byte) : List Nat := (List.range (bs.length / es)).map (fun k => field bs (k * es) es)

/-- Bits packed into bytes, least significant first, the last byte padded with zeros. -/
def packBools : Nat → List Bool → List Byte
  | 0, _ => []
  | fuel + 1, bs =>
    if bs.isEmpty then []
    else leBytes 1 ((bs.take 8).foldr (fun b n => b.toNat + 2 * n) 0) ++ packBools fuel (bs.drop 8)

/-- ZBM: the bitmap, then the elements with any bit set (R276). -/
def zbmOf (es : Nat) (bs : List Byte) : List Byte :=
  let xs := tileElems es bs
  packBools (xs.length + 1) (xs.map (fun x => x != 0)) ++ (xs.filter (fun x => x != 0)).flatMap (leBytes es)

/-- Zigzag of a difference (R276). -/
def zigzag (nb : Nat) (x ref : Nat) : Nat :=
  let d := signed nb ((x + 2 ^ nb - ref) % 2 ^ nb)
  (if 0 ≤ d then 2 * d else -2 * d - 1).toNat

/-- Bit length of a number. -/
def bitLen (n : Nat) : Nat := if n = 0 then 0 else Nat.log2 n + 1

/-- One group of DPACK (R276). -/
def dpackGroup (zs : List Nat) : List Byte :=
  let w := bitLen (zs.foldl max 0)
  leBytes 1 w ++ packBools (w * zs.length + 1) (zs.flatMap (bitsOf w))

/-- DPACK (R276). -/
def dpackOf (es stride : Nat) (bs : List Byte) : List Byte :=
  let xs := tileElems es bs
  let zs := (List.range xs.length).map (fun k =>
    zigzag (8 * es) (xs.getD k 0) (if stride ≤ k then xs.getD (k - stride) 0 else 0))
  ((pieceBy 32 (zs.length + 1) zs).map dpackGroup).flatten

/-- The coding and payload of a tile (R277): the smallest payload, ties to ZBM, RAW unless one is smaller. -/
def codeTile (es stride ctl : Nat) (bs : List Byte) : Nat × List Byte :=
  let z := zbmOf es bs
  let d := dpackOf es stride bs
  let zOk := bit ctl 0 && decide (z.length < bs.length)
  let dOk := bit ctl 1 && decide (d.length < bs.length)
  if zOk && (!dOk || decide (z.length ≤ d.length)) then (1, z) else if dOk then (2, d) else (0, bs)

/-- A stored tile: its header and padded payload (R275). -/
def storeTile (es stride ctl k : Nat) (bs : List Byte) : Nat × List Byte :=
  let c := codeTile es stride ctl bs
  (c.1, leBytes 8 (bs.length + c.2.length * 2 ^ 16 + c.1 * 2 ^ 32 + esizeCode es * 2 ^ 35) ++ leBytes 4 (crc32 bs) ++
    leBytes 4 k ++ pad16 c.2)

/-- Decodes ZBM: the set elements in order. -/
def unZbm (es : Nat) : List Bool → List Byte → List Byte
  | [], _ => []
  | b :: bs, p => if b then fillTo 0 es (p.take es) ++ unZbm es bs (p.drop es) else List.replicate es 0 ++ unZbm es bs p

/-- Decodes the groups of DPACK into zigzag values; `n` elements are left. -/
def unDpack : Nat → Nat → List Byte → List Nat
  | 0, _, _ => []
  | fuel + 1, n, p =>
    if n = 0 then []
    else
      let k := min n 32
      let w := field p 0 1
      let len := cdiv (w * k) 8
      let v := field p 1 len
      (List.range k).map (fun i => bits v (w * i) w) ++ unDpack fuel (n - k) (p.drop (1 + len))

/-- Undoes the differences of DPACK. -/
def undiff (nb stride : Nat) : List Nat → List Nat → List Nat
  | [], xs => xs
  | z :: zs, xs =>
    let k := xs.length
    let ref := if stride ≤ k then xs.getD (k - stride) 0 else 0
    let d : Int := if z % 2 = 0 then ((z / 2 : Nat) : Int) else -(((z + 1) / 2 : Nat) : Int)
    undiff nb stride zs (xs ++ [unsigned nb ((ref : Int) + d)])

/-- The dense bytes of a payload (R276). -/
def decodeTile (es stride coding dense : Nat) (p : List Byte) : List Byte :=
  let n := dense / es
  match coding with
  | 1 =>
    let map := (List.range n).map (fun k => bit (field p (k / 8) 1) (k % 8))
    unZbm es map (p.drop (cdiv n 8))
  | 2 => (undiff (8 * es) stride (unDpack n n p) []).flatMap (leBytes es)
  | _ => p

/-! ## SAVE (R274, R278-R280) -/

/-- Every page of a range is in HBM4 or DDR5 of this module (R279). -/
def inBulk (s : State) (h len : Nat) : Bool :=
  (pieces 65536 (len / 65536 + 2) (hOff h) len).all (fun p => match locatePage s (objOf s (hObj h)) p.1 with
    | .here a => decide (tierOf a ≠ 0)
    | .wait => true
    | _ => false)

/-- One source row as the bytes of the save format at its pitch (R274). -/
def saveRow (w : Work) (sf tf : Fmt) (row n : Nat) (bs : List Byte) : Eng (List Byte) := do
  let pitch := pad64 (tf.rowBytes n)
  if sf = tf then pure (fillTo 0 pitch bs)
  else
    let s ← getS
    let md := (RMode.ofBits w.rnd).getD .nearest
    let word (j : Nat) : Nat := if md = .stochastic then genWord (reg s Key.genSeed) w.step (w.f 42 2) (row * n + j) else 0
    let vs := decRow sf 0 n bs
    let e := encRow tf md ((List.range n).map (fun j => (vs.getD j .nan, word j)))
    eventsOf e.2
    pure (fillTo 0 pitch e.1)

/-- Offsets of the tiles from the start of an area, in 16-byte units. -/
def tileOffsets : Nat → List (List Byte) → List Nat
  | _, [] => []
  | at_, t :: ts => at_ / 16 :: tileOffsets (at_ + t.length) ts

/-- The body of SAVE. -/
def saveBody : Eng Unit := do
  let c ← get
  let w := c.w
  let rows := w.f 32 4
  let n := w.f 36 4
  require (decide (rows ≠ 0) && decide (1 ≤ n) && decide (n ≤ 2 ^ 24)) Status.shape
  let sc := w.f 40 1 % 16
  let tc := w.f 40 1 / 16
  require (decide (sc ≤ 10) && decide (tc ≤ 10) && w.rnd != 3) Status.format
  let sf := (Fmt.ofCode sc).getD .s8
  let tf := (Fmt.ofCode tc).getD .s8
  let ao := objOf c.s (hObj (w.f 24 8))
  let size := ao.size - hOff (w.f 24 8)
  let nat := sf.rowBytes n
  let pitch := pad64 nat
  let srcLen := (rows - 1) * pitch + nat
  require (handleOk w c.s (w.f 16 8) srcLen && handleOk w c.s (w.f 24 8) size) Status.handle
  require (inScratch c.s c.die (w.f 16 8) srcLen && inBulk c.s (w.f 24 8) size) Status.tier
  require (!overlaps (w.f 16 8) srcLen (w.f 24 8) size) Status.aliased
  let parts ← mapDo (fun r => do
    let bs ← rdH (w.f 16 8 + r * pitch) nat
    saveRow w sf tf r n bs) (List.range rows)
  let dense := parts.flatten
  let es := saveEsize tf
  let stride := pad64 (tf.rowBytes n) / es
  let tiles := pieceBy tileBytes (dense.length + 1) dense
  let stored := (List.zip (List.range tiles.length) tiles).map (fun e => storeTile es stride (w.f 41 1) e.1 e.2)
  let body := stored.map (·.2)
  let total := (body.map List.length).sum
  addEvents total
  let start := 64 + pad64 (4 * tiles.length)
  let used := start + total
  if size < used then
    let junk ← openBytes size
    wrH (w.f 24 8) junk
    stopWith Status.saveFull
  else
    let head := leBytes 2 3 ++ leBytes 1 tc ++ leBytes 1 (esizeCode es) ++ leBytes 4 tiles.length ++ leBytes 4 rows ++
      leBytes 4 n ++ leBytes 8 used ++ leBytes 4 w.step ++ leBytes 2 w.layer
    let dir := (tileOffsets start body).flatMap (leBytes 4)
    wrH (w.f 24 8) (fillTo 0 64 head ++ fillTo 0 (start - 64) dir ++ body.flatten)
    modS (fun s => bump (bump (bump s (Key.savDenseBytes + w.dsp) dense.length) (Key.savStoredBytes + w.dsp) total)
      (Key.savRawTiles + w.dsp) (stored.filter (fun t => t.1 == 0)).length)

/-- SAVE. -/
def execSave (r : WRef) (s : State) : Res := .next (runEngine 0x0700 saveBody r s)

/-! ## RESTORE (R281) -/

/-- A save area's header (R278). -/
structure Area where
  f : Fmt
  tiles : Nat
  rows : Nat
  n : Nat
  used : Nat
  deriving DecidableEq, Repr

/-- Row pitch of an area. -/
def Area.pitch (a : Area) : Nat := pad64 (a.f.rowBytes a.n)

/-- A header that is not consistent is none; so is one whose format code is reserved or XA128 (log 133). -/
def areaOf (bs : List Byte) : Option Area :=
  match Fmt.ofCode (field bs 2 1 % 16) with
  | none => none
  | some f =>
    let a : Area := { f := f, tiles := field bs 4 4, rows := field bs 8 4, n := field bs 12 4, used := field bs 16 8 }
    if field bs 0 2 = 3 ∧ f ≠ .xa128 ∧ field bs 3 1 = esizeCode (saveEsize f) ∧
        a.tiles = cdiv (a.rows * a.pitch) tileBytes then some a else none

/-- The header of tile `k`, checked against the area: offset from the area's start, CODING, DENSE, STORED, CHECK. -/
def tileHead (h : Nat) (a : Area) (k : Nat) : Eng (Nat × Nat × Nat × Nat × Nat) := do
  let unit ← rdNat (h + 64 + 4 * k) 4
  let at_ := 16 * unit
  require (decide (at_ + 16 ≤ a.used)) Status.restore
  let hd ← rdH (h + at_) 16
  let dense := field hd 0 2
  let stored := field hd 2 2
  let coding := bits (field hd 4 4) 0 3
  require (dense == min tileBytes (a.rows * a.pitch - k * tileBytes) && decide (coding ≤ 2) &&
    bits (field hd 4 4) 3 2 == esizeCode (saveEsize a.f) && field hd 12 4 == k &&
    decide (stored ≤ dense) && (coding != 0 || stored == dense) && decide (at_ + 16 + stored ≤ a.used)) Status.restore
  pure (at_, coding, dense, stored, field hd 8 4)

/-- The rows whose bytes the first `have` dense bytes cover, written to OUT. -/
def restoreRows (w : Work) (a : Area) (of : Fmt) (first base : Nat) (dense : List Byte) (n : Nat) : Eng Unit :=
  upTo n (fun i => do
    let at_ := (first + i) * a.pitch - base
    let nat := a.f.rowBytes a.n
    if at_ + nat ≤ dense.length then
      let bs := (dense.drop at_).take nat
      let pitch := pad64 (of.rowBytes a.n)
      let s ← getS
      let md := (RMode.ofBits w.rnd).getD .nearest
      let word (j : Nat) : Nat := if md = .stochastic then
        genWord (reg s Key.genSeed) w.step (w.f 42 2) ((first + i) * a.n + j) else 0
      let vs := decRow a.f 0 a.n bs
      let e : List Byte × Acc := if of = a.f then (bs, {})
        else encRow of md ((List.range a.n).map (fun j => (vs.getD j .nan, word j)))
      eventsOf e.2
      wrH (w.f 24 8 + i * pitch) (fillTo 0 pitch e.1))

/-- The body of RESTORE. -/
def restoreBody : Eng Unit := do
  let c ← get
  let w := c.w
  let first := w.f 32 4
  let n := w.f 36 4
  let oc := w.f 40 1 % 16
  require (decide (n ≠ 0)) Status.shape
  require (decide (oc ≤ 10) && w.rnd != 3) Status.format
  let of := (Fmt.ofCode oc).getD .s8
  require (handleOk w c.s (w.f 16 8) 64) Status.handle
  match areaOf (← rdH (w.f 16 8) 64) with
  | none => stopWith Status.restore
  | some a =>
    require (decide (first + n ≤ a.rows)) Status.shape
    require (handleOk w c.s (w.f 16 8) (max a.used (64 + 4 * a.tiles))) Status.restore
    let outLen := (n - 1) * pad64 (of.rowBytes a.n) + of.rowBytes a.n
    require (handleOk w c.s (w.f 24 8) (n * pad64 (of.rowBytes a.n))) Status.handle
    require (inScratch c.s c.die (w.f 24 8) outLen) Status.tier
    require (!overlaps (w.f 16 8) a.used (w.f 24 8) outLen) Status.aliased
    let t0 := first * a.pitch / tileBytes
    let t1 := ((first + n) * a.pitch - 1) / tileBytes
    let heads ← mapDo (tileHead (w.f 16 8) a) (rangeFrom t0 (t1 + 1 - t0))
    let es := saveEsize a.f
    let tiles ← mapDo (fun (hd : Nat × Nat × Nat × Nat × Nat) => do
      let p ← rdH (w.f 16 8 + hd.1 + 16) hd.2.2.2.1
      let d := decodeTile es (a.pitch / es) hd.2.1 hd.2.2.1 p
      pure (if d.length = hd.2.2.1 ∧ crc32 d = hd.2.2.2.2 then some d else none)) heads
    let good := (tiles.takeWhile Option.isSome).map (fun t => t.getD [])
    restoreRows w a of first (t0 * tileBytes) good.flatten n
    if good.length < tiles.length then
      modS (fun s => almFull s 1 (0x40 + w.dsp) 0x0030 Status.restore w.step w.tag
        (leBytes 2 w.op ++ leBytes 1 (match w.ref with
          | .q q _ => q
          | .b _ => 0) ++ leBytes 1 0 ++ leBytes 8 (t0 + good.length)))
      stopWith Status.restore

/-- RESTORE. -/
def execRestore (r : WRef) (s : State) : Res := .next (runEngine 0x0701 restoreBody r s)

/-! ## Checkpoints (R285-R288) -/

/-- Reads host memory of the export window for an engine (R285, R405). -/
def rdHost (a n : Nat) : Eng (List Byte) := do
  let s ← getS
  if hostLinkUp s then
    modS (fun s => sendAll s (d2hReads a n))
    match readHost s a n with
    | some bs => pure bs
    | none => stopWith Status.poison
  else throw .wait

/-- Writes host memory of the export window. -/
def wrHost (a : Nat) (bs : List Byte) : Eng Unit := do
  let s ← getS
  if hostLinkUp s then modS (fun s => putHost s a bs) else throw .wait

/-- The seed and the Ephemeris version a CKPT_EXPORT took at its start (R286). -/
def exportStart : Eng (List Nat) := do
  let c ← get
  if c.w.names.isEmpty then
    let ns := [reg c.s Key.genSeed, reg c.s Key.ephPin]
    modify (fun c => { c with w := { c.w with names := ns } })
    pure ns
  else pure c.w.names

/-- The versions it reads its versioned objects under: the CUR of its start, resolved and from here on referenced as a
look-up (R240, R287). -/
def exportVersions (os : List Obj) : Eng Unit := do
  if (← get).w.names.length = 2 then
    let vs ← mapDo (fun (o : Obj) => do
      let c ← get
      match c.w.snap.find? (fun r => r.1 == o.tslot) with
      | some r =>
        require (resolveVer c.s o r.2 == some r.2) Status.version
        pure (r.1 * 65536 + r.2)
      | none => stopWith Status.version) (os.filter Obj.versioned)
    modify (fun c => { c with w := { c.w with names := c.w.names ++ vs } })

/-- The bytes of an object as an export copies them (R287). -/
def exportObj (refs : List (Nat × Nat)) (o : Obj) : Eng (Nat × List Byte) := do
  match o.versioned, refs.find? (fun r => r.1 == o.tslot) with
  | true, some r =>
    let bs ← lookRange o 0 o.size (some r.2) true
    pure (r.2, bs)
  | _, _ =>
    let bs ← rdObj o.num 0 o.size
    pure (0, bs)

/-- Offsets of objects' data from `at_` on, each a multiple of 64 (R286). -/
def dataOffsets : Nat → List Nat → List Nat
  | _, [] => []
  | at_, n :: ns => pad64 at_ :: dataOffsets (pad64 at_ + n) ns

/-- The body of CKPT_EXPORT. -/
def exportBody : Eng Unit := do
  let c ← get
  let w := c.w
  let woff := w.f 24 8
  let n := w.f 32 4
  require (decide (1 ≤ n) && decide (n ≤ 65535) && woff % 64 == 0) Status.shape
  require (handleOk w c.s (w.f 16 8) (4 * n)) Status.handle
  let ns ← exportStart
  let nums ← mapDo (fun i => rdNat (w.f 16 8 + 4 * i) 4) (List.range n)
  let os := nums.map (objOf c.s)
  require (os.all (mayName w c.s)) Status.ckpt
  let offs := dataOffsets (64 + 32 * n) (os.map Obj.size)
  let total := (offs.getLastD 0) + (os.getLastD {}).size
  require (decide (woff + total ≤ reg c.s Key.ckptSize)) Status.ckpt
  exportVersions os
  let c ← get
  let data ← mapDo (exportObj c.w.refs) os
  let recs := (List.range n).map (fun i =>
    let o := os.getD i {}
    let d := data.getD i (0, [])
    leBytes 4 o.num ++ leBytes 1 (o.fmt % 16) ++ leBytes 1 o.role ++ leBytes 2 d.1 ++ leBytes 8 o.size ++
    leBytes 8 (offs.getD i 0) ++ leBytes 4 (crc32 d.2) ++ leBytes 4 0)
  let man := recs.flatten
  let head := leBytes 2 4 ++ leBytes 2 (ns.getD 1 0) ++ leBytes 4 n ++ leBytes 4 w.step ++ leBytes 4 0 ++
    leBytes 8 (ns.getD 0 0) ++ leBytes 8 total ++ leBytes 4 (crc32 man)
  let base := reg c.s Key.ckptBase + woff
  wrHost base (fillTo 0 64 head ++ man)
  eachDo (fun i => wrHost (base + offs.getD i 0) (data.getD i (0, [])).2) (List.range n)
  addEvents n

/-- CKPT_EXPORT. -/
def execCkptExport (r : WRef) (s : State) : Res := .next (runEngine 0x0702 exportBody r s)

/-- Writes a span in place, whatever the object's role (R288): on another module by a WR_REQ of AUX 0 (log 137). -/
def wrSpanInPlace (n off : Nat) (bs : List Byte) : Eng Unit := do
  let c ← get
  match locate c.s (objOf c.s n) off with
  | .remote coord => postWrite coord (n * 2 ^ 40 + off) 0 false bs
  | _ => wrSpan n off false bs

/-- Writes bytes of an object in place. -/
def wrInPlace (n off : Nat) (bs : List Byte) : Eng Unit := do
  modS (fun s => snoopRange s n off bs.length true)
  eachDo (fun (p : Nat × Nat) => wrSpanInPlace n p.1 ((bs.drop (p.1 - off)).take p.2)) (spans16 off bs.length)
  modS (fun s => afterWrite (clearCovered s n off bs.length) n off bs.length)

/-- The tag words and shadows of the rows a range of a versioned object meets become zero and free (R288). -/
def zeroTags (s : State) (n off len : Nat) : State :=
  let o := objOf s n
  let meets (row : Nat) : Bool := decide (off < (row + 1) * o.pitch) && decide (row * o.pitch < off + len)
  if o.versioned then
    setObj s { o with
      tags := o.tags.filter (fun e => !meets e.1)
      shadows := o.shadows.filter (fun x => !o.tags.any (fun e => meets e.1 && e.2.shadow == x.1)) }
  else s

/-- One object of an import (R288): its content in place, its CRC, and the version state of its table. -/
def importObj (base : Nat) (man : List Byte) (i : Nat) : Eng Unit := do
  let m := (man.drop (32 * i)).take 32
  let s ← getS
  let o := objOf s (field m 0 4)
  let x := Tab.get {} s.slots o.tslot
  require (!o.versioned || (x.old.isNone && s.work.all (fun w => w.refs.all (fun r => r.1 != o.tslot)))) Status.version
  let bs ← rdHost (base + field m 16 8) o.size
  wrInPlace o.num 0 bs
  if crc32 bs ≠ field m 24 4 then
    let junk ← openBytes o.size
    wrInPlace o.num 0 junk
    stopWith Status.ckpt
  if o.versioned then
    modS (fun s =>
      let s := setObj s { (objOf s o.num) with tags := [], shadows := [] }
      serveHeld { s with slots := Tab.set {} s.slots o.tslot { (Tab.get {} s.slots o.tslot) with
          cur := field m 6 2, old := none, draftOpen := true } })

/-- The body of CKPT_IMPORT. -/
def importBody : Eng Unit := do
  let c ← get
  let w := c.w
  let woff := w.f 24 8
  require (woff % 64 == 0) Status.shape
  let base := reg c.s Key.ckptBase + woff
  require (decide (woff + 64 ≤ reg c.s Key.ckptSize)) Status.ckpt
  let head ← rdHost base 64
  let n := field head 4 4
  require (field head 0 2 == 4 && decide (woff + 64 + 32 * n ≤ reg c.s Key.ckptSize)) Status.ckpt
  let man ← rdHost (base + 64) (32 * n)
  require (crc32 man == field head 32 4) Status.ckpt
  require ((List.range n).all (fun i =>
    let m := (man.drop (32 * i)).take 32
    let o := objOf c.s (field m 0 4)
    mayName w c.s o && o.fmt == field m 4 1 % 16 && o.role == field m 5 1 && o.size == field m 8 8)) Status.ckpt
  upTo n (importObj base man)

/-- CKPT_IMPORT. -/
def execCkptImport (r : WRef) (s : State) : Res := .next (runEngine 0x0703 importBody r s)

end Sys2Proof.Machine
end

