-- ==== Sys2Proof/Machine/Update.lean ====
section
/-! DEFINITION. The update unit (R262-R273): the three optimiser sequences, the layer table, stores with
stochastic rounding, rows of weights homed on other modules (R268). -/

namespace Sys2Proof.Machine
open Sys2Proof

/-- What an update takes from its descriptor, the hyperparameter block and the layer table (R264, R265, R269):
the compute format, the values converted to it, −η_L, the gradient shift. -/
structure Upd where
  op : Nat
  ctl : Nat
  c : Fmt
  negEta : Num
  b1 : Num
  c1 : Num
  b2 : Num
  c2 : Num
  eps : Num
  wd : Num
  k1 : Num
  k2 : Num
  gsh : Int

/-- An exact result rounded once to C to nearest even, with its events (R270, R57). -/
def flC (c : Fmt) (x : Num × Bool) : Num × Ev :=
  let r := convFloat c .nearest 0 x.1
  (decFloat c r.1, { r.2 with inv := r.2.inv || x.2 })

/-- A correctly rounded function in C (R74). -/
def seqC (c : Fmt) (fn : SeqFn) (a b : Num) : Num × Ev :=
  let r := seqRound fn c a b
  (decFloat c r.1, r.2)

/-- x × 2^k exactly. -/
def Num.shift (k : Int) : Num → Num
  | .fin n m e => .fin n m (e + k)
  | x => x

/-- What a sequence leaves of an element: new w, m1 or a, m2, and the events of each conversion point. -/
structure Step1 where
  w : Num
  m1 : Num
  m2 : Num
  ev : List Ev

/-- UPD_SGD (R270). -/
def seqSgd (p : Upd) (w g m1 : Num) : Step1 :=
  let gp := flC p.c (Num.fma p.wd w g)
  let m := flC p.c (Num.fma p.b1 m1 gp.1)
  let d := flC p.c (Num.fma p.b1 m.1 gp.1)
  let nest := bit p.ctl 0
  let w' := flC p.c (Num.fma p.negEta (if nest then d.1 else m.1) w)
  { w := w'.1, m1 := m.1, m2 := m.1, ev := [gp.2, m.2] ++ (if nest then [d.2] else []) ++ [w'.2] }

/-- UPD_ADAM (R270). -/
def seqAdam (p : Upd) (w g m1 m2 : Num) : Step1 :=
  let fl (x : Num × Bool) : Num × Ev := flC p.c x
  let a := fl (Num.mul p.c1 g)
  let m := fl (Num.fma p.b1 m1 a.1)
  let gg := fl (Num.mul g g)
  let b := fl (Num.mul p.c2 gg.1)
  let v := fl (Num.fma p.b2 m2 b.1)
  let vk := fl (Num.mul v.1 p.k2)
  let q := seqC p.c .sqrt vk.1 vk.1
  let den := fl (Num.add q.1 p.eps)
  let mk := fl (Num.mul m.1 p.k1)
  let u := seqC p.c .div mk.1 den.1
  let u2 := fl (Num.fma p.wd w u.1)
  let w' := fl (Num.fma p.negEta u2.1 w)
  { w := w'.1, m1 := m.1, m2 := v.1,
    ev := [a.2.or m.2, (gg.2.or b.2).or v.2, (vk.2.or q.2).or den.2, mk.2.or u.2, u2.2, w'.2] }

/-- The last line of UPD_ADAGRAD (R270). -/
def adagradW (p : Upd) (w g a : Num) : Num × Ev :=
  let q := seqC p.c .sqrt a a
  let den := flC p.c (Num.add q.1 p.eps)
  let d := seqC p.c .div g den.1
  let w' := flC p.c (Num.fma p.negEta d.1 w)
  (w'.1, ((q.2.or den.2).or d.2).or w'.2)

/-- UPD_ADAGRAD, element-wise (R270). -/
def seqAdagrad (p : Upd) (w g a : Num) : Step1 :=
  let a' := flC p.c (Num.fma g g a)
  let r := adagradW p w g a'.1
  { w := r.1, m1 := a'.1, m2 := a'.1, ev := [a'.2, r.2] }

/-- The new accumulator of a row of UPD_ADAGRAD, row-wise, and its events (R270, R72). -/
def rowwiseA (p : Upd) (gs : List Num) (a : Num) : Num × Acc :=
  let s := exactSum (gs.map (fun g => (Num.mul g g).1))
  let f := flC p.c (s.1, s.2.1)
  let q := seqC p.c .div f.1 (Num.ofInt gs.length)
  let a' := flC p.c (Num.add a q.1)
  (a'.1, (s.2.2.add f.2).add (q.2.or a'.2))

/-! ## One row -/

/-- Runs an engine and adds the saturations of it to the layer's counter (R272). -/
def satCounted (layer : Nat) (m : Eng Unit) : Eng Unit := ExceptT.mk (do
  let a ← get
  let r ← m.run
  modify (fun c => { c with s := bump c.s (Key.layerSaturated + 256 * layer) (c.acc.satN - a.acc.satN) })
  pure r)

/-- One conversion of an element to C: the value, its events counted. -/
def toC (c : Fmt) (x : Num) : Eng Num := do
  let r := flC c (x, false)
  event r.2
  pure r.1

/-- The exact elements of row `r` of an operand whose handle addresses row 0. -/
def operandRow (h r : Nat) : Eng (List Num) := do
  let s ← getS
  let o := objOf s (hObj h)
  let at_ := rowAt o h r
  let n := o.format.rowBytes o.rowlen
  require (o.spans at_ n) Status.handle
  let bs ← rdObj o.num at_ n
  pure (decRow o.format o.t o.rowlen bs)

/-- Bytes of a row of an operand that an update reads. -/
def operandBytes (o : Obj) : Nat := if o.fmt = 11 then o.pitch else o.format.rowBytes o.rowlen

/-- The rows of an operand whose handle addresses row 0 lie in its object (R10). -/
def rowsIn (s : State) (h : Nat) (rs : List Nat) : Bool :=
  let o := objOf s (hObj h)
  rs.all (fun r => o.spans (rowAt o h r) (operandBytes o))

/-- The exact elements of row `r` of the gradient object; with CTL bit 3 the row is cleared as the last part of
its own atomic read (R233, R273, R236). -/
def gradRow (h r : Nat) (clear : Bool) : Eng (List Num) := do
  let s ← getS
  let o := objOf s (hObj h)
  let at_ := rowAt o h r
  require (o.spans at_ (operandBytes o)) Status.handle
  if o.fmt = 11 then
    let bs ← rowAtomic o (at_ / o.pitch) (if clear then auxTake else auxRead)
    if unguarded bs then
      addEvents 1
      modS (fun s => bump s Key.stgUnguardedRows 1)
    pure (decRow .xa128 o.t o.rowlen (bs.drop 64))
  else if clear && at_ % o.pitch == 0 then
    return decRow o.format o.t o.rowlen (← rowAtomic o (at_ / o.pitch) auxTake)
  else
    let vs ← operandRow h r
    if clear then wrObj o.num at_ (List.replicate (o.format.rowBytes o.rowlen) 0)
    pure vs

/-- The bytes of a row stored to an object, with the generator words of R271: `k` is 0 for W, 1 for S1, 2 for S2. -/
def storeRow (w : Work) (k h r : Nat) (vs : List Num) : Eng (Nat × List Byte) := do
  let s ← getS
  let o := objOf s (hObj h)
  let at_ := rowAt o h r
  let md := (RMode.ofBits w.rnd).getD .nearest
  let first := at_ / o.pitch * o.rowlen
  let word (j : Nat) : Nat := if md = .stochastic then
    genWord (reg s Key.genSeed) w.step (w.f 62 2) (k * 2 ^ 40 + (first + j)) else 0
  let e := encRow o.format md ((List.range vs.length).map (fun j => (vs.getD j .nan, word j)))
  eventsOf e.2
  pure (at_, e.1)

/-- Stalled elements of a row (R272): computed w differs from the old value, the stored one does not. -/
def stalledIn : List Num → List Num → List Num → Nat
  | o :: os, c :: cs, n :: ns => (if !Num.eqv c o && Num.eqv n o then 1 else 0) + stalledIn os cs ns
  | _, _, _ => 0

/-- Updates row `r` (R267, R270, R271); `layer` is none on a unit that serves another module's descriptor, whose `cursor`
holds the stalled elements. -/
def updRow (p : Upd) (w : Work) (layer : Option Nat) (r : Nat) : Eng Unit := do
  let old ← operandRow (w.f 16 8) r
  let ws ← mapDo (toC p.c) old
  let gx ← gradRow (w.f 24 8) r (bit p.ctl 3)
  let gs ← mapDo (fun x => toC p.c (x.shift (-p.gsh))) gx
  let as ← mapDo (toC p.c) (← operandRow (w.f 32 8) r)
  let bs ← (if p.op = 0x0601 then do
      let xs ← operandRow (w.f 40 8) r
      mapDo (toC p.c) xs
    else pure [])
  let z : Num := .fin false 0 0
  let n := ws.length
  let el (i : Nat) : Num × Num := (ws.getD i z, gs.getD i z)
  let (w2, m1, m2) ← (do
    if p.op = 0x0602 ∧ bit p.ctl 4 = true then
      let a := rowwiseA p gs (as.headD z)
      eventsOf a.2
      let rs := (List.range n).map (fun i => adagradW p (el i).1 (el i).2 a.1)
      eachDo (fun (x : Num × Ev) => event x.2) rs
      pure (rs.map (·.1), [a.1], ([] : List Num))
    else
      let rs := (List.range n).map (fun i =>
        if p.op = 0x0600 then seqSgd p (el i).1 (el i).2 (as.getD i z)
        else if p.op = 0x0601 then seqAdam p (el i).1 (el i).2 (as.getD i z) (bs.getD i z)
        else seqAdagrad p (el i).1 (el i).2 (as.getD i z))
      eachDo (fun (x : Step1) => eachDo event x.ev) rs
      pure (rs.map (·.w), rs.map (·.m1), rs.map (·.m2)))
  let s ← getS
  let wo := objOf s (hObj (w.f 16 8))
  let stW ← storeRow w 0 (w.f 16 8) r w2
  wrObj wo.num stW.1 stW.2
  let st1 ← storeRow w 1 (w.f 32 8) r m1
  wrObj (hObj (w.f 32 8)) st1.1 st1.2
  if p.op = 0x0601 then
    let st2 ← storeRow w 2 (w.f 40 8) r m2
    wrObj (hObj (w.f 40 8)) st2.1 st2.2
  let k := stalledIn old w2 (decRow wo.format 0 wo.rowlen stW.2)
  addEvents k
  let c ← get
  modS (fun s => bump s (Key.updElements + c.die) n)
  match layer with
  | some l => modS (fun s => bump (bump s Key.updStalledTotal k) (Key.layerStalled + 256 * l) k)
  | none => modify (fun c => { c with w := { c.w with cursor := c.w.cursor + k } })

/-! ## Rows homed elsewhere (R268) -/

/-- The UPDATE message that hands a row to the unit of its home (log 37): kind 0, the name of the descriptor, its
64 bytes, the hyperparameter block, −η_L, GSHIFT, the row. -/
def updateMsg (w : Work) (hyp : List Byte) (p : Upd) (r : Nat) : List Byte :=
  let ref := match w.ref with
    | .q q k => leBytes 1 q ++ leBytes 8 k
    | .b i => leBytes 1 64 ++ leBytes 8 i
  leBytes 1 0 ++ ref ++ w.desc ++ hyp ++ leBytes 4 (convFloat p.c .nearest 0 p.negEta).1 ++ leBytes 1 (unsigned 8 p.gsh) ++
  leBytes 8 r

/-- Hands a row to its home's update unit; its report is owed. -/
def sendUpdate (coord : Nat) (hyp : List Byte) (p : Upd) (r : Nat) : Eng Unit := do
  let c ← get
  let body := updateMsg c.w hyp p r
  modS (fun s => postTxn s .update (some c.w.ref) (hObj (c.w.f 16 8)) r
    { ty := 0x07, dst := coord, aux := 3, len := body.length, payload := body, sdie := c.die })
  modify (fun c => { c with owed := c.owed + 1 })

/-- The parameters from their sources; `counted` says whether the conversions' events count here. -/
def updParams (w : Work) (hyp : List Byte) (negEta : Num) (gsh : Int) (counted : Bool) : Eng Upd := do
  let c : Fmt := if bit (w.f 60 1) 5 then .lf32 else .fp32
  let used : List Nat := match w.op with
    | 0x0600 => [4, 24]
    | 0x0601 => [4, 8, 12, 16, 20, 24, 28, 32]
    | _ => [20]
  let val (i : Nat) : Num × Ev := flC c (decFloat .fp32 (field hyp i 4), false)
  if counted then eachDo (fun i => event (val i).2) used
  pure { op := w.op, ctl := w.f 60 1, c := c, negEta := negEta, b1 := (val 4).1, c1 := (val 8).1, b2 := (val 12).1,
         c2 := (val 16).1, eps := (val 20).1, wd := (val 24).1, k1 := (val 28).1, k2 := (val 32).1, gsh := gsh }

/-! ## The descriptors -/

/-- The format codes of R266. -/
def updFormats (w g : Nat) (ss : List Nat) : Bool :=
  (w == 5 || w == 6 || w == 8 || w == 9 || w == 10) && (g == 11 || g == 9 || g == 10) &&
  ss.all (fun f => f == 8 || f == 9 || f == 10)

/-- The shapes of R266. -/
def updShapes (w g s1 : Obj) (ss : List Obj) (rowwise : Bool) : Bool :=
  w.rowlen != 0 && g.rows == w.rows && g.rowlen == w.rowlen && ss.all (fun o => o.rows == w.rows) &&
  (ss.drop 1).all (fun o => o.rowlen == w.rowlen) && s1.rowlen == (if rowwise then 1 else w.rowlen)

/-- What an update takes at its start and keeps while it waits (R265, R269): LRSHIFT and GSHIFT of its layer, then the
hyperparameter block. -/
def updStart (w : Work) : Eng (Int × Int × List Byte) := do
  if (← get).w.names.isEmpty then
    modify (fun c => { c with w := { c.w with
      names := [reg c.s (Key.layerLrshift + 256 * w.layer), reg c.s (Key.layerGshift + 256 * w.layer)] } })
  if (← get).w.names.length = 2 then
    let hyp ← rdH (w.f 48 8) 64
    modify (fun c => { c with w := { c.w with names := c.w.names ++ hyp.map BitVec.toNat } })
  let ns := (← get).w.names
  pure (signed 32 (ns.getD 0 0), signed 32 (ns.getD 1 0), (ns.drop 2).map (BitVec.ofNat 8))

/-- The rows an update names, in order: an all-ones index names none (R267). -/
def updRows (w : Work) (hyp : List Byte) : Eng (List Nat) := do
  let n := w.f 56 4
  if bit (w.f 60 1) 1 then
    let rs ← mapDo (readIndex (field hyp 40 8) (bit (w.f 60 1) 2)) (List.range n)
    pure (rs.filterMap id)
  else pure ((List.range n).map (fun i => field hyp 36 4 + i))

/-- The body of the three descriptors: the rows before an index out of range are updated (R267). -/
def updBody : Eng Unit := do
  let c ← get
  let w := c.w
  let ctl := w.f 60 1
  let wo := objOf c.s (hObj (w.f 16 8))
  let go := objOf c.s (hObj (w.f 24 8))
  let s1 := objOf c.s (hObj (w.f 32 8))
  let ss := s1 :: (if w.op = 0x0601 then [objOf c.s (hObj (w.f 40 8))] else [])
  require (handleOk w c.s (w.f 48 8) 64 && (wo :: go :: ss).all (mayName w c.s)) Status.handle
  require (updFormats wo.fmt go.fmt (ss.map (·.fmt)) && w.rnd != 3) Status.format
  let (lr, gsh, hyp) ← updStart w
  let n := w.f 56 4
  require (decide (n ≠ 0) && updShapes wo go s1 ss (bit ctl 4)) Status.shape
  require (bit ctl 1 || decide (field hyp 36 4 + n ≤ wo.rows)) Status.shape
  require ((!bit ctl 0 || w.op == 0x0600) && (!bit ctl 4 || w.op == 0x0602)) Status.shape
  require (go.role == 3 && ss.all (fun o => o.role == 4)) Status.format
  require (!bit ctl 1 || handleOk w c.s (field hyp 40 8) (idxBytes (bit ctl 2) * n)) Status.handle
  let rows ← updRows w hyp
  let ok := rows.takeWhile (fun r => decide (r < wo.rows))
  require (rowsIn c.s (w.f 16 8) ok && rowsIn c.s (w.f 24 8) ok && rowsIn c.s (w.f 32 8) ok &&
    (w.op != 0x0601 || rowsIn c.s (w.f 40 8) ok)) Status.handle
  let cf : Fmt := if bit ctl 5 then .lf32 else .fp32
  satCounted w.layer (do
    let eta ← toC cf ((decFloat .fp32 (field hyp 0 4)).shift lr)
    let p ← updParams w hyp eta.neg gsh true
    eachDo (fun r => do
      let s ← getS
      match locate s wo (rowAt wo (w.f 16 8) r) with
      | .remote coord => sendUpdate coord hyp p r
      | _ => updRow p w (some w.layer) r) ok
    require (decide (ok.length = rows.length)) Status.index)

/-- UPD_SGD. -/
def execUpdSgd (r : WRef) (s : State) : Res := .next (runEngine 0x0600 updBody r s)
/-- UPD_ADAM. -/
def execUpdAdam (r : WRef) (s : State) : Res := .next (runEngine 0x0601 updBody r s)
/-- UPD_ADAGRAD. -/
def execUpdAdagrad (r : WRef) (s : State) : Res := .next (runEngine 0x0602 updBody r s)

/-- The body a unit runs for another module's row (R268). -/
def updServed (msg : List Byte) : Eng Unit := do
  let c ← get
  let w := c.w
  let cf : Fmt := if bit (w.f 60 1) 5 then .lf32 else .fp32
  let p ← updParams w ((msg.drop 74).take 64) (decFloat cf (field msg 138 4)) (signed 8 (field msg 142 1)) false
  updRow p w none (field msg 143 8)

/-- The report of a served row (log 37): kind 1, the name of the descriptor, status, flags and counts, events, stalled
elements. -/
def updateReport (msg : List Byte) (w : Work) : List Byte :=
  leBytes 1 1 ++ (msg.drop 1).take 9 ++ leBytes 2 w.status ++ leBytes 2 w.acc.flags.toNat ++ leBytes 4 w.acc.satN ++
  leBytes 4 w.acc.fluN ++ leBytes 4 w.acc.invN ++ leBytes 4 w.events ++ leBytes 4 w.cursor

/-- A report arrives at the module of the descriptor: its events count there (R268, R272). -/
def takeReport (s : State) (msg : List Byte) : State :=
  let q := field msg 1 1
  let r : WRef := if q = 64 then .b (field msg 2 8) else .q q (field msg 2 8)
  let acc : Acc := { flags := Ev.ofNat (field msg 12 2), satN := field msg 14 4, fluN := field msg 18 4, invN := field msg 22 4 }
  let k := field msg 30 4
  match findWork s r with
  | none => s
  | some w =>
    let s := setWork s { w with events := stick32 (w.events + field msg 26 4) }
    let s := bump (bump s Key.updStalledTotal k) (Key.layerStalled + 256 * w.layer) k
    ackWork (bump s (Key.layerSaturated + 256 * w.layer) acc.satN) r (field msg 10 2) acc

end Sys2Proof.Machine
end

