-- ==== Sys2Proof/Machine/Serve.lean ====
section
/-! DEFINITION. Transactions between modules (R350, R353, R355): requests served at their target, responses taken at
their source, Sluice acknowledgements and timeouts (R352, R354), FAB_PUT, FAB_MSG and multicast (R356, R359),
fencing and the cutover (R360-R362). -/

namespace Sys2Proof.Machine
open Sys2Proof

/-! ## The end of a transaction -/

/-- A transaction by its identifier and target. -/
def findTxn (s : State) (id peer : Nat) : Option Txn := s.fab.txns.find? (fun x => x.id == id && x.pkt.dst == peer)

/-- Removes a transaction. -/
def dropTxn (s : State) (x : Txn) : State := { s with fab := { s.fab with txns := s.fab.txns.erase x } }

/-- An acknowledgement for the descriptor that issued a transaction. -/
def ackIssuer (s : State) (x : Txn) (status : Nat) (acc : Acc) : State :=
  match x.issuer with
  | some r => ackWork s r status acc
  | none => s

/-- A remote read has failed: the descriptor stops with the status where it needs the bytes; a launch fails (R164,
R355). -/
def readFailed (s : State) (x : Txn) (status : Nat) : State :=
  match x.issuer.bind (findWork s) with
  | none => s
  | some w => match s.strands.launches.find? (fun l => decide (l.work = w.ref)) with
    | some l => wakeForward (report s l.key 0 status {} 0)
    | none => setWork s { w with readFail := some status }

/-- The strand a STRAND message carries, in the pool of the sending die until it is accepted (R31). -/
def strandOf (s : State) (x : Txn) : Option Strand :=
  s.strands.pool.find? (fun y => decide (y.state = .forward) && y.launch.entry == x.obj && y.seq == x.off &&
    y.die == x.pkt.sdie && y.targetCoord == x.pkt.dst)

/-- Removes a strand from its pool. -/
def dropStrand (s : State) (y : Strand) : State := { s with strands := { s.strands with pool := s.strands.pool.erase y } }

/-- A transaction ends with a failure status (R61, R352, R355, R360, R417). -/
def endTxn (s : State) (x : Txn) (status : Nat) : State :=
  let s := dropTxn s x
  match x.kind with
  | .rd => readFailed s x status
  | .wr | .add | .update | .mailbox => ackIssuer s x status {}
  | .strand => (match strandOf s x with
    | some y => if x.pkt.len = 32 then wakeForward (report (dropStrand s y) y.launch 1 status {} 0) else s
    | none => s)
  | .chain => report s { odie := field x.pkt.payload 2 1, ocoord := field x.pkt.payload 3 2, entry := field x.pkt.payload 0 2 }
      0 status {} 0 |> wakeForward
  | .place | .row => placeFailed s x status

/-! ## Multicast at its sender (R359) -/

/-- Changes a multicast in progress. -/
def setMCast (s : State) (m : MCast) : State :=
  { s with fab := { s.fab with mcasts := s.fab.mcasts.map (fun x => if x.id = m.id then m else x) } }

/-- A packet whose destinations are all accounted for is acknowledged to its FAB_PUT; when all are, and destinations
were dropped or excluded, REPORT is due. -/
def closeMCast (s : State) (m : MCast) (status : Nat) : State :=
  let s := if m.left.isEmpty then { s with fab := { s.fab with mcasts := s.fab.mcasts.filter (fun x => x.id != m.id) } }
    else setMCast s m
  match findWork s m.issuer with
  | none => s
  | some w =>
    let w := if success w.status && !success status then { w with status := status } else w
    if m.left.isEmpty then
      let s := ackWork (setWork s w) m.issuer 0 {}
      (match findWork s m.issuer with
        | some w => if w.phase = .done ∧ success w.status = true ∧ w.names ≠ [] then
            setWork s { w with phase := .running, cursor := 1 } else s
        | none => s)
    else setWork s w

/-- Destinations of a multicast that were removed on the way, or fenced here. -/
def dropDests (s : State) (m : MCast) (cs : List Nat) : State :=
  let gone := cs.filter m.left.contains
  if gone.isEmpty then s
  else
    let s := match findWork s m.issuer with
      | some w => setWork s { w with names := (w.names ++ gone).eraseDups }
      | none => s
    closeMCast s { m with left := m.left.filter (fun c => !gone.contains c) } 0

/-- A destination of a multicast has answered, or its unicast packet has failed. -/
def accountDest (s : State) (m : MCast) (c status : Nat) : State :=
  closeMCast s { m with left := m.left.filter (· != c) } status

/-! ## Serving requests (R353, R355) -/

/-- The answer to a request (R350). -/
def answer (s : State) (k : Pkt) (ty status : Nat) (body : List Byte) : State :=
  postPkt s { ty := ty, tc := 1, dst := k.src, aux := status, txid := k.txid, sdie := k.sdie, qc := k.qc, len := body.length,
              payload := body }

/-- The work done for a request, if it has begun. -/
def findReq (s : State) (k : Pkt) : Option Work := s.work.find? (fun w => decide (w.req = some (k.src, k.txid)))

/-- Takes a packet from the inbox, and the work done for it: it leaves every line, and its reference to a version ends
(R240, R242). -/
def dropReq (s : State) (k : Pkt) : State :=
  let s := { s with fab := { s.fab with inbox := s.fab.inbox.erase k } }
  match findReq s k with
  | none => s
  | some w => dropRef (leaveAll (delWork s w.ref) w.ref) w

/-- An earlier packet of the window holds a request back (R353). -/
def heldBack (before : List Pkt) (k : Pkt) : Bool :=
  !k.mc && before.any (fun e => e.src == k.src && e.tc == k.tc && !e.mc && (!e.ord || !k.ord || e.flag || k.flag))

/-- The packets of a kind that may be served now, in order of arrival. -/
def candidates (f : Pkt → Bool) : List Pkt → List Pkt → List Pkt
  | _, [] => []
  | before, k :: ks =>
    let rest := candidates f (before ++ [k]) ks
    if f k && !heldBack before k then k :: rest else rest

/-- Serves the first packet whose service can end now; a packet that waits keeps its place. -/
def serveAny (serve : State → Pkt → State) : List Pkt → State → State
  | [], s => s
  | k :: ks, s =>
    let s' := serve s k
    if s'.fab.inbox.contains k then serveAny serve ks s' else s'

/-- The response type of a request. -/
def rspType (ty : Nat) : Nat := ty + 1

/-- A refused report of strands or of an update row ends the operation it reports to with FAULT_EPHEMERIS (R61). -/
def refusedReport (s : State) (k : Pkt) : State :=
  let bs := k.payload
  if k.ty = 7 ∧ k.aux = 1 ∧ bs.length ≠ 32 then
    let m := field bs 20 12
    wakeForward (creditLaunch s { odie := bits m 40 2, ocoord := bits m 42 12, entry := bits m 0 16 } (field bs 32 4)
      Status.ephemeris {} 0)
  else if k.ty = 7 ∧ k.aux = 3 ∧ field bs 0 1 = 1 then
    ackWork s (if field bs 1 1 = 64 then .b (field bs 2 8) else .q (field bs 1 1) (field bs 2 8)) Status.ephemeris {}
  else s

/-- Serves one request, after the checks of R61, R466 and R483 that answer it without effect. -/
def guarded (serve : State → Pkt → State) (s : State) (k : Pkt) : State :=
  let b := reg s Key.bootState
  if s.err.fatal then answer (dropReq s k) k (rspType k.ty) Status.hw []
  else if ephChecked k && k.eph != reg s Key.ephPin then
    refusedReport (answer (dropReq s k) k (rspType k.ty) Status.ephemeris []) k
  else if k.ty = 7 ∧ (b = 6 ∨ b = 7) then answer (dropReq s k) k 8 busyRsp []
  else serve s k

/-- Requests are served in Noon, frozen or ISOLATED modules aside (R361, R363). -/
def serving (s : State) : Bool := computing s && reg s Key.fabState != 5

/-- The command that serves a kind of request. -/
def serveKind (f : Pkt → Bool) (serve : State → Pkt → State) (t : Nat) (s : State) : State :=
  if serving s then
    match candidates f [] s.fab.inbox with
    | [] => s
    | ks => markReady (touch (serveAny (guarded serve) ks (atTime s t)))
  else s

/-- The record of the work done for a request; `names` holds the range of an object it is an access to (log 112). -/
def reqWork (s : State) (k : Pkt) (die : Nat) (desc : List Byte) : Work :=
  { ref := .b s.strands.nextBatch, desc := desc, phase := .running, unit := die, req := some (k.src, k.txid),
    began := s.time, order := s.starts + 1, reqQc := k.qc, names := if isReq k then [hObj k.addr, hOff k.addr, k.len] else [] }

/-- Runs a request's body as an engine does: bytes of other modules are read first, writes that go on are
acknowledged first (R249, R322); then `fin` answers. -/
def serveEng (die : Nat) (desc : List Byte) (body : Eng Unit) (fin : Work → State → State) (s : State) (k : Pkt) : State :=
  let p : State × Work := match findReq s k with
    | some w => (s, w)
    | none =>
      let w := reqWork s k die desc
      ({ s with work := s.work ++ [w], starts := s.starts + 1,
                strands := { s.strands with nextBatch := s.strands.nextBatch + 1 } }, w)
  let s1 := if p.2.phase = .running then runBody body p.2 p.1 else p.1
  match findReq s1 k with
  | some w => if w.phase = .done then fin w (dropReq s1 k) else s1
  | none => s1

/-- The bytes a request asks for are left in the work's record. -/
def keepBytes (bs : List Byte) : Eng Unit := modify (fun c => { c with w := { c.w with desc := bs } })

/-- One part of a read, in one row: the version it names, or the row in place (R226, R240). -/
def readPart (k : Pkt) (o : Obj) (off len : Nat) : Eng (List Byte) := do
  let s ← getS
  if o.versioned && k.aux != 0xFFFF then
    match resolveVer s o k.aux with
    | none => stopWith Status.version
    | some v =>
      modify (fun c => { c with w := { c.w with ver := some (o.tslot, v) } })
      rdUnder o off len v
  else rdPlain o.num off len

/-- The body of a read request. -/
def readBody (k : Pkt) : Eng Unit := do
  let s ← getS
  let o := objOf s (hObj k.addr)
  let off := hOff k.addr
  require (o.spans off k.len) Status.handle
  let parts ← mapDo (fun (p : Nat × Nat) => readPart k o p.1 p.2)
    (if o.rowlen = 0 then [(off, k.len)] else pieces o.pitch (k.len / o.pitch + 2) off k.len)
  keepBytes parts.flatten

/-- The part of a staging row that was read out for a module, of which a request takes the next piece. -/
def heldRead (s : State) (k : Pkt) : Option RowRead :=
  s.fab.reads.find? (fun r => r.peer == k.src && r.die == k.sdie && r.tag == k.aux && decide (r.addr ≤ k.addr) &&
    decide (k.addr + k.len ≤ r.addr + r.data.length))

/-- Changes the parts held for other modules. -/
def setReads (s : State) (f : List RowRead → List RowRead) : State := { s with fab := { s.fab with reads := f s.fab.reads } }

/-- The hold of a row that a request asks for, keeps or ends (log 107). -/
def holdOf (k : Pkt) (o : Obj) : RowHold :=
  { peer := k.src, die := k.sdie, tag := k.aux % 2 ^ 13, obj := o.num, row := o.rowOf (hOff k.addr) }

/-- The body of a request that lets a row go, here and on the module this one had to ask (log 107). -/
def releaseBody (k : Pkt) (o : Obj) : Eng Unit := do
  modS (fun s =>
    let s := dropHold s (holdOf k o)
    match locate s o (hOff k.addr) with
    | .remote c => postRelease s k.sdie (k.aux % 2 ^ 13) c o.num (hOff k.addr)
    | _ => s)
  keepBytes [0]

/-- The body of a request that reads out or clears a part of a row: the first piece does so in one atomic step,
the later ones are served from what it read. It waits while another taker holds the row, or entries made here are not yet in
the row's header (R233, R268, log 107). -/
def rowBody (k : Pkt) (op : Nat) : Eng Unit := do
  let s ← getS
  let o := objOf s (hObj k.addr)
  let off := hOff k.addr
  require (o.spans off k.len) Status.handle
  if op = auxRelease then releaseBody k o
  else match heldRead s k with
  | some r =>
    keepBytes ((r.data.drop (k.addr - r.addr)).take k.len)
    if k.addr + k.len = r.addr + r.data.length then modS (fun s => setReads s (fun rs => rs.erase r))
  | none =>
    let h := holdOf k o
    match (rowParts o h.row).find? (fun p => p.1 == off) with
    | none => stopWith Status.handle
    | some p =>
      if heldByOther s h || headPending s o.num h.row then throw .wait
      let bs ← partAt o h.row p.1 p.2 op h.tag
      if auxHold < op then modS (fun s => addHold s h)
      if op % auxHold = auxClear then keepBytes [0]
      else
        keepBytes (bs.take k.len)
        if k.len < bs.length then
          modS (fun s => setReads s (fun rs => rs ++ [{ peer := k.src, die := k.sdie, tag := k.aux, addr := k.addr, data := bs }]))

/-- RD_REQ. -/
def execRdReq (t : Nat) (s : State) : Res :=
  .next (serveKind (fun k => k.ty == 1)
    (fun s k => serveEng k.sdie []
      (match rowOpOf (objOf s (hObj k.addr)) k.aux with
        | some op => rowBody k op
        | none => readBody k)
      (fun w s => answer s k 2 w.status (if success w.status then w.desc else [])) s k) t s)

/-- The body of a write by handle: in the draft version of a versioned table (R239), or in place with its tag words
zeroed, as an import asks (R288, log 137). -/
def writeBody (k : Pkt) : Eng Unit := do
  let s ← getS
  let o := objOf s (hObj k.addr)
  require (o.spans (hOff k.addr) k.len) Status.handle
  if o.versioned && k.aux % 4 == 0 then
    wrInPlace o.num (hOff k.addr) k.payload
    modS (fun s => zeroTags s o.num (hOff k.addr) k.len)
  else wrObj o.num (hOff k.addr) k.payload

/-- WR_REQ: a write by handle, or by module physical address from a placement engine that this module granted the space
to (R350). -/
def execWrReq (t : Nat) (s : State) : Res :=
  .next (serveKind (fun k => k.ty == 3)
    (fun s k =>
      if k.aux % 4 = 1 then
        if granted s k.src k.addr k.len then
          answer (countBytes (writePhys (dropReq s k) k.addr k.payload) true k.addr k.len) k 4 0 []
        else answer (dropReq s k) k 4 Status.handle []
      else serveEng k.sdie [] (writeBody k) (fun w s => answer s k 4 w.status []) s k) t s)

/-- The element an offset of an adder target addresses. -/
def elemIx (o : Obj) (off : Nat) : Nat :=
  if o.fmt = 11 then off / o.pitch * o.rowlen + (off % o.pitch - 64) / 16
  else if o.rowlen = 0 then off / 4
  else off / o.pitch * o.rowlen + off % o.pitch / 4

/-- An addend of a request enters here or goes on to where its row has moved. -/
def enterHere (x : Addend) : Eng Unit := do
  let c ← get
  match enterAddend c.s x with
  | .done s e => do
    modS (fun _ => s)
    event e
  | .remote coord => do
    let o := objOf c.s x.obj
    modS (fun s => postTxn s .add (some c.w.ref) x.obj (o.elemOff x.elem) (addReqPkt coord x o x.die))
    modify (fun c => { c with owed := c.owed + 1 })
  | .stop st => stopWith st
  | .wait => throw .wait

/-- The body of an add request (R229, R350): every element lies in the object, and T_src in the range of R41. -/
def addBody (k : Pkt) : Eng Unit := do
  let s ← getS
  let o := objOf s (hObj k.addr)
  match Fmt.ofCode (k.aux % 16) with
  | none => stopWith Status.format
  | some f =>
    require (addendFmt f) Status.format
    let data := if f = .xa128 then k.payload.drop 16 else k.payload
    let b := addendBytes f
    let e := elemIx o (hOff k.addr)
    require (o.adderTarget && o.elemOff e == hOff k.addr &&
      decide (e + data.length / b ≤ o.rowCount * o.rowElems)) Status.handle
    require (f != .xa128 || windowOk (signed 16 (field k.payload 0 2))) Status.format
    eachDo (fun (i : Nat) => enterHere {
      issuer := none, peer := k.src, die := k.sdie, obj := o.num, elem := e + i, fmt := f,
      tsrc := signed 16 (field k.payload 0 2), val := field data (b * i) b, qc := k.qc }) (List.range (data.length / b))

/-- The payload of an ADD_ACK (R350). -/
def ackBody (a : Acc) : List Byte :=
  leBytes 2 a.flags.toNat ++ leBytes 2 0 ++ leBytes 4 a.satN ++ leBytes 4 a.fluN ++ leBytes 4 a.invN

/-- ADD_REQ. -/
def execAddReq (t : Nat) (s : State) : Res :=
  .next (serveKind (fun k => k.ty == 5)
    (fun s k => serveEng k.sdie [] (addBody k) (fun w s => answer s k 6 w.status (ackBody w.acc)) s k) t s)

/-! ## Messages (R167, R268, R350) -/

/-- A message of a kind. -/
def isMsg (kind : Nat) (k : Pkt) : Bool := k.ty == 7 && k.aux == kind

/-- The strand of a record (R165). -/
def strandIn (bs : List Byte) : Strand :=
  let m := field bs 20 12
  { die := 0, item := field bs 0 8, key := field bs 8 8, seq := field bs 16 4,
    launch := { odie := bits m 40 2, ocoord := bits m 42 12, entry := bits m 0 16 }, etype := bits m 16 16, pos := bits m 32 4,
    query := bit m 36, state := .ready, since := 0 }

/-- A forwarded strand at its home (R31, R167); of a launch that has failed here it retires at once. -/
def acceptStrand (s : State) (k : Pkt) : State :=
  let x := strandIn k.payload
  let die := match homeOf s x.key 0 with
    | .on d => d
    | _ => 0
  let x := { x with die := die }
  if s.strands.copies.any (fun c => decide (c.key = x.launch) && c.die == die && c.failed) then
    wakeForward (report (answer (dropReq s k) k 8 0 []) x.launch 1 0 {} 0)
  else if freeSlots s die = 0 then answer (dropReq s k) k 8 busyRsp []
  else
    let s := answer (dropReq s k) k 8 0 []
    let y := enterPos s x 0 s.time
    let s := { s with strands := { s.strands with pool := s.strands.pool ++ [y.1] } }
    if y.2 then s else wakeForward (report s x.launch 0 Status.template {} 0)

/-- A report of retired strands (log 22). -/
def takeRetire (s : State) (bs : List Byte) : State :=
  let m := field bs 20 12
  wakeForward (creditLaunch s { odie := bits m 40 2, ocoord := bits m 42 12, entry := bits m 0 16 } (field bs 32 4) (field bs 36 2)
    { flags := Ev.ofNat (field bs 38 2), satN := field bs 40 4, fluN := field bs 44 4, invN := field bs 48 4 } (field bs 52 4))

/-- STRAND. -/
def execStrand (t : Nat) (s : State) : Res :=
  .next (serveKind (isMsg 1) (fun s k =>
    if k.payload.length = 32 then acceptStrand s k else takeRetire (answer (dropReq s k) k 8 0 []) k.payload) t s)

/-- The records of a CHAIN message (log 32). -/
def chainRecs : Nat → List Byte → Tab (Option TRec) → Tab (Option TRec)
  | 0, _, t => t
  | n + 1, bs, t => chainRecs n (bs.drop 144) (Tab.set none t (field bs 0 16) (some (templateRec ((bs.drop 16).take 128))))

/-- The copy of a launch's chain reaches this module: each die holds it (R167). A message of no record says that the launch
has failed: its strands that are not issued here retire, and their number goes back (R164, log 111). -/
def takeChain (s : State) (bs : List Byte) : State :=
  let key : LKey := { odie := field bs 2 1, ocoord := field bs 3 2, entry := field bs 0 2 }
  if field bs 7 1 = 0 then
    let f := failHere s key
    if f.1 = 0 then f.2 else wakeForward (report f.2 key f.1 0 {} 0)
  else
  let chain := chainRecs (field bs 7 1) (bs.drop 8) []
  let mine : List ChainCopy := (List.range 4).map (fun d =>
    { key := key, die := d, cluster := field bs 5 1, query := field bs 6 1 == 1, chain := chain })
  { s with strands := { s.strands with copies := s.strands.copies.filter (fun c => !decide (c.key = key)) ++ mine } }

/-- CHAIN. -/
def execChain (t : Nat) (s : State) : Res :=
  .next (serveKind (isMsg 2) (fun s k => takeChain (answer (dropReq s k) k 8 0 []) k.payload) t s)

/-- A row another module's update descriptor hands over is updated by the unit of its home die, and reported (R268). -/
def serveRow (s : State) (k : Pkt) : State :=
  let desc := (k.payload.drop 10).take 64
  let h := field desc 16 8
  let o := objOf s (hObj h)
  let die := homeDie s o (rowAt o h (field k.payload 143 8))
  serveEng die desc (updServed k.payload) (fun w s =>
    let body := updateReport k.payload w
    pump (postTxn (answer s k 8 0 []) .update none 0 0
      { ty := 7, dst := k.src, aux := 3, len := body.length, payload := body })) s k

/-- UPDATE. -/
def execUpdate (t : Nat) (s : State) : Res :=
  .next (serveKind (isMsg 3) (fun s k =>
    if field k.payload 0 1 = 0 then serveRow s k else takeReport (answer (dropReq s k) k 8 0 []) k.payload) t s)

/-- PLACE. -/
def execPlace (t : Nat) (s : State) : Res :=
  .next (serveKind (isMsg 5) (fun s k =>
    let r := placeMessage (dropReq s k) k.src k.payload
    answer r.2 k 8 r.1 []) t s)

/-! ## Responses (R355) -/

/-- Takes the first response that meets `f`; a request that held a slot of its die's pool frees it (R15). -/
def onResponse (f : Pkt → Bool) (go : State → Pkt → State) (t : Nat) (s : State) : State :=
  if 2 ≤ reg s Key.frzState then s
  else match takeInbox s f with
    | none => s
    | some (k, s) => markReady (pump (go (atTime s t) k))

/-- Bytes of another module reach the descriptor that asked for them. With the part of a row's header the whole row is
taken, and its other parts are let go; a part held for a descriptor that has ended meanwhile is let go too (R233, log 107). -/
def takeBytes (s : State) (x : Txn) (k : Pkt) : State :=
  let op := (rowOpOf (objOf s x.obj) x.pkt.aux).getD 0
  let letGo (s : State) : State :=
    if auxHold < op ∧ x.issuer.isSome then postRelease s x.pkt.sdie (x.pkt.aux % 2 ^ 13) x.pkt.dst x.obj x.off else s
  match x.issuer.bind (findWork s) with
  | none => letGo s
  | some w =>
    if w.phase ≠ .running then letGo s
    else
      let w' := { w with rbuf := w.rbuf ++ [{ obj := x.obj, off := x.off, data := k.payload, peer := k.src }] }
      if 1 ≤ op ∧ op < auxRelease then setWork (releaseHolds s w) { w' with holds := [] } else setWork s w'

/-- RD_RSP: the bytes, or the failure status. -/
def execRdRsp (t : Nat) (s : State) : Res :=
  .next (onResponse (fun k => k.ty == 2) (fun s k =>
    match findTxn s k.txid k.src with
    | none => s
    | some x => if k.aux ≠ 0 then endTxn s x k.aux else takeBytes (dropTxn s x) x k) t s)

/-- WR_ACK: of a write, of a copy of a placement engine, of a destination of a multicast. -/
def execWrAck (t : Nat) (s : State) : Res :=
  .next (onResponse (fun k => k.ty == 4) (fun s k =>
    match s.fab.mcasts.find? (fun m => m.id == k.txid && m.left.contains k.src), findTxn s k.txid k.src with
    | some m, _ => accountDest s m k.src k.aux
    | none, some x =>
      if k.aux ≠ 0 then endTxn s x k.aux else ackIssuer (dropTxn s x) x 0 {}
    | none, none => s) t s)

/-- ADD_ACK: status, flags and counts (R73, R350). -/
def execAddAck (t : Nat) (s : State) : Res :=
  .next (onResponse (fun k => k.ty == 6) (fun s k =>
    match findTxn s k.txid k.src with
    | none => s
    | some x => ackIssuer (dropTxn s x) x k.aux
        { flags := Ev.ofNat (field k.payload 0 2), satN := field k.payload 4 4, fluN := field k.payload 8 4,
          invN := field k.payload 12 4 }) t s)

/-- A message was accepted. -/
def accepted (s : State) (x : Txn) : State :=
  let s := dropTxn s x
  match x.kind with
  | .strand => (match strandOf s x with
    | some y => if x.pkt.len = 32 then wakeForward (dropStrand s y) else s
    | none => s)
  | .mailbox => ackIssuer s x 0 {}
  | _ => s

/-- MSG_RSP: accepted, BUSY or a failure status. -/
def execMsgRsp (t : Nat) (s : State) : Res :=
  .next (onResponse (fun k => k.ty == 8) (fun s k =>
    match findTxn s k.txid k.src with
    | none => s
    | some x =>
      if k.aux = 0 then accepted s x
      else if k.aux = busyRsp then { s with fab := { s.fab with txns := s.fab.txns.map (fun y =>
        if y = x then { y with busyAt := some s.time } else y) } }
      else endTxn s x k.aux) t s)

/-- Puts a packet of a transaction back into its window, behind what is there. -/
def repost (s : State) (p : Pkt) : State :=
  let win : SrcWin := (s.fab.src.find? (fun x => x.peer == p.dst && x.tc == p.tc)).getD
    { peer := p.dst, tc := p.tc, cw := reg s Key.sluiceWin }
  let rest := s.fab.src.filter (fun x => !(x.peer == p.dst && x.tc == p.tc))
  pump { s with fab := { s.fab with src := rest ++ [{ win with waiting := win.waiting ++ [p] }] } }

/-- MSG_RETRY: FAB_BUSY_BACKOFF_US after a BUSY answer the message is sent again, strands in their order of arrival
(R31, R355); a FAB_MSG not accepted within MBX_FAB_RETRY_US times out (R417). -/
def execMsgRetry (id t : Nat) (s : State) : Res :=
  .next (match s.fab.txns.find? (fun x => x.id == id && x.busyAt.isSome) with
    | none => s
    | some x =>
      let now := max s.time t
      let first := x.kind != .strand || (s.fab.txns.find? (fun y => decide (y.kind = .strand) && y.pkt.dst == x.pkt.dst &&
        y.busyAt.isSome)) == some x
      if x.busyAt.getD 0 + 1000 * reg s Key.fabBusyBackoffUs ≤ now ∧ first = true then
        let s := atTime s t
        if x.kind = .mailbox ∧ x.start + 1000 * reg s Key.mbxFabRetryUs ≤ s.time then endTxn s x Status.timeout
        else
          let s := { s with fab := { s.fab with txns := s.fab.txns.map (fun y => if y = x then { y with busyAt := none } else y) } }
          repost s x.pkt
      else s)

/-- DROP_REPORT: destinations removed on the way are accounted for (R359). -/
def execDropReport (t : Nat) (s : State) : Res :=
  .next (onResponse (fun k => k.ty == 0xA) (fun s k =>
    match s.fab.mcasts.find? (fun m => m.id == k.txid) with
    | none => s
    | some m => dropDests s m ((List.range k.aux).map (fun i => field k.payload (2 * i) 2))) t s)

/-- MULTICAST_RESEND: SLUICE_RTO_US after a multicast packet was sent, the destinations that are not accounted for are
sent it by unicast in their windows (R359). -/
def execMulticastResend (id t : Nat) (s : State) : Res :=
  .next (match s.fab.mcasts.find? (fun m => m.id == id && !m.resent && !m.held) with
    | none => s
    | some m =>
      if m.start + 1000 * reg s Key.sluiceRtoUs ≤ max s.time t ∧ reg s Key.frzState = 0 then
        let s := setMCast (atTime s t) { m with resent := true }
        m.left.foldl (fun s c => postPkt s { m.pkt with mc := false, dst := c, txid := m.id }) s
      else s)

/-! ## Sluice windows as their source (R352, R354) -/

/-- The source's rule on a SACK (R354). -/
def onSack (top t : Nat) (w : SrcWin) (ack : Nat) (ece : Bool) : SrcWin :=
  let kept := w.kept.filter (fun p => seqLt ack p.seq)
  let newly := w.kept.length - kept.length
  let w := { w with kept := kept, since := if newly = 0 then w.since else t, resends := if newly = 0 then w.resends else 0 }
  if ece && !seqLt ack w.recover then { w with cw := max 4 (w.cw / 2), recover := w.lastSent, ackRun := 0 }
  else
    let run := w.ackRun + newly
    if w.cw ≤ run then { w with cw := min top (w.cw + 1), ackRun := 0 } else { w with ackRun := run }

/-- SACK: packets it covers are freed, the window's limit is adjusted (R352, R354). -/
def execSack (t : Nat) (s : State) : Res :=
  .next (onResponse (fun k => k.ty == 9) (fun s k =>
    pump { s with fab := { s.fab with src := s.fab.src.map (fun w =>
      if w.peer == k.src && w.tc == k.aux % 4 then onSack (reg s Key.sluiceWin) s.time w k.seq k.ece else w) } }) t s)

/-- DATA of a FABRIC entry (R457). -/
def fabricData (event c : Nat) : List Byte := leBytes 1 event ++ leBytes 1 0 ++ leBytes 2 c

/-- The transactions of a list of packets end with a status. -/
def endPackets (s : State) (ps : List Pkt) (status : Nat) : State :=
  (ps.filter (fun p => p.tc == 0)).foldl (fun s p =>
    match findTxn s p.txid p.dst, s.fab.mcasts.find? (fun m => m.id == p.txid && m.left.contains p.dst) with
    | some x, _ => endTxn s x status
    | none, some m => accountDest s m p.dst status
    | none, none => s) s

/-- SLUICE_RTO: no SACK covers the oldest packet: it and the later ones are sent again; after SLUICE_RETRIES resends
without progress the window's transactions time out and it is reset (R352). -/
def execSluiceRto (peer tc t : Nat) (s : State) : Res :=
  .next (match s.fab.src.find? (fun w => w.peer == peer && w.tc == tc) with
    | none => s
    | some w =>
      if w.kept ≠ [] ∧ w.since + 1000 * reg s Key.sluiceRtoUs ≤ max s.time t ∧ reg s Key.frzState = 0 then
        let s := atTime s t
        let put (s : State) (w' : SrcWin) : State :=
          { s with fab := { s.fab with src := s.fab.src.map (fun x => if x.peer == peer && x.tc == tc then w' else x) } }
        if w.resends < reg s Key.sluiceRetries then
          let s := bump (put s { w with resends := w.resends + 1, since := s.time }) Key.fabRetransmits 1
          w.kept.foldl emitPkt s
        else
          let s := bump (put s { peer := peer, tc := tc, waiting := w.waiting, cw := reg s Key.sluiceWin }) Key.fabTimeouts 1
          let s := alm s 0x54 0x0041 (fabricData 1 peer)
          markReady (pump (endPackets s w.kept Status.timeout))
      else s)

/-! ## FAB_PUT and FAB_MSG (R356, R359) -/

/-- FAB_PUT's destination object is not allowed (R356). -/
def putRefused (o : Obj) : Bool := o.scope != 0 || o.backing != 0 || o.role == 2 || o.role == 5 || o.role == 6

/-- The modules of the box in a descriptor's masks, the sender aside, in ascending snake rank. -/
def maskedCoords (s : State) (mx my mz : Nat) : List Nat :=
  let bx := boxOf s
  ((List.range (bx.a * bx.b * bx.c)).map (rankCoord bx)).filter (fun c =>
    bit mx (cx c) && bit my (cy c) && bit mz (cz c) && c != self s)

/-- A multicast packet as it leaves. -/
def departing (s : State) (m : MCast) : MCast :=
  { m with pkt := sealPkt { m.pkt with epoch := reg s Key.fabEpoch, part := reg s Key.fabPartId }, start := s.time, held := false }

/-- A multicast packet leaves by its branches (R358). -/
def startMulticast (s : State) (m : MCast) : State := mcStage (departing s m).pkt 4 0 (setMCast s (departing s m))

/-- The multicast packets that were held leave, without the destinations excluded meanwhile (R359, R361). -/
def releaseMulticast (s : State) : State :=
  if mayStart s 0 then
    (s.fab.mcasts.filter (·.held)).foldl (fun s m =>
      let out := m.left.filter (fun c => decide (remoteLoc s c ≠ .remote c))
      dropDests (startMulticast s m) (departing s m) out) s
  else s

/-- One multicast packet (R357, R358), outside any window; it is held while the module may initiate none (R361, R483). -/
def sendMulticast (s : State) (w : Work) (left : List Nat) (addr : Nat) (ord flag : Bool) (bs : List Byte) : State :=
  let id := s.fab.nextTx
  let p : Pkt := { ty := 3, ord := ord, flag := flag, mc := true, src := self s, epoch := reg s Key.fabEpoch,
                   part := reg s Key.fabPartId, eph := reg s Key.ephPin, sdie := w.die, txid := id, len := bs.length, addr := addr,
                   xmask := w.f 40 2, ymask := w.f 42 2, zmask := w.f 44 2, payload := bs }
  let go := mayStart s 0
  let m : MCast := { id := id, pkt := p, issuer := w.ref, left := left, start := s.time, held := !go }
  let s := { s with fab := { s.fab with nextTx := (id + 1) % 65536, mcasts := s.fab.mcasts ++ [m] } }
  if go then startMulticast s m else s

/-- Writes REPORT: the coordinates dropped or excluded, in ascending snake rank (R359). -/
def putReport : Eng Unit := do
  let c ← get
  let cs := (maskedCoords c.s (c.w.f 40 2) (c.w.f 42 2) (c.w.f 44 2)).filter c.w.names.contains
  wrH (c.w.f 48 8) (cs.flatMap (leBytes 2))
  addEvents cs.length
  stopWith Status.partialOk

/-- The body of FAB_PUT. -/
def putBody : Eng Unit := do
  let c ← get
  let w := c.w
  if w.cursor = 1 then putReport
  else
    let n := w.f 32 4
    let multi := bit (w.f 38 1) 0
    let ord := bit (w.f 38 1) 1
    let last := bit (w.f 38 1) 2
    let dst := w.f 24 8
    require (decide (n ≠ 0)) Status.shape
    require (handleOk w c.s (w.f 16 8) n && handleOk w c.s dst n && (!multi || handleOk w c.s (w.f 48 8) 8192)) Status.handle
    require (!putRefused (objOf c.s (hObj dst))) Status.route
    let g := if multi then 1024 else 4096
    let ps := (List.range (cdiv n g)).map (fun i => (g * i, min g (n - g * i)))
    if multi then
      let all := maskedCoords c.s (w.f 40 2) (w.f 42 2) (w.f 44 2)
      let out := all.filter (fun d => fenced c.s d || pathBlocked c.s (boxOf c.s) d 64 (self c.s))
      let left := all.filter (fun d => !out.contains d)
      require (all.any (fun d => !fenced c.s d)) Status.route
      let bs ← mapDo (fun (p : Nat × Nat) => rdH (w.f 16 8 + p.1) p.2) ps
      modify (fun c => { c with w := { c.w with names := out } })
      if left.isEmpty then putReport
      else eachDo (fun (e : (Nat × Nat) × List Byte) => do
        modS (fun s => sendMulticast s w left (dst + e.1.1) ord (last && e.1.1 + g ≥ n) e.2)
        modify (fun c => { c with owed := c.owed + 1 })) (List.zip ps bs)
    else
      let d := w.f 36 2 % 4096
      match (if d = self c.s then Loc.remote d else remoteLoc c.s d) with
      | .remote d =>
        let bs ← mapDo (fun (p : Nat × Nat) => rdH (w.f 16 8 + p.1) p.2) ps
        eachDo (fun (e : (Nat × Nat) × List Byte) => do
          modS (fun s => postTxn s .wr (some w.ref) (hObj dst) (hOff dst + e.1.1)
            { ty := 3, dst := d, addr := dst + e.1.1, ord := ord, flag := last && e.1.1 + g ≥ n, len := e.2.length, payload := e.2,
              sdie := w.die })
          modify (fun c => { c with owed := c.owed + 1 })) (List.zip ps bs)
      | .stop st => stopWith st
      | _ => stopWith Status.route

/-- FAB_PUT. -/
def execFabPut (r : WRef) (t : Nat) (s : State) : Res := .next (runEngine 0x0880 putBody r (atTime s t))

/-- The body of FAB_MSG; the channel travels in ADDR (log 46). -/
def msgBody : Eng Unit := do
  let c ← get
  let w := c.w
  let n := w.f 32 4
  require (decide (1 ≤ n) && decide (n ≤ 4096) && decide (w.f 38 1 < 64)) Status.shape
  require (handleOk w c.s (w.f 16 8) n) Status.handle
  let d := w.f 36 2 % 4096
  match (if d = self c.s then Loc.remote d else remoteLoc c.s d) with
  | .remote d =>
    let bs ← rdH (w.f 16 8) n
    modS (fun s => postTxn s .mailbox (some w.ref) 0 0
      { ty := 7, dst := d, aux := 4, addr := w.f 38 1, len := n, payload := bs, sdie := w.die })
    modify (fun c => { c with owed := c.owed + 1 })
  | .stop st => stopWith st
  | _ => stopWith Status.route

/-- FAB_MSG. -/
def execFabMsg (r : WRef) (t : Nat) (s : State) : Res := .next (runEngine 0x0881 msgBody r (atTime s t))

/-! ## Fencing (R360) -/

/-- Sets or clears bit `i` of a number. -/
def putBit (n i : Nat) (v : Bool) : Nat := if bit n i = v then n else if v then n + 2 ^ i else n - 2 ^ i

/-- The fence table after a write of FAB_FENCE: bit 12 takes NOFWD in, bit 13 clears (log 47). -/
def fenceTable (tbl r v : Nat) : Nat :=
  let on := !bit v 13
  let tbl := putBit tbl (2 * r) on
  if bit v 12 then putBit tbl (2 * r + 1) on else tbl

/-- What the fabric holds toward a module just fenced ends: moves and migrations abort, transactions end FENCED, windows are
emptied, multicast destinations are accounted for, what was read out or is held for it is dropped (R255, R326, R359, R360). -/
def fenceTraffic (s : State) (c : Nat) : State :=
  let s := setReads (fenceMoves s c) (fun rs => rs.filter (fun r => r.peer != c))
  let s := { s with fab := { s.fab with holds := s.fab.holds.filter (fun h => h.peer != c) } }
  let s := { s with fab := { s.fab with src := s.fab.src.map (fun (w : SrcWin) => if w.peer = c then { w with kept := [], waiting := [] } else w) } }
  let s := (s.fab.txns.filter (fun (x : Txn) => x.pkt.dst == c)).foldl (fun s x => endTxn s x Status.fenced) s
  wakeForward (s.fab.mcasts.foldl (fun s m => dropDests s m [c]) s)

/-- A write of FAB_FENCE; none when the coordinates lie outside the box. -/
def fabFence (m : Nat) (s : State) (v : Nat) : Option State :=
  let c := v % 4096
  match (if inPartition s then coordRank (boxOf s) c else none) with
  | none => none
  | some r =>
    let s := setReg s Key.fabFenceTable (fenceTable (reg s Key.fabFenceTable) r v)
    let s := almFull s m 0x54 0x0041 0 0 0 (fabricData 2 c)
    some (markReady (if bit v 13 then s else { (fenceTraffic s c) with red := { s.red with fencedSince := true } }))

/-! ## Membership (R361, R362) -/

/-- FAB_CONTROL DRAIN. -/
def drainFabric (s : State) : Option State :=
  if reg s Key.fabState = 1 then some { (setReg s Key.fabState 2) with fab := { s.fab with drainAt := s.time + 1 } } else none

/-- Every window is empty and every request received is answered (R361). -/
def drained (s : State) : Bool :=
  s.fab.src.all (fun w => w.kept.isEmpty && (w.tc != 1 || w.waiting.isEmpty)) &&
  s.fab.inbox.all (fun k => k.tc != 0) && s.work.all (fun w => w.req.isNone) && s.fab.rcv.all (fun w => w.unacked == 0)

/-- DRAIN_COMPLETE. -/
def execDrainComplete (t : Nat) (s : State) : Res :=
  .next (if reg s Key.fabState = 2 ∧ drained s = true then setReg (atTime s t) Key.fabState 3 else s)

/-- FAB_DRAIN_TIMEOUT: an Almanac entry; the module stays in DRAINING (R361). -/
def execFabDrainTimeout (t : Nat) (s : State) : Res :=
  .next (if reg s Key.fabState = 2 ∧ s.fab.drainAt ≠ 0 ∧ s.fab.drainAt + 1000 * reg s Key.fabDrainTimeoutUs ≤ max s.time t + 1 then
    let s := atTime s t
    alm { s with fab := { s.fab with drainAt := 0 } } 0x54 0x0041 (fabricData 3 (self s))
  else s)

/-- The box of the NEXT entries. -/
def nextBox (s : State) : Box :=
  let z := reg s Key.fabNextSize
  { origin := reg s Key.fabNextOrigin, a := cx z + 1, b := cy z + 1, c := cz z + 1 }

/-- R362: the cutover is refused. -/
def cutRefused (s : State) : Bool :=
  let lvl := reg s Key.fabNextLevel
  (reg s Key.fabState != 0 && reg s Key.fabNextEpoch != (reg s Key.fabEpoch + 1) % 65536) ||
  lvl == 0 || decide (reg s Key.fabCompatMax < lvl) ||
  (List.range 6).any (fun p => linkUp s p && (coordRank (nextBox s) (self s)).isSome &&
    (coordRank (nextBox s) (reg s (Key.linkPeer + 256 * p))).isSome && decide (reg s (Key.linkLevel + 256 * p) < lvl))

/-- A module that joins a partition fenced takes the table of step 1 of R315 over the members until its first advance, so
that it homes no SPREAD page, whatever table it kept of an earlier membership (R329, log 115). -/
def joinTable (s : State) : State :=
  let ms := members s
  if (s.place.home ≠ [] ∧ self s ∉ s.place.members) ∨ fenced s (self s) = false ∨ ms = [] then s
  else
    let s := { s with place := { s.place with home := tableOf (newTable [] false ms), members := ms } }
    setReg s Key.plcMembers ms.length

/-- FAB_CONTROL CUTOVER: the NEXT values take effect together and every window is reset (R361). A neighbour of the new
box is taken to belong to the new partition (log 48). -/
def cutover (s : State) : Option State :=
  if (reg s Key.fabState ≠ 3 ∧ reg s Key.fabState ≠ 0) ∨ cutRefused s = true then none
  else
    let bx := nextBox s
    let part := reg s Key.fabNextPartId
    let s := setReg (setReg (setReg s Key.fabPartId part) Key.fabBoxOrigin (reg s Key.fabNextOrigin)) Key.fabBoxSize (reg s Key.fabNextSize)
    let s := setReg (setReg s Key.fabEpoch (reg s Key.fabNextEpoch)) Key.fabPartLevel (reg s Key.fabNextLevel)
    let s := setReg (setReg s Key.fabFenceTable (reg s Key.fabNextFenceTable)) Key.fabState (if part = 0 then 0 else 4)
    let ports := s.fab.ports.map (fun e =>
      (e.1, { e.2 with peerPart := if (coordRank bx (reg s (Key.linkPeer + 256 * e.1))).isSome then part else
        (if e.2.peerPart = part then 0 else e.2.peerPart) }))
    let s := joinTable s
    some { s with
      fab := { s.fab with
        ports := ports
        src := s.fab.src.map (fun w => { peer := w.peer, tc := w.tc, waiting := w.waiting, cw := reg s Key.sluiceWin })
        rcv := []
        reads := []
        holds := [] }
      red := { s.red with fencedSince := false, relays := [] } }

/-- FAB_CONTROL RESUME: held initiator packets are released (R361). -/
def resumeFabric (s : State) : Option State :=
  if reg s Key.fabState = 4 then some (releaseMulticast (pump (setReg s Key.fabState 1))) else none

/-- FAB_CONTROL ISOLATE (R361). -/
def isolateFabric (s : State) : State := isolatePorts (setReg s Key.fabState 5)

end Sys2Proof.Machine
end

