-- ==== Sys2Proof/Machine/Mailbox.lean ====
section
/-! DEFINITION. The mailbox block (R409-R418): locks, actions, buffers, notification, hold expiry, messages of fabric
peers; the doorbells of the queues (R395-R398), which are wake events as well. -/

namespace Sys2Proof.Machine
open Sys2Proof

/-! ## Channels -/

/-- A channel. -/
def chanOf (s : State) (c : Nat) : Chan := Tab.get {} s.mbx c

/-- Changes a channel. -/
def setChan (s : State) (c : Nat) (x : Chan) : State := { s with mbx := Tab.set {} s.mbx c x }

/-- MBX_RECEIVER of a channel. -/
def receiver (s : State) (c : Nat) : Nat := reg s (Key.mbxReceiver + 256 * c)

/-- MBX_ALLOW lets a master in; bit 0 is ignored (R410). -/
def allows (s : State) (c m : Nat) : Bool := m != 0 && bit (reg s (Key.mbxAllow + 256 * c)) m

/-- Adds 1 to MBX_DENIED. -/
def denied (s : State) : State := bump s Key.mbxDenied 1

/-- The code of a state in STATUS (R412). -/
def ChState.code : ChState → Nat
  | .free => 0 | .held => 1 | .posted => 2 | .replied => 3

/-- STATUS (R412). -/
def mbxStatusWord (s : State) (c : Nat) : Nat :=
  let x := chanOf s c
  x.state.code + 8 * x.expired.toNat + 256 * x.owner + 65536 * x.code

/-- The channel becomes FREE. -/
def freeChan (s : State) (c : Nat) (expired : Bool) : State :=
  setChan s c { chanOf s c with state := .free, owner := 0, expired := expired, notice := [] }

/-- The channel is granted (R411). -/
def grantChan (s : State) (c m : Nat) : State :=
  setChan s c { chanOf s c with state := .held, owner := m, buf := [], len := 0, expired := false, grantAt := s.time }

/-- A read of LOCK (R411): the state after it and the value. -/
def mbxLock (s : State) (m c : Nat) : State × Nat :=
  let x := chanOf s c
  if receiver s c = 0 ∨ allows s c m = false then (denied s, 0xFF)
  else if x.state = .free then (grantChan s c m, 0)
  else if x.owner = m then (s, 0)
  else (s, x.owner)

/-- A control processor. -/
def isControl (m : Nat) : Bool := decide (8 ≤ m) && decide (m ≤ 23)

/-- A Weir limit stops an attempt (R471). -/
def weir (s : State) (n origin value : Nat) : State :=
  let s := bump s (Key.weirHits + 256 * n) 1
  let last := Tab.get 0 s.boot.weirAt n
  if last ≠ 0 ∧ s.time < last + 1000000000 then s
  else
    let s := { s with boot := { s.boot with weirAt := Tab.set 0 s.boot.weirAt n (max 1 s.time) } }
    almFull s origin 0x7A 0x0070 0 0 0 (leBytes 1 n ++ leBytes 3 0 ++ leBytes 8 value)

/-- An in-band interrupt on I3C (R414): Weir limit 7 lets 100 through in any second (R471, log 143). -/
def inBand (s : State) (c : Nat) : State :=
  let recent := s.boot.ibiAt.filter (fun t => decide (s.time < t + 1000000000))
  if 100 ≤ recent.length then weir s 7 0 c
  else send { s with boot := { s.boot with ibiAt := recent ++ [s.time] } } (.ibi c)

/-- Notifies a receiving identity of a channel (R414); a control processor that is off is told once Noon is reached
(R415). -/
def notifyMbx (s : State) (m c : Nat) : State :=
  match m with
  | 1 =>
    let v := reg s (Key.mbxHostVector + 256 * c)
    if v = 0xFFFF then s else raiseMsix s v
  | 2 => inBand s c
  | 3 => notifyFln s 1 c (chanOf s c).code 0
  | 4 => send s (.irq 4)
  | m =>
    if isControl m then
      if reg s Key.pwrState = 0 then send s (.irq m)
      else if m ∈ (chanOf s c).notice then s
      else setChan s c { chanOf s c with notice := (chanOf s c).notice ++ [m] }
    else s

/-- A wake event of R415, counted where it takes the module to Noon. -/
def mbxWake (s : State) : State :=
  let p := reg s Key.pwrState
  raiseWake (if 1 ≤ p ∧ p ≤ 3 then bump s Key.mbxWakes 1 else s) false

/-- DOORBELL (R412, R415). -/
def mbxDoorbell (s : State) (m c code : Nat) : State :=
  let x := chanOf s c
  if x.state = .held ∧ x.owner = m then
    let s := setChan s c { x with state := .posted, code := code % 65536 }
    let r := receiver s c
    notifyMbx (if isControl r then mbxWake s else s) r c
  else denied s

/-- DONE (R412). -/
def mbxDone (s : State) (m c : Nat) : State :=
  let x := chanOf s c
  if x.state = .posted ∧ receiver s c = m then
    if x.owner = 32 then freeChan s c false
    else notifyMbx (setChan s c { x with state := .replied }) x.owner c
  else denied s

/-- RELEASE (R412). -/
def mbxRelease (s : State) (m c : Nat) : State :=
  let x := chanOf s c
  if (x.state = .held ∨ x.state = .replied) ∧ x.owner = m then freeChan s c false else denied s

/-- FORCE_FREE (R412). -/
def mbxForce (s : State) (m c : Nat) : State := if 1 ≤ m ∧ m ≤ 4 then freeChan s c true else denied s

/-- A write of CONTROL (R409). -/
def mbxControl (s : State) (m c v : Nat) : State :=
  match v % 256 with
  | 1 => mbxRelease s m c
  | 2 => mbxDoorbell s m c (v / 65536)
  | 3 => mbxDone s m c
  | 4 => mbxForce s m c
  | _ => denied s

/-- BUFFER and LEN may be written by this master (R413). -/
def mayWriteBuf (s : State) (m c : Nat) : Bool :=
  let x := chanOf s c
  (decide (x.state = .held) && x.owner == m) || (decide (x.state = .posted) && receiver s c == m)

/-- BUFFER and LEN may be read by this master (R413). -/
def mayReadBuf (s : State) (m c : Nat) : Bool :=
  let x := chanOf s c
  decide (x.state ≠ .free) && (x.owner == m || receiver s c == m)

/-- A write into BUFFER at an offset of it. -/
def mbxWriteBuf (s : State) (m c off : Nat) (data : List Byte) : State :=
  if mayWriteBuf s m c && decide (off + data.length ≤ 4096) then
    let x := chanOf s c
    setChan s c { x with buf := Tab.setRange 0 x.buf off data }
  else denied s

/-- A write of LEN. -/
def mbxWriteLen (s : State) (m c v : Nat) : State :=
  if mayWriteBuf s m c && decide (v % 8192 ≤ 4096) then setChan s c { chanOf s c with len := v % 8192 } else denied s

/-- The mailbox block is powered (R415, R504). -/
def mbxOn (s : State) : Bool := s.pwr.managed && domainOn s 1

/-- A BAR0 access the module ignores: a read returns zero (R395). -/
def ignoreAccess (s : State) (read : Bool) : State :=
  let s := bump s Key.cxlDbRejects 1
  if read then send s (.register 0) else s

/-- A BAR0 access of the host: none without a link in L0; ignored until configuration answers (R394, R395). -/
def bar0 (s : State) (read : Bool) (go : State → State) : State :=
  if reg s Key.cxlLinkState < 2 then s
  else if !s.cxl.ready then ignoreAccess s read
  else go s

/-- An access of a master to a channel's registers; the host's goes by BAR0. -/
def atChan (m c t : Nat) (s : State) (read : Bool) (go : State → State) : State :=
  if 64 ≤ c ∨ mbxOn s = false then s
  else if m = 1 then bar0 (atTime s t) read go
  else go (atTime s t)

/-- MBX_LOCK: a read of LOCK. -/
def execMbxLock (m c t : Nat) (s : State) : Res :=
  .next (atChan m c t s true (fun s => let r := mbxLock s m c; send r.1 (.register r.2)))
/-- MBX_RELEASE. -/
def execMbxRelease (m c t : Nat) (s : State) : Res := .next (atChan m c t s false (fun s => mbxRelease s m c))
/-- MBX_DOORBELL. -/
def execMbxDoorbell (m c code t : Nat) (s : State) : Res := .next (atChan m c t s false (fun s => mbxDoorbell s m c code))
/-- MBX_DONE. -/
def execMbxDone (m c t : Nat) (s : State) : Res := .next (atChan m c t s false (fun s => mbxDone s m c))
/-- FORCE_FREE. -/
def execForceFree (m c t : Nat) (s : State) : Res := .next (atChan m c t s false (fun s => mbxForce s m c))

/-- The host's access is a run of aligned 32-bit accesses (R395). -/
def aligned32 (m off n : Nat) : Bool := m != 1 || (off % 4 == 0 && n % 4 == 0 && n != 0)

/-- MBX_BUFFER_WRITE: a write to LEN (offset 0x008) or BUFFER (from 0x1000) of a register page (R409, R413); to another
offset it is ignored (R395). -/
def execMbxBufferWrite (m c off : Nat) (data : List Byte) (s : State) : Res :=
  .next (atChan m c s.time s false (fun s =>
    if aligned32 m off data.length = false then ignoreAccess s false
    else if off = 8 ∧ data.length ≤ 4 then mbxWriteLen s m c (leNat data)
    else if 0x1000 ≤ off then mbxWriteBuf s m c (off - 0x1000) data
    else if m = 1 then ignoreAccess s false
    else s))

/-- A read of LEN, and of four bytes of BUFFER (R409, R413). -/
def mbxRead (s : State) (m c off : Nat) : State :=
  if mayReadBuf s m c then
    send s (.register (if off = 8 then (chanOf s c).len else leNat (Tab.getRange 0 (chanOf s c).buf (off - 0x1000) 4)))
  else send (denied s) (.register 0)

/-- An aligned 32-bit access of the host to the register page of channel `c` (R409, R413). -/
def chanAccess (s : State) (c off : Nat) (wr : Option Nat) : State :=
  match wr with
  | some v =>
    if off = 4 then mbxControl s 1 c v
    else if off = 8 then mbxWriteLen s 1 c v
    else if 0x1000 ≤ off then mbxWriteBuf s 1 c (off - 0x1000) (leBytes 4 v)
    else ignoreAccess s false
  | none =>
    if off = 0 then (let r := mbxLock s 1 c; send r.1 (.register r.2))
    else if off = 8 ∨ 0x1000 ≤ off then mbxRead s 1 c off
    else if off = 0xC then send s (.register (mbxStatusWord s c))
    else if off = 0x10 then send s (.register (chanOf s c).peer)
    else ignoreAccess s true

/-- DATA of a HOST entry (R457). -/
def hostData (event x : Nat) : List Byte := leBytes 1 event ++ leBytes 1 x

/-- MBX_HOLD_EXPIRY: outside FREE for MBX_HOLD_US after the grant (R416). -/
def execMbxHoldExpiry (c t : Nat) (s : State) : Res :=
  let x := chanOf s c
  .next (if c < 64 ∧ x.state ≠ .free ∧ mbxOn s = true ∧ reg s Key.frzState = 0 ∧
      x.grantAt + 1000 * reg s Key.mbxHoldUs ≤ max s.time t then
    let s := bump (freeChan (atTime s t) c true) Key.mbxExpired 1
    alm s 0x79 0x0050 (hostData 3 c)
  else s)

/-- A MAILBOX message of a fabric peer (R417). -/
def takeMail (s : State) (k : Pkt) : State :=
  let c := k.addr
  let s' := dropReq s k
  if 64 ≤ c ∨ allows s c 32 = false ∨ receiver s c = 0 then answer s' k 8 Status.mailbox []
  else if (chanOf s c).state ≠ .free then answer s' k 8 busyRsp []
  else
    let g := grantChan s' c 32
    let x := chanOf g c
    let g := setChan g c { x with buf := Tab.setRange 0 [] 0 k.payload, len := k.len, peer := k.src }
    answer (mbxDoorbell g 32 c 0) k 8 0 []

/-- MAILBOX. -/
def execMailbox (t : Nat) (s : State) : Res := .next (serveKind (isMsg 4) takeMail t s)

/-! ## Queue doorbells (R395-R398) -/

/-- What the host stored in its memory before it rang (R398). -/
def hostStores (s : State) (xs : List HostStore) : State := xs.foldl (fun s x => writeHost s x.addr x.data) s

/-- A doorbell is refused (R397). -/
def refuseBell (s : State) (q : Nat) : State := almFull (bump s Key.cxlDbRejects 1) 1 0x78 0x0050 0 0 0 (hostData 2 q)

/-- A write of PRODUCER that reaches the register (R397). -/
def ringProducer (s : State) (q v : Nat) : State :=
  let x := queueOf s q
  let d := (v + 2 ^ 32 - x.prod % 2 ^ 32) % 2 ^ 32
  let room := (v + 2 ^ 32 - x.cons % 2 ^ 32) % 2 ^ 32
  if !enabled s q || decide (2 ^ 31 ≤ d) || decide (ringSlots s q < room) then refuseBell s q
  else mbxWake (setQueue s q { x with prod := x.prod + d })

/-- A write of COMPL_CONSUMER that reaches the register (R397). -/
def ringConsumer (s : State) (q v : Nat) : State :=
  let x := queueOf s q
  let d := (v + 2 ^ 32 - x.cons % 2 ^ 32) % 2 ^ 32
  if !enabled s q || decide ((x.compl + 2 ^ 32 - x.cons % 2 ^ 32) % 2 ^ 32 < d) then refuseBell s q
  else mbxWake (setQueue s q { x with cons := x.cons + d })

/-- PRODUCER (R397). -/
def execProducer (q v : Nat) (stores : List HostStore) (t : Nat) (s : State) : Res :=
  .next (let s := hostStores (atTime s t) stores
    if 64 ≤ q then s else bar0 s false (fun s => ringProducer s q v))

/-- COMPL_CONSUMER (R397). -/
def execComplConsumer (q v : Nat) (stores : List HostStore) (t : Nat) (s : State) : Res :=
  .next (let s := hostStores (atTime s t) stores
    if 64 ≤ q then s else bar0 s false (fun s => ringConsumer s q v))

/-- An aligned 32-bit access of the host to a doorbell page (R396, R397). -/
def bellAccess (s : State) (q off : Nat) (wr : Option Nat) : State :=
  let x := queueOf s q
  match wr, off with
  | some v, 0 => ringProducer s q v
  | some v, 8 => ringConsumer s q v
  | none, 0 => send s (.register (x.prod % 2 ^ 32))
  | none, 8 => send s (.register (x.cons % 2 ^ 32))
  | none, 0x10 => send s (.register (x.compl % 2 ^ 32))
  | _, _ => ignoreAccess s wr.isNone

end Sys2Proof.Machine
end

