-- ==== Sys2Proof/Machine/Cxl.lean ====
section
/-! DEFINITION. The CXL controller (R391-R408): link, PERST_N, the HDM decoder and the apertures, host accesses and
snoops, the primary mailbox's standard commands, DOE. -/

namespace Sys2Proof.Machine
open Sys2Proof

/-! ## Link (R393, R394) -/

/-- Entries that return to their power-up values under PERST_N (R394). -/
def perstEntries (s : State) : State :=
  let back (s : State) (k : Nat) : State := setReg s k (powerUp k)
  let s := (List.range 64).foldl (fun s q =>
    [Key.queueCpiAddr, Key.queueVector, Key.queueIrqCount, Key.queueIrqUs].foldl (fun s k => back s (k + 256 * q)) s) s
  (List.range 64).foldl (fun s a =>
    [Key.aptObject, Key.aptLength, Key.mbxHostVector].foldl (fun s k => back s (k + 256 * a)) s) s

/-- Channels whose owner or receiver is the host become FREE with EXPIRED set (R418). -/
def perstMail (s : State) : State :=
  (List.range 64).foldl (fun s c => if (chanOf s c).owner = 1 ∨ receiver s c = 1 then freeChan s c true else s) s

/-- A queue PERST_N took: the records its started descriptors still owe are discarded (R394, log 61). -/
def loseQueue (s : State) (q : Nat) : State := setQueue s q { queueOf s q with lost := true }

/-- PERST_N_ASSERT (R394). -/
def execPerstNAssert (t : Nat) (s : State) : Res :=
  .next (if s.pwr.managed ∧ s.pwr.perstN = true then
    let s := atTime s t
    let s := resetCxl { s with pwr := { s.pwr with perstN := false } }
    let s := { s with cxl := { s.cxl with stampAt := s.time } }
    let s := (List.range 64).foldl (fun s q => if enabled s q then loseQueue (disableQueue (abortQueue s q) q) q
      else if draining s q then loseQueue s q else s) s
    markReady (perstMail (perstEntries s))
  else s)

/-- PERST_N_DEASSERT: training begins, where the controller has power: once the root PLL has locked, and in Midnight, where
it is off and controller and PHY are on (R393, R504). -/
def execPerstNDeassert (t : Nat) (s : State) : Res :=
  .next (if s.pwr.managed ∧ s.pwr.perstN = false then
    let s := atTime s t
    let s := { s with pwr := { s.pwr with perstN := true } }
    if domainOn s 1 && (reg s Key.clkPllLocked == 1 || reg s Key.pwrState == 3) then setReg s Key.cxlLinkState 1 else s
  else s)

/-- CXL_LINK_UP: negotiation has ended (R393). -/
def execCxlLinkUp (cxl : Bool) (width speed t : Nat) (s : State) : Res :=
  .next (if reg s Key.cxlLinkState = 1 then
    let s := atTime s t
    let bad := decide (width < 16) || decide (speed < 64)
    let s := setReg (setReg s Key.cxlLinkWidth (width % 256)) Key.cxlLinkSpeed (speed % 256)
    let s := setReg (setReg s Key.cxlLinkState (if cxl then 2 else 3)) Key.cxlLinkDegraded bad.toNat
    markReady (if bad then alm s 0x78 0x0050 (hostData 1 0) else s)
  else s)

/-- PRIMARY_MAILBOX_READY (R394). -/
def execPrimaryMailboxReady (t : Nat) (s : State) : Res :=
  .next (if s.pwr.perstN ∧ 1 ≤ reg s Key.cxlLinkState then
    { (atTime s t) with cxl := { s.cxl with ready := true } } else s)

/-! ## Configuration space and BAR0 (R394, R395) -/

/-- The value of a 32-bit configuration register at a byte offset: device ID and class code as the spec gives them,
what the host wrote, else the standard's (log 7). -/
def configValue (s : State) (r : Nat) : Nat :=
  if r = 0 then 0x4C34 * 65536 + Config.configReset 0 % 65536
  else if r = 8 then 0x120000 * 256 + Config.configReset 8 % 256
  else match s.cxl.config.find? (fun e => e.1 == r) with
    | some e => e.2
    | none => Config.configReset r % 2 ^ 32

/-- CONFIG_REQUEST (R394). -/
def execConfigRequest (r : Nat) (wr : Option Nat) (s : State) : Res :=
  .next (if reg s Key.cxlLinkState = 0 ∨ 4096 ≤ r ∨ r % 4 ≠ 0 then s
    else if !s.cxl.ready then send s (.config 0 true)
    else match wr with
      | none => send s (.config (configValue s r) false)
      | some v =>
        let s := if r = 0 ∨ r = 8 then s
          else { s with cxl := { s.cxl with config := (s.cxl.config.filter (fun e => e.1 != r)) ++ [(r, v % 2 ^ 32)] } }
        send s (.config 0 false))

/-- Where the primary mailbox's registers begin (log 146). -/
def mailboxBase : Nat := 0x40000 + 64 * (Config.mailboxSlot % 900)

/-- Bytes of the mailbox's registers: eight words, then the payload of 4,096 bytes (R406, log 146). -/
def mailboxSpan : Nat := 0x20 + 4096

/-- A BAR0 offset is in the mailbox's registers. -/
def inMailbox (o : Nat) : Bool := decide (mailboxBase ≤ o) && decide (o < mailboxBase + mailboxSpan)

/-- A CXL device or component register stands at the offset. -/
def devDefined (o : Nat) : Bool := inMailbox o || Config.deviceDefined o

/-- The register at the offset is read only: of the mailbox's, capabilities, status and background status. -/
def devReadOnly (o : Nat) : Bool :=
  if inMailbox o then decide (o ∈ [mailboxBase, mailboxBase + 0x10, mailboxBase + 0x14, mailboxBase + 0x18, mailboxBase + 0x1C])
  else Config.deviceReadOnly o

/-- The word at an offset where it has not been written: the mailbox's capabilities give payload size 12, its other
registers are zero (R406, log 146). -/
def devPowerUp (o : Nat) : Nat := if inMailbox o then (if o = mailboxBase then 12 else 0) else Config.deviceRegister o % 2 ^ 32

/-- A word of the CXL device or component registers. -/
def devWord (s : State) (o : Nat) : Nat := Nat.xor (Tab.get 0 s.cxl.regs o) (devPowerUp o)

/-- Changes a word of the CXL device or component registers. -/
def setDev (s : State) (o v : Nat) : State :=
  { s with cxl := { s.cxl with regs := Tab.set 0 s.cxl.regs o (Nat.xor (v % 2 ^ 32) (devPowerUp o)) } }

/-- A word of the MSI-X pending bit array: bit b of word i is vector 32 i + b (R395). -/
def pbaWord (s : State) (i : Nat) : Nat :=
  ((List.range 32).map (fun b => if 32 * i + b ∈ s.cxl.msixDue then 2 ^ b else 0)).sum

/-- A write of a word of the MSI-X table: of a vector's control the mask bit alone is kept, and a pending vector that is
unmasked is sent (R391, R395, log 145). -/
def writeMsix (s : State) (w v : Nat) : State :=
  let x := if w % 4 = 3 then Nat.xor (v % 2) 1 else v % 2 ^ 32
  let s := { s with cxl := { s.cxl with msix := Tab.set 0 s.cxl.msix w x } }
  let n := w / 4
  if w % 4 = 3 ∧ v % 2 = 0 ∧ n ∈ s.cxl.msixDue then
    send { s with cxl := { s.cxl with msixDue := s.cxl.msixDue.filter (fun y => y != n) } } (.msix n)
  else s

/-! ## HDM decoder and apertures (R400-R404) -/

/-- A range of host addresses meets a ring or CPI word of a queue that is enabled or draining. -/
def ringsIn (s : State) (a n : Nat) : Bool :=
  (List.range 64).any (fun q => (enabled s q || draining s q) && (queueRanges s q).any (fun r =>
    decide (r.1 < a + n) && decide (a < r.1 + r.2)))

/-- HDM_COMMIT (R400): refused, it stays uncommitted. -/
def execHdmCommit (base size : Nat) (s : State) : Res :=
  .next (if reg s Key.cxlLinkState ≠ 2 ∨ s.cxl.ready = false then s
    else if ringsIn s base size ∨ size = 0 ∨ 2 ^ 38 < size then
      setReg { s with cxl := { s.cxl with hdm := none, hdmError := true } } Key.cxlHdmBase 0
    else setReg { s with cxl := { s.cxl with hdm := some (base, size), hdmError := false } } Key.cxlHdmBase (base % 2 ^ 64))

/-- HDM_ACCESS (R403, R404, R407): a host access reaches the page's home, at once or when it can (R323, R491); without a
host link it is answered with an error, in FROZEN_FINAL and CONTAINED with poison (R491). -/
def execHdmAccess (addr len : Nat) (wr : Option (List Byte)) (s : State) : Res :=
  .next (match s.cxl.hdm with
    | none => s
    | some (b, z) =>
      if reg s Key.cxlLinkState ≠ 2 ∨ addr < b ∨ b + z < addr + len ∨ len = 0 then s
      else if !hostLinkUp s then send s .hostError
      else hostAccess s { off := addr - b, len := len, wr := wr })

/-- H2D_SNOOP: RspIHitI (R405). -/
def execH2dSnoop (addr : Nat) (s : State) : Res := .next (if reg s Key.cxlLinkState = 2 ∧ addr < 2 ^ 64 then send s .snoopResp else s)

/-- R402: result of a bind of aperture `a`, 0 when it is accepted, and the state. -/
def bindApt (s : State) (a : Nat) : Nat × State :=
  let x := Tab.get {} s.cxl.apts a
  let h := reg s (Key.aptObject + 256 * a)
  let n := reg s (Key.aptLength + 256 * a)
  let o := objOf s (hObj h)
  if !o.spans (hOff h) n || hOff h % 65536 != 0 || n % 65536 != 0 || n == 0 || decide (2 ^ 32 < n) || o.scope != 0 ||
      o.backing != 0 || o.undeclaring.isSome || isArea s o.num then (0x04, s)
  else if x.state ≠ .unbound ∨ reg s Key.cxlLinkState ≠ 2 then (0x07, s)
  else (0, { s with cxl := { s.cxl with apts := Tab.set {} s.cxl.apts a { state := .bound, obj := o.num, off := hOff h, len := n } } })

/-- The lines of an aperture that the host may hold are back-invalidated, if the link carries the snoops (R402, R407). -/
def snoopApt (s : State) (a : Nat) : State :=
  if hostLinkUp s then
    sendAll s ((s.cxl.filter.filter (fun l => l.apt == a)).map (fun l => .biSnoop true (l.apt * 2 ^ 26 + l.line)))
  else s

/-- The snoops of unbinds that had no link to go by follow (R402, R407). -/
def resumeSnoops (s : State) : State :=
  (s.cxl.apts.filter (fun e => decide (e.2.state = .unbinding))).foldl (fun s e => snoopApt s e.1) s

/-- R402: an unbind of aperture `a`. -/
def unbindApt (s : State) (a : Nat) : Nat × State :=
  let x := Tab.get {} s.cxl.apts a
  let used := (List.range 64).any (fun q => (enabled s q || draining s q) &&
    (let y := queueOf s q
     let b := y.hdmBase + a * 2 ^ 32
     (List.zip [y.ringApt, y.complApt, y.cpiApt] (queueRanges s q)).any (fun r =>
       r.1 && decide (b ≤ r.2.1) && decide (r.2.1 < b + 2 ^ 32))))
  if x.state ≠ .bound then (0, s)
  else if used then (0x07, s)
  else
    let s := snoopApt s a
    let y : Aperture := if !s.cxl.filter.any (fun l => l.apt == a) then {} else { x with state := .unbinding }
    (0, { s with cxl := { s.cxl with apts := Tab.set {} s.cxl.apts a y } })

/-- UNBIND_COMPLETE: the last host-held line is back (R402). -/
def execUnbindComplete (a : Nat) (s : State) : Res :=
  .next (if (Tab.get {} s.cxl.apts a).state = .unbinding ∧ hostLinkUp s = true then
    markReady { s with cxl := { s.cxl with apts := Tab.set {} s.cxl.apts a {}, filter := s.cxl.filter.filter (fun l => l.apt != a) } }
  else s)

/-! ## The primary mailbox (R406) -/

/-- The primary mailbox executes a command. -/
def primary (s : State) (go : State → State) : State :=
  if 2 ≤ reg s Key.cxlLinkState ∧ s.cxl.ready = true then go s else s

/-- The host's timestamp as it has run on since it was set (R406). -/
def stampBytes (s : State) : List Byte := leBytes 8 (s.cxl.stamp + (s.time - s.cxl.stampAt))

/-- Sets the host's timestamp. -/
def setStamp (s : State) (v : Nat) : State := { s with cxl := { s.cxl with stamp := v % 2 ^ 64, stampAt := s.time } }

/-- GET_TIMESTAMP. -/
def execGetTimestamp (t : Nat) (s : State) : Res :=
  .next (primary s (fun s =>
    let s := atTime s t
    send s (.mailbox 0 (stampBytes s))))

/-- SET_TIMESTAMP. -/
def execSetTimestamp (v t : Nat) (s : State) : Res :=
  .next (primary s (fun s =>
    send (setStamp (atTime s t) v) (.mailbox 0 [])))

/-- The command effects log: opcode and effects of each command (R406; bit positions of CXL 3.1, log 51). -/
def effectsLog : List Byte :=
  leBytes 4 0x0300 ++ leBytes 4 (0x0301 + 8 * 65536) ++ leBytes 4 0x0400 ++ leBytes 4 0x0401 ++ leBytes 4 (0xC000 + 0x3E * 65536)

/-- The identifier of the command effects log (CXL 3.1, log 51). -/
def effectsUuid : List Byte := beBytes 16 0x0DA9C0B5BF414B788F7996B1623B3F17

/-- The list of the logs (R406). -/
def logsList : List Byte := leBytes 2 1 ++ leBytes 6 0 ++ effectsUuid ++ leBytes 4 effectsLog.length

/-- GET_SUPPORTED_LOGS. -/
def execGetSupportedLogs (s : State) : Res := .next (primary s (fun s => send s (.mailbox 0 logsList)))

/-- A part of the command effects log: return code and bytes; beyond its end: Invalid Input (log 51). -/
def logPart (off len : Nat) : Nat × List Byte :=
  if off + len ≤ effectsLog.length then (0, (effectsLog.drop off).take len) else (2, [])

/-- GET_LOG of the command effects log. -/
def execGetLog (off len : Nat) (s : State) : Res :=
  .next (primary s (fun s => send s (.mailbox (logPart off len).1 (logPart off len).2)))

/-! ## DOE (R408) -/

/-- The protocols of the DOE mailbox: vendor and type (log 51). -/
def doeProtocol (i : Nat) : Nat × Nat :=
  match i with
  | 0 => (0x0001, 0)
  | 1 => (0x0001, 1)
  | 2 => (0x0001, 2)
  | 3 => (0x1E98, 2)
  | _ => (0xFFFF, 0)

/-- DOE_DISCOVERY. -/
def execDoeDiscovery (i : Nat) (s : State) : Res :=
  .next (primary s (fun s =>
    let p := doeProtocol i
    send s (.doe (leBytes 2 p.1 ++ leBytes 1 p.2 ++ leBytes 1 (if i < 3 then i + 1 else 0)))))

/-- A latency or bandwidth structure of the CDAT: data type, base unit, entry (log 51). -/
def dslbis (ty unit v : Nat) : List Byte :=
  leBytes 1 1 ++ leBytes 1 0 ++ leBytes 2 24 ++ leBytes 1 0 ++ leBytes 1 0 ++ leBytes 1 ty ++ leBytes 1 0 ++ leBytes 8 unit ++
  leBytes 2 v ++ leBytes 6 0

/-- The structures of the CDAT (R408): one range of 256 GiB, 150 ns, 128,000 MB/s (log 51). -/
def cdatEntries : List (List Byte) := [
  leBytes 1 0 ++ leBytes 1 0 ++ leBytes 2 24 ++ leBytes 4 0 ++ leBytes 8 0 ++ leBytes 8 (2 ^ 38),
  dslbis 1 1000 150, dslbis 2 1000 150, dslbis 4 1000 128, dslbis 5 1000 128]

/-- The CDAT header: length, revision, checksum, sequence. -/
def cdatHeader : List Byte :=
  let body := cdatEntries.flatten
  let h := leBytes 4 (16 + body.length) ++ leBytes 1 1
  let sum := ((h ++ body).map BitVec.toNat).sum
  h ++ leBytes 1 (256 - sum % 256) ++ leBytes 6 0 ++ leBytes 4 0

/-- CXL_TABLE_ACCESS: one entry of the CDAT with the handle of the next. -/
def execCxlTableAccess (entry : Nat) (s : State) : Res :=
  .next (primary s (fun s =>
    let es := cdatHeader :: cdatEntries
    match es[entry]? with
    | some e => send s (.doe (leBytes 2 0 ++ leBytes 2 (if entry + 1 < es.length then entry + 1 else 0xFFFF) ++ e))
    | none => s))

end Sys2Proof.Machine
end

