-- ==== Sys2Proof/Machine/Boot.lean ====
section
/-! DEFINITION. Firmware (chapter 15): image banks, loading, VERIFY, start, activation, the watchdog, fuses; the training
of memory (R2, R301); the module as an I3C target and MCTP endpoint (R436). -/

namespace Sys2Proof.Machine
open Sys2Proof

/-! ## Images (R463-R465) -/

/-- The qualified list of an image (R2). -/
def qualified (b : Tab Byte) (id : Nat) : Bool :=
  (List.range (imgDimms b)).any (fun i => imgNat b (imgDimmAt b + 16 * i) 16 == id)

/-- A half of a signature is in 1 .. n − 1 (R463). -/
def inOrder (r : Nat) : Bool := r != 0 && decide (r < Config.brainpoolOrder)

/-- The checks of VERIFY in order (R463): the BOOT_RESULT code. -/
def verify (s : State) : Nat :=
  let b := s.boot.staging
  let len := imgLength b
  let slot := imgSlot b
  let pub := imgBytes b 64 97
  if imgNat b 0 4 ≠ 0x5746344C ∨ imgNat b 4 2 ≠ 1 then 2
  else if len < 512 ∨ 8388608 < len ∨ len ≠ reg s Key.bootLoaded ∨ imgNat b 24 4 ≠ len - 512 ∨ imgDimmAt b < 512 ∨
      len < imgDimmAt b + 16 * imgDimms b then 3
  else if 3 < slot ∨ bit s.boot.revoked slot = true then 4
  else if Config.sha384 pub ≠ Config.keyHash slot then 5
  else if pub.head? ≠ some 0x04#8 ∨
      inOrder (beNat (imgBytes b 416 48)) = false ∨ inOrder (beNat (imgBytes b 464 48)) = false ∨
      Config.ecdsaValid (Config.sha384 (imgBytes b 0 416)) (beNat (pub.drop 1)) (beNat (imgBytes b 416 96)) = false then 6
  else if Config.sha384 (imgBytes b 512 (len - 512)) ≠ beNat (imgBytes b 176 48) then 7
  else if imgSvn b < s.boot.svn then 8
  else
    let pin := reg s Key.ephPin
    if imgEph b &&& reg s Key.ephSupported = 0 ∨ (pin ≠ 0 ∧ bit (imgEph b) pin = false) then 9 else 1

/-- The staging bank is cleared. -/
def clearStaging (s : State) : State :=
  setReg (setReg { s with boot := { s.boot with staging := [] } } Key.bootLoaded 0) Key.fwStagedVersion 0

/-- The banks exchange roles: the staged image is the running image, and it starts (R453, R465, R466, R470). -/
def exchangeBanks (s : State) : State :=
  let b := s.boot.staging
  let s := { s with boot := { s.boot with staging := s.boot.running, running := b, hasImage := true } }
  let s := setReg (setReg (setReg s Key.fwVersion (imgVersion b)) Key.fwSvn (imgSvn b)) Key.fwEphMask (imgEph b)
  deriveAlias (bump32 (setReg (setReg s Key.bootLoaded 0) Key.fwStagedVersion 0) Key.bootStarts 1)

/-- The entry IMAGE_REJECTED for the image in the staging bank (R457). -/
def rejectImage (s : State) (code : Nat) : State :=
  let b := s.boot.staging
  almFull s s.boot.loader 0x7A 0x0002 code 0 0
    (leBytes 1 code ++ leBytes 1 s.boot.loader ++ leBytes 2 0 ++ leBytes 4 (imgVersion b) ++ leBytes 2 (imgSvn b))

/-- VERIFY_COMPLETE (R463, R465). -/
def execVerifyComplete (t : Nat) (s : State) : Res :=
  .next (if reg s Key.bootState = 2 then
    let s := atTime s t
    let code := verify s
    let s := setReg (setReg s Key.bootResult code) Key.bootLoadOwner 0
    if code = 1 then
      (if s.boot.hasImage = false ∨ s.boot.before = 7 then setReg (exchangeBanks s) Key.bootState 3
       else setReg (setReg s Key.fwStagedVersion (imgVersion s.boot.staging)) Key.bootState 5)
    else
      let seq := s.alm.next
      alert (setReg (clearStaging (rejectImage s code)) Key.bootState s.boot.before) seq
  else s)

/-- The loader's image is given up: the state is what it was before LOADING, or RUNNING from STAGED (R464, R465). -/
def discardImage (s : State) : State :=
  let back := if reg s Key.bootState = 5 then 4 else s.boot.before
  setReg (setReg (clearStaging s) Key.bootLoadOwner 0) Key.bootState back

/-- LOAD_IDLE_TIMEOUT (R464). -/
def execLoadIdleTimeout (t : Nat) (s : State) : Res :=
  .next (if reg s Key.bootState = 1 ∧ s.boot.loadAt + 1000000 * reg s Key.bootLoadIdleMs ≤ max s.time t then
    discardImage (atTime s t) else s)

/-- FIRMWARE_READY: a start or an activation ends (R465, R466, R514); a freeze stops the core that would report (R490). -/
def execFirmwareReady (t : Nat) (s : State) : Res :=
  .next (if reg s Key.frzState ≠ 0 then s
    else if reg s Key.bootState = 3 ∧ s.boot.memReady = true ∧ s.pwr.rows = railRows ∧ reg s Key.clkPllLocked = 1 then
      let s := setReg (atTime s t) Key.bootState 4
      let s := if reg s Key.pwrState = 0xFF then sendNotices (touch (setReg s Key.pwrState 0)) else s
      pump (markReady s)
    else if reg s Key.bootState = 6 then
      let s := atTime s t
      let old := reg s Key.fwVersion
      let s := setReg (exchangeBanks s) Key.bootState 4
      let s := almFull s s.boot.loader 0x7A 0x0003 0 0 0 (leBytes 4 old ++ leBytes 4 (reg s Key.fwVersion))
      pump (markReady s)
    else s)

/-- ACTIVATION_FALLBACK: the old image is kept (R466); not while a freeze stops the core (R490). -/
def execActivationFallback (t : Nat) (s : State) : Res :=
  .next (if reg s Key.bootState = 6 ∧ reg s Key.frzState = 0 ∧ s.boot.startAt + 1000000000 ≤ max s.time t then
    let s := rejectImage (setReg (atTime s t) Key.bootResult 10) 10
    pump (markReady (setReg (clearStaging s) Key.bootState 4))
  else s)

/-- The watchdog runs: firmware executes and no freeze stops it (R467, R490). -/
def dogRuns (s : State) : Bool := s.pwr.managed && decide (reg s Key.frzState = 0) && (fwRuns s || reg s Key.bootState == 3)

/-- WATCHDOG_EXPIRY (R467): the third within 60 s halts the module. -/
def execWatchdogExpiry (t : Nat) (s : State) : Res :=
  .next (if dogRuns s then
    let s := atTime s t
    let dogs := s.boot.dogs.filter (fun x => decide (s.time < x + 60000000000)) ++ [s.time]
    let seq := s.alm.next
    let s := bump32 { s with boot := { s.boot with dogs := dogs } } Key.bootWatchdogs 1
    let s := alm s 0x7A 0x0004 (leBytes 1 dogs.length)
    if 3 ≤ dogs.length then
      let s := setReg (setReg (clearStaging s) Key.bootLoadOwner 0) Key.bootState 7
      alert (abortAll s) seq
    else s
  else s)

/-- IMAGE_BANK_ERROR: the copy to the control processors met an error (R453). -/
def execImageBankError (t : Nat) (s : State) : Res :=
  .next (if s.pwr.target = some 0 ∧ 3 ≤ reg s Key.pwrState ∧ s.boot.hasImage = true then
    let s := atTime s t
    let s := setReg (setReg (setReg s Key.fwVersion 0) Key.fwSvn 0) Key.fwEphMask 0
    let s := setReg (setReg (clearStaging s) Key.bootLoadOwner 0) Key.bootState 0
    let s := { s with boot := { s.boot with running := [], hasImage := false, before := 0 } }
    alm s 0x7A 0x0001 (leBytes 1 0 ++ leBytes 1 (reg s Key.bootResult) ++ leBytes 8 0)
  else s)

/-! ## Fuses (R459-R461) -/

/-- The two cells of step `n` with one blown or both: which, is left open (R459). -/
def blowCells (cells : Tab Nat) (n free : Nat) : Tab Nat :=
  let one (c : Tab Nat) (i : Nat) : Tab Nat := Tab.set 0 c (2 * n + i) 1
  match free % 3 with
  | 0 => one cells 0
  | 1 => one cells 1
  | _ => one (one cells 0) 1

/-- FUSE_STEP_BLOWN: the next step of a commit, of the 64 there are (R459, R460). -/
def execFuseStepBlown (t : Nat) (s : State) : Res :=
  .next (match s.boot.commit with
    | none => s
    | some v =>
      let x := drawFree (atTime s t)
      let b := x.2.boot
      let n := b.svn
      if 64 ≤ n then { x.2 with boot := { b with commit := none } }
      else { x.2 with boot := { b with
        cells := blowCells b.cells n x.1, blown := b.blown + 1, commit := if v ≤ n + 1 ∨ 64 ≤ n + 1 then none else some v } })

/-! ## Memory comes up (R2, R301, R332, R333) -/

/-- What becomes of a channel: DDR_STATE and whether an entry is written. -/
def dimmState (s : State) (kind : Option Bool) (d : DimmIn) : Nat :=
  if !d.present then 0
  else if !qualified s.boot.running d.spdId then 3
  else if kind.isSome && kind != some d.mrdimm then 4
  else if d.trained then 1 else 5

/-- The type the channels train to where the qualified DIMMs are of both: that of the lowest-numbered populated channel
(R301). -/
def dimmKind (s : State) (ds : List DimmIn) : Option Bool :=
  let good := ds.filter (fun d => d.present && qualified s.boot.running d.spdId)
  if good.any (fun d => d.mrdimm) && good.any (fun d => !d.mrdimm) then (ds.find? (fun d => d.present)).map (fun d => d.mrdimm)
  else none

/-- One channel comes up. -/
def setDimm (s : State) (ch : Nat) (d : DimmIn) (st : Nat) : State :=
  let s := setReg s (Key.ddrState + ch) st
  let s := setReg s (Key.ddrCapacity + ch) (if st = 1 then d.capacity % 2 ^ 64 else 0)
  let s := setReg s (Key.ddrSpdId + ch) (if d.present then d.spdId % 2 ^ 128 else 0)
  if st = 3 ∨ st = 4 then
    alm s (0x60 + ch) 0x0020 (leBytes 1 ch ++ leBytes 1 st ++ leBytes 2 0 ++ leBytes 16 d.spdId)
  else if st = 1 then setReg s Key.ddrMode (if d.mrdimm then 2 else 1)
  else s

/-- MEMORY_TRAINED: steps 10 and 11 of the cold power-up. -/
def execMemoryTrained (hbm : List Bool) (dimms : List DimmIn) (t : Nat) (s : State) : Res :=
  .next (if reg s Key.bootState = 3 ∧ s.boot.memReady = false ∧ 6 ≤ s.pwr.rows ∧ reg s Key.clkPllLocked = 1 then
    let s := atTime s t
    let s := { s with boot := { s.boot with memReady := true } }
    let s := (List.zip (List.range 8) hbm).foldl (fun s e =>
      if e.2 then setReg (setReg s (Key.hbmState + e.1) 1) (Key.hbmCapacity + e.1) 0xB2D05E000
      else setReg s (Key.hbmState + e.1) 3) s
    let kind := dimmKind s dimms
    (List.zip (List.range 16) dimms).foldl (fun s e => setDimm s e.1 e.2 (dimmState s kind e.2)) s
  else s)

/-! ## Read-out (R494) -/

/-- First module physical address of the device registers and the mailbox block (R294). -/
def deviceBase : Nat := 0x0F0000000000

/-- An address of the map of R294 that memory or a register backs. -/
def mapped (s : State) (a : Nat) : Bool :=
  if a < hbmBase then decide (a < 64 * sliceBytes)
  else if a < ddrBase then decide (a < hbmBase + 8 * 2 ^ 36) && decide ((a - hbmBase) % 2 ^ 36 < 48000000000)
  else if a < deviceBase then
    decide (a < ddrBase + 16 * 2 ^ 38) &&
    decide ((a - ddrBase) % 2 ^ 38 < reg s (Key.ddrCapacity + (a - ddrBase) / 2 ^ 38))
  else decide (a < deviceBase + 2 ^ 32)

/-- The code of a strand record's STATE (R165). -/
def SState.code : SState → Nat
  | .ready => 1 | .issued => 2 | .binned => 3 | .forward => 4

/-- First byte of a slice's strand records: its top 2 MiB (R166). -/
def strandArea : Nat := 254 * 2 ^ 20

/-- The 64 bytes at offset `o` of the strand records of a slice: the records of a die's pool fill its slices in the order
of the pool (R165, R166, log 142). -/
def strandBytes (s : State) (tile o : Nat) : List Byte :=
  let pool := s.strands.pool.filter (fun x => x.die == tile / 16)
  (List.range 2).flatMap (fun i => match pool[65536 * (tile % 16) + o / 32 + i]? with
    | some x => strandRec x x.state.code
    | none => List.replicate 32 0)

/-- The value of the device register at an offset: the doorbell pages and the mailbox pages; a read of LOCK through the
read-out acquires nothing (R395, R396, R409, R494). -/
def deviceWord (s : State) (o : Nat) : Nat :=
  if o < 0x40000 then
    let x := queueOf s (o / 0x1000)
    (match o % 0x1000 with
      | 0 => x.prod % 2 ^ 32
      | 8 => x.cons % 2 ^ 32
      | 0x10 => x.compl % 2 ^ 32
      | _ => 0)
  else if o < 0x60000 then (if devDefined o then devWord s o else 0)
  else if o < 0x61000 then msixWord s.cxl ((o - 0x60000) / 4)
  else if o < 0x61020 then pbaWord s ((o - 0x61000) / 4)
  else if 0x100000 ≤ o ∧ o < 0x180000 then
    let c := (o - 0x100000) / 0x2000
    let x := chanOf s c
    (match o % 0x2000 with
      | 0 => x.owner
      | 8 => x.len
      | 0xC => mbxStatusWord s c
      | 0x10 => x.peer
      | r => if 0x1000 ≤ r then leNat (Tab.getRange 0 x.buf (r - 0x1000) 4) else 0)
  else 0

/-- The 64 bytes a read-out finds at an address (R294, R494). -/
def readoutSpan (s : State) (a : Nat) : List Byte :=
  if mapped s a = false then List.replicate 64 0
  else if a < hbmBase ∧ strandArea ≤ a % sliceBytes then strandBytes s (a / sliceBytes) (a % sliceBytes - strandArea)
  else if deviceBase ≤ a then (List.range 16).flatMap (fun i => leBytes 4 (deviceWord s (a - deviceBase + 4 * i)))
  else Tab.getRange 0 s.mem.bytes a 64

/-- The addresses of the spans of a read-out. -/
def readoutAddrs (a n : Nat) : List Nat := (List.range (n / 64)).map (fun i => a + 64 * i)

/-- The bytes a read-out returns: the content as stored, and the poisoned codewords in the range. -/
def readoutBytes (s : State) (a n : Nat) : List Byte × Nat :=
  ((readoutAddrs a n).flatMap (readoutSpan s),
   (s.mem.poison.filter (fun p => decide (p < a + n) && decide (a < p + cwBytes p))).length)

/-- A read-out through an unmapped address writes one Almanac entry (R294). -/
def noteUnmapped (s : State) (a n : Nat) : State :=
  match (readoutAddrs a n).find? (fun x => !mapped s x) with
  | some x => alm s 0x7A 0x0031 (leBytes 8 x)
  | none => s

/-- READOUT_DONE. -/
def execReadoutDone (t : Nat) (s : State) : Res :=
  .next (if reg s Key.frzReadState = 1 then
    let s := atTime s t
    let a := s.err.readAddr
    let n := s.err.readLen
    let dest := s.err.readDest
    let f := reg s Key.frzState
    if f < 2 ∨ (dest ≠ 0 ∧ (f = 4 ∨ reg s Key.cxlLinkState ≠ 2)) then
      let x := drawFree s
      setReg (setReg x.2 Key.frzReadState 3) Key.frzReadDone (x.1 % (n + 1))
    else
      let r := readoutBytes s a n
      let s := noteUnmapped s a n
      let s := if dest = 0 then setReg s Key.frzReadBuf (leNat r.1) else putHost s dest r.1
      setReg (setReg (setReg s Key.frzReadState 2) Key.frzReadDone n) Key.frzReadPoison (stick32 r.2)
  else s)

/-! ## SPDM (R469, R470) -/

/-- The responder's state after a request: sessions open, at most 4 (R469, R474). -/
def spdmStep (s : State) (req : List Byte) : State :=
  setReg { s with fresh := s.fresh + 1 } Key.secSpdmSessions (Config.sessionsAfter s.fresh req % 5)

/-- The IDE streams after a request that a session carries; what waited for both of them goes on (R407, R469). -/
def ideStep (s : State) (ide : Nat) : State := markReady (serveHeld (resumeSnoops (setReg s Key.cxlIdeState ide)))

/-- SPDM_REQUEST: the responder's answer, over DOE or MCTP (R469); IDE_KM, inside an open session alone, moves the IDE
streams (R407), as the standard rules (log 7). -/
def execSpdmRequest (viaDoe : Bool) (req : List Byte) (s : State) : Res :=
  .next (if viaDoe then primary s (fun s =>
      let u := send (spdmStep s req) (.doe (spdmAnswer s req))
      if reg s Key.secSpdmSessions = 0 then u else ideStep u (Config.ideAfter s.fresh req % 4))
    else if s.pwr.managed then send (spdmStep s req) (.mctp (spdmAnswer s req))
    else s)

/-! ## I3C and MCTP control (R436; DSP0236, log 52) -/

/-- The I3C target answers from the moment the management domain is up. -/
def asTarget (s : State) (go : State → State) : State := if s.pwr.managed then go s else s

/-- ENTDAA: the module offers a provisional ID of 48 bits and takes the address it is given. -/
def execEntdaa (addr : Nat) (s : State) : Res :=
  .next (asTarget s (fun s =>
    let s := send s (.provisionalId (Config.provisionalId (reg s Key.idUnique) % 2 ^ 48))
    if 1 ≤ addr ∧ addr ≤ 0x7E then setReg s Key.i3cDynAddr addr else s))

/-- SET_ENDPOINT_ID; the null and the broadcast ID are refused. -/
def execSetEndpointId (eid : Nat) (s : State) : Res :=
  .next (asTarget s (fun s =>
    if eid = 0 ∨ 255 ≤ eid then send s (.mctp [0x01#8, 0x02#8])
    else send { s with srv := { s.srv with eid := eid } } (.mctp ([0x01#8, 0x00#8, 0x00#8] ++ leBytes 1 eid ++ [0x00#8]))))

/-- GET_ENDPOINT_ID. -/
def execGetEndpointId (s : State) : Res :=
  .next (asTarget s (fun s => send s (.mctp ([0x02#8, 0x00#8] ++ leBytes 1 s.srv.eid ++ [0x00#8, 0x00#8]))))

/-- The MCTP message types beside control: SPDM, secured messages, vendor defined by PCI. -/
def mctpTypes : List Nat := [0x05, 0x06, 0x7E]

/-- GET_MCTP_VERSION_SUPPORT. -/
def execGetMctpVersionSupport (ty : Nat) (s : State) : Res :=
  .next (asTarget s (fun s =>
    if ty = 0xFF ∨ ty = 0 ∨ ty ∈ mctpTypes then send s (.mctp ([0x04#8, 0x00#8, 0x01#8] ++ leBytes 4 (Config.mctpVersion ty)))
    else send s (.mctp [0x04#8, 0x80#8])))

/-- GET_MESSAGE_TYPE_SUPPORT. -/
def execGetMessageTypeSupport (s : State) : Res :=
  .next (asTarget s (fun s => send s (.mctp ([0x05#8, 0x00#8, 0x03#8] ++ mctpTypes.flatMap (leBytes 1)))))

end Sys2Proof.Machine
end

