-- ==== Sys2Proof/Machine/Reduce.lean ====
section
/-! DEFINITION. Gradient reduction (R366-R387): the REDUCE descriptor, contexts and their chain, the two transports,
the dual-path check with its relays, watchdog, aborts. -/

namespace Sys2Proof.Machine
open Sys2Proof

/-! ## A context's range in pieces and blocks (R375) -/

/-- Exact transport. -/
def RedCtx.exact (c : RedCtx) : Bool := c.mode % 4 == 0
/-- Blocks of a row. -/
def RedCtx.bpr (c : RedCtx) : Nat := cdiv c.rowlen 32
/-- Blocks of a REDUCE or RESULT piece. -/
def RedCtx.group (c : RedCtx) : Nat := if c.exact then 4 else 32
/-- Pieces of a row. -/
def RedCtx.ppr (c : RedCtx) : Nat := cdiv c.bpr c.group
/-- REDUCE and RESULT pieces of the range. -/
def RedCtx.pieces (c : RedCtx) : Nat := c.nrows * c.ppr
/-- Blocks of the range. -/
def RedCtx.blocks (c : RedCtx) : Nat := c.nrows * c.bpr
/-- AGREE pieces of the range. -/
def RedCtx.agrees (c : RedCtx) : Nat := if c.exact then 0 else cdiv c.blocks 2048
/-- Row of the range a piece lies in. -/
def RedCtx.rowOf (c : RedCtx) (p : Nat) : Nat := p / c.ppr
/-- First element of a piece. -/
def RedCtx.startOf (c : RedCtx) (p : Nat) : Nat := p % c.ppr * c.group * 32
/-- Elements of a piece. -/
def RedCtx.countOf (c : RedCtx) (p : Nat) : Nat := min (c.group * 32) (c.rowlen - c.startOf p)
/-- Blocks of a piece, counted from the first row of the range. -/
def RedCtx.blocksOf (c : RedCtx) (p : Nat) : List Nat :=
  rangeFrom (c.rowOf p * c.bpr + p % c.ppr * c.group) (cdiv (c.countOf p) 32)
/-- The piece a block lies in. -/
def RedCtx.pieceOf (c : RedCtx) (i : Nat) : Nat := i / c.bpr * c.ppr + i % c.bpr / c.group
/-- The last rank of the chain. -/
def RedCtx.last (c : RedCtx) : Bool := c.rank + 1 == c.n

/-- R382: a block of the range is checked. -/
def RedCtx.checked (c : RedCtx) (i : Nat) : Bool :=
  c.dp && (c.shift == 0 || decide
    (((c.first * c.bpr + i) * 0x9E3779B97F4A7C15 + c.step * 0xD1B54A32D192ED03) % 2 ^ 64 / 2 ^ (64 - c.shift) = 0))

/-- The checked blocks of the range in ascending order. -/
def RedCtx.checkList (c : RedCtx) : List Nat := (List.range c.blocks).filter c.checked

/-! ## Memory (R370) -/

/-- What a read of a contribution finds. -/
inductive RedRead (α : Type) where
  | ok (x : α)
  | wait
  | bad

/-- Bytes of the staging object, all at their home here. -/
def redBytes (s : State) (o : Obj) (off len : Nat) : RedRead (List Byte) :=
  if (spans16 off len).any (fun p => decide (locate s o p.1 = .wait)) then .wait
  else match readLocal s o off len with
    | some bs => .ok bs
    | none => .bad

/-- The raw XA128 values of `n` elements of a row from element `e`. -/
def redValues (s : State) (c : RedCtx) (row e n : Nat) : RedRead (List Int) :=
  let o := objOf s c.obj
  match redBytes s o ((c.first + row) * o.pitch + 64 + 16 * e) (16 * n) with
  | .ok bs => .ok ((List.range n).map (fun i => signed 128 (field bs (16 * i) 16)))
  | .wait => .wait
  | .bad => .bad

/-- One atomic read of a piece with its row's ENTRIES and HIGHEST (R370). -/
def readPiece (s : State) (c : RedCtx) (p : Nat) : RedRead RedPiece :=
  let o := objOf s c.obj
  match redValues s c (c.rowOf p) (c.startOf p) (c.countOf p), redBytes s o ((c.first + c.rowOf p) * o.pitch) 64 with
  | .ok vs, .ok hd => .ok { entries := field hd 4 4, high := field hd 2 1, rsc := 0, vals := vs }
  | .bad, _ => .bad
  | _, .bad => .bad
  | _, _ => .wait

/-- What the atomic read of a piece does beside (R332, R404). -/
def tellPiece (s : State) (c : RedCtx) (p : Nat) : State :=
  let row := (c.first + c.rowOf p) * (objOf s c.obj).pitch
  tellRead (tellRead s (objOf s c.obj) row 64) (objOf s c.obj) (row + 64 + 16 * c.startOf p) (16 * c.countOf p)

/-- The larger of two HIGHEST fields; 0xFF is none. -/
def maxHigh (a b : Nat) : Nat := if a = 0xFF then b else if b = 0xFF then a else max a b

/-- The values of block `j` of a list, padded with zeros. -/
def blockVals (vs : List Int) (j : Nat) : List Int := fillTo 0 32 ((vs.drop (32 * j)).take 32)

/-- Each total element in the staging window (R54, R378), with its events; exact totals are there already. -/
def totalsOf (c : RedCtx) (tot : RedPiece) (n : Nat) : List (Int × Ev) :=
  if c.exact then (tot.vals.take n).map (fun v => (v, {}))
  else (List.range n).map (fun i =>
    let b := i / 32 * 33
    let e := tot.vals.getD b 0
    let m := tot.vals.getD (b + 1 + i % 32) 0
    if e = 0 then (0, {}) else convXa c.t (Num.ofScaled m (e - 127)))

/-- Writes the result of a piece (R370): each element gains total − own, the header follows with element 0. None where
the page drains or a codeword is poisoned. -/
def writePiece (s : State) (c : RedCtx) (p : Nat) (own tot : RedPiece) : RedRead State :=
  match readPiece s c p with
  | .wait => .wait
  | .bad => .bad
  | .ok cur =>
    let s := tellPiece s c p
    let o := objOf s c.obj
    let row := (c.first + c.rowOf p) * o.pitch
    let ts := totalsOf c tot cur.vals.length
    let new := (List.zip cur.vals (List.zip own.vals ts)).map (fun e => unsigned 128 (e.1 - e.2.1 + e.2.2.1))
    let s := writeLocal s o (row + 64 + 16 * c.startOf p) (new.flatMap (leBytes 16))
    if c.startOf p ≠ 0 then .ok s
    else match redBytes s o row 64 with
      | .ok hd =>
        let s := if cur.entries ≠ own.entries then bump s Key.redLateAddends 1 else s
        .ok (writeLocal s (objOf s c.obj) row
          (putField (putField hd 4 4 (stick32 (cur.entries + tot.entries - own.entries))) 2 1 (maxHigh cur.high tot.high)))
      | .wait => .wait
      | .bad => .bad

/-! ## Block-scaled arithmetic (R377-R379) -/

/-- The local exponent of a block (R377). -/
def localExp (t : Int) (vs : List Int) : Nat :=
  let m := vs.foldl (fun a v => max a v.natAbs) 0
  if m = 0 then 0 else (max 1 (min 254 ((Nat.log2 m : Int) + t - 6))).toNat

/-- The agreed exponent (R377). -/
def agreedExp (n emax : Nat) : Nat := if emax = 0 then 0 else min 254 (emax + clog2 n)

/-- One rank's step on a block (R378): exponent, mantissas, rescaled, events. -/
def rankStep (e : Nat) (m own : List Int) (t : Int) : Nat × List Int × Bool × List Ev :=
  if e = 0 then (0, List.replicate 32 0, false, [])
  else
    let k : Int := t - e
    let q := own.map (fun v => roundScaled .nearest 0 v k)
    let ev1 := (List.zip own q).map (fun (x : Int × Int) => ({ flu := decide (x.2 = 0 ∧ x.1 ≠ 0), inx := !scaledExact x.1 k } : Ev))
    let s := if m.isEmpty then q else (List.zip m q).map (fun (x : Int × Int) => x.1 + x.2)
    if s.any (fun v => decide (127 < v ∨ v < -128)) then
      if e < 254 then
        let r := s.map (fun v => roundScaled .nearest 0 v (-1))
        let ev2 := (List.zip s r).map (fun (x : Int × Int) => ({ flu := decide (x.2 = 0 ∧ x.1 ≠ 0), inx := !scaledExact x.1 (-1) } : Ev))
        (e + 1, r, true, ev1 ++ ev2)
      else
        let ev2 := s.map (fun v => let out := decide (127 < v ∨ v < -128); ({ sat := out, inx := out } : Ev))
        (e, s.map (fun v => min 127 (max (-128) v)), false, ev1 ++ ev2)
    else (e, s, false, ev1)

/-- A piece's step at this rank: the incoming piece (none at rank 0), the own one, the exponents rank 0 starts from. -/
def pieceStep (c : RedCtx) (inc : Option RedPiece) (own : RedPiece) (e0 : List Nat) : RedPiece × List Ev × Nat :=
  let ent := stick32 (own.entries + (inc.map (·.entries)).getD 0)
  let high := maxHigh own.high ((inc.map (·.high)).getD 0xFF)
  if c.exact then
    let vs := match inc with
      | none => own.vals
      | some i => (List.zip i.vals own.vals).map (fun x => signed 128 (unsigned 128 (x.1 + x.2)))
    ({ entries := ent, high := high, rsc := 0, vals := vs }, [], 0)
  else
    let nb := cdiv own.vals.length 32
    let rs := (List.range nb).map (fun j => match inc with
      | none => rankStep (e0.getD j 0) [] (blockVals own.vals j) c.t
      | some i => rankStep (i.vals.getD (33 * j) 0).toNat ((i.vals.drop (33 * j + 1)).take 32) (blockVals own.vals j) c.t)
    let rsc := (List.zip (List.range nb) rs).foldl (fun n x =>
      if x.2.2.2.1 && !bit n x.1 then n + 2 ^ x.1 else n) ((inc.map (·.rsc)).getD 0)
    ({ entries := ent, high := high, rsc := rsc, vals := rs.flatMap (fun r => (r.1 : Int) :: r.2.1) },
     rs.flatMap (fun r => r.2.2.2), (rs.filter (fun r => r.2.2.1)).length)

/-! ## Pieces on the wire (R375, R383) -/

/-- A piece header with its fields. -/
def redHeader (c : RedCtx) (piece phase : Nat) (check : Bool) (x : RedPiece) : List Byte :=
  leBytes 32 (c.step % 2 ^ 32 + piece % 2 ^ 32 * 2 ^ 32 + x.entries % 2 ^ 32 * 2 ^ 64 + x.high % 256 * 2 ^ 96 +
    phase % 4 * 2 ^ 104 + check.toNat * 2 ^ 106 + c.n % 65536 * 2 ^ 112 + x.rsc % 2 ^ 32 * 2 ^ 128 +
    unsigned 16 c.t * 2 ^ 160 + c.rank % 65536 * 2 ^ 176)

/-- A field of a piece header. -/
def hdrBits (k : Pkt) (lo n : Nat) : Nat := bits (field k.payload 0 32) lo n
/-- PIECE. -/
def redPiece (k : Pkt) : Nat := hdrBits k 32 32
/-- The stream a packet belongs to: its phase, 4 for check pieces. -/
def redStream (k : Pkt) : Nat := if hdrBits k 106 1 = 1 then 4 else hdrBits k 104 2

/-- The data of a REDUCE or RESULT piece. -/
def pieceData (c : RedCtx) (x : RedPiece) : List Byte :=
  if c.exact then x.vals.flatMap (fun v => leBytes 16 (unsigned 128 v))
  else groupOf .bs8 ((List.range (x.vals.length / 33)).map (fun j =>
    ((x.vals.getD (33 * j) 0).toNat, (x.vals.drop (33 * j + 1)).take 32)))

/-- The piece a packet carries. -/
def pieceIn (c : RedCtx) (k : Pkt) : RedPiece :=
  let d := k.payload.drop 32
  let n := c.countOf (redPiece k)
  { entries := hdrBits k 64 32, high := hdrBits k 96 8, rsc := hdrBits k 128 32,
    vals := if c.exact then (List.range n).map (fun i => signed 128 (field d (16 * i) 16))
      else (List.range (cdiv n 32)).flatMap (fun j => (field d j 1 : Int) :: (List.range 32).map (fun i =>
        signed 8 (field d (32 + 32 * j + i) 1))) }

/-- Blocks of a check piece at most. -/
def RedCtx.checkMax (c : RedCtx) : Nat := if c.exact then 4 else 32

/-- A check piece (R383): block indices, then the blocks; RSC bit j of block j. -/
def checkBytes (c : RedCtx) (piece : Nat) (bs : List (Nat × List Int)) : List Byte :=
  let rsc := (List.zip (List.range bs.length) bs).foldl (fun n x => n + (x.2.2.headD 0).toNat * 2 ^ x.1) 0
  let ix := bs.flatMap (fun b => leBytes 4 (c.first * c.bpr + b.1))
  redHeader c piece 2 true { entries := 0, high := 0xFF, rsc := if c.exact then 0 else rsc, vals := [] } ++
  fillTo 0 (if c.exact then 16 else 128) ix ++
  bs.flatMap (fun b => if c.exact then b.2.flatMap (fun v => leBytes 16 (unsigned 128 v))
    else leBytes 1 (b.2.getD 1 0).toNat ++ (b.2.drop 2).flatMap (fun m => leBytes 1 (unsigned 8 m)))

/-- The blocks of a check piece; of a block-scaled block: RSC, E, mantissas. -/
def checkIn (c : RedCtx) (k : Pkt) : List (Nat × List Int) :=
  let d := k.payload.drop 32
  let sz := if c.exact then 512 else 33
  let pre := if c.exact then 16 else 128
  let rsc := hdrBits k 128 32
  (List.range ((d.length - pre) / sz)).map (fun j =>
    let b := d.drop (pre + sz * j)
    (field d (4 * j) 4 - c.first * c.bpr,
     if c.exact then (List.range 32).map (fun i => signed 128 (field b (16 * i) 16))
     else (bits rsc j 1 : Int) :: (field b 0 1 : Int) :: (List.range 32).map (fun i => signed 8 (field b (1 + i) 1))))

/-! ## Contexts -/

/-- The context of a reduction identifier. -/
def redCtx (s : State) (id : Nat) : Option RedCtx := s.red.ctxs.find? (fun c => c.redid == id)

/-- Changes a context. -/
def setCtx (s : State) (c : RedCtx) : State :=
  { s with red := { s.red with ctxs := s.red.ctxs.map (fun x => if x.redid = c.redid then c else x) } }

/-- RED_WINDOW (R373). -/
def redWindow : Nat := 1024

/-- Coordinates of the next and of the previous rank. -/
def RedCtx.up (c : RedCtx) : Nat := c.coords.getD (c.rank + 1) 0
/-- Coordinates of the previous rank. -/
def RedCtx.down (c : RedCtx) : Nat := c.coords.getD (c.rank - 1) 0

/-- A piece waits to be sent. -/
def RedCtx.queue (c : RedCtx) (phase dst : Nat) (payload : List Byte) : RedCtx :=
  { c with outq := c.outq ++ [{ phase := phase, dst := dst, payload := payload }] }

/-- One step within a dimension along a port; the module it reaches. -/
def detourPort (bx : Box) (c d : Nat) : Nat :=
  let p := 2 * d
  if localIx (coordIn bx.origin d) (coordIn c d) + 1 = boxIn bx d then p + 1 else p

/-- The relays of a hop from rank `a` to rank `b` (R384): none where the check piece goes directly. -/
def detour (s : State) (a b : Nat) : Option (Nat × Nat) :=
  let bx := boxOf s
  match (List.range 3).filter (fun d => coordIn a d != coordIn b d) with
  | [d] => match (List.range 3).find? (fun e => e != d && decide (2 ≤ boxIn bx e)) with
    | some e =>
      let p := detourPort bx a e
      let x := portPeer a p
      let y := portPeer b p
      if fenced s x || noFwd s x || fenced s y || noFwd s y then none else some (x, y)
    | none => none
  | _ => none

/-- Pieces a relay store holds (R384). -/
def relayWindow : Nat := 512

/-- Pieces of a phase that may be out: of check pieces that take a detour, what the relay's store holds (R373, R384). -/
def RedCtx.window (c : RedCtx) (s : State) (phase : Nat) : Nat :=
  if phase = 4 ∧ (detour s (self s) c.up).isSome = true then relayWindow else redWindow

/-- The piece may be sent now (R373). -/
def RedCtx.maySend (c : RedCtx) (s : State) (e : RedOut) : Bool :=
  decide (Tab.get 0 c.sent e.phase < Tab.get 0 c.room e.phase + c.window s e.phase) &&
  (e.phase == 1 || e.phase == 3 || c.joined)

/-- Sends a RED packet (R375). -/
def sendRed (s : State) (redid dst : Nat) (payload : List Byte) : State :=
  postPkt s { ty := 0xB, tc := 2, ord := true, dst := dst, aux := redid, len := payload.length, payload := payload }

/-- Sends a piece; a check piece takes its detour. -/
def sendPiece (s : State) (c : RedCtx) (e : RedOut) : State :=
  let s := bump s Key.redPiecesSent 1
  if e.phase ≠ 4 then sendRed s c.redid e.dst e.payload
  else match detour s (self s) e.dst with
    | some (a, _) => sendRed s c.redid a e.payload
    | none => bump (sendRed s c.redid e.dst e.payload) Key.redCheckDirect 1

/-- RED_CREDIT's payload (log 39): the stream, which is 5 or 6 for a relay's store of first or second hops, the count, the
rank the pieces come from. -/
def creditBody (redid stream count origin : Nat) : List Byte :=
  leBytes 2 redid ++ leBytes 1 stream ++ leBytes 4 count ++ leBytes 2 origin

/-- A piece of a stream has been consumed: a RED_CREDIT after every 64 to the module that sent it (R373, R384). -/
def consumed (s : State) (c : RedCtx) (stream : Nat) : State × RedCtx :=
  let n := Tab.get 0 c.took stream + 1
  let c := { c with took := Tab.set 0 c.took stream n, lastAt := s.time }
  let upward := decide (stream = 1 ∨ stream = 3)
  let dst := if upward then c.up
    else if stream = 4 then ((detour s c.down (self s)).map (·.2)).getD c.down else c.down
  (if n % 64 = 0 then redCtrl s dst 0x0021 (creditBody c.redid stream n (if upward then c.rank + 1 else c.rank - 1)) else s, c)

/-- The primary blocks of a piece as the check compares them. -/
def RedCtx.blockForm (c : RedCtx) (x : RedPiece) (j : Nat) : List Int :=
  if c.exact then blockVals x.vals j
  else (bits x.rsc j 1 : Int) :: (x.vals.drop (33 * j)).take 33

/-- Adds the events and rescales of a step (R379). -/
def RedCtx.counts (c : RedCtx) (evs : List Ev) (rescales : Nat) : RedCtx :=
  { c with acc := evs.foldl Acc.add c.acc, events := stick32 (c.events + rescales) }

/-- The checked blocks of a piece keep the contribution of the primary read for adder B (R383). -/
def RedCtx.noteOwn (c : RedCtx) (p : Nat) (own : RedPiece) : RedCtx :=
  let bs := c.blocksOf p
  { c with
    own := Tab.set {} c.own p own
    chkOwn := (List.zip (List.range bs.length) bs).foldl (fun t e =>
      if c.checked e.2 then Tab.set [] t e.2 (blockVals own.vals e.1) else t) c.chkOwn }

/-- Adder B on a checked block (R376, R378, R383). -/
def RedCtx.checkStep (c : RedCtx) (inc : Option (List Int)) (own : List Int) (e0 : Nat) : List Int :=
  if c.exact then (match inc with
    | none => own
    | some m => (List.zip m own).map (fun x => signed 128 (unsigned 128 (x.1 + x.2))))
  else
    let r := rankStep (match inc with
      | none => e0
      | some m => (m.getD 1 0).toNat) ((inc.map (·.drop 2)).getD []) own c.t
    let old := ((inc.map (·.headD 0)).getD 0)
    (if r.2.2.1 then 1 else old) :: (r.1 : Int) :: r.2.1

/-- The blocks gathered for a check piece go out. -/
def RedCtx.flushCheck (c : RedCtx) : RedCtx :=
  { (c.queue 4 c.up (checkBytes c c.chkN c.chkOut)) with chkOut := [], chkN := c.chkN + 1 }

/-- Rank 0 adds the checked blocks of a piece to the check path: a check piece goes out when it is full or no checked
block follows. -/
def RedCtx.feedCheck (c : RedCtx) (p : Nat) : RedCtx :=
  (c.blocksOf p).foldl (fun c i =>
    if c.checked i then
      let v := c.checkStep none (Tab.get [] c.chkOwn i) (Tab.get 0 c.agreed i)
      let c := { c with chkOut := c.chkOut ++ [(i, v)], chkOwn := Tab.set [] c.chkOwn i [] }
      let more := (rangeFrom (i + 1) (c.blocks - i - 1)).any c.checked
      if c.chkOut.length = c.checkMax ∨ more = false then c.flushCheck else c
    else c) c

/-! ## One thing a context can do -/

/-- What a read or write of the staging object lets a context do. -/
def onRead {α : Type} (s : State) (c : RedCtx) (r : RedRead α) (go : α → State) : Option State :=
  match r with
  | .ok x => some (go x)
  | .wait => none
  | .bad => some (failCtx s c Status.poison none)

/-- Sends the first waiting piece that has credit. -/
def redFlush (s : State) (c : RedCtx) : Option State :=
  match c.outq.find? (c.maySend s) with
  | none => none
  | some e =>
    let c := { c with outq := c.outq.erase e, sent := Tab.set 0 c.sent e.phase (Tab.get 0 c.sent e.phase + 1), lastAt := s.time }
    some (sendPiece (setCtx s c) c e)

/-- The blocks of an AGREE piece. -/
def RedCtx.agreeBlocks (c : RedCtx) (p : Nat) : List Nat := rangeFrom (2048 * p) (min 2048 (c.blocks - 2048 * p))

/-- The local exponents of a list of blocks (R377). -/
def localExps (s : State) (c : RedCtx) (bs : List Nat) : RedRead (List Nat) :=
  bs.foldl (fun r i => match r with
    | .ok es =>
      let e := i % c.bpr * 32
      (match redValues s c (i / c.bpr) e (min 32 (c.rowlen - e)) with
        | .ok vs => .ok (es ++ [localExp c.t vs])
        | .wait => .wait
        | .bad => .bad)
    | r => r) (.ok [])

/-- What the reads of some blocks do beside (R332, R404). -/
def tellBlocks (s : State) (c : RedCtx) (bs : List Nat) : State :=
  bs.foldl (fun s i =>
    let o := objOf s c.obj
    let e := i % c.bpr * 32
    tellRead s o ((c.first + i / c.bpr) * o.pitch + 64 + 16 * e) (16 * min 32 (c.rowlen - e))) s

/-- An AGREE piece with its header. -/
def agreeBytes (c : RedCtx) (p phase : Nat) (es : List Nat) : List Byte :=
  redHeader c p phase false { entries := 0, high := 0xFF, rsc := 0, vals := [] } ++ es.flatMap (leBytes 1)

/-- A REDUCE or RESULT piece with its header. -/
def pieceBytes (c : RedCtx) (p phase : Nat) (x : RedPiece) : List Byte := redHeader c p phase false x ++ pieceData c x

/-- AGREE_UP arrives: the running maximum goes up, the agreed exponents come down from the last rank. -/
def takeAgreeUp (s : State) (c : RedCtx) (k : Pkt) : Option State :=
  let p := redPiece k
  let bs := c.agreeBlocks p
  onRead s c (localExps s c bs) (fun es =>
    let s := tellBlocks s c bs
    let es := (List.zip (List.range es.length) es).map (fun e => max e.2 (field k.payload (32 + e.1) 1))
    let r := consumed s { c with inq := c.inq.erase k } 0
    setCtx r.1 (if c.last then r.2.queue 1 c.down (agreeBytes c p 1 (es.map (agreedExp c.n))) else r.2.queue 0 c.up (agreeBytes c p 0 es)))

/-- AGREE_DOWN arrives. -/
def takeAgreeDown (s : State) (c : RedCtx) (k : Pkt) : Option State :=
  let p := redPiece k
  let bs := c.agreeBlocks p
  let es := (List.range bs.length).map (fun j => field k.payload (32 + j) 1)
  let r := consumed s { c with
    inq := c.inq.erase k, agreed := (List.zip bs es).foldl (fun t e => Tab.set 0 t e.1 e.2) c.agreed } 1
  some (setCtx r.1 (if c.rank = 0 then r.2 else r.2.queue 1 c.down (agreeBytes c p 1 es)))

/-- A REDUCE piece arrives: this rank adds its contribution. -/
def takeReduce (s : State) (c : RedCtx) (k : Pkt) : Option State :=
  let p := redPiece k
  onRead s c (readPiece s c p) (fun own =>
    let s := tellPiece s c p
    let x := pieceStep c (some (pieceIn c k)) own []
    let r := consumed (bump s Key.redRescales x.2.2) (({ c with inq := c.inq.erase k }.noteOwn p own).counts x.2.1 x.2.2) 2
    setCtx r.1 (if c.last then { r.2 with totals := Tab.set {} r.2.totals p x.1 } else r.2.queue 2 c.up (pieceBytes c p 2 x.1)))

/-- A RESULT piece arrives: it is written and passed down. -/
def takeResult (s : State) (c : RedCtx) (k : Pkt) : Option State :=
  let p := redPiece k
  let tot := pieceIn c k
  onRead s c (writePiece s c p (Tab.get {} c.own p) tot) (fun s =>
    let c := c.counts ((totalsOf c tot (c.countOf p)).map (·.2)) 0
    let r := consumed s { c with inq := c.inq.erase k, own := Tab.set {} c.own p {}, written := c.written + 1 } 3
    setCtx r.1 (if c.rank = 0 then r.2 else r.2.queue 3 c.down (pieceBytes c p 3 tot)))

/-- A check piece arrives (R383): adder B adds the contributions the primary reads took. -/
def takeCheck (s : State) (c : RedCtx) (k : Pkt) : Option State :=
  let bs := checkIn c k
  if bs.any (fun b => decide (Tab.get 0 c.took 2 ≤ c.pieceOf b.1)) then none
  else
    let vs := bs.map (fun b => (b.1, c.checkStep (some b.2) (Tab.get [] c.chkOwn b.1) 0))
    let own := bs.foldl (fun t b => Tab.set [] t b.1 []) c.chkOwn
    let r := consumed s { c with inq := c.inq.erase k, chkOwn := own } 4
    some (setCtx r.1 (if c.last then { r.2 with chkRes := vs.foldl (fun t v => Tab.set [] t v.1 v.2) r.2.chkRes }
      else r.2.queue 4 c.up (checkBytes c (redPiece k) vs)))

/-- The next piece of a stream is taken if it can be. -/
def redTake (s : State) (c : RedCtx) (stream : Nat) : Option State :=
  match c.inq.find? (fun k => redStream k == stream && redPiece k == Tab.get 0 c.took stream) with
  | none => none
  | some k => match stream with
    | 0 => takeAgreeUp s c k
    | 1 => takeAgreeDown s c k
    | 2 => takeReduce s c k
    | 3 => takeResult s c k
    | _ => takeCheck s c k

/-- Room for a new piece of a phase at rank 0. -/
def RedCtx.roomFor (c : RedCtx) (s : State) (phase : Nat) : Bool :=
  c.maySend s { phase := phase, dst := 0, payload := [] } && c.outq.all (fun e => e.phase != phase)

/-- Rank 0 starts the next AGREE_UP piece. -/
def redAgree (s : State) (c : RedCtx) : Option State :=
  if c.rank = 0 ∧ 1 < c.n ∧ c.agreeRead < c.agrees ∧ c.roomFor s 0 = true then
    onRead s c (localExps s c (c.agreeBlocks c.agreeRead)) (fun es =>
      let s := tellBlocks s c (c.agreeBlocks c.agreeRead)
      setCtx s ({ c with agreeRead := c.agreeRead + 1 }.queue 0 c.up (agreeBytes c c.agreeRead 0 es)))
  else none

/-- Rank 0 starts the next REDUCE piece, once its exponents are agreed (R372); alone it writes its contribution
back. -/
def redStart (s : State) (c : RedCtx) : Option State :=
  let p := c.read
  if c.rank ≠ 0 ∨ c.pieces ≤ p then none
  else if c.n = 1 then
    onRead s c (readPiece s c p) (fun own =>
      match writePiece s c p own own with
      | .ok s => setCtx s { c with read := p + 1, written := p + 1 }
      | _ => s)
  else if c.roomFor s 2 && (c.exact || (c.blocksOf p).all (fun i => decide (i < 2048 * Tab.get 0 c.took 1))) then
    onRead s c (readPiece s c p) (fun own =>
      let s := tellPiece s c p
      let x := pieceStep c none own ((c.blocksOf p).map (Tab.get 0 c.agreed))
      let c' := (({ c with read := p + 1 }.noteOwn p own).counts x.2.1 x.2.2).queue 2 c.up (pieceBytes c p 2 x.1)
      setCtx (bump s Key.redRescales x.2.2) (c'.feedCheck p))
  else none

/-- The last rank turns a total into RESULT once its checked blocks are compared (R372, R385). -/
def redTurn (s : State) (c : RedCtx) : Option State :=
  let p := c.written
  let tot := Tab.get {} c.totals p
  let bs := c.blocksOf p
  let chk := (List.zip (List.range bs.length) bs).filter (fun e => c.checked e.2)
  if c.last = false ∨ c.n = 1 ∨ c.pieces ≤ p ∨ tot.vals = [] ∨
      chk.any (fun (e : Nat × Nat) => decide (Tab.get [] c.chkRes e.2 = [])) then none
  else
    let bad := (chk.filter (fun (e : Nat × Nat) => decide (Tab.get [] c.chkRes e.2 ≠ c.blockForm tot e.1))).map (·.2)
    onRead s c (writePiece s c p (Tab.get {} c.own p) tot) (fun s =>
      let s := bump32 (bump s Key.redCheckBlocks chk.length) Key.redMismatches bad.length
      let c := c.counts ((totalsOf c tot (c.countOf p)).map (·.2)) 0
      let c := { c with
        own := Tab.set {} c.own p {}, totals := Tab.set {} c.totals p {}, written := p + 1, lastAt := s.time
        chkRes := chk.foldl (fun t (e : Nat × Nat) => Tab.set [] t e.2 []) c.chkRes
        compared := c.compared + chk.length, mismatches := c.mismatches + bad.length
        firstBad := match c.firstBad with
          | some b => some b
          | none => bad.head?.map (fun i => c.first * c.bpr + i) }
      setCtx s (c.queue 3 c.down (pieceBytes c p 3 tot)))

/-- A mismatch at the last rank: Almanac entry and error record (R385, R481). -/
def redMismatch (s : State) (c : RedCtx) : State :=
  let w := findWork s c.work
  let tag := (w.map Work.tag).getD 0
  let s := almFull s 0 0x54 0x0042 Status.mismatch c.step tag
    (leBytes 2 c.redid ++ leBytes 2 0 ++ leBytes 8 (c.firstBad.getD 0))
  recordError { unit := 0x33, code := 0x0103, status := Status.mismatch, tag := tag, step := c.step } s

/-- The reduction ends here: RED_END goes down the chain (R385). -/
def redFinish (s : State) (c : RedCtx) : Option State :=
  if c.written < c.pieces ∨ c.outq ≠ [] then none
  else if c.last then
    let st := if c.mismatches = 0 then 0 else Status.mismatch
    let s := if c.mismatches = 0 then s else redMismatch s c
    some (endCtx (if c.rank = 0 then s else redCtrl s c.down 0x0022 (abortBody c st)) c st)
  else match c.ended with
    | none => none
    | some st => some (endCtx (if c.rank = 0 then s else redCtrl s c.down 0x0022 (abortBody c st)) c st)

/-- The first thing a context can do. -/
def redOne (s : State) (c : RedCtx) : Option State :=
  (redFlush s c).orElse fun _ => (redTake s c 1).orElse fun _ => (redTake s c 3).orElse fun _ =>
  (redTake s c 0).orElse fun _ => (redTake s c 2).orElse fun _ => (redTake s c 4).orElse fun _ =>
  (redAgree s c).orElse fun _ => (redStart s c).orElse fun _ => (redTurn s c).orElse fun _ => redFinish s c

/-- A context does what it can. -/
def redRun : Nat → Nat → State → State
  | 0, _, s => s
  | fuel + 1, id, s => match redCtx s id with
    | none => s
    | some c => match redOne s c with
      | none => s
      | some s => redRun fuel id s

/-- Everything the context of an identifier can do now; what it starts in one step is bounded by its windows. -/
def redProgress (s : State) (id : Nat) : State := markReady (redRun 65536 id s)

/-! ## REDUCE (R366-R371) -/

/-- The first failing check of R368, after those of R149. -/
def redStatus (s : State) (w : Work) : Option Nat :=
  let o := objOf s (hObj (w.f 16 8))
  if w.f 32 2 = 0 ∨ w.f 28 4 = 0 ∨ (o.declared = true ∧ o.rowCount < w.f 24 4 + w.f 28 4) ∨ w.f 35 1 = 0 ∨ 64 < w.f 35 1 ∨
      2 ≤ w.f 34 1 % 4 then some Status.shape
  else if !mayName w s o then some Status.handle
  else if o.fmt ≠ 11 ∨ o.role ≠ 3 ∨ o.scope ≠ 0 then some Status.format
  else none

/-- RED_JOIN's payload (log 39). -/
def joinBody (c : RedCtx) : List Byte :=
  fillTo 0 32 (leBytes 2 c.redid ++ leBytes 4 c.step ++ leBytes 1 c.mode ++ leBytes 4 c.first ++ leBytes 4 c.nrows ++
    leBytes 4 c.rowlen ++ leBytes 2 (unsigned 16 c.t) ++ leBytes 2 c.n ++ leBytes 4 c.wstart)

/-- The fields of a RED_JOIN; reserved bits count as zero (R7). -/
def joinFields (body : List Byte) : List Byte :=
  let bs := (fillTo 0 32 body).take 27
  putField bs 6 1 (field bs 6 1 % 4)

/-- A RED_JOIN meets its context (R374): every field is compared, whichever module it comes from; one that comes again from a
rank that has joined is for a later REDUCE (log 139). -/
def takeJoin (s : State) (c : RedCtx) (src : Nat) (body : List Byte) : State :=
  if !c.last && c.up == src && c.joined then
    { s with red := { s.red with joins := s.red.joins.filter (fun j => !(j.1 == src && field j.2 0 2 == c.redid)) ++ [(src, body)] } }
  else if joinFields body = joinFields (joinBody c) then
    if !c.last && c.up == src then redProgress (setCtx s { c with joined := true, lastAt := s.time }) c.redid else s
  else
    redCtrl (failCtx s c Status.redParam (some src)) src 0x0023
      (leBytes 2 c.redid ++ leBytes 4 (field body 2 4) ++ leBytes 2 Status.redParam)

/-- The RED_JOINs that came before their context meet it. -/
def meetJoins (s : State) (id : Nat) : State :=
  let mine (j : Nat × List Byte) : Bool := field j.2 0 2 == id
  (s.red.joins.filter mine).foldl (fun s j => match redCtx s id with
    | some c => takeJoin s c j.1 j.2
    | none => s) { s with red := { s.red with joins := s.red.joins.filter (fun j => !mine j) } }

/-- The context of a REDUCE that takes one. -/
def newCtx (s : State) (w : Work) : RedCtx :=
  let o := objOf s (hObj (w.f 16 8))
  let ms := members s
  { work := w.ref, redid := w.f 32 2, step := w.step, wstart := w.f 36 4,
    mode := if ms.length = 1 then 0 else w.f 34 1 % 4, obj := o.num, first := w.f 24 4, nrows := w.f 28 4, rowlen := o.rowlen,
    t := o.t, n := ms.length, rank := ms.findIdx (fun c => c == self s), coords := ms, dp := w.dp && decide (1 < ms.length),
    shift := reg s Key.redCheckShift, watchUs := reg s Key.redWatchdogUs, lastAt := s.time }

/-- A REDUCE must wait for a context: none is free, one of its identifier is held, or its turn has not come (R371); or the
engine is stopped (R482). -/
def redWaits (s : State) (w : Work) : Bool :=
  let held (x : Nat) : Bool := s.red.ctxs.any (fun c => c.redid == x)
  decide (6 ≤ s.red.ctxs.length) || held (w.f 32 2) || s.err.stopped.contains (errUnitOf w) ||
  s.work.any (fun v => v.waiting && decide (v.cursor < w.cursor) && !held (v.f 32 2))

/-- A due REDUCE starts: it completes at once where a FENCED bit has been set or an abort was kept for it, of which its
neighbours hear, and takes a context otherwise (R371, R381, R386). -/
def startCtx (s : State) (w : Work) : State :=
  let id := w.f 32 2
  let p := started s w 0
  let s := { p.1 with red := { p.1.red with steps := ((id, w.step) :: p.1.red.steps).eraseDups } }
  let c := newCtx s p.2
  if s.red.fencedSince then failCtx s c Status.fenced none
  else match s.red.aborts.find? (fun a => a.1 == id && a.2.1 == w.step) with
    | some a => failCtx { s with red := { s.red with aborts := s.red.aborts.erase a } } c a.2.2.1 none
    | none =>
      let s := { s with red := { s.red with ctxs := s.red.ctxs ++ [c] } }
      let s := if c.rank = 0 then s else redCtrl s c.down 0x0020 (joinBody c)
      redProgress (meetJoins s id) id

/-- A REDUCE that has reached the engine: the checks of R368 and R369, then a context or the wait for one. -/
def tryReduce (s : State) (w : Work) : State :=
  match redStatus s w with
  | some st => decide_ s w st
  | none =>
    if redDue w = false then bump (decide_ s w 0) Key.redSkipped 1
    else if redWaits s w then s
    else startCtx s w

/-- A REDUCE reaches the engine: its place among those that wait is noted (R371). -/
def reachReduce (s : State) (w : Work) : State :=
  let w := { w with cursor := s.starts + 1 }
  tryReduce (setWork { s with starts := s.starts + 1 } w) w

/-- REDUCE: reaches the engine, or tries again for a context, or goes on where a page drained. -/
def execReduce (r : WRef) (t : Nat) (s : State) : Res :=
  .next (match findWork s r with
    | none => s
    | some w =>
      if w.op ≠ 0x0800 ∨ w.req.isSome = true ∨ computing s = false then s
      else match w.phase with
        | .running => (match s.red.ctxs.find? (fun c => decide (c.work = r)) with
          | some c => redProgress (atTime s t) c.redid
          | none => s)
        | .fetched =>
          if startable s w && !cancelled s w then
            if w.waiting then markReady (tryReduce (atTime s t) w)
            else
              let st := headerStatus s w
              if st ≠ 0 then setWork s { w with phase := .done, status := st }
              else match issue (markReady (atTime s t)) w with
                | none => s
                | some s => reachReduce s w
          else s
        | _ => s)

/-! ## Packets (R373, R374, R378, R381, R384) -/

/-- What this module is to the check pieces of rank `origin`: whether the second relay of their detour, the module they
come from, the module they go to (R384). -/
def relayHops (s : State) (origin : Nat) : List (Bool × Nat × Nat) :=
  let ms := members s
  let a := ms.getD origin 0
  let b := ms.getD (origin + 1) 0
  match detour s a b with
  | some (x, y) => (if self s = x then [(false, a, y)] else []) ++ (if self s = y then [(true, x, b)] else [])
  | none => []

/-- The pieces in the store of first or of second hops. -/
def relayHeld (s : State) (second : Bool) : Nat :=
  ((s.red.relays.filter (fun r => r.second == second)).map (fun r => r.held.length)).sum

/-- A relayed stream by its reduction, rank of origin and hop (log 75). -/
def findRelay (s : State) (redid origin : Nat) (second : Bool) : Option Relay :=
  s.red.relays.find? (fun r => r.redid == redid && r.origin == origin && r.second == second)

/-- Changes a relayed stream. -/
def setRelay (s : State) (r : Relay) : State :=
  { s with red := { s.red with relays := s.red.relays.filter (fun x =>
      !(x.redid == r.redid && x.origin == r.origin && x.second == r.second)) ++ [r] } }

/-- A relay sends on what it holds of a stream while the next module has room (R373, R384). -/
def relayPump (redid origin : Nat) (hop : Bool × Nat × Nat) : Nat → State → State
  | 0, s => s
  | fuel + 1, s => match findRelay s redid origin hop.1 with
    | none => s
    | some r => match r.held with
      | [] => s
      | p :: ps =>
        if r.done < r.room + (if hop.1 then redWindow else relayWindow) then
          let n := r.done + 1
          let s := sendRed (bump (setRelay s { r with held := ps, done := n }) Key.redRelayed 1) redid hop.2.2 p
          let s := if n % 64 = 0 then redCtrl s hop.2.1 0x0021 (creditBody redid (if hop.1 then 6 else 5) n origin) else s
          relayPump redid origin hop fuel s
        else s

/-- A relay takes a check piece into its store (R384); piece 0 begins a stream anew. -/
def relayRed (s : State) (k : Pkt) : State :=
  let o := hdrBits k 176 16
  match (relayHops s o).find? (fun h => h.2.1 == k.src) with
  | none => s
  | some h =>
    let r := if redPiece k = 0 then { redid := k.aux, origin := o, second := h.1 }
      else (findRelay s k.aux o h.1).getD { redid := k.aux, origin := o, second := h.1 }
    relayPump k.aux o h 1 (setRelay s { r with held := r.held ++ [k.payload] })

/-- A relay that refuses a check piece under R61 tells its rank (R61, R381). -/
def relayRefuses (s : State) (k : Pkt) : State :=
  redCtrl s ((members s).getD (hdrBits k 176 16) 0) 0x0023
    (leBytes 2 k.aux ++ leBytes 4 (hdrBits k 0 32) ++ leBytes 2 Status.ephemeris)

/-- A check piece is only passing through. -/
def passing (s : State) (k : Pkt) : Bool := redStream k == 4 && (members s).getD (hdrBits k 176 16 + 1) 0 != self s

/-- A check piece that passes through waits while the store it goes to is full (R384). -/
def roomToRelay (s : State) (k : Pkt) : Bool :=
  !passing s k || (match (relayHops s (hdrBits k 176 16)).find? (fun h => h.2.1 == k.src) with
    | some h => decide (relayHeld s h.1 < relayWindow)
    | none => true)

/-- A control packet of a kind. -/
def isCtrl (kind : Nat) (k : Pkt) : Bool := k.ty == 0xC && k.aux == kind

/-- The chain's packets are taken in Noon, where the engine's clock runs (R504), unless the module freezes (R490). -/
def onRed (f : Pkt → Bool) (go : State → Pkt → State) (t : Nat) (s : State) : State :=
  if computing s = false then s
  else match takeInbox s f with
    | none => s
    | some (k, s) => go (atTime s t) k

/-- RED: a piece for a context here, or a check piece to relay. -/
def execRed (t : Nat) (s : State) : Res :=
  .next (onRed (fun k => k.ty == 0xB && roomToRelay s k) (fun s k =>
    if passing s k then (if k.eph = reg s Key.ephPin then relayRed s k else relayRefuses s k)
    else match redCtx s k.aux with
      | none => s
      | some c =>
        if k.eph ≠ reg s Key.ephPin then failCtx s c Status.ephemeris none
        else if windowOk (signed 16 (hdrBits k 160 16)) = false then failCtx s c Status.format none
        else if hdrBits k 0 32 ≠ c.step ∨ hdrBits k 112 16 ≠ c.n ∨ signed 16 (hdrBits k 160 16) ≠ c.t then
          failCtx s c Status.redParam none
        else redProgress (setCtx s { c with inq := c.inq ++ [k], lastAt := s.time }) c.redid) t s)

/-- RED_JOIN: compared with the local descriptor, or kept until it starts. -/
def execRedJoin (t : Nat) (s : State) : Res :=
  .next (onRed (isCtrl 0x0020) (fun s k =>
    let id := field k.payload 0 2
    match redCtx s id with
    | some c => takeJoin s c k.src k.payload
    | none => { s with red := { s.red with
        joins := s.red.joins.filter (fun j => !(j.1 == k.src && field j.2 0 2 == id)) ++ [(k.src, k.payload)] } }) t s)

/-- A relay learns what the next module has consumed of a stream. -/
def relayCredit (s : State) (redid origin count : Nat) (hop : Bool × Nat × Nat) : State :=
  match findRelay s redid origin hop.1 with
  | none => s
  | some r => relayPump redid origin hop (r.held.length + 1) (setRelay s { r with room := count })

/-- RED_CREDIT: opens the sender's window of a phase, or a relay's of a hop (R373, R384). -/
def execRedCredit (t : Nat) (s : State) : Res :=
  .next (onRed (isCtrl 0x0021) (fun s k =>
    let id := field k.payload 0 2
    let stream := field k.payload 2 1
    let count := field k.payload 3 4
    let origin := field k.payload 7 2
    match (relayHops s origin).find? (fun h => h.2.2 == k.src && ((stream == 4 && h.1) || (stream == 6 && !h.1))), redCtx s id with
    | some h, _ => relayCredit s id origin count h
    | none, none => s
    | none, some c => redProgress (setCtx s { c with
        room := Tab.set 0 c.room (if stream = 5 then 4 else stream) count, lastAt := s.time }) id) t s)

/-- RED_END: the status the rank completes with once its RESULT pieces are written. -/
def execRedEnd (t : Nat) (s : State) : Res :=
  .next (onRed (isCtrl 0x0022) (fun s k =>
    match redCtx s (field k.payload 0 2) with
    | none => s
    | some c =>
      if field k.payload 2 4 = c.step then redProgress (setCtx s { c with ended := some (field k.payload 6 2), lastAt := s.time }) c.redid
      else s) t s)

/-- RED_ABORT: the context completes and passes it on; one for a reduction not yet started here is kept (R381), one of a
(REDID, STEP) that has started is not (log 140). -/
def execRedAbort (t : Nat) (s : State) : Res :=
  .next (onRed (isCtrl 0x0023) (fun s k =>
    let id := field k.payload 0 2
    let step := field k.payload 2 4
    let st := field k.payload 6 2
    match s.red.ctxs.find? (fun c => c.redid == id && c.step == step) with
    | some c => markReady (failCtx s c st (some k.src))
    | none =>
      if (id, step) ∈ s.red.steps then s
      else
      let old := s.red.aborts.filter (fun a => !(a.1 == id && a.2.1 == step))
      { s with red := { s.red with
          joins := s.red.joins.filter (fun j => !(j.1 == k.src && field j.2 0 2 == id && field j.2 2 4 == step)),
          aborts := (if 64 ≤ old.length then old.drop 1 else old) ++ [(id, step, st, s.time)] } }) t s)

/-- RED_ABORT_EXPIRY: a kept abort is discarded after RED_WATCHDOG_US (R381). -/
def execRedAbortExpiry (redid t : Nat) (s : State) : Res :=
  .next (match s.red.aborts.find? (fun a => a.1 == redid) with
    | some a =>
      if a.2.2.2 + 1000 * reg s Key.redWatchdogUs ≤ max s.time t then
        { (atTime s t) with red := { s.red with aborts := s.red.aborts.erase a } }
      else s
    | none => s)

/-- A block-scaled context between the ends of its chain waits for exponents that come down (R377, R380). -/
def RedCtx.needsDown (c : RedCtx) : Bool :=
  !c.exact && decide (Tab.get 0 c.took 1 < Tab.get 0 c.took 0) &&
  (c.blocksOf (Tab.get 0 c.took 2)).any (fun i => decide (2048 * Tab.get 0 c.took 1 ≤ i))

/-- The rank whose packet a context waits for. -/
def RedCtx.awaited (c : RedCtx) : Nat :=
  if c.last then c.rank - 1
  else if c.joined && decide (0 < c.rank) && decide (Tab.get 0 c.took 2 < c.pieces) && !c.needsDown then c.rank - 1
  else c.rank + 1

/-- RED_WATCHDOG (R380): context number `i` has neither sent, received nor consumed for RED_WATCHDOG_US. -/
def execRedWatchdog (i t : Nat) (s : State) : Res :=
  .next (match s.red.ctxs[i]? with
    | none => s
    | some c =>
      if c.lastAt + 1000 * c.watchUs ≤ max s.time t ∧ reg s Key.frzState = 0 then
        let s := bump32 (atTime s t) Key.redTimeouts 1
        let tag := ((findWork s c.work).map Work.tag).getD 0
        let s := almFull s 0 0x54 0x0042 Status.redTimeout c.step tag (leBytes 2 c.redid ++ leBytes 2 0 ++ leBytes 8 c.awaited)
        markReady (failCtx s c Status.redTimeout none)
      else s)

/-! ## Membership (R386, R387) -/

/-- Contexts that reach a module just fenced, as neighbour or relay, complete FENCED (R386). -/
def fenceRed (s : State) (m : Nat) : State :=
  let near (c : RedCtx) : Bool := (redPeers c).contains m ||
    (!c.last && c.dp && (match detour s (self s) c.up with
      | some (a, _) => a == m
      | none => false))
  (s.red.ctxs.filter near).foldl (fun s c => failCtx s c Status.fenced none) s

/-- A write of FAB_FENCE (R360, R386); none when the coordinates lie outside the box. -/
def fenceModule (s : State) (m v : Nat) : Option State :=
  fabFence m (if bit v 13 || (coordRank (boxOf s) (v % 4096)).isNone then s else fenceRed s (v % 4096)) v

/-- DRAIN reaches a module while REDUCEs run: CANCELLED (R387). -/
def cancelRed (s : State) : State := s.red.ctxs.foldl (fun s c => failCtx s c Status.cancelled none) s

end Sys2Proof.Machine
end

