-- ==== Sys2Proof/Machine/Dict.lean ====
section
/-! DEFINITION. The dictionary server (chapter 14): rights, values read, values refused, the actions of writes, items,
messages, transports. -/

namespace Sys2Proof.Machine
open Sys2Proof

/-! ## Result codes (R433) -/

/-- OK. -/
def Rc.ok : Nat := 0x00
/-- NO_KEY. -/
def Rc.noKey : Nat := 0x01
/-- NO_RIGHT. -/
def Rc.noRight : Nat := 0x02
/-- ACCESS. -/
def Rc.access : Nat := 0x03
/-- BAD_VALUE. -/
def Rc.badValue : Nat := 0x04
/-- BAD_LENGTH. -/
def Rc.badLength : Nat := 0x05
/-- LOCKED. -/
def Rc.locked : Nat := 0x06
/-- IN_USE. -/
def Rc.inUse : Nat := 0x07
/-- STALE. -/
def Rc.stale : Nat := 0x08
/-- ASLEEP. -/
def Rc.asleep : Nat := 0x09
/-- GONE. -/
def Rc.gone : Nat := 0x0A
/-- END. -/
def Rc.atEnd : Nat := 0x0B
/-- SKIPPED. -/
def Rc.skipped : Nat := 0x0C
/-- BAD_OP. -/
def Rc.badOp : Nat := 0x0D

/-! ## Rights (R424, R425) -/

/-- The right of a master identity: host, BMC, rack controller, firmware. -/
def rightOf (m : Nat) : Option Nat :=
  if m = 1 then some 0 else if m = 2 then some 1 else if m = 3 then some 2
  else if m = 4 ∨ isControl m = true then some 3 else none

/-- A mask grants a master's right. -/
def maskGrants (mask m : Nat) : Bool :=
  match rightOf m with
  | some b => bit mask b
  | none => false

/-- The effective write mask of an entry: narrowed by DICT_WRITERS unless exempt (R425). -/
def writeMask (s : State) (e : EntryD) (k : Nat) : Nat :=
  if keyGroup k = 0x71 ∨ (keyGroup k = 0x51 ∧ 3 ≤ k % 256 ∧ k % 256 ≤ 7) then e.wmask
  else e.wmask &&& (reg s Key.dictWriters ||| 8)

/-- The domain of a key is powered (R427). -/
def keyOn (s : State) (k : Nat) : Bool := domainOn s (domainOf (keyGroup k))

/-- DLEN and OFFSET fit the entry (R432, R433 check 6); the rows of ALM_ENTRIES are numbered without end (R450). -/
def itemFits (e : EntryD) (k off len : Nat) : Bool :=
  if e.ty = 13 then decide (0 < len) && decide (len % e.size = 0) && (k == Key.almEntries || decide (off + len / e.size ≤ e.rows))
  else if e.ty = 11 ∨ e.ty = 12 then decide (0 < len) && decide (off + len ≤ e.size)
  else len == e.size && off == 0

/-! ## Reads -/

/-- Entries of a shard of one kind. -/
def shardCount (s : State) (d : Nat) (kind : DirKind) : Nat :=
  (s.dir.entries.filter (fun e => e.die == d && decide (e.kind = kind))).length

/-- The units of a tier are up: decks and compute rails for the scratchpad (R331, R514). -/
def tierUp (s : State) (t : Nat) : Bool := t != 0 || decide (7 ≤ s.pwr.rows)

/-- FRZ_STATUS with PORT_LOST as it is now, and TOO_LONG once a freeze has lasted LINK_TIMEOUT_US (R496). -/
def frzStatusNow (s : State) : Nat :=
  let lost := if reg s Key.frzState = 0 then [] else s.err.upAt.filter (fun p => !linkUp s p)
  let long := decide (2 ≤ reg s Key.frzState) && !bit (reg s Key.frzStatus) 16 &&
    decide (reg s Key.frzEntryNs + 1000 * reg s Key.linkTimeoutUs ≤ s.time)
  reg s Key.frzStatus + (lost.map (fun p => 2 ^ (8 + p))).sum + long.toNat * 2 ^ 16

/-- The value of entry `i` of a family as a number, little-endian for strings and blobs; entries that show the state of a
unit are read from the unit. -/
def valueOf (s : State) (e : EntryD) (i k : Nat) : Nat :=
  let b := e.base
  if e.acc = 6 then e.pu
  else if b = Key.idUptimeNs then s.time % 2 ^ 64
  else if b = Key.queueProducer then (queueOf s i).prod % 2 ^ 32
  else if b = Key.queueComplConsumer then (queueOf s i).cons % 2 ^ 32
  else if b = Key.queueFrontier then (queueOf s i).frontier % 2 ^ 64
  else if b = Key.dspStrandsResident then (s.strands.pool.filter (fun x => x.die == i)).length
  else if b = Key.hrdPinned then shardCount s i .pinned
  else if b = Key.hrdCached then shardCount s i .cache
  else if b = Key.hrdRelocated then shardCount s i .reloc
  else if b = Key.tblCur then (Tab.get {} s.slots i).cur
  else if b = Key.tblOld then (Tab.get {} s.slots i).old.getD 0
  else if b = Key.tblDraftOpen then (Tab.get {} s.slots i).draftOpen.toNat
  else if b = Key.tblRefsCur then versionRefs s i (Tab.get {} s.slots i).cur
  else if b = Key.tblRefsOld then
    (match (Tab.get {} s.slots i).old with
     | some v => versionRefs s i v
     | none => 0)
  else if b = Key.tblShadowsUsed then (objOf s (Tab.get {} s.slots i).obj).shadows.length
  else if b = Key.plcFramesTotal then (if tierUp s i then ((tierUnits i).map (fun u => (unitFrames s u).2)).sum else 0)
  else if b = Key.plcFramesFree then (if tierUp s i then ((tierUnits i).map (freeCount s)).sum else 0)
  else if b = Key.plcObjects then objectCount s
  else if b = Key.plcDisplaced then
    (s.objs.map (fun x => (x.2.pages.filter (fun r => match r.home with
      | .displaced _ => true
      | _ => false)).length)).sum
  else if b = Key.fabMembers then (if inPartition s then (members s).length else 0)
  else if b = Key.redActive then s.red.ctxs.length
  else if b = Key.aptState then
    (match (Tab.get {} s.cxl.apts i).state with
     | .unbound => 0
     | .bound => 1
     | .unbinding => 2)
  else if b = Key.mbxStatus then mbxStatusWord s i
  else if b = Key.mbxPeer then (chanOf s i).peer
  else if b = Key.almNext then s.alm.next
  else if b = Key.errPending then errPending s
  else if b = Key.frzElapsedUs then (if reg s Key.frzState < 2 then 0 else min ((s.time - reg s Key.frzEntryNs) / 1000) 0xFFFFFFFF)
  else if b = Key.frzStatus then frzStatusNow s
  else if b = Key.senState then (if sensorOn s i then reg s k else 3)
  else if b = Key.secFusedSvn then s.boot.svn
  else if b = Key.secKeyRevoked then s.boot.revoked
  else reg s k

/-- Rows of a table (R450, R468, R474): a result code and the bytes. -/
def readRows (s : State) (k first n : Nat) : Nat × List Byte :=
  if k = Key.almEntries then
    (if first + s.alm.held.length < s.alm.next then (Rc.gone, [])
     else if s.alm.next < first + n then (Rc.atEnd, [])
     else (Rc.ok, ((s.alm.held.drop (first + s.alm.held.length - s.alm.next)).take n).flatten))
  else if k = Key.secKeyHash then (Rc.ok, (rangeFrom first n).flatMap (fun i => beBytes 48 (Config.keyHash i)))
  else (Rc.ok, (rangeFrom first n).flatMap (fun i => measurement s (i + 1)))

/-- A READ of a mailbox register that acts for its reader (R411, R413, R420). -/
def readMbx (s : State) (m : Nat) (e : EntryD) (c off len : Nat) : State × List Byte :=
  if e.base = Key.mbxLock then
    let r := mbxLock s m c
    (r.1, leBytes 1 r.2)
  else if mayReadBuf s m c then
    (s, if e.base = Key.mbxLen then leBytes 2 (chanOf s c).len else Tab.getRange 0 (chanOf s c).buf off len)
  else (denied s, List.replicate len 0)

/-- The entry is a mailbox register that acts for the master that reaches it (R420). -/
def mbxKey (e : EntryD) : Bool := e.base == Key.mbxLock || e.base == Key.mbxLen || e.base == Key.mbxBuffer

/-- READ of a defined entry (R423, R427, R432, R433): state, result, data. -/
def readEntry (s : State) (m : Nat) (e : EntryD) (k off len : Nat) : State × Nat × List Byte :=
  let i := (k - e.base) / e.stride
  if e.acc = 3 then (s, Rc.access, [])
  else if !maskGrants e.rmask m then (s, Rc.noRight, [])
  else if !itemFits e k off len then (s, Rc.badLength, [])
  else if !keyOn s k && (e.acc == 1 || e.acc == 4 || e.acc == 6) then (s, Rc.asleep, [])
  else if e.ty = 13 then
    let r := readRows s k off (len / e.size)
    (s, r.1, r.2)
  else if mbxKey e then
    let r := readMbx s m e i off len
    (r.1, Rc.ok, r.2)
  else (s, Rc.ok, ((leBytes e.size (valueOf s e i k)).drop off).take len)

/-! ## Values that are refused (R433 check 8) -/

/-- Keys whose write accepts 0x01 only. -/
def oneOnly : List Nat := [
  0x20003000, Key.vecCounterClear, 0x23003000, 0x24004000, Key.gseCounterClear, Key.hrdCounterClear, 0x27003000, 0x28003000,
  Key.plcCounterClear, 0x31003000, 0x32003000, Key.fabCounterClear, Key.redCounterClear, Key.queueAbort, Key.mbxBindLock,
  Key.frzReadStart]

/-- Settings for which 0 is refused. -/
def notZero : List Nat := [
  Key.vecLimitDefault, Key.dspTrainGuard, Key.gseMaxOutstanding, Key.sketchPeriod, Key.migTimeoutUs, Key.plcSampleRate,
  Key.plcMoveTimeoutUs, Key.sluiceAckEvery, Key.sluiceRtoUs, Key.sluiceRetries, Key.fabLowGuard, Key.redWatchdogUs,
  Key.queueIrqCount, Key.mbxHoldUs, Key.bootLoadIdleMs]

/-- Smallest and largest value of an entry that has a range. -/
def rangeOf (b : Nat) : Option (Nat × Nat) :=
  if b = Key.queueSize then some (4, 16)
  else if b = Key.queueClass ∨ b = Key.clkRefSelect then some (0, 1)
  else if b = Key.pwrRequest then some (0, 4)
  else if b = Key.gseMaxOutstanding then some (1, 16384)
  else if b = Key.hrdPinWays then some (0, 16)
  else if b = Key.hotMibPerSlice then some (0, 128)
  else if b = Key.fabControl then some (1, 4)
  else if b = Key.sluiceWin then some (4, 1024)
  else if b = Key.redCheckShift then some (0, 20)
  else if b = Key.aptBind ∨ b = Key.frzControl then some (1, 2)
  else if b = Key.bootCommand then some (1, 3)
  else if b = Key.pwrLimitW then some (400, 2600)
  else if b = Key.errValid ∨ b = Key.flnNotify then some (0, 3)
  else if b = Key.dictWriters then some (1, 7)
  else none

/-- The steps Weir limit 2 still allows (R460). -/
def svnAllowance (s : State) : Nat := 16 - s.boot.blown

/-- A value outside the entry's range, or one its text refuses. -/
def badValue (s : State) (e : EntryD) (i v : Nat) : Bool :=
  let b := e.base
  if e.ty = 1 ∧ 1 < v then true
  else if oneOnly.contains b ∧ v ≠ 1 then true
  else if notZero.contains b ∧ v = 0 then true
  else if (match rangeOf b with
      | some r => decide (v < r.1) || decide (r.2 < v)
      | none => false) then true
  else if b = Key.ephPin then v != 0 && (decide (32 ≤ v) || !bit (reg s Key.ephSupported) v)
  else if b = Key.dspQueryReserve then decide (524288 < v + reg s Key.dspFwdReserve)
  else if b = Key.dspFwdReserve then decide (524288 < v + reg s Key.dspQueryReserve)
  else if b = Key.layerGshift ∨ b = Key.layerLrshift then decide (signed 32 v < -64) || decide (64 < signed 32 v)
  else if b = Key.ckptBase ∨ b = Key.frzReadAddr ∨ b = Key.frzReadLen ∨ b = Key.frzDumpAddr then v % 64 != 0
  else if b = Key.queueCpiAddr then v % 4 != 0
  else if b = Key.queueVector ∨ b = Key.mbxHostVector then decide (255 < v) && v != 0xFFFF
  else if b = Key.mbxReceiver then decide (63 < v) || v == 32
  else if b = Key.senWarnLo then decide (signed 32 (reg s (Key.senWarnHi + 256 * i)) < signed 32 v)
  else if b = Key.senWarnHi then decide (signed 32 v < signed 32 (reg s (Key.senWarnLo + 256 * i)))
  else if b = Key.secSvnCommit then
    decide (v < s.boot.svn) || decide (reg s Key.fwSvn < v) || decide (svnAllowance s < v - s.boot.svn)
  else if b = Key.secKeyRevoke then
    decide (3 < v) || (s.boot.hasImage && imgSlot s.boot.running == v) || (s.boot.revoked ||| 2 ^ v) == 15
  else if b = Key.aptBind then v == 1 && (bindApt s i).1 == 0x04
  else if b = Key.fabFence then inPartition s && (coordRank (boxOf s) (v % 4096)).isNone
  else false

/-- The Orrery core and the control processors: what firmware writes as (R420, R471). -/
def isFirmware (m : Nat) : Bool := m == 4 || isControl m

/-- A refused value that a Weir limit stopped leaves its trace (R460, R471, log 162). -/
def onBadValue (s : State) (e : EntryD) (m v : Nat) : State :=
  if e.base = Key.secSvnCommit ∧ s.boot.svn ≤ v ∧ v ≤ reg s Key.fwSvn then weir s 2 m v
  else if e.base = Key.pwrLimitW ∧ 2600 < v ∧ isFirmware m = true then weir s 9 m v
  else s

/-- A write that its master has no right to leaves a trace where a Weir limit stopped it too: firmware that would program
fuses, or raise the input power limit (R471, log 162). -/
def onNoRight (s : State) (e : EntryD) (m v : Nat) : State :=
  if isFirmware m = false then s
  else if e.base = Key.secSvnCommit ∨ e.base = Key.secKeyRevoke then weir s 2 m v
  else if e.base = Key.pwrLimitW ∧ 2600 < v then weir s 9 m v
  else s

/-! ## What accepted writes do -/

/-- What a write comes to: refused with IN_USE, with the state it leaves, or accepted. -/
inductive Acted where
  | inUse (s : State)
  | done (s : State)

/-- A condition on the module's state. -/
def unlessUsed (used : Bool) (s t : State) : Acted := if used then .inUse s else .done t

/-- An action that may be refused. -/
def orInUse (s : State) (t : Option State) : Acted :=
  match t with
  | some t => .done t
  | none => .inUse s

/-- Zeroes the counters with a key in one of some ranges (R184 and the entries COUNTER_CLEAR of each chapter). -/
def clearKeys (s : State) (rs : List (Nat × Nat)) : State :=
  { s with dict := Tab.dropKeys (fun k => rs.any (fun r => decide (r.1 ≤ k) && decide (k < r.2))) s.dict }

/-- Sub-indices of a family of keys: first and last key, first and last sub-index. -/
def clearSubs (s : State) (lo hi a b : Nat) : State :=
  { s with dict := Tab.dropKeys (fun k => decide (lo ≤ k) && decide (k < hi) && decide (a ≤ k % 256) && decide (k % 256 ≤ b)) s.dict }

/-- The counters a COUNTER_CLEAR entry zeroes. -/
def counterClear (s : State) (b : Nat) : Option State :=
  if b = 0x20003000 then some (clearKeys s [(0x20001000, 0x20001400)])
  else if b = Key.vecCounterClear then some (clearKeys s [(0x21001000, 0x21001400)])
  else if b = 0x23003000 then some (clearKeys s [(0x23001000, 0x23001500)])
  else if b = 0x24004000 then some (clearKeys s [(0x24001000, 0x24001300), (0x24002000, 0x24002300)])
  else if b = Key.gseCounterClear then some (clearKeys s [(0x25001000, 0x25001300)])
  else if b = Key.hrdCounterClear then some (clearKeys s [(0x26001300, 0x26001800), (0x26002000, 0x26002500)])
  else if b = 0x27003000 then
    some (clearSubs (clearKeys s [(0x27001000, 0x27001200), (0x27002000, 0x27002100)]) 0x27100000 0x28000000 2 3)
  else if b = 0x28003000 then some (clearKeys s [(0x28001000, 0x28001400)])
  else if b = Key.plcCounterClear then some (clearKeys s [(0x30002100, 0x30002400), (0x30002500, 0x30002900)])
  else if b = 0x31003000 then some (clearKeys s [(0x31001200, 0x31001300), (0x31001400, 0x31001600)])
  else if b = 0x32003000 then some (clearKeys s [(0x32001200, 0x32001300), (0x32001400, 0x32001600)])
  else if b = Key.fabCounterClear then some (clearSubs (clearKeys s [(0x40004000, 0x40004B00)]) 0x40010000 0x40010600 4 9)
  else if b = Key.redCounterClear then some (clearKeys s [(0x41001000, 0x41001800)])
  else none

/-- The part of the hot areas between two sizes in MiB holds an address. -/
def inHotPart (lo hi a : Nat) : Bool :=
  let o := a % sliceBytes
  decide (a < 64 * sliceBytes) && decide ((252 - hi) * 2 ^ 20 ≤ o) && decide (o < (252 - lo) * 2 ^ 20)

/-- A CKPT_EXPORT or CKPT_IMPORT is queued or running (R291). -/
def ckptWork (s : State) : Bool := unfetched s || s.work.any (fun w => w.op == 0x0702 || w.op == 0x0703)

/-- A write of HOT_MIB_PER_SLICE (R259, R260). -/
def writeHotMib (s : State) (v : Nat) : Acted :=
  let old := reg s Key.hotMibPerSlice
  if engineWork s then .inUse s
  else if old < v ∧ (usedFrames s).any (inHotPart old v) = true then .inUse s
  else if v < old ∧ s.dir.entries.any (fun e => decide (e.kind = .pinned) && inHotPart v old e.addr) = true then .inUse s
  else
    let keep (e : DirEntry) : Bool := !(decide (e.kind = .cache) && inHotPart v old e.addr)
    .done (setReg { s with dir := { s.dir with entries := s.dir.entries.filter keep } } Key.hotMibPerSlice v)

/-- A write of HRD_PIN_WAYS (R259, R260). -/
def writePinWays (s : State) (v : Nat) : Acted :=
  if engineWork s then .inUse s
  else if s.dir.entries.any (fun e => decide (e.kind = .pinned) && decide (v ≤ e.way)) then .inUse s
  else
    let keep (e : DirEntry) : Bool := !(decide (e.kind = .cache) && decide (e.way < v))
    .done (setReg { s with dir := { s.dir with entries := s.dir.entries.filter keep } } Key.hrdPinWays v)

/-- A write of PWR_REQUEST (R506, R508, R528); refused while the module is not RUNNING (R491). -/
def writePower (s : State) (m v : Nat) : Acted :=
  if v = 0 then (if reg s Key.frzState = 0 then .done (raiseWake s true) else .inUse s)
  else
    let x := if 2 ≤ v then wakeLow s else (false, s)
    let s := x.2
    if powerRefused s v false then .inUse s
    else if powerRefused s v x.1 then
      .inUse (if (match s.pwr.stormAt with
          | some at_ => decide (s.time < at_ + 1000000000)
          | none => false) then s
        else almFull { s with pwr := { s.pwr with stormAt := some s.time } } m 0xFF 0x0012 0 0 0 (leBytes 1 4 ++ leBytes 1 0))
    else .done (requestPower s v)

/-- A write of CLK_REF_SELECT (R513): no memory unit or port having trained, a locked PLL relocks at once. -/
def writeClock (s : State) (v : Nat) : Acted :=
  let p := reg s Key.pwrState
  if p ≠ 3 ∧ p ≠ 4 ∧ p ≠ 0xFF then .inUse s
  else
    let s := setReg s Key.clkRefSelect v
    .done (if p = 0xFF ∧ reg s Key.clkPllLocked = 1 ∧ s.boot.memReady = false then lockReference s else s)

/-- A write of FAB_CONTROL (R361, R387). -/
def writeFabric (s : State) (v : Nat) : Acted :=
  match v with
  | 1 => orInUse s (drainFabric (if reg s Key.fabState = 1 then cancelRed s else s))
  | 2 => orInUse s (cutover s)
  | 3 => orInUse s (resumeFabric s)
  | _ => .done (isolateFabric s)

/-- A write of LINK_ENABLE: a port whose entry is 0 transmits no light and does not train (R337, R471). -/
def writeLink (s : State) (p v : Nat) : State :=
  let s := setReg s (Key.linkEnable + 256 * p) v
  if v = 0 then setLink s p 0 else s

/-- A write into BOOT_IMAGE (R464). -/
def writeImage (s : State) (m off : Nat) (data : List Byte) : Acted :=
  let b := reg s Key.bootState
  if (b = 1 ∧ reg s Key.bootLoadOwner ≠ m) ∨ ¬ (b = 0 ∨ b = 1 ∨ b = 4 ∨ b = 7) then .inUse s
  else
    let s := if b = 1 then s
      else setReg (setReg (setReg { s with boot := { s.boot with before := b, loader := m } } Key.bootState 1) Key.bootLoadOwner m)
        Key.bootLoaded 0
    let s := { s with boot := { s.boot with staging := Tab.setRange 0 s.boot.staging off data, loadAt := s.time } }
    .done (setReg s Key.bootLoaded (max (reg s Key.bootLoaded) (off + data.length)))

/-- A write of BOOT_COMMAND (R464-R466). -/
def writeBoot (s : State) (m v : Nat) : Acted :=
  let b := reg s Key.bootState
  match v with
  | 1 => unlessUsed (b != 1 || reg s Key.bootLoadOwner != m) s (setReg s Key.bootState 2)
  | 2 => unlessUsed (!(b == 1 || b == 5)) s (discardImage s)
  | _ => unlessUsed (b != 5 || s.boot.loader != m || anyWork s || !s.red.ctxs.isEmpty) s
      (setReg (setReg { s with boot := { s.boot with startAt := s.time } } Key.bootState 6) Key.fwStagedVersion 0)

/-- A write of SEC_SVN_COMMIT that passes R460. -/
def writeSvn (s : State) (m v : Nat) : State :=
  let old := s.boot.svn
  let s := if old < v then { s with boot := { s.boot with commit := some (max v (s.boot.commit.getD 0)) } } else s
  almFull s m 0x7A 0x0071 0 0 0 (leBytes 1 1 ++ leBytes 2 old ++ leBytes 2 v)

/-- A write of SEC_KEY_REVOKE that passes R461. -/
def writeRevoke (s : State) (m v : Nat) : State :=
  let old := s.boot.revoked
  let s := { s with boot := { s.boot with revoked := old ||| 2 ^ v } }
  almFull s m 0x7A 0x0071 0 0 0 (leBytes 1 2 ++ leBytes 2 old ++ leBytes 2 s.boot.revoked)

/-- A write of FRZ_CONTROL (R489, R492). -/
def writeFreeze (s : State) (v : Nat) : Acted :=
  if v = 1 then .done (freeze s 2 7)
  else
    let r := thaw s
    if r.2 then .done r.1 else .inUse r.1

/-- A write of ALM_MARK: an entry of kind MARK; of firmware's, Weir limit 12 lets 1,000 through in any second (R457, R471,
log 162). -/
def writeMark (s : State) (m v : Nat) : State :=
  let recent := s.boot.markAt.filter (fun t => decide (s.time < t + 1000000000))
  let mark (s : State) : State := almFull s m 0x7B 0x00F0 0 0 0 (leBytes 4 v)
  if isFirmware m = false then mark s
  else if 1000 ≤ recent.length then weir s 12 m v
  else mark { s with boot := { s.boot with markAt := recent ++ [s.time] } }

/-- A write of FRZ_READ_START: the copy goes by the settings of now (R429, R494). -/
def writeReadout (s : State) : Acted :=
  let f := reg s Key.frzState
  let dest := reg s Key.frzDumpAddr
  let r := { s with err := { s.err with readAddr := reg s Key.frzReadAddr, readLen := reg s Key.frzReadLen, readDest := dest } }
  let used := decide (f < 2) || reg s Key.frzReadState == 1 || (dest == 0 && decide (4096 < reg s Key.frzReadLen)) ||
    (dest != 0 && (f == 4 || reg s Key.cxlLinkState != 2))
  unlessUsed used s (setReg (setReg (setReg r Key.frzReadState 1) Key.frzReadDone 0) Key.frzReadPoison 0)

/-- Settings of a queue written only while it is disabled and not draining (R184, R419, R534). -/
def queueSetting (b : Nat) : Bool :=
  b == Key.queueBase || b == Key.queueSize || b == Key.queueClass || b == Key.queueComplBase || b == Key.queueCpiAddr ||
  b == Key.queueVector || b == Key.queueIrqCount || b == Key.queueIrqUs

/-- An APT_BIND write (R402). -/
def writeApt (s : State) (a v : Nat) : Acted :=
  let r := if v = 1 then bindApt s a else unbindApt s a
  if r.1 = 0 then .done r.2 else .inUse s

/-- The value a write gives a string or blob: the bytes from OFFSET on are replaced. -/
def blobValue (old size off : Nat) (data : List Byte) : Nat :=
  let bs := leBytes size old
  leNat (bs.take off ++ data ++ bs.drop (off + data.length))

/-- What a write of an entry does once its value is good: IN_USE, or the state after it. -/
def actWrite (s : State) (m : Nat) (e : EntryD) (i k off : Nat) (data : List Byte) : Acted :=
  let b := e.base
  let v := leNat data
  match counterClear s b with
  | some t => .done t
  | none =>
  if b = Key.queueEnable then (if v = 1 then orInUse s (enableQueue s i) else .done (disableQueue s i))
  else if queueSetting b then unlessUsed (enabled s i || draining s i) s (setReg s k v)
  else if b = Key.queueAbort then .done (abortQueue s i)
  else if b = Key.queueFaultLatch then .done (if v = 1 then setReg s k 0 else s)
  else if b = Key.ephPin ∨ b = Key.genSeed then unlessUsed (engineWork s) s (setReg s k v)
  else if b = Key.ckptBase ∨ b = Key.ckptSize then unlessUsed (ckptWork s) s (setReg s k v)
  else if b = Key.hotMibPerSlice then writeHotMib s v
  else if b = Key.hrdPinWays then writePinWays s v
  else if b = Key.pwrRequest then writePower s m v
  else if b = Key.clkRefSelect then writeClock s v
  else if b = Key.fabCoord then unlessUsed (reg s Key.fabState != 0) s (setReg s k v)
  else if b = Key.fabControl then writeFabric s v
  else if b = Key.fabFence then orInUse s (fenceModule s m v)
  else if b = Key.linkEnable then .done (writeLink s i v)
  else if b = Key.aptObject ∨ b = Key.aptLength then
    unlessUsed (decide ((Tab.get {} s.cxl.apts i).state ≠ .unbound)) s (setReg s k v)
  else if b = Key.aptBind then writeApt s i v
  else if b = Key.mbxAllow ∨ b = Key.mbxReceiver then unlessUsed (decide ((chanOf s i).state ≠ .free)) s (setReg s k v)
  else if b = Key.mbxBindLock then .done (setReg s Key.mbxBindLocked 1)
  else if b = Key.mbxControl then .done (mbxControl s m i v)
  else if b = Key.mbxLen then .done (mbxWriteLen s m i v)
  else if b = Key.mbxBuffer then .done (mbxWriteBuf s m i off data)
  else if b = Key.bootImage then writeImage s m off data
  else if b = Key.bootCommand then writeBoot s m v
  else if b = Key.secSvnCommit then .done (writeSvn s m v)
  else if b = Key.secKeyRevoke then .done (writeRevoke s m v)
  else if b = Key.almMark then .done (writeMark s m v)
  else if b = Key.errValid then .done (releaseMulticast (releaseErrors s i v))
  else if b = Key.frzControl then writeFreeze s v
  else if b = Key.frzReadStart then writeReadout s
  else if e.ty = 12 then .done (setReg s k (blobValue (reg s k) e.size off data))
  else .done (setReg s k v)

/-- An RWO entry already written, or a binding locked by MBX_BIND_LOCK (R433 check 5). -/
def isLocked (s : State) (e : EntryD) (k : Nat) : Bool :=
  (e.acc == 5 && s.srv.locked.contains k) ||
  ((e.base == Key.mbxAllow || e.base == Key.mbxReceiver) && reg s Key.mbxBindLocked == 1)

/-- An accepted write: the generation rises, an RWO entry locks (R423, R433). -/
def accept (s : State) (e : EntryD) (k : Nat) : State :=
  let s := setReg s Key.dictGeneration ((reg s Key.dictGeneration + 1) % 2 ^ 32)
  let s := if e.acc = 5 then { s with srv := { s.srv with locked := s.srv.locked ++ [k] } } else s
  markReady s

/-- WRITE or WRITE_IF of a defined entry, the checks in the order of R433. -/
def writeEntry (s : State) (m : Nat) (e : EntryD) (k off : Nat) (data : List Byte) (cond : Option Nat) : State × Nat :=
  let i := (k - e.base) / e.stride
  if e.acc = 1 then (s, Rc.access)
  else if !maskGrants (writeMask s e k) m then (onNoRight s e m (leNat data), Rc.noRight)
  else if isLocked s e k then (s, Rc.locked)
  else if !itemFits e k off data.length then (s, Rc.badLength)
  else if (match cond with
      | some g => g != reg s Key.dictGeneration
      | none => false) then (s, Rc.stale)
  else if badValue s e i (leNat data) then (onBadValue s e m (leNat data), Rc.badValue)
  else match actWrite s m e i k off data with
    | .inUse t => (t, Rc.inUse)
    | .done t => if !keyOn s k && (e.acc == 4 || e.acc == 6) then (s, Rc.asleep) else (accept t e k, Rc.ok)

/-! ## DESCRIBE and NEXT_KEY (R432) -/

/-- The 16 bytes of DESCRIBE. -/
def describe (e : EntryD) : List Byte :=
  leBytes 1 e.ty ++ leBytes 1 e.acc ++ leBytes 1 e.rmask ++ leBytes 1 e.wmask ++ leBytes 4 e.size ++
  leBytes 4 (if e.ty = 13 then e.rows else 0) ++ leBytes 4 0

/-- The lowest key of a family above a key. -/
def EntryD.nextKey (e : EntryD) (k : Nat) : Option Nat :=
  if k < e.base then some e.base
  else
    let j := (k - e.base) / e.stride + 1
    if j < e.count then some (e.base + e.stride * j) else none

/-- The lowest defined key above a key. -/
def nextKey (k : Nat) : Option Nat :=
  dictEntries.foldl (fun best e => match best, e.nextKey k with
    | some a, some b => some (min a b)
    | none, x => x
    | x, none => x) none

/-! ## Items and messages (R430-R434, R535) -/

/-- A request item. -/
structure Item where
  op : Nat
  dlen : Nat
  key : Nat
  off : Nat
  arg : Nat
  data : List Byte
  deriving DecidableEq, Repr

/-- Rounds up to a multiple of 4. -/
def pad4 (n : Nat) : Nat := cdiv n 4 * 4

/-- Cuts the items out of a message body, which they fill exactly (R434). -/
def cutItems : Nat → List Byte → Option (List Item)
  | 0, bs => if bs = [] then some [] else none
  | n + 1, bs =>
    if bs.length < 16 then none
    else
      let op := field bs 0 1
      let dlen := field bs 2 2
      let room := if op = 2 ∨ op = 3 then pad4 dlen else 0
      if bs.length < 16 + room then none
      else
        let x : Item := { op := op, dlen := dlen, key := field bs 4 4, off := field bs 8 4, arg := field bs 12 4
                          data := ((bs.drop 16).take room).take dlen }
        (cutItems n (bs.drop (16 + room))).map (fun r => x :: r)

/-- The largest response data of an item (R434). -/
def Item.room (x : Item) : Nat :=
  match x.op with
  | 1 => pad4 x.dlen
  | 4 => 16
  | 5 => 4
  | _ => 0

/-- One item (R433, R535): state, result, data returned. -/
def execItem (s : State) (m : Nat) (x : Item) : State × Nat × List Byte :=
  if x.op = 0 ∨ 5 < x.op then (s, Rc.badOp, [])
  else if x.op = 5 then
    (if x.dlen ≠ 0 then (s, Rc.badLength, [])
     else match nextKey x.key with
       | some k => (s, Rc.ok, leBytes 4 k)
       | none => (s, Rc.atEnd, []))
  else if keyGroup x.key = 0x7F then
    (if x.op = 1 then (s, Rc.ok, List.replicate x.dlen 0)
     else if x.op = 4 then (if x.dlen ≠ 0 then (s, Rc.badLength, []) else (s, Rc.ok, List.replicate 16 0))
     else (s, Rc.access, []))
  else match entryOf x.key with
    | none => (s, Rc.noKey, [])
    | some e =>
      if x.op = 4 then (if x.dlen ≠ 0 then (s, Rc.badLength, []) else (s, Rc.ok, describe e))
      else if x.op = 1 then readEntry s m e x.key x.off x.dlen
      else
        let r := writeEntry s m e x.key x.off x.data (if x.op = 3 then some x.arg else none)
        (r.1, r.2, [])

/-- A result that counts as a refusal (R433). -/
def refuses (code : Nat) : Bool := !(code == Rc.ok || code == Rc.skipped || code == Rc.gone || code == Rc.atEnd)

/-- A response item (R431). -/
def itemBytes (s : State) (x : Item) (code : Nat) (out : List Byte) : List Byte :=
  leBytes 1 x.op ++ leBytes 1 code ++ leBytes 2 out.length ++ leBytes 4 x.key ++ leBytes 4 x.off ++
  leBytes 4 (reg s Key.dictGeneration) ++ out ++ List.replicate (pad4 out.length - out.length) 0

/-- Counts a refusal (R433, R446). -/
def noteRefusal (s : State) (m : Nat) (x : Item) (code : Nat) : State :=
  if refuses code then
    setReg (bump s Key.dictRefusals 1) Key.dictLastRefusal (x.key + m % 256 * 2 ^ 32 + code * 2 ^ 40)
  else s

/-- The items of a message in order; after a failure STOP skips the rest (R428, R430). -/
def execItems (m : Nat) (stop : Bool) : List Item → Bool → State → State × List Byte
  | [], _, s => (s, [])
  | x :: xs, failed, s =>
    let r := if stop && failed then (s, Rc.skipped, []) else execItem s m x
    let s := noteRefusal r.1 m x r.2.1
    let rest := execItems m stop xs (failed || r.2.1 != Rc.ok) s
    (rest.1, itemBytes s x r.2.1 r.2.2 ++ rest.2)

/-- The header of a response (R430). -/
def respHeader (stop : Bool) (seq count len : Nat) : List Byte :=
  leBytes 1 1 ++ leBytes 1 (0x80 + stop.toNat) ++ leBytes 2 seq ++ leBytes 2 count ++ leBytes 2 len

/-- The items of a well-formed message whose response fits, if it is one (R434). -/
def goodMessage (limit : Nat) (msg : List Byte) : Option (List Item) :=
  let count := field msg 4 2
  if msg.length < 8 ∨ field msg 0 1 ≠ 1 ∨ 0x80 ≤ field msg 1 1 ∨ count = 0 ∨ field msg 6 2 ≠ msg.length then none
  else match cutItems count (msg.drop 8) with
    | none => none
    | some xs => if limit < 8 + 16 * count + (xs.map Item.room).sum then none else some xs

/-- The server executes a message of a master and answers (R428-R434). -/
def serveMessage (s : State) (m limit : Nat) (msg : List Byte) : State × List Byte :=
  let stop := bit (field msg 1 1) 0
  let seq := field msg 2 2
  match goodMessage limit msg with
  | none => (bump s Key.dictBadMessages 1, respHeader stop seq 0 8)
  | some xs =>
    let r := execItems m stop xs false (bump s Key.dictMessages 1)
    (r.1, respHeader stop seq xs.length (8 + r.2.length) ++ r.2)

/-! ## Transports (R435-R440) -/

/-- The broadcast address. -/
def broadcastMac : Nat := 0xFFFFFFFFFFFF

/-- Every item of a message is READ, DESCRIBE or NEXT_KEY (R440). -/
def readsOnly (msg : List Byte) : Bool :=
  match cutItems (field msg 4 2) (msg.drop 8) with
  | some xs => xs.all (fun x => x.op == 1 || x.op == 4 || x.op == 5)
  | none => true

/-- A message or frame arrives at a buffer of `n`, each held until its service ends within 10 ms of its arrival, in order;
when that is, the spec leaves open (R436, R438, R442, log 95). What the buffer holds afterwards, or none where it is full. -/
def buffered (s : State) (due : List Nat) (n free : Nat) : Option (List Nat) :=
  let held := due.filter (fun d => decide (s.time < d))
  if n ≤ held.length then none else some (held ++ [held.foldl max (s.time + free % 10000001)])

/-- Puts a frame in the buffer of 8 and serves it, or drops it (R438). -/
def bufferFrame (s : State) (go : State → State) : State :=
  let x := drawFree s
  match buffered s s.srv.flnDue 8 x.1 with
  | none => bump x.2 Key.dictDropped 1
  | some due => go { x.2 with srv := { x.2.srv with flnDue := due } }

/-- Puts a message of the BMC in the buffer of 4 and serves it, or drops it (R436). -/
def bufferMessage (s : State) (go : State → State) : State :=
  let x := drawFree s
  match buffered s s.srv.i3cDue 4 x.1 with
  | none => bump x.2 Key.dictDropped 1
  | some due => go { x.2 with srv := { x.2.srv with i3cDue := due } }

/-- What stands before a dictionary message on MCTP: type, vendor ID, 0x01 (R436; the ID's byte order as DSP0236, log 161). -/
def mctpHead : List Byte := 0x7E#8 :: beBytes 2 Config.vendorId ++ [0x01#8]

/-- A message of the BMC: one of another vendor or use is none of the dictionary's (R436, log 161). -/
def serveMctp (s : State) (msg : List Byte) : State :=
  if msg.take 4 ≠ mctpHead then s
  else bufferMessage s (fun s =>
    let r := serveMessage s 2 4096 (msg.drop 4)
    send r.1 (.dictResp .mctp (mctpHead ++ r.2)))

/-- A request frame of the field network (R437-R440): answered again if it is a repetition. -/
def serveFrame (s : State) (frame : List Byte) : State :=
  let dst := field frame 0 6
  let src := field frame 6 6
  let msg := frame.drop 18
  let bad := decide (frame.length < 18) || beNat ((frame.drop 12).take 2) != 0x88B5 || field frame 14 1 != 1 ||
    !(dst == reg s Key.flnMac || dst == broadcastMac) || (dst == broadcastMac && !readsOnly msg)
  if reg s Key.flnEnable = 0 then s
  else if bad then bump s Key.flnBadFrames 1
  else bufferFrame s fun s =>
    let s := { s with srv := { s.srv with lastSrc := some src } }
    let rest := s.srv.kept.filter (fun e => e.1 != src)
    let keep (s : State) (seq : Nat) (resp : List Byte) : State :=
      let all := rest ++ [(src, seq, resp)]
      send { s with srv := { s.srv with kept := all.drop (all.length - 4) } } (.frame src (flnFrame s src (leBytes 4 2 ++ resp)))
    match s.srv.kept.find? (fun e => e.1 == src && e.2.1 == field msg 2 2) with
    | some e => keep (bump s Key.flnDuplicates 1) e.2.1 e.2.2
    | none =>
      let r := serveMessage s 3 1496 msg
      keep r.1 (field msg 2 2) r.2

/-- DICT_MESSAGE (R421, R428); a freeze stops the Orrery core (R490). -/
def execDictMessage (src : DictSrc) (msg : List Byte) (t : Nat) (s : State) : Res :=
  let go (m limit : Nat) (s : State) : State :=
    let r := serveMessage s m limit msg
    send r.1 (.dictResp src r.2)
  .next (if s.pwr.managed = false then s
    else
      let s := atTime s t
      match src with
      | .cxl => primary s (go 1 4096)
      | .mctp => serveMctp s msg
      | .firmware m => if isFirmware m = true ∧ reg s Key.frzState = 0 then go m 65535 s else s
      | .fln => serveFrame s msg)

end Sys2Proof.Machine
end

