-- ==== Sys2Proof/Machine/Bar0.lean ====
section
/-! DEFINITION. BAR0 of the host (R395): the primary mailbox as its registers run it (R406), the CXL registers, the MSI-X
table and pending bits, the doorbell pages, the mailbox channels, and the accesses the module ignores. -/

namespace Sys2Proof.Machine
open Sys2Proof

/-! ## The primary mailbox by its registers (R406; layout and codes of CXL 3.1, logs 51, 146) -/

/-- What a command of the primary mailbox does: the state after it, the return code, the output payload. An opcode that R406
does not list answers Unsupported, a payload too short Invalid Payload Length. -/
def mailboxCommand (s : State) (op : Nat) (pl : List Byte) : State × Nat × List Byte :=
  match op with
  | 0x0300 => (s, 0, stampBytes s)
  | 0x0301 => if pl.length = 8 then (setStamp s (leNat pl), 0, []) else (s, 0x16, [])
  | 0x0400 => (s, 0, logsList)
  | 0x0401 =>
    if pl.length ≠ 24 then (s, 0x16, [])
    else if pl.take 16 ≠ effectsUuid then (s, 2, [])
    else (s, logPart (field pl 16 4) (field pl 20 4))
  | 0xC000 =>
    let r := serveMessage s 1 4096 pl
    (r.1, 0, r.2)
  | _ => (s, 3, [])

/-- The bytes of the mailbox's payload registers. -/
def mailboxPayload (s : State) (n : Nat) : List Byte :=
  ((List.range (cdiv n 4)).flatMap (fun i => leBytes 4 (devWord s (mailboxBase + 0x20 + 4 * i)))).take n

/-- Puts bytes into the payload registers. -/
def setPayload (s : State) (bs : List Byte) : State :=
  (List.range (cdiv bs.length 4)).foldl (fun s i => setDev s (mailboxBase + 0x20 + 4 * i) (field bs (4 * i) 4)) s

/-- The doorbell bit of the mailbox's control register is set: the command runs, and the bit reads 0 again. -/
def runMailbox (s : State) : State :=
  let op := devWord s (mailboxBase + 8) % 65536
  let len := devWord s (mailboxBase + 8) / 65536 + 65536 * (devWord s (mailboxBase + 0xC) % 32)
  let r := mailboxCommand s op (mailboxPayload s (min len 4096))
  let n := r.2.2.length
  let s := setPayload (setDev r.1 (mailboxBase + 4) (devWord r.1 (mailboxBase + 4) / 2 * 2)) r.2.2
  let s := setDev (setDev s (mailboxBase + 8) (op + 65536 * (n % 65536))) (mailboxBase + 0xC) (n / 65536)
  send (setDev s (mailboxBase + 0x14) r.2.1) (.mailbox r.2.1 r.2.2)

/-! ## Accesses (R395) -/

/-- An aligned 32-bit access to the CXL device or component registers. -/
def devAccess (s : State) (o : Nat) (wr : Option Nat) : State :=
  if !devDefined o || (wr.isSome && devReadOnly o) then ignoreAccess s wr.isNone
  else match wr with
    | none => send s (.register (devWord s o))
    | some v => if o = mailboxBase + 4 ∧ v % 2 = 1 then runMailbox (setDev s o v) else setDev s o v

/-- An aligned 32-bit access to the MSI-X table. -/
def msixAccess (s : State) (w : Nat) (wr : Option Nat) : State :=
  match wr with
  | none => send s (.register (msixWord s.cxl w))
  | some v => writeMsix s w v

/-- An aligned 32-bit access to the MSI-X pending bit array, which is read only. -/
def pbaAccess (s : State) (i : Nat) (wr : Option Nat) : State :=
  if wr.isSome || decide (8 ≤ i) then ignoreAccess s wr.isNone else send s (.register (pbaWord s i))

/-- An aligned 32-bit access to BAR0, by its offset. -/
def bar0Access (s : State) (o : Nat) (wr : Option Nat) : State :=
  if o < 0x40000 then bellAccess s (o / 0x1000) (o % 0x1000) wr
  else if o < 0x60000 then devAccess s o wr
  else if o < 0x61000 then msixAccess s ((o - 0x60000) / 4) wr
  else if o < 0x62000 then pbaAccess s ((o - 0x61000) / 4) wr
  else if 0x100000 ≤ o ∧ o < 0x180000 then chanAccess s ((o - 0x100000) / 0x2000) (o % 0x2000) wr
  else ignoreAccess s wr.isNone

/-- IGNORED_REGISTER_ACCESS: an access of the host to BAR0. It is ignored as R395 has it where it is no aligned 32-bit access
to a defined register, a write to one that is read only, or too early; any other has the register's effect (log 146). -/
def execIgnoredRegisterAccess (off bytes : Nat) (op : RegOp) (s : State) : Res :=
  .next (bar0 (atTime s op.t) op.wr.isNone (fun s =>
    if bytes ≠ 4 ∨ off % 4 ≠ 0 then ignoreAccess s op.wr.isNone else bar0Access s off (op.wr.map (fun v => v % 2 ^ 32))))

end Sys2Proof.Machine
end

