-- ==== Sys2Proof/Machine/Sampler.lean ====
section
/-! DEFINITION. The samplers (R186-R206): graph headers, draws, the four sampling modes, PREFIX, COMPACT. -/

namespace Sys2Proof.Machine
open Sys2Proof

/-- The invalid node, edge and seed value (R194). -/
def noNode : Nat := 0xFFFFFFFFFFFFFFFF

/-- A graph header (R186). -/
structure Graph where
  offsets : Nat
  indices : Nat
  weights : Nat
  types : Nat
  cumw : Nat
  nodes : Nat
  edges : Nat
  ctl : Nat
  deriving DecidableEq, Repr

/-- A graph header from its bytes. -/
def graphOf (bs : List Byte) : Graph :=
  { offsets := field bs 0 8, indices := field bs 8 8, weights := field bs 16 8, types := field bs 24 8,
    cumw := field bs 32 8, nodes := field bs 40 8, edges := field bs 48 8, ctl := field bs 56 1 }

/-- The arrays a graph uses with their lengths (R186), those CTL marks present whatever the mode reads (log 163). -/
def Graph.arrays (g : Graph) : List (Nat × Nat) :=
  [(g.offsets, idxBytes (bit g.ctl 0) * (g.nodes + 1)), (g.indices, idxBytes (bit g.ctl 1) * g.edges)] ++
  (if bit g.ctl 2 then [(g.weights, 4 * g.edges)] else []) ++
  (if bit g.ctl 3 then [(g.types, 2 * g.edges)] else []) ++
  (if bit g.ctl 4 then [(g.cumw, 8 * g.edges)] else [])

/-- Entry `i` of an array of entries of `n` bytes; an entry outside the object fails under R10. -/
def entryAt (h n i : Nat) : Eng Nat := do
  let s ← getS
  require (handleAt (← get).w s h (n * i) n) Status.handle
  rdNat (h + n * i) n

/-- Row `n` of the adjacency, checked under R188 when it is reached (log 163): first position and degree. -/
def Graph.row (g : Graph) (n : Nat) : Eng (Nat × Nat) := do
  require (decide (n < g.nodes)) Status.graph
  let w := idxBytes (bit g.ctl 0)
  let a ← entryAt g.offsets w n
  let b ← entryAt g.offsets w (n + 1)
  require (decide (a ≤ b) && decide (b ≤ g.edges)) Status.graph
  pure (a, b - a)

/-- The neighbour at a position (R188). -/
def Graph.neighbour (g : Graph) (e : Nat) : Eng Nat := do
  let v ← entryAt g.indices (idxBytes (bit g.ctl 1)) e
  require (decide (v < g.nodes)) Status.graph
  pure v

/-- Entry `e` of CUMW of a row that starts at `o`, checked against the entry before it (R188). -/
def Graph.cum (g : Graph) (o e : Nat) : Eng Nat := do
  let v ← entryAt g.cumw 8 e
  if o < e then
    let p ← entryAt g.cumw 8 (e - 1)
    require (decide (p ≤ v)) Status.graph
  pure v

/-! ## Draws (R190-R192, R197) -/

/-- The key of a descriptor's draws. -/
structure DrawKey where
  seed : Nat
  step : Nat
  opid : Nat
  hop : Nat
  pos : Nat

/-- Draw `t` of a frontier position (R192, R197). -/
def DrawKey.draw (k : DrawKey) (t : Nat) : Nat :=
  let x := k.hop * 2 ^ 48 + k.pos * 2 ^ 16 + 2 * t
  genWord k.seed k.step k.opid x * 2 ^ 32 + genWord k.seed k.step k.opid (x + 1)

/-- A uniform choice among `m` values (R192). -/
def DrawKey.uniform (k : DrawKey) (t m : Nat) : Nat := k.draw t * m / 2 ^ 64

/-! ## Modes (R196-R200) -/

/-- The positions mode 0 chooses in a row of degree `d`, more than `f` (R196). -/
def chooseSet (k : DrawKey) (d f : Nat) : Nat → List Nat → List Nat
  | 0, ch => ch
  | n + 1, ch =>
    let t := f - (n + 1)
    let j := d - f + t
    let v := k.uniform t (j + 1)
    chooseSet k d f n (ch ++ [if ch.contains v then j else v])

/-- The first position of `lo .. hi` whose CUMW exceeds the target, by binary search (R198). -/
def searchCum (g : Graph) (o target : Nat) : Nat → Nat → Nat → Eng Nat
  | 0, lo, _ => pure lo
  | fuel + 1, lo, hi =>
    if hi ≤ lo then pure lo
    else do
      let mid := (lo + hi) / 2
      let v ← g.cum o mid
      if target < v then searchCum g o target fuel lo mid else searchCum g o target fuel (mid + 1) hi

/-- Inserts a position by descending weight, equal weights by ascending position (R199). -/
def insertTop (x : Nat × Nat) : List (Nat × Nat) → List (Nat × Nat)
  | [] => [x]
  | y :: ys => if y.1 < x.1 then x :: y :: ys else y :: insertTop x ys

/-- The positions the slots of a parent take, in slot order, and the draws made (R196-R200). -/
def choose (g : Graph) (mode f : Nat) (k : DrawKey) (o d : Nat) : Eng (List Nat × Nat) :=
  match mode with
  | 0 =>
    if d ≤ f then pure ((List.range d).map (fun i => o + i), 0)
    else pure ((chooseSet k d f f []).map (fun i => o + i), f)
  | 1 => do
    let w ← if d = 0 then pure 0 else g.cum o (o + d - 1)
    if w = 0 then pure ([], 0)
    else
      let ps ← mapDo (fun t => searchCum g o (k.draw t * w / 2 ^ 64) (Nat.log2 d + 2) o (o + d - 1)) (List.range f)
      pure (ps, f)
  | 2 => do
    let ws ← mapDo (fun i => entryAt g.weights 4 (o + i)) (List.range d)
    let top := (List.zip ws ((List.range d).map (fun i => o + i))).foldl (fun l x => insertTop x l) []
    pure ((top.take f).map (·.2), 0)
  | _ => do
    if f < d then addEvents 1
    pure ((List.range (min d f)).map (fun i => o + i), 0)

/-! ## SAMPLE (R193-R195, R201-R203) -/

/-- Region size of a hop with `l` slots (R194). -/
def regionSize (l : Nat) : Nat := 2 * pad64 (8 * l) + pad64 (2 * l)

/-- Level sizes L_0 .. L_HOPS (R193). -/
def levels (l0 : Nat) : List Nat → List Nat
  | [] => [l0]
  | f :: fs => l0 :: levels (l0 * f) fs

/-- First byte of each region, and the end of the path object. -/
def regionStarts : Nat → List Nat → List Nat
  | at_, [] => [at_]
  | at_, l :: ls => at_ :: regionStarts (at_ + regionSize l) ls

/-- Writes the record of the slots of a parent: NODE, EDGE, ETYPE (R194, R195). -/
def writeSlots (path base l first : Nat) (rs : List (Nat × Nat × Nat)) : Eng Unit := do
  wrH (path + base + 8 * first) (rs.flatMap (fun r => leBytes 8 r.1))
  wrH (path + base + pad64 (8 * l) + 8 * first) (rs.flatMap (fun r => leBytes 8 r.2.1))
  wrH (path + base + 2 * pad64 (8 * l) + 2 * first) (rs.flatMap (fun r => leBytes 2 r.2.2))

/-- One parent of a hop: its F slots. -/
def sampleParent (g : Graph) (mode f : Nat) (k : DrawKey) (path base l node dsp : Nat) : Eng Unit := do
  let rs ← (do
    if node = noNode then pure []
    else
      let r ← g.row node
      let c ← choose g mode f k r.1 r.2
      modS (fun s => bump s (Key.smpDraws + dsp) c.2)
      mapDo (fun e => do
        let n ← g.neighbour e
        let t ← if bit g.ctl 3 then entryAt g.types 2 e else pure 0
        pure (n, e, t)) c.1)
  writeSlots path base l (k.pos * f) (fillTo (noNode, noNode, 0xFFFF) f rs)
  modS (fun s => bump s (Key.smpSlots + dsp) f)

/-- The hops of a SAMPLE from hop `h` (R201): the frontier plane's handle, the positions served. -/
def sampleHops (g : Graph) (w : Work) (key : DrawKey) (path : Nat) :
    List (Nat × Nat × Nat) → Nat → Nat → Nat → Nat → Eng Unit
  | [], _, _, _, _ => pure ()
  | (f, base, l) :: rest, h, frontier, lo, n => do
    upTo n (fun i => do
      let node ← entryAt frontier 8 (lo + i)
      sampleParent g (w.f 48 1 % 4) f { key with hop := h, pos := lo + i } path base l node w.dsp)
    sampleHops g w key path rest (h + 1) (path + base) (lo * f) (n * f)

/-- The page of every byte of a range is in this module's memory. -/
def onModule (s : State) (h len : Nat) : Bool :=
  (pieces 65536 (len / 65536 + 2) (hOff h) len).all (fun p => match locatePage s (objOf s (hObj h)) p.1 with
    | .here _ => true
    | .wait => true
    | _ => false)

/-- The body of SAMPLE. -/
def sampleBody : Eng Unit := do
  let c ← get
  let w := c.w
  let path := w.f 32 8
  require (decide (w.f 44 4 ≠ 0)) Status.shape
  require (handleOk w c.s path 64) Status.handle
  let hd ← rdH path 64
  let hops := field hd 2 1
  let l0 := field hd 8 4
  let fs := (List.range (min hops 8)).map (fun h => field hd (16 + 2 * h) 2)
  let ls := levels l0 fs
  require (field hd 0 2 == 1 && decide (1 ≤ hops) && decide (hops ≤ 8) && fs.all (fun f => decide (1 ≤ f) && decide (f ≤ 4096)) &&
    (List.range 8).all (fun h => decide (h < hops) || field hd (16 + 2 * h) 2 == 0) &&
    ls.all (fun l => decide (l < 2 ^ 32)) && decide (1 ≤ l0) && decide (w.f 40 4 + w.f 44 4 ≤ l0)) Status.shape
  require (handleOk w c.s (w.f 16 8) 64) Status.handle
  let g := graphOf (← rdH (w.f 16 8) 64)
  let starts := regionStarts 64 (ls.drop 1)
  let total := starts.getLastD 64
  let s ← getS
  require (handleOk w s path total && handleOk w s (w.f 24 8) (8 * l0) && g.arrays.all (fun a => handleOk w s a.1 a.2)) Status.handle
  require (!(overlaps path total (w.f 24 8) (8 * l0) || overlaps path total (w.f 16 8) 64 ||
    g.arrays.any (fun a => overlaps path total a.1 a.2))) Status.aliased
  require (onModule s path total) Status.tier
  let mode := w.f 48 1 % 4
  require ((mode != 1 || bit g.ctl 4) && (mode != 2 || bit g.ctl 2)) Status.graph
  let key : DrawKey := { seed := reg s Key.genSeed, step := w.step, opid := w.f 50 2, hop := 0, pos := 0 }
  sampleHops g w key path (List.zip fs (List.zip starts (ls.drop 1))) 0 (w.f 24 8) (w.f 40 4) (w.f 44 4)

/-- SAMPLE. -/
def execSample (r : WRef) (s : State) : Res := .next (runEngine 0x0300 sampleBody r s)

/-! ## PREFIX (R187, R205) -/

/-- The running sums of a row's weights; none above 2^64 − 1. -/
def runSums : Nat → List Nat → Option (List Nat)
  | _, [] => some []
  | a, w :: ws => if 2 ^ 64 ≤ a + w then none else (runSums (a + w) ws).map (fun r => (a + w) :: r)

/-- The body of PREFIX. -/
def prefixBody : Eng Unit := do
  let c ← get
  let w := c.w
  require (decide (w.f 48 8 ≠ 0)) Status.shape
  require (handleOk w c.s (w.f 16 8) 64) Status.handle
  let g := graphOf (← rdH (w.f 16 8) 64)
  let s ← getS
  require (!(w.qc && bit g.ctl 4 && isTraining s g.cumw)) Status.cls
  require (g.arrays.all (fun a => handleOk w s a.1 a.2)) Status.handle
  require (bit g.ctl 2 && bit g.ctl 4) Status.graph
  upTo (w.f 48 8) (fun i => do
    let r ← g.row (w.f 40 8 + i)
    let ws ← mapDo (fun i => entryAt g.weights 4 (r.1 + i)) (List.range r.2)
    match runSums 0 ws with
    | none => stopWith Status.graph
    | some cs => if cs.isEmpty then pure () else wrH (g.cumw + 8 * r.1) (cs.flatMap (leBytes 8)))

/-- PREFIX. -/
def execSmpPrefix (r : WRef) (s : State) : Res := .next (runEngine 0x0301 prefixBody r s)

/-! ## COMPACT (R206) -/

/-- Inserts a number into an ascending list without repeats. -/
def insertNew (x : Nat) : List Nat → List Nat
  | [] => [x]
  | y :: ys => if x < y then x :: y :: ys else if x = y then y :: ys else y :: insertNew x ys

/-- The body of COMPACT. -/
def compactBody : Eng Unit := do
  let c ← get
  let w := c.w
  let n := w.f 40 4
  require (decide (1 ≤ n) && decide (n ≤ 16777216)) Status.shape
  let ins := (w.f 16 8, 8 * n)
  let outs := [(w.f 24 8, 8 * n), (w.f 32 8, 4 * n), (w.f 48 8, 16 * n)]
  require ((ins :: outs).all (fun a => handleOk w c.s a.1 a.2)) Status.handle
  let meet (a b : Nat × Nat) : Bool := overlaps a.1 a.2 b.1 b.2
  require (!(outs.any (meet ins) || meet outs[0]! outs[1]! || meet outs[0]! outs[2]! || meet outs[1]! outs[2]!)) Status.aliased
  let vs ← mapDo (fun i => rdNat (w.f 16 8 + 8 * i) 8) (List.range n)
  let uniq := (vs.filter (fun v => v != noNode)).foldl (fun l v => insertNew v l) []
  if uniq.isEmpty then pure () else wrH (w.f 24 8) (uniq.flatMap (leBytes 8))
  wrH (w.f 32 8) (vs.flatMap (fun v => leBytes 4 (if v = noNode then 0xFFFFFFFF else uniq.idxOf v)))
  wrH (w.f 48 8) (← openBytes (16 * n))
  addEvents uniq.length

/-- COMPACT. -/
def execCompact (r : WRef) (s : State) : Res := .next (runEngine 0x0302 compactBody r s)

end Sys2Proof.Machine
end

