-- ==== Sys2Proof/Machine/Builder.lean ====
section
/-! DEFINITION. The neighbour-list builder (R207-R217): BUILD, EDGE_GRAD, EDGE_DIFF. Single-precision values are
held as integers in units of 2^-149. -/

namespace Sys2Proof.Machine
open Sys2Proof

/-- An FP32 pattern as an integer in units of 2^-149; none when it is not finite. -/
def fpInt (b : Nat) : Option Int := match decFloat .fp32 b with
  | .fin n m e => some (sgn n (m * pow2 (e + 149)))
  | _ => none

/-- A system (R207): handle of the planes, atom count, the nine cell values. -/
structure System where
  pos : Nat
  atoms : Nat
  cell : List Int
  deriving DecidableEq, Repr

/-- The six cell values that are not fixed at zero, by name (R208). -/
structure Cell where
  a1x : Int
  a2x : Int
  a2y : Int
  a3x : Int
  a3y : Int
  a3z : Int
  deriving DecidableEq, Repr

/-- The cell of nine values, if R208 allows it. -/
def cellOf (c : List Int) : Option Cell :=
  let g (i : Nat) : Int := c.getD i 0
  if g 1 ≠ 0 ∨ g 2 ≠ 0 ∨ g 5 ≠ 0 ∨ g 0 ≤ 0 ∨ g 4 ≤ 0 ∨ g 8 ≤ 0 then none
  else some { a1x := g 0, a2x := g 3, a2y := g 4, a3x := g 6, a3y := g 7, a3z := g 8 }

/-- The squared cut-off: its pattern's value in units of 2^-149. -/
abbrev Cut := Int

/-- Twice-scaled squares for R210: |a_l × a_m|² of axis `k`, in units^4. -/
def crossSq (c : Cell) : Nat → Int
  | 0 =>
    let x := c.a2y * c.a3z
    let y := -(c.a2x * c.a3z)
    let z := c.a2x * c.a3y - c.a2y * c.a3x
    x * x + y * y + z * z
  | 1 =>
    let y := -(c.a1x * c.a3z)
    let z := c.a1x * c.a3y
    y * y + z * z
  | _ => c.a1x * c.a2y * (c.a1x * c.a2y)

/-- V² in units^6. -/
def volSq (c : Cell) : Int := (c.a1x * c.a2y * c.a3z) ^ 2

/-- `n × rcs ≤ w_k` (R210). -/
def fits (c : Cell) (rc2 : Cut) (k : Nat) (n : Int) : Bool :=
  decide (n * n * rc2 * 2 ^ 149 * 1025 ^ 2 * crossSq c k ≤ volSq c * 1024 ^ 2)

/-- n_k: min(128, max(1, floor(w_k / rcs))) (R210). -/
def gridCells (c : Cell) (rc2 : Cut) (k : Nat) : Nat :=
  max 1 (((List.range 129).filter (fun (n : Nat) => fits c rc2 k (n : Int))).foldl max 0)

/-- rcs ≤ n × w_k. -/
def within (c : Cell) (rc2 : Cut) (k : Nat) (n : Int) : Bool :=
  decide (rc2 * 2 ^ 149 * 1025 ^ 2 * crossSq c k ≤ n * n * volSq c * 1024 ^ 2)

/-- m_k: ceil(rcs / w_k) + 1; none above 127 (R210). -/
def imageSpan (c : Cell) (rc2 : Cut) (k : Nat) : Option Nat :=
  ((List.range 127).find? (fun (n : Nat) => within c rc2 k (n : Int))).map (fun n => n + 1)

/-- The fractional coordinates of a position (R210). -/
def fracs (c : Cell) (x : List Int) : List ℚ :=
  let f3 : ℚ := (x.getD 2 0 : ℚ) / c.a3z
  let f2 : ℚ := ((x.getD 1 0 : ℚ) - f3 * c.a3y) / c.a2y
  let f1 : ℚ := ((x.getD 0 0 : ℚ) - f2 * c.a2x - f3 * c.a3x) / c.a1x
  [f1, f2, f3]

/-- Cells of the grid each atom lies in on an axis (R210). -/
def binAxis (periodic : Bool) (n : Nat) (fs : List ℚ) : List Int :=
  let lo := fs.foldl min (fs.headD 0)
  fs.map (fun (f : ℚ) => if periodic then ((f - (f.floor : ℚ)) * (n : ℚ)).floor else ((f - lo) * (n : ℚ)).floor)

/-- Candidates an axis contributes for two atoms (R210); of a non-periodic axis, log 164. -/
def axisCount (periodic : Bool) (n m : Nat) (a b : Int) : Nat :=
  if n < 3 then (if periodic then 2 * m + 1 else 1)
  else
    let d := (a - b).natAbs
    if d ≤ 1 ∨ (periodic = true ∧ d + 1 = n) then 1 else 0

/-- Pair tests of a centre (R210). -/
def pairTests (pbc : List Bool) (ns ms : List Nat) (bins : List (List Int)) (i atoms : Nat) : Nat :=
  ((List.range atoms).map (fun j => ((List.range 3).map (fun k =>
    axisCount (pbc.getD k false) (ns.getD k 1) (ms.getD k 0) ((bins.getD k []).getD i 0) ((bins.getD k []).getD j 0))).foldl (· * ·) 1)).sum

/-! ## The edge test (R209) -/

/-- An FP32 operation rounded to nearest: pattern and events. -/
def fl32 (x : Num × Bool) : Nat × Ev :=
  let c := convFloat .fp32 .nearest 0 x.1
  (c.1, { c.2 with inv := c.2.inv || x.2 })

/-- The rounded components of Δ, the pattern of d², and the events of all six conversions (R209). -/
def edgeTest (d : List Int) : List Nat × Nat × List Ev :=
  let cs := d.map (fun v => fl32 (Num.ofScaled v (-149), false))
  let n (i : Nat) : Num := decFloat .fp32 (cs.getD i (0, {})).1
  let a := fl32 (Num.mul (n 0) (n 0))
  let b := fl32 (Num.fma (n 1) (n 1) (decFloat .fp32 a.1))
  let e := fl32 (Num.fma (n 2) (n 2) (decFloat .fp32 b.1))
  (cs.map (·.1), e.1, cs.map (·.2) ++ [a.2, b.2, e.2])

/-- d² ≤ RC2. -/
def passes (d2 rc2 : Nat) : Bool :=
  let a := decFloat .fp32 d2
  let b := decFloat .fp32 rc2
  Num.lt a b || Num.eqv a b

/-- The images an axis is searched in, ascending: every n with |v + n × a| ≤ r, for a > 0, and all of −m .. m where R210 scans
them. -/
def imagesOn (periodic : Bool) (m : Nat) (v a r : Int) : List Int :=
  if !periodic then [0]
  else
    let lo := min (-((r + v) / a) - 1) (-(m : Int))
    let hi := max ((r - v) / a + 1) (m : Int)
    (List.range (hi + 1 - lo).toNat).map (fun (k : Nat) => lo + (k : Int))

/-- The images of a pair that can pass, given the difference of positions: the triangular cell bounds n3, then n2,
then n1 (R208, R209). No component of a Δ that passes exceeds `r`. -/
def nearPairs (c : Cell) (pbc : List Bool) (ms : List Nat) (r : Int) (d : List Int) : List (List Int × List Int) :=
  let x := d.getD 0 0
  let y := d.getD 1 0
  let z := d.getD 2 0
  (imagesOn (pbc.getD 2 false) (ms.getD 2 0) z c.a3z r).flatMap (fun n3 =>
    (imagesOn (pbc.getD 1 false) (ms.getD 1 0) (y + n3 * c.a3y) c.a2y r).flatMap (fun n2 =>
      (imagesOn (pbc.getD 0 false) (ms.getD 0 0) (x + n2 * c.a2x + n3 * c.a3x) c.a1x r).map (fun n1 =>
        ([n1, n2, n3], [x + n1 * c.a1x + n2 * c.a2x + n3 * c.a3x, y + n2 * c.a2y + n3 * c.a3y, z + n3 * c.a3z]))))

/-- Lexicographic order of shifts (R211). -/
def shiftLt : List Int → List Int → Bool
  | a :: as, b :: bs => decide (a < b) || (a == b && shiftLt as bs)
  | _, _ => false

/-- An edge: neighbour, shift, components, events. -/
structure Edge where
  j : Nat
  n : List Int
  d : List Nat
  ev : List Ev
  deriving DecidableEq, Repr

/-- Inserts an edge by its shift. -/
def insertEdge (x : Edge) : List Edge → List Edge
  | [] => [x]
  | y :: ys => if shiftLt x.n y.n then x :: y :: ys else y :: insertEdge x ys

/-- The edges of centre `i` in the order of R211. -/
def edgesOf (c : Cell) (pbc : List Bool) (ms : List Nat) (rc2 : Nat) (r : Int) (half : Bool) (pos : List (List Int)) (i : Nat) : List Edge :=
  let xi := pos.getD i []
  (List.zip (List.range pos.length) pos).flatMap (fun e =>
    let j := e.1
    let d := (List.range 3).map (fun k => e.2.getD k 0 - xi.getD k 0)
    let found := (nearPairs c pbc ms r d).filterMap (fun p =>
      if i = j ∧ p.1 = [0, 0, 0] then none
      else if half ∧ !(decide (i < j) || (i == j && shiftLt [0, 0, 0] p.1)) then none
      else
        let t := edgeTest p.2
        if passes t.2.1 rc2 then some ({ j := j, n := p.1, d := t.1, ev := t.2.2 } : Edge) else none)
    found.foldl (fun l x => insertEdge x l) [])

/-! ## BUILD (R212-R214) -/

/-- Reads a system header (R207). -/
def readSystem (h : Nat) : Eng (Nat × Nat × List Nat) := do
  let bs ← rdH h 64
  pure (field bs 0 8, field bs 8 4, (List.range 9).map (fun i => field bs (16 + 4 * i) 4))

/-- Reads three FP32 planes of `n` elements with plane pitch `p`. -/
def readPlanes (h p n : Nat) : Eng (List (List Nat)) :=
  mapDo (fun c => do
    let bs ← rdH (h + c * p) (4 * n)
    pure (unpackBits 32 bs 0 n)) (List.range 3)

/-- Regroups three planes by element. -/
def byElem (n : Nat) (ps : List (List Nat)) : List (List Nat) :=
  (List.range n).map (fun i => ps.map (fun p => p.getD i 0))

/-- The cut-off that bounds every component of a Δ that passes, in units of 2^-149: the roundings of R209 lose at most 2^-20
of d², or where d² is subnormal two units of it. -/
def reach (rc2 : Cut) : Int := (Nat.sqrt ((rc2.toNat + 2) * 2 ^ 149) : Int) * 1025 / 1024 + 2

/-- A shift component as the SHIFT plane holds it; what stands there for one that S8 cannot hold is open (log 138). -/
def shiftByte (free : Nat) (n : Int) : Nat := if -128 ≤ n ∧ n ≤ 127 then unsigned 8 n else free % 256

/-- The slots of a centre as written (R212): the first MAXNB edges, then invalid slots; their d² operations alone
are conversion points (R214, log 164). -/
def writeCentre (path evec count maxnb s4 i : Nat) (es : List Edge) : Eng Unit := do
  let es' := es.take maxnb
  let free ← mapDo (fun (k : Nat) => openAt [i, k]) (List.range (3 * maxnb))
  let pad (v : Nat) (xs : List Nat) : List Byte := (fillTo v maxnb xs).flatMap (leBytes 4)
  let first := 4 * (i * maxnb)
  wrH (path + 64 + first) (pad 0xFFFFFFFF (es'.map (fun _ => i)))
  wrH (path + 64 + s4 + first) (pad 0xFFFFFFFF (es'.map (·.j)))
  wrH (path + 64 + 2 * s4 + first) (pad 0 (es'.zipIdx.map (fun x =>
    let byte (k : Nat) : Nat := shiftByte (free.getD (3 * x.2 + k) 0) (x.1.n.getD k 0)
    byte 0 + 256 * byte 1 + 65536 * byte 2)))
  eachDo (fun c => wrH (evec + c * s4 + first) (pad 0 (es'.map (fun e => e.d.getD c 0)))) (List.range 3)
  wrH (count + 4 * i) (leBytes 4 es.length)
  eachDo (fun e => eachDo event e.ev) es'

/-- The body of BUILD. -/
def buildBody : Eng Unit := do
  let c ← get
  let w := c.w
  let maxnb := w.f 52 2
  let sys := w.f 16 8
  require (decide (1 ≤ maxnb) && decide (maxnb ≤ 1024) && decide (w.f 60 4 ≠ 0)) Status.shape
  let rc2 := (fpInt (w.f 48 4)).getD 0
  require (handleOk w c.s sys 64 || decide (0 < rc2)) Status.cell
  require (handleOk w c.s sys 64) Status.handle
  let (posH, atoms, cellB) ← readSystem sys
  require (decide (1 ≤ atoms) && decide (atoms ≤ 4194304) && decide (w.f 56 4 + w.f 60 4 ≤ atoms)) Status.shape
  let plane := pad64 (4 * atoms)
  let cell := if cellB.all (fun b => (fpInt b).isSome) then cellOf (cellB.map (fun b => (fpInt b).getD 0)) else none
  let pbc := (List.range 3).map (fun k => bit (w.f 54 1) k)
  match cell with
  | none => stopWith Status.cell
  | some cell =>
    let ns := (List.range 3).map (gridCells cell rc2)
    require (decide (0 < rc2)) Status.cell
    let ms := (List.range 3).map (fun k => if ns.getD k 1 < 3 then imageSpan cell rc2 k else some 0)
    require (ms.all Option.isSome) Status.cell
    let ms := ms.map (fun m => m.getD 0)
    let s ← getS
    require (handleOk w s posH (3 * plane)) Status.handle
    let raw := byElem atoms (← readPlanes posH plane atoms)
    let pos := raw.map (fun x => x.map fpInt)
    require (pos.all (fun x => x.all Option.isSome)) Status.cell
    let sl := atoms * maxnb
    let s4 := pad64 (4 * sl)
    let outs := [(w.f 24 8, 64 + 3 * s4), (w.f 32 8, 3 * s4), (w.f 40 8, 4 * atoms)]
    let s ← getS
    require (outs.all (fun a => handleOk w s a.1 a.2)) Status.handle
    let meet (a b : Nat × Nat) : Bool := overlaps a.1 a.2 b.1 b.2
    require (!(outs.any (meet (sys, 64)) || outs.any (meet (posH, 3 * plane)) || meet outs[0]! outs[1]! ||
      meet outs[0]! outs[2]! || meet outs[1]! outs[2]!)) Status.aliased
    require (outs.all (fun a => onModule s a.1 a.2)) Status.tier
    wrH (w.f 24 8) (fillTo 0 64 (leBytes 2 2 ++ leBytes 1 1 ++ List.replicate 5 0 ++ leBytes 4 atoms ++
      List.replicate 4 0 ++ leBytes 2 maxnb))
    let pts := pos.map (fun x => x.map (fun v => v.getD 0))
    let fr := pts.map (fracs cell)
    let bins := (List.range 3).map (fun k => binAxis (pbc.getD k false) (ns.getD k 1) (fr.map (fun f => f.getD k 0)))
    let counts ← mapDo (fun k => do
      let i := w.f 56 4 + k
      let es := edgesOf cell pbc ms (w.f 48 4) (reach rc2) (bit (w.f 55 1) 0) pts i
      writeCentre (w.f 24 8) (w.f 32 8) (w.f 40 8) maxnb s4 i es
      addEvents es.length
      modS (fun s => bump (bump s (Key.nblEdges + w.die) es.length) (Key.nblPairTests + w.die)
        (pairTests pbc ns ms bins i atoms))
      pure es.length) (List.range (w.f 60 4))
    require (counts.all (fun n => decide (n ≤ maxnb))) Status.nbrOverflow

/-- BUILD. -/
def execBuild (r : WRef) (s : State) : Res := .next (runEngine 0x0400 buildBody r s)

/-! ## EDGE_GRAD and EDGE_DIFF (R215-R217) -/

/-- Reads the header of a radius path object: atoms, MAXNB, padded bytes of a plane. -/
def readRadius (w : Work) : Eng (Nat × Nat × Nat) := do
  let s ← getS
  require (decide (w.f 52 4 ≠ 0)) Status.shape
  require (handleOk w s (w.f 16 8) 64) Status.handle
  let bs ← rdH (w.f 16 8) 64
  let atoms := field bs 8 4
  let maxnb := field bs 16 2
  require (field bs 0 2 == 2 && field bs 2 1 == 1 && decide (1 ≤ atoms) && decide (atoms ≤ 4194304) && decide (1 ≤ maxnb) &&
    decide (maxnb ≤ 1024) && decide (w.f 48 4 + w.f 52 4 ≤ atoms)) Status.shape
  pure (atoms, maxnb, pad64 (4 * (atoms * maxnb)))

/-- A slot of a radius path object: centre, neighbour and shift; none when it is invalid. -/
def readSlot (path s4 k : Nat) : Eng (Option (Nat × Nat × List Int)) := do
  let i ← rdNat (path + 64 + 4 * k) 4
  let j ← rdNat (path + 64 + s4 + 4 * k) 4
  let n ← rdNat (path + 64 + 2 * s4 + 4 * k) 4
  pure (if i = 0xFFFFFFFF then none else some (i, j, (List.range 3).map (fun a => signed 8 (bits n (8 * a) 8))))

/-- Sends the product of a shift and a gradient as an exact addend (R215). -/
def sendProduct (obj elem : Nat) (n : Int) (g : Nat) : Eng Unit :=
  match Num.mul (Num.ofInt n) (decFloat .fp32 g) with
  | (.fin b m e, _) => sendAddend obj elem .xa128 (e + 127) (unsigned 128 (sgn b m))
  | (.inf b, _) => sendAddend obj elem .fp32 0 (if b then 0xFF800000 else 0x7F800000)
  | (.nan, _) => sendAddend obj elem .fp32 0 0x7FC00000

/-- The sign of an FP32 pattern inverted. -/
def flipSign (b : Nat) : Nat := if bit b 31 then b - 2 ^ 31 else b + 2 ^ 31

/-- The body of EDGE_GRAD. -/
def edgeGradBody : Eng Unit := do
  let c ← get
  let w := c.w
  let (atoms, maxnb, s4) ← readRadius w
  let cg := bit (w.f 56 1) 0
  let s ← getS
  let fo := objOf s (hObj (w.f 32 8))
  let co := objOf s (hObj (w.f 40 8))
  require (handleOk w s (w.f 16 8) (64 + 3 * s4) && handleOk w s (w.f 24 8) (3 * s4) && handleOk w s (w.f 32 8) 1 &&
    (!cg || handleOk w s (w.f 40 8) 1) && (!fo.adderTarget || fo.spans (fo.elemOff (3 * atoms - 1)) fo.elemBytes) &&
    (!cg || !co.adderTarget || co.spans (co.elemOff 8) co.elemBytes)) Status.handle
  require (!(fo.num == hObj (w.f 16 8) || fo.num == hObj (w.f 24 8) ||
    (cg && (co.num == fo.num || co.num == hObj (w.f 16 8) || co.num == hObj (w.f 24 8))))) Status.aliased
  require (fo.adderTarget && (!cg || co.adderTarget)) Status.stage
  upTo (w.f 52 4 * maxnb) (fun k => do
    let slot := w.f 48 4 * maxnb + k
    match ← readSlot (w.f 16 8) s4 slot with
    | none => pure ()
    | some (i, j, n) =>
      addEvents 1
      eachDo (fun a => do
        let g ← rdNat (w.f 24 8 + a * s4 + 4 * slot) 4
        sendAddend fo.num (a * atoms + j) .fp32 0 g
        sendAddend fo.num (a * atoms + i) .fp32 0 (flipSign g)
        if cg then
          eachDo (fun b => (if n.getD b 0 = 0 then pure () else sendProduct co.num (3 * b + a) (n.getD b 0) g)) (List.range 3)
        else pure ()) (List.range 3))

/-- EDGE_GRAD. -/
def execEdgeGrad (r : WRef) (s : State) : Res := .next (runEngine 0x0401 edgeGradBody r s)

/-- The sum of numbers, and whether infinities of both signs met. -/
def sumAll : List Num → Num × Bool
  | [] => (.fin false 0 0, false)
  | [x] => (x, false)
  | x :: xs =>
    let r := sumAll xs
    let q := Num.add x r.1
    (q.1, q.2 || r.2)

/-- An exact sum carries no sign of zero (R72). -/
def sumExact (xs : List Num) : Num × Bool :=
  let r := sumAll xs
  (match r.1 with
    | .fin _ 0 q => .fin false 0 q
    | v => v, r.2)

/-- The body of EDGE_DIFF (R216); terms with n_k = 0 and infinities that cancel, log 164. -/
def edgeDiffBody : Eng Unit := do
  let c ← get
  let w := c.w
  let (atoms, maxnb, s4) ← readRadius w
  require (w.rnd != 3) Status.format
  let cg := bit (w.f 56 1) 0
  let plane := pad64 (4 * atoms)
  let s ← getS
  require (handleOk w s (w.f 16 8) (64 + 3 * s4) && handleOk w s (w.f 24 8) (3 * plane) && handleOk w s (w.f 32 8) (3 * s4) &&
    (!cg || handleOk w s (w.f 40 8) 36)) Status.handle
  require (!(overlaps (w.f 32 8) (3 * s4) (w.f 16 8) (64 + 3 * s4) || overlaps (w.f 32 8) (3 * s4) (w.f 24 8) (3 * plane) ||
    (cg && overlaps (w.f 32 8) (3 * s4) (w.f 40 8) 36))) Status.aliased
  require (onModule s (w.f 32 8) (3 * s4)) Status.tier
  let md := (RMode.ofBits w.rnd).getD .nearest
  let q ← if cg then mapDo (fun i => rdNat (w.f 40 8 + 4 * i) 4) (List.range 9) else pure []
  upTo (w.f 52 4 * maxnb) (fun k => do
    let slot := w.f 48 4 * maxnb + k
    match ← readSlot (w.f 16 8) s4 slot with
    | none => eachDo (fun a => wrH (w.f 32 8 + a * s4 + 4 * slot) (leBytes 4 0)) (List.range 3)
    | some (i, j, n) =>
      eachDo (fun a => do
        let hj ← entryAt (w.f 24 8 + a * plane) 4 j
        let hi ← entryAt (w.f 24 8 + a * plane) 4 i
        let cellTerms := if cg then (List.range 3).filterMap (fun b => if n.getD b 0 = 0 then none
          else some (Num.mul (Num.ofInt (n.getD b 0)) (decFloat .fp32 (q.getD (3 * b + a) 0))).1) else []
        let x := sumExact (decFloat .fp32 hj :: (decFloat .fp32 hi).neg :: cellTerms)
        let v := convFloat .fp32 md ((← openAt [slot, a]) % 2 ^ 32) x.1
        event { v.2 with inv := v.2.inv || x.2 }
        wrH (w.f 32 8 + a * s4 + 4 * slot) (leBytes 4 v.1)) (List.range 3))

/-- EDGE_DIFF. -/
def execEdgeDiff (r : WRef) (s : State) : Res := .next (runEngine 0x0402 edgeDiffBody r s)

end Sys2Proof.Machine
end

