-- ==== Sys2Proof/Machine/VecAlu.lean ====
section
/-! DEFINITION. The floating, comparison, conversion, table, sequence and lane-reduce instructions of R122 to
R128. -/

namespace Sys2Proof.Machine
open Sys2Proof

/-! ## Floating arithmetic (R124) -/

/-- A rounding floating operation on the exact values of the elements of VA, VB and VC. -/
def VRun.flop (x : VRun) (g : Num → Num → Num → Num × Bool) : VOut :=
  let f := x.fmt
  x.put x.u x.i.vd (x.lanes (fun t a b c =>
    elemsZip f a b c (fun h p q r =>
      let v := g (decFloat f p) (decFloat f q) (decFloat f r)
      invalidOr v.2 (convFloat f x.mode (x.roundWord f t h) v.1))))

/-- FADD. -/
def execFadd (tile : Nat) (s : State) : Res := .next (vecPure 0x20 (fun x => x.flop (fun a b _ => Num.add a b)) tile s)

/-- FSUB. -/
def execFsub (tile : Nat) (s : State) : Res :=
  .next (vecPure 0x21 (fun x => x.flop (fun a b _ => Num.add a b.neg)) tile s)

/-- FMUL. -/
def execFmul (tile : Nat) (s : State) : Res := .next (vecPure 0x22 (fun x => x.flop (fun a b _ => Num.mul a b)) tile s)

/-- FMA: a × b + c, rounded once. -/
def execFma (tile : Nat) (s : State) : Res := .next (vecPure 0x23 (fun x => x.flop (fun a b c => Num.fma a b c)) tile s)

/-- FNMA: −(a × b) + c, rounded once. -/
def execFnma (tile : Nat) (s : State) : Res :=
  .next (vecPure 0x24 (fun x => x.flop (fun a b c => Num.fma a.neg b c)) tile s)

/-- FMS: a × b − c, rounded once. -/
def execFms (tile : Nat) (s : State) : Res :=
  .next (vecPure 0x25 (fun x => x.flop (fun a b c => Num.fma a b c.neg)) tile s)

/-- A change of the sign bit of each element. -/
def VRun.signOp (x : VRun) (g : Nat → Nat → Nat) : VOut :=
  let f := x.fmt
  let top := 2 ^ (f.elemBits - 1)
  x.put x.u x.i.vd (x.lanes (fun _ a _ _ => (pack f ((elems f a).map (g top)), [])))

/-- FABS clears the sign bit. -/
def execFabs (tile : Nat) (s : State) : Res := .next (vecPure 0x26 (fun x => x.signOp (fun top e => e % top)) tile s)

/-- FNEG inverts the sign bit. -/
def execFneg (tile : Nat) (s : State) : Res :=
  .next (vecPure 0x27 (fun x => x.signOp (fun top e => Nat.xor e top)) tile s)

/-! ## Comparison and selection -/

/-- Condition FN of two values (R123). -/
def cmpCond (fn : Nat) (a b : Num) : Bool :=
  let un := a.isNan || b.isNan
  match fn with
  | 0 => !un && Num.eqv a b
  | 1 => un || !Num.eqv a b
  | 2 => !un && Num.lt a b
  | 3 => !un && !Num.lt b a
  | 4 => !un && Num.lt b a
  | 5 => !un && !Num.lt a b
  | 6 => un
  | _ => !un

/-- A predicate of the elements of VA and VB on each lane: the OR over the elements (R123). -/
def VRun.test (x : VRun) (g : Nat → Nat → Bool) : VOut :=
  let f := x.fmt
  x.putPred (List.zipWith (fun a b => (List.zipWith g (elems f a) (elems f b)).any id) (x.u.reg x.i.va) (x.u.reg x.i.vb))

/-- CMP. -/
def execCmp (tile : Nat) (s : State) : Res :=
  .next (vecPure 0x30 (fun x => x.test (fun a b => cmpCond x.i.fn (regNum x.fmt a) (regNum x.fmt b))) tile s)

/-- SEL: a where Q(QS) = 1, b elsewhere, on every lane of Q0. -/
def execSel (tile : Nat) (s : State) : Res :=
  .next (vecPure 0x31 (fun x =>
    let q := x.u.pred x.i.qs
    let v := List.zipWith (fun (p : Bool) (ab : Word × Word) => if p then ab.1 else ab.2) q (List.zip (x.u.reg x.i.va) (x.u.reg x.i.vb))
    x.put x.u x.i.vd (lanesOn (x.u.pred 0) x.items v v v (fun _ a _ _ => (a, [])))) tile s)

/-- The smaller of two values; −0 before +0 (R76). -/
def numMin (a b : Num) : Num :=
  if Num.lt a b then a else if Num.lt b a then b else if a.isNeg then a else b

/-- The larger of two values; +0 before −0 (R76). -/
def numMax (a b : Num) : Num :=
  if Num.lt a b then b else if Num.lt b a then a else if a.isNeg then b else a

/-- MIN or MAX: exact; a NaN operand gives canonical NaN with INV (R76). -/
def VRun.pick (x : VRun) (g : Num → Num → Num) : VOut :=
  let f := x.fmt
  x.put x.u x.i.vd (x.lanes (fun _ a b c =>
    if f.isFloat then
      let r := elemsZip f a b c (fun _ p q _ =>
        let u := decFloat f p
        let v := decFloat f q
        if u.isNan || v.isNan then (f.canonNan, { inv := true }) else convFloat f .nearest 0 (g u v))
      (r.1, r.2.filter (fun e => e.inv))
    else (match g (regNum f a.toNat) (regNum f b.toNat) with
      | .fin n m e => (BitVec.ofInt 32 (sgn n m * (pow2 e : Int)), [])
      | _ => (0, []))))

/-- MIN. -/
def execVMin (tile : Nat) (s : State) : Res := .next (vecPure 0x32 (fun x => x.pick numMin) tile s)

/-- MAX. -/
def execVMax (tile : Nat) (s : State) : Res := .next (vecPure 0x33 (fun x => x.pick numMax) tile s)

/-- The classes of FCLS as a mask (R122). -/
def classMask (f : Fmt) (e : Nat) : Nat :=
  match decFloat f e with
  | .nan => 1
  | .inf n => if n then 4 else 2
  | .fin _ m _ => if m = 0 then 8 else if f ≠ .lf32 ∧ (e / 2 ^ f.frac) % 256 = 0 then 16 else 0

/-- FCLS. -/
def execFcls (tile : Nat) (s : State) : Res :=
  .next (vecPure 0x34 (fun x => x.test (fun a _ => Nat.land (classMask x.fmt a) (x.i.imm20 % 32) != 0)) tile s)

/-! ## Conversions -/

/-- A result of one element on each executing lane in TY. -/
def VRun.toTy (x : VRun) (g : Word → Num) : VOut :=
  let f := x.fmt
  x.put x.u x.i.vd (x.lanes (fun t a _ _ =>
    let c := convScalar f x.mode (x.roundWord f t 0) (g a)
    (oneElem f (x.freeBits t) c.1, [c.2])))

/-- CVT: equal formats copy (R47); a pair and a one-element format meet in the low half (log 24). -/
def execCvt (tile : Nat) (s : State) : Res :=
  .next (vecPure 0x40 (fun x =>
    let src := (Fmt.ofCode (x.i.imm20 % 16)).getD .s32
    if src = x.fmt then x.put x.u x.i.vd (x.lanes (fun _ a _ _ => (a, [])))
    else x.toTy (fun a => regNum src ((elems src a).headD 0))) tile s)

/-- The lanes' values of a quad with their windows. -/
def VRun.xaLanes (x : VRun) (quad : Nat) (win : Nat) : List (Int × Int) :=
  List.zip (x.u.quad quad) ((x.u.reg win).map (fun t => t.toInt))

/-- CVTX: quad a with window T = b, rounded once to TY; its events count in the pair of a drain-coupled program
(R54, R135). -/
def execCvtx (tile : Nat) (s : State) : Res :=
  .next (vecPure 0x41 (fun x =>
    let f := x.fmt
    let vs := x.xaLanes x.i.va x.i.vb
    let rs := List.zipWith (fun (r : LaneRes) (e : (Int × Int) × Nat) => r.map (fun _ =>
        let c := convScalar f x.mode (x.roundWord f e.2 0) (xaNum e.1.2 e.1.1)
        (oneElem f (x.freeBits e.2) c.1, [c.2])))
      (x.lanes (fun _ a _ _ => (a, []))) (List.zip vs x.items)
    { x.put x.u x.i.vd rs with forPair := x.coupled }) tile s)

/-- An addend entering a window value, saturating at the range of XA128 (R54, R122). -/
def xaEnter (T v : Int) (xs : List Num) : Int × List Ev :=
  xs.foldl (fun st y =>
    let c := convXa T y
    let q := xaClamp (st.1 + c.1)
    (q.1, st.2 ++ [{ c.2 with sat := c.2.sat || q.2, inx := c.2.inx || q.2 }])) (v, [])

/-- XADD: quad d = quad d + entry of a into window T = b. -/
def execXadd (tile : Nat) (s : State) : Res :=
  .next (vecPure 0x42 (fun x =>
    let f := x.fmt
    let vs := x.xaLanes x.i.vd x.i.vb
    let rs := List.zipWith (fun (r : LaneRes) (e : Int × Int) => r.map (fun v =>
        xaEnter e.2 e.1 ((elems f v.1).map (regNum f)))) (x.lanes (fun _ a _ _ => (a, []))) vs
    let marks : List LaneRes := rs.map (fun r => r.map (fun v => (0, v.2)))
    { u := { (x.putQuad x.u x.i.vd (rs.map (fun r => r.map (·.1)))) with laneFlags := flagLanes marks x.u.laneFlags }
      acc := accLanes marks }) tile s)

/-! ## Tables and sequences (R126, R127) -/

/-- TLU: a seed table applied to each element. -/
def execTlu (tile : Nat) (s : State) : Res :=
  .next (vecPure 0x50 (fun x => x.flop (fun a _ _ => (tluValue x.i.imm20 a, false))) tile s)

/-- A sequence instruction (R74, R124, R127). -/
def VRun.seq (x : VRun) (fn : SeqFn) : VOut :=
  let f := x.fmt
  x.put x.u x.i.vd (x.lanes (fun t a b c =>
    elemsZip f a b c (fun h p q _ => seqApply fn f x.mode (x.roundWord f t h) (decFloat f p) (decFloat f q))))

/-- FRCP. -/
def execFrcp (tile : Nat) (s : State) : Res := .next (vecPure 0x51 (fun x => x.seq .rcp) tile s)

/-- FRSQ. -/
def execFrsq (tile : Nat) (s : State) : Res := .next (vecPure 0x52 (fun x => x.seq .rsq) tile s)

/-- FDIV. -/
def execFdiv (tile : Nat) (s : State) : Res := .next (vecPure 0x53 (fun x => x.seq .div) tile s)

/-- FSQRT. -/
def execFsqrt (tile : Nat) (s : State) : Res := .next (vecPure 0x54 (fun x => x.seq .sqrt) tile s)

/-- FEXP. -/
def execFexp (tile : Nat) (s : State) : Res := .next (vecPure 0x55 (fun x => x.seq .exp) tile s)

/-- FEXP2. -/
def execFexp2 (tile : Nat) (s : State) : Res := .next (vecPure 0x56 (fun x => x.seq .exp2) tile s)

/-- FLOG. -/
def execFlog (tile : Nat) (s : State) : Res := .next (vecPure 0x57 (fun x => x.seq .log) tile s)

/-- FLOG2. -/
def execFlog2 (tile : Nat) (s : State) : Res := .next (vecPure 0x58 (fun x => x.seq .log2) tile s)

/-- FSIN. -/
def execFsin (tile : Nat) (s : State) : Res := .next (vecPure 0x59 (fun x => x.seq .sin) tile s)

/-- FCOS. -/
def execFcos (tile : Nat) (s : State) : Res := .next (vecPure 0x5A (fun x => x.seq .cos) tile s)

/-- FTANH. -/
def execFtanh (tile : Nat) (s : State) : Res := .next (vecPure 0x5B (fun x => x.seq .tanh) tile s)

/-! ## Lane-reduce (R75, R128) -/

/-- One level of the pairing tree: a node with one masked input passes the other (R75). -/
def treeLevel (node : Nat → Num → Num → Num × Ev) : Nat → List (Option Num) → List (Option Num) × List Ev
  | k, a :: b :: xs =>
    let r := treeLevel node (k + 1) xs
    match a, b with
    | some u, some v => (some (node k u v).1 :: r.1, (node k u v).2 :: r.2)
    | some u, none => (some u :: r.1, r.2)
    | none, v => (v :: r.1, r.2)
  | _, xs => (xs, [])

/-- The pairing tree of `n` levels: its value and the events of its nodes. -/
def tree (node : Nat → Num → Num → Num × Ev) : Nat → Nat → List (Option Num) → Option Num × List Ev
  | 0, _, xs => ((xs.headD none), [])
  | n + 1, base, xs =>
    let r := treeLevel node base xs
    let q := tree node n (base + 1024) r.1
    (q.1, r.2 ++ q.2)

/-- The executing elements of VA in lane order, none where a lane is masked. -/
def VRun.reduceElems (x : VRun) : List (Option Num) :=
  let f := x.fmt
  (List.zipWith (fun (m : Bool) (a : Word) => (elems f a).map (fun e => if m then some (regNum f e) else none))
    x.mask (x.u.reg x.i.va)).flatten

/-- A stochastic word of a reduction, whose element index the spec does not state (log 24). -/
def VRun.freeWord (x : VRun) (k : Nat) : Nat :=
  if x.mode = .stochastic then x.openWord [1, k] % 2 ^ 32 else 0

/-- A node of the tree: rounds once to TY, to FP32 for BF16 (R75). -/
def VRun.node (x : VRun) (k : Nat) (a b : Num) : Num × Ev :=
  let f := if x.fmt = .bf16 then .fp32 else x.fmt
  let v := Num.add a b
  let c := invalidOr v.2 (convScalar f x.mode (x.freeWord k) v.1)
  (decScalar f 0 c.1, c.2)

/-- The result and events of a reduction in mode FN; in BF16 the FP32 root is rounded once more (R75, R128; log 127). -/
def VRun.reduceTo (x : VRun) : Nat × Acc :=
  let f := x.fmt
  let es := x.reduceElems
  let live := es.filterMap id
  let last (v : Num) (bad : Bool) (a : Acc) : Nat × Acc :=
    let c := invalidOr bad (convScalar f x.mode (x.freeWord 12000) v)
    (c.1, a.add c.2)
  match x.i.fn with
  | 0 =>
    let r := tree x.node (if f = .bf16 then 10 else 9) 0 es
    let v := r.1.getD (.fin false 0 0)
    let acc := r.2.foldl Acc.add {}
    if f = .bf16 then last v false acc else ((convScalar f .nearest 0 v).1, acc)
  | 1 =>
    let r := exactSum live
    last r.1 r.2.1 r.2.2
  | k =>
    if live.any Num.isNan then (f.canonNan, ({} : Acc).add { inv := true })
    else match live with
      | [] => (0, {})
      | v :: vs => ((convScalar f .nearest 0 (vs.foldl (if k = 2 then numMax else numMin) v)).1, {})

/-- LRED of XA128: exact sum in the window max T + 9 (R128). -/
def VRun.reduceXa (x : VRun) : VOut :=
  let m := x.mask
  let live := ((List.zip m (x.xaLanes x.i.va x.i.vb)).filter (·.1)).map (·.2)
  match live with
  | [] => { u := x.putQuad (x.u.setReg x.i.vc (mergeLanes x.i.zm (m.map (fun _ => none)) (x.u.reg x.i.vc))) x.i.vd (m.map (fun _ => none)) }
  | v :: vs =>
    let T := vs.foldl (fun a b => max a b.2) v.2 + 9
    let es := (v :: vs).map (fun e => convXa T (xaNum e.2 e.1))
    let sum := es.foldl (fun a e => a + e.1) 0
    let evs := es.map (·.2)
    let marks : List LaneRes := m.map (fun b => if b then some (BitVec.ofInt 32 T, evs) else none)
    let u := x.putQuad x.u x.i.vd (m.map (fun b => if b then some sum else none))
    { u := { (u.setReg x.i.vc (mergeLanes x.i.zm marks (u.reg x.i.vc))) with laneFlags := flagLanes marks u.laneFlags }
      acc := evs.foldl Acc.add {} }

/-- LRED: the result to every executing lane; its flags reach every executing lane, its counts once (log 24). -/
def execLred (tile : Nat) (s : State) : Res :=
  .next (vecPure 0x60 (fun x =>
    if x.i.ty = 11 then x.reduceXa
    else
      let r := x.reduceTo
      let o := x.put x.u x.i.vd (x.lanes (fun t _ _ _ => (oneElem x.fmt (x.freeBits t) r.1, [r.2.flags])))
      if x.mask.any id then { o with acc := r.2 } else o) tile s)

end Sys2Proof.Machine
end

