-- ==== Sys2Proof/Machine/VecMem.lean ====
section
/-! DEFINITION. The memory and drain instructions of the vector engine (R129-R134). -/

namespace Sys2Proof.Machine
open Sys2Proof

/-- What a memory instruction touches on one lane: offset and length of each piece, and the bit a 4-bit element
starts at or the element's place in its block. -/
structure LaneAcc where
  lane : Nat
  item : Nat
  block : Nat := 0
  ix : Nat := 0
  spans : List (Int × Nat)

/-- Bytes of one block's mantissas (R37). -/
def mantBytes (f : Fmt) : Nat := if f = .bs4 then 16 else 32

/-- The element of a block or 4-bit format that begins at byte `c` past the base (R35, R37, R122): of a byte with two, the
one in bits 0..3. At a block's exponent none begins: which element of that block is meant is open (log 26). -/
def VRun.elemAt (x : VRun) (c item : Nat) : Nat :=
  let f := x.fmt
  let r := c % f.groupBytes
  if f.isBlock = false then 2 * c
  else c / f.groupBytes * 1024 +
    (if r < 32 then 32 * r + x.openWord [5, item] % 32
     else (r - 32) / mantBytes f * 32 + (r - 32) % mantBytes f * (32 / mantBytes f))

/-- The pieces of an element at base `b`: raw, block, 4-bit, or plain (R35, R37, R129). `k` is the item, or the byte
offset an index register gives (R122). -/
def accOf (x : VRun) (b : Int) (indexed : Bool) (lane k item : Nat) : LaneAcc :=
  let f := x.fmt
  let k := if indexed && x.i.fn != 0 && (f.isBlock || f.elemBits == 4) then x.elemAt k item else k
  if x.i.fn = 0 then { lane := lane, item := item, spans := [(b + (if indexed then k else 4 * k : Nat), 4)] }
  else if f.isBlock then
    let g := k / 1024
    let q := k % 1024 / 32
    { lane := lane, item := item, block := k / 32, ix := k % 32,
      spans := [(b + (g * f.groupBytes + q : Nat), 1), (b + (g * f.groupBytes + 32 + q * mantBytes f : Nat), mantBytes f)] }
  else if f.elemBits = 4 then { lane := lane, item := item, ix := k % 2, spans := [(b + (k / 2 : Nat), 1)] }
  else
    let n := f.elemBits / 8
    { lane := lane, item := item, spans := [(b + (if indexed then k else n * k : Nat), n)] }

/-- The access of lane `l`: by its item, or by the index register VC (R129). -/
def VRun.accAt (x : VRun) (indexed : Bool) (l : Nat) : LaneAcc :=
  let b : Int := (hOff (x.u.b x.i.vb).toNat : Int) + x.i.imm
  let item := x.items.getD l 0
  accOf x b indexed l (if indexed then ((x.u.reg x.i.vc).getD l 0).toNat else item) item

/-- The executing lanes' accesses in lane order. -/
def VRun.accs (x : VRun) (indexed : Bool) : List LaneAcc :=
  ((List.range 512).filter (fun l => x.mask.getD l false)).map (x.accAt indexed)

/-- The object of a memory instruction. -/
def VRun.memObj (x : VRun) : Nat := hObj (x.u.b x.i.vb).toNat

/-- Why a piece may not be accessed: R10, R23, and the scratchpad of the die (R129); a row that has moved off this module
is in no scratchpad (log 62); a page that drains holds the access in its line (R323). -/
def pieceStop (w : Work) (s : State) (n : Nat) (store : Bool) (p : Int × Nat) : Option Stop :=
  let o := objOf s n
  if p.1 < 0 ∨ o.spans p.1.toNat p.2 = false ∨ mayName w s o = false then some (.status Status.handle)
  else if store && w.qc && o.trainingState then some (.status Status.cls)
  else
    match (pieces 65536 2 p.1.toNat p.2).findSome? (fun q => match locatePage s o q.1 with
      | .here a => if tierOf a == 0 && unitDie (unitOf a) == w.die then none else some (Stop.status Status.tier)
      | .wait => some (.line (linePage n (q.1 / 65536)))
      | _ => some (.status Status.tier)) with
    | some e => some e
    | none => (spans16 p.1.toNat p.2).findSome? (fun q => match locate s o q.1 with
      | .here _ => none
      | .wait => some (.line (linePage n (q.1 / 65536)))
      | .stop st => some (.status st)
      | _ => some (.status Status.tier))

/-- The first piece of an instruction that may not be accessed, in lane order. -/
def accsStop (w : Work) (s : State) (n : Nat) (store : Bool) (as : List LaneAcc) : Option Stop :=
  as.findSome? (fun a => a.spans.findSome? (pieceStop w s n store))

/-- The pages the accesses of an instruction touch. -/
def pagesTouched (as : List LaneAcc) : List Nat :=
  ((as.flatMap (fun a => a.spans.flatMap (fun p => [p.1.toNat / 65536, (p.1.toNat + p.2 - 1) / 65536]))).eraseDups)

/-- An access goes on when it is its turn in the lines of its pages (R323). -/
def takeTurns (n : Nat) (as : List LaneAcc) : Eng Unit := do
  let c ← get
  if c.s.lines.isEmpty then pure () else eachDo (fun p => takeTurn (linePage n p)) (pagesTouched as)

/-- One sampled access for each 256-byte span an instruction touches (R320). -/
def sampleSpans (s : State) (die n : Nat) (as : List LaneAcc) : State :=
  ((as.flatMap (fun a => a.spans.map (fun p => p.1.toNat / 256))).eraseDups).foldl (fun s k =>
    let o := objOf s n
    match locate s o (256 * k) with
    | .here a => sampleAccess s o (256 * k) a die (self s)
    | _ => s) s

/-- What a load does beside moving bytes: host-held lines, samples, byte counts (R320, R332, R404). -/
def touchLoads (s : State) (die n : Nat) (as : List LaneAcc) : State :=
  let ps := as.flatMap (fun a => a.spans)
  let s := ps.foldl (fun s p => snoopRange s n p.1.toNat p.2 false) s
  let s := sampleSpans s die n as
  ps.foldl (fun s p => (spans16 p.1.toNat p.2).foldl (fun s q => match locate s (objOf s n) q.1 with
    | .here a => countBytes s false a q.2
    | _ => s) s) s

/-- The register format FN selects (R130). -/
def fnFmt (fn : Nat) : Fmt :=
  match fn with
  | 1 => .fp32
  | 2 => .lf32
  | _ => .s32

/-- The exact value a lane loads (R36, R130). -/
def loadNum (f : Fmt) (a : LaneAcc) (ds : List (List Byte)) : Num :=
  let d := ds.headD []
  if f.isBlock then
    let m := ds.getD 1 []
    let v := if f = .bs4 then bits (field m (a.ix / 2) 1) (4 * (a.ix % 2)) 4 else field m a.ix 1
    decBlockElem f (leNat d) v
  else if f.elemBits = 4 then decScalar f 0 (bits (leNat d) (4 * a.ix) 4)
  else decScalar f 0 (leNat d)

/-- Bytes of one row of an object: of the version a query's reads are resolved to where it has its own (R28, R240), else
in place; none at poison. -/
def readUnder (s : State) (o : Obj) (v : Option Nat) (off len : Nat) : Option (List Byte) :=
  match v.bind (rowUnder o (off / o.pitch)) with
  | some bs => some ((bs.drop (off % o.pitch)).take len)
  | none => readLocal s o off len

/-- The version the loads of a query are resolved to (R28): none for the training class and for an object without versions. -/
def VRun.loadVer (x : VRun) : Eng (Option Nat) := do
  let o := objOf (← getS) x.memObj
  if x.w.qc && o.versioned then return some (← queryVer o) else pure none

/-- What a lane loads: the register word and the event of its conversion; none at poison (R129, R130). -/
def VRun.loadLane (x : VRun) (s : State) (v : Option Nat) (a : LaneAcc) : LaneRes :=
  let f := x.fmt
  let rf := fnFmt x.i.fn
  let ds := a.spans.map (fun p => readUnder s (objOf s x.memObj) v p.1.toNat p.2)
  if ds.any Option.isNone then none
  else
    let bs := ds.map (fun d => d.getD [])
    if x.i.fn = 0 ∨ f = rf then some (BitVec.ofNat 32 (leNat (bs.headD [])), [])
    else
      let c := convScalar rf x.mode (x.roundWord rf a.item 0) (loadNum f a bs)
      some (BitVec.ofNat 32 c.1, [c.2])

/-- A load (R129-R131). -/
def VRun.load (x : VRun) (indexed : Bool) : Eng VOut := do
  let as := x.accs indexed
  let s ← getS
  match accsStop x.w s x.memObj false as with
  | some e => throw e
  | none =>
    takeTurns x.memObj as
    let v ← x.loadVer
    modS (fun s => touchLoads s (x.tile / 16) x.memObj as)
    if as.any (fun a => (x.loadLane s v a).isNone) then stopWith Status.poison
    else pure (x.put x.u x.i.vd ((List.range 512).map (fun l =>
      if x.mask.getD l false then x.loadLane s v (x.accAt indexed l) else none)))

/-- LDI. -/
def execLdi (tile : Nat) (s : State) : Res := .next (vecStep 0x70 (fun x => x.load false) tile s)

/-- LDX. -/
def execLdx (tile : Nat) (s : State) : Res := .next (vecStep 0x71 (fun x => x.load true) tile s)

/-- The exact value of a register in format FN (R130). -/
def storeNum (fn : Nat) (v : Word) : Num := decScalar (fnFmt fn) 0 v.toNat

/-- Writes bytes of an object for a vector store: host-held lines, R239, the bytes and what follows them. -/
def putBytes (s : State) (n : Nat) (p : Int × Nat) (bs : List Byte) : Except Stop State :=
  match draftRows (snoopRange s n p.1.toNat bs.length true) n p.1.toNat bs.length with
  | .wait => .error (.line (lineDraft (objOf s n).tslot))
  | .stop st => .error (.status st)
  | .ok s => .ok (writeLocal s (objOf s n) p.1.toNat bs)

/-- The last byte of a row of an odd count of S4 or U4 elements holds one of them: bits 4..7 are written as zero (R35). -/
def halfByte (o : Obj) (off : Nat) : Bool :=
  (o.format == .s4 || o.format == .u4) && o.rowlen % 2 == 1 && off % o.pitch == o.rowlen / 2

/-- A byte with one of its 4-bit elements replaced. -/
def withNibble (old ix v : Nat) : Nat := old - bits old (4 * ix) 4 * 16 ^ ix + v % 16 * 16 ^ ix

/-- Writes a 4-bit element (R35). -/
def putNibble (s : State) (n : Nat) (p : Int × Nat) (ix v : Nat) : Except Stop State :=
  match readLocal s (objOf s n) p.1.toNat p.2 with
  | none => .error (.status Status.poison)
  | some bs =>
    let b := withNibble (leNat bs) ix v
    putBytes s n p (leBytes 1 (if halfByte (objOf s n) p.1.toNat then b % 16 else b))

/-- A store of one lane: its events. A lane stores one element, no pair, so its generator word is the item's
(R133). -/
def VRun.storeLane (x : VRun) (s : State) (a : LaneAcc) (v : Word) : Except Stop (State × List Ev) :=
  let f := x.fmt
  let p := a.spans.headD (0, 0)
  if x.i.fn = 0 ∨ f = fnFmt x.i.fn then (putBytes s x.memObj p (leBytes 4 v.toNat)).map (fun s => (s, []))
  else
    let c := convScalar f x.mode (x.roundWord .fp32 a.item 0) (storeNum x.i.fn v)
    if f.elemBits = 4 then (putNibble s x.memObj p a.ix c.1).map (fun s => (s, [c.2]))
    else (putBytes s x.memObj p (leBytes p.2 c.1)).map (fun s => (s, [c.2]))

/-- The stores of the lanes in ascending order, so the highest lane's bytes stand (R131): state and events by
lane. -/
def VRun.storeLanes (x : VRun) : List LaneAcc → State → Except Stop (State × List (Nat × List Ev))
  | [], s => .ok (s, [])
  | a :: as, s => match x.storeLane s a ((x.u.reg x.i.va).getD a.lane 0) with
    | .error e => .error e
    | .ok r => (x.storeLanes as r.1).map (fun q => (q.1, (a.lane, r.2) :: q.2))

/-- Writes the exponent of a block and the mantissa of one of its elements where R37 places them. -/
def putMant (f : Fmt) (s : State) (n : Nat) (a : LaneAcc) (e : Nat) (m : Int) : Except Stop State :=
  match putBytes s n (a.spans.headD (0, 0)) (leBytes 1 e) with
  | .error x => .error x
  | .ok s =>
    let b := (a.spans.getD 1 (0, 0)).1
    let v := unsigned f.elemBits m
    if f = .bs4 then putNibble s n (b + (a.ix / 2 : Nat), 1) (a.ix % 2) v else putBytes s n (b + (a.ix : Nat), 1) (leBytes 1 v)

/-- Writes the mantissas of several lanes' elements. -/
def putMants (f : Fmt) (n e : Nat) : List (LaneAcc × Int) → State → Except Stop State
  | [], s => .ok s
  | a :: as, s => match putMant f s n a.1 e a.2 with
    | .error x => .error x
    | .ok s => putMants f n e as s

/-- The mantissa bytes of a block (R35, R37). -/
def mantData (f : Fmt) (ms : List Int) : List Byte :=
  let codes := ms.map (unsigned f.elemBits)
  if f = .bs4 then (List.range 16).map (fun i => BitVec.ofNat 8 (codes.getD (2 * i) 0 + 16 * codes.getD (2 * i + 1) 0))
  else codes.map (BitVec.ofNat 8)

/-- A store of the block that lanes 32q to 32q + 31 form, zero where a lane does not execute (R52, R129, R130), with each
lane's event. Where their elements are those of one block of the object, all of it is written; where they are not, each
element goes to its own position under R37 (log 135). -/
def VRun.storeBlock (x : VRun) (s : State) (as : List (LaneAcc × Word)) : Except Stop (State × List (Nat × List Ev)) :=
  let f := x.fmt
  match as with
  | [] => .ok (s, [])
  | (a, _) :: _ =>
    let xs := (List.range 32).map (fun j => match as.find? (fun e => e.1.lane % 32 == j) with
      | some e => (storeNum x.i.fn e.2, x.roundWord f e.1.item 0)
      | none => (Num.fin false 0 0, 0))
    let c := convBlock f x.mode xs
    let at_ := blockAt f x.mode xs
    let evs := as.map (fun e => (e.1.lane, [(blockElem f x.mode at_ (storeNum x.i.fn e.2) (x.roundWord f e.1.item 0)).2]))
    (if as.all (fun e => e.1.block == a.block && e.1.ix == e.1.lane % 32) then
      (match putBytes s x.memObj (a.spans.headD (0, 0)) (leBytes 1 c.1) with
        | .error e => .error e
        | .ok s => putBytes s x.memObj (a.spans.getD 1 (0, 0)) (mantData f c.2.1))
    else putMants f x.memObj c.1 (as.map (fun e => (e.1, c.2.1.getD (e.1.lane % 32) 0))) s).map (fun s => (s, evs))

/-- The stores of the blocks the lanes form, in lane order. -/
def VRun.storeBlocks (x : VRun) (as : List LaneAcc) : List Nat → State → Except Stop (State × List (Nat × List Ev))
  | [], s => .ok (s, [])
  | q :: qs, s =>
    match x.storeBlock s ((as.filter (fun a => a.lane / 32 == q)).map (fun a => (a, (x.u.reg x.i.va).getD a.lane 0))) with
    | .error e => .error e
    | .ok r => (x.storeBlocks as qs r.1).map (fun v => (v.1, r.2 ++ v.2))

/-- What the lanes of a store leave (R130, R131). -/
def VRun.storeAll (x : VRun) (as : List LaneAcc) (s : State) : Except Stop (State × List (Nat × List Ev)) :=
  if x.fmt.isBlock ∧ x.i.fn ≠ 0 then x.storeBlocks as (List.range 16) s else x.storeLanes as s

/-- A store (R129-R131). -/
def VRun.store (x : VRun) (indexed : Bool) : Eng VOut := do
  let as := x.accs indexed
  let s ← getS
  match accsStop x.w s x.memObj true as with
  | some e => throw e
  | none =>
    takeTurns x.memObj as
    if (objOf s x.memObj).versioned then takeTurn (lineDraft (objOf s x.memObj).tslot)
    match x.storeAll as (sampleSpans (← getS) (x.tile / 16) x.memObj as) with
    | .error e => throw e
    | .ok r =>
      modS (fun _ => r.1)
      let marks : List LaneRes := (List.range 512).map (fun l => (r.2.find? (fun v => v.1 == l)).map (fun v => (0, v.2)))
      pure { u := { x.u with laneFlags := flagLanes marks x.u.laneFlags }, acc := accLanes marks }

/-- STI. -/
def execSti (tile : Nat) (s : State) : Res := .next (vecStep 0x72 (fun x => x.store false) tile s)

/-- STX. -/
def execStx (tile : Nat) (s : State) : Res := .next (vecStep 0x73 (fun x => x.store true) tile s)

/-- Why an element may not be the target of an STA (R10, R23, R129, R232); B(VB) naming no adder target ends FAULT_HANDLE
(log 151). -/
def elemStop (w : Work) (s : State) (n elem ty : Nat) : Option Stop :=
  let o := objOf s n
  if !o.adderTarget || !mayName w s o || !o.spans (o.elemOff elem) o.elemBytes then some (.status Status.handle)
  else if w.qc && o.trainingState then some (.status Status.cls)
  else match locate s o (o.elemOff elem) with
    | .hostM _ => some (.status Status.tier)
    | .stop st => some (.status st)
    | _ => if o.fmt != 4 || ty == 4 then none else some (.status Status.format)

/-- The elements a lane adds to and the patterns it sends (R132): of a BF16 pair the low element goes to element c, the high
one to element c + 1 (log 129). -/
def VRun.addElems (x : VRun) (l : Nat) : List (Nat × Nat) :=
  let c := ((x.u.reg x.i.vc).getD l 0).toNat
  if x.fmt = .xa128 then [(c, unsigned 128 ((x.u.quad x.i.va).getD l 0))]
  else (elems x.fmt ((x.u.reg x.i.va).getD l 0)).zipIdx.map (fun e => (c + e.2, e.1))

/-- The window of a lane's addend (R132). -/
def VRun.addWin (x : VRun) (l : Nat) : Int := if x.fmt = .xa128 then ((x.u.reg x.i.vd).getD l 0).toInt else 0

/-- The addends of an STA in lane order: window, element, pattern (R132). -/
def VRun.addList (x : VRun) : List (Int × Nat × Nat) :=
  ((List.range 512).filter (fun l => x.mask.getD l false)).flatMap (fun l =>
    (x.addElems l).map (fun e => (x.addWin l, e.1, e.2)))

/-- STA: each executing lane's value to the adder of element c of the target B(VB) (R132). -/
def VRun.sta (x : VRun) : Eng VOut := do
  let as := x.addList
  let s ← getS
  if as.any (fun a => decide (a.1 < -4096) || decide (4095 < a.1)) then stopWith Status.format
  else match as.findSome? (fun a => elemStop x.w s x.memObj a.2.1 x.i.ty) with
    | some e => throw e
    | none =>
      eachDo (fun (a : Int × Nat × Nat) => sendAddend x.memObj a.2.1 x.fmt a.1 a.2.2) as
      pure { u := x.u }

/-- STA. -/
def execSta (tile : Nat) (s : State) : Res := .next (vecStep 0x74 VRun.sta tile s)

/-! ## The drain queue (R134) -/

/-- The drain row and column of each executing lane once the batch's rows have arrived. -/
def VRun.drainRows (x : VRun) : Eng (List DrainRow) := do
  let s ← getS
  let a := arrOf s x.tile
  let n := batchRows x.u
  if n ≤ a.queue.length then pure (a.queue.take n)
  else if x.u.cancel then stopWith Status.cancelled
  else throw .wait

/-- The value of a lane's drain output (mode VEC): encoded bits with the block exponent, exact value. -/
def drainNum (f : Fmt) (v : Int × Int) : Num :=
  if f.isBlock then decBlockElem f v.2.toNat (unsigned f.elemBits v.1) else decScalar f 0 v.1.toNat

/-- What DRV gives a lane: rounded drain output, whose format is the matrix descriptor's output format whatever TY names
(log 130), in register format FN; rows of mode RAW hold none (log 24). -/
def VRun.drvLane (x : VRun) (rows : List DrainRow) (l item : Nat) : Word × List Ev :=
  let c := x.u.shape.getD 2 128
  let f := (Fmt.ofCode (x.u.shape.getD 4 0)).getD .s32
  let v := ((rows.getD (l / c) { row := 0, col := 0, vals := [] }).vals).getD (l % c) (0, 0)
  let free := x.openWord [2, item]
  if x.u.shape.getD 3 0 != 1 then (BitVec.ofNat 32 free, [])
  else if x.i.fn = 0 then
    ((if f.isBlock then BitVec.ofNat 32 free else oneElem f free (unsigned 32 v.1)), [])
  else if f = fnFmt x.i.fn then (BitVec.ofInt 32 v.1, [])
  else
    let q := convScalar (fnFmt x.i.fn) x.mode (x.roundWord (fnFmt x.i.fn) item 0) (drainNum f v)
    (BitVec.ofNat 32 q.1, [q.2])

/-- DRV (R134). -/
def VRun.drv (x : VRun) : Eng VOut := do
  let rows ← x.drainRows
  let rs : List LaneRes := (List.range 512).map (fun l =>
    if x.mask.getD l false then some (x.drvLane rows l (x.items.getD l 0)) else none)
  pure (x.put { x.u with drained := true } x.i.vd rs)

/-- DRV. -/
def execDrv (tile : Nat) (s : State) : Res := .next (vecStep 0x80 VRun.drv tile s)

/-- What DRX gives a lane: the raw accumulator value and its window; rounded rows hold none (log 24). -/
def VRun.drxLane (x : VRun) (rows : List DrainRow) (l item : Nat) : Int × Int :=
  let c := x.u.shape.getD 2 128
  if x.u.shape.getD 3 0 == 2 then ((rows.getD (l / c) { row := 0, col := 0, vals := [] }).vals).getD (l % c) (0, 0)
  else (signed 128 (x.openWord [3, item]), signed 32 (x.openWord [4, item]))

/-- DRX (R134). -/
def VRun.drx (x : VRun) : Eng VOut := do
  let rows ← x.drainRows
  let on (l : Nat) : Bool := x.mask.getD l false
  let u := x.putQuad { x.u with drained := true } x.i.vd
    ((List.range 512).map (fun l => if on l then some (x.drxLane rows l (x.items.getD l 0)).1 else none))
  let ws : List LaneRes := (List.range 512).map (fun l =>
    if on l then some (BitVec.ofInt 32 (x.drxLane rows l (x.items.getD l 0)).2, []) else none)
  pure { u := u.setReg x.i.vc (mergeLanes x.i.zm ws (u.reg x.i.vc)) }

/-- DRX. -/
def execDrx (tile : Nat) (s : State) : Res := .next (vecStep 0x81 VRun.drx tile s)

end Sys2Proof.Machine
end

