-- ==== Sys2Proof/Machine/Vector.lean ====
section
/-! DEFINITION. The start of vector descriptors (R117, R118, R134, R135, R139), the instruction limit (R119), and
the control, base-register and integer instructions of R122. -/

namespace Sys2Proof.Machine
open Sys2Proof

/-! ## Descriptor start -/

/-- The checks of a vector descriptor before it touches memory (R48, R135, R139): 0 when all pass. Their order, and that
ITEMS of an instantiated descriptor is neither checked nor used, are the model's choices (log 151). -/
def vecChecks (s : State) (w : Work) (pairOk : Bool) : Nat :=
  let plen := w.f 36 2
  if plen = 0 ∨ 4096 < plen ∨ plen ≤ w.f 38 2 ∨ (w.op = 0x0200 ∧ w.f 32 4 = 0 ∧ w.batch = none) then Status.shape
  else if w.rnd = 3 then Status.format
  else if !pairOk then Status.drain
  else if !handleOk w s (w.f 16 8) (8 * plen) || !handleOk w s (w.f 24 8) 128 then Status.handle
  else if !inScratch s w.die (w.f 16 8) (8 * plen) || !inScratch s w.die (w.f 24 8) 128 then Status.tier
  else 0

/-- Numbers of `n` bytes each from a list of bytes. -/
def chunkNats (n : Nat) : Nat → List Byte → List Nat
  | 0, _ => []
  | k + 1, bs => leNat (bs.take n) :: chunkNats n k (bs.drop n)

/-- M, N, C, drain mode and output format of the paired matrix descriptor, and where its OUT lies (R106, R134). -/
def pairShape (s : State) (m : Work) : List Nat :=
  let o := objOf s (hObj (m.f 32 8))
  [m.mM, m.mN, colWidth m.mFmt, m.mMode, if m.mMode = 2 then o.fmt else m.mOutCode, outPitch s m, o.pitch, o.rowlen, hOff (m.f 32 8)]

/-- Loads program and parameter block (R118, R139): the unit that starts batch 0, or FAULT_VPROG. A program held under the
same handle and not written since is not loaded again, whatever PLEN selects of it (log 122). -/
def loadVec (tile : Nat) (w : Work) (pair : Option Work) : Eng Unit := do
  let s ← getS
  let u := vecOf s tile
  let h := w.f 16 8
  let plen := w.f 36 2
  let stamp := (objOf s (hObj h)).stamp
  let held := u.prog == h && u.progStamp == some stamp
  let words ← if held && decide (plen ≤ u.words.length) then pure (u.words.take plen) else do
    modS (fun s => if held then s else bump s (Key.vecProgLoads + tile) 1)
    pure (chunkNats 8 plen (← rdH h (8 * plen)))
  let par ← rdH (w.f 24 8) 128
  if vprogOk words (w.f 38 2) (w.op == 0x0201) w.batch.isSome then
    let base := Tab.setRange 0 [] 0 ((chunkNats 8 16 par).map (BitVec.ofNat 64))
    let n : VecUnit := { work := some w.ref, limit := reg s Key.vecLimitDefault, prog := h, progStamp := some stamp, words := words, base := base
                         pair := pair.map (·.ref)
                         shape := (match pair with
                           | some m => pairShape s m
                           | none => [])
                         outRows := (match pair with
                           | some m => if m.op = 0x0103 then m.names else []
                           | none => []) }
    match batchItems n w 0 with
    | some its => modS (fun s => setVec s tile (beginBatch n w 0 its))
    | none => stopWith Status.shape
  else do
    modS (fun s => setVec s tile { u with words := words, prog := h, progStamp := some stamp })
    stopWith Status.vprog

/-- A matrix descriptor that a drain-coupled one names and that is not on its tile, because its queue belongs to another
cluster, completes FAULT_DRAIN too (R135). -/
def failStray (s : State) (w : Work) : State :=
  match s.work.find? (fun m => m.cls == 1 && m.tag == w.f 40 4 && m.dsp != w.dsp &&
      (decide (m.phase = .running) || decide (m.phase = .fetched))) with
  | none => s
  | some m =>
    if m.phase = .running then endPair s m.unit { pair := some m.ref } Status.drain
    else setWork s { m with phase := .done, status := Status.drain }

/-- The matrix descriptor that a drain-coupled one names completes CANCELLED when that one stops with a fault (R135). -/
def cancelNamed (s : State) (w : Work) : State :=
  match (if w.op = 0x0201 then pairOf s w else none) with
  | none => s
  | some m =>
    if m.phase = .running then endPair s m.unit { pair := some m.ref } Status.cancelled
    else setWork s { m with phase := .done, status := Status.cancelled }

/-- Starts a vector descriptor on its tile; it runs until its last batch ends. -/
def startVec (op : Nat) (r : WRef) (s : State) : State :=
  match findWork s r with
  | none => s
  | some w =>
    if w.op ≠ op ∨ w.phase ≠ .fetched ∨ computing s = false ∨ startable s w = false ∨ cancelled s w = true then s
    else
      let st := headerStatus s w
      if st ≠ 0 then cancelNamed (setWork s { w with phase := .done, status := st }) w
      else
        let s := markReady s
        match tileFor s w, issue s w with
        | some tile, some s =>
          let pair := if op = 0x0201 then pairOf s w else none
          let mode := (pair.map (fun m => m.f 60 1 % 4)).getD 0
          let ok := op != 0x0201 || (pair.isSome && (mode == 1 || mode == 2))
          let st := vecChecks s w ok
          if st ≠ 0 then
            let s := setWork s { w with phase := .done, status := st }
            match pair with
            | some m => endPair s m.unit { pair := some m.ref } (if st = Status.drain then st else Status.cancelled)
            | none => if st = Status.drain then failStray s w else s
          else
            let p := started s w tile
            let x := ((loadVec tile p.2 pair).run).run { s := p.1, w := p.2, die := w.die }
            (match x.1 with
              | .ok _ => x.2.s
              | .error (.status code) => endPair (setWork x.2.s { p.2 with phase := .done, status := code }) tile
                  { pair := pair.map (·.ref) } Status.cancelled
              | .error (.line k) => joinLine s k r
              | .error _ => s)
        | _, _ => s

/-- VECTOR_PROGRAM (R117). -/
def execVectorProgram (r : WRef) (s : State) : Res := .next (startVec 0x0200 r s)

/-- DRAIN_COUPLED_PROGRAM (R134). -/
def execDrainCoupledProgram (r : WRef) (s : State) : Res := .next (startVec 0x0201 r s)

/-- INSTRUCTION_LIMIT: the batch would issue more instructions than its limit (R119). -/
def execInstructionLimit (tile : Nat) (s : State) : Res :=
  .next (match nextIns s tile with
    | some (w, _) => if limitOf (vecOf s tile) w ≤ (vecOf s tile).issued then faultVec s tile Status.timeout else s
    | none => s)

/-! ## Control and base registers -/

/-- The instruction's unit with nothing changed but the position. -/
def VRun.same (x : VRun) : VOut := { u := x.u }

/-- Branches by IMM20 when `b` holds. -/
def VRun.branch (x : VRun) (b : Bool) : VOut :=
  { u := if b then { x.u with pos := ((x.pos : Int) + x.i.imm).toNat } else x.u }

/-- NOP. -/
def execVecNop (tile : Nat) (s : State) : Res := .next (vecPure 0x00 VRun.same tile s)

/-- END: the batch ends (R117). -/
def execVEnd (tile : Nat) (s : State) : Res :=
  .next (vecPure 0x01 (fun x => { u := { x.u with pos := x.u.words.length } }) tile s)

/-- BRA. -/
def execBra (tile : Nat) (s : State) : Res := .next (vecPure 0x02 (fun x => x.branch true) tile s)

/-- LOOP: L(VD) − 1; branch if the result is not 0. -/
def execVLoop (tile : Nat) (s : State) : Res :=
  .next (vecPure 0x03 (fun x =>
    let v := x.u.l x.i.vd - 1
    let o := x.branch (v != 0)
    { o with u := { o.u with loops := Tab.set 0 o.u.loops (x.i.vd % 4) v } }) tile s)

/-- SETL. -/
def execSetl (tile : Nat) (s : State) : Res :=
  .next (vecPure 0x04 (fun x =>
    { u := { x.u with loops := Tab.set 0 x.u.loops (x.i.vd % 4) (BitVec.ofNat 32 x.i.imm32) } }) tile s)

/-- Some executing lane has Q(VA) = 1. -/
def VRun.anyQ (x : VRun) : Bool := (List.zipWith (· && ·) x.mask (x.u.pred x.i.va)).any id

/-- BANY. -/
def execBany (tile : Nat) (s : State) : Res := .next (vecPure 0x05 (fun x => x.branch x.anyQ) tile s)

/-- BNONE. -/
def execBnone (tile : Nat) (s : State) : Res := .next (vecPure 0x06 (fun x => x.branch (!x.anyQ)) tile s)

/-- MOVI: every lane, unpredicated. -/
def execMovi (tile : Nat) (s : State) : Res :=
  .next (vecPure 0x07 (fun x => { u := x.u.setReg x.i.vd (List.replicate 512 (BitVec.ofNat 32 x.i.imm32)) }) tile s)

/-- Sets base register VD. -/
def VRun.putB (x : VRun) (v : DWord) : VOut := { u := { x.u with base := Tab.set 0 x.u.base (x.i.vd % 16) v } }

/-- A handle with its offset field increased, modulo 2^40. -/
def addOff (h : Nat) (d : Int) : DWord := BitVec.ofNat 64 (hObj h * 2 ^ 40 + unsigned 40 (hOff h + d))

/-- MOVB. -/
def execMovb (tile : Nat) (s : State) : Res := .next (vecPure 0x08 (fun x => x.putB (x.u.b x.i.va)) tile s)

/-- ADDB. -/
def execAddb (tile : Nat) (s : State) : Res :=
  .next (vecPure 0x09 (fun x => x.putB (addOff (x.u.b x.i.va).toNat (hOff (x.u.b x.i.vb).toNat))) tile s)

/-- ADDBI. -/
def execAddbi (tile : Nat) (s : State) : Res :=
  .next (vecPure 0x0A (fun x => x.putB (addOff (x.u.b x.i.va).toNat (signed 32 x.i.imm32))) tile s)

/-- The lane numbers in place of a register. -/
def laneIds : List Word := (List.range 512).map (BitVec.ofNat 32)

/-- MOVX: lane index, item or batch number. -/
def execMovx (tile : Nat) (s : State) : Res :=
  .next (vecPure 0x0B (fun x =>
    x.put x.u x.i.vd (lanesOn x.mask x.items laneIds laneIds laneIds (fun t l _ _ =>
      ((match x.i.imm20 with
        | 0 => l
        | 1 => BitVec.ofNat 32 t
        | _ => BitVec.ofNat 32 x.u.batch), [])))) tile s)

/-! ## Integer instructions -/

/-- A lane operation without events. -/
def VRun.quiet (x : VRun) (f : Word → Word → Word) : VOut := x.put x.u x.i.vd (x.lanes (fun _ a b _ => (f a b, [])))

/-- An exact integer result saturated to the range of TY (R50). -/
def VRun.satOp (x : VRun) (f : Int → Int → Int) : VOut :=
  x.put x.u x.i.vd (x.lanes (fun _ a b _ =>
    let c := convInt x.fmt .nearest 0 (Num.ofInt (f (regInt x.fmt a) (regInt x.fmt b)))
    (BitVec.ofInt 32 c.1, if c.2.sat then [c.2] else [])))

/-- The shift count: a register, or IMM20 (FN = 1). -/
def VRun.count (x : VRun) (b : Word) : Nat := (if x.i.fn = 0 then b.toNat else x.i.imm20) % 32

/-- ADD. -/
def execVAdd (tile : Nat) (s : State) : Res := .next (vecPure 0x10 (fun x => x.quiet (fun a b => a + b)) tile s)

/-- SUB. -/
def execVSub (tile : Nat) (s : State) : Res := .next (vecPure 0x11 (fun x => x.quiet (fun a b => a - b)) tile s)

/-- MUL. -/
def execVMul (tile : Nat) (s : State) : Res := .next (vecPure 0x12 (fun x => x.quiet (fun a b => a * b)) tile s)

/-- MULH: signed for S32, unsigned for U8. -/
def execMulh (tile : Nat) (s : State) : Res :=
  .next (vecPure 0x13 (fun x => x.quiet (fun a b =>
    BitVec.ofInt 32 ((regInt x.fmt a * regInt x.fmt b) / (2 ^ 32 : Nat)))) tile s)

/-- ADDS. -/
def execAdds (tile : Nat) (s : State) : Res := .next (vecPure 0x14 (fun x => x.satOp (fun a b => a + b)) tile s)

/-- SUBS. -/
def execSubs (tile : Nat) (s : State) : Res := .next (vecPure 0x15 (fun x => x.satOp (fun a b => a - b)) tile s)

/-- MULS. -/
def execMuls (tile : Nat) (s : State) : Res := .next (vecPure 0x16 (fun x => x.satOp (fun a b => a * b)) tile s)

/-- AND. -/
def execVAnd (tile : Nat) (s : State) : Res := .next (vecPure 0x17 (fun x => x.quiet (fun a b => a &&& b)) tile s)

/-- OR. -/
def execVOr (tile : Nat) (s : State) : Res := .next (vecPure 0x18 (fun x => x.quiet (fun a b => a ||| b)) tile s)

/-- XOR. -/
def execVXor (tile : Nat) (s : State) : Res := .next (vecPure 0x19 (fun x => x.quiet (fun a b => a ^^^ b)) tile s)

/-- ANDN: a AND NOT b. -/
def execAndn (tile : Nat) (s : State) : Res := .next (vecPure 0x1A (fun x => x.quiet (fun a b => a &&& ~~~b)) tile s)

/-- SHL. -/
def execShl (tile : Nat) (s : State) : Res := .next (vecPure 0x1B (fun x => x.quiet (fun a b => a <<< x.count b)) tile s)

/-- SHR fills with zeros. -/
def execShr (tile : Nat) (s : State) : Res := .next (vecPure 0x1C (fun x => x.quiet (fun a b => a >>> x.count b)) tile s)

/-- SRA fills with the sign. -/
def execSra (tile : Nat) (s : State) : Res :=
  .next (vecPure 0x1D (fun x => x.quiet (fun a b => a.sshiftRight (x.count b))) tile s)

/-- ADDI. -/
def execAddi (tile : Nat) (s : State) : Res :=
  .next (vecPure 0x1E (fun x => x.quiet (fun a _ => a + BitVec.ofInt 32 x.i.imm)) tile s)

/-- MOV. -/
def execMov (tile : Nat) (s : State) : Res := .next (vecPure 0x1F (fun x => x.quiet (fun a _ => a)) tile s)

/-- The lanes of a predicate operation. -/
def VRun.qop (x : VRun) (f : Bool → Bool → Bool) : VOut :=
  x.putPred (List.zipWith f (x.u.pred x.i.va) (x.u.pred x.i.vb))

/-- QAND. -/
def execQand (tile : Nat) (s : State) : Res := .next (vecPure 0x91 (fun x => x.qop (· && ·)) tile s)

/-- QOR. -/
def execQor (tile : Nat) (s : State) : Res := .next (vecPure 0x92 (fun x => x.qop (· || ·)) tile s)

/-- QNOT: of the row "Q(VA) and/or/not Q(VB)" the operator stands before Q(VB), which it negates (R122, log 128). -/
def execQnot (tile : Nat) (s : State) : Res :=
  .next (vecPure 0x93 (fun x => x.putPred ((x.u.pred x.i.vb).map (fun b => !b))) tile s)

/-- FLGQ: lanes whose flags since batch start meet the set in IMM20. -/
def execFlgq (tile : Nat) (s : State) : Res :=
  .next (vecPure 0x94 (fun x =>
    let fs := (x.u.laneFlags ++ List.replicate 512 ({} : Ev)).take 512
    x.putPred (fs.map (fun (f : Ev) => Nat.land f.toNat (x.i.imm20 % 16) != 0))) tile s)

/-- LPERM: a taken from lane b mod 512. -/
def execLperm (tile : Nat) (s : State) : Res :=
  .next (vecPure 0x61 (fun x =>
    let src := x.u.reg x.i.va
    x.quiet (fun _ b => src.getD (b.toNat % 512) 0)) tile s)

/-- RND: a generator word (R133). -/
def execRnd (tile : Nat) (s : State) : Res :=
  .next (vecPure 0x90 (fun x =>
    let d := if x.i.fn = 0 then x.i.imm20 % 16 else (x.u.l 0).toNat % 16
    x.put x.u x.i.vd (x.lanes (fun t _ _ _ => (BitVec.ofNat 32 (x.word t d), [])))) tile s)

end Sys2Proof.Machine
end

