-- ==== Sys2Proof/Machine/Dispatch.lean ====
section
/-! DEFINITION. One arm per command: a direct call of its meaning. -/

namespace Sys2Proof.Machine
open Sys2Proof

def exec (i : Instr) (s : State) : Host.Outcome State Fault Refusal :=
  match i with
  | .descriptorFetch q t => Sys2Proof.Machine.execDescriptorFetch q t s
  | .descriptorComplete w t => Sys2Proof.Machine.execDescriptorComplete w t s
  | .queueIrqTimer q t => Sys2Proof.Machine.execQueueIrqTimer q t s
  | .denseContraction w => Sys2Proof.Machine.execDenseContraction w s
  | .sparseContraction w => Sys2Proof.Machine.execSparseContraction w s
  | .elementWiseProduct w => Sys2Proof.Machine.execElementWiseProduct w s
  | .expertRoutedContraction w => Sys2Proof.Machine.execExpertRoutedContraction w s
  | .swap tile => Sys2Proof.Machine.execSwap tile s
  | .drainRow tile => Sys2Proof.Machine.execDrainRow tile s
  | .vectorProgram w => Sys2Proof.Machine.execVectorProgram w s
  | .drainCoupledProgram w => Sys2Proof.Machine.execDrainCoupledProgram w s
  | .instructionLimit tile => Sys2Proof.Machine.execInstructionLimit tile s
  | .vecNop tile => Sys2Proof.Machine.execVecNop tile s
  | .vEnd tile => Sys2Proof.Machine.execVEnd tile s
  | .bra tile => Sys2Proof.Machine.execBra tile s
  | .vLoop tile => Sys2Proof.Machine.execVLoop tile s
  | .setl tile => Sys2Proof.Machine.execSetl tile s
  | .bany tile => Sys2Proof.Machine.execBany tile s
  | .bnone tile => Sys2Proof.Machine.execBnone tile s
  | .movi tile => Sys2Proof.Machine.execMovi tile s
  | .movb tile => Sys2Proof.Machine.execMovb tile s
  | .addb tile => Sys2Proof.Machine.execAddb tile s
  | .addbi tile => Sys2Proof.Machine.execAddbi tile s
  | .movx tile => Sys2Proof.Machine.execMovx tile s
  | .vAdd tile => Sys2Proof.Machine.execVAdd tile s
  | .vSub tile => Sys2Proof.Machine.execVSub tile s
  | .vMul tile => Sys2Proof.Machine.execVMul tile s
  | .mulh tile => Sys2Proof.Machine.execMulh tile s
  | .adds tile => Sys2Proof.Machine.execAdds tile s
  | .subs tile => Sys2Proof.Machine.execSubs tile s
  | .muls tile => Sys2Proof.Machine.execMuls tile s
  | .vAnd tile => Sys2Proof.Machine.execVAnd tile s
  | .vOr tile => Sys2Proof.Machine.execVOr tile s
  | .vXor tile => Sys2Proof.Machine.execVXor tile s
  | .andn tile => Sys2Proof.Machine.execAndn tile s
  | .shl tile => Sys2Proof.Machine.execShl tile s
  | .shr tile => Sys2Proof.Machine.execShr tile s
  | .sra tile => Sys2Proof.Machine.execSra tile s
  | .addi tile => Sys2Proof.Machine.execAddi tile s
  | .mov tile => Sys2Proof.Machine.execMov tile s
  | .fadd tile => Sys2Proof.Machine.execFadd tile s
  | .fsub tile => Sys2Proof.Machine.execFsub tile s
  | .fmul tile => Sys2Proof.Machine.execFmul tile s
  | .fma tile => Sys2Proof.Machine.execFma tile s
  | .fnma tile => Sys2Proof.Machine.execFnma tile s
  | .fms tile => Sys2Proof.Machine.execFms tile s
  | .fabs tile => Sys2Proof.Machine.execFabs tile s
  | .fneg tile => Sys2Proof.Machine.execFneg tile s
  | .cmp tile => Sys2Proof.Machine.execCmp tile s
  | .sel tile => Sys2Proof.Machine.execSel tile s
  | .vMin tile => Sys2Proof.Machine.execVMin tile s
  | .vMax tile => Sys2Proof.Machine.execVMax tile s
  | .fcls tile => Sys2Proof.Machine.execFcls tile s
  | .cvt tile => Sys2Proof.Machine.execCvt tile s
  | .cvtx tile => Sys2Proof.Machine.execCvtx tile s
  | .xadd tile => Sys2Proof.Machine.execXadd tile s
  | .tlu tile => Sys2Proof.Machine.execTlu tile s
  | .frcp tile => Sys2Proof.Machine.execFrcp tile s
  | .frsq tile => Sys2Proof.Machine.execFrsq tile s
  | .fdiv tile => Sys2Proof.Machine.execFdiv tile s
  | .fsqrt tile => Sys2Proof.Machine.execFsqrt tile s
  | .fexp tile => Sys2Proof.Machine.execFexp tile s
  | .fexp2 tile => Sys2Proof.Machine.execFexp2 tile s
  | .flog tile => Sys2Proof.Machine.execFlog tile s
  | .flog2 tile => Sys2Proof.Machine.execFlog2 tile s
  | .fsin tile => Sys2Proof.Machine.execFsin tile s
  | .fcos tile => Sys2Proof.Machine.execFcos tile s
  | .ftanh tile => Sys2Proof.Machine.execFtanh tile s
  | .lred tile => Sys2Proof.Machine.execLred tile s
  | .lperm tile => Sys2Proof.Machine.execLperm tile s
  | .ldi tile => Sys2Proof.Machine.execLdi tile s
  | .ldx tile => Sys2Proof.Machine.execLdx tile s
  | .sti tile => Sys2Proof.Machine.execSti tile s
  | .stx tile => Sys2Proof.Machine.execStx tile s
  | .sta tile => Sys2Proof.Machine.execSta tile s
  | .drv tile => Sys2Proof.Machine.execDrv tile s
  | .drx tile => Sys2Proof.Machine.execDrx tile s
  | .rnd tile => Sys2Proof.Machine.execRnd tile s
  | .qand tile => Sys2Proof.Machine.execQand tile s
  | .qor tile => Sys2Proof.Machine.execQor tile s
  | .qnot tile => Sys2Proof.Machine.execQnot tile s
  | .flgq tile => Sys2Proof.Machine.execFlgq tile s
  | .nop w => Sys2Proof.Machine.execNop w s
  | .waitQueue w t => Sys2Proof.Machine.execWaitQueue w t s
  | .waitQueueTimeout w t => Sys2Proof.Machine.execWaitQueueTimeout w t s
  | .launch w t => Sys2Proof.Machine.execLaunch w t s
  | .strandCreate die entry t => Sys2Proof.Machine.execStrandCreate die entry t s
  | .batchDue die l pos t => Sys2Proof.Machine.execBatchDue die l pos t s
  | .binRoundClose die l pos t => Sys2Proof.Machine.execBinRoundClose die l pos t s
  | .prdBind w => Sys2Proof.Machine.execPrdBind w s
  | .prdUnbind w => Sys2Proof.Machine.execPrdUnbind w s
  | .sample w => Sys2Proof.Machine.execSample w s
  | .smpPrefix w => Sys2Proof.Machine.execSmpPrefix w s
  | .compact w => Sys2Proof.Machine.execCompact w s
  | .build w => Sys2Proof.Machine.execBuild w s
  | .edgeGrad w => Sys2Proof.Machine.execEdgeGrad w s
  | .edgeDiff w => Sys2Proof.Machine.execEdgeDiff w s
  | .gather w => Sys2Proof.Machine.execGather w s
  | .scatterAdd w => Sys2Proof.Machine.execScatterAdd w s
  | .scatterWrite w => Sys2Proof.Machine.execScatterWrite w s
  | .readout w => Sys2Proof.Machine.execReadout w s
  | .clear w => Sys2Proof.Machine.execClear w s
  | .pinRefresh w => Sys2Proof.Machine.execPinRefresh w s
  | .tablePublish w t => Sys2Proof.Machine.execTablePublish w t s
  | .promote w t => Sys2Proof.Machine.execPromote w t s
  | .tableRelease slot t => Sys2Proof.Machine.execTableRelease slot t s
  | .addendEntry n => Sys2Proof.Machine.execAddendEntry n s
  | .cacheFill n => Sys2Proof.Machine.execCacheFill n s
  | .sketchHalving die => Sys2Proof.Machine.execSketchHalving die s
  | .migrationStart obj row t => Sys2Proof.Machine.execMigrationStart obj row t s
  | .snapshotAck obj row t => Sys2Proof.Machine.execSnapshotAck obj row t s
  | .migrationCommit obj row t => Sys2Proof.Machine.execMigrationCommit obj row t s
  | .migOldFree obj row t => Sys2Proof.Machine.execMigOldFree obj row t s
  | .migrationTimeout obj row t => Sys2Proof.Machine.execMigrationTimeout obj row t s
  | .updSgd w => Sys2Proof.Machine.execUpdSgd w s
  | .updAdam w => Sys2Proof.Machine.execUpdAdam w s
  | .updAdagrad w => Sys2Proof.Machine.execUpdAdagrad w s
  | .save w => Sys2Proof.Machine.execSave w s
  | .restore w => Sys2Proof.Machine.execRestore w s
  | .ckptExport w => Sys2Proof.Machine.execCkptExport w s
  | .ckptImport w => Sys2Proof.Machine.execCkptImport w s
  | .declare w => Sys2Proof.Machine.execDeclare w s
  | .undeclare w => Sys2Proof.Machine.execUndeclare w s
  | .epochAdvance w => Sys2Proof.Machine.execEpochAdvance w s
  | .reside w t => Sys2Proof.Machine.execReside w t s
  | .release w => Sys2Proof.Machine.execRelease w s
  | .pageMoveStart obj page t => Sys2Proof.Machine.execPageMoveStart obj page t s
  | .pageCopyDone obj page t => Sys2Proof.Machine.execPageCopyDone obj page t s
  | .pageMoveCommit obj page t => Sys2Proof.Machine.execPageMoveCommit obj page t s
  | .pageFrameFree obj page t => Sys2Proof.Machine.execPageFrameFree obj page t s
  | .pageMoveTimeout obj page t => Sys2Proof.Machine.execPageMoveTimeout obj page t s
  | .patrolScrub unit addr => Sys2Proof.Machine.execPatrolScrub unit addr s
  | .reduce w t => Sys2Proof.Machine.execReduce w t s
  | .fabPut w t => Sys2Proof.Machine.execFabPut w t s
  | .fabMsg w t => Sys2Proof.Machine.execFabMsg w t s
  | .msgRetry id t => Sys2Proof.Machine.execMsgRetry id t s
  | .redWatchdog ctx t => Sys2Proof.Machine.execRedWatchdog ctx t s
  | .redAbortExpiry redid t => Sys2Proof.Machine.execRedAbortExpiry redid t s
  | .linkTrainingStart p t => Sys2Proof.Machine.execLinkTrainingStart p t s
  | .exchangeFrame p frame t => Sys2Proof.Machine.execExchangeFrame p frame t s
  | .linkTrainTimeout p t => Sys2Proof.Machine.execLinkTrainTimeout p t s
  | .linkRetrain p t => Sys2Proof.Machine.execLinkRetrain p t s
  | .linkTimeout p t => Sys2Proof.Machine.execLinkTimeout p t s
  | .flitReceive p line t => Sys2Proof.Machine.execFlitReceive p line t s
  | .nakRetry p t => Sys2Proof.Machine.execNakRetry p t s
  | .packetRoute p t => Sys2Proof.Machine.execPacketRoute p t s
  | .rdReq t => Sys2Proof.Machine.execRdReq t s
  | .rdRsp t => Sys2Proof.Machine.execRdRsp t s
  | .wrReq t => Sys2Proof.Machine.execWrReq t s
  | .wrAck t => Sys2Proof.Machine.execWrAck t s
  | .addReq t => Sys2Proof.Machine.execAddReq t s
  | .addAck t => Sys2Proof.Machine.execAddAck t s
  | .strand t => Sys2Proof.Machine.execStrand t s
  | .chain t => Sys2Proof.Machine.execChain t s
  | .update t => Sys2Proof.Machine.execUpdate t s
  | .mailbox t => Sys2Proof.Machine.execMailbox t s
  | .place t => Sys2Proof.Machine.execPlace t s
  | .msgRsp t => Sys2Proof.Machine.execMsgRsp t s
  | .sack t => Sys2Proof.Machine.execSack t s
  | .sackTimer peer tc t => Sys2Proof.Machine.execSackTimer peer tc t s
  | .sluiceRto peer tc t => Sys2Proof.Machine.execSluiceRto peer tc t s
  | .dropReport t => Sys2Proof.Machine.execDropReport t s
  | .multicastResend id t => Sys2Proof.Machine.execMulticastResend id t s
  | .red t => Sys2Proof.Machine.execRed t s
  | .redJoin t => Sys2Proof.Machine.execRedJoin t s
  | .redCredit t => Sys2Proof.Machine.execRedCredit t s
  | .redEnd t => Sys2Proof.Machine.execRedEnd t s
  | .redAbort t => Sys2Proof.Machine.execRedAbort t s
  | .drainComplete t => Sys2Proof.Machine.execDrainComplete t s
  | .fabDrainTimeout t => Sys2Proof.Machine.execFabDrainTimeout t s
  | .dictMessage src msg t => Sys2Proof.Machine.execDictMessage src msg t s
  | .unbindComplete a => Sys2Proof.Machine.execUnbindComplete a s
  | .loadIdleTimeout t => Sys2Proof.Machine.execLoadIdleTimeout t s
  | .firmwareReady t => Sys2Proof.Machine.execFirmwareReady t s
  | .activationFallback t => Sys2Proof.Machine.execActivationFallback t s
  | .watchdogExpiry t => Sys2Proof.Machine.execWatchdogExpiry t s
  | .sensorSample ss vs t => Sys2Proof.Machine.execSensorSample ss vs t s
  | .errorRecord e t => Sys2Proof.Machine.execErrorRecord e t s
  | .imageBankError t => Sys2Proof.Machine.execImageBankError t s
  | .autoDusk t => Sys2Proof.Machine.execAutoDusk t s
  | .wakeEvent t => Sys2Proof.Machine.execWakeEvent t s
  | .powerTransitionDone t => Sys2Proof.Machine.execPowerTransitionDone t s
  | .referenceLoss t => Sys2Proof.Machine.execReferenceLoss t s
  | .coldPowerUp t => Sys2Proof.Machine.execColdPowerUp t s
  | .managementReady t => Sys2Proof.Machine.execManagementReady t s
  | .railsUp t => Sys2Proof.Machine.execRailsUp t s
  | .railTimeout t => Sys2Proof.Machine.execRailTimeout t s
  | .rootPllLock t => Sys2Proof.Machine.execRootPllLock t s
  | .memoryTrained hbm dimms t => Sys2Proof.Machine.execMemoryTrained hbm dimms t s
  | .undervoltage t => Sys2Proof.Machine.execUndervoltage t s
  | .overvoltage t => Sys2Proof.Machine.execOvervoltage t s
  | .overcurrentTrip t => Sys2Proof.Machine.execOvercurrentTrip t s
  | .throttleStep t => Sys2Proof.Machine.execThrottleStep t s
  | .pwrEnLow t => Sys2Proof.Machine.execPwrEnLow t s
  | .pwrEnHigh t => Sys2Proof.Machine.execPwrEnHigh t s
  | .perstNAssert t => Sys2Proof.Machine.execPerstNAssert t s
  | .perstNDeassert t => Sys2Proof.Machine.execPerstNDeassert t s
  | .cxlLinkUp cxl width speed t => Sys2Proof.Machine.execCxlLinkUp cxl width speed t s
  | .freezeNLow t => Sys2Proof.Machine.execFreezeNLow t s
  | .freezeNHigh t => Sys2Proof.Machine.execFreezeNHigh t s
  | .wakeNFall t => Sys2Proof.Machine.execWakeNFall t s
  | .inputStorm sig t => Sys2Proof.Machine.execInputStorm sig t s
  | .producer q v stores t => Sys2Proof.Machine.execProducer q v stores t s
  | .complConsumer q v stores t => Sys2Proof.Machine.execComplConsumer q v stores t s
  | .mbxLock m c t => Sys2Proof.Machine.execMbxLock m c t s
  | .mbxRelease m c t => Sys2Proof.Machine.execMbxRelease m c t s
  | .mbxDoorbell m c code t => Sys2Proof.Machine.execMbxDoorbell m c code t s
  | .mbxDone m c t => Sys2Proof.Machine.execMbxDone m c t s
  | .forceFree m c t => Sys2Proof.Machine.execForceFree m c t s
  | .mbxHoldExpiry c t => Sys2Proof.Machine.execMbxHoldExpiry c t s
  | .hdmCommit base size => Sys2Proof.Machine.execHdmCommit base size s
  | .hdmAccess addr len wr => Sys2Proof.Machine.execHdmAccess addr len wr s
  | .h2dSnoop addr => Sys2Proof.Machine.execH2dSnoop addr s
  | .configRequest reg wr => Sys2Proof.Machine.execConfigRequest reg wr s
  | .getTimestamp t => Sys2Proof.Machine.execGetTimestamp t s
  | .setTimestamp v t => Sys2Proof.Machine.execSetTimestamp v t s
  | .getSupportedLogs => Sys2Proof.Machine.execGetSupportedLogs s
  | .getLog off len => Sys2Proof.Machine.execGetLog off len s
  | .spdmRequest viaDoe req => Sys2Proof.Machine.execSpdmRequest viaDoe req s
  | .entdaa addr => Sys2Proof.Machine.execEntdaa addr s
  | .setEndpointId eid => Sys2Proof.Machine.execSetEndpointId eid s
  | .getEndpointId => Sys2Proof.Machine.execGetEndpointId s
  | .getMctpVersionSupport ty => Sys2Proof.Machine.execGetMctpVersionSupport ty s
  | .getMessageTypeSupport => Sys2Proof.Machine.execGetMessageTypeSupport s
  | .freeze t => Sys2Proof.Machine.execFreeze t s
  | .thaw t => Sys2Proof.Machine.execThaw t s
  | .freezeComplete t => Sys2Proof.Machine.execFreezeComplete t s
  | .freezeTooLong t => Sys2Proof.Machine.execFreezeTooLong t s
  | .readoutDone t => Sys2Proof.Machine.execReadoutDone t s
  | .jtagInternalScan t => Sys2Proof.Machine.execJtagInternalScan t s
  | .lightDetected p t => Sys2Proof.Machine.execLightDetected p t s
  | .fecLock p t => Sys2Proof.Machine.execFecLock p t s
  | .verifyComplete t => Sys2Proof.Machine.execVerifyComplete t s
  | .fuseStepBlown t => Sys2Proof.Machine.execFuseStepBlown t s
  | .primaryMailboxReady t => Sys2Proof.Machine.execPrimaryMailboxReady t s
  | .ignoredRegisterAccess off bytes op => Sys2Proof.Machine.execIgnoredRegisterAccess off bytes op s
  | .mbxBufferWrite m c off data => Sys2Proof.Machine.execMbxBufferWrite m c off data s
  | .doeDiscovery n => Sys2Proof.Machine.execDoeDiscovery n s
  | .cxlTableAccess entry => Sys2Proof.Machine.execCxlTableAccess entry s
  | .alertPulseEnd t => Sys2Proof.Machine.execAlertPulseEnd t s
  | .switchRelease t => Sys2Proof.Machine.execSwitchRelease t s
  | .returnToService unit t => Sys2Proof.Machine.execReturnToService unit t s
  | .extest cells => Sys2Proof.Machine.execExtest cells s

end Sys2Proof.Machine
end

