-- ==== Sys2Proof/Safety.lean ====
section
/-! DEFINITION. The words the statements are written in: what a command leaves unchanged, the canonical form of
the state, and what one vector instruction, one descriptor and one register write come to. -/

/-- The canonical form of module memory: addresses strictly rising, no byte listed that reads 0x00 (log 2). -/
def Sys2Proof.Machine.Memory.wf (m : Sys2Proof.Machine.Memory) : Bool := Sys2Proof.Machine.Tab.wf 0 m.bytes

namespace Sys2Proof.Machine.Claim
open Sys2Proof Sys2Proof.Machine

/-! ## Vector instructions (R115, R116, R119) -/

/-- The unit of `tile` issues instruction `i` of descriptor `w` next, and the batch is within its limit. -/
structure Issues (s : State) (tile op : Nat) (w : Work) (i : VIns) : Prop where
  next : nextIns s tile = some (w, i)
  code : i.op = op
  room : (vecOf s tile).issued < limitOf (vecOf s tile) w

/-- Past the last instruction of the program the batch ends (R117). -/
def batchOver (t : State) (tile : Nat) : State :=
  if (vecOf t tile).words.length ≤ (vecOf t tile).pos then endBatch t tile else t

/-- Lane `l` executes (R115). -/
def executes (u : VecUnit) (i : VIns) (l : Nat) : Bool :=
  (u.pred 0).getD l false && (i.qs == 0 || (u.pred i.qs).getD l false)

/-- What an operation of three registers computes on a lane, of its item and operands: word and events. -/
abbrev LaneOp := Nat → Nat → Word → Word → Word → Word × List Ev

/-- The operation on the item and the operands of lane `l`. -/
def atLane (u : VecUnit) (i : VIns) (f : LaneOp) (l : Nat) : Word × List Ev :=
  f l (u.items.getD l 0) ((u.reg i.va).getD l 0) ((u.reg i.vb).getD l 0) ((u.reg i.vc).getD l 0)

/-- The destination after the instruction (R116): results on executing lanes, elsewhere 0 under ZM and the old word
without it. -/
def LaneWords (u : VecUnit) (i : VIns) (f : LaneOp) (v : List Word) : Prop :=
  v.length = 512 ∧ ∀ l, l < 512 → v.getD l 0 =
    if executes u i l then (atLane u i f l).1 else if i.zm then 0 else (u.reg i.vd).getD l 0

/-- The lane flags after the instruction: sticky over the batch (R114, R125). -/
def LaneFlags (u : VecUnit) (i : VIns) (f : LaneOp) (fl : List Ev) : Prop :=
  ∀ l, l < 512 → fl.getD l {} =
    if executes u i l then (u.laneFlags.getD l {}).or (evsOr (atLane u i f l).2) else u.laneFlags.getD l {}

/-- The events of the executing lanes, in lane order (R57). -/
def laneEvents (u : VecUnit) (i : VIns) (f : LaneOp) : Acc :=
  ((List.range 512).flatMap (fun l => if executes u i l then (atLane u i f l).2 else [])).foldl Acc.add {}

/-- Unit `v` an instruction leaves, with the instruction counted and the lane flags cleared where the prologue
ends. -/
def unitAfter (u : VecUnit) (w : Work) (v : VecUnit) : VecUnit :=
  if u.pos < w.f 38 2 ∧ w.f 38 2 ≤ v.pos then { v with issued := v.issued + 1, laneFlags := [] }
  else { v with issued := v.issued + 1 }

/-- `t` is `s` after one instruction of the unit of `tile` that left unit `v` and raised the events `a` in descriptor
`w'`: nothing else of the module has changed, no byte of memory among it. -/
structure Stepped (s t : State) (tile : Nat) (w w' : Work) (v : VecUnit) (a : Acc) : Prop where
  unit : vecOf t tile = unitAfter (vecOf s tile) w v
  others : ∀ k, k ≠ tile → vecOf t k = vecOf s k
  issue : reg t (Key.vecIssueCycles + tile) = wrap64 (reg s (Key.vecIssueCycles + tile) + 1)
  regs : ∀ k, k ≠ Key.vecIssueCycles + tile → reg t k = reg s k
  work : findWork t w'.ref = some { w' with acc := w'.acc.join a }
  works : ∀ r, r ≠ w'.ref → findWork t r = findWork s r
  rest : { t with vec := s.vec, dict := s.dict, work := s.work } = s

/-- The unit with its position after the instruction at `pos`. -/
def passed (u : VecUnit) : VecUnit := { u with pos := u.pos + 1 }

/-- Command `c` issues opcode `op`, which writes register VD lane by lane as `f` says. -/
def WritesLanes (c : Nat → Instr) (op : Nat) (f : State → Nat → Work → VIns → LaneOp) : Prop :=
  ∀ s tile w i, Issues s tile op w i →
    ∃ t v fl, exec (c tile) s = .next (batchOver t tile) ∧
      LaneWords (vecOf s tile) i (f s tile w i) v ∧ LaneFlags (vecOf s tile) i (f s tile w i) fl ∧
      Stepped s t tile w w { ((passed (vecOf s tile)).setReg i.vd v) with laneFlags := fl }
        (laneEvents (vecOf s tile) i (f s tile w i))

/-- Command `c` issues opcode `op`, which writes register VD lane by lane and raises no event. -/
def WritesQuietly (c : Nat → Instr) (op : Nat) (f : VecUnit → VIns → Nat → Nat → Word → Word → Word → Word) : Prop :=
  ∀ s tile w i, Issues s tile op w i →
    ∃ t v, exec (c tile) s = .next (batchOver t tile) ∧
      LaneWords (vecOf s tile) i (fun l m a b e => (f (vecOf s tile) i l m a b e, [])) v ∧
      Stepped s t tile w w ((passed (vecOf s tile)).setReg i.vd v) {}

/-- Command `c` issues opcode `op`, which leaves unit `f` of the unit past the instruction and touches nothing else. -/
def ChangesUnit (c : Nat → Instr) (op : Nat) (f : VecUnit → VIns → VecUnit → VecUnit) : Prop :=
  ∀ s tile w i, Issues s tile op w i →
    ∃ t, exec (c tile) s = .next (batchOver t tile) ∧ Stepped s t tile w w (f (vecOf s tile) i (passed (vecOf s tile))) {}

/-- The destination predicate after the instruction (R116). -/
def LaneBits (u : VecUnit) (i : VIns) (f : Nat → Bool) (v : List Bool) : Prop :=
  v.length = 512 ∧ ∀ l, l < 512 → v.getD l false =
    if executes u i l then f l else if i.zm then false else (u.pred i.vd).getD l false

/-- Command `c` issues opcode `op`, which writes predicate VD lane by lane and raises no event. -/
def WritesBits (c : Nat → Instr) (op : Nat) (f : VecUnit → VIns → Nat → Bool) : Prop :=
  ∀ s tile w i, Issues s tile op w i →
    ∃ t v, exec (c tile) s = .next (batchOver t tile) ∧ LaneBits (vecOf s tile) i (f (vecOf s tile) i) v ∧
      Stepped s t tile w w ((passed (vecOf s tile)).setPred i.vd v) {}

/-- The format TY names (R123). -/
def tyFmt (i : VIns) : Fmt := (Fmt.ofCode i.ty).getD .s32

/-- The rounding mode RN and the flags select (R120, R124). -/
def tyMode (w : Work) (i : VIns) : RMode := if i.rn then .nearest else (RMode.ofBits w.rnd).getD .nearest

/-- The generator word of element `h` of an item (R133): 0 where the mode draws none. -/
def drawWord (s : State) (tile : Nat) (w : Work) (i : VIns) (item h : Nat) : Nat :=
  if tyMode w i = .stochastic then
    genWord (reg s Key.genSeed) w.step (w.f 44 2)
      (((if tyFmt i = .bf16 then 2 * item + h else item) * 65536 + (vecOf s tile).pos * 16) % 2 ^ 64)
  else 0

/-- The unit with base register `r` written. -/
def withBase (u : VecUnit) (r : Nat) (x : DWord) : VecUnit := { u with base := Tab.set 0 u.base (r % 16) x }

/-- The unit with loop counter `r` written. -/
def withLoop (u : VecUnit) (r : Nat) (x : Word) : VecUnit := { u with loops := Tab.set 0 u.loops (r % 4) x }

/-- Element by element: encoded result and event of each element of a lane (R114). -/
def perElem (i : VIns) (g : Nat → Nat → Nat → Nat → Nat × Ev) : Word → Word → Word → Word × List Ev :=
  fun a b c => elemsZip (tyFmt i) a b c g

/-- An exact floating result `g` of the operands' values, rounded once to TY (R124). -/
def roundedOp (g : Num → Num → Num → Num × Bool) : State → Nat → Work → VIns → LaneOp :=
  fun s tile w i _ m => perElem i (fun h p q r =>
    let v := g (decFloat (tyFmt i) p) (decFloat (tyFmt i) q) (decFloat (tyFmt i) r)
    invalidOr v.2 (convFloat (tyFmt i) (tyMode w i) (drawWord s tile w i m h) v.1))

/-- A function of R127, correctly rounded or as the rule defines it. -/
def sequenceOp (fn : SeqFn) : State → Nat → Work → VIns → LaneOp :=
  fun s tile w i _ m => perElem i (fun h p q _ =>
    seqApply fn (tyFmt i) (tyMode w i) (drawWord s tile w i m h) (decFloat (tyFmt i) p) (decFloat (tyFmt i) q))

/-- An exact integer result of the operands, saturated to the range of TY (R50, R122). -/
def saturatedOp (g : Int → Int → Int) : State → Nat → Work → VIns → LaneOp :=
  fun _ _ _ i _ _ a b _ =>
    let c := convInt (tyFmt i) .nearest 0 (Num.ofInt (g (regInt (tyFmt i) a) (regInt (tyFmt i) b)))
    (BitVec.ofInt 32 c.1, if c.2.sat then [c.2] else [])

/-- The value of a quad on a lane (R114). -/
def quadAt (u : VecUnit) (r l : Nat) : Int :=
  quadVal ((u.reg r).getD l 0) ((u.reg (r + 1)).getD l 0) ((u.reg (r + 2)).getD l 0) ((u.reg (r + 3)).getD l 0)

/-- MIN or MAX of R76: exact values; a NaN operand gives the canonical NaN with INV. -/
def pickOp (g : Num → Num → Num) : State → Nat → Work → VIns → LaneOp :=
  fun _ _ _ i _ _ a b c =>
    if (tyFmt i).isFloat then
      let r := perElem i (fun _ p q _ =>
        if (decFloat (tyFmt i) p).isNan || (decFloat (tyFmt i) q).isNan then ((tyFmt i).canonNan, { inv := true })
        else convFloat (tyFmt i) .nearest 0 (g (decFloat (tyFmt i) p) (decFloat (tyFmt i) q))) a b c
      (r.1, r.2.filter (fun e => e.inv))
    else (match g (regNum (tyFmt i) a.toNat) (regNum (tyFmt i) b.toNat) with
      | .fin n m e => (BitVec.ofInt 32 (sgn n m * (pow2 e : Int)), [])
      | _ => (0, []))

/-- The descriptor an instruction's events count in (R135): its own, or the paired matrix descriptor of a drain-coupled
program that is still in flight. -/
def EventsGoTo (s : State) (tile : Nat) (w w' : Work) : Prop :=
  if w.op = 0x0201 then
    match (vecOf s tile).pair with
    | some r => if (findWork s r).isSome then findWork s r = some w' else w' = w
    | none => w' = w
  else w' = w

/-- The registers `v` after a quad at `r` is written on the executing lanes with the values `f` (R114, R116). -/
def QuadWritten (u : VecUnit) (i : VIns) (r : Nat) (f : Nat → Int) (v : Tab (List Word)) : Prop :=
  (∀ k, k < r ∨ r + 4 ≤ k → Tab.get zeroReg v k = Tab.get zeroReg u.regs k) ∧
  ∀ k, k < 4 → (Tab.get zeroReg v (r + k)).length = 512 ∧ ∀ l, l < 512 → (Tab.get zeroReg v (r + k)).getD l 0 =
    if executes u i l then quadWord (f l) k else if i.zm then 0 else (u.reg (r + k)).getD l 0

/-! ## Vector memory instructions (R128-R135) -/

/-- The executing lanes in ascending order (R115). -/
def lanesOf (u : VecUnit) (i : VIns) : List Nat := (List.range 512).filter (executes u i)

/-- The version a descriptor's loads of object `o` are resolved to, and the versions the descriptor then holds: none for the
training class and without versions, else the one it holds of the table slot or the one current at its start (R28, R240). -/
def readVersion (s : State) (w : Work) (o : Obj) : Option (Option Nat × List (Nat × Nat)) :=
  if (w.qc && o.versioned) = false then some (none, w.vers)
  else match w.refs.find? (fun r => r.1 == o.tslot), w.snap.find? (fun r => r.1 == o.tslot) with
    | some r, _ => some (some r.2, w.vers)
    | none, some r => if resolveVer s o r.2 = some r.2 then some (some r.2, w.vers ++ [r]) else none
    | none, none => none

/-- Command `c` issues a load of opcode `op`, by item or by index register: where every touched piece may be read and no
descriptor waits in a line, each executing lane gets what the piece holds; counts, samples and host lines of the access
apart, nothing else changes. -/
def Loads (c : Nat → Instr) (op : Nat) (indexed : Bool) : Prop :=
  ∀ s tile w i v vs, Issues s tile op w i → s.lines = [] →
    let x := vecRun s tile w i
    accsStop w s x.memObj false (x.accs indexed) = none →
    readVersion s w (objOf s x.memObj) = some (v, vs) →
    (∀ l ∈ lanesOf (vecOf s tile) i, (x.loadLane s v (x.accAt indexed l)).isSome) →
    let f : LaneOp := fun l _ _ _ _ => (x.loadLane s v (x.accAt indexed l)).getD (0, [])
    let s1 := touchLoads s (tile / 16) x.memObj (x.accs indexed)
    ∃ t r fl, exec (c tile) s = .next (batchOver t tile) ∧
      LaneWords (vecOf s tile) i f r ∧ LaneFlags (vecOf s tile) i f fl ∧
      Stepped s1 t tile w { w with vers := vs } { ((passed (vecOf s tile)).setReg i.vd r) with laneFlags := fl }
        (laneEvents (vecOf s tile) i f) ∧
      s1.mem = s.mem ∧ s1.host = s.host

/-- What the stores of a store instruction leave, and the events of each lane. -/
def storeRun (x : VRun) (indexed : Bool) (s : State) : Except Stop (State × List (Nat × List Ev)) :=
  x.storeAll (x.accs indexed) s

/-- No copy of a row is held, no row moves and the object is not versioned: a write touches its own bytes alone. -/
def Plain (s : State) (n : Nat) : Prop :=
  s.dir.entries = [] ∧ s.dir.migs = [] ∧ (objOf s n).versioned = false

/-- Command `c` issues a store of opcode `op`: where every touched piece may be written and no descriptor waits in a line,
the lanes' elements are written in ascending lane order and the unit goes past the instruction with the events of the
conversions; to an object without versions, no row of which is copied or moves, in memory without poison, the stores
always end. -/
def Stores (c : Nat → Instr) (op : Nat) (indexed : Bool) : Prop :=
  ∀ s tile w i, Issues s tile op w i → s.lines = [] →
    let x := vecRun s tile w i
    let s0 := sampleSpans s (tile / 16) x.memObj (x.accs indexed)
    accsStop w s x.memObj true (x.accs indexed) = none →
    (∀ r, storeRun x indexed s0 = .ok r →
      let f : LaneOp := fun l _ _ _ _ => (0, ((r.2.find? (fun v => v.1 == l)).map (·.2)).getD [])
      ∃ t fl, exec (c tile) s = .next (batchOver t tile) ∧ LaneFlags (vecOf s tile) i f fl ∧
        Stepped r.1 t tile w w { (passed (vecOf s tile)) with laneFlags := fl } (laneEvents (vecOf s tile) i f)) ∧
    (Plain s x.memObj → s.mem.poison = [] → ∃ r, storeRun x indexed s0 = .ok r)

/-- The bytes of memory the accesses `as` of object `n` reach. -/
def reached (s : State) (n : Nat) (as : List LaneAcc) (a : Nat) : Prop :=
  ∃ x ∈ as, ∃ p ∈ x.spans, ∃ q ∈ spans16 p.1.toNat p.2, ∃ b,
    locate s (objOf s n) q.1 = .here b ∧ b ≤ a ∧ a < b + q.2

/-- A byte of module memory. -/
def byteAt (s : State) (a : Nat) : Byte := Tab.get 0 s.mem.bytes a

/-! ## Objects whose bytes lie in this module -/

/-- Nothing moves, nothing is copied, nothing is poisoned, no descriptor is held in a line, no row is held for another and no
access of the host waits: an access to a byte of this module reaches it at once (R233, R248, R253, R299, R323). -/
structure Still (s : State) : Prop where
  copies : s.dir.entries = []
  fills : s.dir.fills = []
  rows : s.dir.migs = []
  guests : s.dir.guests = []
  pages : s.place.moves = []
  lines : s.lines = []
  poison : s.mem.poison = []
  holds : s.fab.holds = []
  heads : ∀ n row, headPending s n row = false
  host : s.cxl.held = []

/-- A range of an object: its number, the first offset, the length. -/
abbrev Span := Nat × Nat × Nat

/-- The range of `len` bytes a handle names. -/
def spanOf (h len : Nat) : Span := (hObj h, hOff h, len)

/-- Descriptor `w` may name the range (R10), its object has no versions or is one a training descriptor writes before the
first is published (R239), and every byte of it lies in this module. -/
structure Lies (s : State) (w : Work) (p : Span) : Prop where
  named : mayName w s (objOf s p.1) = true
  inside : p.2.1 + p.2.2 ≤ (objOf s p.1).size
  addressed : p.2.1 + p.2.2 ≤ 2 ^ 40
  number : (objOf s p.1).num = p.1
  plain : (objOf s p.1).versioned = true → w.qc = false ∧
    (Tab.get {} s.slots (objOf s p.1).tslot).draftOpen = true ∧ (Tab.get {} s.slots (objOf s p.1).tslot).cur = 0
  here : ∀ d, d < p.2.2 → ∃ a, locate s (objOf s p.1) (p.2.1 + d) = .here a

/-- The `len` bytes from a handle of descriptor `w` on lie in this module, where it may reach them. -/
abbrev InReach (s : State) (w : Work) (h len : Nat) : Prop := Lies s w (spanOf h len)

/-- The bytes of a range in this module. -/
def bytesIn (s : State) (p : Span) : List Byte := (readLocal s (objOf s p.1) p.2.1 p.2.2).getD []

/-- The bytes from a handle on. -/
def bytesAt (s : State) (h len : Nat) : List Byte := bytesIn s (spanOf h len)

/-- The number `d` bytes past a handle, of `len` bytes. -/
def numAt (s : State) (h d len : Nat) : Nat := leNat (bytesIn s (hObj h, hOff h + d, len))

/-- Address `a` holds a byte of one of the ranges. -/
def Within (s : State) (rs : List Span) (a : Nat) : Prop :=
  ∃ p ∈ rs, ∃ d, d < p.2.2 ∧ locate s (objOf s p.1) (p.2.1 + d) = .here a

/-- No byte of the ranges `rs` has an address of a byte of the ranges `qs`. -/
def Apart (s : State) (rs qs : List Span) : Prop := ∀ a, Within s rs a → ¬ Within s qs a

/-- The bytes of a range have addresses of their own. -/
def Injective (s : State) (p : Span) : Prop :=
  ∀ d e a, d < p.2.2 → e < p.2.2 → locate s (objOf s p.1) (p.2.1 + d) = .here a →
    locate s (objOf s p.1) (p.2.1 + e) = .here a → d = e

/-- Every byte of module memory outside the ranges, and all of host memory, is as it was. -/
def OnlyWrites (s t : State) (rs : List Span) : Prop :=
  t.host = s.host ∧ ∀ a, ¬ Within s rs a → byteAt t a = byteAt s a

/-- Descriptor `r` has ended with OK, owes no answer, and wrote the ranges alone. -/
def Finishes (s t : State) (r : WRef) (rs : List Span) : Prop :=
  (∃ v, findWork t r = some v ∧ v.phase = .done ∧ v.status = 0x0000) ∧ OnlyWrites s t rs

/-- Addends, but for whether they hold a slot of their die's pool (R15, R221). -/
def unsentAdds (as : List Addend) : List Addend := as.map (fun x => { x with sent := false })

/-- An addend descriptor `w` sends: element `c` of object `n`, in format `f` with window exponent `t` and bits `v`. -/
def addendOf (s : State) (w : Work) (n : Nat) (f : Fmt) (c : Nat) (t : Int) (v : Nat) : Addend :=
  { issuer := some w.ref, peer := self s, die := w.die, obj := n, elem := c, fmt := f, tsrc := t, val := v, qc := w.qc,
    gse := if w.cls = 5 then some w.dsp else none, sent := false }

/-- Descriptor `r` has ended with OK but for the answers to its addends `as`, which wait at the adders of this module in
this order; no byte of memory has changed. -/
def FinishesAdding (s t : State) (r : WRef) (as : List Addend) : Prop :=
  ∃ v, findWork t r = some v ∧ v.phase = (if as = [] then .done else .acks) ∧ v.status = 0x0000 ∧ v.owed = as.length ∧
    unsentAdds t.addends = unsentAdds s.addends ++ as ∧ t.mem = s.mem ∧ t.host = s.host

/-- Index `i` of a list at a handle; none where it is all ones (R223). -/
def indexAt (s : State) (h : Nat) (wide : Bool) (i : Nat) : Option Nat :=
  let v := numAt s h (idxBytes wide * i) (idxBytes wide)
  if v = 2 ^ (8 * idxBytes wide) - 1 then none else some v

/-- The words a vector unit runs for a descriptor: those it holds, if they are the program's, else the bytes of the program
(R118). -/
def programOf (s : State) (tile : Nat) (w : Work) : List Nat :=
  let u := vecOf s tile
  if u.prog = w.f 16 8 ∧ u.progStamp = some (objOf s (hObj (w.f 16 8))).stamp ∧ w.f 36 2 ≤ u.words.length then
    u.words.take (w.f 36 2)
  else chunkNats 8 (w.f 36 2) (bytesAt s (w.f 16 8) (8 * w.f 36 2))

/-! ## Data structures in memory -/

/-- Entry `n` of the offsets of a graph (R187). -/
def offsetAt (s : State) (g : Graph) (n : Nat) : Nat :=
  numAt s g.offsets (idxBytes (bit g.ctl 0) * n) (idxBytes (bit g.ctl 0))

/-- The arrays of a graph are those R187 and R188 allow: rows in order within the edges, neighbours among the nodes. -/
structure GraphOk (s : State) (g : Graph) : Prop where
  rows : ∀ n, n < g.nodes → offsetAt s g n ≤ offsetAt s g (n + 1) ∧ offsetAt s g (n + 1) ≤ g.edges
  neighbours : ∀ e, e < g.edges → numAt s g.indices (idxBytes (bit g.ctl 1) * e) (idxBytes (bit g.ctl 1)) < g.nodes

/-- The running sums of each row do not fall (R188). -/
def SumsOk (s : State) (g : Graph) : Prop :=
  ∀ n e, n < g.nodes → offsetAt s g n < e → e < offsetAt s g (n + 1) →
    numAt s g.cumw (8 * (e - 1)) 8 ≤ numAt s g.cumw (8 * e) 8

/-- The radius path object of an edge descriptor, with its atoms and MAXNB (R194, R212, R215): its header is good and every
slot served that is not invalid names two of its atoms. -/
structure RadiusOk (s : State) (w : Work) (atoms maxnb : Nat) : Prop where
  reach : InReach s w (w.f 16 8) (64 + 3 * pad64 (4 * (atoms * maxnb)))
  kind : field (bytesAt s (w.f 16 8) 64) 0 2 = 2 ∧ field (bytesAt s (w.f 16 8) 64) 2 1 = 1
  counts : field (bytesAt s (w.f 16 8) 64) 8 4 = atoms ∧ field (bytesAt s (w.f 16 8) 64) 16 2 = maxnb
  sizes : 1 ≤ atoms ∧ atoms ≤ 4194304 ∧ 1 ≤ maxnb ∧ maxnb ≤ 1024
  centres : w.f 52 4 ≠ 0 ∧ w.f 48 4 + w.f 52 4 ≤ atoms
  slots : ∀ k, k < w.f 52 4 * maxnb →
    let at_ := 64 + 4 * (w.f 48 4 * maxnb + k)
    numAt s (w.f 16 8) at_ 4 ≠ 0xFFFFFFFF →
      numAt s (w.f 16 8) at_ 4 < atoms ∧ numAt s (w.f 16 8) (at_ + pad64 (4 * (atoms * maxnb))) 4 < atoms

/-- The product of a lattice shift and a gradient as descriptor `w` sends it to element `c` of object `n` (R215). -/
def productOf (s : State) (w : Work) (n c : Nat) (k : Int) (g : Nat) : Addend :=
  match (Num.mul (Num.ofInt k) (decFloat .fp32 g)).1 with
  | .fin b m e => addendOf s w n .xa128 c (e + 127) (unsigned 128 (sgn b m))
  | .inf b => addendOf s w n .fp32 c 0 (if b then 0xFF800000 else 0x7F800000)
  | .nan => addendOf s w n .fp32 c 0 0x7FC00000

/-- The addends of EDGE_GRAD (R215): for each slot that is not invalid, component by component, the gradient to the
neighbour, its negative to the centre, and, where the cell's gradient is asked for, its products with the shifts that are
not zero. -/
def edgeAddends (s : State) (w : Work) (atoms maxnb : Nat) : List Addend :=
  let plane := pad64 (4 * (atoms * maxnb))
  let force := (objOf s (hObj (w.f 32 8))).num
  let cell := (objOf s (hObj (w.f 40 8))).num
  (List.range (w.f 52 4 * maxnb)).flatMap (fun k =>
    let slot := w.f 48 4 * maxnb + k
    let word (d : Nat) : Nat := numAt s (w.f 16 8) (64 + d * plane + 4 * slot) 4
    if word 0 = 0xFFFFFFFF then []
    else (List.range 3).flatMap (fun a =>
      let g := numAt s (w.f 24 8) (a * plane + 4 * slot) 4
      [addendOf s w force .fp32 (a * atoms + word 1) 0 g, addendOf s w force .fp32 (a * atoms + word 0) 0 (Nat.xor g (2 ^ 31))] ++
      (if bit (w.f 56 1) 0 then (List.range 3).flatMap (fun b =>
          let n := signed 8 (bits (word 2) (8 * b) 8)
          if n = 0 then [] else [productOf s w cell (3 * b + a) n g])
        else [])))

/-- The addends of SCATTER_ADD to rows counted from element `base` on (R234): element by element, the source row of each
index that is not all ones. -/
def scatterAddends (s : State) (w : Work) (base : Nat) : List Addend :=
  let o := objOf s (hObj (w.f 32 8))
  let f := (Fmt.ofCode (w.f 52 1 % 16)).getD .s32
  let size := f.elemBits / 8
  (List.range w.gN).flatMap (fun i => match indexAt s (w.f 24 8) (bit (w.f 53 1) 0) i with
    | none => []
    | some x => (List.range (w.f 48 4)).map (fun j =>
      addendOf s w o.num f (base + x * o.rowElems + w.f 44 4 + j) (signed 16 (w.f 54 2))
        (numAt s (w.f 16 8) (i * pad64 (w.f 48 4 * size) + j * size) size)))

/-- Tile `k` of a save area is good (R275, R281): its header fits the area and its payload decodes to bytes of its CHECK. -/
def TileOk (s : State) (h : Nat) (a : Area) (k : Nat) : Prop :=
  let at_ := 16 * numAt s h (64 + 4 * k) 4
  let hd := bytesIn s (hObj h, hOff h + at_, 16)
  let coding := bits (field hd 4 4) 0 3
  let d := decodeTile (saveEsize a.f) (a.pitch / saveEsize a.f) coding (field hd 0 2)
    (bytesIn s (hObj h, hOff h + at_ + 16, field hd 2 2))
  at_ + 16 + field hd 2 2 ≤ a.used ∧ field hd 0 2 = min tileBytes (a.rows * a.pitch - k * tileBytes) ∧ coding ≤ 2 ∧
  bits (field hd 4 4) 3 2 = esizeCode (saveEsize a.f) ∧ field hd 12 4 = k ∧ field hd 2 2 ≤ field hd 0 2 ∧
  (coding = 0 → field hd 2 2 = field hd 0 2) ∧ d.length = field hd 0 2 ∧ crc32 d = field hd 8 4

/-! ## Descriptors (chapter 6) -/

/-- The module's and the host's memory are as they were. -/
def MemKept (s t : State) : Prop := t.mem = s.mem ∧ t.host = s.host ∧ t.hostPoison = s.hostPoison

/-- Every entry but those listed is as it was, but that sensors of units without power have SEN_STATE 3 (R449). -/
def AsleepKept (s t : State) (ks : List Nat) : Prop :=
  (∀ k, k ∉ ks → (∀ ss, ss < 0x28 → sensorOn t ss = false → k ≠ Key.senState + 256 * ss) → reg t k = reg s k) ∧
  ∀ ss, ss < 0x28 → sensorOn t ss = false → reg t (Key.senState + 256 * ss) = 3

/-- A sensor reports `v` of a period's readings: the mean of the input monitor's where it is exact, else the largest (R454). -/
def ReadsAs (ss : Nat) (vs : List Int) (v : Int) : Prop :=
  (3 ≤ ss ∧ v ∈ vs ∧ ∀ x ∈ vs, x ≤ v) ∨ (ss < 3 ∧ vs ≠ [] ∧ vs.sum = v * (vs.length : Int))

/-- A master's access reaches the mailbox block: it is powered, and the host's comes over the link once configuration
answers (R394, R415). -/
def MailboxReach (s : State) (m : Nat) : Prop :=
  mbxOn s = true ∧ (m = 1 → s.cxl.ready = true ∧ 2 ≤ reg s Key.cxlLinkState)

/-- Every register but the listed ones reads as before. -/
def RegsKept (s t : State) (ks : List Nat) : Prop := ∀ k, k ∉ ks → reg t k = reg s k

/-- Descriptor `w` of opcode `op`, named `r`, may start: compute runs, R153 holds, nothing cancels it, and the checks of
R149 pass. -/
structure Starts (op : Nat) (r : WRef) (s : State) (w : Work) : Prop where
  found : findWork s r = some w
  code : w.op = op
  fetched : w.phase = .fetched
  own : w.req = none
  runs : computing s = true
  may : startable s w = true
  live : cancelled s w = false
  checks : headerStatus s w = 0

/-- Descriptor `r` of opcode `op` is in its engine in module `s1`, as record `w`: it runs already, having waited, or its
dispatcher's issue decision goes to it now (R149, R169, R170). -/
def Enters (op : Nat) (r : WRef) (s s1 : State) (w : Work) : Prop :=
  (findWork s r = some w ∧ w.op = op ∧ w.req = none ∧ computing s = true ∧ w.phase = .running ∧ s1 = s) ∨
  ∃ w0 s0, Starts op r s w0 ∧ issue (markReady s) w0 = some s0 ∧
    w = w0.start s0 0 ∧ s1 = setWork { s0 with starts := s0.starts + 1 } w

/-- Nothing of the descriptor has been done: its record is as it was fetched, but that it runs. -/
structure Fresh (w : Work) : Prop where
  status : w.status = 0x0000
  bytes : w.rbuf = [] ∧ w.readFail = none
  versions : w.ver = none ∧ w.vers = []
  kept : w.names = [] ∧ w.cursor = 0
  holds : w.holds = []

/-- Descriptor `r` of opcode `op` enters its engine with nothing of it done. -/
def Begins (op : Nat) (r : WRef) (s s1 : State) (w : Work) : Prop := Enters op r s s1 w ∧ Fresh w

/-- A descriptor whose engine has ended with a status: it is done, or waits for the answers owed (R131, R150). -/
def ended (e : Ectx) (code : Nat) : State :=
  pump (setWork (releaseHolds e.s e.w) { e.w with
    holds := [], phase := if e.owed = 0 then .done else .acks
    status := if success code && !success e.w.status then e.w.status else code, acc := e.acc
    events := e.events, owed := e.owed })

/-- Command `c`, which brings the time base to `clock`, runs engine `body` on descriptors of opcode `op`. Run to its end,
the engine's effects stand and the descriptor ends OK; stopped by a check or a fault, with that status; while the engine
must wait the module is as before, but that the descriptor joins the line it waits in and the read of another module's
bytes is asked for once, a row held there noted (R226, R233, R323, R355). -/
def EngineRuns (clock : State → State) (c : WRef → Instr) (op : Nat) (body : WRef → Eng Unit) : Prop :=
  ∀ s r s1 w, Enters op r (clock s) s1 w →
    let x := ((body r).run).run { s := s1, w := w, die := w.die }
    let held : Work := { w with ver := x.2.w.ver, vers := x.2.w.vers, names := x.2.w.names, cursor := x.2.w.cursor }
    (x.1 = .ok () → exec (c r) s = .next (ended x.2 0x0000)) ∧
    (∀ code, x.1 = .error (.status code) → exec (c r) s = .next (ended x.2 code)) ∧
    (x.1 = .error .wait → exec (c r) s = .next (setWork s1 held)) ∧
    (∀ obj row, x.1 = .error (.promote obj row) →
      exec (c r) s = .next (setWork (planPromote s1 (objOf s1 obj) row w.die) held)) ∧
    (∀ k, x.1 = .error (.line k) → exec (c r) s = .next (setWork (joinLine (leaveLines s1 r x.2.passed) k r) held)) ∧
    (∀ m obj off len aux, x.1 = .error (.need m obj off len aux) → exec (c r) s = .next (
      let kept : Work := if holdsRow (objOf s1 obj) aux = true ∧ w.req = none ∧ (m, obj, off) ∉ w.holds
        then { held with holds := w.holds ++ [(m, obj, off)] } else held
      if (∃ t ∈ s1.fab.txns, t.kind = .rd ∧ t.issuer = some r) then setWork s1 held
      else setWork (pump (readReq s1 kept m obj off len aux)) kept))

/-- Array `tile` runs descriptor `w`: its step of `body` ended with array `b` in context `e`. -/
structure ArrSteps (s : State) (tile : Nat) (a b : ArrUnit) (w : Work) (e : Ectx) (body : ArrUnit → Work → Eng ArrUnit) :
    Prop where
  runs : arrRun s tile = some (a, w)
  ends : ((body a w).run).run (arrCtx s w) = (.ok b, e)

/-- The rows, expert's stride and expert a bin list at AUX gives an expert-routed descriptor, and the handle of its maxima
(R93, R173); another descriptor as it is, expert 0, maxima at AUX. -/
def withBin (s : State) (w : Work) : Work × Nat × Nat :=
  if w.op = 0x0103 then
    let h := w.f 40 8
    ({ w with names := (List.range (numAt s h 4 4)).map (fun i => numAt s h (64 + 4 * i) 4),
              cursor := numAt s h 0 4 * numAt s h 8 8 }, numAt s h 0 4, numAt s h 16 8)
  else (w, 0, w.f 40 8)

/-- The bin list of an expert-routed descriptor lies in this module and names a row at least (R173). -/
def BinReady (s : State) (w : Work) : Prop :=
  w.op = 0x0103 → InReach s w (w.f 40 8) 64 ∧ numAt s (w.f 40 8) 4 4 ≠ 0 ∧
    InReach s w (w.f 40 8) (64 + 4 * numAt s (w.f 40 8) 4 4)

/-- A supplied maximum (R93). -/
def maxAt (s : State) (w : Work) (auxH expert : Nat) (isCol : Bool) (i : Nat) : Option Int :=
  let v := numAt s auxH (2 * maxPos s w isCol i expert) 2
  if v = 0x8000 then none else some (signed 16 v)

/-- The operand and the expert that supply the maxima of a descriptor that runs (R93, R173). -/
def maximaAt (s : State) (w : Work) : Nat × Nat :=
  if w.op = 0x0103 then (numAt s (w.f 40 8) 16 8, numAt s (w.f 40 8) 0 4) else (w.f 40 8, 0)

/-- The supplied maxima of the batch of an array lie in this module, and no block of its rows and of the columns exceeds its
own: of rows those read at the batch's start, of columns those read at the descriptor's (R93). -/
structure MaximaKept (s : State) (a : ArrUnit) (w : Work) : Prop where
  reach : ∀ i, i < w.mM → Lies s w (hObj (maximaAt s w).1, hOff (maximaAt s w).1 + 2 * maxPos s w false i (maximaAt s w).2, 2)
  rows : ∀ i b o e, i < batchLen w a.rb → b < w.mBlocks →
    ((actBlk w (a.rb * batchMax w.mFmt + i) b).run).run (arrCtx s w) = (.ok o, e) →
    withinMax w.mFmt (if a.begun then a.amax.getD i none
      else maxAt s w (maximaAt s w).1 (maximaAt s w).2 false (a.rb * batchMax w.mFmt + i)) o = true
  columns : ∀ j b o e, j < w.mN → b < w.mBlocks → ((wgtBlk w j b).run).run (arrCtx s w) = (.ok o, e) →
    withinMax w.mFmt (a.wmax.getD j none) o = true

/-- Checks 4 and 5 of R110 pass for a descriptor with its rows, and what it reads at its start lies in this module. -/
structure MatrixReady (s : State) (w : Work) (auxH expert : Nat) : Prop where
  act : handleOk w s (matRegions s w).1.1 (matRegions s w).1.2 = true
  wgt : w.mWgtOk = true ∧ InReach s w (matRegions s w).2.1.1 (matRegions s w).2.1.2
  out : if w.mMode = 3 then mayName w s (objOf s (hObj (w.f 32 8))) = true ∧ (objOf s (hObj (w.f 32 8))).adderTarget = true ∧
      (objOf s (hObj (w.f 32 8))).spans 0 (hOff (matRegions s w).2.2.1.1 + (matRegions s w).2.2.1.2) = true
    else handleOk w s (matRegions s w).2.2.1.1 (matRegions s w).2.2.1.2 = true ∧
      inScratch s w.die (matRegions s w).2.2.1.1 (matRegions s w).2.2.1.2 = true
  aux : (matRegions s w).2.2.2.2 ≠ 0 → InReach s w (matRegions s w).2.2.2.1 (matRegions s w).2.2.2.2 ∧
    inScratch s w.die (matRegions s w).2.2.2.1 (matRegions s w).2.2.2.2 = true ∧
    overlaps (matRegions s w).2.2.1.1 (matRegions s w).2.2.1.2 (matRegions s w).2.2.2.1 (matRegions s w).2.2.2.2 = false
  maxima : supplied w = true →
    (w.op = 0x0103 → InReach s w auxH (2 * (max (topRow w) ((objOf s (hObj (w.f 16 8))).rowCount + (expert + 1) * w.mN)))) ∧
    ∀ i j, i < w.mM → j < w.mN →
      windowOk (windowOf w.mFmt (maxAt s w auxH expert false i) (maxAt s w auxH expert true j)) = true
  apart : overlaps (matRegions s w).2.2.1.1 (matRegions s w).2.2.1.2 (matRegions s w).1.1 (matRegions s w).1.2 = false ∧
    overlaps (matRegions s w).2.2.1.1 (matRegions s w).2.2.1.2 (matRegions s w).2.1.1 (matRegions s w).2.1.2 = false
  tiers : inScratch s w.die (matRegions s w).1.1 (matRegions s w).1.2 = true ∧
    inScratch s w.die (matRegions s w).2.1.1 (matRegions s w).2.1.2 = true

/-- Metadata entry of group `g` of stored weight row `r` (R101). -/
def metaAt (s : State) (w : Work) (r g : Nat) : Nat :=
  let len := if w.mTrans then w.mN else w.mK
  bits (numAt s w.mWgt (r * sparseBytes w.mFmt len + pad64 (sparseValues w.mFmt len) + g / 2) 1) (4 * (g % 2)) 4

/-- The metadata of a 2:4 operand passes the loader's checks (R102). -/
def MetaOk (s : State) (w : Work) : Prop :=
  w.op = 0x0101 → w.mK % 4 = 0 ∧
    (∀ r g, r < (wgtRows w).1 → g < cdiv (if w.mTrans then w.mN else w.mK) 4 → metaAt s w r g % 4 < metaAt s w r g / 4) ∧
    (w.mTrans = true → ∀ q g p, q < w.mK / 4 → g < cdiv w.mN 4 → p < 4 →
      ((List.range 4).filter (fun i => metaAt s w (4 * q + i) g % 4 == p || metaAt s w (4 * q + i) g / 4 == p)).length ≤ 2)

/-! ## Strands (R157-R173) -/

/-- The template record at a position of the array at a handle (R159). -/
def recAt (s : State) (h pos : Nat) : TRec := templateRec (bytesIn s (hObj h, hOff h + 128 * pos, 128))

/-- The records a chain reaches from a position on (R160). -/
def chainOf (s : State) (h : Nat) : Nat → Nat → Tab (Option TRec) → Tab (Option TRec)
  | 0, _, t => t
  | n + 1, pos, t =>
    let t := Tab.set none t pos (some (recAt s h pos))
    if (recAt s h pos).next = 0xFF then t else chainOf s h n (recAt s h pos).next t

/-- Every record a chain reaches lies in this module and passes the checks of R160. -/
def ChainOk (s : State) (w : Work) (h : Nat) : Nat → Nat → Prop
  | 0, _ => True
  | n + 1, pos => Lies s w (hObj h, hOff h + 128 * pos, 128) ∧ templateOk pos (recAt s h pos) = true ∧
    ((recAt s h pos).next ≠ 0xFF → ChainOk s w h n (recAt s h pos).next)

/-- Item, placement key and edge type of strand `q` of a launch (R158). -/
def strandItem (s : State) (w : Work) (q : Nat) : Nat :=
  if w.lRange then q else numAt s (w.f 16 8) (w.lItemBytes * q) w.lItemBytes
/-- The index its placement key is formed from (R158). -/
def strandIndex (s : State) (w : Work) (q : Nat) : Nat :=
  let n := if w.lKeyWide then 8 else 4
  if w.lKeyIdx then numAt s (w.f 40 8) (n * strandItem s w q) n else strandItem s w q
/-- Its placement key (R158). -/
def strandKey (s : State) (w : Work) (q : Nat) : Nat := w.f 32 8 + strandIndex s w q * 2 ^ w.f 60 1
/-- Its edge type (R158). -/
def strandType (s : State) (w : Work) (q : Nat) : Nat :=
  if w.lTyped then numAt s (w.f 48 8) (2 * strandItem s w q) 2 else 0

/-- The entries of the lists of a launch that form strand `q` lie in this module, and its key lies in the object that KEY
names (R158). -/
structure StrandLies (s : State) (w : Work) (q : Nat) : Prop where
  item : w.lRange = false → Lies s w (hObj (w.f 16 8), hOff (w.f 16 8) + w.lItemBytes * q, w.lItemBytes)
  idx : w.lKeyIdx = true → Lies s w (hObj (w.f 40 8), hOff (w.f 40 8) + (if w.lKeyWide then 8 else 4) * strandItem s w q,
    if w.lKeyWide then 8 else 4)
  key : handleAt w s (w.f 32 8) (strandIndex s w q * 2 ^ w.f 60 1) 1 = true
  typ : w.lTyped = true → Lies s w (hObj (w.f 48 8), hOff (w.f 48 8) + 2 * strandItem s w q, 2)

/-! ## Fabric requests (R351, R353, R355) -/

/-- A request passes the checks that would answer it without effect (R61, R466, R483). -/
structure Passes (s : State) (k : Pkt) : Prop where
  whole : s.err.fatal = false
  order : ephChecked k = true → k.eph = reg s Key.ephPin
  ready : k.ty = 7 → reg s Key.bootState ≠ 6 ∧ reg s Key.bootState ≠ 7

/-- Transactions, but for whether their packets have left (R15). -/
def unsent (ts : List Txn) : List Txn := ts.map (fun x => { x with sent := false })

/-- Command `c` serves the first request of kind `f` that no earlier one of its window holds back: `go` is its service,
which takes the request from the inbox. -/
def Serves (c : Nat → Instr) (f : Pkt → Bool) (go : State → Pkt → State) : Prop :=
  ∀ s t k ks, serving s = true → candidates f [] s.fab.inbox = k :: ks → Passes (atTime s t) k →
    ks = [] ∨ (go (atTime s t) k).fab.inbox.contains k = false →
    exec (c t) s = .next (markReady (touch (go (atTime s t) k)))

/-- The module with the record of the work for request `k` (R353). -/
def serverState (s : State) (die : Nat) (desc : List Byte) (k : Pkt) : State :=
  { s with work := s.work ++ [reqWork s k die desc], starts := s.starts + 1,
           strands := { s.strands with nextBatch := s.strands.nextBatch + 1 } }

/-- Command `c` takes the first packet of kind `f` from the inbox: `go` is what it does. -/
def Takes (c : Nat → Instr) (f : Pkt → Bool) (P : State → Pkt → Prop) (go : State → Pkt → State) : Prop :=
  ∀ s t k s1, reg s Key.frzState < 2 → takeInbox s f = some (k, s1) → P s k →
    exec (c t) s = .next (markReady (pump (go (atTime s1 t) k)))

/-! ## What every step keeps -/

/-- The entries of the dictionary's table from key `lo` on: keys strictly rising, no entry at its power-up value. -/
def dictWfFrom : Nat → Tab Nat → Bool
  | _, [] => true
  | lo, (k, v) :: t => decide (lo ≤ k) && (decide (v ≠ powerUp k) && dictWfFrom (k + 1) t)

/-- The state is in its canonical form: module memory, host memory and dictionary list strictly rising keys, and nothing
that equals what an unlisted key reads as. -/
structure Canonical (s : State) : Prop where
  mem : s.mem.wf = true
  host : Tab.wf 0 s.host = true
  dict : dictWfFrom 0 s.dict = true

/-- What no command takes back: commands that wait, what was sent, fuses blown. -/
structure Lasting (s t : State) : Prop where
  queue : t.pending = s.pending
  sent : s.out <+: t.out
  drawn : s.fresh ≤ t.fresh
  svn : s.boot.svn ≤ t.boot.svn
  revoked : ∀ n, bit s.boot.revoked n = true → bit t.boot.revoked n = true

end Sys2Proof.Machine.Claim
end

