-- ==== Sys2Proof/Certificates/Slice0/Obligations.lean ====
section
/-! DEFINITION. The statements, taken from the numbered rules of the spec: what each command does, what it
leaves as it was, and what every step keeps. -/

open Sys2Proof Sys2Proof.Machine Sys2Proof.Machine.Claim

/-! ## The vector engine (chapter 5) -/

/-- R122: the control instructions. NOP only passes; BRA, LOOP, BANY and BNONE go to the position of R121 or pass;
SETL and LOOP write the loop counter.
R122: MOVI writes every lane, whatever the masks; MOVB, ADDB and ADDBI write base register VD, the sums in the
40-bit offset field alone.
R122, R76, R115, R116: SEL chooses between two registers on the lanes of Q0; MIN and MAX are exact, and a NaN
operand gives the canonical NaN with INV.
R122, R123: the instructions that write a predicate. -/
def Obligations.VectorControl : Prop :=
  (
  ChangesUnit .vecNop 0x00 (fun _ _ v => v) ∧
  ChangesUnit .bra 0x02 (fun u i v => { v with pos := ((u.pos : Int) + i.imm).toNat }) ∧
  ChangesUnit .vLoop 0x03 (fun u i v => withLoop
    { v with pos := if u.l i.vd - 1 = 0 then v.pos else ((u.pos : Int) + i.imm).toNat } i.vd (u.l i.vd - 1)) ∧
  ChangesUnit .setl 0x04 (fun _ i v => withLoop v i.vd (BitVec.ofNat 32 i.imm32)) ∧
  ChangesUnit .bany 0x05 (fun u i v =>
    { v with pos := if (List.range 512).any (fun l => executes u i l && (u.pred i.va).getD l false)
                    then ((u.pos : Int) + i.imm).toNat else v.pos }) ∧
  ChangesUnit .bnone 0x06 (fun u i v =>
    { v with pos := if (List.range 512).any (fun l => executes u i l && (u.pred i.va).getD l false)
                    then v.pos else ((u.pos : Int) + i.imm).toNat })) ∧
  (
  ChangesUnit .movi 0x07 (fun _ i v => v.setReg i.vd (List.replicate 512 (BitVec.ofNat 32 i.imm32))) ∧
  ChangesUnit .movb 0x08 (fun u i v => withBase v i.vd (u.b i.va)) ∧
  ChangesUnit .addb 0x09 (fun u i v => withBase v i.vd
    (BitVec.ofNat 64 (hObj (u.b i.va).toNat * 2 ^ 40 + (hOff (u.b i.va).toNat + hOff (u.b i.vb).toNat) % 2 ^ 40))) ∧
  ChangesUnit .addbi 0x0A (fun u i v => withBase v i.vd
    (BitVec.ofNat 64 (hObj (u.b i.va).toNat * 2 ^ 40 +
      (((hOff (u.b i.va).toNat : Int) + signed 32 i.imm32) % (2 ^ 40 : Nat)).toNat)))) ∧
  (
  (∀ s tile w i, Issues s tile 0x31 w i →
    ∃ t v, exec (.sel tile) s = .next (batchOver t tile) ∧ v.length = 512 ∧
      (∀ l, l < 512 → v.getD l 0 =
        if ((vecOf s tile).pred 0).getD l false then
          (if ((vecOf s tile).pred i.qs).getD l false then ((vecOf s tile).reg i.va).getD l 0
           else ((vecOf s tile).reg i.vb).getD l 0)
        else if i.zm then 0 else ((vecOf s tile).reg i.vd).getD l 0) ∧
      Stepped s t tile w w ((passed (vecOf s tile)).setReg i.vd v) {}) ∧
  WritesLanes .vMin 0x32 (pickOp numMin) ∧
  WritesLanes .vMax 0x33 (pickOp numMax)) ∧
  (
  WritesBits .cmp 0x30 (fun u i l =>
    (List.zipWith (fun a b => cmpCond i.fn (regNum (tyFmt i) a) (regNum (tyFmt i) b))
      (elems (tyFmt i) ((u.reg i.va).getD l 0)) (elems (tyFmt i) ((u.reg i.vb).getD l 0))).any id) ∧
  WritesBits .fcls 0x34 (fun u i l =>
    (elems (tyFmt i) ((u.reg i.va).getD l 0)).any (fun a => Nat.land (classMask (tyFmt i) a) (i.imm20 % 32) != 0)) ∧
  WritesBits .qand 0x91 (fun u i l => (u.pred i.va).getD l false && (u.pred i.vb).getD l false) ∧
  WritesBits .qor 0x92 (fun u i l => (u.pred i.va).getD l false || (u.pred i.vb).getD l false) ∧
  WritesBits .qnot 0x93 (fun u i l => !((u.pred i.vb).getD l false)) ∧
  WritesBits .flgq 0x94 (fun u i l => Nat.land (u.laneFlags.getD l {}).toNat (i.imm20 % 16) != 0))

/-- R122, R116: the integer instructions that raise no event write their result on the executing lanes.
R122, R50, R123: the saturating integer instructions form the exact result and saturate it to the range of TY.
R122, R133: MOVX writes lane, item or batch numbers, LPERM permutes lanes, RND draws a generator word keyed by
seed, step, OPID, item and position.
R122, R124: floating arithmetic rounds one exact result; FABS and FNEG change the sign bit alone.
R122, R124, R126, R127: the functions of one or two operands. -/
def Obligations.VectorArithmetic : Prop :=
  (
  WritesQuietly .vAdd 0x10 (fun _ _ _ _ a b _ => a + b) ∧
  WritesQuietly .vSub 0x11 (fun _ _ _ _ a b _ => a - b) ∧
  WritesQuietly .vMul 0x12 (fun _ _ _ _ a b _ => a * b) ∧
  WritesQuietly .mulh 0x13 (fun _ i _ _ a b _ =>
    BitVec.ofInt 32 ((regInt (tyFmt i) a * regInt (tyFmt i) b) / (2 ^ 32 : Nat))) ∧
  WritesQuietly .vAnd 0x17 (fun _ _ _ _ a b _ => a &&& b) ∧
  WritesQuietly .vOr 0x18 (fun _ _ _ _ a b _ => a ||| b) ∧
  WritesQuietly .vXor 0x19 (fun _ _ _ _ a b _ => a ^^^ b) ∧
  WritesQuietly .andn 0x1A (fun _ _ _ _ a b _ => a &&& ~~~b) ∧
  WritesQuietly .shl 0x1B (fun _ i _ _ a b _ => a <<< ((if i.fn = 0 then b.toNat else i.imm20) % 32)) ∧
  WritesQuietly .shr 0x1C (fun _ i _ _ a b _ => a >>> ((if i.fn = 0 then b.toNat else i.imm20) % 32)) ∧
  WritesQuietly .sra 0x1D (fun _ i _ _ a b _ => a.sshiftRight ((if i.fn = 0 then b.toNat else i.imm20) % 32)) ∧
  WritesQuietly .addi 0x1E (fun _ i _ _ a _ _ => a + BitVec.ofInt 32 i.imm) ∧
  WritesQuietly .mov 0x1F (fun _ _ _ _ a _ _ => a)) ∧
  (
  WritesLanes .adds 0x14 (saturatedOp (fun a b => a + b)) ∧
  WritesLanes .subs 0x15 (saturatedOp (fun a b => a - b)) ∧
  WritesLanes .muls 0x16 (saturatedOp (fun a b => a * b))) ∧
  (
  WritesQuietly .movx 0x0B (fun u i l m _ _ _ =>
    if i.imm20 = 0 then BitVec.ofNat 32 l else if i.imm20 = 1 then BitVec.ofNat 32 m else BitVec.ofNat 32 u.batch) ∧
  WritesQuietly .lperm 0x61 (fun u i _ _ _ b _ => (u.reg i.va).getD (b.toNat % 512) 0) ∧
  WritesLanes .rnd 0x90 (fun s tile w i _ m _ _ _ =>
    (BitVec.ofNat 32 (genWord (reg s Key.genSeed) w.step (w.f 44 2)
      ((m * 65536 + (vecOf s tile).pos * 16 +
        (if i.fn = 0 then i.imm20 % 16 else ((vecOf s tile).l 0).toNat % 16)) % 2 ^ 64)), []))) ∧
  (
  WritesLanes .fadd 0x20 (roundedOp (fun a b _ => a.add b)) ∧
  WritesLanes .fsub 0x21 (roundedOp (fun a b _ => a.add b.neg)) ∧
  WritesLanes .fmul 0x22 (roundedOp (fun a b _ => a.mul b)) ∧
  WritesLanes .fma 0x23 (roundedOp (fun a b c => a.fma b c)) ∧
  WritesLanes .fnma 0x24 (roundedOp (fun a b c => a.neg.fma b c)) ∧
  WritesLanes .fms 0x25 (roundedOp (fun a b c => a.fma b c.neg)) ∧
  WritesQuietly .fabs 0x26 (fun _ i _ _ a _ _ =>
    pack (tyFmt i) ((elems (tyFmt i) a).map (fun e => e % 2 ^ ((tyFmt i).elemBits - 1)))) ∧
  WritesQuietly .fneg 0x27 (fun _ i _ _ a _ _ =>
    pack (tyFmt i) ((elems (tyFmt i) a).map (fun e => Nat.xor e (2 ^ ((tyFmt i).elemBits - 1))))) ∧
  WritesLanes .tlu 0x50 (fun s tile w i => roundedOp (fun a _ _ => (tluValue i.imm20 a, false)) s tile w i)) ∧
  (
  WritesLanes .frcp 0x51 (sequenceOp .rcp) ∧
  WritesLanes .frsq 0x52 (sequenceOp .rsq) ∧
  WritesLanes .fdiv 0x53 (sequenceOp .div) ∧
  WritesLanes .fsqrt 0x54 (sequenceOp .sqrt) ∧
  WritesLanes .fexp 0x55 (sequenceOp .exp) ∧
  WritesLanes .fexp2 0x56 (sequenceOp .exp2) ∧
  WritesLanes .flog 0x57 (sequenceOp .log) ∧
  WritesLanes .flog2 0x58 (sequenceOp .log2) ∧
  WritesLanes .fsin 0x59 (sequenceOp .sin) ∧
  WritesLanes .fcos 0x5A (sequenceOp .cos) ∧
  WritesLanes .ftanh 0x5B (sequenceOp .tanh))

/-- R122, R46, R47, R54: CVT copies between equal formats and rounds once otherwise; CVTX rounds a quad in its window;
XADD enters the elements of a into the quad.
R128: LRED gives the result to every executing lane; its flags reach every executing lane, its counts once. XA128
values sum exactly in the window max T + 9. -/
def Obligations.VectorConversions : Prop :=
  (
  WritesLanes .cvt 0x40
    (fun s tile w i _ m a _ _ =>
      let src := (Fmt.ofCode (i.imm20 % 16)).getD .s32
      if src = tyFmt i then (a, [])
      else
        let c := convScalar (tyFmt i) (tyMode w i) (drawWord s tile w i m 0) (regNum src ((elems src a).headD 0))
        (oneElem (tyFmt i) ((vecRun s tile w i).freeBits m) c.1, [c.2])) ∧
  (∀ s tile w w' i, Issues s tile 0x41 w i → EventsGoTo s tile w w' →
    let f : LaneOp := fun l m _ b _ =>
      let c := convScalar (tyFmt i) (tyMode w i) (drawWord s tile w i m 0) (xaNum b.toInt (quadAt (vecOf s tile) i.va l))
      (oneElem (tyFmt i) ((vecRun s tile w i).freeBits m) c.1, [c.2])
    ∃ t v fl, exec (.cvtx tile) s = .next (batchOver t tile) ∧ LaneWords (vecOf s tile) i f v ∧ LaneFlags (vecOf s tile) i f fl ∧
      Stepped s t tile w w' { ((passed (vecOf s tile)).setReg i.vd v) with laneFlags := fl }
        (laneEvents (vecOf s tile) i f)) ∧
  (∀ s tile w i, Issues s tile 0x42 w i →
    let f : LaneOp := fun l _ a b _ =>
      (0, (xaEnter b.toInt (quadAt (vecOf s tile) i.vd l) ((elems (tyFmt i) a).map (regNum (tyFmt i)))).2)
    ∃ t v fl, exec (.xadd tile) s = .next (batchOver t tile) ∧
      QuadWritten (vecOf s tile) i i.vd (fun l =>
        (xaEnter (((vecOf s tile).reg i.vb).getD l 0).toInt (quadAt (vecOf s tile) i.vd l)
          ((elems (tyFmt i) (((vecOf s tile).reg i.va).getD l 0)).map (regNum (tyFmt i)))).1) v ∧
      LaneFlags (vecOf s tile) i f fl ∧
      Stepped s t tile w w { (passed (vecOf s tile)) with regs := v, laneFlags := fl } (laneEvents (vecOf s tile) i f))) ∧
  (
  (∀ s tile w i, Issues s tile 0x60 w i → i.ty ≠ 11 →
    let r := (vecRun s tile w i).reduceTo
    let f : LaneOp := fun _ m _ _ _ => (oneElem (tyFmt i) ((vecRun s tile w i).freeBits m) r.1, [r.2.flags])
    let live := !(lanesOf (vecOf s tile) i).isEmpty
    ∃ t v fl, exec (.lred tile) s = .next (batchOver t tile) ∧
      LaneWords (vecOf s tile) i f v ∧ LaneFlags (vecOf s tile) i f fl ∧
      Stepped s t tile w w { ((passed (vecOf s tile)).setReg i.vd v) with laneFlags := fl }
        (if live then r.2 else {})) ∧
  (∀ s tile w i, Issues s tile 0x60 w i → i.ty = 11 →
    let u := vecOf s tile
    let ls := lanesOf u i
    let win := (ls.map (fun l => ((u.reg i.vb).getD l 0).toInt)).foldl max (-(2 ^ 31 : Nat) : Int) + 9
    let sum := (ls.map (fun l => (convXa win (xaNum ((u.reg i.vb).getD l 0).toInt (quadAt u i.va l))).1)).sum
    ∃ t v, exec (.lred tile) s = .next (batchOver t tile) ∧
      Stepped s t tile w w v ((vecRun s tile w i).reduceXa).acc ∧
      (∀ k, k ≠ i.vc → (k < i.vd ∨ i.vd + 4 ≤ k) → v.reg k = u.reg k) ∧
      ((i.vc < i.vd ∨ i.vd + 4 ≤ i.vc) → ∀ l ∈ ls, (v.reg i.vc).getD l 0 = BitVec.ofInt 32 win ∧
        ∀ k, k < 4 → (v.reg (i.vd + k)).getD l 0 = quadWord sum k)))

/-- R129, R130, R131: the loads and stores of the vector engine.
R131, R132: STA sends one addend for each element of each executing lane, in lane order; the descriptor owes one
answer for each. Addends whose elements lie in this module wait at its adders.
R134: DRV gives each executing lane its drain output, DRX the raw value in quad VD and its window in VC, once the rows
of the batch are in the queue; the rows stay there. -/
def Obligations.VectorMemory : Prop :=
  (
  Loads .ldi 0x70 false ∧ Loads .ldx 0x71 true ∧ Stores .sti 0x72 false ∧ Stores .stx 0x73 true) ∧
  (
  ∀ s tile w i, Issues s tile 0x74 w i →
    let x := vecRun s tile w i
    let n := x.addList.length
    (∀ a ∈ x.addList, -4096 ≤ a.1 ∧ a.1 ≤ 4095 ∧ elemStop w s x.memObj a.2.1 i.ty = none) →
    ((∀ a ∈ x.addList, ∃ b, locate s (objOf s x.memObj) ((objOf s x.memObj).elemOff a.2.1) = .here b) →
      let s1 := { s with addends := s.addends ++ x.addList.map (fun a =>
        { issuer := some w.ref, peer := self s, die := w.die, obj := x.memObj, elem := a.2.1, fmt := x.fmt,
          tsrc := a.1, val := a.2.2, qc := w.qc,
          gse := if w.cls = 5 then some w.dsp else none, sent := false }) }
      let w' : Work := { w with owed := w.owed + n }
      ∃ t, exec (.sta tile) s = .next (batchOver t tile) ∧
        Stepped (if n = 0 then s else pump (setWork s1 w')) t tile w (if n = 0 then w else w') (passed (vecOf s tile)) {}) ∧
    (∀ c, ((eachDo (fun (a : Int × Nat × Nat) => sendAddend x.memObj a.2.1 x.fmt a.1 a.2.2) x.addList).run).run
        { s := s, w := w, die := w.die } = (.ok (), c) →
      let w' : Work := if c.owed = 0 then w else { w with owed := w.owed + c.owed }
      ∃ t, exec (.sta tile) s = .next (batchOver t tile) ∧
        Stepped (if c.owed = 0 then c.s else pump (setWork c.s w')) t tile w w' (passed (vecOf s tile)) {} ∧ c.owed = n)) ∧
  (
  (∀ s tile w i, Issues s tile 0x80 w i → batchRows (vecOf s tile) ≤ (arrOf s tile).queue.length →
    let rows := (arrOf s tile).queue.take (batchRows (vecOf s tile))
    let f : LaneOp := fun l m _ _ _ => (vecRun s tile w i).drvLane rows l m
    ∃ t v fl, exec (.drv tile) s = .next (batchOver t tile) ∧
      LaneWords (vecOf s tile) i f v ∧ LaneFlags (vecOf s tile) i f fl ∧
      Stepped s t tile w w { ((passed (vecOf s tile)).setReg i.vd v) with laneFlags := fl, drained := true }
        (laneEvents (vecOf s tile) i f)) ∧
  (∀ s tile w i, Issues s tile 0x81 w i → batchRows (vecOf s tile) ≤ (arrOf s tile).queue.length →
    let rows := (arrOf s tile).queue.take (batchRows (vecOf s tile))
    let g (l : Nat) : Int × Int := (vecRun s tile w i).drxLane rows l ((vecOf s tile).items.getD l 0)
    ∃ t v, exec (.drx tile) s = .next (batchOver t tile) ∧
      Stepped s t tile w w { (passed (vecOf s tile)) with regs := v, drained := true } {} ∧
      (∀ k, k ≠ i.vc → (k < i.vd ∨ i.vd + 4 ≤ k) → Tab.get zeroReg v k = Tab.get zeroReg (vecOf s tile).regs k) ∧
      ((i.vc < i.vd ∨ i.vd + 4 ≤ i.vc) → ∀ l ∈ lanesOf (vecOf s tile) i,
        (Tab.get zeroReg v i.vc).getD l 0 = BitVec.ofInt 32 (g l).2 ∧
        ∀ k, k < 4 → (Tab.get zeroReg v (i.vd + k)).getD l 0 = quadWord (g l).1 k)))

/-- R129: the stores of an instruction to an object no row of which is copied, moved or versioned change no byte but the
ones its accesses reach. -/
def Obligations.StoresOnlyReached : Prop :=
  ∀ x indexed s r, Plain s x.memObj → storeRun x indexed s = .ok r →
    ∀ a, ¬ reached s x.memObj (x.accs indexed) a → byteAt r.1 a = byteAt s a

/-- R117, R119, R135: END ends the batch; the next batch starts at the body with the lane flags clear, and the last one
completes the descriptor with OK, or with the failure an acknowledged addend brought (R132); a drain-coupled batch that
read no drain row completes both descriptors FAULT_DRAIN; a batch past its limit completes the descriptor with TIMEOUT.
R146, R118, R139: a vector descriptor its dispatcher issues, whose checks pass, whose program and parameter block lie in
this module and whose program R118 allows, starts on a tile: its program and parameters are loaded, batch 0 begins at the
prologue, and it runs. A drain-coupled one starts with its matrix descriptor. -/
def Obligations.VectorPrograms : Prop :=
  (
  ChangesUnit .vEnd 0x01 (fun u _ v => { v with pos := u.words.length }) ∧
  (∀ s tile r w, (vecOf s tile).work = some r → findWork s r = some w → (vecOf s tile).pair = none →
    (vecOf s tile).cancel = false →
    let w1 : Work := { w with events := stick32 (w.events + 1) }
    let s1 := setWork s w1
    (∀ its, batchItems (vecOf s tile) w ((vecOf s tile).batch + 1) = some its →
      endBatch s tile = setVec s1 tile (beginBatch (vecOf s tile) w ((vecOf s tile).batch + 1) its)) ∧
    (batchItems (vecOf s tile) w ((vecOf s tile).batch + 1) = none →
      findWork (endBatch s tile) r = some { w1 with phase := if w.owed = 0 then .done else .acks,
                                                    status := if success w.status then 0x0000 else w.status } ∧
      vecOf (endBatch s tile) tile = (vecOf s tile).freed)) ∧
  (∀ s tile r k w m, (vecOf s tile).work = some r → findWork s r = some w → (vecOf s tile).pair = some k →
    findWork s k = some m → m.phase = .running → r ≠ k → (vecOf s tile).drained = false →
    findWork (endBatch s tile) r = some { w with phase := if w.owed = 0 then .done else .acks, status := 0x0018 } ∧
    findWork (endBatch s tile) k = some { m with phase := if m.owed = 0 then .done else .acks, status := 0x0018 }) ∧
  (∀ u w b its, w.op = 0x0200 → w.batch = none → batchItems u w b = some its →
    its.length = 512 ∧ ∀ l, l < 512 → its.getD l (0, false) = (b * 512 + l, decide (b * 512 + l < w.f 32 4))) ∧
  (∀ s tile w i, nextIns s tile = some (w, i) →
    (if w.f 48 4 = 0 then (vecOf s tile).limit else w.f 48 4) ≤ (vecOf s tile).issued → (vecOf s tile).pair = none →
    ∃ t, exec (.instructionLimit tile) s = .next t ∧ vecOf t tile = (vecOf s tile).freed ∧
      findWork t w.ref = some { w with phase := if w.owed = 0 then .done else .acks, status := 0x0003 } ∧
      { t with vec := s.vec, work := s.work } = s)) ∧
  (
  ∀ c op, ((c, op) = (Instr.vectorProgram, 0x0200) ∨ (c, op) = (Instr.drainCoupledProgram, 0x0201)) →
  ∀ s s1 r w tile, Starts op r s w → tileFor (markReady s) w = some tile → issue (markReady s) w = some s1 →
    let pair := if op = 0x0201 then pairOf s1 w else none
    let mode := (pair.map (fun m => m.f 60 1 % 4)).getD 0
    vecChecks s1 w (op != 0x0201 || (pair.isSome && (mode == 1 || mode == 2))) = 0 →
    (∀ m, pair = some m → 0 < m.mM ∧ 0 < m.mN) →
    Still s → InReach s w (w.f 16 8) (8 * w.f 36 2) → InReach s w (w.f 24 8) 128 →
    vprogOk (programOf s tile w) (w.f 38 2) (op == 0x0201) w.batch.isSome = true →
    ∃ t, exec (c r) s = .next t ∧ findWork t r = some (w.start s1 tile) ∧ t.mem = s.mem ∧ t.host = s.host ∧
      (vecOf t tile).work = some r ∧ (vecOf t tile).words = programOf s tile w ∧
      (∀ k, k < 16 → (vecOf t tile).b k = BitVec.ofNat 64 (leNat (((bytesAt s (w.f 24 8) 128).drop (8 * k)).take 8))) ∧
      (vecOf t tile).pos = 0 ∧ (vecOf t tile).batch = 0 ∧ (vecOf t tile).issued = 0 ∧ (vecOf t tile).limit = reg s Key.vecLimitDefault ∧ (vecOf t tile).laneFlags = [] ∧
      (vecOf t tile).pair = pair.map (·.ref))

/-! ## Dispatch, engines and arrays (chapters 4, 6 to 10) -/

/-- R150: the layout of a completion record. -/
def Obligations.CompletionRecord : Prop :=
  ∀ w t, w.desc.length = 64 → w.status < 2 ^ 16 → w.acc.satN < 2 ^ 32 → w.acc.fluN < 2 ^ 32 → w.acc.invN < 2 ^ 32 →
    w.events < 2 ^ 32 → t < 2 ^ 64 →
    (recordOf w t).length = 32 ∧ field (recordOf w t) 0 4 = w.tag ∧ field (recordOf w t) 4 2 = w.status ∧
    field (recordOf w t) 6 2 = w.acc.flags.toNat ∧ field (recordOf w t) 8 4 = w.acc.satN ∧
    field (recordOf w t) 12 4 = w.acc.fluN ∧ field (recordOf w t) 16 4 = w.acc.invN ∧
    field (recordOf w t) 20 4 = w.events ∧ field (recordOf w t) 24 8 = t

/-- R143, R400, R404, R405: the module fetches the next position of a queue that may fetch it: ring slot p mod 2^SIZE, with the
snoops, samples and counts of reading an aperture's object or the request to the host. Nothing else changes; a poisoned slot
fails its descriptor (log 23). -/
def Obligations.DescriptorFetch : Prop :=
  ∀ q t s, q < 64 → mayFetch s q = true →
    let x := queueOf s q
    let slot := reg s (Key.queueBase + 256 * q) + 64 * (x.next % 2 ^ reg s (Key.queueSize + 256 * q))
    ∃ (u : State) (w : Work), exec (.descriptorFetch q t) s = .next u ∧ w.ref = .q q (posName x x.next) ∧
      (∀ bs, ringRead s x.ringApt x.hdmBase slot 64 = some bs → w.desc = bs ∧ w.phase = .fetched) ∧
      (ringRead s x.ringApt x.hdmBase slot 64 = none → w.phase = .done ∧ w.status = 0x0019) ∧
      u.work.map (fun v => { v with readyAt := none }) = (s.work ++ [w]).map (fun v => { v with readyAt := none }) ∧
      queueOf u q = { x with next := x.next + 1 } ∧ (∀ k, k ≠ q → queueOf u k = queueOf s k) ∧
      u.mem = s.mem ∧ u.host = s.host ∧ u.objs = s.objs ∧
      { u with work := s.work, queues := s.queues, tick := s.tick } = ringSeen (atTime s t) x.ringApt x.hdmBase slot 64

/-- R151, R154 to R156: a descriptor whose status is due completes when its record can be written. A queue's descriptor
that succeeds without CW writes no record and changes no memory, no other queue and no register but the counters of busy
cycles and of completed REDUCEs; its position is complete.
R151, R399, R155: the record of a descriptor goes to the next completion slot, in host memory or in an aperture's object,
COMPL_PRODUCER counts it, the CPI word takes the count, a failure sets the fault latch, and once as many records wait as
QUEUE_IRQ_COUNT names the queue's vector is sent, or pends while it is masked. No other byte changes. -/
def Obligations.DescriptorCompletes : Prop :=
  (
  (∀ s r w st t, findWork s r = some w → dueStatus s w = some st → canRecord s w = true →
    exec (.descriptorComplete r t) s = .next (completeWork (atTime s t)
      (if w.phase = .done then w else { w with status := st, acc := {}, events := 0 }) (max s.time t))) ∧
  ∀ s q p w st t, findWork s (.q q p) = some w → dueStatus s w = some st → canRecord s w = true →
    genOf p = (queueOf s q).gen → (w.cw || !success st) = false →
    ∃ u, exec (.descriptorComplete (.q q p) t) s = .next u ∧ findWork u (.q q p) = none ∧
      (queueOf u q).done (posOf p) = true ∧ (queueOf s q).frontier ≤ (queueOf u q).frontier ∧
      (∀ k, k ≠ q → queueOf u k = queueOf s k) ∧
      (∀ k, k / 256 ∉ [0x200011, 0x210011, 0x210012, 0x240012, 0x240022, 0x250012, 0x270011, 0x280013] → k ≠ Key.redCompleted →
        reg u k = reg s k) ∧
      u.mem = s.mem ∧ u.host = s.host ∧ u.out = s.out) ∧
  (
  ∀ s q p w st t, q < 64 → findWork s (.q q p) = some w → w.phase = .done → dueStatus s w = some st →
    (w.cw || !success st) = true → reg s Key.cxlLinkState = 2 → (queueOf s q).lost = false →
    genOf p = (queueOf s q).gen → canRecord s w = true →
    let x := queueOf s q
    let at_ := reg s (Key.queueComplBase + 256 * q) + 32 * (x.compl % 2 ^ reg s (Key.queueSize + 256 * q))
    let cpi := reg s (Key.queueCpiAddr + 256 * q)
    let v := reg s (Key.queueVector + 256 * q)
    let ring := aptTarget s x.hdmBase at_
    let word := aptTarget s x.hdmBase cpi
    let full := decide (reg s (Key.queueIrqCount + 256 * q) ≤ x.unnotified + 1)
    let masked := bit (msixWord s.cxl (4 * v + 3)) 0
    (cpi ≠ 0 → x.cpiApt = x.complApt → cpi + 4 ≤ at_ ∨ at_ + 32 ≤ cpi) →
    (x.complApt = true → Plain s ring.1 ∧ (objOf s ring.1).num = ring.1 ∧ Injective s (ring.1, ring.2, 32)) →
    (cpi ≠ 0 → x.cpiApt = true → Plain s word.1 ∧ (objOf s word.1).num = word.1 ∧ Injective s (word.1, word.2, 4)) →
    (cpi ≠ 0 → x.complApt = true → x.cpiApt = true → Apart s [(ring.1, ring.2, 32)] [(word.1, word.2, 4)]) →
    ∃ u, exec (.descriptorComplete (.q q p) t) s = .next u ∧
      (x.complApt = false → Tab.getRange 0 u.host at_ 32 = recordOf w (max s.time t)) ∧
      (x.complApt = true → ∀ d a, d < 32 → locate s (objOf s ring.1) (ring.2 + d) = .here a →
        byteAt u a = (recordOf w (max s.time t)).getD d 0) ∧
      (cpi ≠ 0 → x.cpiApt = false → Tab.getRange 0 u.host cpi 4 = leBytes 4 (x.compl + 1)) ∧
      (cpi ≠ 0 → x.cpiApt = true → ∀ d a, d < 4 → locate s (objOf s word.1) (word.2 + d) = .here a →
        byteAt u a = (leBytes 4 (x.compl + 1)).getD d 0) ∧
      (∀ a, (x.complApt = false → a < at_ ∨ at_ + 32 ≤ a) → (cpi ≠ 0 → x.cpiApt = false → a < cpi ∨ cpi + 4 ≤ a) →
        Tab.get 0 u.host a = Tab.get 0 s.host a) ∧
      (∀ a, ¬ Within s ((if x.complApt then [(ring.1, ring.2, 32)] else []) ++
          (if cpi ≠ 0 ∧ x.cpiApt = true then [(word.1, word.2, 4)] else [])) a → byteAt u a = byteAt s a) ∧
      (queueOf u q).compl = x.compl + 1 ∧ (queueOf u q).unnotified = (if full then 0 else x.unnotified + 1) ∧
      (full = true → v ≠ 0xFFFF → masked = false → ∃ l, u.out = l ++ [.msix v]) ∧
      (full = true → v ≠ 0xFFFF → masked = true → v ∈ u.cxl.msixDue) ∧
      (full = false ∨ v = 0xFFFF → u.cxl.msixDue = s.cxl.msixDue ∧ ∀ k, .msix k ∈ u.out → .msix k ∈ s.out) ∧
      reg u (Key.queueFaultLatch + 256 * q) = (if success st then reg s (Key.queueFaultLatch + 256 * q) else 1))

/-- R156, R399, R242: the dispatcher's own descriptors, the notice timer, and the release of OLD. -/
def Obligations.DispatcherCommands : Prop :=
  (∀ s r w, Starts 0x0900 r s w → exec (.nop r) s = .next (setWork s { w with phase := .done, status := 0x0000 })) ∧
  (∀ s r w t, (Starts 0x0901 r s w ∨ (findWork s r = some w ∧ w.op = 0x0901 ∧ w.phase = .running)) →
    let b : Nat := if w.phase = .running then w.began else max s.time t
    exec (.waitQueue r t) s = .next (setWork (atTime s t)
      (if 63 < w.f 16 2 then { w with began := b, phase := .done, status := 0x0012 }
       else if w.f 24 8 ≤ (queueOf s (w.f 16 2)).frontier then { w with began := b, phase := .done, status := 0x0000 }
       else { w with began := b, phase := .running }))) ∧
  (∀ s r w t, findWork s r = some w → w.op = 0x0901 → w.phase = .running → w.f 32 4 ≠ 0 →
    w.began + 1000 * w.f 32 4 ≤ t → (queueOf s (w.f 16 2)).frontier < w.f 24 8 →
    exec (.waitQueueTimeout r t) s = .next (setWork (atTime s t) { w with phase := .done, status := 0x0003 })) ∧
  (∀ s r w, Starts 0x0931 r s w →
    exec (.prdUnbind r) s = .next (if 63 < w.f 16 1 then setWork s { w with phase := .done, status := 0x0012 }
      else setWork { s with binds := Tab.set {} s.binds (w.f 16 1) {} } { w with phase := .done, status := 0x0000 })) ∧
  (∀ s q t, q < 64 → reg s (Key.queueIrqUs + 256 * q) ≠ 0 → 0 < (queueOf s q).unnotified →
    (queueOf s q).firstAt + 1000 * reg s (Key.queueIrqUs + 256 * q) ≤ max s.time t →
    let v := reg s (Key.queueVector + 256 * q)
    let masked := bit (msixWord s.cxl (4 * v + 3)) 0
    ∃ u, exec (.queueIrqTimer q t) s = .next u ∧ queueOf u q = { queueOf s q with unnotified := 0 } ∧
      (∀ k, k ≠ q → queueOf u k = queueOf s k) ∧ u.time = max s.time t ∧
      u.out = s.out ++ (if v = 0xFFFF ∨ masked = true then [] else [.msix v]) ∧
      u.cxl.msixDue = s.cxl.msixDue ++ (if v = 0xFFFF ∨ masked = false ∨ v ∈ s.cxl.msixDue then [] else [v]) ∧
      { u with queues := s.queues, out := s.out, time := s.time, cxl := { u.cxl with msixDue := s.cxl.msixDue } } = s) ∧
  (∀ s k v t, (Tab.get {} s.slots k).old = some v → versionRefs s k v = 0 →
    (Tab.get {} s.slots k).oldIdle + 1000 * reg s Key.tblLingerUs ≤ max s.time t →
    ∃ u, exec (.tableRelease k t) s = .next (serveHeld u) ∧
      Tab.get {} u.slots k = { Tab.get {} s.slots k with old := none, draftOpen := true } ∧
      (∀ j, j ≠ k → Tab.get {} u.slots j = Tab.get {} s.slots j) ∧
      ((objOf s (Tab.get {} s.slots k).obj).declared = true → (objOf s (Tab.get {} s.slots k).obj).num = (Tab.get {} s.slots k).obj →
        (objOf u (Tab.get {} s.slots k).obj).shadows = []) ∧
      { u with slots := s.slots, objs := s.objs, time := s.time } = s)

/-- R149, R59, R144: the status of a descriptor that fails a check of its start is that of the first that fails: an opcode no
chapter defines, a class its queue or its targets exclude, EPH_PIN 0; the command of its engine gives it that status and nothing
else changes, but that the matrix descriptor a drain-coupled one names ends CANCELLED (R135); DESCRIPTOR_COMPLETE finds the same
status due. -/
def Obligations.StartChecks : Prop :=
  (∀ s w, w.op ∉ [0x0100, 0x0101, 0x0102, 0x0103, 0x0200, 0x0201, 0x0300, 0x0301, 0x0302, 0x0400, 0x0401, 0x0402, 0x0500, 0x0501,
      0x0502, 0x0503, 0x0504, 0x0510, 0x0511, 0x0512, 0x0600, 0x0601, 0x0602, 0x0700, 0x0701, 0x0702, 0x0703, 0x0800, 0x0880,
      0x0881, 0x0900, 0x0901, 0x0910, 0x0930, 0x0931, 0x0A00, 0x0A01, 0x0A02, 0x0A03, 0x0A04] → headerStatus s w = 0x0013) ∧
  (∀ s w, opKnown w.op = true → classFault s w = true → headerStatus s w = 0x0014) ∧
  (∀ s w, opKnown w.op = true → classFault s w = false → 1 ≤ w.cls → w.cls ≤ 8 → reg s Key.ephPin = 0 →
    headerStatus s w = 0x0015) ∧
  (∀ s w, w.req = none → w.phase = .fetched → startable s w = true → cancelled s w = false → headerStatus s w ≠ 0 →
    dueStatus s w = some (headerStatus s w)) ∧
  (∀ c op timed, ((c : Nat → WRef → Instr), op, timed) ∈ ([(fun _ => .denseContraction, 0x0100, false),
      (fun _ => .sparseContraction, 0x0101, false), (fun _ => .elementWiseProduct, 0x0102, false),
      (fun _ => .expertRoutedContraction, 0x0103, false), (fun _ => .vectorProgram, 0x0200, false),
      (fun _ => .sample, 0x0300, false), (fun _ => .smpPrefix, 0x0301, false), (fun _ => .compact, 0x0302, false),
      (fun _ => .build, 0x0400, false), (fun _ => .edgeGrad, 0x0401, false), (fun _ => .edgeDiff, 0x0402, false),
      (fun _ => .gather, 0x0500, false), (fun _ => .scatterAdd, 0x0501, false), (fun _ => .scatterWrite, 0x0502, false),
      (fun _ => .readout, 0x0503, false), (fun _ => .clear, 0x0504, false), (fun _ => .pinRefresh, 0x0510, false),
      (fun t r => .tablePublish r t, 0x0511, true), (fun t r => .promote r t, 0x0512, true)] ++
      [(fun _ => .updSgd, 0x0600, false), (fun _ => .updAdam, 0x0601, false), (fun _ => .updAdagrad, 0x0602, false),
      (fun _ => .save, 0x0700, false), (fun _ => .restore, 0x0701, false), (fun _ => .ckptExport, 0x0702, false),
      (fun _ => .ckptImport, 0x0703, false), (fun t r => .reduce r t, 0x0800, false), (fun t r => .fabPut r t, 0x0880, true),
      (fun t r => .fabMsg r t, 0x0881, true), (fun _ => .nop, 0x0900, false), (fun t r => .waitQueue r t, 0x0901, true),
      (fun t r => .launch r t, 0x0910, true), (fun _ => .prdBind, 0x0930, false), (fun _ => .prdUnbind, 0x0931, false),
      (fun _ => .declare, 0x0A00, false), (fun _ => .undeclare, 0x0A01, false), (fun _ => .epochAdvance, 0x0A02, false),
      (fun t r => .reside r t, 0x0A03, true), (fun _ => .release, 0x0A04, false)] : List ((Nat → WRef → Instr) × Nat × Bool)) →
    ∀ s r w t, findWork s r = some w → w.op = op → w.phase = .fetched → w.req = none → computing s = true →
      startable s w = true → cancelled s w = false → w.waiting = false → headerStatus s w ≠ 0 →
      exec (c t r) s = .next (setWork (if timed then atTime s t else s) { w with phase := .done, status := headerStatus s w })) ∧
  (∀ s r w, findWork s r = some w → w.op = 0x0201 → w.phase = .fetched → computing s = true → startable s w = true →
    cancelled s w = false → headerStatus s w ≠ 0 →
    let s1 := setWork s { w with phase := .done, status := headerStatus s w }
    (pairOf s w = none → exec (.drainCoupledProgram r) s = .next s1) ∧
    (∀ m, pairOf s w = some m → m.phase = .fetched → m.ref ≠ r →
      exec (.drainCoupledProgram r) s = .next (setWork s1 { m with phase := .done, status := 0x0002 })) ∧
    (∀ m, pairOf s w = some m → m.phase = .running → m.ref ≠ r → findWork s m.ref = some m →
      exec (.drainCoupledProgram r) s = .next (setArr
        (setWork s1 { m with phase := if m.owed = 0 then .done else .acks, status := 0x0002 }) m.unit (arrOf s m.unit).freed)))

/-- R186 to R217: the samplers and the neighbour-list builders run their descriptors.
R223 to R256: the gather-scatter engine runs its descriptors.
R176, R260 to R288: binding, updates, saves and checkpoints run their descriptors. -/
def Obligations.EngineDescriptors : Prop :=
  (
  EngineRuns (fun s => s) .sample 0x0300 (fun _ => sampleBody) ∧
  EngineRuns (fun s => s) .smpPrefix 0x0301 (fun _ => prefixBody) ∧
  EngineRuns (fun s => s) .compact 0x0302 (fun _ => compactBody) ∧
  EngineRuns (fun s => s) .build 0x0400 (fun _ => buildBody) ∧
  EngineRuns (fun s => s) .edgeGrad 0x0401 (fun _ => edgeGradBody) ∧
  EngineRuns (fun s => s) .edgeDiff 0x0402 (fun _ => edgeDiffBody)) ∧
  (
  EngineRuns (fun s => s) .gather 0x0500 (fun _ => gatherBody) ∧
  EngineRuns (fun s => s) .scatterAdd 0x0501 (fun _ => scatterAddBody) ∧
  EngineRuns (fun s => s) .scatterWrite 0x0502 (fun _ => scatterWriteBody) ∧
  EngineRuns (fun s => s) .readout 0x0503 (fun _ => readoutBody) ∧
  EngineRuns (fun s => s) .clear 0x0504 (fun _ => clearBody) ∧
  EngineRuns (fun s => s) .pinRefresh 0x0510 (fun _ => pinBody) ∧
  (∀ t, EngineRuns (fun s => atTime s t) (fun r => .tablePublish r t) 0x0511 publishBody) ∧
  (∀ t, EngineRuns (fun s => atTime s t) (fun r => .promote r t) 0x0512 (fun _ => promoteBody))) ∧
  (
  EngineRuns (fun s => s) .prdBind 0x0930 (fun _ => prdBindBody) ∧
  EngineRuns (fun s => s) .updSgd 0x0600 (fun _ => updBody) ∧
  EngineRuns (fun s => s) .updAdam 0x0601 (fun _ => updBody) ∧
  EngineRuns (fun s => s) .updAdagrad 0x0602 (fun _ => updBody) ∧
  EngineRuns (fun s => s) .save 0x0700 (fun _ => saveBody) ∧
  EngineRuns (fun s => s) .restore 0x0701 (fun _ => restoreBody) ∧
  EngineRuns (fun s => s) .ckptExport 0x0702 (fun _ => exportBody) ∧
  EngineRuns (fun s => s) .ckptImport 0x0703 (fun _ => importBody))

/-- R193 to R206: SAMPLE, SMP_PREFIX and COMPACT end with OK, whatever the bytes, where the spec's checks on them pass and
what they reach lies in this module: SAMPLE writes the planes of its path object, PREFIX the running sums, COMPACT its
three outputs, and no other byte of memory. -/
def Obligations.SamplersComplete : Prop :=
  (∀ s r s1 w, Begins 0x0300 r s s1 w → Still s1 →
    let path := w.f 32 8
    let hd := bytesAt s1 path 64
    let hops := field hd 2 1
    let l0 := field hd 8 4
    let fs := (List.range (min hops 8)).map (fun h => field hd (16 + 2 * h) 2)
    let ls := levels l0 fs
    let total := (regionStarts 64 (ls.drop 1)).getLastD 64
    let g := graphOf (bytesAt s1 (w.f 16 8) 64)
    let mode := w.f 48 1 % 4
    let ins := spanOf (w.f 24 8) (8 * l0) :: spanOf (w.f 16 8) 64 :: g.arrays.map (fun a => spanOf a.1 a.2)
    field hd 0 2 = 1 → 1 ≤ hops → hops ≤ 8 → (∀ f ∈ fs, 1 ≤ f ∧ f ≤ 4096) →
    (∀ h, hops ≤ h → h < 8 → field hd (16 + 2 * h) 2 = 0) → (∀ l ∈ ls, l < 2 ^ 32) →
    w.f 44 4 ≠ 0 → 1 ≤ l0 → w.f 40 4 + w.f 44 4 ≤ l0 →
    InReach s1 w path 64 → InReach s1 w path total → (∀ p ∈ ins, Lies s1 w p) →
    (∀ p ∈ ins, overlaps path total (p.1 * 2 ^ 40 + p.2.1) p.2.2 = false) →
    Apart s1 [spanOf path total] ins → Injective s1 (spanOf path total) →
    (mode = 1 → bit g.ctl 4 = true) → (mode = 2 → bit g.ctl 2 = true) →
    GraphOk s1 g → (mode = 1 → SumsOk s1 g) →
    (∀ i, i < w.f 44 4 → numAt s1 (w.f 24 8) (8 * (w.f 40 4 + i)) 8 = noNode ∨ numAt s1 (w.f 24 8) (8 * (w.f 40 4 + i)) 8 < g.nodes) →
    ∃ t, exec (.sample r) s = .next t ∧ Finishes s1 t r [(hObj path, hOff path + 64, total - 64)]) ∧
  (∀ s r s1 w, Begins 0x0301 r s s1 w → Still s1 →
    let g := graphOf (bytesAt s1 (w.f 16 8) 64)
    InReach s1 w (w.f 16 8) 64 → (∀ a ∈ g.arrays, InReach s1 w a.1 a.2) →
    w.f 48 8 ≠ 0 → w.f 40 8 + w.f 48 8 ≤ g.nodes → bit g.ctl 2 = true → bit g.ctl 4 = true →
    (w.qc && isTraining s1 g.cumw) = false → GraphOk s1 g →
    (∀ n, n < g.nodes → ((List.range (offsetAt s1 g (n + 1) - offsetAt s1 g n)).map
      (fun e => numAt s1 g.weights (4 * (offsetAt s1 g n + e)) 4)).sum < 2 ^ 64) →
    Apart s1 [spanOf g.cumw (8 * g.edges)]
      [spanOf g.offsets (idxBytes (bit g.ctl 0) * (g.nodes + 1)), spanOf g.weights (4 * g.edges)] →
    ∃ t, exec (.smpPrefix r) s = .next t ∧ Finishes s1 t r [spanOf g.cumw (8 * g.edges)]) ∧
  (∀ s r s1 w, Begins 0x0302 r s s1 w → Still s1 →
    let n := w.f 40 4
    let outs := [(w.f 24 8, 8 * n), (w.f 32 8, 4 * n), (w.f 48 8, 16 * n)]
    1 ≤ n → n ≤ 16777216 → InReach s1 w (w.f 16 8) (8 * n) → (∀ o ∈ outs, InReach s1 w o.1 o.2) →
    (∀ o ∈ outs, overlaps o.1 o.2 (w.f 16 8) (8 * n) = false) →
    outs.Pairwise (fun a b => overlaps a.1 a.2 b.1 b.2 = false) →
    ∃ t, exec (.compact r) s = .next t ∧ Finishes s1 t r (outs.map (fun o => spanOf o.1 o.2)))

/-- R207 to R217: BUILD, EDGE_GRAD and EDGE_DIFF end with OK where the spec's checks on the system, the cut-off, the positions
and the path object pass and what they reach lies in this module. BUILD writes its three outputs, EDGE_DIFF its output, and no
other byte; EDGE_GRAD sends its addends and changes no byte. -/
def Obligations.BuilderCompletes : Prop :=
  (∀ s r s1 w, Begins 0x0400 r s s1 w → Still s1 →
    let maxnb := w.f 52 2
    let sys := w.f 16 8
    let hd := bytesAt s1 sys 64
    let atoms := field hd 8 4
    let plane := pad64 (4 * atoms)
    let s4 := pad64 (4 * (atoms * maxnb))
    let cellB := (List.range 9).map (fun i => field hd (16 + 4 * i) 4)
    let pts := (List.range atoms).map (fun i => (List.range 3).map (fun c =>
      fpInt (numAt s1 (field hd 0 8) (c * plane + 4 * i) 4)))
    let outs := [(w.f 24 8, 64 + 3 * s4), (w.f 32 8, 3 * s4), (w.f 40 8, 4 * atoms)]
    ∀ rc2 cell, fpInt (w.f 48 4) = some rc2 → 0 < rc2 → (∀ b ∈ cellB, (fpInt b).isSome) →
    cellOf (cellB.map (fun b => (fpInt b).getD 0)) = some cell →
    let ns := (List.range 3).map (gridCells cell rc2)
    let ms := (List.range 3).map (fun k => if ns.getD k 1 < 3 then imageSpan cell rc2 k else some 0)
    (∀ m ∈ ms, m.isSome) → 1 ≤ maxnb → maxnb ≤ 1024 → 1 ≤ atoms → atoms ≤ 4194304 → w.f 60 4 ≠ 0 → w.f 56 4 + w.f 60 4 ≤ atoms →
    InReach s1 w sys 64 → InReach s1 w (field hd 0 8) (3 * plane) → (∀ o ∈ outs, InReach s1 w o.1 o.2) →
    (∀ x ∈ pts, ∀ v ∈ x, v.isSome) →
    (∀ o ∈ outs, overlaps o.1 o.2 sys 64 = false ∧ overlaps o.1 o.2 (field hd 0 8) (3 * plane) = false) →
    outs.Pairwise (fun a b => overlaps a.1 a.2 b.1 b.2 = false) →
    (∀ k, k < w.f 60 4 → (edgesOf cell ((List.range 3).map (fun k => bit (w.f 54 1) k)) (ms.map (fun m => m.getD 0)) (w.f 48 4)
      (reach rc2) (bit (w.f 55 1) 0) (pts.map (fun x => x.map (fun v => v.getD 0))) (w.f 56 4 + k)).length ≤ maxnb) →
    ∃ t, exec (.build r) s = .next t ∧ Finishes s1 t r (outs.map (fun o => spanOf o.1 o.2))) ∧
  (∀ s r s1 w, Begins 0x0401 r s s1 w → Still s1 →
    ∀ atoms maxnb, RadiusOk s1 w atoms maxnb →
    let s4 := pad64 (4 * (atoms * maxnb))
    let fo := objOf s1 (hObj (w.f 32 8))
    let co := objOf s1 (hObj (w.f 40 8))
    let cg := bit (w.f 56 1) 0
    InReach s1 w (w.f 24 8) (3 * s4) → InReach s1 w (w.f 32 8) 1 → (cg = true → InReach s1 w (w.f 40 8) 1) →
    fo.fmt = 11 → fo.adderTarget = true → fo.spans (fo.elemOff (3 * atoms - 1)) fo.elemBytes = true →
    (∀ e, e < 3 * atoms → ∃ a, locate s1 fo (fo.elemOff e) = .here a) →
    (cg = true → co.fmt = 11 ∧ co.adderTarget = true ∧ co.spans (co.elemOff 8) co.elemBytes = true ∧
      ∀ e, e < 9 → ∃ a, locate s1 co (co.elemOff e) = .here a) →
    fo.num ≠ hObj (w.f 16 8) → fo.num ≠ hObj (w.f 24 8) →
    (cg = true → co.num ≠ fo.num ∧ co.num ≠ hObj (w.f 16 8) ∧ co.num ≠ hObj (w.f 24 8)) →
    ∃ t, exec (.edgeGrad r) s = .next t ∧ FinishesAdding s1 t r (edgeAddends s1 w atoms maxnb)) ∧
  (∀ s r s1 w, Begins 0x0402 r s s1 w → Still s1 →
    ∀ atoms maxnb, RadiusOk s1 w atoms maxnb →
    let s4 := pad64 (4 * (atoms * maxnb))
    let plane := pad64 (4 * atoms)
    let cg := bit (w.f 56 1) 0
    w.rnd ≠ 3 → InReach s1 w (w.f 24 8) (3 * plane) → InReach s1 w (w.f 32 8) (3 * s4) → (cg = true → InReach s1 w (w.f 40 8) 36) →
    overlaps (w.f 32 8) (3 * s4) (w.f 16 8) (64 + 3 * s4) = false → overlaps (w.f 32 8) (3 * s4) (w.f 24 8) (3 * plane) = false →
    (cg = true → overlaps (w.f 32 8) (3 * s4) (w.f 40 8) 36 = false) →
    Apart s1 [spanOf (w.f 32 8) (3 * s4)] [spanOf (w.f 16 8) (64 + 3 * s4), spanOf (w.f 24 8) (3 * plane)] →
    ∃ t, exec (.edgeDiff r) s = .next t ∧ Finishes s1 t r [spanOf (w.f 32 8) (3 * s4)])

/-- R223 to R256: GATHER, SCATTER_ADD, SCATTER_WRITE, READOUT, CLEAR, PIN_REFRESH and PROMOTE end with OK where the spec's
checks on the descriptor and on every index pass and what they reach lies in this module; GATHER and READOUT write their
output, SCATTER_WRITE the ranges of the rows it names, CLEAR (and READOUT that clears) the rows, and no other byte; SCATTER_ADD
sends its addends. -/
def Obligations.GatherScatterCompletes : Prop :=
  (∀ s r s1 w, Begins 0x0500 r s s1 w → Still s1 →
    let src := objOf s1 (hObj (w.f 16 8))
    let n := w.gN
    let colb := w.f 48 4
    let wide := bit (w.f 54 1) 0
    let out := n * pad64 colb
    n ≠ 0 → 1 ≤ colb → colb ≤ 65536 → w.f 44 4 + colb ≤ src.pitch → mayName w s1 src = true → src.num = hObj (w.f 16 8) →
    InReach s1 w (w.f 24 8) (idxBytes wide * n) → InReach s1 w (w.f 32 8) out → inScratch s1 w.die (w.f 32 8) out = true →
    overlaps (w.f 32 8) out (w.f 16 8) (src.size - hOff (w.f 16 8)) = false →
    overlaps (w.f 32 8) out (w.f 24 8) (idxBytes wide * n) = false →
    Apart s1 [spanOf (w.f 32 8) out] [spanOf (w.f 24 8) (idxBytes wide * n)] →
    (src.versioned = true → src.rowlen ≠ 0 ∧ (resolveVer s1 src (w.f 52 2)).isSome = true) →
    (∀ i x, i < n → indexAt s1 (w.f 24 8) wide i = some x →
      x < src.rowCount ∧ src.spans (rowAt src (w.f 16 8) x + w.f 44 4) colb = true ∧
      ∀ d, d < colb → ∃ a, locate s1 src (rowAt src (w.f 16 8) x + w.f 44 4 + d) = .here a) →
    ∃ t, exec (.gather r) s = .next t ∧ Finishes s1 t r [spanOf (w.f 32 8) out]) ∧
  (∀ s r s1 w, Begins 0x0501 r s s1 w → Still s1 →
    let dst := objOf s1 (hObj (w.f 32 8))
    let n := w.gN
    let ne := w.f 48 4
    let wide := bit (w.f 53 1) 0
    let fc := w.f 52 1 % 16
    let eb := ((Fmt.ofCode fc).getD .s32).elemBits / 8
    let src := (n - 1) * pad64 (ne * eb) + ne * eb
    ∀ base, dst.elemsBefore (hOff (w.f 32 8)) = some base →
    n ≠ 0 → 1 ≤ ne → ne ≤ 16384 → fc ∈ [4, 8, 9, 10, 11] → (fc = 11 → windowOk (signed 16 (w.f 54 2)) = true) →
    mayName w s1 dst = true → dst.num = hObj (w.f 32 8) → dst.adderTarget = true → (dst.fmt = 4 → fc = 4) →
    w.f 44 4 + ne ≤ dst.rowElems → InReach s1 w (w.f 16 8) src → InReach s1 w (w.f 24 8) (idxBytes wide * n) →
    inScratch s1 w.die (w.f 16 8) src = true →
    overlaps (w.f 16 8) (n * pad64 (ne * eb)) (w.f 32 8) (dst.size - hOff (w.f 32 8)) = false →
    overlaps (w.f 16 8) (n * pad64 (ne * eb)) (w.f 24 8) (idxBytes wide * n) = false →
    (∀ i x, i < n → indexAt s1 (w.f 24 8) wide i = some x →
      let first := base + x * dst.rowElems + w.f 44 4
      x < dst.rowCount ∧ dst.spans (dst.elemOff first) dst.elemBytes = true ∧
      ∀ j, j < ne → ∃ a, locate s1 dst (dst.elemOff (first + j)) = .here a) →
    ∃ t, exec (.scatterAdd r) s = .next t ∧ FinishesAdding s1 t r (scatterAddends s1 w base)) ∧
  (∀ s r s1 w, Begins 0x0502 r s s1 w → Still s1 →
    let dst := objOf s1 (hObj (w.f 16 8))
    let n := w.gN
    let colb := w.f 48 4
    let wide := bit (w.f 54 1) 0
    let src := (n - 1) * pad64 colb + colb
    let rows : List Span := (List.range n).filterMap (fun i => (indexAt s1 (w.f 24 8) wide i).map (fun x =>
      (hObj (w.f 16 8), rowAt dst (w.f 16 8) x + w.f 44 4, colb)))
    n ≠ 0 → 1 ≤ colb → colb ≤ 65536 → w.f 44 4 + colb ≤ dst.pitch → mayName w s1 dst = true →
    InReach s1 w (w.f 32 8) src → InReach s1 w (w.f 24 8) (idxBytes wide * n) → inScratch s1 w.die (w.f 32 8) src = true →
    overlaps (w.f 32 8) (n * pad64 colb) (w.f 16 8) (dst.size - hOff (w.f 16 8)) = false →
    overlaps (w.f 32 8) (n * pad64 colb) (w.f 24 8) (idxBytes wide * n) = false →
    (∀ i x, i < n → indexAt s1 (w.f 24 8) wide i = some x → x < dst.rowCount) → (∀ p ∈ rows, Lies s1 w p) →
    Apart s1 rows [spanOf (w.f 24 8) (idxBytes wide * n)] →
    ∃ t, exec (.scatterWrite r) s = .next t ∧ Finishes s1 t r rows) ∧
  (∀ s r s1 w, Begins 0x0503 r s s1 w → Still s1 →
    let o := objOf s1 (hObj (w.f 16 8))
    let fc := w.f 40 1 % 16
    let out := w.f 36 4 * pad64 (((Fmt.ofCode fc).getD .s32).rowBytes o.rowElems)
    let first := hOff (w.f 16 8) / o.pitch + w.f 32 4
    let rows : List Span := (List.range (w.f 36 4)).map (fun i => (o.num, (first + i) * o.pitch, o.clearedRow.length))
    w.f 36 4 ≠ 0 → mayName w s1 o = true → o.num = hObj (w.f 16 8) → hOff (w.f 16 8) = hOff (w.f 16 8) / o.pitch * o.pitch →
    first + w.f 36 4 ≤ o.rowCount →
    o.adderTarget = true → o.versioned = false → fc ≤ 10 → (o.fmt = 4 → fc = 4) → w.rnd ≠ 3 → InReach s1 w (w.f 24 8) out →
    overlaps (w.f 24 8) out (o.num * 2 ^ 40 + first * o.pitch) (w.f 36 4 * o.pitch) = false → (∀ p ∈ rows, Lies s1 w p) →
    ∃ t, exec (.readout r) s = .next t ∧
      Finishes s1 t r (spanOf (w.f 24 8) out :: (if bit (w.f 41 1) 0 then rows else []))) ∧
  (∀ s r s1 w, Begins 0x0504 r s s1 w → Still s1 →
    let o := objOf s1 (hObj (w.f 16 8))
    let first := hOff (w.f 16 8) / o.pitch + w.f 32 4
    let rows : List Span := (List.range (w.f 36 4)).map (fun i => (o.num, (first + i) * o.pitch, o.clearedRow.length))
    w.f 36 4 ≠ 0 → mayName w s1 o = true → o.num = hObj (w.f 16 8) → hOff (w.f 16 8) = hOff (w.f 16 8) / o.pitch * o.pitch →
    first + w.f 36 4 ≤ o.rowCount →
    o.adderTarget = true → o.versioned = false → (∀ p ∈ rows, Lies s1 w p) →
    ∃ t, exec (.clear r) s = .next t ∧ Finishes s1 t r rows) ∧
  (∀ s r s1 w, Begins 0x0510 r s s1 w → Still s1 → w.gN ≠ 0 → InReach s1 w (w.f 16 8) (16 * w.gN) →
    ∃ t v, exec (.pinRefresh r) s = .next t ∧ findWork t r = some v ∧ v.phase = .done ∧ v.status = 0x0000 ∧
      v.events ≤ w.gN ∧ t.objs = s1.objs ∧ t.slots = s1.slots ∧ t.host = s1.host) ∧
  (∀ s r s1 w t0, Begins 0x0512 r (atTime s t0) s1 w → Still s1 →
    let o := objOf s1 (hObj (w.f 16 8))
    let wide := bit (w.f 54 1) 0
    w.gN ≠ 0 → mayName w s1 o = true → InReach s1 w (w.f 24 8) (idxBytes wide * w.gN) →
    (∀ i x, i < w.gN → indexAt s1 (w.f 24 8) wide i = some x →
      x < o.rowCount ∧ o.spans (rowAt o (w.f 16 8) x) o.pitch = true ∧
      ∀ d, d < o.pitch → (∃ a, locate s1 o (rowAt o (w.f 16 8) x + d) = .here a) ∨
        ∃ c, locate s1 o (rowAt o (w.f 16 8) x + d) = .remote c) →
    ∃ t, exec (.promote r t0) s = .next t ∧ Finishes s1 t r [])

/-- R241: TABLE_PUBLISH, when no table write that started before it is in progress. The draft becomes CUR and CUR becomes
OLD, no other slot changes, nor any byte but those of hot copies of the table; while OLD is not none it completes FAULT_VERSION and changes no slot. -/
def Obligations.TablePublish : Prop :=
  ∀ s r t s1 w, Begins 0x0511 r (atTime s t) s1 w → w.f 16 2 < 256 →
    let x := Tab.get {} s1.slots (w.f 16 2)
    (x.old = none → (∀ v ∈ s1.work, v.ref ≠ r → v.order < w.order → mayWrite s1 x.obj v = false) →
      ∃ u, exec (.tablePublish r t) s = .next u ∧
        Tab.get {} u.slots (w.f 16 2) = { x with cur := (x.cur + 1) % 65536, old := (if x.cur = 0 then none else some x.cur),
                                                 draftOpen := decide (x.cur = 0), oldIdle := s1.time } ∧
        (∀ j, j ≠ w.f 16 2 → Tab.get {} u.slots j = Tab.get {} s1.slots j) ∧ u.objs = s1.objs ∧
        (s1.dir.entries = [] → s1.dir.fills = [] → u.mem = s1.mem) ∧ u.host = s1.host ∧
        (∃ v, findWork u r = some v ∧ v.status = 0x0000 ∧ v.phase = .done)) ∧
    (x.old ≠ none →
      ∃ u, exec (.tablePublish r t) s = .next u ∧ u.slots = s1.slots ∧ u.objs = s1.objs ∧ u.mem = s1.mem ∧
        (∃ v, findWork u r = some v ∧ v.status = 0x0502 ∧ v.phase = .done))

/-- R262 to R273: UPD_SGD, UPD_ADAM and UPD_ADAGRAD end with OK where the formats, shapes, roles and rows are those the rules
allow and the operands lie in this module; they write the rows named of W, S1 and S2, with CTL bit 3 those of G, and no other
byte.
R174 to R177: PRD_BIND ends with OK where the shape, the format and the handles are those the rule allows and the weights
and L1 words lie in this module: it writes the L1 words, and the bind slot alone takes the binding. -/
def Obligations.UpdatesComplete : Prop :=
  (
  ∀ c op, ((c, op) = (Instr.updSgd, 0x0600) ∨ (c, op) = (Instr.updAdam, 0x0601) ∨ (c, op) = (Instr.updAdagrad, 0x0602)) →
  ∀ s r s1 w, Begins op r s s1 w → Still s1 →
    let ctl := w.f 60 1
    let n := w.f 56 4
    let wo := objOf s1 (hObj (w.f 16 8))
    let go := objOf s1 (hObj (w.f 24 8))
    let so := objOf s1 (hObj (w.f 32 8))
    let ss := so :: (if op = 0x0601 then [objOf s1 (hObj (w.f 40 8))] else [])
    let hyp := bytesAt s1 (w.f 48 8) 64
    let rows := if bit ctl 1 then (List.range n).filterMap (indexAt s1 (field hyp 40 8) (bit ctl 2))
      else (List.range n).map (fun i => field hyp 36 4 + i)
    let gAt (x : Nat) : Nat := rowAt go (w.f 24 8) x / go.pitch * go.pitch
    let written (x : Nat) : List Span :=
      [(hObj (w.f 16 8), rowAt wo (w.f 16 8) x, operandBytes wo), (hObj (w.f 32 8), rowAt so (w.f 32 8) x, operandBytes so)] ++
      (if op = 0x0601 then [(hObj (w.f 40 8), rowAt (objOf s1 (hObj (w.f 40 8))) (w.f 40 8) x,
        operandBytes (objOf s1 (hObj (w.f 40 8))))] else [])
    let grads (x : Nat) : List Span := [(hObj (w.f 24 8), rowAt go (w.f 24 8) x, operandBytes go),
      (hObj (w.f 24 8), gAt x, go.clearedRow.length)]
    InReach s1 w (w.f 48 8) 64 → (∀ o ∈ wo :: go :: ss, mayName w s1 o = true) →
    updFormats wo.fmt go.fmt (ss.map (fun o => o.fmt)) = true → w.rnd ≠ 3 → n ≠ 0 → updShapes wo go so ss (bit ctl 4) = true →
    (bit ctl 1 = false → field hyp 36 4 + n ≤ wo.rows) → (bit ctl 0 = true → op = 0x0600) → (bit ctl 4 = true → op = 0x0602) →
    go.role = 3 → (∀ o ∈ ss, o.role = 4) → (bit ctl 1 = true → InReach s1 w (field hyp 40 8) (idxBytes (bit ctl 2) * n)) →
    (∀ x ∈ rows, x < wo.rows ∧ (∀ p ∈ written x, Lies s1 w p) ∧ ∀ p ∈ grads x, Lies s1 w p) →
    ∃ t, exec (c r) s = .next t ∧
      Finishes s1 t r (rows.flatMap (fun x => written x ++ (if bit ctl 3 then grads x else [])))) ∧
  (
  ∀ s r s1 w f, Begins 0x0930 r s s1 w → Still s1 →
    let b := bindOf w
    let z := wgtRows (bindWork b)
    let l1 := spanOf b.l1 (b.n * blocksOf b.k * 2)
    1 ≤ b.k → b.k ≤ 16777215 → 1 ≤ b.n → b.n ≤ 65536 → (b.rank = 8 ∨ b.rank = 16 ∨ b.rank = 32) → b.shift ≤ 63 → b.gate ≤ 1 →
    w.f 53 1 ≤ 63 → Fmt.ofCode b.fmt = some f → f ≠ .s32 → f ≠ .xa128 → f.isFloat = decide (b.mode % 4 ≠ 0) →
    (bit b.mode 2 = true → f.isBlock = false) →
    InReach s1 w b.wgt (z.1 * z.2) → handleOk w s1 b.table (tableParts b).2.2.2 = true → Lies s1 w l1 →
    ∃ t, exec (.prdBind r) s = .next t ∧ Finishes s1 t r [l1] ∧
      Tab.get {} t.binds (w.f 53 1) = { b with stamp := (objOf t (hObj b.wgt)).stamp } ∧
      ∀ k, k ≠ w.f 53 1 → Tab.get {} t.binds k = Tab.get {} s1.binds k)

/-- R274 to R288: SAVE, RESTORE, CKPT_EXPORT and CKPT_IMPORT end with OK: a SAVE whose area has room for every tile stored
uncompressed, a RESTORE of tiles whose headers and checks are good, an export whose objects fit the window and an import
whose header, manifest and contents are good. They write the area, the rows, the window or the objects, and no other byte. -/
def Obligations.SavesComplete : Prop :=
  (∀ s r s1 w, Begins 0x0700 r s s1 w → Still s1 →
    let rows := w.f 32 4
    let n := w.f 36 4
    let sc := w.f 40 1 % 16
    let tc := w.f 40 1 / 16
    let size := (objOf s1 (hObj (w.f 24 8))).size - hOff (w.f 24 8)
    let nat := ((Fmt.ofCode sc).getD .s8).rowBytes n
    let src := (rows - 1) * pad64 nat + nat
    let dense := rows * pad64 (((Fmt.ofCode tc).getD .s8).rowBytes n)
    let tiles := cdiv dense tileBytes
    rows ≠ 0 → 1 ≤ n → n ≤ 2 ^ 24 → sc ≤ 10 → tc ≤ 10 → w.rnd ≠ 3 → InReach s1 w (w.f 16 8) src → InReach s1 w (w.f 24 8) size →
    inScratch s1 w.die (w.f 16 8) src = true → inBulk s1 (w.f 24 8) size = true → overlaps (w.f 16 8) src (w.f 24 8) size = false →
    64 + pad64 (4 * tiles) + dense + 16 * tiles ≤ size →
    ∃ t, exec (.save r) s = .next t ∧ Finishes s1 t r [spanOf (w.f 24 8) size]) ∧
  (∀ s r s1 w a, Begins 0x0701 r s s1 w → Still s1 → areaOf (bytesAt s1 (w.f 16 8) 64) = some a →
    let first := w.f 32 4
    let n := w.f 36 4
    let oc := w.f 40 1 % 16
    let of := (Fmt.ofCode oc).getD .s8
    let out := (n - 1) * pad64 (of.rowBytes a.n) + of.rowBytes a.n
    n ≠ 0 → oc ≤ 10 → w.rnd ≠ 3 → 0 < a.n → first + n ≤ a.rows → InReach s1 w (w.f 16 8) 64 →
    InReach s1 w (w.f 16 8) (max a.used (64 + 4 * a.tiles)) → InReach s1 w (w.f 24 8) (n * pad64 (of.rowBytes a.n)) →
    inScratch s1 w.die (w.f 24 8) out = true → overlaps (w.f 16 8) a.used (w.f 24 8) out = false →
    (∀ k, first * a.pitch / tileBytes ≤ k → k ≤ ((first + n) * a.pitch - 1) / tileBytes → TileOk s1 (w.f 16 8) a k) →
    ∃ t, exec (.restore r) s = .next t ∧ Finishes s1 t r [spanOf (w.f 24 8) (n * pad64 (of.rowBytes a.n))]) ∧
  (∀ s r s1 w, Begins 0x0702 r s s1 w → Still s1 →
    let n := w.f 32 4
    let nums := (List.range n).map (fun i => numAt s1 (w.f 16 8) (4 * i) 4)
    let os := nums.map (objOf s1)
    let offs := dataOffsets (64 + 32 * n) (os.map Obj.size)
    let total := offs.getLastD 0 + (os.getLastD {}).size
    let base := reg s1 Key.ckptBase + w.f 24 8
    1 ≤ n → n ≤ 65535 → w.f 24 8 % 64 = 0 → w.qc = false → InReach s1 w (w.f 16 8) (4 * n) →
    (∀ k ∈ nums, (objOf s1 k).num = k ∧ mayName w s1 (objOf s1 k) = true ∧
      (∀ d, d < (objOf s1 k).size → ∃ a, locate s1 (objOf s1 k) d = .here a) ∧
      ((objOf s1 k).versioned = true → ∃ v, w.snap.find? (fun e => e.1 == (objOf s1 k).tslot) = some v ∧
        resolveVer s1 (objOf s1 k) v.2 = some v.2)) →
    w.f 24 8 + total ≤ reg s1 Key.ckptSize → hostLinkUp s1 = true →
    ∃ t v, exec (.ckptExport r) s = .next t ∧ findWork t r = some v ∧ v.phase = .done ∧ v.status = 0x0000 ∧ v.events = n ∧
      t.mem = s1.mem ∧ ∀ a, a < base ∨ base + total ≤ a → Tab.get 0 t.host a = Tab.get 0 s1.host a) ∧
  (∀ s r s1 w head man, Begins 0x0703 r s s1 w → Still s1 →
    let base := reg s1 Key.ckptBase + w.f 24 8
    let n := field head 4 4
    let recd (i : Nat) : List Byte := (man.drop (32 * i)).take 32
    let obj (i : Nat) : Obj := objOf s1 (field (recd i) 0 4)
    w.f 24 8 % 64 = 0 → w.f 24 8 + 64 ≤ reg s1 Key.ckptSize → hostLinkUp s1 = true → readHost s1 base 64 = some head →
    field head 0 2 = 4 → w.f 24 8 + 64 + 32 * n ≤ reg s1 Key.ckptSize → readHost s1 (base + 64) (32 * n) = some man →
    crc32 man = field head 32 4 →
    (∀ i, i < n → (obj i).num = field (recd i) 0 4 ∧ mayName w s1 (obj i) = true ∧ (obj i).fmt = field (recd i) 4 1 % 16 ∧
      (obj i).role = field (recd i) 5 1 ∧ (obj i).size = field (recd i) 8 8 ∧
      (∀ d, d < (obj i).size → ∃ a, locate s1 (obj i) d = .here a) ∧
      (∃ bs, readHost s1 (base + field (recd i) 16 8) (obj i).size = some bs ∧ crc32 bs = field (recd i) 24 4) ∧
      ((obj i).versioned = true → (Tab.get {} s1.slots (obj i).tslot).old = none ∧
        ∀ v ∈ s1.work, ∀ e ∈ v.refs, e.1 ≠ (obj i).tslot)) →
    ∃ t, exec (.ckptImport r) s = .next t ∧
      Finishes s1 t r ((List.range n).map (fun i => ((obj i).num, 0, (obj i).size))))

/-- R97, R110, R146: a matrix descriptor its dispatcher issues starts on an array when the checks of R110 pass, and
otherwise completes with the status of the first that fails.
R95 to R97: SWAP checks and loads the next stationary, swaps it in and streams it: the exact sums of the operand slices
enter the accumulators of its columns, and no other accumulator changes. R98, R105: DRAIN_ROW drains one accumulator row; after
the last the descriptor ends. R93, R102: a failed check ends the descriptor once the tile that drains is out. -/
def Obligations.MatrixEngines : Prop :=
  (
  ∀ c op, ((c, op) = (Instr.denseContraction, 0x0100) ∨ (c, op) = (Instr.sparseContraction, 0x0101) ∨
      (c, op) = (Instr.elementWiseProduct, 0x0102) ∨ (c, op) = (Instr.expertRoutedContraction, 0x0103)) →
  ∀ s s1 r w tile, Starts op r s w → tileFor (markReady s) w = some tile → issue (markReady s) w = some s1 →
    let w1 := (started s1 w tile).2
    let x := ((beginArr tile).run).run { s := (started s1 w tile).1, w := w1, die := w.die }
    (∀ code, x.1 = .error (.status code) →
      exec (c r) s = .next (setWork x.2.s { w1 with phase := .done, status := code })) ∧
    (x.1 = .ok () → exec (c r) s = .next x.2.s ∧ (arrOf x.2.s tile).work = some r ∧ (op ≠ 0x0102 → (arrOf x.2.s tile).rb = 0) ∧
      (arrOf x.2.s tile).acc = [] ∧ ∀ k, k ≠ tile → arrOf x.2.s k = arrOf s1 k)) ∧
  (
  (∀ s tile a b w e, swapHeld w a = false → ArrSteps s tile a b w e (swapOne tile) →
    exec (.swap tile) s = .next (pump (setArr (setWork e.s (arrWork w e)) tile b))) ∧
  (∀ s tile a w e code, arrRun s tile = some (a, w) → swapHeld w a = false →
    ((swapOne tile a w).run).run (arrCtx s w) = (.error (.status code), e) →
    exec (.swap tile) s = .next (pump (failArr e.s tile a (arrWork w e) code))) ∧
  (∀ s tile a b w e d, a.drain = some d → drainHeld s tile a w = false → ArrSteps s tile a b w e (drainOne tile d) →
    let u := setArr (setWork e.s (arrWork w e)) tile b
    exec (.drainRow tile) s = .next (pump (match b.failed with
      | some code => if b.drain = none then endArr u tile (arrWork w e) code else u
      | none => if b.drain = none ∧ w.mM ≤ b.rb * batchMax w.mFmt ∧ w.mMode ≠ 2 then endArr u tile (arrWork w e) 0x0000 else u))) ∧
  (∀ s tile a w e d code, arrRun s tile = some (a, w) → a.drain = some d → drainHeld s tile a w = false →
    ((drainOne tile d a w).run).run (arrCtx s w) = (.error (.status code), e) →
    exec (.drainRow tile) s = .next (pump (endArr e.s tile (arrWork w e) (a.failed.getD code)))) ∧
  (∀ tile w a ws b c e, ((streamStat tile w a ws).run).run c = (.ok b, e) → (∀ k ∈ a.fore.cols, k < 2 ^ 32) →
    ∀ i j, j < 2 ^ 32 → (j ∉ a.fore.cols ∨ batchLen w a.rb ≤ i) →
      Tab.get 0 b.acc (accKey i j) = Tab.get 0 a.acc (accKey i j)))

/-- R92, R93, R97, R110, R146, R173, R178: DENSE_CONTRACTION, SPARSE_CONTRACTION, ELEMENT_WISE_PRODUCT and
EXPERT_ROUTED_CONTRACTION that may start, have a tile and the issue decision, pass the checks of R110 and find the binding
their policy needs start on the array of that tile with empty accumulators, and touch no other array; no byte changes, but the
L1 words of a binding whose weights have been written since.
R95 to R98, R102, R105, R174: SWAP completes for an array that a descriptor runs on and that waits for no drain, where the
operands lie in this module, the metadata is good and the maxima are scanned, constant, or supplied and kept by every block that
streams: the banks change places and the tag flips.
DRAIN_ROW completes for an array whose drain waits for nobody: the row goes to OUT, to the drain queue, or to the adders, as
the mode says. No other array changes, and no byte but those of the row of OUT. -/
def Obligations.MatrixCompletes : Prop :=
  (
  ∀ c op, ((c, op) = (Instr.denseContraction, 0x0100) ∨ (c, op) = (Instr.sparseContraction, 0x0101) ∨
      (c, op) = (Instr.elementWiseProduct, 0x0102) ∨ (c, op) = (Instr.expertRoutedContraction, 0x0103)) →
  ∀ s s0 r w0 tile, Starts op r s w0 → Fresh w0 → tileFor (markReady s) w0 = some tile → issue (markReady s) w0 = some s0 → Still s0 →
    let s1 := (started s0 w0 tile).1
    let w1 := (started s0 w0 tile).2
    let b := withBin s1 w1
    matChecks s1 w1 = 0 → BinReady s1 w1 → MatrixReady s1 b.1 b.2.2 b.2.1 →
    ∀ rs, (w1.mPolicy = 0 ∧ rs = [] ∨ ∃ k bd, w1.mPolicy ≠ 0 ∧ bindFor s1 w1 = some (k, bd) ∧
        (bd.stamp = (objOf s1 (hObj bd.wgt)).stamp ∧ rs = [] ∨
         bd.stamp ≠ (objOf s1 (hObj bd.wgt)).stamp ∧ rs = [spanOf bd.l1 (bd.n * blocksOf bd.k * 2)] ∧
           InReach s1 w1 bd.l1 (bd.n * blocksOf bd.k * 2))) →
    ∃ t v, exec (c r) s = .next t ∧ findWork t r = some v ∧ v.phase = .running ∧ v.unit = tile ∧ v.names = b.1.names ∧
      (arrOf t tile).work = some r ∧ (arrOf t tile).acc = [] ∧ (arrOf t tile).queue = (arrOf s0 tile).queue ∧
      (op ≠ 0x0102 → (arrOf t tile).rb = 0 ∧ (arrOf t tile).begun = false ∧ (arrOf t tile).drain = none) ∧
      (op = 0x0102 → (arrOf t tile).drain = some { rb := 0, blk := 0 }) ∧
      (∀ k, k ≠ tile → arrOf t k = arrOf s0 k) ∧ OnlyWrites s1 t rs) ∧
  (
  (∀ s tile a w, tile < 64 → arrRun s tile = some (a, w) → swapHeld w a = false → Still s → matChecks s w = 0 →
    InReach s w (matRegions s w).1.1 (matRegions s w).1.2 → InReach s w (matRegions s w).2.1.1 (matRegions s w).2.1.2 →
    (w.op = 0x0103 → InReach s w (w.f 40 8) 24) → MetaOk s w →
    (a.begun = false → a.blk = 0) →
    (a.begun = true → a.blk < a.blocks.length ∧ ∀ j ∈ a.blocks.getD a.blk [], j < w.mN) →
    (supplied w = true → MaximaKept s a w) →
    (∀ b, a.bind = some b → w.mPolicy ≠ 3 ∧ b.n = w.mN ∧ InReach s w b.table (tableParts b).2.2.2 ∧
      InReach s w b.l1 (b.n * blocksOf b.k * 2)) →
    ∃ t v, exec (.swap tile) s = .next t ∧ findWork t w.ref = some v ∧ v.phase = .running ∧ MemKept s t ∧
      (∀ k, k ≠ tile → arrOf t k = arrOf s k) ∧
      (a.bind = none ∨ a.begun = true → (arrOf t tile).tag = !a.tag ∧
        reg t (Key.arrSwaps + tile) = wrap64 (reg s (Key.arrSwaps + tile) + 1)) ∧
      (a.begun = true → (arrOf t tile).fore.cols = a.blocks.getD a.blk [])) ∧
  (∀ s tile a w d, tile < 64 → arrRun s tile = some (a, w) → a.drain = some d → drainHeld s tile a w = false → Still s →
    matChecks s w = 0 →
    let i := d.rb * batchMax w.mFmt + d.row
    let o := objOf s (hObj (w.f 32 8))
    let out : Span := (hObj (w.f 32 8), hOff (w.f 32 8) + w.mRow i * outPitch s w, outPitch s w)
    i < w.mM → d.blk < w.mTiles → badCols w a d (tileCols w d.blk) = [] →
    (w.op = 0x0102 → InReach s w (matRegions s w).1.1 (matRegions s w).1.2 ∧
      InReach s w (matRegions s w).2.1.1 (matRegions s w).2.1.2) →
    (∀ b, a.bind = some b → w.mN ≤ b.n ∧ InReach s w b.table (tableParts b).2.2.2) →
    (w.mMode = 0 → Lies s w out) →
    (w.mMode = 3 → o.fmt = 11 ∧ ∀ j ∈ tileCols w d.blk, ∃ x, locate s o (o.elemOff (w.mRow i * w.mN + j)) = .here x) →
    ∃ t, exec (.drainRow tile) s = .next t ∧ (∃ v, findWork t w.ref = some v) ∧ (∀ k, k ≠ tile → arrOf t k = arrOf s k) ∧
      OnlyWrites s t (if w.mMode = 0 then [out] else []) ∧
      (w.mMode = 1 ∨ w.mMode = 2 → ∃ x : DrainRow, (arrOf t tile).queue = a.queue ++ [x] ∧ x.row = i ∧
        x.col = (tileCols w d.blk).headD 0 ∧ x.vals.length = (tileCols w d.blk).length) ∧
      ∃ as, unsentAdds t.addends = unsentAdds s.addends ++ as ∧
        as.map (fun x => x.elem) = (if w.mMode = 3 then (tileCols w d.blk).map (fun j => w.mRow i * w.mN + j) else [])))

/-- R157, R158, R160, R161, R171, R172: LAUNCH takes a launch-table entry; a launch creates its strands in ascending SEQ,
and a strand homed on its origin die enters the first position there; due strands form a batch, a closed round its bins and
spill batches. -/
def Obligations.Strands : Prop :=
  (∀ s r w t e c x, Starts 0x0910 r (atTime s t) w → freeEntry s w.die = some e →
    launchBody.run.run { s := (started (atTime s t) w 0).1, w := (started (atTime s t) w 0).2, die := w.die } = (.ok c, x) →
    ∃ u, exec (.launch r t) s = .next u ∧ u.strands.launches = x.s.strands.launches ++
      [{ key := { odie := w.die, ocoord := self s, entry := e }, work := r, cluster := w.dsp % 4, query := w.qc,
         desc := w.desc, chain := c, n := w.f 56 4 }] ∧ u.mem = x.s.mem ∧
      u = setWork { x.s with strands := { x.s.strands with launches := u.strands.launches } } { x.w with rbuf := [] }) ∧
  (∀ s die entry t l w item key et x, launchOf s { odie := die, ocoord := self s, entry := entry } = some l →
    findWork s l.work = some w → mayCreate s l = true → computing s = true →
    (formStrand w l.nextSeq).run.run { s := atTime s t, w := w, die := die } = (.ok (item, key, et), x) →
    let s1 := setWork x.s { x.w with rbuf := [] }
    let l' : Launch := { l with nextSeq := l.nextSeq + 1 }
    let y : Strand := { die := die, item := item, key := key, seq := l.nextSeq, launch := l.key, etype := et, pos := 0,
                        query := l.query, state := .ready, since := x.s.time }
    (∀ d, homeOf s1 key die ≠ .wait → d = homeOf s1 key die →
      exec (.strandCreate die entry t) s = .next (markReady (homeStrand (setLaunch s1 l') l' y d x.s.time))) ∧
    (homeOf s1 key die = .on die → l.key.odie = die → (enterPos (setLaunch s1 l') y 0 x.s.time).2 = true →
      ∃ p, (homeStrand (setLaunch s1 l') l' y (.on die) x.s.time).strands.pool = x.s.strands.pool ++ [p] ∧
        p.seq = l.nextSeq ∧ p.item = item ∧ p.pos = 0 ∧ p.die = die)) ∧
  (∀ s s1 die k pos t r, recordAt s k die pos = some r → r.bin = false → issues s k die = true →
    let xs := (waitingAt s die k pos .ready).take 512
    xs ≠ [] → (xs.length = 512 ∨ cyclesPassed (oldestSince xs) (max s.time t)
        (reg s (if (launchInfo s k die).2 then Key.dspQueryBatchWait else Key.dspBatchWait)) = true ∨ exhausted s die k pos = true) →
    issueBatch (atTime s t) die k pos r xs none false = some s1 →
    exec (.batchDue die k pos t) s = .next (markReady s1) ∧
      ∃ w ∈ s1.work, w.ref = .b s.strands.nextBatch ∧ w.phase = .fetched ∧
        w.batch.map (·.seqs) = some ((bySeq xs).map (·.seq))) ∧
  (∀ s s1 s2 die k pos t r, recordAt s k die pos = some r → r.bin = true → issues s k die = true →
    let xs := waitingAt s die k pos .binned
    xs ≠ [] → (reg s Key.dspBinRound ≤ xs.length ∨
        cyclesPassed (oldestSince xs) (max s.time t) (reg s Key.dspBinWait) = true ∨ exhausted s die k pos = true) →
    let byType := (List.range r.experts).map (fun e => (e, bySeq (xs.filter (fun x => x.etype == e))))
    let spill := byType.flatMap (fun p => (cutBy r.binCap p.2.length (p.2.drop r.binCap)).map (fun b => (p.1, b)))
    issueBins die k pos r false ((byType.map (fun p => (p.1, p.2.take r.binCap))).filter (fun p => !p.2.isEmpty)) (atTime s t) = some s1 →
    issueBins die k pos r true spill s1 = some s2 →
    let s3 := bump s2 (Key.dspSpillBatches + die) spill.length
    exec (.binRoundClose die k pos t) s = .next (markReady (if spill = [] then s3 else report s3 k 0 0 {} spill.length)))

/-- R157 to R161, R168, R171, R172: LAUNCH takes the lowest free launch-table entry with the chain its templates give;
STRAND_CREATE adds the next strand of a launch, homed on its origin die, to that die's pool; BATCH_DUE issues the batch that is
due, BIN_ROUND_CLOSE every bin of the round and every spill batch. Each holds where what is read lies in this module, its
checks pass, and the dispatch area has room. -/
def Obligations.StrandsComplete : Prop :=
  (∀ s r w e t0, Starts 0x0910 r (atTime s t0) w → freeEntry (atTime s t0) w.die = some e → Still s →
    let s1 := (started (atTime s t0) w 0).1
    let w1 := (started (atTime s t0) w 0).2
    w.f 56 4 ≠ 0 → w.f 60 1 ≤ 24 → handleOk w1 s1 (w.f 32 8) 1 = true →
    (w.lRange = false → handleOk w1 s1 (w.f 16 8) (w.lItemBytes * w.f 56 4) = true) →
    (w.lKeyIdx = true → handleOk w1 s1 (w.f 40 8) 1 = true) → (w.lTyped = true → handleOk w1 s1 (w.f 48 8) 1 = true) →
    ChainOk s1 w1 (w.f 24 8) 16 0 →
    ∃ t v, exec (.launch r t0) s = .next t ∧ findWork t r = some v ∧ v.phase = .running ∧ MemKept s t ∧
      t.strands = { s.strands with launches := s.strands.launches ++
        [{ key := { odie := w.die, ocoord := self s, entry := e }, work := r, cluster := w.dsp % 4, query := w.qc,
           desc := w.desc, chain := chainOf s1 (w.f 24 8) 16 0 [], n := w.f 56 4 }] }) ∧
  (∀ s die entry t0 l w a, launchOf s { odie := die, ocoord := self s, entry := entry } = some l → findWork s l.work = some w →
    mayCreate s l = true → computing s = true → Still s → StrandLies s w l.nextSeq →
    let key := strandKey s w l.nextSeq
    let bin := match recordAt s l.key die 0 with
      | some r => r.bin
      | none => false
    locate s (objOf s (hObj key)) (hOff key) = .here a → unitDie (unitOf a) = die →
    (∀ r, recordAt s l.key die 0 = some r → r.bin = true → strandType s w l.nextSeq < r.experts) →
    ∃ t, exec (.strandCreate die entry t0) s = .next t ∧ MemKept s t ∧
      launchOf t l.key = some { l with nextSeq := l.nextSeq + 1 } ∧
      t.strands.pool = s.strands.pool ++ [
        { die := die, item := strandItem s w l.nextSeq, key := key, seq := l.nextSeq, launch := l.key,
          etype := strandType s w l.nextSeq, pos := 0, query := l.query,
          state := if bin then .binned else .ready, since := max s.time t0 }]) ∧
  (∀ s die k pos t0 r o, recordAt s k die pos = some r → r.bin = false → issues s k die = true →
    let xs := (waitingAt s die k pos .ready).take 512
    xs ≠ [] → (xs.length = 512 ∨ cyclesPassed (oldestSince xs) (max s.time t0)
        (reg s (if (launchInfo s k die).2 then Key.dspQueryBatchWait else Key.dspBatchWait)) = true ∨ exhausted s die k pos = true) →
    listRoom s die (batchList (bySeq xs)).length = some o → findWork s (.b s.strands.nextBatch) = none →
    ∃ t v h, exec (.batchDue die k pos t0) s = .next t ∧ findWork t (.b s.strands.nextBatch) = some v ∧ v.phase = .fetched ∧
      v.desc = instantiate r h none xs.length ∧ v.batch.map (fun b => b.seqs) = some ((bySeq xs).map (fun x => x.seq)) ∧
      t.work.length = s.work.length + 1 ∧ t.strands.nextBatch = s.strands.nextBatch + 1 ∧ t.host = s.host ∧
      ∀ x ∈ xs, { x with state := .issued, batch := s.strands.nextBatch } ∈ t.strands.pool) ∧
  (∀ s die k pos t0 r, recordAt s k die pos = some r → r.bin = true → issues s k die = true →
    let xs := waitingAt s die k pos .binned
    xs ≠ [] → xs.length ≤ 65536 → (reg s Key.dspBinRound ≤ xs.length ∨
        cyclesPassed (oldestSince xs) (max s.time t0) (reg s Key.dspBinWait) = true ∨ exhausted s die k pos = true) →
    1 ≤ r.binCap → (∀ x ∈ s.strands.lists, x.die ≠ die) →
    ∃ t, exec (.binRoundClose die k pos t0) s = .next t ∧ t.host = s.host ∧
      (∀ x ∈ waitingAt t die k pos .binned, r.experts ≤ x.etype) ∧
      t.work.length = s.work.length +
        ((List.range r.experts).map (fun e => cdiv (xs.filter (fun x => x.etype == e)).length r.binCap)).sum)

/-- R229, R230: an addend at the adder of its element in this module adds its converted value to the element alone, modulo
2^128 or 2^32, and enters its row's header; the sender's event counts.
R251, R252: a shard's counters halve; a fill due whose row is homed here is
tried once; the scrub of a good codeword reads it, counts and corrects an error it may meet, and changes no byte (R300). -/
def Obligations.MemorySideUnits : Prop :=
  (
  (∀ s n x s1 e, s.addends[n]? = some x → x.sent = true → enterAddend s x = .done s1 e →
    exec (.addendEntry n) s = .next (pump (match x.issuer with
      | some r => ackWork { s1 with addends := s1.addends.eraseIdx n } r 0x0000 (({} : Acc).add e)
      | none => { s1 with addends := s1.addends.eraseIdx n }))) ∧
  (∀ s n x st, s.addends[n]? = some x → x.sent = true → enterAddend s x = .stop st →
    exec (.addendEntry n) s = .next (pump (match x.issuer with
      | some r => ackWork { s with addends := s.addends.eraseIdx n } r st {}
      | none => { s with addends := s.addends.eraseIdx n }))) ∧
  (∀ s n x, s.addends[n]? = some x → x.sent = false ∨ enterAddend s x = .wait → exec (.addendEntry n) s = .next s) ∧
  (∀ s x, (objOf s x.obj).adderTarget = true → ((objOf s x.obj).fmt = 4 → x.fmt = .s32) →
    (objOf s x.obj).spans ((objOf s x.obj).elemOff x.elem) (objOf s x.obj).elemBytes = true →
    rowHeld s (objOf s x.obj).num (if (objOf s x.obj).rowlen = 0 then 0 else x.elem / (objOf s x.obj).rowlen) = true →
    enterAddend s x = .wait) ∧
  (∀ s a hdr v t, addAt s true a hdr v = some t → a + 16 ≤ hdr ∨ hdr + 64 ≤ a →
    leNat (Tab.getRange 0 t.mem.bytes a 16) = unsigned 128 (leNat (Tab.getRange 0 s.mem.bytes a 16) + v) ∧
    field (Tab.getRange 0 t.mem.bytes hdr 64) 4 4 = stick32 (field (Tab.getRange 0 s.mem.bytes hdr 64) 4 4 + 1) ∧
    (∀ b, (b < a ∨ a + 16 ≤ b) → (b < hdr ∨ hdr + 64 ≤ b) → byteAt t b = byteAt s b)) ∧
  (∀ s a hdr v t, addAt s false a hdr v = some t →
    leNat (Tab.getRange 0 t.mem.bytes a 4) = unsigned 32 (leNat (Tab.getRange 0 s.mem.bytes a 4) + v) ∧
    (∀ b, (b < a ∨ a + 4 ≤ b) → byteAt t b = byteAt s b))) ∧
  (
  (∀ s die, die < 4 → halvingDue s die = true →
    exec (.sketchHalving die) s = .next (halveSketch s die) ∧ Tab.get 0 (halveSketch s die).dir.lookups die = 0 ∧
    (Tab.wf 0 s.dir.sketch → ∀ k, Tab.get 0 (halveSketch s die).dir.sketch k =
      if k / 262144 = die then Tab.get 0 s.dir.sketch k / 2 else Tab.get 0 s.dir.sketch k)) ∧
  (∀ s n f a, s.dir.fills[n]? = some f → (objOf s f.obj).declared = true →
    locate s (objOf s f.obj) (f.row * (objOf s f.obj).pitch) = .here a →
    exec (.cacheFill n) s = .next (fillRow { s with dir := { s.dir with fills := s.dir.fills.eraseIdx n } } f.die (objOf s f.obj)
      f.row f.ver f.data)) ∧
  (∀ s unit addr, unit < 24 → unitOf addr = 64 + unit → poisoned s.mem addr 1 = false →
    let key (h d : Nat) : Nat := if unit < 8 then h + unit else d + (unit - 8)
    let reads := key Key.hbmReadBytes Key.ddrReadBytes
    let writes := key Key.hbmWriteBytes Key.ddrWriteBytes
    let errors := key Key.hbmCeCount Key.ddrCeCount
    reg s (if unit < 8 then Key.hbmScrubHours else Key.ddrScrubHours) ≠ 0 → reg s (key Key.hbmState Key.ddrState) = 1 →
    addr < (if unit < 8 then hbmBase + unit * 2 ^ 36 else ddrBase + (unit - 8) * 2 ^ 38) + reg s (key Key.hbmCapacity Key.ddrCapacity) →
    ∃ t, exec (.patrolScrub unit addr) s = .next t ∧ reg t reads = wrap64 (reg s reads + cwBytes addr) ∧
      (reg t errors = reg s errors ∧ reg t writes = reg s writes ∨
       reg t errors = wrap64 (reg s errors + 1) ∧ reg t writes = wrap64 (reg s writes + cwBytes addr)) ∧
      RegsKept s t [reads, writes, errors] ∧ t.fresh = s.fresh + 1 ∧ { t with dict := s.dict, fresh := s.fresh } = s))

/-- R253, R254: the life of a row migration: a planned one enters COPYING, the acknowledged snapshot DRAINING, the fold
MOVED; the old location is freed after MIG_LINGER_US, and a migration older than MIG_TIMEOUT_US aborts, both as they were when
it began (R429).
R323, R326: the life of a page move within the module: the spans are copied into the new frame, the page drains, the
dirty spans are copied again and the page record names the new frame; after PLC_LINGER_US the old frame is free, and a move
that has not drained within PLC_MOVE_TIMEOUT_US aborts. -/
def Obligations.RowsAndPagesMove : Prop :=
  (
  (∀ s n row t p, s.dir.plans.find? (fun p => p.obj == n && p.row == row) = some p → computing s = true →
    (objOf s n).declared = true → (objOf s n).undeclaring = none → migrationOf s n row = none →
    (∀ q ∈ rowPages (objOf s n) row, moveOf s n q = none) →
    p.back = false → (movedRow (atTime s t) (objOf s n) row).isSome = false → fenced s p.destCoord = false →
    exec (.migrationStart n row t) s = .next (startMigration (atTime s t) p (objOf s n))) ∧
  (∀ s n row t m, migrationOf s n row = some m → m.state = .copying → m.granted = true → rowPending s n row = false →
    computing s = true →
    let s1 := setMState (setMigration (atTime s t) { m with state := .draining }) (objOf s n) row .draining
    exec (.snapshotAck n row t) s = .next (if m.destCoord = self s then countBytes (writePhys s1 m.destAddr m.snapshot) true m.destAddr m.snapshot.length
      else if m.deltaN = 0 then s1 else pump (foldMsgs s1 m))) ∧
  (∀ s n row t m, migrationOf s n row = some m → m.state = .draining → rowPending s n row = false → computing s = true →
    m.destCoord = self s → m.back = false →
    ∃ u, exec (.migrationCommit n row t) s = .next (serveHeld u) ∧
      u.dir.guests = s.dir.guests ++ [{ obj := m.obj, row := m.row, addr := m.destAddr }] ∧
      u.mem = (foldRow s ((objOf s n).fmt == 11) m.destAddr m.deltaN m.deltaHigh m.delta).mem) ∧
  (∀ s n row t m, migrationOf s n row = some m → m.state = .draining → rowPending s n row = false → computing s = true →
    m.destCoord ≠ self s →
    exec (.migrationCommit n row t) s = .next (serveHeld (commitMigration (atTime s t) m (objOf s n)))) ∧
  (∀ s n row t m, s.dir.migs.find? (fun m => m.obj == n && m.row == row && decide (m.state = .moved)) = some m →
    m.commitAt + 1000 * m.lingerUs ≤ t → rowPending s n row = false →
    accessPending s n (row * (objOf s n).pitch) (objOf s n).pitch = false →
    exec (.migOldFree n row t) s = .next { s with time := max s.time t, dir := { s.dir with migs := s.dir.migs.erase m } }) ∧
  (∀ s n row t m, migrationOf s n row = some m → m.start + 1000 * m.timeoutUs ≤ t → reg s Key.frzState = 0 →
    ∃ u, exec (.migrationTimeout n row t) s = .next u ∧ migrationOf u m.obj m.row = none ∧ u.mem = s.mem)) ∧
  (
  (∀ s n p t m r f, findMove s n p (fun x => decide (x = .planned)) = some m → (objOf s n).page p = some r →
    movable s = true → moveOf s n p = none → rowsBusy s (objOf s n) p = false → (objOf s n).undeclaring = none → m.coord = self s →
    hostDown s r.home = false → pageLost s r.home = false → moveFrame (atTime s t) (objOf s n) m = some f →
    relocRoom (atTime s t) (objOf s n) p (unitDie (unitOf f)) = true →
    let m' : Move := { m with state := .copying, src := r.home, chosen := true, dest := f, start := max s.time t, dirty := [],
                              timeoutUs := reg s Key.plcMoveTimeoutUs, lingerUs := reg s Key.plcLingerUs }
    exec (.pageMoveStart n p t) s = .next ((List.range 256).foldl (copySpan r.home f)
      (setMove (snoopRange (atTime s t) n (65536 * p) 65536 false) m m'))) ∧
  (∀ s n p t m r, findMove s n p (fun x => decide (x = .planned)) = some m → (objOf s n).page p = some r →
    movable s = true → moveOf s n p = none → rowsBusy s (objOf s n) p = false → (objOf s n).undeclaring = none → m.coord ≠ self s →
    hostDown s r.home = false → pageLost s r.home = false → fenced s m.coord = false →
    ∃ u b, exec (.pageMoveStart n p t) s = .next (pump (pageMsg u 1 m.coord n p b)) ∧
      u = setMove (atTime s t) m { m with state := .copying, src := r.home, start := max s.time t, dirty := [],
                                          timeoutUs := reg s Key.plcMoveTimeoutUs, lingerUs := reg s Key.plcLingerUs }) ∧
  (∀ s a f, a + 65536 ≤ f ∨ f + 65536 ≤ a → s.mem.poison = [] →
    let t := (List.range 256).foldl (copySpan (.frame a) f) s
    (∀ k, k < 65536 → byteAt t (f + k) = byteAt s (a + k)) ∧
    (∀ b, b < f ∨ f + 65536 ≤ b → byteAt t b = byteAt s b)) ∧
  (∀ s n p t m, findMove s n p (fun x => decide (x = .copying)) = some m → m.chosen = true → pagePending s n p = false →
    movable s = true → (pageRows (objOf s n) p).any (rowHeld s n) = false →
    let s1 := setMove (snoopRange (atTime s t) n (p * 65536) 65536 true) m { m with state := .draining }
    exec (.pageCopyDone n p t) s = .next (if m.coord = self s then s1 else pump (sendSpans s1 m m.dirty))) ∧
  (∀ s n p t m, findMove s n p (fun x => decide (x = .draining)) = some m → pagePending s n p = false → movable s = true →
    m.coord = self s → (objOf s n).num = n → n ≠ 0 →
    ∃ u, exec (.pageMoveCommit n p t) s = .next (if m.promote then countPromoted (serveHeld u) (objOf u n) p else serveHeld u) ∧
      (objOf u n).pages = (objOf s n).pages.map (fun r => if r.page = p
        then { r with home := .frame m.dest, held := (r.held && !evicting s) || m.hold, cold := 0 } else r) ∧
      reg u Key.plcMovesDone = wrap64 (reg s Key.plcMovesDone + 1)) ∧
  (∀ s n p t m, findMove s n p (fun x => decide (x = .draining)) = some m → pagePending s n p = false → movable s = true →
    m.coord ≠ self s →
    exec (.pageMoveCommit n p t) s = .next (leavePage
      (bump (setMove (atTime s t) m { m with state := .moved, commitAt := max s.time t, dirty := [] }) Key.plcMovesDone 1) m (objOf s n))) ∧
  (∀ s n p t m, findMove s n p (fun x => decide (x = .moved)) = some m → m.commitAt + 1000 * m.lingerUs ≤ t →
    pagePending s n p = false → accessPending s n (65536 * p) 65536 = false → lineOf s (linePage n p) = [] →
    ∃ u, exec (.pageFrameFree n p t) s = .next (serveHeld u) ∧ u.place.moves = s.place.moves.erase m ∧
      { u with place := s.place, time := s.time, pwr := s.pwr } = s) ∧
  (∀ s n p t m, findMove s n p (fun x => decide (x = .copying)) = some m → m.start + 1000 * m.timeoutUs ≤ t →
    reg s Key.frzState = 0 →
    ∃ u, (let v := bump (serveHeld u) Key.plcMovesAborted 1
      exec (.pageMoveTimeout n p t) s =
        .next (if m.coord = self v ∨ fenced v m.coord = true then v else pump (pageMsg v 5 m.coord n p []))) ∧
      u.place.moves = s.place.moves.erase m ∧ { u with place := s.place, time := s.time, pwr := s.pwr } = s))

/-- R303 to R312, R319: the placement descriptors, one at a time, when the engine runs them. -/
def Obligations.PlacementDescriptors : Prop :=
  (∀ s r s1 w o b, Enters 0x0A00 r s s1 w → (isArea s1 (declObj w).num = false ∨ (declObj w).num = 0) →
    declCheck s1 w (declObj w) = 0 → allocPages s1 (declObj w) 0 (localPages s1 (declObj w)) = some o →
    (if (declObj w).versioned || (declObj w).rowlen == 0 then some 0 else rowBaseFor s1 (declObj w).rows) = some b →
    ∃ u, exec (.declare r) s = .next u ∧ objOf u (declObj w).num = { o with rowBase := b } ∧
      (∀ n, n ≠ (declObj w).num → objOf u n = objOf s1 n) ∧
      u.slots = (if (declObj w).versioned then Tab.set {} s1.slots (declObj w).tslot { obj := (declObj w).num } else s1.slots) ∧
      findWork u r = some { w with phase := .done, status := 0x0000 } ∧
      { u with objs := s1.objs, slots := s1.slots, work := s1.work } = s1) ∧
  (∀ s r s1 w, Enters 0x0A00 r s s1 w → (isArea s1 (declObj w).num = false ∨ (declObj w).num = 0) →
    declCheck s1 w (declObj w) ≠ 0 →
    exec (.declare r) s = .next (setWork s1 { w with phase := .done, status := declCheck s1 w (declObj w) })) ∧
  (∀ s r s1 w, Enters 0x0A01 r s s1 w → (objOf s1 (w.f 16 3)).declared = true → (objOf s1 (w.f 16 3)).num = w.f 16 3 →
    isArea s1 (w.f 16 3) = false →
    (∀ v ∈ s1.work, v.order < w.order →
      namesObj (setObj s1 { objOf s1 (w.f 16 3) with undeclaring := some w.order }) (w.f 16 3) v = false) →
    (∀ m ∈ s1.place.moves, m.obj = w.f 16 3 → m.state ≠ .copying ∧ m.state ≠ .draining) →
    (∀ m ∈ s1.dir.migs, m.obj = w.f 16 3 → m.state = .moved) → (∀ x ∈ s1.addends, x.obj ≠ w.f 16 3) →
    (∀ g ∈ s1.place.grants, g.obj ≠ w.f 16 3) → (∀ e ∈ s1.cxl.apts, e.2.obj = w.f 16 3 → e.2.state = .unbound) →
    ∃ u, exec (.undeclare r) s = .next u ∧ objOf u (w.f 16 3) = {} ∧ (∀ n, n ≠ w.f 16 3 → objOf u n = objOf s1 n) ∧
      findWork u r = some { w with phase := .done, status := 0x0000 } ∧ u.mem = s1.mem ∧ u.dict = s1.dict) ∧
  (∀ s r t s1 w, Enters 0x0A03 r (atTime s t) s1 w → w.f 24 8 ≠ 0 → w.f 24 8 ≤ 2 ^ 40 → w.f 32 1 ≤ 3 →
    (w.f 33 1 ≤ 15 ∨ w.f 33 1 = 0xFF) → handleOk w s1 (w.f 16 8) (w.f 24 8) = true →
    (objOf s1 (hObj (w.f 16 8))).scope = 0 → (objOf s1 (hObj (w.f 16 8))).backing = 0 →
    (∀ p ∈ pagesOf (w.f 16 8) (w.f 24 8), movingPage s1 (objOf s1 (hObj (w.f 16 8))).num p = false) →
    (∀ p ∈ (objOf s1 (hObj (w.f 16 8))).pages, p.page ∈ pagesOf (w.f 16 8) (w.f 24 8) → onDie (w.f 32 1) p = true) →
    ∃ u v, exec (.reside r t) s = .next u ∧
      objOf u (objOf s1 (hObj (w.f 16 8))).num = holdPages (objOf s1 (hObj (w.f 16 8))) (pagesOf (w.f 16 8) (w.f 24 8)) true ∧
      findWork u r = some v ∧ v.phase = .done ∧ v.status = 0x0000 ∧ u.mem = s1.mem) ∧
  (∀ s r s1 w, Enters 0x0A04 r s s1 w → w.f 24 8 ≠ 0 → w.f 24 8 ≤ 2 ^ 40 → handleOk w s1 (w.f 16 8) (w.f 24 8) = true →
    ∃ u, exec (.release r) s = .next u ∧
      objOf u (objOf s1 (hObj (w.f 16 8))).num = holdPages (objOf s1 (hObj (w.f 16 8))) (pagesOf (w.f 16 8) (w.f 24 8)) false ∧
      findWork u r = some { w with phase := .done, status := 0x0000 } ∧ u.mem = s1.mem ∧ u.dict = s1.dict) ∧
  (∀ s r s1 w, Enters 0x0A02 r s s1 w → w.qc = false → w.f 18 2 = 0 → w.f 16 2 = (reg s1 Key.plcEpoch + 1) % 65536 →
    (∀ m ∈ s1.place.moves, m.state ≠ .copying ∧ m.state ≠ .draining ∧ (m.mandatory = true → m.state ≠ .planned)) →
    (∀ m ∈ s1.dir.migs, m.state = .moved) → (∀ p ∈ s1.dir.plans, p.back = false) →
    ∃ u, exec (.epochAdvance r) s = .next u ∧
      u = setWork (advanceEpoch s1 (w.f 16 2) []).1
        { w with phase := .done, status := 0x0000, events := (advanceEpoch s1 (w.f 16 2) []).2 }) ∧
  (∀ s r s1 w, Enters 0x0A02 r s s1 w → Fresh w → Still s1 → w.qc = false → w.f 18 2 ≠ 0 → w.f 18 2 ≤ 4095 →
    InReach s1 w (w.f 24 8) (2 * w.f 18 2) → w.f 16 2 = (reg s1 Key.plcEpoch + 1) % 65536 →
    (∀ m ∈ s1.place.moves, m.state ≠ .copying ∧ m.state ≠ .draining ∧ (m.mandatory = true → m.state ≠ .planned)) →
    (∀ p ∈ s1.dir.plans, p.back = false) →
    let leave := (List.range (w.f 18 2)).map (fun i => numAt s1 (w.f 24 8) (2 * i) 2 % 4096)
    ∃ u v, exec (.epochAdvance r) s = .next u ∧ MemKept s1 v ∧ v.objs = s1.objs ∧ v.place.moves = s1.place.moves ∧
      u = setWork (advanceEpoch v (w.f 16 2) leave).1
        { w with phase := .done, status := 0x0000, events := (advanceEpoch v (w.f 16 2) leave).2 })

/-- R315: the home table names members alone, keeps each entry whose member stays unless a member joins, and is the same
where the membership has not changed. -/
def Obligations.HomeTable : Prop :=
  ∀ old named ms, ms ≠ [] → ms.Nodup → old.length = 4096 →
    (newTable old named ms).length = 4096 ∧ (∀ c ∈ newTable old named ms, c ∈ ms) ∧
    (named = true → (∃ c ∈ old, c ∈ ms) → (∀ c ∈ ms, c ∈ old) →
      ∀ e, e < 4096 → old.getD e 0 ∈ ms → (newTable old named ms).getD e 0 = old.getD e 0)

/-! ## The fabric (chapter 11) -/

/-- R337 to R340: how a link trains, stays away from UP when it is miswired, retrains and fails.
R341, R342, R490: a flit whose CRC fails, and a non-idle one out of order, is discarded whole and NAK goes out once; it is
repeated each microsecond; a non-idle flit in order is counted in the next FACK and its whole packets join the input buffer. R335, R338, R365: of the
codewords the lanes bring, those corrected and those past correction are counted. -/
def Obligations.LinksAndFlits : Prop :=
  (
  (∀ s p t, mayTrain s p = true → linkState s p = 0 ∨ linkState s p = 9 →
    exec (.linkTrainingStart p t) s = .next
      (setPort (setReg (atTime s t) (Key.linkState + 256 * p) 1) p { portOf s p with trainAt := max s.time t, darkDue := false })) ∧
  (∀ s p t, mayTrain s p = true → linkState s p = 1 →
    exec (.lightDetected p t) s = .next (setReg (atTime s t) (Key.linkState + 256 * p) 2)) ∧
  (∀ s p t, mayTrain s p = true → linkState s p = 2 →
    ∃ u, exec (.fecLock p t) s = .next u ∧ u.out = s.out ++ [.exchange p (leBytes 2 (reg s Key.fabCoord) ++ leBytes 1 p ++
        leBytes 1 (reg s Key.fabCompatMax) ++ leBytes 2 (reg s Key.fabPartId) ++ leBytes 2 (reg s Key.fabEpoch))] ∧
      linkState u p = 5 ∧ RegsKept s u [Key.linkState + 256 * p] ∧
      { u with dict := s.dict, time := s.time, out := s.out } = s) ∧
  (∀ s p t, p < 6 → linkState s p = 7 →
    exec (.fecLock p t) s = .next (setPort (atTime s t) p { portOf s p with relocked := true })) ∧
  (∀ s p f t, mayTrain s p = true → linkState s p = 5 → f.length = 8 → self s ≠ 0xFFFF → field f 0 2 ≠ 0xFFFF →
    field f 0 2 = portPeer (self s) p →
    ∃ u, exec (.exchangeFrame p f t) s = .next u ∧ linkState u p = 6 ∧ reg u (Key.linkPeer + 256 * p) = field f 0 2 ∧
      reg u (Key.linkLevel + 256 * p) = min (field f 3 1) (reg s Key.fabCompatMax) ∧ (portOf u p).peerPart = field f 4 2 ∧
      (∀ j, j < 6 → j ≠ p → portOf u j = portOf s j ∧ linkState u j = linkState s j) ∧ MemKept s u) ∧
  (∀ s p f t, mayTrain s p = true → linkState s p = 5 → f.length = 8 → self s ≠ 0xFFFF → field f 0 2 ≠ 0xFFFF →
    field f 0 2 ≠ portPeer (self s) p →
    ∃ u, exec (.exchangeFrame p f t) s = .next u ∧ linkState u p = 8 ∧ u.alm.next = (s.alm.next + 1) % 2 ^ 32 ∧ u.fab = s.fab ∧
      MemKept s u) ∧
  (∀ s p t, mayTrain s p = true → 1 ≤ linkState s p → linkState s p ≤ 5 →
    (portOf s p).trainAt + 10000000 ≤ max s.time t →
    ∃ u, exec (.linkTrainTimeout p t) s = .next u ∧ linkState u p = 1 ∧
      reg u (Key.linkRetrains + 256 * p) = stick32 (reg s (Key.linkRetrains + 256 * p) + 1) ∧
      (portOf u p).replay = (portOf s p).replay ∧ MemKept s u) ∧
  (∀ s p t, p < 6 → linkState s p = 6 ∨ linkState s p = 7 →
    ∃ u, exec (.linkRetrain p t) s = .next u ∧ linkState u p = 1 ∧
      reg u (Key.linkRetrains + 256 * p) = (if (portOf s p).darkDue then reg s (Key.linkRetrains + 256 * p)
        else stick32 (reg s (Key.linkRetrains + 256 * p) + 1)) ∧
      RegsKept s u [Key.linkState + 256 * p, Key.linkRetrains + 256 * p] ∧
      portOf u p = { portOf s p with trainAt := max s.time t, darkDue := false } ∧ (∀ j, j ≠ p → portOf u j = portOf s j) ∧ MemKept s u) ∧
  (∀ s p t, p < 6 → mayTimeOut s p = true → (portOf s p).lastValid + 1000 * reg s Key.linkTimeoutUs ≤ max s.time t →
    ∃ u, exec (.linkTimeout p t) s = .next u ∧ linkState u p = 9 ∧ (portOf u p).replay = [] ∧ (portOf u p).outq = [] ∧
      reg u Key.fabLinkDrops = wrap64 (reg s Key.fabLinkDrops + ((portOf s p).outq.length + (portOf s p).starts.length)) ∧
      (∀ j, j ≠ p → portOf u j = portOf s j) ∧ MemKept s u)) ∧
  (
  (∀ s p f t, p < 6 → linkUp s p = true → flitOk f = false → reg s Key.frzState = 0 → (portOf s p).nakAt = none →
    exec (.flitReceive p (.flit f) t) s = .next
      (sendIdle (setPort (atTime s t) p { portOf s p with nakAt := some (max s.time t) }) p true)) ∧
  (∀ s p f t, p < 6 → linkUp s p = true → flitOk f = false → reg s Key.frzState = 0 → (portOf s p).nakAt.isSome →
    exec (.flitReceive p (.flit f) t) s = .next (atTime s t)) ∧
  (∀ s p f t, p < 6 → linkState s p = 6 → flitOk f = true → reg s Key.frzState = 0 → bits (leNat (f.take 12)) 24 4 = 0 →
    leNat (f.take 12) % 4096 = (portOf s p).expect → (portOf s p).expect < 4096 → (portOf s p).chunks = [] →
    bits (leNat (f.take 12)) 28 4 ≠ 15 →
    ∃ u, exec (.flitReceive p (.flit f) t) s = .next u ∧ (portOf u p).expect = ((portOf s p).expect + 1) % 4096 ∧
      (portOf u p).nakAt = none ∧ (portOf u p).lastValid = max s.time t ∧
      (portOf u p).inq = (portOf s p).inq ++
        (cutPackets 8 (((f.drop 12).take 240).drop (16 * bits (leNat (f.take 12)) 28 4))).1 ∧
      (∀ j, j ≠ p → portOf u j = portOf s j) ∧ MemKept s u) ∧
  (∀ s p f t, p < 6 → linkUp s p = true → flitOk f = true → reg s Key.frzState = 0 → bit (leNat (f.take 12)) 25 = false →
    leNat (f.take 12) % 4096 ≠ (portOf s p).expect →
    exec (.flitReceive p (.flit f) t) s = .next (if (portOf s p).nakAt.isSome then atTime s t
      else sendIdle (setPort (atTime s t) p { portOf s p with nakAt := some (max s.time t) }) p true)) ∧
  (∀ s p ws t, p < 6 → linkUp s p = true →
    ws.length = 1 ∨ (ws.length = 16 ∧ ((portOf s p).rxLanes = 16 ∨ (portOf s p).relocked = true)) →
    ∃ u, exec (.flitReceive p (.codewords ws) t) s = .next u ∧ MemKept s u ∧
      reg u (Key.linkFecCorrected + 256 * p) = wrap64 (reg s (Key.linkFecCorrected + 256 * p) +
        (ws.filter (fun w => ((rsDecode w).map (·.2)).getD 0 != 0)).length) ∧
      reg u (Key.linkFecUncorrected + 256 * p) = wrap64 (reg s (Key.linkFecUncorrected + 256 * p) +
        (ws.filter (fun w => (rsDecode w).isNone)).length)) ∧
  (∀ s p t a, p < 6 → (portOf s p).nakAt = some a → linkUp s p = true → reg s Key.frzState = 0 → a + 1000 ≤ max s.time t →
    exec (.nakRetry p t) s = .next
      (sendIdle (setPort (atTime s t) p { portOf s p with nakAt := some (max s.time t) }) p true)))

/-- R341, R349, R357: a receiver reads from a packet's chunks the packet that was sent, and from a flit its fields; the
flit's CRC holds. R335, R336: what a lane's codeword decodes to is a codeword at most 13 symbols away; from a codeword a lane
reads the bytes that went into it; the lanes together give the stream that was dealt to them. -/
def Obligations.PacketRoundTrip : Prop :=
  (∀ p rest, p.ty < 256 → p.tc < 4 → p.vc < 2 → p.dst < 4096 → p.src < 4096 → p.epoch < 65536 → p.part < 4096 →
    p.eph < 65536 → p.sdie < 4 → p.seq < 65536 → p.txid < 65536 → p.len < 8192 → p.addr < 2 ^ 64 → p.aux < 65536 →
    p.sum < 2 ^ 32 → p.payload.length = payloadLen p.ty p.len →
    (p.mc = true → p.xmask < 65536 ∧ p.ymask < 65536 ∧ p.zmask < 65536 ∧ p.stage < 4) →
    (p.mc = false → p.xmask = 0 ∧ p.ymask = 0 ∧ p.zmask = 0 ∧ p.stage = 0 ∧ p.dir = false) →
    decodePkt (encodePkt p ++ rest) = some (p, rest) ∧ (encodePkt p).length = 16 * pktChunks p) ∧
  (∀ w c k, rsDecode w = some (c, k) → w.length ≤ 546 →
    c.length = w.length ∧ (rsSyndromes c).all (· == 0) = true ∧ k ≤ 13 ∧
    k = ((List.zip c w).filter (fun e => e.1 != e.2)).length) ∧
  (∀ h bs, descramble h (scramble h bs).1 = (bs, (scramble h bs).2)) ∧
  (∀ h bs, bs.length = wordBytes → laneData h (laneWord h bs).1 = (bs, (laneWord h bs).2)) ∧
  (∀ l bs, 0 < l → bs.length % l = 0 → dealt ((List.range l).map (fun n => laneBytes l n bs)) = bs) ∧
  ∀ seq ack nak idle park widen start cr body, seq < 4096 → ack < 4096 → start < 16 → cr < 2 ^ 32 → body.length ≤ 240 →
    let f := mkFlit seq ack nak idle park widen start cr body
    flitOk f = true ∧ bits (leNat (f.take 12)) 0 12 = seq ∧ bits (leNat (f.take 12)) 12 12 = ack ∧
    bit (leNat (f.take 12)) 24 = nak ∧ bit (leNat (f.take 12)) 25 = idle ∧ bit (leNat (f.take 12)) 26 = park ∧
    bit (leNat (f.take 12)) 27 = widen ∧ bits (leNat (f.take 12)) 28 4 = start ∧ bits (leNat (f.take 12)) 32 32 = cr ∧
    ((f.drop 12).take 240).take body.length = body

/-- R8: the snake numbers every module of a box once, and consecutive ranks are neighbours in the torus. -/
def Obligations.SnakeRanks : Prop :=
  ∀ bx : Box, 1 ≤ bx.a → bx.a ≤ 16 → 1 ≤ bx.b → bx.b ≤ 16 → 1 ≤ bx.c → bx.c ≤ 16 →
    (∀ k, k < bx.a * bx.b * bx.c →
      let xi := k % bx.a
      let row := k / bx.a
      let yi := row % bx.b
      let zi := row / bx.b
      cx (rankCoord bx k) = (cx bx.origin + if row % 2 = 0 then xi else bx.a - 1 - xi) % 16 ∧
      cy (rankCoord bx k) = (cy bx.origin + if zi % 2 = 0 then yi else bx.b - 1 - yi) % 16 ∧
      cz (rankCoord bx k) = (cz bx.origin + zi) % 16 ∧ rankCoord bx k < 4096) ∧
    (∀ k, k < bx.a * bx.b * bx.c → coordRank bx (rankCoord bx k) = some k) ∧
    (∀ k, k + 1 < bx.a * bx.b * bx.c → ∃ p, p < 6 ∧ portPeer (rankCoord bx k) p = rankCoord bx (k + 1)) ∧
    (bx = { origin := coordOf 8 4 2, a := 4, b := 2, c := 2 } → rankCoord bx 13 = coordOf 10 4 3)

/-- R351: a router discards and counts a packet of another partition or epoch, or toward a fenced module; at its
destination a packet with a bad CRC is discarded and counted, and one from a fenced module is discarded.
R357, R358: where no module is fenced and no port can send yet, a module that a multicast packet reaches at stage k sends
it onward along DIR if coordinates of the mask lie further along it; if its own coordinate is in the mask it processes the next
stage, which sends a branch in each direction with coordinates to reach, and so on; past stage 2 it delivers the packet
locally. The branch has come at least one hop. Each branch is one replica for the coordinates it still has to reach. -/
def Obligations.PacketChecks : Prop :=
  (
  (∀ s p t k ks, p < 6 → (portOf s p).inq = k :: ks → reg s Key.pwrState < 3 → reg s Key.frzState = 0 →
    let s1 := freeBuffer (setPort (atTime s t) p { portOf s p with inq := ks }) p k
    (reg s Key.fabState ≠ 5 → exec (.packetRoute p t) s = .next (routePkt s1 p k)) ∧
    (reg s Key.fabState = 5 → exec (.packetRoute p t) s = .next s1)) ∧
  (∀ s p k, k.part ≠ reg s Key.fabPartId → routePkt s p k = bump s Key.fabPartDrops 1) ∧
  (∀ s p k, k.part = reg s Key.fabPartId → k.epoch ≠ reg s Key.fabEpoch → routePkt s p k = bump s Key.fabStaleDrops 1) ∧
  (∀ s p k, k.part = reg s Key.fabPartId → k.epoch = reg s Key.fabEpoch → k.mc = false →
    (fenced s k.dst = true → routePkt s p k = bump s Key.fabFenceDrops 1) ∧
    (fenced s k.dst = false → k.dst = self s →
      (pktCrc k ≠ k.sum → routePkt s p k = bump s Key.fabE2eCrcErr 1) ∧
      (pktCrc k = k.sum → fenced s k.src = true → routePkt s p k = s) ∧
      (pktCrc k = k.sum → fenced s k.src = false → k.tc = 3 → k.ty = 9 →
        routePkt s p k = { s with fab := { s.fab with inbox := s.fab.inbox ++ [k] } })) ∧
    (fenced s k.dst = false → k.dst ≠ self s → ∀ q, nextPort (boxOf s) (self s) k.dst = some q →
      (noFwd s (portPeer (self s) q) = true → routePkt s p k = bump s Key.fabFenceDrops 1) ∧
      (noFwd s (portPeer (self s) q) = false → reg s Key.fabState ≠ 5 → carries s q = false →
        ∃ ce, (k.ce = true → ce = true) ∧ (portOf (routePkt s p k) q).outq =
          (portOf s q).outq ++ [{ k with vc := vcOn (boxOf s) (self s) q (some p) k.vc, ce := ce }])))) ∧
  (
  ∀ s p k, k.part = reg s Key.fabPartId → k.epoch = reg s Key.fabEpoch → k.mc = true → k.stage ≤ 2 → k.tc = 0 →
    knownType k.ty = true → pktCrc k = k.sum → coordIn k.src k.stage ≠ coordIn (self s) k.stage →
    reg s Key.fabFenceTable = 0 → reg s Key.fabState ≠ 5 →
    (∀ q, carries s q = false) → reg s Key.pwrState = 0 → s.pwr.target = none →
    let me := self s
    let named (d : Nat) : Bool := bit (k.mask d) (coordIn me d)
    let start (d : Nat) : Nat := if d = k.stage then coordIn k.src d else coordIn me d
    (∀ d dir, d < 3 →
      let q := 2 * d + (if dir then 0 else 1)
      let vs := ahead (boxOf s) k d dir (start d) (coordIn me d)
      let sends : Prop := ((d = k.stage ∧ dir = k.dir) ∨ (k.stage < d ∧ ∀ j, k.stage ≤ j → j < d → named j = true)) ∧
        vs ≠ [] ∧ ∀ j, d < j → j < 3 → maskCoords (boxOf s) k j ≠ []
      (¬ sends → portOf (routePkt s p k) q = portOf s q) ∧
      (sends → ∃ r, (portOf (routePkt s p k) q).outq = (portOf s q).outq ++ [r] ∧ r.mc = true ∧ r.stage = d ∧ r.dir = dir ∧
        r.vc = vcOn (boxOf s) me q (if start d = coordIn me d then none else some q) k.vc ∧
        r.src = k.src ∧ r.txid = k.txid ∧ r.addr = k.addr ∧ r.len = k.len ∧ r.payload = k.payload ∧
        (∀ v, v < 16 → bit (r.mask d) v = decide (v ∈ vs)) ∧ (∀ j, j < d → r.mask j = k.mask j) ∧
        ∀ j v, d < j → j < 3 → v < 16 → bit (r.mask j) v = decide (v ∈ maskCoords (boxOf s) k j))) ∧
    (routePkt s p k).fab.inbox = s.fab.inbox ++
      (if ∀ d, k.stage ≤ d → d < 3 → named d = true then [k] else []) ∧
    MemKept s (routePkt s p k))

/-- R352, R354: a receiver accepts the next SEQ alone, acknowledges a duplicate again, discards and counts a packet after a
gap; it acknowledges 2 µs after the first packet not acknowledged.
R352, R354: a source frees what a SACK covers and moves its limit; it sends again what is not covered in time, and
after SLUICE_RETRIES such resends its window's transactions time out and the window is reset. -/
def Obligations.Sluice : Prop :=
  (
  (∀ s k, (rcvOf s k.src k.tc).expect < 65536 → k.seq = (rcvOf s k.src k.tc).expect →
    (sluiceAccept s k).2 = true ∧
    (rcvOf (sluiceAccept s k).1 k.src k.tc).expect = (k.seq + 1) % 65536 ∧
    (rcvOf (sluiceAccept s k).1 k.src k.tc).unacked =
      (if reg s Key.sluiceAckEvery ≤ (rcvOf s k.src k.tc).unacked + 1 then 0 else (rcvOf s k.src k.tc).unacked + 1)) ∧
  (∀ s k, seqLt k.seq (rcvOf s k.src k.tc).expect = true →
    (sluiceAccept s k).2 = false ∧ (sluiceAccept s k).1 = sendSack s (rcvOf s k.src k.tc) ∧
    (rcvOf (sluiceAccept s k).1 k.src k.tc).expect = (rcvOf s k.src k.tc).expect) ∧
  (∀ s k, k.seq ≠ (rcvOf s k.src k.tc).expect → seqLt k.seq (rcvOf s k.src k.tc).expect = false →
    sluiceAccept s k = (bump s Key.fabOooDrops 1, false)) ∧
  (∀ s peer tc t, 0 < (rcvOf s peer tc).unacked → (rcvOf s peer tc).firstAt + 2000 ≤ max s.time t → reg s Key.frzState = 0 →
    (rcvOf s peer tc).peer = peer → (rcvOf s peer tc).tc = tc →
    ∃ u, exec (.sackTimer peer tc t) s = .next u ∧ u = sendSack (atTime s t) (rcvOf s peer tc) ∧
      rcvOf u peer tc = { rcvOf s peer tc with unacked := 0, ce := false } ∧ MemKept s u)) ∧
  (
  Takes .sack (fun k => k.ty == 9) (fun _ _ => True) (fun s k =>
    pump { s with fab := { s.fab with src := s.fab.src.map (fun w =>
      if w.peer == k.src && w.tc == k.aux % 4 then onSack (reg s Key.sluiceWin) s.time w k.seq k.ece else w) } }) ∧
  (∀ top t w ack ece,
    (onSack top t w ack ece).kept = w.kept.filter (fun p => seqLt ack p.seq) ∧
    let newly := w.kept.length - (w.kept.filter (fun p => seqLt ack p.seq)).length
    (onSack top t w ack ece).cw =
      (if ece = true ∧ seqLt ack w.recover = false then max 4 (w.cw / 2)
       else if w.cw ≤ w.ackRun + newly then min top (w.cw + 1) else w.cw)) ∧
  (∀ s peer tc t w, s.fab.src.find? (fun w => w.peer == peer && w.tc == tc) = some w → w.kept ≠ [] →
    w.since + 1000 * reg s Key.sluiceRtoUs ≤ max s.time t → reg s Key.frzState = 0 →
    w.resends < reg s Key.sluiceRetries →
    exec (.sluiceRto peer tc t) s = .next (w.kept.foldl emitPkt (bump { atTime s t with fab := { s.fab with
      src := s.fab.src.map (fun x => if x.peer == peer && x.tc == tc
        then { w with resends := w.resends + 1, since := max s.time t } else x) } } Key.fabRetransmits 1))) ∧
  (∀ s peer tc t w, s.fab.src.find? (fun w => w.peer == peer && w.tc == tc) = some w → w.kept ≠ [] →
    w.since + 1000 * reg s Key.sluiceRtoUs ≤ max s.time t → reg s Key.frzState = 0 →
    reg s Key.sluiceRetries ≤ w.resends →
    exec (.sluiceRto peer tc t) s = .next (markReady (pump (endPackets
      (alm (bump { atTime s t with fab := { s.fab with src := s.fab.src.map (fun x => if x.peer == peer && x.tc == tc
        then { peer := peer, tc := tc, waiting := w.waiting, cw := reg s Key.sluiceWin } else x) } } Key.fabTimeouts 1)
        0x54 0x0041 (leBytes 1 1 ++ leBytes 1 0 ++ leBytes 2 peer)) w.kept 0x0003)))))

/-- R350, R353, R355: the requests a module serves. The work of a read, a write or an addition runs as an engine, then the
request is answered; a read of a plain object of this module answers the bytes, a write stores them there alone.
R61, R466, R483: a request of a module in fatal handling, or of an addend or message checked against another pinned
version, is answered without effect; the operation that a refused report belongs to ends with FAULT_EPHEMERIS. -/
def Obligations.FabricRequests : Prop :=
  (
  Serves .rdReq (fun k => k.ty == 1) (fun s k =>
    serveEng k.sdie [] (match rowOpOf (objOf s (hObj k.addr)) k.aux with
      | some op => rowBody k op
      | none => readBody k) (fun w s => answer s k 2 w.status (if success w.status then w.desc else [])) s k) ∧
  Serves .wrReq (fun k => k.ty == 3) (fun s k =>
    if k.aux % 4 = 1 then
      if granted s k.src k.addr k.len then
        answer (countBytes (writePhys (dropReq s k) k.addr k.payload) true k.addr k.len) k 4 0x0000 []
      else answer (dropReq s k) k 4 0x0010 []
    else serveEng k.sdie [] (writeBody k) (fun w s => answer s k 4 w.status []) s k) ∧
  Serves .addReq (fun k => k.ty == 5) (fun s k =>
    serveEng k.sdie [] (addBody k) (fun w s => answer s k 6 w.status (ackBody w.acc)) s k) ∧
  (∀ die desc body fin s k e w, findReq s k = none →
    ((body : Eng Unit).run).run { s := serverState s die desc k, w := reqWork s k die desc, die := (reqWork s k die desc).die }
      = (.ok (), e) →
    findReq (ended e 0x0000) k = some w → w.phase = .done →
    serveEng die desc body fin s k = fin w (dropReq (ended e 0x0000) k)) ∧
  (∀ c k a bs, let o := objOf c.s (hObj k.addr)
    let off := hOff k.addr
    o.num = hObj k.addr → o.spans off k.len = true → o.rowlen = 0 → o.versioned = false → 0 < k.len → k.len ≤ 16 - off % 16 →
    c.s.lines = [] → locate c.s o off = .here a → readPhys c.s a k.len = some bs →
    ∃ e, ((readBody k).run).run c = (.ok (), e) ∧ e.w.desc = bs ∧ e.owed = c.owed ∧ MemKept c.s e.s) ∧
  (∀ c k a, let o := objOf c.s (hObj k.addr)
    let off := hOff k.addr
    o.num = hObj k.addr → o.spans off k.len = true → o.rowlen = 0 → Plain c.s o.num → c.s.mem.poison = [] →
    k.payload.length = k.len → 0 < k.len → k.len ≤ 16 - off % 16 → c.s.lines = [] → locate c.s o off = .here a →
    ∃ e, ((writeBody k).run).run c = (.ok (), e) ∧ e.owed = c.owed ∧ e.s.host = c.s.host ∧
      Tab.getRange 0 e.s.mem.bytes a k.len = k.payload ∧ (∀ b, b < a ∨ a + k.len ≤ b → byteAt e.s b = byteAt c.s b))) ∧
  (
  ∀ c f, ((c : Nat → Instr), (f : Pkt → Bool)) ∈ ([(.rdReq, fun k => k.ty == 1), (.wrReq, fun k => k.ty == 3),
      (.addReq, fun k => k.ty == 5), (.strand, isMsg 1), (.chain, isMsg 2), (.update, isMsg 3), (.mailbox, isMsg 4),
      (.place, isMsg 5)] : List ((Nat → Instr) × (Pkt → Bool))) →
    ∀ s t k ks, serving s = true → candidates f [] s.fab.inbox = k :: ks →
      let u := if s.err.fatal = true then answer (dropReq (atTime s t) k) k (k.ty + 1) 0x001A []
        else refusedReport (answer (dropReq (atTime s t) k) k (k.ty + 1) 0x0015 []) k
      ks = [] ∨ u.fab.inbox.contains k = false → s.err.fatal = true ∨ (ephChecked k = true ∧ k.eph ≠ reg s Key.ephPin) →
      exec (c t) s = .next (markReady (touch u)))

/-- R22, R226, R355, R356, R359: FAB_PUT and FAB_MSG end but for the answers owed: one for each 4,096 bytes of the source sent to
the module named, one for each 1,024 bytes sent to every module of the masks, or one message; no byte of memory changes.
R229, R230, R350, R353, R167, R31: RD_REQ, WR_REQ and ADD_REQ that are the only candidates of their kind, of an object
whose bytes lie in this module, are served in one step and answered OK, with the bytes read, after the bytes are written, after
the addends have entered; a STRAND whose home has room joins its pool, a CHAIN leaves its copy on every die; ADDEND_ENTRY adds
an addend to its element. -/
def Obligations.FabricCompletes : Prop :=
  (
  (∀ s r s1 w t0, Begins 0x0880 r (atTime s t0) s1 w → Still s1 →
    let n := w.f 32 4
    let d := w.f 36 2 % 4096
    n ≠ 0 → bit (w.f 38 1) 0 = false → InReach s1 w (w.f 16 8) n → handleOk w s1 (w.f 24 8) n = true →
    putRefused (objOf s1 (hObj (w.f 24 8))) = false → (d = self s1 ∨ remoteLoc s1 d = .remote d) →
    ∃ t v ts, exec (.fabPut r t0) s = .next t ∧ findWork t r = some v ∧ v.phase = .acks ∧ v.status = 0x0000 ∧
      v.owed = cdiv n 4096 ∧ MemKept s1 t ∧ ts.length = cdiv n 4096 ∧
      unsent t.fab.txns = unsent (s1.fab.txns ++ ts) ∧
      (∀ x ∈ ts, x.kind = .wr ∧ x.issuer = some r ∧ x.pkt.ty = 3 ∧ x.pkt.dst = d) ∧
      ts.flatMap (fun x => x.pkt.payload) = bytesAt s1 (w.f 16 8) n) ∧
  (∀ s r s1 w t0, Begins 0x0880 r (atTime s t0) s1 w → Still s1 →
    let n := w.f 32 4
    let all := maskedCoords s1 (w.f 40 2) (w.f 42 2) (w.f 44 2)
    n ≠ 0 → n ≤ 2 ^ 26 → bit (w.f 38 1) 0 = true → InReach s1 w (w.f 16 8) n → handleOk w s1 (w.f 24 8) n = true →
    handleOk w s1 (w.f 48 8) 8192 = true → putRefused (objOf s1 (hObj (w.f 24 8))) = false → all ≠ [] →
    reg s1 Key.fabFenceTable = 0 → s1.fab.mcasts = [] →
    ∃ t v, exec (.fabPut r t0) s = .next t ∧ findWork t r = some v ∧ v.phase = .acks ∧ v.status = 0x0000 ∧
      v.owed = cdiv n 1024 ∧ MemKept s1 t ∧ t.fab.mcasts.length = cdiv n 1024 ∧
      (∀ m ∈ t.fab.mcasts, m.issuer = r ∧ m.left = all ∧ m.pkt.ty = 3 ∧ m.pkt.mc = true ∧ m.pkt.xmask = w.f 40 2 ∧
        m.pkt.ymask = w.f 42 2 ∧ m.pkt.zmask = w.f 44 2) ∧
      t.fab.mcasts.flatMap (fun m => m.pkt.payload) = bytesAt s1 (w.f 16 8) n) ∧
  (∀ s r s1 w t0, Begins 0x0881 r (atTime s t0) s1 w → Still s1 →
    let n := w.f 32 4
    let d := w.f 36 2 % 4096
    1 ≤ n → n ≤ 4096 → w.f 38 1 < 64 → InReach s1 w (w.f 16 8) n → (d = self s1 ∨ remoteLoc s1 d = .remote d) →
    ∃ t v x, exec (.fabMsg r t0) s = .next t ∧ findWork t r = some v ∧ v.phase = .acks ∧ v.status = 0x0000 ∧ v.owed = 1 ∧
      MemKept s1 t ∧
      unsent t.fab.txns = unsent (s1.fab.txns ++ [x]) ∧
      x.kind = .mailbox ∧ x.issuer = some r ∧ x.pkt.ty = 7 ∧ x.pkt.aux = 4 ∧ x.pkt.addr = w.f 38 1 ∧ x.pkt.dst = d ∧
      x.pkt.payload = bytesAt s1 (w.f 16 8) n)) ∧
  (
  (∀ s t0 k, serving s = true → candidates (fun k => k.ty == 1) [] s.fab.inbox = [k] → Passes (atTime s t0) k → Still s →
    findReq s k = none → (∀ v ∈ s.work, v.ref ≠ .b s.strands.nextBatch) →
    let o := objOf s (hObj k.addr)
    o.num = hObj k.addr → o.spans (hOff k.addr) k.len = true → rowOpOf o k.aux = none → (o.versioned = true → k.aux = 0xFFFF) →
    (∀ d, d < k.len → ∃ a, locate s o (hOff k.addr + d) = .here a) →
    ∃ u, exec (.rdReq t0) s = .next (markReady (touch (answer u k 2 0x0000 (bytesIn s (hObj k.addr, hOff k.addr, k.len))))) ∧
      u.work = s.work ∧ MemKept s u ∧ u.objs = s.objs) ∧
  (∀ s t0 k, serving s = true → candidates (fun k => k.ty == 3) [] s.fab.inbox = [k] → Passes (atTime s t0) k → Still s →
    findReq s k = none → (∀ v ∈ s.work, v.ref ≠ .b s.strands.nextBatch) →
    let o := objOf s (hObj k.addr)
    o.num = hObj k.addr → o.spans (hOff k.addr) k.len = true → o.versioned = false → k.aux % 4 ≠ 1 → k.payload.length = k.len →
    (∀ d, d < k.len → ∃ a, locate s o (hOff k.addr + d) = .here a) → Injective s (hObj k.addr, hOff k.addr, k.len) →
    ∃ u, exec (.wrReq t0) s = .next (markReady (touch (answer u k 4 0x0000 []))) ∧ u.work = s.work ∧
      OnlyWrites s u [(hObj k.addr, hOff k.addr, k.len)] ∧
      ∀ d a, d < k.len → locate s o (hOff k.addr + d) = .here a → byteAt u a = k.payload.getD d 0) ∧
  (∀ s t0 k f, serving s = true → candidates (fun k => k.ty == 5) [] s.fab.inbox = [k] → Passes (atTime s t0) k → Still s →
    findReq s k = none → (∀ v ∈ s.work, v.ref ≠ .b s.strands.nextBatch) →
    let o := objOf s (hObj k.addr)
    let e := elemIx o (hOff k.addr)
    let n := (if f = .xa128 then k.payload.drop 16 else k.payload).length / addendBytes f
    let hdr (i : Nat) : Nat := (e + i) / o.rowlen * o.pitch
    Fmt.ofCode (k.aux % 16) = some f → addendFmt f = true → o.num = hObj k.addr → o.adderTarget = true →
    (o.fmt = 4 → f = .s32) → o.elemOff e = hOff k.addr → e + n ≤ o.rowCount * o.rowElems →
    (f = .xa128 → windowOk (signed 16 (field k.payload 0 2)) = true) →
    (∀ i, i < n → o.spans (o.elemOff (e + i)) o.elemBytes = true ∧ (∃ a, locate s o (o.elemOff (e + i)) = .here a) ∧
      (o.fmt = 11 → ∃ a, locate s o (hdr i) = .here a)) →
    ∃ u a, exec (.addReq t0) s = .next (markReady (touch (answer u k 6 0x0000 (ackBody a)))) ∧ u.work = s.work ∧
      u.host = s.host ∧ ∀ b, (∀ i x, i < n → (locate s o (o.elemOff (e + i)) = .here x → b < x ∨ x + o.elemBytes ≤ b) ∧
        (o.fmt = 11 → locate s o (hdr i) = .here x → b < x ∨ x + 64 ≤ b)) → byteAt u b = byteAt s b) ∧
  (∀ s t0 k d, serving s = true → candidates (isMsg 1) [] s.fab.inbox = [k] → Passes (atTime s t0) k → k.payload.length = 32 →
    let x := strandIn k.payload
    let bin := match recordAt s x.launch d 0 with
      | some r => r.bin
      | none => false
    homeOf s x.key 0 = .on d → (∀ c ∈ s.strands.copies, c.key = x.launch → c.die = d → c.failed = false) → freeSlots s d ≠ 0 →
    (∀ r, recordAt s x.launch d 0 = some r → r.bin = true → x.etype < r.experts) →
    ∃ u, exec (.strand t0) s = .next u ∧ u.mem = s.mem ∧ u.strands.pool = s.strands.pool ++
      [{ x with die := d, pos := 0, state := if bin then .binned else .ready, since := max s.time t0 }]) ∧
  (∀ s t0 k d, serving s = true → candidates (isMsg 2) [] s.fab.inbox = [k] → Passes (atTime s t0) k → d < 4 →
    field k.payload 7 1 ≠ 0 →
    ∃ u, exec (.chain t0) s = .next u ∧ u.mem = s.mem ∧ u.strands.pool = s.strands.pool ∧ ∃ c ∈ u.strands.copies, c.die = d ∧
      c.key = { odie := field k.payload 2 1, ocoord := field k.payload 3 2, entry := field k.payload 0 2 } ∧
      c.chain = chainRecs (field k.payload 7 1) (k.payload.drop 8) []) ∧
  (∀ s n x a h, s.addends[n]? = some x → x.sent = true → Still s →
    let o := objOf s x.obj
    let row := if o.rowlen = 0 then 0 else x.elem / o.rowlen
    let w := if o.fmt = 11 then 16 else 4
    let v := if o.fmt = 11 then (convXa o.t (decScalar x.fmt x.tsrc x.val)).1 else signed 32 x.val
    o.adderTarget = true → (o.fmt = 4 → x.fmt = .s32) → o.spans (o.elemOff x.elem) w = true →
    locate s o (o.elemOff x.elem) = .here a → locate s o (if o.fmt = 11 then row * o.pitch else o.elemOff x.elem) = .here h →
    (o.fmt = 11 → a + 16 ≤ h ∨ h + 64 ≤ a) →
    ∃ t, exec (.addendEntry n) s = .next t ∧ unsentAdds t.addends = unsentAdds (s.addends.eraseIdx n) ∧ t.host = s.host ∧
      leNat (Tab.getRange 0 t.mem.bytes a w) = unsigned (8 * w) (leNat (Tab.getRange 0 s.mem.bytes a w) + v) ∧
      (∀ b, (b < a ∨ a + w ≤ b) → (o.fmt = 11 → b < h ∨ h + 64 ≤ b) → byteAt t b = byteAt s b) ∧
      ∀ r y, x.issuer = some r → findWork s r = some y → ∃ v, findWork t r = some v ∧ v.owed = y.owed - 1))

/-- R167, R268, R350: the messages between modules that carry strands, chains, rows to update and placement requests. -/
def Obligations.ModuleMessages : Prop :=
  Serves .strand (isMsg 1) (fun s k => if k.payload.length = 32 then acceptStrand s k
    else takeRetire (answer (dropReq s k) k 8 0 []) k.payload) ∧
  Serves .chain (isMsg 2) (fun s k => takeChain (answer (dropReq s k) k 8 0 []) k.payload) ∧
  Serves .update (isMsg 3) (fun s k => if field k.payload 0 1 = 0 then serveRow s k
    else takeReport (answer (dropReq s k) k 8 0 []) k.payload) ∧
  Serves .place (isMsg 5) (fun s k => answer (placeMessage (dropReq s k) k.src k.payload).2 k 8
    (placeMessage (dropReq s k) k.src k.payload).1 []) ∧
  (∀ s bs die, die < 4 → field bs 7 1 ≠ 0 →
    ∃ c ∈ (takeChain s bs).strands.copies, c.die = die ∧
      c.key = { odie := field bs 2 1, ocoord := field bs 3 2, entry := field bs 0 2 } ∧ c.cluster = field bs 5 1 ∧
      c.chain = chainRecs (field bs 7 1) (bs.drop 8) []) ∧
  (∀ s bs c, field bs 7 1 ≠ 0 → c ∈ s.strands.copies → c.key ≠ { odie := field bs 2 1, ocoord := field bs 3 2, entry := field bs 0 2 } →
    c ∈ (takeChain s bs).strands.copies) ∧
  (∀ t, EngineRuns (fun s => atTime s t) (fun r => .fabPut r t) 0x0880 (fun _ => putBody)) ∧
  (∀ t, EngineRuns (fun s => atTime s t) (fun r => .fabMsg r t) 0x0881 (fun _ => msgBody))

/-- R355, R359: what the answers to a module's own requests do.
R361, R489, R492: a draining module becomes DRAINED when its windows are empty, or notes that it has not; FREEZE and
THAW of a member neighbour. -/
def Obligations.FabricResponses : Prop :=
  (
  (∀ s t k s1 x r w, reg s Key.frzState < 2 → takeInbox s (fun k => k.ty == 2) = some (k, s1) →
    findTxn s k.txid k.src = some x → k.aux = 0 → x.issuer = some r → findWork s r = some w →
    let op := (rowOpOf (objOf s x.obj) x.pkt.aux).getD 0
    let u := dropTxn (atTime s1 t) x
    let got : Work := { w with rbuf := w.rbuf ++ [{ obj := x.obj, off := x.off, data := k.payload, peer := k.src }] }
    (w.phase = .running → op = 0 ∨ 4 ≤ op → exec (.rdRsp t) s = .next (markReady (pump (setWork u got)))) ∧
    (w.phase = .running → 1 ≤ op → op < 4 →
      exec (.rdRsp t) s = .next (markReady (pump (setWork (releaseHolds u w) { got with holds := [] })))) ∧
    (w.phase ≠ .running → op ≤ 4 → exec (.rdRsp t) s = .next (markReady (pump u))) ∧
    (w.phase ≠ .running → 4 < op → exec (.rdRsp t) s =
      .next (markReady (pump (postRelease u x.pkt.sdie (x.pkt.aux % 2 ^ 13) x.pkt.dst x.obj x.off))))) ∧
  (∀ s t k s1 x, reg s Key.frzState < 2 → takeInbox s (fun k => k.ty == 2) = some (k, s1) →
    findTxn s k.txid k.src = some x → k.aux ≠ 0 → exec (.rdRsp t) s = .next (markReady (pump (endTxn (atTime s1 t) x k.aux)))) ∧
  (∀ s t k s1 x, reg s Key.frzState < 2 → takeInbox s (fun k => k.ty == 4) = some (k, s1) →
    s.fab.mcasts.find? (fun m => m.id == k.txid && m.left.contains k.src) = none → findTxn s k.txid k.src = some x →
    exec (.wrAck t) s = .next (markReady (pump (if k.aux = 0 then ackIssuer (dropTxn (atTime s1 t) x) x 0 {}
      else endTxn (atTime s1 t) x k.aux)))) ∧
  (∀ s t k s1 m, reg s Key.frzState < 2 → takeInbox s (fun k => k.ty == 4) = some (k, s1) →
    s.fab.mcasts.find? (fun m => m.id == k.txid && m.left.contains k.src) = some m →
    exec (.wrAck t) s = .next (markReady (pump (closeMCast (atTime s1 t) { m with left := m.left.filter (· != k.src) } k.aux)))) ∧
  (∀ s t k s1 x, reg s Key.frzState < 2 → takeInbox s (fun k => k.ty == 6) = some (k, s1) →
    findTxn s k.txid k.src = some x →
    exec (.addAck t) s = .next (markReady (pump (ackIssuer (dropTxn (atTime s1 t) x) x k.aux
      { flags := Ev.ofNat (field k.payload 0 2), satN := field k.payload 4 4, fluN := field k.payload 8 4,
        invN := field k.payload 12 4 })))) ∧
  (∀ s t k s1 x, reg s Key.frzState < 2 → takeInbox s (fun k => k.ty == 8) = some (k, s1) →
    findTxn s k.txid k.src = some x →
    exec (.msgRsp t) s = .next (markReady (pump (
      if k.aux = 0 then accepted (atTime s1 t) x
      else if k.aux = 0xFFFF then { atTime s1 t with fab := { s1.fab with txns := s1.fab.txns.map (fun y =>
        if y = x then { y with busyAt := some (max s.time t) } else y) } }
      else endTxn (atTime s1 t) x k.aux)))) ∧
  (∀ s t k s1 m, reg s Key.frzState < 2 → takeInbox s (fun k => k.ty == 0xA) = some (k, s1) →
    s.fab.mcasts.find? (fun m => m.id == k.txid) = some m →
    exec (.dropReport t) s = .next (markReady (pump (dropDests (atTime s1 t) m
      ((List.range k.aux).map (fun i => field k.payload (2 * i) 2)))))) ∧
  (∀ s id t x, s.fab.txns.find? (fun x => x.id == id && x.busyAt.isSome) = some x →
    (x.kind = .strand → s.fab.txns.find? (fun y => decide (y.kind = .strand) && y.pkt.dst == x.pkt.dst && y.busyAt.isSome) = some x) →
    x.busyAt.getD 0 + 1000 * reg s Key.fabBusyBackoffUs ≤ max s.time t →
    (x.kind = .mailbox → max s.time t < x.start + 1000 * reg s Key.mbxFabRetryUs) →
    exec (.msgRetry id t) s = .next (repost { atTime s t with fab := { s.fab with txns := s.fab.txns.map (fun y =>
      if y = x then { y with busyAt := none } else y) } } x.pkt)) ∧
  (∀ s id t x, s.fab.txns.find? (fun x => x.id == id && x.busyAt.isSome) = some x → x.kind = .mailbox →
    x.busyAt.getD 0 + 1000 * reg s Key.fabBusyBackoffUs ≤ max s.time t →
    x.start + 1000 * reg s Key.mbxFabRetryUs ≤ max s.time t →
    exec (.msgRetry id t) s = .next (ackIssuer (dropTxn (atTime s t) x) x 0x0003 {})) ∧
  (∀ s id t m, s.fab.mcasts.find? (fun m => m.id == id && !m.resent && !m.held) = some m →
    m.start + 1000 * reg s Key.sluiceRtoUs ≤ max s.time t → reg s Key.frzState = 0 →
    exec (.multicastResend id t) s = .next (m.left.foldl (fun s c => postPkt s { m.pkt with mc := false, dst := c, txid := m.id })
      (setMCast (atTime s t) { m with resent := true })))) ∧
  (
  (∀ s t, reg s Key.fabState = 2 → drained s = true →
    exec (.drainComplete t) s = .next (setReg (atTime s t) Key.fabState 3)) ∧
  (∀ s t, reg s Key.fabState = 2 → s.fab.drainAt ≠ 0 → s.fab.drainAt + 1000 * reg s Key.fabDrainTimeoutUs ≤ max s.time t →
    ∃ u, exec (.fabDrainTimeout t) s = .next u ∧ reg u Key.fabState = 2 ∧ u.fab = { s.fab with drainAt := 0 } ∧
      u.alm.next = (s.alm.next + 1) % 2 ^ 32 ∧ MemKept s u) ∧
  (∀ s s1 t k, takeInbox s (fun k => k.ty == 0x0C && k.aux == ctrlFreeze) = some (k, s1) →
    exec (.freeze t) s = .next (if reg s Key.frzPropagate = 1 ∧ fromMember s (portTo s k.src) k = true
      then freeze (atTime s1 t) 3 (portTo s k.src) else s1)) ∧
  (∀ s s1 t k, takeInbox s (fun k => k.ty == 0x0C && k.aux == ctrlThaw) = some (k, s1) →
    exec (.thaw t) s = .next (if reg s Key.frzCause = 3 ∧ fromMember s (portTo s k.src) k = true ∧ reg s Key.frzState = 2
      then markReady (Machine.thaw (atTime s1 t)).1 else s1)) ∧
  (∀ s p k, fromMember s p k = true → pktCrc k = k.sum ∧ k.part = reg s Key.fabPartId ∧ k.epoch = reg s Key.fabEpoch ∧
    k.src = reg s (Key.linkPeer + 256 * p) ∧ memberPort s p = true))

/-! ## Gradient reduction (chapter 12) -/

/-- R366, R368, R369, R371, R373, R381, R386: a REDUCE that reaches its engine fails its own checks, is skipped where it is
not due, waits for a context, or takes one, tells the rank below it and does what it can; where a module was fenced or an
abort is kept for it, it ends at once, as a context that fails does (R381). One that waits looks again; one that runs goes
on.
R61, R372 to R375, R380, R381, R384: the packets of the chain and of a detour's relays, the watchdog, the kept aborts,
and how a context fails. -/
def Obligations.ReduceCommands : Prop :=
  (
  (∀ s s1 r t w, Starts 0x0800 r s w → w.waiting = false → issue (markReady (atTime s t)) w = some s1 →
    let w1 : Work := { w with cursor := s1.starts + 1 }
    let s2 := setWork { s1 with starts := s1.starts + 1 } w1
    let id := w.f 32 2
    let due := ((w.step + 2 ^ 32 - w.f 36 4 + 1) % 2 ^ 32) % w.f 35 1 = 0
    let v := w1.start s2 0
    let s3 := { setWork { s2 with starts := s2.starts + 1 } v with red := { s2.red with
      steps := ((id, w.step) :: s2.red.steps).eraseDups } }
    (∀ st, redStatus s2 w1 = some st → exec (.reduce r t) s = .next (setWork s2 { w1 with phase := .done, status := st })) ∧
    (redStatus s2 w1 = none → ¬ due →
      exec (.reduce r t) s = .next (bump (setWork s2 { w1 with phase := .done, status := 0x0000 }) Key.redSkipped 1)) ∧
    (redStatus s2 w1 = none → due → redWaits s2 w1 = true → exec (.reduce r t) s = .next s2) ∧
    (redStatus s2 w1 = none → due → redWaits s2 w1 = false → s1.red.fencedSince = true →
      exec (.reduce r t) s = .next (failCtx s3 (newCtx s3 v) 0x0004 none)) ∧
    (∀ a, redStatus s2 w1 = none → due → redWaits s2 w1 = false → s1.red.fencedSince = false →
      s1.red.aborts.find? (fun a => a.1 == id && a.2.1 == w.step) = some a →
      exec (.reduce r t) s = .next
        (failCtx { s3 with red := { s3.red with aborts := s3.red.aborts.erase a } } (newCtx s3 v) a.2.2.1 none)) ∧
    (redStatus s2 w1 = none → due → redWaits s2 w1 = false → s1.red.fencedSince = false → s1.red.joins = [] →
      s1.red.aborts.find? (fun a => a.1 == id && a.2.1 == w.step) = none →
      let c := newCtx s3 v
      let s4 := { s3 with red := { s3.red with ctxs := s3.red.ctxs ++ [c] } }
      exec (.reduce r t) s = .next (redProgress (if c.rank = 0 then s4 else redCtrl s4 c.down 0x0020 (joinBody c)) id))) ∧
  (∀ s r t w, findWork s r = some w → w.op = 0x0800 → w.req = none → computing s = true → w.waiting = true →
    startable s w = true → cancelled s w = false →
    exec (.reduce r t) s = .next (markReady (tryReduce (atTime s t) w))) ∧
  (∀ s r t w c, findWork s r = some w → w.op = 0x0800 → w.req = none → computing s = true → w.phase = .running →
    s.red.ctxs.find? (fun c => decide (c.work = r)) = some c →
    exec (.reduce r t) s = .next (redProgress (atTime s t) c.redid))) ∧
  (
  (∀ s s1 t k, computing s = true → takeInbox s (fun k => k.ty == 0xB && roomToRelay s k) = some (k, s1) →
    (∀ c, passing s k = false → redCtx s k.aux = some c →
      exec (.red t) s = .next (
        if k.eph ≠ reg s Key.ephPin then failCtx (atTime s1 t) c 0x0015 none
        else if windowOk (signed 16 (hdrBits k 160 16)) = false then failCtx (atTime s1 t) c 0x0011 none
        else if hdrBits k 0 32 = c.step ∧ hdrBits k 112 16 = c.n ∧ signed 16 (hdrBits k 160 16) = c.t then
          redProgress (setCtx (atTime s1 t) { c with inq := c.inq ++ [k], lastAt := max s.time t }) c.redid
        else failCtx (atTime s1 t) c 0x0803 none)) ∧
    (passing s k = true → exec (.red t) s = .next (if k.eph = reg s Key.ephPin then relayRed (atTime s1 t) k
      else redCtrl (atTime s1 t) ((members s).getD (hdrBits k 176 16) 0) 0x0023
        (leBytes 2 k.aux ++ leBytes 4 (hdrBits k 0 32) ++ leBytes 2 0x0015)))) ∧
  (∀ s s1 t k, computing s = true → takeInbox s (isCtrl 0x0020) = some (k, s1) →
    (∀ c, redCtx s (field k.payload 0 2) = some c → c.last = false → c.up = k.src → c.joined = false →
      joinFields k.payload = joinFields (joinBody c) →
      exec (.redJoin t) s = .next (redProgress (setCtx (atTime s1 t) { c with joined := true, lastAt := max s.time t }) c.redid)) ∧
    (∀ c, redCtx s (field k.payload 0 2) = some c → c.last = true ∨ c.up ≠ k.src ∨ c.joined = false →
      joinFields k.payload ≠ joinFields (joinBody c) →
      exec (.redJoin t) s = .next (redCtrl (failCtx (atTime s1 t) c 0x0803 (some k.src)) k.src 0x0023
        (leBytes 2 c.redid ++ leBytes 4 (field k.payload 2 4) ++ leBytes 2 0x0803))) ∧
    (redCtx s (field k.payload 0 2) = none →
      ∃ u, exec (.redJoin t) s = .next u ∧ (k.src, k.payload) ∈ u.red.joins ∧ u.red.ctxs = s.red.ctxs ∧
        { u with red := s.red, fab := s.fab, time := s.time } = s)) ∧
  (∀ s s1 t k, computing s = true → takeInbox s (isCtrl 0x0021) = some (k, s1) →
    let id := field k.payload 0 2
    let stream := field k.payload 2 1
    let hop := (relayHops s (field k.payload 7 2)).find? (fun h =>
      h.2.2 == k.src && ((stream == 4 && h.1) || (stream == 6 && !h.1)))
    (∀ c, hop = none → redCtx s id = some c →
      exec (.redCredit t) s = .next (redProgress (setCtx (atTime s1 t)
        { c with room := Tab.set 0 c.room (if stream = 5 then 4 else stream) (field k.payload 3 4), lastAt := max s.time t }) id)) ∧
    (∀ h, hop = some h → exec (.redCredit t) s = .next (relayCredit (atTime s1 t) id (field k.payload 7 2) (field k.payload 3 4) h))) ∧
  (∀ s s1 t k c, computing s = true → takeInbox s (isCtrl 0x0022) = some (k, s1) → redCtx s (field k.payload 0 2) = some c →
    field k.payload 2 4 = c.step →
    exec (.redEnd t) s = .next (redProgress (setCtx (atTime s1 t) { c with ended := some (field k.payload 6 2), lastAt := max s.time t })
      c.redid)) ∧
  (∀ s s1 t k, computing s = true → takeInbox s (isCtrl 0x0023) = some (k, s1) →
    (∀ c, s.red.ctxs.find? (fun c => c.redid == field k.payload 0 2 && c.step == field k.payload 2 4) = some c →
      exec (.redAbort t) s = .next (markReady (failCtx (atTime s1 t) c (field k.payload 6 2) (some k.src)))) ∧
    (s.red.ctxs.find? (fun c => c.redid == field k.payload 0 2 && c.step == field k.payload 2 4) = none →
      (field k.payload 0 2, field k.payload 2 4) ∈ s.red.steps → exec (.redAbort t) s = .next (atTime s1 t)) ∧
    (s.red.ctxs.find? (fun c => c.redid == field k.payload 0 2 && c.step == field k.payload 2 4) = none →
      (field k.payload 0 2, field k.payload 2 4) ∉ s.red.steps →
      ∃ u, exec (.redAbort t) s = .next u ∧ u.red.ctxs = s.red.ctxs ∧ (s.red.aborts.length ≤ 64 → u.red.aborts.length ≤ 64) ∧
        (field k.payload 0 2, field k.payload 2 4, field k.payload 6 2, max s.time t) ∈ u.red.aborts)) ∧
  (∀ s id t a, s.red.aborts.find? (fun a => a.1 == id) = some a → a.2.2.2 + 1000 * reg s Key.redWatchdogUs ≤ max s.time t →
    exec (.redAbortExpiry id t) s = .next { atTime s t with red := { s.red with aborts := s.red.aborts.erase a } }) ∧
  (∀ s i t c, s.red.ctxs[i]? = some c → c.lastAt + 1000 * c.watchUs ≤ max s.time t → reg s Key.frzState = 0 →
    ∃ u, exec (.redWatchdog i t) s = .next (markReady (failCtx u c 0x0802 none)) ∧
      reg u Key.redTimeouts = stick32 (reg s Key.redTimeouts + 1) ∧ u.alm.next = (s.alm.next + 1) % 2 ^ 32 ∧
      u.red = s.red ∧ u.work = s.work) ∧
  (∀ s c st from_, let u := failCtx s c st from_
    (∀ x, x ∈ u.red.ctxs ↔ x ∈ s.red.ctxs ∧ x.redid ≠ c.redid) ∧ u.mem = s.mem ∧
    (∀ w, findWork s c.work = some w →
      findWork u c.work = some { w with phase := .done, status := st, acc := c.acc, events := c.events }) ∧
    ((redPeers c).filter (fun d => some d != from_) = [] → u.fab = s.fab) ∧
    (∀ r, r ≠ c.work → findWork u r = findWork s r)))

/-- R376: under exact transport the ranks' additions, one after the other, give the sum of all contributions modulo 2^128,
element by element, with no event and no rescale. -/
def Obligations.ExactTotal : Prop :=
  ∀ (c : RedCtx) (first : RedPiece) (rest : List RedPiece), c.exact = true →
    (∀ x ∈ rest, x.vals.length = first.vals.length) →
    let total := rest.foldl (fun p x => (pieceStep c (some p) x []).1) (pieceStep c none first []).1
    total.vals.length = first.vals.length ∧
    (∀ i, i < first.vals.length →
      unsigned 128 (total.vals.getD i 0) = unsigned 128 (((first :: rest).map (fun x => x.vals.getD i 0)).sum)) ∧
    ∀ inc own e, (pieceStep c inc own e).2 = ([], 0)

/-- R378: a block-scaled step that rounds contributions into the mantissas' range leaves mantissas in that range, with
the exponent as it was or one more. -/
def Obligations.BlockStep : Prop :=
  ∀ (e : Nat) m own t, m.length = 32 → own.length = 32 → (∀ v ∈ m, -128 ≤ v ∧ v ≤ (127 : Int)) →
    (∀ v ∈ own, -128 ≤ roundScaled .nearest 0 v (t - (e : Int)) ∧ roundScaled .nearest 0 v (t - (e : Int)) ≤ 127) →
    let r := rankStep e m own t
    r.2.1.length = 32 ∧ (∀ v ∈ r.2.1, -128 ≤ v ∧ v ≤ 127) ∧
    (e = 0 → r = (0, List.replicate 32 0, false, [])) ∧
    (r.2.2.1 = true → e < 254 ∧ r.1 = e + 1) ∧ (r.2.2.1 = false → r.1 = e)

/-! ## The host interface (chapter 13) -/

/-- R396, R397: a doorbell that breaks a rule is ignored, counted and noted; any other sets its index and is a wake event;
the host reads PRODUCER, COMPL_CONSUMER and COMPL_PRODUCER in the page. -/
def Obligations.QueueDoorbells : Prop :=
  ∀ s q v stores t, q < 64 → v < 2 ^ 32 → 2 ≤ reg s Key.cxlLinkState → s.cxl.ready = true →
    let s1 := hostStores (atTime s t) stores
    let x := queueOf s q
    let ignored := almFull (bump s1 Key.cxlDbRejects 1) 1 0x78 0x0050 0 0 0 (leBytes 1 2 ++ leBytes 1 q)
    (enabled s q = false ∨ 2 ^ 31 ≤ (v + 2 ^ 32 - x.prod % 2 ^ 32) % 2 ^ 32 ∨
        2 ^ reg s (Key.queueSize + 256 * q) < (v + 2 ^ 32 - x.cons % 2 ^ 32) % 2 ^ 32 →
      exec (.producer q v stores t) s = .next ignored) ∧
    (enabled s q = true → (v + 2 ^ 32 - x.prod % 2 ^ 32) % 2 ^ 32 < 2 ^ 31 →
        (v + 2 ^ 32 - x.cons % 2 ^ 32) % 2 ^ 32 ≤ 2 ^ reg s (Key.queueSize + 256 * q) →
      ∃ p, exec (.producer q v stores t) s = .next (mbxWake (setQueue s1 q { x with prod := p })) ∧ p % 2 ^ 32 = v ∧ x.prod ≤ p) ∧
    (enabled s q = false ∨ (x.compl + 2 ^ 32 - x.cons % 2 ^ 32) % 2 ^ 32 < (v + 2 ^ 32 - x.cons % 2 ^ 32) % 2 ^ 32 →
      exec (.complConsumer q v stores t) s = .next ignored) ∧
    (enabled s q = true → (v + 2 ^ 32 - x.cons % 2 ^ 32) % 2 ^ 32 ≤ (x.compl + 2 ^ 32 - x.cons % 2 ^ 32) % 2 ^ 32 →
      ∃ p, exec (.complConsumer q v stores t) s = .next (mbxWake (setQueue s1 q { x with cons := p })) ∧ p % 2 ^ 32 = v ∧ x.cons ≤ p) ∧
    (∀ e ∈ [(0, x.prod), (8, x.cons), (0x10, x.compl)],
      exec (.ignoredRegisterAccess (0x1000 * q + e.1) 4 ⟨none, t⟩) s = .next (send (atTime s t) (.register (e.2 % 2 ^ 32))))

/-- R411: what a read of LOCK returns, and its grant. R394: before step 5 the host's accesses to a channel are ignored.
R413, R416, R417: the buffer, the end of a hold, and the message of a fabric peer. -/
def Obligations.MailboxMessages : Prop :=
  (
  (∀ s m c t, m ≠ 0 → c < 64 → MailboxReach s m →
    (receiver s c = 0 ∨ bit (reg s (Key.mbxAllow + 256 * c)) m = false →
      exec (.mbxLock m c t) s = .next (send (bump (atTime s t) Key.mbxDenied 1) (.register 0xFF))) ∧
    (receiver s c ≠ 0 → bit (reg s (Key.mbxAllow + 256 * c)) m = true →
      ((chanOf s c).state = .free →
        exec (.mbxLock m c t) s = .next (send (setChan (atTime s t) c { chanOf s c with
          state := .held, owner := m, buf := [], len := 0, expired := false, grantAt := max s.time t }) (.register 0))) ∧
      ((chanOf s c).state ≠ .free →
        exec (.mbxLock m c t) s = .next (send (atTime s t) (.register (if (chanOf s c).owner = m then 0 else (chanOf s c).owner)))))) ∧
  (∀ s c t, c < 64 → mbxOn s = true → 2 ≤ reg s Key.cxlLinkState → s.cxl.ready = false →
    let ignored := bump (atTime s t) Key.cxlDbRejects 1
    exec (.mbxLock 1 c t) s = .next (send ignored (.register 0)) ∧ exec (.mbxDone 1 c t) s = .next ignored ∧
    exec (.mbxRelease 1 c t) s = .next ignored ∧ exec (.forceFree 1 c t) s = .next ignored ∧
    (∀ code, exec (.mbxDoorbell 1 c code t) s = .next ignored) ∧
    ∀ off data, exec (.mbxBufferWrite 1 c off data) s = .next (bump s Key.cxlDbRejects 1))) ∧
  (
  (∀ s m c off data, c < 64 → MailboxReach s m → 0x1000 ≤ off → off - 0x1000 + data.length ≤ 4096 → aligned32 m off data.length = true →
    ((chanOf s c).state = .held ∧ (chanOf s c).owner = m) ∨ ((chanOf s c).state = .posted ∧ receiver s c = m) →
    ∃ u, exec (.mbxBufferWrite m c off data) s = .next u ∧
      (∀ i, i < data.length → Tab.get 0 (chanOf u c).buf (off - 0x1000 + i) = data.getD i 0) ∧
      (∀ i, i < off - 0x1000 ∨ off - 0x1000 + data.length ≤ i → Tab.get 0 (chanOf u c).buf i = Tab.get 0 (chanOf s c).buf i) ∧
      (∀ k, k ≠ c → chanOf u k = chanOf s k) ∧ { u with mbx := s.mbx } = s) ∧
  (∀ s m c data, c < 64 → MailboxReach s m → leNat data ≤ 4096 → data.length ≤ 4 → aligned32 m 8 data.length = true →
    ((chanOf s c).state = .held ∧ (chanOf s c).owner = m) ∨ ((chanOf s c).state = .posted ∧ receiver s c = m) →
    exec (.mbxBufferWrite m c 8 data) s = .next (setChan s c { chanOf s c with len := leNat data })) ∧
  (∀ s m c off data, c < 64 → MailboxReach s m → (off = 8 ∧ data.length ≤ 4) ∨ 0x1000 ≤ off → aligned32 m off data.length = true →
    ¬ (((chanOf s c).state = .held ∧ (chanOf s c).owner = m) ∨ ((chanOf s c).state = .posted ∧ receiver s c = m)) →
    exec (.mbxBufferWrite m c off data) s = .next (bump s Key.mbxDenied 1)) ∧
  (∀ s c off data, c < 64 → MailboxReach s 1 → off % 4 ≠ 0 ∨ data.length % 4 ≠ 0 ∨ data.length = 0 →
    exec (.mbxBufferWrite 1 c off data) s = .next (bump s Key.cxlDbRejects 1)) ∧
  (∀ s c t, c < 64 → (chanOf s c).state ≠ .free → mbxOn s = true → reg s Key.frzState = 0 →
    (chanOf s c).grantAt + 1000 * reg s Key.mbxHoldUs ≤ max s.time t →
    exec (.mbxHoldExpiry c t) s = .next (alm (bump (setChan (atTime s t) c
      { chanOf s c with state := .free, owner := 0, expired := true, notice := [] }) Key.mbxExpired 1)
      0x79 0x0050 (leBytes 1 3 ++ leBytes 1 c))) ∧
  Serves .mailbox (isMsg 4) takeMail ∧
  (∀ s k, 64 ≤ k.addr ∨ allows s k.addr 32 = false ∨ receiver s k.addr = 0 → takeMail s k = answer (dropReq s k) k 8 0x0811 []) ∧
  (∀ s k, k.addr < 64 → allows s k.addr 32 = true → receiver s k.addr ≠ 0 →
    ((chanOf s k.addr).state ≠ .free → takeMail s k = answer (dropReq s k) k 8 0xFFFF []) ∧
    ((chanOf s k.addr).state = .free → receiver s k.addr = 4 →
      ∃ u, takeMail s k = answer u k 8 0 [] ∧ (chanOf u k.addr).state = .posted ∧ (chanOf u k.addr).owner = 32 ∧
        (chanOf u k.addr).peer = k.src ∧ (chanOf u k.addr).len = k.len ∧ (chanOf u k.addr).code = 0 ∧
        (∀ i, i < k.payload.length → Tab.get 0 (chanOf u k.addr).buf i = k.payload.getD i 0) ∧ u.out = s.out ++ [.irq 4])))

/-- R412: STATUS, and the action of each master in each state. An action outside the table is ignored and counted. -/
def Obligations.MailboxActions : Prop :=
  (∀ s c, (chanOf s c).owner < 256 → (chanOf s c).code < 65536 →
    bits (mbxStatusWord s c) 0 3 = (match (chanOf s c).state with | .free => 0 | .held => 1 | .posted => 2 | .replied => 3) ∧
    bit (mbxStatusWord s c) 3 = (chanOf s c).expired ∧ bits (mbxStatusWord s c) 4 4 = 0 ∧
    bits (mbxStatusWord s c) 8 8 = (chanOf s c).owner ∧ bits (mbxStatusWord s c) 16 16 = (chanOf s c).code) ∧
  ∀ s m c t, c < 64 → MailboxReach s m →
    let x := chanOf s c
    let freed (e : Bool) : State := setChan (atTime s t) c { x with state := .free, owner := 0, expired := e, notice := [] }
    let ignored := bump (atTime s t) Key.mbxDenied 1
    (∀ code, (x.state = .held ∧ x.owner = m →
        let s1 := setChan (atTime s t) c { x with state := .posted, code := code % 65536 }
        exec (.mbxDoorbell m c code t) s = .next
          (notifyMbx (if isControl (receiver s c) then mbxWake s1 else s1) (receiver s c) c)) ∧
      (¬ (x.state = .held ∧ x.owner = m) → exec (.mbxDoorbell m c code t) s = .next ignored)) ∧
    (x.state = .posted ∧ receiver s c = m → exec (.mbxDone m c t) s = .next (if x.owner = 32 then freed false
        else notifyMbx (setChan (atTime s t) c { x with state := .replied }) x.owner c)) ∧
    (¬ (x.state = .posted ∧ receiver s c = m) → exec (.mbxDone m c t) s = .next ignored) ∧
    ((x.state = .held ∨ x.state = .replied) ∧ x.owner = m → exec (.mbxRelease m c t) s = .next (freed false)) ∧
    (¬ ((x.state = .held ∨ x.state = .replied) ∧ x.owner = m) → exec (.mbxRelease m c t) s = .next ignored) ∧
    (1 ≤ m ∧ m ≤ 4 → exec (.forceFree m c t) s = .next (freed true)) ∧
    (¬ (1 ≤ m ∧ m ≤ 4) → exec (.forceFree m c t) s = .next ignored) ∧
    (receiver s c ≠ 0 → allows s c m = true → x.state = .free →
      exec (.mbxLock m c t) s = .next (send (setChan (atTime s t) c { x with
        state := .held, owner := m, buf := [], len := 0, expired := false, grantAt := max s.time t }) (.register 0))) ∧
    (∀ v, v % 256 = 0 ∨ 5 ≤ v % 256 → mbxControl (atTime s t) m c v = ignored)

/-- R393 to R395, R418: PERST_N and the host link. PERST_N disables every queue, unbinds every aperture, frees the host's
channels and returns the entries that name host addresses and vectors. BAR0: what is ignored, the CXL registers, the MSI-X
table and pending bits (that a vector is masked at reset is the model's choice, log 145). -/
def Obligations.HostLink : Prop :=
  (∀ s t, s.pwr.managed = true → s.pwr.perstN = true →
    ∃ u, exec (.perstNAssert t) s = .next u ∧ u.pwr.perstN = false ∧ reg u Key.cxlLinkState = 0 ∧ u.cxl.ready = false ∧
      u.cxl.apts = [] ∧ u.cxl.filter = [] ∧ u.cxl.hdm = none ∧ u.cxl.msix = [] ∧ u.cxl.msixDue = [] ∧
      (∀ q, q < 64 → enabled u q = false ∧ ∀ k ∈ [Key.queueCpiAddr, Key.queueVector, Key.queueIrqCount, Key.queueIrqUs],
        reg u (k + 256 * q) = powerUp (k + 256 * q)) ∧
      (∀ a, a < 64 → ∀ k ∈ [Key.aptObject, Key.aptLength, Key.mbxHostVector], reg u (k + 256 * a) = powerUp (k + 256 * a)) ∧
      (∀ c, c < 64 → (chanOf s c).owner = 1 ∨ receiver s c = 1 →
        (chanOf u c).state = .free ∧ (chanOf u c).owner = 0 ∧ (chanOf u c).expired = true) ∧
      u.objs = s.objs ∧ MemKept s u) ∧
  (∀ s t, s.pwr.managed = true → s.pwr.perstN = false →
    exec (.perstNDeassert t) s = .next (if domainOn s 1 = true ∧ (reg s Key.clkPllLocked = 1 ∨ reg s Key.pwrState = 3)
      then setReg { atTime s t with pwr := { s.pwr with perstN := true } } Key.cxlLinkState 1
      else { atTime s t with pwr := { s.pwr with perstN := true } })) ∧
  (∀ s cxl width speed t, reg s Key.cxlLinkState = 1 → width < 256 → speed < 256 →
    ∃ u, exec (.cxlLinkUp cxl width speed t) s = .next u ∧ reg u Key.cxlLinkState = (if cxl then 2 else 3) ∧
      reg u Key.cxlLinkWidth = width ∧ reg u Key.cxlLinkSpeed = speed ∧
      reg u Key.cxlLinkDegraded = (if width < 16 ∨ speed < 64 then 1 else 0) ∧
      u.alm.next = (if width < 16 ∨ speed < 64 then (s.alm.next + 1) % 2 ^ 32 else s.alm.next) ∧ MemKept s u) ∧
  (∀ s t, s.pwr.perstN = true → 1 ≤ reg s Key.cxlLinkState →
    exec (.primaryMailboxReady t) s = .next { atTime s t with cxl := { s.cxl with ready := true } }) ∧
  (∀ s r v, reg s Key.cxlLinkState ≠ 0 → r < 4096 → r % 4 = 0 → v < 2 ^ 32 →
    (∀ wr, s.cxl.ready = false → exec (.configRequest r wr) s = .next (send s (.config 0 true))) ∧
    (s.cxl.ready = true → exec (.configRequest r none) s = .next (send s (.config (configValue s r) false)) ∧
      ∃ u, exec (.configRequest r (some v)) s = .next u ∧ u.out = s.out ++ [.config 0 false] ∧
        (r ≠ 0 → r ≠ 8 → configValue u r = v) ∧ (∀ j, j ≠ r → configValue u j = configValue s j) ∧
        { u with cxl := { u.cxl with config := s.cxl.config }, out := s.out } = s)) ∧
  (∀ s off bytes wr t, 2 ≤ reg s Key.cxlLinkState → s.cxl.ready = false ∨ bytes ≠ 4 ∨ off % 4 ≠ 0 ∨
      (0x61020 ≤ off ∧ off < 0x100000) ∨ 0x180000 ≤ off ∨ (0x61000 ≤ off ∧ off < 0x61020 ∧ wr.isSome = true) ∨
      (0x40000 ≤ off ∧ off < 0x60000 ∧ (devDefined off = false ∨ (devReadOnly off = true ∧ wr.isSome = true))) →
    exec (.ignoredRegisterAccess off bytes ⟨wr, t⟩) s = .next (match wr with
      | some _ => bump (atTime s t) Key.cxlDbRejects 1
      | none => send (bump (atTime s t) Key.cxlDbRejects 1) (.register 0))) ∧
  (∀ s o t, 2 ≤ reg s Key.cxlLinkState → s.cxl.ready = true → o % 4 = 0 →
    (0x40000 ≤ o → o < 0x60000 → devDefined o = true →
      exec (.ignoredRegisterAccess o 4 ⟨none, t⟩) s = .next (send (atTime s t) (.register (devWord s o))) ∧
      ∀ v, v < 2 ^ 32 → devReadOnly o = false → o ≠ mailboxBase + 4 →
        ∃ u, exec (.ignoredRegisterAccess o 4 ⟨some v, t⟩) s = .next u ∧ devWord u o = v ∧
          (∀ p, p ≠ o → devWord u p = devWord s p) ∧ u.out = s.out) ∧
    (0x60000 ≤ o → o < 0x61000 →
      exec (.ignoredRegisterAccess o 4 ⟨none, t⟩) s = .next (send (atTime s t) (.register (msixWord s.cxl ((o - 0x60000) / 4)))) ∧
      ∀ v, v < 2 ^ 32 → ∃ u, exec (.ignoredRegisterAccess o 4 ⟨some v, t⟩) s = .next u ∧
        msixWord u.cxl ((o - 0x60000) / 4) = (if o % 16 = 12 then v % 2 else v) ∧
        (∀ w, w ≠ (o - 0x60000) / 4 → msixWord u.cxl w = msixWord s.cxl w) ∧
        (o % 16 = 12 ∧ v % 2 = 0 ∧ (o - 0x60000) / 16 ∈ s.cxl.msixDue →
          u.out = s.out ++ [.msix ((o - 0x60000) / 16)] ∧ (o - 0x60000) / 16 ∉ u.cxl.msixDue)) ∧
    (0x61000 ≤ o → o < 0x61020 →
      exec (.ignoredRegisterAccess o 4 ⟨none, t⟩) s = .next (send (atTime s t) (.register (pbaWord s ((o - 0x61000) / 4)))))) ∧
  (∀ s v, (msixWord s.cxl (4 * v + 3) % 2 = 1 → (raiseMsix s v).out = s.out ∧ v ∈ (raiseMsix s v).cxl.msixDue) ∧
    (msixWord s.cxl (4 * v + 3) % 2 = 0 → raiseMsix s v = send s (.msix v)))

/-- R400 to R405, R491: the HDM decoder, host accesses to an aperture, held while their page
cannot be reached (R323) or in a freeze, answered with poison in a final one, the answer to a snoop, the end of an unbind. -/
def Obligations.HostMemory : Prop :=
  (∀ s base size, reg s Key.cxlLinkState = 2 → s.cxl.ready = true → base < 2 ^ 64 →
    (ringsIn s base size = true ∨ size = 0 ∨ 2 ^ 38 < size → ∃ u, exec (.hdmCommit base size) s = .next u ∧
      u.cxl = { s.cxl with hdm := none, hdmError := true } ∧ reg u Key.cxlHdmBase = 0 ∧
      (∀ k, k ≠ Key.cxlHdmBase → reg u k = reg s k) ∧ { u with cxl := s.cxl, dict := s.dict } = s) ∧
    (ringsIn s base size = false → 0 < size → size ≤ 2 ^ 38 → ∃ u, exec (.hdmCommit base size) s = .next u ∧
      u.cxl = { s.cxl with hdm := some (base, size), hdmError := false } ∧ reg u Key.cxlHdmBase = base ∧
      (∀ k, k ≠ Key.cxlHdmBase → reg u k = reg s k))) ∧
  (∀ s addr len wr b z, s.cxl.hdm = some (b, z) → reg s Key.cxlLinkState = 2 → b ≤ addr → addr + len ≤ b + z → 0 < len →
    let x := Tab.get {} s.cxl.apts ((addr - b) / 2 ^ 32)
    let off := (addr - b) % 2 ^ 32
    let h : HostAcc := { off := addr - b, len := len, wr := wr }
    let waits : State := { s with cxl := { s.cxl with held := s.cxl.held ++ [h] } }
    (hostLinkUp s = false → exec (.hdmAccess addr len wr) s = .next (send s .hostError)) ∧
    (hostLinkUp s = true → reg s Key.frzState = 1 ∨ reg s Key.frzState = 2 → exec (.hdmAccess addr len wr) s = .next waits) ∧
    (hostLinkUp s = true → reg s Key.frzState = 0 → s.cxl.held.any h.meets = true → exec (.hdmAccess addr len wr) s = .next waits) ∧
    (hostLinkUp s = true → reg s Key.frzState = 0 → x.state ≠ .unbound → off + len ≤ x.len →
      hostReach s (objOf s x.obj) (x.off + off) len = false → exec (.hdmAccess addr len wr) s = .next waits) ∧
    (hostLinkUp s = true → 3 ≤ reg s Key.frzState → exec (.hdmAccess addr len wr) s = .next (match wr with
      | none => send s (.hdmData (List.replicate len 0) true)
      | some _ => s)) ∧
    (hostLinkUp s = true → reg s Key.frzState = 0 → s.cxl.held.any h.meets = false →
      (x.state = .unbound ∨ x.len < off + len → exec (.hdmAccess addr len wr) s = .next (match wr with
        | none => send (bump s Key.cxlUnboundAccesses 1) (.hdmData (List.replicate len 0) false)
        | some _ => bump s Key.cxlUnboundAccesses 1)) ∧
      (x.state ≠ .unbound → off + len ≤ x.len → hostReach s (objOf s x.obj) (x.off + off) len = true →
        (wr = none → let r := hostRead s (objOf s x.obj) (x.off + off) len
          exec (.hdmAccess addr len wr) s = .next (send (trackLines (countHostRead s (objOf s x.obj) (x.off + off) len)
            ((addr - b) / 2 ^ 32) off len) (.hdmData r.1 r.2))) ∧
        ∀ bs, wr = some bs →
          (draftRows s (objOf s x.obj).num (x.off + off) bs.length = .wait → exec (.hdmAccess addr len wr) s = .next waits) ∧
          ∀ s1, draftRows s (objOf s x.obj).num (x.off + off) bs.length = .ok s1 →
            exec (.hdmAccess addr len wr) s = .next (markReady (writeLocal { s1 with cxl := { s1.cxl with
              filter := s1.cxl.filter.filter (fun l => !(l.apt == (addr - b) / 2 ^ 32 && (linesOf off len).contains l.line)) } }
              (objOf s1 (objOf s x.obj).num) (x.off + off) bs))))) ∧
  (∀ s, s.cxl.held ≠ [] → hostLinkUp s = true → reg s Key.frzState = 0 →
    serveHeld s = s.cxl.held.foldl tryAccess { s with cxl := { s.cxl with held := [] } }) ∧
  (∀ s a line, s.cxl.filter.length ≤ 1048576 → (trackLine s a line).cxl.filter.length ≤ 1048576 ∧
    { apt := a, line := line, modified := true } ∈ (trackLine s a line).cxl.filter) ∧
  (∀ s addr, reg s Key.cxlLinkState = 2 → addr < 2 ^ 64 → exec (.h2dSnoop addr) s = .next (send s .snoopResp)) ∧
  (∀ s a, (Tab.get {} s.cxl.apts a).state = .unbinding → hostLinkUp s = true →
    ∃ u, exec (.unbindComplete a) s = .next u ∧ Tab.get {} u.cxl.apts a = {} ∧ (∀ l ∈ u.cxl.filter, l.apt ≠ a) ∧
      (∀ k, k ≠ a → Tab.get {} u.cxl.apts k = Tab.get {} s.cxl.apts k) ∧ u.dict = s.dict ∧ MemKept s u)

/-- R406, R408, R468 to R470: the primary mailbox and DOE; the SPDM responder answers from what it offers, the certificate
slots, their keys and the six measurements; the IDE streams move inside an open session alone. The timestamp runs on from
where it was set. The mailbox's registers stand where log 146 puts them. -/
def Obligations.PrimaryMailbox : Prop :=
  ∀ s, 2 ≤ reg s Key.cxlLinkState → s.cxl.ready = true →
    (∀ v t t2, v < 2 ^ 64 → max s.time t ≤ t2 →
      ∃ u, exec (.setTimestamp v t) s = .next u ∧ u.out = s.out ++ [.mailbox 0 []] ∧
        { u with cxl := { u.cxl with stamp := s.cxl.stamp, stampAt := s.cxl.stampAt }, out := s.out, time := s.time } = s ∧
        ∃ u2, exec (.getTimestamp t2) u = .next u2 ∧ u2.out = u.out ++ [.mailbox 0 (leBytes 8 (v + (t2 - max s.time t)))]) ∧
    (∀ t, exec (.getTimestamp t) s = .next (send (atTime s t)
      (.mailbox 0 (leBytes 8 (s.cxl.stamp + (max s.time t - s.cxl.stampAt)))))) ∧
    exec .getSupportedLogs s = .next (send s (.mailbox 0 (leBytes 2 1 ++ leBytes 6 0 ++ effectsUuid ++ leBytes 4 20))) ∧
    (∀ off len, off + len ≤ 20 → exec (.getLog off len) s = .next (send s (.mailbox 0 ((effectsLog.drop off).take len)))) ∧
    (∀ i, exec (.doeDiscovery i) s = .next (send s (.doe (leBytes 2 (doeProtocol i).1 ++ leBytes 1 (doeProtocol i).2 ++
      leBytes 1 (if i < 3 then i + 1 else 0))))) ∧
    (∀ i e, (cdatHeader :: cdatEntries)[i]? = some e → exec (.cxlTableAccess i) s = .next
      (send s (.doe (leBytes 2 0 ++ leBytes 2 (if i < 5 then i + 1 else 0xFFFF) ++ e)))) ∧
    (∀ v t, v < 2 ^ 32 → v % 2 = 1 → exec (.ignoredRegisterAccess (mailboxBase + 4) 4 ⟨some v, t⟩) s = .next
      (runMailbox (setDev (atTime s t) (mailboxBase + 4) v))) ∧
    (∀ op pl, op ∉ [0x0300, 0x0301, 0x0400, 0x0401, 0xC000] → mailboxCommand s op pl = (s, 3, [])) ∧
    (∀ t, Tab.get 0 s.cxl.regs mailboxBase = 0 →
      exec (.ignoredRegisterAccess mailboxBase 4 ⟨none, t⟩) s = .next (send (atTime s t) (.register 12))) ∧
    (∀ req, let v := send (spdmStep s req) (.doe (spdmAnswer s req))
      reg v Key.secSpdmSessions ≤ 4 ∧ RegsKept s v [Key.secSpdmSessions] ∧ v.fresh = s.fresh + 1 ∧
      { v with dict := s.dict, out := s.out, fresh := s.fresh } = s ∧
      (reg s Key.secSpdmSessions = 0 → exec (.spdmRequest true req) s = .next v) ∧
      (reg s Key.secSpdmSessions ≠ 0 →
        exec (.spdmRequest true req) s = .next (ideStep v (Config.ideAfter s.fresh req % 4)) ∧
        (s.cxl.held = [] → (∀ e ∈ s.cxl.apts, e.2.state ≠ .unbinding) →
          reg (ideStep v (Config.ideAfter s.fresh req % 4)) Key.cxlIdeState ≤ 3 ∧
          RegsKept v (ideStep v (Config.ideAfter s.fresh req % 4)) [Key.cxlIdeState]))) ∧
    (∀ req, s.pwr.managed = true → ∃ u, exec (.spdmRequest false req) s = .next u ∧
      u.out = s.out ++ [.mctp (spdmAnswer s req)] ∧ reg u Key.secSpdmSessions ≤ 4 ∧
      RegsKept s u [Key.secSpdmSessions] ∧ { u with dict := s.dict, out := s.out, fresh := s.fresh } = s) ∧
    (measReport s).map Prod.fst = [.digest, .digest, .digest, .digest, .rawBits, .rawBits] ∧
    ∀ m ∈ measReport s, m.2.length = 48

/-! ## Dictionary, firmware, errors and freeze (chapters 14 to 16) -/

/-- R428, R430, R434, R435 to R440: the server executes a message of each transport and answers; it answers a message that
is not well formed with a header alone; after a failure STOP executes nothing more; a repeated frame is answered again. MCTP
carries them in the envelope of R436; the buffers of 4 messages and 8 frames drop what they have no place for (how long a
message waits in them is free, log 95). -/
def Obligations.DictionaryMessages : Prop :=
  (∀ s msg t, s.pwr.managed = true →
    (msg.take 4 ≠ mctpHead → exec (.dictMessage .mctp msg t) s = .next (atTime s t)) ∧
    (msg.take 4 = mctpHead →
      let waits := s.srv.i3cDue.filter (fun d => decide (max s.time t < d))
      let s1 : State := { atTime s t with fresh := s.fresh + 1 }
      (4 ≤ waits.length → exec (.dictMessage .mctp msg t) s = .next (bump s1 Key.dictDropped 1)) ∧
      (waits.length < 4 → ∃ d, max s.time t ≤ d ∧ (∀ x ∈ waits, x ≤ d) ∧ (d ≤ max s.time t + 10000000 ∨ d ∈ waits) ∧
        let r := serveMessage { s1 with srv := { s.srv with i3cDue := waits ++ [d] } } 2 4096 (msg.drop 4)
        exec (.dictMessage .mctp msg t) s = .next (send r.1 (.dictResp .mctp (mctpHead ++ r.2))))) ∧
    (2 ≤ reg s Key.cxlLinkState → s.cxl.ready = true →
      let r := serveMessage (atTime s t) 1 4096 msg
      exec (.dictMessage .cxl msg t) s = .next (send r.1 (.dictResp .cxl r.2))) ∧
    (∀ m, m = 4 ∨ (8 ≤ m ∧ m ≤ 23) →
      (reg s Key.frzState = 0 → let r := serveMessage (atTime s t) m 65535 msg
        exec (.dictMessage (.firmware m) msg t) s = .next (send r.1 (.dictResp (.firmware m) r.2))) ∧
      (reg s Key.frzState ≠ 0 → exec (.dictMessage (.firmware m) msg t) s = .next (atTime s t))) ∧
    (reg s Key.flnEnable ≠ 0 → 18 ≤ msg.length → beNat ((msg.drop 12).take 2) = 0x88B5 → field msg 14 1 = 1 →
      field msg 0 6 = reg s Key.flnMac → field msg 0 6 ≠ broadcastMac →
      let waits := s.srv.flnDue.filter (fun d => decide (max s.time t < d))
      let s1 : State := { atTime s t with fresh := s.fresh + 1 }
      (8 ≤ waits.length → exec (.dictMessage .fln msg t) s = .next (bump s1 Key.dictDropped 1)) ∧
      (waits.length < 8 → ∃ d, max s.time t ≤ d ∧ (∀ x ∈ waits, x ≤ d) ∧ (d ≤ max s.time t + 10000000 ∨ d ∈ waits) ∧
        let s2 : State := { s1 with srv := { s.srv with flnDue := waits ++ [d], lastSrc := some (field msg 6 6) } }
        (∀ e, s.srv.kept.find? (fun e => e.1 == field msg 6 6 && e.2.1 == field (msg.drop 18) 2 2) = some e →
          ∃ u, exec (.dictMessage .fln msg t) s = .next u ∧
            u.out = s.out ++ [.frame (field msg 6 6) (flnFrame s (field msg 6 6) (leBytes 4 2 ++ e.2.2))] ∧
            reg u Key.flnDuplicates = wrap64 (reg s Key.flnDuplicates + 1) ∧ RegsKept s u [Key.flnDuplicates]) ∧
        (s.srv.kept.find? (fun e => e.1 == field msg 6 6 && e.2.1 == field (msg.drop 18) 2 2) = none →
          let r := serveMessage s2 3 1496 (msg.drop 18)
          ∃ u, exec (.dictMessage .fln msg t) s = .next u ∧
            u.out = r.1.out ++ [.frame (field msg 6 6) (flnFrame r.1 (field msg 6 6) (leBytes 4 2 ++ r.2))] ∧
            u.dict = r.1.dict ∧ u.mem = r.1.mem)))) ∧
  (∀ s m limit msg, field msg 0 1 ≠ 1 ∨ 128 ≤ field msg 1 1 ∨ field msg 4 2 = 0 ∨ field msg 6 2 ≠ msg.length ∨ limit < 24 →
    serveMessage s m limit msg = (bump s Key.dictBadMessages 1, respHeader (bit (field msg 1 1) 0) (field msg 2 2) 0 8)) ∧
  (∀ m xs s, (execItems m true xs true s).1 = s ∧ (execItems m true xs true s).2.length = 16 * xs.length)

/-- R433, R427: the order of the checks of a write to its last, what a refusal leaves, and the generation an accepted write
adds to; a setting is written while its domain is off, an entry that acts or counts is not. -/
def Obligations.DictionaryWrites : Prop :=
  ∀ s m e k off data cond,
    let i := (k - e.base) / e.stride
    let w := writeEntry s m e k off data cond
    (e.acc = 1 → w = (s, 0x03)) ∧
    (e.acc ≠ 1 → maskGrants (writeMask s e k) m = false → w.2 = 0x02 ∧
      (isFirmware m = false ∨ e.base ∉ [Key.secSvnCommit, Key.secKeyRevoke, Key.pwrLimitW] → w.1 = s) ∧
      (isFirmware m = true → e.base = Key.secSvnCommit ∨ e.base = Key.secKeyRevoke → w.1 = weir s 2 m (leNat data))) ∧
    (e.acc ≠ 1 → maskGrants (writeMask s e k) m = true →
      (isLocked s e k = true → w = (s, 0x06)) ∧
      (isLocked s e k = false → itemFits e k off data.length = false → w = (s, 0x05)) ∧
      (isLocked s e k = false → itemFits e k off data.length = true →
        (∀ g, cond = some g → g ≠ reg s Key.dictGeneration → w = (s, 0x08)) ∧
        ((∀ g, cond = some g → g = reg s Key.dictGeneration) →
          (badValue s e i (leNat data) = true → w.2 = 0x04 ∧
            (e.base ≠ Key.secSvnCommit → ¬ (e.base = Key.pwrLimitW ∧ isFirmware m = true) → w.1 = s)) ∧
          (badValue s e i (leNat data) = false →
            (∀ t, actWrite s m e i k off data = .inUse t → w = (t, 0x07)) ∧
            (∀ t, actWrite s m e i k off data = .done t → keyOn s k = false → e.acc = 4 ∨ e.acc = 6 → w = (s, 0x09)) ∧
            (∀ t, actWrite s m e i k off data = .done t → keyOn s k = true ∨ (e.acc ≠ 4 ∧ e.acc ≠ 6) → w.2 = 0x00 ∧
              reg w.1 Key.dictGeneration = (reg t Key.dictGeneration + 1) % 2 ^ 32 ∧
              (∀ j, j ≠ Key.dictGeneration → reg w.1 j = reg t j) ∧ w.1.mem = t.mem)))))

/-- R432, R433: an undefined operation or key, and NEXT_KEY, which walks the defined keys upward without leaving one
out; a refusal is counted, with what it refused. -/
def Obligations.DictionaryKeys : Prop :=
  (∀ s m x, x.op = 0 ∨ 5 < x.op → execItem s m x = (s, 0x0D, [])) ∧
  (∀ s m x, 1 ≤ x.op → x.op ≤ 4 → keyGroup x.key ≠ 0x7F → entryOf x.key = none → execItem s m x = (s, 0x01, [])) ∧
  (∀ k n, nextKey k = some n → k < n ∧ (entryOf n).isSome = true ∧ ∀ j, k < j → j < n → entryOf j = none) ∧
  (∀ k, nextKey k = none → ∀ j, k < j → entryOf j = none) ∧
  (∀ s m x code, m < 256 →
    (code ∈ [0x00, 0x0A, 0x0B, 0x0C] → noteRefusal s m x code = s) ∧
    (code ∈ [0x01, 0x02, 0x03, 0x04, 0x05, 0x06, 0x07, 0x08, 0x09, 0x0D] →
      reg (noteRefusal s m x code) Key.dictRefusals = wrap64 (reg s Key.dictRefusals + 1) ∧
      reg (noteRefusal s m x code) Key.dictLastRefusal = x.key + m * 2 ^ 32 + code * 2 ^ 40))

/-- R535: group 0x7F. -/
def Obligations.ReservedGroup : Prop :=
  (∀ s m x, keyGroup x.key = 0x7F →
    (x.op = 1 → execItem s m x = (s, 0x00, List.replicate x.dlen 0)) ∧
    (x.op = 4 → x.dlen = 0 → execItem s m x = (s, 0x00, List.replicate 16 0)) ∧
    (x.op = 2 ∨ x.op = 3 → execItem s m x = (s, 0x03, []))) ∧
  ∀ k n, nextKey k = some n → keyGroup n ≠ 0x7F

/-- R463, R465: an image passes VERIFY only if its key is a fused one not revoked, its signature and hash hold and its
SVN is no older than the fused one; it becomes the running image or is staged, and a failed one is discarded. R470: with an
image that starts, certificate slot 1 holds slot 0's chain and the certificate of the alias key of its measurements. -/
def Obligations.ImageVerify : Prop :=
  (∀ s, verify s = 1 →
    let b := s.boot.staging
    imgNat b 0 4 = 0x5746344C ∧ imgNat b 4 2 = 1 ∧ 512 ≤ imgLength b ∧ imgLength b ≤ 8388608 ∧
    imgSlot b ≤ 3 ∧ bit s.boot.revoked (imgSlot b) = false ∧ Config.sha384 (imgBytes b 64 97) = Config.keyHash (imgSlot b) ∧
    inOrder (beNat (imgBytes b 416 48)) = true ∧ inOrder (beNat (imgBytes b 464 48)) = true ∧
    Config.ecdsaValid (Config.sha384 (imgBytes b 0 416)) (beNat ((imgBytes b 64 97).drop 1)) (beNat (imgBytes b 416 96)) = true ∧
    Config.sha384 (imgBytes b 512 (imgLength b - 512)) = beNat (imgBytes b 176 48) ∧ s.boot.svn ≤ imgSvn b ∧
    imgEph b &&& reg s Key.ephSupported ≠ 0 ∧ (reg s Key.ephPin ≠ 0 → bit (imgEph b) (reg s Key.ephPin) = true)) ∧
  (∀ s t, reg s Key.bootState = 2 →
    (verify s = 1 → s.boot.hasImage = false ∨ s.boot.before = 7 →
      ∃ u, exec (.verifyComplete t) s = .next u ∧ reg u Key.bootState = 3 ∧ reg u Key.bootResult = 1 ∧
        u.boot.running = s.boot.staging ∧ u.boot.staging = s.boot.running ∧ u.boot.hasImage = true ∧
        reg u Key.fwVersion = imgVersion s.boot.staging ∧ reg u Key.bootLoadOwner = 0 ∧
        reg u Key.bootStarts = stick32 (reg s Key.bootStarts + 1) ∧ MemKept s u ∧
        slotOne u = slotZero u ++ [Config.aliasCert (deviceIdKey u) (Config.publicKey
          (Config.deriveKey Config.deviceSecret (measurements u 4))) (reg u Key.fwVersion) (reg u Key.fwSvn)]) ∧
    (verify s = 1 → s.boot.hasImage = true → s.boot.before ≠ 7 →
      ∃ u, exec (.verifyComplete t) s = .next u ∧ u.boot = s.boot ∧
        RegsKept s u [Key.bootResult, Key.bootLoadOwner, Key.fwStagedVersion, Key.bootState] ∧ reg u Key.bootResult = 1 ∧
        reg u Key.bootLoadOwner = 0 ∧ reg u Key.fwStagedVersion = imgVersion s.boot.staging ∧ reg u Key.bootState = 5 ∧
        { u with dict := s.dict, time := s.time } = s) ∧
    (verify s ≠ 1 →
      ∃ u, exec (.verifyComplete t) s = .next u ∧ reg u Key.bootState = s.boot.before ∧ reg u Key.bootResult = verify s ∧
        u.boot = { s.boot with staging := [] } ∧ reg u Key.bootLoaded = 0 ∧ reg u Key.bootLoadOwner = 0 ∧
        u.alm.next = (s.alm.next + 1) % 2 ^ 32 ∧ u.pwr.alertEnd = max s.pwr.alertEnd (max s.time t + 100000) ∧ MemKept s u))

/-- R301, R453, R460, R464 to R467, R494: loading, start, activation, watchdog, memory and read-out.
R436: the module as an I3C target and MCTP endpoint. -/
def Obligations.FirmwareCommands : Prop :=
  (
  (∀ s t, reg s Key.bootState = 1 → s.boot.loadAt + 1000000 * reg s Key.bootLoadIdleMs ≤ max s.time t →
    ∃ u, exec (.loadIdleTimeout t) s = .next u ∧ reg u Key.bootState = s.boot.before ∧ reg u Key.bootLoadOwner = 0 ∧
      u.boot = { s.boot with staging := [] } ∧
      RegsKept s u [Key.bootState, Key.bootLoadOwner, Key.bootLoaded, Key.fwStagedVersion] ∧
      { u with dict := s.dict, boot := s.boot, time := s.time } = s) ∧
  (∀ s t, reg s Key.bootState = 3 → s.boot.memReady = true → s.pwr.rows = railRows → reg s Key.clkPllLocked = 1 →
    reg s Key.pwrState = 0xFF → reg s Key.frzState = 0 →
    exec (.firmwareReady t) s = .next (pump (markReady (sendNotices (touch
      (setReg (setReg (atTime s t) Key.bootState 4) Key.pwrState 0)))))) ∧
  (∀ s t, reg s Key.frzState ≠ 0 → exec (.firmwareReady t) s = .next s ∧ exec (.activationFallback t) s = .next s) ∧
  (∀ s t, reg s Key.bootState = 6 → reg s Key.frzState = 0 →
    ∃ u, exec (.firmwareReady t) s = .next u ∧ reg u Key.bootState = 4 ∧ u.boot.running = s.boot.staging ∧
      u.boot.staging = s.boot.running ∧ reg u Key.fwVersion = imgVersion s.boot.staging ∧
      reg u Key.fwSvn = imgSvn s.boot.staging ∧ u.alm.next = (s.alm.next + 1) % 2 ^ 32 ∧ MemKept s u) ∧
  (∀ s t, reg s Key.bootState = 6 → reg s Key.frzState = 0 → s.boot.startAt + 1000000000 ≤ max s.time t →
    ∃ u, exec (.activationFallback t) s = .next u ∧ reg u Key.bootState = 4 ∧ reg u Key.bootResult = 10 ∧
      u.boot = { s.boot with staging := [] } ∧ reg u Key.fwVersion = reg s Key.fwVersion ∧
      u.alm.next = (s.alm.next + 1) % 2 ^ 32 ∧ MemKept s u) ∧
  (∀ s t, dogRuns s = true →
    let old := s.boot.dogs.filter (fun x => decide (max s.time t < x + 60000000000))
    ∃ u, exec (.watchdogExpiry t) s = .next u ∧ u.boot.dogs = old ++ [max s.time t] ∧
      reg u Key.bootWatchdogs = stick32 (reg s Key.bootWatchdogs + 1) ∧
      (old.length < 2 → RegsKept s u [Key.bootWatchdogs, Key.almOverwritten] ∧ u.boot.running = s.boot.running ∧
        u.alm.next = (s.alm.next + 1) % 2 ^ 32 ∧ MemKept s u) ∧
      (2 ≤ old.length → reg u Key.bootState = 7 ∧ u.boot.running = s.boot.running ∧ u.boot.staging = [] ∧
        s.pwr.alertEnd ≤ u.pwr.alertEnd)) ∧
  (∀ s t, s.pwr.target = some 0 → 3 ≤ reg s Key.pwrState → s.boot.hasImage = true →
    ∃ u, exec (.imageBankError t) s = .next u ∧ reg u Key.bootState = 0 ∧ reg u Key.fwVersion = 0 ∧ reg u Key.fwSvn = 0 ∧
      reg u Key.fwEphMask = 0 ∧ u.boot = { s.boot with running := [], staging := [], hasImage := false, before := 0 } ∧
      u.alm.next = (s.alm.next + 1) % 2 ^ 32 ∧ MemKept s u) ∧
  (∀ s t v, s.boot.commit = some v → s.boot.svn < 64 →
    ∃ u, exec (.fuseStepBlown t) s = .next u ∧ s.boot.svn < u.boot.svn ∧
      (Tab.get 0 u.boot.cells (2 * s.boot.svn) = 1 ∨ Tab.get 0 u.boot.cells (2 * s.boot.svn + 1) = 1) ∧
      (∀ i, i / 2 ≠ s.boot.svn → Tab.get 0 u.boot.cells i = Tab.get 0 s.boot.cells i) ∧
      (∀ i, Tab.get 0 s.boot.cells i = 1 → Tab.get 0 u.boot.cells i = 1) ∧ u.boot.blown = s.boot.blown + 1 ∧
      u.boot.commit = (if v ≤ s.boot.svn + 1 ∨ 64 ≤ s.boot.svn + 1 then none else some v) ∧
      { u with boot := s.boot, time := s.time, fresh := s.fresh } = s) ∧
  (∀ s hbm dimms t, reg s Key.bootState = 3 → s.boot.memReady = false → 6 ≤ s.pwr.rows → reg s Key.clkPllLocked = 1 →
    ∃ u, exec (.memoryTrained hbm dimms t) s = .next u ∧ u.boot = { s.boot with memReady := true } ∧ u.mem = s.mem ∧
      (∀ i b, i < 8 → hbm[i]? = some b → reg u (Key.hbmState + i) = if b then 1 else 3) ∧
      (∀ i d, i < 16 → dimms[i]? = some d → reg u (Key.ddrState + i) = dimmState s (dimmKind s dimms) d ∧
        reg u (Key.ddrCapacity + i) = if dimmState s (dimmKind s dimms) d = 1 then d.capacity % 2 ^ 64 else 0)) ∧
  (∀ s t, reg s Key.frzReadState = 1 → 2 ≤ reg s Key.frzState →
    let as := readoutAddrs s.err.readAddr s.err.readLen
    (s.err.readDest = 0 →
      ∃ u, exec (.readoutDone t) s = .next u ∧ reg u Key.frzReadState = 2 ∧ reg u Key.frzReadDone = s.err.readLen ∧
        reg u Key.frzReadBuf = leNat (as.flatMap (readoutSpan s)) ∧
        u.alm.next = (if as.all (mapped s) then s.alm.next else (s.alm.next + 1) % 2 ^ 32) ∧ u.mem = s.mem ∧ u.host = s.host) ∧
    (s.err.readDest ≠ 0 → reg s Key.frzState ≠ 4 → reg s Key.cxlLinkState = 2 →
      ∃ u, exec (.readoutDone t) s = .next u ∧ reg u Key.frzReadState = 2 ∧ reg u Key.frzReadDone = s.err.readLen ∧
        (∀ i, i < s.err.readLen / 64 * 64 → Tab.get 0 u.host (s.err.readDest + i) = (as.flatMap (readoutSpan s)).getD i 0) ∧
        u.mem = s.mem)) ∧
  (∀ s a, (mapped s a = false → readoutSpan s a = List.replicate 64 0) ∧
    (mapped s a = true → hbmBase ≤ a → a < deviceBase → ∀ i, i < 64 → (readoutSpan s a)[i]? = some (byteAt s (a + i))))) ∧
  (
  ∀ s, s.pwr.managed = true →
    (∀ a, 1 ≤ a → a ≤ 0x7E → exec (.entdaa a) s = .next
      (setReg (send s (.provisionalId (Config.provisionalId (reg s Key.idUnique) % 2 ^ 48))) Key.i3cDynAddr a)) ∧
    (∀ e, 1 ≤ e → e ≤ 254 → ∃ u, exec (.setEndpointId e) s = .next u ∧ u.srv.eid = e ∧
      { u with srv := s.srv, out := s.out } = s ∧
      ∃ v, exec .getEndpointId u = .next v ∧ v.out = u.out ++ [.mctp [2, 0, BitVec.ofNat 8 e, 0, 0]]) ∧
    exec .getEndpointId s = .next (send s (.mctp ([2, 0] ++ leBytes 1 s.srv.eid ++ [0, 0]))) ∧
    (∀ ty, ty ∈ [0xFF, 0x00, 0x05, 0x06, 0x7E] →
      exec (.getMctpVersionSupport ty) s = .next (send s (.mctp ([4, 0, 1] ++ leBytes 4 (Config.mctpVersion ty))))) ∧
    exec .getMessageTypeSupport s = .next (send s (.mctp [5, 0, 3, 5, 6, 0x7E])))

/-- R479, R299, R482 to R485: where an error is recorded, and what its severity does.
R489 to R496, R524: entering and leaving a freeze. A module thaws only while its conditions hold. -/
def Obligations.ErrorsAndFreeze : Prop :=
  (
  (∀ s e t, severity e.code = 1 → e.unit < 57 →
    let v := reg s (Key.errValid + 256 * e.unit)
    let r := errRecord e 1 false false (max s.time t) s.alm.next
    ∃ u, exec (.errorRecord e t) s = .next u ∧ u.alm.next = (s.alm.next + 1) % 2 ^ 32 ∧ u.mem.bytes = s.mem.bytes ∧
      (bit v 0 = false → reg u (Key.errFirst + 256 * e.unit) = r ∧ reg u (Key.errValid + 256 * e.unit) = v + 1) ∧
      (bit v 0 = true → bit v 1 = false → reg u (Key.errSubseq + 256 * e.unit) = r ∧
        reg u (Key.errValid + 256 * e.unit) = v + 2 ∧ reg u (Key.errFirst + 256 * e.unit) = reg s (Key.errFirst + 256 * e.unit)) ∧
      (bit v 0 = true → bit v 1 = true →
        reg u (Key.errOverflow + 256 * e.unit) = stick32 (reg s (Key.errOverflow + 256 * e.unit) + 1) ∧
        reg u (Key.errFirst + 256 * e.unit) = reg s (Key.errFirst + 256 * e.unit) ∧
        reg u (Key.errSubseq + 256 * e.unit) = reg s (Key.errSubseq + 256 * e.unit)) ∧
      (e.code = 0x0101 → ¬ (e.unit < 0x10 ∧ e.addr = 0) → poisoned u.mem e.addr 1 = true) ∧
      (e.code = 0x0101 → e.unit < 0x10 → e.addr = 0 → u.mem = s.mem ∧
        let k := (tilesOf e.unit).getD (e.subunit % 4) 0
        (arrOf u k).bad = if (arrOf s k).work.isNone then (arrOf s k).bad
          else (arrOf s k).bad ++ [Config.freeValue s.fresh % 65536]) ∧
      (e.code ≠ 0x0101 → u.mem = s.mem)) ∧
  (∀ s e t, e.code = 0 →
    (0x14 ≤ e.unit → e.unit < 0x1C → exec (.errorRecord e t) s = .next (bump (atTime s t) (Key.hbmCeCount + (e.unit - 0x14)) 1)) ∧
    (0x1C ≤ e.unit → e.unit < 0x2C → exec (.errorRecord e t) s = .next (bump (atTime s t) (Key.ddrCeCount + (e.unit - 0x1C)) 1))) ∧
  (∀ s e t, e.code = 0x0203 → 0x14 ≤ e.unit → e.unit ≤ 0x1B → reg s Key.frzState ≠ 4 →
    ∃ u, exec (.errorRecord e t) s = .next u ∧ reg u (Key.hbmState + (e.unit - 0x14)) = 3 ∧
      reg u Key.plcPagesLost = reg s Key.plcPagesLost ∧ MemKept s u) ∧
  (∀ s e t, severity e.code = 2 → ¬ (e.code = 0x0203 ∧ 0x14 ≤ e.unit ∧ e.unit ≤ 0x2B) → e.unit < 57 → reg s Key.frzState ≠ 4 →
    ∃ u, exec (.errorRecord e t) s = .next u ∧ u.err.stopped.contains e.unit = true ∧
      ∀ w ∈ u.work, errUnitOf w = e.unit → w.phase = .fetched → w.req.isSome = true) ∧
  (∀ s e t, severity e.code = 3 → e.unit < 57 → reg s Key.frzState ≠ 0 → reg s Key.frzState = 4 ∨ s.err.fatal = true →
    ∃ u, exec (.errorRecord e t) s = .next u ∧ bit (reg u Key.frzStatus) 18 = true) ∧
  (∀ s e t, severity e.code = 3 → e.unit < 57 → s.err.fatal = false → reg s Key.frzState = 0 →
    reg s Key.bootState = 4 ∨ reg s Key.bootState = 5 ∨ reg s Key.bootState = 6 → reg s Key.frzOnFatal = 0 →
    ∃ u, exec (.errorRecord e t) s = .next u ∧ u.err.fatal = true ∧
      (∀ k, k < 64 → Tab.get {} u.arr k = {} ∧ vecOf u k = {}) ∧
      (∀ q, q < 64 → reg u (Key.queueFaultLatch + 256 * q) = 1) ∧ reg u Key.frzState = 0 ∧
      max s.time t + 100000 ≤ u.pwr.alertEnd) ∧
  (∀ s e t, severity e.code = 3 → e.unit < 57 → s.err.fatal = true → reg s Key.frzState ≠ 4 →
    ∃ u, exec (.errorRecord e t) s = .next u ∧ reg u Key.fabState = 5 ∧ reg u Key.frzState = 4 ∧
      reg u Key.errContained = 1 ∧ u.cxl.viral = true ∧
      reg u Key.frzEntryNs = (if reg s Key.frzState < 2 then max s.time t else reg s Key.frzEntryNs) ∧ MemKept s u) ∧
  (∀ s unit t, s.err.stopped.contains unit = true →
    exec (.returnToService unit t) s = .next (markReady { atTime s t with
      err := { s.err with stopped := s.err.stopped.filter (· != unit) } }))) ∧
  (
  (∀ s t, s.pwr.managed = true → s.pwr.freezeN = true → reg s Key.frzState = 0 → s.pwr.target = none →
    pwrEnWins (atTime s t) = false →
    ∃ u, exec (.freezeNLow t) s = .next u ∧ reg u Key.frzState = 1 ∧ reg u Key.frzCause = 1 ∧
      reg u Key.frzStatus = 7 * 2 ^ 24 ∧ reg u Key.frzCount = stick32 (reg s Key.frzCount + 1) ∧ u.pwr.freezeN = false ∧ MemKept s u) ∧
  (∀ s t, s.pwr.managed = true → s.pwr.freezeN = true → reg s Key.frzState ≠ 0 ∨ pwrEnWins (atTime s t) = true →
    exec (.freezeNLow t) s = .next { atTime s t with pwr := { s.pwr with freezeN := false } }) ∧
  (∀ s t, reg s Key.frzState = 1 →
    exec (.freezeComplete t) s = .next (setReg (setReg (atTime s t) Key.frzState 2) Key.frzEntryNs (max s.time t))) ∧
  (∀ s t, s.pwr.managed = true → s.pwr.freezeN = false → reg s Key.frzState = 2 →
    (max s.time t - reg s Key.frzEntryNs < 1000 * reg s Key.linkTimeoutUs → (∀ p ∈ s.err.upAt, linkUp s p = true) →
        reg s Key.frzStatus % 64 = 0 → bit (reg s Key.frzStatus) 17 = false → bit (reg s Key.frzStatus) 18 = false →
      ∃ u, exec (.freezeNHigh t) s = .next u ∧ reg u Key.frzState = 0 ∧ (s.cxl.held = [] → MemKept s u)) ∧
    (1000 * reg s Key.linkTimeoutUs ≤ max s.time t - reg s Key.frzEntryNs ∨ (∃ p ∈ s.err.upAt, linkUp s p = false) ∨
        reg s Key.frzStatus % 64 ≠ 0 ∨ bit (reg s Key.frzStatus) 17 = true →
      ∃ u, exec (.freezeNHigh t) s = .next u ∧ reg u Key.frzState = 3 ∧ RegsKept s u [Key.frzState] ∧ MemKept s u)) ∧
  (∀ s t, reg s Key.frzState = 2 → reg s Key.frzEntryNs + 1000 * reg s Key.linkTimeoutUs ≤ max s.time t →
    ∃ u, exec (.freezeTooLong t) s = .next u ∧ reg u Key.frzState = 3 ∧ bit (reg u Key.frzStatus) 16 = true ∧
      RegsKept s u [Key.frzState, Key.frzStatus] ∧ (s.cxl.held = [] → { u with dict := s.dict, time := s.time } = s)) ∧
  (∀ s t, reg s Key.dbgScanEnable = 1 → reg s Key.frzState = 2 →
    ∃ u, exec (.jtagInternalScan t) s = .next u ∧ reg u Key.frzState = 3 ∧ bit (reg u Key.frzStatus) 17 = true ∧
      RegsKept s u [Key.frzState, Key.frzStatus] ∧ (s.cxl.held = [] → { u with dict := s.dict, time := s.time } = s)) ∧
  (∀ s t, s.pwr.alertEnd ≠ 0 → s.pwr.alertEnd ≤ max s.time t →
    exec (.alertPulseEnd t) s = .next { atTime s t with pwr := { s.pwr with alertEnd := 0 } }) ∧
  (∀ s cells, exec (.extest cells) s = .next { s with pwr := { s.pwr with cells := cells } }))

/-! ## Power, clocks, sensors and pins (chapters 15, 17 and 18) -/

/-- R3, R498, R499, R437, R503, R512 to R514: how the module comes up.
R3, R498: the input switch. When it opens the module is as with input power removed: fuses, host memory and what
was sent apart, its state is the state after reset. -/
def Obligations.PowerUp : Prop :=
  (
  (∀ s t, s.pwr.closed = false → s.pwr.tripped = false →
    exec (.coldPowerUp t) s = .next { atTime s t with pwr := { s.pwr with closed := true } }) ∧
  (∀ s t, s.pwr.closed = true → s.pwr.managed = false →
    ∃ u, exec (.managementReady t) s = .next u ∧ u.pwr = { s.pwr with managed := true } ∧
      reg u Key.idSlot = Config.slotId % 64 ∧ reg u Key.flnNodeId = Config.slotId % 64 + 1 ∧
      reg u Key.flnMac = 0x525402 + Config.slotId % 64 * 2 ^ 40 ∧ reg u Key.bootState = 0 ∧
      RegsKept s u [Key.idSlot, Key.flnNodeId, Key.flnMac, Key.bootState] ∧
      { u with dict := s.dict, pwr := s.pwr, time := s.time } = s) ∧
  (∀ s t, s.pwr.raising = true → s.pwr.rows < railRows → s.pwr.down = [] →
    exec (.railsUp t) s = .next { atTime s t with pwr := { s.pwr with
      rows := s.pwr.rows + 1, rowAt := max s.time t, raising := decide (s.pwr.rows + 1 < railRows) } }) ∧
  (∀ s t r rest, s.pwr.raising = true → s.pwr.down = r :: rest →
    exec (.railsUp t) s = .next { atTime s t with pwr := { s.pwr with
      down := rest, rowAt := max s.time t, raising := !(s.pwr.rows == railRows && rest.isEmpty) } }) ∧
  (∀ s t, s.pwr.raising = true → s.pwr.rowAt + 5000000 ≤ max s.time t →
    ∃ u, exec (.railTimeout t) s = .next u ∧ u.pwr.rows = 0 ∧ u.pwr.raising = false ∧ u.mem = {} ∧
      reg u Key.clkPllLocked = 0 ∧ u.alm.next = (s.alm.next + 1) % 2 ^ 32) ∧
  (∀ s t, reg s Key.clkPllLocked = 0 → 2 ≤ s.pwr.rows → reg s Key.pwrState = 0xFF → s.boot.hasImage = false →
    ∃ u, exec (.rootPllLock t) s = .next u ∧ reg u Key.clkPllLocked = 1 ∧
      (reg s Key.clkRefSelect = 0 → reg u Key.clkRefState = 0) ∧
      (reg s Key.clkRefSelect ≠ 0 → reg u Key.clkRefState = 1 ∨ reg u Key.clkRefState = 2) ∧
      (s.pwr.perstN = true → reg s Key.cxlLinkState = 0 → reg u Key.cxlLinkState = 1) ∧ MemKept s u) ∧
  (∀ s t, reg s Key.clkRefState = 1 →
    ∃ u, exec (.referenceLoss t) s = .next u ∧ reg u Key.clkRefState = 2 ∧ u.alm.next = (s.alm.next + 1) % 2 ^ 32 ∧
      max s.time t + 100000 ≤ u.pwr.alertEnd ∧ RegsKept s u [Key.clkRefState, Key.almOverwritten] ∧ MemKept s u)) ∧
  (
  (∀ s c tripped, c = .undervoltage ∧ tripped = false ∨ c = .overvoltage ∧ tripped = false ∨ c = .overcurrentTrip ∧ tripped = true →
    ∀ t, s.pwr.closed = true → ∃ u, exec ((c : Nat → Instr) t) s = .next u ∧
      u.boot = { cells := s.boot.cells, revoked := s.boot.revoked } ∧ u.pwr = { tripped := tripped } ∧ u.host = s.host ∧
      u.out = s.out ∧ u.pending = s.pending ∧ (∀ k, reg u k = reg State.reset k) ∧ u.mem = {} ∧ u.objs = [] ∧
      { u with boot := {}, pwr := {}, host := [], hostPoison := [], out := [], pending := [], fresh := 0 } = State.reset) ∧
  (∀ s t, s.pwr.tripped = true → s.pwr.lowAt ≠ 0 → s.pwr.lowAt + 10000000 ≤ max s.time t →
    exec (.switchRelease t) s = .next { atTime s t with pwr := { s.pwr with tripped := false } }) ∧
  (∀ s t, s.pwr.closed = false → s.pwr.tripped = true → exec (.coldPowerUp t) s = .next s ∧
    exec (.undervoltage t) s = .next { atTime s t with pwr := { s.pwr with tripped := false, lowAt := 0 } }) ∧
  (∀ s t, s.pwr.managed = false → s.pwr.tripped = true →
    exec (.pwrEnLow t) s = .next (if s.pwr.lowAt = 0 then { atTime s t with pwr := { s.pwr with lowAt := max 1 (max s.time t) } }
      else atTime s t) ∧
    exec (.pwrEnHigh t) s = .next { atTime s t with pwr := { s.pwr with lowAt := 0 } }))

/-- R503, R515, R516: a warm reset keeps the management domain, the settings and the staged reasons, and loses the memory and
every unit outside it; PWR_EN high raises the rails.
R415, R504 to R510, R528: wake events, the automatic Dusk, the steps of an entry and the end of a transition, a freeze
that waited for it. Which rails Twilight and Midnight switch off is log 156. -/
def Obligations.PowerStates : Prop :=
  (
  (∀ s t, s.pwr.managed = true → s.pwr.pwrEn = true →
    ∃ u, exec (.pwrEnLow t) s = .next u ∧ u.pwr.pwrEn = false ∧ u.pwr.rows = 0 ∧ reg u Key.pwrState = 0xFF ∧
      reg u Key.clkPllLocked = 0 ∧ reg u Key.frzState = 0 ∧ reg u Key.rstCause = (if reg s Key.frzState = 4 then 2 else 1) ∧
      (reg s Key.bootState ≠ 7 → reg u Key.bootState = 0) ∧ u.mem = {} ∧ u.objs = [] ∧ u.queues = [] ∧ u.work = [] ∧
      u.alm = s.alm ∧ u.boot.running = s.boot.running ∧ u.boot.cells = s.boot.cells ∧ u.boot.sram = s.boot.sram ∧ u.host = s.host ∧ u.err.fatal = false ∧
      (∀ q, q < 64 → enabled u q = false ∧ reg u (Key.queueBase + 256 * q) = reg s (Key.queueBase + 256 * q)) ∧
      (∀ ss, ss < 64 → reg u (Key.senValue + 256 * ss) = reg s (Key.senValue + 256 * ss)) ∧
      (∀ c, c < 64 → (chanOf u c).state = .free)) ∧
  (∀ s t, s.pwr.managed = true → s.pwr.pwrEn = false → s.pwr.thermtrip = false →
    exec (.pwrEnHigh t) s = .next { atTime s t with pwr := { s.pwr with pwrEn := true, raising := true, rowAt := max s.time t } })) ∧
  (
  (∀ s t, reg s Key.pwrAutoDuskUs ≠ 0 → reg s Key.pwrState = 0 → powerRefused s 1 false = false →
    s.pwr.idleAt + 1000 * reg s Key.pwrAutoDuskUs ≤ max s.time t →
    exec (.autoDusk t) s = .next { atTime s t with pwr := { s.pwr with
      target := some 1, stopping := false, stage := 0, deep := 0, wakeHeld := false } }) ∧
  (∀ s t, s.pwr.wakeHeld = true → reg s Key.frzState = 0 → s.pwr.target = none → 1 ≤ reg s Key.pwrState →
    reg s Key.pwrState ≤ 4 →
    exec (.wakeEvent t) s = .next { atTime s t with pwr := { s.pwr with
      wakeHeld := false, target := some 0, stopping := false, after := none, rowAt := max s.time t, raising := !railsUp s } }) ∧
  (∀ s t, s.pwr.wakeHeld = true → reg s Key.frzState ≠ 0 → exec (.wakeEvent t) s = .next (atTime s t)) ∧
  (∀ s t v, s.pwr.wakeHeld = true → reg s Key.frzState = 0 → s.pwr.target = some v → 0 < v →
    s.pwr.deep = 0 → s.pwr.freezeDue = none →
    ∃ u, exec (.wakeEvent t) s = .next u ∧ u.pwr.wakeHeld = false ∧ (∀ m ∈ u.place.moves, m.state ≠ .planned) ∧
      (u.pwr.target = none ∨ u.pwr.stopping = true) ∧ u.dict = s.dict ∧ MemKept s u) ∧
  (∀ s t v x, s.pwr.wakeHeld = true → reg s Key.frzState = 0 → s.pwr.target = some v → 0 < v → s.place.moves = [] →
    reg s Key.pwrState = 0 → s.pwr.stage = 0 → s.pwr.deep = 0 → s.pwr.freezeDue = some x →
    ∃ u, exec (.wakeEvent t) s = .next u ∧ u.pwr.target = none ∧ u.pwr.freezeDue = none ∧ reg u Key.frzState = 1 ∧
      reg u Key.frzCause = x.1) ∧
  (∀ s t, s.pwr.managed = true → exec (.wakeNFall t) s = .next
    (if reg s Key.pwrState = 0xFF ∨ (reg s Key.pwrState = 0 ∧ s.pwr.target = none)
      then { atTime s t with pwr := { s.pwr with wakeN := false } }
      else { atTime s t with pwr := { s.pwr with wakeN := false, wakeHeld := true } })) ∧
  (∀ s t, s.pwr.target = some 1 → reg s Key.frzState = 0 → s.place.moves = [] → s.pwr.stopping = false →
    s.pwr.freezeDue = none →
    ∃ u, exec (.powerTransitionDone t) s = .next u ∧ reg u Key.pwrState = 1 ∧
      reg u Key.pwrTransitions = wrap64 (reg s Key.pwrTransitions + 1) ∧
      AsleepKept s u [Key.pwrState, Key.pwrTransitions] ∧
      u.pwr = { s.pwr with target := none, stopping := false, stage := 0, deep := 0 } ∧
      { u with dict := s.dict, pwr := s.pwr, time := s.time, sens := s.sens } = s) ∧
  (∀ s t, s.pwr.target = some 2 → reg s Key.frzState = 0 → s.place.moves = [] → s.pwr.stopping = false →
    s.pwr.freezeDue = none →
    ∃ u, exec (.powerTransitionDone t) s = .next u ∧ reg u Key.pwrState = 2 ∧ u.pwr.target = none ∧ u.pwr.down = [8] ∧
      (∀ i, i < 8 → reg s (Key.hbmState + i) = 1 → reg u (Key.hbmState + i) = 2) ∧
      (∀ i, i < 16 → reg s (Key.ddrState + i) = 1 → reg u (Key.ddrState + i) = 2) ∧ u.work = s.work ∧ MemKept s u) ∧
  (∀ s t v, v = 3 ∨ v = 4 → s.pwr.target = some v → reg s Key.frzState = 0 → s.place.moves = [] → s.pwr.stopping = false →
    let staged (u : State) (k : Nat) : Prop := u.pwr.stage = k ∧ u.pwr.target = some v ∧ reg u Key.pwrState = reg s Key.pwrState
    (s.pwr.stage = 0 → scratchPages s = [] →
      exec (.powerTransitionDone t) s = .next { atTime s t with pwr := { s.pwr with stage := 1 } }) ∧
    (s.pwr.stage = 1 → ∃ u, exec (.powerTransitionDone t) s = .next u ∧ staged u 2 ∧ u.binds = s.binds ∧ u.slots = s.slots ∧
      (∀ e ∈ u.dir.entries, e.kind = .reloc ∧ e ∈ s.dir.entries) ∧ u.strands.pool = [] ∧ u.dict = s.dict ∧ MemKept s u) ∧
    (s.pwr.stage = 2 → ∃ u, exec (.powerTransitionDone t) s = .next u ∧ staged u 3 ∧
      (∀ p, p < 6 → reg u (Key.linkState + 256 * p) = 0) ∧ u.work = s.work ∧ MemKept s u) ∧
    (s.pwr.stage = 3 → v = 3 → s.pwr.freezeDue = none →
      ∃ u, exec (.powerTransitionDone t) s = .next u ∧ reg u Key.pwrState = 3 ∧ reg u Key.clkPllLocked = 0 ∧
        u.pwr.target = none ∧ u.pwr.down = railsOff 3 ∧ (∀ a, byteAt u a = if a < hbmBase then 0 else byteAt s a) ∧
        (∀ i, i < 8 → reg s (Key.hbmState + i) = 1 → reg u (Key.hbmState + i) = 2)) ∧
    (s.pwr.stage = 3 → v = 4 → ∃ u, exec (.powerTransitionDone t) s = .next u ∧ staged u 4 ∧ u.pwr.deep = 3 ∧
      reg u Key.clkPllLocked = 0) ∧
    (s.pwr.stage = 4 → v = 4 → s.pwr.freezeDue = none →
      ∃ u, exec (.powerTransitionDone t) s = .next u ∧ reg u Key.pwrState = 4 ∧ u.mem = {} ∧ u.mbx = [] ∧ u.dir = {} ∧
        u.slots = [] ∧ u.objs = [] ∧ u.fab = {} ∧ u.red = {} ∧ u.pwr.rows = 0 ∧ u.alm = s.alm ∧
        u.boot.running = s.boot.running ∧ reg u Key.plcEpoch = powerUp Key.plcEpoch ∧
        reg u Key.cxlLinkState = powerUp Key.cxlLinkState)) ∧
  (∀ s t v, s.pwr.target = some v → 0 < v → reg s Key.frzState = 0 → s.place.moves = [] → s.pwr.stopping = true →
    s.pwr.stage = 0 → s.pwr.freezeDue = none → reg s Key.pwrState = 0 → s.pwr.deep = 0 →
    exec (.powerTransitionDone t) s = .next { atTime s t with pwr := { s.pwr with target := none, stopping := false } }) ∧
  (∀ s t, s.pwr.target = some 0 → 2 ≤ max (reg s Key.pwrState) s.pwr.deep → railsUp s = false →
    exec (.powerTransitionDone t) s = .next s) ∧
  (∀ s t, s.pwr.target = some 0 → reg s Key.pwrState = 1 → s.pwr.deep = 0 → reg s Key.frzState = 0 →
    s.pwr.freezeDue = none → s.pwr.after = none →
    ∃ u, exec (.powerTransitionDone t) s = .next u ∧ reg u Key.pwrState = 0 ∧ u.pwr.target = none ∧
      reg u Key.pwrTransitions = wrap64 (reg s Key.pwrTransitions + 1) ∧
      AsleepKept s u [Key.pwrState, Key.pwrTransitions] ∧ MemKept s u))

/-- R448, R449, R454, R455, R498, R500, R501, R526: a sensor's sample, its limits and trips, the throttle, a noisy input (the
level of WAKE_N after a fall and the rounding of a mean are free, logs 42 and 158). -/
def Obligations.SensorsAndInputs : Prop :=
  (∀ s ss vs v t, ss < 0x28 → sensorOn s ss = true → s.pwr.managed = true → -2 ^ 31 ≤ v → v < 2 ^ 31 → ReadsAs ss vs v →
    (∀ l, tripAt ss = some l → v < l) →
    let k := Key.senValue + 256 * ss
    let lo := signed 32 (reg s (k + 1))
    let hi := signed 32 (reg s (k + 2))
    ∃ u, exec (.sensorSample ss vs t) s = .next u ∧ signed 32 (reg u k) = v ∧
      signed 32 (reg u (k + 3)) = max v (signed 32 (reg s (k + 3))) ∧
      (v < lo ∨ hi < v → reg s (k + 4) ≠ 2 → reg u (k + 4) = 1) ∧
      (lo ≤ v → v ≤ hi → (reg s (k + 4) ≠ 2 ∨ v < 90000) → reg u (k + 4) = 0) ∧
      (∀ j, j ≠ k → j ≠ k + 3 → j ≠ k + 4 → j ≠ Key.almOverwritten → reg u j = reg s j) ∧ MemKept s u) ∧
  (∀ s ss vs t, ss < 3 → s.pwr.managed = true → vs ≠ [] → (∀ x ∈ vs, -2 ^ 31 ≤ x ∧ x < 2 ^ 31 - 1) →
    ∃ u v, exec (.sensorSample ss vs t) s = .next u ∧ signed 32 (reg u (Key.senValue + 256 * ss)) = v ∧
      (vs.length : Int) * (v - 1) < vs.sum ∧ vs.sum < (vs.length : Int) * (v + 1)) ∧
  (∀ s ss vs v t l, ss < 0x28 → sensorOn s ss = true → s.pwr.managed = true → v < 2 ^ 31 → ReadsAs ss vs v → tripAt ss = some l → l ≤ v →
    Tab.get 0 s.sens.hot ss = 1 →
    (8 ≤ ss → ss ≤ 0xF → reg s (Key.senValue + 256 * ss + 4) ≠ 2 → ∃ u, exec (.sensorSample ss vs t) s = .next u ∧
      reg u (Key.senValue + 256 * ss + 4) = 2 ∧ u.alm.next = (s.alm.next + 1) % 2 ^ 32 ∧ MemKept s u) ∧
    (ss < 8 ∨ 0xF < ss → s.pwr.thermtrip = false → ∃ u, exec (.sensorSample ss vs t) s = .next u ∧
      reg u (Key.senValue + 256 * ss + 4) = (if ss ≤ 7 then 3 else 2) ∧ u.alm.next = (s.alm.next + 1) % 2 ^ 32 ∧
      u.pwr.thermtrip = true ∧ u.pwr.rows = 0 ∧ reg u Key.pwrState = 0xFF ∧ u.mem = {})) ∧
  (∀ s t, let cur := signed 32 (reg s (Key.senValue + 256))
    let pow := signed 32 (reg s (Key.senValue + 512))
    let lim : Int := 1000 * (reg s Key.pwrLimitW : Int)
    (50000 < cur ∨ lim < pow →
      exec (.throttleStep t) s = .next { atTime s t with pwr := { s.pwr with throttle := min 15 (s.pwr.throttle + 1) } }) ∧
    (100 * cur < 95 * 50000 → 100 * pow < 95 * lim →
      exec (.throttleStep t) s = .next { atTime s t with pwr := { s.pwr with throttle := s.pwr.throttle - 1 } })) ∧
  (∀ s sig t, s.pwr.managed = true → 1 ≤ sig → sig ≤ 4 →
    (sig ≤ 3 ∨ s.pwr.wakeN = true → exec (.inputStorm sig t) s = .next
      (alm (atTime s t) 0xFF 0x0012 (leBytes 1 sig ++ leBytes 1 (inputLevel s sig).toNat))) ∧
    (sig = 4 → s.pwr.wakeN = false → ∃ level : Bool, exec (.inputStorm sig t) s = .next
      (alm { atTime s t with fresh := s.fresh + 1, pwr := { s.pwr with wakeN := level } } 0xFF 0x0012
        (leBytes 1 sig ++ leBytes 1 level.toNat))))

/-! ## The block as a whole -/

/-- A step takes the command at the front of the queue and runs it on the state with the queue's rest; on an empty queue
the block idles (the model's choice, log 8). Every command answers a next state. -/
def Obligations.StepRunsFront : Prop :=
  (∀ c rest s, s.pending = c :: rest → step s = exec c { s with pending := rest }) ∧
  (∀ s, s.pending = [] → step s = .next s) ∧
  ∀ c s, ∃ t, exec c s = .next t

/-- Every step keeps the canonical form of module memory, host memory and the dictionary. -/
def Obligations.CanonicalKept : Prop :=
  ∀ s t, Canonical s → step s = .next t → Canonical t

/-- R459 to R461: no command, a warm reset and a loss of input power among them, undoes a fuse or takes back what was
sent; exec leaves the queue alone. -/
def Obligations.FusesLast : Prop :=
  ∀ c s t, exec c s = .next t → Lasting s t

/-- R3, R426: after power-up every entry reads its power-up value, no image is there, nothing is declared, enabled or
listed. The values given here are the spec's. -/
def Obligations.AfterReset : Prop :=
  (∀ k, reg State.reset k = powerUp k) ∧ Canonical State.reset ∧ State.reset.pending = [] ∧ State.reset.boot.hasImage = false ∧
  (∀ n, (objOf State.reset n).declared = false) ∧ (∀ a, byteAt State.reset a = 0) ∧
  (∀ q, enabled State.reset q = false) ∧ (∀ c, (chanOf State.reset c).state = .free) ∧
  (∀ e ∈ [(Key.pwrState, 0xFF), (Key.bootState, 0), (Key.frzState, 0), (Key.fabState, 0), (Key.ephPin, 0), (Key.fabCoord, 0xFFFF),
      (Key.vecLimitDefault, 1048576), (Key.dspBatchWait, 256), (Key.dspTrainGuard, 7), (Key.sluiceWin, 64), (Key.sluiceAckEvery, 8),
      (Key.sluiceRtoUs, 200), (Key.sluiceRetries, 6), (Key.fabCeThresh, 512), (Key.fabLowGuard, 15), (Key.fabBusyBackoffUs, 2),
      (Key.linkTimeoutUs, 5000), (Key.redWatchdogUs, 1000000), (Key.redCheckShift, 10), (Key.mbxHoldUs, 100000),
      (Key.plcSampleRate, 256), (Key.migTimeoutUs, 1000), (Key.frzPropagate, 1), (Key.dictWriters, 7)],
    reg State.reset e.1 = e.2)

/-- R294, R299, R6: bytes of module memory read as they were written, those outside as before, the canonical form stays,
and a write clears the poison of exactly the codewords it covers whole. -/
def Obligations.MemoryReadsBack : Prop :=
  ∀ s a bs,
    Tab.getRange 0 (writePhys s a bs).mem.bytes a bs.length = bs ∧
    (∀ b, b < a ∨ a + bs.length ≤ b → byteAt (writePhys s a bs) b = byteAt s b) ∧
    (s.mem.wf = true → (writePhys s a bs).mem.wf = true) ∧
    (∀ p, p ∈ (writePhys s a bs).mem.poison ↔ p ∈ s.mem.poison ∧ ¬ (a ≤ p ∧ p + cwBytes p ≤ a + bs.length)) ∧
    (∀ n, n ≤ bs.length → poisoned (writePhys s a bs).mem a n = false → readPhys (writePhys s a bs) a n = some (bs.take n)) ∧
    (∀ n v, v < 2 ^ (8 * n) → leNat (leBytes n v) = v ∧ (leBytes n v).length = n) ∧
    { writePhys s a bs with mem := s.mem } = s

/-- R48, R50, R53, R55: conversion to an integer format rounds once to the nearest integer, ties to even, and saturates
what lies outside the range; the flags say so. -/
def Obligations.IntegerConversion : Prop :=
  ∀ f lo hi, intRange f = (lo, hi) →
    (∀ md r, convInt f md r .nan = (0, { inv := true })) ∧
    (∀ md r n, convInt f md r (.inf n) = (if n then lo else hi, { sat := true })) ∧
    (∀ md r n m (e : Int),
      let d : Int := 2 ^ (-e).toNat
      let x : Int := (if n then -(m : Int) else m) * 2 ^ e.toNat
      let c := convInt f md r (.fin n m e)
      (lo ≤ hi → (lo ≤ c.1 ∧ c.1 ≤ hi)) ∧
      (x < lo * d → c = (lo, { sat := true, inx := true })) ∧
      (lo * d ≤ x → hi * d < x → c = (hi, { sat := true, inx := true })) ∧
      (lo * d ≤ x → x ≤ hi * d →
        (md = .nearest → 2 * (c.1 * d - x).natAbs ≤ d.natAbs ∧ (2 * (c.1 * d - x).natAbs = d.natAbs → c.1 % 2 = 0)) ∧
        (md = .zero → (c.1 * d).natAbs ≤ x.natAbs ∧ (c.1 * d - x).natAbs < d.natAbs ∧ 0 ≤ c.1 * x) ∧
        c.2 = { flu := decide (c.1 = 0 ∧ x ≠ 0), inx := decide (c.1 * d ≠ x) }))
end

