-- ==== Sys2Proof/Laws/Engine.lean ====
section
/-! SUPPORT. The steps of an engine's body, one lemma each: what it answers and the context it leaves, so that a body is
followed without unfolding the engines' monad. -/

namespace Sys2Proof.Machine
open Sys2Proof

/-- Engine `m` ends with answer `a` in context `c'` when it starts in `c`. -/
def Runs {α : Type} (m : Eng α) (c : Ectx) (a : α) (c' : Ectx) : Prop := (m.run).run c = (.ok a, c')

theorem Runs.pure {α : Type} (a : α) (c : Ectx) : Runs (pure a) c a c := rfl

theorem Runs.bind {α β : Type} {m : Eng α} {f : α → Eng β} {c c1 c2 : Ectx} {a : α} {b : β}
    (h : Runs m c a c1) (g : Runs (f a) c1 b c2) : Runs (m >>= f) c b c2 := by
  unfold Runs at *
  simp only [ExceptT.run_bind, StateT.run_bind]
  rw [h]
  exact g

theorem Runs.get (c : Ectx) : Runs get c c c := rfl
theorem Runs.modify (f : Ectx → Ectx) (c : Ectx) : Runs (modify f) c () (f c) := rfl
theorem Runs.getS (c : Ectx) : Runs getS c c.s c := rfl
theorem Runs.modS (f : State → State) (c : Ectx) : Runs (modS f) c () { c with s := f c.s } := rfl

theorem Runs.require {b : Bool} (code : Nat) (c : Ectx) (h : b = true) : Runs (require b code) c () c := by
  subst h; rfl

/-- A loop keeps what each round keeps. -/
theorem Runs.eachDo {α : Type} {f : α → Eng Unit} (P : Ectx → Prop) (xs : List α)
    (h : ∀ x ∈ xs, ∀ c, P c → ∃ c', Runs (f x) c () c' ∧ P c') :
    ∀ c, P c → ∃ c', Runs (eachDo f xs) c () c' ∧ P c' := by
  induction xs with
  | nil => exact fun c hc => ⟨c, Runs.pure _ _, hc⟩
  | cons x xs ih =>
    intro c hc
    obtain ⟨c1, r1, h1⟩ := h x (by simp) c hc
    obtain ⟨c2, r2, h2⟩ := ih (fun y hy => h y (by simp [hy])) c1 h1
    exact ⟨c2, Runs.bind r1 r2, h2⟩

/-- A loop that answers a list, each round's answer a function of its entry. -/
theorem Runs.mapDo {α β : Type} {f : α → Eng β} (g : α → β) (P : Ectx → Prop) (xs : List α)
    (h : ∀ x ∈ xs, ∀ c, P c → ∃ c', Runs (f x) c (g x) c' ∧ P c') :
    ∀ c, P c → ∃ c', Runs (mapDo f xs) c (xs.map g) c' ∧ P c' := by
  induction xs with
  | nil => exact fun c hc => ⟨c, Runs.pure _ _, hc⟩
  | cons x xs ih =>
    intro c hc
    obtain ⟨c1, r1, h1⟩ := h x (by simp) c hc
    obtain ⟨c2, r2, h2⟩ := ih (fun y hy => h y (by simp [hy])) c1 h1
    exact ⟨c2, Runs.bind r1 (Runs.bind r2 (Runs.pure _ _)), h2⟩

end Sys2Proof.Machine
end

