-- ==== Sys2Proof/Laws/Table.lean ====
section
/-! SUPPORT. The laws of the sparse table: what a write leaves at each key, and that it keeps the canonical
form. -/

namespace Sys2Proof.Machine
open Sys2Proof

variable {α : Type} [DecidableEq α]

/-- A read of the key just written answers the value written. -/
@[simp] theorem Tab.get_set_same (d : α) (t : Tab α) (x : Nat) (v : α) : Tab.get d (Tab.set d t x v) x = v := by
  induction t with
  | nil => by_cases h : v = d <;> simp [Tab.set, Tab.get, h]
  | cons e t ih =>
    obtain ⟨k, w⟩ := e
    unfold Tab.set
    split
    · split
      · exact ih
      · rename_i h; simp only [Tab.get, if_neg h, ih]
    · split
      · simp [Tab.get]
      · split
        · simp [Tab.get]
        · rename_i h; simp only [Tab.get, if_neg h, ih]

/-- A write leaves every other key as it was, whatever an unlisted key reads as. -/
theorem Tab.get_set_ne (d e : α) (t : Tab α) {x y : Nat} (v : α) (h : y ≠ x) :
    Tab.get e (Tab.set d t x v) y = Tab.get e t y := by
  induction t with
  | nil => by_cases hv : v = d <;> simp [Tab.set, Tab.get, hv, h]
  | cons p t ih =>
    obtain ⟨k, w⟩ := p
    unfold Tab.set
    split
    · split
      · rename_i hx; subst hx; simp [Tab.get, h, ih]
      · simp only [Tab.get, ih]
    · split
      · simp only [Tab.get, if_neg h]
      · split
        · rename_i hx; subst hx; simp only [Tab.get, if_neg h]
        · simp only [Tab.get, ih]

/-- A read after a write of one key. -/
theorem Tab.get_set (d : α) (t : Tab α) (x y : Nat) (v : α) :
    Tab.get d (Tab.set d t x v) y = if y = x then v else Tab.get d t y := by
  split
  · rename_i h; rw [h, Tab.get_set_same]
  · rename_i h; exact Tab.get_set_ne d d t v h

/-- The canonical form may start lower. -/
theorem Tab.wfFrom_mono (d : α) {lo lo' : Nat} (t : Tab α) (h : lo' ≤ lo) (ht : Tab.wfFrom d lo t = true) :
    Tab.wfFrom d lo' t = true := by
  cases t with
  | nil => rfl
  | cons e t =>
    obtain ⟨k, w⟩ := e
    simp only [Tab.wfFrom, Bool.and_eq_true, decide_eq_true_eq] at ht ⊢
    exact ⟨le_trans h ht.1, ht.2⟩

/-- Writing the unlisted value, which removes the key, keeps the canonical form. -/
theorem Tab.wfFrom_clear (d : α) (t : Tab α) {lo : Nat} (x : Nat) (ht : Tab.wfFrom d lo t = true) :
    Tab.wfFrom d lo (Tab.set d t x d) = true := by
  induction t generalizing lo with
  | nil => simp [Tab.set, Tab.wfFrom]
  | cons e t ih =>
    obtain ⟨k, w⟩ := e
    simp only [Tab.wfFrom, Bool.and_eq_true, decide_eq_true_eq] at ht
    simp only [Tab.set, if_true]
    split
    · exact Tab.wfFrom_mono d _ (by omega) (ih ht.2.2)
    · simp only [Tab.wfFrom, Bool.and_eq_true, decide_eq_true_eq]
      exact ⟨ht.1, ht.2.1, ih ht.2.2⟩

/-- A write at or above the lowest key keeps the canonical form. -/
theorem Tab.wfFrom_set (d : α) (t : Tab α) {lo x : Nat} (v : α) (hx : lo ≤ x) (ht : Tab.wfFrom d lo t = true) :
    Tab.wfFrom d lo (Tab.set d t x v) = true := by
  by_cases hv : v = d
  · subst hv; exact Tab.wfFrom_clear v t x ht
  induction t generalizing lo with
  | nil => simp [Tab.set, Tab.wfFrom, hv, hx]
  | cons e t ih =>
    obtain ⟨k, w⟩ := e
    simp only [Tab.wfFrom, Bool.and_eq_true, decide_eq_true_eq] at ht
    simp only [Tab.set, if_neg hv]
    split
    · simp only [Tab.wfFrom, Bool.and_eq_true, decide_eq_true_eq]
      exact ⟨hx, hv, by omega, ht.2.1, ht.2.2⟩
    · split
      · rename_i hk; subst hk
        simp only [Tab.wfFrom, Bool.and_eq_true, decide_eq_true_eq]
        exact ⟨hx, hv, ht.2.2⟩
      · simp only [Tab.wfFrom, Bool.and_eq_true, decide_eq_true_eq]
        exact ⟨ht.1, ht.2.1, ih (by omega) ht.2.2⟩

/-- Dropping keys keeps the canonical form. -/
theorem Tab.wfFrom_dropKeys (d : α) (p : Nat → Bool) (t : Tab α) {lo : Nat} (ht : Tab.wfFrom d lo t = true) :
    Tab.wfFrom d lo (Tab.dropKeys p t) = true := by
  induction t generalizing lo with
  | nil => rfl
  | cons e t ih =>
    obtain ⟨k, w⟩ := e
    simp only [Tab.wfFrom, Bool.and_eq_true, decide_eq_true_eq] at ht
    by_cases hp : p k = true
    · simpa [Tab.dropKeys, hp] using Tab.wfFrom_mono d _ (by omega) (ih ht.2.2)
    · have h := ih ht.2.2
      simp only [Tab.dropKeys] at h ⊢
      simp [hp, Tab.wfFrom, ht.1, ht.2.1, h]

/-- A write keeps the canonical form. -/
theorem Tab.wf_set (d : α) (t : Tab α) (x : Nat) (v : α) (ht : Tab.wf d t = true) : Tab.wf d (Tab.set d t x v) = true :=
  Tab.wfFrom_set d t v (Nat.zero_le x) ht

/-- Writes at consecutive keys keep the canonical form. -/
theorem Tab.wf_setRange (d : α) (vs : List α) (t : Tab α) (x : Nat) (ht : Tab.wf d t = true) :
    Tab.wf d (Tab.setRange d t x vs) = true := by
  induction vs generalizing t x with
  | nil => exact ht
  | cons v vs ih => exact ih _ _ (Tab.wf_set d t x v ht)

/-- Writes at consecutive keys leave every other key as it was. -/
theorem Tab.get_setRange_ne (d : α) (vs : List α) (t : Tab α) (x y : Nat) (h : y < x ∨ x + vs.length ≤ y) :
    Tab.get d (Tab.setRange d t x vs) y = Tab.get d t y := by
  induction vs generalizing t x with
  | nil => rfl
  | cons v vs ih =>
    simp only [List.length_cons] at h
    rw [Tab.setRange, ih _ _ (by omega), Tab.get_set_ne d d t v (by omega)]

/-- A read after writes at consecutive keys answers the value written there. -/
theorem Tab.get_setRange_at (d : α) (vs : List α) (t : Tab α) (x i : Nat) (h : i < vs.length) :
    Tab.get d (Tab.setRange d t x vs) (x + i) = vs.getD i d := by
  induction vs generalizing t x i with
  | nil => simp at h
  | cons v vs ih =>
    cases i with
    | zero => rw [Tab.setRange, Tab.get_setRange_ne d vs _ _ _ (by omega)]; simp
    | succ i =>
      simp only [List.length_cons] at h
      rw [Tab.setRange, show x + (i + 1) = (x + 1) + i by omega, ih _ _ _ (by omega)]; simp

end Sys2Proof.Machine
end

