-- ==== Sys2Proof/Laws/Ops.lean ====
section
/-! SUPPORT. Laws of the shared operations: what a register write, a queue write, a descriptor write and a memory
write leave to be read. -/

namespace Sys2Proof.Machine
open Sys2Proof

/-! ## Dictionary registers -/

/-- A register reads as it was written. -/
@[simp] theorem reg_setReg_same (s : State) (k v : Nat) : reg (setReg s k v) k = v := Tab.get_set_same _ _ _ _

/-- A register write leaves every other register. -/
theorem reg_setReg_ne (s : State) {k x : Nat} (v : Nat) (h : x ≠ k) : reg (setReg s k v) x = reg s x :=
  Tab.get_set_ne _ _ _ _ h

/-- A register after a register write. -/
theorem reg_setReg (s : State) (k v x : Nat) : reg (setReg s k v) x = if x = k then v else reg s x := by
  split
  · rename_i h; rw [h, reg_setReg_same]
  · rename_i h; exact reg_setReg_ne s v h

/-- A counter after its increase. -/
theorem reg_bump (s : State) (k n x : Nat) : reg (bump s k n) x = if x = k then wrap64 (reg s k + n) else reg s x :=
  reg_setReg s k _ x

/-- A sticking counter after its increase. -/
theorem reg_bump32 (s : State) (k n x : Nat) :
    reg (bump32 s k n) x = if x = k then stick32 (reg s k + n) else reg s x :=
  reg_setReg s k _ x

/-! ## Queues -/

/-- A queue reads as it was set. -/
@[simp] theorem queueOf_setQueue_same (s : State) (q : Nat) (x : Queue) : queueOf (setQueue s q x) q = x :=
  Tab.get_set_same _ _ _ _

/-- Setting a queue leaves every other. -/
theorem queueOf_setQueue_ne (s : State) {q k : Nat} (x : Queue) (h : k ≠ q) :
    queueOf (setQueue s q x) k = queueOf s k := Tab.get_set_ne _ _ _ _ h

/-! ## Descriptors in flight -/

/-- The descriptor found has the name sought. -/
theorem findWork_ref {s : State} {r : WRef} {w : Work} (h : findWork s r = some w) : w.ref = r := by
  unfold findWork at h
  exact of_decide_eq_true (List.find?_some (p := fun w : Work => decide (w.ref = r)) h)

/-- Where a list is searched for a name after the entries of a name were replaced. -/
theorem find_replace (l : List Work) (w : Work) (r : WRef) :
    (l.map (fun x => if x.ref = w.ref then w else x)).find? (fun x => decide (x.ref = r)) =
      if r = w.ref then (l.find? (fun x => decide (x.ref = r))).map (fun _ => w)
      else l.find? (fun x => decide (x.ref = r)) := by
  induction l with
  | nil => simp
  | cons x l ih =>
    simp only [List.map_cons, List.find?_cons]
    by_cases hx : x.ref = w.ref
    · by_cases hr : r = w.ref
      · simp [hx, hr]
      · have : ¬ w.ref = r := fun h => hr h.symm
        simp [hx, hr, this] at ih ⊢
        exact ih
    · by_cases hr : r = w.ref
      · have : ¬ x.ref = r := fun h => hx (h.trans hr)
        simp [hx, this] at ih ⊢
        rw [ih]
      · simp only [hx, if_false]
        split
        · simp [hr]
        · simpa [hr] using ih

/-- A descriptor in flight reads as it was set. -/
theorem findWork_setWork_same (s : State) (w : Work) {v : Work} (h : findWork s w.ref = some v) :
    findWork (setWork s w) w.ref = some w := by
  have := find_replace s.work w w.ref
  unfold findWork setWork
  rw [this, if_pos rfl]
  unfold findWork at h
  rw [h]; rfl

/-- Setting a descriptor leaves every other. -/
theorem findWork_setWork_ne (s : State) (w : Work) {r : WRef} (h : r ≠ w.ref) :
    findWork (setWork s w) r = findWork s r := by
  have := find_replace s.work w r
  unfold findWork setWork
  rw [this, if_neg h]

/-! ## Module memory -/

/-- A byte of module memory at a module physical address. -/
theorem byte_writePhys (s : State) (a : Nat) (bs : List Byte) (x : Nat) (h : x < a ∨ a + bs.length ≤ x) :
    Tab.get 0 (writePhys s a bs).mem.bytes x = Tab.get 0 s.mem.bytes x := Tab.get_setRange_ne _ _ _ _ _ h

/-- A write of memory keeps its canonical form. -/
theorem wf_writePhys (s : State) (a : Nat) (bs : List Byte) (h : Tab.wf 0 s.mem.bytes = true) :
    Tab.wf 0 (writePhys s a bs).mem.bytes = true := Tab.wf_setRange _ _ _ _ h

end Sys2Proof.Machine
end

