-- ==== Sys2Proof/WellFormed.lean ====
section
/-! DEFINITION. Which commands are well formed: the ranges the spec gives their operands. A command that is not
has no effect where its operand names nothing. -/

namespace Sys2Proof

/-- A queue is below 64 (R142). -/
def WRef.wf : WRef → Bool
  | .q k _ => decide (k < 64)
  | .b _ => true

/-- Origin die, coordinates and launch-table entry in their ranges (R160, R165). -/
def LKey.wf (k : LKey) : Bool := decide (k.odie < 4) && decide (k.ocoord < 4096) && decide (k.entry < 4096)

/-- A flit has 256 bytes (R341); codewords come from 1 or 16 lanes, each of 546 symbols of 10 bits (R335, R336). -/
def LineIn.wf : LineIn → Bool
  | .flit f => decide (f.length = 256)
  | .codewords ws => (ws.length == 1 || ws.length == 16) && ws.all (fun w => w.length == 546 && w.all (fun x => decide (x < 1024)))

/-- How many readings a sensor takes in a period (R454): ten conversions on VIN64, the diodes of a die, one else. -/
def readings (ss : Nat) : Nat := if ss ≤ 2 then 10 else if ss ≤ 6 then 16 else if ss = 7 then 8 else 1

/-- The operands of a command are in their ranges. -/
def Instr.wf : Instr → Bool
  | .descriptorFetch q t => decide (q < 64) && decide (t < 2 ^ 64)
  | .descriptorComplete w t => w.wf && decide (t < 2 ^ 64)
  | .queueIrqTimer q t => decide (q < 64) && decide (t < 2 ^ 64)
  | .denseContraction w => w.wf
  | .sparseContraction w => w.wf
  | .elementWiseProduct w => w.wf
  | .expertRoutedContraction w => w.wf
  | .swap tile => decide (tile < 64)
  | .drainRow tile => decide (tile < 64)
  | .vectorProgram w => w.wf
  | .drainCoupledProgram w => w.wf
  | .instructionLimit tile => decide (tile < 64)
  | .vecNop tile => decide (tile < 64)
  | .vEnd tile => decide (tile < 64)
  | .bra tile => decide (tile < 64)
  | .vLoop tile => decide (tile < 64)
  | .setl tile => decide (tile < 64)
  | .bany tile => decide (tile < 64)
  | .bnone tile => decide (tile < 64)
  | .movi tile => decide (tile < 64)
  | .movb tile => decide (tile < 64)
  | .addb tile => decide (tile < 64)
  | .addbi tile => decide (tile < 64)
  | .movx tile => decide (tile < 64)
  | .vAdd tile => decide (tile < 64)
  | .vSub tile => decide (tile < 64)
  | .vMul tile => decide (tile < 64)
  | .mulh tile => decide (tile < 64)
  | .adds tile => decide (tile < 64)
  | .subs tile => decide (tile < 64)
  | .muls tile => decide (tile < 64)
  | .vAnd tile => decide (tile < 64)
  | .vOr tile => decide (tile < 64)
  | .vXor tile => decide (tile < 64)
  | .andn tile => decide (tile < 64)
  | .shl tile => decide (tile < 64)
  | .shr tile => decide (tile < 64)
  | .sra tile => decide (tile < 64)
  | .addi tile => decide (tile < 64)
  | .mov tile => decide (tile < 64)
  | .fadd tile => decide (tile < 64)
  | .fsub tile => decide (tile < 64)
  | .fmul tile => decide (tile < 64)
  | .fma tile => decide (tile < 64)
  | .fnma tile => decide (tile < 64)
  | .fms tile => decide (tile < 64)
  | .fabs tile => decide (tile < 64)
  | .fneg tile => decide (tile < 64)
  | .cmp tile => decide (tile < 64)
  | .sel tile => decide (tile < 64)
  | .vMin tile => decide (tile < 64)
  | .vMax tile => decide (tile < 64)
  | .fcls tile => decide (tile < 64)
  | .cvt tile => decide (tile < 64)
  | .cvtx tile => decide (tile < 64)
  | .xadd tile => decide (tile < 64)
  | .tlu tile => decide (tile < 64)
  | .frcp tile => decide (tile < 64)
  | .frsq tile => decide (tile < 64)
  | .fdiv tile => decide (tile < 64)
  | .fsqrt tile => decide (tile < 64)
  | .fexp tile => decide (tile < 64)
  | .fexp2 tile => decide (tile < 64)
  | .flog tile => decide (tile < 64)
  | .flog2 tile => decide (tile < 64)
  | .fsin tile => decide (tile < 64)
  | .fcos tile => decide (tile < 64)
  | .ftanh tile => decide (tile < 64)
  | .lred tile => decide (tile < 64)
  | .lperm tile => decide (tile < 64)
  | .ldi tile => decide (tile < 64)
  | .ldx tile => decide (tile < 64)
  | .sti tile => decide (tile < 64)
  | .stx tile => decide (tile < 64)
  | .sta tile => decide (tile < 64)
  | .drv tile => decide (tile < 64)
  | .drx tile => decide (tile < 64)
  | .rnd tile => decide (tile < 64)
  | .qand tile => decide (tile < 64)
  | .qor tile => decide (tile < 64)
  | .qnot tile => decide (tile < 64)
  | .flgq tile => decide (tile < 64)
  | .nop w => w.wf
  | .waitQueue w t => w.wf && decide (t < 2 ^ 64)
  | .waitQueueTimeout w t => w.wf && decide (t < 2 ^ 64)
  | .launch w t => w.wf && decide (t < 2 ^ 64)
  | .strandCreate die _ t => decide (die < 4) && decide (t < 2 ^ 64)
  | .batchDue die l pos t => decide (die < 4) && l.wf && decide (pos < 64) && decide (t < 2 ^ 64)
  | .binRoundClose die l pos t => decide (die < 4) && l.wf && decide (pos < 64) && decide (t < 2 ^ 64)
  | .prdBind w => w.wf
  | .prdUnbind w => w.wf
  | .sample w => w.wf
  | .smpPrefix w => w.wf
  | .compact w => w.wf
  | .build w => w.wf
  | .edgeGrad w => w.wf
  | .edgeDiff w => w.wf
  | .gather w => w.wf
  | .scatterAdd w => w.wf
  | .scatterWrite w => w.wf
  | .readout w => w.wf
  | .clear w => w.wf
  | .pinRefresh w => w.wf
  | .tablePublish w t => w.wf && decide (t < 2 ^ 64)
  | .promote w t => w.wf && decide (t < 2 ^ 64)
  | .tableRelease slot t => decide (slot < 64) && decide (t < 2 ^ 64)
  | .addendEntry _ => true
  | .cacheFill _ => true
  | .sketchHalving die => decide (die < 4)
  | .migrationStart _ _ t => decide (t < 2 ^ 64)
  | .snapshotAck _ _ t => decide (t < 2 ^ 64)
  | .migrationCommit _ _ t => decide (t < 2 ^ 64)
  | .migOldFree _ _ t => decide (t < 2 ^ 64)
  | .migrationTimeout _ _ t => decide (t < 2 ^ 64)
  | .updSgd w => w.wf
  | .updAdam w => w.wf
  | .updAdagrad w => w.wf
  | .save w => w.wf
  | .restore w => w.wf
  | .ckptExport w => w.wf
  | .ckptImport w => w.wf
  | .declare w => w.wf
  | .undeclare w => w.wf
  | .epochAdvance w => w.wf
  | .reside w t => w.wf && decide (t < 2 ^ 64)
  | .release w => w.wf
  | .pageMoveStart _ _ t => decide (t < 2 ^ 64)
  | .pageCopyDone _ _ t => decide (t < 2 ^ 64)
  | .pageMoveCommit _ _ t => decide (t < 2 ^ 64)
  | .pageFrameFree _ _ t => decide (t < 2 ^ 64)
  | .pageMoveTimeout _ _ t => decide (t < 2 ^ 64)
  | .patrolScrub _ addr => decide (addr < 2 ^ 64)
  | .reduce w t => w.wf && decide (t < 2 ^ 64)
  | .fabPut w t => w.wf && decide (t < 2 ^ 64)
  | .fabMsg w t => w.wf && decide (t < 2 ^ 64)
  | .msgRetry _ t => decide (t < 2 ^ 64)
  | .redWatchdog _ t => decide (t < 2 ^ 64)
  | .redAbortExpiry _ t => decide (t < 2 ^ 64)
  | .linkTrainingStart p t => decide (p < 6) && decide (t < 2 ^ 64)
  | .exchangeFrame p _ t => decide (p < 6) && decide (t < 2 ^ 64)
  | .linkTrainTimeout p t => decide (p < 6) && decide (t < 2 ^ 64)
  | .linkRetrain p t => decide (p < 6) && decide (t < 2 ^ 64)
  | .linkTimeout p t => decide (p < 6) && decide (t < 2 ^ 64)
  | .flitReceive p line t => decide (p < 6) && line.wf && decide (t < 2 ^ 64)
  | .nakRetry p t => decide (p < 6) && decide (t < 2 ^ 64)
  | .packetRoute p t => decide (p < 6) && decide (t < 2 ^ 64)
  | .rdReq t => decide (t < 2 ^ 64)
  | .rdRsp t => decide (t < 2 ^ 64)
  | .wrReq t => decide (t < 2 ^ 64)
  | .wrAck t => decide (t < 2 ^ 64)
  | .addReq t => decide (t < 2 ^ 64)
  | .addAck t => decide (t < 2 ^ 64)
  | .strand t => decide (t < 2 ^ 64)
  | .chain t => decide (t < 2 ^ 64)
  | .update t => decide (t < 2 ^ 64)
  | .mailbox t => decide (t < 2 ^ 64)
  | .place t => decide (t < 2 ^ 64)
  | .msgRsp t => decide (t < 2 ^ 64)
  | .sack t => decide (t < 2 ^ 64)
  | .sackTimer peer tc t => decide (peer < 4096) && decide (tc < 4) && decide (t < 2 ^ 64)
  | .sluiceRto peer tc t => decide (peer < 4096) && decide (tc < 4) && decide (t < 2 ^ 64)
  | .dropReport t => decide (t < 2 ^ 64)
  | .multicastResend _ t => decide (t < 2 ^ 64)
  | .red t => decide (t < 2 ^ 64)
  | .redJoin t => decide (t < 2 ^ 64)
  | .redCredit t => decide (t < 2 ^ 64)
  | .redEnd t => decide (t < 2 ^ 64)
  | .redAbort t => decide (t < 2 ^ 64)
  | .drainComplete t => decide (t < 2 ^ 64)
  | .fabDrainTimeout t => decide (t < 2 ^ 64)
  | .dictMessage _ _ t => decide (t < 2 ^ 64)
  | .unbindComplete a => decide (a < 64)
  | .loadIdleTimeout t => decide (t < 2 ^ 64)
  | .firmwareReady t => decide (t < 2 ^ 64)
  | .activationFallback t => decide (t < 2 ^ 64)
  | .watchdogExpiry t => decide (t < 2 ^ 64)
  | .sensorSample ss vs t => decide (ss < 40) && vs.length == readings ss && decide (t < 2 ^ 64)
  | .errorRecord _ t => decide (t < 2 ^ 64)
  | .imageBankError t => decide (t < 2 ^ 64)
  | .autoDusk t => decide (t < 2 ^ 64)
  | .wakeEvent t => decide (t < 2 ^ 64)
  | .powerTransitionDone t => decide (t < 2 ^ 64)
  | .referenceLoss t => decide (t < 2 ^ 64)
  | .coldPowerUp t => decide (t < 2 ^ 64)
  | .managementReady t => decide (t < 2 ^ 64)
  | .railsUp t => decide (t < 2 ^ 64)
  | .railTimeout t => decide (t < 2 ^ 64)
  | .rootPllLock t => decide (t < 2 ^ 64)
  | .memoryTrained _ _ t => decide (t < 2 ^ 64)
  | .undervoltage t => decide (t < 2 ^ 64)
  | .overvoltage t => decide (t < 2 ^ 64)
  | .overcurrentTrip t => decide (t < 2 ^ 64)
  | .throttleStep t => decide (t < 2 ^ 64)
  | .pwrEnLow t => decide (t < 2 ^ 64)
  | .pwrEnHigh t => decide (t < 2 ^ 64)
  | .perstNAssert t => decide (t < 2 ^ 64)
  | .perstNDeassert t => decide (t < 2 ^ 64)
  | .cxlLinkUp _ _ _ t => decide (t < 2 ^ 64)
  | .freezeNLow t => decide (t < 2 ^ 64)
  | .freezeNHigh t => decide (t < 2 ^ 64)
  | .wakeNFall t => decide (t < 2 ^ 64)
  | .inputStorm _ t => decide (t < 2 ^ 64)
  | .producer q v _ t => decide (q < 64) && decide (v < 2 ^ 64) && decide (t < 2 ^ 64)
  | .complConsumer q v _ t => decide (q < 64) && decide (v < 2 ^ 64) && decide (t < 2 ^ 64)
  | .mbxLock m c t => decide (m < 8) && decide (c < 64) && decide (t < 2 ^ 64)
  | .mbxRelease m c t => decide (m < 8) && decide (c < 64) && decide (t < 2 ^ 64)
  | .mbxDoorbell m c _ t => decide (m < 8) && decide (c < 64) && decide (t < 2 ^ 64)
  | .mbxDone m c t => decide (m < 8) && decide (c < 64) && decide (t < 2 ^ 64)
  | .forceFree m c t => decide (m < 8) && decide (c < 64) && decide (t < 2 ^ 64)
  | .mbxHoldExpiry c t => decide (c < 64) && decide (t < 2 ^ 64)
  | .hdmCommit base size => decide (base < 2 ^ 64) && decide (size < 2 ^ 64)
  | .hdmAccess addr _ _ => decide (addr < 2 ^ 64)
  | .h2dSnoop addr => decide (addr < 2 ^ 64)
  | .configRequest _ _ => true
  | .getTimestamp t => decide (t < 2 ^ 64)
  | .setTimestamp v t => decide (v < 2 ^ 64) && decide (t < 2 ^ 64)
  | .getSupportedLogs => true
  | .getLog _ _ => true
  | .spdmRequest _ _ => true
  | .entdaa addr => decide (addr < 256)
  | .setEndpointId eid => decide (eid < 256)
  | .getEndpointId => true
  | .getMctpVersionSupport _ => true
  | .getMessageTypeSupport => true
  | .freeze t => decide (t < 2 ^ 64)
  | .thaw t => decide (t < 2 ^ 64)
  | .freezeComplete t => decide (t < 2 ^ 64)
  | .freezeTooLong t => decide (t < 2 ^ 64)
  | .readoutDone t => decide (t < 2 ^ 64)
  | .jtagInternalScan t => decide (t < 2 ^ 64)
  | .lightDetected p t => decide (p < 6) && decide (t < 2 ^ 64)
  | .fecLock p t => decide (p < 6) && decide (t < 2 ^ 64)
  | .verifyComplete t => decide (t < 2 ^ 64)
  | .fuseStepBlown t => decide (t < 2 ^ 64)
  | .primaryMailboxReady t => decide (t < 2 ^ 64)
  | .ignoredRegisterAccess off _ op => decide (off < 0x4000000) && decide (op.t < 2 ^ 64)
  | .mbxBufferWrite m c _ _ => decide (m < 8) && decide (c < 64)
  | .doeDiscovery _ => true
  | .cxlTableAccess _ => true
  | .alertPulseEnd t => decide (t < 2 ^ 64)
  | .switchRelease t => decide (t < 2 ^ 64)
  | .returnToService _ t => decide (t < 2 ^ 64)
  | .extest _ => true

/-- The time a command carries, where it has one (R150). -/
def Instr.time : Instr → Option Nat
  | .descriptorFetch _ t => some t
  | .descriptorComplete _ t => some t
  | .queueIrqTimer _ t => some t
  | .denseContraction _ => none
  | .sparseContraction _ => none
  | .elementWiseProduct _ => none
  | .expertRoutedContraction _ => none
  | .swap _ => none
  | .drainRow _ => none
  | .vectorProgram _ => none
  | .drainCoupledProgram _ => none
  | .instructionLimit _ => none
  | .vecNop _ => none
  | .vEnd _ => none
  | .bra _ => none
  | .vLoop _ => none
  | .setl _ => none
  | .bany _ => none
  | .bnone _ => none
  | .movi _ => none
  | .movb _ => none
  | .addb _ => none
  | .addbi _ => none
  | .movx _ => none
  | .vAdd _ => none
  | .vSub _ => none
  | .vMul _ => none
  | .mulh _ => none
  | .adds _ => none
  | .subs _ => none
  | .muls _ => none
  | .vAnd _ => none
  | .vOr _ => none
  | .vXor _ => none
  | .andn _ => none
  | .shl _ => none
  | .shr _ => none
  | .sra _ => none
  | .addi _ => none
  | .mov _ => none
  | .fadd _ => none
  | .fsub _ => none
  | .fmul _ => none
  | .fma _ => none
  | .fnma _ => none
  | .fms _ => none
  | .fabs _ => none
  | .fneg _ => none
  | .cmp _ => none
  | .sel _ => none
  | .vMin _ => none
  | .vMax _ => none
  | .fcls _ => none
  | .cvt _ => none
  | .cvtx _ => none
  | .xadd _ => none
  | .tlu _ => none
  | .frcp _ => none
  | .frsq _ => none
  | .fdiv _ => none
  | .fsqrt _ => none
  | .fexp _ => none
  | .fexp2 _ => none
  | .flog _ => none
  | .flog2 _ => none
  | .fsin _ => none
  | .fcos _ => none
  | .ftanh _ => none
  | .lred _ => none
  | .lperm _ => none
  | .ldi _ => none
  | .ldx _ => none
  | .sti _ => none
  | .stx _ => none
  | .sta _ => none
  | .drv _ => none
  | .drx _ => none
  | .rnd _ => none
  | .qand _ => none
  | .qor _ => none
  | .qnot _ => none
  | .flgq _ => none
  | .nop _ => none
  | .waitQueue _ t => some t
  | .waitQueueTimeout _ t => some t
  | .launch _ t => some t
  | .strandCreate _ _ t => some t
  | .batchDue _ _ _ t => some t
  | .binRoundClose _ _ _ t => some t
  | .prdBind _ => none
  | .prdUnbind _ => none
  | .sample _ => none
  | .smpPrefix _ => none
  | .compact _ => none
  | .build _ => none
  | .edgeGrad _ => none
  | .edgeDiff _ => none
  | .gather _ => none
  | .scatterAdd _ => none
  | .scatterWrite _ => none
  | .readout _ => none
  | .clear _ => none
  | .pinRefresh _ => none
  | .tablePublish _ t => some t
  | .promote _ t => some t
  | .tableRelease _ t => some t
  | .addendEntry _ => none
  | .cacheFill _ => none
  | .sketchHalving _ => none
  | .migrationStart _ _ t => some t
  | .snapshotAck _ _ t => some t
  | .migrationCommit _ _ t => some t
  | .migOldFree _ _ t => some t
  | .migrationTimeout _ _ t => some t
  | .updSgd _ => none
  | .updAdam _ => none
  | .updAdagrad _ => none
  | .save _ => none
  | .restore _ => none
  | .ckptExport _ => none
  | .ckptImport _ => none
  | .declare _ => none
  | .undeclare _ => none
  | .epochAdvance _ => none
  | .reside _ t => some t
  | .release _ => none
  | .pageMoveStart _ _ t => some t
  | .pageCopyDone _ _ t => some t
  | .pageMoveCommit _ _ t => some t
  | .pageFrameFree _ _ t => some t
  | .pageMoveTimeout _ _ t => some t
  | .patrolScrub _ _ => none
  | .reduce _ t => some t
  | .fabPut _ t => some t
  | .fabMsg _ t => some t
  | .msgRetry _ t => some t
  | .redWatchdog _ t => some t
  | .redAbortExpiry _ t => some t
  | .linkTrainingStart _ t => some t
  | .exchangeFrame _ _ t => some t
  | .linkTrainTimeout _ t => some t
  | .linkRetrain _ t => some t
  | .linkTimeout _ t => some t
  | .flitReceive _ _ t => some t
  | .nakRetry _ t => some t
  | .packetRoute _ t => some t
  | .rdReq t => some t
  | .rdRsp t => some t
  | .wrReq t => some t
  | .wrAck t => some t
  | .addReq t => some t
  | .addAck t => some t
  | .strand t => some t
  | .chain t => some t
  | .update t => some t
  | .mailbox t => some t
  | .place t => some t
  | .msgRsp t => some t
  | .sack t => some t
  | .sackTimer _ _ t => some t
  | .sluiceRto _ _ t => some t
  | .dropReport t => some t
  | .multicastResend _ t => some t
  | .red t => some t
  | .redJoin t => some t
  | .redCredit t => some t
  | .redEnd t => some t
  | .redAbort t => some t
  | .drainComplete t => some t
  | .fabDrainTimeout t => some t
  | .dictMessage _ _ t => some t
  | .unbindComplete _ => none
  | .loadIdleTimeout t => some t
  | .firmwareReady t => some t
  | .activationFallback t => some t
  | .watchdogExpiry t => some t
  | .sensorSample _ _ t => some t
  | .errorRecord _ t => some t
  | .imageBankError t => some t
  | .autoDusk t => some t
  | .wakeEvent t => some t
  | .powerTransitionDone t => some t
  | .referenceLoss t => some t
  | .coldPowerUp t => some t
  | .managementReady t => some t
  | .railsUp t => some t
  | .railTimeout t => some t
  | .rootPllLock t => some t
  | .memoryTrained _ _ t => some t
  | .undervoltage t => some t
  | .overvoltage t => some t
  | .overcurrentTrip t => some t
  | .throttleStep t => some t
  | .pwrEnLow t => some t
  | .pwrEnHigh t => some t
  | .perstNAssert t => some t
  | .perstNDeassert t => some t
  | .cxlLinkUp _ _ _ t => some t
  | .freezeNLow t => some t
  | .freezeNHigh t => some t
  | .wakeNFall t => some t
  | .inputStorm _ t => some t
  | .producer _ _ _ t => some t
  | .complConsumer _ _ _ t => some t
  | .mbxLock _ _ t => some t
  | .mbxRelease _ _ t => some t
  | .mbxDoorbell _ _ _ t => some t
  | .mbxDone _ _ t => some t
  | .forceFree _ _ t => some t
  | .mbxHoldExpiry _ t => some t
  | .hdmCommit _ _ => none
  | .hdmAccess _ _ _ => none
  | .h2dSnoop _ => none
  | .configRequest _ _ => none
  | .getTimestamp t => some t
  | .setTimestamp _ t => some t
  | .getSupportedLogs => none
  | .getLog _ _ => none
  | .spdmRequest _ _ => none
  | .entdaa _ => none
  | .setEndpointId _ => none
  | .getEndpointId => none
  | .getMctpVersionSupport _ => none
  | .getMessageTypeSupport => none
  | .freeze t => some t
  | .thaw t => some t
  | .freezeComplete t => some t
  | .freezeTooLong t => some t
  | .readoutDone t => some t
  | .jtagInternalScan t => some t
  | .lightDetected _ t => some t
  | .fecLock _ t => some t
  | .verifyComplete t => some t
  | .fuseStepBlown t => some t
  | .primaryMailboxReady t => some t
  | .ignoredRegisterAccess _ _ op => some op.t
  | .mbxBufferWrite _ _ _ _ => none
  | .doeDiscovery _ => none
  | .cxlTableAccess _ => none
  | .alertPulseEnd t => some t
  | .switchRelease t => some t
  | .returnToService _ t => some t
  | .extest _ => none

end Sys2Proof
end

