-- ==== Sys2Proof/Laws/PerInstr.lean ====
section
/-! SUPPORT. Laws of the commands as syntax, one lemma per constructor: the time of a well-formed command is a
64-bit number of nanoseconds (R150). -/

namespace Sys2Proof.Laws.WellFormed
open Sys2Proof

/-- A well-formed command that carries a time carries one below 2^64. -/
def Statement (i : Instr) : Prop := ∀ u, i.wf = true → i.time = some u → u < 2 ^ 64

/-- The last check of a command's operands holds. -/
theorem andRight {a b : Bool} (h : (a && b) = true) : b = true := (Bool.and_eq_true_iff.mp h).2

/-- A time checked to be below 2^64 is. -/
theorem fromTime {t u : Nat} (hu : some t = some u) (h : decide (t < 2 ^ 64) = true) : u < 2 ^ 64 :=
  Option.some.inj hu ▸ of_decide_eq_true h

theorem descriptorFetch (q : Nat) (t : Nat) : Statement (.descriptorFetch q t) := fun _ h hu =>
  fromTime hu (andRight h)

theorem descriptorComplete (w : WRef) (t : Nat) : Statement (.descriptorComplete w t) := fun _ h hu =>
  fromTime hu (andRight h)

theorem queueIrqTimer (q : Nat) (t : Nat) : Statement (.queueIrqTimer q t) := fun _ h hu =>
  fromTime hu (andRight h)

theorem denseContraction (w : WRef) : Statement (.denseContraction w) := fun _ _ hu => nomatch hu

theorem sparseContraction (w : WRef) : Statement (.sparseContraction w) := fun _ _ hu => nomatch hu

theorem elementWiseProduct (w : WRef) : Statement (.elementWiseProduct w) := fun _ _ hu => nomatch hu

theorem expertRoutedContraction (w : WRef) : Statement (.expertRoutedContraction w) := fun _ _ hu => nomatch hu

theorem swap (tile : Nat) : Statement (.swap tile) := fun _ _ hu => nomatch hu

theorem drainRow (tile : Nat) : Statement (.drainRow tile) := fun _ _ hu => nomatch hu

theorem vectorProgram (w : WRef) : Statement (.vectorProgram w) := fun _ _ hu => nomatch hu

theorem drainCoupledProgram (w : WRef) : Statement (.drainCoupledProgram w) := fun _ _ hu => nomatch hu

theorem instructionLimit (tile : Nat) : Statement (.instructionLimit tile) := fun _ _ hu => nomatch hu

theorem vecNop (tile : Nat) : Statement (.vecNop tile) := fun _ _ hu => nomatch hu

theorem vEnd (tile : Nat) : Statement (.vEnd tile) := fun _ _ hu => nomatch hu

theorem bra (tile : Nat) : Statement (.bra tile) := fun _ _ hu => nomatch hu

theorem vLoop (tile : Nat) : Statement (.vLoop tile) := fun _ _ hu => nomatch hu

theorem setl (tile : Nat) : Statement (.setl tile) := fun _ _ hu => nomatch hu

theorem bany (tile : Nat) : Statement (.bany tile) := fun _ _ hu => nomatch hu

theorem bnone (tile : Nat) : Statement (.bnone tile) := fun _ _ hu => nomatch hu

theorem movi (tile : Nat) : Statement (.movi tile) := fun _ _ hu => nomatch hu

theorem movb (tile : Nat) : Statement (.movb tile) := fun _ _ hu => nomatch hu

theorem addb (tile : Nat) : Statement (.addb tile) := fun _ _ hu => nomatch hu

theorem addbi (tile : Nat) : Statement (.addbi tile) := fun _ _ hu => nomatch hu

theorem movx (tile : Nat) : Statement (.movx tile) := fun _ _ hu => nomatch hu

theorem vAdd (tile : Nat) : Statement (.vAdd tile) := fun _ _ hu => nomatch hu

theorem vSub (tile : Nat) : Statement (.vSub tile) := fun _ _ hu => nomatch hu

theorem vMul (tile : Nat) : Statement (.vMul tile) := fun _ _ hu => nomatch hu

theorem mulh (tile : Nat) : Statement (.mulh tile) := fun _ _ hu => nomatch hu

theorem adds (tile : Nat) : Statement (.adds tile) := fun _ _ hu => nomatch hu

theorem subs (tile : Nat) : Statement (.subs tile) := fun _ _ hu => nomatch hu

theorem muls (tile : Nat) : Statement (.muls tile) := fun _ _ hu => nomatch hu

theorem vAnd (tile : Nat) : Statement (.vAnd tile) := fun _ _ hu => nomatch hu

theorem vOr (tile : Nat) : Statement (.vOr tile) := fun _ _ hu => nomatch hu

theorem vXor (tile : Nat) : Statement (.vXor tile) := fun _ _ hu => nomatch hu

theorem andn (tile : Nat) : Statement (.andn tile) := fun _ _ hu => nomatch hu

theorem shl (tile : Nat) : Statement (.shl tile) := fun _ _ hu => nomatch hu

theorem shr (tile : Nat) : Statement (.shr tile) := fun _ _ hu => nomatch hu

theorem sra (tile : Nat) : Statement (.sra tile) := fun _ _ hu => nomatch hu

theorem addi (tile : Nat) : Statement (.addi tile) := fun _ _ hu => nomatch hu

theorem mov (tile : Nat) : Statement (.mov tile) := fun _ _ hu => nomatch hu

theorem fadd (tile : Nat) : Statement (.fadd tile) := fun _ _ hu => nomatch hu

theorem fsub (tile : Nat) : Statement (.fsub tile) := fun _ _ hu => nomatch hu

theorem fmul (tile : Nat) : Statement (.fmul tile) := fun _ _ hu => nomatch hu

theorem fma (tile : Nat) : Statement (.fma tile) := fun _ _ hu => nomatch hu

theorem fnma (tile : Nat) : Statement (.fnma tile) := fun _ _ hu => nomatch hu

theorem fms (tile : Nat) : Statement (.fms tile) := fun _ _ hu => nomatch hu

theorem fabs (tile : Nat) : Statement (.fabs tile) := fun _ _ hu => nomatch hu

theorem fneg (tile : Nat) : Statement (.fneg tile) := fun _ _ hu => nomatch hu

theorem cmp (tile : Nat) : Statement (.cmp tile) := fun _ _ hu => nomatch hu

theorem sel (tile : Nat) : Statement (.sel tile) := fun _ _ hu => nomatch hu

theorem vMin (tile : Nat) : Statement (.vMin tile) := fun _ _ hu => nomatch hu

theorem vMax (tile : Nat) : Statement (.vMax tile) := fun _ _ hu => nomatch hu

theorem fcls (tile : Nat) : Statement (.fcls tile) := fun _ _ hu => nomatch hu

theorem cvt (tile : Nat) : Statement (.cvt tile) := fun _ _ hu => nomatch hu

theorem cvtx (tile : Nat) : Statement (.cvtx tile) := fun _ _ hu => nomatch hu

theorem xadd (tile : Nat) : Statement (.xadd tile) := fun _ _ hu => nomatch hu

theorem tlu (tile : Nat) : Statement (.tlu tile) := fun _ _ hu => nomatch hu

theorem frcp (tile : Nat) : Statement (.frcp tile) := fun _ _ hu => nomatch hu

theorem frsq (tile : Nat) : Statement (.frsq tile) := fun _ _ hu => nomatch hu

theorem fdiv (tile : Nat) : Statement (.fdiv tile) := fun _ _ hu => nomatch hu

theorem fsqrt (tile : Nat) : Statement (.fsqrt tile) := fun _ _ hu => nomatch hu

theorem fexp (tile : Nat) : Statement (.fexp tile) := fun _ _ hu => nomatch hu

theorem fexp2 (tile : Nat) : Statement (.fexp2 tile) := fun _ _ hu => nomatch hu

theorem flog (tile : Nat) : Statement (.flog tile) := fun _ _ hu => nomatch hu

theorem flog2 (tile : Nat) : Statement (.flog2 tile) := fun _ _ hu => nomatch hu

theorem fsin (tile : Nat) : Statement (.fsin tile) := fun _ _ hu => nomatch hu

theorem fcos (tile : Nat) : Statement (.fcos tile) := fun _ _ hu => nomatch hu

theorem ftanh (tile : Nat) : Statement (.ftanh tile) := fun _ _ hu => nomatch hu

theorem lred (tile : Nat) : Statement (.lred tile) := fun _ _ hu => nomatch hu

theorem lperm (tile : Nat) : Statement (.lperm tile) := fun _ _ hu => nomatch hu

theorem ldi (tile : Nat) : Statement (.ldi tile) := fun _ _ hu => nomatch hu

theorem ldx (tile : Nat) : Statement (.ldx tile) := fun _ _ hu => nomatch hu

theorem sti (tile : Nat) : Statement (.sti tile) := fun _ _ hu => nomatch hu

theorem stx (tile : Nat) : Statement (.stx tile) := fun _ _ hu => nomatch hu

theorem sta (tile : Nat) : Statement (.sta tile) := fun _ _ hu => nomatch hu

theorem drv (tile : Nat) : Statement (.drv tile) := fun _ _ hu => nomatch hu

theorem drx (tile : Nat) : Statement (.drx tile) := fun _ _ hu => nomatch hu

theorem rnd (tile : Nat) : Statement (.rnd tile) := fun _ _ hu => nomatch hu

theorem qand (tile : Nat) : Statement (.qand tile) := fun _ _ hu => nomatch hu

theorem qor (tile : Nat) : Statement (.qor tile) := fun _ _ hu => nomatch hu

theorem qnot (tile : Nat) : Statement (.qnot tile) := fun _ _ hu => nomatch hu

theorem flgq (tile : Nat) : Statement (.flgq tile) := fun _ _ hu => nomatch hu

theorem nop (w : WRef) : Statement (.nop w) := fun _ _ hu => nomatch hu

theorem waitQueue (w : WRef) (t : Nat) : Statement (.waitQueue w t) := fun _ h hu =>
  fromTime hu (andRight h)

theorem waitQueueTimeout (w : WRef) (t : Nat) : Statement (.waitQueueTimeout w t) := fun _ h hu =>
  fromTime hu (andRight h)

theorem launch (w : WRef) (t : Nat) : Statement (.launch w t) := fun _ h hu =>
  fromTime hu (andRight h)

theorem strandCreate (die : Nat) (entry : Nat) (t : Nat) : Statement (.strandCreate die entry t) := fun _ h hu =>
  fromTime hu (andRight h)

theorem batchDue (die : Nat) (l : LKey) (pos : Nat) (t : Nat) : Statement (.batchDue die l pos t) := fun _ h hu =>
  fromTime hu (andRight h)

theorem binRoundClose (die : Nat) (l : LKey) (pos : Nat) (t : Nat) : Statement (.binRoundClose die l pos t) := fun _ h hu =>
  fromTime hu (andRight h)

theorem prdBind (w : WRef) : Statement (.prdBind w) := fun _ _ hu => nomatch hu

theorem prdUnbind (w : WRef) : Statement (.prdUnbind w) := fun _ _ hu => nomatch hu

theorem sample (w : WRef) : Statement (.sample w) := fun _ _ hu => nomatch hu

theorem smpPrefix (w : WRef) : Statement (.smpPrefix w) := fun _ _ hu => nomatch hu

theorem compact (w : WRef) : Statement (.compact w) := fun _ _ hu => nomatch hu

theorem build (w : WRef) : Statement (.build w) := fun _ _ hu => nomatch hu

theorem edgeGrad (w : WRef) : Statement (.edgeGrad w) := fun _ _ hu => nomatch hu

theorem edgeDiff (w : WRef) : Statement (.edgeDiff w) := fun _ _ hu => nomatch hu

theorem gather (w : WRef) : Statement (.gather w) := fun _ _ hu => nomatch hu

theorem scatterAdd (w : WRef) : Statement (.scatterAdd w) := fun _ _ hu => nomatch hu

theorem scatterWrite (w : WRef) : Statement (.scatterWrite w) := fun _ _ hu => nomatch hu

theorem readout (w : WRef) : Statement (.readout w) := fun _ _ hu => nomatch hu

theorem clear (w : WRef) : Statement (.clear w) := fun _ _ hu => nomatch hu

theorem pinRefresh (w : WRef) : Statement (.pinRefresh w) := fun _ _ hu => nomatch hu

theorem tablePublish (w : WRef) (t : Nat) : Statement (.tablePublish w t) := fun _ h hu =>
  fromTime hu (andRight h)

theorem promote (w : WRef) (t : Nat) : Statement (.promote w t) := fun _ h hu =>
  fromTime hu (andRight h)

theorem tableRelease (slot : Nat) (t : Nat) : Statement (.tableRelease slot t) := fun _ h hu =>
  fromTime hu (andRight h)

theorem addendEntry (n : Nat) : Statement (.addendEntry n) := fun _ _ hu => nomatch hu

theorem cacheFill (n : Nat) : Statement (.cacheFill n) := fun _ _ hu => nomatch hu

theorem sketchHalving (die : Nat) : Statement (.sketchHalving die) := fun _ _ hu => nomatch hu

theorem migrationStart (obj : Nat) (row : Nat) (t : Nat) : Statement (.migrationStart obj row t) := fun _ h hu =>
  fromTime hu h

theorem snapshotAck (obj : Nat) (row : Nat) (t : Nat) : Statement (.snapshotAck obj row t) := fun _ h hu =>
  fromTime hu h

theorem migrationCommit (obj : Nat) (row : Nat) (t : Nat) : Statement (.migrationCommit obj row t) := fun _ h hu =>
  fromTime hu h

theorem migOldFree (obj : Nat) (row : Nat) (t : Nat) : Statement (.migOldFree obj row t) := fun _ h hu =>
  fromTime hu h

theorem migrationTimeout (obj : Nat) (row : Nat) (t : Nat) : Statement (.migrationTimeout obj row t) := fun _ h hu =>
  fromTime hu h

theorem updSgd (w : WRef) : Statement (.updSgd w) := fun _ _ hu => nomatch hu

theorem updAdam (w : WRef) : Statement (.updAdam w) := fun _ _ hu => nomatch hu

theorem updAdagrad (w : WRef) : Statement (.updAdagrad w) := fun _ _ hu => nomatch hu

theorem save (w : WRef) : Statement (.save w) := fun _ _ hu => nomatch hu

theorem restore (w : WRef) : Statement (.restore w) := fun _ _ hu => nomatch hu

theorem ckptExport (w : WRef) : Statement (.ckptExport w) := fun _ _ hu => nomatch hu

theorem ckptImport (w : WRef) : Statement (.ckptImport w) := fun _ _ hu => nomatch hu

theorem declare (w : WRef) : Statement (.declare w) := fun _ _ hu => nomatch hu

theorem undeclare (w : WRef) : Statement (.undeclare w) := fun _ _ hu => nomatch hu

theorem epochAdvance (w : WRef) : Statement (.epochAdvance w) := fun _ _ hu => nomatch hu

theorem reside (w : WRef) (t : Nat) : Statement (.reside w t) := fun _ h hu =>
  fromTime hu (andRight h)

theorem release (w : WRef) : Statement (.release w) := fun _ _ hu => nomatch hu

theorem pageMoveStart (obj : Nat) (page : Nat) (t : Nat) : Statement (.pageMoveStart obj page t) := fun _ h hu =>
  fromTime hu h

theorem pageCopyDone (obj : Nat) (page : Nat) (t : Nat) : Statement (.pageCopyDone obj page t) := fun _ h hu =>
  fromTime hu h

theorem pageMoveCommit (obj : Nat) (page : Nat) (t : Nat) : Statement (.pageMoveCommit obj page t) := fun _ h hu =>
  fromTime hu h

theorem pageFrameFree (obj : Nat) (page : Nat) (t : Nat) : Statement (.pageFrameFree obj page t) := fun _ h hu =>
  fromTime hu h

theorem pageMoveTimeout (obj : Nat) (page : Nat) (t : Nat) : Statement (.pageMoveTimeout obj page t) := fun _ h hu =>
  fromTime hu h

theorem patrolScrub (unit : Nat) (addr : Nat) : Statement (.patrolScrub unit addr) := fun _ _ hu => nomatch hu

theorem reduce (w : WRef) (t : Nat) : Statement (.reduce w t) := fun _ h hu =>
  fromTime hu (andRight h)

theorem fabPut (w : WRef) (t : Nat) : Statement (.fabPut w t) := fun _ h hu =>
  fromTime hu (andRight h)

theorem fabMsg (w : WRef) (t : Nat) : Statement (.fabMsg w t) := fun _ h hu =>
  fromTime hu (andRight h)

theorem msgRetry (id : Nat) (t : Nat) : Statement (.msgRetry id t) := fun _ h hu =>
  fromTime hu h

theorem redWatchdog (ctx : Nat) (t : Nat) : Statement (.redWatchdog ctx t) := fun _ h hu =>
  fromTime hu h

theorem redAbortExpiry (redid : Nat) (t : Nat) : Statement (.redAbortExpiry redid t) := fun _ h hu =>
  fromTime hu h

theorem linkTrainingStart (p : Nat) (t : Nat) : Statement (.linkTrainingStart p t) := fun _ h hu =>
  fromTime hu (andRight h)

theorem exchangeFrame (p : Nat) (frame : List Byte) (t : Nat) : Statement (.exchangeFrame p frame t) := fun _ h hu =>
  fromTime hu (andRight h)

theorem linkTrainTimeout (p : Nat) (t : Nat) : Statement (.linkTrainTimeout p t) := fun _ h hu =>
  fromTime hu (andRight h)

theorem linkRetrain (p : Nat) (t : Nat) : Statement (.linkRetrain p t) := fun _ h hu =>
  fromTime hu (andRight h)

theorem linkTimeout (p : Nat) (t : Nat) : Statement (.linkTimeout p t) := fun _ h hu =>
  fromTime hu (andRight h)

theorem flitReceive (p : Nat) (line : LineIn) (t : Nat) : Statement (.flitReceive p line t) := fun _ h hu =>
  fromTime hu (andRight h)

theorem nakRetry (p : Nat) (t : Nat) : Statement (.nakRetry p t) := fun _ h hu =>
  fromTime hu (andRight h)

theorem packetRoute (p : Nat) (t : Nat) : Statement (.packetRoute p t) := fun _ h hu =>
  fromTime hu (andRight h)

theorem rdReq (t : Nat) : Statement (.rdReq t) := fun _ h hu =>
  fromTime hu h

theorem rdRsp (t : Nat) : Statement (.rdRsp t) := fun _ h hu =>
  fromTime hu h

theorem wrReq (t : Nat) : Statement (.wrReq t) := fun _ h hu =>
  fromTime hu h

theorem wrAck (t : Nat) : Statement (.wrAck t) := fun _ h hu =>
  fromTime hu h

theorem addReq (t : Nat) : Statement (.addReq t) := fun _ h hu =>
  fromTime hu h

theorem addAck (t : Nat) : Statement (.addAck t) := fun _ h hu =>
  fromTime hu h

theorem strand (t : Nat) : Statement (.strand t) := fun _ h hu =>
  fromTime hu h

theorem chain (t : Nat) : Statement (.chain t) := fun _ h hu =>
  fromTime hu h

theorem update (t : Nat) : Statement (.update t) := fun _ h hu =>
  fromTime hu h

theorem mailbox (t : Nat) : Statement (.mailbox t) := fun _ h hu =>
  fromTime hu h

theorem place (t : Nat) : Statement (.place t) := fun _ h hu =>
  fromTime hu h

theorem msgRsp (t : Nat) : Statement (.msgRsp t) := fun _ h hu =>
  fromTime hu h

theorem sack (t : Nat) : Statement (.sack t) := fun _ h hu =>
  fromTime hu h

theorem sackTimer (peer : Nat) (tc : Nat) (t : Nat) : Statement (.sackTimer peer tc t) := fun _ h hu =>
  fromTime hu (andRight h)

theorem sluiceRto (peer : Nat) (tc : Nat) (t : Nat) : Statement (.sluiceRto peer tc t) := fun _ h hu =>
  fromTime hu (andRight h)

theorem dropReport (t : Nat) : Statement (.dropReport t) := fun _ h hu =>
  fromTime hu h

theorem multicastResend (id : Nat) (t : Nat) : Statement (.multicastResend id t) := fun _ h hu =>
  fromTime hu h

theorem red (t : Nat) : Statement (.red t) := fun _ h hu =>
  fromTime hu h

theorem redJoin (t : Nat) : Statement (.redJoin t) := fun _ h hu =>
  fromTime hu h

theorem redCredit (t : Nat) : Statement (.redCredit t) := fun _ h hu =>
  fromTime hu h

theorem redEnd (t : Nat) : Statement (.redEnd t) := fun _ h hu =>
  fromTime hu h

theorem redAbort (t : Nat) : Statement (.redAbort t) := fun _ h hu =>
  fromTime hu h

theorem drainComplete (t : Nat) : Statement (.drainComplete t) := fun _ h hu =>
  fromTime hu h

theorem fabDrainTimeout (t : Nat) : Statement (.fabDrainTimeout t) := fun _ h hu =>
  fromTime hu h

theorem dictMessage (src : DictSrc) (msg : List Byte) (t : Nat) : Statement (.dictMessage src msg t) := fun _ h hu =>
  fromTime hu h

theorem unbindComplete (a : Nat) : Statement (.unbindComplete a) := fun _ _ hu => nomatch hu

theorem loadIdleTimeout (t : Nat) : Statement (.loadIdleTimeout t) := fun _ h hu =>
  fromTime hu h

theorem firmwareReady (t : Nat) : Statement (.firmwareReady t) := fun _ h hu =>
  fromTime hu h

theorem activationFallback (t : Nat) : Statement (.activationFallback t) := fun _ h hu =>
  fromTime hu h

theorem watchdogExpiry (t : Nat) : Statement (.watchdogExpiry t) := fun _ h hu =>
  fromTime hu h

theorem sensorSample (ss : Nat) (vs : List Int) (t : Nat) : Statement (.sensorSample ss vs t) := fun _ h hu =>
  fromTime hu (andRight h)

theorem errorRecord (e : ErrIn) (t : Nat) : Statement (.errorRecord e t) := fun _ h hu =>
  fromTime hu h

theorem imageBankError (t : Nat) : Statement (.imageBankError t) := fun _ h hu =>
  fromTime hu h

theorem autoDusk (t : Nat) : Statement (.autoDusk t) := fun _ h hu =>
  fromTime hu h

theorem wakeEvent (t : Nat) : Statement (.wakeEvent t) := fun _ h hu =>
  fromTime hu h

theorem powerTransitionDone (t : Nat) : Statement (.powerTransitionDone t) := fun _ h hu =>
  fromTime hu h

theorem referenceLoss (t : Nat) : Statement (.referenceLoss t) := fun _ h hu =>
  fromTime hu h

theorem coldPowerUp (t : Nat) : Statement (.coldPowerUp t) := fun _ h hu =>
  fromTime hu h

theorem managementReady (t : Nat) : Statement (.managementReady t) := fun _ h hu =>
  fromTime hu h

theorem railsUp (t : Nat) : Statement (.railsUp t) := fun _ h hu =>
  fromTime hu h

theorem railTimeout (t : Nat) : Statement (.railTimeout t) := fun _ h hu =>
  fromTime hu h

theorem rootPllLock (t : Nat) : Statement (.rootPllLock t) := fun _ h hu =>
  fromTime hu h

theorem memoryTrained (hbm : List Bool) (dimms : List DimmIn) (t : Nat) : Statement (.memoryTrained hbm dimms t) := fun _ h hu =>
  fromTime hu h

theorem undervoltage (t : Nat) : Statement (.undervoltage t) := fun _ h hu =>
  fromTime hu h

theorem overvoltage (t : Nat) : Statement (.overvoltage t) := fun _ h hu =>
  fromTime hu h

theorem overcurrentTrip (t : Nat) : Statement (.overcurrentTrip t) := fun _ h hu =>
  fromTime hu h

theorem throttleStep (t : Nat) : Statement (.throttleStep t) := fun _ h hu =>
  fromTime hu h

theorem pwrEnLow (t : Nat) : Statement (.pwrEnLow t) := fun _ h hu =>
  fromTime hu h

theorem pwrEnHigh (t : Nat) : Statement (.pwrEnHigh t) := fun _ h hu =>
  fromTime hu h

theorem perstNAssert (t : Nat) : Statement (.perstNAssert t) := fun _ h hu =>
  fromTime hu h

theorem perstNDeassert (t : Nat) : Statement (.perstNDeassert t) := fun _ h hu =>
  fromTime hu h

theorem cxlLinkUp (cxl : Bool) (width : Nat) (speed : Nat) (t : Nat) : Statement (.cxlLinkUp cxl width speed t) := fun _ h hu =>
  fromTime hu h

theorem freezeNLow (t : Nat) : Statement (.freezeNLow t) := fun _ h hu =>
  fromTime hu h

theorem freezeNHigh (t : Nat) : Statement (.freezeNHigh t) := fun _ h hu =>
  fromTime hu h

theorem wakeNFall (t : Nat) : Statement (.wakeNFall t) := fun _ h hu =>
  fromTime hu h

theorem inputStorm (sig : Nat) (t : Nat) : Statement (.inputStorm sig t) := fun _ h hu =>
  fromTime hu h

theorem producer (q : Nat) (v : Nat) (stores : List HostStore) (t : Nat) : Statement (.producer q v stores t) := fun _ h hu =>
  fromTime hu (andRight h)

theorem complConsumer (q : Nat) (v : Nat) (stores : List HostStore) (t : Nat) : Statement (.complConsumer q v stores t) := fun _ h hu =>
  fromTime hu (andRight h)

theorem mbxLock (m : Nat) (c : Nat) (t : Nat) : Statement (.mbxLock m c t) := fun _ h hu =>
  fromTime hu (andRight h)

theorem mbxRelease (m : Nat) (c : Nat) (t : Nat) : Statement (.mbxRelease m c t) := fun _ h hu =>
  fromTime hu (andRight h)

theorem mbxDoorbell (m : Nat) (c : Nat) (code : Nat) (t : Nat) : Statement (.mbxDoorbell m c code t) := fun _ h hu =>
  fromTime hu (andRight h)

theorem mbxDone (m : Nat) (c : Nat) (t : Nat) : Statement (.mbxDone m c t) := fun _ h hu =>
  fromTime hu (andRight h)

theorem forceFree (m : Nat) (c : Nat) (t : Nat) : Statement (.forceFree m c t) := fun _ h hu =>
  fromTime hu (andRight h)

theorem mbxHoldExpiry (c : Nat) (t : Nat) : Statement (.mbxHoldExpiry c t) := fun _ h hu =>
  fromTime hu (andRight h)

theorem hdmCommit (base : Nat) (size : Nat) : Statement (.hdmCommit base size) := fun _ _ hu => nomatch hu

theorem hdmAccess (addr : Nat) (len : Nat) (wr : Option (List Byte)) : Statement (.hdmAccess addr len wr) := fun _ _ hu => nomatch hu

theorem h2dSnoop (addr : Nat) : Statement (.h2dSnoop addr) := fun _ _ hu => nomatch hu

theorem configRequest (reg : Nat) (wr : Option Nat) : Statement (.configRequest reg wr) := fun _ _ hu => nomatch hu

theorem getTimestamp (t : Nat) : Statement (.getTimestamp t) := fun _ h hu =>
  fromTime hu h

theorem setTimestamp (v : Nat) (t : Nat) : Statement (.setTimestamp v t) := fun _ h hu =>
  fromTime hu (andRight h)

theorem getSupportedLogs : Statement (.getSupportedLogs) := fun _ _ hu => nomatch hu

theorem getLog (off : Nat) (len : Nat) : Statement (.getLog off len) := fun _ _ hu => nomatch hu

theorem spdmRequest (viaDoe : Bool) (req : List Byte) : Statement (.spdmRequest viaDoe req) := fun _ _ hu => nomatch hu

theorem entdaa (addr : Nat) : Statement (.entdaa addr) := fun _ _ hu => nomatch hu

theorem setEndpointId (eid : Nat) : Statement (.setEndpointId eid) := fun _ _ hu => nomatch hu

theorem getEndpointId : Statement (.getEndpointId) := fun _ _ hu => nomatch hu

theorem getMctpVersionSupport (ty : Nat) : Statement (.getMctpVersionSupport ty) := fun _ _ hu => nomatch hu

theorem getMessageTypeSupport : Statement (.getMessageTypeSupport) := fun _ _ hu => nomatch hu

theorem freeze (t : Nat) : Statement (.freeze t) := fun _ h hu =>
  fromTime hu h

theorem thaw (t : Nat) : Statement (.thaw t) := fun _ h hu =>
  fromTime hu h

theorem freezeComplete (t : Nat) : Statement (.freezeComplete t) := fun _ h hu =>
  fromTime hu h

theorem freezeTooLong (t : Nat) : Statement (.freezeTooLong t) := fun _ h hu =>
  fromTime hu h

theorem readoutDone (t : Nat) : Statement (.readoutDone t) := fun _ h hu =>
  fromTime hu h

theorem jtagInternalScan (t : Nat) : Statement (.jtagInternalScan t) := fun _ h hu =>
  fromTime hu h

theorem lightDetected (p : Nat) (t : Nat) : Statement (.lightDetected p t) := fun _ h hu =>
  fromTime hu (andRight h)

theorem fecLock (p : Nat) (t : Nat) : Statement (.fecLock p t) := fun _ h hu =>
  fromTime hu (andRight h)

theorem verifyComplete (t : Nat) : Statement (.verifyComplete t) := fun _ h hu =>
  fromTime hu h

theorem fuseStepBlown (t : Nat) : Statement (.fuseStepBlown t) := fun _ h hu =>
  fromTime hu h

theorem primaryMailboxReady (t : Nat) : Statement (.primaryMailboxReady t) := fun _ h hu =>
  fromTime hu h

theorem ignoredRegisterAccess (off : Nat) (bytes : Nat) (op : RegOp) : Statement (.ignoredRegisterAccess off bytes op) :=
  fun _ h hu => fromTime hu (andRight h)

theorem mbxBufferWrite (m : Nat) (c : Nat) (off : Nat) (data : List Byte) : Statement (.mbxBufferWrite m c off data) := fun _ _ hu => nomatch hu

theorem doeDiscovery (n : Nat) : Statement (.doeDiscovery n) := fun _ _ hu => nomatch hu

theorem cxlTableAccess (entry : Nat) : Statement (.cxlTableAccess entry) := fun _ _ hu => nomatch hu

theorem alertPulseEnd (t : Nat) : Statement (.alertPulseEnd t) := fun _ h hu =>
  fromTime hu h

theorem switchRelease (t : Nat) : Statement (.switchRelease t) := fun _ h hu =>
  fromTime hu h

theorem returnToService (unit : Nat) (t : Nat) : Statement (.returnToService unit t) := fun _ h hu =>
  fromTime hu h

theorem extest (cells : List Bool) : Statement (.extest cells) := fun _ _ hu => nomatch hu

end Sys2Proof.Laws.WellFormed
end

