-- ==== Sys2Proof/Laws/State.lean ====
section
/-! SUPPORT. What each named update of the state leaves in each of its fields: the field it writes and the fields it
does not touch. -/

namespace Sys2Proof.Machine
open Sys2Proof

/-! Bringing the time base forward. -/

@[simp] theorem atTime_pending (s : State) (t : Nat) : (atTime s t).pending = s.pending := rfl
@[simp] theorem atTime_time (s : State) (t : Nat) : (atTime s t).time = max s.time t := rfl
@[simp] theorem atTime_fresh (s : State) (t : Nat) : (atTime s t).fresh = s.fresh := rfl
@[simp] theorem atTime_out (s : State) (t : Nat) : (atTime s t).out = s.out := rfl
@[simp] theorem atTime_dict (s : State) (t : Nat) : (atTime s t).dict = s.dict := rfl
@[simp] theorem atTime_mem (s : State) (t : Nat) : (atTime s t).mem = s.mem := rfl
@[simp] theorem atTime_host (s : State) (t : Nat) : (atTime s t).host = s.host := rfl
@[simp] theorem atTime_hostPoison (s : State) (t : Nat) : (atTime s t).hostPoison = s.hostPoison := rfl
@[simp] theorem atTime_objs (s : State) (t : Nat) : (atTime s t).objs = s.objs := rfl
@[simp] theorem atTime_slots (s : State) (t : Nat) : (atTime s t).slots = s.slots := rfl
@[simp] theorem atTime_queues (s : State) (t : Nat) : (atTime s t).queues = s.queues := rfl
@[simp] theorem atTime_work (s : State) (t : Nat) : (atTime s t).work = s.work := rfl
@[simp] theorem atTime_tick (s : State) (t : Nat) : (atTime s t).tick = s.tick := rfl
@[simp] theorem atTime_starts (s : State) (t : Nat) : (atTime s t).starts = s.starts := rfl
@[simp] theorem atTime_lines (s : State) (t : Nat) : (atTime s t).lines = s.lines := rfl
@[simp] theorem atTime_guard (s : State) (t : Nat) : (atTime s t).guard = s.guard := rfl
@[simp] theorem atTime_turn (s : State) (t : Nat) : (atTime s t).turn = s.turn := rfl
@[simp] theorem atTime_addends (s : State) (t : Nat) : (atTime s t).addends = s.addends := rfl
@[simp] theorem atTime_arr (s : State) (t : Nat) : (atTime s t).arr = s.arr := rfl
@[simp] theorem atTime_vec (s : State) (t : Nat) : (atTime s t).vec = s.vec := rfl
@[simp] theorem atTime_strands (s : State) (t : Nat) : (atTime s t).strands = s.strands := rfl
@[simp] theorem atTime_binds (s : State) (t : Nat) : (atTime s t).binds = s.binds := rfl
@[simp] theorem atTime_dir (s : State) (t : Nat) : (atTime s t).dir = s.dir := rfl
@[simp] theorem atTime_place (s : State) (t : Nat) : (atTime s t).place = s.place := rfl
@[simp] theorem atTime_fab (s : State) (t : Nat) : (atTime s t).fab = s.fab := rfl
@[simp] theorem atTime_cxl (s : State) (t : Nat) : (atTime s t).cxl = s.cxl := rfl
@[simp] theorem atTime_mbx (s : State) (t : Nat) : (atTime s t).mbx = s.mbx := rfl
@[simp] theorem atTime_srv (s : State) (t : Nat) : (atTime s t).srv = s.srv := rfl
@[simp] theorem atTime_alm (s : State) (t : Nat) : (atTime s t).alm = s.alm := rfl
@[simp] theorem atTime_red (s : State) (t : Nat) : (atTime s t).red = s.red := rfl
@[simp] theorem atTime_pwr (s : State) (t : Nat) : (atTime s t).pwr = s.pwr := rfl
@[simp] theorem atTime_boot (s : State) (t : Nat) : (atTime s t).boot = s.boot := rfl
@[simp] theorem atTime_sens (s : State) (t : Nat) : (atTime s t).sens = s.sens := rfl
@[simp] theorem atTime_err (s : State) (t : Nat) : (atTime s t).err = s.err := rfl
@[simp] theorem reg_atTime (s : State) (t : Nat) (key : Nat) : reg (atTime s t) key = reg s key := rfl

/-! Writing a register. -/

@[simp] theorem setReg_pending (s : State) (k v : Nat) : (setReg s k v).pending = s.pending := rfl
@[simp] theorem setReg_time (s : State) (k v : Nat) : (setReg s k v).time = s.time := rfl
@[simp] theorem setReg_fresh (s : State) (k v : Nat) : (setReg s k v).fresh = s.fresh := rfl
@[simp] theorem setReg_out (s : State) (k v : Nat) : (setReg s k v).out = s.out := rfl
@[simp] theorem setReg_mem (s : State) (k v : Nat) : (setReg s k v).mem = s.mem := rfl
@[simp] theorem setReg_host (s : State) (k v : Nat) : (setReg s k v).host = s.host := rfl
@[simp] theorem setReg_hostPoison (s : State) (k v : Nat) : (setReg s k v).hostPoison = s.hostPoison := rfl
@[simp] theorem setReg_objs (s : State) (k v : Nat) : (setReg s k v).objs = s.objs := rfl
@[simp] theorem setReg_slots (s : State) (k v : Nat) : (setReg s k v).slots = s.slots := rfl
@[simp] theorem setReg_queues (s : State) (k v : Nat) : (setReg s k v).queues = s.queues := rfl
@[simp] theorem setReg_work (s : State) (k v : Nat) : (setReg s k v).work = s.work := rfl
@[simp] theorem setReg_tick (s : State) (k v : Nat) : (setReg s k v).tick = s.tick := rfl
@[simp] theorem setReg_starts (s : State) (k v : Nat) : (setReg s k v).starts = s.starts := rfl
@[simp] theorem setReg_lines (s : State) (k v : Nat) : (setReg s k v).lines = s.lines := rfl
@[simp] theorem setReg_guard (s : State) (k v : Nat) : (setReg s k v).guard = s.guard := rfl
@[simp] theorem setReg_turn (s : State) (k v : Nat) : (setReg s k v).turn = s.turn := rfl
@[simp] theorem setReg_addends (s : State) (k v : Nat) : (setReg s k v).addends = s.addends := rfl
@[simp] theorem setReg_arr (s : State) (k v : Nat) : (setReg s k v).arr = s.arr := rfl
@[simp] theorem setReg_vec (s : State) (k v : Nat) : (setReg s k v).vec = s.vec := rfl
@[simp] theorem setReg_strands (s : State) (k v : Nat) : (setReg s k v).strands = s.strands := rfl
@[simp] theorem setReg_binds (s : State) (k v : Nat) : (setReg s k v).binds = s.binds := rfl
@[simp] theorem setReg_dir (s : State) (k v : Nat) : (setReg s k v).dir = s.dir := rfl
@[simp] theorem setReg_place (s : State) (k v : Nat) : (setReg s k v).place = s.place := rfl
@[simp] theorem setReg_fab (s : State) (k v : Nat) : (setReg s k v).fab = s.fab := rfl
@[simp] theorem setReg_cxl (s : State) (k v : Nat) : (setReg s k v).cxl = s.cxl := rfl
@[simp] theorem setReg_mbx (s : State) (k v : Nat) : (setReg s k v).mbx = s.mbx := rfl
@[simp] theorem setReg_srv (s : State) (k v : Nat) : (setReg s k v).srv = s.srv := rfl
@[simp] theorem setReg_alm (s : State) (k v : Nat) : (setReg s k v).alm = s.alm := rfl
@[simp] theorem setReg_red (s : State) (k v : Nat) : (setReg s k v).red = s.red := rfl
@[simp] theorem setReg_pwr (s : State) (k v : Nat) : (setReg s k v).pwr = s.pwr := rfl
@[simp] theorem setReg_boot (s : State) (k v : Nat) : (setReg s k v).boot = s.boot := rfl
@[simp] theorem setReg_sens (s : State) (k v : Nat) : (setReg s k v).sens = s.sens := rfl
@[simp] theorem setReg_err (s : State) (k v : Nat) : (setReg s k v).err = s.err := rfl

/-! A counter's increase. -/

@[simp] theorem bump_pending (s : State) (k n : Nat) : (bump s k n).pending = s.pending := rfl
@[simp] theorem bump_time (s : State) (k n : Nat) : (bump s k n).time = s.time := rfl
@[simp] theorem bump_fresh (s : State) (k n : Nat) : (bump s k n).fresh = s.fresh := rfl
@[simp] theorem bump_out (s : State) (k n : Nat) : (bump s k n).out = s.out := rfl
@[simp] theorem bump_mem (s : State) (k n : Nat) : (bump s k n).mem = s.mem := rfl
@[simp] theorem bump_host (s : State) (k n : Nat) : (bump s k n).host = s.host := rfl
@[simp] theorem bump_hostPoison (s : State) (k n : Nat) : (bump s k n).hostPoison = s.hostPoison := rfl
@[simp] theorem bump_objs (s : State) (k n : Nat) : (bump s k n).objs = s.objs := rfl
@[simp] theorem bump_slots (s : State) (k n : Nat) : (bump s k n).slots = s.slots := rfl
@[simp] theorem bump_queues (s : State) (k n : Nat) : (bump s k n).queues = s.queues := rfl
@[simp] theorem bump_work (s : State) (k n : Nat) : (bump s k n).work = s.work := rfl
@[simp] theorem bump_tick (s : State) (k n : Nat) : (bump s k n).tick = s.tick := rfl
@[simp] theorem bump_starts (s : State) (k n : Nat) : (bump s k n).starts = s.starts := rfl
@[simp] theorem bump_lines (s : State) (k n : Nat) : (bump s k n).lines = s.lines := rfl
@[simp] theorem bump_guard (s : State) (k n : Nat) : (bump s k n).guard = s.guard := rfl
@[simp] theorem bump_turn (s : State) (k n : Nat) : (bump s k n).turn = s.turn := rfl
@[simp] theorem bump_addends (s : State) (k n : Nat) : (bump s k n).addends = s.addends := rfl
@[simp] theorem bump_arr (s : State) (k n : Nat) : (bump s k n).arr = s.arr := rfl
@[simp] theorem bump_vec (s : State) (k n : Nat) : (bump s k n).vec = s.vec := rfl
@[simp] theorem bump_strands (s : State) (k n : Nat) : (bump s k n).strands = s.strands := rfl
@[simp] theorem bump_binds (s : State) (k n : Nat) : (bump s k n).binds = s.binds := rfl
@[simp] theorem bump_dir (s : State) (k n : Nat) : (bump s k n).dir = s.dir := rfl
@[simp] theorem bump_place (s : State) (k n : Nat) : (bump s k n).place = s.place := rfl
@[simp] theorem bump_fab (s : State) (k n : Nat) : (bump s k n).fab = s.fab := rfl
@[simp] theorem bump_cxl (s : State) (k n : Nat) : (bump s k n).cxl = s.cxl := rfl
@[simp] theorem bump_mbx (s : State) (k n : Nat) : (bump s k n).mbx = s.mbx := rfl
@[simp] theorem bump_srv (s : State) (k n : Nat) : (bump s k n).srv = s.srv := rfl
@[simp] theorem bump_alm (s : State) (k n : Nat) : (bump s k n).alm = s.alm := rfl
@[simp] theorem bump_red (s : State) (k n : Nat) : (bump s k n).red = s.red := rfl
@[simp] theorem bump_pwr (s : State) (k n : Nat) : (bump s k n).pwr = s.pwr := rfl
@[simp] theorem bump_boot (s : State) (k n : Nat) : (bump s k n).boot = s.boot := rfl
@[simp] theorem bump_sens (s : State) (k n : Nat) : (bump s k n).sens = s.sens := rfl
@[simp] theorem bump_err (s : State) (k n : Nat) : (bump s k n).err = s.err := rfl

/-! A sticking counter's increase. -/

@[simp] theorem bump32_pending (s : State) (k n : Nat) : (bump32 s k n).pending = s.pending := rfl
@[simp] theorem bump32_time (s : State) (k n : Nat) : (bump32 s k n).time = s.time := rfl
@[simp] theorem bump32_fresh (s : State) (k n : Nat) : (bump32 s k n).fresh = s.fresh := rfl
@[simp] theorem bump32_out (s : State) (k n : Nat) : (bump32 s k n).out = s.out := rfl
@[simp] theorem bump32_mem (s : State) (k n : Nat) : (bump32 s k n).mem = s.mem := rfl
@[simp] theorem bump32_host (s : State) (k n : Nat) : (bump32 s k n).host = s.host := rfl
@[simp] theorem bump32_hostPoison (s : State) (k n : Nat) : (bump32 s k n).hostPoison = s.hostPoison := rfl
@[simp] theorem bump32_objs (s : State) (k n : Nat) : (bump32 s k n).objs = s.objs := rfl
@[simp] theorem bump32_slots (s : State) (k n : Nat) : (bump32 s k n).slots = s.slots := rfl
@[simp] theorem bump32_queues (s : State) (k n : Nat) : (bump32 s k n).queues = s.queues := rfl
@[simp] theorem bump32_work (s : State) (k n : Nat) : (bump32 s k n).work = s.work := rfl
@[simp] theorem bump32_tick (s : State) (k n : Nat) : (bump32 s k n).tick = s.tick := rfl
@[simp] theorem bump32_starts (s : State) (k n : Nat) : (bump32 s k n).starts = s.starts := rfl
@[simp] theorem bump32_lines (s : State) (k n : Nat) : (bump32 s k n).lines = s.lines := rfl
@[simp] theorem bump32_guard (s : State) (k n : Nat) : (bump32 s k n).guard = s.guard := rfl
@[simp] theorem bump32_turn (s : State) (k n : Nat) : (bump32 s k n).turn = s.turn := rfl
@[simp] theorem bump32_addends (s : State) (k n : Nat) : (bump32 s k n).addends = s.addends := rfl
@[simp] theorem bump32_arr (s : State) (k n : Nat) : (bump32 s k n).arr = s.arr := rfl
@[simp] theorem bump32_vec (s : State) (k n : Nat) : (bump32 s k n).vec = s.vec := rfl
@[simp] theorem bump32_strands (s : State) (k n : Nat) : (bump32 s k n).strands = s.strands := rfl
@[simp] theorem bump32_binds (s : State) (k n : Nat) : (bump32 s k n).binds = s.binds := rfl
@[simp] theorem bump32_dir (s : State) (k n : Nat) : (bump32 s k n).dir = s.dir := rfl
@[simp] theorem bump32_place (s : State) (k n : Nat) : (bump32 s k n).place = s.place := rfl
@[simp] theorem bump32_fab (s : State) (k n : Nat) : (bump32 s k n).fab = s.fab := rfl
@[simp] theorem bump32_cxl (s : State) (k n : Nat) : (bump32 s k n).cxl = s.cxl := rfl
@[simp] theorem bump32_mbx (s : State) (k n : Nat) : (bump32 s k n).mbx = s.mbx := rfl
@[simp] theorem bump32_srv (s : State) (k n : Nat) : (bump32 s k n).srv = s.srv := rfl
@[simp] theorem bump32_alm (s : State) (k n : Nat) : (bump32 s k n).alm = s.alm := rfl
@[simp] theorem bump32_red (s : State) (k n : Nat) : (bump32 s k n).red = s.red := rfl
@[simp] theorem bump32_pwr (s : State) (k n : Nat) : (bump32 s k n).pwr = s.pwr := rfl
@[simp] theorem bump32_boot (s : State) (k n : Nat) : (bump32 s k n).boot = s.boot := rfl
@[simp] theorem bump32_sens (s : State) (k n : Nat) : (bump32 s k n).sens = s.sens := rfl
@[simp] theorem bump32_err (s : State) (k n : Nat) : (bump32 s k n).err = s.err := rfl

/-! Sending. -/

@[simp] theorem send_pending (s : State) (o : Out) : (send s o).pending = s.pending := rfl
@[simp] theorem send_time (s : State) (o : Out) : (send s o).time = s.time := rfl
@[simp] theorem send_fresh (s : State) (o : Out) : (send s o).fresh = s.fresh := rfl
@[simp] theorem send_out (s : State) (o : Out) : (send s o).out = s.out ++ [o] := rfl
@[simp] theorem send_dict (s : State) (o : Out) : (send s o).dict = s.dict := rfl
@[simp] theorem send_mem (s : State) (o : Out) : (send s o).mem = s.mem := rfl
@[simp] theorem send_host (s : State) (o : Out) : (send s o).host = s.host := rfl
@[simp] theorem send_hostPoison (s : State) (o : Out) : (send s o).hostPoison = s.hostPoison := rfl
@[simp] theorem send_objs (s : State) (o : Out) : (send s o).objs = s.objs := rfl
@[simp] theorem send_slots (s : State) (o : Out) : (send s o).slots = s.slots := rfl
@[simp] theorem send_queues (s : State) (o : Out) : (send s o).queues = s.queues := rfl
@[simp] theorem send_work (s : State) (o : Out) : (send s o).work = s.work := rfl
@[simp] theorem send_tick (s : State) (o : Out) : (send s o).tick = s.tick := rfl
@[simp] theorem send_starts (s : State) (o : Out) : (send s o).starts = s.starts := rfl
@[simp] theorem send_lines (s : State) (o : Out) : (send s o).lines = s.lines := rfl
@[simp] theorem send_guard (s : State) (o : Out) : (send s o).guard = s.guard := rfl
@[simp] theorem send_turn (s : State) (o : Out) : (send s o).turn = s.turn := rfl
@[simp] theorem send_addends (s : State) (o : Out) : (send s o).addends = s.addends := rfl
@[simp] theorem send_arr (s : State) (o : Out) : (send s o).arr = s.arr := rfl
@[simp] theorem send_vec (s : State) (o : Out) : (send s o).vec = s.vec := rfl
@[simp] theorem send_strands (s : State) (o : Out) : (send s o).strands = s.strands := rfl
@[simp] theorem send_binds (s : State) (o : Out) : (send s o).binds = s.binds := rfl
@[simp] theorem send_dir (s : State) (o : Out) : (send s o).dir = s.dir := rfl
@[simp] theorem send_place (s : State) (o : Out) : (send s o).place = s.place := rfl
@[simp] theorem send_fab (s : State) (o : Out) : (send s o).fab = s.fab := rfl
@[simp] theorem send_cxl (s : State) (o : Out) : (send s o).cxl = s.cxl := rfl
@[simp] theorem send_mbx (s : State) (o : Out) : (send s o).mbx = s.mbx := rfl
@[simp] theorem send_srv (s : State) (o : Out) : (send s o).srv = s.srv := rfl
@[simp] theorem send_alm (s : State) (o : Out) : (send s o).alm = s.alm := rfl
@[simp] theorem send_red (s : State) (o : Out) : (send s o).red = s.red := rfl
@[simp] theorem send_pwr (s : State) (o : Out) : (send s o).pwr = s.pwr := rfl
@[simp] theorem send_boot (s : State) (o : Out) : (send s o).boot = s.boot := rfl
@[simp] theorem send_sens (s : State) (o : Out) : (send s o).sens = s.sens := rfl
@[simp] theorem send_err (s : State) (o : Out) : (send s o).err = s.err := rfl
@[simp] theorem reg_send (s : State) (o : Out) (key : Nat) : reg (send s o) key = reg s key := rfl

/-! Noting work. -/

@[simp] theorem touch_pending (s : State) : (touch s).pending = s.pending := rfl
@[simp] theorem touch_time (s : State) : (touch s).time = s.time := rfl
@[simp] theorem touch_fresh (s : State) : (touch s).fresh = s.fresh := rfl
@[simp] theorem touch_out (s : State) : (touch s).out = s.out := rfl
@[simp] theorem touch_dict (s : State) : (touch s).dict = s.dict := rfl
@[simp] theorem touch_mem (s : State) : (touch s).mem = s.mem := rfl
@[simp] theorem touch_host (s : State) : (touch s).host = s.host := rfl
@[simp] theorem touch_hostPoison (s : State) : (touch s).hostPoison = s.hostPoison := rfl
@[simp] theorem touch_objs (s : State) : (touch s).objs = s.objs := rfl
@[simp] theorem touch_slots (s : State) : (touch s).slots = s.slots := rfl
@[simp] theorem touch_queues (s : State) : (touch s).queues = s.queues := rfl
@[simp] theorem touch_work (s : State) : (touch s).work = s.work := rfl
@[simp] theorem touch_tick (s : State) : (touch s).tick = s.tick := rfl
@[simp] theorem touch_starts (s : State) : (touch s).starts = s.starts := rfl
@[simp] theorem touch_lines (s : State) : (touch s).lines = s.lines := rfl
@[simp] theorem touch_guard (s : State) : (touch s).guard = s.guard := rfl
@[simp] theorem touch_turn (s : State) : (touch s).turn = s.turn := rfl
@[simp] theorem touch_addends (s : State) : (touch s).addends = s.addends := rfl
@[simp] theorem touch_arr (s : State) : (touch s).arr = s.arr := rfl
@[simp] theorem touch_vec (s : State) : (touch s).vec = s.vec := rfl
@[simp] theorem touch_strands (s : State) : (touch s).strands = s.strands := rfl
@[simp] theorem touch_binds (s : State) : (touch s).binds = s.binds := rfl
@[simp] theorem touch_dir (s : State) : (touch s).dir = s.dir := rfl
@[simp] theorem touch_place (s : State) : (touch s).place = s.place := rfl
@[simp] theorem touch_fab (s : State) : (touch s).fab = s.fab := rfl
@[simp] theorem touch_cxl (s : State) : (touch s).cxl = s.cxl := rfl
@[simp] theorem touch_mbx (s : State) : (touch s).mbx = s.mbx := rfl
@[simp] theorem touch_srv (s : State) : (touch s).srv = s.srv := rfl
@[simp] theorem touch_alm (s : State) : (touch s).alm = s.alm := rfl
@[simp] theorem touch_red (s : State) : (touch s).red = s.red := rfl
@[simp] theorem touch_boot (s : State) : (touch s).boot = s.boot := rfl
@[simp] theorem touch_sens (s : State) : (touch s).sens = s.sens := rfl
@[simp] theorem touch_err (s : State) : (touch s).err = s.err := rfl
@[simp] theorem reg_touch (s : State) (key : Nat) : reg (touch s) key = reg s key := rfl

/-! Writing module memory. -/

@[simp] theorem writePhys_pending (s : State) (a : Nat) (bs : List Byte) : (writePhys s a bs).pending = s.pending := rfl
@[simp] theorem writePhys_time (s : State) (a : Nat) (bs : List Byte) : (writePhys s a bs).time = s.time := rfl
@[simp] theorem writePhys_fresh (s : State) (a : Nat) (bs : List Byte) : (writePhys s a bs).fresh = s.fresh := rfl
@[simp] theorem writePhys_out (s : State) (a : Nat) (bs : List Byte) : (writePhys s a bs).out = s.out := rfl
@[simp] theorem writePhys_dict (s : State) (a : Nat) (bs : List Byte) : (writePhys s a bs).dict = s.dict := rfl
@[simp] theorem writePhys_host (s : State) (a : Nat) (bs : List Byte) : (writePhys s a bs).host = s.host := rfl
@[simp] theorem writePhys_hostPoison (s : State) (a : Nat) (bs : List Byte) : (writePhys s a bs).hostPoison = s.hostPoison := rfl
@[simp] theorem writePhys_objs (s : State) (a : Nat) (bs : List Byte) : (writePhys s a bs).objs = s.objs := rfl
@[simp] theorem writePhys_slots (s : State) (a : Nat) (bs : List Byte) : (writePhys s a bs).slots = s.slots := rfl
@[simp] theorem writePhys_queues (s : State) (a : Nat) (bs : List Byte) : (writePhys s a bs).queues = s.queues := rfl
@[simp] theorem writePhys_work (s : State) (a : Nat) (bs : List Byte) : (writePhys s a bs).work = s.work := rfl
@[simp] theorem writePhys_tick (s : State) (a : Nat) (bs : List Byte) : (writePhys s a bs).tick = s.tick := rfl
@[simp] theorem writePhys_starts (s : State) (a : Nat) (bs : List Byte) : (writePhys s a bs).starts = s.starts := rfl
@[simp] theorem writePhys_lines (s : State) (a : Nat) (bs : List Byte) : (writePhys s a bs).lines = s.lines := rfl
@[simp] theorem writePhys_guard (s : State) (a : Nat) (bs : List Byte) : (writePhys s a bs).guard = s.guard := rfl
@[simp] theorem writePhys_turn (s : State) (a : Nat) (bs : List Byte) : (writePhys s a bs).turn = s.turn := rfl
@[simp] theorem writePhys_addends (s : State) (a : Nat) (bs : List Byte) : (writePhys s a bs).addends = s.addends := rfl
@[simp] theorem writePhys_arr (s : State) (a : Nat) (bs : List Byte) : (writePhys s a bs).arr = s.arr := rfl
@[simp] theorem writePhys_vec (s : State) (a : Nat) (bs : List Byte) : (writePhys s a bs).vec = s.vec := rfl
@[simp] theorem writePhys_strands (s : State) (a : Nat) (bs : List Byte) : (writePhys s a bs).strands = s.strands := rfl
@[simp] theorem writePhys_binds (s : State) (a : Nat) (bs : List Byte) : (writePhys s a bs).binds = s.binds := rfl
@[simp] theorem writePhys_dir (s : State) (a : Nat) (bs : List Byte) : (writePhys s a bs).dir = s.dir := rfl
@[simp] theorem writePhys_place (s : State) (a : Nat) (bs : List Byte) : (writePhys s a bs).place = s.place := rfl
@[simp] theorem writePhys_fab (s : State) (a : Nat) (bs : List Byte) : (writePhys s a bs).fab = s.fab := rfl
@[simp] theorem writePhys_cxl (s : State) (a : Nat) (bs : List Byte) : (writePhys s a bs).cxl = s.cxl := rfl
@[simp] theorem writePhys_mbx (s : State) (a : Nat) (bs : List Byte) : (writePhys s a bs).mbx = s.mbx := rfl
@[simp] theorem writePhys_srv (s : State) (a : Nat) (bs : List Byte) : (writePhys s a bs).srv = s.srv := rfl
@[simp] theorem writePhys_alm (s : State) (a : Nat) (bs : List Byte) : (writePhys s a bs).alm = s.alm := rfl
@[simp] theorem writePhys_red (s : State) (a : Nat) (bs : List Byte) : (writePhys s a bs).red = s.red := rfl
@[simp] theorem writePhys_pwr (s : State) (a : Nat) (bs : List Byte) : (writePhys s a bs).pwr = s.pwr := rfl
@[simp] theorem writePhys_boot (s : State) (a : Nat) (bs : List Byte) : (writePhys s a bs).boot = s.boot := rfl
@[simp] theorem writePhys_sens (s : State) (a : Nat) (bs : List Byte) : (writePhys s a bs).sens = s.sens := rfl
@[simp] theorem writePhys_err (s : State) (a : Nat) (bs : List Byte) : (writePhys s a bs).err = s.err := rfl
@[simp] theorem reg_writePhys (s : State) (a : Nat) (bs : List Byte) (key : Nat) : reg (writePhys s a bs) key = reg s key := rfl

/-! Writing host memory. -/

@[simp] theorem writeHost_pending (s : State) (a : Nat) (bs : List Byte) : (writeHost s a bs).pending = s.pending := rfl
@[simp] theorem writeHost_time (s : State) (a : Nat) (bs : List Byte) : (writeHost s a bs).time = s.time := rfl
@[simp] theorem writeHost_fresh (s : State) (a : Nat) (bs : List Byte) : (writeHost s a bs).fresh = s.fresh := rfl
@[simp] theorem writeHost_out (s : State) (a : Nat) (bs : List Byte) : (writeHost s a bs).out = s.out := rfl
@[simp] theorem writeHost_dict (s : State) (a : Nat) (bs : List Byte) : (writeHost s a bs).dict = s.dict := rfl
@[simp] theorem writeHost_mem (s : State) (a : Nat) (bs : List Byte) : (writeHost s a bs).mem = s.mem := rfl
@[simp] theorem writeHost_host (s : State) (a : Nat) (bs : List Byte) : (writeHost s a bs).host = Tab.setRange 0 s.host a bs := rfl
@[simp] theorem writeHost_hostPoison (s : State) (a : Nat) (bs : List Byte) : (writeHost s a bs).hostPoison = s.hostPoison := rfl
@[simp] theorem writeHost_objs (s : State) (a : Nat) (bs : List Byte) : (writeHost s a bs).objs = s.objs := rfl
@[simp] theorem writeHost_slots (s : State) (a : Nat) (bs : List Byte) : (writeHost s a bs).slots = s.slots := rfl
@[simp] theorem writeHost_queues (s : State) (a : Nat) (bs : List Byte) : (writeHost s a bs).queues = s.queues := rfl
@[simp] theorem writeHost_work (s : State) (a : Nat) (bs : List Byte) : (writeHost s a bs).work = s.work := rfl
@[simp] theorem writeHost_tick (s : State) (a : Nat) (bs : List Byte) : (writeHost s a bs).tick = s.tick := rfl
@[simp] theorem writeHost_starts (s : State) (a : Nat) (bs : List Byte) : (writeHost s a bs).starts = s.starts := rfl
@[simp] theorem writeHost_lines (s : State) (a : Nat) (bs : List Byte) : (writeHost s a bs).lines = s.lines := rfl
@[simp] theorem writeHost_guard (s : State) (a : Nat) (bs : List Byte) : (writeHost s a bs).guard = s.guard := rfl
@[simp] theorem writeHost_turn (s : State) (a : Nat) (bs : List Byte) : (writeHost s a bs).turn = s.turn := rfl
@[simp] theorem writeHost_addends (s : State) (a : Nat) (bs : List Byte) : (writeHost s a bs).addends = s.addends := rfl
@[simp] theorem writeHost_arr (s : State) (a : Nat) (bs : List Byte) : (writeHost s a bs).arr = s.arr := rfl
@[simp] theorem writeHost_vec (s : State) (a : Nat) (bs : List Byte) : (writeHost s a bs).vec = s.vec := rfl
@[simp] theorem writeHost_strands (s : State) (a : Nat) (bs : List Byte) : (writeHost s a bs).strands = s.strands := rfl
@[simp] theorem writeHost_binds (s : State) (a : Nat) (bs : List Byte) : (writeHost s a bs).binds = s.binds := rfl
@[simp] theorem writeHost_dir (s : State) (a : Nat) (bs : List Byte) : (writeHost s a bs).dir = s.dir := rfl
@[simp] theorem writeHost_place (s : State) (a : Nat) (bs : List Byte) : (writeHost s a bs).place = s.place := rfl
@[simp] theorem writeHost_fab (s : State) (a : Nat) (bs : List Byte) : (writeHost s a bs).fab = s.fab := rfl
@[simp] theorem writeHost_cxl (s : State) (a : Nat) (bs : List Byte) : (writeHost s a bs).cxl = s.cxl := rfl
@[simp] theorem writeHost_mbx (s : State) (a : Nat) (bs : List Byte) : (writeHost s a bs).mbx = s.mbx := rfl
@[simp] theorem writeHost_srv (s : State) (a : Nat) (bs : List Byte) : (writeHost s a bs).srv = s.srv := rfl
@[simp] theorem writeHost_alm (s : State) (a : Nat) (bs : List Byte) : (writeHost s a bs).alm = s.alm := rfl
@[simp] theorem writeHost_red (s : State) (a : Nat) (bs : List Byte) : (writeHost s a bs).red = s.red := rfl
@[simp] theorem writeHost_pwr (s : State) (a : Nat) (bs : List Byte) : (writeHost s a bs).pwr = s.pwr := rfl
@[simp] theorem writeHost_boot (s : State) (a : Nat) (bs : List Byte) : (writeHost s a bs).boot = s.boot := rfl
@[simp] theorem writeHost_sens (s : State) (a : Nat) (bs : List Byte) : (writeHost s a bs).sens = s.sens := rfl
@[simp] theorem writeHost_err (s : State) (a : Nat) (bs : List Byte) : (writeHost s a bs).err = s.err := rfl
@[simp] theorem reg_writeHost (s : State) (a : Nat) (bs : List Byte) (key : Nat) : reg (writeHost s a bs) key = reg s key := rfl

/-! Changing an object. -/

@[simp] theorem setObj_pending (s : State) (o : Obj) : (setObj s o).pending = s.pending := rfl
@[simp] theorem setObj_time (s : State) (o : Obj) : (setObj s o).time = s.time := rfl
@[simp] theorem setObj_fresh (s : State) (o : Obj) : (setObj s o).fresh = s.fresh := rfl
@[simp] theorem setObj_out (s : State) (o : Obj) : (setObj s o).out = s.out := rfl
@[simp] theorem setObj_dict (s : State) (o : Obj) : (setObj s o).dict = s.dict := rfl
@[simp] theorem setObj_mem (s : State) (o : Obj) : (setObj s o).mem = s.mem := rfl
@[simp] theorem setObj_host (s : State) (o : Obj) : (setObj s o).host = s.host := rfl
@[simp] theorem setObj_hostPoison (s : State) (o : Obj) : (setObj s o).hostPoison = s.hostPoison := rfl
@[simp] theorem setObj_slots (s : State) (o : Obj) : (setObj s o).slots = s.slots := rfl
@[simp] theorem setObj_queues (s : State) (o : Obj) : (setObj s o).queues = s.queues := rfl
@[simp] theorem setObj_work (s : State) (o : Obj) : (setObj s o).work = s.work := rfl
@[simp] theorem setObj_tick (s : State) (o : Obj) : (setObj s o).tick = s.tick := rfl
@[simp] theorem setObj_starts (s : State) (o : Obj) : (setObj s o).starts = s.starts := rfl
@[simp] theorem setObj_lines (s : State) (o : Obj) : (setObj s o).lines = s.lines := rfl
@[simp] theorem setObj_guard (s : State) (o : Obj) : (setObj s o).guard = s.guard := rfl
@[simp] theorem setObj_turn (s : State) (o : Obj) : (setObj s o).turn = s.turn := rfl
@[simp] theorem setObj_addends (s : State) (o : Obj) : (setObj s o).addends = s.addends := rfl
@[simp] theorem setObj_arr (s : State) (o : Obj) : (setObj s o).arr = s.arr := rfl
@[simp] theorem setObj_vec (s : State) (o : Obj) : (setObj s o).vec = s.vec := rfl
@[simp] theorem setObj_strands (s : State) (o : Obj) : (setObj s o).strands = s.strands := rfl
@[simp] theorem setObj_binds (s : State) (o : Obj) : (setObj s o).binds = s.binds := rfl
@[simp] theorem setObj_dir (s : State) (o : Obj) : (setObj s o).dir = s.dir := rfl
@[simp] theorem setObj_place (s : State) (o : Obj) : (setObj s o).place = s.place := rfl
@[simp] theorem setObj_fab (s : State) (o : Obj) : (setObj s o).fab = s.fab := rfl
@[simp] theorem setObj_cxl (s : State) (o : Obj) : (setObj s o).cxl = s.cxl := rfl
@[simp] theorem setObj_mbx (s : State) (o : Obj) : (setObj s o).mbx = s.mbx := rfl
@[simp] theorem setObj_srv (s : State) (o : Obj) : (setObj s o).srv = s.srv := rfl
@[simp] theorem setObj_alm (s : State) (o : Obj) : (setObj s o).alm = s.alm := rfl
@[simp] theorem setObj_red (s : State) (o : Obj) : (setObj s o).red = s.red := rfl
@[simp] theorem setObj_pwr (s : State) (o : Obj) : (setObj s o).pwr = s.pwr := rfl
@[simp] theorem setObj_boot (s : State) (o : Obj) : (setObj s o).boot = s.boot := rfl
@[simp] theorem setObj_sens (s : State) (o : Obj) : (setObj s o).sens = s.sens := rfl
@[simp] theorem setObj_err (s : State) (o : Obj) : (setObj s o).err = s.err := rfl
@[simp] theorem reg_setObj (s : State) (o : Obj) (key : Nat) : reg (setObj s o) key = reg s key := rfl

/-! Changing a queue. -/

@[simp] theorem setQueue_pending (s : State) (q : Nat) (x : Queue) : (setQueue s q x).pending = s.pending := rfl
@[simp] theorem setQueue_time (s : State) (q : Nat) (x : Queue) : (setQueue s q x).time = s.time := rfl
@[simp] theorem setQueue_fresh (s : State) (q : Nat) (x : Queue) : (setQueue s q x).fresh = s.fresh := rfl
@[simp] theorem setQueue_out (s : State) (q : Nat) (x : Queue) : (setQueue s q x).out = s.out := rfl
@[simp] theorem setQueue_dict (s : State) (q : Nat) (x : Queue) : (setQueue s q x).dict = s.dict := rfl
@[simp] theorem setQueue_mem (s : State) (q : Nat) (x : Queue) : (setQueue s q x).mem = s.mem := rfl
@[simp] theorem setQueue_host (s : State) (q : Nat) (x : Queue) : (setQueue s q x).host = s.host := rfl
@[simp] theorem setQueue_hostPoison (s : State) (q : Nat) (x : Queue) : (setQueue s q x).hostPoison = s.hostPoison := rfl
@[simp] theorem setQueue_objs (s : State) (q : Nat) (x : Queue) : (setQueue s q x).objs = s.objs := rfl
@[simp] theorem setQueue_slots (s : State) (q : Nat) (x : Queue) : (setQueue s q x).slots = s.slots := rfl
@[simp] theorem setQueue_work (s : State) (q : Nat) (x : Queue) : (setQueue s q x).work = s.work := rfl
@[simp] theorem setQueue_tick (s : State) (q : Nat) (x : Queue) : (setQueue s q x).tick = s.tick := rfl
@[simp] theorem setQueue_starts (s : State) (q : Nat) (x : Queue) : (setQueue s q x).starts = s.starts := rfl
@[simp] theorem setQueue_lines (s : State) (q : Nat) (x : Queue) : (setQueue s q x).lines = s.lines := rfl
@[simp] theorem setQueue_guard (s : State) (q : Nat) (x : Queue) : (setQueue s q x).guard = s.guard := rfl
@[simp] theorem setQueue_turn (s : State) (q : Nat) (x : Queue) : (setQueue s q x).turn = s.turn := rfl
@[simp] theorem setQueue_addends (s : State) (q : Nat) (x : Queue) : (setQueue s q x).addends = s.addends := rfl
@[simp] theorem setQueue_arr (s : State) (q : Nat) (x : Queue) : (setQueue s q x).arr = s.arr := rfl
@[simp] theorem setQueue_vec (s : State) (q : Nat) (x : Queue) : (setQueue s q x).vec = s.vec := rfl
@[simp] theorem setQueue_strands (s : State) (q : Nat) (x : Queue) : (setQueue s q x).strands = s.strands := rfl
@[simp] theorem setQueue_binds (s : State) (q : Nat) (x : Queue) : (setQueue s q x).binds = s.binds := rfl
@[simp] theorem setQueue_dir (s : State) (q : Nat) (x : Queue) : (setQueue s q x).dir = s.dir := rfl
@[simp] theorem setQueue_place (s : State) (q : Nat) (x : Queue) : (setQueue s q x).place = s.place := rfl
@[simp] theorem setQueue_fab (s : State) (q : Nat) (x : Queue) : (setQueue s q x).fab = s.fab := rfl
@[simp] theorem setQueue_cxl (s : State) (q : Nat) (x : Queue) : (setQueue s q x).cxl = s.cxl := rfl
@[simp] theorem setQueue_mbx (s : State) (q : Nat) (x : Queue) : (setQueue s q x).mbx = s.mbx := rfl
@[simp] theorem setQueue_srv (s : State) (q : Nat) (x : Queue) : (setQueue s q x).srv = s.srv := rfl
@[simp] theorem setQueue_alm (s : State) (q : Nat) (x : Queue) : (setQueue s q x).alm = s.alm := rfl
@[simp] theorem setQueue_red (s : State) (q : Nat) (x : Queue) : (setQueue s q x).red = s.red := rfl
@[simp] theorem setQueue_pwr (s : State) (q : Nat) (x : Queue) : (setQueue s q x).pwr = s.pwr := rfl
@[simp] theorem setQueue_boot (s : State) (q : Nat) (x : Queue) : (setQueue s q x).boot = s.boot := rfl
@[simp] theorem setQueue_sens (s : State) (q : Nat) (x : Queue) : (setQueue s q x).sens = s.sens := rfl
@[simp] theorem setQueue_err (s : State) (q : Nat) (x : Queue) : (setQueue s q x).err = s.err := rfl
@[simp] theorem reg_setQueue (s : State) (q : Nat) (x : Queue) (key : Nat) : reg (setQueue s q x) key = reg s key := rfl

/-! Changing a descriptor. -/

@[simp] theorem setWork_pending (s : State) (w : Work) : (setWork s w).pending = s.pending := rfl
@[simp] theorem setWork_time (s : State) (w : Work) : (setWork s w).time = s.time := rfl
@[simp] theorem setWork_fresh (s : State) (w : Work) : (setWork s w).fresh = s.fresh := rfl
@[simp] theorem setWork_out (s : State) (w : Work) : (setWork s w).out = s.out := rfl
@[simp] theorem setWork_dict (s : State) (w : Work) : (setWork s w).dict = s.dict := rfl
@[simp] theorem setWork_mem (s : State) (w : Work) : (setWork s w).mem = s.mem := rfl
@[simp] theorem setWork_host (s : State) (w : Work) : (setWork s w).host = s.host := rfl
@[simp] theorem setWork_hostPoison (s : State) (w : Work) : (setWork s w).hostPoison = s.hostPoison := rfl
@[simp] theorem setWork_objs (s : State) (w : Work) : (setWork s w).objs = s.objs := rfl
@[simp] theorem setWork_slots (s : State) (w : Work) : (setWork s w).slots = s.slots := rfl
@[simp] theorem setWork_queues (s : State) (w : Work) : (setWork s w).queues = s.queues := rfl
@[simp] theorem setWork_tick (s : State) (w : Work) : (setWork s w).tick = s.tick := rfl
@[simp] theorem setWork_starts (s : State) (w : Work) : (setWork s w).starts = s.starts := rfl
@[simp] theorem setWork_lines (s : State) (w : Work) : (setWork s w).lines = s.lines := rfl
@[simp] theorem setWork_guard (s : State) (w : Work) : (setWork s w).guard = s.guard := rfl
@[simp] theorem setWork_turn (s : State) (w : Work) : (setWork s w).turn = s.turn := rfl
@[simp] theorem setWork_addends (s : State) (w : Work) : (setWork s w).addends = s.addends := rfl
@[simp] theorem setWork_arr (s : State) (w : Work) : (setWork s w).arr = s.arr := rfl
@[simp] theorem setWork_vec (s : State) (w : Work) : (setWork s w).vec = s.vec := rfl
@[simp] theorem setWork_strands (s : State) (w : Work) : (setWork s w).strands = s.strands := rfl
@[simp] theorem setWork_binds (s : State) (w : Work) : (setWork s w).binds = s.binds := rfl
@[simp] theorem setWork_dir (s : State) (w : Work) : (setWork s w).dir = s.dir := rfl
@[simp] theorem setWork_place (s : State) (w : Work) : (setWork s w).place = s.place := rfl
@[simp] theorem setWork_fab (s : State) (w : Work) : (setWork s w).fab = s.fab := rfl
@[simp] theorem setWork_cxl (s : State) (w : Work) : (setWork s w).cxl = s.cxl := rfl
@[simp] theorem setWork_mbx (s : State) (w : Work) : (setWork s w).mbx = s.mbx := rfl
@[simp] theorem setWork_srv (s : State) (w : Work) : (setWork s w).srv = s.srv := rfl
@[simp] theorem setWork_alm (s : State) (w : Work) : (setWork s w).alm = s.alm := rfl
@[simp] theorem setWork_red (s : State) (w : Work) : (setWork s w).red = s.red := rfl
@[simp] theorem setWork_pwr (s : State) (w : Work) : (setWork s w).pwr = s.pwr := rfl
@[simp] theorem setWork_boot (s : State) (w : Work) : (setWork s w).boot = s.boot := rfl
@[simp] theorem setWork_sens (s : State) (w : Work) : (setWork s w).sens = s.sens := rfl
@[simp] theorem setWork_err (s : State) (w : Work) : (setWork s w).err = s.err := rfl
@[simp] theorem reg_setWork (s : State) (w : Work) (key : Nat) : reg (setWork s w) key = reg s key := rfl

/-! Removing a descriptor. -/

@[simp] theorem delWork_pending (s : State) (r : WRef) : (delWork s r).pending = s.pending := rfl
@[simp] theorem delWork_time (s : State) (r : WRef) : (delWork s r).time = s.time := rfl
@[simp] theorem delWork_fresh (s : State) (r : WRef) : (delWork s r).fresh = s.fresh := rfl
@[simp] theorem delWork_out (s : State) (r : WRef) : (delWork s r).out = s.out := rfl
@[simp] theorem delWork_dict (s : State) (r : WRef) : (delWork s r).dict = s.dict := rfl
@[simp] theorem delWork_mem (s : State) (r : WRef) : (delWork s r).mem = s.mem := rfl
@[simp] theorem delWork_host (s : State) (r : WRef) : (delWork s r).host = s.host := rfl
@[simp] theorem delWork_hostPoison (s : State) (r : WRef) : (delWork s r).hostPoison = s.hostPoison := rfl
@[simp] theorem delWork_objs (s : State) (r : WRef) : (delWork s r).objs = s.objs := rfl
@[simp] theorem delWork_slots (s : State) (r : WRef) : (delWork s r).slots = s.slots := rfl
@[simp] theorem delWork_queues (s : State) (r : WRef) : (delWork s r).queues = s.queues := rfl
@[simp] theorem delWork_tick (s : State) (r : WRef) : (delWork s r).tick = s.tick := rfl
@[simp] theorem delWork_starts (s : State) (r : WRef) : (delWork s r).starts = s.starts := rfl
@[simp] theorem delWork_lines (s : State) (r : WRef) : (delWork s r).lines = s.lines := rfl
@[simp] theorem delWork_guard (s : State) (r : WRef) : (delWork s r).guard = s.guard := rfl
@[simp] theorem delWork_turn (s : State) (r : WRef) : (delWork s r).turn = s.turn := rfl
@[simp] theorem delWork_addends (s : State) (r : WRef) : (delWork s r).addends = s.addends := rfl
@[simp] theorem delWork_arr (s : State) (r : WRef) : (delWork s r).arr = s.arr := rfl
@[simp] theorem delWork_vec (s : State) (r : WRef) : (delWork s r).vec = s.vec := rfl
@[simp] theorem delWork_strands (s : State) (r : WRef) : (delWork s r).strands = s.strands := rfl
@[simp] theorem delWork_binds (s : State) (r : WRef) : (delWork s r).binds = s.binds := rfl
@[simp] theorem delWork_dir (s : State) (r : WRef) : (delWork s r).dir = s.dir := rfl
@[simp] theorem delWork_place (s : State) (r : WRef) : (delWork s r).place = s.place := rfl
@[simp] theorem delWork_fab (s : State) (r : WRef) : (delWork s r).fab = s.fab := rfl
@[simp] theorem delWork_cxl (s : State) (r : WRef) : (delWork s r).cxl = s.cxl := rfl
@[simp] theorem delWork_mbx (s : State) (r : WRef) : (delWork s r).mbx = s.mbx := rfl
@[simp] theorem delWork_srv (s : State) (r : WRef) : (delWork s r).srv = s.srv := rfl
@[simp] theorem delWork_alm (s : State) (r : WRef) : (delWork s r).alm = s.alm := rfl
@[simp] theorem delWork_red (s : State) (r : WRef) : (delWork s r).red = s.red := rfl
@[simp] theorem delWork_pwr (s : State) (r : WRef) : (delWork s r).pwr = s.pwr := rfl
@[simp] theorem delWork_boot (s : State) (r : WRef) : (delWork s r).boot = s.boot := rfl
@[simp] theorem delWork_sens (s : State) (r : WRef) : (delWork s r).sens = s.sens := rfl
@[simp] theorem delWork_err (s : State) (r : WRef) : (delWork s r).err = s.err := rfl
@[simp] theorem reg_delWork (s : State) (r : WRef) (key : Nat) : reg (delWork s r) key = reg s key := rfl

/-! Noting the candidates. -/

@[simp] theorem markReady_pending (s : State) : (markReady s).pending = s.pending := rfl
@[simp] theorem markReady_time (s : State) : (markReady s).time = s.time := rfl
@[simp] theorem markReady_fresh (s : State) : (markReady s).fresh = s.fresh := rfl
@[simp] theorem markReady_out (s : State) : (markReady s).out = s.out := rfl
@[simp] theorem markReady_dict (s : State) : (markReady s).dict = s.dict := rfl
@[simp] theorem markReady_mem (s : State) : (markReady s).mem = s.mem := rfl
@[simp] theorem markReady_host (s : State) : (markReady s).host = s.host := rfl
@[simp] theorem markReady_hostPoison (s : State) : (markReady s).hostPoison = s.hostPoison := rfl
@[simp] theorem markReady_objs (s : State) : (markReady s).objs = s.objs := rfl
@[simp] theorem markReady_slots (s : State) : (markReady s).slots = s.slots := rfl
@[simp] theorem markReady_queues (s : State) : (markReady s).queues = s.queues := rfl
@[simp] theorem markReady_tick (s : State) : (markReady s).tick = s.tick + 1 := rfl
@[simp] theorem markReady_starts (s : State) : (markReady s).starts = s.starts := rfl
@[simp] theorem markReady_lines (s : State) : (markReady s).lines = s.lines := rfl
@[simp] theorem markReady_guard (s : State) : (markReady s).guard = s.guard := rfl
@[simp] theorem markReady_turn (s : State) : (markReady s).turn = s.turn := rfl
@[simp] theorem markReady_addends (s : State) : (markReady s).addends = s.addends := rfl
@[simp] theorem markReady_arr (s : State) : (markReady s).arr = s.arr := rfl
@[simp] theorem markReady_vec (s : State) : (markReady s).vec = s.vec := rfl
@[simp] theorem markReady_strands (s : State) : (markReady s).strands = s.strands := rfl
@[simp] theorem markReady_binds (s : State) : (markReady s).binds = s.binds := rfl
@[simp] theorem markReady_dir (s : State) : (markReady s).dir = s.dir := rfl
@[simp] theorem markReady_place (s : State) : (markReady s).place = s.place := rfl
@[simp] theorem markReady_fab (s : State) : (markReady s).fab = s.fab := rfl
@[simp] theorem markReady_cxl (s : State) : (markReady s).cxl = s.cxl := rfl
@[simp] theorem markReady_mbx (s : State) : (markReady s).mbx = s.mbx := rfl
@[simp] theorem markReady_srv (s : State) : (markReady s).srv = s.srv := rfl
@[simp] theorem markReady_alm (s : State) : (markReady s).alm = s.alm := rfl
@[simp] theorem markReady_red (s : State) : (markReady s).red = s.red := rfl
@[simp] theorem markReady_pwr (s : State) : (markReady s).pwr = s.pwr := rfl
@[simp] theorem markReady_boot (s : State) : (markReady s).boot = s.boot := rfl
@[simp] theorem markReady_sens (s : State) : (markReady s).sens = s.sens := rfl
@[simp] theorem markReady_err (s : State) : (markReady s).err = s.err := rfl
@[simp] theorem reg_markReady (s : State) (key : Nat) : reg (markReady s) key = reg s key := rfl

/-! Changing a vector unit. -/

@[simp] theorem setVec_pending (s : State) (k : Nat) (u : VecUnit) : (setVec s k u).pending = s.pending := rfl
@[simp] theorem setVec_time (s : State) (k : Nat) (u : VecUnit) : (setVec s k u).time = s.time := rfl
@[simp] theorem setVec_fresh (s : State) (k : Nat) (u : VecUnit) : (setVec s k u).fresh = s.fresh := rfl
@[simp] theorem setVec_out (s : State) (k : Nat) (u : VecUnit) : (setVec s k u).out = s.out := rfl
@[simp] theorem setVec_dict (s : State) (k : Nat) (u : VecUnit) : (setVec s k u).dict = s.dict := rfl
@[simp] theorem setVec_mem (s : State) (k : Nat) (u : VecUnit) : (setVec s k u).mem = s.mem := rfl
@[simp] theorem setVec_host (s : State) (k : Nat) (u : VecUnit) : (setVec s k u).host = s.host := rfl
@[simp] theorem setVec_hostPoison (s : State) (k : Nat) (u : VecUnit) : (setVec s k u).hostPoison = s.hostPoison := rfl
@[simp] theorem setVec_objs (s : State) (k : Nat) (u : VecUnit) : (setVec s k u).objs = s.objs := rfl
@[simp] theorem setVec_slots (s : State) (k : Nat) (u : VecUnit) : (setVec s k u).slots = s.slots := rfl
@[simp] theorem setVec_queues (s : State) (k : Nat) (u : VecUnit) : (setVec s k u).queues = s.queues := rfl
@[simp] theorem setVec_work (s : State) (k : Nat) (u : VecUnit) : (setVec s k u).work = s.work := rfl
@[simp] theorem setVec_tick (s : State) (k : Nat) (u : VecUnit) : (setVec s k u).tick = s.tick := rfl
@[simp] theorem setVec_starts (s : State) (k : Nat) (u : VecUnit) : (setVec s k u).starts = s.starts := rfl
@[simp] theorem setVec_lines (s : State) (k : Nat) (u : VecUnit) : (setVec s k u).lines = s.lines := rfl
@[simp] theorem setVec_guard (s : State) (k : Nat) (u : VecUnit) : (setVec s k u).guard = s.guard := rfl
@[simp] theorem setVec_turn (s : State) (k : Nat) (u : VecUnit) : (setVec s k u).turn = s.turn := rfl
@[simp] theorem setVec_addends (s : State) (k : Nat) (u : VecUnit) : (setVec s k u).addends = s.addends := rfl
@[simp] theorem setVec_arr (s : State) (k : Nat) (u : VecUnit) : (setVec s k u).arr = s.arr := rfl
@[simp] theorem setVec_strands (s : State) (k : Nat) (u : VecUnit) : (setVec s k u).strands = s.strands := rfl
@[simp] theorem setVec_binds (s : State) (k : Nat) (u : VecUnit) : (setVec s k u).binds = s.binds := rfl
@[simp] theorem setVec_dir (s : State) (k : Nat) (u : VecUnit) : (setVec s k u).dir = s.dir := rfl
@[simp] theorem setVec_place (s : State) (k : Nat) (u : VecUnit) : (setVec s k u).place = s.place := rfl
@[simp] theorem setVec_fab (s : State) (k : Nat) (u : VecUnit) : (setVec s k u).fab = s.fab := rfl
@[simp] theorem setVec_cxl (s : State) (k : Nat) (u : VecUnit) : (setVec s k u).cxl = s.cxl := rfl
@[simp] theorem setVec_mbx (s : State) (k : Nat) (u : VecUnit) : (setVec s k u).mbx = s.mbx := rfl
@[simp] theorem setVec_srv (s : State) (k : Nat) (u : VecUnit) : (setVec s k u).srv = s.srv := rfl
@[simp] theorem setVec_alm (s : State) (k : Nat) (u : VecUnit) : (setVec s k u).alm = s.alm := rfl
@[simp] theorem setVec_red (s : State) (k : Nat) (u : VecUnit) : (setVec s k u).red = s.red := rfl
@[simp] theorem setVec_pwr (s : State) (k : Nat) (u : VecUnit) : (setVec s k u).pwr = s.pwr := rfl
@[simp] theorem setVec_boot (s : State) (k : Nat) (u : VecUnit) : (setVec s k u).boot = s.boot := rfl
@[simp] theorem setVec_sens (s : State) (k : Nat) (u : VecUnit) : (setVec s k u).sens = s.sens := rfl
@[simp] theorem setVec_err (s : State) (k : Nat) (u : VecUnit) : (setVec s k u).err = s.err := rfl
@[simp] theorem reg_setVec (s : State) (k : Nat) (u : VecUnit) (key : Nat) : reg (setVec s k u) key = reg s key := rfl

/-! Changing an array. -/

@[simp] theorem setArr_pending (s : State) (k : Nat) (a : ArrUnit) : (setArr s k a).pending = s.pending := rfl
@[simp] theorem setArr_time (s : State) (k : Nat) (a : ArrUnit) : (setArr s k a).time = s.time := rfl
@[simp] theorem setArr_fresh (s : State) (k : Nat) (a : ArrUnit) : (setArr s k a).fresh = s.fresh := rfl
@[simp] theorem setArr_out (s : State) (k : Nat) (a : ArrUnit) : (setArr s k a).out = s.out := rfl
@[simp] theorem setArr_dict (s : State) (k : Nat) (a : ArrUnit) : (setArr s k a).dict = s.dict := rfl
@[simp] theorem setArr_mem (s : State) (k : Nat) (a : ArrUnit) : (setArr s k a).mem = s.mem := rfl
@[simp] theorem setArr_host (s : State) (k : Nat) (a : ArrUnit) : (setArr s k a).host = s.host := rfl
@[simp] theorem setArr_hostPoison (s : State) (k : Nat) (a : ArrUnit) : (setArr s k a).hostPoison = s.hostPoison := rfl
@[simp] theorem setArr_objs (s : State) (k : Nat) (a : ArrUnit) : (setArr s k a).objs = s.objs := rfl
@[simp] theorem setArr_slots (s : State) (k : Nat) (a : ArrUnit) : (setArr s k a).slots = s.slots := rfl
@[simp] theorem setArr_queues (s : State) (k : Nat) (a : ArrUnit) : (setArr s k a).queues = s.queues := rfl
@[simp] theorem setArr_work (s : State) (k : Nat) (a : ArrUnit) : (setArr s k a).work = s.work := rfl
@[simp] theorem setArr_tick (s : State) (k : Nat) (a : ArrUnit) : (setArr s k a).tick = s.tick := rfl
@[simp] theorem setArr_starts (s : State) (k : Nat) (a : ArrUnit) : (setArr s k a).starts = s.starts := rfl
@[simp] theorem setArr_lines (s : State) (k : Nat) (a : ArrUnit) : (setArr s k a).lines = s.lines := rfl
@[simp] theorem setArr_guard (s : State) (k : Nat) (a : ArrUnit) : (setArr s k a).guard = s.guard := rfl
@[simp] theorem setArr_turn (s : State) (k : Nat) (a : ArrUnit) : (setArr s k a).turn = s.turn := rfl
@[simp] theorem setArr_addends (s : State) (k : Nat) (a : ArrUnit) : (setArr s k a).addends = s.addends := rfl
@[simp] theorem setArr_vec (s : State) (k : Nat) (a : ArrUnit) : (setArr s k a).vec = s.vec := rfl
@[simp] theorem setArr_strands (s : State) (k : Nat) (a : ArrUnit) : (setArr s k a).strands = s.strands := rfl
@[simp] theorem setArr_binds (s : State) (k : Nat) (a : ArrUnit) : (setArr s k a).binds = s.binds := rfl
@[simp] theorem setArr_dir (s : State) (k : Nat) (a : ArrUnit) : (setArr s k a).dir = s.dir := rfl
@[simp] theorem setArr_place (s : State) (k : Nat) (a : ArrUnit) : (setArr s k a).place = s.place := rfl
@[simp] theorem setArr_fab (s : State) (k : Nat) (a : ArrUnit) : (setArr s k a).fab = s.fab := rfl
@[simp] theorem setArr_cxl (s : State) (k : Nat) (a : ArrUnit) : (setArr s k a).cxl = s.cxl := rfl
@[simp] theorem setArr_mbx (s : State) (k : Nat) (a : ArrUnit) : (setArr s k a).mbx = s.mbx := rfl
@[simp] theorem setArr_srv (s : State) (k : Nat) (a : ArrUnit) : (setArr s k a).srv = s.srv := rfl
@[simp] theorem setArr_alm (s : State) (k : Nat) (a : ArrUnit) : (setArr s k a).alm = s.alm := rfl
@[simp] theorem setArr_red (s : State) (k : Nat) (a : ArrUnit) : (setArr s k a).red = s.red := rfl
@[simp] theorem setArr_pwr (s : State) (k : Nat) (a : ArrUnit) : (setArr s k a).pwr = s.pwr := rfl
@[simp] theorem setArr_boot (s : State) (k : Nat) (a : ArrUnit) : (setArr s k a).boot = s.boot := rfl
@[simp] theorem setArr_sens (s : State) (k : Nat) (a : ArrUnit) : (setArr s k a).sens = s.sens := rfl
@[simp] theorem setArr_err (s : State) (k : Nat) (a : ArrUnit) : (setArr s k a).err = s.err := rfl
@[simp] theorem reg_setArr (s : State) (k : Nat) (a : ArrUnit) (key : Nat) : reg (setArr s k a) key = reg s key := rfl

/-! Changing a port. -/

@[simp] theorem setPort_pending (s : State) (p : Nat) (x : Port) : (setPort s p x).pending = s.pending := rfl
@[simp] theorem setPort_time (s : State) (p : Nat) (x : Port) : (setPort s p x).time = s.time := rfl
@[simp] theorem setPort_fresh (s : State) (p : Nat) (x : Port) : (setPort s p x).fresh = s.fresh := rfl
@[simp] theorem setPort_out (s : State) (p : Nat) (x : Port) : (setPort s p x).out = s.out := rfl
@[simp] theorem setPort_dict (s : State) (p : Nat) (x : Port) : (setPort s p x).dict = s.dict := rfl
@[simp] theorem setPort_mem (s : State) (p : Nat) (x : Port) : (setPort s p x).mem = s.mem := rfl
@[simp] theorem setPort_host (s : State) (p : Nat) (x : Port) : (setPort s p x).host = s.host := rfl
@[simp] theorem setPort_hostPoison (s : State) (p : Nat) (x : Port) : (setPort s p x).hostPoison = s.hostPoison := rfl
@[simp] theorem setPort_objs (s : State) (p : Nat) (x : Port) : (setPort s p x).objs = s.objs := rfl
@[simp] theorem setPort_slots (s : State) (p : Nat) (x : Port) : (setPort s p x).slots = s.slots := rfl
@[simp] theorem setPort_queues (s : State) (p : Nat) (x : Port) : (setPort s p x).queues = s.queues := rfl
@[simp] theorem setPort_work (s : State) (p : Nat) (x : Port) : (setPort s p x).work = s.work := rfl
@[simp] theorem setPort_tick (s : State) (p : Nat) (x : Port) : (setPort s p x).tick = s.tick := rfl
@[simp] theorem setPort_starts (s : State) (p : Nat) (x : Port) : (setPort s p x).starts = s.starts := rfl
@[simp] theorem setPort_lines (s : State) (p : Nat) (x : Port) : (setPort s p x).lines = s.lines := rfl
@[simp] theorem setPort_guard (s : State) (p : Nat) (x : Port) : (setPort s p x).guard = s.guard := rfl
@[simp] theorem setPort_turn (s : State) (p : Nat) (x : Port) : (setPort s p x).turn = s.turn := rfl
@[simp] theorem setPort_addends (s : State) (p : Nat) (x : Port) : (setPort s p x).addends = s.addends := rfl
@[simp] theorem setPort_arr (s : State) (p : Nat) (x : Port) : (setPort s p x).arr = s.arr := rfl
@[simp] theorem setPort_vec (s : State) (p : Nat) (x : Port) : (setPort s p x).vec = s.vec := rfl
@[simp] theorem setPort_strands (s : State) (p : Nat) (x : Port) : (setPort s p x).strands = s.strands := rfl
@[simp] theorem setPort_binds (s : State) (p : Nat) (x : Port) : (setPort s p x).binds = s.binds := rfl
@[simp] theorem setPort_dir (s : State) (p : Nat) (x : Port) : (setPort s p x).dir = s.dir := rfl
@[simp] theorem setPort_place (s : State) (p : Nat) (x : Port) : (setPort s p x).place = s.place := rfl
@[simp] theorem setPort_cxl (s : State) (p : Nat) (x : Port) : (setPort s p x).cxl = s.cxl := rfl
@[simp] theorem setPort_mbx (s : State) (p : Nat) (x : Port) : (setPort s p x).mbx = s.mbx := rfl
@[simp] theorem setPort_srv (s : State) (p : Nat) (x : Port) : (setPort s p x).srv = s.srv := rfl
@[simp] theorem setPort_alm (s : State) (p : Nat) (x : Port) : (setPort s p x).alm = s.alm := rfl
@[simp] theorem setPort_red (s : State) (p : Nat) (x : Port) : (setPort s p x).red = s.red := rfl
@[simp] theorem setPort_pwr (s : State) (p : Nat) (x : Port) : (setPort s p x).pwr = s.pwr := rfl
@[simp] theorem setPort_boot (s : State) (p : Nat) (x : Port) : (setPort s p x).boot = s.boot := rfl
@[simp] theorem setPort_sens (s : State) (p : Nat) (x : Port) : (setPort s p x).sens = s.sens := rfl
@[simp] theorem setPort_err (s : State) (p : Nat) (x : Port) : (setPort s p x).err = s.err := rfl
@[simp] theorem reg_setPort (s : State) (p : Nat) (x : Port) (key : Nat) : reg (setPort s p x) key = reg s key := rfl

/-! Changing a channel. -/

@[simp] theorem setChan_pending (s : State) (c : Nat) (x : Chan) : (setChan s c x).pending = s.pending := rfl
@[simp] theorem setChan_time (s : State) (c : Nat) (x : Chan) : (setChan s c x).time = s.time := rfl
@[simp] theorem setChan_fresh (s : State) (c : Nat) (x : Chan) : (setChan s c x).fresh = s.fresh := rfl
@[simp] theorem setChan_out (s : State) (c : Nat) (x : Chan) : (setChan s c x).out = s.out := rfl
@[simp] theorem setChan_dict (s : State) (c : Nat) (x : Chan) : (setChan s c x).dict = s.dict := rfl
@[simp] theorem setChan_mem (s : State) (c : Nat) (x : Chan) : (setChan s c x).mem = s.mem := rfl
@[simp] theorem setChan_host (s : State) (c : Nat) (x : Chan) : (setChan s c x).host = s.host := rfl
@[simp] theorem setChan_hostPoison (s : State) (c : Nat) (x : Chan) : (setChan s c x).hostPoison = s.hostPoison := rfl
@[simp] theorem setChan_objs (s : State) (c : Nat) (x : Chan) : (setChan s c x).objs = s.objs := rfl
@[simp] theorem setChan_slots (s : State) (c : Nat) (x : Chan) : (setChan s c x).slots = s.slots := rfl
@[simp] theorem setChan_queues (s : State) (c : Nat) (x : Chan) : (setChan s c x).queues = s.queues := rfl
@[simp] theorem setChan_work (s : State) (c : Nat) (x : Chan) : (setChan s c x).work = s.work := rfl
@[simp] theorem setChan_tick (s : State) (c : Nat) (x : Chan) : (setChan s c x).tick = s.tick := rfl
@[simp] theorem setChan_starts (s : State) (c : Nat) (x : Chan) : (setChan s c x).starts = s.starts := rfl
@[simp] theorem setChan_lines (s : State) (c : Nat) (x : Chan) : (setChan s c x).lines = s.lines := rfl
@[simp] theorem setChan_guard (s : State) (c : Nat) (x : Chan) : (setChan s c x).guard = s.guard := rfl
@[simp] theorem setChan_turn (s : State) (c : Nat) (x : Chan) : (setChan s c x).turn = s.turn := rfl
@[simp] theorem setChan_addends (s : State) (c : Nat) (x : Chan) : (setChan s c x).addends = s.addends := rfl
@[simp] theorem setChan_arr (s : State) (c : Nat) (x : Chan) : (setChan s c x).arr = s.arr := rfl
@[simp] theorem setChan_vec (s : State) (c : Nat) (x : Chan) : (setChan s c x).vec = s.vec := rfl
@[simp] theorem setChan_strands (s : State) (c : Nat) (x : Chan) : (setChan s c x).strands = s.strands := rfl
@[simp] theorem setChan_binds (s : State) (c : Nat) (x : Chan) : (setChan s c x).binds = s.binds := rfl
@[simp] theorem setChan_dir (s : State) (c : Nat) (x : Chan) : (setChan s c x).dir = s.dir := rfl
@[simp] theorem setChan_place (s : State) (c : Nat) (x : Chan) : (setChan s c x).place = s.place := rfl
@[simp] theorem setChan_fab (s : State) (c : Nat) (x : Chan) : (setChan s c x).fab = s.fab := rfl
@[simp] theorem setChan_cxl (s : State) (c : Nat) (x : Chan) : (setChan s c x).cxl = s.cxl := rfl
@[simp] theorem setChan_srv (s : State) (c : Nat) (x : Chan) : (setChan s c x).srv = s.srv := rfl
@[simp] theorem setChan_alm (s : State) (c : Nat) (x : Chan) : (setChan s c x).alm = s.alm := rfl
@[simp] theorem setChan_red (s : State) (c : Nat) (x : Chan) : (setChan s c x).red = s.red := rfl
@[simp] theorem setChan_pwr (s : State) (c : Nat) (x : Chan) : (setChan s c x).pwr = s.pwr := rfl
@[simp] theorem setChan_boot (s : State) (c : Nat) (x : Chan) : (setChan s c x).boot = s.boot := rfl
@[simp] theorem setChan_sens (s : State) (c : Nat) (x : Chan) : (setChan s c x).sens = s.sens := rfl
@[simp] theorem setChan_err (s : State) (c : Nat) (x : Chan) : (setChan s c x).err = s.err := rfl
@[simp] theorem reg_setChan (s : State) (c : Nat) (x : Chan) (key : Nat) : reg (setChan s c x) key = reg s key := rfl

/-! Changing a page move. -/

@[simp] theorem setMove_pending (s : State) (m m' : Move) : (setMove s m m').pending = s.pending := rfl
@[simp] theorem setMove_time (s : State) (m m' : Move) : (setMove s m m').time = s.time := rfl
@[simp] theorem setMove_fresh (s : State) (m m' : Move) : (setMove s m m').fresh = s.fresh := rfl
@[simp] theorem setMove_out (s : State) (m m' : Move) : (setMove s m m').out = s.out := rfl
@[simp] theorem setMove_dict (s : State) (m m' : Move) : (setMove s m m').dict = s.dict := rfl
@[simp] theorem setMove_mem (s : State) (m m' : Move) : (setMove s m m').mem = s.mem := rfl
@[simp] theorem setMove_host (s : State) (m m' : Move) : (setMove s m m').host = s.host := rfl
@[simp] theorem setMove_hostPoison (s : State) (m m' : Move) : (setMove s m m').hostPoison = s.hostPoison := rfl
@[simp] theorem setMove_objs (s : State) (m m' : Move) : (setMove s m m').objs = s.objs := rfl
@[simp] theorem setMove_slots (s : State) (m m' : Move) : (setMove s m m').slots = s.slots := rfl
@[simp] theorem setMove_queues (s : State) (m m' : Move) : (setMove s m m').queues = s.queues := rfl
@[simp] theorem setMove_work (s : State) (m m' : Move) : (setMove s m m').work = s.work := rfl
@[simp] theorem setMove_tick (s : State) (m m' : Move) : (setMove s m m').tick = s.tick := rfl
@[simp] theorem setMove_starts (s : State) (m m' : Move) : (setMove s m m').starts = s.starts := rfl
@[simp] theorem setMove_lines (s : State) (m m' : Move) : (setMove s m m').lines = s.lines := rfl
@[simp] theorem setMove_guard (s : State) (m m' : Move) : (setMove s m m').guard = s.guard := rfl
@[simp] theorem setMove_turn (s : State) (m m' : Move) : (setMove s m m').turn = s.turn := rfl
@[simp] theorem setMove_addends (s : State) (m m' : Move) : (setMove s m m').addends = s.addends := rfl
@[simp] theorem setMove_arr (s : State) (m m' : Move) : (setMove s m m').arr = s.arr := rfl
@[simp] theorem setMove_vec (s : State) (m m' : Move) : (setMove s m m').vec = s.vec := rfl
@[simp] theorem setMove_strands (s : State) (m m' : Move) : (setMove s m m').strands = s.strands := rfl
@[simp] theorem setMove_binds (s : State) (m m' : Move) : (setMove s m m').binds = s.binds := rfl
@[simp] theorem setMove_dir (s : State) (m m' : Move) : (setMove s m m').dir = s.dir := rfl
@[simp] theorem setMove_fab (s : State) (m m' : Move) : (setMove s m m').fab = s.fab := rfl
@[simp] theorem setMove_cxl (s : State) (m m' : Move) : (setMove s m m').cxl = s.cxl := rfl
@[simp] theorem setMove_mbx (s : State) (m m' : Move) : (setMove s m m').mbx = s.mbx := rfl
@[simp] theorem setMove_srv (s : State) (m m' : Move) : (setMove s m m').srv = s.srv := rfl
@[simp] theorem setMove_alm (s : State) (m m' : Move) : (setMove s m m').alm = s.alm := rfl
@[simp] theorem setMove_red (s : State) (m m' : Move) : (setMove s m m').red = s.red := rfl
@[simp] theorem setMove_pwr (s : State) (m m' : Move) : (setMove s m m').pwr = s.pwr := rfl
@[simp] theorem setMove_boot (s : State) (m m' : Move) : (setMove s m m').boot = s.boot := rfl
@[simp] theorem setMove_sens (s : State) (m m' : Move) : (setMove s m m').sens = s.sens := rfl
@[simp] theorem setMove_err (s : State) (m m' : Move) : (setMove s m m').err = s.err := rfl
@[simp] theorem reg_setMove (s : State) (m m' : Move) (key : Nat) : reg (setMove s m m') key = reg s key := rfl

/-! Changing a row migration. -/

@[simp] theorem setMigration_pending (s : State) (m : Migration) : (setMigration s m).pending = s.pending := rfl
@[simp] theorem setMigration_time (s : State) (m : Migration) : (setMigration s m).time = s.time := rfl
@[simp] theorem setMigration_fresh (s : State) (m : Migration) : (setMigration s m).fresh = s.fresh := rfl
@[simp] theorem setMigration_out (s : State) (m : Migration) : (setMigration s m).out = s.out := rfl
@[simp] theorem setMigration_dict (s : State) (m : Migration) : (setMigration s m).dict = s.dict := rfl
@[simp] theorem setMigration_mem (s : State) (m : Migration) : (setMigration s m).mem = s.mem := rfl
@[simp] theorem setMigration_host (s : State) (m : Migration) : (setMigration s m).host = s.host := rfl
@[simp] theorem setMigration_hostPoison (s : State) (m : Migration) : (setMigration s m).hostPoison = s.hostPoison := rfl
@[simp] theorem setMigration_objs (s : State) (m : Migration) : (setMigration s m).objs = s.objs := rfl
@[simp] theorem setMigration_slots (s : State) (m : Migration) : (setMigration s m).slots = s.slots := rfl
@[simp] theorem setMigration_queues (s : State) (m : Migration) : (setMigration s m).queues = s.queues := rfl
@[simp] theorem setMigration_work (s : State) (m : Migration) : (setMigration s m).work = s.work := rfl
@[simp] theorem setMigration_tick (s : State) (m : Migration) : (setMigration s m).tick = s.tick := rfl
@[simp] theorem setMigration_starts (s : State) (m : Migration) : (setMigration s m).starts = s.starts := rfl
@[simp] theorem setMigration_lines (s : State) (m : Migration) : (setMigration s m).lines = s.lines := rfl
@[simp] theorem setMigration_guard (s : State) (m : Migration) : (setMigration s m).guard = s.guard := rfl
@[simp] theorem setMigration_turn (s : State) (m : Migration) : (setMigration s m).turn = s.turn := rfl
@[simp] theorem setMigration_addends (s : State) (m : Migration) : (setMigration s m).addends = s.addends := rfl
@[simp] theorem setMigration_arr (s : State) (m : Migration) : (setMigration s m).arr = s.arr := rfl
@[simp] theorem setMigration_vec (s : State) (m : Migration) : (setMigration s m).vec = s.vec := rfl
@[simp] theorem setMigration_strands (s : State) (m : Migration) : (setMigration s m).strands = s.strands := rfl
@[simp] theorem setMigration_binds (s : State) (m : Migration) : (setMigration s m).binds = s.binds := rfl
@[simp] theorem setMigration_place (s : State) (m : Migration) : (setMigration s m).place = s.place := rfl
@[simp] theorem setMigration_fab (s : State) (m : Migration) : (setMigration s m).fab = s.fab := rfl
@[simp] theorem setMigration_cxl (s : State) (m : Migration) : (setMigration s m).cxl = s.cxl := rfl
@[simp] theorem setMigration_mbx (s : State) (m : Migration) : (setMigration s m).mbx = s.mbx := rfl
@[simp] theorem setMigration_srv (s : State) (m : Migration) : (setMigration s m).srv = s.srv := rfl
@[simp] theorem setMigration_alm (s : State) (m : Migration) : (setMigration s m).alm = s.alm := rfl
@[simp] theorem setMigration_red (s : State) (m : Migration) : (setMigration s m).red = s.red := rfl
@[simp] theorem setMigration_pwr (s : State) (m : Migration) : (setMigration s m).pwr = s.pwr := rfl
@[simp] theorem setMigration_boot (s : State) (m : Migration) : (setMigration s m).boot = s.boot := rfl
@[simp] theorem setMigration_sens (s : State) (m : Migration) : (setMigration s m).sens = s.sens := rfl
@[simp] theorem setMigration_err (s : State) (m : Migration) : (setMigration s m).err = s.err := rfl
@[simp] theorem reg_setMigration (s : State) (m : Migration) (key : Nat) : reg (setMigration s m) key = reg s key := rfl

/-! Changing a reduction context. -/

@[simp] theorem setCtx_pending (s : State) (c : RedCtx) : (setCtx s c).pending = s.pending := rfl
@[simp] theorem setCtx_time (s : State) (c : RedCtx) : (setCtx s c).time = s.time := rfl
@[simp] theorem setCtx_fresh (s : State) (c : RedCtx) : (setCtx s c).fresh = s.fresh := rfl
@[simp] theorem setCtx_out (s : State) (c : RedCtx) : (setCtx s c).out = s.out := rfl
@[simp] theorem setCtx_dict (s : State) (c : RedCtx) : (setCtx s c).dict = s.dict := rfl
@[simp] theorem setCtx_mem (s : State) (c : RedCtx) : (setCtx s c).mem = s.mem := rfl
@[simp] theorem setCtx_host (s : State) (c : RedCtx) : (setCtx s c).host = s.host := rfl
@[simp] theorem setCtx_hostPoison (s : State) (c : RedCtx) : (setCtx s c).hostPoison = s.hostPoison := rfl
@[simp] theorem setCtx_objs (s : State) (c : RedCtx) : (setCtx s c).objs = s.objs := rfl
@[simp] theorem setCtx_slots (s : State) (c : RedCtx) : (setCtx s c).slots = s.slots := rfl
@[simp] theorem setCtx_queues (s : State) (c : RedCtx) : (setCtx s c).queues = s.queues := rfl
@[simp] theorem setCtx_work (s : State) (c : RedCtx) : (setCtx s c).work = s.work := rfl
@[simp] theorem setCtx_tick (s : State) (c : RedCtx) : (setCtx s c).tick = s.tick := rfl
@[simp] theorem setCtx_starts (s : State) (c : RedCtx) : (setCtx s c).starts = s.starts := rfl
@[simp] theorem setCtx_lines (s : State) (c : RedCtx) : (setCtx s c).lines = s.lines := rfl
@[simp] theorem setCtx_guard (s : State) (c : RedCtx) : (setCtx s c).guard = s.guard := rfl
@[simp] theorem setCtx_turn (s : State) (c : RedCtx) : (setCtx s c).turn = s.turn := rfl
@[simp] theorem setCtx_addends (s : State) (c : RedCtx) : (setCtx s c).addends = s.addends := rfl
@[simp] theorem setCtx_arr (s : State) (c : RedCtx) : (setCtx s c).arr = s.arr := rfl
@[simp] theorem setCtx_vec (s : State) (c : RedCtx) : (setCtx s c).vec = s.vec := rfl
@[simp] theorem setCtx_strands (s : State) (c : RedCtx) : (setCtx s c).strands = s.strands := rfl
@[simp] theorem setCtx_binds (s : State) (c : RedCtx) : (setCtx s c).binds = s.binds := rfl
@[simp] theorem setCtx_dir (s : State) (c : RedCtx) : (setCtx s c).dir = s.dir := rfl
@[simp] theorem setCtx_place (s : State) (c : RedCtx) : (setCtx s c).place = s.place := rfl
@[simp] theorem setCtx_fab (s : State) (c : RedCtx) : (setCtx s c).fab = s.fab := rfl
@[simp] theorem setCtx_cxl (s : State) (c : RedCtx) : (setCtx s c).cxl = s.cxl := rfl
@[simp] theorem setCtx_mbx (s : State) (c : RedCtx) : (setCtx s c).mbx = s.mbx := rfl
@[simp] theorem setCtx_srv (s : State) (c : RedCtx) : (setCtx s c).srv = s.srv := rfl
@[simp] theorem setCtx_alm (s : State) (c : RedCtx) : (setCtx s c).alm = s.alm := rfl
@[simp] theorem setCtx_pwr (s : State) (c : RedCtx) : (setCtx s c).pwr = s.pwr := rfl
@[simp] theorem setCtx_boot (s : State) (c : RedCtx) : (setCtx s c).boot = s.boot := rfl
@[simp] theorem setCtx_sens (s : State) (c : RedCtx) : (setCtx s c).sens = s.sens := rfl
@[simp] theorem setCtx_err (s : State) (c : RedCtx) : (setCtx s c).err = s.err := rfl
@[simp] theorem reg_setCtx (s : State) (c : RedCtx) (key : Nat) : reg (setCtx s c) key = reg s key := rfl

/-! Changing a launch. -/

@[simp] theorem setLaunch_pending (s : State) (l : Launch) : (setLaunch s l).pending = s.pending := rfl
@[simp] theorem setLaunch_time (s : State) (l : Launch) : (setLaunch s l).time = s.time := rfl
@[simp] theorem setLaunch_fresh (s : State) (l : Launch) : (setLaunch s l).fresh = s.fresh := rfl
@[simp] theorem setLaunch_out (s : State) (l : Launch) : (setLaunch s l).out = s.out := rfl
@[simp] theorem setLaunch_dict (s : State) (l : Launch) : (setLaunch s l).dict = s.dict := rfl
@[simp] theorem setLaunch_mem (s : State) (l : Launch) : (setLaunch s l).mem = s.mem := rfl
@[simp] theorem setLaunch_host (s : State) (l : Launch) : (setLaunch s l).host = s.host := rfl
@[simp] theorem setLaunch_hostPoison (s : State) (l : Launch) : (setLaunch s l).hostPoison = s.hostPoison := rfl
@[simp] theorem setLaunch_objs (s : State) (l : Launch) : (setLaunch s l).objs = s.objs := rfl
@[simp] theorem setLaunch_slots (s : State) (l : Launch) : (setLaunch s l).slots = s.slots := rfl
@[simp] theorem setLaunch_queues (s : State) (l : Launch) : (setLaunch s l).queues = s.queues := rfl
@[simp] theorem setLaunch_work (s : State) (l : Launch) : (setLaunch s l).work = s.work := rfl
@[simp] theorem setLaunch_tick (s : State) (l : Launch) : (setLaunch s l).tick = s.tick := rfl
@[simp] theorem setLaunch_starts (s : State) (l : Launch) : (setLaunch s l).starts = s.starts := rfl
@[simp] theorem setLaunch_lines (s : State) (l : Launch) : (setLaunch s l).lines = s.lines := rfl
@[simp] theorem setLaunch_guard (s : State) (l : Launch) : (setLaunch s l).guard = s.guard := rfl
@[simp] theorem setLaunch_turn (s : State) (l : Launch) : (setLaunch s l).turn = s.turn := rfl
@[simp] theorem setLaunch_addends (s : State) (l : Launch) : (setLaunch s l).addends = s.addends := rfl
@[simp] theorem setLaunch_arr (s : State) (l : Launch) : (setLaunch s l).arr = s.arr := rfl
@[simp] theorem setLaunch_vec (s : State) (l : Launch) : (setLaunch s l).vec = s.vec := rfl
@[simp] theorem setLaunch_binds (s : State) (l : Launch) : (setLaunch s l).binds = s.binds := rfl
@[simp] theorem setLaunch_dir (s : State) (l : Launch) : (setLaunch s l).dir = s.dir := rfl
@[simp] theorem setLaunch_place (s : State) (l : Launch) : (setLaunch s l).place = s.place := rfl
@[simp] theorem setLaunch_fab (s : State) (l : Launch) : (setLaunch s l).fab = s.fab := rfl
@[simp] theorem setLaunch_cxl (s : State) (l : Launch) : (setLaunch s l).cxl = s.cxl := rfl
@[simp] theorem setLaunch_mbx (s : State) (l : Launch) : (setLaunch s l).mbx = s.mbx := rfl
@[simp] theorem setLaunch_srv (s : State) (l : Launch) : (setLaunch s l).srv = s.srv := rfl
@[simp] theorem setLaunch_alm (s : State) (l : Launch) : (setLaunch s l).alm = s.alm := rfl
@[simp] theorem setLaunch_red (s : State) (l : Launch) : (setLaunch s l).red = s.red := rfl
@[simp] theorem setLaunch_pwr (s : State) (l : Launch) : (setLaunch s l).pwr = s.pwr := rfl
@[simp] theorem setLaunch_boot (s : State) (l : Launch) : (setLaunch s l).boot = s.boot := rfl
@[simp] theorem setLaunch_sens (s : State) (l : Launch) : (setLaunch s l).sens = s.sens := rfl
@[simp] theorem setLaunch_err (s : State) (l : Launch) : (setLaunch s l).err = s.err := rfl
@[simp] theorem reg_setLaunch (s : State) (l : Launch) (key : Nat) : reg (setLaunch s l) key = reg s key := rfl

/-! A descriptor joining a line, and leaving lines. -/

@[simp] theorem joinLine_pending (s : State) (k : Nat) (r : WRef) : (joinLine s k r).pending = s.pending := by unfold joinLine; split <;> rfl
@[simp] theorem joinLine_time (s : State) (k : Nat) (r : WRef) : (joinLine s k r).time = s.time := by unfold joinLine; split <;> rfl
@[simp] theorem joinLine_fresh (s : State) (k : Nat) (r : WRef) : (joinLine s k r).fresh = s.fresh := by unfold joinLine; split <;> rfl
@[simp] theorem joinLine_out (s : State) (k : Nat) (r : WRef) : (joinLine s k r).out = s.out := by unfold joinLine; split <;> rfl
@[simp] theorem joinLine_dict (s : State) (k : Nat) (r : WRef) : (joinLine s k r).dict = s.dict := by unfold joinLine; split <;> rfl
@[simp] theorem joinLine_mem (s : State) (k : Nat) (r : WRef) : (joinLine s k r).mem = s.mem := by unfold joinLine; split <;> rfl
@[simp] theorem joinLine_host (s : State) (k : Nat) (r : WRef) : (joinLine s k r).host = s.host := by unfold joinLine; split <;> rfl
@[simp] theorem joinLine_hostPoison (s : State) (k : Nat) (r : WRef) : (joinLine s k r).hostPoison = s.hostPoison := by unfold joinLine; split <;> rfl
@[simp] theorem joinLine_objs (s : State) (k : Nat) (r : WRef) : (joinLine s k r).objs = s.objs := by unfold joinLine; split <;> rfl
@[simp] theorem joinLine_slots (s : State) (k : Nat) (r : WRef) : (joinLine s k r).slots = s.slots := by unfold joinLine; split <;> rfl
@[simp] theorem joinLine_queues (s : State) (k : Nat) (r : WRef) : (joinLine s k r).queues = s.queues := by unfold joinLine; split <;> rfl
@[simp] theorem joinLine_work (s : State) (k : Nat) (r : WRef) : (joinLine s k r).work = s.work := by unfold joinLine; split <;> rfl
@[simp] theorem joinLine_tick (s : State) (k : Nat) (r : WRef) : (joinLine s k r).tick = s.tick := by unfold joinLine; split <;> rfl
@[simp] theorem joinLine_starts (s : State) (k : Nat) (r : WRef) : (joinLine s k r).starts = s.starts := by unfold joinLine; split <;> rfl
@[simp] theorem joinLine_guard (s : State) (k : Nat) (r : WRef) : (joinLine s k r).guard = s.guard := by unfold joinLine; split <;> rfl
@[simp] theorem joinLine_turn (s : State) (k : Nat) (r : WRef) : (joinLine s k r).turn = s.turn := by unfold joinLine; split <;> rfl
@[simp] theorem joinLine_addends (s : State) (k : Nat) (r : WRef) : (joinLine s k r).addends = s.addends := by unfold joinLine; split <;> rfl
@[simp] theorem joinLine_arr (s : State) (k : Nat) (r : WRef) : (joinLine s k r).arr = s.arr := by unfold joinLine; split <;> rfl
@[simp] theorem joinLine_vec (s : State) (k : Nat) (r : WRef) : (joinLine s k r).vec = s.vec := by unfold joinLine; split <;> rfl
@[simp] theorem joinLine_strands (s : State) (k : Nat) (r : WRef) : (joinLine s k r).strands = s.strands := by unfold joinLine; split <;> rfl
@[simp] theorem joinLine_binds (s : State) (k : Nat) (r : WRef) : (joinLine s k r).binds = s.binds := by unfold joinLine; split <;> rfl
@[simp] theorem joinLine_dir (s : State) (k : Nat) (r : WRef) : (joinLine s k r).dir = s.dir := by unfold joinLine; split <;> rfl
@[simp] theorem joinLine_place (s : State) (k : Nat) (r : WRef) : (joinLine s k r).place = s.place := by unfold joinLine; split <;> rfl
@[simp] theorem joinLine_fab (s : State) (k : Nat) (r : WRef) : (joinLine s k r).fab = s.fab := by unfold joinLine; split <;> rfl
@[simp] theorem joinLine_cxl (s : State) (k : Nat) (r : WRef) : (joinLine s k r).cxl = s.cxl := by unfold joinLine; split <;> rfl
@[simp] theorem joinLine_mbx (s : State) (k : Nat) (r : WRef) : (joinLine s k r).mbx = s.mbx := by unfold joinLine; split <;> rfl
@[simp] theorem joinLine_srv (s : State) (k : Nat) (r : WRef) : (joinLine s k r).srv = s.srv := by unfold joinLine; split <;> rfl
@[simp] theorem joinLine_alm (s : State) (k : Nat) (r : WRef) : (joinLine s k r).alm = s.alm := by unfold joinLine; split <;> rfl
@[simp] theorem joinLine_red (s : State) (k : Nat) (r : WRef) : (joinLine s k r).red = s.red := by unfold joinLine; split <;> rfl
@[simp] theorem joinLine_pwr (s : State) (k : Nat) (r : WRef) : (joinLine s k r).pwr = s.pwr := by unfold joinLine; split <;> rfl
@[simp] theorem joinLine_boot (s : State) (k : Nat) (r : WRef) : (joinLine s k r).boot = s.boot := by unfold joinLine; split <;> rfl
@[simp] theorem joinLine_sens (s : State) (k : Nat) (r : WRef) : (joinLine s k r).sens = s.sens := by unfold joinLine; split <;> rfl
@[simp] theorem joinLine_err (s : State) (k : Nat) (r : WRef) : (joinLine s k r).err = s.err := by unfold joinLine; split <;> rfl
/-- The descriptor stands in the line it joins. -/
theorem joinLine_lines (s : State) (k : Nat) (r : WRef) :
    (joinLine s k r).lines = if (lineOf s k).contains r then s.lines else Tab.set [] s.lines k (lineOf s k ++ [r]) := by
  unfold joinLine; split <;> rfl
/-- Leaving lines writes nothing but lines. -/
theorem leaveLines_eq (s : State) (r : WRef) (ks : List Nat) : leaveLines s r ks = { s with lines := (leaveLines s r ks).lines } := by
  induction ks generalizing s with
  | nil => rfl
  | cons k ks ih => exact ih _
@[simp] theorem leaveLines_pending (s : State) (r : WRef) (ks : List Nat) : (leaveLines s r ks).pending = s.pending := by rw [leaveLines_eq]
@[simp] theorem leaveLines_time (s : State) (r : WRef) (ks : List Nat) : (leaveLines s r ks).time = s.time := by rw [leaveLines_eq]
@[simp] theorem leaveLines_fresh (s : State) (r : WRef) (ks : List Nat) : (leaveLines s r ks).fresh = s.fresh := by rw [leaveLines_eq]
@[simp] theorem leaveLines_out (s : State) (r : WRef) (ks : List Nat) : (leaveLines s r ks).out = s.out := by rw [leaveLines_eq]
@[simp] theorem leaveLines_dict (s : State) (r : WRef) (ks : List Nat) : (leaveLines s r ks).dict = s.dict := by rw [leaveLines_eq]
@[simp] theorem leaveLines_mem (s : State) (r : WRef) (ks : List Nat) : (leaveLines s r ks).mem = s.mem := by rw [leaveLines_eq]
@[simp] theorem leaveLines_host (s : State) (r : WRef) (ks : List Nat) : (leaveLines s r ks).host = s.host := by rw [leaveLines_eq]
@[simp] theorem leaveLines_hostPoison (s : State) (r : WRef) (ks : List Nat) : (leaveLines s r ks).hostPoison = s.hostPoison := by rw [leaveLines_eq]
@[simp] theorem leaveLines_objs (s : State) (r : WRef) (ks : List Nat) : (leaveLines s r ks).objs = s.objs := by rw [leaveLines_eq]
@[simp] theorem leaveLines_slots (s : State) (r : WRef) (ks : List Nat) : (leaveLines s r ks).slots = s.slots := by rw [leaveLines_eq]
@[simp] theorem leaveLines_queues (s : State) (r : WRef) (ks : List Nat) : (leaveLines s r ks).queues = s.queues := by rw [leaveLines_eq]
@[simp] theorem leaveLines_work (s : State) (r : WRef) (ks : List Nat) : (leaveLines s r ks).work = s.work := by rw [leaveLines_eq]
@[simp] theorem leaveLines_tick (s : State) (r : WRef) (ks : List Nat) : (leaveLines s r ks).tick = s.tick := by rw [leaveLines_eq]
@[simp] theorem leaveLines_starts (s : State) (r : WRef) (ks : List Nat) : (leaveLines s r ks).starts = s.starts := by rw [leaveLines_eq]
@[simp] theorem leaveLines_guard (s : State) (r : WRef) (ks : List Nat) : (leaveLines s r ks).guard = s.guard := by rw [leaveLines_eq]
@[simp] theorem leaveLines_turn (s : State) (r : WRef) (ks : List Nat) : (leaveLines s r ks).turn = s.turn := by rw [leaveLines_eq]
@[simp] theorem leaveLines_addends (s : State) (r : WRef) (ks : List Nat) : (leaveLines s r ks).addends = s.addends := by rw [leaveLines_eq]
@[simp] theorem leaveLines_arr (s : State) (r : WRef) (ks : List Nat) : (leaveLines s r ks).arr = s.arr := by rw [leaveLines_eq]
@[simp] theorem leaveLines_vec (s : State) (r : WRef) (ks : List Nat) : (leaveLines s r ks).vec = s.vec := by rw [leaveLines_eq]
@[simp] theorem leaveLines_strands (s : State) (r : WRef) (ks : List Nat) : (leaveLines s r ks).strands = s.strands := by rw [leaveLines_eq]
@[simp] theorem leaveLines_binds (s : State) (r : WRef) (ks : List Nat) : (leaveLines s r ks).binds = s.binds := by rw [leaveLines_eq]
@[simp] theorem leaveLines_dir (s : State) (r : WRef) (ks : List Nat) : (leaveLines s r ks).dir = s.dir := by rw [leaveLines_eq]
@[simp] theorem leaveLines_place (s : State) (r : WRef) (ks : List Nat) : (leaveLines s r ks).place = s.place := by rw [leaveLines_eq]
@[simp] theorem leaveLines_fab (s : State) (r : WRef) (ks : List Nat) : (leaveLines s r ks).fab = s.fab := by rw [leaveLines_eq]
@[simp] theorem leaveLines_cxl (s : State) (r : WRef) (ks : List Nat) : (leaveLines s r ks).cxl = s.cxl := by rw [leaveLines_eq]
@[simp] theorem leaveLines_mbx (s : State) (r : WRef) (ks : List Nat) : (leaveLines s r ks).mbx = s.mbx := by rw [leaveLines_eq]
@[simp] theorem leaveLines_srv (s : State) (r : WRef) (ks : List Nat) : (leaveLines s r ks).srv = s.srv := by rw [leaveLines_eq]
@[simp] theorem leaveLines_alm (s : State) (r : WRef) (ks : List Nat) : (leaveLines s r ks).alm = s.alm := by rw [leaveLines_eq]
@[simp] theorem leaveLines_red (s : State) (r : WRef) (ks : List Nat) : (leaveLines s r ks).red = s.red := by rw [leaveLines_eq]
@[simp] theorem leaveLines_pwr (s : State) (r : WRef) (ks : List Nat) : (leaveLines s r ks).pwr = s.pwr := by rw [leaveLines_eq]
@[simp] theorem leaveLines_boot (s : State) (r : WRef) (ks : List Nat) : (leaveLines s r ks).boot = s.boot := by rw [leaveLines_eq]
@[simp] theorem leaveLines_sens (s : State) (r : WRef) (ks : List Nat) : (leaveLines s r ks).sens = s.sens := by rw [leaveLines_eq]
@[simp] theorem leaveLines_err (s : State) (r : WRef) (ks : List Nat) : (leaveLines s r ks).err = s.err := by rw [leaveLines_eq]

end Sys2Proof.Machine
end

