-- ==== Sys2Proof/Laws/Vector.lean ====
section
/-! SUPPORT. Laws of the vector engine's shared operations: what issuing one instruction leaves. -/

namespace Sys2Proof.Machine
open Sys2Proof Sys2Proof.Machine.Claim

/-- A vector unit reads as it was set. -/
@[simp] theorem vecOf_setVec_same (s : State) (k : Nat) (u : VecUnit) : vecOf (setVec s k u) k = u :=
  Tab.get_set_same _ _ _ _

/-- Setting a vector unit leaves every other. -/
theorem vecOf_setVec_ne (s : State) {k j : Nat} (u : VecUnit) (h : j ≠ k) : vecOf (setVec s k u) j = vecOf s j :=
  Tab.get_set_ne _ _ _ _ h

/-- A list padded to `n` and cut to `n` has `n` entries. -/
theorem length_padTake {α : Type} (l : List α) (a : α) (n : Nat) : ((l ++ List.replicate n a).take n).length = n := by
  simp

/-- A list padded and cut reads as before within it, as the padding after it. -/
theorem getD_padTake {α : Type} (l : List α) (a : α) (n k : Nat) (h : k < n) :
    ((l ++ List.replicate n a).take n).getD k a = l.getD k a := by
  rw [List.getD_eq_getElem _ _ (by simp; omega), List.getElem_take]
  by_cases hf : k < l.length
  · rw [List.getElem_append_left hf, List.getD_eq_getElem _ _ hf]
  · rw [List.getElem_append_right (by omega), List.getElem_replicate, List.getD_eq_default _ _ (by omega)]

/-- A register has 512 lanes. -/
@[simp] theorem VecUnit.reg_length (u : VecUnit) (r : Nat) : (u.reg r).length = 512 := length_padTake _ _ 512

/-- A predicate has 512 lanes. -/
@[simp] theorem VecUnit.pred_length (u : VecUnit) (q : Nat) : (u.pred q).length = 512 := length_padTake _ _ 512

/-- The mask of an instruction has 512 lanes. -/
@[simp] theorem VRun.mask_length (x : VRun) : x.mask.length = 512 := by
  unfold VRun.mask; split <;> simp

/-- A unit that issues holds the descriptor it runs. -/
theorem Claim.Issues.found {s : State} {tile op : Nat} {w : Work} {i : VIns} (h : Issues s tile op w i) :
    findWork s w.ref = some w := by
  have hn := h.next
  unfold nextIns at hn
  dsimp only at hn
  split at hn
  · cases hn
  · split at hn
    · cases hn
    · rename_i r _ v hv
      split at hn
      · cases hn
        rw [findWork_ref hv]; exact hv
      · cases hn

/-- Issuing an instruction that touches neither memory nor the drain retires its result. -/
theorem vecPure_issues {s : State} {tile op : Nat} {w : Work} {i : VIns} (f : VRun → VOut)
    (h : Issues s tile op w i) : vecPure op f tile s = retire s tile w (vecOf s tile) (f (vecRun s tile w i)) := by
  have hn := h.next
  have ho := h.code
  have hr := h.room
  unfold vecPure vecStep
  rw [hn]
  dsimp only
  rw [if_neg (by rintro (h | h); exacts [h ho, by omega])]
  show retire (if w.vers = w.vers then s else setWork s { w with vers := w.vers }) tile w (vecOf s tile) _ = _
  rw [if_pos rfl]

/-- Issuing an instruction whose body ends, and notes no version, retires what the body leaves. -/
theorem vecStep_issues {s : State} {tile op : Nat} {w : Work} {i : VIns} (body : VRun → Eng VOut) {o : VOut} {c : Ectx}
    (h : Issues s tile op w i) (hv : c.w.vers = w.vers)
    (hb : (((body (vecRun s tile w i)).run).run { s := s, w := w, die := w.die }) = (.ok o, c)) :
    vecStep op body tile s =
      retire (if c.owed = 0 then c.s else pump (setWork c.s { w with owed := w.owed + c.owed })) tile w (vecOf s tile) o := by
  have hn := h.next
  have ho := h.code
  have hr := h.room
  unfold vecStep
  rw [hn]
  dsimp only
  rw [if_neg (by rintro (h | h); exacts [h ho, by omega])]
  rw [hb]
  dsimp only [vecSettle]
  rw [if_pos hv, hv]

/-- What the retirement of an instruction leaves before the end of a batch is looked for. -/
def retired (s : State) (tile : Nat) (w : Work) (u0 : VecUnit) (o : VOut) : State :=
  addAcc (bump (setVec s tile (unitAfter u0 w o.u)) (Key.vecIssueCycles + tile) 1)
    (match o.forPair, o.u.pair with
      | true, some r => if (findWork s r).isSome then r else w.ref
      | _, _ => w.ref) o.acc

/-- The unit of a tile after events are added to a descriptor. -/
theorem vecOf_addAcc (s : State) (r : WRef) (a : Acc) (k : Nat) : vecOf (addAcc s r a) k = vecOf s k := by
  unfold addAcc
  split <;> rfl

/-- The retirement of an instruction ends the batch past the last instruction. -/
theorem retire_eq (s : State) (tile : Nat) (w : Work) (u0 : VecUnit) (o : VOut) :
    retire s tile w u0 o = batchOver (retired s tile w u0 o) tile := by
  have hu : (if u0.pos < w.f 38 2 ∧ w.f 38 2 ≤ o.u.pos then
      { { o.u with issued := o.u.issued + 1 } with laneFlags := [] } else { o.u with issued := o.u.issued + 1 })
      = unitAfter u0 w o.u := rfl
  have e1 : ∀ r, findWork (bump (setVec s tile (unitAfter u0 w o.u))
    (Key.vecIssueCycles + tile) 1) r = findWork s r := fun _ => rfl
  have e2 : (unitAfter u0 w o.u).pair = o.u.pair := by unfold unitAfter; split <;> rfl
  have e3 : vecOf (retired s tile w u0 o) tile = unitAfter u0 w o.u := by
    unfold retired
    rw [vecOf_addAcc]
    exact vecOf_setVec_same _ _ _
  unfold batchOver
  rw [e3]
  unfold retire retired
  dsimp only
  simp only [hu, e1, e2]
  all_goals rfl

/-- The retirement of an instruction. -/
theorem retire_stepped {s : State} {tile : Nat} {w w' : Work} {o : VOut}
    (hw : findWork s w'.ref = some w')
    (ht : (match o.forPair, o.u.pair with
      | true, some r => if (findWork s r).isSome then r else w.ref
      | _, _ => w.ref) = w'.ref) :
    Stepped s (retired s tile w (vecOf s tile) o) tile w w' o.u o.acc := by
  have key : retired s tile w (vecOf s tile) o =
      addAcc (bump (setVec s tile (unitAfter (vecOf s tile) w o.u))
        (Key.vecIssueCycles + tile) 1) w'.ref o.acc := by
    unfold retired
    rw [ht]
  have hf : findWork (bump (setVec s tile (unitAfter (vecOf s tile) w o.u))
      (Key.vecIssueCycles + tile) 1) w'.ref = some w' := hw
  have key2 : addAcc (bump (setVec s tile (unitAfter (vecOf s tile) w o.u))
        (Key.vecIssueCycles + tile) 1) w'.ref o.acc =
      setWork (bump (setVec s tile (unitAfter (vecOf s tile) w o.u))
        (Key.vecIssueCycles + tile) 1) { w' with acc := w'.acc.join o.acc } := by
    unfold addAcc; rw [hf]
  rw [key, key2]
  constructor
  · exact vecOf_setVec_same _ _ _
  · intro k hk; exact vecOf_setVec_ne s _ hk
  · exact (reg_bump _ _ _ _).trans (by rw [if_pos rfl]; rfl)
  · intro k hk; exact (reg_bump _ _ _ _).trans (by rw [if_neg hk]; rfl)
  · exact findWork_setWork_same (bump (setVec s tile (unitAfter (vecOf s tile) w o.u))
        (Key.vecIssueCycles + tile) 1) { w' with acc := w'.acc.join o.acc } hf
  · intro r hr
    exact findWork_setWork_ne (bump (setVec s tile (unitAfter (vecOf s tile) w o.u))
        (Key.vecIssueCycles + tile) 1) { w' with acc := w'.acc.join o.acc } hr
  · rfl

/-! ## Lanes -/

/-- The mask on a lane (R115). -/
theorem vecRun_mask (s : State) (tile : Nat) (w : Work) (i : VIns) (l : Nat) (hl : l < 512) :
    (vecRun s tile w i).mask.getD l false = executes (vecOf s tile) i l := by
  unfold VRun.mask executes
  show (if i.qs = 0 then (passed (vecOf s tile)).pred 0 else _).getD l false = _
  have e : ∀ q, (passed (vecOf s tile)).pred q = (vecOf s tile).pred q := fun _ => rfl
  split
  · rename_i h; simp [h, e]
  · rename_i h
    have h0 : l < ((vecOf s tile).pred 0).length := by simp [hl]
    have h2 : l < ((vecOf s tile).pred i.qs).length := by simp [hl]
    have h1 : l < (List.zipWith (· && ·) ((vecOf s tile).pred 0) ((vecOf s tile).pred i.qs)).length := by simp [hl]
    change (List.zipWith (· && ·) ((vecOf s tile).pred 0) ((vecOf s tile).pred i.qs)).getD l false = _
    rw [List.getD_eq_getElem _ _ h1, List.getElem_zipWith, List.getD_eq_getElem _ _ h0, List.getD_eq_getElem _ _ h2]
    rw [beq_eq_false_iff_ne.mpr h, Bool.false_or]

/-- The results of the lanes, lane by lane. -/
theorem lanesOn_getD (ms : List Bool) (ts : List Nat) (as bs cs : List Word)
    (f : Nat → Word → Word → Word → Word × List Ev) (n : Nat)
    (h1 : ms.length = n) (h2 : n ≤ ts.length) (h3 : as.length = n) (h4 : bs.length = n) (h5 : cs.length = n) :
    (lanesOn ms ts as bs cs f).length = n ∧ ∀ l, l < n → (lanesOn ms ts as bs cs f).getD l none =
      if ms.getD l false then some (f (ts.getD l 0) (as.getD l 0) (bs.getD l 0) (cs.getD l 0)) else none := by
  induction n generalizing ms ts as bs cs with
  | zero =>
    obtain rfl := List.length_eq_zero_iff.mp h1
    simp [lanesOn]
  | succ n ih =>
    cases ms with
    | nil => simp at h1
    | cons m ms => cases ts with
      | nil => simp at h2
      | cons t ts => cases as with
        | nil => simp at h3
        | cons a as => cases bs with
          | nil => simp at h4
          | cons b bs => cases cs with
            | nil => simp at h5
            | cons c cs =>
              simp only [List.length_cons, Nat.add_right_cancel_iff, Nat.add_le_add_iff_right] at h1 h2 h3 h4 h5
              obtain ⟨hl, hg⟩ := ih ms ts as bs cs h1 h2 h3 h4 h5
              refine ⟨by simp [lanesOn, hl], ?_⟩
              intro l hl'
              cases l with
              | zero => simp [lanesOn]
              | succ l => simpa [lanesOn] using hg l (by omega)

/-- Merging lane by lane (R116). -/
theorem mergeLanes_getD (zm : Bool) (rs : List LaneRes) (os : List Word) (h : rs.length = os.length) :
    (mergeLanes zm rs os).length = os.length ∧ ∀ l, l < os.length → (mergeLanes zm rs os).getD l 0 =
      match rs.getD l none with
      | some v => v.1
      | none => if zm then 0 else os.getD l 0 := by
  induction os generalizing rs with
  | nil =>
    obtain rfl := List.length_eq_zero_iff.mp h
    simp [mergeLanes]
  | cons o os ih =>
    cases rs with
    | nil => simp at h
    | cons r rs =>
      simp only [List.length_cons, Nat.add_right_cancel_iff] at h
      obtain ⟨hl, hg⟩ := ih rs h
      refine ⟨by simp [mergeLanes, hl], ?_⟩
      intro l hl'
      cases l with
      | zero => cases r <;> simp [mergeLanes]
      | succ l =>
        simp only [List.length_cons] at hl'
        simpa [mergeLanes] using hg l (by omega)

/-- The flags of the lanes, lane by lane (R114). -/
theorem flagLanes_getD (rs : List LaneRes) (fs : List Ev) (h : rs.length = 512) (l : Nat) (hl : l < 512) :
    (flagLanes rs fs).getD l {} = match rs.getD l none with
      | some v => (fs.getD l {}).or (evsOr v.2)
      | none => fs.getD l {} := by
  have h0 : ((fs ++ List.replicate 512 ({} : Ev)).take 512).length = 512 := length_padTake _ _ _
  have e : ((fs ++ List.replicate 512 ({} : Ev)).take 512).getD l {} = fs.getD l {} := getD_padTake fs {} 512 l hl
  unfold flagLanes
  generalize (fs ++ List.replicate 512 ({} : Ev)).take 512 = gs at h0 e
  have h1 : l < rs.length := by omega
  have h2 : l < gs.length := by omega
  rw [← e, List.getD_eq_getElem _ _ (by rw [List.length_zipWith]; omega), List.getElem_zipWith,
    List.getD_eq_getElem _ _ h1, List.getD_eq_getElem _ _ h2]
  all_goals (cases rs[l] <;> rfl)

end Sys2Proof.Machine
end

