-- ==== Sys2Proof/Laws/VecRows.lean ====
section
/-! SUPPORT. What the writing of one register, lane by lane, or of one unit leaves: one lemma for each shape of
instruction. -/

namespace Sys2Proof.Machine
open Sys2Proof Sys2Proof.Machine.Claim

/-- A list padded with zeros reads as before. -/
theorem getD_padZero (l : List Nat) (n k : Nat) : (l ++ List.replicate n 0).getD k 0 = l.getD k 0 := by
  by_cases hf : k < l.length
  · rw [List.getD_append _ _ _ _ hf]
  · rw [List.getD_append_right _ _ _ _ (by omega), List.getD_eq_default l 0 (by omega)]
    by_cases h : k - l.length < n
    · rw [List.getD_eq_getElem _ _ (by simpa using h), List.getElem_replicate]
    · rw [List.getD_eq_default _ _ (by simpa using h)]

/-- No event adds no flag. -/
theorem Ev.or_none (e : Ev) : e.or (evsOr []) = e := by
  cases e; simp [Ev.or, evsOr]

/-- Lane results `rs` are those of `f` on the executing lanes. -/
def IsLanes (u : VecUnit) (i : VIns) (f : LaneOp) (rs : List LaneRes) : Prop :=
  rs.length = 512 ∧ ∀ l, l < 512 → rs.getD l none = if executes u i l then some (atLane u i f l) else none

/-- The events of lane results are those of the lanes. -/
theorem accLanes_eq (u : VecUnit) (i : VIns) (f : LaneOp) (rs : List LaneRes) (h : IsLanes u i f rs) :
    accLanes rs = laneEvents u i f := by
  have e : rs = (List.range 512).map (fun l => if executes u i l then some (atLane u i f l) else none) := by
    apply List.ext_getElem (by rw [h.1, List.length_map, List.length_range])
    intro n h1 h2
    have hn : n < 512 := by rw [h.1] at h1; exact h1
    have := h.2 n hn
    rw [List.getD_eq_getElem _ _ h1] at this
    rw [this, List.getElem_map, List.getElem_range]
  rw [e]
  unfold accLanes laneEvents
  rw [List.foldl_map, List.foldl_flatMap]
  congr 1
  funext a l
  cases executes u i l <;> rfl

/-- What the writing of lanes leaves. -/
theorem put_issues {s : State} {tile : Nat} {w : Work} {i : VIns} {f : LaneOp} {o : VOut} {rs : List LaneRes} (fp : Bool)
    {w' : Work} (hw : findWork s w'.ref = some w')
    (ht : (match fp, (vecOf s tile).pair with
      | true, some r => if (findWork s r).isSome then r else w.ref
      | _, _ => w.ref) = w'.ref)
    (hi : IsLanes (vecOf s tile) i f rs)
    (ho : o = { (vecRun s tile w i).put (vecRun s tile w i).u i.vd rs with forPair := fp }) :
    ∃ v fl, LaneWords (vecOf s tile) i f v ∧ LaneFlags (vecOf s tile) i f fl ∧
      Stepped s (retired s tile w (vecOf s tile) o) tile w w'
        { ((passed (vecOf s tile)).setReg i.vd v) with laneFlags := fl } (laneEvents (vecOf s tile) i f) := by
  subst ho
  refine ⟨mergeLanes i.zm rs ((vecOf s tile).reg i.vd), if rs.all quietLane then (vecOf s tile).laneFlags else flagLanes rs (vecOf s tile).laneFlags, ?_, ?_, ?_⟩
  rotate_left 2
  · have := retire_stepped (s := s) (tile := tile) (w := w) (w' := w')
      (o := { (vecRun s tile w i).put (vecRun s tile w i).u i.vd rs with forPair := fp }) hw ht
    rw [← accLanes_eq _ _ _ _ hi]
    exact this
  · obtain ⟨h1, h2⟩ := mergeLanes_getD i.zm rs ((vecOf s tile).reg i.vd) (by rw [hi.1]; simp)
    refine ⟨by rw [h1]; simp, ?_⟩
    intro l hl
    rw [h2 l (by simpa using hl), hi.2 l hl]
    cases executes (vecOf s tile) i l <;> rfl
  · intro l hl
    by_cases hq : (rs.all quietLane) = true
    · rw [if_pos hq]
      split
      · rename_i he
        have h3 := hi.2 l hl
        rw [if_pos he] at h3
        have h4 : l < rs.length := by rw [hi.1]; exact hl
        rw [List.getD_eq_getElem _ _ h4] at h3
        have := List.all_eq_true.mp hq _ (List.getElem_mem h4)
        rw [h3] at this
        replace this : (atLane (vecOf s tile) i f l).2.isEmpty = true := this
        rw [List.isEmpty_iff] at this
        rw [this]
        exact (Ev.or_none _).symm
      · rfl
    · rw [if_neg hq, flagLanes_getD _ _ hi.1 l hl, hi.2 l hl]
      cases executes (vecOf s tile) i l <;> rfl

/-- The results `VRun.lanes` forms. -/
theorem isLanes_lanes (s : State) (tile : Nat) (w : Work) (i : VIns) (g : Nat → Word → Word → Word → Word × List Ev) :
    IsLanes (vecOf s tile) i (fun _ m a b c => g m a b c) ((vecRun s tile w i).lanes g) := by
  unfold VRun.lanes
  obtain ⟨h1, h2⟩ := lanesOn_getD (vecRun s tile w i).mask (vecRun s tile w i).items ((vecRun s tile w i).u.reg i.va)
    ((vecRun s tile w i).u.reg i.vb) ((vecRun s tile w i).u.reg i.vc) g 512 (by simp)
    (by unfold VRun.items; simp [-List.reduceReplicate]; omega) (by simp) (by simp) (by simp)
  refine ⟨h1, ?_⟩
  intro l hl
  have := h2 l hl
  refine this.trans ?_
  rw [vecRun_mask s tile w i l hl]
  have e : (vecRun s tile w i).items.getD l 0 = (vecOf s tile).items.getD l 0 := getD_padZero _ _ _
  rw [e]
  rfl

/-- Lane results depend on the lanes' values alone. -/
theorem isLanes_congr {u : VecUnit} {i : VIns} {f g : LaneOp} {rs : List LaneRes} (h : IsLanes u i f rs)
    (e : ∀ l, l < 512 → atLane u i f l = atLane u i g l) : IsLanes u i g rs :=
  ⟨h.1, fun l hl => by rw [h.2 l hl, e l hl]⟩

/-- An instruction that writes lanes and raises no event. -/
theorem quiet_issues {s : State} {tile op : Nat} {w : Work} {i : VIns}
    {f : Nat → Nat → Word → Word → Word → Word} {rs : List LaneRes} (h : Issues s tile op w i)
    (hi : IsLanes (vecOf s tile) i (fun l m a b e => (f l m a b e, [])) rs) :
    ∃ v, LaneWords (vecOf s tile) i (fun l m a b e => (f l m a b e, [])) v ∧
      Stepped s (retired s tile w (vecOf s tile) ((vecRun s tile w i).put (vecRun s tile w i).u i.vd rs)) tile w w
        ((passed (vecOf s tile)).setReg i.vd v) {} := by
  have hq : rs.all quietLane = true := by
    rw [List.all_eq_true]
    intro x hx
    obtain ⟨n, hn, rfl⟩ := List.mem_iff_getElem.mp hx
    have := hi.2 n (by rw [← hi.1]; exact hn)
    rw [List.getD_eq_getElem _ _ hn] at this
    rw [this]
    cases executes (vecOf s tile) i n <;> rfl
  have ha : laneEvents (vecOf s tile) i (fun l m a b e => (f l m a b e, [])) = {} := by
    unfold laneEvents
    have : (fun l => if executes (vecOf s tile) i l then (atLane (vecOf s tile) i
        (fun l m a b e => (f l m a b e, [])) l).2 else ([] : List Ev)) = fun _ => [] := by
      funext l; split <;> rfl
    rw [this]
    rw [show (List.range 512).flatMap (fun _ => ([] : List Ev)) = [] from List.flatMap_eq_nil_iff.mpr (fun _ _ => rfl)]
    rfl
  have hu : (vecRun s tile w i).put (vecRun s tile w i).u i.vd rs =
      { u := (passed (vecOf s tile)).setReg i.vd (mergeLanes i.zm rs ((vecOf s tile).reg i.vd)), acc := {} } := by
    unfold VRun.put
    rw [if_pos hq, accLanes_eq _ _ _ _ hi, ha]
    rfl
  have hs := retire_stepped (s := s) (tile := tile) (w := w) (w' := w)
    (o := (vecRun s tile w i).put (vecRun s tile w i).u i.vd rs) h.found (by rw [hu])
  refine ⟨mergeLanes i.zm rs ((vecOf s tile).reg i.vd), ?_, ?_⟩
  · obtain ⟨h1, h2⟩ := mergeLanes_getD i.zm rs ((vecOf s tile).reg i.vd) (by rw [hi.1]; simp)
    refine ⟨by rw [h1]; simp, ?_⟩
    intro l hl
    rw [h2 l (by simpa using hl), hi.2 l hl]
    cases executes (vecOf s tile) i l <;> rfl
  · rw [hu] at hs ⊢
    exact hs

/-- An instruction that changes its unit alone. -/
theorem changesUnit_of {c : Nat → Instr} {op : Nat} {f : VecUnit → VIns → VecUnit → VecUnit}
    (g : VRun → VOut) (hc : ∀ tile s, exec (c tile) s = .next (vecPure op g tile s))
    (hg : ∀ s tile w i, g (vecRun s tile w i) = { u := f (vecOf s tile) i (passed (vecOf s tile)) })
    : ChangesUnit c op f := by
  intro s tile w i h
  have hs := retire_stepped (s := s) (tile := tile) (w := w) (w' := w) (o := g (vecRun s tile w i)) h.found
    (by rw [hg])
  refine ⟨retired s tile w (vecOf s tile) (g (vecRun s tile w i)), by rw [hc, vecPure_issues g h, retire_eq], ?_⟩
  rw [hg] at hs ⊢
  exact hs

/-- An instruction whose lanes all compute the same function of item and operands. -/
theorem writesLanes_same {c : Nat → Instr} {op : Nat} {f : State → Nat → Work → VIns → LaneOp} (g : VRun → VOut)
    (hc : ∀ tile s, exec (c tile) s = .next (vecPure op g tile s))
    (hf : ∀ s tile w i l, f s tile w i l = f s tile w i 0)
    (hg : ∀ s tile w i, g (vecRun s tile w i) = { (vecRun s tile w i).put (vecRun s tile w i).u i.vd
      ((vecRun s tile w i).lanes (f s tile w i 0)) with forPair := false }) :
    WritesLanes c op f := by
  intro s tile w i h
  obtain ⟨v, fl, h1, h2, h3⟩ := put_issues (s := s) (tile := tile) (w := w) (w' := w) (i := i) (f := f s tile w i)
    false h.found rfl (isLanes_congr (isLanes_lanes s tile w i (f s tile w i 0))
      (fun l _ => by unfold atLane; rw [hf s tile w i l])) (hg s tile w i)
  exact ⟨_, v, fl, by rw [hc, vecPure_issues g h, retire_eq], h1, h2, h3⟩

/-- An instruction without events whose lanes all compute the same function of item and operands. -/
theorem writesQuietly_same {c : Nat → Instr} {op : Nat} {f : VecUnit → VIns → Nat → Nat → Word → Word → Word → Word}
    (g : VRun → VOut) (hc : ∀ tile s, exec (c tile) s = .next (vecPure op g tile s))
    (hf : ∀ u i l, f u i l = f u i 0)
    (hg : ∀ s tile w i, g (vecRun s tile w i) = (vecRun s tile w i).put (vecRun s tile w i).u i.vd
      ((vecRun s tile w i).lanes (fun m a b e => (f (vecOf s tile) i 0 m a b e, [])))) :
    WritesQuietly c op f := by
  intro s tile w i h
  have hi : IsLanes (vecOf s tile) i (fun l m a b e => (f (vecOf s tile) i l m a b e, []))
      ((vecRun s tile w i).lanes (fun m a b e => (f (vecOf s tile) i 0 m a b e, []))) :=
    isLanes_congr (isLanes_lanes s tile w i (fun m a b e => (f (vecOf s tile) i 0 m a b e, [])))
      (fun l _ => by unfold atLane; dsimp only; rw [hf (vecOf s tile) i l])
  obtain ⟨v, h1, h2⟩ := quiet_issues h hi
  exact ⟨_, v, by rw [hc, vecPure_issues g h, hg, retire_eq], h1, h2⟩

/-- The word of a rounding (R133). -/
theorem vecRun_roundWord (s : State) (tile : Nat) (w : Work) (i : VIns) (m h : Nat) :
    (vecRun s tile w i).roundWord (tyFmt i) m h = drawWord s tile w i m h := by
  unfold VRun.roundWord drawWord VRun.word
  rw [Nat.add_zero]
  rfl

/-- A rounding operation in the words of the statements. -/
theorem vecRun_flop (s : State) (tile : Nat) (w : Work) (i : VIns) (g : Num → Num → Num → Num × Bool) :
    (vecRun s tile w i).flop g = (vecRun s tile w i).put (vecRun s tile w i).u i.vd
      ((vecRun s tile w i).lanes (roundedOp g s tile w i 0)) := by
  have e : ∀ m h, (vecRun s tile w i).roundWord (vecRun s tile w i).fmt m h = drawWord s tile w i m h :=
    vecRun_roundWord s tile w i
  unfold VRun.flop roundedOp perElem
  simp only [e]
  rfl

/-- A sequence instruction in the words of the statements. -/
theorem vecRun_seq (s : State) (tile : Nat) (w : Work) (i : VIns) (fn : SeqFn) :
    (vecRun s tile w i).seq fn = (vecRun s tile w i).put (vecRun s tile w i).u i.vd
      ((vecRun s tile w i).lanes (sequenceOp fn s tile w i 0)) := by
  have e : ∀ m h, (vecRun s tile w i).roundWord (vecRun s tile w i).fmt m h = drawWord s tile w i m h :=
    vecRun_roundWord s tile w i
  unfold VRun.seq sequenceOp perElem
  simp only [e]
  rfl
/-- The branch condition of BANY, lane by lane. -/
theorem vecRun_anyQ (s : State) (tile : Nat) (w : Work) (i : VIns) :
    (vecRun s tile w i).anyQ =
      (List.range 512).any (fun l => executes (vecOf s tile) i l && ((vecOf s tile).pred i.va).getD l false) := by
  have e : List.zipWith (· && ·) (vecRun s tile w i).mask ((vecOf s tile).pred i.va) =
      (List.range 512).map (fun l => executes (vecOf s tile) i l && ((vecOf s tile).pred i.va).getD l false) := by
    apply List.ext_getElem (by simp)
    intro n h1 h2
    have hn : n < 512 := by simpa using h2
    have h3 : n < (vecRun s tile w i).mask.length := by simpa using hn
    have h4 : n < ((vecOf s tile).pred i.va).length := by simpa using hn
    rw [List.getElem_zipWith, List.getElem_map, List.getElem_range, ← vecRun_mask s tile w i n hn,
      List.getD_eq_getElem _ _ h3, List.getD_eq_getElem _ _ h4]
  unfold VRun.anyQ
  show (List.zipWith (· && ·) (vecRun s tile w i).mask ((vecOf s tile).pred i.va)).any id = _
  rw [e, List.any_map]
  rfl

/-- Merging predicates lane by lane (R116). -/
theorem mergePreds_getD (zm : Bool) (ms vs os : List Bool) (h1 : ms.length = os.length) (h2 : vs.length = os.length) :
    (mergePreds zm ms vs os).length = os.length ∧ ∀ l, l < os.length → (mergePreds zm ms vs os).getD l false =
      if ms.getD l false then vs.getD l false else if zm then false else os.getD l false := by
  induction os generalizing ms vs with
  | nil => cases ms <;> cases vs <;> simp_all [mergePreds]
  | cons o os ih =>
    cases ms with
    | nil => simp at h1
    | cons m ms => cases vs with
      | nil => simp at h2
      | cons v vs =>
        simp only [List.length_cons, Nat.add_right_cancel_iff] at h1 h2
        obtain ⟨hl, hg⟩ := ih ms vs h1 h2
        refine ⟨by simp [mergePreds, hl], ?_⟩
        intro l hl'
        cases l with
        | zero => simp [mergePreds]
        | succ l =>
          simp only [List.length_cons] at hl'
          simpa [mergePreds] using hg l (by omega)

/-- An instruction that writes a predicate. -/
theorem writesBits_of {c : Nat → Instr} {op : Nat} {f : VecUnit → VIns → Nat → Bool} (g : VRun → VOut)
    (vs : VRun → List Bool) (hc : ∀ tile s, exec (c tile) s = .next (vecPure op g tile s))
    (hg : ∀ s tile w i, g (vecRun s tile w i) = (vecRun s tile w i).putPred (vs (vecRun s tile w i)))
    (hv : ∀ s tile w i, (vs (vecRun s tile w i)).length = 512 ∧
      ∀ l, l < 512 → (vs (vecRun s tile w i)).getD l false = f (vecOf s tile) i l) : WritesBits c op f := by
  intro s tile w i h
  have hs := retire_stepped (s := s) (tile := tile) (w := w) (w' := w)
    (o := (vecRun s tile w i).putPred (vs (vecRun s tile w i))) h.found rfl
  obtain ⟨hl, hg'⟩ := hv s tile w i
  obtain ⟨h1, h2⟩ := mergePreds_getD i.zm (vecRun s tile w i).mask (vs (vecRun s tile w i)) ((vecOf s tile).pred i.vd)
    (by simp) (by rw [hl]; simp)
  refine ⟨_, mergePreds i.zm (vecRun s tile w i).mask (vs (vecRun s tile w i)) ((vecOf s tile).pred i.vd),
    by rw [hc, vecPure_issues g h, hg, retire_eq], ⟨by rw [h1]; simp, ?_⟩, hs⟩
  intro l hl'
  rw [h2 l (by simpa using hl'), vecRun_mask s tile w i l hl', hg' l hl']

end Sys2Proof.Machine
end

