-- ==== Sys2Proof/Tests/Slice0.lean ====
section
/-! SUPPORT. Tests: the ill-formed terms the checks refuse, worked values of the spec, and for each statement with
hypotheses a concrete state and operands that meet them. Where the hypotheses are many, the witness takes the statement itself as
its one hypothesis and applies it to the concrete state and operands, so that meeting every premise of a clause is what is proved. -/

namespace Sys2Proof.Tests
open Sys2Proof Sys2Proof.Machine Sys2Proof.Machine.Claim

set_option Elab.async false

/-! ## States -/

/-- The module with registers written. -/
def withRegs (s : State) (rs : List (Nat × Nat)) : State := rs.foldl (fun s e => setReg s e.1 e.2) s

/-- The module in Noon, with the fused order selected and the management domain up. -/
def noon : State :=
  { withRegs State.reset [(Key.pwrState, 0), (Key.ephPin, 1), (Key.bootState, 4), (Key.fabCoord, 0)] with
    pwr := { closed := true, managed := true, rows := 10, pwrEn := true } }

/-- A descriptor of an opcode with fields (offset, bytes, value). -/
def desc (op : Nat) (fs : List (Nat × Nat × Nat)) : List Byte :=
  fs.foldl (fun d f => putField d f.1 f.2.1 f.2.2) (leBytes 2 op ++ List.replicate 62 0)

/-- A descriptor at position 0 of queue 0. -/
def work (op : Nat) (fs : List (Nat × Nat × Nat)) (ph : Phase) : Work := { ref := .q 0 0, desc := desc op fs, phase := ph }

/-- A byte object of 4,096 bytes in the slice of tile 0. -/
def plainObj : Obj := { num := 1, fmt := 4, rows := 4096, pages := [{ page := 0, home := .frame 0 }] }

/-- Lane 0 alone active, or every lane. -/
def oneLane : List Bool := [true]

/-- A vector unit about to issue an instruction word. -/
def unitOn (word : Nat) : VecUnit :=
  { work := some (.q 0 0), words := [word], preds := [(0, oneLane)], base := [(0, 2 ^ 40)], limit := 65536 }

/-- The module with a vector program of one instruction in hand. -/
def vecState (word : Nat) : State :=
  { noon with work := [work 0x0200 [] .running], vec := [(0, unitOn word)], objs := [(1, plainObj)] }

/-- The opcodes of R122. -/
def vops : List Nat := rangeFrom 0 12 ++ rangeFrom 0x10 24 ++ rangeFrom 0x30 5 ++ rangeFrom 0x40 3 ++ rangeFrom 0x50 12 ++
  [0x60, 0x61] ++ rangeFrom 0x70 5 ++ [0x80, 0x81] ++ rangeFrom 0x90 5

theorem next_all : ∀ op ∈ vops, nextIns (vecState op) 0 = some (work 0x0200 [] .running, VIns.of op) ∧ (VIns.of op).op = op := by
  decide

theorem room_all : ∀ op ∈ vops, (vecOf (vecState op) 0).issued < limitOf (vecOf (vecState op) 0) (work 0x0200 [] .running) := by decide

/-- Each vector instruction can be issued (VectorControl to VectorMemory). -/
theorem wit_issues (op : Nat) (h : op ∈ vops) : Issues (vecState op) 0 op (work 0x0200 [] .running) (VIns.of op) :=
  ⟨(next_all op h).1, (next_all op h).2, room_all op h⟩


theorem wit_eventsGoTo : EventsGoTo (vecState 0x41) 0 (work 0x0200 [] .running) (work 0x0200 [] .running) := by
  unfold EventsGoTo; rw [if_neg (by decide)]

/-- A drain-coupled program beside its matrix descriptor. -/
def pairWork : Work := { work 0x0100 [(52, 2, 1)] .running with ref := .q 0 1 }
/-- The module with both in hand. -/
def coupledState (word : Nat) : State :=
  { noon with work := [work 0x0201 [] .running, pairWork], vec := [(0, { unitOn word with pair := some (.q 0 1) })] }

theorem wit_eventsGoTo_pair : EventsGoTo (coupledState 0x41) 0 (work 0x0201 [] .running) pairWork := by
  unfold EventsGoTo; rw [if_pos (by decide)]
  show (if (findWork (coupledState 0x41) (.q 0 1)).isSome = true then _ else _)
  rw [if_pos (by decide)]; decide

theorem wit_lred : (VIns.of 0x60).ty ≠ 11 ∧ (VIns.of (0x60 + 11 * 2 ^ 36)).ty = 11 := by decide

theorem wit_lred_xa : Issues (vecState (0x60 + 11 * 2 ^ 36)) 0 0x60 (work 0x0200 [] .running) (VIns.of (0x60 + 11 * 2 ^ 36)) :=
  ⟨by decide, by decide, by decide⟩

/-- What the unit sees of a load or store. -/
def run (op : Nat) : VRun := vecRun (vecState op) 0 (work 0x0200 [] .running) (VIns.of op)

theorem wit_load : ∀ e ∈ [(0x70, false), (0x71, true)],
    (vecState e.1).lines = [] ∧ accsStop (work 0x0200 [] .running) (vecState e.1) (run e.1).memObj false ((run e.1).accs e.2) = none ∧
    readVersion (vecState e.1) (work 0x0200 [] .running) (objOf (vecState e.1) (run e.1).memObj) = some (none, []) ∧
    lanesOf (vecOf (vecState e.1) 0) (VIns.of e.1) = [0] ∧
    ((run e.1).loadLane (vecState e.1) none ((run e.1).accAt e.2 0)).isSome := by decide +kernel

/-- A computation that ends. -/
theorem ok_of {ε α : Type} {x : Except ε α} (h : x.isOk = true) : ∃ r, x = .ok r := by
  cases x with
  | ok r => exact ⟨r, rfl⟩
  | error e => nomatch h

theorem store_ok : ∀ e ∈ [(0x72, false), (0x73, true)],
    (vecState e.1).lines = [] ∧ accsStop (work 0x0200 [] .running) (vecState e.1) (run e.1).memObj true ((run e.1).accs e.2) = none ∧
    (storeRun (run e.1) e.2 (sampleSpans (vecState e.1) 0 (run e.1).memObj ((run e.1).accs e.2))).isOk = true := by decide +kernel

theorem wit_store (e : Nat × Bool) (h : e ∈ [(0x72, false), (0x73, true)]) :
    ∃ r, storeRun (run e.1) e.2 (sampleSpans (vecState e.1) 0 (run e.1).memObj ((run e.1).accs e.2)) = .ok r :=
  ok_of (store_ok e h).2.2

theorem wit_plain : Plain (vecState 0x72) (run 0x72).memObj ∧ (vecState 0x72).mem.poison = [] ∧
    ∃ r, storeRun (run 0x72) false (vecState 0x72) = .ok r :=
  ⟨⟨by decide, by decide, by decide⟩, rfl, ok_of (by decide +kernel)⟩

/-- A run that ends. -/
theorem ends_of {x : Except Stop Unit × Ectx} (h : x.1.isOk = true) : ∃ e, x = (.ok (), e) := by
  obtain ⟨r, e⟩ := x
  cases r with
  | ok _ => exact ⟨e, rfl⟩
  | error _ => nomatch h

/-- An adder target in the slice of tile 0: integer elements. -/
def sumObj : Obj := { plainObj with num := 2 }

/-- The module with an STA in hand, lane 0 active, element 5. -/
def staState : State :=
  { vecState (0x74 + 4 * 2 ^ 36) with
    objs := [(1, plainObj), (2, sumObj)]
    vec := [(0, { unitOn (0x74 + 4 * 2 ^ 36) with base := [(0, 2 ^ 41)], regs := [(0, [5#32])] })] }

/-- What the STA sees. -/
def staRun : VRun := vecRun staState 0 (work 0x0200 [] .running) (VIns.of (0x74 + 4 * 2 ^ 36))

theorem wit_sta : Issues staState 0 0x74 (work 0x0200 [] .running) (VIns.of (0x74 + 4 * 2 ^ 36)) :=
  ⟨by decide, by decide, by decide⟩

theorem wit_sta_addends : staRun.addList = [(0, 5, 5)] ∧
    (∀ a ∈ staRun.addList, -4096 ≤ a.1 ∧ a.1 ≤ 4095 ∧ elemStop (work 0x0200 [] .running) staState staRun.memObj a.2.1 4 = none ∧
      locate staState (objOf staState staRun.memObj) ((objOf staState staRun.memObj).elemOff a.2.1) = .here 20) := by
  decide +kernel

theorem wit_sta_run : ∃ c, ((eachDo (fun (a : Int × Nat × Nat) => sendAddend staRun.memObj a.2.1 staRun.fmt a.1 a.2.2)
    staRun.addList).run).run { s := staState, w := work 0x0200 [] .running, die := 0 } = (.ok (), c) :=
  ends_of (by decide +kernel)

/-- A drain-coupled unit of shape 1 × 1 with one row in the queue of its array. -/
def drainState (word : Nat) : State :=
  { coupledState word with
    vec := [(0, { unitOn word with pair := some (.q 0 1), shape := [1, 1, 128] })]
    arr := [(0, { work := some (.q 0 1), queue := [{ row := 0, col := 0, vals := [(7, 0)] }] })] }

theorem wit_drain : ∀ op ∈ [0x80, 0x81],
    nextIns (drainState op) 0 = some (work 0x0201 [] .running, VIns.of op) ∧ (VIns.of op).op = op ∧
    (vecOf (drainState op) 0).issued < limitOf (vecOf (drainState op) 0) (work 0x0201 [] .running) ∧
    batchRows (vecOf (drainState op) 0) = 1 ∧ (arrOf (drainState op) 0).queue.length = 1 := by decide

/-- VectorPrograms: a batch that ends with a batch after it, the last batch, a batch that read no drain, a batch at its
limit. -/
def twoBatches : State := { vecState 0 with work := [work 0x0200 [(32, 4, 513)] .running] }

theorem wit_endBatch : batchItems (vecOf twoBatches 0) (work 0x0200 [(32, 4, 513)] .running) 1 ≠ none ∧
    batchItems (vecOf twoBatches 0) (work 0x0200 [(32, 4, 512)] .running) 1 = none ∧
    (vecOf twoBatches 0).work = some (.q 0 0) ∧ (vecOf twoBatches 0).pair = none ∧ (vecOf twoBatches 0).cancel = false ∧
    findWork twoBatches (.q 0 0) = some (work 0x0200 [(32, 4, 513)] .running) := by decide +kernel

theorem wit_endBatch_pair : (vecOf (coupledState 0) 0).work = some (.q 0 0) ∧ (vecOf (coupledState 0) 0).pair = some (.q 0 1) ∧
    findWork (coupledState 0) (.q 0 0) = some (work 0x0201 [] .running) ∧ findWork (coupledState 0) (.q 0 1) = some pairWork ∧
    pairWork.phase = .running ∧ (vecOf (coupledState 0) 0).drained = false := by decide

theorem wit_limit :
    let s := { vecState 0 with work := [work 0x0200 [(48, 4, 3)] .running], vec := [(0, { unitOn 0 with issued := 3 })] }
    nextIns s 0 = some (work 0x0200 [(48, 4, 3)] .running, VIns.of 0) ∧ (vecOf s 0).issued = 3 ∧ (vecOf s 0).pair = none := by decide

/-- A vector program of one NOP over five items, fetched. -/
def vecDesc (op : Nat) : Work := work op [(16, 8, 2 ^ 40), (24, 8, 2 ^ 40 + 64), (32, 4, 5), (36, 2, 1)] .fetched

/-- The module with one fetched descriptor. -/
def fetched (w : Work) : State := { noon with work := [w], objs := [(1, plainObj), (2, sumObj)] }

/-- A descriptor that may start. -/
theorem starts_of {op : Nat} {r : WRef} {s : State} {w : Work}
    (h : (findWork s r = some w ∧ w.op = op ∧ w.phase = .fetched ∧ w.req = none) ∧
      computing s = true ∧ startable s w = true ∧ cancelled s w = false ∧ headerStatus s w = 0) : Starts op r s w :=
  ⟨h.1.1, h.1.2.1, h.1.2.2.1, h.1.2.2.2, h.2.1, h.2.2.1, h.2.2.2.1, h.2.2.2.2⟩

theorem wit_vecStart : Starts 0x0200 (.q 0 0) (fetched (vecDesc 0x0200)) (vecDesc 0x0200) := starts_of (by decide +kernel)

/-- What the dispatcher's decision leaves. -/
def issuedVec : State := (issue (markReady (fetched (vecDesc 0x0200))) (vecDesc 0x0200)).getD noon

theorem wit_vecStart_checks : tileFor (markReady (fetched (vecDesc 0x0200))) (vecDesc 0x0200) = some 0 ∧
    issue (markReady (fetched (vecDesc 0x0200))) (vecDesc 0x0200) = some issuedVec ∧
    vecChecks issuedVec (vecDesc 0x0200) true = 0 := by decide +kernel

theorem wit_vecStart_load : ∃ e, ((loadVec 0 (started issuedVec (vecDesc 0x0200) 0).2 none).run).run
    { s := (started issuedVec (vecDesc 0x0200) 0).1, w := (started issuedVec (vecDesc 0x0200) 0).2, die := 0 } = (.ok (), e) :=
  ends_of (by decide +kernel)


/-! ## Dispatch, engines, memory -/

theorem wit_record : let w := work 0x0900 [(4, 4, 7)] .done
    w.desc.length = 64 ∧ w.status < 2 ^ 16 ∧ w.acc.satN < 2 ^ 32 ∧ w.acc.fluN < 2 ^ 32 ∧ w.acc.invN < 2 ^ 32 ∧
    w.events < 2 ^ 32 := by decide

/-- The last queue enabled, with one descriptor produced, behind a link that carries CXL.mem. -/
def ringState : State :=
  { withRegs noon [(Key.cxlLinkState, 2), (Key.queueEnable + 256 * 63, 1), (Key.queueSize + 256 * 63, 6)] with
    queues := [(63, { prod := 1 })] }

theorem wit_fetch : mayFetch ringState 63 = true ∧ (ringRead ringState false 0 0 64).isSome ∧
    mayFetch { ringState with hostPoison := [0] } 63 = true ∧ ringRead { ringState with hostPoison := [0] } false 0 0 64 = none := by
  decide +kernel

/-- A descriptor in hand whose result is decided. -/
def doneState (w : Work) : State := { withRegs noon [(Key.cxlLinkState, 2)] with work := [w] }

theorem wit_complete : ∀ w ∈ [work 0x0900 [] .done, { work 0x0900 [(2, 2, 4)] .done with status := 0x10 }],
    findWork (doneState w) (.q 0 0) = some w ∧ dueStatus (doneState w) w = some w.status ∧ canRecord (doneState w) w = true := by decide

theorem wit_complete_quiet : ((work 0x0900 [] .done).cw || !success 0) = false := by decide

theorem wit_nop : Starts 0x0900 (.q 0 0) (fetched (work 0x0900 [] .fetched)) (work 0x0900 [] .fetched) := starts_of (by decide +kernel)

theorem wit_waitQueue : Starts 0x0901 (.q 0 0) (fetched (work 0x0901 [(24, 8, 1)] .fetched)) (work 0x0901 [(24, 8, 1)] .fetched) :=
  starts_of (by decide +kernel)

theorem wit_waitQueue_late : let w := work 0x0901 [(24, 8, 1), (32, 4, 5)] .running
    findWork (fetched w) (.q 0 0) = some w ∧ w.op = 0x0901 ∧ w.f 32 4 ≠ 0 ∧ w.began + 1000 * w.f 32 4 ≤ 5000 ∧
    (queueOf (fetched w) (w.f 16 2)).frontier < w.f 24 8 := by decide

theorem wit_unbind : Starts 0x0931 (.q 0 0) (fetched (work 0x0931 [(16, 1, 63)] .fetched)) (work 0x0931 [(16, 1, 63)] .fetched) :=
  starts_of (by decide +kernel)

theorem wit_irqTimer : let s := { withRegs noon [(Key.queueIrqUs, 5)] with queues := [(0, { unnotified := 1, firstAt := 10 })] }
    reg s Key.queueIrqUs ≠ 0 ∧ 0 < (queueOf s 0).unnotified ∧ (queueOf s 0).firstAt + 1000 * reg s Key.queueIrqUs ≤ 5010 := by decide

theorem wit_release : let s := { noon with slots := [(3, { obj := 1, cur := 2, old := some 1, oldIdle := 0 })] }
    (Tab.get {} s.slots 3).old = some 1 ∧ versionRefs s 3 1 = 0 ∧
    (Tab.get {} s.slots 3).oldIdle + 1000 * reg s Key.tblLingerUs ≤ 10 ^ 9 := by decide

/-- The opcodes of StartChecks whose class a queue may exclude or whose class needs an order. -/
def startOps : List Nat := [0x0100, 0x0101, 0x0102, 0x0103, 0x0200] ++ rangeFrom 0x0300 3 ++ rangeFrom 0x0400 3 ++ rangeFrom 0x0500 5 ++
  rangeFrom 0x0510 3 ++ rangeFrom 0x0600 3 ++ rangeFrom 0x0700 4 ++ [0x0800, 0x0880, 0x0881, 0x0900, 0x0901, 0x0910, 0x0930, 0x0931] ++
  rangeFrom 0x0A00 5

/-- StartChecks: an opcode outside the table; each opcode in a queue of the other class, and with no order selected. -/
theorem wit_startChecks : (0xABCD ∉ startOps ∧ 0x0104 ∉ startOps) ∧ ∀ op ∈ startOps,
    let w := work op [] .fetched
    let s := withRegs (fetched w) [(Key.ephPin, 0), (Key.queueClass, 1)]
    findWork s (.q 0 0) = some w ∧ w.op = op ∧ w.req = none ∧ computing s = true ∧ startable s w = true ∧
    cancelled s w = false ∧ w.waiting = false ∧ opKnown op = true ∧ classFault s w = true ∧ headerStatus s w ≠ 0 ∧
    (op / 256 ≤ 8 → headerStatus (withRegs s [(Key.queueClass, 0)]) w = 0x15 ∧
      classFault (withRegs s [(Key.queueClass, 0)]) w = false) := by decide +kernel

/-- A drain-coupled descriptor in a queue of the other class, alone or beside the matrix descriptor it names. -/
def strayState (ph : Option Phase) : State :=
  { withRegs noon [(Key.queueClass, 1)] with
    work := work 0x0201 [] .fetched :: (ph.map (fun p => { work 0x0100 [] p with ref := .q 0 1 })).toList }

theorem wit_startChecks_pair : ∀ ph ∈ [none, some Phase.fetched, some Phase.running],
    let s := strayState ph
    let w := work 0x0201 [] .fetched
    findWork s (.q 0 0) = some w ∧ computing s = true ∧ startable s w = true ∧ cancelled s w = false ∧ headerStatus s w ≠ 0 ∧
    pairOf s w = ph.map (fun p => { work 0x0100 [] p with ref := .q 0 1 }) ∧
    (ph.isSome = true → findWork s (.q 0 1) = pairOf s w) := by decide

/-- A descriptor in its engine. -/
theorem enters_of {op : Nat} {r : WRef} {s : State} {w : Work}
    (h : findWork s r = some w ∧ w.op = op ∧ w.req = none ∧ computing s = true ∧ w.phase = .running) : Enters op r s s w :=
  .inl ⟨h.1, h.2.1, h.2.2.1, h.2.2.2.1, h.2.2.2.2, rfl⟩

theorem running_all : ∀ op ∈ [0x0300, 0x0301, 0x0302, 0x0400, 0x0401, 0x0402, 0x0500, 0x0501, 0x0502, 0x0503, 0x0504, 0x0510, 0x0511,
      0x0512, 0x0930, 0x0600, 0x0601, 0x0602, 0x0700, 0x0701, 0x0702, 0x0703, 0x0880, 0x0881],
    let w := work op [] .running
    findWork (fetched w) (.q 0 0) = some w ∧ w.op = op ∧ w.req = none ∧ computing (fetched w) = true ∧ w.phase = .running := by
  decide +kernel

/-- What the decision for a descriptor leaves. -/
def issued (w : Work) : State := (issue (markReady (fetched w)) w).getD noon

theorem wit_enters_start : let w := (work 0x0500 [] .fetched).start (issued (work 0x0500 [] .fetched)) 0
    let s := issued (work 0x0500 [] .fetched)
    Enters 0x0500 (.q 0 0) (fetched (work 0x0500 [] .fetched)) (setWork { s with starts := s.starts + 1 } w) w :=
  .inr ⟨work 0x0500 [] .fetched, issued (work 0x0500 [] .fetched), starts_of (by decide +kernel), by decide +kernel, rfl, rfl⟩

theorem wit_publish_old : let w := work 0x0511 [] .running
    (Tab.get {} ({ fetched w with slots := [(0, { obj := 1, cur := 2, old := some 1 })] } : State).slots 0).old ≠ none := by decide


/-! ## Objects whose bytes lie in this module -/

/-- A byte object of 4,096 bytes in frame `k`. -/
def pageObj (n k : Nat) : Obj := { num := n, fmt := 4, rows := 4096, pages := [{ page := 0, home := .frame (65536 * k) }] }

/-- The module with one descriptor in its engine, objects, and bytes at module addresses. -/
def arena (w : Work) (os : List Obj) (bs : List (Nat × List Byte)) : State :=
  { noon with work := [w], objs := os.map (fun o => (o.num, o)),
              mem := { bytes := bs.foldl (fun m e => Tab.setRange 0 m e.1 e.2) [] } }

/-- A state in which nothing moves, is copied or is held. -/
theorem still_of {s : State} (h : s.dir.entries = [] ∧ s.dir.fills = [] ∧ s.dir.migs = [] ∧ s.dir.guests = [] ∧
    s.place.moves = [] ∧ s.lines = [] ∧ s.mem.poison = [] ∧ s.fab.holds = [] ∧ s.fab.txns = [] ∧ s.cxl.held = []) : Still s := by
  obtain ⟨h1, h2, h3, h4, h5, h6, h7, h8, h9, h10⟩ := h
  exact ⟨h1, h2, h3, h4, h5, h6, h7, h8, fun n row => by simp [headPending, h9], h10⟩

/-- A frame lies in one memory unit. -/
theorem unitOf_frame {k d : Nat} (h : d < 65536) : unitOf (65536 * k + d) = unitOf (65536 * k) := by
  have ht : tierOf (65536 * k + d) = tierOf (65536 * k) := by
    have h1 : (65536 * k + d < hbmBase) = (65536 * k < hbmBase) := by unfold hbmBase; exact propext ⟨by omega, by omega⟩
    have h2 : (65536 * k + d < ddrBase) = (65536 * k < ddrBase) := by unfold ddrBase; exact propext ⟨by omega, by omega⟩
    simp only [tierOf, h1, h2]
  unfold unitOf
  rw [ht]
  split
  · unfold sliceBytes; omega
  · unfold hbmBase; omega
  · unfold ddrBase; omega

/-- The frame of an object of one page. -/
def frameNo (s : State) (n : Nat) : Nat :=
  match (objOf s n).pages with
  | [{ home := .frame a, .. }] => a / 65536
  | _ => 0

/-- The object has one page, in a frame of a unit that works. -/
def inFrame (s : State) (n : Nat) : Bool :=
  decide ((objOf s n).pages = [{ page := 0, home := .frame (65536 * frameNo s n) }]) && !unitFailed s (unitOf (65536 * frameNo s n))

/-- Where a byte of such an object is. -/
theorem locate_frame {s : State} (hs : Still s) {n : Nat} (h : inFrame s n = true) {d : Nat} (hd : d < 65536) :
    locate s (objOf s n) d = .here (65536 * frameNo s n + d) := by
  obtain ⟨hp, hu⟩ := Bool.and_eq_true_iff.mp h
  have hp := of_decide_eq_true hp
  have hm (r : Nat) : movedRow s (objOf s n) r = none := by simp [movedRow, hs.guests, hs.copies]
  have hl : locatePage s (objOf s n) d = .here (65536 * frameNo s n + d) := by
    simp [locatePage, homeLoc, moveOf, hs.pages, Obj.page, hp, Nat.div_eq_of_lt hd, Nat.mod_eq_of_lt hd]
  simp [locate, hm, hl, alive, unitOf_frame hd, Bool.not_eq_true' _ ▸ hu]

/-- A range of such an object that a descriptor may name. -/
def liesB (s : State) (w : Work) (p : Span) : Bool :=
  mayName w s (objOf s p.1) && (decide (p.2.1 + p.2.2 ≤ (objOf s p.1).size) && (decide (p.2.1 + p.2.2 ≤ 65536) &&
    (decide ((objOf s p.1).num = p.1) && (!(objOf s p.1).versioned && inFrame s p.1))))

/-- It lies in this module. -/
theorem lies_of {s : State} {w : Work} {p : Span} (hs : Still s) (h : liesB s w p = true) : Lies s w p := by
  simp only [liesB, Bool.and_eq_true_iff, decide_eq_true_eq] at h
  obtain ⟨h1, h2, h3, h4, h5, h6⟩ := h
  exact ⟨h1, h2, Nat.le_trans h3 (by decide), h4, fun h => by simp [h] at h5,
    fun d hd => ⟨_, locate_frame hs h6 (by omega)⟩⟩

/-- Ranges that a descriptor may name lie in this module. -/
theorem lies_all {s : State} {w : Work} {ps : List Span} (hs : Still s) (h : ∀ p ∈ ps, liesB s w p = true) : ∀ p ∈ ps, Lies s w p :=
  fun p hp => lies_of hs (h p hp)

/-- The bytes of a range lie in its frame. -/
theorem within_frame {s : State} {rs : List Span} (hs : Still s) (h : ∀ p ∈ rs, p.2.1 + p.2.2 ≤ 65536 ∧ inFrame s p.1 = true)
    {a : Nat} (ha : Within s rs a) : ∃ p ∈ rs, a / 65536 = frameNo s p.1 := by
  obtain ⟨p, hp, d, hd, hl⟩ := ha
  rw [locate_frame hs (h p hp).2 (by have := (h p hp).1; omega)] at hl
  injection hl with hl
  exact ⟨p, hp, by have := (h p hp).1; omega⟩

/-- Ranges in other frames share no byte. -/
theorem apart_of {s : State} {rs qs : List Span} (hs : Still s)
    (h : (∀ p ∈ rs, p.2.1 + p.2.2 ≤ 65536 ∧ inFrame s p.1 = true) ∧ (∀ p ∈ qs, p.2.1 + p.2.2 ≤ 65536 ∧ inFrame s p.1 = true) ∧
      ∀ p ∈ rs, ∀ q ∈ qs, frameNo s p.1 ≠ frameNo s q.1) : Apart s rs qs := by
  intro a ha hb
  obtain ⟨p, hp, h1⟩ := within_frame hs h.1 ha
  obtain ⟨q, hq, h2⟩ := within_frame hs h.2.1 hb
  exact h.2.2 p hp q hq (h1.symm.trans h2)

/-- The bytes of a range in a frame have addresses of their own. -/
theorem injective_of {s : State} {p : Span} (hs : Still s) (h : p.2.1 + p.2.2 ≤ 65536 ∧ inFrame s p.1 = true) :
    Injective s p := by
  intro d e a hd he h1 h2
  rw [locate_frame hs h.2 (by omega)] at h1 h2
  injection h1 with h1
  injection h2 with h2
  omega

/-- A byte of an object in a frame lies here. -/
theorem here_of {s : State} {n d : Nat} (hs : Still s) (h : d < 65536 ∧ inFrame s n = true) :
    ∃ a, locate s (objOf s n) d = .here a := ⟨_, locate_frame hs h.2 h.1⟩

/-- A statement about the numbers in a range, in either order of its bounds. -/
theorem upward {n m : Nat} {P : Nat → Prop} (h : ∀ k, k < n → m ≤ k → P k) : ∀ k, m ≤ k → k < n → P k := fun k a b => h k b a

/-- A statement about the pairs of two ranges. -/
theorem pairs_of {n m : Nat} {P : Nat → Nat → Prop} (h : ∀ i, i < n → ∀ j, j < m → P i j) : ∀ i j, i < n → j < m → P i j :=
  fun i j a b => h i a j b

/-- Bytes of an object in a frame lie here. -/
theorem here_all {s : State} {n m : Nat} {f : Nat → Nat} (hs : Still s) (h : ∀ e, e < m → f e < 65536 ∧ inFrame s n = true) :
    ∀ e, e < m → ∃ a, locate s (objOf s n) (f e) = .here a := fun e he => here_of hs (h e he)

/-- A statement about the entries of a list whose entries are all `y`. -/
theorem entries_of {f : Nat → Option Nat} {n y : Nat} {P : Nat → Prop} (h : ∀ i, i < n → f i = some y) (hp : P y) :
    ∀ i x, i < n → f i = some x → P x := by
  intro i x hi hx
  rw [h i hi] at hx
  cases hx
  exact hp

/-- The rows of an update lie in this module. -/
theorem rows_of {s : State} {w : Work} {rows : List Nat} {P : Nat → Prop} {f g : Nat → List Span} (hs : Still s)
    (h : ∀ x ∈ rows, P x ∧ (∀ p ∈ f x, liesB s w p = true) ∧ ∀ p ∈ g x, liesB s w p = true) :
    ∀ x ∈ rows, P x ∧ (∀ p ∈ f x, Lies s w p) ∧ ∀ p ∈ g x, Lies s w p :=
  fun x hx => ⟨(h x hx).1, lies_all hs (h x hx).2.1, lies_all hs (h x hx).2.2⟩

/-- A descriptor in its engine with nothing of it done. -/
theorem begins_of {op : Nat} {r : WRef} {s : State} {w : Work}
    (h : (findWork s r = some w ∧ w.op = op ∧ w.req = none ∧ computing s = true ∧ w.phase = .running) ∧
      w.status = 0x0000 ∧ (w.rbuf = [] ∧ w.readFail = none) ∧ (w.ver = none ∧ w.vers = []) ∧ (w.names = [] ∧ w.cursor = 0) ∧ w.holds = []) :
    Begins op r s s w := ⟨enters_of h.1, ⟨h.2.1, h.2.2.1, h.2.2.2.1, h.2.2.2.2.1, h.2.2.2.2.2⟩⟩

theorem wit_publish : let w := work 0x0511 [(16, 2, 255)] .running
    Begins 0x0511 (.q 0 0) (atTime (fetched w) 0) (fetched w) w ∧ w.f 16 2 < 256 ∧ (Tab.get {} (fetched w).slots 255).old = none ∧
    (∀ v ∈ (fetched w).work, v.ref ≠ .q 0 0 → v.order < w.order → mayWrite (fetched w) 0 v = false) :=
  ⟨begins_of (by decide +kernel), by decide, by decide, by decide +kernel⟩

/-! ## Completion rings (CompletionRing) -/

/-- A descriptor whose result is decided, in a queue whose ring and CPI word lie in host memory or in aperture 0; its vector
7 is masked or not; `n` records make a notice. -/
def ringsState (w : Work) (apt masked : Bool) (n : Nat) : State :=
  { withRegs noon [(Key.cxlLinkState, 2), (Key.queueComplBase, 2 ^ 40), (Key.queueCpiAddr, 2 ^ 40 + 2048), (Key.queueVector, 7),
      (Key.queueIrqCount, n)] with
    work := [w], objs := [(1, pageObj 1 (2 ^ 25))]
    queues := [(0, { complApt := apt, cpiApt := apt, hdmBase := 2 ^ 40 })]
    cxl := { ready := true, hdm := some (2 ^ 40, 2 ^ 38), apts := [(0, { state := .bound, obj := 1, len := 65536 })],
             msix := if masked then [] else [(31, 1)] } }

theorem wit_ring : ∀ w ∈ [work 0x0900 [(2, 2, 4)] .done, { work 0x0900 [] .done with status := 0x10 }], ∀ e ∈
      [(false, false, 1), (false, true, 1), (true, false, 1), (true, true, 1), (true, false, 2)],
    let s := ringsState w e.1 e.2.1 e.2.2
    let x := queueOf s 0
    findWork s (.q 0 0) = some w ∧ w.phase = .done ∧ dueStatus s w = some w.status ∧ (w.cw || !success w.status) = true ∧
    reg s Key.cxlLinkState = 2 ∧ x.lost = false ∧ genOf 0 = x.gen ∧ canRecord s w = true ∧ x.cpiApt = x.complApt ∧
    aptTarget s x.hdmBase (reg s Key.queueComplBase) = (1, 0) ∧ aptTarget s x.hdmBase (reg s Key.queueCpiAddr) = (1, 2048) ∧
    bit (msixWord s.cxl 31) 0 = e.2.1 ∧ inFrame s 1 = true := by decide +kernel

theorem wit_ring_object (e : Bool × Nat) (he : e ∈ [(false, 1), (true, 1), (false, 2)]) :
    let s := ringsState (work 0x0900 [(2, 2, 4)] .done) true e.1 e.2
    (Plain s 1 ∧ (objOf s 1).num = 1 ∧ Injective s (1, 0, 32) ∧ Injective s (1, 2048, 4)) ∧ Apart s [(1, 0, 32)] [(1, 2048, 4)] := by
  intro s
  have hs : Still s := still_of ⟨rfl, rfl, rfl, rfl, rfl, rfl, rfl, rfl, rfl, rfl⟩
  have hf : inFrame s 1 = true := by fin_cases he <;> decide +kernel
  refine ⟨⟨⟨rfl, rfl, rfl⟩, rfl, injective_of hs ⟨by decide, hf⟩, injective_of hs ⟨by decide, hf⟩⟩, fun a ha hb => ?_⟩
  obtain ⟨p, hp, d, hd, h1⟩ := ha
  obtain ⟨q, hq, c, hc, h2⟩ := hb
  simp only [List.mem_singleton] at hp hq
  subst hp hq
  rw [locate_frame hs hf (by dsimp only at hd ⊢; omega)] at h1
  rw [locate_frame hs hf (by dsimp only at hc ⊢; omega)] at h2
  injection h1 with h1
  injection h2 with h2
  dsimp only at hd hc h1 h2
  omega


/-! ## Engines that run to their end -/

/-- Descriptor 0 of queue 0. -/
abbrev q0 : WRef := .q 0 0

/-- The SAMPLE of one seed, one hop of one slot. -/
def sampleW : Work := work 0x0300 [(16, 8, 2 ^ 40), (24, 8, 4 * 2 ^ 40), (32, 8, 3 * 2 ^ 40), (44, 4, 1)] .running
/-- A graph of one node and one edge of weight 0 in objects 1, 2 and 5; a path object, 3; a seed, 4. -/
def graphS (w : Work) : State :=
  arena w [pageObj 1 1, pageObj 2 2, pageObj 3 3, pageObj 4 4, pageObj 5 5]
    [(0x10000, leBytes 8 (2 * 2 ^ 40) ++ leBytes 8 (2 * 2 ^ 40 + 64) ++ leBytes 8 (2 * 2 ^ 40 + 128)), (0x10020, leBytes 8 (5 * 2 ^ 40)),
     (0x10028, [1]), (0x10030, [1]), (0x10038, [20]), (0x20004, [1]), (0x30000, [1, 0, 1]), (0x30008, [1]), (0x30010, [1])]

theorem wit_sample (h : Obligations.SamplersComplete) :
    ∃ t, exec (.sample q0) (graphS sampleW) = .next t := by
  have hs : Still (graphS sampleW) := still_of (by decide)
  refine (h.1 (graphS sampleW) q0 _ sampleW (begins_of ?_) hs ?_ ?_ ?_ ?_ (upward ?_) ?_ ?_ ?_ ?_ (lies_of hs ?_) (lies_of hs ?_)
    (lies_all hs ?_) ?_ (apart_of hs ?_) (injective_of hs ?_) ?_ ?_ ⟨?_, ?_⟩ (fun h => absurd h ?_) ?_).imp (fun _ h => h.1) <;> decide +kernel

/-- The SMP_PREFIX of that graph's node. -/
def prefixW : Work := work 0x0301 [(16, 8, 2 ^ 40), (48, 8, 1)] .running

theorem wit_prefix (h : Obligations.SamplersComplete) :
    ∃ t, exec (.smpPrefix q0) (graphS prefixW) = .next t ∧ Finishes (graphS prefixW) t q0 [(5, 0, 8)] := by
  have hs : Still (graphS prefixW) := still_of (by decide)
  have hl : ∀ a ∈ (graphOf (bytesAt (graphS prefixW) (prefixW.f 16 8) 64)).arrays,
      liesB (graphS prefixW) prefixW (spanOf a.1 a.2) = true := by decide +kernel
  refine h.2.1 (graphS prefixW) q0 _ prefixW (begins_of ?_) hs (lies_of hs ?_) (fun a ha => lies_of hs (hl a ha)) ?_ ?_ ?_ ?_ ?_
    ⟨?_, ?_⟩ ?_ (apart_of hs ?_) <;> decide +kernel

/-- The COMPACT of one entry. -/
def compactW : Work := work 0x0302 [(16, 8, 2 ^ 40), (24, 8, 2 * 2 ^ 40), (32, 8, 3 * 2 ^ 40), (40, 4, 1), (48, 8, 4 * 2 ^ 40)] .running

theorem wit_compact (h : Obligations.SamplersComplete) :
    ∃ t, exec (.compact q0) (graphS compactW) = .next t ∧ Finishes (graphS compactW) t q0 [(2, 0, 8), (3, 0, 4), (4, 0, 16)] := by
  have hs : Still (graphS compactW) := still_of (by decide)
  have hl : ∀ o ∈ [(compactW.f 24 8, 8 * compactW.f 40 4), (compactW.f 32 8, 4 * compactW.f 40 4), (compactW.f 48 8, 16 * compactW.f 40 4)],
      liesB (graphS compactW) compactW (spanOf o.1 o.2) = true := by decide +kernel
  refine h.2.2 (graphS compactW) q0 _ compactW (begins_of ?_) hs ?_ ?_ (lies_of hs ?_) (fun o ho => lies_of hs (hl o ho)) ?_ ?_ <;>
    decide +kernel

/-- The BUILD of the list of one centre: system in object 1, positions in 2, outputs in 3, 4 and 5. -/
def buildW : Work := work 0x0400 [(16, 8, 2 ^ 40), (24, 8, 3 * 2 ^ 40), (32, 8, 4 * 2 ^ 40), (40, 8, 5 * 2 ^ 40), (48, 4, 0x3F800000),
  (52, 2, 1), (60, 4, 1)] .running
/-- A system of one atom in a cube of edge 8. -/
def buildS : State :=
  arena buildW [pageObj 1 1, pageObj 2 2, pageObj 3 3, pageObj 4 4, pageObj 5 5]
    [(0x10000, leBytes 8 (2 * 2 ^ 40) ++ leBytes 4 1), (0x10010, leBytes 4 0x41000000), (0x10020, leBytes 4 0x41000000),
     (0x10030, leBytes 4 0x41000000)]

theorem wit_build (h : Obligations.BuilderCompletes) : ∃ t, exec (.build q0) buildS = .next t := by
  have hs : Still buildS := still_of (by decide)
  have hl : ∀ o ∈ [(buildW.f 24 8, 64 + 3 * 64), (buildW.f 32 8, 3 * 64), (buildW.f 40 8, 4)],
      liesB buildS buildW (spanOf o.1 o.2) = true := by decide +kernel
  refine (h.1 buildS q0 _ buildW (begins_of ?_) hs (2 ^ 149) { a1x := 2 ^ 152, a2x := 0, a2y := 2 ^ 152, a3x := 0, a3y := 0, a3z := 2 ^ 152 }
    ?_ ?_ ?_ ?_ ?_ ?_ ?_ ?_ ?_ ?_ ?_ (lies_of hs ?_) (lies_of hs ?_) (fun o ho => lies_of hs (hl o ho)) ?_ ?_ ?_ ?_).imp
    (fun _ h => h.1) <;> decide +kernel

/-- A staging object of one row of XA128 elements, in frame `k`. -/
def stageObj (n k len : Nat) : Obj := { num := n, fmt := 11, rowlen := len, rows := 1, pages := [{ page := 0, home := .frame (65536 * k) }] }
/-- EDGE_GRAD and EDGE_DIFF of one slot: path in object 1, gradients or positions in 2, forces or output in 3, cell in 4. -/
def edgeW (op : Nat) : Work := work op [(16, 8, 2 ^ 40), (24, 8, 2 * 2 ^ 40), (32, 8, 3 * 2 ^ 40), (40, 8, 4 * 2 ^ 40), (52, 4, 1), (56, 1, 1)] .running
/-- The path object of one edge of one atom. -/
def edgeS (op : Nat) : State :=
  arena (edgeW op) [pageObj 1 1, pageObj 2 2, if op = 0x0401 then stageObj 3 3 3 else pageObj 3 3,
    if op = 0x0401 then stageObj 4 4 9 else pageObj 4 4] [(0x10000, [2, 0, 1]), (0x10008, [1]), (0x10010, [1])]

theorem wit_radius (op : Nat) (h : op ∈ [0x0401, 0x0402]) : RadiusOk (edgeS op) (edgeW op) 1 1 := by
  have hs : Still (edgeS op) := by fin_cases h <;> exact still_of (by decide)
  refine ⟨lies_of hs ?_, ?_, ?_, ?_, ?_, ?_⟩ <;> fin_cases h <;> decide +kernel

theorem wit_edgeGrad (h : Obligations.BuilderCompletes) :
    ∃ t, exec (.edgeGrad q0) (edgeS 0x0401) = .next t ∧
      FinishesAdding (edgeS 0x0401) t q0 (edgeAddends (edgeS 0x0401) (edgeW 0x0401) 1 1) := by
  have hs : Still (edgeS 0x0401) := still_of (by decide)
  refine h.2.1 (edgeS 0x0401) q0 _ (edgeW 0x0401) (begins_of ?_) hs 1 1 (wit_radius _ (by decide)) (lies_of hs ?_) (lies_of hs ?_)
    (fun _ => lies_of hs ?_) ?_ ?_ ?_ (here_all hs ?_) (fun _ => ⟨?_, ?_, ?_, here_all hs ?_⟩) ?_ ?_ (fun _ => ?_) <;> decide +kernel

theorem wit_edgeDiff (h : Obligations.BuilderCompletes) : ∃ t, exec (.edgeDiff q0) (edgeS 0x0402) = .next t := by
  have hs : Still (edgeS 0x0402) := still_of (by decide)
  refine (h.2.2 (edgeS 0x0402) q0 _ (edgeW 0x0402) (begins_of ?_) hs 1 1 (wit_radius _ (by decide)) ?_ (lies_of hs ?_) (lies_of hs ?_)
    (fun _ => lies_of hs ?_) ?_ ?_ (fun _ => ?_) (apart_of hs ?_)).imp (fun _ h => h.1) <;> decide +kernel

/-! ## The gather-scatter engine -/

/-- A row object of two rows of four 4-byte integers. -/
def rowObj (n k : Nat) : Obj := { num := n, fmt := 4, rowlen := 4, rows := 2, pages := [{ page := 0, home := .frame (65536 * k) }] }
/-- A descriptor of the engine over rows of object 1, with byte objects 2 and 3 and staging object 5; the index is 1. -/
def gatherS (w : Work) : State :=
  arena w [rowObj 1 1, pageObj 2 2, pageObj 3 3, { stageObj 5 5 4 with rows := 2 }] [(0x20000, [1])]

/-- GATHER of row 1. -/
def gatherW : Work := work 0x0500 [(16, 8, 2 ^ 40), (24, 8, 2 * 2 ^ 40), (32, 8, 3 * 2 ^ 40), (40, 4, 1), (48, 4, 16)] .running

theorem wit_gather (h : Obligations.GatherScatterCompletes) : ∃ t, exec (.gather q0) (gatherS gatherW) = .next t := by
  have hs : Still (gatherS gatherW) := still_of (by decide)
  refine (h.1 (gatherS gatherW) q0 _ gatherW (begins_of ?_) hs ?_ ?_ ?_ ?_ ?_ ?_ (lies_of hs ?_) (lies_of hs ?_) ?_ ?_ ?_ (apart_of hs ?_)
    (fun h => absurd h ?_) (entries_of (y := 1) ?_ ⟨?_, ?_, here_all hs ?_⟩)).imp (fun _ h => h.1) <;> decide +kernel

/-- SCATTER_ADD of four BF16 elements to row 1 of the staging object. -/
def scatterAddW : Work := work 0x0501 [(16, 8, 3 * 2 ^ 40), (24, 8, 2 * 2 ^ 40), (32, 8, 5 * 2 ^ 40), (40, 4, 1), (48, 4, 4), (52, 1, 8)] .running

theorem wit_scatterAdd (h : Obligations.GatherScatterCompletes) :
    ∃ t, exec (.scatterAdd q0) (gatherS scatterAddW) = .next t ∧
      FinishesAdding (gatherS scatterAddW) t q0 (scatterAddends (gatherS scatterAddW) scatterAddW 0) := by
  have hs : Still (gatherS scatterAddW) := still_of (by decide)
  refine h.2.1 (gatherS scatterAddW) q0 _ scatterAddW (begins_of ?_) hs 0 ?_ ?_ ?_ ?_ ?_ (fun h => absurd h ?_) ?_ ?_ ?_ ?_ ?_ (lies_of hs ?_)
    (lies_of hs ?_) ?_ ?_ ?_ (entries_of (y := 1) ?_ ⟨?_, ?_, here_all hs ?_⟩) <;> decide +kernel

/-- SCATTER_WRITE of row 1. -/
def scatterWriteW : Work := work 0x0502 [(16, 8, 2 ^ 40), (24, 8, 2 * 2 ^ 40), (32, 8, 3 * 2 ^ 40), (40, 4, 1), (48, 4, 16)] .running

theorem wit_scatterWrite (h : Obligations.GatherScatterCompletes) : ∃ t, exec (.scatterWrite q0) (gatherS scatterWriteW) = .next t := by
  have hs : Still (gatherS scatterWriteW) := still_of (by decide)
  refine (h.2.2.1 (gatherS scatterWriteW) q0 _ scatterWriteW (begins_of ?_) hs ?_ ?_ ?_ ?_ ?_ (lies_of hs ?_) (lies_of hs ?_) ?_ ?_ ?_
    (entries_of (y := 1) ?_ ?_) (lies_all hs ?_) (apart_of hs ?_)).imp (fun _ h => h.1) <;> decide +kernel

/-- READOUT of row 1 as FP32, which clears it; CLEAR of row 1. -/
def readoutW : Work := work 0x0503 [(16, 8, 5 * 2 ^ 40), (24, 8, 3 * 2 ^ 40), (32, 4, 1), (36, 4, 1), (40, 1, 9), (41, 1, 1)] .running
/-- The CLEAR. -/
def clearW : Work := work 0x0504 [(16, 8, 5 * 2 ^ 40), (32, 4, 1), (36, 4, 1)] .running

theorem wit_readout (h : Obligations.GatherScatterCompletes) : ∃ t, exec (.readout q0) (gatherS readoutW) = .next t := by
  have hs : Still (gatherS readoutW) := still_of (by decide)
  refine (h.2.2.2.1 (gatherS readoutW) q0 _ readoutW (begins_of ?_) hs ?_ ?_ ?_ ?_ ?_ ?_ ?_ ?_ ?_ ?_ (lies_of hs ?_) ?_
    (lies_all hs ?_)).imp (fun _ h => h.1) <;> decide +kernel

theorem wit_clear (h : Obligations.GatherScatterCompletes) : ∃ t, exec (.clear q0) (gatherS clearW) = .next t := by
  have hs : Still (gatherS clearW) := still_of (by decide)
  refine (h.2.2.2.2.1 (gatherS clearW) q0 _ clearW (begins_of ?_) hs ?_ ?_ ?_ ?_ ?_ ?_ ?_ (lies_all hs ?_)).imp (fun _ h => h.1) <;>
    decide +kernel

/-- PIN_REFRESH of one entry; PROMOTE of row 1. -/
def pinW : Work := work 0x0510 [(16, 8, 3 * 2 ^ 40), (40, 4, 1)] .running
/-- The PROMOTE. -/
def promoteW : Work := work 0x0512 [(16, 8, 2 ^ 40), (24, 8, 2 * 2 ^ 40), (40, 4, 1)] .running

theorem wit_pinRefresh (h : Obligations.GatherScatterCompletes) : ∃ t, exec (.pinRefresh q0) (gatherS pinW) = .next t := by
  have hs : Still (gatherS pinW) := still_of (by decide)
  obtain ⟨t, _, h, _⟩ := h.2.2.2.2.2.1 (gatherS pinW) q0 _ pinW (begins_of (by decide +kernel)) hs (by decide) (lies_of hs (by decide +kernel))
  exact ⟨t, h⟩

theorem wit_promote (h : Obligations.GatherScatterCompletes) : ∃ t, exec (.promote q0 0) (gatherS promoteW) = .next t := by
  have hs : Still (atTime (gatherS promoteW) 0) := still_of (by decide)
  refine (h.2.2.2.2.2.2 (gatherS promoteW) q0 _ promoteW 0 (begins_of ?_) hs ?_ ?_ (lies_of hs ?_)
    (entries_of (y := 1) ?_ ⟨?_, ?_, fun d hd => .inl (here_all hs ?_ d hd)⟩)).imp (fun _ h => h.1) <;> decide +kernel


/-! ## Updates, saves, checkpoints, the bind -/

/-- A row object of one row of four FP32 elements with a role, in the frame of its number. -/
def fpObj (n role : Nat) : Obj := { num := n, fmt := 9, role := role, rowlen := 4, rows := 1, pages := [{ page := 0, home := .frame (65536 * n) }] }
/-- An update of row 0: weights 1, gradients 2, states 3 and 4, parameters 5; with CTL bit 3. -/
def updW (op : Nat) : Work := work op [(16, 8, 2 ^ 40), (24, 8, 2 * 2 ^ 40), (32, 8, 3 * 2 ^ 40), (40, 8, 4 * 2 ^ 40), (48, 8, 5 * 2 ^ 40),
  (56, 4, 1), (60, 1, 8)] .running
/-- The module with it. -/
def updS (op : Nat) : State :=
  arena (updW op) [fpObj 1 0, { stageObj 2 2 4 with role := 3 }, fpObj 3 4, fpObj 4 4, pageObj 5 5] []

theorem wit_updates (h : Obligations.UpdatesComplete) :
    ∀ e ∈ [(Instr.updSgd q0, 0x0600), (Instr.updAdam q0, 0x0601), (Instr.updAdagrad q0, 0x0602)], ∃ t, exec e.1 (updS e.2) = .next t := by
  have run (c : WRef → Instr) (op : Nat)
      (hc : (c, op) = (Instr.updSgd, 0x0600) ∨ (c, op) = (Instr.updAdam, 0x0601) ∨ (c, op) = (Instr.updAdagrad, 0x0602))
      (ho : op ∈ [0x0600, 0x0601, 0x0602]) : ∃ t, exec (c q0) (updS op) = .next t := by
    have hs : Still (updS op) := by fin_cases ho <;> exact still_of (by decide)
    refine (h.1 c op hc (updS op) q0 _ (updW op) (begins_of ?_) hs (lies_of hs ?_) ?_ ?_ ?_ ?_ ?_ (fun _ => ?_) (fun h => absurd h ?_)
      (fun h => absurd h ?_) ?_ ?_ (fun h => absurd h ?_) (rows_of hs ?_)).imp (fun _ h => h.1) <;> fin_cases ho <;> decide +kernel
  intro e he
  fin_cases he
  · exact run _ _ (.inl rfl) (by decide)
  · exact run _ _ (.inr (.inl rfl)) (by decide)
  · exact run _ _ (.inr (.inr rfl)) (by decide)

/-- An object of 4,096 bytes in HBM. -/
def bulkObj (n : Nat) : Obj := pageObj n (2 ^ 24 + n)
/-- SAVE of a row of four FP32 elements as BF16. -/
def saveW : Work := work 0x0700 [(16, 8, 2 ^ 40), (24, 8, 2 * 2 ^ 40), (32, 4, 1), (36, 4, 4), (40, 1, 0x89)] .running
/-- RESTORE of it. -/
def restoreW : Work := work 0x0701 [(16, 8, 2 * 2 ^ 40), (24, 8, 2 ^ 40), (36, 4, 1), (40, 1, 9)] .running
/-- A source, and an area of one tile of 64 zeros stored as they are. -/
def saveS (w : Work) : State :=
  arena w [pageObj 1 1, bulkObj 2]
    [(2 ^ 40 + 0x20000, [3, 0, 8, 1, 1, 0, 0, 0, 1, 0, 0, 0, 4, 0, 0, 0] ++ leBytes 8 208), (2 ^ 40 + 0x20040, [8]),
     (2 ^ 40 + 0x20080, leBytes 2 64 ++ leBytes 2 64 ++ leBytes 4 8 ++ leBytes 4 (crc32 (List.replicate 64 0)))]

theorem wit_save (h : Obligations.SavesComplete) : ∃ t, exec (.save q0) (saveS saveW) = .next t := by
  have hs : Still (saveS saveW) := still_of (by decide +kernel)
  refine (h.1 (saveS saveW) q0 _ saveW (begins_of ?_) hs ?_ ?_ ?_ ?_ ?_ ?_ (lies_of hs ?_) (lies_of hs ?_) ?_ ?_ ?_ ?_).imp
    (fun _ h => h.1) <;> decide +kernel

theorem wit_restore (h : Obligations.SavesComplete) : ∃ t, exec (.restore q0) (saveS restoreW) = .next t := by
  have hs : Still (saveS restoreW) := still_of (by decide +kernel)
  refine (h.2.1 (saveS restoreW) q0 _ restoreW { f := .bf16, tiles := 1, rows := 1, n := 4, used := 208 } (begins_of ?_) hs ?_ ?_ ?_ ?_ ?_ ?_
    (lies_of hs ?_) (lies_of hs ?_) (lies_of hs ?_) ?_ ?_ (fun k h1 h2 => ?_)).imp (fun _ h => h.1) <;> (try decide +kernel)
  obtain rfl : k = 0 := by
    have : k ≤ 0 := h2
    omega
  refine ⟨?_, ?_, ?_, ?_, ?_, ?_, ?_, ?_, ?_⟩ <;> decide +kernel

/-- CKPT_EXPORT of object 2, which object 1 lists; CKPT_IMPORT of it. -/
def exportW : Work := work 0x0702 [(16, 8, 2 ^ 40), (32, 4, 1)] .running
/-- The import. -/
def importW : Work := work 0x0703 [] .running
/-- The manifest. -/
def manifest : List Byte := leBytes 4 2 ++ [9, 0, 0, 0] ++ leBytes 8 64 ++ leBytes 8 128 ++ leBytes 4 (crc32 (List.replicate 64 0)) ++ leBytes 4 0
/-- The header. -/
def ckptHead : List Byte := [4, 0, 0, 0, 1] ++ List.replicate 27 0 ++ leBytes 4 (crc32 manifest) ++ List.replicate 28 0
/-- The module with a checkpoint in host memory. -/
def ckptS (w : Work) : State :=
  { withRegs (arena w [pageObj 1 1, fpObj 2 0] [(0x10000, [2])]) [(Key.ckptSize, 4096), (Key.cxlLinkState, 2)] with
    host := Tab.setRange 0 [] 0 (ckptHead ++ manifest) }

theorem wit_export (h : Obligations.SavesComplete) : ∃ t, exec (.ckptExport q0) (ckptS exportW) = .next t := by
  have hs : Still (ckptS exportW) := still_of (by decide +kernel)
  have hn : (List.range (exportW.f 32 4)).map (fun i => numAt (ckptS exportW) (exportW.f 16 8) (4 * i) 4) = [2] := by decide +kernel
  obtain ⟨t, _, h, _⟩ := h.2.2.1 (ckptS exportW) q0 _ exportW (begins_of (by decide +kernel)) hs (by decide) (by decide) (by decide) (by decide +kernel)
    (lies_of hs (by decide +kernel))
    (by rw [hn]; intro k hk; obtain rfl := List.mem_singleton.mp hk
        exact ⟨by decide, by decide +kernel, here_all hs (by decide +kernel), fun h => absurd h (by decide)⟩)
    (by decide +kernel) (by decide +kernel)
  exact ⟨t, h⟩

theorem wit_import (h : Obligations.SavesComplete) : ∃ t, exec (.ckptImport q0) (ckptS importW) = .next t := by
  have hs : Still (ckptS importW) := still_of (by decide +kernel)
  refine (h.2.2.2 (ckptS importW) q0 _ importW ckptHead manifest (begins_of ?_) hs ?_ ?_ ?_ ?_ ?_ ?_ ?_ ?_
    (fun i hi => ?_)).imp (fun _ h => h.1) <;> (try decide +kernel)
  obtain rfl : i = 0 := by
    have : i < 1 := hi
    omega
  exact ⟨by decide +kernel, by decide +kernel, by decide +kernel, by decide +kernel, by decide +kernel, here_all hs (by decide +kernel),
    ⟨List.replicate 64 0, by decide +kernel, by decide +kernel⟩, fun h => absurd h (by decide +kernel)⟩

/-- PRD_BIND of one 8-bit weight: weights in object 1, table 2, L1 words 3. -/
def bindW : Work := work 0x0930 [(16, 8, 2 ^ 40), (24, 8, 2 * 2 ^ 40), (32, 8, 3 * 2 ^ 40), (40, 4, 1), (44, 4, 1), (48, 1, 2), (50, 1, 8), (53, 1, 63)] .running
/-- The module with it. -/
def bindS : State := arena bindW [pageObj 1 1, pageObj 2 2, pageObj 3 3] []

theorem wit_bind (h : Obligations.UpdatesComplete) : ∃ t, exec (.prdBind q0) bindS = .next t := by
  have hs : Still bindS := still_of (by decide +kernel)
  refine (h.2 bindS q0 _ bindW .s8 (begins_of ?_) hs ?_ ?_ ?_ ?_ ?_ ?_ ?_ ?_ ?_ ?_ ?_ ?_ (fun h => absurd h ?_) (lies_of hs ?_) ?_
    (lies_of hs ?_)).imp (fun _ h => h.1) <;> decide +kernel


/-! ## Arrays -/

/-- A contraction of one row, one column and one index, of the opcode, its policy and modes in byte 60. -/
def matWork (op k modes : Nat) (ph : Phase) : Work :=
  { work op [(16, 8, 2 ^ 40), (24, 8, 2 * 2 ^ 40), (32, 8, 3 * 2 ^ 40), (40, 8, 4 * 2 ^ 40), (48, 4, 1), (52, 3, k),
      (55, 1, 0x42), (56, 4, 1), (60, 2, modes)] ph with
    names := if op = 0x0103 ∧ ph = .running then [0] else [] }

/-- The module with it: operands in objects 1 and 2, metadata of one group of four, output 3, bin list 4 of one row of expert 0,
predictor table 5, L1 words 6. -/
def matS (w : Work) : State :=
  arena w [pageObj 1 1, pageObj 2 2, pageObj 3 3, pageObj 4 4, pageObj 5 5, pageObj 6 6] [(0x20040, [4]), (0x40004, [1])]

/-- A bind slot for it, stamped before the weights were last written. -/
def matBind : Bind := { wgt := 2 * 2 ^ 40, table := 5 * 2 ^ 40, l1 := 6 * 2 ^ 40, k := 4, n := 1, fmt := 2, rank := 8, used := true, stamp := 9 }

theorem wit_bin (w : Work) (hs : Still (matS w)) (h : w.op = 0x0103 → liesB (matS w) w (spanOf (w.f 40 8) 64) = true ∧
    numAt (matS w) (w.f 40 8) 4 4 ≠ 0 ∧ liesB (matS w) w (spanOf (w.f 40 8) (64 + 4 * numAt (matS w) (w.f 40 8) 4 4)) = true) :
    BinReady (matS w) w := fun ho => ⟨lies_of hs (h ho).1, (h ho).2.1, lies_of hs (h ho).2.2⟩

/-- What the decision for a matrix descriptor leaves. -/
def matIssued (w : Work) (binds : Tab Bind) : State := (issue (markReady { matS w with binds := binds }) w).getD noon

/-- The start of a contraction of each opcode, its policy none and its weights not bound. -/
theorem wit_matrixStart (h : Obligations.MatrixCompletes) (c : WRef → Instr) (op k : Nat)
    (hc : (c, op) = (Instr.denseContraction, 0x0100) ∨ (c, op) = (Instr.sparseContraction, 0x0101) ∨
      (c, op) = (Instr.elementWiseProduct, 0x0102) ∨ (c, op) = (Instr.expertRoutedContraction, 0x0103))
    (ho : (op, k) ∈ [(0x0100, 4), (0x0101, 4), (0x0102, 1), (0x0103, 4)]) : ∃ t, exec (c q0) (matS (matWork op k 0 .fetched)) = .next t := by
  have hs : Still (matIssued (matWork op k 0 .fetched) []) := by
    simp only [List.mem_cons, List.not_mem_nil, Prod.mk.injEq, or_false] at ho
    rcases ho with ⟨rfl, rfl⟩ | ⟨rfl, rfl⟩ | ⟨rfl, rfl⟩ | ⟨rfl, rfl⟩ <;> exact still_of (by decide +kernel)
  have hs1 : Still (started (matIssued (matWork op k 0 .fetched) []) (matWork op k 0 .fetched) 0).1 := ⟨hs.1, hs.2, hs.3, hs.4, hs.5, hs.6, hs.7, hs.8, hs.9, hs.10⟩
  refine (h.1 c op hc (matS (matWork op k 0 .fetched)) (matIssued (matWork op k 0 .fetched) []) q0 (matWork op k 0 .fetched) 0
    (starts_of ?_) ⟨?_, ?_, ?_, ?_, ?_⟩ ?_ ?_ hs ?_ (fun h => ⟨lies_of hs1 ?_, ?_, lies_of hs1 ?_⟩)
    ⟨?_, ⟨?_, lies_of hs1 ?_⟩, ?_, fun h => ⟨lies_of hs1 ?_, ?_, ?_⟩, fun h => absurd h ?_, ?_, ?_⟩ [] (.inl ⟨?_, rfl⟩)).imp (fun _ h => h.choose_spec.1)
  all_goals
    simp only [List.mem_cons, List.not_mem_nil, Prod.mk.injEq, or_false] at ho
    rcases ho with ⟨rfl, rfl⟩ | ⟨rfl, rfl⟩ | ⟨rfl, rfl⟩ | ⟨rfl, rfl⟩ <;> first | decide +kernel | exact absurd h (by decide +kernel)

/-- The start of one whose weights were written since they were bound. -/
theorem wit_matrixStart_bound (h : Obligations.MatrixCompletes) :
    ∃ t, exec (.denseContraction q0) { matS (matWork 0x0100 4 16 .fetched) with binds := [(0, matBind)] } = .next t := by
  have hs : Still (matIssued (matWork 0x0100 4 16 .fetched) [(0, matBind)]) := still_of (by decide +kernel)
  have hs1 : Still (started (matIssued (matWork 0x0100 4 16 .fetched) [(0, matBind)]) (matWork 0x0100 4 16 .fetched) 0).1 :=
    ⟨hs.1, hs.2, hs.3, hs.4, hs.5, hs.6, hs.7, hs.8, hs.9, hs.10⟩
  refine (h.1 .denseContraction 0x0100 (.inl rfl) _ (matIssued (matWork 0x0100 4 16 .fetched) [(0, matBind)]) q0 (matWork 0x0100 4 16 .fetched) 0
    (starts_of ?_) ⟨?_, ?_, ?_, ?_, ?_⟩ ?_ ?_ hs ?_ (fun h => absurd h ?_)
    ⟨?_, ⟨?_, lies_of hs1 ?_⟩, ?_, fun h => absurd ?_ h, fun h => absurd h ?_, ?_, ?_⟩ _ (.inr ⟨0, matBind, ?_, ?_, .inr ⟨?_, rfl, lies_of hs1 ?_⟩⟩)).imp
    (fun _ h => h.choose_spec.1) <;> decide +kernel

/-- An array that runs it. -/
def arrS (op modes : Nat) (a : ArrUnit) : State :=
  { matS (matWork op (if op = 0x0102 then 1 else 4) modes .running) with arr := [(0, { a with work := some q0 })] }

/-- SWAP of the first stationary: of a batch not begun, of a sparse one begun, of one that the predictor works for. -/
theorem wit_swap (h : Obligations.MatrixCompletes) (op modes : Nat) (a : ArrUnit)
    (ho : (op, modes, a) ∈ [(0x0100, 0, {}), (0x0101, 0, { begun := true, blocks := [[0]], amax := [some 0], wmax := [some 0] }),
      (0x0103, 0, {}), (0x0100, 16, { bind := some matBind })]) :
    ∃ t, exec (.swap 0) (arrS op modes a) = .next t := by
  have hs : Still (arrS op modes a) := by
    simp only [List.mem_cons, List.not_mem_nil, Prod.mk.injEq, or_false] at ho
    rcases ho with ⟨rfl, rfl, rfl⟩ | ⟨rfl, rfl, rfl⟩ | ⟨rfl, rfl, rfl⟩ | ⟨rfl, rfl, rfl⟩ <;> exact still_of (by decide +kernel)
  refine (h.2.1 (arrS op modes a) 0 { a with work := some q0 } (matWork op (if op = 0x0102 then 1 else 4) modes .running) (by decide) ?_ ?_ hs ?_
    (lies_of hs ?_) (lies_of hs ?_) (fun h => lies_of hs ?_) (fun h => ⟨?_, pairs_of ?_, fun h => absurd h ?_⟩) ?_ ?_
    (fun h => absurd h ?_) ?_).imp (fun _ h => h.choose_spec.1)
  all_goals
    simp only [List.mem_cons, List.not_mem_nil, Prod.mk.injEq, or_false] at ho
    rcases ho with ⟨rfl, rfl, rfl⟩ | ⟨rfl, rfl, rfl⟩ | ⟨rfl, rfl, rfl⟩ | ⟨rfl, rfl, rfl⟩ <;> first
      | decide +kernel
      | exact absurd h (by decide +kernel)
      | intro b hb
        cases hb <;> exact ⟨by decide +kernel, by decide +kernel, lies_of hs (by decide +kernel), lies_of hs (by decide +kernel)⟩

/-- What a run that ends has answered. -/
theorem answer_of {ε σ α : Type} {x : Except ε α × σ} {o : α} {e : σ} {P : α → Bool} (h : x = (.ok o, e))
    (hx : (match x.1 with
      | .ok v => P v
      | .error _ => true) = true) : P o = true := by
  subst h
  exact hx

/-- A contraction of scaled operands whose maxima are supplied, its batch not begun or begun. -/
def maximaW : Work := { matWork 0x0100 4 8 .running with
  desc := desc 0x0100 [(16, 8, 2 ^ 40), (24, 8, 2 * 2 ^ 40), (32, 8, 3 * 2 ^ 40), (40, 8, 4 * 2 ^ 40), (48, 4, 1), (52, 3, 4),
    (55, 1, 0x46), (56, 4, 1), (60, 2, 8)] }
/-- The array that runs it. -/
def maximaA (begun : Bool) : ArrUnit :=
  { work := some q0, begun := begun, blocks := if begun then [[0]] else [], amax := if begun then [some 0] else [], wmax := [some 0] }
/-- The module with both. -/
def maximaS (begun : Bool) : State := { matS maximaW with arr := [(0, maximaA begun)] }

theorem wit_swap_supplied (h : Obligations.MatrixCompletes) (begun : Bool) : ∃ t, exec (.swap 0) (maximaS begun) = .next t := by
  have hs : Still (maximaS begun) := by cases begun <;> exact still_of (by decide +kernel)
  have hb : batchLen maximaW (maximaA begun).rb = 1 ∧ maximaW.mBlocks = 1 ∧ maximaW.mN = 1 ∧ maximaW.mM = 1 := by
    cases begun <;> decide +kernel
  have hm : MaximaKept (maximaS begun) (maximaA begun) maximaW := by
    refine ⟨fun i hi => ?_, fun i b o e hi hj h => ?_, fun i b o e hi hj h => ?_⟩
    · obtain rfl : i = 0 := by omega
      refine lies_of hs ?_
      cases begun <;> decide +kernel
    · obtain rfl : i = 0 := by omega
      obtain rfl : b = 0 := by omega
      refine answer_of (P := withinMax maximaW.mFmt (if (maximaA begun).begun = true then (maximaA begun).amax.getD 0 none
        else maxAt (maximaS begun) maximaW (maximaAt (maximaS begun) maximaW).1 (maximaAt (maximaS begun) maximaW).2 false
          ((maximaA begun).rb * batchMax maximaW.mFmt + 0))) h ?_
      cases begun <;> decide +kernel
    · obtain rfl : i = 0 := by omega
      obtain rfl : b = 0 := by omega
      refine answer_of (P := withinMax maximaW.mFmt ((maximaA begun).wmax.getD 0 none)) h ?_
      cases begun <;> decide +kernel
  refine (h.2.1 (maximaS begun) 0 (maximaA begun) maximaW (by decide) ?_ ?_ hs ?_ (lies_of hs ?_) (lies_of hs ?_) (fun h => absurd h ?_)
    (fun h => absurd h ?_) ?_ ?_ (fun _ => hm) (fun b h => nomatch (show (none : Option Machine.Bind) = some b from h))).imp
    (fun _ h => h.choose_spec.1) <;> cases begun <;> decide +kernel

/-- DRAIN_ROW of one row in mode MEM; of an element-wise product; under a binding. -/
theorem wit_drainRow (h : Obligations.MatrixCompletes) (op modes : Nat) (a : ArrUnit)
    (ho : (op, modes, a) ∈ [(0x0100, 0, { drain := some { rb := 0, blk := 0, amax := [some 0] } }),
      (0x0102, 0, { drain := some { rb := 0, blk := 0 } }), (0x0100, 16, { bind := some matBind, drain := some { rb := 0, blk := 0 } })]) :
    ∃ t, exec (.drainRow 0) (arrS op modes a) = .next t := by
  have hs : Still (arrS op modes a) := by
    simp only [List.mem_cons, List.not_mem_nil, Prod.mk.injEq, or_false] at ho
    rcases ho with ⟨rfl, rfl, rfl⟩ | ⟨rfl, rfl, rfl⟩ | ⟨rfl, rfl, rfl⟩ <;> exact still_of (by decide +kernel)
  refine (h.2.2 (arrS op modes a) 0 { a with work := some q0 } (matWork op (if op = 0x0102 then 1 else 4) modes .running)
    (a.drain.getD { rb := 0, blk := 0 }) (by decide) ?_ ?_ ?_ hs ?_ ?_ ?_ ?_ (fun h => ⟨lies_of hs ?_, lies_of hs ?_⟩) ?_
    (fun h => lies_of hs ?_) (fun h => absurd h ?_)).imp (fun _ h => h.1)
  all_goals
    simp only [List.mem_cons, List.not_mem_nil, Prod.mk.injEq, or_false] at ho
    rcases ho with ⟨rfl, rfl, rfl⟩ | ⟨rfl, rfl, rfl⟩ | ⟨rfl, rfl, rfl⟩ <;> first
      | decide +kernel
      | exact absurd h (by decide +kernel)
      | intro b hb
        cases hb <;> exact ⟨by decide +kernel, lies_of hs (by decide +kernel)⟩

/-- A drain of one row in modes VEC, RAW and STAGE: OUT is a row of accumulators, and an epilogue reads the drain queue. -/
def drainS (mode : Nat) : State :=
  { arena (matWork 0x0100 4 mode .running) [pageObj 1 1, pageObj 2 2, stageObj 3 3 4, pageObj 4 4] [] with
    arr := [(0, { work := some q0, drain := some { rb := 0, blk := 0, amax := [some 0] } })]
    vec := if mode = 3 then [] else [(0, { work := some (.q 1 0), pair := some q0 })] }

theorem wit_drainRow_modes (h : Obligations.MatrixCompletes) (mode : Nat) (hm : mode ∈ [1, 2, 3]) :
    ∃ t, exec (.drainRow 0) (drainS mode) = .next t := by
  have hs : Still (drainS mode) := by fin_cases hm <;> exact still_of (by decide +kernel)
  refine (h.2.2 (drainS mode) 0 (arrOf (drainS mode) 0) (matWork 0x0100 4 mode .running)
    { rb := 0, blk := 0, amax := [some 0] } (by decide) ?_ ?_ ?_ hs ?_ ?_ ?_ ?_ (fun h => absurd h ?_)
    (fun b h => nomatch (show (none : Option Machine.Bind) = some b from h)) (fun h => absurd h ?_) (fun h => ⟨?_, ?_⟩)).imp (fun _ h => h.1)
  case refine_11 =>
    intro j hj
    refine here_of hs ?_
    revert j
    fin_cases hm <;> decide +kernel
  all_goals fin_cases hm <;> decide +kernel


/-- A run of an array's step that ends. -/
theorem steps_of {s : State} {tile : Nat} {a : ArrUnit} {w : Work} {body : ArrUnit → Work → Eng ArrUnit}
    (h : arrRun s tile = some (a, w) ∧ (((body a w).run).run (arrCtx s w)).1.isOk = true) :
    ∃ b e, ArrSteps s tile a b w e body := by
  obtain ⟨b, hb⟩ := ok_of h.2
  exact ⟨b, _, h.1, Prod.ext hb rfl⟩

/-- What the start of a matrix descriptor runs in. -/
def matStart (w : Work) : Ectx :=
  { s := (started (matIssued w []) w 0).1, w := (started (matIssued w []) w 0).2, die := w.die }

theorem wit_matrix_ok : (((beginArr 0).run).run (matStart (matWork 0x0100 4 0 .fetched))).1 = .ok () := by decide +kernel

theorem wit_matrix_fault : (((beginArr 0).run).run (matStart (work 0x0100 [] .fetched))).1 = .error (.status 0x12) := by decide +kernel

theorem wit_swap_steps : ∃ b e, ArrSteps (arrS 0x0100 0 {}) 0 { work := some q0 } b (matWork 0x0100 4 0 .running) e (swapOne 0) :=
  steps_of (by decide +kernel)

/-- Metadata that names an index twice. -/
theorem wit_swap_fault : let s := { arrS 0x0101 0 {} with mem := {} }
    arrRun s 0 = some ({ work := some q0 }, matWork 0x0101 4 0 .running) ∧
    swapHeld (matWork 0x0101 4 0 .running) { work := some q0 } = false ∧
    (((swapOne 0 { work := some q0 } (matWork 0x0101 4 0 .running)).run).run (arrCtx s (matWork 0x0101 4 0 .running))).1
      = .error (.status 0x101) := by decide +kernel

theorem wit_drain_steps : ∃ b e, ArrSteps (arrS 0x0100 0 { drain := some { rb := 0, blk := 0, amax := [some 0] } }) 0
    { work := some q0, drain := some { rb := 0, blk := 0, amax := [some 0] } } b (matWork 0x0100 4 0 .running) e
    (drainOne 0 { rb := 0, blk := 0, amax := [some 0] }) := steps_of (by decide +kernel)

theorem wit_stream : (((streamStat 0 (matWork 0x0100 4 0 .running) { blocks := [[0]], amax := [some 0], wmax := [some 0], fore := { cols := [0] } }
    [[]]).run).run (matStart (matWork 0x0100 4 0 .fetched))).1.isOk = true := by decide +kernel

/-! Strands. -/

/-- A launch of two strands in range mode, its chain in object 1 one record that binds no list. -/
def launchWork (ph : Phase) : Work := work 0x0910 [(24, 8, 2 ^ 40 + 1024), (32, 8, 2 ^ 40), (56, 4, 2), (61, 1, 2)] ph

/-- The record of its position 0: a vector program. -/
def oneRec : TRec :=
  ⟨leBytes 2 0x0200 ++ List.replicate 62 0, 32, 0xFF, false, 0, 0, 0, 0⟩

/-- The module with the record in memory. -/
def chainState : State := writePhys (fetched (launchWork .fetched)) 1024 (oneRec.desc ++ leBytes 1 32 ++ leBytes 1 0xFF)

/-- The launch once it has started. -/
def startedLaunch : Work := { launchWork .fetched with phase := .running, unit := 0, began := 9 }

theorem wit_launch : Starts 0x0910 (.q 0 0) (atTime chainState 9) (launchWork .fetched) ∧
    freeEntry chainState 0 = some 0 ∧
    (launchBody.run.run { s := setWork (atTime chainState 9) startedLaunch, w := startedLaunch, die := 0 }).1 = .ok [(0, some oneRec)] :=
  ⟨starts_of (by decide +kernel), by decide +kernel, by decide +kernel⟩

/-- The module with the launch in its table and strands waiting. -/
def strandState (r : TRec) (st : SState) : State :=
  { fetched (launchWork .running) with strands := {
      launches := [{ key := ⟨0, 0, 0⟩, work := .q 0 0, cluster := 0, query := false, desc := (launchWork .running).desc
                     chain := [(0, some r)], n := 2, nextSeq := 1 }]
      pool := [{ die := 0, item := 0, key := 2 ^ 40, seq := 0, launch := ⟨0, 0, 0⟩, etype := 0, pos := 0, query := false
                 state := st, since := 0 }] } }

/-- The key of that launch. -/
def lkey : LKey := ⟨0, 0, 0⟩

theorem wit_create : (launchOf (strandState oneRec .ready) lkey).map (fun l => (l.work, mayCreate (strandState oneRec .ready) l))
      = some (.q 0 0, true) ∧
    findWork (strandState oneRec .ready) (.q 0 0) = some (launchWork .running) ∧ computing (strandState oneRec .ready) = true ∧
    ((formStrand (launchWork .running) 1).run.run { s := strandState oneRec .ready, w := launchWork .running, die := 0 }).1
      = .ok (1, 2 ^ 40 + 1, 0) ∧
    (match homeOf (strandState oneRec .ready) (2 ^ 40 + 1) 0 with
      | .on d => d == 0
      | _ => false) = true := by decide +kernel

theorem wit_batch : recordAt (strandState oneRec .ready) lkey 0 0 = some oneRec ∧ issues (strandState oneRec .ready) lkey 0 = true ∧
    waitingAt (strandState oneRec .ready) 0 lkey 0 .ready ≠ [] ∧
    cyclesPassed 0 100000 (reg (strandState oneRec .ready) Key.dspBatchWait) = true ∧
    (issueBatch (atTime (strandState oneRec .ready) 100000) 0 lkey 0 oneRec
      (waitingAt (strandState oneRec .ready) 0 lkey 0 .ready) none false).isSome = true := by decide +kernel

/-- A record that bins. -/
def binRec : TRec := { oneRec with desc := leBytes 2 0x0103 ++ List.replicate 62 0, bin := true, binCap := 1, experts := 1 }

theorem wit_bins : recordAt (strandState binRec .binned) lkey 0 0 = some binRec ∧ issues (strandState binRec .binned) lkey 0 = true ∧
    waitingAt (strandState binRec .binned) 0 lkey 0 .binned ≠ [] ∧
    cyclesPassed 0 100000 (reg (strandState binRec .binned) Key.dspBinWait) = true ∧
    (issueBins 0 lkey 0 binRec false [(0, waitingAt (strandState binRec .binned) 0 lkey 0 .binned)]
      (atTime (strandState binRec .binned) 100000)).isSome = true := by decide +kernel

/-! Memory-side units. -/

/-- An addend for element 5 of object 2. -/
def addend : Addend := { issuer := none, peer := 0, die := 0, obj := 2, elem := 5, fmt := .s32, val := 7, sent := true }

theorem wit_addend : ({ fetched (work 0x0900 [] .fetched) with addends := [addend] } : State).addends[0]? = some addend ∧
    (match enterAddend (fetched (work 0x0900 [] .fetched)) addend with
      | .done _ _ => true
      | _ => false) = true ∧
    (match enterAddend (fetched (work 0x0900 [] .fetched)) { addend with obj := 3 } with
      | .stop _ => true
      | _ => false) = true := by decide +kernel

/-- A row that another module holds keeps the addends of its elements out, and one without a slot waits. -/
theorem wit_addend_held :
    let s : State := { fetched (work 0x0900 [] .fetched) with fab := { holds := [{ peer := 1, die := 0, tag := 0, obj := 2, row := 0 }] } }
    (objOf s addend.obj).adderTarget = true ∧ (objOf s addend.obj).fmt = 4 ∧ addend.fmt = .s32 ∧
    (objOf s addend.obj).spans ((objOf s addend.obj).elemOff addend.elem) (objOf s addend.obj).elemBytes = true ∧
    (objOf s addend.obj).rowlen = 0 ∧ rowHeld s (objOf s addend.obj).num 0 = true ∧ ({ addend with sent := false } : Addend).sent = false := by
  decide

theorem wit_addAt : (addAt noon true 64 0 5).isSome = true ∧ (addAt noon true 0 16 5).isSome = true ∧ (addAt noon false 0 0 5).isSome = true := by
  decide +kernel

theorem wit_halving : halvingDue (withRegs noon [(Key.sketchPeriod, 0)]) 3 = true ∧ Tab.wf 0 noon.dir.sketch = true := by decide

theorem wit_fill : let s := { fetched (work 0x0900 [] .fetched) with dir := { fills := [{ die := 0, obj := 1, row := 0 }] } }
    s.dir.fills[0]? = some { die := 0, obj := 1, row := 0 } ∧ (objOf s 1).declared = true ∧ locate s (objOf s 1) 0 = .here 0 := by decide

/-- The first and the last stack and channel, trained. -/
def scrubS : State := withRegs noon [(Key.hbmScrubHours, 24), (Key.ddrScrubHours, 24), (Key.hbmState, 1), (Key.hbmState + 7, 1), (Key.ddrState, 1),
  (Key.ddrState + 15, 1), (Key.hbmCapacity, 32), (Key.hbmCapacity + 7, 32), (Key.ddrCapacity, 64), (Key.ddrCapacity + 15, 64)]

theorem wit_scrub : ∀ u ∈ [0, 7, 8, 23],
    let base := if u < 8 then hbmBase + u * 2 ^ 36 else ddrBase + (u - 8) * 2 ^ 38
    unitOf base = 64 + u ∧ poisoned scrubS.mem base 1 = false ∧
    reg scrubS (if u < 8 then Key.hbmScrubHours else Key.ddrScrubHours) ≠ 0 ∧
    reg scrubS (if u < 8 then Key.hbmState + u else Key.ddrState + (u - 8)) = 1 ∧
    base < base + reg scrubS (if u < 8 then Key.hbmCapacity + u else Key.ddrCapacity + (u - 8)) := by decide


/-! ## Vector programs that start -/

theorem wit_vectorProgram (h : Obligations.VectorPrograms) : ∃ t, exec (.vectorProgram q0) (fetched (vecDesc 0x0200)) = .next t := by
  have hs : Still (fetched (vecDesc 0x0200)) := still_of (by decide +kernel)
  refine (h.2 .vectorProgram 0x0200 (.inl rfl) (fetched (vecDesc 0x0200)) issuedVec q0 (vecDesc 0x0200) 0 wit_vecStart wit_vecStart_checks.1
    wit_vecStart_checks.2.1 wit_vecStart_checks.2.2 ?_ hs (lies_of hs ?_) (lies_of hs ?_) ?_).imp (fun _ h => h.1) <;> decide +kernel

/-- A drain-coupled program beside the contraction it is paired with. -/
def coupledStart : State :=
  { matS (vecDesc 0x0201) with work := [vecDesc 0x0201, { matWork 0x0100 4 1 .running with ref := .q 0 1 }] }

theorem wit_drainCoupled (h : Obligations.VectorPrograms) : ∃ t, exec (.drainCoupledProgram q0) coupledStart = .next t := by
  have hs : Still coupledStart := still_of (by decide +kernel)
  refine (h.2 .drainCoupledProgram 0x0201 (.inr rfl) coupledStart ((issue (markReady coupledStart) (vecDesc 0x0201)).getD noon) q0
    (vecDesc 0x0201) 0 (starts_of ?_) ?_ ?_ ?_ ?_ hs (lies_of hs ?_) (lies_of hs ?_) ?_).imp (fun _ h => h.1) <;> decide +kernel

/-! ## Strands, fabric sends and requests that complete -/

/-- A LAUNCH of two strands, its template in object 1. -/
theorem wit_launch_completes (h : Obligations.StrandsComplete) : ∃ t, exec (.launch q0 9) chainState = .next t := by
  have hs : Still chainState := still_of (by decide +kernel)
  have hs1 : Still (started (atTime chainState 9) (launchWork .fetched) 0).1 := ⟨hs.1, hs.2, hs.3, hs.4, hs.5, hs.6, hs.7, hs.8, hs.9, hs.10⟩
  refine (h.1 chainState q0 (launchWork .fetched) 0 9 (starts_of ?_) ?_ hs ?_ ?_ ?_ (fun h => absurd h ?_) (fun h => absurd h ?_)
    (fun h => absurd h ?_) ⟨lies_of hs1 ?_, ?_, fun h => absurd ?_ h⟩).imp (fun _ h => h.choose_spec.1) <;> decide +kernel

theorem wit_strandCreate (h : Obligations.StrandsComplete) : ∃ t, exec (.strandCreate 0 0 9) (strandState oneRec .ready) = .next t := by
  have hs : Still (strandState oneRec .ready) := still_of (by decide +kernel)
  obtain ⟨l, hl⟩ := Option.isSome_iff_exists.mp (show (launchOf (strandState oneRec .ready) lkey).isSome = true by decide +kernel)
  have hl' : some l = some ((launchOf (strandState oneRec .ready) lkey).getD
      { key := lkey, work := q0, cluster := 0, query := false, desc := [], chain := [], n := 0 }) := by rw [hl]; rfl
  cases hl'
  refine (h.2.1 (strandState oneRec .ready) 0 0 9 _ (launchWork .running) 1 hl ?_ ?_ ?_ hs
    ⟨fun h => absurd h ?_, fun h => absurd h ?_, ?_, fun h => absurd h ?_⟩ ?_ ?_ ?_).imp (fun _ h => h.1) <;> decide +kernel

theorem wit_batchDue (h : Obligations.StrandsComplete) : ∃ t, exec (.batchDue 0 lkey 0 100000) (strandState oneRec .ready) = .next t := by
  refine (h.2.2.1 (strandState oneRec .ready) 0 lkey 0 100000 oneRec 0 ?_ ?_ ?_ ?_ ?_ ?_ ?_).imp (fun _ h => h.choose_spec.choose_spec.1) <;>
    decide +kernel

theorem wit_binRoundClose (h : Obligations.StrandsComplete) : ∃ t, exec (.binRoundClose 0 lkey 0 100000) (strandState binRec .binned) = .next t := by
  refine (h.2.2.2 (strandState binRec .binned) 0 lkey 0 100000 binRec ?_ ?_ ?_ ?_ ?_ ?_ ?_ ?_).imp (fun _ h => h.1) <;> decide +kernel

/-- A FAB_PUT and a FAB_MSG of five bytes of object 1 to this module. -/
def putW : Work := work 0x0880 [(16, 8, 2 ^ 40), (24, 8, 2 * 2 ^ 40), (32, 4, 5)] .running
/-- The message. -/
def msgW : Work := work 0x0881 [(16, 8, 2 ^ 40), (32, 4, 5), (38, 1, 63)] .running

theorem wit_fabPut (h : Obligations.FabricCompletes) : ∃ t, exec (.fabPut q0 9) (fetched putW) = .next t := by
  have hs : Still (atTime (fetched putW) 9) := still_of (by decide +kernel)
  refine (h.1.1 (fetched putW) q0 _ putW 9 (begins_of ?_) hs ?_ ?_ (lies_of hs ?_) ?_ ?_ ?_).imp (fun _ h => h.choose_spec.choose_spec.1) <;>
    decide +kernel

theorem wit_fabMsg (h : Obligations.FabricCompletes) : ∃ t, exec (.fabMsg q0 9) (fetched msgW) = .next t := by
  have hs : Still (atTime (fetched msgW) 9) := still_of (by decide +kernel)
  refine (h.1.2.2 (fetched msgW) q0 _ msgW 9 (begins_of ?_) hs ?_ ?_ ?_ (lies_of hs ?_) ?_).imp (fun _ h => h.choose_spec.choose_spec.1) <;>
    decide +kernel

/-- A FAB_PUT of five bytes to the other module of a box of two, by its masks. -/
def putManyW : Work := work 0x0880 [(16, 8, 2 ^ 40), (24, 8, 2 * 2 ^ 40), (32, 4, 5), (38, 1, 1), (40, 2, 2), (42, 2, 1), (44, 2, 1),
  (48, 8, 4 * 2 ^ 40)] .running
/-- The module with it and a scratch object. -/
def putManyS : State :=
  { withRegs (fetched putManyW) [(Key.fabBoxOrigin, 0), (Key.fabBoxSize, 1)] with
    objs := [(1, plainObj), (2, sumObj), (4, { plainObj with num := 4, rows := 8192 })] }

theorem wit_fabPut_many (h : Obligations.FabricCompletes) : ∃ t, exec (.fabPut q0 9) putManyS = .next t := by
  have hs : Still (atTime putManyS 9) := still_of (by decide +kernel)
  refine (h.1.2.1 putManyS q0 _ putManyW 9 (begins_of ?_) hs ?_ ?_ ?_ (lies_of hs ?_) ?_ ?_ ?_ ?_ ?_ ?_).imp (fun _ h => h.choose_spec.1) <;>
    decide +kernel

/-- The module with requests of module 1 in its inbox. -/
def reqS (ks : List Pkt) : State := { fetched (work 0x0900 [] .fetched) with fab := { inbox := ks } }

/-- A read, a write and an addition of four bytes at offset 16 of object 1. -/
def rdPkt : Pkt := { ty := 1, src := 1, eph := 1, txid := 7, len := 4, addr := 2 ^ 40 + 16 }
/-- The write. -/
def wrPkt : Pkt := { rdPkt with ty := 3, payload := [1, 2, 3, 4] }
/-- The addition. -/
def addPkt : Pkt := { rdPkt with ty := 5, aux := 4, payload := [1, 2, 3, 4] }

/-- A request that its module may serve. -/
theorem passes_of {s : State} {k : Pkt} (h : s.err.fatal = false ∧ (ephChecked k = true → k.eph = reg s Key.ephPin) ∧
    (k.ty = 7 → reg s Key.bootState ≠ 6 ∧ reg s Key.bootState ≠ 7)) : Passes s k := ⟨h.1, h.2.1, h.2.2⟩

theorem wit_rdReq (h : Obligations.FabricCompletes) : ∃ t, exec (.rdReq 9) (reqS [rdPkt, wrPkt]) = .next t := by
  have hs : Still (reqS [rdPkt, wrPkt]) := still_of (by decide +kernel)
  refine Exists.elim (h.2.1 (reqS [rdPkt, wrPkt]) 9 rdPkt ?_ ?_ (passes_of ?_) hs ?_ ?_ ?_ ?_ ?_ (fun h => absurd h ?_) (here_all hs ?_))
    (fun _ h => ⟨_, h.1⟩) <;> decide +kernel

theorem wit_wrReq (h : Obligations.FabricCompletes) : ∃ t, exec (.wrReq 9) (reqS [wrPkt, addPkt]) = .next t := by
  have hs : Still (reqS [wrPkt, addPkt]) := still_of (by decide +kernel)
  refine Exists.elim (h.2.2.1 (reqS [wrPkt, addPkt]) 9 wrPkt ?_ ?_ (passes_of ?_) hs ?_ ?_ ?_ ?_ ?_ ?_ ?_ (here_all hs ?_)
    (injective_of hs ?_)) (fun _ h => ⟨_, h.1⟩) <;> decide +kernel

/-- The one element of the addition lies in a frame of this module. -/
theorem addPkt_elem : ∀ i, i < 1 → (objOf (reqS [addPkt]) 1).spans ((objOf (reqS [addPkt]) 1).elemOff (4 + i)) (objOf (reqS [addPkt]) 1).elemBytes = true ∧
    (objOf (reqS [addPkt]) 1).elemOff (4 + i) < 65536 ∧ inFrame (reqS [addPkt]) 1 = true := by decide +kernel

theorem wit_addReq (h : Obligations.FabricCompletes) : ∃ t, exec (.addReq 9) (reqS [addPkt]) = .next t := by
  have hs : Still (reqS [addPkt]) := still_of (by decide +kernel)
  refine Exists.elim (h.2.2.2.1 (reqS [addPkt]) 9 addPkt .s32 ?_ ?_ (passes_of ?_) hs ?_ ?_ ?_ ?_ ?_ ?_ ?_ ?_ ?_ (fun h => absurd h ?_)
    (fun i hi => ⟨(addPkt_elem i hi).1, here_of hs (addPkt_elem i hi).2, fun h => absurd h (by decide +kernel)⟩))
    (fun _ h => h.elim (fun _ h => ⟨_, h.1⟩)) <;> decide +kernel

/-- A strand of the launch, of another module, and its chain. -/
def strandPkt : Pkt := { ty := 7, aux := 1, src := 1, eph := 1, len := 32,
                         payload := leBytes 8 3 ++ leBytes 8 (2 ^ 40) ++ leBytes 4 5 ++ leBytes 12 (2 + 2 ^ 40 + 2 ^ 42) }
/-- The chain. -/
def chainPkt : Pkt := { ty := 7, aux := 2, src := 1, eph := 1, len := 136, payload := [2, 0, 1, 1, 0, 0, 0, 1] ++ List.replicate 128 0 }

theorem wit_strandReq (h : Obligations.FabricCompletes) : ∃ t, exec (.strand 9) (reqS [strandPkt]) = .next t := by
  refine (h.2.2.2.2.1 (reqS [strandPkt]) 9 strandPkt 0 ?_ ?_ (passes_of ?_) ?_ ?_ ?_ ?_ ?_).imp (fun _ h => h.1) <;> decide +kernel

theorem wit_chainReq (h : Obligations.FabricCompletes) : ∃ t, exec (.chain 9) (reqS [chainPkt]) = .next t := by
  refine (h.2.2.2.2.2.1 (reqS [chainPkt]) 9 chainPkt 3 ?_ ?_ (passes_of ?_) ?_ ?_).imp (fun _ h => h.1) <;> decide +kernel

theorem wit_addendEntry (h : Obligations.FabricCompletes) :
    ∃ t, exec (.addendEntry 0) { fetched (work 0x0900 [] .fetched) with addends := [addend] } = .next t := by
  have hs : Still { fetched (work 0x0900 [] .fetched) with addends := [addend] } := still_of (by decide +kernel)
  refine (h.2.2.2.2.2.2 { fetched (work 0x0900 [] .fetched) with addends := [addend] } 0 addend 20 20 ?_ ?_ hs ?_ ?_ ?_ ?_ ?_ ?_).imp
    (fun _ h => h.1) <;> decide +kernel


/-! ## Placement -/

/-- A table of 64 rows of 4,096 bytes in frame 0. -/
def tabObj : Obj := { num := 1, fmt := 4, role := 3, rowlen := 1024, rows := 16, pages := [{ page := 0, home := .frame 0 }] }

/-- The module with that table, the frames of its first stack trained. -/
def placeState : State :=
  { withRegs noon [(Key.hbmState, 1), (Key.hbmScrubHours, 24)] with objs := [(1, tabObj)] }

/-- A migration of row 2 of that table. -/
def mig (st : MState) (coord : Nat) : Migration :=
  { obj := 1, row := 2, state := st, destCoord := coord, destDie := 0, destAddr := 69632, granted := true, oldAddr := 8192
    snapshot := [1], start := 0, timeoutUs := 100, lingerUs := 200 }

/-- The module with it. -/
def migState (st : MState) (coord : Nat) : State :=
  { placeState with dir := { placeState.dir with migs := [mig st coord] } }

theorem wit_migration_start : let p : MigPlan := { obj := 1, row := 2, destCoord := 0, destDie := 0 }
    let s : State := { placeState with dir := { plans := [p] } }
    s.dir.plans.find? (fun p => p.obj == 1 && p.row == 2) = some p ∧ computing s = true ∧ (objOf s 1).declared = true ∧
    (objOf s 1).undeclaring = none ∧ migrationOf s 1 2 = none ∧ (∀ q ∈ rowPages (objOf s 1) 2, moveOf s 1 q = none) ∧ p.back = false ∧
    (movedRow (atTime s 5) (objOf s 1) 2).isSome = false ∧ fenced s p.destCoord = false := by decide +kernel

theorem wit_migration : ∀ c ∈ [0, 1],
    (migrationOf (migState .copying c) 1 2 = some (mig .copying c) ∧ rowPending (migState .copying c) 1 2 = false ∧
      computing (migState .copying c) = true) ∧
    (migrationOf (migState .draining c) 1 2 = some (mig .draining c) ∧ rowPending (migState .draining c) 1 2 = false ∧
      computing (migState .draining c) = true) := by decide

theorem wit_migration_self : (mig .draining 0).destCoord = self (migState .draining 0) ∧ (mig .draining 0).back = false ∧
    (mig .draining 1).destCoord ≠ self (migState .draining 1) := by decide

theorem wit_migration_old :
    (migState .moved 0).dir.migs.find? (fun m => m.obj == 1 && m.row == 2 && decide (m.state = .moved)) = some (mig .moved 0) ∧
    (mig .moved 0).commitAt + 1000 * (mig .moved 0).lingerUs ≤ 200000 ∧ reg (migState .copying 0) Key.frzState = 0 ∧
    rowPending (migState .moved 0) 1 2 = false ∧
    accessPending (migState .moved 0) 1 (2 * tabObj.pitch) tabObj.pitch = false ∧ (objOf (migState .moved 0) 1).pitch = tabObj.pitch ∧
    (mig .copying 0).start + 1000 * (mig .copying 0).timeoutUs ≤ 100000 ∧ (mig .copying 0).granted = true := by decide

/-- A move of page 0 of that table. -/
def mv (st : MoveState) (coord : Nat) (c : Bool) : Move :=
  { obj := 1, page := 0, state := st, src := .frame 0, coord := coord, chosen := c, dest := 65536, timeoutUs := 100, lingerUs := 200 }

/-- The module with it. -/
def mvState (m : Move) : State := { placeState with place := { placeState.place with moves := [m] } }

theorem wit_move_start : let s := mvState (mv .planned 0 true)
    findMove s 1 0 (fun x => decide (x = .planned)) = some (mv .planned 0 true) ∧
    (objOf s 1).page 0 = some { page := 0, home := .frame 0 } ∧ movable s = true ∧ moveOf s 1 0 = none ∧
    rowsBusy s (objOf s 1) 0 = false ∧ (objOf s 1).undeclaring = none ∧ hostDown s (.frame 0) = false ∧ pageLost s (.frame 0) = false ∧
    (mv .planned 0 true).coord = self s ∧
    moveFrame (atTime s 5) (objOf s 1) (mv .planned 0 true) = some 65536 ∧
    relocRoom (atTime s 5) (objOf s 1) 0 (unitDie (unitOf 65536)) = true := by decide +kernel

theorem wit_move_away : let s := mvState (mv .planned 1 false)
    findMove s 1 0 (fun x => decide (x = .planned)) = some (mv .planned 1 false) ∧
    (objOf s 1).page 0 = some { page := 0, home := .frame 0 } ∧ movable s = true ∧ moveOf s 1 0 = none ∧
    rowsBusy s (objOf s 1) 0 = false ∧ (objOf s 1).undeclaring = none ∧ hostDown s (.frame 0) = false ∧ pageLost s (.frame 0) = false ∧
    (mv .planned 1 false).coord ≠ self s ∧ fenced s (mv .planned 1 false).coord = false := by
  decide +kernel

theorem wit_move_copy : (0 + 65536 ≤ 65536 ∨ 65536 + 65536 ≤ 0) ∧ placeState.mem.poison = [] := by decide

theorem wit_move_done : ∀ c ∈ [0, 1],
    findMove (mvState (mv .copying c true)) 1 0 (fun x => decide (x = .copying)) = some (mv .copying c true) ∧
    (pageRows (objOf (mvState (mv .copying c true)) 1) 0).any (rowHeld (mvState (mv .copying c true)) 1) = false ∧
    pagePending (mvState (mv .copying c true)) 1 0 = false ∧ movable (mvState (mv .copying c true)) = true ∧
    findMove (mvState (mv .draining c true)) 1 0 (fun x => decide (x = .draining)) = some (mv .draining c true) ∧
    pagePending (mvState (mv .draining c true)) 1 0 = false ∧ movable (mvState (mv .draining c true)) = true ∧
    ((mv .draining c true).coord = self (mvState (mv .draining c true)) ↔ c = 0) ∧
    (objOf (mvState (mv .draining c true)) 1).num = 1 := by decide

theorem wit_move_late :
    findMove (mvState (mv .moved 0 true)) 1 0 (fun x => decide (x = .moved)) = some (mv .moved 0 true) ∧
    (mv .moved 0 true).commitAt + 1000 * (mv .moved 0 true).lingerUs ≤ 200000 ∧
    pagePending (mvState (mv .moved 0 true)) 1 0 = false ∧ accessPending (mvState (mv .moved 0 true)) 1 (65536 * 0) 65536 = false ∧
    lineOf (mvState (mv .moved 0 true)) (linePage 1 0) = [] ∧
    (mv .copying 0 true).start + 1000 * (mv .copying 0 true).timeoutUs ≤ 100000 ∧
    reg (mvState (mv .copying 0 true)) Key.frzState = 0 := by decide

/-! Descriptors of the placement engine, running on object 5, and on the table. -/

/-- The module with a placement descriptor in its engine. -/
def plcRun (w : Work) : State := { placeState with work := [w] }

/-- DECLARE of object 5: 64 bytes of activations. -/
def declWork : Work := work 0x0A00 [(16, 3, 5), (19, 1, 4), (32, 8, 64)] .running

theorem wit_declare : Enters 0x0A00 (.q 0 0) (plcRun declWork) (plcRun declWork) declWork ∧
    isArea (plcRun declWork) (declObj declWork).num = false ∧ declCheck (plcRun declWork) declWork (declObj declWork) = 0 ∧
    allocPages (plcRun declWork) (declObj declWork) 0 (localPages (plcRun declWork) (declObj declWork))
      = some { declObj declWork with pages := [{ page := 0, home := .frame 65536 }] } ∧
    (if (declObj declWork).versioned || (declObj declWork).rowlen == 0 then some 0
      else rowBaseFor (plcRun declWork) (declObj declWork).rows) = some 0 :=
  ⟨enters_of (by decide), by decide, by decide +kernel, by decide +kernel, by decide⟩

theorem wit_declare_bad : let w := work 0x0A00 [(16, 3, 5), (19, 1, 4)] .running
    Enters 0x0A00 (.q 0 0) (plcRun w) (plcRun w) w ∧ isArea (plcRun w) (declObj w).num = false ∧
    declCheck (plcRun w) w (declObj w) ≠ 0 := ⟨enters_of (by decide), by decide, by decide +kernel⟩

theorem wit_undeclare : let w := work 0x0A01 [(16, 3, 1)] .running
    let s := plcRun w
    Enters 0x0A01 (.q 0 0) s s w ∧ (objOf s (w.f 16 3)).declared = true ∧ (objOf s (w.f 16 3)).num = w.f 16 3 ∧
    isArea s (w.f 16 3) = false ∧
    (∀ v ∈ s.work, v.order < w.order → namesObj (setObj s { objOf s (w.f 16 3) with undeclaring := some w.order }) (w.f 16 3) v = false) ∧
    s.place.moves = [] ∧ s.dir.migs = [] ∧ s.addends = [] ∧ s.place.grants = [] ∧ s.cxl.apts = [] :=
  ⟨enters_of (by decide), by decide, by decide, by decide, by decide, rfl, rfl, rfl, rfl, rfl⟩

theorem wit_reside : ∀ n ∈ [1, 4096], let w := work 0x0A03 [(16, 8, 2 ^ 40), (24, 8, n), (33, 1, 0xFF)] .running
    let s := atTime (plcRun w) 5
    (findWork s (.q 0 0) = some w ∧ w.op = 0x0A03 ∧ w.req = none ∧ computing s = true ∧ w.phase = .running) ∧
    w.f 24 8 ≠ 0 ∧ w.f 24 8 ≤ 2 ^ 40 ∧ w.f 32 1 ≤ 3 ∧ w.f 33 1 = 0xFF ∧ handleOk w s (w.f 16 8) (w.f 24 8) = true ∧
    (objOf s (hObj (w.f 16 8))).scope = 0 ∧ (objOf s (hObj (w.f 16 8))).backing = 0 ∧
    (∀ p ∈ pagesOf (w.f 16 8) (w.f 24 8), movingPage s (objOf s (hObj (w.f 16 8))).num p = false) ∧
    (∀ p ∈ (objOf s (hObj (w.f 16 8))).pages, p.page ∈ pagesOf (w.f 16 8) (w.f 24 8) → onDie (w.f 32 1) p = true) := by
  decide +kernel

theorem wit_releasePages : let w := work 0x0A04 [(16, 8, 2 ^ 40), (24, 8, 1)] .running
    (findWork (plcRun w) (.q 0 0) = some w ∧ w.op = 0x0A04 ∧ w.req = none ∧ computing (plcRun w) = true ∧ w.phase = .running) ∧
    handleOk w (plcRun w) (w.f 16 8) (w.f 24 8) = true := by decide +kernel

theorem wit_epoch : let w := work 0x0A02 [(16, 2, 1)] .running
    Enters 0x0A02 (.q 0 0) (plcRun w) (plcRun w) w ∧ w.qc = false ∧ w.f 18 2 = 0 ∧
    w.f 16 2 = (reg (plcRun w) Key.plcEpoch + 1) % 65536 ∧ (plcRun w).place.moves = [] ∧ (plcRun w).dir.migs = [] ∧
    (plcRun w).dir.plans = [] := ⟨enters_of (by decide), by decide, by decide, by decide, rfl, rfl, rfl⟩

/-- EPOCH_ADVANCE that names one module that leaves. -/
def leaveW : Work := work 0x0A02 [(16, 2, 1), (18, 2, 1), (24, 8, 2 ^ 40)] .running

theorem wit_epoch_leave (h : Obligations.PlacementDescriptors) :
    ∃ t, exec (.epochAdvance (.q 0 0)) (arena leaveW [pageObj 1 1] [(0x10000, [2])]) = .next t := by
  have hs : Still (arena leaveW [pageObj 1 1] [(0x10000, [2])]) := still_of ⟨rfl, rfl, rfl, rfl, rfl, rfl, rfl, rfl, rfl, rfl⟩
  have hb : Begins 0x0A02 (.q 0 0) (arena leaveW [pageObj 1 1] [(0x10000, [2])]) (arena leaveW [pageObj 1 1] [(0x10000, [2])]) leaveW :=
    begins_of (by decide +kernel)
  obtain ⟨u, _, hu, _⟩ := h.2.2.2.2.2.2 _ _ _ leaveW hb.1 hb.2 hs (by decide) (by decide) (by decide)
    (lies_of hs (by decide +kernel)) (by decide +kernel) nofun nofun
  exact ⟨u, hu⟩

theorem wit_table : ([7] : List Nat) ≠ [] ∧ ([7] : List Nat).Nodup ∧ (List.replicate 4096 7).length = 4096 ∧
    (∃ c ∈ List.replicate 4096 7, c ∈ [7]) ∧ (∀ c ∈ [7], c ∈ List.replicate 4096 7) ∧ (List.replicate 4096 7).getD 4095 0 ∈ [7] := by
  have h : 7 ∈ List.replicate 4096 7 := List.mem_replicate.2 ⟨by decide, rfl⟩
  exact ⟨by decide, by decide, List.length_replicate .., ⟨7, h, by decide⟩, fun c hc => by
    rw [List.mem_singleton.1 hc]; exact h, by rw [List.getD_replicate _ (by decide)]; decide⟩


/-! ## Fabric -/

/-- The module in a box of 2 × 1 × 1, port 0 enabled and in a link state. -/
def linked (st : Nat) : State :=
  withRegs noon [(Key.linkEnable, 1), (Key.linkState, st), (Key.fabState, 1), (Key.fabPartId, 1), (Key.fabBoxOrigin, 0),
    (Key.fabBoxSize, 0x001)]

theorem wit_train : ∀ st ∈ [0, 9], mayTrain (linked st) 0 = true ∧ (linkState (linked st) 0 = 0 ∨ linkState (linked st) 0 = 9) := by decide

theorem wit_train_steps : (∀ st ∈ [1, 2, 5, 7], linkState (linked st) 0 = st ∧ mayTrain (linked st) 0 = true) ∧
    (∀ st ∈ [1, 5], mayTrain (linked st) 0 = true ∧ 1 ≤ linkState (linked st) 0 ∧ linkState (linked st) 0 ≤ 5 ∧
      (portOf (linked st) 0).trainAt + 10000000 ≤ 10000000) := by decide

theorem wit_exchange : linkState (linked 5) 0 = 5 ∧ mayTrain (linked 5) 0 = true ∧
    (leBytes 2 1 ++ List.replicate 6 (0 : Byte)).length = 8 ∧ self (linked 5) ≠ 0xFFFF ∧
    field (leBytes 2 1 ++ List.replicate 6 0) 0 2 ≠ 0xFFFF ∧
    field (leBytes 2 1 ++ List.replicate 6 0) 0 2 = portPeer (self (linked 5)) 0 ∧
    field (leBytes 2 2 ++ List.replicate 6 0) 0 2 ≠ portPeer (self (linked 5)) 0 := by decide

theorem wit_link_late : ∀ st ∈ [6, 7], linkUp (linked st) 0 = true ∧ mayTimeOut (linked st) 0 = true ∧ (linkState (linked st) 0 = 6 ∨ linkState (linked st) 0 = 7) ∧
    (portOf (linked st) 0).lastValid + 1000 * reg (linked st) Key.linkTimeoutUs ≤ 10 ^ 9 := by decide

/-- A codeword for each of the sixteen lanes, or for the one a peer parked on. -/
theorem wit_codewords : linkUp (linked 6) 0 = true ∧ (portOf (linked 6) 0).rxLanes = 16 ∧
    (List.replicate 16 (List.replicate 546 0)).length = 16 ∧ ([List.replicate 546 0] : List (List Nat)).length = 1 ∧
    (let s := setPort (linked 6) 0 { rxLanes := 1, relocked := true }
     (portOf s 0).rxLanes = 1 ∧ (portOf s 0).relocked = true) := by decide

/-- A retraining whose light went out, which counts no LINK_RETRAINS of its own. -/
theorem wit_dark : (portOf (setPort (linked 7) 0 { darkDue := true }) 0).darkDue = true ∧ (portOf (linked 7) 0).darkDue = false := by decide

/-- One symbol in error is found and counted. -/
theorem test_rsDecode : rsDecode (5 :: List.replicate 29 0) = some (List.replicate 30 0, 1) := by decide +kernel

/-- What the encoder forms is a codeword. -/
theorem test_rsEncode : (rsSyndromes (rsEncode [1, 1023])).all (· == 0) = true := by decide +kernel

/-- A fold that reduces its value at each step. -/
def strict (f : Nat → Byte → Nat) : List Byte → Nat → Nat
  | [], n => n
  | b :: bs, 0 => strict f bs (f 0 b)
  | b :: bs, n + 1 => strict f bs (f (n + 1) b)

theorem strict_eq (f : Nat → Byte → Nat) (bs : List Byte) (n : Nat) : strict f bs n = bs.foldl f n := by
  induction bs generalizing n with
  | nil => cases n <;> rfl
  | cons b bs ih => cases n <;> exact ih _

/-- The flit without its CRC. -/
def body1 : List Byte := leBytes 12 (4095 * 2 ^ 12 + 0xF000F * 2 ^ 32) ++
  (encodePkt { ty := 9, tc := 3, dst := 0, src := 1 } ++ List.replicate 240 0).take 240

theorem wit_flit_ok : flitOk (body1 ++ leBytes 4 (crc32c body1)) = true := by
  have h : crc32c body1 = Nat.xor (strict (crcByte 0x82F63B78) body1 0xFFFFFFFF) 0xFFFFFFFF := by rw [strict_eq, crc32c, crc32With]
  have e : (body1 ++ leBytes 4 (crc32c body1)).take 252 = body1 := by
    rw [List.take_append_of_le_length (by decide +kernel)]; exact List.take_of_length_le (by decide +kernel)
  unfold flitOk; rw [e, h]; decide +kernel

/-- A flit of one packet. -/
def flit1 : List Byte := body1 ++ leBytes 4 (crc32c body1)

theorem wit_flit : bits (leNat (flit1.take 12)) 24 4 = 0 ∧
    leNat (flit1.take 12) % 4096 = (portOf (linked 6) 0).expect ∧ (portOf (linked 6) 0).chunks = [] ∧
    bits (leNat (flit1.take 12)) 28 4 ≠ 15 ∧ flitOk [] = false ∧ (portOf (linked 6) 0).nakAt = none ∧
    reg (linked 6) Key.frzState = 0 := by decide +kernel

/-- A non-idle flit out of order. -/
theorem wit_flit_gap : let s := setPort (linked 6) 0 { expect := 1 }
    bit (leNat (flit1.take 12)) 25 = false ∧ leNat (flit1.take 12) % 4096 ≠ (portOf s 0).expect ∧ linkUp s 0 = true := by decide +kernel

theorem wit_nak : let s := setPort (linked 6) 0 { nakAt := some 0 }
    (portOf s 0).nakAt = some 0 ∧ linkUp s 0 = true ∧ reg s Key.frzState = 0 ∧ 0 + 1000 ≤ max s.time 1000 := by decide

theorem wit_packet :
    let p : Pkt := { ty := 3, tc := 3, dst := 4095, src := 4095, len := 16, payload := List.replicate 16 255, mc := true, stage := 3 }
    let q : Pkt := { ty := 1, len := 8191 }
    (p.payload.length = payloadLen p.ty p.len ∧ p.xmask < 65536 ∧ p.stage < 4) ∧
    (q.mc = false ∧ q.payload.length = payloadLen q.ty q.len ∧ q.stage = 0) := by decide

theorem wit_snake : ∀ k ∈ [0, 15], let bx : Box := { origin := coordOf 15 0 0, a := 16, b := 1, c := 1 }
    1 ≤ bx.a ∧ bx.a ≤ 16 ∧ 1 ≤ bx.b ∧ 1 ≤ bx.c ∧ k < bx.a * bx.b * bx.c := by decide

/-- A packet at port 0 for module `d`. -/
def pk (d : Nat) : Pkt := sealPkt { ty := 9, tc := 3, dst := d, src := 1, part := 1 }

theorem wit_route : ∀ f ∈ [1, 5], let s := setPort (setReg (linked 6) Key.fabState f) 0 { inq := [pk 0] }
    (portOf s 0).inq = [pk 0] ∧ reg s Key.pwrState < 3 ∧ reg s Key.frzState = 0 ∧ (reg s Key.fabState ≠ 5 ↔ f = 1) := by decide +kernel

theorem wit_route_checks : let s := linked 5
    ({ pk 0 with part := 2 } : Pkt).part ≠ reg s Key.fabPartId ∧ (pk 0).part = reg s Key.fabPartId ∧
    ({ pk 0 with epoch := 1 } : Pkt).epoch ≠ reg s Key.fabEpoch ∧ (pk 0).epoch = reg s Key.fabEpoch ∧ (pk 0).mc = false ∧
    fenced s (pk 0).dst = false ∧ (pk 0).dst = self s ∧ pktCrc (pk 0) = (pk 0).sum ∧ fenced s (pk 0).src = false ∧
    (pk 0).tc = 3 ∧ (pk 0).ty = 9 ∧ reg s Key.pwrState = 0 ∧ pktCrc { pk 0 with sum := (pk 0).sum + 1 } ≠ (pk 0).sum + 1 ∧
    fenced (setReg s Key.fabFenceTable 4) 1 = true ∧ (pk 1).dst ≠ self s ∧ nextPort (boxOf s) (self s) (pk 1).dst = some 0 ∧
    noFwd s (portPeer (self s) 0) = false ∧ noFwd (setReg s Key.fabFenceTable 8) (portPeer (self s) 0) = true ∧
    fenced (setReg s Key.fabFenceTable 8) 1 = false ∧ reg s Key.fabState ≠ 5 ∧ carries s 0 = false := by decide +kernel

/-- A box of 4 × 2 × 1, this module second along x. -/
def mcState : State := withRegs noon [(Key.fabCoord, coordOf 1 0 0), (Key.fabState, 1), (Key.fabPartId, 1), (Key.fabBoxOrigin, 0), (Key.fabBoxSize, 0x013)]

/-- A multicast from the module before it for columns `xs` and rows `ys`, at stage 0 along +x. -/
def mcPkt (xs ys : Nat) : Pkt :=
  sealPkt { ty := 3, src := 0, part := 1, mc := true, xmask := xs, ymask := ys, zmask := 1, dir := true, len := 1, payload := [7] }

/-- MulticastRouting: a packet that goes on along x and y and is delivered here; one that only passes; one whose branch ends. -/
theorem wit_multicast_route : (∀ q, carries mcState q = false) ∧
    ∀ e ∈ [(6, 3), (4, 3), (2, 1)], let k := mcPkt e.1 e.2
      let s := mcState
      (k.part = reg s Key.fabPartId ∧ k.epoch = reg s Key.fabEpoch ∧ k.mc = true ∧ k.stage ≤ 2 ∧ k.tc = 0 ∧ knownType k.ty = true ∧
        pktCrc k = k.sum ∧ coordIn k.src k.stage ≠ coordIn (self s) k.stage ∧ reg s Key.fabFenceTable = 0 ∧ reg s Key.fabState ≠ 5 ∧
        reg s Key.pwrState = 0 ∧ s.pwr.target = none) ∧
      (ahead (boxOf s) k 0 true (coordIn k.src 0) (coordIn (self s) 0) ≠ [] ↔ e.1 ≠ 2) ∧
      (ahead (boxOf s) k 1 true (coordIn (self s) 1) (coordIn (self s) 1) ≠ [] ↔ e.2 = 3) ∧
      (bit (k.mask 0) (coordIn (self s) 0) = true ↔ e.1 ≠ 4) ∧ bit (k.mask 1) (coordIn (self s) 1) = true ∧
      bit (k.mask 2) (coordIn (self s) 2) = true ∧ maskCoords (boxOf s) k 1 ≠ [] ∧ maskCoords (boxOf s) k 2 ≠ [] := by
  refine ⟨fun q => ?_, by decide +kernel⟩
  have h : ((portOf mcState q).peerPart == reg mcState Key.fabPartId) = false := by
    rw [show (portOf mcState q) = {} from rfl]; decide
  unfold carries; rw [h, Bool.and_false]

/-- A packet of a window, its receive window with one packet not acknowledged. -/
def data (q : Nat) : Pkt := { ty := 3, dst := 0, src := 1, seq := q }
/-- The module with that window. -/
def rcvState : State := { linked 6 with fab := { (linked 6).fab with rcv := [{ peer := 1, tc := 0, expect := 65535, unacked := 1 }] } }

theorem wit_sluice_rcv : (rcvOf rcvState 1 0).expect < 65536 ∧ (data 65535).seq = (rcvOf rcvState 1 0).expect ∧
    seqLt (data 65534).seq (rcvOf rcvState 1 0).expect = true ∧ (data 0).seq ≠ (rcvOf rcvState 1 0).expect ∧
    seqLt (data 0).seq (rcvOf rcvState 1 0).expect = false ∧ 0 < (rcvOf rcvState 1 0).unacked ∧
    (rcvOf rcvState 1 0).firstAt + 2000 ≤ max rcvState.time 2000 ∧ reg rcvState Key.frzState = 0 ∧
    (rcvOf rcvState 1 0).peer = 1 ∧ (rcvOf rcvState 1 0).tc = 0 := by decide

/-- A source window with one packet kept. -/
def srcWin (n : Nat) : SrcWin := { peer := 1, tc := 0, kept := [data 0], cw := 4, resends := n }
/-- The module with it. -/
def srcState (n : Nat) : State := { linked 6 with fab := { (linked 6).fab with src := [srcWin n], inbox := [pk 0] } }

theorem wit_sluice_src : ∀ n ∈ [0, 255],
    (srcState n).fab.src.find? (fun w => w.peer == 1 && w.tc == 0) = some (srcWin n) ∧ (srcWin n).kept ≠ [] ∧
    (srcWin n).since + 1000 * reg (srcState n) Key.sluiceRtoUs ≤ max (srcState n).time (10 ^ 9) ∧
    reg (srcState n) Key.frzState = 0 ∧ ((srcWin n).resends < reg (srcState n) Key.sluiceRetries ↔ n = 0) ∧
    reg (srcState n) Key.frzState < 2 ∧ (takeInbox (srcState n) (fun k => k.ty == 9)).map (·.1) = some (pk 0) := by decide +kernel

/-! Requests. -/

/-- The module with a packet in its inbox. -/
def inState (k : Pkt) : State := { linked 6 with objs := [(1, plainObj), (2, sumObj)], fab := { (linked 6).fab with inbox := [k] } }

/-- A request of each kind, from module 1. -/
def req (ty aux : Nat) (addr : Nat) (bs : List Byte) : Pkt :=
  { ty := ty, aux := aux, src := 1, addr := addr, len := bs.length, payload := bs, eph := 1, txid := 9 }

/-- Every request a state's service takes is taken. -/
theorem wit_requests : ∀ k ∈ [req 1 0 (2 ^ 40) [], req 3 1 0 [1], req 3 0 (2 ^ 40) [1], req 5 4 (2 ^ 41) [1, 0, 0, 0]],
    serving (inState k) = true ∧ candidates (fun j => j.ty == k.ty) [] (inState k).fab.inbox = [k] ∧
    (inState k).err.fatal = false ∧ k.eph = reg (inState k) Key.ephPin ∧ k.ty ≠ 7 := by decide +kernel

/-- A refused request of a report. -/
theorem wit_refusedReport : let k : Pkt := { req 7 1 0 [] with eph := 2 }
    (refusedReport (answer (dropReq (atTime (inState k) 5) k) k 8 0x0015 []) k).fab.inbox.contains k = false := by decide +kernel

/-- A service that ends with an answer takes its request. -/
theorem wit_serves_read : let k : Pkt := { req 1 0 (2 ^ 40) [] with len := 4 }
    (serveEng 0 [] (readBody k) (fun w s => answer s k 2 w.status (if success w.status then w.desc else []))
      (atTime (inState k) 5) k).fab.inbox.contains k = false := by decide +kernel

theorem wit_serves_write : let k := req 3 0 (2 ^ 40) [1]
    (serveEng 0 [] (writeBody k) (fun w s => answer s k 4 w.status []) (atTime (inState k) 5) k).fab.inbox.contains k = false ∧
    (answer (dropReq (inState k) k) k 4 0x0010 []).fab.inbox.contains k = false := by decide +kernel

theorem wit_serves_add : let k := req 5 4 (2 ^ 41) [1, 0, 0, 0]
    (serveEng k.sdie [] (addBody k) (fun w s => answer s k 6 w.status (ackBody w.acc)) (atTime (inState k) 5) k).fab.inbox.contains k
      = false := by decide +kernel

theorem wit_serveEng : let k : Pkt := { req 1 0 (2 ^ 40) [] with len := 4 }
    let x := ((readBody k).run).run { s := serverState (inState k) 0 [] k, w := reqWork (inState k) k 0 [], die := 0 }
    findReq (inState k) k = none ∧ x.1 = .ok () ∧ (findReq (ended x.2 0x0000) k).map (·.phase) = some .done := by decide +kernel

theorem wit_read : ∀ n ∈ [1, 16], let k : Pkt := { req 1 0 (2 ^ 40) [] with len := n }
    let s := inState k
    let o := objOf s (hObj k.addr)
    o.num = hObj k.addr ∧ o.spans (hOff k.addr) k.len = true ∧ o.rowlen = 0 ∧ o.versioned = false ∧ 0 < k.len ∧
    k.len ≤ 16 - hOff k.addr % 16 ∧ locate s o (hOff k.addr) = .here 0 ∧ readPhys s 0 k.len = some (List.replicate n 0) ∧
    (s.dir.entries = [] ∧ s.dir.migs = [] ∧ s.mem.poison = []) ∧
    ({ k with payload := List.replicate n 7 } : Pkt).payload.length = k.len := by decide +kernel

theorem wit_requestChecks : ∀ f ∈ [true, false], ∀ k ∈ [req 5 4 (2 ^ 41) [1, 0, 0, 0], req 7 1 0 [], req 7 3 0 [], req 7 2 0 []],
    let s : State := { inState { k with eph := 2 } with err := { fatal := f } }
    serving s = true ∧ candidates (fun j => j.ty == k.ty) [] s.fab.inbox = [{ k with eph := 2 }] ∧
    (ephChecked { k with eph := 2 } = true ∧ 2 ≠ reg s Key.ephPin) ∧
    (answer (dropReq (atTime s 5) { k with eph := 2 }) { k with eph := 2 } (k.ty + 1) (if s.err.fatal = true then 0x001A else 0x0015) []
      ).fab.inbox.contains { k with eph := 2 } = false := by decide +kernel

theorem wit_messages : ∀ n ∈ [1, 2, 3, 5], let k := req 7 n 0 (List.replicate 64 1)
    serving (inState k) = true ∧ candidates (isMsg n) [] (inState k).fab.inbox = [k] ∧ (inState k).err.fatal = false ∧
    k.eph = reg (inState k) Key.ephPin ∧ reg (inState k) Key.bootState = 4 ∧
    (answer (dropReq (inState k) k) k 8 0 []).fab.inbox.contains k = false := by decide +kernel

theorem wit_messages_taken : let k := req 7 2 0 (List.replicate 64 1)
    field k.payload 7 1 ≠ 0 ∧
    (takeChain (answer (dropReq (inState k) k) k 8 0 []) k.payload).fab.inbox.contains k = false ∧
    (takeRetire (answer (dropReq (inState k) k) k 8 0 []) k.payload).fab.inbox.contains k = false ∧
    (takeReport (answer (dropReq (inState k) k) k 8 0 []) k.payload).fab.inbox.contains k = false ∧
    (answer (placeMessage (dropReq (inState k) k) k.src k.payload).2 k 8
      (placeMessage (dropReq (inState k) k) k.src k.payload).1 []).fab.inbox.contains k = false := by decide +kernel

theorem wit_strand_taken : let k := req 7 1 0 (List.replicate 32 0)
    (acceptStrand (inState k) k).fab.inbox.contains k = false := by decide +kernel

theorem wit_row_taken : let k := req 7 3 0 (List.replicate 200 0)
    (serveRow (inState k) k).fab.inbox.contains k = false := by decide +kernel

/-! Responses to descriptor (0, 0). -/

/-- The module with an answer in its inbox, and the transaction it answers. -/
def rspState (ty aux : Nat) (x : Txn) : State :=
  { fetched (work 0x0880 [] .running) with fab := { inbox := [{ ty := ty, aux := aux, src := 1, txid := 9 }], txns := [x] } }

/-- Transaction 9, to module 1. -/
def txn (k : TxKind) : Txn := { id := 9, kind := k, pkt := { ty := 1, dst := 1 }, issuer := some (.q 0 0), start := 0 }

theorem wit_responses : ∀ ty ∈ [2, 4, 6, 8], ∀ aux ∈ [0, 4, 0xFFFF], let s := rspState ty aux (txn .rd)
    reg s Key.frzState < 2 ∧ (takeInbox s (fun k => k.ty == ty)).map (·.1) = some { ty := ty, aux := aux, src := 1, txid := 9 } ∧
    findTxn s 9 1 = some (txn .rd) ∧ s.fab.mcasts = [] ∧ findWork s (.q 0 0) = some (work 0x0880 [] .running) := by decide

/-- A row operation of two parts that holds rows elsewhere: its answer comes while it runs, and after it was cancelled. -/
theorem wit_row_answers : ∀ op ∈ [1, 2, 3, 4, 5, 7],
    rowOpOf (objOf (rspState 2 0 (txn .rd)) (txn .rd).obj) (rowAux op 5) = some op ∧
    ({ work 0x0880 [] .running with phase := .done } : Work).phase ≠ .running := by decide

/-- A multicast in progress toward module 1. -/
def mc : MCast := { id := 9, pkt := { ty := 3, mc := true }, issuer := .q 0 0, left := [1], start := 0 }

theorem wit_multicast : ∀ ty ∈ [4, 0xA], let s : State := { rspState ty 0 (txn .wr) with fab := { (rspState ty 0 (txn .wr)).fab with mcasts := [mc] } }
    (takeInbox s (fun k => k.ty == ty)).map (·.1) = some { ty := ty, src := 1, txid := 9 } ∧
    s.fab.mcasts.find? (fun m => m.id == 9 && m.left.contains 1) = some mc ∧ s.fab.mcasts.find? (fun m => m.id == 9) = some mc ∧
    s.fab.mcasts.find? (fun m => m.id == 9 && !m.resent && !m.held) = some mc ∧
    mc.start + 1000 * reg s Key.sluiceRtoUs ≤ max s.time (10 ^ 9) ∧ reg s Key.frzState = 0 := by decide

theorem wit_retry : ∀ k ∈ [TxKind.update, TxKind.mailbox], let x : Txn := { txn k with busyAt := some 0 }
    let s := rspState 8 0 x
    s.fab.txns.find? (fun x => x.id == 9 && x.busyAt.isSome) = some x ∧ x.kind ≠ .strand ∧
    x.busyAt.getD 0 + 1000 * reg s Key.fabBusyBackoffUs ≤ max s.time (1000 * reg s Key.fabBusyBackoffUs) ∧
    max s.time (1000 * reg s Key.fabBusyBackoffUs) < x.start + 1000 * reg s Key.mbxFabRetryUs ∧
    x.busyAt.getD 0 + 1000 * reg s Key.fabBusyBackoffUs ≤ max s.time (10 ^ 12) ∧
    x.start + 1000 * reg s Key.mbxFabRetryUs ≤ max s.time (10 ^ 12) := by decide

theorem wit_retry_strand : let x : Txn := { txn .strand with busyAt := some 0 }
    (rspState 8 0 x).fab.txns.find? (fun y => decide (y.kind = .strand) && y.pkt.dst == x.pkt.dst && y.busyAt.isSome) = some x := by decide

theorem wit_drain_done : let s := setReg (linked 6) Key.fabState 2
    reg s Key.fabState = 2 ∧ drained s = true ∧ ({ s with fab := { s.fab with drainAt := 1 } } : State).fab.drainAt ≠ 0 ∧
    ({ s with fab := { s.fab with drainAt := 1 } } : State).fab.drainAt + 1000 * reg s Key.fabDrainTimeoutUs ≤ max s.time (10 ^ 12) := by
  decide

theorem wit_freezes : let s : State := { withRegs (linked 6) [(Key.frzPropagate, 1), (Key.frzCause, 3), (Key.frzState, 2)] with
      fab := { (linked 6).fab with inbox := [{ ty := 0x0C, aux := ctrlFreeze, src := 1 }, { ty := 0x0C, aux := ctrlThaw, src := 1 }] } }
    (takeInbox s (fun k => k.ty == 0x0C && k.aux == ctrlFreeze)).isSome = true ∧
    (takeInbox s (fun k => k.ty == 0x0C && k.aux == ctrlThaw)).isSome = true ∧ reg s Key.frzPropagate = 1 ∧
    reg s Key.frzCause = 3 ∧ fenced s 1 = false ∧ reg s Key.frzState = 2 := by decide

/-- A THAW of the neighbour at port 0, a member. -/
theorem wit_fromMember : let s := setPort (setReg (linked 6) Key.linkPeer 1) 0 { peerPart := 1 }
    fromMember s 0 (sealPkt { ty := 0x0C, tc := 3, src := 1, part := 1, aux := ctrlThaw }) = true ∧ portTo s 1 = 0 := by decide +kernel


/-! ## Reduction -/

/-- A staging object of one row of 32 elements. -/
def redObj : Obj := { num := 4, fmt := 11, role := 3, rowlen := 32, rows := 1, pages := [{ page := 0, home := .frame 0 }] }

/-- A REDUCE of that row, of an interval. -/
def redWork (rows step0 ph : Nat) : Work :=
  work 0x0800 [(16, 8, 4 * 2 ^ 40), (28, 4, rows), (32, 2, 7), (35, 1, 2), (36, 4, step0)] (if ph = 0 then .fetched else .running)

/-- The module alone, with it. -/
def redState (w : Work) : State := { fetched w with objs := [(4, redObj)] }

/-- What the decision leaves. -/
def redIssued (w : Work) : State := (issue (markReady (atTime (redState w) 5)) w).getD noon

/-- A context of rank 0 of two. -/
def ctx : RedCtx :=
  { work := .q 0 0, redid := 7, step := 0, wstart := 0, mode := 0, obj := 4, first := 0, nrows := 1, rowlen := 32, t := 0
    n := 2, rank := 0, coords := [0, 1], dp := false, shift := 0 }

/-- What a REDUCE that reaches its engine meets: no rows, a step that is not due, no free context, a module fenced since, a
kept abort, none of these. -/
def redCases : List (Nat × Nat × RedEngine) :=
  [(0, 1, {}), (1, 0, {}), (1, 1, { ctxs := List.replicate 6 ctx }), (1, 1, { fencedSince := true }),
    (1, 1, { aborts := [(7, 0, 3, 0)] }), (1, 1, {})]

/-- The module in one of these, and what the decision leaves. -/
def redCase (e : Nat × Nat × RedEngine) : State := { redState (redWork e.1 e.2.1 0) with red := e.2.2 }
def redCaseIssued (e : Nat × Nat × RedEngine) : State := { redIssued (redWork e.1 e.2.1 0) with red := e.2.2 }

theorem starts_reduce : ∀ e ∈ redCases, Starts 0x0800 q0 (redCase e) (redWork e.1 e.2.1 0) ∧
    issue (markReady (atTime (redCase e) 5)) (redWork e.1 e.2.1 0) = some (redCaseIssued e) := fun e h => by
  have k : (findWork (redCase e) q0 = some (redWork e.1 e.2.1 0) ∧ (redWork e.1 e.2.1 0).op = 0x0800 ∧
      (redWork e.1 e.2.1 0).phase = .fetched ∧ (redWork e.1 e.2.1 0).req = none) ∧ computing (redCase e) = true ∧
      startable (redCase e) (redWork e.1 e.2.1 0) = true ∧ cancelled (redCase e) (redWork e.1 e.2.1 0) = false ∧
      headerStatus (redCase e) (redWork e.1 e.2.1 0) = 0 := by
    revert e; decide +kernel
  refine ⟨starts_of k, ?_⟩
  revert e; decide +kernel

/-- Each clause of ReduceStarts has its case. -/
theorem wit_reduce (h : Obligations.ReduceCommands) (e : Nat × Nat × RedEngine) (he : e ∈ redCases) :
    ∃ t, exec (.reduce q0 5) (redCase e) = .next t := by
  have hs := starts_reduce e he
  have k := h.1.1 _ _ q0 5 _ hs.1 rfl hs.2
  simp only [redCases, List.mem_cons, List.not_mem_nil, or_false] at he
  rcases he with rfl | rfl | rfl | rfl | rfl | rfl
  · have := k.1 0x12 (by decide +kernel); exact ⟨_, this⟩
  · have := k.2.1 (by decide +kernel) (by decide +kernel); exact ⟨_, this⟩
  · have := k.2.2.1 (by decide +kernel) (by decide +kernel) (by decide +kernel); exact ⟨_, this⟩
  · have := k.2.2.2.1 (by decide +kernel) (by decide +kernel) (by decide +kernel) rfl; exact ⟨_, this⟩
  · have := k.2.2.2.2.1 (7, 0, 3, 0) (by decide +kernel) (by decide +kernel) (by decide +kernel) rfl (by decide +kernel)
    exact ⟨_, this⟩
  · have := k.2.2.2.2.2 (by decide +kernel) (by decide +kernel) (by decide +kernel) rfl rfl (by decide +kernel)
    exact ⟨_, this⟩

/-- The module with the context and a packet in its inbox. -/
def ctxState (k : Pkt) (cs : List RedCtx) : State :=
  { linked 6 with work := [redWork 1 1 1], red := { ctxs := cs, aborts := [(7, 0, 3, 0)] }, fab := { (linked 6).fab with inbox := [k] } }

theorem wit_reduce_goes : findWork (ctxState (pk 0) [ctx]) (.q 0 0) = some (redWork 1 1 1) ∧ (redWork 1 1 1).op = 0x0800 ∧
    computing (ctxState (pk 0) [ctx]) = true ∧ (redWork 1 1 1).phase = .running ∧
    (ctxState (pk 0) [ctx]).red.ctxs.find? (fun c => decide (c.work = .q 0 0)) = some ctx := by decide +kernel

theorem wit_reduce_waits : let w : Work := { redWork 1 1 0 with cursor := 1 }
    findWork (redState w) (.q 0 0) = some w ∧ w.op = 0x0800 ∧ w.req = none ∧ computing (redState w) = true ∧ w.waiting = true ∧
    startable (redState w) w = true ∧ cancelled (redState w) w = false := by decide +kernel

theorem wit_total : ctx.exact = true ∧ ∀ x ∈ [({ vals := [-1] } : RedPiece), { vals := [2 ^ 127] }],
    x.vals.length = ({ vals := [1] } : RedPiece).vals.length := by decide

theorem wit_block : ∀ x ∈ [(-128 : Int), 127], let m := List.replicate 32 x
    m.length = 32 ∧ (∀ v ∈ m, -128 ≤ v ∧ v ≤ (127 : Int)) ∧
    (∀ v ∈ m, -128 ≤ roundScaled .nearest 0 v (200 - (200 : Int)) ∧ roundScaled .nearest 0 v (200 - (200 : Int)) ≤ 127) ∧
    (rankStep 200 m m 200).2.2.1 = true ∧ (rankStep 254 m m 254).2.2.1 = false := by decide +kernel

/-- A packet of the chain. -/
def redPk (ty aux eph : Nat) (bs : List Byte) : Pkt := { ty := ty, aux := aux, src := 1, eph := eph, payload := bs }

/-- A piece header of a stream. -/
def redHd (chk : Bool) : List Byte := redHeader ctx 0 2 chk {}

theorem wit_red : ∀ e ∈ [(1, false), (2, false), (1, true), (2, true)], let k := redPk 0xB 7 e.1 (redHd e.2)
    let s := ctxState k [ctx]
    reg s Key.frzState = 0 ∧ (takeInbox s (fun k => k.ty == 0xB && roomToRelay s k)).map (·.1) = some k ∧ redCtx s k.aux = some ctx ∧
    passing s k = e.2 ∧ (k.eph = reg s Key.ephPin ↔ e.1 = 1) ∧ windowOk (signed 16 (hdrBits k 160 16)) = true ∧
    (hdrBits k 0 32 = ctx.step ∧ hdrBits k 112 16 = ctx.n ∧ signed 16 (hdrBits k 160 16) = ctx.t) := by decide +kernel

/-- A piece of a window out of range. -/
theorem wit_red_window : let k := redPk 0xB 7 1 (redHeader { ctx with t := 5000 } 0 2 false {})
    (takeInbox (ctxState k [ctx]) (fun k => k.ty == 0xB && roomToRelay (ctxState k [ctx]) k)).map (·.1) = some k ∧
    windowOk (signed 16 (hdrBits k 160 16)) = false := by decide +kernel

/-- The next rank's RED_JOIN, with the fields of this one and with others. -/
theorem wit_red_join : ∀ c ∈ [ctx, { ctx with mode := 1 }], let k := redPk 0xC 0x20 1 (joinBody c)
    let s := ctxState k [ctx]
    (takeInbox s (isCtrl 0x20)).map (·.1) = some k ∧ redCtx s (field k.payload 0 2) = some ctx ∧ ctx.last = false ∧ ctx.up = k.src ∧
    ctx.joined = false ∧ (joinFields k.payload = joinFields (joinBody ctx) ↔ c.mode = 0) ∧ redCtx (ctxState k []) (field k.payload 0 2) = none := by
  decide +kernel

theorem wit_red_control : ∀ a ∈ [0x21, 0x22, 0x23], let k := redPk 0xC a 1 (leBytes 2 7 ++ List.replicate 30 0)
    let s := ctxState k [ctx]
    (takeInbox s (isCtrl a)).map (·.1) = some k ∧ redCtx s (field k.payload 0 2) = some ctx ∧ field k.payload 2 4 = ctx.step ∧
    relayHops s (field k.payload 7 2) = [] ∧
    s.red.ctxs.find? (fun c => c.redid == field k.payload 0 2 && c.step == field k.payload 2 4) = some ctx ∧
    (ctxState k []).red.ctxs.find? (fun c => c.redid == field k.payload 0 2 && c.step == field k.payload 2 4) = none ∧
    (field k.payload 0 2, field k.payload 2 4) ∉ s.red.steps := by decide +kernel

/-- An abort of a step that has started here, older than the newest. -/
theorem wit_red_abort_old : (7, 0) ∈ ({ ctxState (pk 0) [] with red := { steps := [(7, 1), (7, 0)] } } : State).red.steps := by decide

/-- How the context of a member of two fails: the neighbour is told, or it is the one that told. -/
theorem wit_failCtx : findWork (ctxState (pk 0) [ctx]) ctx.work = some (redWork 1 1 1) ∧
    (redPeers ctx).filter (fun d => some d != some (1 : Nat)) = [] ∧ (redPeers ctx).filter (fun d => some d != none) = [1] ∧
    findWork (ctxState (pk 0) [ctx]) (.q 1 0) = none := by decide +kernel

/-- A module beside the hop from rank 0 to rank 1 of a box of 2 × 2 × 1: the first relay of its detour. -/
def relayState : State := withRegs noon [(Key.fabState, 1), (Key.fabPartId, 1), (Key.fabBoxOrigin, 0), (Key.fabBoxSize, 0x011), (Key.fabCoord, coordOf 0 1 0)]

theorem wit_red_credit : (relayHops relayState 0).find? (fun h => h.2.2 == coordOf 1 1 0 && ((6 == 4 && h.1) || (6 == 6 && !h.1)))
    = some (false, 0, coordOf 1 1 0) := by decide +kernel

theorem wit_red_time : (ctxState (pk 0) [ctx]).red.aborts.find? (fun a => a.1 == 7) = some (7, 0, 3, 0) ∧
    0 + 1000 * reg (ctxState (pk 0) [ctx]) Key.redWatchdogUs ≤ max (ctxState (pk 0) [ctx]).time (10 ^ 12) ∧
    (ctxState (pk 0) [ctx]).red.ctxs[0]? = some ctx ∧ ctx.lastAt + 1000 * ctx.watchUs ≤ max (ctxState (pk 0) [ctx]).time 0 := by
  decide +kernel

/-! ## Host interface -/

/-- The module with its host link up. -/
def hosted : State := { withRegs noon [(Key.cxlLinkState, 2), (Key.queueSize, 6)] with cxl := { ready := true }, pwr := { noon.pwr with perstN := true } }

/-- A queue of 64 slots, on. -/
def bell (on prod cons compl : Nat) : State :=
  { withRegs hosted [(Key.queueEnable, on)] with queues := [(0, { prod := prod, cons := cons, compl := compl })] }

/-- Both doorbells at the bounds of what they take: 64 past COMPL_CONSUMER, 65, half of 2^32 past PRODUCER; up to the last
record, one past it; a queue that is off. -/
theorem wit_bells :
    (2 ≤ reg (bell 1 0 0 0) Key.cxlLinkState ∧ (bell 1 0 0 0).cxl.ready = true ∧ enabled (bell 1 0 0 0) 0 = true ∧
      enabled (bell 0 0 0 0) 0 = false) ∧
    (let x := queueOf (bell 1 0 0 5) 0
     (64 + 2 ^ 32 - x.prod % 2 ^ 32) % 2 ^ 32 < 2 ^ 31 ∧
     (64 + 2 ^ 32 - x.cons % 2 ^ 32) % 2 ^ 32 ≤ 2 ^ reg (bell 1 0 0 5) (Key.queueSize + 256 * 0) ∧
     2 ^ reg (bell 1 0 0 5) (Key.queueSize + 256 * 0) < (65 + 2 ^ 32 - x.cons % 2 ^ 32) % 2 ^ 32 ∧
     2 ^ 31 ≤ (2 ^ 31 + 2 ^ 32 - x.prod % 2 ^ 32) % 2 ^ 32 ∧
     (5 + 2 ^ 32 - x.cons % 2 ^ 32) % 2 ^ 32 ≤ (x.compl + 2 ^ 32 - x.cons % 2 ^ 32) % 2 ^ 32 ∧
     (x.compl + 2 ^ 32 - x.cons % 2 ^ 32) % 2 ^ 32 < (6 + 2 ^ 32 - x.cons % 2 ^ 32) % 2 ^ 32) := by decide

/-- Channel 63, its receiver the service processor, open to master 9. -/
def chan (x : Chan) (rcv : Nat) : State :=
  { withRegs hosted [(Key.mbxReceiver + 256 * 63, rcv), (Key.mbxAllow + 256 * 63, 2 ^ 9 + 2 ^ 32)] with mbx := [(63, x)] }

theorem wit_mailbox : (∀ m ∈ [1, 9], MailboxReach (chan {} 4) m) ∧ receiver (chan {} 0) 63 = 0 ∧ receiver (chan {} 4) 63 = 4 ∧
    bit (reg (chan {} 4) (Key.mbxAllow + 256 * 63)) 9 = true ∧ bit (reg (chan {} 4) (Key.mbxAllow + 256 * 63)) 8 = false ∧
    allows (chan {} 4) 63 9 = true ∧ allows (chan {} 4) 63 32 = true ∧ (chanOf (chan {} 4) 63).state = .free ∧
    (∀ x ∈ [ChState.held, .posted, .replied], let y : Chan := { state := x, owner := 9 }
      (chanOf (chan y 4) 63).state = x ∧ (chanOf (chan y 4) 63).owner = 9 ∧ (chanOf (chan y 4) 63).code < 65536 ∧
      mbxOn (chan y 4) = true ∧ reg (chan y 4) Key.frzState = 0 ∧
      (chanOf (chan y 4) 63).grantAt + 1000 * reg (chan y 4) Key.mbxHoldUs ≤ max (chan y 4).time (10 ^ 12)) := by
  unfold MailboxReach; decide

/-- Before step 5 the link carries the host's accesses and the mailbox does not answer them. -/
theorem wit_mailbox_early : mbxOn { chan {} 4 with cxl := {} } = true ∧ 2 ≤ reg { chan {} 4 with cxl := {} } Key.cxlLinkState ∧
    ({ chan {} 4 with cxl := {} } : State).cxl.ready = false := by decide

/-- The host's access is 32 bits, aligned; another master's may be any. -/
theorem wit_mailbox_width : aligned32 1 0x1000 4 = true ∧ aligned32 9 0x1001 3 = true ∧ aligned32 1 8 4 = true ∧ 0x1001 % 4 ≠ 0 ∧
    MailboxReach (chan {} 4) 1 := by
  unfold MailboxReach; decide

theorem wit_mail : ∀ c ∈ [63, 64], let k := req 7 4 c [5]
    let s : State := { chan {} 4 with fab := { inbox := [k] } }
    serving s = true ∧ candidates (isMsg 4) [] s.fab.inbox = [k] ∧ k.eph = reg s Key.ephPin ∧
    (takeMail (atTime s 5) k).fab.inbox.contains k = false := by decide +kernel

theorem wit_perst : hosted.pwr.managed = true ∧ hosted.pwr.perstN = true ∧ noon.pwr.perstN = false ∧
    (setReg hosted Key.cxlLinkState 1).pwr.managed = true ∧ reg (setReg hosted Key.cxlLinkState 1) Key.cxlLinkState = 1 ∧
    reg hosted Key.cxlLinkState ≠ 0 ∧ 4092 % 4 = 0 ∧
    (chanOf (chan { state := .held, owner := 1 } 4) 63).owner = 1 ∧ receiver (chan {} 1) 63 = 1 := by decide

/-- The registers of BAR0: the primary mailbox's capabilities are defined and read only, its command register may be
written. -/
theorem wit_device : devDefined mailboxBase = true ∧ devReadOnly mailboxBase = true ∧ devDefined (mailboxBase + 8) = true ∧
    devReadOnly (mailboxBase + 8) = false ∧ mailboxBase % 4 = 0 ∧ 0x40000 ≤ mailboxBase ∧ mailboxBase + 8 < 0x60000 := by
  refine ⟨?_, ?_, ?_, ?_, ?_, ?_, ?_⟩ <;> simp [devDefined, devReadOnly, inMailbox, mailboxSpan, mailboxBase] <;> omega

/-- The last entry of the MSI-X table, masked as at reset and unmasked, and its vector pending. -/
theorem wit_msix : 0x60FFC % 16 = 12 ∧ (0x60FFC - 0x60000) / 16 = 255 ∧
    ({ hosted with cxl := { ready := true, msixDue := [255] } } : State).cxl.msixDue.contains 255 = true ∧
    msixWord hosted.cxl (4 * 255 + 3) % 2 = 1 ∧ msixWord { hosted.cxl with msix := [(4 * 255 + 3, 1)] } (4 * 255 + 3) % 2 = 0 := by
  decide +kernel

/-- Aperture 0 bound to the first page of object 1, the range committed at 0. -/
def bound (len : Nat) : State :=
  { hosted with objs := [(1, plainObj)], cxl := { ready := true, hdm := some (0, 2 ^ 38), apts := [(0, { state := .bound, obj := 1, len := len })] } }

/-- It, with an access to the same bytes held before. -/
def heldBefore : State := { bound 64 with cxl := { (bound 64).cxl with held := [{ off := 0, len := 64, wr := none }] } }

/-- It, its page draining (R323). -/
def drainingPage : State := { bound 64 with place := { (bound 64).place with
  moves := [{ obj := 1, page := 0, state := .draining, src := .frame 0, coord := 0 }] } }

/-- It, object 1 a table (role 2) whose draft is open or shut. -/
def boundTable (open_ : Bool) : State :=
  { bound 64 with objs := [(1, { plainObj with role := 2, rowlen := 64, rows := 64 })], slots := [(0, { draftOpen := open_ })] }

/-- R239 lets the write go, or holds it. -/
def goes : RowWrite → Bool
  | .ok _ => true
  | _ => false
def waits : RowWrite → Bool
  | .wait => true
  | _ => false

theorem wit_hdm : ringsIn hosted 0 (2 ^ 38) = false ∧ ringsIn (bell 1 0 0 0) 0 (2 ^ 38) = true ∧
    (bound 64).cxl.hdm = some (0, 2 ^ 38) ∧ hostLinkUp (bound 64) = true ∧
    hostLinkUp (withRegs (bound 64) [(Key.cxlIdeRequired, 1), (Key.cxlIdeState, 2)]) = false ∧
    (Tab.get {} (bound 64).cxl.apts 0).state = .bound ∧ (Tab.get {} (bound 64).cxl.apts 1).state = .unbound ∧
    (Tab.get {} (bound 64).cxl.apts 0).len < 1 + 64 ∧
    reg (bound 64) Key.frzState = 0 ∧
    (∀ f ∈ [1, 2, 3, 4], hostLinkUp (withRegs (bound 64) [(Key.frzState, f)]) = true ∧ reg (withRegs (bound 64) [(Key.frzState, f)]) Key.frzState = f) ∧
    0 + 64 ≤ (Tab.get {} (bound 64).cxl.apts 0).len ∧ hostReach (bound 64) (objOf (bound 64) 1) 0 64 = true ∧
    goes (draftRows (bound 64) 1 0 64) = true := by decide +kernel

theorem wit_hdm_held : heldBefore.cxl.held.any (HostAcc.meets { off := 0, len := 64, wr := none }) = true ∧
    (bound 64).cxl.held.any (HostAcc.meets { off := 0, len := 64, wr := none }) = false ∧
    heldBefore.cxl.held ≠ [] ∧ hostLinkUp heldBefore = true ∧ reg heldBefore Key.frzState = 0 := by decide +kernel

theorem wit_hdm_waits : hostReach drainingPage (objOf drainingPage 1) 0 64 = false ∧
    (∀ b, let s := boundTable b
      hostReach s (objOf s 1) 0 64 = true ∧ reg s Key.frzState = 0 ∧ hostLinkUp s = true ∧ s.cxl.held = [] ∧
      goes (draftRows s 1 0 64) = b ∧ waits (draftRows s 1 0 64) = !b) := by decide +kernel

theorem wit_unbinding :
    let s : State := { hosted with cxl := { apts := [(63, { state := .unbinding })] } }
    (Tab.get {} s.cxl.apts 63).state = .unbinding ∧ hostLinkUp s = true := by decide

theorem wit_primary : 2 ≤ reg hosted Key.cxlLinkState ∧ hosted.cxl.ready = true ∧ 20 + 0 ≤ 20 ∧
    ((cdatHeader :: cdatEntries)[5]?).isSome = true ∧ Tab.get 0 hosted.cxl.regs mailboxBase = 0 ∧
    reg hosted Key.secSpdmSessions = 0 ∧ reg (withRegs hosted [(Key.secSpdmSessions, 4)]) Key.secSpdmSessions ≠ 0 ∧
    hosted.cxl.held = [] ∧ hosted.cxl.apts = [] := by decide


/-! ## Dictionary, firmware, errors, freeze -/

/-- A request frame from station 5. -/
def frameOf (seq : Nat) : List Byte :=
  leBytes 6 0x525402 ++ leBytes 6 5 ++ [0x88, 0xB5, 1, 0, 0, 0] ++ [1, 0] ++ leBytes 2 seq ++ [1, 0] ++ leBytes 2 24 ++ [1, 0] ++ List.replicate 14 0

/-- The module on the field network, an answer kept for station 5. -/
def station : State :=
  { withRegs hosted [(Key.flnEnable, 1), (Key.flnMac, 0x525402)] with srv := { kept := [(5, 7, [1])] } }

theorem wit_messages_dict : hosted.pwr.managed = true ∧ 2 ≤ reg hosted Key.cxlLinkState ∧ hosted.cxl.ready = true ∧
    reg station Key.flnEnable ≠ 0 ∧ station.pwr.managed = true ∧
    (∀ q ∈ [7, 8], let msg := frameOf q
      18 ≤ msg.length ∧ beNat ((msg.drop 12).take 2) = 0x88B5 ∧ field msg 14 1 = 1 ∧ field msg 0 6 = reg station Key.flnMac ∧
      field msg 0 6 ≠ broadcastMac ∧
      station.srv.kept.find? (fun e => e.1 == field msg 6 6 && e.2.1 == field (msg.drop 18) 2 2) =
        (if q = 7 then some (5, 7, [1]) else none)) := by decide +kernel

/-- A request over MCTP is in its envelope or it is not; the buffers of both transports hold all they can, or one less. -/
theorem wit_buffers : (mctpHead ++ [1]).take 4 = mctpHead ∧ ([] : List Byte).take 4 ≠ mctpHead ∧
    (∀ n ∈ [3, 4], ((List.replicate n 9).filter (fun d => decide (max hosted.time 8 < d))).length = n) ∧
    (∀ n ∈ [7, 8], ((List.replicate n 9).filter (fun d => decide (max hosted.time 8 < d))).length = n) ∧
    reg hosted Key.frzState = 0 ∧ reg (withRegs hosted [(Key.frzState, 1)]) Key.frzState ≠ 0 := by
  refine ⟨rfl, nofun, ?_⟩; decide

/-- Entries by key. -/
def ent (k : Nat) : EntryD := (entryOf k).getD ⟨0, 1, 1, 0, 0, 0, 0, 0, 0, 0⟩

/-- A write is carried out. -/
def carried : Acted → Bool
  | .done _ => true
  | _ => false

theorem wit_writes :
    (ent Key.idUptimeNs).acc = 1 ∧
    (let k := Key.sluiceWin
     let e := ent k
     let i := (k - e.base) / e.stride
     e.acc ≠ 1 ∧ maskGrants (writeMask noon e k) 2 = true ∧ maskGrants (writeMask (withRegs noon [(Key.dictWriters, 2)]) e k) 1 = false ∧
     isLocked noon e k = false ∧ itemFits e k 0 1 = false ∧ itemFits e k 0 2 = true ∧ 1 ≠ reg noon Key.dictGeneration ∧
     0 = reg noon Key.dictGeneration ∧ badValue noon e i 3 = true ∧ badValue noon e i 4 = false ∧ badValue noon e i 1024 = false ∧
     badValue noon e i 1025 = true ∧ keyOn noon k = true ∧
     carried (actWrite noon 2 e i k 0 (leBytes 2 4)) = true) ∧
    isLocked (withRegs noon [(Key.mbxBindLocked, 1)]) (ent Key.mbxAllow) Key.mbxAllow = true ∧
    (match actWrite (fetched (work 0x0100 [] .fetched)) 1 (ent Key.ephPin) 0 Key.ephPin 0 (leBytes 2 1) with
      | .inUse _ => true
      | _ => false) = true := by decide +kernel

/-- The module in Midnight. -/
def midnight : State := withRegs noon [(Key.pwrState, 3)]

/-- A unit's counters cannot be cleared while it is off; its settings can be written. -/
theorem wit_asleep :
    (let e := ent 0x20003000
     e.acc = 6 ∧ keyOn midnight 0x20003000 = false ∧ keyOn noon 0x20003000 = true ∧ isLocked midnight e 0x20003000 = false ∧
     maskGrants (writeMask midnight e 0x20003000) 2 = true ∧ itemFits e 0x20003000 0 1 = true ∧ badValue midnight e 0 1 = false ∧
     carried (actWrite midnight 2 e 0 0x20003000 0 [1]) = true) ∧
    (let e := ent Key.sluiceWin
     e.acc ≠ 4 ∧ e.acc ≠ 6 ∧ keyOn midnight Key.sluiceWin = false ∧
     carried (actWrite midnight 2 e 0 Key.sluiceWin 0 (leBytes 2 4)) = true) := by decide +kernel

/-- Firmware's write of what only fuses hold (R471). -/
theorem wit_weir : isFirmware 4 = true ∧ isFirmware 1 = false ∧ (ent Key.secSvnCommit).base = Key.secSvnCommit ∧
    (ent Key.secSvnCommit).acc ≠ 1 ∧ maskGrants (writeMask noon (ent Key.secSvnCommit) Key.secSvnCommit) 4 = false := by decide +kernel

theorem wit_keys : keyGroup 0x7EFFFFFF ≠ 0x7F ∧ entryOf 0x7EFFFFFF = none ∧ nextKey 0 = some 0x100 ∧ nextKey 0x7FFFFFFF = none ∧
    keyGroup 0x7F000000 = 0x7F := by decide +kernel

/-- A module that verifies its staging bank: a header alone, of 512 bytes, whose signature has r = s = 1. -/
def verifying (magic before : Nat) (img : Bool) : State :=
  { withRegs noon [(Key.bootState, 2), (Key.bootLoaded, 512), (Key.ephSupported, 2)] with
    boot := { before := before, hasImage := img, staging := Tab.set 0 (Tab.set 0 (Tab.setRange 0 [] 0 (leBytes 4 magic ++ leBytes 2 1 ++ leBytes 2 0 ++ leBytes 4 9 ++
      leBytes 4 1 ++ leBytes 4 2 ++ leBytes 4 512 ++ leBytes 4 0 ++ leBytes 4 512 ++ List.replicate 32 0 ++ [4])) 463 1) 511 1 } }

/-- Its image. -/
def image : Tab Byte := (verifying 0x5746344C 0 false).boot.staging

/-- The image passes where hash and signature do; what those answer is the standards' (log 7). -/
theorem wit_verify (h1 : Config.sha384 (imgBytes image 64 97) = Config.keyHash 0)
    (h2 : Config.ecdsaValid (Config.sha384 (imgBytes image 0 416)) 0 (2 ^ 384 + 1) = true) (h3 : Config.sha384 [] = 0) :
    ∀ e ∈ [(0, false), (7, true), (4, true)], verify (verifying 0x5746344C e.1 e.2) = 1 := by
  intro e he
  have k : ∀ e ∈ [((0 : Nat), false), (7, true), (4, true)], (verifying 0x5746344C e.1 e.2).boot.staging = image ∧
      (verifying 0x5746344C e.1 e.2).boot.svn = 0 ∧ bit (verifying 0x5746344C e.1 e.2).boot.revoked 0 = false ∧
      reg (verifying 0x5746344C e.1 e.2) Key.bootLoaded = 512 ∧ reg (verifying 0x5746344C e.1 e.2) Key.ephSupported = 2 ∧
      reg (verifying 0x5746344C e.1 e.2) Key.ephPin = 1 := by decide +kernel
  obtain ⟨a, v, w, x, y, z⟩ := k e he
  have m : (imgBytes image 64 97).head? = some 4 ∧ imgBytes image 512 0 = [] ∧ beNat ((imgBytes image 64 97).drop 1) = 0 ∧
      beNat (imgBytes image 416 96) = 2 ^ 384 + 1 ∧ inOrder (beNat (imgBytes image 416 48)) = true ∧
      inOrder (beNat (imgBytes image 464 48)) = true ∧ beNat (imgBytes image 176 48) = 0 ∧ imgSlot image = 0 ∧ imgNat image 0 4 = 0x5746344C ∧
      imgNat image 4 2 = 1 ∧ imgLength image = 512 ∧ imgNat image 24 4 = 0 ∧ imgDimmAt image = 512 ∧ imgDimms image = 0 ∧
      imgSvn image = 1 ∧ imgEph image = 2 := by decide +kernel
  obtain ⟨c, d, f, g, o1, o2, i, j, l, n, o, p, q, r, t, u⟩ := m
  unfold verify
  simp only [a, c, d, f, g, o1, o2, i, j, l, n, o, p, q, r, t, u, v, w, x, y, z, h1, h2, h3]
  rw [if_neg (by decide), if_neg (by decide), if_neg (by decide), if_neg (fun h => h rfl)]
  decide

theorem wit_verify_fails : reg (verifying 0 4 true) Key.bootState = 2 ∧ verify (verifying 0 4 true) ≠ 1 := by decide +kernel

theorem wit_firmware :
    (let s := withRegs noon [(Key.bootState, 1)]
     s.boot.loadAt + 1000000 * reg s Key.bootLoadIdleMs ≤ max s.time (10 ^ 15)) ∧
    (let s : State := { withRegs noon [(Key.bootState, 3), (Key.pwrState, 0xFF), (Key.clkPllLocked, 1)] with boot := { memReady := true } }
     reg s Key.bootState = 3 ∧ s.boot.memReady = true ∧ s.pwr.rows = railRows ∧ reg s Key.clkPllLocked = 1 ∧ reg s Key.pwrState = 0xFF ∧ reg s Key.frzState = 0 ∧
     6 ≤ s.pwr.rows ∧ ({ s with boot := {} } : State).boot.memReady = false) ∧
    (let s := withRegs noon [(Key.bootState, 6)]
     reg s Key.bootState = 6 ∧ reg s Key.frzState = 0 ∧ reg (withRegs s [(Key.frzState, 1)]) Key.frzState ≠ 0 ∧ s.boot.startAt + 1000000000 ≤ max s.time 1000000000) ∧ dogRuns noon = true ∧
    (let s : State := { noon with boot := { dogs := [1, 2] } }
     dogRuns s = true ∧ 2 ≤ (s.boot.dogs.filter (fun x => decide (max s.time 3 < x + 60000000000))).length) ∧
    (let s : State := { withRegs noon [(Key.pwrState, 3)] with pwr := { noon.pwr with target := some 0 }, boot := { hasImage := true } }
     s.pwr.target = some 0 ∧ 3 ≤ reg s Key.pwrState ∧ s.boot.hasImage = true) ∧
    (∀ c ∈ [[], (List.range 63).map (fun i => (2 * i, 1))], let b : Boot := { commit := some 64, cells := c }
      b.commit = some 64 ∧ b.svn < 64 ∧ (64 ≤ b.svn + 1 ↔ c ≠ [])) := by decide +kernel

/-- A read-out in progress, to the buffer or to the host; the entries it was started from have changed since. -/
def dumping (dest : Nat) : State :=
  { withRegs hosted [(Key.frzReadState, 1), (Key.frzState, 2), (Key.frzDumpAddr, 128), (Key.frzReadLen, 8192)] with
    err := { readAddr := hbmBase, readLen := 64, readDest := dest } }

theorem wit_dump : ∀ a ∈ [0, 64], let s := dumping a
    reg s Key.frzReadState = 1 ∧ 2 ≤ reg s Key.frzState ∧ s.err.readDest = a ∧ s.err.readLen = 64 ∧ reg s Key.frzState ≠ 4 ∧
    reg s Key.cxlLinkState = 2 ∧ readoutAddrs s.err.readAddr s.err.readLen = [hbmBase] := by decide +kernel

/-- Addresses the map leaves out, and the first of a trained stack and of a slice (scrubS has them). -/
theorem wit_mapped : mapped scrubS (2 ^ 47) = false ∧ mapped scrubS hbmBase = true ∧ hbmBase ≤ hbmBase ∧ hbmBase < deviceBase := by decide

/-- An error of a unit. -/
def errAt (u c : Nat) : ErrIn := { unit := u, code := c }

theorem wit_errors : (∀ v ∈ [0, 1, 3], severity (errAt 56 0x0101).code = 1 ∧ reg noon Key.frzState ≠ 4 ∧
      bit (reg (withRegs noon [(Key.errValid + 256 * 56, v)]) (Key.errValid + 256 * 56)) 0 = decide (v ≠ 0) ∧
      bit (reg (withRegs noon [(Key.errValid + 256 * 56, v)]) (Key.errValid + 256 * 56)) 1 = decide (v = 3)) ∧
    (errAt 15 0x0101).unit < 0x10 ∧ (errAt 15 0x0101).addr = 0 ∧ (arrOf noon 60).work.isNone = true ∧
    (arrOf { noon with arr := [(60, { work := some (.b 1) })] } 60).work.isNone = false ∧ (tilesOf 15).getD (0 % 4) 0 = 60 ∧
    (∀ u ∈ [0x14, 0x1B, 0x1C, 0x2B], (errAt u 0).code = 0 ∧ 0x14 ≤ u ∧ u < 0x2C) ∧ (errAt 0x14 0x0203).code = 0x0203 ∧ severity (errAt 56 0x0301).code = 3 ∧ noon.err.fatal = false ∧ reg noon Key.frzState = 0 ∧
    reg noon Key.bootState = 4 ∧ reg (withRegs noon [(Key.frzOnFatal, 0)]) Key.frzOnFatal = 0 ∧
    ({ noon with err := { fatal := true, stopped := [3] } } : State).err.stopped.contains 3 = true ∧
    severity (errAt 16 0x0203).code = 2 ∧ reg (withRegs noon [(Key.frzState, 4)]) Key.frzState = 4 := by decide

theorem wit_freeze : noon.pwr.managed = true ∧ noon.pwr.freezeN = true ∧ reg noon Key.frzState = 0 ∧ noon.pwr.target = none ∧
    pwrEnWins (atTime noon 5) = false ∧
    (let s : State := { noon with time := 5, pwr := { noon.pwr with pwrEn := false, lowAt := 5 } }
     pwrEnWins (atTime s 5) = true ∧ pwrEnWins (atTime s 15) = false) ∧
    reg (withRegs noon [(Key.frzState, 1)]) Key.frzState = 1 ∧
    (let s : State := { withRegs noon [(Key.frzState, 2), (Key.dbgScanEnable, 1)] with pwr := { noon.pwr with freezeN := false } }
     s.pwr.managed = true ∧ s.pwr.freezeN = false ∧ reg s Key.frzState = 2 ∧ reg s Key.dbgScanEnable = 1 ∧
     max s.time 0 - reg s Key.frzEntryNs < 1000 * reg s Key.linkTimeoutUs ∧ s.err.upAt = [] ∧ reg s Key.frzStatus % 64 = 0 ∧
     bit (reg s Key.frzStatus) 17 = false ∧ bit (reg s Key.frzStatus) 18 = false ∧
     1000 * reg s Key.linkTimeoutUs ≤ max s.time (1000 * reg s Key.linkTimeoutUs) - reg s Key.frzEntryNs ∧
     reg s Key.frzEntryNs + 1000 * reg s Key.linkTimeoutUs ≤ max s.time (1000 * reg s Key.linkTimeoutUs)) ∧
    ({ noon with pwr := { noon.pwr with alertEnd := 7 } } : State).pwr.alertEnd ≤ max noon.time 7 := by decide

/-! ## Power, clocks, sensors, pins -/

theorem wit_cold :
    (State.reset.pwr.closed = false ∧ State.reset.pwr.tripped = false) ∧
    (let s : State := { State.reset with pwr := { closed := true } }
     s.pwr.closed = true ∧ s.pwr.managed = false) ∧
    (∀ n ∈ [0, 9], let s : State := { noon with pwr := { noon.pwr with raising := true, rows := n } }
     s.pwr.raising = true ∧ s.pwr.rows < railRows ∧ s.pwr.down = [] ∧ s.pwr.rowAt + 5000000 ≤ max s.time 5000000) ∧
    (let s : State := { noon with pwr := { noon.pwr with raising := true, down := [8] } }
     s.pwr.raising = true ∧ s.pwr.down = [8] ∧ s.pwr.rows = railRows) ∧
    (let s : State := { withRegs noon [(Key.pwrState, 0xFF), (Key.clkRefState, 1)] with pwr := { noon.pwr with rows := 2, perstN := true } }
     reg s Key.clkPllLocked = 0 ∧ 2 ≤ s.pwr.rows ∧ reg s Key.pwrState = 0xFF ∧ s.boot.hasImage = false ∧ s.pwr.perstN = true ∧
     reg s Key.cxlLinkState = 0 ∧ reg (setReg s Key.clkRefSelect 0) Key.clkRefSelect = 0 ∧
     reg (setReg s Key.clkRefSelect 1) Key.clkRefSelect ≠ 0 ∧ reg s Key.clkRefState = 1) := by decide

theorem wit_switch : noon.pwr.closed = true ∧
    (let s : State := { State.reset with pwr := { tripped := true, lowAt := 1 } }
     s.pwr.tripped = true ∧ s.pwr.lowAt ≠ 0 ∧ s.pwr.lowAt + 10000000 ≤ max s.time 10000001 ∧ s.pwr.closed = false ∧
     s.pwr.managed = false) := by decide

theorem wit_warm : noon.pwr.managed = true ∧ noon.pwr.pwrEn = true ∧
    ({ noon with pwr := { managed := true } } : State).pwr.pwrEn = false ∧
    ({ noon with pwr := { managed := true } } : State).pwr.thermtrip = false := by decide

/-- The module with a transition or a wake held. -/
def ladder (p : Nat) (x : Power) : State := { withRegs noon [(Key.pwrState, p), (Key.pwrAutoDuskUs, 5)] with pwr := x }

theorem wit_ladder :
    (let s := ladder 0 noon.pwr
     reg s Key.pwrAutoDuskUs ≠ 0 ∧ reg s Key.pwrState = 0 ∧ powerRefused s 1 false = false ∧
     s.pwr.idleAt + 1000 * reg s Key.pwrAutoDuskUs ≤ max s.time 5000) ∧
    (∀ p ∈ [1, 4], let s := ladder p { noon.pwr with wakeHeld := true }
     s.pwr.wakeHeld = true ∧ reg s Key.frzState = 0 ∧ s.pwr.target = none ∧ 1 ≤ reg s Key.pwrState ∧ reg s Key.pwrState ≤ 4) ∧
    (∀ v ∈ [1, 2, 3, 4], let s := ladder 0 { noon.pwr with wakeHeld := true, target := some v }
     s.pwr.wakeHeld = true ∧ reg s Key.frzState = 0 ∧ s.pwr.target = some v ∧ s.place.moves = [] ∧ s.pwr.stopping = false ∧
     s.pwr.deep = 0 ∧ s.pwr.freezeDue = none ∧ scratchPages s = [] ∧ s.pwr.after = none) ∧
    (let s := ladder 1 { noon.pwr with target := some 0 }
     s.pwr.target = some 0 ∧ reg s Key.pwrState = 1 ∧ s.pwr.deep = 0 ∧ reg s Key.frzState = 0 ∧ s.pwr.freezeDue = none ∧
     s.pwr.after = none) ∧
    reg (setReg (ladder 1 { noon.pwr with wakeHeld := true }) Key.frzState 2) Key.frzState ≠ 0 := by decide +kernel

/-- Each step of an entry of Midnight and New Moon; the last is New Moon's alone. -/
theorem wit_stages : ∀ e ∈ [(3, 1), (3, 2), (3, 3), (4, 1), (4, 2), (4, 3), (4, 4)],
    let s := ladder 0 { noon.pwr with target := some e.1, stage := e.2 }
    s.pwr.target = some e.1 ∧ reg s Key.frzState = 0 ∧ s.place.moves = [] ∧ s.pwr.stopping = false ∧ s.pwr.stage = e.2 ∧
    s.pwr.freezeDue = none := by decide

/-- A freeze that waits meets the wake that stops an entry in Noon; an entry being stopped ends; a rail still down. -/
theorem wit_stopped :
    (let s := ladder 0 { noon.pwr with target := some 1, wakeHeld := true, freezeDue := some (1, 0) }
     s.pwr.wakeHeld = true ∧ reg s Key.frzState = 0 ∧ s.pwr.target = some 1 ∧ s.place.moves = [] ∧ reg s Key.pwrState = 0 ∧
     s.pwr.stage = 0 ∧ s.pwr.deep = 0 ∧ s.pwr.freezeDue = some (1, 0)) ∧
    (let s := ladder 0 { noon.pwr with target := some 4, stopping := true }
     s.pwr.target = some 4 ∧ s.pwr.stopping = true ∧ s.pwr.stage = 0 ∧ s.pwr.freezeDue = none ∧ reg s Key.pwrState = 0 ∧
     s.pwr.deep = 0) ∧
    (let s := ladder 2 { noon.pwr with target := some 0, down := [8] }
     s.pwr.target = some 0 ∧ 2 ≤ max (reg s Key.pwrState) s.pwr.deep ∧ railsUp s = false) := by decide

/-- One reading, or several alike. -/
theorem wit_reads : ReadsAs 0 [7, 7, 7] 7 ∧ ReadsAs 39 [7] 7 ∧ ([7, 8] : List Int) ≠ [] := by
  unfold ReadsAs; decide

theorem wit_sensors :
    (∀ ss ∈ [0, 3], sensorOn noon ss = true ∧ noon.pwr.managed = true) ∧
    (∀ v ∈ [(-2 ^ 31 : Int), 109999], -2 ^ 31 ≤ v ∧ v < 2 ^ 31 ∧ ∀ l, tripAt 3 = some l → v < l) ∧
    (let s : State := { withRegs noon [(Key.senValue + 256 * 3 + 1, 10), (Key.senValue + 256 * 3 + 2, 20)] with sens := { hot := [(3, 1)] } }
     signed 32 (reg s (Key.senValue + 256 * 3 + 1)) = 10 ∧ signed 32 (reg s (Key.senValue + 256 * 3 + 2)) = 20 ∧
     reg s (Key.senValue + 256 * 3 + 4) ≠ 2 ∧ tripAt 3 = some 110000 ∧ (110000 : Int) ≤ 110000 ∧ Tab.get 0 s.sens.hot 3 = 1 ∧
     s.pwr.thermtrip = false) ∧
    (let s := withRegs noon [(Key.senValue + 256, 50001)]
     50000 < signed 32 (reg s (Key.senValue + 256))) ∧
    (let s := withRegs noon [(Key.senValue + 256, 0), (Key.senValue + 512, 0)]
     100 * signed 32 (reg s (Key.senValue + 256)) < 95 * 50000 ∧
     100 * signed 32 (reg s (Key.senValue + 512)) < 95 * (1000 * (reg s Key.pwrLimitW : Int))) := by
  refine ⟨by decide, ?_, by decide, by decide, by decide⟩
  intro v hv
  rw [show tripAt 3 = some 110000 from rfl]
  rcases List.mem_cons.1 hv with rfl | h
  · exact ⟨by decide, by decide, fun l hl => by cases hl; decide⟩
  · rw [List.mem_singleton.1 h]; exact ⟨by decide, by decide, fun l hl => by cases hl; decide⟩

/-- The second sample at its limit of a stack, which does not trip, and of the last sensor that does. -/
theorem wit_hot : ∀ e ∈ [8, 15, 17], ∃ l, tripAt e = some l ∧ l < 2 ^ 31 ∧
    Tab.get 0 ({ noon with sens := { hot := [(e, 1)] } } : State).sens.hot e = 1 ∧
    reg noon (Key.senValue + 256 * e + 4) ≠ 2 ∧ sensorOn noon e = true ∧ noon.pwr.thermtrip = false := by
  intro e he; simp only [List.mem_cons, List.not_mem_nil, or_false] at he
  rcases he with rfl | rfl | rfl <;> exact ⟨_, rfl, by decide⟩

/-- WAKE_N before and after a fall. -/
theorem wit_storm : noon.pwr.managed = true ∧ noon.pwr.wakeN = true ∧
    ({ noon with pwr := { noon.pwr with wakeN := false } } : State).pwr.wakeN = false := by decide

/-! ## The block -/

theorem wit_steps : ({ State.reset with pending := [.getEndpointId] } : State).pending = [.getEndpointId] ∧ State.reset.pending = [] := by
  decide

theorem wit_canonical : Canonical State.reset ∧ step State.reset = .next State.reset := ⟨⟨by decide, by decide, by decide⟩, rfl⟩

theorem wit_lasting : exec .getEndpointId State.reset = .next State.reset := rfl

theorem wit_memory : noon.mem.wf = true ∧ 1 ≤ [(7 : Byte)].length ∧ poisoned (writePhys noon 5 [7]).mem 5 1 = false ∧ 255 < 2 ^ (8 * 1) := by
  decide

theorem wit_integers : intRange .s8 = (-128, 127) ∧ (-128 : Int) ≤ 127 ∧
    (let x : Int := 255 * 2 ^ 0
     let d : Int := 2 ^ 1
     254 ≤ 127 * d ∧ -128 * d ≤ x ∧ ¬ x ≤ 127 * d ∧ -(257 : Int) < -128 * d) := by decide


/-! ## Engines: a run that ends, for each -/

/-- One page at a frame. -/
def at_ (a : Nat) (o : Obj) : Obj := { o with pages := [{ page := 0, home := .frame a }] }

/-- A byte object, an adder target, a table, a staging object, an optimizer state, an object in HBM4, four bytes. -/
def engObjs : Tab Obj := [
  (1, at_ 0 { num := 1, fmt := 4, rows := 65536 }),
  (2, at_ 65536 { num := 2, fmt := 4, rows := 65536 }),
  (3, at_ 131072 { num := 3, fmt := 9, rowlen := 16, rows := 16 }),
  (4, at_ 196608 { num := 4, fmt := 11, role := 3, rowlen := 16, rows := 16 }),
  (5, at_ 262144 { num := 5, fmt := 9, role := 4, rowlen := 16, rows := 16 }),
  (6, at_ (hbmBase + 2 ^ 28) { num := 6, fmt := 4, rows := 65536 }),
  (7, at_ 327680 { num := 7, fmt := 4, rows := 4 })]

/-- A path header, a graph header, a system, a radius path, an object list. -/
def engMem (s : State) : State :=
  let s := writePhys s 4096 (leBytes 2 1 ++ leBytes 6 1 ++ leBytes 8 1 ++ leBytes 2 1)
  let s := writePhys s 8192 ((List.replicate 5 (2 ^ 40) ++ [1, 0]).flatMap (leBytes 8) ++ leBytes 1 0x14)
  let s := writePhys s 12288 (leBytes 8 (2 ^ 40) ++ leBytes 8 1 ++ (List.range 9).flatMap (fun i =>
    leBytes 4 (if i % 4 = 0 then 0x3F800000 else 0)))
  let s := writePhys s 28672 (leBytes 2 2 ++ leBytes 6 1 ++ leBytes 8 1 ++ leBytes 2 1)
  writePhys s 32768 (leBytes 4 7)

/-- The module with them, the export window open. -/
def engState (w : Work) : State :=
  { engMem (withRegs noon [(Key.cxlLinkState, 2), (Key.ckptSize, 2 ^ 20), (Key.hbmState, 1)]) with
    work := [w], objs := engObjs, host := [(0, 4)] }

/-- A handle of an object. -/
def hd (n off : Nat) : Nat := n * 2 ^ 40 + off

/-- A descriptor of each engine. -/
def engWorks : List (Nat × List (Nat × Nat × Nat)) := [
  (0x0300, [(16, 8, hd 1 8192), (24, 8, hd 1 0), (32, 8, hd 1 4096), (44, 4, 1)]),
  (0x0301, [(16, 8, hd 1 8192), (48, 8, 1)]),
  (0x0302, [(16, 8, hd 1 0), (24, 8, hd 1 16384), (32, 8, hd 1 20480), (40, 4, 1), (48, 8, hd 1 24576)]),
  (0x0400, [(16, 8, hd 1 12288), (24, 8, hd 1 16384), (32, 8, hd 1 20480), (40, 8, hd 1 24576), (48, 4, 0x3F800000), (52, 2, 1), (60, 4, 1)]),
  (0x0401, [(16, 8, hd 1 28672), (24, 8, hd 1 0), (32, 8, hd 4 0), (52, 4, 1)]),
  (0x0402, [(16, 8, hd 1 28672), (24, 8, hd 1 0), (32, 8, hd 1 16384), (52, 4, 1)]),
  (0x0500, [(16, 8, hd 3 0), (24, 8, hd 1 0), (32, 8, hd 1 16384), (40, 4, 1), (48, 4, 4)]),
  (0x0501, [(16, 8, hd 1 16384), (24, 8, hd 1 0), (32, 8, hd 2 0), (40, 4, 1), (48, 4, 1), (52, 1, 4)]),
  (0x0502, [(16, 8, hd 3 0), (24, 8, hd 1 0), (32, 8, hd 1 16384), (40, 4, 1), (48, 4, 4)]),
  (0x0503, [(16, 8, hd 4 0), (24, 8, hd 1 16384), (36, 4, 1), (40, 1, 9)]),
  (0x0504, [(16, 8, hd 4 0), (36, 4, 1)]),
  (0x0510, [(16, 8, hd 1 0), (40, 4, 1)]),
  (0x0512, [(16, 8, hd 3 0), (24, 8, hd 1 0), (40, 4, 1)]),
  (0x0930, [(16, 8, hd 1 0), (24, 8, hd 1 0), (32, 8, hd 1 16384), (40, 4, 1), (44, 4, 1), (48, 1, 0), (50, 1, 8)]),
  (0x0600, [(16, 8, hd 3 0), (24, 8, hd 4 0), (32, 8, hd 5 0), (48, 8, hd 1 0), (56, 4, 1)]),
  (0x0601, [(16, 8, hd 3 0), (24, 8, hd 4 0), (32, 8, hd 5 0), (40, 8, hd 5 0), (48, 8, hd 1 0), (56, 4, 1)]),
  (0x0602, [(16, 8, hd 3 0), (24, 8, hd 4 0), (32, 8, hd 5 0), (48, 8, hd 1 0), (56, 4, 1)]),
  (0x0700, [(16, 8, hd 1 0), (24, 8, hd 6 0), (32, 4, 1), (36, 4, 1), (40, 1, 0x44)]),
  (0x0702, [(16, 8, hd 1 32768), (32, 4, 1)]),
  (0x0703, []),
  (0x0880, [(16, 8, hd 1 0), (24, 8, hd 2 0), (32, 4, 4)]),
  (0x0881, [(16, 8, hd 1 0), (32, 4, 4)])]

/-- The engine of an opcode. -/
def engOf (op : Nat) : Eng Unit :=
  match op with
  | 0x0300 => sampleBody
  | 0x0301 => prefixBody
  | 0x0302 => compactBody
  | 0x0400 => buildBody
  | 0x0401 => edgeGradBody
  | 0x0402 => edgeDiffBody
  | 0x0500 => gatherBody
  | 0x0501 => scatterAddBody
  | 0x0502 => scatterWriteBody
  | 0x0503 => readoutBody
  | 0x0504 => clearBody
  | 0x0510 => pinBody
  | 0x0512 => promoteBody
  | 0x0930 => prdBindBody
  | 0x0700 => saveBody
  | 0x0701 => restoreBody
  | 0x0702 => exportBody
  | 0x0703 => importBody
  | 0x0880 => putBody
  | 0x0881 => msgBody
  | _ => updBody

/-- What an engine comes to on a descriptor. -/
def engRun (e : Nat × List (Nat × Nat × Nat)) : Except Stop Unit × Ectx :=
  ((engOf e.1).run).run { s := engState (work e.1 e.2 .running), w := work e.1 e.2 .running, die := 0 }

/-- A descriptor in its engine whose run ends. -/
def Ends (e : Nat × List (Nat × Nat × Nat)) : Prop :=
  Enters e.1 (.q 0 0) (engState (work e.1 e.2 .running)) (engState (work e.1 e.2 .running)) (work e.1 e.2 .running) ∧
  (engRun e).1 = .ok ()

/-- The same as one check. -/
def endsIn (e : Nat × List (Nat × Nat × Nat)) : Bool :=
  let w := work e.1 e.2 .running
  decide (findWork (engState w) (.q 0 0) = some w) && w.op == e.1 && computing (engState w) && (engRun e).1.isOk

theorem ends_in {e : Nat × List (Nat × Nat × Nat)} (h : endsIn e = true) : Ends e := by
  simp only [endsIn, Bool.and_eq_true, decide_eq_true_eq, beq_iff_eq] at h
  obtain ⟨⟨⟨a, b⟩, c⟩, d⟩ := h
  obtain ⟨⟨⟩, hr⟩ := ok_of d
  exact ⟨enters_of ⟨a, b, rfl, c, rfl⟩, hr⟩

theorem wit_engines_read : ∀ e ∈ engWorks.take 6, endsIn e = true := by decide +kernel

theorem wit_engines_gather : ∀ e ∈ (engWorks.drop 6).take 7, endsIn e = true := by decide +kernel

theorem wit_engines_train : ∀ e ∈ (engWorks.drop 13).take 5, endsIn e = true := by decide +kernel

theorem wit_engines_export : ∀ e ∈ engWorks.drop 18, endsIn e = true := by decide +kernel

/-- What SAVE leaves, and a RESTORE of it. -/
def saved : State := (engRun (engWorks.getD 17 (0, []))).2.s

/-- A RESTORE of it. -/
def restWork : Work := work 0x0701 [(16, 8, hd 6 0), (24, 8, hd 1 16384), (36, 4, 1), (40, 1, 4)] .running

theorem wit_engines_restore :
    ((restoreBody.run).run { s := { saved with work := [restWork] }, w := restWork, die := 0 }).1.isOk = true := by decide +kernel

/-- A table in the host tier, and one whose page another module holds. -/
def farObj (h : Home) (b : Nat) : Obj := { num := 3, fmt := 9, rowlen := 16, rows := 16, backing := b, pages := [{ page := 0, home := h }] }

/-- The module with it. -/
def farState (o : Obj) : State :=
  { engState (work 0 [] .running) with objs := [(1, at_ 0 { num := 1, fmt := 4, rows := 65536 }), (3, o)] }

/-- The module in a box of 2 × 1 × 1. -/
def joined (s : State) : State := withRegs s [(Key.fabPartId, 1), (Key.fabBoxOrigin, 0), (Key.fabBoxSize, 1), (Key.fabState, 1)]

/-- Writing and reading row 0. -/
def rowWork (op : Nat) : Work := work op [(16, 8, hd 3 0), (24, 8, hd 1 0), (32, 8, hd 1 16384), (40, 4, 1), (48, 4, 4)] .running

/-- The other ways a run stops: a status, a promotion, a wait, the need of another module's bytes. -/
theorem wit_engines_stop :
    (engRun (0x0500, [])).1 = .error (.status 0x12) ∧
    ((scatterWriteBody.run).run { s := farState (farObj (.host 0) 1), w := rowWork 0x0502, die := 0 }).1 = .error (.promote 3 0) ∧
    ((gatherBody.run).run { s := setReg (farState (farObj (.host 0) 1)) Key.cxlLinkState 0, w := rowWork 0x0500, die := 0 }).1 = .error .wait ∧
    ((gatherBody.run).run { s := joined (farState (farObj (.displaced 1) 0)), w := rowWork 0x0500, die := 0 }).1 = .error (.need 1 3 0 256 none) := by
  decide +kernel

/-! A drain-coupled program, started beside its matrix descriptor. -/

/-- The program. -/
def coupledDesc : Work := work 0x0201 [(16, 8, 2 ^ 40), (24, 8, 2 ^ 40 + 64), (36, 2, 1)] .fetched

/-- Its matrix descriptor, in drain mode VEC. -/
def coupledPair : Work := { work 0x0100 [(48, 4, 1), (56, 4, 1), (60, 1, 1)] .running with ref := .q 0 1 }

/-- The module with both. -/
def coupledFetched : State := { fetched coupledDesc with work := [coupledDesc, coupledPair] }

/-- What the decision leaves. -/
def issuedCoupled : State := (issue (markReady coupledFetched) coupledDesc).getD noon

theorem wit_coupledStart : Starts 0x0201 (.q 0 0) coupledFetched coupledDesc := starts_of (by decide +kernel)

theorem wit_coupledStart_checks : tileFor (markReady coupledFetched) coupledDesc = some 0 ∧
    issue (markReady coupledFetched) coupledDesc = some issuedCoupled ∧ (pairOf issuedCoupled coupledDesc).map (·.ref) = some (.q 0 1) ∧
    vecChecks issuedCoupled coupledDesc true = 0 := by decide +kernel

theorem wit_coupledStart_load : ∃ e, ((loadVec 0 (started issuedCoupled coupledDesc 0).2 (pairOf issuedCoupled coupledDesc)).run).run
    { s := (started issuedCoupled coupledDesc 0).1, w := (started issuedCoupled coupledDesc 0).2, die := 0 } = (.ok (), e) :=
  ends_of (by decide +kernel)


/-! ### Ill-formed commands are refused, one for each check -/

theorem test_wf_queue : (Instr.descriptorFetch 64 0).wf = false ∧ (Instr.descriptorFetch 63 0).wf = true := by decide
theorem test_wf_time : (Instr.rdReq (2 ^ 64)).wf = false ∧ (Instr.rdReq (2 ^ 64 - 1)).wf = true := by decide
theorem test_wf_ref : (Instr.clear (.q 64 0)).wf = false ∧ (Instr.clear (.q 63 9)).wf = true ∧ (Instr.clear (.b 99)).wf = true := by
  decide
theorem test_wf_tile : (Instr.fma 64).wf = false ∧ (Instr.fma 63).wf = true := by decide
theorem test_wf_strand_die : (Instr.strandCreate 4 0 0).wf = false ∧ (Instr.strandCreate 3 0 0).wf = true := by decide
theorem test_wf_launch_die : (Instr.batchDue 0 { odie := 4, ocoord := 0, entry := 0 } 0 0).wf = false := by decide
theorem test_wf_launch_coord : (Instr.batchDue 0 { odie := 0, ocoord := 4096, entry := 0 } 0 0).wf = false := by decide
theorem test_wf_launch_entry : (Instr.batchDue 0 { odie := 0, ocoord := 0, entry := 4096 } 0 0).wf = false := by decide
theorem test_wf_bin_pos : (Instr.binRoundClose 0 { odie := 3, ocoord := 4095, entry := 4095 } 64 0).wf = false ∧
    (Instr.binRoundClose 0 { odie := 3, ocoord := 4095, entry := 4095 } 63 0).wf = true := by decide
theorem test_wf_slot : (Instr.tableRelease 64 0).wf = false ∧ (Instr.tableRelease 63 0).wf = true := by decide
theorem test_wf_port : (Instr.linkRetrain 6 0).wf = false ∧ (Instr.linkRetrain 5 0).wf = true := by decide
theorem test_wf_flit : (Instr.flitReceive 0 (.flit []) 0).wf = false ∧ (Instr.flitReceive 6 (.flit (List.replicate 256 0)) 0).wf = false ∧
    (Instr.flitReceive 5 (.flit (List.replicate 256 0)) 0).wf = true := by decide +kernel
theorem test_wf_codewords : (Instr.flitReceive 0 (.codewords [[], []]) 0).wf = false ∧
    (LineIn.codewords [1024 :: List.replicate 545 0]).wf = false ∧ (LineIn.codewords [List.replicate 546 1023]).wf = true := by decide +kernel
theorem test_wf_peer : (Instr.sackTimer 4096 0 0).wf = false ∧ (Instr.sackTimer 4095 3 0).wf = true := by decide
theorem test_wf_class : (Instr.sluiceRto 0 4 0).wf = false ∧ (Instr.sluiceRto 0 3 0).wf = true := by decide
theorem test_wf_scrub : (Instr.patrolScrub 0 (2 ^ 64)).wf = false := by decide
theorem test_wf_allow_channel : (Instr.unbindComplete 64).wf = false ∧ (Instr.unbindComplete 63).wf = true := by decide
theorem test_wf_sensor : (Instr.sensorSample 40 [0] 0).wf = false ∧ (Instr.sensorSample 39 [0] 0).wf = true ∧
    (Instr.sensorSample 39 [0, 0] 0).wf = false := by decide
theorem test_wf_doorbell_value : (Instr.producer 0 (2 ^ 64) [] 0).wf = false ∧ (Instr.complConsumer 0 (2 ^ 64) [] 0).wf = false := by
  decide
theorem test_wf_master : (Instr.mbxLock 8 0 0).wf = false ∧ (Instr.mbxLock 7 0 0).wf = true := by decide
theorem test_wf_channel : (Instr.mbxDone 0 64 0).wf = false ∧ (Instr.mbxDone 0 63 0).wf = true := by decide
theorem test_wf_hdm_window : (Instr.hdmCommit (2 ^ 64) 0).wf = false ∧ (Instr.hdmCommit 0 (2 ^ 64)).wf = false := by decide
theorem test_wf_host_address : (Instr.hdmAccess (2 ^ 64) 0 none).wf = false ∧ (Instr.h2dSnoop (2 ^ 64)).wf = false := by decide
theorem test_wf_timestamp : (Instr.setTimestamp (2 ^ 64) 0).wf = false := by decide
theorem test_wf_bus_address : (Instr.entdaa 256).wf = false ∧ (Instr.setEndpointId 256).wf = false := by decide

/-! ### The spec's worked examples -/

/-- 00_scope.md, after R8: rank 13 of a box of 4 × 2 × 2 at (8, 4, 2) sits at (10, 4, 3). -/
theorem test_rank_thirteen : rankCoord { origin := coordOf 8 4 2, a := 4, b := 2, c := 2 } 13 = coordOf 10 4 3 := by decide

/-- 00_scope.md, after R8: rank 8 sits at (8, 5, 3), above rank 7 at (8, 5, 2). -/
theorem test_rank_seven_eight : rankCoord { origin := coordOf 8 4 2, a := 4, b := 2, c := 2 } 7 = coordOf 8 5 2 ∧
    rankCoord { origin := coordOf 8 4 2, a := 4, b := 2, c := 2 } 8 = coordOf 8 5 3 := by decide

/-- 00_scope.md, after R9: handle 0x00012A:0x0000004000. -/
theorem test_handle : hObj 0x00012A0000004000 = 298 ∧ hOff 0x00012A0000004000 = 16384 := by decide

/-- 02_number_formats.md, after R38: a BS8 row of 1,500 elements takes 2 groups, 2,112 bytes. -/
theorem test_bs8_row : Fmt.rowBytes .bs8 1500 = 2112 := by decide

/-- 02_number_formats.md, after R57: FP32 0x3F808000 to BF16 is a tie to even, and inexact. -/
theorem test_tie_to_even : convFloat .bf16 .nearest 0 (decFloat .fp32 0x3F808000) = (0x3F80, { inx := true }) := by decide

/-- The same source rounded stochastically gives 0x3F81 exactly when the word is below 0x80000000 (R49). -/
theorem test_stochastic : convFloat .bf16 .stochastic 0x7FFFFFFF (decFloat .fp32 0x3F808000) = (0x3F81, { inx := true }) ∧
    convFloat .bf16 .stochastic 0x80000000 (decFloat .fp32 0x3F808000) = (0x3F80, { inx := true }) := by decide

/-- 02_number_formats.md: LF32 0x4C700000 saturates in FP32 and in BF16, and no infinity is written. -/
theorem test_lf32_saturates : convFloat .fp32 .nearest 0 (decFloat .lf32 0x4C700000) = (0x7F7FFFFF, { sat := true, inx := true }) ∧
    (convFloat .bf16 .nearest 0 (decFloat .lf32 0x4C700000)).1 = 0x7F7F := by decide

/-- 02_number_formats.md, after R54: the three addends of a staging row with window 20. -/
theorem test_staging_entries : convXa 20 (decFloat .fp32 0x3F000000) = (2 ^ 106, {}) ∧
    convXa 20 (decFloat .fp32 0x09C00000) = (1, { inx := true }) ∧
    convXa 20 (decFloat .fp32 0x08800000) = (0, { flu := true, inx := true }) := by decide

/-- The four values of the BS8 example of 02_number_formats.md. -/
def bs8Example : List (Machine.Num × Nat) :=
  [0x42FF8000, 0x40400000, 0xC0A80000, 0x3F000000].map (fun b => (decFloat .fp32 b, 0)) ++ List.replicate 28 (Machine.Num.fin false 0 0, 0)

/-- 02_number_formats.md: to nearest, the exponent rises once to 0x80. -/
theorem test_block_nearest : (convBlock .bs8 .nearest bs8Example).1 = 0x80 ∧
    (convBlock .bs8 .nearest bs8Example).2.1.take 5 = [64, 2, -3, 0, 0] ∧
    (convBlock .bs8 .nearest bs8Example).2.2.fluN = 1 ∧ (convBlock .bs8 .nearest bs8Example).2.2.satN = 0 := by decide +kernel

/-- 02_number_formats.md: toward zero, the exponent stays 0x7F. -/
theorem test_block_toward_zero : (convBlock .bs8 .zero bs8Example).1 = 0x7F ∧
    (convBlock .bs8 .zero bs8Example).2.1.take 5 = [127, 3, -5, 0, 0] := by decide

/-- 03_ephemeris.md, after R71: the activation and weight blocks of the BF16 example at P = 2. -/
theorem test_slices : (sliceBlock 2 [decFloat .bf16 0x4049, decFloat .bf16 0xBC40]).1 = 122 ∧
    (sliceBlock 2 [decFloat .bf16 0x4049, decFloat .bf16 0xBC40]).2.1 = [[101, -64], [0, -48]] ∧
    (sliceBlock 2 [decFloat .bf16 0x3F40, decFloat .bf16 0x42C8]).2.1 = [[1, -32], [100, 0]] := by decide

/-- 03_ephemeris.md: the value 4,832 × 2^69 in window 46 gives BF16 0x3F97 exactly. -/
theorem test_window_output : windowOf .bf16 (some 2) (some 7) = 46 ∧
    convFloat .bf16 .nearest 0 (xaNum 46 (4832 * 2 ^ 69)) = (0x3F97, {}) := by decide

/-- 09_training_passes.md, after R273: the update 1 − 2^−14 stalls at BF16 1.0 to nearest, and moves stochastically
when the word is at least 0xFC000000. -/
theorem test_stalled_store : (convFloat .bf16 .nearest 0 (Machine.Num.fin false 16383 (-14))).1 = 0x3F80 ∧
    (convFloat .bf16 .stochastic 0xFC000000 (Machine.Num.fin false 16383 (-14))).1 = 0x3F7F ∧
    (convFloat .bf16 .stochastic 0xFBFFFFFF (Machine.Num.fin false 16383 (-14))).1 = 0x3F80 := by decide

/-- 10_memory_and_placement.md, after R315: the home of page 3,906 of object 337 is entry 323. -/
theorem test_home_entry : homeEntry { num := 337 } 3906 = 323 := by decide

/-- 11_hexnov_fabric.md, after R347: the first hops from (13, 9, 3) to (2, 10, 3), and of the response. -/
theorem test_route : nextPort { origin := coordOf 0 8 3, a := 16, b := 4, c := 1 } (coordOf 13 9 3) (coordOf 2 10 3) = some 0 ∧
    nextPort { origin := coordOf 0 8 3, a := 16, b := 4, c := 1 } (coordOf 2 9 3) (coordOf 2 10 3) = some 2 ∧
    nextPort { origin := coordOf 0 8 3, a := 16, b := 4, c := 1 } (coordOf 2 10 3) (coordOf 13 9 3) = some 1 ∧
    coordOf 2 10 3 = 0x3A2 ∧ coordOf 13 9 3 = 0x39D := by decide

/-- The four contributions of the example of 12_gradient_reduction.md, in units of the window's last place. -/
def redExample (a b : Int) : List Int := [a * 2 ^ 105, b * 2 ^ 105] ++ List.replicate 30 0

/-- 12_gradient_reduction.md: the local exponent is 126, and four ranks start at 128. -/
theorem test_reduction_exponents : localExp 20 (redExample 255 (-12)) = 126 ∧ agreedExp 4 126 = 128 := by decide

/-- 12_gradient_reduction.md: rank 0 sends (32, −2), and rank 3 rescales (96, 3) to (64, 2) at 129. -/
theorem test_reduction_steps : (rankStep 128 [] (redExample 255 (-12)) 20).2.1.take 2 = [32, -2] ∧
    (rankStep 128 ([96, 3] ++ List.replicate 30 0) (redExample 252 (-4)) 20).1 = 129 ∧
    (rankStep 128 ([96, 3] ++ List.replicate 30 0) (redExample 252 (-4)) 20).2.1.take 2 = [64, 2] := by decide


/-- A module whose dictionary server runs, before any image. -/
def fresh14 : State := { State.reset with pwr := { (State.reset).pwr with managed := true } }

/-- The request of the example of 14_object_dictionary.md, after R442: DICT_WRITERS = 4, then EPH_PIN = 1, with STOP. -/
def example14 : List Byte :=
  [0x01, 0x01, 0x07, 0x00, 0x02, 0x00, 0x30, 0x00,
   0x02, 0x00, 0x04, 0x00, 0x00, 0x02, 0x00, 0x01, 0, 0, 0, 0, 0, 0, 0, 0, 0x04, 0x00, 0x00, 0x00,
   0x02, 0x00, 0x02, 0x00, 0x00, 0x02, 0x00, 0x22, 0, 0, 0, 0, 0, 0, 0, 0, 0x01, 0x00, 0x00, 0x00]

/-- 14_object_dictionary.md: the response has header 01 81 07 00 02 00 28 00, and its items are OK with ARG 1 and 2. -/
theorem test_dict_example : (serveMessage fresh14 3 1496 example14).2 =
    [0x01, 0x81, 0x07, 0x00, 0x02, 0x00, 0x28, 0x00,
     0x02, 0x00, 0x00, 0x00, 0x00, 0x02, 0x00, 0x01, 0, 0, 0, 0, 0x01, 0, 0, 0,
     0x02, 0x00, 0x00, 0x00, 0x00, 0x02, 0x00, 0x22, 0, 0, 0, 0, 0x02, 0, 0, 0] := by decide +kernel

/-- A write of one byte or four to an entry. -/
def write14 (n key v : Nat) : List Byte :=
  [0x01, 0x00, 0x08, 0x00, 0x01, 0x00] ++ leBytes 2 28 ++ [0x02, 0x00] ++ leBytes 2 n ++ leBytes 4 key ++
    List.replicate 8 0 ++ leBytes 4 v

/-- After the example's first message: the BMC writes PLC_AUTO, the host DICT_WRITERS, the rack controller DICT_WRITERS. -/
def after14 : State :=
  (serveMessage (serveMessage (serveMessage fresh14 3 1496 example14).1 2 4096 (write14 1 0x30000300 0)).1 1 4096
    (write14 4 0x01000200 7)).1

/-- 14_object_dictionary.md: NO_RIGHT twice; DICT_GENERATION stays 2, DICT_REFUSALS is 2, and DICT_LAST_REFUSAL packs the
host's attempt. -/
theorem test_dict_refusals : reg after14 Key.dictGeneration = 2 ∧ reg after14 Key.dictRefusals = 2 ∧
    reg after14 Key.dictLastRefusal = 0x0000020101000200 := by decide +kernel

/-- 14_object_dictionary.md: a second write of DICT_WRITERS by the rack controller gets LOCKED. -/
theorem test_dict_locked : field (serveMessage after14 3 1496 (write14 4 0x01000200 7)).2 9 1 = Rc.locked := by decide +kernel

/-- 15_management_and_trust.md, after R472: measurement 5 of image 2.5.0 with SVN 4 and four steps blown. -/
theorem test_measurement_five : (measurement (setReg (setReg { State.reset with boot := { cells := [(0, 1), (3, 1), (4, 1), (6, 1)] } }
    Key.fwVersion 0x02050000) Key.fwSvn 4) 5).take 9 = [0, 0, 0x05, 0x02, 0x04, 0, 0x04, 0, 0] := by decide +kernel

/-- 06_strands_and_conditional_work.md, after R183: L1 bounds 0.75 and 3.0 are the words 0x77C0 and 0x79C0. -/
theorem test_l1_words : l1Word 0 192 (-8) = 0x77C0 ∧ l1Word 0 192 (-6) = 0x79C0 := by decide

/-- 06_strands_and_conditional_work.md, after R173: expert 0's 354 strands left make spill batches of 256 and 98. -/
theorem test_spill_batches : ((cutBy 256 3 (List.range 354)).map List.length) = [256, 98] := by decide +kernel

/-- R276: a tile of eight elements, two of them set, takes a bitmap of one byte and the two elements; it is coded ZBM. -/
theorem test_zbm_tile : codeTile 4 1 1 (List.replicate 24 0 ++ [1, 2, 3, 4, 5, 6, 7, 8]) = (1, [0xC0, 1, 2, 3, 4, 5, 6, 7, 8]) := by
  decide +kernel

/-- 13_cxl_host_interface.md, after R418: a channel posted by the host with code 7 reads STATUS 0x00070102. -/
theorem test_mailbox_status : mbxStatusWord (setChan State.reset 5 { state := .posted, owner := 1, code := 7 }) 5 = 0x00070102 := by
  decide

/-- 16_errors_and_freeze.md, after R486: units 0x11 and 0x32 pending read as bits 17 and 50. -/
theorem test_error_pending : errPending (setReg (setReg State.reset (Key.errValid + 256 * 0x11) 1) (Key.errValid + 256 * 0x32) 1) =
    0x0004000000020000 := by decide +kernel

/-- The parameters of the example of 09_training_passes.md, after R273. -/
def sgdExample : Upd :=
  { op := 0x0600, ctl := 0, c := .fp32, negEta := .fin true 1 (-4), b1 := .fin false 0 0, c1 := .fin false 1 0
    b2 := .fin false 0 0, c2 := .fin false 1 0, eps := .fin false 0 0, wd := .fin false 0 0, k1 := .fin false 1 0
    k2 := .fin false 1 0, gsh := 10 }

/-- 09_training_passes.md: with B1 = 0, WD = 0 and ETA = 2^−4 the sequence leaves w = 1 − 2^−14 and m1 = 2^−10. -/
theorem test_sgd : (seqSgd sgdExample (.fin false 1 0) (.fin false 1 (-10)) (.fin false 0 0)).w.eqv (.fin false 16383 (-14)) = true ∧
    (seqSgd sgdExample (.fin false 1 0) (.fin false 1 (-10)) (.fin false 0 0)).m1.eqv (.fin false 1 (-10)) = true := by decide +kernel

/-- R33, R35: the integer elements of an operand: U8 and U4 are plain binary, S8 and S4 two's complement. -/
theorem test_integer_elements : mantissa .u8 200 = 200 ∧ mantissa .u4 15 = 15 ∧ mantissa .bu8 255 = 255 ∧ mantissa .s8 200 = -56 ∧
    mantissa .s4 15 = -1 := by decide

end Sys2Proof.Tests
end

/-! Descriptors that fail where a memory address lies outside the map of R294. The statements of the engines' completion
quantify over every state in which the bytes reached lie in frames of this module, and leave the frames' addresses free. Key
0x32001400 is DDR_READ_BYTES of channel 0 (R333); it is also where the model reads the DDR_STATE of a channel 0x400, which R294
does not have. Reading channel 0 until the counter shows 5, the state of a channel that has failed, takes a frame of channel
0x400 out of reach after the checks of the start have passed: the descriptor ends FAULT_POISON (R477, R482). -/

namespace Sys2Proof.Scope
open Sys2Proof Sys2Proof.Machine Sys2Proof.Machine.Claim Sys2Proof.Tests

/-- The channel whose state word is the read counter of channel 0. -/
def ghostChannel : Nat := Key.ddrReadBytes - Key.ddrState

/-- The first frame of a channel, counted in frames of 65,536 bytes (R294). -/
def channelFrame (k : Nat) : Nat := (ddrBase + k * 2 ^ 38) / 65536

/-- A byte object in the first frame of a channel. -/
def channelObj (n k : Nat) : Obj := pageObj n (channelFrame k)

/-- The module one read of `n` bytes of channel 0 before its read counter shows 5. -/
def primed (n : Nat) (s : State) : State := setReg s Key.ddrReadBytes (wrap64 (2 ^ 64 + 5 - n))

/-- The status a command leaves descriptor 0 of queue 0 with. -/
def statusAfter (c : Instr) (s : State) : Option Nat :=
  match exec c s with
  | .next t => (findWork t q0).map (·.status)
  | _ => none

/-- A descriptor with another status than OK has not ended with OK. -/
theorem statusAfter_of_ends {c : Instr} {s t : State} {v : Work} (ht : exec c s = .next t) (hv : findWork t q0 = some v)
    (hst : v.status = 0x0000) : statusAfter c s = some 0x0000 := by
  simp [statusAfter, ht, hv, hst]

/-- A descriptor that ends FAULT_POISON does not finish, whatever it writes. -/
theorem not_finishes {c : Instr} {s s1 : State} {rs : List Span} (h : statusAfter c s = some Status.poison) :
    ¬ ∃ t, exec c s = .next t ∧ Finishes s1 t q0 rs := by
  rintro ⟨t, ht, ⟨v, hv, -, hst⟩, -⟩
  rw [statusAfter_of_ends ht hv hst] at h
  exact absurd h (by decide)

/-! ## COMPACT -/

/-- A COMPACT of one entry in channel 0, whose list of values goes to the ghost channel. -/
def compactGhost : State := primed 8 (arena compactW [channelObj 1 0, channelObj 2 ghostChannel, pageObj 3 3, pageObj 4 4] [])

/-- Its record is refused the write of its first output. -/
theorem compactGhost_poison : statusAfter (.compact q0) compactGhost = some Status.poison := by decide +kernel

/-- Refutes O13: COMPACT reads its 8 bytes of channel 0, which counts them into the state word of the channel that homes its
first output. -/
theorem not_samplersComplete : ¬ Obligations.SamplersComplete := by
  rintro ⟨-, -, hc⟩
  have hs : Still compactGhost := still_of (by decide +kernel)
  have hl : ∀ o ∈ [(compactW.f 24 8, 8 * compactW.f 40 4), (compactW.f 32 8, 4 * compactW.f 40 4), (compactW.f 48 8, 16 * compactW.f 40 4)],
      liesB compactGhost compactW (spanOf o.1 o.2) = true := by decide +kernel
  refine not_finishes compactGhost_poison (hc compactGhost q0 _ compactW (begins_of ?_) hs ?_ ?_ (lies_of hs ?_)
    (fun o ho => lies_of hs (hl o ho)) ?_ ?_) <;> decide +kernel

/-! ## EDGE_DIFF -/

/-- An EDGE_DIFF of one slot whose path object lies in channel 0 and whose cell matrix in the ghost channel. -/
def edgeGhost : State :=
  let path := 65536 * channelFrame 0
  primed 64 (arena (edgeW 0x0402) [channelObj 1 0, pageObj 2 2, pageObj 3 3, channelObj 4 ghostChannel]
    [(path, [2, 0, 1]), (path + 8, [1]), (path + 16, [1])])

theorem edgeGhost_poison : statusAfter (.edgeDiff q0) edgeGhost = some Status.poison := by decide +kernel

/-- Its path object has one slot, of atom 0 with itself. -/
theorem edgeGhost_radius : RadiusOk edgeGhost (edgeW 0x0402) 1 1 := by
  have hs : Still edgeGhost := still_of (by decide +kernel)
  refine ⟨lies_of hs ?_, ?_, ?_, ?_, ?_, ?_⟩ <;> decide +kernel

/-- Refutes O14: EDGE_DIFF reads the 64 bytes of its path header of channel 0, which counts them into the state word of the
channel that homes its cell matrix. -/
theorem not_builderCompletes : ¬ Obligations.BuilderCompletes := by
  rintro ⟨-, -, hd⟩
  have hs : Still edgeGhost := still_of (by decide +kernel)
  refine not_finishes edgeGhost_poison (hd edgeGhost q0 _ (edgeW 0x0402) (begins_of ?_) hs 1 1 edgeGhost_radius ?_ (lies_of hs ?_)
    (lies_of hs ?_) (fun _ => lies_of hs ?_) ?_ ?_ (fun _ => ?_) (apart_of hs ?_)) <;> decide +kernel

/-! ## GATHER -/

/-- A GATHER of a row in the ghost channel by an index in channel 0. -/
def gatherGhost : State :=
  primed 4 (arena gatherW [rowObj 1 (channelFrame ghostChannel), channelObj 2 0, pageObj 3 3] [(65536 * channelFrame 0, [1])])

theorem gatherGhost_poison : statusAfter (.gather q0) gatherGhost = some Status.poison := by decide +kernel

/-- Refutes O15: GATHER reads its index, 4 bytes of channel 0, which counts them into the state word of the channel that homes
its source. -/
theorem not_gatherScatterCompletes : ¬ Obligations.GatherScatterCompletes := by
  rintro ⟨hg, -⟩
  have hs : Still gatherGhost := still_of (by decide +kernel)
  refine not_finishes gatherGhost_poison (hg gatherGhost q0 _ gatherW (begins_of ?_) hs ?_ ?_ ?_ ?_ ?_ ?_ (lies_of hs ?_) (lies_of hs ?_)
    ?_ ?_ ?_ (apart_of hs ?_) (fun h => absurd h ?_) (entries_of (y := 1) ?_ ⟨?_, ?_, here_all hs ?_⟩)) <;> decide +kernel

/-! ## PRD_BIND -/

/-- A PRD_BIND of one weight in channel 0, whose L1 word goes to the ghost channel. -/
def bindGhost : State := primed 1 (arena bindW [channelObj 1 0, pageObj 2 2, channelObj 3 ghostChannel] [])

theorem bindGhost_poison : statusAfter (.prdBind q0) bindGhost = some Status.poison := by decide +kernel

/-- Refutes O17: PRD_BIND reads its weight, one byte of channel 0, which counts it into the state word of the channel that homes
its L1 words. -/
theorem not_updatesComplete : ¬ Obligations.UpdatesComplete := by
  rintro ⟨-, hb⟩
  have hs : Still bindGhost := still_of (by decide +kernel)
  refine not_finishes bindGhost_poison ((hb bindGhost q0 _ bindW .s8 (begins_of ?_) hs ?_ ?_ ?_ ?_ ?_ ?_ ?_ ?_ ?_ ?_ ?_ ?_
    (fun h => absurd h ?_) (lies_of hs ?_) ?_ (lies_of hs ?_)).imp (fun _ h => ⟨h.1, h.2.1⟩)) <;> decide +kernel

/-! ## CKPT_EXPORT -/

/-- A CKPT_EXPORT whose list lies in channel 0 and whose object in the ghost channel. -/
def exportGhost : State :=
  primed 4 (withRegs (arena exportW [channelObj 1 0, { fpObj 2 0 with pages := (channelObj 2 ghostChannel).pages }]
    [(65536 * channelFrame 0, [2])]) [(Key.ckptSize, 4096), (Key.cxlLinkState, 2)])

theorem exportGhost_poison : statusAfter (.ckptExport q0) exportGhost = some Status.poison := by decide +kernel

/-- Its list names object 2. -/
theorem exportGhost_list : (List.range (exportW.f 32 4)).map (fun i => numAt exportGhost (exportW.f 16 8) (4 * i) 4) = [2] := by
  decide +kernel

/-- Refutes O18: CKPT_EXPORT reads its list, 4 bytes of channel 0, which counts them into the state word of the channel that
homes the object listed. -/
theorem not_savesComplete : ¬ Obligations.SavesComplete := by
  rintro ⟨-, -, he, -⟩
  have hs : Still exportGhost := still_of (by decide +kernel)
  obtain ⟨t, v, ht, hv, -, hst, -⟩ := he exportGhost q0 _ exportW (begins_of (by decide +kernel)) hs (by decide) (by decide) (by decide)
    (by decide +kernel) (lies_of hs (by decide +kernel))
    (by rw [exportGhost_list]; intro k hk; obtain rfl := List.mem_singleton.mp hk
        exact ⟨by decide +kernel, by decide +kernel, here_all hs (by decide +kernel), fun h => absurd h (by decide +kernel)⟩)
    (by decide +kernel) (by decide +kernel)
  have h := statusAfter_of_ends ht hv hst
  rw [exportGhost_poison] at h
  exact absurd h (by decide)

end Sys2Proof.Scope

/-! The state after reset (R3, R426): which queues are enabled, and the values the dictionary shows. -/

namespace Sys2Proof.Scope
open Sys2Proof Sys2Proof.Machine Sys2Proof.Machine.Claim

/-- No dictionary entry is written: every register reads its power-up value. -/
theorem reg_reset (k : Nat) : reg State.reset k = powerUp k := rfl

/-- A row of the power-up table of value 1 is one key, or one key in 256, of another last byte than QUEUE_ENABLE. -/
def avoidsEnable (r : Nat × Nat × Nat × Nat) : Prop :=
  r.2.2.2 = 1 → r.1 % 256 ≠ 4 ∧ (r.2.1 = 256 ∨ r.2.1 = 1 ∧ r.2.2.1 = 1)

theorem powerUpRows_avoid : ∀ r ∈ powerUpRows, avoidsEnable r := by
  simp only [avoidsEnable]
  decide

/-- An entry whose key ends in the byte of QUEUE_ENABLE does not power up as 1. -/
theorem powerUp_ne_one {k : Nat} (hk : k % 256 = 4) : powerUp k ≠ 1 := by
  unfold powerUp
  rw [if_neg (by omega), if_neg (by omega)]
  split
  case h_1 r hr =>
    intro h1
    obtain ⟨hn, hs⟩ := powerUpRows_avoid r (List.mem_of_find?_eq_some hr) h1
    have hm := List.find?_some hr
    simp only [Bool.and_eq_true, decide_eq_true_eq] at hm
    obtain ⟨hle, hlt, hmod⟩ := hm
    rcases hs with hs | ⟨hs, hc⟩
    · rw [hs] at hmod
      omega
    · rw [hs, hc] at hlt
      omega
  case h_2 => decide

/-- No queue is enabled (R184). -/
theorem enabled_reset (q : Nat) : enabled State.reset q = false := by
  have hk : (Key.queueEnable + 256 * q) % 256 = 4 := by unfold Key.queueEnable; omega
  exact decide_eq_false (powerUp_ne_one hk)

/-- Settles O58, clause by clause: an unlisted entry, byte, object or channel is as the model has it unlisted. -/
theorem afterReset : Obligations.AfterReset := by
  refine ⟨reg_reset, ⟨rfl, rfl, rfl⟩, rfl, rfl, fun _ => rfl, fun _ => rfl, enabled_reset, fun _ => rfl, ?_⟩
  decide +kernel

end Sys2Proof.Scope

/-! The snake order of a partition box (R8): lines run to and fro along x, layers to and fro along y. -/

namespace Sys2Proof.Scope
open Sys2Proof Sys2Proof.Machine Sys2Proof.Machine.Claim

/-! ## Coordinate words -/

@[simp] theorem cx_coordOf (x y z : Nat) : cx (coordOf x y z) = x % 16 := by unfold cx coordOf bits; omega
@[simp] theorem cy_coordOf (x y z : Nat) : cy (coordOf x y z) = y % 16 := by unfold cy coordOf bits; omega
@[simp] theorem cz_coordOf (x y z : Nat) : cz (coordOf x y z) = z % 16 := by unfold cz coordOf bits; omega

theorem coordOf_lt (x y z : Nat) : coordOf x y z < 4096 := by unfold coordOf; omega

theorem cx_lt (c : Nat) : cx c < 16 := Nat.mod_lt _ (by decide)
theorem cy_lt (c : Nat) : cy c < 16 := Nat.mod_lt _ (by decide)
theorem cz_lt (c : Nat) : cz c < 16 := Nat.mod_lt _ (by decide)

/-- The local index of a coordinate that lies `i` past the origin. -/
theorem localIx_offset {o i : Nat} (ho : o < 16) (hi : i < 16) : localIx o ((o + i) % 16) = i := by unfold localIx; omega

/-- Coordinates count modulo 16 in each dimension. -/
theorem coordOf_congr {x y z x' y' z' : Nat} (hx : x % 16 = x' % 16) (hy : y % 16 = y' % 16) (hz : z % 16 = z' % 16) :
    coordOf x y z = coordOf x' y' z' := by
  unfold coordOf
  rw [hx, hy, hz]

/-! ## A line run to and fro -/

/-- Place `i` on line `r` of `n` modules, of which every other is run backward. -/
def turned (n r i : Nat) : Nat := if r % 2 = 0 then i else n - 1 - i

theorem turned_lt {n i : Nat} (r : Nat) (h : i < n) : turned n r i < n := by unfold turned; split <;> omega

theorem turned_turned {n i : Nat} (r : Nat) (h : i < n) : turned n r (turned n r i) = i := by
  unfold turned
  split <;> omega

/-- The next place on a line is the next one up or down. -/
theorem turned_succ {n i : Nat} (r : Nat) (h : i + 1 < n) :
    turned n r (i + 1) = turned n r i + 1 ∨ turned n r (i + 1) + 1 = turned n r i := by
  unfold turned
  split
  · exact .inl rfl
  · right
    omega

/-- The next line begins where this one ends. -/
theorem turned_next (n r : Nat) : turned n (r + 1) 0 = turned n r (n - 1) := by
  unfold turned
  split <;> split <;> omega

/-- Counting on within a line of `n`, or to the next. -/
theorem divMod_succ {n : Nat} (k : Nat) (hn : 1 ≤ n) :
    (k % n + 1 < n ∧ (k + 1) / n = k / n ∧ (k + 1) % n = k % n + 1) ∨
    (k % n = n - 1 ∧ (k + 1) / n = k / n + 1 ∧ (k + 1) % n = 0) := by
  have hk := Nat.mod_add_div k n
  have hlt := Nat.mod_lt k hn
  by_cases h : k % n + 1 < n
  · exact .inl ⟨h, (Nat.div_mod_unique hn).mpr ⟨by omega, h⟩⟩
  · refine .inr ⟨by omega, (Nat.div_mod_unique hn).mpr ⟨?_, hn⟩⟩
    rw [Nat.mul_add]
    omega

/-! ## Ranks -/

/-- R8 by turned lines: `k` counts along x, its lines along y, its layers along z. -/
theorem rankCoord_eq (bx : Box) (k : Nat) : rankCoord bx k = coordOf (cx bx.origin + turned bx.a (k / bx.a) (k % bx.a))
    (cy bx.origin + turned bx.b (k / bx.a / bx.b) (k / bx.a % bx.b)) (cz bx.origin + k / bx.a / bx.b) := rfl

/-- The rank of a coordinate by its local indices. -/
theorem coordRank_eq {bx : Box} {c x y z : Nat} (hx : localIx (cx bx.origin) (cx c) = x) (hy : localIx (cy bx.origin) (cy c) = y)
    (hz : localIx (cz bx.origin) (cz c) = z) : coordRank bx c =
      if x < bx.a ∧ y < bx.b ∧ z < bx.c then
        some ((z * bx.b + turned bx.b z y) * bx.a + turned bx.a (z * bx.b + turned bx.b z y) x) else none := by
  subst hx hy hz
  rfl

/-- A rank of the box lies in one of its layers. -/
theorem layer_lt {a b c k : Nat} (h : k < a * b * c) : k / a / b < c := by
  rw [Nat.div_div_eq_div_mul]
  exact Nat.div_lt_of_lt_mul h

/-- The rank of a coordinate is read off its local indices as it was laid. -/
theorem coordRank_rankCoord {bx : Box} {k : Nat} (ha : 1 ≤ bx.a ∧ bx.a ≤ 16) (hb : 1 ≤ bx.b ∧ bx.b ≤ 16) (hc : bx.c ≤ 16)
    (hk : k < bx.a * bx.b * bx.c) : coordRank bx (rankCoord bx k) = some k := by
  have hx := turned_lt (k / bx.a) (Nat.mod_lt k ha.1)
  have hy := turned_lt (k / bx.a / bx.b) (Nat.mod_lt (k / bx.a) hb.1)
  have hz := layer_lt hk
  have hxi : turned bx.a (k / bx.a) (turned bx.a (k / bx.a) (k % bx.a)) = k % bx.a := turned_turned _ (Nat.mod_lt k ha.1)
  have hyi : turned bx.b (k / bx.a / bx.b) (turned bx.b (k / bx.a / bx.b) (k / bx.a % bx.b)) = k / bx.a % bx.b :=
    turned_turned _ (Nat.mod_lt _ hb.1)
  have hrow : k / bx.a / bx.b * bx.b + k / bx.a % bx.b = k / bx.a := Nat.div_add_mod' _ _
  rw [coordRank_eq (x := turned bx.a (k / bx.a) (k % bx.a)) (y := turned bx.b (k / bx.a / bx.b) (k / bx.a % bx.b))
    (z := k / bx.a / bx.b), if_pos ⟨hx, hy, hz⟩, hyi, hrow, hxi, Nat.div_add_mod']
  · simpa [rankCoord_eq] using localIx_offset (cx_lt _) (hx.trans_le ha.2)
  · simpa [rankCoord_eq] using localIx_offset (cy_lt _) (hy.trans_le hb.2)
  · simpa [rankCoord_eq] using localIx_offset (cz_lt _) (hz.trans_le hc)

/-- One more in one dimension is the neighbour through that dimension's first port, one less through its second. -/
theorem port_of_step {x y z x' y' z' : Nat}
    (h : (x' = x + 1 ∨ x' + 1 = x) ∧ y' = y ∧ z' = z ∨ x' = x ∧ (y' = y + 1 ∨ y' + 1 = y) ∧ z' = z ∨
      x' = x ∧ y' = y ∧ z' = z + 1) : ∃ p, p < 6 ∧ portPeer (coordOf x y z) p = coordOf x' y' z' := by
  rcases h with ⟨h | h, rfl, rfl⟩ | ⟨rfl, h | h, rfl⟩ | ⟨rfl, rfl, h⟩
  · exact ⟨0, by decide, coordOf_congr (by simp; omega) (by simp) (by simp)⟩
  · exact ⟨1, by decide, coordOf_congr (by simp; omega) (by simp) (by simp)⟩
  · exact ⟨2, by decide, coordOf_congr (by simp) (by simp; omega) (by simp)⟩
  · exact ⟨3, by decide, coordOf_congr (by simp) (by simp; omega) (by simp)⟩
  · exact ⟨4, by decide, coordOf_congr (by simp) (by simp) (by simp; omega)⟩

/-- Consecutive ranks are neighbours: on a line, from a line to the next, from a layer to the next. -/
theorem portPeer_rankCoord {bx : Box} (k : Nat) (ha : 1 ≤ bx.a) (hb : 1 ≤ bx.b) :
    ∃ p, p < 6 ∧ portPeer (rankCoord bx k) p = rankCoord bx (k + 1) := by
  rw [rankCoord_eq, rankCoord_eq]
  apply port_of_step
  obtain ⟨hx, hq, hr⟩ | ⟨hx, hq, hr⟩ := divMod_succ k ha
  · rw [hq, hr]
    have := turned_succ (k / bx.a) hx
    exact .inl ⟨by omega, rfl, rfl⟩
  · rw [hq, hr, turned_next, ← hx]
    obtain ⟨hy, hq', hr'⟩ | ⟨hy, hq', hr'⟩ := divMod_succ (k / bx.a) hb
    · rw [hq', hr']
      have := turned_succ (k / bx.a / bx.b) hy
      exact .inr (.inl ⟨rfl, by omega, rfl⟩)
    · rw [hq', hr', turned_next, ← hy]
      exact .inr (.inr ⟨rfl, rfl, rfl⟩)

/-- Settles O29: coordinates by R8, coordinate and rank from each other, neighbours, and the worked example. -/
theorem snakeRanks : Obligations.SnakeRanks := by
  intro bx ha ha' hb hb' hc hc'
  refine ⟨fun k _ => ⟨?_, ?_, ?_, ?_⟩, fun k hk => coordRank_rankCoord ⟨ha, ha'⟩ ⟨hb, hb'⟩ hc' hk,
    fun k _ => portPeer_rankCoord k ha hb, ?_⟩
  · exact cx_coordOf _ _ _
  · exact cy_coordOf _ _ _
  · exact cz_coordOf _ _ _
  · exact coordOf_lt _ _ _
  · rintro rfl
    decide

end Sys2Proof.Scope

/-! The Almanac while the module comes apart: of everything an error does (R479 to R486), only its record is entered in the
Almanac. One lemma for each operation on the way. -/

namespace Sys2Proof.Scope
open Sys2Proof Sys2Proof.Machine Sys2Proof.Machine.Claim

/-- A run of steps that each leave the Almanac leaves it. -/
theorem foldl_alm {α : Type} {f : State → α → State} (h : ∀ s x, (f s x).alm = s.alm) (xs : List α) (s : State) :
    (xs.foldl f s).alm = s.alm := by
  induction xs generalizing s with
  | nil => rfl
  | cons x xs ih => rw [List.foldl_cons, ih, h]

/-- Either way the Almanac is as it was. -/
theorem ite_alm {c : Prop} [Decidable c] {a b s : State} (ha : a.alm = s.alm) (hb : b.alm = s.alm) :
    (if c then a else b).alm = s.alm := by split <;> assumption

/-! ## What is sent -/

@[simp] theorem sendAll_alm (s : State) (os : List Out) : (sendAll s os).alm = s.alm := rfl
@[simp] theorem postTxn_alm (s : State) (k : TxKind) (i : Option WRef) (n off : Nat) (p : Pkt) :
    (postTxn s k i n off p).alm = s.alm := rfl
@[simp] theorem postPlace_alm (s : State) (k : TxKind) (c n u : Nat) (b : List Byte) : (postPlace s k c n u b).alm = s.alm := rfl

@[simp] theorem sendWords_alm (s : State) (p : Nat) : (sendWords s p).alm = s.alm := by
  simp [sendWords, apply_ite State.alm]

@[simp] theorem widened_alm (s : State) (p : Nat) : (widened s p).alm = s.alm := by
  simp [widened, apply_ite State.alm]

@[simp] theorem putFlit_alm (s : State) (p : Nat) (f : List Byte) : (putFlit s p f).alm = s.alm := by
  simp [putFlit, apply_ite State.alm]

@[simp] theorem sendIdle_alm (s : State) (p : Nat) (nak : Bool) : (sendIdle s p nak).alm = s.alm := by
  simp [sendIdle, apply_ite State.alm]

@[simp] theorem sendFlits_alm (p n : Nat) (s : State) : (sendFlits p n s).alm = s.alm := by
  induction n generalizing s with
  | zero => rfl
  | succ n ih => simp [sendFlits, apply_ite State.alm, ih]

@[simp] theorem grantPort_alm (s : State) (p : Nat) : (grantPort s p).alm = s.alm := by
  simp [grantPort, apply_ite State.alm]

@[simp] theorem transmit_alm (s : State) (p : Nat) : (transmit s p).alm = s.alm := by
  simp [transmit, apply_ite State.alm]

@[simp] theorem enqueue_alm (s : State) (p : Nat) (k : Pkt) : (enqueue s p k).alm = s.alm := by
  simp [enqueue, apply_ite State.alm]

@[simp] theorem emitPkt_alm (s : State) (k : Pkt) : (emitPkt s k).alm = s.alm := by
  unfold emitPkt
  split <;> simp

@[simp] theorem postCtrl_alm (s : State) (p : Pkt) : (postCtrl s p).alm = s.alm := by
  unfold postCtrl
  split
  · rfl
  · exact emitPkt_alm s _

@[simp] theorem redCtrl_alm (s : State) (d k : Nat) (b : List Byte) : (redCtrl s d k b).alm = s.alm := postCtrl_alm s _

@[simp] theorem sendCtrl_alm (s : State) (p k : Nat) : (sendCtrl s p k).alm = s.alm := by
  simp [sendCtrl, apply_ite State.alm]

@[simp] theorem markSent_alm (s : State) (p : Pkt) : (markSent s p).alm = s.alm := by
  simp [markSent, apply_ite State.alm]

@[simp] theorem toInbox_alm (s : State) (p : Pkt) : (toInbox s p).alm = s.alm := rfl

@[simp] theorem releaseCtrl_alm (s : State) : (releaseCtrl s).alm = s.alm := foldl_alm postCtrl_alm _ _

@[simp] theorem pumpAddends_alm (s : State) : (pumpAddends s).alm = s.alm := by
  unfold pumpAddends
  refine foldl_alm (fun t i => ?_) _ _
  split
  · split <;> rfl
  · rfl

@[simp] theorem pumpWin_alm (held n : Nat) (w : SrcWin) (s : State) : (pumpWin held n w s).1.alm = s.alm := by
  induction n generalizing w s with
  | zero => rfl
  | succ n ih =>
    unfold pumpWin
    split
    · rfl
    · split
      · split
        · simp [ih]
        · rfl
      · split
        · rw [ih]
          split <;> rfl
        · split
          · simp [ih]
          · rfl

@[simp] theorem pumpAll_alm (done ws : List SrcWin) (s : State) : (pumpAll done ws s).1.alm = s.alm := by
  induction ws generalizing done s with
  | nil => rfl
  | cons w ws ih => simp [pumpAll, ih]

@[simp] theorem pump_alm (s : State) : (pump s).alm = s.alm := by simp [pump]

@[simp] theorem notifyFln_alm (s : State) (e c code seq : Nat) : (notifyFln s e c code seq).alm = s.alm := by
  unfold notifyFln
  split
  · dsimp only
    split
    · rfl
    · split <;> rfl
  · rfl

@[simp] theorem alert_alm (s : State) (seq : Nat) : (alert s seq).alm = s.alm := by simp [alert]

/-! ## What a write of a completion ring does -/

@[simp] theorem countBytes_alm (s : State) (wr : Bool) (a n : Nat) : (countBytes s wr a n).alm = s.alm := by
  simp [countBytes, apply_ite State.alm]

@[simp] theorem countRange_alm (s : State) (wr : Bool) (o : Obj) (off len : Nat) : (countRange s wr o off len).alm = s.alm := by
  refine foldl_alm (fun t p => ?_) _ _
  split <;> simp

@[simp] theorem sampleAccess_alm (s : State) (o : Obj) (off a d c : Nat) : (sampleAccess s o off a d c).alm = s.alm := by
  simp [sampleAccess, apply_ite State.alm]

@[simp] theorem sampleRange_alm (s : State) (o : Obj) (off len : Nat) : (sampleRange s o off len).alm = s.alm := by
  refine foldl_alm (fun t p => ?_) _ _
  split <;> simp

@[simp] theorem markDirty_alm (s : State) (n off : Nat) : (markDirty s n off).alm = s.alm := rfl

@[simp] theorem snoopRange_alm (s : State) (n off len : Nat) (inv : Bool) : (snoopRange s n off len inv).alm = s.alm := by
  have h (t : State) (l : List HostLine) (f : HostLine → Out) : (l.foldl (fun s l => send s (f l)) t).alm = t.alm :=
    foldl_alm (fun s x => send_alm s (f x)) _ _
  simp [snoopRange, apply_ite State.alm, h]

@[simp] theorem askHost_alm (s : State) (n off len : Nat) : (askHost s n off len).alm = s.alm := by
  simp [askHost, apply_ite State.alm]

@[simp] theorem tellRead_alm (s : State) (o : Obj) (off len : Nat) : (tellRead s o off len).alm = s.alm := by simp [tellRead]

@[simp] theorem clearCovered_alm (s : State) (n off len : Nat) : (clearCovered s n off len).alm = s.alm := by
  simp [clearCovered, apply_ite State.alm]

@[simp] theorem refreshCopies_alm (s : State) (o : Obj) (row : Nat) : (refreshCopies s o row).alm = s.alm := by
  unfold refreshCopies
  dsimp only
  split
  · split
    · rfl
    · exact foldl_alm (fun s (e : DirEntry) => writePhys_alm s e.addr _) _ _
  · rfl

@[simp] theorem setMState_alm (s : State) (o : Obj) (row : Nat) (st : MState) : (setMState s o row st).alm = s.alm := rfl

@[simp] theorem sendSnapshot_alm (s : State) (m : Migration) : (sendSnapshot s m).alm = s.alm := by
  simp [sendSnapshot, apply_ite State.alm]

@[simp] theorem abortMigration_alm (s : State) (m : Migration) : (abortMigration s m).alm = s.alm := by
  simp [abortMigration, apply_ite State.alm]

@[simp] theorem restartMigration_alm (s : State) (o : Obj) (row : Nat) : (restartMigration s o row).alm = s.alm := by
  unfold restartMigration
  split
  · rfl
  · dsimp only
    split <;> simp

@[simp] theorem stampObj_alm (s : State) (n : Nat) : (stampObj s n).alm = s.alm := by
  simp [stampObj, apply_ite State.alm]

@[simp] theorem afterWrite_alm (s : State) (n off len : Nat) : (afterWrite s n off len).alm = s.alm := by
  unfold afterWrite
  rw [stampObj_alm]
  split
  · rfl
  · exact foldl_alm (fun _ _ => by simp) _ _

@[simp] theorem writeLocal_alm (s : State) (o : Obj) (off : Nat) (bs : List Byte) : (writeLocal s o off bs).alm = s.alm := by
  unfold writeLocal
  simp only [afterWrite_alm, clearCovered_alm, sampleRange_alm]
  refine foldl_alm (fun t p => ?_) _ _
  split <;> simp

@[simp] theorem putHost_alm (s : State) (a : Nat) (bs : List Byte) : (putHost s a bs).alm = s.alm := rfl

@[simp] theorem ringWrite_alm (s : State) (apt : Bool) (base a : Nat) (bs : List Byte) : (ringWrite s apt base a bs).alm = s.alm := by
  simp [ringWrite, apply_ite State.alm]

/-! ## Descriptors that end -/

@[simp] theorem raiseMsix_alm (s : State) (v : Nat) : (raiseMsix s v).alm = s.alm := by
  simp [raiseMsix, apply_ite State.alm]

@[simp] theorem notify_alm (s : State) (q t : Nat) : (notify s q t).alm = s.alm := by
  have h (x : Queue) (a : Nat) (bs : List Byte) :
      (if reg (setQueue s q x) (Key.queueCpiAddr + 256 * q) = 0 then setQueue s q x
        else ringWrite (setQueue s q x) x.cpiApt x.hdmBase a bs).alm = s.alm := ite_alm rfl (ringWrite_alm _ _ _ _ _)
  exact ite_alm (ite_alm (h _ _ _) ((raiseMsix_alm _ _).trans (h _ _ _))) (h _ _ _)

@[simp] theorem writeRecord_alm (s : State) (q : Nat) (w : Work) (t : Nat) : (writeRecord s q w t).alm = s.alm := by
  simp [writeRecord, apply_ite State.alm]

@[simp] theorem completeQ_alm (s : State) (q n : Nat) (w : Work) (t : Nat) : (completeQ s q n w t).alm = s.alm := by
  simp [completeQ, apply_ite State.alm]


@[simp] theorem countCycles_alm (s : State) (w : Work) : (countCycles s w).alm = s.alm := by
  refine ite_alm (foldl_alm (fun _ _ => ?_) _ _) rfl
  rfl

@[simp] theorem countStatus_alm (s : State) (w : Work) : (countStatus s w).alm = s.alm := by
  simp [countStatus, apply_ite State.alm]

@[simp] theorem countRed_alm (s : State) (w : Work) : (countRed s w).alm = s.alm := ite_alm rfl rfl

@[simp] theorem leaveAll_alm (s : State) (r : WRef) : (leaveAll s r).alm = s.alm := ite_alm rfl (leaveLines_alm _ _ _)

@[simp] theorem dropRef_alm (s : State) (w : Work) : (dropRef s w).alm = s.alm := by
  refine foldl_alm (fun _ _ => ite_alm ?_ rfl) _ _
  rfl

/-! ## Launches and strands -/

@[simp] theorem endLaunch_alm (s : State) (k : LKey) : (endLaunch s k).alm = s.alm := by
  unfold endLaunch
  split
  · rfl
  · refine ite_alm ?_ rfl
    split <;> rfl

@[simp] theorem creditLaunch_alm (s : State) (k : LKey) (n st : Nat) (acc : Acc) (sp : Nat) :
    (creditLaunch s k n st acc sp).alm = s.alm := by
  unfold creditLaunch
  split
  · rfl
  · simp only [endLaunch_alm, pump_alm]
    have h (t : State) (l : Launch) (es : List (Nat × Nat)) : (es.foldl (fun s e => postChain s l e.1 []) t).alm = t.alm :=
      foldl_alm (fun s e => postTxn_alm s _ _ _ _ _) _ _
    simp [apply_ite State.alm, h]

@[simp] theorem report_alm (s : State) (k : LKey) (n st : Nat) (acc : Acc) (sp : Nat) : (report s k n st acc sp).alm = s.alm := by
  unfold report
  refine ite_alm (creditLaunch_alm _ _ _ _ _ _) ?_
  dsimp only
  split <;> simp [failHere]

@[simp] theorem pumpForward_alm (t n : Nat) (s : State) : (pumpForward t n s).alm = s.alm := by
  induction n generalizing s with
  | zero => rfl
  | succ n ih =>
    unfold pumpForward
    split
    · rfl
    · rw [ih]
      exact ite_alm rfl (report_alm _ _ _ _ _ _)

@[simp] theorem freeLists_alm (s : State) (id : Nat) : (freeLists s id).alm = s.alm := by
  unfold freeLists
  dsimp only
  rw [foldl_alm (fun _ _ => ite_alm rfl ?_)]
  rfl

@[simp] theorem retireBatch_alm (s : State) (w : Work) (b : BatchTag) (t : Nat) : (retireBatch s w b t).alm = s.alm :=
  ite_alm (report_alm _ _ _ _ _ _) (report_alm _ _ _ _ _ _)

@[simp] theorem completeWork_alm (s : State) (w : Work) (t : Nat) : (completeWork s w t).alm = s.alm := by
  unfold completeWork
  dsimp only
  rw [markReady_alm]
  split <;> simp

/-! ## Fatal handling, freeze, containment -/

@[simp] theorem abortQueue_alm (s : State) (q : Nat) : (abortQueue s q).alm = s.alm := by
  refine foldl_alm (fun _ _ => ite_alm (completeWork_alm _ _ _) ?_) _ _
  rfl

@[simp] theorem abortAll_alm (s : State) : (abortAll s).alm = s.alm := foldl_alm abortQueue_alm _ _

@[simp] theorem endCtx_alm (s : State) (c : RedCtx) (st : Nat) : (endCtx s c st).alm = s.alm := by
  unfold endCtx
  dsimp only
  split <;> rfl

@[simp] theorem failCtx_alm (s : State) (c : RedCtx) (st : Nat) (f : Option Nat) : (failCtx s c st f).alm = s.alm := by
  rw [failCtx, endCtx_alm]
  exact foldl_alm (fun _ _ => redCtrl_alm _ _ _ _) _ _

@[simp] theorem releaseHolds_alm (s : State) (w : Work) : (releaseHolds s w).alm = s.alm := by
  refine foldl_alm (fun _ _ => ?_) _ _
  rfl

@[simp] theorem haltWork_alm (s : State) (p : Work → Bool) (st : Nat) : (haltWork s p st).alm = s.alm := by
  refine foldl_alm (fun t w => ite_alm ?_ ?_) _ _
  · split <;> simp
  · split <;> simp

@[simp] theorem clearTiles_alm (s : State) (ts : List Nat) : (clearTiles s ts).alm = s.alm := rfl

@[simp] theorem startFatal_alm (s : State) : (startFatal s).alm = s.alm := by
  unfold startFatal
  dsimp only
  rw [foldl_alm (fun s q => setReg_alm s _ _)]
  simp

@[simp] theorem enterFreeze_alm (s : State) (cause port : Nat) : (enterFreeze s cause port).alm = s.alm :=
  foldl_alm (fun _ _ => sendCtrl_alm _ _ _) _ (dropWatch s)

@[simp] theorem freeze_alm (s : State) (cause port : Nat) : (freeze s cause port).alm = s.alm :=
  ite_alm rfl (ite_alm rfl (enterFreeze_alm _ _ _))

@[simp] theorem isolatePort_alm (s : State) (p : Nat) : (isolatePort s p).alm = s.alm := by
  simp [isolatePort, apply_ite State.alm]

@[simp] theorem isolatePorts_alm (s : State) : (isolatePorts s).alm = s.alm := foldl_alm isolatePort_alm _ _

/-- Accesses the host waits for are answered with poison once the module is contained (R491). -/
theorem serveHeld_alm_of_contained {s : State} (h : reg s Key.frzState = 4) : (serveHeld s).alm = s.alm := by
  unfold serveHeld
  rw [h]
  refine ite_alm rfl (foldl_alm (fun t x => ?_) _ _)
  unfold poisonAccess
  split <;> rfl

theorem frozenUnlessRunning_alm {t s : State} (ht : t.alm = s.alm) :
    (if reg t Key.frzState = 0 then enterFreeze t 5 7 else t).alm = s.alm :=
  ite_alm ((enterFreeze_alm _ _ _).trans ht) ht

@[simp] theorem contain_alm (s : State) (seq : Nat) : (contain s seq).alm = s.alm := by
  unfold contain
  dsimp only
  rw [alert_alm, serveHeld_alm_of_contained (reg_setReg_same _ _ _), setReg_alm]
  generalize ht : isolatePorts _ = t
  have h : t.alm = s.alm := by
    rw [← ht, isolatePorts_alm]
    rfl
  split
  · exact (setReg_alm _ _ _).trans (frozenUnlessRunning_alm h)
  · exact frozenUnlessRunning_alm h

@[simp] theorem placeRecord_alm (s : State) (e : ErrIn) (sev : Nat) (f : Bool → Nat) : (placeRecord s e sev f).alm = s.alm := by
  simp [placeRecord, apply_ite State.alm]

/-- An entry takes the next sequence number (R456). -/
theorem almFull_next (s : State) (origin unit kind st step tag : Nat) (d : List Byte) :
    (almFull s origin unit kind st step tag d).alm.next = (s.alm.next + 1) % 2 ^ 32 := by
  unfold almFull
  dsimp only
  split <;> rfl

/-- A FATAL error of the module's own (R477), whatever it brings down, makes one entry. -/
theorem recordError_fatal_next {e : ErrIn} (s : State) (hs : severity e.code = 3) (hu : e.unit < 57) (hc : e.code ≠ 0x0304) :
    (recordError e s).alm.next = (s.alm.next + 1) % 2 ^ 32 := by
  rw [← almFull_next s e.master (almUnit e.unit) 0x0060 e.status e.step e.tag
    (leBytes 1 e.unit ++ leBytes 1 (severity e.code) ++ leBytes 2 e.code ++ leBytes 8 e.addr ++ leBytes 1 e.subunit ++ leBytes 3 0 ++
      leBytes 4 e.syndrome)]
  congr 1
  unfold recordError
  simp only [hs]
  simp [hu, hc, apply_ite State.alm]

end Sys2Proof.Scope

/-! The steps of a power-up (R3, R498, R499, R512 to R514), one lemma for each clause of `PowerUp`. -/

namespace Sys2Proof.Scope
open Sys2Proof Sys2Proof.Machine Sys2Proof.Machine.Claim

/-! ## What sensors, entries and alerts leave -/

theorem sleepSensors_frame (s : State) :
    (sleepSensors s).pwr = s.pwr ∧ (sleepSensors s).mem = s.mem ∧ (sleepSensors s).alm = s.alm := by
  unfold sleepSensors
  generalize (List.range 0x28).filter (fun ss => !sensorOn s ss) = sensors
  induction sensors generalizing s with
  | nil => exact ⟨rfl, rfl, rfl⟩
  | cons ss rest ih => exact ih _

/-- An entry of the Almanac counts at most the one it overwrites (R456). -/
theorem alm_regsKept (s : State) (unit kind : Nat) (data : List Byte) : RegsKept s (alm s unit kind data) [Key.almOverwritten] := by
  intro k hk
  have hk : k ≠ Key.almOverwritten := by simpa using hk
  unfold alm almFull
  dsimp only
  split
  · exact (reg_bump _ _ _ _).trans (if_neg hk)
  · rfl

theorem alm_memKept (s : State) (unit kind : Nat) (data : List Byte) : MemKept s (alm s unit kind data) := by
  unfold alm almFull
  dsimp only
  split <;> exact ⟨rfl, rfl, rfl⟩

theorem alm_frame (s : State) (unit kind : Nat) (data : List Byte) :
    (alm s unit kind data).time = s.time ∧ (alm s unit kind data).pwr = s.pwr ∧ (alm s unit kind data).boot = s.boot := by
  unfold alm almFull
  dsimp only
  split <;> exact ⟨rfl, rfl, rfl⟩

theorem notifyFln_frame (s : State) (event chan code seq : Nat) :
    (notifyFln s event chan code seq).dict = s.dict ∧ (notifyFln s event chan code seq).pwr = s.pwr ∧
      MemKept s (notifyFln s event chan code seq) := by
  unfold notifyFln
  split
  · dsimp only
    split
    · exact ⟨rfl, rfl, rfl, rfl, rfl⟩
    · split <;> exact ⟨rfl, rfl, rfl, rfl, rfl⟩
  · exact ⟨rfl, rfl, rfl, rfl, rfl⟩

theorem alert_dict (s : State) (seq : Nat) : (alert s seq).dict = s.dict := (notifyFln_frame _ _ _ _ _).1

theorem alert_memKept (s : State) (seq : Nat) : MemKept s (alert s seq) := (notifyFln_frame _ _ _ _ _).2.2

theorem alert_alertEnd (s : State) (seq : Nat) : (alert s seq).pwr.alertEnd = max s.pwr.alertEnd (s.time + 100000) := by
  unfold alert
  rw [(notifyFln_frame _ _ _ _ _).2.1]

/-- The reference is the internal one, or good or not at the lock as a free value says (R513). -/
theorem lockReference_spec (s : State) :
    (reg s Key.clkRefSelect = 0 → reg (lockReference s) Key.clkRefState = 0) ∧
    (reg s Key.clkRefSelect ≠ 0 → reg (lockReference s) Key.clkRefState = 1 ∨ reg (lockReference s) Key.clkRefState = 2) ∧
    RegsKept s (lockReference s) [Key.clkRefState, Key.almOverwritten] ∧ MemKept s (lockReference s) := by
  unfold lockReference
  split
  case isTrue internal =>
    refine ⟨fun _ => reg_setReg_same _ _ _, fun h => absurd internal h, fun k hk => ?_, rfl, rfl, rfl⟩
    exact reg_setReg_ne _ _ (by simp at hk; exact hk.1)
  case isFalse ext =>
    refine ⟨fun h => absurd h ext, fun _ => ?_, ?_⟩
    · dsimp only
      split
      · exact .inl (reg_setReg_same _ _ _)
      · exact .inr (reg_setReg_same _ _ _)
    · dsimp only
      split
      · refine ⟨fun k hk => ?_, rfl, rfl, rfl⟩
        exact reg_setReg_ne _ _ (by simp at hk; exact hk.1)
      · refine ⟨fun k hk => ?_, alm_memKept _ _ _ _⟩
        simp only [List.mem_cons, List.not_mem_nil, or_false, not_or] at hk
        rw [reg_setReg_ne _ _ hk.1, alm_regsKept _ _ _ _ k (by simpa using hk.2)]
        rfl

theorem lockReference_frame (s : State) : (lockReference s).pwr = s.pwr ∧ (lockReference s).boot = s.boot := by
  unfold lockReference
  dsimp only
  split
  · exact ⟨rfl, rfl⟩
  · split
    · exact ⟨rfl, rfl⟩
    · exact (alm_frame _ _ _ _).2

/-! ## The clauses -/

theorem coldPowerUp_closes (s : State) (t : Nat) (hc : s.pwr.closed = false) (ht : s.pwr.tripped = false) :
    exec (.coldPowerUp t) s = .next { atTime s t with pwr := { s.pwr with closed := true } } :=
  congrArg Host.Outcome.next (if_pos ⟨hc, ht⟩)

/-- The module with its management domain up: its node ID and MAC follow its slot (R437). -/
def managementUp (s : State) : State :=
  setReg (setReg (setReg (setReg { s with pwr := { s.pwr with managed := true } } Key.idSlot (Config.slotId % 64))
    Key.flnNodeId (Config.slotId % 64 + 1)) Key.flnMac (0x525402 + Config.slotId % 64 * 2 ^ 40)) Key.bootState 0

theorem exec_managementReady {s : State} (t : Nat) (hc : s.pwr.closed = true) (hm : s.pwr.managed = false) :
    exec (.managementReady t) s = .next (managementUp (atTime s t)) :=
  congrArg Host.Outcome.next (if_pos ⟨hc, hm⟩)

theorem managementReady_comes_up (s : State) (t : Nat) (hc : s.pwr.closed = true) (hm : s.pwr.managed = false) :
    ∃ u, exec (.managementReady t) s = .next u ∧ u.pwr = { s.pwr with managed := true } ∧
      reg u Key.idSlot = Config.slotId % 64 ∧ reg u Key.flnNodeId = Config.slotId % 64 + 1 ∧
      reg u Key.flnMac = 0x525402 + Config.slotId % 64 * 2 ^ 40 ∧ reg u Key.bootState = 0 ∧
      RegsKept s u [Key.idSlot, Key.flnNodeId, Key.flnMac, Key.bootState] ∧
      { u with dict := s.dict, pwr := s.pwr, time := s.time } = s := by
  refine ⟨_, exec_managementReady t hc hm, rfl, ?_, ?_, ?_, reg_setReg_same _ _ _, fun k hk => ?_, rfl⟩
  · rw [managementUp, reg_setReg_ne _ _ (by decide), reg_setReg_ne _ _ (by decide), reg_setReg_ne _ _ (by decide), reg_setReg_same]
  · rw [managementUp, reg_setReg_ne _ _ (by decide), reg_setReg_ne _ _ (by decide), reg_setReg_same]
  · rw [managementUp, reg_setReg_ne _ _ (by decide), reg_setReg_same]
  · simp only [List.mem_cons, List.not_mem_nil, or_false, not_or] at hk
    obtain ⟨hslot, hnode, hmac, hboot⟩ := hk
    rw [managementUp, reg_setReg_ne _ _ hboot, reg_setReg_ne _ _ hmac, reg_setReg_ne _ _ hnode, reg_setReg_ne _ _ hslot]
    rfl

theorem railsUp_raises_row (s : State) (t : Nat) (hr : s.pwr.raising = true) (hrows : s.pwr.rows < railRows) (hd : s.pwr.down = []) :
    exec (.railsUp t) s = .next { atTime s t with pwr := { s.pwr with
      rows := s.pwr.rows + 1, rowAt := max s.time t, raising := decide (s.pwr.rows + 1 < railRows) } } := by
  have up : railsUp s = false := by
    have : s.pwr.rows ≠ railRows := by omega
    simp [railsUp, this]
  have raising : (!(s.pwr.rows + 1 == railRows && List.isEmpty ([] : List Nat))) = decide (s.pwr.rows + 1 < railRows) := by
    rw [Bool.eq_iff_iff]
    simp
    omega
  refine (congrArg Host.Outcome.next (if_pos ⟨hr, up⟩)).trans ?_
  simp [hd, railsUp, ← raising]

theorem railsUp_raises_down (s : State) (t r : Nat) (rest : List Nat) (hr : s.pwr.raising = true) (hd : s.pwr.down = r :: rest) :
    exec (.railsUp t) s = .next { atTime s t with pwr := { s.pwr with
      down := rest, rowAt := max s.time t, raising := !(s.pwr.rows == railRows && rest.isEmpty) } } := by
  have up : railsUp s = false := by simp [railsUp, hd]
  refine (congrArg Host.Outcome.next (if_pos ⟨hr, up⟩)).trans ?_
  simp [hd, railsUp]

theorem railTimeout_drops_domains (s : State) (t : Nat) (hr : s.pwr.raising = true) (hl : s.pwr.rowAt + 5000000 ≤ max s.time t) :
    ∃ u, exec (.railTimeout t) s = .next u ∧ u.pwr.rows = 0 ∧ u.pwr.raising = false ∧ u.mem = {} ∧
      reg u Key.clkPllLocked = 0 ∧ u.alm.next = (s.alm.next + 1) % 2 ^ 32 := by
  refine ⟨_, congrArg Host.Outcome.next (if_pos ⟨hr, hl⟩), ?_, ?_, ?_, reg_setReg_same _ _ _, ?_⟩
  · exact congrArg Power.rows (sleepSensors_frame _).1
  · exact congrArg Power.raising (sleepSensors_frame _).1
  · exact (sleepSensors_frame _).2.1
  · exact (congrArg Almanac.next (sleepSensors_frame _).2.2).trans (recordError_fatal_next _ rfl (by decide) (by decide))

/-- The host link follows PERST_N once the root PLL has locked (R394, step 8 of the cold power-up). -/
def linkAwake (s : State) : State :=
  if s.pwr.perstN ∧ reg s Key.cxlLinkState = 0 then setReg s Key.cxlLinkState 1 else s

theorem linkAwake_spec (s : State) :
    (s.pwr.perstN = true → reg s Key.cxlLinkState = 0 → reg (linkAwake s) Key.cxlLinkState = 1) ∧
    RegsKept s (linkAwake s) [Key.cxlLinkState] ∧ (linkAwake s).boot = s.boot ∧ MemKept s (linkAwake s) := by
  unfold linkAwake
  split
  · refine ⟨fun _ _ => reg_setReg_same _ _ _, fun k hk => reg_setReg_ne _ _ (by simpa using hk), rfl, rfl, rfl, rfl⟩
  case isFalse h => exact ⟨fun hp hr => absurd ⟨hp, hr⟩ h, fun _ _ => rfl, rfl, rfl, rfl, rfl⟩

/-- Step 9 of the cold power-up waits for an image without limit: with none in hand nothing boots when the clocks lock. -/
theorem exec_rootPllLock {s : State} (t : Nat) (hl : reg s Key.clkPllLocked = 0) (hrows : 2 ≤ s.pwr.rows)
    (hp : reg s Key.pwrState = 0xFF) (hi : s.boot.hasImage = false) :
    exec (.rootPllLock t) s = .next (linkAwake (lockReference (setReg (atTime s t) Key.clkPllLocked 1))) := by
  refine (congrArg Host.Outcome.next (if_pos ⟨hl, hrows, .inl hp⟩)).trans (congrArg Host.Outcome.next (if_neg ?_))
  rintro ⟨-, image, -⟩
  have boot := (linkAwake_spec (lockReference (setReg (atTime s t) Key.clkPllLocked 1))).2.2.1.trans (lockReference_frame _).2
  exact absurd ((congrArg Boot.hasImage boot).symm.trans image) (by simp [hi])

theorem rootPllLock_locks (s : State) (t : Nat) (hl : reg s Key.clkPllLocked = 0) (hrows : 2 ≤ s.pwr.rows)
    (hp : reg s Key.pwrState = 0xFF) (hi : s.boot.hasImage = false) :
    ∃ u, exec (.rootPllLock t) s = .next u ∧ reg u Key.clkPllLocked = 1 ∧
      (reg s Key.clkRefSelect = 0 → reg u Key.clkRefState = 0) ∧
      (reg s Key.clkRefSelect ≠ 0 → reg u Key.clkRefState = 1 ∨ reg u Key.clkRefState = 2) ∧
      (s.pwr.perstN = true → reg s Key.cxlLinkState = 0 → reg u Key.cxlLinkState = 1) ∧ MemKept s u := by
  refine ⟨_, exec_rootPllLock t hl hrows hp hi, ?_⟩
  have hsel : reg (setReg (atTime s t) Key.clkPllLocked 1) Key.clkRefSelect = reg s Key.clkRefSelect := reg_setReg_ne _ _ (by decide)
  have hlink : reg (setReg (atTime s t) Key.clkPllLocked 1) Key.cxlLinkState = reg s Key.cxlLinkState := reg_setReg_ne _ _ (by decide)
  obtain ⟨internal, external, regs, mem, host, poison⟩ := lockReference_spec (setReg (atTime s t) Key.clkPllLocked 1)
  obtain ⟨pwr, -⟩ := lockReference_frame (setReg (atTime s t) Key.clkPllLocked 1)
  obtain ⟨wakes, regs', -, mem', host', poison'⟩ := linkAwake_spec (lockReference (setReg (atTime s t) Key.clkPllLocked 1))
  refine ⟨?_, fun h => ?_, fun h => ?_, fun hperst hl0 => ?_, mem'.trans mem, host'.trans host, poison'.trans poison⟩
  · rw [regs' _ (by decide), regs _ (by decide), reg_setReg_same]
  · rw [regs' _ (by decide), internal (hsel.trans h)]
  · rw [regs' _ (by decide)]
    exact external (hsel ▸ h)
  · exact wakes (pwr ▸ hperst) (by rw [regs _ (by decide), hlink, hl0])

theorem referenceLoss_recorded (s : State) (t : Nat) (hs : reg s Key.clkRefState = 1) :
    ∃ u, exec (.referenceLoss t) s = .next u ∧ reg u Key.clkRefState = 2 ∧ u.alm.next = (s.alm.next + 1) % 2 ^ 32 ∧
      max s.time t + 100000 ≤ u.pwr.alertEnd ∧ RegsKept s u [Key.clkRefState, Key.almOverwritten] ∧ MemKept s u := by
  refine ⟨_, congrArg Host.Outcome.next (if_pos hs), ?_, ?_, ?_, fun k hk => ?_, ?_⟩
  · exact (congrArg (Tab.get _ · _) (alert_dict _ _)).trans (reg_setReg_same _ _ _)
  · exact (congrArg Almanac.next (alert_alm _ _)).trans (almFull_next _ _ _ _ _ _ _ _)
  · rw [alert_alertEnd]
    have time := (alm_frame (drawFree (atTime s t)).2 0x7A ((drawFree (atTime s t)).1 % 65536) []).1
    exact le_max_of_le_right (Nat.add_le_add_right time.ge _)
  · simp only [List.mem_cons, List.not_mem_nil, or_false, not_or] at hk
    refine ((congrArg (Tab.get _ · _) (alert_dict _ _)).trans (reg_setReg_ne _ _ hk.1)).trans ?_
    exact alm_regsKept _ _ _ _ k (by simpa using hk.2)
  · obtain ⟨mem, host, poison⟩ := alm_memKept (drawFree (atTime s t)).2 0x7A ((drawFree (atTime s t)).1 % 65536) []
    obtain ⟨mem', host', poison'⟩ := alert_memKept (setReg (alm (drawFree (atTime s t)).2 0x7A
      ((drawFree (atTime s t)).1 % 65536) []) Key.clkRefState 2) (drawFree (atTime s t)).2.alm.next
    exact ⟨mem'.trans mem, host'.trans host, poison'.trans poison⟩

/-! ## The input switch -/

theorem powerLoss_spec (s : State) (t : Nat) (tripped : Bool) :
    (powerLoss (atTime s t) tripped).boot = { cells := s.boot.cells, revoked := s.boot.revoked } ∧
      (powerLoss (atTime s t) tripped).pwr = { tripped := tripped } ∧ (powerLoss (atTime s t) tripped).host = s.host ∧
      (powerLoss (atTime s t) tripped).out = s.out ∧ (powerLoss (atTime s t) tripped).pending = s.pending ∧
      (∀ k, reg (powerLoss (atTime s t) tripped) k = reg State.reset k) ∧
      (powerLoss (atTime s t) tripped).mem = {} ∧ (powerLoss (atTime s t) tripped).objs = [] ∧
      { powerLoss (atTime s t) tripped with
        boot := {}, pwr := {}, host := [], hostPoison := [], out := [], pending := [], fresh := 0 } = State.reset :=
  ⟨rfl, rfl, rfl, rfl, rfl, fun _ => rfl, rfl, rfl, rfl⟩

/-- Each of the three commands that open a closed switch is a loss of power (R498). -/
theorem exec_of_opening {s : State} {c : Nat → Instr} {tripped : Bool}
    (h : c = .undervoltage ∧ tripped = false ∨ c = .overvoltage ∧ tripped = false ∨ c = .overcurrentTrip ∧ tripped = true)
    (t : Nat) (hc : s.pwr.closed = true) : exec (c t) s = .next (powerLoss (atTime s t) tripped) := by
  obtain ⟨rfl, rfl⟩ | ⟨rfl, rfl⟩ | ⟨rfl, rfl⟩ := h
  · exact congrArg Host.Outcome.next (if_pos hc)
  · exact congrArg Host.Outcome.next (if_pos hc)
  · exact congrArg Host.Outcome.next (if_pos hc)

theorem switchRelease_releases (s : State) (t : Nat) (ht : s.pwr.tripped = true) (h0 : s.pwr.lowAt ≠ 0)
    (hl : s.pwr.lowAt + 10000000 ≤ max s.time t) :
    exec (.switchRelease t) s = .next { atTime s t with pwr := { s.pwr with tripped := false } } :=
  congrArg Host.Outcome.next (if_pos ⟨ht, h0, hl⟩)

theorem coldPowerUp_of_tripped (s : State) (t : Nat) (ht : s.pwr.tripped = true) : exec (.coldPowerUp t) s = .next s :=
  congrArg Host.Outcome.next (if_neg (by simp [ht]))

theorem undervoltage_clears_trip (s : State) (t : Nat) (hc : s.pwr.closed = false) (ht : s.pwr.tripped = true) :
    exec (.undervoltage t) s = .next { atTime s t with pwr := { s.pwr with tripped := false, lowAt := 0 } } :=
  congrArg Host.Outcome.next ((if_neg (by simp [hc])).trans (if_pos ht))

theorem pwrEnLow_of_tripped (s : State) (t : Nat) (hm : s.pwr.managed = false) (ht : s.pwr.tripped = true) :
    exec (.pwrEnLow t) s = .next (if s.pwr.lowAt = 0 then { atTime s t with pwr := { s.pwr with lowAt := max 1 (max s.time t) } }
      else atTime s t) := by
  refine congrArg Host.Outcome.next ?_
  simp [hm, ht]

theorem pwrEnHigh_of_tripped (s : State) (t : Nat) (hm : s.pwr.managed = false) (ht : s.pwr.tripped = true) :
    exec (.pwrEnHigh t) s = .next { atTime s t with pwr := { s.pwr with lowAt := 0 } } := by
  refine congrArg Host.Outcome.next ?_
  simp [hm, ht]

/-- Settles O52, a clause at a time. -/
theorem powerUp : Obligations.PowerUp := by
  unfold Obligations.PowerUp
  refine ⟨⟨coldPowerUp_closes, managementReady_comes_up, railsUp_raises_row, railsUp_raises_down, railTimeout_drops_domains,
    rootPllLock_locks, referenceLoss_recorded⟩, ?_, switchRelease_releases, ?_, ?_⟩
  · intro s c tripped h t hc
    exact ⟨_, exec_of_opening h t hc, powerLoss_spec s t tripped⟩
  · intro s t hc ht
    exact ⟨coldPowerUp_of_tripped s t ht, undervoltage_clears_trip s t hc ht⟩
  · intro s t hm ht
    exact ⟨pwrEnLow_of_tripped s t hm ht, pwrEnHigh_of_tripped s t hm ht⟩

end Sys2Proof.Scope

/-! A FAB_MSG that fails for the reason the engines above do: its source straddles two pages, and counting the part in channel 0
takes the channel that homes the rest out of reach. -/

namespace Sys2Proof.Scope
open Sys2Proof Sys2Proof.Machine Sys2Proof.Machine.Claim Sys2Proof.Tests

/-- A byte object of two pages: the first in channel 0, the second in the ghost channel. -/
def straddlingObj : Obj :=
  { num := 1, fmt := 4, rows := 131072,
    pages := [{ page := 0, home := .frame (65536 * channelFrame 0) }, { page := 1, home := .frame (65536 * channelFrame ghostChannel) }] }

/-- A FAB_MSG to this module of two bytes of object 1: the last of its first page and the first of its second. -/
def straddlingW : Work := work 0x0881 [(16, 8, 2 ^ 40 + 65535), (32, 4, 2), (38, 1, 63)] .running

def messageGhost : State := primed 1 (arena straddlingW [straddlingObj] [])

theorem messageGhost_poison : statusAfter (.fabMsg q0 9) messageGhost = some Status.poison := by decide +kernel

/-- Before the first byte is counted, each byte of the source lies in the frame of its page. -/
theorem messageGhost_here : ∀ d, d < 2 → ∃ a, locate (atTime messageGhost 9) (objOf (atTime messageGhost 9) 1) (65535 + d) = .here a
  | 0, _ => ⟨65536 * channelFrame 0 + 65535, by decide +kernel⟩
  | 1, _ => ⟨65536 * channelFrame ghostChannel, by decide +kernel⟩

theorem messageGhost_reach : InReach (atTime messageGhost 9) straddlingW (straddlingW.f 16 8) (straddlingW.f 32 4) := by
  have hspan : spanOf (straddlingW.f 16 8) (straddlingW.f 32 4) = (1, 65535, 2) := by decide +kernel
  unfold InReach
  rw [hspan]
  exact ⟨by decide +kernel, by decide +kernel, by decide, by decide +kernel, fun h => absurd h (by decide +kernel), messageGhost_here⟩

/-- Refutes O33: FAB_MSG reads its first byte of channel 0, which counts it into the state word of the channel that homes its
second byte. -/
theorem not_fabricCompletes : ¬ Obligations.FabricCompletes := by
  rintro ⟨⟨-, -, hm⟩, -⟩
  have hs : Still (atTime messageGhost 9) := still_of (by decide +kernel)
  obtain ⟨t, v, -, ht, hv, -, hst, -⟩ := hm messageGhost q0 _ straddlingW 9 (begins_of (by decide +kernel)) hs (by decide +kernel)
    (by decide +kernel) (by decide +kernel) messageGhost_reach (.inl (by decide +kernel))
  have h := statusAfter_of_ends ht hv hst
  rw [messageGhost_poison] at h
  exact absurd h (by decide)

end Sys2Proof.Scope

/-! Conversion to an integer format (R48, R50, R53, R55). A finite `v × 2^k` is read as one exact fraction: `scaled v k` over
`scale k`. Rounding, range and exactness are then comparisons of integers, with no case on the sign of the exponent. -/

namespace Sys2Proof.Scope
open Sys2Proof Sys2Proof.Machine Sys2Proof.Machine.Claim

/-! ## A scaled value as a fraction -/

/-- The numerator of `v × 2^k` over `scale k`. -/
def scaled (v k : Int) : Int := v * 2 ^ k.toNat

/-- The denominator of `v × 2^k`: 1 where the exponent is not negative. -/
def scale (k : Int) : Int := 2 ^ (-k).toNat

theorem scale_pos (k : Int) : 0 < scale k := by
  unfold scale
  positivity

theorem scale_of_nonneg {k : Int} (h : 0 ≤ k) : scale k = 1 := by
  simp [scale, Int.toNat_of_nonpos (Int.neg_nonpos_of_nonneg h)]

theorem scaled_of_neg {k : Int} (h : ¬ 0 ≤ k) (v : Int) : scaled v k = v := by
  simp [scaled, Int.toNat_of_nonpos (show k ≤ 0 by omega)]

theorem scaled_eq_zero {v k : Int} : scaled v k = 0 ↔ v = 0 := by
  simp [scaled]

theorem pow2_cast (k : Int) : (pow2 k : Int) = 2 ^ k.toNat := by
  simp [pow2]

theorem mul_pow2 (v k : Int) : v * (pow2 k : Int) = scaled v k := by
  rw [pow2_cast, scaled]

theorem pow2_neg (k : Int) : (pow2 (-k) : Int) = scale k := by
  rw [pow2_cast, scale]

theorem scaledLt_eq (v k n : Int) : scaledLt v k n = decide (scaled v k < n * scale k) := by
  unfold scaledLt
  split
  case isTrue h => simp only [mul_pow2, scale_of_nonneg h, mul_one]
  case isFalse h => simp only [pow2_neg, scaled_of_neg h]

theorem scaledGt_eq (v k n : Int) : scaledGt v k n = decide (n * scale k < scaled v k) := by
  unfold scaledGt
  split
  case isTrue h => simp only [mul_pow2, scale_of_nonneg h, mul_one]
  case isFalse h => simp only [pow2_neg, scaled_of_neg h]

theorem scaledExact_eq (v k : Int) : scaledExact v k = decide (scale k ∣ scaled v k) := by
  unfold scaledExact
  split
  case isTrue h => simp [scale_of_nonneg h]
  case isFalse h => simp only [pow2_neg, scaled_of_neg h, Int.dvd_iff_emod_eq_zero]

/-! ## What a rounded integer is -/

/-- `z` is the fraction `x / d` rounded once: a neighbour of it, the one the mode asks for (R48). -/
structure RoundsTo (md : RMode) (x d z : Int) : Prop where
  close : (z * d - x).natAbs < d.natAbs
  nearest : md = .nearest → 2 * (z * d - x).natAbs ≤ d.natAbs ∧ (2 * (z * d - x).natAbs = d.natAbs → z % 2 = 0)
  zero : md = .zero → (z * d).natAbs ≤ x.natAbs ∧ 0 ≤ z * x

section
variable {md : RMode} {x d z q n : Int}

theorem RoundsTo.of_eq (hd : 0 < d) (h : z * d = x) : RoundsTo md x d z where
  close := by omega
  nearest _ := by omega
  zero _ := by
    subst h
    exact ⟨le_rfl, by rw [← mul_assoc]; exact mul_nonneg (mul_self_nonneg z) hd.le⟩

/-- The integer below `x / d`, where the mode takes it. -/
theorem RoundsTo.floor (hd : 0 < d) (hn : md = .nearest → 2 * (x % d) ≤ d ∧ (2 * (x % d) = d → (x / d) % 2 = 0))
    (hz : md = .zero → 0 ≤ x) :
    RoundsTo md x d (x / d) := by
  have hx := Int.ediv_mul_add_emod x d
  have hr := Int.emod_nonneg x hd.ne'
  have hlt := Int.emod_lt_of_pos x hd
  refine ⟨by omega, fun hm => ?_, fun hm => ?_⟩
  · have := hn hm
    omega
  · have hq := Int.ediv_nonneg (hz hm) hd.le
    have := mul_nonneg hq hd.le
    exact ⟨by omega, mul_nonneg hq (hz hm)⟩

/-- The integer above `x / d`, where the mode takes it. -/
theorem RoundsTo.ceil (hd : 0 < d) (h0 : x % d ≠ 0)
    (hn : md = .nearest → d ≤ 2 * (x % d) ∧ (2 * (x % d) = d → (x / d + 1) % 2 = 0)) (hz : md = .zero → x < 0) :
    RoundsTo md x d (x / d + 1) := by
  have hx := Int.ediv_mul_add_emod x d
  have hr := Int.emod_nonneg x hd.ne'
  have hlt := Int.emod_lt_of_pos x hd
  have hs := add_one_mul (x / d) d
  refine ⟨by omega, fun hm => ?_, fun hm => ?_⟩
  · have := hn hm
    omega
  · have hq : x / d + 1 ≤ 0 := Int.ediv_neg_of_neg_of_pos (hz hm) hd
    have := mul_nonpos_of_nonpos_of_nonneg hq hd.le
    exact ⟨by omega, mul_nonneg_of_nonpos_of_nonpos hq (hz hm).le⟩

/-- A rounded value stays above an integer its fraction does not pass below. -/
theorem RoundsTo.le (h : RoundsTo md x d z) (hd : 0 < d) (hn : n * d ≤ x) : n ≤ z := by
  have := h.close
  have hs := add_one_mul z d
  exact Int.lt_add_one_iff.1 (lt_of_mul_lt_mul_right (by omega : n * d < (z + 1) * d) hd.le)

/-- A rounded value stays below an integer its fraction does not pass above. -/
theorem RoundsTo.ge (h : RoundsTo md x d z) (hd : 0 < d) (hn : x ≤ n * d) : z ≤ n := by
  have := h.close
  have hs := add_one_mul n d
  exact Int.lt_add_one_iff.1 (lt_of_mul_lt_mul_right (by omega : z * d < (n + 1) * d) hd.le)

/-- Rounding is exact just where the fraction is an integer. -/
theorem RoundsTo.exact_iff (h : RoundsTo md x d z) (hd : 0 < d) : z * d = x ↔ d ∣ x := by
  refine ⟨fun e => ⟨z, by rw [← e, mul_comm]⟩, fun ⟨q, e⟩ => ?_⟩
  rw [mul_comm] at e
  rw [e, le_antisymm (h.ge hd e.le) (h.le hd e.ge)]

end

/-- Each mode rounds `v × 2^k` to a neighbour, the one R48 asks for. -/
theorem roundScaled_roundsTo (md : RMode) (r : Nat) (v k : Int) :
    RoundsTo md (scaled v k) (scale k) (roundScaled md r v k) := by
  have hd := scale_pos k
  unfold roundScaled
  simp only [mul_pow2, pow2_neg]
  split
  case isTrue h => exact .of_eq hd (by rw [scale_of_nonneg h, mul_one])
  case isFalse h =>
    rw [scaled_of_neg h]
    split
    case isTrue h0 => exact .of_eq hd (Int.ediv_mul_cancel (Int.dvd_of_emod_eq_zero h0))
    case isFalse h0 =>
      cases md with
      | nearest =>
        dsimp only
        split_ifs with hlt hgt heven
        · exact .floor hd (fun _ => by omega) nofun
        · exact .ceil hd h0 (fun _ => by omega) nofun
        · exact .floor hd (fun _ => by omega) nofun
        · exact .ceil hd h0 (fun _ => by omega) nofun
      | zero =>
        dsimp only
        split_ifs with hv
        · exact .floor hd nofun (fun _ => hv)
        · exact .ceil hd h0 nofun (fun _ => by omega)
      | stochastic =>
        dsimp only
        split_ifs
        · exact .ceil hd h0 nofun nofun
        · exact .floor hd nofun nofun

/-! ## The three outcomes of a finite value (R50) -/

section
variable {lo hi v k : Int} (md : RMode) (r : Nat)

theorem finToInt_below (h : scaled v k < lo * scale k) :
    finToInt md r lo hi v k = (lo, { sat := true, inx := true }) := by
  rw [finToInt, scaledLt_eq, if_pos (decide_eq_true h)]

theorem finToInt_above (hl : lo * scale k ≤ scaled v k) (h : hi * scale k < scaled v k) :
    finToInt md r lo hi v k = (hi, { sat := true, inx := true }) := by
  simp only [finToInt, scaledLt_eq, scaledGt_eq, decide_eq_true_eq, if_neg hl.not_gt, if_pos h]

/-- Inside the range a finite value is rounded once, and the flags of R55 compare the result with it. -/
theorem finToInt_inside (hl : lo * scale k ≤ scaled v k) (hh : scaled v k ≤ hi * scale k) :
    finToInt md r lo hi v k = (roundScaled md r v k,
      { flu := decide (roundScaled md r v k = 0 ∧ scaled v k ≠ 0),
        inx := decide (roundScaled md r v k * scale k ≠ scaled v k) }) := by
  have hx := (roundScaled_roundsTo md r v k).exact_iff (scale_pos k)
  simp only [finToInt, scaledLt_eq, scaledGt_eq, scaledExact_eq, decide_eq_true_eq, if_neg hl.not_gt, if_neg hh.not_gt,
    ne_eq, scaled_eq_zero, hx, decide_not]

theorem finToInt_mem (h : lo ≤ hi) : lo ≤ (finToInt md r lo hi v k).1 ∧ (finToInt md r lo hi v k).1 ≤ hi := by
  rcases lt_or_ge (scaled v k) (lo * scale k) with hb | hl
  · rw [finToInt_below md r hb]
    exact ⟨le_rfl, h⟩
  rcases lt_or_ge (hi * scale k) (scaled v k) with ha | hh
  · rw [finToInt_above md r hl ha]
    exact ⟨h, le_rfl⟩
  have hz := roundScaled_roundsTo md r v k
  rw [finToInt_inside md r hl hh]
  exact ⟨hz.le (scale_pos k) hl, hz.ge (scale_pos k) hh⟩

end

theorem convInt_fin {f : Fmt} {lo hi : Int} (hf : intRange f = (lo, hi)) (md : RMode) (r : Nat) (n : Bool) (m : Nat) (e : Int) :
    convInt f md r (.fin n m e) = finToInt md r lo hi (sgn n m) e := by
  simp only [convInt, convRange, hf]

/-- Settles O60: NaN and the infinities by the table of R53, a finite value by its place below, above or inside the range. -/
theorem integerConversion : Obligations.IntegerConversion := by
  intro f lo hi hf
  refine ⟨fun _ _ => rfl, fun _ _ n => by simp only [convInt, convRange, hf], fun md r n m e => ?_⟩
  simp only [convInt_fin hf]
  refine ⟨finToInt_mem md r, finToInt_below md r, finToInt_above md r, fun hl hh => ?_⟩
  have hz := roundScaled_roundsTo md r (sgn n m) e
  rw [finToInt_inside (v := sgn n m) md r hl hh]
  exact ⟨hz.nearest, fun hm => ⟨(hz.zero hm).1, hz.close, (hz.zero hm).2⟩, rfl⟩

end Sys2Proof.Scope

/-! Gradient reduction (R368 to R386): a REDUCE from the issue decision to its context, the packets of the chain, and how a
context ends. -/

namespace Sys2Proof.Scope
open Sys2Proof Sys2Proof.Machine Sys2Proof.Machine.Claim

/-! ## What sending a control packet can change -/

/-- The module without its registers, its fabric and what it sent. -/
def offFabric (s : State) : State := { s with dict := [], fab := {}, out := [] }

section
variable {s t : State} (h : offFabric t = offFabric s)
include h

theorem red_of_offFabric : t.red = s.red := (congrArg State.red h :)
theorem mem_of_offFabric : t.mem = s.mem := (congrArg State.mem h :)
theorem work_of_offFabric : t.work = s.work := (congrArg State.work h :)

end

@[simp] theorem bump_offFabric (s : State) (k n : Nat) : offFabric (bump s k n) = offFabric s := rfl
@[simp] theorem setReg_offFabric (s : State) (k v : Nat) : offFabric (setReg s k v) = offFabric s := rfl
@[simp] theorem setPort_offFabric (s : State) (p : Nat) (x : Port) : offFabric (setPort s p x) = offFabric s := rfl
@[simp] theorem send_offFabric (s : State) (o : Out) : offFabric (send s o) = offFabric s := rfl

@[simp] theorem sendWords_offFabric (s : State) (p : Nat) : offFabric (sendWords s p) = offFabric s := by
  simp [sendWords, apply_ite offFabric]

@[simp] theorem widened_offFabric (s : State) (p : Nat) : offFabric (widened s p) = offFabric s := by
  simp [widened, apply_ite offFabric]

@[simp] theorem putFlit_offFabric (s : State) (p : Nat) (f : List Byte) : offFabric (putFlit s p f) = offFabric s := by
  simp [putFlit, apply_ite offFabric]

@[simp] theorem sendFlits_offFabric (p n : Nat) (s : State) : offFabric (sendFlits p n s) = offFabric s := by
  induction n generalizing s with
  | zero => rfl
  | succ n ih => simp [sendFlits, apply_ite offFabric, ih]

@[simp] theorem grantPort_offFabric (s : State) (p : Nat) : offFabric (grantPort s p) = offFabric s := by
  simp [grantPort, apply_ite offFabric]

@[simp] theorem transmit_offFabric (s : State) (p : Nat) : offFabric (transmit s p) = offFabric s := by
  simp [transmit, apply_ite offFabric]

@[simp] theorem enqueue_offFabric (s : State) (p : Nat) (k : Pkt) : offFabric (enqueue s p k) = offFabric s := by
  simp [enqueue, apply_ite offFabric]

@[simp] theorem emitPkt_offFabric (s : State) (k : Pkt) : offFabric (emitPkt s k) = offFabric s := by
  unfold emitPkt
  split <;> simp

@[simp] theorem redCtrl_offFabric (s : State) (dst kind : Nat) (body : List Byte) :
    offFabric (redCtrl s dst kind body) = offFabric s := by
  unfold redCtrl postCtrl
  split
  · rfl
  · exact emitPkt_offFabric s _

theorem redCtrl_each_offFabric (kind : Nat) (body : List Byte) (ds : List Nat) (s : State) :
    offFabric (ds.foldl (fun s d => redCtrl s d kind body) s) = offFabric s := by
  induction ds generalizing s with
  | nil => rfl
  | cons d ds ih => rw [List.foldl_cons, ih, redCtrl_offFabric]

/-! ## A context that ends (R371, R379, R381) -/

theorem endCtx_of_found {s : State} {c : RedCtx} {w : Work} (st : Nat) (h : findWork s c.work = some w) :
    endCtx s c st = setWork { s with red := { s.red with ctxs := s.red.ctxs.filter (fun x => x.redid != c.redid) } }
      { w with phase := .done, status := st, acc := c.acc, events := c.events } := by
  have h' (x : RedEngine) : findWork { s with red := x } c.work = some w := h
  simp only [endCtx, h']

theorem endCtx_of_absent {s : State} {c : RedCtx} (st : Nat) (h : findWork s c.work = none) :
    endCtx s c st = { s with red := { s.red with ctxs := s.red.ctxs.filter (fun x => x.redid != c.redid) } } := by
  have h' (x : RedEngine) : findWork { s with red := x } c.work = none := h
  simp only [endCtx, h']

/-- The context is freed, and of the state only descriptors change beside. -/
theorem endCtx_frame (s : State) (c : RedCtx) (st : Nat) :
    { endCtx s c st with work := s.work } =
      { s with red := { s.red with ctxs := s.red.ctxs.filter (fun x => x.redid != c.redid) } } := by
  cases h : findWork s c.work with
  | none => rw [endCtx_of_absent st h]
  | some w => rw [endCtx_of_found st h]; rfl

theorem findWork_endCtx_same {s : State} {c : RedCtx} {w : Work} (st : Nat) (h : findWork s c.work = some w) :
    findWork (endCtx s c st) c.work = some { w with phase := .done, status := st, acc := c.acc, events := c.events } := by
  rw [endCtx_of_found st h]
  have hr := findWork_ref h
  rw [← hr] at h ⊢
  exact findWork_setWork_same _ { w with phase := .done, status := st, acc := c.acc, events := c.events } h

theorem findWork_endCtx_ne (s : State) {c : RedCtx} (st : Nat) {r : WRef} (hr : r ≠ c.work) :
    findWork (endCtx s c st) r = findWork s r := by
  cases h : findWork s c.work with
  | none => rw [endCtx_of_absent st h]; rfl
  | some w =>
    rw [endCtx_of_found st h, findWork_setWork_ne _ _ (by rwa [← findWork_ref h] at hr)]
    rfl

theorem failCtx_ends (s : State) (c : RedCtx) (st : Nat) (from_ : Option Nat) :
    ∃ v, failCtx s c st from_ = endCtx v c st ∧ offFabric v = offFabric s ∧
      ((redPeers c).filter (fun d => some d != from_) = [] → v = s) :=
  ⟨_, rfl, redCtrl_each_offFabric _ _ _ s, fun h => by rw [h]; rfl⟩

/-- What a failing context leaves (R371, R379, R381). -/
theorem failCtx_spec (s : State) (c : RedCtx) (st : Nat) (from_ : Option Nat) :
    let u := failCtx s c st from_
    (∀ x, x ∈ u.red.ctxs ↔ x ∈ s.red.ctxs ∧ x.redid ≠ c.redid) ∧ u.mem = s.mem ∧
    (∀ w, findWork s c.work = some w →
      findWork u c.work = some { w with phase := .done, status := st, acc := c.acc, events := c.events }) ∧
    ((redPeers c).filter (fun d => some d != from_) = [] → u.fab = s.fab) ∧
    (∀ r, r ≠ c.work → findWork u r = findWork s r) := by
  obtain ⟨v, hu, hv, hquiet⟩ := failCtx_ends s c st from_
  have hfind (r : WRef) : findWork v r = findWork s r := by unfold findWork; rw [work_of_offFabric hv]
  have hend := endCtx_frame v c st
  rw [hu]
  refine ⟨fun x => ?_, mem_of_offFabric hv ▸ (congrArg State.mem hend :),
    fun w hw => findWork_endCtx_same st ((hfind _).trans hw), fun h => ?_, fun r hr => (findWork_endCtx_ne v st hr).trans (hfind r)⟩
  · rw [show (endCtx v c st).red.ctxs = _ from congrArg (fun y => y.red.ctxs) hend]
    simp [red_of_offFabric hv]
  · rw [← hquiet h]
    exact (congrArg State.fab hend :)

/-! ## REDUCE (R366 to R371, R381, R386) -/

theorem redDue_iff (w : Work) : redDue w = true ↔ ((w.step + 2 ^ 32 - w.f 36 4 + 1) % 2 ^ 32) % w.f 35 1 = 0 := beq_iff_eq

section
variable {s : State} {w : Work}

theorem tryReduce_of_status {st : Nat} (h : redStatus s w = some st) :
    tryReduce s w = setWork s { w with phase := .done, status := st } := by
  simp only [tryReduce, h, decide_]

theorem tryReduce_of_not_due (h : redStatus s w = none) (hd : ¬ redDue w = true) :
    tryReduce s w = bump (setWork s { w with phase := .done, status := 0x0000 }) Key.redSkipped 1 := by
  simp only [tryReduce, h, Bool.eq_false_of_not_eq_true hd, if_true, decide_]

theorem tryReduce_of_waits (h : redStatus s w = none) (hd : redDue w = true) (hw : redWaits s w = true) :
    tryReduce s w = s := by
  simp [tryReduce, h, hd, hw]

theorem tryReduce_of_turn (h : redStatus s w = none) (hd : redDue w = true) (hw : redWaits s w = false) :
    tryReduce s w = startCtx s w := by
  simp [tryReduce, h, hd, hw]

end

/-- Where no RED_JOIN came before the context, none meets it. -/
theorem meetJoins_of_none {s : State} (id : Nat) (h : s.red.joins = []) : meetJoins s id = s := by
  unfold meetJoins
  rw [h]
  exact congrArg (fun j => { s with red := { s.red with joins := j } }) h.symm

/-- The module once a REDUCE runs: its identifier and step are noted (log 140). -/
def redBegun (s : State) (w : Work) : State :=
  { setWork { s with starts := s.starts + 1 } (w.start s 0) with red := { s.red with
    steps := ((w.f 32 2, w.step) :: s.red.steps).eraseDups } }

section
variable {s : State} {w : Work}

/-- A module was fenced since the last cutover (R386). -/
theorem startCtx_of_fenced (h : s.red.fencedSince = true) :
    startCtx s w = failCtx (redBegun s w) (newCtx (redBegun s w) (w.start s 0)) 0x0004 none := if_pos h

/-- An abort was kept for this REDUCE (R381). -/
theorem startCtx_of_aborted {a : Nat × Nat × Nat × Nat} (h : s.red.fencedSince = false)
    (ha : s.red.aborts.find? (fun a => a.1 == w.f 32 2 && a.2.1 == w.step) = some a) :
    startCtx s w = failCtx { redBegun s w with red := { (redBegun s w).red with aborts := (redBegun s w).red.aborts.erase a } }
      (newCtx (redBegun s w) (w.start s 0)) a.2.2.1 none := by
  refine (if_neg (Bool.eq_false_iff.mp h)).trans ?_
  rw [show (started s w 0).1.red.aborts = s.red.aborts from rfl, ha]
  rfl

/-- It takes a context, tells the rank below it and does what it can (R371, R373). -/
theorem startCtx_of_free (h : s.red.fencedSince = false) (hj : s.red.joins = [])
    (ha : s.red.aborts.find? (fun a => a.1 == w.f 32 2 && a.2.1 == w.step) = none) :
    let c := newCtx (redBegun s w) (w.start s 0)
    let s4 := { redBegun s w with red := { (redBegun s w).red with ctxs := (redBegun s w).red.ctxs ++ [c] } }
    startCtx s w = redProgress (if c.rank = 0 then s4 else redCtrl s4 c.down 0x0020 (joinBody c)) (w.f 32 2) := by
  intro c s4
  have hjoin : (if c.rank = 0 then s4 else redCtrl s4 c.down 0x0020 (joinBody c)).red.joins = [] := by
    rw [red_of_offFabric (s := s4) (by simp [apply_ite offFabric])]
    exact hj
  refine (if_neg (Bool.eq_false_iff.mp h)).trans ?_
  rw [show (started s w 0).1.red.aborts = s.red.aborts from rfl, ha]
  exact congrArg (redProgress · _) (meetJoins_of_none _ hjoin)

end

/-- A REDUCE that starts and gets the issue decision reaches the engine. -/
theorem exec_reduce_of_issue {s s1 : State} {r : WRef} {t : Nat} {w : Work} (h : Starts 0x0800 r s w) (hw : w.waiting = false)
    (hi : issue (markReady (atTime s t)) w = some s1) : exec (.reduce r t) s = .next (reachReduce s1 w) := by
  show execReduce r t s = _
  simp [execReduce, h.found, h.code, h.own, h.runs, h.fetched, h.may, h.live, h.checks, hw, hi]

/-- A REDUCE that waits has been fetched and not started. -/
theorem fetched_of_waiting {w : Work} (h : w.waiting = true) : w.phase = .fetched := by
  simp only [Work.waiting, Bool.and_eq_true, decide_eq_true_eq] at h
  exact h.2

theorem exec_reduce_of_waiting (s : State) (r : WRef) (t : Nat) (w : Work) (hf : findWork s r = some w) (ho : w.op = 0x0800)
    (hq : w.req = none) (hc : computing s = true) (hw : w.waiting = true) (hs : startable s w = true)
    (hx : cancelled s w = false) : exec (.reduce r t) s = .next (markReady (tryReduce (atTime s t) w)) := by
  show execReduce r t s = _
  simp [execReduce, hf, ho, hq, hc, fetched_of_waiting hw, hw, hs, hx]

theorem exec_reduce_of_running (s : State) (r : WRef) (t : Nat) (w : Work) (c : RedCtx) (hf : findWork s r = some w)
    (ho : w.op = 0x0800) (hq : w.req = none) (hc : computing s = true) (hp : w.phase = .running)
    (hctx : s.red.ctxs.find? (fun c => decide (c.work = r)) = some c) :
    exec (.reduce r t) s = .next (redProgress (atTime s t) c.redid) := by
  show execReduce r t s = _
  simp [execReduce, hf, ho, hq, hc, hp, hctx]

/-! ## A packet taken from the inbox -/

section
variable {s s1 : State} {k : Pkt} {f : Pkt → Bool} (h : takeInbox s f = some (k, s1)) (t : Nat)
include h

theorem takeInbox_state : s1 = { s with fab := { s.fab with inbox := s.fab.inbox.erase k } } := by
  unfold takeInbox at h
  split at h
  · cases h
  · obtain ⟨rfl, rfl⟩ := Prod.mk.inj (Option.some.inj h)
    rfl

theorem taken_time : s1.time = s.time := by rw [takeInbox_state h]
theorem taken_red : s1.red = s.red := by rw [takeInbox_state h]
theorem reg_taken (key : Nat) : reg (atTime s1 t) key = reg s key := by rw [takeInbox_state h]; rfl
theorem members_taken : members (atTime s1 t) = members s := by rw [takeInbox_state h]; rfl
theorem passing_taken (x : Pkt) : passing (atTime s1 t) x = passing s x := by rw [takeInbox_state h]; rfl
theorem relayHops_taken (origin : Nat) : relayHops (atTime s1 t) origin = relayHops s origin := by
  rw [takeInbox_state h]; rfl
theorem redCtx_taken (id : Nat) : redCtx (atTime s1 t) id = redCtx s id := by rw [takeInbox_state h]; rfl

theorem onRed_of_taken (hc : computing s = true) (go : State → Pkt → State) : onRed f go t s = go (atTime s1 t) k := by
  simp [onRed, hc, h]

end

/-! ## The packets of the chain (R373, R374, R381, R384) -/

section
variable {s s1 : State} {t : Nat} {k : Pkt} {c : RedCtx} (hc : computing s = true)
include hc

/-- A piece for a context here: the checks of R61 and R374 in turn. -/
theorem exec_red_of_ctx (h : takeInbox s (fun k => k.ty == 0xB && roomToRelay s k) = some (k, s1)) (hp : passing s k = false)
    (hx : redCtx s k.aux = some c) :
    exec (.red t) s = .next (
      if k.eph ≠ reg s Key.ephPin then failCtx (atTime s1 t) c 0x0015 none
      else if windowOk (signed 16 (hdrBits k 160 16)) = false then failCtx (atTime s1 t) c 0x0011 none
      else if hdrBits k 0 32 = c.step ∧ hdrBits k 112 16 = c.n ∧ signed 16 (hdrBits k 160 16) = c.t then
        redProgress (setCtx (atTime s1 t) { c with inq := c.inq ++ [k], lastAt := max s.time t }) c.redid
      else failCtx (atTime s1 t) c 0x0803 none) := by
  show execRed t s = _
  have hm : (hdrBits k 0 32 ≠ c.step ∨ hdrBits k 112 16 ≠ c.n ∨ signed 16 (hdrBits k 160 16) ≠ c.t) ↔
      ¬ (hdrBits k 0 32 = c.step ∧ hdrBits k 112 16 = c.n ∧ signed 16 (hdrBits k 160 16) = c.t) := by
    simp only [not_and_or, ne_eq]
  simp only [execRed, onRed_of_taken h t hc, passing_taken h, hp, redCtx_taken h, hx, reg_taken h, atTime_time, taken_time h,
    hm, ite_not, Bool.false_eq_true, if_false]
  rfl

/-- A check piece of a detour is relayed, or refused under R61 (R384). -/
theorem exec_red_of_passing (h : takeInbox s (fun k => k.ty == 0xB && roomToRelay s k) = some (k, s1)) (hp : passing s k = true) :
    exec (.red t) s = .next (if k.eph = reg s Key.ephPin then relayRed (atTime s1 t) k
      else redCtrl (atTime s1 t) ((members s).getD (hdrBits k 176 16) 0) 0x0023
        (leBytes 2 k.aux ++ leBytes 4 (hdrBits k 0 32) ++ leBytes 2 0x0015)) := by
  show execRed t s = _
  simp only [execRed, onRed_of_taken h t hc, passing_taken h, hp, reg_taken h, relayRefuses, members_taken h, if_true]
  rfl

section
variable (h : takeInbox s (isCtrl 0x0020) = some (k, s1))
include h

theorem exec_redJoin_of_ctx (hx : redCtx s (field k.payload 0 2) = some c) :
    exec (.redJoin t) s = .next (takeJoin (atTime s1 t) c k.src k.payload) := by
  show execRedJoin t s = _
  simp only [execRedJoin, onRed_of_taken h t hc, redCtx_taken h, hx]

/-- A RED_JOIN that comes before its REDUCE is kept. -/
theorem exec_redJoin_of_none (hx : redCtx s (field k.payload 0 2) = none) :
    ∃ u, exec (.redJoin t) s = .next u ∧ (k.src, k.payload) ∈ u.red.joins ∧ u.red.ctxs = s.red.ctxs ∧
      { u with red := s.red, fab := s.fab, time := s.time } = s := by
  show ∃ u, execRedJoin t s = .next u ∧ _
  simp only [execRedJoin, onRed_of_taken h t hc, redCtx_taken h, hx]
  obtain rfl := takeInbox_state h
  exact ⟨_, rfl, by simp, rfl, rfl⟩

end

section
variable (h : takeInbox s (isCtrl 0x0021) = some (k, s1))
include h

/-- A RED_CREDIT of a stream of the context (R373). -/
theorem exec_redCredit_of_ctx
    (hn : (relayHops s (field k.payload 7 2)).find? (fun h => h.2.2 == k.src &&
      ((field k.payload 2 1 == 4 && h.1) || (field k.payload 2 1 == 6 && !h.1))) = none)
    (hx : redCtx s (field k.payload 0 2) = some c) :
    exec (.redCredit t) s = .next (redProgress (setCtx (atTime s1 t)
      { c with room := Tab.set 0 c.room (if field k.payload 2 1 = 5 then 4 else field k.payload 2 1) (field k.payload 3 4),
               lastAt := max s.time t }) (field k.payload 0 2)) := by
  show execRedCredit t s = _
  simp only [execRedCredit, onRed_of_taken h t hc, relayHops_taken h, hn, redCtx_taken h, hx, atTime_time, taken_time h]

/-- A RED_CREDIT of a hop this module relays (R384). -/
theorem exec_redCredit_of_hop {hop : Bool × Nat × Nat}
    (hn : (relayHops s (field k.payload 7 2)).find? (fun h => h.2.2 == k.src &&
      ((field k.payload 2 1 == 4 && h.1) || (field k.payload 2 1 == 6 && !h.1))) = some hop) :
    exec (.redCredit t) s = .next (relayCredit (atTime s1 t) (field k.payload 0 2) (field k.payload 7 2)
      (field k.payload 3 4) hop) := by
  show execRedCredit t s = _
  simp only [execRedCredit, onRed_of_taken h t hc, relayHops_taken h, hn]

end

theorem exec_redEnd_of_step (h : takeInbox s (isCtrl 0x0022) = some (k, s1)) (hx : redCtx s (field k.payload 0 2) = some c)
    (hs : field k.payload 2 4 = c.step) :
    exec (.redEnd t) s = .next (redProgress (setCtx (atTime s1 t)
      { c with ended := some (field k.payload 6 2), lastAt := max s.time t }) c.redid) := by
  show execRedEnd t s = _
  simp only [execRedEnd, onRed_of_taken h t hc, redCtx_taken h, hx, hs, if_true, atTime_time, taken_time h]

section
variable (h : takeInbox s (isCtrl 0x0023) = some (k, s1))
include h

theorem exec_redAbort_of_ctx
    (hx : s.red.ctxs.find? (fun c => c.redid == field k.payload 0 2 && c.step == field k.payload 2 4) = some c) :
    exec (.redAbort t) s = .next (markReady (failCtx (atTime s1 t) c (field k.payload 6 2) (some k.src))) := by
  show execRedAbort t s = _
  simp only [execRedAbort, onRed_of_taken h t hc, atTime_red, taken_red h, hx]

variable (hx : s.red.ctxs.find? (fun c => c.redid == field k.payload 0 2 && c.step == field k.payload 2 4) = none)
include hx

/-- An abort of a step that has started here and is over (log 140). -/
theorem exec_redAbort_of_started (hm : (field k.payload 0 2, field k.payload 2 4) ∈ s.red.steps) :
    exec (.redAbort t) s = .next (atTime s1 t) := by
  show execRedAbort t s = _
  simp only [execRedAbort, onRed_of_taken h t hc, atTime_red, taken_red h, hx, hm, if_true]

/-- An abort of a step that has not started here is kept, in a list of 64 (R381). -/
theorem exec_redAbort_of_early (hm : (field k.payload 0 2, field k.payload 2 4) ∉ s.red.steps) :
    ∃ u, exec (.redAbort t) s = .next u ∧ u.red.ctxs = s.red.ctxs ∧ (s.red.aborts.length ≤ 64 → u.red.aborts.length ≤ 64) ∧
      (field k.payload 0 2, field k.payload 2 4, field k.payload 6 2, max s.time t) ∈ u.red.aborts := by
  show ∃ u, execRedAbort t s = .next u ∧ _
  simp only [execRedAbort, onRed_of_taken h t hc, atTime_red, atTime_time, taken_red h, taken_time h, hx, hm, if_false]
  refine ⟨_, rfl, rfl, fun hl => ?_, by simp⟩
  have hfilter := List.length_filter_le (fun a => !(a.1 == field k.payload 0 2 && a.2.1 == field k.payload 2 4)) s.red.aborts
  rw [List.length_append, apply_ite List.length, List.length_drop, List.length_singleton]
  split <;> omega

end

end

/-- A RED_JOIN that agrees opens the way up the chain (R373). -/
theorem takeJoin_of_agrees {s : State} {c : RedCtx} {src : Nat} {body : List Byte} (hl : c.last = false) (hu : c.up = src)
    (hj : c.joined = false) (hf : joinFields body = joinFields (joinBody c)) :
    takeJoin s c src body = redProgress (setCtx s { c with joined := true, lastAt := s.time }) c.redid := by
  simp [takeJoin, hl, hu, hj, hf]

/-- One that differs ends the context and tells its sender (R374). -/
theorem takeJoin_of_differs {s : State} {c : RedCtx} {src : Nat} {body : List Byte}
    (ha : c.last = true ∨ c.up ≠ src ∨ c.joined = false) (hf : joinFields body ≠ joinFields (joinBody c)) :
    takeJoin s c src body = redCtrl (failCtx s c 0x0803 (some src)) src 0x0023
      (leBytes 2 c.redid ++ leBytes 4 (field body 2 4) ++ leBytes 2 0x0803) := by
  have hn : (!c.last && c.up == src && c.joined) = false := by
    rcases ha with ha | ha | ha <;> simp [ha]
  unfold takeJoin
  rw [hn, if_neg Bool.false_ne_true, if_neg hf]
  rfl

/-! ## Time (R380, R381) -/

theorem exec_redAbortExpiry_of_due (s : State) (id t : Nat) (a : Nat × Nat × Nat × Nat)
    (ha : s.red.aborts.find? (fun a => a.1 == id) = some a) (ht : a.2.2.2 + 1000 * reg s Key.redWatchdogUs ≤ max s.time t) :
    exec (.redAbortExpiry id t) s = .next { atTime s t with red := { s.red with aborts := s.red.aborts.erase a } } := by
  show execRedAbortExpiry id t s = _
  simp only [execRedAbortExpiry, ha, if_pos ht]

theorem reg_almFull_of_ne (s : State) (origin unit kind st step tag : Nat) (d : List Byte) {k : Nat}
    (h : k ≠ Key.almOverwritten) :
    reg (almFull s origin unit kind st step tag d) k = reg s k := by
  unfold almFull
  dsimp only
  split
  · exact reg_setReg_ne _ _ h
  · rfl

/-- An Almanac entry changes the Almanac and its counter. -/
theorem almFull_frame (s : State) (origin unit kind st step tag : Nat) (d : List Byte) :
    { almFull s origin unit kind st step tag d with alm := s.alm, dict := s.dict } = s := by
  unfold almFull
  dsimp only
  split <;> rfl

/-- The watchdog of a silent context (R380). -/
theorem exec_redWatchdog_of_silent (s : State) (i t : Nat) (c : RedCtx) (hx : s.red.ctxs[i]? = some c)
    (ht : c.lastAt + 1000 * c.watchUs ≤ max s.time t) (hf : reg s Key.frzState = 0) :
    ∃ u, exec (.redWatchdog i t) s = .next (markReady (failCtx u c 0x0802 none)) ∧
      reg u Key.redTimeouts = stick32 (reg s Key.redTimeouts + 1) ∧ u.alm.next = (s.alm.next + 1) % 2 ^ 32 ∧
      u.red = s.red ∧ u.work = s.work := by
  show ∃ u, execRedWatchdog i t s = .next (markReady (failCtx u c 0x0802 none)) ∧ _
  simp only [execRedWatchdog, hx, ht, hf, and_self, if_true]
  refine ⟨_, rfl, ?_, almFull_next _ _ _ _ _ _ _ _, ?_, ?_⟩
  · rw [reg_almFull_of_ne _ _ _ _ _ _ _ _ (by decide), reg_bump32, if_pos rfl, reg_atTime]
  · exact (congrArg State.red (almFull_frame _ _ _ _ _ _ _ _) :)
  · exact (congrArg State.work (almFull_frame _ _ _ _ _ _ _ _) :)

/-- Settles O36: a REDUCE by the branch its checks take, each packet by what it names here, the watchdog, a kept abort, and the
frame of a context that fails. -/
theorem reduceCommands : Obligations.ReduceCommands := by
  refine ⟨⟨fun s s1 r t w hs hw hi => ?_, exec_reduce_of_waiting, exec_reduce_of_running⟩,
    fun s s1 t k hc h => ⟨fun c => exec_red_of_ctx hc h, exec_red_of_passing hc h⟩,
    fun s s1 t k hc h => ⟨fun c hx hl hu hj hf => ?_, fun c hx ha hf => ?_, exec_redJoin_of_none hc h⟩,
    fun s s1 t k hc h => ⟨fun c => exec_redCredit_of_ctx hc h, fun hop => exec_redCredit_of_hop hc h⟩,
    fun s s1 t k c => exec_redEnd_of_step,
    fun s s1 t k hc h => ⟨fun c => exec_redAbort_of_ctx hc h, exec_redAbort_of_started hc h, exec_redAbort_of_early hc h⟩,
    exec_redAbortExpiry_of_due, exec_redWatchdog_of_silent, failCtx_spec⟩
  · intro w1 s2 id due v s3
    have hreach : exec (.reduce r t) s = .next (tryReduce s2 w1) := exec_reduce_of_issue hs hw hi
    have hdue : redDue w1 = true ↔ due := redDue_iff w1
    have hturn (h : redStatus s2 w1 = none) (hd : due) (hp : redWaits s2 w1 = false) : tryReduce s2 w1 = startCtx s2 w1 :=
      tryReduce_of_turn h (hdue.mpr hd) hp
    rw [hreach]
    exact ⟨fun st h => congrArg _ (tryReduce_of_status h),
      fun h hd => congrArg _ (tryReduce_of_not_due h (mt hdue.mp hd)),
      fun h hd hp => congrArg _ (tryReduce_of_waits h (hdue.mpr hd) hp),
      fun h hd hp hf => congrArg _ ((hturn h hd hp).trans (startCtx_of_fenced hf)),
      fun a h hd hp hf ha => congrArg _ ((hturn h hd hp).trans (startCtx_of_aborted hf ha)),
      fun h hd hp hf hj ha => congrArg _ ((hturn h hd hp).trans (startCtx_of_free hf hj ha))⟩
  · rw [exec_redJoin_of_ctx hc h hx, takeJoin_of_agrees hl hu hj hf, atTime_time, taken_time h]
  · rw [exec_redJoin_of_ctx hc h hx, takeJoin_of_differs ha hf]

end Sys2Proof.Scope

/-! A SWAP that fails for the reason the engines of the first part do: counting the weights it loads takes the channel that homes
its activations out of reach. -/

namespace Sys2Proof.Scope
open Sys2Proof Sys2Proof.Machine Sys2Proof.Machine.Claim Sys2Proof.Tests

/-- A dense contraction of one row, one column and four indices, on its array. -/
def swapW : Work := matWork 0x0100 4 0 .running

/-- The module with it before its first swap, its weights in channel 0 and its activations in the ghost channel. -/
def swapGhost : State :=
  { primed 4 (arena swapW [channelObj 1 ghostChannel, channelObj 2 0, pageObj 3 3] []) with arr := [(0, { work := some q0 })] }

/-- The phase and the status a command leaves descriptor 0 of queue 0 with. -/
def outcomeAfter (c : Instr) (s : State) : Option (Phase × Nat) :=
  match exec c s with
  | .next t => (findWork t q0).map (fun v => (v.phase, v.status))
  | _ => none

theorem outcomeAfter_of_next {c : Instr} {s t : State} {v : Work} (ht : exec c s = .next t) (hv : findWork t q0 = some v) :
    outcomeAfter c s = some (v.phase, v.status) := by
  simp [outcomeAfter, ht, hv]

/-- Its swap is refused the activations, and the descriptor ends. -/
theorem swapGhost_ends : outcomeAfter (.swap 0) swapGhost = some (.done, Status.poison) := by decide +kernel

/-- Refutes O20: SWAP loads its weights, 4 bytes of channel 0, which counts them into the state word of the channel that homes
its activations: the descriptor does not go on, it ends FAULT_POISON. -/
theorem not_matrixCompletes : ¬ Obligations.MatrixCompletes := by
  rintro ⟨-, hswap, -⟩
  have hs : Still swapGhost := still_of (by decide +kernel)
  obtain ⟨t, v, ht, hv, hp, -⟩ := hswap swapGhost 0 { work := some q0 } swapW (by decide) (by decide +kernel)
    (by decide +kernel) hs (by decide +kernel) (lies_of hs (by decide +kernel)) (lies_of hs (by decide +kernel)) (fun h => absurd h (by decide +kernel))
    (fun h => absurd h (by decide +kernel)) (fun _ => rfl) (fun h => absurd h (by decide)) (fun h => absurd h (by decide +kernel))
    (fun _ h => nomatch h)
  have hend := outcomeAfter_of_next ht hv
  rw [swapGhost_ends, hp] at hend
  exact absurd (congrArg (·.map Prod.fst) hend) (by simp)

end Sys2Proof.Scope

/-! What holds where an engine's run ends: one rule for each step of the engines' monad. -/

namespace Sys2Proof.Scope
open Sys2Proof Sys2Proof.Machine Sys2Proof.Machine.Claim

/-- Every run of `m` from a context `P` that ends with an answer leaves answer and context as `Q` says. -/
def Ends {α : Type} (P : Ectx → Prop) (m : Eng α) (Q : α → Ectx → Prop) : Prop :=
  ∀ c a e, P c → Runs m c a e → Q a e

/-- A run of a sequence that ends is a run of its first part and one of the rest. -/
theorem runs_bind_inv {α β : Type} {m : Eng α} {f : α → Eng β} {c e : Ectx} {b : β} (h : Runs (m >>= f) c b e) :
    ∃ a c1, Runs m c a c1 ∧ Runs (f a) c1 b e := by
  unfold Runs at *
  simp only [ExceptT.run_bind, StateT.run_bind] at h
  rcases hm : m.run.run c with ⟨_ | a, c1⟩
  · rw [hm] at h
    exact nomatch (congrArg Prod.fst h :)
  · rw [hm] at h
    exact ⟨a, c1, rfl, h⟩

section
variable {α β : Type} {P : Ectx → Prop} {Q : α → Ectx → Prop} {R : β → Ectx → Prop}

theorem Ends.bind {m : Eng α} {f : α → Eng β} (h : Ends P m Q) (g : ∀ a, Ends (Q a) (f a) R) : Ends P (m >>= f) R := by
  intro c b e hc hr
  obtain ⟨a, c1, hm, hf⟩ := runs_bind_inv hr
  exact g a c1 b e (h c a c1 hc hm) hf

theorem Ends.pure {a : α} (h : ∀ c, P c → Q a c) : Ends P (pure a) Q := by
  rintro c b e hc hr
  obtain ⟨hb, he⟩ := Prod.mk.inj (show (Except.ok a, c) = (Except.ok b, e) from hr)
  cases hb
  exact he ▸ h c hc

theorem Ends.modify {f : Ectx → Ectx} {Q : Unit → Ectx → Prop} (h : ∀ c, P c → Q () (f c)) : Ends P (modify f) Q := by
  rintro c a e hc hr
  exact (Prod.mk.inj (show (Except.ok (), f c) = (Except.ok a, e) from hr)).2 ▸ h c hc

theorem Ends.modS {f : State → State} {Q : Unit → Ectx → Prop} (h : ∀ c, P c → Q () { c with s := f c.s }) :
    Ends P (modS f) Q := Ends.modify h

/-- The context read is one that `P` holds of. -/
theorem Ends.get_bind {f : Ectx → Eng β} (h : ∀ c, P c → Ends P (f c) R) : Ends P (get >>= f) R := by
  intro c b e hc hr
  obtain ⟨a, c1, hm, hf⟩ := runs_bind_inv hr
  obtain ⟨ha, h1⟩ := Prod.mk.inj (show (Except.ok c, c) = (Except.ok a, c1) from hm)
  cases ha
  cases h1
  exact h c hc c b e hc hf

theorem Ends.throw (x : Stop) : Ends P (throw x : Eng α) Q := fun c a e _ hr =>
  nomatch (congrArg Prod.fst (show (Except.error x, c) = (Except.ok a, e) from hr) :)

theorem Ends.mono {m : Eng α} {Q' : α → Ectx → Prop} (h : Ends P m Q) (hq : ∀ a c, Q a c → Q' a c) : Ends P m Q' :=
  fun c a e hc hr => hq a e (h c a e hc hr)

theorem Ends.ite {b : Prop} [Decidable b] {m n : Eng α} (h : Ends P m Q) (h' : Ends P n Q) : Ends P (if b then m else n) Q := by
  split <;> assumption

/-- A part that may be left out. -/
theorem Ends.optional {b : Prop} [Decidable b] {m : Eng Unit} {k : Unit → Eng β}
    (h : Ends P m fun _ => P) (g : Ends P (k ()) R) :
    Ends P (if b then m >>= k else k ()) R := .ite (.bind h fun _ => g) g

theorem Ends.require (b : Bool) (code : Nat) : Ends P (require b code) fun _ => P := .ite (.pure fun _ => id) (.throw _)

theorem Ends.eachDo {f : α → Eng Unit} (h : ∀ x, Ends P (f x) fun _ => P) (xs : List α) :
    Ends P (eachDo f xs) fun _ => P := by
  induction xs with
  | nil => exact .pure fun _ => id
  | cons x xs ih => exact .bind (h x) fun _ => ih

/-- A loop that answers a list answers an entry for each round. -/
theorem Ends.mapDo {f : α → Eng β} (h : ∀ x, Ends P (f x) fun _ => P) (xs : List α) :
    Ends P (mapDo f xs) fun ys c => ys.length = xs.length ∧ P c := by
  induction xs with
  | nil => exact .pure fun _ hc => ⟨rfl, hc⟩
  | cons x xs ih =>
    exact .bind (h x) fun _ => .bind ih fun _ => .pure fun _ hc => ⟨congrArg (· + 1) hc.1, hc.2⟩

/-- What does not depend on the context may be assumed. -/
theorem Ends.of_and {p : Prop} {m : Eng α} (h : p → Ends P m Q) : Ends (fun c => p ∧ P c) m Q :=
  fun c a e hc hr => h hc.1 c a e hc.2 hr

end

/-- Where only the answer counts: nothing is asked of the contexts. -/
theorem ends_true {α : Type} (m : Eng α) : Ends (fun _ => True) m fun _ _ => True := fun _ _ _ _ _ => trivial

end Sys2Proof.Scope

/-! The arrays while an engine reads and writes memory (R10, R131, R239, R240, R299, R404): no access to memory changes an
array or the name of the descriptor that runs. -/

namespace Sys2Proof.Scope
open Sys2Proof Sys2Proof.Machine Sys2Proof.Machine.Claim

/-! ## What an access does beside -/

/-- A run of steps that each leave the arrays leaves them. -/
theorem foldl_arr {α : Type} {f : State → α → State} (h : ∀ s x, (f s x).arr = s.arr) (xs : List α) (s : State) :
    (xs.foldl f s).arr = s.arr := by
  induction xs generalizing s with
  | nil => rfl
  | cons x xs ih => rw [List.foldl_cons, ih, h]

@[simp] theorem countBytes_arr (s : State) (wr : Bool) (a n : Nat) : (countBytes s wr a n).arr = s.arr := by
  simp [countBytes, apply_ite State.arr]

@[simp] theorem countRange_arr (s : State) (wr : Bool) (o : Obj) (off len : Nat) : (countRange s wr o off len).arr = s.arr := by
  refine foldl_arr (fun t p => ?_) _ _
  split <;> simp

@[simp] theorem sampleAccess_arr (s : State) (o : Obj) (off a d c : Nat) : (sampleAccess s o off a d c).arr = s.arr := by
  simp [sampleAccess, apply_ite State.arr]

@[simp] theorem markDirty_arr (s : State) (n off : Nat) : (markDirty s n off).arr = s.arr := rfl

@[simp] theorem sendAll_arr (s : State) (os : List Out) : (sendAll s os).arr = s.arr := rfl

@[simp] theorem snoopRange_arr (s : State) (n off len : Nat) (inv : Bool) : (snoopRange s n off len inv).arr = s.arr := by
  have h (t : State) (l : List HostLine) (f : HostLine → Out) : (l.foldl (fun s l => send s (f l)) t).arr = t.arr :=
    foldl_arr (fun s x => send_arr s (f x)) _ _
  simp [snoopRange, apply_ite State.arr, h]

@[simp] theorem askHost_arr (s : State) (n off len : Nat) : (askHost s n off len).arr = s.arr := by
  simp [askHost, apply_ite State.arr]

@[simp] theorem tellRead_arr (s : State) (o : Obj) (off len : Nat) : (tellRead s o off len).arr = s.arr := by simp [tellRead]

@[simp] theorem clearCovered_arr (s : State) (n off len : Nat) : (clearCovered s n off len).arr = s.arr := by
  simp [clearCovered, apply_ite State.arr]

@[simp] theorem postTxn_arr (s : State) (k : TxKind) (i : Option WRef) (n off : Nat) (p : Pkt) :
    (postTxn s k i n off p).arr = s.arr := rfl

@[simp] theorem postPlace_arr (s : State) (k : TxKind) (c n u : Nat) (b : List Byte) : (postPlace s k c n u b).arr = s.arr := rfl

@[simp] theorem refreshCopies_arr (s : State) (o : Obj) (row : Nat) : (refreshCopies s o row).arr = s.arr := by
  unfold refreshCopies
  dsimp only
  split
  · split
    · rfl
    · exact foldl_arr (fun s (e : DirEntry) => writePhys_arr s e.addr _) _ _
  · rfl

@[simp] theorem setMState_arr (s : State) (o : Obj) (row : Nat) (st : MState) : (setMState s o row st).arr = s.arr := rfl

@[simp] theorem sendSnapshot_arr (s : State) (m : Migration) : (sendSnapshot s m).arr = s.arr := by
  simp [sendSnapshot, apply_ite State.arr]

@[simp] theorem abortMigration_arr (s : State) (m : Migration) : (abortMigration s m).arr = s.arr := by
  simp [abortMigration, apply_ite State.arr]

@[simp] theorem restartMigration_arr (s : State) (o : Obj) (row : Nat) : (restartMigration s o row).arr = s.arr := by
  unfold restartMigration
  split
  · rfl
  · dsimp only
    split <;> simp

@[simp] theorem stampObj_arr (s : State) (n : Nat) : (stampObj s n).arr = s.arr := by
  simp [stampObj, apply_ite State.arr]

@[simp] theorem afterWrite_arr (s : State) (n off len : Nat) : (afterWrite s n off len).arr = s.arr := by
  unfold afterWrite
  rw [stampObj_arr]
  split
  · rfl
  · exact foldl_arr (fun _ _ => by simp) _ _

theorem draftRow_arr {s t : State} {n row : Nat} (h : draftRow s n row = .ok t) : t.arr = s.arr := by
  unfold draftRow at h
  dsimp only at h
  split at h
  · cases h; rfl
  · split at h
    · cases h
    · split at h
      · cases h; rfl
      · split at h
        · cases h
        · split at h
          · cases h
          · cases h; simp

/-- The tags and shadows of the rows a write meets leave the arrays (R239). -/
theorem draftRows_arr {s t : State} {n off len : Nat} (h : draftRows s n off len = .ok t) : t.arr = s.arr := by
  unfold draftRows at h
  dsimp only at h
  split at h
  · cases h; rfl
  · refine (List.foldlRecOn (motive := fun r => ∀ u, r = RowWrite.ok u → u.arr = s.arr) _ _ ?_ ?_) t h
    · rintro u ⟨⟩; rfl
    · intro r hr row _ u hu
      split at hu
      · split at hu
        · exact (draftRow_arr hu).trans (hr _ rfl)
        · cases hu; exact hr _ rfl
      · exact hr u hu

/-! ## A descriptor's run before it takes its array -/

/-- The arrays are `t`, the run is that of descriptor `r` of opcode `op`. -/
structure RunsAt (t : Tab ArrUnit) (r : WRef) (op : Nat) (c : Ectx) : Prop where
  arr : c.s.arr = t
  ref : c.w.ref = r
  code : c.w.op = op

section
variable {t : Tab ArrUnit} {r : WRef} {op : Nat}

/-- Every run of `m` that ends leaves the arrays and the descriptor's name and opcode. -/
def Keeps {α : Type} (t : Tab ArrUnit) (r : WRef) (op : Nat) (m : Eng α) : Prop := Ends (RunsAt t r op) m fun _ => RunsAt t r op

variable {α β : Type}

theorem Keeps.bind {m : Eng α} {f : α → Eng β} (h : Keeps t r op m) (g : ∀ a, Keeps t r op (f a)) : Keeps t r op (m >>= f) :=
  Ends.bind h g

theorem Keeps.pure (a : α) : Keeps t r op (pure a) := Ends.pure fun _ => id
theorem Keeps.throw (x : Stop) : Keeps t r op (throw x : Eng α) := Ends.throw x
theorem Keeps.stopWith (code : Nat) : Keeps t r op (stopWith code : Eng α) := Ends.throw _
theorem Keeps.require (b : Bool) (code : Nat) : Keeps t r op (require b code) := Ends.require b code

theorem Keeps.modS {f : State → State} (h : ∀ s, (f s).arr = s.arr) : Keeps t r op (modS f) :=
  Ends.modS fun c hc => ⟨(h c.s).trans hc.arr, hc.ref, hc.code⟩

theorem Keeps.get_bind {f : Ectx → Eng β} (h : ∀ c, RunsAt t r op c → Keeps t r op (f c)) : Keeps t r op (get >>= f) :=
  Ends.get_bind h

theorem getS_keeps : Keeps t r op getS := by
  unfold getS
  exact .get_bind fun c _ => .pure _

theorem Keeps.getS_bind {f : State → Eng β} (h : ∀ s, s.arr = t → Keeps t r op (f s)) : Keeps t r op (getS >>= f) := by
  unfold getS
  rw [bind_assoc]
  exact .get_bind fun c hc => h c.s hc.arr

theorem Keeps.ite {b : Prop} [Decidable b] {m n : Eng α} (h : Keeps t r op m) (h' : Keeps t r op n) :
    Keeps t r op (if b then m else n) := Ends.ite h h'

theorem Keeps.optional {b : Prop} [Decidable b] {m : Eng Unit} {k : Unit → Eng β} (h : Keeps t r op m)
    (g : Keeps t r op (k ())) : Keeps t r op (if b then m >>= k else k ()) := Ends.optional h g

theorem Keeps.eachDo {f : α → Eng Unit} (h : ∀ x, Keeps t r op (f x)) (xs : List α) : Keeps t r op (eachDo f xs) :=
  Ends.eachDo h xs

theorem Keeps.mapDo {f : α → Eng β} (h : ∀ x, Keeps t r op (f x)) (xs : List α) : Keeps t r op (mapDo f xs) :=
  (Ends.mapDo h xs).mono fun _ _ h => h.2

/-! ## Reads (R10, R28, R240) -/

theorem takeTurn_keeps (k : Nat) : Keeps t r op (takeTurn k) := by
  refine .get_bind fun c hc => ?_
  split
  · exact .pure _
  · refine .ite (Ends.modify fun c' hc' => ⟨?_, hc'.ref, hc'.code⟩) (.throw _)
    simpa using hc'.arr

theorem rdSpan_keeps (n off len : Nat) : Keeps t r op (rdSpan n off len) := by
  refine .get_bind fun c _ => ?_
  extract_lets o l body
  clear_value l
  refine .optional (takeTurn_keeps _) ?_
  dsimp only [body]
  split
  · split
    · exact .bind (.modS fun s => countBytes_arr _ _ _ _) fun _ => .pure _
    · exact .stopWith _
  · refine .ite ?_ (.throw _)
    split
    · exact .pure _
    · exact .stopWith _
  · split
    · exact .pure _
    · exact .stopWith _
    · exact .throw _
  · split
    · exact .pure _
    · exact .stopWith _
  · exact .throw _

theorem sampleRead_keeps (n off len : Nat) : Keeps t r op (sampleRead n off len) := by
  refine .get_bind fun c _ => .eachDo (fun p => .modS fun s => ?_) _
  split
  · exact sampleAccess_arr _ _ _ _ _ _
  · rfl

theorem rdPlain_keeps (n off len : Nat) : Keeps t r op (rdPlain n off len) := by
  unfold rdPlain
  refine .bind (.modS fun _ => (askHost_arr _ _ _ _).trans (snoopRange_arr _ _ _ _ _)) fun _ => ?_
  exact .bind (.mapDo (fun _ => rdSpan_keeps _ _ _) _) fun _ => .bind (sampleRead_keeps n off len) fun _ => .pure _

theorem queryVer_keeps (o : Obj) : Keeps t r op (queryVer o) := by
  refine .get_bind fun c _ => ?_
  split
  · exact .pure _
  · exact .bind (.require _ _) fun _ => .bind (Ends.modify fun c hc => ⟨hc.arr, hc.ref, hc.code⟩) fun _ => .pure _
  · exact .stopWith _

theorem rdUnder_keeps (o : Obj) (off len v : Nat) : Keeps t r op (rdUnder o off len v) := by
  refine .getS_bind fun s _ => ?_
  split
  · exact .bind (.modS fun s => countRange_arr _ _ _ _ _) fun _ => .bind (sampleRead_keeps _ _ _) fun _ => .pure _
  · exact rdPlain_keeps _ _ _

theorem rdObj_keeps (n off len : Nat) : Keeps t r op (rdObj n off len) := by
  refine .get_bind fun c _ => ?_
  extract_lets o
  refine .ite (.bind (queryVer_keeps o) fun v => ?_) (rdPlain_keeps n off len)
  exact .bind (.mapDo (fun _ => rdUnder_keeps _ _ _ _) _) fun _ => .pure _

theorem rdH_keeps (h len : Nat) : Keeps t r op (rdH h len) := rdObj_keeps _ _ _

theorem rdNat_keeps (h len : Nat) : Keeps t r op (rdNat h len) := by
  unfold rdNat
  exact .bind (rdH_keeps h len) fun _ => .pure _

/-! ## Writes -/

theorem postWrite_keeps (coord h aux : Nat) (flag : Bool) (bs : List Byte) : Keeps t r op (postWrite coord h aux flag bs) :=
  .get_bind fun _ _ => .bind (.modS fun _ => postTxn_arr _ _ _ _ _ _) fun _ => Ends.modify fun _ hc => ⟨hc.arr, hc.ref, hc.code⟩

theorem wrSpan_keeps (n off : Nat) (flag : Bool) (bs : List Byte) : Keeps t r op (wrSpan n off flag bs) := by
  refine .get_bind fun c _ => ?_
  extract_lets o l body
  clear_value l
  refine .optional (takeTurn_keeps _) ?_
  dsimp only [body]
  split
  · exact .modS fun _ => (countBytes_arr _ _ _ _).trans ((markDirty_arr _ _ _).trans (writePhys_arr _ _ _))
  · exact .throw _
  · exact postWrite_keeps _ _ _ _ _
  · exact .stopWith _
  · exact .throw _

theorem wrSpans_keeps (n off : Nat) (flag : Bool) (bs : List Byte) : Keeps t r op (wrSpans n off flag bs) :=
  .eachDo (fun _ => wrSpan_keeps _ _ _ _) _

theorem wrPiece_keeps (n off : Nat) (flag : Bool) (bs : List Byte) : Keeps t r op (wrPiece n off flag bs) := by
  refine .get_bind fun c _ => ?_
  extract_lets o l die
  clear_value l
  split
  · exact .ite (postWrite_keeps _ _ _ _ _) (wrSpans_keeps _ _ _ _)
  · exact .bind (wrSpans_keeps _ _ _ _) fun _ => .modS fun s => sampleAccess_arr _ _ _ _ _ _
  · exact wrSpans_keeps _ _ _ _

theorem wrObj_keeps (n off : Nat) (bs : List Byte) : Keeps t r op (wrObj n off bs) := by
  refine .get_bind fun c _ => .bind (.modS fun s => snoopRange_arr _ _ _ _ _) fun _ => ?_
  extract_lets o write
  have hwrite : Keeps t r op (write ()) :=
    .bind (.eachDo (fun p => .bind (wrPiece_keeps _ _ _ _) fun _ => .modS fun s => clearCovered_arr _ _ _ _) _) fun _ =>
      .modS fun s => afterWrite_arr _ _ _ _
  refine .getS_bind fun s hs => ?_
  split
  · exact .throw _
  · exact .stopWith _
  next s' hd =>
    have hs' : s'.arr = t := (draftRows_arr hd).trans hs
    exact .optional (takeTurn_keeps _) (.bind (Ends.modS fun _ hc => ⟨hs', hc.ref, hc.code⟩) fun _ => hwrite)

theorem wrH_keeps (h : Nat) (bs : List Byte) : Keeps t r op (wrH h bs) := wrObj_keeps _ _ _

end

end Sys2Proof.Scope

/-! The Millstone arrays (R93 to R105, R110): the start of a matrix descriptor, a swap, the stream of a stationary, the drain of
a row. -/

namespace Sys2Proof.Scope
open Sys2Proof Sys2Proof.Machine Sys2Proof.Machine.Claim

section
variable {t : Tab ArrUnit} {r : WRef} {op : Nat}

/-! ## Operand blocks (R34 to R38, R100 to R104) -/

theorem readElems_keeps (h : Nat) (f : Fmt) (lo n : Nat) : Keeps t r op (readElems h f lo n) := by
  unfold readElems
  exact .ite (.pure _) (.bind (rdH_keeps _ _) fun _ => .pure _)

theorem readMants_keeps (h : Nat) (f : Fmt) (n : Nat) : Keeps t r op (readMants h f n) := by
  unfold readMants
  exact .bind (rdH_keeps _ _) fun _ => .pure _

theorem lineBlk_keeps (h : Nat) (f : Fmt) (p len b : Nat) : Keeps t r op (lineBlk h f p len b) := by
  unfold lineBlk
  exact .ite (.bind (rdNat_keeps _ _) fun _ => .bind (readMants_keeps _ _ _) fun _ => .pure _)
    (.bind (readElems_keeps _ _ _ _) fun _ => .pure _)

theorem sparseMeta_keeps (h : Nat) (f : Fmt) (n g : Nat) : Keeps t r op (sparseMeta h f n g) := by
  unfold sparseMeta
  exact .bind (rdNat_keeps _ _) fun _ => .pure _

theorem sparseBlk_keeps (h : Nat) (f : Fmt) (p len b : Nat) : Keeps t r op (sparseBlk h f p len b) := by
  unfold sparseBlk
  refine .bind (.mapDo (fun _ => sparseMeta_keeps _ _ _ _) _) fun _ => .ite ?_ ?_
  · exact .bind (rdNat_keeps _ _) fun _ => .bind (readMants_keeps _ _ _) fun _ => .pure _
  · exact .bind (readElems_keeps _ _ _ _) fun _ => .pure _

theorem sparseElem_keeps (h : Nat) (f : Fmt) (len j : Nat) : Keeps t r op (sparseElem h f len j) := by
  unfold sparseElem
  exact .bind (sparseMeta_keeps _ _ _ _) fun _ => .ite (.bind (readElems_keeps _ _ _ _) fun _ => .pure _)
    (.ite (.bind (readElems_keeps _ _ _ _) fun _ => .pure _) (.pure _))

theorem wgtBlk_keeps (w : Work) (j b : Nat) : Keeps t r op (wgtBlk w j b) := by
  unfold wgtBlk
  refine .ite (.ite ?_ ?_) (.ite (sparseBlk_keeps _ _ _ _ _) (lineBlk_keeps _ _ _ _ _))
  · exact .bind (.mapDo (fun _ => sparseElem_keeps _ _ _ _) _) fun _ => .pure _
  · exact .bind (.mapDo (fun _ => .bind (readElems_keeps _ _ _ _) fun _ => .pure _) _) fun _ => .pure _

/-! ## The start of a matrix descriptor (R97, R110) -/

theorem readMax_keeps (w : Work) (h expert : Nat) (isCol : Bool) (i : Nat) : Keeps t r op (readMax w h expert isCol i) := by
  unfold readMax
  exact .getS_bind fun _ _ => .bind (rdNat_keeps _ _) fun _ => .pure _

theorem colMax_keeps (w : Work) (auxH expert j : Nat) : Keeps t r op (colMax w auxH expert j) := by
  unfold colMax
  refine .ite (.pure _) (.ite (readMax_keeps _ _ _ _ _) ?_)
  exact .bind (.mapDo (fun _ => wgtBlk_keeps _ _ _) _) fun _ => .pure _

theorem binHead_keeps (w : Work) : Keeps t r op (binHead w) := by
  unfold binHead
  exact .bind (rdH_keeps _ _) fun _ => .pure _

/-- The bin list gives the descriptor its rows: it stays the same descriptor (R173). -/
theorem loadBin_ends {w : Work} (hr : w.ref = r) (ho : w.op = op) :
    Ends (RunsAt t r op) (loadBin w) fun x c => (x.1.ref = r ∧ x.1.op = op) ∧ RunsAt t r op c := by
  unfold loadBin
  refine .ite ?_ (.pure fun _ hc => ⟨⟨hr, ho⟩, hc⟩)
  refine .bind getS_keeps fun _ => .bind (Keeps.require _ _) fun _ => .bind (binHead_keeps w) fun _ =>
    .bind (Keeps.require _ _) fun _ => .bind (Keeps.require _ _) fun _ => ?_
  refine .bind (Keeps.mapDo (fun _ => rdNat_keeps _ _) _) fun ns =>
    .bind (Q := fun _ => RunsAt t r op) (Ends.modify fun _ hc => ⟨hc.arr, hc.ref, hc.code⟩) fun _ => ?_
  exact .get_bind fun c hc => .pure fun _ hc' => ⟨⟨hc.ref, hc.code⟩, hc'⟩

theorem matMemChecks_keeps (w : Work) (auxH expert : Nat) : Keeps t r op (matMemChecks w auxH expert) := by
  unfold matMemChecks
  exact .getS_bind fun _ _ => .bind (.require _ _) fun _ => .bind (.require _ _) fun _ => .bind (.require _ _) fun _ => .require _ _

theorem openAt_keeps (ks : List Nat) : Keeps t r op (openAt ks) := by
  unfold openAt
  exact .get_bind fun _ _ => .pure _

/-- The L1 words of a binding are written without a change to an array (R177). -/
theorem fillL1_keeps (b : Machine.Bind) : Keeps t r op (fillL1 b) := by
  unfold fillL1
  refine .eachDo (fun _ => .eachDo (fun _ => ?_) _) _
  exact .bind (wgtBlk_keeps _ _ _) fun _ => .bind (openAt_keeps _) fun _ => wrH_keeps _ _

/-! ## The array a descriptor takes (R97, R98) -/

theorem onward_work (w : Work) (a : ArrUnit) : (onward w a).work = a.work := by
  unfold onward nextBatch handOver
  dsimp only
  split
  · split <;> rfl
  · split <;> rfl

/-- What goes on from empty accumulators has empty ones. -/
theorem onward_acc {w : Work} {a : ArrUnit} (h : a.acc = []) : (onward w a).acc = [] := by
  have hd : (handOver w a).acc = [] := by
    unfold handOver
    split
    · simp [h]
    · exact h
  unfold onward nextBatch
  split
  · rfl
  · exact hd

/-- Before its first swap an array that streams stationaries hands nothing over (R97, R98). -/
theorem onward_of_not_begun {w : Work} {a : ArrUnit} (ho : w.op ≠ 0x0102) (hb : a.begun = false) : onward w a = a := by
  have hready (k : Nat) : tileReady w a k = false := by simp [tileReady, ho, hb]
  have hnext : nextTile w a = none := by
    unfold nextTile
    dsimp only
    split
    · simp [hready]
    · simp [hready]
  have hhand : handOver w a = a := by
    unfold handOver
    rw [hnext]
    split
    next h => cases h
    · rfl
  simp [onward, hhand, nextBatch, ho, hb]

theorem arrOf_setArr_same (s : State) (tile : Nat) (a : ArrUnit) : arrOf (setArr s tile a) tile = a := Tab.get_set_same _ _ _ _

theorem arrOf_setArr_ne (s : State) {tile k : Nat} (a : ArrUnit) (h : k ≠ tile) : arrOf (setArr s tile a) k = arrOf s k :=
  Tab.get_set_ne _ _ _ _ h

/-- An array just taken by descriptor `r`: empty accumulators, no row batch behind it but in element-wise mode; the other arrays
as in `t`. -/
structure Taken (t : Tab ArrUnit) (r : WRef) (op tile : Nat) (s : State) : Prop where
  work : (arrOf s tile).work = some r
  first : op ≠ 0x0102 → (arrOf s tile).rb = 0
  acc : (arrOf s tile).acc = []
  others : ∀ k, k ≠ tile → arrOf s k = Tab.get {} t k

theorem taken_setArr {w : Work} {a : ArrUnit} {s : State} {tile : Nat} (hw : a.work = some r) (hrb : a.rb = 0) (hacc : a.acc = [])
    (hb : a.begun = false) (ho : w.op = op) (hs : s.arr = t) : Taken t r op tile (setArr s tile (onward w a)) where
  work := by rw [arrOf_setArr_same, onward_work, hw]
  first h := by rw [arrOf_setArr_same, onward_of_not_begun (ho ▸ h) hb, hrb]
  acc := by rw [arrOf_setArr_same, onward_acc hacc]
  others k hk := by rw [arrOf_setArr_ne _ _ hk, arrOf, hs]

/-- A start that ends has taken the array (R97). -/
theorem beginArr_ends (tile : Nat) : Ends (RunsAt t r op) (beginArr tile) fun _ c => Taken t r op tile c.s := by
  unfold beginArr
  refine .get_bind fun c hc => ?_
  extract_lets st
  refine .bind (Keeps.require _ _) fun _ => .bind (loadBin_ends hc.ref hc.code) fun x => .of_and fun hx => ?_
  obtain ⟨w, expert, auxH⟩ := x
  refine .bind (matMemChecks_keeps _ _ _) fun _ => ?_
  extract_lets bind bound
  clear_value bind bound
  refine .bind (Keeps.require _ _) fun _ => ?_
  refine .bind (Keeps.ite (.pure _) (.mapDo (fun _ => colMax_keeps _ _ _ _) _)) fun wmax => ?_
  extract_lets take
  have htake : Ends (RunsAt t r op) (take ()) fun _ c => Taken t r op tile c.s := by
    refine .bind (Q := fun _ => RunsAt t r op) ?_ fun _ => ?_
    · split
      · refine Keeps.ite (.bind (fillL1_keeps _) fun _ => .modS fun s => rfl) (.pure _)
      · exact Keeps.pure _
    · exact .bind (Q := fun _ c => Taken t r op tile c.s)
        (Ends.modS fun _ hc => taken_setArr (congrArg some hx.1) rfl rfl rfl hx.2 hc.arr) fun _ =>
        .get_bind fun _ _ => Ends.modS fun _ h => ⟨h.work, h.first, h.acc, h.others⟩
  refine .ite ?_ htake
  exact .bind (Keeps.mapDo (fun _ => readMax_keeps _ _ _ _ _) _) fun _ => .bind (Keeps.require _ _) fun _ => htake

end

/-! ## The accumulators of a stream (R97) -/

@[simp] theorem nextStat_acc (w : Work) (a : ArrUnit) : (nextStat w a).acc = a.acc := by
  unfold nextStat
  split
  · rfl
  · split <;> rfl

/-- Entries into other accumulators leave an accumulator. -/
theorem get_entered_ne {k : Nat} (es : List (Nat × Int × Acc)) (h : ∀ e ∈ es, e.1 ≠ k) (t : Tab Int) :
    Tab.get 0 (es.foldl (fun t e => Tab.set 0 t e.1 (Tab.get 0 t e.1 + e.2.1)) t) k = Tab.get 0 t k := by
  induction es generalizing t with
  | nil => rfl
  | cons e es ih =>
    rw [List.foldl_cons, ih (fun x hx => h x (List.mem_cons_of_mem _ hx)), Tab.get_set_ne _ _ _ _ (h e List.mem_cons_self).symm]

/-- Row and column of an accumulator are read off its key. -/
theorem accKey_inj {i j i' j' : Nat} (hj : j < 2 ^ 32) (hj' : j' < 2 ^ 32) (h : accKey i j = accKey i' j') : i = i' ∧ j = j' := by
  unfold accKey at h
  omega

/-- A stream enters the accumulators of its batch's rows and its stationary's columns, no other. -/
theorem streamStat_acc (tile : Nat) (w : Work) (a : ArrUnit) (ws : List (List OBlk)) (hcols : ∀ j ∈ a.fore.cols, j < 2 ^ 32)
    {i j : Nat} (hj : j < 2 ^ 32) (h : j ∉ a.fore.cols ∨ batchLen w a.rb ≤ i) :
    Ends (fun _ => True) (streamStat tile w a ws) fun b _ => Tab.get 0 b.acc (accKey i j) = Tab.get 0 a.acc (accKey i j) := by
  unfold streamStat
  extract_lets f base m cols streams ks
  refine .bind (.mapDo (fun _ => ends_true _) _) fun as => .of_and fun hlen => ?_
  extract_lets res acc body start
  have hbody : Ends (fun _ => True) (body ()) fun b _ => Tab.get 0 b.acc (accKey i j) = Tab.get 0 a.acc (accKey i j) := by
    refine .bind (ends_true _) fun _ => .bind (ends_true _) fun _ => .pure fun _ _ => ?_
    rw [nextStat_acc]
    refine get_entered_ne _ (fun e he => ?_) _
    obtain ⟨row, hrow, he⟩ := List.mem_flatten.mp he
    obtain ⟨r, hr, rfl⟩ := List.mem_map.mp hrow
    obtain ⟨c, hc, rfl⟩ := List.mem_map.mp he
    have hcol : c.1 ∈ a.fore.cols := (List.of_mem_zip hc).1
    have hi : r.2 < batchLen w a.rb := by simpa [hlen] using List.snd_lt_of_mem_zipIdx hr
    intro hk
    obtain ⟨rfl, rfl⟩ := accKey_inj (hcols _ hcol) hj hk
    exact h.elim (· hcol) (by omega)
  exact .optional (ends_true _) (.optional (ends_true _) hbody)

/-! ## What an array's step answers -/

section
variable {body : ArrUnit → Work → Eng ArrUnit} {tile : Nat} {s : State} {a b : ArrUnit} {w : Work} {e : Ectx}
  (after : State → Work → ArrUnit → State) (stop : State → Work → Nat → State)

theorem arrStep_of_ok (h : ((body a w).run).run (arrCtx s w) = (.ok b, e)) :
    arrStep body tile s a w after stop = pump (after (setArr (setWork e.s (arrWork w e)) tile b) (arrWork w e) b) := by
  simp only [arrStep, h]

theorem arrStep_of_status {code : Nat} (h : ((body a w).run).run (arrCtx s w) = (.error (.status code), e)) :
    arrStep body tile s a w after stop = pump (stop e.s (arrWork w e) code) := by
  simp only [arrStep, h]

end

/-- An array that runs a descriptor swaps, unless no swap comes. -/
theorem exec_swap {s : State} {tile : Nat} {a : ArrUnit} {w : Work} (hr : arrRun s tile = some (a, w)) (hh : swapHeld w a = false) :
    exec (.swap tile) s =
      .next (arrStep (swapOne tile) tile s a w (fun s _ _ => s) (fun s w c => failArr s tile a w c)) := by
  show execSwap tile s = _
  simp [execSwap, hr, hh]

/-- An array that drains a tile drains a row, unless the drain waits. -/
theorem exec_drainRow {s : State} {tile : Nat} {a : ArrUnit} {w : Work} {d : DrainTile} (hr : arrRun s tile = some (a, w))
    (hd : a.drain = some d) (hh : drainHeld s tile a w = false) :
    exec (.drainRow tile) s =
      .next (arrStep (drainOne tile d) tile s a w (afterRow tile) (fun s w c => endArr s tile w (a.failed.getD c))) := by
  show execDrainRow tile s = _
  simp [execDrainRow, hr, hd, hh]

/-- A descriptor has drained its last row when its array drains no tile and no batch is left. -/
theorem allDrained_and_not_raw_iff (w : Work) (a : ArrUnit) :
    (allDrained w a && w.mMode != 2) = true ↔ a.drain = none ∧ w.mM ≤ a.rb * batchMax w.mFmt ∧ w.mMode ≠ 2 := by
  simp [allDrained, batchLeft, and_assoc]

section
variable {a : ArrUnit} (tile : Nat) (s : State) (w : Work)

/-- A failed descriptor ends when the tile that drained is out. -/
theorem afterRow_of_failed {code : Nat} (h : a.failed = some code) :
    afterRow tile s w a = if a.drain = none then endArr s tile w code else s := by
  simp only [afterRow, h, Option.isNone_iff_eq_none]

/-- Another ends after its last row, but in mode RAW. -/
theorem afterRow_of_not_failed (h : a.failed = none) : afterRow tile s w a =
    if a.drain = none ∧ w.mM ≤ a.rb * batchMax w.mFmt ∧ w.mMode ≠ 2 then endArr s tile w 0x0000 else s := by
  simp only [afterRow, h, allDrained_and_not_raw_iff, Status.ok]

end

/-! ## The start of each opcode -/

/-- The four matrix commands start their opcode. -/
theorem exec_matrix {c : WRef → Instr} {op : Nat} (h : (c, op) = (Instr.denseContraction, 0x0100) ∨
    (c, op) = (Instr.sparseContraction, 0x0101) ∨ (c, op) = (Instr.elementWiseProduct, 0x0102) ∨
    (c, op) = (Instr.expertRoutedContraction, 0x0103)) (r : WRef) (s : State) : exec (c r) s = .next (startArr op r s) := by
  obtain h | h | h | h := h
  all_goals
    obtain ⟨rfl, rfl⟩ := Prod.mk.inj h
    rfl

/-- The context in which a matrix descriptor starts on a tile. -/
def startRun (s1 : State) (w : Work) (tile : Nat) : Ectx :=
  { s := (started s1 w tile).1, w := (started s1 w tile).2, die := w.die }

section
variable {op : Nat} {r : WRef} {s s1 : State} {w : Work} {tile : Nat} {e : Ectx} (hs : Starts op r s w)
  (ht : tileFor (markReady s) w = some tile) (hi : issue (markReady s) w = some s1)
include hs ht hi

/-- The effects of a start that passes its checks stand. -/
theorem startArr_of_ok (h : (beginArr tile).run.run (startRun s1 w tile) = (.ok (), e)) : startArr op r s = e.s := by
  unfold startRun at h
  simp [startArr, hs.found, hs.code, hs.fetched, hs.runs, hs.may, hs.live, hs.checks, ht, hi, h]

/-- A descriptor that fails a check of its start is done, with that status. -/
theorem startArr_of_status {code : Nat} (h : (beginArr tile).run.run (startRun s1 w tile) = (.error (.status code), e)) :
    startArr op r s = setWork e.s { (started s1 w tile).2 with phase := .done, status := code } := by
  unfold startRun at h
  simp [startArr, hs.found, hs.code, hs.fetched, hs.runs, hs.may, hs.live, hs.checks, ht, hi, h]

end

/-- A descriptor that starts runs under its own name and opcode, and no array has changed. -/
theorem startRun_runsAt {op : Nat} {r : WRef} {s s1 : State} {w : Work} (hs : Starts op r s w) (tile : Nat) :
    RunsAt s1.arr r op (startRun s1 w tile) := ⟨rfl, (findWork_ref hs.found :), (hs.code :)⟩

/-- Settles O19: a start by how its checks end, a swap and a drained row by how the array's step ends, and the frame of a
stream. -/
theorem matrixEngines : Obligations.MatrixEngines := by
  refine ⟨fun c op hc s s1 r w tile hs ht hi => ?_, ?_, ?_, ?_, ?_, ?_⟩
  · extract_lets w1 x
    refine ⟨fun code hx => ?_, fun hx => ?_⟩
    · rw [exec_matrix hc, startArr_of_status hs ht hi (Prod.ext hx rfl)]
      rfl
    · obtain ⟨work, first, acc, others⟩ := beginArr_ends tile _ _ _ (startRun_runsAt hs tile) (Prod.ext hx rfl)
      exact ⟨by rw [exec_matrix hc, startArr_of_ok hs ht hi (Prod.ext hx rfl)]; rfl, work, first, acc, others⟩
  · intro s tile a b w e hh hstep
    rw [exec_swap hstep.runs hh, arrStep_of_ok _ _ hstep.ends]
  · intro s tile a w e code hr hh he
    rw [exec_swap hr hh, arrStep_of_status _ _ he]
  · intro s tile a b w e d hd hh hstep u
    rw [exec_drainRow hstep.runs hd hh, arrStep_of_ok _ _ hstep.ends]
    cases hf : b.failed with
    | some code => exact congrArg (Host.Outcome.next <| pump ·) (afterRow_of_failed _ _ _ hf)
    | none => exact congrArg (Host.Outcome.next <| pump ·) (afterRow_of_not_failed _ _ _ hf)
  · intro s tile a w e d code hr hd hh he
    rw [exec_drainRow hr hd hh, arrStep_of_status _ _ he]
  · intro tile w a ws b c e hr hcols i j hj h
    exact streamStat_acc tile w a ws hcols hj h c b e trivial hr

end Sys2Proof.Scope

/-! Stores that reach a memory unit R294 does not have. Key 0x32001500 is DDR_WRITE_BYTES of channel 0 (R333); it is also where
the model reads the DDR_STATE of a channel 0x500. The store of one lane to channel 0 counts its bytes there, so it decides
whether the next lane's bytes, in a frame of channel 0x500, are served (R482). -/

namespace Sys2Proof.Scope
open Sys2Proof Sys2Proof.Machine Sys2Proof.Machine.Claim Sys2Proof.Tests

/-- The channel whose state word is the write counter of channel 0. -/
def writeGhost : Nat := Key.ddrWriteBytes - Key.ddrState

/-- The module with a store instruction of two lanes, of these items, which hold 1 and 2. -/
def storePair (word : Nat) (items : List Nat) : State :=
  { vecState word with vec := [(0, { unitOn word with preds := [(0, [true, true])], items := items, regs := [(0, [1#32, 2#32])] })] }

/-! ## A byte no access reaches -/

/-- An STI of raw words to an object whose first page is in channel 0 and whose second in the ghost channel, which has failed. -/
def strayStore : State :=
  setReg { storePair 0x72 [0, 16384] with
    objs := [(1, { plainObj with rows := 131072, pages := [{ page := 0, home := .frame (65536 * channelFrame 0) },
      { page := 1, home := .frame (65536 * channelFrame writeGhost) }] })] } Key.ddrWriteBytes 5

/-- What the unit sees of it. -/
def strayRun : VRun := vecRun strayStore 0 (work 0x0200 [] .running) (VIns.of 0x72)

/-- The byte of a state its stores leave at the start of the ghost channel. -/
def strayByte : Option Byte :=
  (storeRun strayRun false strayStore).toOption.map (fun r => byteAt r.1 (65536 * channelFrame writeGhost))

/-- The second lane's word is written: the first lane's count has brought the channel back. -/
theorem strayByte_written : strayByte = some 2 := by decide +kernel

/-- Byte `a` lies in a piece of a range that is served here. -/
def reachedIn (s : State) (n a : Nat) (p : Int × Nat) : Bool :=
  (spans16 p.1.toNat p.2).any (fun q => match locate s (objOf s n) q.1 with
    | .here b => decide (b ≤ a) && decide (a < b + q.2)
    | _ => false)

/-- A byte accesses reach lies in a piece of one of them. -/
theorem reachedIn_of_reached {s : State} {n a : Nat} {as : List LaneAcc} (h : reached s n as a) :
    as.any (fun x => x.spans.any (reachedIn s n a)) = true := by
  obtain ⟨x, hx, p, hp, q, hq, b, hl, h1, h2⟩ := h
  refine List.any_eq_true.mpr ⟨x, hx, List.any_eq_true.mpr ⟨p, hp, List.any_eq_true.mpr ⟨q, hq, ?_⟩⟩⟩
  simp [hl, h1, h2]

/-- Before the store the ghost channel serves no access. -/
theorem strayStore_unreached : ¬ reached strayStore strayRun.memObj (strayRun.accs false) (65536 * channelFrame writeGhost) :=
  fun h => absurd (reachedIn_of_reached h) (by decide +kernel)

/-- What an answer turned into an option was. -/
theorem ok_of_toOption {ε α : Type} {x : Except ε α} {a : α} (h : x.toOption = some a) : x = .ok a := by
  cases x with
  | ok b => exact congrArg Except.ok (Option.some.inj h)
  | error e => nomatch h

/-- Refutes O5: the store of the first lane counts its 4 bytes into the state word of the failed channel that homes the second
lane's, which is then written, though no access reached it in the state the instruction was issued in. -/
theorem not_storesOnlyReached : ¬ Obligations.StoresOnlyReached := by
  intro h
  have hw := strayByte_written
  unfold strayByte at hw
  obtain ⟨r, hr, hb⟩ := Option.map_eq_some_iff.mp hw
  have hk := h strayRun false strayStore r ⟨rfl, rfl, by decide +kernel⟩ (ok_of_toOption hr) _ strayStore_unreached
  exact absurd (hb.symm.trans hk) (by decide +kernel)

/-! ## A nibble that can not be read again -/

/-- STI of S4 elements held as integers. -/
def nibbleSti : Nat := 0x72 + 3 * 2 ^ 41

/-- An STI to two rows of a table in the slice of tile 0 that have moved, one to channel 0, one to the ghost channel. -/
def movedRows : State :=
  setReg { storePair nibbleSti [0, 128] with
    objs := [(1, { plainObj with fmt := 0, rowlen := 1, rows := 2 })]
    dir := { guests := [{ obj := 1, row := 0, addr := 65536 * channelFrame 0 },
      { obj := 1, row := 1, addr := 65536 * channelFrame writeGhost }] } }
    Key.ddrWriteBytes 4

/-- What the unit sees of it. -/
def movedRun : VRun := vecRun movedRows 0 (work 0x0200 [] .running) (VIns.of nibbleSti)

/-- The instruction is issued, and no access stops it. -/
theorem movedRows_issues : Issues movedRows 0 0x72 (work 0x0200 [] .running) (VIns.of nibbleSti) ∧
    accsStop (work 0x0200 [] .running) movedRows movedRun.memObj true (movedRun.accs false) = none :=
  ⟨⟨by decide +kernel, by decide +kernel, by decide +kernel⟩, by decide +kernel⟩

/-- The first lane's count stops the second lane's store. -/
theorem movedRows_stores_stop :
    (storeRun movedRun false (sampleSpans movedRows 0 movedRun.memObj (movedRun.accs false))).isOk = false := by decide +kernel

/-- Refutes O4, in its clause of STI: the store of the first lane's nibble counts one byte into the state word of the channel that
homes the second lane's byte, which a store of a nibble reads; the stores stop with FAULT_POISON, though nothing is poisoned. -/
theorem not_vectorMemory : ¬ Obligations.VectorMemory := by
  rintro ⟨⟨-, -, hsti, -⟩, -⟩
  obtain ⟨hi, ha⟩ := movedRows_issues
  obtain ⟨-, hends⟩ := hsti movedRows 0 _ _ hi rfl ha
  obtain ⟨r, hr⟩ : ∃ r, storeRun movedRun false (sampleSpans movedRows 0 movedRun.memObj (movedRun.accs false)) = .ok r :=
    hends ⟨rfl, rfl, by decide +kernel⟩ rfl
  have hstop := movedRows_stores_stop
  rw [hr] at hstop
  nomatch hstop

end Sys2Proof.Scope

/-! A drain-coupled program on a tile the module does not have. The statement leaves the tile of the paired matrix descriptor free, and
with it the key of the counter of programs loaded there (R118), which can so be the state word of a memory unit. -/

namespace Sys2Proof.Scope
open Sys2Proof Sys2Proof.Machine Sys2Proof.Machine.Claim Sys2Proof.Tests

/-- The tile whose counter of programs loaded is the state word of channel 0. -/
def ghostTile : Nat := Key.ddrState - Key.vecProgLoads

/-- A matrix descriptor that runs on the ghost tile, and the drain-coupled program it is paired with, which lies where R294 has no
slice and the model a part of channel 0; the channel's state is one below that of a failed one. -/
def ghostCoupled : State :=
  setReg { matS (vecDesc 0x0201) with
    work := [vecDesc 0x0201, { matWork 0x0100 4 1 .running with ref := .q 0 1, unit := ghostTile }]
    objs := Tab.set {} (matS (vecDesc 0x0201)).objs 1 { plainObj with pages := [{ page := 0, home := .frame (sliceBase 72) }] } }
    Key.ddrState 4

/-- The module after the dispatcher's decision. -/
def ghostIssued : State := (issue (markReady ghostCoupled) (vecDesc 0x0201)).getD noon

/-- Loading the program brings the count, and the state word, to that of a failed channel: the program can not be read. -/
theorem ghostCoupled_ends : outcomeAfter (.drainCoupledProgram q0) ghostCoupled = some (.done, Status.poison) := by decide +kernel

/-- Refutes O6, in its clause of DRAIN_COUPLED_PROGRAM: the statement leaves the tile of the paired matrix descriptor free, so that
the counter of programs loaded there can be the state word of the unit that holds the program. -/
theorem not_vectorPrograms : ¬ Obligations.VectorPrograms := by
  rintro ⟨-, hstart⟩
  have hs : Still ghostCoupled := still_of (by decide +kernel)
  obtain ⟨t, ht, hw, -⟩ := hstart .drainCoupledProgram 0x0201 (.inr rfl) ghostCoupled ghostIssued q0 (vecDesc 0x0201) ghostTile
    (starts_of (by decide +kernel)) (by decide +kernel) (by decide +kernel) (by decide +kernel) (by decide +kernel) hs
    (lies_of hs (by decide +kernel)) (lies_of hs (by decide +kernel)) (by decide +kernel)
  have hend := outcomeAfter_of_next ht hw
  rw [ghostCoupled_ends] at hend
  exact absurd (congrArg (·.map Prod.fst) hend) (by decide +kernel)

end Sys2Proof.Scope

/-! Instructions of a vector unit that touch neither memory nor the drain: what each reads of its unit, lane by lane. -/

namespace Sys2Proof.Scope
open Sys2Proof Sys2Proof.Machine Sys2Proof.Machine.Claim

/-! ## Lanes of lists -/

/-- An entry of two lists combined entry by entry. -/
theorem getD_zipWith {α β γ : Type} (f : α → β → γ) (as : List α) (bs : List β) (a : α) (b : β) (c : γ) {l : Nat}
    (ha : l < as.length) (hb : l < bs.length) : (List.zipWith f as bs).getD l c = f (as.getD l a) (bs.getD l b) := by
  simp [List.getD_eq_getElem?_getD, ha, hb]

/-- An entry of a list whose entries were replaced. -/
theorem getD_map_of_lt {α β : Type} (f : α → β) (as : List α) (a : α) (b : β) {l : Nat} (h : l < as.length) :
    (as.map f).getD l b = f (as.getD l a) := by
  simp [List.getD_eq_getElem?_getD, h]

/-- An entry of a list of the lanes. -/
theorem getD_map_range {α : Type} (f : Nat → α) (a : α) {l : Nat} (h : l < 512) : ((List.range 512).map f).getD l a = f l := by
  rw [List.getD_eq_getElem _ _ (by simpa using h), List.getElem_map, List.getElem_range]

/-! ## An instruction issued -/

/-- Every lane has an item. -/
theorem items_length_ge (x : VRun) : 512 ≤ x.items.length := by
  simp [VRun.items, -List.reduceReplicate]
  omega

/-- An instruction that is issued retires, and past the last one the batch ends. -/
theorem next_vecPure {s : State} {tile op : Nat} {w : Work} {i : VIns} (f : VRun → VOut) (h : Issues s tile op w i) :
    Host.Outcome.next (vecPure op f tile s) =
      (.next (batchOver (retired s tile w (vecOf s tile) (f (vecRun s tile w i))) tile) : Res) :=
  congrArg Host.Outcome.next ((vecPure_issues f h).trans (retire_eq _ _ _ _ _))

/-! ## Control -/

/-- A branch moves the position alone. -/
theorem branch_u (x : VRun) (b : Bool) :
    x.branch b = { u := { x.u with pos := if b then ((x.pos : Int) + x.i.imm).toNat else x.u.pos } } := by
  cases b <;> rfl

/-- LOOP branches where the counter does not come to 0. -/
theorem vLoop_u (x : VRun) :
    ({ x.branch (x.u.l x.i.vd - 1 != 0) with
        u := { (x.branch (x.u.l x.i.vd - 1 != 0)).u with
          loops := Tab.set 0 (x.branch (x.u.l x.i.vd - 1 != 0)).u.loops (x.i.vd % 4) (x.u.l x.i.vd - 1) } } : VOut) =
      { u := withLoop { x.u with pos := if x.u.l x.i.vd - 1 = 0 then x.u.pos else ((x.pos : Int) + x.i.imm).toNat } x.i.vd
          (x.u.l x.i.vd - 1) } := by
  by_cases h : x.u.l x.i.vd - 1 = 0 <;> simp [branch_u, withLoop]

/-- The sum of two offsets in the 40 bits of an offset field. -/
theorem addOff_ofNat (h d : Nat) : addOff h d = BitVec.ofNat 64 (hObj h * 2 ^ 40 + (hOff h + d) % 2 ^ 40) := by
  unfold addOff unsigned
  norm_cast

/-! ## Selection and predicates -/

/-- Lanes without events count nothing. -/
theorem accLanes_of_quiet {rs : List LaneRes} (h : rs.all quietLane = true) : accLanes rs = {} := by
  unfold accLanes
  induction rs with
  | nil => rfl
  | cons r rs ih =>
    obtain ⟨hr, hrs⟩ := Bool.and_eq_true_iff.mp h
    cases r with
    | none => exact ih hrs
    | some v =>
      obtain ⟨word, events⟩ := v
      obtain rfl : events = [] := List.isEmpty_iff.mp hr
      exact ih hrs

/-- Writing lanes without events writes the register alone. -/
theorem put_of_quiet (x : VRun) (u : VecUnit) (r : Nat) {rs : List LaneRes} (h : rs.all quietLane = true) :
    x.put u r rs = { u := u.setReg r (mergeLanes x.i.zm rs (u.reg r)) } := by
  rw [VRun.put, if_pos h, accLanes_of_quiet h]
  rfl

/-- A result without events, on some lanes, is quiet. -/
theorem lanesOn_quiet (g : Nat → Word → Word → Word → Word) (ms : List Bool) (ts : List Nat) (as bs cs : List Word) :
    (lanesOn ms ts as bs cs (fun t a b c => (g t a b c, []))).all quietLane = true := by
  induction ms generalizing ts as bs cs with
  | nil => rfl
  | cons m ms ih =>
    cases ts with
    | nil => rfl
    | cons t ts => cases as with
      | nil => rfl
      | cons a as => cases bs with
        | nil => rfl
        | cons b bs => cases cs with
          | nil => rfl
          | cons c cs => cases m <;> simp [lanesOn, quietLane, ih]

/-- The words SEL chooses from (R122). -/
def selected (u : VecUnit) (i : VIns) : List Word :=
  List.zipWith (fun (p : Bool) (ab : Word × Word) => if p then ab.1 else ab.2) (u.pred i.qs) (List.zip (u.reg i.va) (u.reg i.vb))

theorem selected_length (u : VecUnit) (i : VIns) : (selected u i).length = 512 := by simp [selected]

theorem selected_getD (u : VecUnit) (i : VIns) {l : Nat} (h : l < 512) :
    (selected u i).getD l 0 = if (u.pred i.qs).getD l false then (u.reg i.va).getD l 0 else (u.reg i.vb).getD l 0 := by
  have hzip : ((u.reg i.va).zip (u.reg i.vb)).getD l (0, 0) = ((u.reg i.va).getD l 0, (u.reg i.vb).getD l 0) :=
    getD_zipWith Prod.mk _ _ _ _ _ (by simpa using h) (by simpa using h)
  rw [selected, getD_zipWith _ _ _ false (0, 0) _ (by simpa using h) (by simpa using h), hzip]

/-- SEL, on the lanes of Q0. -/
theorem sel_writes (s : State) (tile : Nat) (w : Work) (i : VIns) (h : Issues s tile 0x31 w i) :
    ∃ t v, exec (.sel tile) s = .next (batchOver t tile) ∧ v.length = 512 ∧
      (∀ l, l < 512 → v.getD l 0 =
        if ((vecOf s tile).pred 0).getD l false then
          (if ((vecOf s tile).pred i.qs).getD l false then ((vecOf s tile).reg i.va).getD l 0
           else ((vecOf s tile).reg i.vb).getD l 0)
        else if i.zm then 0 else ((vecOf s tile).reg i.vd).getD l 0) ∧
      Stepped s t tile w w ((passed (vecOf s tile)).setReg i.vd v) {} := by
  let x := vecRun s tile w i
  let rs := lanesOn ((vecOf s tile).pred 0) x.items (selected (vecOf s tile) i) (selected (vecOf s tile) i)
    (selected (vecOf s tile) i) (fun _ a _ _ => (a, []))
  obtain ⟨hlen, hlane⟩ := lanesOn_getD ((vecOf s tile).pred 0) x.items (selected (vecOf s tile) i) (selected (vecOf s tile) i)
    (selected (vecOf s tile) i) (fun _ a _ _ => (a, [])) 512 (by simp) (items_length_ge x)
    (selected_length _ _) (selected_length _ _) (selected_length _ _)
  obtain ⟨hmlen, hmerge⟩ := mergeLanes_getD i.zm rs ((vecOf s tile).reg i.vd) (by simp [rs, hlen])
  have hput := put_of_quiet x x.u i.vd (lanesOn_quiet (fun _ a _ _ => a) ((vecOf s tile).pred 0) x.items (selected (vecOf s tile) i)
    (selected (vecOf s tile) i) (selected (vecOf s tile) i))
  have hstep := retire_stepped (tile := tile) (w := w) (o := x.put x.u i.vd rs) h.found (by rw [hput])
  refine ⟨retired s tile w (vecOf s tile) (x.put x.u i.vd rs), mergeLanes i.zm rs ((vecOf s tile).reg i.vd),
    next_vecPure _ h, by simp [hmlen], fun l hl => ?_, ?_⟩
  · rw [hmerge l (by simpa using hl), hlane l hl, selected_getD _ _ hl]
    cases ((vecOf s tile).pred 0).getD l false <;> rfl
  · rw [hput] at hstep ⊢
    exact hstep

/-- A predicate of the elements of two registers, lane by lane (R123). -/
theorem writesBits_test {c : Nat → Instr} {op : Nat} (g : VRun → Nat → Nat → Bool) (f : VecUnit → VIns → Nat → Bool)
    (hc : ∀ tile s, exec (c tile) s = .next (vecPure op (fun x => x.test (g x)) tile s))
    (hf : ∀ s tile w i l, (List.zipWith (g (vecRun s tile w i)) (elems (tyFmt i) (((vecOf s tile).reg i.va).getD l 0))
      (elems (tyFmt i) (((vecOf s tile).reg i.vb).getD l 0))).any id = f (vecOf s tile) i l) : WritesBits c op f :=
  writesBits_of _ (fun x => List.zipWith (fun a b => (List.zipWith (g x) (elems x.fmt a) (elems x.fmt b)).any id)
    (x.u.reg x.i.va) (x.u.reg x.i.vb)) hc (fun _ _ _ _ => rfl) fun s tile w i =>
      ⟨by simp, fun _ hl => (getD_zipWith _ _ _ 0 0 _ (by simpa using hl) (by simpa using hl)).trans (hf s tile w i _)⟩

/-- A test of the elements of VA alone, as many as VB has. -/
theorem any_zipWith_elems (f : Fmt) (p : Nat → Bool) (a b : Word) :
    (List.zipWith (fun x _ => p x) (elems f a) (elems f b)).any id = (elems f a).any p := by
  unfold elems
  split <;> simp

/-- An operation on two predicates, lane by lane. -/
theorem writesBits_qop {c : Nat → Instr} {op : Nat} (g : Bool → Bool → Bool)
    (hc : ∀ tile s, exec (c tile) s = .next (vecPure op (fun x => x.qop g) tile s)) :
    WritesBits c op (fun u i l => g ((u.pred i.va).getD l false) ((u.pred i.vb).getD l false)) :=
  writesBits_of _ (fun x => List.zipWith g (x.u.pred x.i.va) (x.u.pred x.i.vb)) hc (fun _ _ _ _ => rfl) fun s tile w i =>
    ⟨by simp, fun _ hl => getD_zipWith _ _ _ false false _ (by simpa using hl) (by simpa using hl)⟩

/-- FLGQ, by the flags of each lane (R125). -/
theorem flgq_writes : WritesBits .flgq 0x94 (fun u i l => Nat.land (u.laneFlags.getD l {}).toNat (i.imm20 % 16) != 0) := by
  refine writesBits_of _ (fun x => ((x.u.laneFlags ++ List.replicate 512 ({} : Ev)).take 512).map
    (fun f => Nat.land f.toNat (x.i.imm20 % 16) != 0)) (fun _ _ => rfl) (fun _ _ _ _ => rfl) fun s tile w i => ?_
  refine ⟨by rw [List.length_map, length_padTake], fun l hl => ?_⟩
  rw [getD_map_of_lt _ _ {} _ (by rwa [length_padTake]), getD_padTake _ _ _ _ hl]
  rfl

/-- Settles O1, instruction by instruction: the control instructions by the position they leave, the others by the register, base
register or predicate they write. -/
theorem vectorControl : Obligations.VectorControl := by
  refine ⟨⟨?nop, ?bra, ?loop, ?setl, ?bany, ?bnone⟩, ⟨?movi, ?movb, ?addb, ?addbi⟩, ⟨sel_writes, ?min, ?max⟩,
    ?cmp, ?fcls, ?qand, ?qor, ?qnot, flgq_writes⟩
  case nop => exact changesUnit_of VRun.same (fun _ _ => rfl) fun _ _ _ _ => rfl
  case bra => exact changesUnit_of (·.branch true) (fun _ _ => rfl) fun _ _ _ _ => rfl
  case loop => exact changesUnit_of _ (fun _ _ => rfl) fun s tile w i => vLoop_u (vecRun s tile w i)
  case bany => exact changesUnit_of (fun x => x.branch x.anyQ) (fun _ _ => rfl) fun _ _ _ _ => by rw [branch_u, vecRun_anyQ]; rfl
  case bnone =>
    refine changesUnit_of (fun x => x.branch (!x.anyQ)) (fun _ _ => rfl) fun s tile w i => ?_
    rw [branch_u, vecRun_anyQ]
    cases (List.range 512).any (fun l => executes (vecOf s tile) i l && ((vecOf s tile).pred i.va).getD l false) <;> rfl
  case addb => exact changesUnit_of _ (fun _ _ => rfl) fun _ _ _ _ => by rw [addOff_ofNat]; rfl
  case setl | movi | movb | addbi => exact changesUnit_of _ (fun _ _ => rfl) fun _ _ _ _ => rfl
  case min | max => exact writesLanes_same _ (fun _ _ => rfl) (fun _ _ _ _ _ => rfl) fun _ _ _ _ => rfl
  case cmp => exact writesBits_test _ _ (fun _ _ => rfl) fun _ _ _ _ _ => rfl
  case fcls => exact writesBits_test _ _ (fun _ _ => rfl) fun _ _ _ _ _ => any_zipWith_elems _ _ _ _
  case qand | qor => exact writesBits_qop _ fun _ _ => rfl
  case qnot =>
    exact writesBits_of _ (fun x => (x.u.pred x.i.vb).map (!·)) (fun _ _ => rfl) (fun _ _ _ _ => rfl) fun _ _ _ _ =>
      ⟨by simp, fun _ hl => getD_map_of_lt _ _ false _ (by simpa using hl)⟩

end Sys2Proof.Scope

/-! Integer and floating instructions and functions (R122, R124, R126, R127, R133). -/

namespace Sys2Proof.Scope
open Sys2Proof Sys2Proof.Machine Sys2Proof.Machine.Claim

/-- The item of a lane. -/
theorem vecRun_items_getD (s : State) (tile : Nat) (w : Work) (i : VIns) (l : Nat) :
    (vecRun s tile w i).items.getD l 0 = (vecOf s tile).items.getD l 0 := getD_padZero _ _ _

/-- The lane numbers MOVX gives. -/
theorem laneIds_getD {l : Nat} (h : l < 512) : laneIds.getD l 0 = BitVec.ofNat 32 l := getD_map_range _ _ h

theorem laneIds_length : laneIds.length = 512 := by simp [laneIds]

/-- MOVX, by what IMM20 selects (R122). -/
theorem movx_writes : WritesQuietly .movx 0x0B (fun u i l m _ _ _ =>
    if i.imm20 = 0 then BitVec.ofNat 32 l else if i.imm20 = 1 then BitVec.ofNat 32 m else BitVec.ofNat 32 u.batch) := by
  intro s tile w i h
  obtain ⟨hlen, hlane⟩ := lanesOn_getD (vecRun s tile w i).mask (vecRun s tile w i).items laneIds laneIds laneIds
    (fun t l _ _ => ((match i.imm20 with
      | 0 => l
      | 1 => BitVec.ofNat 32 t
      | _ => BitVec.ofNat 32 (vecOf s tile).batch), [])) 512 (by simp) (items_length_ge _) laneIds_length laneIds_length laneIds_length
  obtain ⟨v, hv, hs⟩ := quiet_issues (f := fun l m _ _ _ => if i.imm20 = 0 then BitVec.ofNat 32 l
    else if i.imm20 = 1 then BitVec.ofNat 32 m else BitVec.ofNat 32 (vecOf s tile).batch) h ⟨hlen, fun l hl => by
      rw [hlane l hl, vecRun_mask _ _ _ _ _ hl, laneIds_getD hl, vecRun_items_getD, atLane]
      rcases i.imm20 with _ | _ | k <;> rfl⟩
  exact ⟨_, v, next_vecPure _ h, hv, hs⟩

/-- A rounding instruction, from the exact value it rounds (R124). -/
theorem writesLanes_flop {c : Nat → Instr} {op : Nat}
    (g : VIns → Machine.Num → Machine.Num → Machine.Num → Machine.Num × Bool)
    (hc : ∀ tile s, exec (c tile) s = .next (vecPure op (fun x => x.flop (g x.i)) tile s)) :
    WritesLanes c op (fun s tile w i => roundedOp (g i) s tile w i) :=
  writesLanes_same _ hc (fun _ _ _ _ _ => rfl) fun s tile w i => vecRun_flop s tile w i (g i)

/-- A function of one or two operands (R127). -/
theorem writesLanes_seq {c : Nat → Instr} {op : Nat} (fn : SeqFn)
    (hc : ∀ tile s, exec (c tile) s = .next (vecPure op (fun x => x.seq fn) tile s)) : WritesLanes c op (sequenceOp fn) :=
  writesLanes_same _ hc (fun _ _ _ _ _ => rfl) fun s tile w i => vecRun_seq s tile w i fn

/-- Settles O2, instruction by instruction: the model's lane function is the statement's, whatever the lane, but for MOVX. -/
theorem vectorArithmetic : Obligations.VectorArithmetic := by
  refine ⟨⟨?add, ?sub, ?mul, ?mulh, ?and, ?or, ?xor, ?andn, ?shl, ?shr, ?sra, ?addi, ?mov⟩,
    ⟨?adds, ?subs, ?muls⟩, ⟨movx_writes, ?lperm, ?rnd⟩,
    ⟨?fadd, ?fsub, ?fmul, ?fma, ?fnma, ?fms, ?fabs, ?fneg, ?tlu⟩,
    ?rcp, ?rsq, ?div, ?sqrt, ?exp, ?exp2, ?log, ?log2, ?sin, ?cos, ?tanh⟩
  case adds | subs | muls | rnd => exact writesLanes_same _ (fun _ _ => rfl) (fun _ _ _ _ _ => rfl) fun _ _ _ _ => rfl
  case fadd | fsub | fmul | fma | fnma | fms => exact writesLanes_flop (fun _ => _) fun _ _ => rfl
  case tlu => exact writesLanes_flop (fun i a _ _ => (tluValue i.imm20 a, false)) fun _ _ => rfl
  case rcp | rsq | div | sqrt | exp | exp2 | log | log2 | sin | cos | tanh => exact writesLanes_seq _ fun _ _ => rfl
  case add | sub | mul | mulh | and | or | xor | andn | shl | shr | sra | addi | mov | lperm | fabs | fneg =>
    exact writesQuietly_same _ (fun _ _ => rfl) (fun _ _ _ => rfl) fun _ _ _ _ => rfl

end Sys2Proof.Scope

/-! Conversions, additions into a window, and lane-reduce: quads on the lanes, where their events count, and the sum of a
register. -/

namespace Sys2Proof.Scope
open Sys2Proof Sys2Proof.Machine Sys2Proof.Machine.Claim

/-! ## Quads and windows (R114, R54) -/

/-- An entry of two lists side by side. -/
theorem getD_zip {α β : Type} (as : List α) (bs : List β) (a : α) (b : β) {l : Nat} (ha : l < as.length) (hb : l < bs.length) :
    (as.zip bs).getD l (a, b) = (as.getD l a, bs.getD l b) := getD_zipWith Prod.mk as bs a b (a, b) ha hb

/-- A list of 512 entries, from its entries. -/
theorem eq_map_range {α : Type} {xs : List α} {f : Nat → α} (a : α) (hlen : xs.length = 512)
    (h : ∀ l, l < 512 → xs.getD l a = f l) :     xs = (List.range 512).map f := by
  refine List.ext_getElem (by simp [hlen]) fun l h1 _ => ?_
  rw [List.getElem_map, List.getElem_range, ← h l (hlen ▸ h1), List.getD_eq_getElem _ _ h1]

@[simp] theorem quad_length (u : VecUnit) (r : Nat) : (u.quad r).length = 512 := by simp [VecUnit.quad]

theorem quad_getD (u : VecUnit) (r : Nat) {l : Nat} (h : l < 512) : (u.quad r).getD l 0 = quadAt u r l := by
  rw [VecUnit.quad, getD_zipWith _ _ _ (0, 0) (0, 0) 0 (by simpa using h) (by simpa using h), getD_zip _ _ _ _ (by simpa using h)
    (by simpa using h), getD_zip _ _ _ _ (by simpa using h) (by simpa using h)]
  rfl

@[simp] theorem xaLanes_length (x : VRun) (q win : Nat) : (x.xaLanes q win).length = 512 := by simp [VRun.xaLanes]

/-- A lane's value and window. -/
theorem xaLanes_getD (s : State) (tile : Nat) (w : Work) (i : VIns) (q win : Nat) {l : Nat} (h : l < 512) :
    ((vecRun s tile w i).xaLanes q win).getD l (0, 0) =
      (quadAt (vecOf s tile) q l, (((vecOf s tile).reg win).getD l 0).toInt) := by
  rw [VRun.xaLanes, getD_zip _ _ _ _ (by simpa using h) (by simpa using h), quad_getD _ _ h, getD_map_of_lt _ _ 0 _ (by simpa using h)]
  rfl

/-- Writes of registers from `r` on, each from its own earlier content, leave every other register. -/
theorem foldl_setReg_ne (h : Nat → List Word → List Word) (r j : Nat) (ks : List Nat)
    (hj : ∀ k ∈ ks, j ≠ r + k) (u : VecUnit) :
    Tab.get zeroReg (ks.foldl (fun u k => u.setReg (r + k) (h k (u.reg (r + k)))) u).regs j = Tab.get zeroReg u.regs j := by
  induction ks generalizing u with
  | nil => rfl
  | cons k ks ih =>
    rw [List.foldl_cons, ih (fun k' hk' => hj k' (by simp [hk']))]
    exact Tab.get_set_ne _ _ _ _ (hj k (by simp))

/-- Writes of registers from `r` on, each from its own earlier content. -/
theorem foldl_setReg_at (h : Nat → List Word → List Word) (r : Nat) {k : Nat} (ks : List Nat) (hn : ks.Nodup) (hk : k ∈ ks)
    (u : VecUnit) : Tab.get zeroReg (ks.foldl (fun u k => u.setReg (r + k) (h k (u.reg (r + k)))) u).regs (r + k) =
      h k (u.reg (r + k)) := by
  induction ks generalizing u with
  | nil => nomatch hk
  | cons k' ks ih =>
    obtain ⟨hnot, hn⟩ := List.nodup_cons.mp hn
    rw [List.foldl_cons]
    by_cases he : k = k'
    · subst he
      rw [foldl_setReg_ne _ _ _ _ fun k' hk' heq => hnot (by rwa [Nat.add_left_cancel heq])]
      exact Tab.get_set_same _ _ _ _
    · rw [ih hn ((List.mem_cons.mp hk).resolve_left he)]
      unfold VecUnit.reg VecUnit.setReg
      rw [Tab.get_set_ne _ _ _ _ (by omega)]

/-- Writes of registers leave all of a unit but its registers. -/
theorem foldl_setReg_rest (h : Nat → List Word → List Word) (r : Nat) (ks : List Nat) (u : VecUnit) :
    { ks.foldl (fun u k => u.setReg (r + k) (h k (u.reg (r + k)))) u with regs := u.regs } = u := by
  induction ks generalizing u with
  | nil => rfl
  | cons k ks ih => exact congrArg (fun v : VecUnit => { v with regs := u.regs }) (ih (u.setReg (r + k) (h k (u.reg (r + k)))))

/-- Register `k` of a quad that held `old`, written on the lanes that hold a value (R116). -/
def quadReg (zm : Bool) (vs : List (Option Int)) (k : Nat) (old : List Word) : List Word :=
  mergeLanes zm (vs.map (fun v => v.map (fun n => (quadWord n k, [])))) old

/-- A quad is written register by register. -/
theorem putQuad_eq (x : VRun) (u : VecUnit) (r : Nat) (vs : List (Option Int)) :
    x.putQuad u r vs = (List.range 4).foldl (fun u k => u.setReg (r + k) (quadReg x.i.zm vs k (u.reg (r + k)))) u := rfl

/-- A quad's registers are written alone. -/
theorem putQuad_rest (x : VRun) (u : VecUnit) (r : Nat) (vs : List (Option Int)) :
    x.putQuad u r vs = { u with regs := (x.putQuad u r vs).regs } := by
  have h : { x.putQuad u r vs with regs := u.regs } = u := by
    rw [putQuad_eq]
    exact foldl_setReg_rest _ _ _ _
  exact congrArg (fun v : VecUnit => { v with regs := (x.putQuad u r vs).regs }) h

/-- The registers other than a quad's. -/
theorem putQuad_ne (x : VRun) (u : VecUnit) {r j : Nat} (vs : List (Option Int)) (h : j < r ∨ r + 4 ≤ j) :
    Tab.get zeroReg (x.putQuad u r vs).regs j = Tab.get zeroReg u.regs j := by
  rw [putQuad_eq]
  exact foldl_setReg_ne _ _ _ _ (fun k hk => by have := List.mem_range.mp hk; omega) _

/-- The registers of a quad. -/
theorem putQuad_at (x : VRun) (u : VecUnit) (r : Nat) (vs : List (Option Int)) {k : Nat} (h : k < 4) :
    Tab.get zeroReg (x.putQuad u r vs).regs (r + k) = quadReg x.i.zm vs k (u.reg (r + k)) := by
  rw [putQuad_eq]
  exact foldl_setReg_at _ _ _ List.nodup_range (List.mem_range.mpr h) _

/-- A word of a quad that was written on the executing lanes. -/
theorem quadReg_lanes {u : VecUnit} {i : VIns} {F : Nat → Int} {vs : List (Option Int)} (hlen : vs.length = 512)
    (hv : ∀ l, l < 512 → vs.getD l none = if executes u i l then some (F l) else none) (k r : Nat) :
    (quadReg i.zm vs k (u.reg r)).length = 512 ∧ ∀ l, l < 512 → (quadReg i.zm vs k (u.reg r)).getD l 0 =
      if executes u i l then quadWord (F l) k else if i.zm then 0 else (u.reg r).getD l 0 := by
  obtain ⟨hm, hg⟩ := mergeLanes_getD i.zm (vs.map (fun v => v.map (fun n => (quadWord n k, [])))) (u.reg r) (by simp [hlen])
  refine ⟨by simp [quadReg, hm], fun l hl => ?_⟩
  rw [quadReg, hg l (by simpa using hl), getD_map_of_lt _ _ none _ (by omega), hv l hl]
  cases executes u i l <;> rfl

/-- A quad written on the executing lanes (R114, R116). -/
theorem quadWritten_putQuad {s : State} {tile : Nat} {w : Work} {i : VIns} {F : Nat → Int} {r : Nat} {vs : List (Option Int)}
    (hlen : vs.length = 512) (hv : ∀ l, l < 512 → vs.getD l none = if executes (vecOf s tile) i l then some (F l) else none) :
    QuadWritten (vecOf s tile) i r F ((vecRun s tile w i).putQuad (vecRun s tile w i).u r vs).regs := by
  refine ⟨fun k hk => putQuad_ne _ _ _ hk, fun k hk => ?_⟩
  rw [putQuad_at _ _ _ _ hk]
  exact quadReg_lanes hlen hv k (r + k)

/-! ## Words, flags and events of lane results -/

/-- The flags of lane results (R114). -/
theorem laneFlags_flagLanes {u : VecUnit} {i : VIns} {f : LaneOp} {rs : List LaneRes} (h : IsLanes u i f rs) :
    LaneFlags u i f (flagLanes rs u.laneFlags) := by
  intro l hl
  rw [flagLanes_getD _ _ h.1 l hl, h.2 l hl]
  cases executes u i l <;> rfl

/-! ## Conversions (R46, R47, R54) -/

/-- A conversion to TY in the words of the statements. -/
theorem vecRun_toTy (s : State) (tile : Nat) (w : Work) (i : VIns) (g : Word → Machine.Num) :
    (vecRun s tile w i).toTy g = (vecRun s tile w i).put (vecRun s tile w i).u i.vd ((vecRun s tile w i).lanes (fun m a _ _ =>
      let c := convScalar (tyFmt i) (tyMode w i) (drawWord s tile w i m 0) (g a)
      (oneElem (tyFmt i) ((vecRun s tile w i).freeBits m) c.1, [c.2]))) := by
  have hdraw : ∀ m, (vecRun s tile w i).roundWord (vecRun s tile w i).fmt m 0 = drawWord s tile w i m 0 :=
    fun m => vecRun_roundWord s tile w i m 0
  simp only [VRun.toTy, hdraw]
  rfl

/-- CVT: a copy between equal formats, else one rounding. -/
theorem cvt_writes : WritesLanes .cvt 0x40 (fun s tile w i _ m a _ _ =>
    let src := (Fmt.ofCode (i.imm20 % 16)).getD .s32
    if src = tyFmt i then (a, [])
    else
      let c := convScalar (tyFmt i) (tyMode w i) (drawWord s tile w i m 0) (regNum src ((elems src a).headD 0))
      (oneElem (tyFmt i) ((vecRun s tile w i).freeBits m) c.1, [c.2])) := by
  refine writesLanes_same _ (fun _ _ => rfl) (fun _ _ _ _ _ => rfl) fun s tile w i => ?_
  change (if (Fmt.ofCode (i.imm20 % 16)).getD .s32 = tyFmt i then _ else _) = _
  split
  next h => simp only [h, if_true]; rfl
  next h => simp only [h, if_false]; exact vecRun_toTy s tile w i _

/-- The descriptor the events of an instruction count in, where they may go to the pair (R135). -/
theorem eventsGoTo_cases {s : State} {tile : Nat} {w w' : Work} (h : EventsGoTo s tile w w') :
    (w.op = 0x0201 ∧ ∃ r, (vecOf s tile).pair = some r ∧ findWork s r = some w') ∨
    (w' = w ∧ (w.op = 0x0201 → ∀ r, (vecOf s tile).pair = some r → findWork s r = none)) := by
  unfold EventsGoTo at h
  by_cases ho : w.op = 0x0201
  · rw [if_pos ho] at h
    cases hp : (vecOf s tile).pair with
    | none => exact .inr ⟨by simpa [hp] using h, fun _ _ hr => nomatch hr⟩
    | some r =>
      cases hf : findWork s r with
      | none => exact .inr ⟨by simpa [hp, hf] using h, fun _ _ hr => Option.some.inj hr ▸ hf⟩
      | some m => exact .inl ⟨ho, r, rfl, by simpa [hp, hf] using h⟩
  · rw [if_neg ho] at h
    exact .inr ⟨h, fun hw => absurd hw ho⟩

/-- What the writing of lanes leaves where the events may go to the pair. -/
theorem put_counted {s : State} {tile : Nat} {w w' : Work} {i : VIns} {f : LaneOp} {o : VOut} {rs : List LaneRes}
    (hw : findWork s w.ref = some w) (he : EventsGoTo s tile w w') (hi : IsLanes (vecOf s tile) i f rs)
    (ho : o = { (vecRun s tile w i).put (vecRun s tile w i).u i.vd rs with forPair := w.op == 0x0201 }) :
    ∃ v fl, LaneWords (vecOf s tile) i f v ∧ LaneFlags (vecOf s tile) i f fl ∧
      Stepped s (retired s tile w (vecOf s tile) o) tile w w'
        { ((passed (vecOf s tile)).setReg i.vd v) with laneFlags := fl } (laneEvents (vecOf s tile) i f) := by
  obtain ⟨hop, r, hp, hf⟩ | ⟨rfl, hnone⟩ := eventsGoTo_cases he
  · obtain rfl : w'.ref = r := findWork_ref hf
    exact put_issues _ hf (by simp [hop, hp, hf]) hi ho
  · refine put_issues _ hw ?_ hi ho
    cases hp : (vecOf s tile).pair with
    | none => simp
    | some r =>
      by_cases hop : w'.op = 0x0201
      · simp [hop, hnone hop r hp]
      · simp [hop]

/-- CVTX's results on the executing lanes. -/
theorem isLanes_cvtx (s : State) (tile : Nat) (w : Work) (i : VIns) (F : (Int × Int) × Nat → Word × List Ev) :
    IsLanes (vecOf s tile) i (fun l m _ b _ => F ((quadAt (vecOf s tile) i.va l, b.toInt), m))
      (List.zipWith (fun (r : LaneRes) e => r.map (fun _ => F e)) ((vecRun s tile w i).lanes (fun _ a _ _ => (a, [])))
        (((vecRun s tile w i).xaLanes i.va i.vb).zip (vecRun s tile w i).items)) := by
  obtain ⟨hlen, hlane⟩ := isLanes_lanes s tile w i (fun _ a _ _ => (a, []))
  have hitems := items_length_ge (vecRun s tile w i)
  refine ⟨by simp [hlen, hitems], fun l hl => ?_⟩
  rw [getD_zipWith _ _ _ none ((0, 0), 0) _ (by omega) (by simp; omega), hlane l hl,
    getD_zip _ _ _ _ (by simpa using hl) (by omega), xaLanes_getD _ _ _ _ _ _ hl, vecRun_items_getD]
  cases executes (vecOf s tile) i l <;> rfl

/-- CVTX: a quad in its window rounded once, its events in the pair of a drain-coupled program. -/
theorem cvtx_writes (s : State) (tile : Nat) (w w' : Work) (i : VIns) (h : Issues s tile 0x41 w i) (he : EventsGoTo s tile w w') :
    let f : LaneOp := fun l m _ b _ =>
      let c := convScalar (tyFmt i) (tyMode w i) (drawWord s tile w i m 0) (xaNum b.toInt (quadAt (vecOf s tile) i.va l))
      (oneElem (tyFmt i) ((vecRun s tile w i).freeBits m) c.1, [c.2])
    ∃ t v fl, exec (.cvtx tile) s = .next (batchOver t tile) ∧ LaneWords (vecOf s tile) i f v ∧
      LaneFlags (vecOf s tile) i f fl ∧
      Stepped s t tile w w' { ((passed (vecOf s tile)).setReg i.vd v) with laneFlags := fl } (laneEvents (vecOf s tile) i f) := by
  intro f
  let x := vecRun s tile w i
  have hdraw : ∀ m, x.roundWord x.fmt m 0 = drawWord s tile w i m 0 := fun m => vecRun_roundWord s tile w i m 0
  have hi : IsLanes (vecOf s tile) i f _ := isLanes_congr (isLanes_cvtx s tile w i (fun e =>
      let c := convScalar x.fmt x.mode (x.roundWord x.fmt e.2 0) (xaNum e.1.2 e.1.1)
      (oneElem x.fmt (x.freeBits e.2) c.1, [c.2]))) fun l _ => by
    simp only [atLane, hdraw]
    rfl
  obtain ⟨v, fl, hv, hfl, hs⟩ := put_counted h.found he hi rfl
  exact ⟨_, v, fl, next_vecPure _ h, hv, hfl, hs⟩

/-! ## Additions into a window (R54) -/

/-- What XADD computes on a lane: the quad after the elements of VA have entered, and their events. -/
def entered (u : VecUnit) (i : VIns) (l : Nat) : Int × List Ev :=
  xaEnter ((u.reg i.vb).getD l 0).toInt (quadAt u i.vd l) ((elems (tyFmt i) ((u.reg i.va).getD l 0)).map (regNum (tyFmt i)))

/-- What XADD computes on the executing lanes. -/
def xaddLanes (x : VRun) : List (Option (Int × List Ev)) :=
  List.zipWith (fun (r : LaneRes) (e : Int × Int) => r.map (fun v => xaEnter e.2 e.1 ((elems x.fmt v.1).map (regNum x.fmt))))
    (x.lanes (fun _ a _ _ => (a, []))) (x.xaLanes x.i.vd x.i.vb)

theorem xaddLanes_getD (s : State) (tile : Nat) (w : Work) (i : VIns) :
    (xaddLanes (vecRun s tile w i)).length = 512 ∧ ∀ l, l < 512 → (xaddLanes (vecRun s tile w i)).getD l none =
      if executes (vecOf s tile) i l then some (entered (vecOf s tile) i l) else none := by
  obtain ⟨hlen, hlane⟩ := isLanes_lanes s tile w i (fun _ a _ _ => (a, []))
  refine ⟨by simp [xaddLanes, hlen], fun l hl => ?_⟩
  rw [xaddLanes, getD_zipWith _ _ _ none (0, 0) _ (by omega) (by simpa using hl), hlane l hl, xaLanes_getD _ _ _ _ _ _ hl]
  cases executes (vecOf s tile) i l <;> rfl

/-- XADD: the elements of VA enter quad VD in its window. -/
theorem xadd_writes (s : State) (tile : Nat) (w : Work) (i : VIns) (h : Issues s tile 0x42 w i) :
    let f : LaneOp := fun l _ a b _ =>
      (0, (xaEnter b.toInt (quadAt (vecOf s tile) i.vd l) ((elems (tyFmt i) a).map (regNum (tyFmt i)))).2)
    ∃ t v fl, exec (.xadd tile) s = .next (batchOver t tile) ∧
      QuadWritten (vecOf s tile) i i.vd (fun l => (entered (vecOf s tile) i l).1) v ∧ LaneFlags (vecOf s tile) i f fl ∧
      Stepped s t tile w w { (passed (vecOf s tile)) with regs := v, laneFlags := fl } (laneEvents (vecOf s tile) i f) := by
  intro f
  let x := vecRun s tile w i
  obtain ⟨hlen, hlane⟩ : (xaddLanes x).length = 512 ∧ ∀ l, l < 512 → (xaddLanes x).getD l none = _ :=
    xaddLanes_getD s tile w i
  let marks : List LaneRes := (xaddLanes x).map (fun r => r.map (fun v => (0, v.2)))
  have hmarks : IsLanes (vecOf s tile) i f marks := by
    refine ⟨by simp [marks, hlen], fun l hl => ?_⟩
    rw [getD_map_of_lt _ _ none _ (by omega), hlane l hl]
    cases executes (vecOf s tile) i l <;> rfl
  have hquad : QuadWritten (vecOf s tile) i i.vd (fun l => (entered (vecOf s tile) i l).1)
      (x.putQuad x.u i.vd ((xaddLanes x).map (fun r => r.map (·.1)))).regs := by
    refine quadWritten_putQuad (by simp [hlen]) fun l hl => ?_
    rw [getD_map_of_lt _ _ none _ (by omega), hlane l hl]
    cases executes (vecOf s tile) i l <;> rfl
  let v := x.putQuad x.u i.vd ((xaddLanes x).map (fun r => r.map (·.1)))
  have hs := retire_stepped (s := s) (tile := tile) (w := w) (w' := w)
    (o := { u := { v with laneFlags := flagLanes marks x.u.laneFlags }, acc := accLanes marks }) h.found rfl
  refine ⟨_, v.regs, flagLanes marks x.u.laneFlags, next_vecPure _ h, hquad,
    laneFlags_flagLanes hmarks, ?_⟩
  have hv : { passed (vecOf s tile) with regs := v.regs, laneFlags := flagLanes marks x.u.laneFlags } =
      { v with laneFlags := flagLanes marks x.u.laneFlags } :=
    (congrArg (fun u : VecUnit => { u with laneFlags := flagLanes marks x.u.laneFlags }) (putQuad_rest x x.u i.vd _)).symm
  rw [hv, ← accLanes_eq _ _ _ _ hmarks]
  exact hs

/-! ## Lane-reduce (R128) -/

/-- The mask of an instruction, lane by lane. -/
theorem vecRun_mask_eq (s : State) (tile : Nat) (w : Work) (i : VIns) :
    (vecRun s tile w i).mask = (List.range 512).map (executes (vecOf s tile) i) :=
  eq_map_range false (VRun.mask_length _) (vecRun_mask s tile w i)

/-- Some lane executes. -/
theorem vecRun_mask_any (s : State) (tile : Nat) (w : Work) (i : VIns) :
    (vecRun s tile w i).mask.any id = !(lanesOf (vecOf s tile) i).isEmpty := by
  rw [vecRun_mask_eq, List.any_map, Bool.eq_iff_iff]
  simp [lanesOf, List.filter_eq_nil_iff]

/-- Where no lane executes, none raises an event. -/
theorem laneEvents_of_no_lanes {u : VecUnit} {i : VIns} (f : LaneOp) (h : lanesOf u i = []) : laneEvents u i f = {} := by
  have hnone : (List.range 512).flatMap (fun l => if executes u i l then (atLane u i f l).2 else []) = [] :=
    List.flatMap_eq_nil_iff.mpr fun l hl => if_neg (List.filter_eq_nil_iff.mp h l hl)
  rw [laneEvents, hnone]
  rfl

/-- The words of lane results merged into a register (R116). -/
theorem laneWords_mergeLanes {u : VecUnit} {i : VIns} {f : LaneOp} {rs : List LaneRes} (h : IsLanes u i f rs) :
    LaneWords u i f (mergeLanes i.zm rs (u.reg i.vd)) := by
  obtain ⟨hlen, hget⟩ := mergeLanes_getD i.zm rs (u.reg i.vd) (by simp [h.1])
  refine ⟨by simp [hlen], fun l hl => ?_⟩
  rw [hget l (by simpa using hl), h.2 l hl]
  cases executes u i l <;> rfl

/-- Lane results without events on any lane, and no flag of a lane changed. -/
theorem laneFlags_of_quiet {u : VecUnit} {i : VIns} {f : LaneOp} {rs : List LaneRes} (h : IsLanes u i f rs)
    (hq : rs.all quietLane = true) : LaneFlags u i f u.laneFlags := by
  intro l hl
  split
  next he =>
    have hlane := h.2 l hl
    rw [if_pos he, List.getD_eq_getElem _ _ (h.1 ▸ hl)] at hlane
    have hnone := List.all_eq_true.mp hq _ (List.getElem_mem (h.1 ▸ hl))
    rw [hlane] at hnone
    rw [List.isEmpty_iff.mp hnone, Ev.or_none]
  next => rfl

/-- The lane flags after a register was written lane by lane. -/
theorem laneFlags_put {s : State} {tile : Nat} {w : Work} {i : VIns} {f : LaneOp} {rs : List LaneRes}
    (h : IsLanes (vecOf s tile) i f rs) :
    LaneFlags (vecOf s tile) i f ((vecRun s tile w i).put (vecRun s tile w i).u i.vd rs).u.laneFlags := by
  change LaneFlags _ _ _ (if rs.all quietLane then _ else _)
  split
  next hq => exact laneFlags_of_quiet h hq
  next => exact laneFlags_flagLanes h

/-- LRED of a TY other than XA128: one result on every executing lane, its counts once. -/
theorem lred_writes (s : State) (tile : Nat) (w : Work) (i : VIns) (h : Issues s tile 0x60 w i) (hty : i.ty ≠ 11) :
    let r := (vecRun s tile w i).reduceTo
    let f : LaneOp := fun _ m _ _ _ => (oneElem (tyFmt i) ((vecRun s tile w i).freeBits m) r.1, [r.2.flags])
    let live := !(lanesOf (vecOf s tile) i).isEmpty
    ∃ t v fl, exec (.lred tile) s = .next (batchOver t tile) ∧
      LaneWords (vecOf s tile) i f v ∧ LaneFlags (vecOf s tile) i f fl ∧
      Stepped s t tile w w { ((passed (vecOf s tile)).setReg i.vd v) with laneFlags := fl } (if live then r.2 else {}) := by
  intro r f live
  let x := vecRun s tile w i
  have hi : IsLanes (vecOf s tile) i f (x.lanes (fun m _ _ _ => (oneElem x.fmt (x.freeBits m) r.1, [r.2.flags]))) :=
    isLanes_lanes s tile w i _
  let o := x.put x.u i.vd (x.lanes (fun m _ _ _ => (oneElem x.fmt (x.freeBits m) r.1, [r.2.flags])))
  have hacc : (if x.mask.any id then r.2 else o.acc) = if live then r.2 else {} := by
    rw [vecRun_mask_any]
    split
    next => rfl
    next hl =>
      have hno : lanesOf (vecOf s tile) i = [] := by simpa using hl
      exact (accLanes_eq _ _ _ _ hi).trans (laneEvents_of_no_lanes f hno)
  have hexec : exec (.lred tile) s =
      .next (retire s tile w (vecOf s tile) { o with acc := if x.mask.any id then r.2 else o.acc }) := by
    refine congrArg Host.Outcome.next ((vecPure_issues _ h).trans (congrArg (retire s tile w (vecOf s tile)) ?_))
    rw [if_neg (show ¬ (vecRun s tile w i).i.ty = 11 from hty)]
    change (if x.mask.any id then { o with acc := r.2 } else o) = _
    cases x.mask.any id <;> rfl
  have hs := retire_stepped (tile := tile) (w := w) (w' := w) (o := { o with acc := if x.mask.any id then r.2 else o.acc }) h.found rfl
  refine ⟨_, _, _, hexec.trans (congrArg Host.Outcome.next (retire_eq _ _ _ _ _)), laneWords_mergeLanes hi,
    laneFlags_put (w := w) hi, ?_⟩
  rw [← hacc]
  exact hs

/-- The values and windows LRED of XA128 sums. -/
def reduced (u : VecUnit) (i : VIns) : List (Int × Int) :=
  (lanesOf u i).map (fun l => (quadAt u i.va l, ((u.reg i.vb).getD l 0).toInt))

/-- The values of the executing lanes, as LRED gathers them. -/
theorem live_eq_reduced (s : State) (tile : Nat) (w : Work) (i : VIns) :
    ((List.zip (vecRun s tile w i).mask ((vecRun s tile w i).xaLanes i.va i.vb)).filter (·.1)).map (·.2) =
      reduced (vecOf s tile) i := by
  rw [vecRun_mask_eq, eq_map_range (0, 0) (xaLanes_length _ _ _) (fun l hl => xaLanes_getD s tile w i i.va i.vb hl), List.zip_map',
    List.filter_map, List.map_map]
  rfl

/-- The window of a sum: the largest plus 9 (R128). -/
theorem window_eq (e : Int × Int) (es : List (Int × Int)) (he : -(2 ^ 31 : Nat) ≤ e.2) :
    ((e :: es).map (·.2)).foldl max (-(2 ^ 31 : Nat) : Int) = es.foldl (fun a b => max a b.2) e.2 := by
  rw [List.map_cons, List.foldl_cons, max_eq_right he, List.foldl_map]

/-- A lane of a register. -/
theorem reg_getD (u : VecUnit) (r : Nat) {l : Nat} (h : l < 512) : (u.reg r).getD l 0 = (Tab.get zeroReg u.regs r).getD l 0 :=
  getD_padTake (Tab.get zeroReg u.regs r) 0 512 l h

/-- A register whose entry is as before. -/
theorem reg_congr {u v : VecUnit} {r : Nat} (h : Tab.get zeroReg v.regs r = Tab.get zeroReg u.regs r) : v.reg r = u.reg r := by
  unfold VecUnit.reg
  rw [h]

/-- LRED of XA128 writes the window register and the quad alone. -/
theorem reduceXa_frame (x : VRun) {k : Nat} (hc : k ≠ x.i.vc) (hd : k < x.i.vd ∨ x.i.vd + 4 ≤ k) :
    x.reduceXa.u.reg k = x.u.reg k := by
  refine reg_congr ?_
  unfold VRun.reduceXa
  dsimp only
  split
  · exact (putQuad_ne _ _ _ hd).trans (Tab.get_set_ne _ _ _ _ hc)
  · exact (Tab.get_set_ne _ _ _ _ hc).trans (putQuad_ne _ _ _ hd)

/-- LRED of XA128 counts its events in its own descriptor. -/
theorem reduceXa_forPair (x : VRun) : x.reduceXa.forPair = false := by
  unfold VRun.reduceXa
  dsimp only
  split <;> rfl

/-- Where lanes execute, each gets the largest window plus 9 and the sum in that window. -/
theorem reduceXa_lane (s : State) (tile : Nat) (w : Work) (i : VIns) {e : Int × Int} {es : List (Int × Int)}
    (hlive : reduced (vecOf s tile) i = e :: es) (hc : i.vc < i.vd ∨ i.vd + 4 ≤ i.vc) {l : Nat}
    (hl : l ∈ lanesOf (vecOf s tile) i) :
    let T := es.foldl (fun a b => max a b.2) e.2 + 9
    let v := (vecRun s tile w i).reduceXa.u
    (v.reg i.vc).getD l 0 = BitVec.ofInt 32 T ∧ ∀ k, k < 4 → (v.reg (i.vd + k)).getD l 0 =
      quadWord ((reduced (vecOf s tile) i).map (fun e => (convXa T (xaNum e.2 e.1)).1)).sum k := by
  intro T v
  let x := vecRun s tile w i
  obtain ⟨hl, he⟩ : l < 512 ∧ executes (vecOf s tile) i l = true := by simpa [lanesOf] using hl
  let conv := (e :: es).map (fun e => convXa T (xaNum e.2 e.1))
  let sum := conv.foldl (fun a e => a + e.1) 0
  let quad := x.putQuad x.u i.vd (x.mask.map (fun b => if b then some sum else none))
  let marks : List LaneRes := x.mask.map (fun b => if b then some (BitVec.ofInt 32 T, conv.map (·.2)) else none)
  have hregs : v.regs = Tab.set zeroReg quad.regs i.vc (mergeLanes i.zm marks (quad.reg i.vc)) := by
    have hx : ((List.zip x.mask (x.xaLanes x.i.va x.i.vb)).filter (·.1)).map (·.2) = e :: es :=
      (live_eq_reduced s tile w i).trans hlive
    change x.reduceXa.u.regs = _
    unfold VRun.reduceXa
    dsimp only
    rw [hx]
    rfl
  have hsum : sum = ((reduced (vecOf s tile) i).map (fun e => (convXa T (xaNum e.2 e.1)).1)).sum := by
    rw [hlive, List.sum_eq_foldl]
    simp [sum, conv, List.foldl_map]
  constructor
  · obtain ⟨-, hmerge⟩ := mergeLanes_getD i.zm marks (quad.reg i.vc) (by simp [marks])
    rw [reg_getD _ _ hl, hregs, Tab.get_set_same, hmerge l (by simpa using hl), getD_map_of_lt _ _ false _ (by simpa using hl),
      vecRun_mask _ _ _ _ _ hl, he]
    rfl
  · intro k hk
    obtain ⟨-, hquad⟩ := quadReg_lanes (u := vecOf s tile) (i := i) (F := fun _ => sum)
      (vs := x.mask.map (fun b => if b then some sum else none)) (by simp)
      (fun l hl => by rw [getD_map_of_lt _ _ false _ (by simpa using hl), vecRun_mask _ _ _ _ _ hl]) k (i.vd + k)
    rw [reg_getD _ _ hl, hregs, Tab.get_set_ne _ _ _ _ (by omega), putQuad_at _ _ _ _ hk, ← hsum]
    exact (hquad l hl).trans (if_pos he)

/-- LRED of XA128: the exact sum in the window, and nothing else (R128). -/
theorem lred_xa_writes (s : State) (tile : Nat) (w : Work) (i : VIns) (h : Issues s tile 0x60 w i) (hty : i.ty = 11) :
    let u := vecOf s tile
    let ls := lanesOf u i
    let win := (ls.map (fun l => ((u.reg i.vb).getD l 0).toInt)).foldl max (-(2 ^ 31 : Nat) : Int) + 9
    let sum := (ls.map (fun l => (convXa win (xaNum ((u.reg i.vb).getD l 0).toInt (quadAt u i.va l))).1)).sum
    ∃ t v, exec (.lred tile) s = .next (batchOver t tile) ∧
      Stepped s t tile w w v ((vecRun s tile w i).reduceXa).acc ∧
      (∀ k, k ≠ i.vc → (k < i.vd ∨ i.vd + 4 ≤ k) → v.reg k = u.reg k) ∧
      ((i.vc < i.vd ∨ i.vd + 4 ≤ i.vc) → ∀ l ∈ ls, (v.reg i.vc).getD l 0 = BitVec.ofInt 32 win ∧
        ∀ k, k < 4 → (v.reg (i.vd + k)).getD l 0 = quadWord sum k) := by
  intro u ls win sum
  let x := vecRun s tile w i
  have hexec : exec (.lred tile) s = .next (retire s tile w u x.reduceXa) :=
    congrArg Host.Outcome.next ((vecPure_issues _ h).trans (congrArg (retire s tile w u) (if_pos hty)))
  refine ⟨_, _, hexec.trans (congrArg Host.Outcome.next (retire_eq _ _ _ _ _)),
    retire_stepped h.found (by rw [reduceXa_forPair]), fun k hc hd => reduceXa_frame x hc hd, fun hc l hl => ?_⟩
  cases hlive : reduced u i with
  | nil => exact absurd (List.map_eq_nil_iff.mp hlive ▸ hl : l ∈ []) List.not_mem_nil
  | cons e es =>
    obtain ⟨l', -, he⟩ := List.mem_map.mp (hlive ▸ List.mem_cons_self : e ∈ reduced u i)
    have hwin : win = es.foldl (fun a b => max a b.2) e.2 + 9 := by
      have hmap : ls.map (fun l => ((u.reg i.vb).getD l 0).toInt) = (e :: es).map (·.2) := by
        rw [← hlive, reduced, List.map_map]
        rfl
      rw [← window_eq e es (by rw [← he]; simpa using BitVec.le_toInt ((u.reg i.vb).getD l' 0)), ← hmap]
    have hsum : sum = ((reduced u i).map (fun e => (convXa win (xaNum e.2 e.1)).1)).sum := by
      rw [reduced, List.map_map]
      rfl
    rw [hsum, hwin]
    exact reduceXa_lane s tile w i hlive hc hl

/-- Settles O3, instruction by instruction. -/
theorem vectorConversions : Obligations.VectorConversions :=
  ⟨⟨cvt_writes, cvtx_writes, xadd_writes⟩, lred_writes, lred_xa_writes⟩

end Sys2Proof.Scope

/-! Descriptors from their fetch to their start (R143, R149, R150, R156, R399): the bytes of a completion record, a position
fetched, the dispatcher's own descriptors and timers, and a start that fails a check. -/

namespace Sys2Proof.Scope
open Sys2Proof Sys2Proof.Machine Sys2Proof.Machine.Claim

/-! ## Fields of a record of little-endian numbers (R6, R150) -/

@[simp] theorem leBytes_length (n v : Nat) : (leBytes n v).length = n := by
  induction n generalizing v with
  | zero => rfl
  | succ n ih => simp [leBytes, ih]

/-- The number its bytes spell. -/
theorem leNat_leBytes (n v : Nat) : leNat (leBytes n v) = v % 256 ^ n := by
  induction n generalizing v with
  | zero => simp [leBytes, leNat, Nat.mod_one]
  | succ n ih => simp [leBytes, leNat, ih, Nat.pow_succ', Nat.mod_mul]

/-- Any `n` bytes spell a number below `256 ^ n`. -/
theorem leNat_lt (bs : List Byte) : leNat bs < 256 ^ bs.length := by
  induction bs with
  | nil => simp [leNat]
  | cons b bs ih =>
    have hb : b.toNat < 256 := b.isLt
    simp only [leNat, List.length_cons, Nat.pow_succ']
    omega

/-- A field of `n` bytes is a number of `8 * n` bits. -/
theorem field_lt (bs : List Byte) (at_ n : Nat) : field bs at_ n < 2 ^ (8 * n) := by
  rw [Nat.pow_mul]
  exact Nat.lt_of_lt_of_le (leNat_lt _) (Nat.pow_le_pow_right (by decide) (by simp))

/-- The first number of a record. -/
theorem field_first {n v : Nat} (bs : List Byte) (h : v < 2 ^ (8 * n)) : field (leBytes n v ++ bs) 0 n = v := by
  rw [Nat.pow_mul] at h
  rw [field, List.drop_zero, List.take_left' (leBytes_length n v), leNat_leBytes, Nat.mod_eq_of_lt h]

/-- A field past the first number of a record. -/
theorem field_skip {n k : Nat} (v m : Nat) (bs : List Byte) (h : n ≤ k) :
    field (leBytes n v ++ bs) k m = field bs (k - n) m := by
  rw [field, List.drop_append, List.drop_eq_nil_of_le (by simpa using h), leBytes_length, List.nil_append]
  rfl

/-- The four flags fit their field (R56). -/
theorem flagWord_lt (a : Ev) : a.toNat < 16 := by
  obtain ⟨a, b, c, d⟩ := a
  revert a b c d
  decide

/-- Settles O7, a field at a time: each number of the record stands past those before it and fits its bytes. -/
theorem completionRecord : Obligations.CompletionRecord := by
  intro w t _ hst hsat hflu hinv hev ht
  have htag : w.tag < 2 ^ 32 := field_lt _ _ _
  have hflags : w.acc.flags.toNat < 2 ^ 16 := (flagWord_lt _).trans (by decide)
  have hlast : field (leBytes 8 t) 0 8 = t := by simpa using field_first (n := 8) [] ht
  simp only [recordOf, List.append_assoc]
  refine ⟨by simp, field_first _ htag, ?_, ?_, ?_, ?_, ?_, ?_, ?_⟩ <;>
    simp only [field_skip, field_first, Nat.reduceLeDiff, Nat.reduceSub, Nat.le_refl, Nat.sub_self, Nat.reduceMul, *]

/-! ## A position fetched (R143, R400, R405) -/

/-- The module without what reading a ring may change: its counters, the samples of accesses, the lines the host holds and
what was sent. -/
def offReads (s : State) : State := { s with dict := [], place := {}, cxl := {}, out := [] }

/-- A run of steps that each leave the rest of the module leaves it. -/
theorem foldl_offReads {α : Type} {f : State → α → State} (h : ∀ s x, offReads (f s x) = offReads s) (xs : List α) (s : State) :
    offReads (xs.foldl f s) = offReads s := by
  induction xs generalizing s with
  | nil => rfl
  | cons x xs ih => rw [List.foldl_cons, ih, h]

theorem bump_offReads (s : State) (k n : Nat) : offReads (bump s k n) = offReads s := rfl

theorem countRange_offReads (s : State) (wr : Bool) (o : Obj) (off len : Nat) :
    offReads (countRange s wr o off len) = offReads s := by
  refine foldl_offReads (fun t p => ?_) _ _
  split
  · simp only [countBytes, apply_ite offReads, bump_offReads, ite_self]
  · rfl

theorem sampleAccess_offReads (s : State) (o : Obj) (off a d c : Nat) :
    offReads (sampleAccess s o off a d c) = offReads s := by
  simp only [sampleAccess, apply_ite offReads, bump_offReads]
  exact (congrArg (ite _ _) (ite_self _)).trans (ite_self _)

theorem sampleRange_offReads (s : State) (o : Obj) (off len : Nat) : offReads (sampleRange s o off len) = offReads s := by
  refine foldl_offReads (fun t p => ?_) _ _
  split
  · exact sampleAccess_offReads _ _ _ _ _ _
  · rfl

theorem snoopRange_offReads (s : State) (n off len : Nat) (inv : Bool) : offReads (snoopRange s n off len inv) = offReads s := by
  have hsend (f : HostLine → Out) (ls : List HostLine) : offReads (ls.foldl (fun s l => send s (f l)) s) = offReads s :=
    foldl_offReads (f := fun s l => send s (f l)) (fun _ _ => rfl) ls s
  unfold snoopRange
  split
  · rfl
  · cases inv <;> exact hsend _ _

/-- Reading a ring changes counters, samples, the lines the host holds and what was sent, and nothing else. -/
theorem ringSeen_offReads (s : State) (apt : Bool) (base a n : Nat) : offReads (ringSeen s apt base a n) = offReads s := by
  unfold ringSeen
  split
  · exact ((countRange_offReads _ _ _ _ _).trans (sampleRange_offReads _ _ _ _)).trans (snoopRange_offReads _ _ _ _ _)
  · rfl

/-- What the fetch of a queue's next position puts in flight, from the bytes its slot reads as (R143, log 23). -/
def fetchedWork (x : Queue) (q : Nat) (slot : Option (List Byte)) : Work :=
  match slot with
  | some d => { ref := .q q (posName x x.next), desc := d }
  | none => { ref := .q q (posName x x.next), desc := List.replicate 64 0, phase := .done, status := Status.poison }

/-- The descriptors in flight, but for when each became ready. -/
theorem markReady_work (s : State) :
    (markReady s).work.map (fun v => { v with readyAt := none }) = s.work.map (fun v => { v with readyAt := none }) := by
  simp only [markReady, List.map_map]
  refine List.map_congr_left fun w _ => ?_
  simp only [Function.comp_apply]
  split <;> rfl

/-- Settles O8: what is fetched by whether the slot can be read, what else happens is the reading of the ring. -/
theorem descriptorFetch : Obligations.DescriptorFetch := by
  intro q t s hq hf x slot
  let r := ringSeen (atTime s t) x.ringApt x.hdmBase slot 64
  have hr : offReads r = offReads (atTime s t) := ringSeen_offReads _ _ _ _ _
  have hwork : r.work = s.work := (congrArg State.work hr :)
  have hqueues : r.queues = s.queues := (congrArg State.queues hr :)
  have htick : r.tick = s.tick := (congrArg State.tick hr :)
  have hread : ringRead (atTime s t) x.ringApt x.hdmBase slot 64 = ringRead s x.ringApt x.hdmBase slot 64 := rfl
  have hexec : exec (.descriptorFetch q t) s =
      .next (markReady { setQueue r q { x with next := x.next + 1 } with work := r.work ++ [fetchedWork x q
        (ringRead s x.ringApt x.hdmBase slot 64)] }) := by
    change execDescriptorFetch q t s = _
    rw [execDescriptorFetch, if_pos ⟨hq, hf⟩, ← hread]
    rfl
  refine ⟨_, fetchedWork x q (ringRead s x.ringApt x.hdmBase slot 64), hexec, ?_, fun bs hbs => ?_, fun hnone => ?_, ?_, ?_,
    fun k hk => ?_, ?_, ?_, ?_, ?_⟩
  · cases ringRead s x.ringApt x.hdmBase slot 64 <;> rfl
  · rw [hbs]
    exact ⟨rfl, rfl⟩
  · rw [hnone]
    exact ⟨rfl, rfl⟩
  · rw [markReady_work, hwork]
  · exact queueOf_setQueue_same _ _ _
  · exact (queueOf_setQueue_ne _ _ hk).trans (by rw [queueOf, hqueues]; rfl)
  · exact (congrArg State.mem hr :)
  · exact (congrArg State.host hr :)
  · exact (congrArg State.objs hr :)
  · change { r with work := s.work, queues := s.queues, tick := s.tick } = r
    rw [← hwork, ← hqueues, ← htick]

/-! ## The dispatcher's own descriptors and timers (R156, R176, R242, R399) -/

/-- A descriptor of the dispatcher's own that starts runs its body at once. -/
theorem runControl_of_starts {op : Nat} {r : WRef} {s : State} {w : Work} (body : Work → State → State) (h : Starts op r s w) :
    runControl op body r s = body w s := by
  simp only [runControl, h.found]
  rw [if_pos ⟨h.code, h.fetched, h.runs, h.may, h.live⟩, if_neg (not_not_intro h.checks)]

/-- Bringing the time base forward lets a descriptor start as it would. -/
theorem starts_atTime {op : Nat} {r : WRef} {s : State} {w : Work} (h : Starts op r s w) (t : Nat) :
    Starts op r (atTime s t) w :=
  ⟨h.found, h.code, h.fetched, h.own, h.runs, h.may, h.live, h.checks⟩

theorem exec_nop {s : State} {r : WRef} {w : Work} (h : Starts 0x0900 r s w) :
    exec (.nop r) s = .next (setWork s { w with phase := .done, status := 0x0000 }) :=
  congrArg Host.Outcome.next (runControl_of_starts _ h)

/-- A WAIT_QUEUE that began at `began` looks at the frontier it waits for (R156). -/
def lookAt (s : State) (w : Work) (began : Nat) : Work :=
  if 63 < w.f 16 2 then { w with began := began, phase := .done, status := 0x0012 }
  else if w.f 24 8 ≤ (queueOf s (w.f 16 2)).frontier then { w with began := began, phase := .done, status := 0x0000 }
  else { w with began := began, phase := .running }

theorem exec_waitQueue_of_starts {s : State} {r : WRef} {w : Work} (t : Nat) (h : Starts 0x0901 r s w) :
    exec (.waitQueue r t) s = .next (setWork (atTime s t) (lookAt s w (max s.time t))) := by
  change execWaitQueue r t s = _
  simp only [execWaitQueue, h.found]
  rw [if_neg (fun hw => by simpa [h.fetched] using hw.2), runControl_of_starts _ (starts_atTime h t)]
  simp only [lookAt, apply_ite (setWork _), apply_ite Host.Outcome.next]
  rfl

theorem exec_waitQueue_of_running {s : State} {r : WRef} {w : Work} (t : Nat) (hw : findWork s r = some w)
    (hop : w.op = 0x0901) (hp : w.phase = .running) :
    exec (.waitQueue r t) s = .next (setWork (atTime s t) (lookAt s w w.began)) := by
  change execWaitQueue r t s = _
  simp only [execWaitQueue, hw]
  rw [if_pos ⟨hop, hp⟩]
  simp only [lookAt, apply_ite (setWork _), apply_ite Host.Outcome.next]
  rfl

theorem exec_waitQueue {s : State} {r : WRef} {w : Work} (t : Nat)
    (h : Starts 0x0901 r s w ∨ (findWork s r = some w ∧ w.op = 0x0901 ∧ w.phase = .running)) :
    exec (.waitQueue r t) s =
      .next (setWork (atTime s t) (lookAt s w (if w.phase = .running then w.began else max s.time t))) := by
  obtain h | ⟨hw, hop, hp⟩ := h
  · rw [exec_waitQueue_of_starts t h, if_neg (by simp [h.fetched])]
  · rw [exec_waitQueue_of_running t hw hop hp, if_pos hp]

theorem exec_waitQueueTimeout {s : State} {r : WRef} {w : Work} {t : Nat} (hw : findWork s r = some w) (hop : w.op = 0x0901)
    (hp : w.phase = .running) (hlim : w.f 32 4 ≠ 0) (ht : w.began + 1000 * w.f 32 4 ≤ t)
    (hf : (queueOf s (w.f 16 2)).frontier < w.f 24 8) :
    exec (.waitQueueTimeout r t) s = .next (setWork (atTime s t) { w with phase := .done, status := 0x0003 }) := by
  change execWaitQueueTimeout r t s = _
  simp only [execWaitQueueTimeout, hw]
  rw [if_pos ⟨hop, hp, hlim, ht, hf⟩]
  rfl

theorem exec_prdUnbind {s : State} {r : WRef} {w : Work} (h : Starts 0x0931 r s w) :
    exec (.prdUnbind r) s = .next (if 63 < w.f 16 1 then setWork s { w with phase := .done, status := 0x0012 }
      else setWork { s with binds := Tab.set {} s.binds (w.f 16 1) {} } { w with phase := .done, status := 0x0000 }) :=
  congrArg Host.Outcome.next (runControl_of_starts _ h)

/-- A vector's message goes out, or while it is masked its bit is set; nothing else changes (R395, log 145). -/
theorem raiseMsix_eq (s : State) (v : Nat) :
    let masked := bit (msixWord s.cxl (4 * v + 3)) 0
    raiseMsix s v = { s with
      out := s.out ++ (if masked = true then [] else [.msix v])
      cxl := { s.cxl with msixDue := s.cxl.msixDue ++ (if masked = false ∨ v ∈ s.cxl.msixDue then [] else [v]) } } := by
  intro masked
  unfold raiseMsix
  by_cases hm : masked = true
  · rw [if_pos hm, if_pos hm]
    by_cases hv : v ∈ s.cxl.msixDue
    · simp [hv]
    · simp [hv, hm]
  · rw [if_neg hm, if_neg hm, if_pos (.inl (by simpa using hm)), List.append_nil]
    rfl

/-- The notice of a queue: its vector, if it has one (R399). -/
def noticed (s : State) (v : Nat) : State := if v = 0xFFFF then s else raiseMsix s v

theorem noticed_eq (s : State) (v : Nat) :
    let masked := bit (msixWord s.cxl (4 * v + 3)) 0
    noticed s v = { s with
      out := s.out ++ (if v = 0xFFFF ∨ masked = true then [] else [.msix v])
      cxl := { s.cxl with
        msixDue := s.cxl.msixDue ++ (if v = 0xFFFF ∨ masked = false ∨ v ∈ s.cxl.msixDue then [] else [v]) } } := by
  intro masked
  unfold noticed
  by_cases hv : v = 0xFFFF
  · simp [hv]
  · simp only [hv, if_false, false_or]
    exact raiseMsix_eq s v

theorem exec_queueIrqTimer {s : State} {q t : Nat} (hq : q < 64) (hus : reg s (Key.queueIrqUs + 256 * q) ≠ 0)
    (hn : 0 < (queueOf s q).unnotified)
    (hdue : (queueOf s q).firstAt + 1000 * reg s (Key.queueIrqUs + 256 * q) ≤ max s.time t) :
    exec (.queueIrqTimer q t) s = .next (noticed (setQueue (atTime s t) q { queueOf s q with unnotified := 0 })
      (reg s (Key.queueVector + 256 * q))) := by
  change execQueueIrqTimer q t s = _
  rw [execQueueIrqTimer, if_pos ⟨hq, hus, hn, hdue⟩]
  rfl

/-- The table slot with OLD released, and its object with no shadow left (R242). -/
def releasedSlot (s : State) (k : Nat) : State :=
  let o := objOf s (Tab.get {} s.slots k).obj
  let u : State := { s with slots := Tab.set {} s.slots k { Tab.get {} s.slots k with old := none, draftOpen := true } }
  if o.declared then setObj u { o with shadows := [] } else u

theorem exec_tableRelease {s : State} {k v t : Nat} (hold : (Tab.get {} s.slots k).old = some v) (href : versionRefs s k v = 0)
    (hdue : (Tab.get {} s.slots k).oldIdle + 1000 * reg s Key.tblLingerUs ≤ max s.time t) :
    exec (.tableRelease k t) s = .next (serveHeld (releasedSlot (atTime s t) k)) := by
  change execTableRelease k t s = _
  simp only [execTableRelease, hold]
  rw [if_pos ⟨href, hdue⟩]
  rfl

theorem releasedSlot_slots (s : State) (k : Nat) :
    (releasedSlot s k).slots = Tab.set {} s.slots k { Tab.get {} s.slots k with old := none, draftOpen := true } := by
  unfold releasedSlot
  dsimp only
  split <;> rfl

theorem releasedSlot_shadows {s : State} {k : Nat}
    (hd : (objOf s (Tab.get {} s.slots k).obj).declared = true)
    (hn : (objOf s (Tab.get {} s.slots k).obj).num = (Tab.get {} s.slots k).obj) :
    (objOf (releasedSlot s k) (Tab.get {} s.slots k).obj).shadows = [] := by
  rw [releasedSlot, if_pos hd]
  change (Tab.get {} (Tab.set {} s.objs (objOf s (Tab.get {} s.slots k).obj).num _) _).shadows = []
  rw [hn, Tab.get_set_same]

/-- Beside the slot and its object the release leaves the module. -/
theorem releasedSlot_frame (s : State) (k : Nat) :
    { releasedSlot s k with slots := s.slots, objs := s.objs } = s := by
  unfold releasedSlot
  dsimp only
  split <;> rfl

/-- Settles O10, command by command. -/
theorem dispatcherCommands : Obligations.DispatcherCommands := by
  refine ⟨fun s r w h => exec_nop h, fun s r w t h => exec_waitQueue t h,
    fun s r w t hw hop hp hlim ht hf => exec_waitQueueTimeout hw hop hp hlim ht hf, fun s r w h => exec_prdUnbind h,
    fun s q t hq hus hn hdue => ?_, fun s k v t hold href hdue => ?_⟩
  · refine ⟨_, exec_queueIrqTimer hq hus hn hdue, ?_⟩
    rw [noticed_eq]
    exact ⟨queueOf_setQueue_same _ _ _, fun k hk => queueOf_setQueue_ne _ _ hk, rfl, rfl, rfl, rfl⟩
  · refine ⟨_, exec_tableRelease hold href hdue, ?_, fun j hj => ?_, fun hd hn => releasedSlot_shadows hd hn, ?_⟩
    · rw [releasedSlot_slots]
      exact Tab.get_set_same _ _ _ _
    · rw [releasedSlot_slots]
      exact Tab.get_set_ne _ _ _ _ hj
    · exact congrArg (fun u => { u with time := s.time }) (releasedSlot_frame (atTime s t) k)

/-! ## The checks of the start (R59, R135, R144, R149) -/

/-- The opcodes a chapter defines are those listed. -/
theorem mem_of_opKnown {op : Nat} (h : opKnown op = true) :
    op ∈ [0x0100, 0x0101, 0x0102, 0x0103, 0x0200, 0x0201, 0x0300, 0x0301, 0x0302, 0x0400, 0x0401, 0x0402, 0x0500, 0x0501,
      0x0502, 0x0503, 0x0504, 0x0510, 0x0511, 0x0512, 0x0600, 0x0601, 0x0602, 0x0700, 0x0701, 0x0702, 0x0703, 0x0800, 0x0880,
      0x0881, 0x0900, 0x0901, 0x0910, 0x0930, 0x0931, 0x0A00, 0x0A01, 0x0A02, 0x0A03, 0x0A04] := by
  unfold opKnown at h
  split at h <;> simp only [Bool.or_eq_true, Bool.and_eq_true, decide_eq_true_eq, beq_iff_eq, Bool.false_eq_true] at h <;>
    simp only [List.mem_cons, List.not_mem_nil] <;> omega

theorem headerStatus_of_unknown (s : State) {w : Work} (h : opKnown w.op = false) : headerStatus s w = 0x0013 := by
  rw [headerStatus, h]
  rfl

theorem headerStatus_of_classFault {s : State} {w : Work} (hop : opKnown w.op = true) (h : classFault s w = true) :
    headerStatus s w = 0x0014 := by
  rw [headerStatus, hop, h]
  rfl

theorem headerStatus_of_no_order {s : State} {w : Work} (hop : opKnown w.op = true) (hc : classFault s w = false)
    (hcls : w.cls ≤ 8) (h : reg s Key.ephPin = 0) : headerStatus s w = 0x0015 := by
  simp only [headerStatus, hop, hc, hcls, h]
  rfl

theorem dueStatus_of_failing {s : State} {w : Work} (hp : w.phase = .fetched) (hs : startable s w = true)
    (hc : cancelled s w = false) (h : headerStatus s w ≠ 0) : dueStatus s w = some (headerStatus s w) := by
  rw [dueStatus, hp]
  exact (if_neg (by simp [hc])).trans (if_pos ⟨hs, h⟩)

/-- Descriptor `w` of opcode `op`, named `r`, may start but fails a check of R149. -/
structure FailsStart (op : Nat) (r : WRef) (s : State) (w : Work) : Prop where
  found : findWork s r = some w
  code : w.op = op
  fetched : w.phase = .fetched
  own : w.req = none
  runs : computing s = true
  may : startable s w = true
  live : cancelled s w = false
  ready : w.waiting = false
  checks : headerStatus s w ≠ 0

/-- The descriptor has the status of its first failing check, and nothing else of the module has changed. -/
def refused (s : State) (w : Work) : State := setWork s { w with phase := .done, status := headerStatus s w }

section
variable {op : Nat} {r : WRef} {s : State} {w : Work}

/-- Bringing the time base forward changes no check. -/
theorem failsStart_atTime (h : FailsStart op r s w) (t : Nat) : FailsStart op r (atTime s t) w :=
  ⟨h.found, h.code, h.fetched, h.own, h.runs, h.may, h.live, h.ready, h.checks⟩

theorem runEngine_of_failing (body : Eng Unit) (h : FailsStart op r s w) : runEngine op body r s = refused s w := by
  simp only [runEngine, h.found]
  rw [if_neg (by simp [h.code, h.own, h.runs]), h.fetched]
  exact (if_pos (by simp [h.may, h.live])).trans (if_pos h.checks)

theorem runStaged_of_failing (go : Work → State → State) (h : FailsStart op r s w) : runStaged op go r s = refused s w := by
  simp only [runStaged, h.found]
  rw [if_neg (by simp [h.code, h.runs]), h.fetched]
  exact (if_pos (by simp [h.may, h.live])).trans (if_pos h.checks)

theorem runControl_of_failing (body : Work → State → State) (h : FailsStart op r s w) : runControl op body r s = refused s w := by
  simp only [runControl, h.found]
  rw [if_pos ⟨h.code, h.fetched, h.runs, h.may, h.live⟩]
  exact if_pos h.checks

theorem startArr_of_failing (h : FailsStart op r s w) : startArr op r s = refused s w := by
  simp only [startArr, h.found]
  rw [if_neg (by simp [h.code, h.fetched, h.runs, h.may, h.live])]
  exact if_pos h.checks

theorem startVec_of_failing (hw : findWork s r = some w) (hop : w.op = op) (hp : w.phase = .fetched) (hrun : computing s = true)
    (hs : startable s w = true) (hc : cancelled s w = false) (hst : headerStatus s w ≠ 0) :
    startVec op r s = cancelNamed (refused s w) w := by
  simp only [startVec, hw]
  rw [if_neg (by simp [hop, hp, hrun, hs, hc])]
  exact if_pos hst

theorem execWaitQueue_of_failing (t : Nat) (h : FailsStart 0x0901 r s w) :
    execWaitQueue r t s = .next (refused (atTime s t) w) := by
  simp only [execWaitQueue, h.found]
  rw [if_neg (by simp [h.fetched]), runControl_of_failing _ (failsStart_atTime h t)]

theorem execLaunch_of_failing (t : Nat) (h : FailsStart 0x0910 r s w) : execLaunch r t s = .next (refused (atTime s t) w) := by
  simp only [execLaunch, h.found]
  rw [if_neg (by simp [h.fetched]), runControl_of_failing _ (failsStart_atTime h t)]

theorem execReduce_of_failing (t : Nat) (h : FailsStart 0x0800 r s w) : execReduce r t s = .next (refused s w) := by
  simp only [execReduce, h.found]
  rw [if_neg (by simp [h.code, h.own, h.runs]), h.fetched]
  simp only [h.may, h.live, h.ready]
  exact congrArg Host.Outcome.next (if_pos h.checks)

end

/-- Command `e.1` refuses a descriptor of opcode `e.2.1` that fails a check of its start; it brings the time base to its time
if `e.2.2` says so. -/
def Refuses (e : (Nat → WRef → Instr) × Nat × Bool) : Prop :=
  ∀ s r w t, FailsStart e.2.1 r s w → exec (e.1 t r) s = .next (refused (if e.2.2 then atTime s t else s) w)

theorem refuses_array {c : WRef → Instr} {op : Nat} (h : ∀ r s, exec (c r) s = .next (startArr op r s)) :
    Refuses (fun _ => c, op, false) :=
  fun s r _ _ hf => (h r s).trans (congrArg _ (startArr_of_failing hf))

theorem refuses_engine {c : WRef → Instr} {op : Nat} {body : WRef → Eng Unit}
    (h : ∀ r s, exec (c r) s = .next (runEngine op (body r) r s)) : Refuses (fun _ => c, op, false) :=
  fun s r _ _ hf => (h r s).trans (congrArg _ (runEngine_of_failing _ hf))

theorem refuses_timed_engine {c : Nat → WRef → Instr} {op : Nat} {body : WRef → Eng Unit}
    (h : ∀ t r s, exec (c t r) s = .next (runEngine op (body r) r (atTime s t))) : Refuses (c, op, true) :=
  fun s r _ t hf => (h t r s).trans (congrArg _ (runEngine_of_failing _ (failsStart_atTime hf t)))

theorem refuses_staged {c : WRef → Instr} {op : Nat} {go : Work → State → State}
    (h : ∀ r s, exec (c r) s = .next (runStaged op go r s)) : Refuses (fun _ => c, op, false) :=
  fun s r _ _ hf => (h r s).trans (congrArg _ (runStaged_of_failing _ hf))

theorem refuses_timed_staged {c : Nat → WRef → Instr} {op : Nat} {go : Work → State → State}
    (h : ∀ t r s, exec (c t r) s = .next (runStaged op go r (atTime s t))) : Refuses (c, op, true) :=
  fun s r _ t hf => (h t r s).trans (congrArg _ (runStaged_of_failing _ (failsStart_atTime hf t)))

theorem refuses_control {c : WRef → Instr} {op : Nat} {body : Work → State → State}
    (h : ∀ r s, exec (c r) s = .next (runControl op body r s)) : Refuses (fun _ => c, op, false) :=
  fun s r _ _ hf => (h r s).trans (congrArg _ (runControl_of_failing _ hf))

theorem refuses_vectorProgram : Refuses (fun _ => .vectorProgram, 0x0200, false) := by
  intro s r w t hf
  change Host.Outcome.next (startVec 0x0200 r s) = _
  rw [startVec_of_failing hf.found hf.code hf.fetched hf.runs hf.may hf.live hf.checks, cancelNamed,
    if_neg (by rw [hf.code]; decide)]
  rfl

/-- What a list of commands does, one of them does. -/
theorem refuses_of_mem {es : List ((Nat → WRef → Instr) × Nat × Bool)} (h : ∀ e ∈ es, Refuses e) {c : Nat → WRef → Instr}
    {op : Nat} {timed : Bool} (he : (c, op, timed) ∈ es) : Refuses (c, op, timed) := h _ he

/-- A matrix descriptor that can be the pair of a drain-coupled one. -/
def pairable (w m : Work) : Bool :=
  m.cls == 1 && m.tag == w.f 40 4 && m.dsp == w.dsp && (decide (m.phase = .running) || decide (m.phase = .fetched))

/-- Replacing the records of a name by one that is not sought leaves what is found under another name, or that nothing is. -/
theorem find_replaced_of_not_sought {l : List Work} {p : Work → Bool} {v : Work} (hv : p v = false) :
    (∀ m, l.find? p = some m → m.ref ≠ v.ref → (l.map (fun x => if x.ref = v.ref then v else x)).find? p = some m) ∧
    (l.find? p = none → (l.map (fun x => if x.ref = v.ref then v else x)).find? p = none) := by
  induction l with
  | nil => simp
  | cons x l ih =>
    obtain ⟨hsome, hnone⟩ := ih
    simp only [List.map_cons]
    by_cases hx : p x = true
    · refine ⟨fun m hm hr => ?_, fun h => ?_⟩
      · rw [List.find?_cons_of_pos hx] at hm
        cases hm
        rw [if_neg hr, List.find?_cons_of_pos hx]
      · rw [List.find?_cons_of_pos hx] at h
        cases h
    · have hx' : ¬ p (if x.ref = v.ref then v else x) = true := by split <;> simp [hx, hv]
      rw [List.find?_cons_of_neg hx, List.find?_cons_of_neg hx']
      exact ⟨hsome, hnone⟩

section
variable {s : State} {r : WRef} {w : Work}

/-- A drain-coupled descriptor with a status is no matrix descriptor. -/
theorem refused_not_pairable (hop : w.op = 0x0201) :
    pairable w { w with phase := .done, status := headerStatus s w } = false := by
  have hcls : ({ w with phase := .done, status := headerStatus s w } : Work).cls = 2 := congrArg (· / 256) hop
  rw [pairable, hcls]
  rfl

theorem pairOf_refused_of_none (hop : w.op = 0x0201) (h : pairOf s w = none) : pairOf (refused s w) w = none :=
  (find_replaced_of_not_sought (refused_not_pairable hop)).2 h

theorem pairOf_refused_of_some (hop : w.op = 0x0201) {m : Work} (h : pairOf s w = some m) (hr : m.ref ≠ w.ref) :
    pairOf (refused s w) w = some m :=
  (find_replaced_of_not_sought (refused_not_pairable hop)).1 m h hr

/-- A matrix descriptor that runs ends with its array free (R135). -/
theorem endPair_of_running {m : Work} (tile st : Nat) (hm : findWork s m.ref = some m) (hp : m.phase = .running) :
    endPair s tile { pair := some m.ref } st =
      setArr (setWork s { m with phase := if m.owed = 0 then .done else .acks, status := st }) tile (arrOf s tile).freed := by
  simp only [endPair, hm]
  exact if_pos hp

theorem cancelNamed_of_none (h : (if w.op = 0x0201 then pairOf s w else none) = none) : cancelNamed s w = s := by
  rw [cancelNamed, h]

theorem cancelNamed_of_fetched {m : Work} (hop : w.op = 0x0201) (h : pairOf s w = some m) (hp : m.phase = .fetched) :
    cancelNamed s w = setWork s { m with phase := .done, status := 0x0002 } := by
  rw [cancelNamed, if_pos hop, h]
  exact if_neg (by simp [hp])

theorem cancelNamed_of_running {m : Work} (hop : w.op = 0x0201) (h : pairOf s w = some m) (hp : m.phase = .running)
    (hm : findWork s m.ref = some m) :
    cancelNamed s w = setArr (setWork s { m with phase := if m.owed = 0 then .done else .acks, status := 0x0002 }) m.unit
      (arrOf s m.unit).freed := by
  rw [cancelNamed, if_pos hop, h]
  exact (if_pos hp).trans (endPair_of_running _ _ hm hp)

end

/-- Settles O11: the first failing check by what it looks at, each command by how its engine starts a descriptor, and a
drain-coupled descriptor by the matrix descriptor it names. -/
theorem startChecks : Obligations.StartChecks := by
  refine ⟨fun s w h => headerStatus_of_unknown s (Bool.eq_false_iff.mpr fun hk => h (mem_of_opKnown hk)),
    fun s w hop h => headerStatus_of_classFault hop h, fun s w hop hc _ hcls h => headerStatus_of_no_order hop hc hcls h,
    fun s w _ hp hs hc h => dueStatus_of_failing hp hs hc h,
    fun c op timed he s r w t hw hop hp hown hrun hs hc hwait hst => ?_, fun s r w hw hop hp hrun hs hc hst => ?_⟩
  · have hrefuses : Refuses (c, op, timed) := by
      refine refuses_of_mem ?_ he
      simp only [List.forall_mem_append, List.forall_mem_cons]
      exact ⟨⟨refuses_array fun _ _ => rfl, refuses_array fun _ _ => rfl, refuses_array fun _ _ => rfl, refuses_array fun _ _ => rfl,
        refuses_vectorProgram, refuses_engine fun _ _ => rfl, refuses_engine fun _ _ => rfl, refuses_engine fun _ _ => rfl,
        refuses_engine fun _ _ => rfl, refuses_engine fun _ _ => rfl, refuses_engine fun _ _ => rfl, refuses_engine fun _ _ => rfl,
        refuses_engine fun _ _ => rfl, refuses_engine fun _ _ => rfl, refuses_engine fun _ _ => rfl, refuses_engine fun _ _ => rfl,
        refuses_engine fun _ _ => rfl, refuses_timed_engine fun _ _ _ => rfl, refuses_timed_engine fun _ _ _ => rfl, nofun⟩,
        refuses_engine fun _ _ => rfl, refuses_engine fun _ _ => rfl, refuses_engine fun _ _ => rfl, refuses_engine fun _ _ => rfl,
        refuses_engine fun _ _ => rfl, refuses_engine fun _ _ => rfl, refuses_engine fun _ _ => rfl,
        fun _ _ _ t hf => execReduce_of_failing t hf, refuses_timed_engine fun _ _ _ => rfl, refuses_timed_engine fun _ _ _ => rfl,
        refuses_control fun _ _ => rfl, fun _ _ _ t hf => execWaitQueue_of_failing t hf, fun _ _ _ t hf => execLaunch_of_failing t hf,
        refuses_engine fun _ _ => rfl, refuses_control fun _ _ => rfl, refuses_staged fun _ _ => rfl, refuses_staged fun _ _ => rfl,
        refuses_staged fun _ _ => rfl, refuses_timed_staged fun _ _ _ => rfl, refuses_staged fun _ _ => rfl, nofun⟩
    refine (hrefuses s r w t ⟨hw, hop, hp, hown, hrun, hs, hc, hwait, hst⟩).trans ?_
    cases timed <;> rfl
  · have hexec : exec (.drainCoupledProgram r) s = .next (cancelNamed (refused s w) w) :=
      congrArg Host.Outcome.next (startVec_of_failing hw hop hp hrun hs hc hst)
    have href : w.ref = r := findWork_ref hw
    refine ⟨fun hpair => ?_, fun m hpair hm hne => ?_, fun m hpair hm hne hfound => ?_⟩
    · rw [hexec, cancelNamed_of_none (by rw [if_pos hop, pairOf_refused_of_none hop hpair])]
      rfl
    · rw [hexec, cancelNamed_of_fetched hop (pairOf_refused_of_some hop hpair (href ▸ hne)) hm]
      rfl
    · rw [hexec, cancelNamed_of_running hop (pairOf_refused_of_some hop hpair (href ▸ hne)) hm
        ((findWork_setWork_ne _ _ (href ▸ hne)).trans hfound)]
      rfl

end Sys2Proof.Scope

/-! Strands and the messages between modules (R157 to R172, R350, R356): a launch, its strands, batches and bins, requests served
in order, and the engines of FAB_PUT and FAB_MSG. -/

namespace Sys2Proof.Scope
open Sys2Proof Sys2Proof.Machine Sys2Proof.Machine.Claim

/-! ## Launches (R157, R160) -/

/-- The launch-table entry `e` of a launch whose chain is `c` (R160). -/
def newLaunch (s : State) (r : WRef) (w : Work) (e : Nat) (c : Tab (Option TRec)) : Launch :=
  { key := { odie := w.die, ocoord := self s, entry := e }, work := r, cluster := w.dsp % 4, query := w.qc,
    desc := w.desc, chain := c, n := w.f 56 4 }

/-- A module with launch-table entry `l`. -/
def withLaunch (s : State) (l : Launch) : State :=
  { s with strands := { s.strands with launches := s.strands.launches ++ [l] } }

theorem exec_launch {s : State} {r : WRef} {w : Work} {t e : Nat} {c : Tab (Option TRec)} {x : Ectx}
    (h : Starts 0x0910 r (atTime s t) w) (he : freeEntry s w.die = some e)
    (hrun : launchBody.run.run { s := (started (atTime s t) w 0).1, w := (started (atTime s t) w 0).2, die := w.die } = (.ok c, x)) :
    exec (.launch r t) s = .next (setWork (withLaunch x.s (newLaunch s r w e c)) { x.w with rbuf := [] }) := by
  have hfound : findWork s r = some w := h.found
  have he' : freeEntry (atTime s t) w.die = some e := he
  change execLaunch r t s = _
  simp only [execLaunch, hfound]
  rw [if_neg (by simp [h.fetched]), runControl_of_starts _ h]
  simp only [he']
  rw [if_neg (by simp [h.fetched]), hrun]
  rfl

/-! ## Strands (R158, R168) -/

/-- A launch that has created its next strand. -/
def nextCreated (l : Launch) : Launch := { l with nextSeq := l.nextSeq + 1 }

/-- The next strand of a launch, as it is created on its origin die (R158). -/
def newStrand (l : Launch) (die item key etype since : Nat) : Strand :=
  { die := die, item := item, key := key, seq := l.nextSeq, launch := l.key, etype := etype, pos := 0, query := l.query,
    state := .ready, since := since }

theorem exec_strandCreate {s : State} {die entry t item key et : Nat} {l : Launch} {w : Work} {x : Ectx}
    (hl : launchOf s { odie := die, ocoord := self s, entry := entry } = some l) (hw : findWork s l.work = some w)
    (hmay : mayCreate s l = true) (hrun : computing s = true)
    (hform : (formStrand w l.nextSeq).run.run { s := atTime s t, w := w, die := die } = (.ok (item, key, et), x))
    (hhome : homeOf (setWork x.s { x.w with rbuf := [] }) key die ≠ .wait) :
    exec (.strandCreate die entry t) s = .next (markReady (homeStrand
      (setLaunch (setWork x.s { x.w with rbuf := [] }) (nextCreated l)) (nextCreated l) (newStrand l die item key et x.s.time)
      (homeOf (setWork x.s { x.w with rbuf := [] }) key die) x.s.time)) := by
  change execStrandCreate die entry t s = _
  simp only [execStrandCreate, hl, hw, hmay, hrun, hform]
  rw [if_pos (by rfl)]
  cases h : homeOf (setWork x.s { x.w with rbuf := [] }) key die with
  | wait => exact absurd h hhome
  | on d => rfl
  | away c => rfl
  | stop st => rfl

/-- A strand that enters a position is the strand there. -/
theorem enterPos_strand (s : State) (x : Strand) (pos t : Nat) :
    let p := (enterPos s x pos t).1
    p.seq = x.seq ∧ p.item = x.item ∧ p.pos = pos ∧ p.die = x.die := by
  unfold enterPos
  split <;> exact ⟨rfl, rfl, rfl, rfl⟩

/-- A strand homed on its origin die joins the pool there (R30, R165). -/
theorem homeStrand_origin {s : State} {l : Launch} {y : Strand} {t : Nat} (h : (enterPos s y 0 t).2 = true) :
    (homeStrand s l y (.on l.key.odie) t).strands.pool = s.strands.pool ++ [(enterPos s y 0 t).1] := by
  simp only [homeStrand, if_true, h]

/-! ## Batches and bins (R161, R171, R172) -/

theorem exec_batchDue {s s1 : State} {die pos t : Nat} {k : LKey} {r : TRec} (hr : recordAt s k die pos = some r)
    (hbin : r.bin = false) (hi : issues s k die = true) (hxs : (waitingAt s die k pos .ready).take 512 ≠ [])
    (hdue : ((waitingAt s die k pos .ready).take 512).length = 512 ∨
      cyclesPassed (oldestSince ((waitingAt s die k pos .ready).take 512)) (max s.time t)
        (reg s (if (launchInfo s k die).2 then Key.dspQueryBatchWait else Key.dspBatchWait)) = true ∨ exhausted s die k pos = true)
    (hb : issueBatch (atTime s t) die k pos r ((waitingAt s die k pos .ready).take 512) none false = some s1) :
    exec (.batchDue die k pos t) s = .next (markReady s1) := by
  change execBatchDue die k pos t s = _
  simp only [execBatchDue, hr]
  rw [if_pos (by simpa [hbin, hi, hxs, or_assoc] using hdue), hb]
  rfl

/-- A batch issued is a descriptor of its own, of its strands in ascending SEQ (R161). -/
theorem issueBatch_work {s u : State} {die pos : Nat} {k : LKey} {r : TRec} {xs : List Strand}
    {spill : Bool} (h : issueBatch s die k pos r xs none spill = some u) :
    ∃ w ∈ u.work, w.ref = .b s.strands.nextBatch ∧ w.phase = .fetched ∧ w.batch.map (·.seqs) = some ((bySeq xs).map (·.seq)) := by
  unfold issueBatch at h
  dsimp only at h
  split at h
  · cases h
  · cases h
    exact ⟨_, List.mem_append_right _ (List.mem_singleton_self _), rfl, rfl, rfl⟩

/-- The strands of a round by edge type, in ascending SEQ (R172). -/
def roundOf (r : TRec) (xs : List Strand) : List (Nat × List Strand) :=
  (List.range r.experts).map (fun e => (e, bySeq (xs.filter (fun x => x.etype == e))))

/-- The primary bins of a round (R172). -/
def primaryBins (r : TRec) (xs : List Strand) : List (Nat × List Strand) :=
  ((roundOf r xs).map (fun p => (p.1, p.2.take r.binCap))).filter (fun p => !p.2.isEmpty)

/-- The spill batches of a round (R172). -/
def spillBatches (r : TRec) (xs : List Strand) : List (Nat × List Strand) :=
  (roundOf r xs).flatMap (fun p => (cutBy r.binCap p.2.length (p.2.drop r.binCap)).map (fun b => (p.1, b)))

theorem exec_binRoundClose {s s1 s2 : State} {die pos t : Nat} {k : LKey} {r : TRec} (hr : recordAt s k die pos = some r)
    (hbin : r.bin = true) (hi : issues s k die = true) (hxs : waitingAt s die k pos .binned ≠ [])
    (hdue : reg s Key.dspBinRound ≤ (waitingAt s die k pos .binned).length ∨
      cyclesPassed (oldestSince (waitingAt s die k pos .binned)) (max s.time t) (reg s Key.dspBinWait) = true ∨
      exhausted s die k pos = true)
    (h1 : issueBins die k pos r false (primaryBins r (waitingAt s die k pos .binned)) (atTime s t) = some s1)
    (h2 : issueBins die k pos r true (spillBatches r (waitingAt s die k pos .binned)) s1 = some s2) :
    let spill := spillBatches r (waitingAt s die k pos .binned)
    let s3 := bump s2 (Key.dspSpillBatches + die) spill.length
    exec (.binRoundClose die k pos t) s = .next (markReady (if spill = [] then s3 else report s3 k 0 0 {} spill.length)) := by
  intro spill s3
  unfold primaryBins roundOf at h1
  unfold spillBatches roundOf at h2
  change execBinRoundClose die k pos t s = _
  simp only [execBinRoundClose, hr]
  rw [if_pos (by simpa [hbin, hi, hxs, or_assoc] using hdue), h1, Option.bind_some, h2]
  simp only [List.isEmpty_iff]
  rfl

/-- Settles O21, command by command. -/
theorem strands : Obligations.Strands := by
  refine ⟨fun s r w t e c x h he hrun => ⟨_, exec_launch h he hrun, rfl, rfl, rfl⟩,
    fun s die entry t l w item key et x hl hw hmay hrun hform => ⟨fun d hd hdef => ?_, fun hhome hodie hok => ?_⟩,
    fun s s1 die k pos t r hr hbin hi hxs hdue hb => ⟨exec_batchDue hr hbin hi hxs hdue hb, ?_⟩,
    fun s s1 s2 die k pos t r hr hbin hi hxs hdue h1 h2 => exec_binRoundClose hr hbin hi hxs hdue h1 h2⟩
  · rw [hdef]
    exact exec_strandCreate hl hw hmay hrun hform hd
  · obtain ⟨hseq, hitem, hpos, hdie⟩ := enterPos_strand
      (setLaunch (setWork x.s { x.w with rbuf := [] }) (nextCreated l)) (newStrand l die item key et x.s.time) 0 x.s.time
    refine ⟨_, ?_, hseq, hitem, hpos, hdie⟩
    have hon := homeStrand_origin (l := nextCreated l) (t := x.s.time) hok
    rwa [show (nextCreated l).key.odie = die from hodie] at hon
  · exact (issueBatch_work hb :)

/-! ## Messages served (R61, R353, R466, R483) -/

/-- A request that passes the checks every request meets is served. -/
theorem guarded_of_passes {s : State} {k : Pkt} (serve : State → Pkt → State) (h : Passes s k) : guarded serve s k = serve s k := by
  obtain ⟨hwhole, horder, hready⟩ := h
  have heph : (ephChecked k && k.eph != reg s Key.ephPin) = false := by
    cases hc : ephChecked k with
    | false => rfl
    | true => simp [horder hc]
  have hboot : ¬(k.ty = 7 ∧ (reg s Key.bootState = 6 ∨ reg s Key.bootState = 7)) := fun h => by
    obtain ⟨h6, h7⟩ := hready h.1
    exact h.2.elim h6 h7
  simp only [guarded, hwhole, heph]
  exact if_neg hboot

/-- Of several requests the first is served, and no other where its service takes it from the inbox. -/
theorem serveAny_cons {serve : State → Pkt → State} {k : Pkt} {ks : List Pkt} {s : State}
    (h : ks = [] ∨ (serve s k).fab.inbox.contains k = false) : serveAny serve (k :: ks) s = serve s k := by
  obtain rfl | h := h
  · exact ite_self _
  · exact if_neg (by rw [h]; decide)

/-- A command that serves a kind of request serves the first that nothing holds back. -/
theorem serves_of_serveKind {c : Nat → Instr} {f : Pkt → Bool} {go : State → Pkt → State}
    (h : ∀ s t, exec (c t) s = .next (serveKind f go t s)) : Serves c f go := by
  intro s t k ks hserving hk hpass hone
  have hg : guarded go (atTime s t) k = go (atTime s t) k := guarded_of_passes go hpass
  rw [h, serveKind, if_pos hserving, hk]
  exact congrArg (fun u => Host.Outcome.next (markReady (touch u)))
    ((serveAny_cons (by rwa [hg])).trans hg)

/-! ## Chains (R167) -/

/-- The launch a CHAIN message is of (log 32). -/
def chainKey (bs : List Byte) : LKey := { odie := field bs 2 1, ocoord := field bs 3 2, entry := field bs 0 2 }

/-- The copies a CHAIN message of records leaves on the four dies (R167). -/
theorem takeChain_copies {bs : List Byte} (s : State) (h : field bs 7 1 ≠ 0) :
    (takeChain s bs).strands.copies = s.strands.copies.filter (fun c => !decide (c.key = chainKey bs)) ++
      (List.range 4).map (fun d => { key := chainKey bs, die := d, cluster := field bs 5 1, query := field bs 6 1 == 1,
                                     chain := chainRecs (field bs 7 1) (bs.drop 8) [] }) := by
  rw [takeChain, if_neg h]
  rfl

/-! ## Engines (R131, R149, R169, R226, R242, R323) -/

/-- A descriptor that enters its engine runs the engine's body. -/
theorem runEngine_of_enters {op : Nat} {r : WRef} {s s1 : State} {w : Work} (body : Eng Unit) (h : Enters op r s s1 w) :
    runEngine op body r s = runBody body w s1 ∧ w.phase = .running ∧ w.ref = r := by
  obtain ⟨hw, hop, hreq, hrun, hp, rfl⟩ | ⟨w0, s0, hstart, hissue, rfl, rfl⟩ := h
  · refine ⟨?_, hp, findWork_ref hw⟩
    simp only [runEngine, hw]
    rw [if_neg (by simp [hop, hreq, hrun]), hp]
  · refine ⟨?_, rfl, (findWork_ref hstart.found : w0.ref = r)⟩
    simp only [runEngine, hstart.found]
    rw [if_neg (by simp [hstart.code, hstart.own, hstart.runs]), hstart.fetched]
    refine (if_pos (by simp [hstart.may, hstart.live])).trans ((if_neg (not_not_intro hstart.checks)).trans ?_)
    rw [hissue]
    rfl

/-- The record of a descriptor whose engine must wait: it keeps what its run noted of versions, rows and place (R242, R323). -/
def heldWork (w v : Work) : Work :=
  { w with phase := .running, ver := v.ver, vers := v.vers, names := v.names, cursor := v.cursor }

/-- The record of one that waits for the part at `p` of a staging row, which it now holds there (R233, log 107). -/
def holding (w : Work) (p : Nat × Nat × Nat) : Work := { w with holds := w.holds ++ [p] }

theorem settle_line (s : State) (w : Work) (k : Nat) (c : Ectx) :
    settle s w (.error (.line k)) c = setWork (joinLine (leaveLines s w.ref c.passed) k w.ref) (heldWork w c.w) := rfl

/-- The bytes of another module are asked for once (R226, R355). -/
theorem settle_need (s : State) (w : Work) (m obj off len : Nat) (aux : Option Nat) (c : Ectx) :
    let kept := if holdsRow (objOf s obj) aux = true ∧ w.req = none ∧ (m, obj, off) ∉ w.holds
      then holding (heldWork w c.w) (m, obj, off) else heldWork w c.w
    settle s w (.error (.need m obj off len aux)) c =
      if ∃ t ∈ s.fab.txns, t.kind = .rd ∧ t.issuer = some w.ref then setWork s (heldWork w c.w)
      else setWork (pump (readReq s kept m obj off len aux)) kept := by
  have hany : s.fab.txns.any (fun t => decide (t.kind = .rd) && decide (t.issuer = some w.ref)) = true ↔
      ∃ t ∈ s.fab.txns, t.kind = .rd ∧ t.issuer = some w.ref := by simp
  intro kept
  by_cases hasked : ∃ t ∈ s.fab.txns, t.kind = .rd ∧ t.issuer = some w.ref
  · rw [if_pos hasked]
    exact if_pos (hany.mpr hasked)
  · rw [if_neg hasked]
    exact if_neg (mt hany.mp hasked)

/-- A command that runs an engine's body does what an engine does. -/
theorem engineRuns_of_runEngine {clock : State → State} {c : WRef → Instr} {op : Nat} {body : WRef → Eng Unit}
    (h : ∀ s r, exec (c r) s = .next (runEngine op (body r) r (clock s))) : EngineRuns clock c op body := by
  intro s r s1 w henter x held
  obtain ⟨hrun, hp, rfl⟩ := runEngine_of_enters (body r) henter
  have hexec : exec (c w.ref) s = .next (settle s1 w x.1 x.2) := by rw [h, hrun]; rfl
  have hheld : heldWork w x.2.w = held := by rw [heldWork, ← hp]
  refine ⟨fun hx => ?_, fun code hx => ?_, fun hx => ?_, fun obj row hx => ?_, fun k hx => ?_, fun m obj off len aux hx => ?_⟩ <;>
    rw [hexec, hx]
  · rfl
  · rfl
  · rw [← hheld]
    rfl
  · rw [← hheld]
    rfl
  · rw [settle_line, hheld]
  · rw [settle_need, hheld]
    rfl

/-- Settles O34: messages as requests that are served, a chain by the copies it leaves, FAB_PUT and FAB_MSG as engines. -/
theorem moduleMessages : Obligations.ModuleMessages := by
  refine ⟨serves_of_serveKind fun _ _ => rfl, serves_of_serveKind fun _ _ => rfl, serves_of_serveKind fun _ _ => rfl,
    serves_of_serveKind fun _ _ => rfl, fun s bs die hdie h => ?_, fun s bs c h hc hne => ?_,
    fun t => engineRuns_of_runEngine fun _ _ => rfl, fun t => engineRuns_of_runEngine fun _ _ => rfl⟩
  · rw [takeChain_copies s h]
    exact ⟨_, List.mem_append_right _ (List.mem_map.mpr ⟨die, List.mem_range.mpr hdie, rfl⟩), rfl, rfl, rfl, rfl⟩
  · have hother : c.key ≠ chainKey bs := hne
    rw [takeChain_copies s h]
    exact List.mem_append_left _ (List.mem_filter.mpr ⟨hc, by simp [hother]⟩)

end Sys2Proof.Scope

/-! Records and strands that meet a channel R294 does not have, as the engines' descriptors above do: the bytes counted in
channel 0 make the state word of a channel beyond the last, and what lies there is out of reach from then on (R333, R477,
R482). -/

namespace Sys2Proof.Scope
open Sys2Proof Sys2Proof.Machine Sys2Proof.Machine.Claim Sys2Proof.Tests

/-! ## A record across two pages -/

/-- A done NOP that wants its record, in a ring of aperture 0 whose first slot is the last 16 bytes of object 1's first page, in
channel 0, and the first 16 of its second, in the channel whose state word is the write counter of channel 0; the counter is 16
bytes before it shows the state of a channel that has failed. -/
def straddlingRing : State :=
  setReg { withRegs noon [(Key.cxlLinkState, 2), (Key.queueComplBase, 2 ^ 40 + 65520)] with
    work := [work 0x0900 [(2, 2, 4)] .done]
    objs := [(1, { plainObj with rows := 131072, pages := [{ page := 0, home := .frame (65536 * channelFrame 0) },
      { page := 1, home := .frame (65536 * channelFrame writeGhost) }] })]
    queues := [(0, { complApt := true, hdmBase := 2 ^ 40 })]
    cxl := { ready := true, hdm := some (2 ^ 40, 2 ^ 38), apts := [(0, { state := .bound, obj := 1, len := 131072 })] } }
    Key.ddrWriteBytes (wrap64 (2 ^ 64 + 5 - 16))

/-- The address of byte `d` of the slot before the record is written. -/
def slotAddr (d : Nat) : Nat :=
  if d < 16 then 65536 * channelFrame 0 + 65520 + d else 65536 * channelFrame writeGhost + (d - 16)

/-- Before the record is written every byte of the slot is served here. -/
theorem straddlingRing_here : ∀ d, d < 32 →
    locate straddlingRing (objOf straddlingRing 1) (65520 + d) = .here (slotAddr d) := by decide +kernel

theorem slotAddr_inj {d e : Nat} (hd : d < 32) (he : e < 32) (h : slotAddr d = slotAddr e) : d = e := by
  have hinj : ∀ d < 32, ∀ e < 32, slotAddr d = slotAddr e → d = e := by decide +kernel
  exact hinj d hd e he h

theorem straddlingRing_injective : Injective straddlingRing (1, 65520, 32) := by
  intro d e a hd he h1 h2
  rw [straddlingRing_here d hd] at h1
  rw [straddlingRing_here e he] at h2
  exact slotAddr_inj hd he (Loc.here.inj (h1.trans h2.symm))

/-- What the completion leaves of the record's last field, the time. -/
def timeByteAfter : Option Byte :=
  match exec (.descriptorComplete q0 1) straddlingRing with
  | .next u => some (byteAt u (slotAddr 24))
  | _ => none

/-- The second half of the record is not written. -/
theorem timeByteAfter_eq : timeByteAfter = some 0 := by decide +kernel

/-- Refutes O9: the first 16 bytes of a record are counted into the state word of the channel that homes the other 16, which are
not written. -/
theorem not_descriptorCompletes : ¬ Obligations.DescriptorCompletes := by
  rintro ⟨-, h⟩
  have hring : aptTarget straddlingRing (2 ^ 40) (2 ^ 40 + 65520) = (1, 65520) := by decide +kernel
  obtain ⟨u, hu, -, hrec, -⟩ := h straddlingRing 0 0 (work 0x0900 [(2, 2, 4)] .done) 0 1 (by decide) (by decide +kernel) rfl
    (by decide +kernel) (by decide +kernel) (by decide +kernel) (by decide +kernel) (by decide +kernel) (by decide +kernel)
    (fun h => absurd (by decide +kernel) h) (fun _ => ⟨⟨rfl, rfl, by decide +kernel⟩, by decide +kernel, straddlingRing_injective⟩)
    (fun h => absurd (by decide +kernel) h) (fun h => absurd (by decide +kernel) h)
  have hbyte := hrec rfl 24 (slotAddr 24) (by decide) (straddlingRing_here 24 (by decide))
  have hafter : timeByteAfter = some (byteAt u (slotAddr 24)) := by simp only [timeByteAfter, hu]
  rw [timeByteAfter_eq, hbyte] at hafter
  exact absurd hafter (by decide +kernel)

/-! ## A strand whose edge type lies beyond the last channel -/

/-- A LAUNCH of two strands: items of four bytes in object 1, edge types in object 2, keys in object 3. -/
def typedLaunch : Work :=
  work 0x0910 [(16, 8, 2 ^ 40), (32, 8, 3 * 2 ^ 40), (48, 8, 2 * 2 ^ 40), (56, 4, 2), (61, 1, 16)] .running

/-- Its entry in the launch table. -/
def typedEntry : Launch :=
  { key := lkey, work := q0, cluster := 0, query := false, desc := typedLaunch.desc, chain := [(0, some oneRec)], n := 2 }

/-- The module with that launch in its table, its items in channel 0 and its edge types in the ghost channel. -/
def typedGhost : State :=
  { primed 4 (arena typedLaunch [channelObj 1 0, channelObj 2 ghostChannel, pageObj 3 3] []) with
    strands := { launches := [typedEntry] } }

/-- Its chain bins no strand. -/
theorem typedGhost_record : recordAt typedGhost lkey 0 0 = some oneRec := by decide +kernel

/-- What STRAND_CREATE leaves of the launch. -/
def launchAfter : Option (Option Launch) :=
  match exec (.strandCreate 0 0 9) typedGhost with
  | .next t => some (launchOf t lkey)
  | _ => none

/-- The launch has failed and both its strands have retired: its entry is free. -/
theorem launchAfter_eq : launchAfter = some none := by decide +kernel

/-- Refutes O22: STRAND_CREATE reads the item of its strand, 4 bytes of channel 0, which counts them into the state word of the
channel that homes its edge type. -/
theorem not_strandsComplete : ¬ Obligations.StrandsComplete := by
  rintro ⟨-, h, -⟩
  have hs : Still typedGhost := still_of (by decide +kernel)
  have hbin {r : TRec} (hr : recordAt typedGhost lkey 0 0 = some r) : ¬ r.bin = true := by
    cases typedGhost_record.symm.trans hr
    decide
  obtain ⟨t, ht, -, hl, -⟩ := h typedGhost 0 0 9 typedEntry typedLaunch (65536 * 3) (by decide +kernel) (by decide +kernel)
    (by decide +kernel) (by decide +kernel) hs
    ⟨fun _ => lies_of hs (by decide +kernel), fun h => absurd h (by decide +kernel), by decide +kernel,
      fun _ => lies_of hs (by decide +kernel)⟩
    (by decide +kernel) (by decide +kernel) (fun r hr hb => absurd hb (hbin hr))
  have hafter : launchAfter = some (launchOf t lkey) := by simp only [launchAfter, ht]
  rw [launchAfter_eq] at hafter
  exact absurd ((Option.some.inj hafter).trans hl) (by decide)

end Sys2Proof.Scope

/-! The engines' descriptors (R131, R176, R186 to R288, R355): a sampler's, a builder's, a gather-scatter engine's, an update's
or a save's command is one run of that engine's body, TABLE_PUBLISH and PROMOTE with the time base brought to the command's
time first. -/

namespace Sys2Proof.Scope
open Sys2Proof Sys2Proof.Machine Sys2Proof.Machine.Claim

/-- Settles O12: each command is a run of its engine's body, by what `exec` gives it; how such a run ends, stops or waits is
`engineRuns_of_runEngine`. -/
theorem engineDescriptors : Obligations.EngineDescriptors := by
  refine ⟨?samplersAndBuilders, ?gatherScatter, ?bindingUpdatesAndSaves⟩
  case samplersAndBuilders =>
    exact ⟨engineRuns_of_runEngine fun _ _ => rfl, engineRuns_of_runEngine fun _ _ => rfl,
      engineRuns_of_runEngine fun _ _ => rfl, engineRuns_of_runEngine fun _ _ => rfl, engineRuns_of_runEngine fun _ _ => rfl,
      engineRuns_of_runEngine fun _ _ => rfl⟩
  case gatherScatter =>
    exact ⟨engineRuns_of_runEngine fun _ _ => rfl, engineRuns_of_runEngine fun _ _ => rfl,
      engineRuns_of_runEngine fun _ _ => rfl, engineRuns_of_runEngine fun _ _ => rfl, engineRuns_of_runEngine fun _ _ => rfl,
      engineRuns_of_runEngine fun _ _ => rfl, fun _ => engineRuns_of_runEngine fun _ _ => rfl,
      fun _ => engineRuns_of_runEngine fun _ _ => rfl⟩
  case bindingUpdatesAndSaves =>
    exact ⟨engineRuns_of_runEngine fun _ _ => rfl, engineRuns_of_runEngine fun _ _ => rfl,
      engineRuns_of_runEngine fun _ _ => rfl, engineRuns_of_runEngine fun _ _ => rfl, engineRuns_of_runEngine fun _ _ => rfl,
      engineRuns_of_runEngine fun _ _ => rfl, engineRuns_of_runEngine fun _ _ => rfl, engineRuns_of_runEngine fun _ _ => rfl⟩

end Sys2Proof.Scope

/-! TABLE_PUBLISH (R241): the run of the engine's body, which OLD alone decides; what the publication and the sending that follows
leave of the module. -/

namespace Sys2Proof.Scope
open Sys2Proof Sys2Proof.Machine Sys2Proof.Machine.Claim

/-! ## What goes out (R348, R352): the module beside what sends -/

/-- The module without what sending may change: registers, the fabric, what was sent, the addends that take slots. -/
def offSending (s : State) : State := { offFabric s with addends := [] }

section
variable {s t : State}

theorem offSending_of_offFabric (h : offFabric t = offFabric s) : offSending t = offSending s :=
  congrArg (fun u : State => { u with addends := [] }) h

variable (h : offSending t = offSending s)
include h

theorem mem_of_offSending : t.mem = s.mem := (congrArg State.mem h :)
theorem host_of_offSending : t.host = s.host := (congrArg State.host h :)
theorem objs_of_offSending : t.objs = s.objs := (congrArg State.objs h :)
theorem slots_of_offSending : t.slots = s.slots := (congrArg State.slots h :)
theorem work_of_offSending : t.work = s.work := (congrArg State.work h :)

end

theorem releaseCtrl_offFabric (s : State) : offFabric (releaseCtrl s) = offFabric s := by
  have hpost (t : State) (k : Pkt) : offFabric (postCtrl t k) = offFabric t := by
    unfold postCtrl
    split
    · rfl
    · exact emitPkt_offFabric t _
  have hrun (ks : List Pkt) (t : State) : offFabric (ks.foldl postCtrl t) = offFabric t := by
    induction ks generalizing t with
    | nil => rfl
    | cons k ks ih => exact (ih _).trans (hpost t k)
  exact hrun _ _

theorem markSent_offFabric (s : State) (p : Pkt) : offFabric (markSent s p) = offFabric s := by
  unfold markSent
  split <;> rfl

theorem pumpAddends_offSending (s : State) : offSending (pumpAddends s) = offSending s := by
  unfold pumpAddends
  generalize List.range s.addends.length = is
  induction is generalizing s with
  | nil => rfl
  | cons i is ih =>
    refine (ih _).trans ?_
    dsimp only
    split
    · exact (apply_ite offSending _ _ _).trans (ite_self _)
    · rfl

theorem pumpWin_offFabric (held n : Nat) (w : SrcWin) (s : State) : offFabric (pumpWin held n w s).1 = offFabric s := by
  induction n generalizing w s with
  | zero => rfl
  | succ n ih =>
    unfold pumpWin
    split
    · rfl
    · split
      · split
        · exact (ih _ _).trans (markSent_offFabric s _)
        · rfl
      · split
        · refine (ih _ _).trans ?_
          split <;> rfl
        · split
          · exact (ih _ _).trans ((emitPkt_offFabric _ _).trans (markSent_offFabric s _))
          · rfl

theorem pumpAll_offFabric (done ws : List SrcWin) (s : State) : offFabric (pumpAll done ws s).1 = offFabric s := by
  induction ws generalizing done s with
  | nil => rfl
  | cons w ws ih => exact (ih _ _).trans (pumpWin_offFabric _ _ w s)

/-- Sending what can be sent leaves the rest of the module. -/
theorem pump_offSending (s : State) : offSending (pump s) = offSending s :=
  (offSending_of_offFabric (pumpAll_offFabric [] _ _)).trans
    ((pumpAddends_offSending _).trans (offSending_of_offFabric (releaseCtrl_offFabric s)))

/-! ## Descriptors in their engine (R149, R169, R170) -/

/-- A descriptor is found by its name in the list of those in flight. -/
theorem findWork_congr {s t : State} (h : t.work = s.work) (r : WRef) : findWork t r = findWork s r := by
  unfold findWork
  rw [h]

/-- An issue decision changes no descriptor in flight. -/
theorem issue_work {s t : State} {w : Work} (h : issue s w = some t) : t.work = s.work := by
  unfold issue at h
  dsimp only at h
  split at h
  · cases h; rfl
  · split at h
    · cases h
    · split at h
      · cases h
      · split at h
        · cases h
        · split at h
          · cases h
          · split at h
            · cases h
              dsimp only
              split <;> rfl
            · cases h
              split <;> split <;> rfl

/-- Noting when descriptors became ready keeps every one of them in flight. -/
theorem findWork_markReady {s : State} {r : WRef} {w : Work} (h : findWork s r = some w) :
    ∃ v, findWork (markReady s) r = some v := by
  have hw : w ∈ s.work := List.mem_of_find?_eq_some h
  refine Option.isSome_iff_exists.mp (List.find?_isSome.mpr ⟨_, List.mem_map_of_mem hw, ?_⟩)
  have hr : w.ref = r := findWork_ref h
  rw [decide_eq_true_eq, apply_ite Work.ref]
  exact (ite_self _).trans hr

/-- A descriptor that has entered its engine is in flight as the record of its run. -/
theorem findWork_of_enters {op : Nat} {r : WRef} {s s1 : State} {w : Work} (h : Enters op r s s1 w) : findWork s1 r = some w := by
  obtain ⟨hw, -, -, -, -, rfl⟩ | ⟨w0, s0, hstart, hissue, rfl, rfl⟩ := h
  · exact hw
  · obtain ⟨v, hv⟩ := findWork_markReady hstart.found
    have hr : w0.ref = r := findWork_ref hstart.found
    subst hr
    exact findWork_setWork_same _ (w0.start s0 0) ((findWork_congr (issue_work hissue) w0.ref).trans hv)

/-- The record of a descriptor whose engine has ended with a status (R131, R150). -/
def endedWork (e : Ectx) (code : Nat) : Work :=
  { e.w with holds := [], phase := if e.owed = 0 then .done else .acks,
             status := if success code && !success e.w.status then e.w.status else code,
             acc := e.acc, events := e.events, owed := e.owed }

section
variable {e : Ectx} (code : Nat) (hh : e.w.holds = [])
include hh

/-- Where no row is held for it, its record alone changes beside what sends. -/
theorem ended_offSending : offSending (ended e code) = offSending (setWork e.s (endedWork e code)) := by
  have hrel : releaseHolds e.s e.w = e.s := by rw [releaseHolds, hh]; rfl
  refine (pump_offSending _).trans ?_
  rw [hrel]
  rfl

/-- A descriptor that owes nothing is done, with the status its engine ended with. -/
theorem findWork_ended {w : Work} (hf : findWork e.s e.w.ref = some w) (ho : e.owed = 0) (hs : success e.w.status = true) :
    ∃ v, findWork (ended e code) e.w.ref = some v ∧ v.status = code ∧ v.phase = .done := by
  refine ⟨endedWork e code, ?_, if_neg (by simp [hs]), if_pos ho⟩
  rw [findWork_congr (work_of_offSending (ended_offSending code hh))]
  exact findWork_setWork_same e.s (endedWork e code) hf

end

/-! ## Runs that end and runs that stop (R131) -/

/-- Engine `m` stops for `x` in context `c'` when it starts in `c`. -/
def Stops {α : Type} (m : Eng α) (c : Ectx) (x : Stop) (c' : Ectx) : Prop := (m.run).run c = (.error x, c')

theorem Stops.bind {α β : Type} {m : Eng α} {c c' : Ectx} {x : Stop} (h : Stops m c x c') (f : α → Eng β) :
    Stops (m >>= f) c x c' := by
  unfold Stops at *
  simp only [ExceptT.run_bind, StateT.run_bind]
  rw [h]
  rfl

/-- A sequence whose first part ends and whose rest stops. -/
theorem stops_of_runs {α β : Type} {m : Eng α} {f : α → Eng β} {c c1 c2 : Ectx} {a : α} {x : Stop} (h : Runs m c a c1)
    (g : Stops (f a) c1 x c2) : Stops (m >>= f) c x c2 := by
  unfold Runs Stops at *
  simp only [ExceptT.run_bind, StateT.run_bind]
  rw [h]
  exact g

theorem Stops.require {b : Bool} (code : Nat) (c : Ectx) (h : b = false) : Stops (require b code) c (.status code) c := by
  subst h
  rfl

/-- The context in which an engine's body runs. -/
def engCtx (s : State) (w : Work) : Ectx := { s := s, w := w, die := w.die }

section
variable {op : Nat} {r : WRef} {body : Eng Unit} {s s1 : State} {w : Work} {e : Ectx} (h : Enters op r s s1 w)
include h

theorem runEngine_of_runs (hrun : Runs body (engCtx s1 w) () e) : runEngine op body r s = ended e 0x0000 := by
  unfold Runs engCtx at hrun
  obtain ⟨hbody, -⟩ := runEngine_of_enters body h
  rw [hbody, runBody, hrun]
  rfl

theorem runEngine_of_stops {code : Nat} (hstop : Stops body (engCtx s1 w) (.status code) e) :
    runEngine op body r s = ended e code := by
  unfold Stops engCtx at hstop
  obtain ⟨hbody, -⟩ := runEngine_of_enters body h
  rw [hbody, runBody, hstop]
  rfl

end

/-! ## The engine's run (R241) -/

/-- A table slot once its draft is published. -/
def published (s : State) (x : TableSlot) : TableSlot :=
  { obj := x.obj, cur := draftOf x, old := if x.cur = 0 then none else some x.cur, draftOpen := decide (x.cur = 0)
    oldIdle := s.time }

/-- The module once the draft of slot `k` is published. -/
def publish (s : State) (k : Nat) : State :=
  refreshTable { s with slots := Tab.set {} s.slots k (published s (Tab.get {} s.slots k)) } (published s (Tab.get {} s.slots k))

theorem publishBody_runs {r : WRef} {c : Ectx} (hk : c.w.f 16 2 < 256) (hold : (Tab.get {} c.s.slots (c.w.f 16 2)).old = none)
    (hw : ∀ v ∈ c.s.work, v.ref ≠ r → v.order < c.w.order → mayWrite c.s (Tab.get {} c.s.slots (c.w.f 16 2)).obj v = false) :
    Runs (publishBody r) c () { c with s := publish c.s (c.w.f 16 2) } := by
  have hfree : ¬ c.s.work.any (fun w => decide (w.ref ≠ r) && decide (w.order < c.w.order) &&
      mayWrite c.s (Tab.get {} c.s.slots (c.w.f 16 2)).obj w) = true := by
    simp only [List.any_eq_true, Bool.and_eq_true, decide_eq_true_eq, not_exists, not_and, and_imp]
    intro v hv hr ho
    simp [hw v hv hr ho]
  refine Runs.bind (Runs.get c) (Runs.bind (Runs.require _ c (decide_eq_true hk))
    (Runs.bind (Runs.require _ c (by rw [hold]; rfl)) ?_))
  rw [if_neg hfree]
  exact Runs.modS _ c

/-- While OLD is not none the draft is not published. -/
theorem publishBody_stops {r : WRef} {c : Ectx} (hk : c.w.f 16 2 < 256) (hold : (Tab.get {} c.s.slots (c.w.f 16 2)).old ≠ none) :
    Stops (publishBody r) c (.status 0x0502) c :=
  stops_of_runs (Runs.get c) (stops_of_runs (Runs.require _ c (decide_eq_true hk))
    (Stops.bind (Stops.require _ c (Option.isNone_eq_false_iff.mpr (Option.isSome_iff_ne_none.mpr hold))) _))

/-! ## What it leaves (R241, R248) -/

/-- The module without what hot copies may change: memory and the directory. -/
def offCopies (s : State) : State := { s with mem := {}, dir := {} }

theorem refreshCopies_offCopies (s : State) (o : Obj) (row : Nat) : offCopies (refreshCopies s o row) = offCopies s := by
  have hwrite (bs : List Byte) (es : List DirEntry) :
      offCopies (es.foldl (fun s e => writePhys s e.addr bs) s) = offCopies s := by
    induction es generalizing s with
    | nil => rfl
    | cons e es ih => exact ih _
  unfold refreshCopies
  dsimp only
  split
  · split
    · rfl
    · exact hwrite _ _
  · rfl

theorem refreshTable_offCopies (s : State) (x : TableSlot) : offCopies (refreshTable s x) = offCopies s := by
  unfold refreshTable
  dsimp only
  generalize List.eraseDups (α := Nat) _ = rows
  generalize objOf s x.obj = o
  induction rows generalizing s with
  | nil => rfl
  | cons row rows ih => exact (ih _).trans (refreshCopies_offCopies s o row)

/-- A table without hot copies has none to follow it. -/
theorem refreshTable_of_none {s : State} (x : TableSlot) (he : s.dir.entries = []) (hf : s.dir.fills = []) :
    refreshTable s x = s := by
  simp [refreshTable, he, hf]

theorem publish_offCopies (s : State) (k : Nat) :
    offCopies (publish s k) = offCopies { s with slots := Tab.set {} s.slots k (published s (Tab.get {} s.slots k)) } :=
  refreshTable_offCopies _ _

section
variable (s : State) (k : Nat)

theorem publish_slots : (publish s k).slots = Tab.set {} s.slots k (published s (Tab.get {} s.slots k)) :=
  (congrArg State.slots (publish_offCopies s k) :)
theorem publish_objs : (publish s k).objs = s.objs := (congrArg State.objs (publish_offCopies s k) :)
theorem publish_host : (publish s k).host = s.host := (congrArg State.host (publish_offCopies s k) :)
theorem publish_mem (he : s.dir.entries = []) (hf : s.dir.fills = []) : (publish s k).mem = s.mem := by
  rw [publish, refreshTable_of_none] <;> assumption
theorem publish_work : (publish s k).work = s.work := (congrArg State.work (publish_offCopies s k) :)

end

/-- Settles O16: the run of the engine's body ends by OLD alone, and beside what sends it leaves the published slot, or
nothing; hot copies have memory and directory to themselves. -/
theorem tablePublish : Obligations.TablePublish := by
  intro s r t s1 w ⟨henter, hfresh⟩ hk x
  obtain ⟨-, -, hr⟩ := runEngine_of_enters (publishBody r) henter
  have hfound : findWork s1 w.ref = some w := hr ▸ findWork_of_enters henter
  have hok : success w.status = true := by rw [hfresh.status]; rfl
  refine ⟨fun hold hw => ?_, fun hold => ?_⟩
  · let e : Ectx := { engCtx s1 w with s := publish s1 (w.f 16 2) }
    have hrun : Runs (publishBody r) (engCtx s1 w) () e := publishBody_runs hk hold hw
    have hoff := ended_offSending (e := e) 0x0000 hfresh.holds
    have hslots : (ended e 0x0000).slots = _ := (slots_of_offSending hoff).trans (publish_slots s1 (w.f 16 2))
    have hrec : findWork e.s w.ref = some w := (findWork_congr (publish_work s1 _) _).trans hfound
    refine ⟨_, congrArg Host.Outcome.next (runEngine_of_runs henter hrun), ?_, fun j hj => ?_,
      (objs_of_offSending hoff).trans (publish_objs s1 _), fun he hf => (mem_of_offSending hoff).trans (publish_mem s1 _ he hf),
      (host_of_offSending hoff).trans (publish_host s1 _), hr ▸ findWork_ended 0x0000 hfresh.holds hrec rfl hok⟩
    · rw [hslots, Tab.get_set_same]
      rfl
    · rw [hslots, Tab.get_set_ne _ _ _ _ hj]
  · have hstop : Stops (publishBody r) (engCtx s1 w) (.status 0x0502) (engCtx s1 w) := publishBody_stops hk hold
    have hoff := ended_offSending (e := engCtx s1 w) 0x0502 hfresh.holds
    exact ⟨_, congrArg Host.Outcome.next (runEngine_of_stops henter hstop), (slots_of_offSending hoff :),
      (objs_of_offSending hoff :), (mem_of_offSending hoff :),
      hr ▸ findWork_ended (e := engCtx s1 w) 0x0502 hfresh.holds hfound rfl hok⟩

end Sys2Proof.Scope

/-! Units at the memory (R229, R230, R251, R252, R300): an addend at its adder, a shard's sketch and its fills, a codeword
scrubbed. -/

namespace Sys2Proof.Scope
open Sys2Proof Sys2Proof.Machine Sys2Proof.Machine.Claim

/-! ## Runs of bytes -/

@[simp] theorem getRange_length {α : Type} (d : α) (t : Tab α) (x n : Nat) : (Tab.getRange d t x n).length = n := by
  induction n generalizing x with
  | zero => rfl
  | succ n ih => simp [Tab.getRange, ih]

/-- Tables alike at the keys of a run have the same run. -/
theorem getRange_congr {α : Type} {d : α} {t u : Tab α} {x n : Nat} (h : ∀ k, x ≤ k → k < x + n → Tab.get d t k = Tab.get d u k) :
    Tab.getRange d t x n = Tab.getRange d u x n := by
  induction n generalizing x with
  | zero => rfl
  | succ n ih =>
    rw [Tab.getRange, Tab.getRange, h x (by omega) (by omega), ih fun k hk hn => h k (by omega) (by omega)]

/-- A run reads as it was written. -/
theorem getRange_setRange_same {α : Type} [DecidableEq α] (d : α) (t : Tab α) (x : Nat) (vs : List α) :
    Tab.getRange d (Tab.setRange d t x vs) x vs.length = vs := by
  induction vs generalizing t x with
  | nil => rfl
  | cons v vs ih =>
    rw [Tab.setRange, List.length_cons, Tab.getRange, ih, Tab.get_setRange_ne d vs _ _ _ (by omega), Tab.get_set_same]

/-- A run written apart from another leaves it. -/
theorem getRange_setRange_apart {α : Type} [DecidableEq α] (d : α) (t : Tab α) {x y n : Nat} (vs : List α)
    (h : x + n ≤ y ∨ y + vs.length ≤ x) : Tab.getRange d (Tab.setRange d t y vs) x n = Tab.getRange d t x n :=
  getRange_congr fun _ _ _ => Tab.get_setRange_ne d vs t y _ (by omega)

/-! ## One addition (R229, R230) -/

@[simp] theorem countBytes_mem (s : State) (wr : Bool) (a n : Nat) : (countBytes s wr a n).mem = s.mem := by
  simp [countBytes, apply_ite State.mem]

theorem readPhys_eq {s : State} {a n : Nat} {bs : List Byte} (h : readPhys s a n = some bs) :
    bs = Tab.getRange 0 s.mem.bytes a n := by
  unfold readPhys at h
  split at h
  · cases h
  · exact (Option.some.inj h).symm

theorem unsigned_lt (n : Nat) (v : Int) : unsigned n v < 2 ^ n := by
  have hpos : (0 : Int) < ((2 ^ n : Nat) : Int) := by exact_mod_cast Nat.two_pow_pos n
  have := Int.emod_lt_of_pos v hpos
  have := Int.emod_nonneg v hpos.ne'
  unfold unsigned
  omega

/-- The bytes of an element after one addition of `v` to it. -/
def addedBytes (t : Tab Byte) (n a : Nat) (v : Int) : List Byte :=
  leBytes n (unsigned (8 * n) (leNat (Tab.getRange 0 t a n) + v))

theorem leNat_addedBytes (t : Tab Byte) (n a : Nat) (v : Int) :
    leNat (addedBytes t n a v) = unsigned (8 * n) (leNat (Tab.getRange 0 t a n) + v) := by
  rw [addedBytes, leNat_leBytes, Nat.mod_eq_of_lt]
  exact (unsigned_lt _ _).trans_eq (Nat.pow_mul 2 8 n)

/-- An addition to an integer of 32 bits writes the element alone. -/
theorem addAt_int_bytes {s t : State} {a hdr : Nat} {v : Int} (h : addAt s false a hdr v = some t) :
    t.mem.bytes = Tab.setRange 0 s.mem.bytes a (addedBytes s.mem.bytes 4 a v) := by
  simp only [addAt, Bool.false_eq_true, if_false] at h
  split at h
  case h_1 e he =>
    cases h
    rw [readPhys_eq he]
    rfl
  case h_2 => cases h

/-- An addition to an XA128 element writes it, then its row's header. -/
theorem addAt_xa_bytes {s t : State} {a hdr : Nat} {v : Int} (h : addAt s true a hdr v = some t) :
    t.mem.bytes = Tab.setRange 0 (Tab.setRange 0 s.mem.bytes a (addedBytes s.mem.bytes 16 a v)) hdr
      (headerEntry (Tab.getRange 0 s.mem.bytes hdr 64) v) := by
  simp only [addAt, if_true] at h
  split at h
  case h_1 e hd he hh =>
    cases h
    rw [readPhys_eq he, readPhys_eq hh]
    simp only [writePhys, countBytes_mem]
    rfl
  case h_2 => cases h

@[simp] theorem putField_length {bs : List Byte} {at_ n : Nat} (v : Nat) (h : at_ + n ≤ bs.length) :
    (putField bs at_ n v).length = bs.length := by
  simp [putField]
  omega

/-- A field reads as it was put, as far as its bytes hold it. -/
theorem field_putField_same {bs : List Byte} {at_ n : Nat} (v : Nat) (h : at_ ≤ bs.length) :
    field (putField bs at_ n v) at_ n = v % 256 ^ n := by
  rw [field, putField, List.append_assoc, List.drop_left' (by simpa using h), List.take_left' (leBytes_length n v), leNat_leBytes]

theorem headerEntry_length {hd : List Byte} (v : Int) (h : hd.length = 64) : (headerEntry hd v).length = 64 := by
  simp [headerEntry, h]

/-- ENTRIES counts one more, up to its top (R228). -/
theorem headerEntry_entries {hd : List Byte} (v : Int) (h : hd.length = 64) :
    field (headerEntry hd v) 4 4 = stick32 (field hd 4 4 + 1) := by
  have hstick : stick32 (field hd 4 4 + 1) < 256 ^ 4 := by unfold stick32; omega
  rw [headerEntry, field_putField_same _ (by simp [h]), Nat.mod_eq_of_lt hstick]

/-- An XA128 addition: the element's value, the count of its row's header, and the bytes of neither. -/
theorem addAt_xa {s t : State} {a hdr : Nat} {v : Int} (h : addAt s true a hdr v = some t)
    (hapart : a + 16 ≤ hdr ∨ hdr + 64 ≤ a) :
    leNat (Tab.getRange 0 t.mem.bytes a 16) = unsigned 128 (leNat (Tab.getRange 0 s.mem.bytes a 16) + v) ∧
    field (Tab.getRange 0 t.mem.bytes hdr 64) 4 4 = stick32 (field (Tab.getRange 0 s.mem.bytes hdr 64) 4 4 + 1) ∧
    ∀ b, (b < a ∨ a + 16 ≤ b) → (b < hdr ∨ hdr + 64 ≤ b) → byteAt t b = byteAt s b := by
  have hlen : (addedBytes s.mem.bytes 16 a v).length = 16 := leBytes_length _ _
  have hhdr : (headerEntry (Tab.getRange 0 s.mem.bytes hdr 64) v).length = 64 := headerEntry_length v (getRange_length _ _ _ _)
  have hval := getRange_setRange_same 0 s.mem.bytes a (addedBytes s.mem.bytes 16 a v)
  have hcount := getRange_setRange_same 0 (Tab.setRange 0 s.mem.bytes a (addedBytes s.mem.bytes 16 a v)) hdr
    (headerEntry (Tab.getRange 0 s.mem.bytes hdr 64) v)
  rw [hlen] at hval
  rw [hhdr] at hcount
  rw [addAt_xa_bytes h]
  refine ⟨?_, ?_, fun b ha hb => ?_⟩
  · rw [getRange_setRange_apart _ _ _ (by omega), hval, leNat_addedBytes]
  · rw [hcount, headerEntry_entries v (getRange_length _ _ _ _)]
  · rw [byteAt, addAt_xa_bytes h, Tab.get_setRange_ne _ _ _ _ _ (by omega), Tab.get_setRange_ne _ _ _ _ _ (by omega)]
    rfl

/-- An addition to an integer of 32 bits: the element's value, and every other byte. -/
theorem addAt_int {s t : State} {a hdr : Nat} {v : Int} (h : addAt s false a hdr v = some t) :
    leNat (Tab.getRange 0 t.mem.bytes a 4) = unsigned 32 (leNat (Tab.getRange 0 s.mem.bytes a 4) + v) ∧
    ∀ b, (b < a ∨ a + 4 ≤ b) → byteAt t b = byteAt s b := by
  have hlen : (addedBytes s.mem.bytes 4 a v).length = 4 := leBytes_length _ _
  have hval := getRange_setRange_same 0 s.mem.bytes a (addedBytes s.mem.bytes 4 a v)
  rw [hlen] at hval
  refine ⟨?_, fun b hb => ?_⟩
  · rw [addAt_int_bytes h, hval, leNat_addedBytes]
  · rw [byteAt, addAt_int_bytes h, Tab.get_setRange_ne _ _ _ _ _ (by omega)]
    rfl

/-! ## An addend at its adder (R15, R229, R233) -/

/-- The sender of an addend hears of it, and what has a slot now goes on. -/
def acknowledged (s : State) (x : Addend) (st : Nat) (acc : Acc) : State :=
  pump (match x.issuer with
    | some r => ackWork s r st acc
    | none => s)

section
variable {s : State} {n : Nat} {x : Addend}

theorem exec_addendEntry_done {s1 : State} {e : Ev} (hx : s.addends[n]? = some x) (hs : x.sent = true)
    (he : enterAddend s x = .done s1 e) :
    exec (.addendEntry n) s =
      .next (acknowledged { s1 with addends := s1.addends.eraseIdx n } x 0x0000 (({} : Acc).add e)) := by
  show execAddendEntry n s = _
  simp only [execAddendEntry, hx, hs, he]
  rfl

theorem exec_addendEntry_stop {st : Nat} (hx : s.addends[n]? = some x) (hs : x.sent = true) (he : enterAddend s x = .stop st) :
    exec (.addendEntry n) s = .next (acknowledged { s with addends := s.addends.eraseIdx n } x st {}) := by
  show execAddendEntry n s = _
  simp only [execAddendEntry, hx, hs, he]
  rfl

theorem exec_addendEntry_wait (hx : s.addends[n]? = some x) (h : x.sent = false ∨ enterAddend s x = .wait) :
    exec (.addendEntry n) s = .next s := by
  show execAddendEntry n s = _
  obtain hs | he := h
  · simp [execAddendEntry, hx, hs]
  · simp [execAddendEntry, hx, he]

/-- The adder does not reach into a row that a read-out or a clear holds. -/
theorem enterAddend_of_held (ht : (objOf s x.obj).adderTarget = true) (hf : (objOf s x.obj).fmt = 4 → x.fmt = .s32)
    (hsp : (objOf s x.obj).spans ((objOf s x.obj).elemOff x.elem) (objOf s x.obj).elemBytes = true)
    (hh : rowHeld s (objOf s x.obj).num (if (objOf s x.obj).rowlen = 0 then 0 else x.elem / (objOf s x.obj).rowlen) = true) :
    enterAddend s x = .wait := by
  unfold enterAddend
  dsimp only
  rw [if_neg (by simp [ht]), if_neg (fun h => h.2 (hf h.1)), if_neg (by simp [hsp]), if_pos hh]

end

/-! ## The sketch of a shard (R251) and its fills (R252) -/

/-- What the halving of shard `die` leaves of an entry of the sketch. -/
def halved (die : Nat) (e : Nat × Nat) : Option (Nat × Nat) :=
  if e.1 / 262144 = die then (if e.2 / 2 = 0 then none else some (e.1, e.2 / 2)) else some e

/-- In canonical form no key lies below the first. -/
theorem get_of_wfFrom {α : Type} [DecidableEq α] {d : α} {t : Tab α} {lo k : Nat} (h : Tab.wfFrom d lo t = true) (hk : k < lo) :
    Tab.get d t k = d := by
  induction t generalizing lo with
  | nil => rfl
  | cons e t ih =>
    obtain ⟨j, v⟩ := e
    simp only [Tab.wfFrom, Bool.and_eq_true, decide_eq_true_eq] at h
    rw [Tab.get, if_neg (by omega), ih h.2.2 (by omega)]

/-- A counter after the halving of a shard. -/
theorem get_halved {die lo : Nat} {t : Tab Nat} (h : Tab.wfFrom 0 lo t = true) (k : Nat) :
    Tab.get 0 (t.filterMap (halved die)) k = if k / 262144 = die then Tab.get 0 t k / 2 else Tab.get 0 t k := by
  induction t generalizing lo with
  | nil => simp [Tab.get]
  | cons e t ih =>
    obtain ⟨j, v⟩ := e
    simp only [Tab.wfFrom, Bool.and_eq_true, decide_eq_true_eq] at h
    have hgone : Tab.get 0 t j = 0 := get_of_wfFrom h.2.2 (by omega)
    have htail := ih h.2.2
    by_cases hj : j / 262144 = die
    · by_cases hv : v / 2 = 0
      · rw [List.filterMap_cons_none (by simp [halved, hj, hv]), htail]
        by_cases hk : k = j
        · subst hk; simp [Tab.get, hj, hgone, hv]
        · simp [Tab.get, hk]
      · rw [List.filterMap_cons_some (by simp [halved, hj, hv]; rfl), Tab.get, htail]
        by_cases hk : k = j
        · subst hk; simp [Tab.get, hj]
        · simp [Tab.get, hk]
    · rw [List.filterMap_cons_some (by simp [halved, hj]; rfl), Tab.get, htail]
      by_cases hk : k = j
      · subst hk; simp [Tab.get, hj]
      · simp [Tab.get, hk]

theorem exec_sketchHalving {s : State} {die : Nat} (hd : die < 4) (h : halvingDue s die = true) :
    exec (.sketchHalving die) s = .next (halveSketch s die) := by
  show execSketchHalving die s = _
  rw [execSketchHalving, if_pos ⟨hd, h⟩]

theorem exec_cacheFill {s : State} {n a : Nat} {f : Fill} (hf : s.dir.fills[n]? = some f) (hd : (objOf s f.obj).declared = true)
    (hl : locate s (objOf s f.obj) (f.row * (objOf s f.obj).pitch) = .here a) :
    exec (.cacheFill n) s = .next (fillRow { s with dir := { s.dir with fills := s.dir.fills.eraseIdx n } } f.die (objOf s f.obj)
      f.row f.ver f.data) := by
  show execCacheFill n s = _
  have hhere : locate { s with dir := { s.dir with fills := s.dir.fills.eraseIdx n } } (objOf s f.obj)
      (f.row * (objOf s f.obj).pitch) = .here a := hl
  have hobj : objOf { s with dir := { s.dir with fills := s.dir.fills.eraseIdx n } } f.obj = objOf s f.obj := rfl
  simp only [execCacheFill, hf, hobj, hhere]
  rw [if_pos hd]

/-! ## The patrol scrub (R300) -/

/-- The module once a codeword of `n` bytes has been scrubbed: the read counts, and an error it may have met (log 101). -/
def scrubbed (s : State) (reads errors writes n : Nat) : State :=
  let d := drawFree (bump s reads n)
  if d.1 % 2 = 1 then bump (bump d.2 errors 1) writes n else d.2

theorem scrubbed_counts {s : State} {reads errors writes : Nat} (n : Nat) (hre : reads ≠ errors) (hrw : reads ≠ writes)
    (hew : errors ≠ writes) :
    let t := scrubbed s reads errors writes n
    reg t reads = wrap64 (reg s reads + n) ∧
    (reg t errors = reg s errors ∧ reg t writes = reg s writes ∨
      reg t errors = wrap64 (reg s errors + 1) ∧ reg t writes = wrap64 (reg s writes + n)) ∧
    RegsKept s t [reads, writes, errors] ∧ t.fresh = s.fresh + 1 ∧ { t with dict := s.dict, fresh := s.fresh } = s := by
  have hdraw (k : Nat) : reg (drawFree (bump s reads n)).2 k = reg (bump s reads n) k := rfl
  unfold scrubbed RegsKept
  dsimp only
  split
  · simp only [reg_bump, hdraw]
    refine ⟨by simp [hre, hrw], .inr ⟨by simp [hre.symm, hew], by simp [hrw.symm, hew.symm]⟩, fun k hk => ?_, rfl, rfl⟩
    simp only [List.mem_cons, List.not_mem_nil, or_false, not_or] at hk
    simp [hk]
  · simp only [reg_bump, hdraw]
    refine ⟨by simp, .inl ⟨by simp [hre.symm], by simp [hrw.symm]⟩, fun k hk => ?_, rfl, rfl⟩
    simp only [List.mem_cons, List.not_mem_nil, or_false, not_or] at hk
    simp [hk]

/-- A counter of unit `unit`: of a stack, or of a channel (R332, R333). -/
def unitKey (unit h d : Nat) : Nat := if unit < 8 then h + unit else d + (unit - 8)

theorem exec_patrolScrub {s : State} {unit addr : Nat} (hu : unit < 24) (ha : unitOf addr = 64 + unit)
    (hp : poisoned s.mem addr 1 = false) (hh : reg s (if unit < 8 then Key.hbmScrubHours else Key.ddrScrubHours) ≠ 0)
    (hst : reg s (unitKey unit Key.hbmState Key.ddrState) = 1)
    (hc : addr < (if unit < 8 then hbmBase + unit * 2 ^ 36 else ddrBase + (unit - 8) * 2 ^ 38) +
      reg s (unitKey unit Key.hbmCapacity Key.ddrCapacity)) :
    exec (.patrolScrub unit addr) s = .next (scrubbed s (unitKey unit Key.hbmReadBytes Key.ddrReadBytes)
      (unitKey unit Key.hbmCeCount Key.ddrCeCount) (unitKey unit Key.hbmWriteBytes Key.ddrWriteBytes) (cwBytes addr)) := by
  show execPatrolScrub unit addr s = _
  have hgo : ¬ (reg s (if unit < 8 then Key.hbmScrubHours else Key.ddrScrubHours) = 0 ∨ 24 ≤ unit ∨ unitOf addr ≠ 64 + unit ∨
      reg s (unitKey unit Key.hbmState Key.ddrState) ≠ 1 ∨
      (if unit < 8 then hbmBase + unit * 2 ^ 36 else ddrBase + (unit - 8) * 2 ^ 38) +
        reg s (unitKey unit Key.hbmCapacity Key.ddrCapacity) ≤ addr ∨ poisoned s.mem addr 1 = true) := by
    simp only [not_or, not_not, Bool.not_eq_true, Nat.not_le]
    exact ⟨hh, hu, ha, hst, hc, hp⟩
  unfold execPatrolScrub
  by_cases h8 : unit < 8
  · simp only [unitKey, h8, if_true, decide_true, beq_eq_false_iff_ne] at hgo ⊢
    rw [if_neg hgo]
    rfl
  · simp only [unitKey, h8, if_false, decide_false, Bool.false_eq_true, beq_eq_false_iff_ne] at hgo ⊢
    rw [if_neg hgo]
    rfl

/-- The counters of a unit are entries of their own. -/
theorem unitKey_ne {unit h d h' d' : Nat} (hh : h ≠ h') (hd : d ≠ d') : unitKey unit h d ≠ unitKey unit h' d' := by
  unfold unitKey
  split <;> omega

/-- Settles O23: an addend by what its adder answers, an addition by the bytes it writes, the sketch entry by entry, the scrub
by the counters of its unit. -/
theorem memorySideUnits : Obligations.MemorySideUnits := by
  refine ⟨⟨fun s n x s1 e => exec_addendEntry_done, fun s n x st => exec_addendEntry_stop, fun s n x => exec_addendEntry_wait,
    fun s x => enterAddend_of_held, fun s a hdr v t => addAt_xa, fun s a hdr v t => addAt_int⟩, fun s die hd h => ?_,
    fun s n f a => exec_cacheFill, ?_⟩
  · exact ⟨exec_sketchHalving hd h, Tab.get_set_same _ _ _ _, fun hwf k => get_halved hwf k⟩
  · intro s unit addr hu ha hp key reads writes errors hh hst hc
    exact ⟨_, exec_patrolScrub hu ha hp hh hst hc, scrubbed_counts _ (unitKey_ne (by decide) (by decide))
      (unitKey_ne (by decide) (by decide)) (unitKey_ne (by decide) (by decide))⟩

end Sys2Proof.Scope

/-! A row migration whose new location lies outside the memory map of R294. The statement leaves that location free. Key
0x40000300 is FAB_COORD; it is also where the model counts the bytes read of a channel 0xDFFEF00, which R294 does not have. The
fold of the delta buffer into a row there changes the module's own coordinates before its commit looks at them (R253, R333). -/

namespace Sys2Proof.Scope
open Sys2Proof Sys2Proof.Machine Sys2Proof.Machine.Claim Sys2Proof.Tests

/-! ## The rows moved here while host accesses are served -/

/-- A run of steps that each leave the moved rows leaves them. -/
theorem foldl_guests {α : Type} {f : State → α → State} (h : ∀ s x, (f s x).dir.guests = s.dir.guests) (xs : List α) (s : State) :
    (xs.foldl f s).dir.guests = s.dir.guests := by
  induction xs generalizing s with
  | nil => rfl
  | cons x xs ih => rw [List.foldl_cons, ih, h]

@[simp] theorem countBytes_dir (s : State) (wr : Bool) (a n : Nat) : (countBytes s wr a n).dir = s.dir := by
  simp [countBytes, apply_ite State.dir]

@[simp] theorem countRange_dir (s : State) (wr : Bool) (o : Obj) (off len : Nat) : (countRange s wr o off len).dir = s.dir :=
  (congrArg State.dir (countRange_offReads s wr o off len) :)

@[simp] theorem sampleRange_dir (s : State) (o : Obj) (off len : Nat) : (sampleRange s o off len).dir = s.dir :=
  (congrArg State.dir (sampleRange_offReads s o off len) :)

@[simp] theorem tellRead_dir (s : State) (o : Obj) (off len : Nat) : (tellRead s o off len).dir = s.dir := by
  have hask (t : State) (n : Nat) : (askHost t n off len).dir = t.dir := by
    unfold askHost
    exact (apply_ite State.dir _ _ _).trans (ite_self _)
  rw [tellRead, countRange_dir, hask]
  exact (congrArg State.dir (snoopRange_offReads s o.num off len false) :)

@[simp] theorem clearCovered_dir (s : State) (n off len : Nat) : (clearCovered s n off len).dir = s.dir := by
  unfold clearCovered
  exact (apply_ite State.dir _ _ _).trans (ite_self _)

@[simp] theorem stampObj_dir (s : State) (n : Nat) : (stampObj s n).dir = s.dir := by
  unfold stampObj
  exact (apply_ite State.dir _ _ _).trans (ite_self _)

theorem refreshCopies_guests (s : State) (o : Obj) (row : Nat) : (refreshCopies s o row).dir.guests = s.dir.guests := by
  unfold refreshCopies
  dsimp only
  split
  · split
    · rfl
    · exact foldl_guests (f := fun s (e : DirEntry) => writePhys s e.addr _) (fun _ _ => rfl) _ _
  · rfl

theorem abortMigration_guests (s : State) (m : Migration) : (abortMigration s m).dir.guests = s.dir.guests := by
  unfold abortMigration
  dsimp only
  split
  · split <;> rfl
  · show (State.dir (if _ then _ else _)).guests = _
    split <;> rfl

theorem sendSnapshot_dir (s : State) (m : Migration) : (sendSnapshot s m).dir = s.dir := by
  unfold sendSnapshot
  split <;> rfl

theorem restartMigration_guests (s : State) (o : Obj) (row : Nat) : (restartMigration s o row).dir.guests = s.dir.guests := by
  unfold restartMigration
  split
  · rfl
  · dsimp only
    split
    · exact abortMigration_guests _ _
    · rw [sendSnapshot_dir]
      simp [setMState, setMigration]

theorem afterWrite_guests (s : State) (n off len : Nat) : (afterWrite s n off len).dir.guests = s.dir.guests := by
  unfold afterWrite
  rw [stampObj_dir]
  split
  · rfl
  · exact foldl_guests (fun t row => (restartMigration_guests _ _ row).trans (refreshCopies_guests t _ row)) _ _

theorem writeLocal_guests (s : State) (o : Obj) (off : Nat) (bs : List Byte) :
    (writeLocal s o off bs).dir.guests = s.dir.guests := by
  unfold writeLocal
  rw [afterWrite_guests, clearCovered_dir, sampleRange_dir]
  refine foldl_guests (fun t p => ?_) _ _
  split
  · rw [countBytes_dir]; rfl
  · rfl

theorem draftRow_dir {s t : State} {n row : Nat} (h : draftRow s n row = .ok t) : t.dir = s.dir := by
  unfold draftRow at h
  dsimp only at h
  split at h
  · cases h; rfl
  · split at h
    · cases h
    · split at h
      · cases h; rfl
      · split at h
        · cases h
        · split at h
          · cases h
          · cases h; simp

theorem draftRows_dir {s t : State} {n off len : Nat} (h : draftRows s n off len = .ok t) : t.dir = s.dir := by
  unfold draftRows at h
  dsimp only at h
  split at h
  · cases h; rfl
  · refine (List.foldlRecOn (motive := fun r => ∀ u, r = RowWrite.ok u → u.dir = s.dir) _ _ ?_ ?_) t h
    · rintro u ⟨⟩; rfl
    · intro r hr row _ u hu
      split at hu
      · split at hu
        · exact (draftRow_dir hu).trans (hr _ rfl)
        · cases hu; exact hr _ rfl
      · exact hr u hu

theorem trackLines_guests (s : State) (apt off len : Nat) : (trackLines s apt off len).dir.guests = s.dir.guests := by
  refine foldl_guests (fun t l => ?_) _ _
  unfold trackLine
  dsimp only
  split <;> rfl

theorem aptAccess_guests {s t : State} {x : HostAcc} (h : aptAccess s x = some t) : t.dir.guests = s.dir.guests := by
  unfold aptAccess at h
  dsimp only at h
  split at h
  · cases h
    split <;> rfl
  · split at h
    · cases h
    · split at h
      · cases h
        rw [send_dir, trackLines_guests, countHostRead, countRange_dir, sampleRange_dir]
      · split at h
        · rename_i hd
          cases h
          rw [markReady_dir, writeLocal_guests]
          exact (congrArg Directory.guests (draftRows_dir hd) :)
        · cases h
        · cases h; rfl

theorem tryAccess_guests (s : State) (x : HostAcc) : (tryAccess s x).dir.guests = s.dir.guests := by
  unfold tryAccess
  dsimp only
  split
  · rfl
  · cases h : aptAccess s x with
    | none => rfl
    | some t => exact aptAccess_guests h

/-- No host access moves a row. -/
theorem serveHeld_guests (s : State) : (serveHeld s).dir.guests = s.dir.guests := by
  unfold serveHeld
  dsimp only
  split
  · rfl
  · split
    · exact foldl_guests tryAccess_guests _ _
    · rfl
    · rfl
    · refine foldl_guests (fun t x => ?_) _ _
      unfold poisonAccess
      split <;> rfl

/-! ## A location beyond the last channel -/

/-- The address of the channel whose count of bytes read is kept in FAB_COORD. -/
def strayAddr : Nat := ddrBase + (Key.fabCoord - Key.ddrReadBytes) * 2 ^ 38

/-- A migration within the module to that address; one addend has entered the row while it was copied. -/
def strayMig : Migration := { mig .draining 0 with destAddr := strayAddr, delta := [(0, 5)], deltaN := 1 }

/-- The module with it. -/
def strayState : State := { placeState with dir := { placeState.dir with migs := [strayMig] } }

/-- The rows that have moved to this module after the commit. -/
def guestsAfter : Option (List Guest) :=
  match exec (.migrationCommit 1 2 0) strayState with
  | .next t => some t.dir.guests
  | _ => none

theorem guestsAfter_eq : guestsAfter = some [] := by decide +kernel

/-- Refutes O24: the fold reads 4 bytes of the new location, which counts them into FAB_COORD; the commit then takes the row's
new home for another module's, and the row has no home here. -/
theorem not_rowsAndPagesMove : ¬ Obligations.RowsAndPagesMove := by
  rintro ⟨⟨-, -, hcommit, -⟩, -⟩
  obtain ⟨u, hu, hguests, -⟩ := hcommit strayState 1 2 0 strayMig (by decide +kernel) rfl (by decide +kernel) (by decide +kernel)
    (by decide +kernel) rfl
  have hafter : guestsAfter = some u.dir.guests := by
    simp only [guestsAfter, hu, serveHeld_guests]
  rw [guestsAfter_eq, hguests] at hafter
  exact absurd hafter (by decide)

end Sys2Proof.Scope

/-! Module memory as a table of bytes (R294, R299): what a write leaves to be read, and the codewords it covers whole. -/

namespace Sys2Proof.Scope
open Sys2Proof Sys2Proof.Machine Sys2Proof.Machine.Claim

/-- The first bytes of a run are the run of the first bytes. -/
theorem getRange_take {α : Type} (d : α) (t : Tab α) (x : Nat) {m n : Nat} (h : n ≤ m) :
    Tab.getRange d t x n = (Tab.getRange d t x m).take n := by
  induction n generalizing x m with
  | zero => simp [Tab.getRange]
  | succ n ih =>
    obtain ⟨m, rfl⟩ : ∃ k, m = k + 1 := ⟨m - 1, by omega⟩
    rw [Tab.getRange, Tab.getRange, List.take_succ_cons, ih _ (Nat.le_of_succ_le_succ h)]

/-- A write clears the poison of the codewords it covers whole and of no other (R299). -/
theorem mem_poison_writePhys (s : State) (a : Nat) (bs : List Byte) (p : Nat) :
    p ∈ (writePhys s a bs).mem.poison ↔ p ∈ s.mem.poison ∧ ¬ (a ≤ p ∧ p + cwBytes p ≤ a + bs.length) := by
  simp [writePhys, imp_iff_not_or]

/-- What was written is read back where no codeword of it is poisoned. -/
theorem readPhys_writePhys (s : State) (a : Nat) (bs : List Byte) {n : Nat} (hn : n ≤ bs.length)
    (hp : poisoned (writePhys s a bs).mem a n = false) : readPhys (writePhys s a bs) a n = some (bs.take n) := by
  have hbytes : Tab.getRange 0 (writePhys s a bs).mem.bytes a n = bs.take n := by
    rw [getRange_take 0 _ a hn]
    exact congrArg (List.take n) (getRange_setRange_same 0 s.mem.bytes a bs)
  rw [readPhys, if_neg (by simp [hp]), hbytes]

/-- Settles O59, clause by clause: the laws of the table of bytes, and of the poison beside it. -/
theorem memoryReadsBack : Obligations.MemoryReadsBack := by
  intro s a bs
  refine ⟨getRange_setRange_same 0 _ a bs, fun b => byte_writePhys s a bs b, wf_writePhys s a bs, mem_poison_writePhys s a bs,
    fun n => readPhys_writePhys s a bs, fun n v hv => ⟨?_, leBytes_length n v⟩, rfl⟩
  rw [leNat_leBytes, Nat.mod_eq_of_lt (by rwa [show 256 = 2 ^ 8 from rfl, ← Nat.pow_mul])]

end Sys2Proof.Scope

/-! The home table (R315): every entry names a member, and one whose member stays is left where no member joins. -/

namespace Sys2Proof.Scope
open Sys2Proof Sys2Proof.Machine Sys2Proof.Machine.Claim

/-- The member chosen by its count is one of the list. -/
theorem bestMember_mem {most : Bool} {t ms : List Nat} {c : Nat} (h : bestMember most t ms = some c) : c ∈ ms := by
  induction ms generalizing c with
  | nil => cases h
  | cons d ms ih =>
    unfold bestMember at h
    split at h
    · cases h
      exact List.mem_cons_self
    next b hb =>
      have hmem := List.mem_cons_of_mem d (ih hb)
      split at h <;> split at h <;> cases h
      · exact List.mem_cons_self
      · exact hmem
      · exact List.mem_cons_self
      · exact hmem

/-- A list that is not empty has such a member. -/
theorem bestMember_isSome (most : Bool) (t : List Nat) {ms : List Nat} (h : ms ≠ []) : ∃ c, bestMember most t ms = some c := by
  cases ms with
  | nil => exact absurd rfl h
  | cons d ms =>
    rw [← Option.isSome_iff_exists]
    unfold bestMember
    split
    · rfl
    · split <;> split <;> rfl

/-- Step 2 of R315 at one entry: an entry whose member has left goes to the member of `stay` that has the fewest. -/
def resettle (ms stay t : List Nat) (e : Nat) : List Nat :=
  if ms.contains (t.getD e 0) then t
  else match bestMember false t stay with
    | some c => t.set e c
    | none => t

section
variable {ms stay t : List Nat} {e : Nat}

@[simp] theorem resettle_length (ms stay t : List Nat) (e : Nat) : (resettle ms stay t e).length = t.length := by
  unfold resettle
  split
  · rfl
  · split
    · exact List.length_set
    · rfl

/-- An entry that names a member is left as it is. -/
theorem resettle_getD_of_mem {i : Nat} (h : t.getD i 0 ∈ ms) : (resettle ms stay t e).getD i 0 = t.getD i 0 := by
  unfold resettle
  split
  · rfl
  next hnot =>
    have hie : e ≠ i := by
      rintro rfl
      exact hnot (List.contains_iff_mem.mpr h)
    split
    · rw [List.getD_eq_getElem?_getD, List.getElem?_set_ne hie, List.getD_eq_getElem?_getD]
    · rfl

/-- The entry treated names a member. -/
theorem resettle_getD_self (hstay : stay ≠ []) (hsub : stay ⊆ ms) (he : e < t.length) : (resettle ms stay t e).getD e 0 ∈ ms := by
  unfold resettle
  split
  next h => exact List.contains_iff_mem.mp h
  · obtain ⟨c, hc⟩ := bestMember_isSome false t hstay
    rw [hc]
    simpa [List.getD_eq_getElem?_getD, List.getElem?_set_self he] using hsub (bestMember_mem hc)

/-- A run over entries leaves those that name members. -/
theorem foldl_resettle_of_mem {i : Nat} (es : List Nat) (h : t.getD i 0 ∈ ms) :
    (es.foldl (resettle ms stay) t).getD i 0 = t.getD i 0 := by
  induction es generalizing t with
  | nil => rfl
  | cons e es ih =>
    have hkept := resettle_getD_of_mem (stay := stay) (e := e) h
    rw [List.foldl_cons, ih (hkept ▸ h), hkept]

@[simp] theorem foldl_resettle_length (es t : List Nat) : (es.foldl (resettle ms stay) t).length = t.length := by
  induction es generalizing t with
  | nil => rfl
  | cons e es ih => rw [List.foldl_cons, ih, resettle_length]

/-- Every entry a run treats names a member after it. -/
theorem foldl_resettle_mem (hstay : stay ≠ []) (hsub : stay ⊆ ms) {es : List Nat} (he : e ∈ es) (hlt : e < t.length) :
    (es.foldl (resettle ms stay) t).getD e 0 ∈ ms := by
  induction es generalizing t with
  | nil => cases he
  | cons x es ih =>
    rw [List.foldl_cons]
    rcases List.mem_cons.mp he with rfl | he
    · have hself := resettle_getD_self hstay hsub hlt
      rwa [foldl_resettle_of_mem es hself]
    · exact ih he (by rwa [resettle_length])

end

/-- Whatever the list, one entry at most changes, and to `d`. -/
theorem replaceLast_mem {c d x : Nat} {t : List Nat} (h : x ∈ replaceLast c d t) : x = d ∨ x ∈ t := by
  unfold replaceLast at h
  dsimp only at h
  rw [List.mem_reverse, List.mem_append] at h
  rcases h with h | h
  · exact .inr (List.mem_reverse.mp (List.takeWhile_subset _ h))
  · split at h
    · cases h
    next y xs hd =>
      rcases List.mem_cons.mp h with rfl | h
      · exact .inl rfl
      · exact .inr (List.mem_reverse.mp (List.dropWhile_subset _ (hd ▸ List.mem_cons_of_mem y h)))

@[simp] theorem replaceLast_length (c d : Nat) (t : List Nat) : (replaceLast c d t).length = t.length := by
  have hsplit := congrArg List.length (List.takeWhile_append_dropWhile (p := (· != c)) (l := t.reverse))
  unfold replaceLast
  dsimp only
  split
  next h => simpa [h] using hsplit
  next h =>
    simp only [h, List.length_append, List.length_cons, List.length_reverse] at hsplit ⊢
    omega

/-- A table of `n` entries that name members. -/
def NamesMembers (ms : List Nat) (n : Nat) (t : List Nat) : Prop := t.length = n ∧ ∀ c ∈ t, c ∈ ms

/-- A member that takes its share leaves a table of members. -/
theorem takeShare_names {ms t : List Nat} {share c fuel n : Nat} (hc : c ∈ ms) (ht : NamesMembers ms n t) :
    NamesMembers ms n (takeShare ms share c fuel t) := by
  induction fuel generalizing t with
  | zero => exact ht
  | succ fuel ih =>
    unfold takeShare
    split
    · exact ht
    · split
      · exact ht
      · refine ih ⟨(replaceLast_length _ _ _).trans ht.1, fun x hx => ?_⟩
        rcases replaceLast_mem hx with rfl | hx
        · exact hc
        · exact ht.2 x hx

theorem foldl_takeShare_names {ms t : List Nat} {share fuel n : Nat} {new : List Nat} (hnew : new ⊆ ms) (ht : NamesMembers ms n t) :
    NamesMembers ms n (new.foldl (fun t c => takeShare ms share c fuel t) t) := by
  induction new generalizing t with
  | nil => exact ht
  | cons c new ih =>
    exact ih (fun x hx => hnew (List.mem_cons_of_mem c hx)) (takeShare_names (hnew List.mem_cons_self) ht)

/-- The table of a partition of which no member is named yet (R315 step 1). -/
theorem freshTable_names {ms : List Nat} (h : ms ≠ []) :
    NamesMembers ms 4096 ((List.range 4096).map (fun e => ms.getD (e % ms.length) 0)) := by
  refine ⟨by simp, fun c hc => ?_⟩
  obtain ⟨e, -, rfl⟩ := List.mem_map.mp hc
  have hlt : e % ms.length < ms.length := Nat.mod_lt _ (List.length_pos_iff.mpr h)
  simp [List.getD_eq_getElem?_getD, List.getElem?_eq_getElem hlt]

/-- The table after step 2 of R315. -/
def stayTable (old ms : List Nat) : List Nat :=
  (List.range 4096).foldl (resettle ms (ms.filter (fun c => old.contains c))) old

/-- The new table: one dealt out anew, or step 2 and the shares of those that joined. -/
theorem newTable_eq (old : List Nat) (named : Bool) (ms : List Nat) :
    newTable old named ms =
      if !named || old.all (fun c => !ms.contains c) then (List.range 4096).map (fun e => ms.getD (e % ms.length) 0)
      else (ms.filter (fun c => !old.contains c)).foldl (fun t c => takeShare ms (4096 / ms.length) c 4096 t) (stayTable old ms) := rfl

theorem stayTable_names {old ms : List Nat} (hlen : old.length = 4096) (h : ∃ c ∈ old, c ∈ ms) :
    NamesMembers ms 4096 (stayTable old ms) := by
  obtain ⟨c, hold, hms⟩ := h
  have hstay : ms.filter (fun c => old.contains c) ≠ [] :=
    List.ne_nil_of_mem (List.mem_filter.mpr ⟨hms, List.contains_iff_mem.mpr hold⟩)
  have hl : (stayTable old ms).length = 4096 := (foldl_resettle_length _ _).trans hlen
  refine ⟨hl, fun x hx => ?_⟩
  obtain ⟨e, he, rfl⟩ := List.mem_iff_getElem.mp hx
  have hmem : (stayTable old ms).getD e 0 ∈ ms :=
    foldl_resettle_mem hstay (List.filter_subset_self _) (List.mem_range.mpr (hl ▸ he)) (by omega)
  rwa [List.getD_eq_getElem _ _ he] at hmem

theorem newTable_names {old ms : List Nat} (named : Bool) (hms : ms ≠ []) (hlen : old.length = 4096) :
    NamesMembers ms 4096 (newTable old named ms) := by
  rw [newTable_eq]
  split
  · exact freshTable_names hms
  next h =>
    refine foldl_takeShare_names (List.filter_subset_self _) (stayTable_names hlen ?_)
    rw [Bool.not_eq_true, Bool.or_eq_false_iff] at h
    simpa using h.2

/-- Settles O26: by the steps of R315, each of which leaves a table of members; where nobody joins, step 2 is the last. -/
theorem homeTable : Obligations.HomeTable := by
  intro old named ms hms _ hlen
  obtain ⟨hl, hmem⟩ := newTable_names named hms hlen
  refine ⟨hl, hmem, ?_⟩
  rintro rfl ⟨c, hold, hc⟩ hnone e - hstays
  have hsome : old.all (fun c => !ms.contains c) = false := by simpa using ⟨c, hold, hc⟩
  have hjoin : ms.filter (fun c => !old.contains c) = [] := by simpa [List.filter_eq_nil_iff] using hnone
  rw [newTable_eq, hsome, hjoin, List.foldl_nil, if_neg (by simp)]
  exact foldl_resettle_of_mem _ hstays

end Sys2Proof.Scope

/-! The HDM decoder, accesses of the host and the end of an unbind (R400 to R405, R491). -/

namespace Sys2Proof.Scope
open Sys2Proof Sys2Proof.Machine Sys2Proof.Machine.Claim

/-! ## The decoder (R400) -/

section
variable {s : State} {base size : ℕ} (hlink : reg s Key.cxlLinkState = 2) (hready : s.cxl.ready = true)
include hlink hready

theorem exec_hdmCommit_refused (h : ringsIn s base size = true ∨ size = 0 ∨ 2 ^ 38 < size) :
    exec (.hdmCommit base size) s =
      .next (setReg { s with cxl := { s.cxl with hdm := none, hdmError := true } } Key.cxlHdmBase 0) :=
  congrArg Host.Outcome.next ((if_neg (by simp [hlink, hready])).trans (if_pos h))

theorem exec_hdmCommit_taken (hrings : ringsIn s base size = false) (hpos : 0 < size) (hsize : size ≤ 2 ^ 38)
    (hbase : base < 2 ^ 64) : exec (.hdmCommit base size) s =
      .next (setReg { s with cxl := { s.cxl with hdm := some (base, size), hdmError := false } } Key.cxlHdmBase base) := by
  have hnot : ¬ (ringsIn s base size = true ∨ size = 0 ∨ 2 ^ 38 < size) := by
    rw [hrings]
    simp only [Bool.false_eq_true, false_or]
    omega
  refine congrArg Host.Outcome.next ((if_neg (by simp [hlink, hready])).trans ((if_neg hnot).trans ?_))
  rw [Nat.mod_eq_of_lt hbase]

end

/-! ## Accesses (R323, R403, R404, R491) -/

/-- The access waits. -/
def heldAccess (s : State) (x : HostAcc) : State := { s with cxl := { s.cxl with held := s.cxl.held ++ [x] } }

theorem exec_hdmAccess {s : State} {addr len b z : ℕ} (wr : Option (List Byte)) (hdm : s.cxl.hdm = some (b, z))
    (hlink : reg s Key.cxlLinkState = 2) (hlo : b ≤ addr) (hhi : addr + len ≤ b + z) (hlen : 0 < len) :
    exec (.hdmAccess addr len wr) s =
      .next (if hostLinkUp s = false then send s .hostError else hostAccess s { off := addr - b, len := len, wr := wr }) := by
  have hin : ¬ (reg s Key.cxlLinkState ≠ 2 ∨ addr < b ∨ b + z < addr + len ∨ len = 0) := by omega
  show Host.Outcome.next _ = _
  rw [hdm]
  dsimp only
  rw [if_neg hin]
  cases hostLinkUp s <;> rfl

section
variable {s : State} (x : HostAcc)

theorem hostAccess_running (h : reg s Key.frzState = 0) : hostAccess s x = tryAccess s x := by
  rw [hostAccess, h]
  rfl

theorem hostAccess_freezing (h : reg s Key.frzState = 1 ∨ reg s Key.frzState = 2) : hostAccess s x = heldAccess s x := by
  rcases h with h | h <;> rw [hostAccess, h] <;> rfl

theorem hostAccess_final (h : 3 ≤ reg s Key.frzState) : hostAccess s x = poisonAccess s x := by
  unfold hostAccess
  split
  · omega
  · omega
  · omega
  · rfl

theorem tryAccess_met (h : s.cxl.held.any x.meets = true) : tryAccess s x = heldAccess s x := if_pos h

theorem tryAccess_of_none (h : aptAccess s x = none) : tryAccess s x = heldAccess s x := by
  unfold tryAccess
  rw [h]
  exact ite_self _

theorem tryAccess_of_some {t : State} (hm : s.cxl.held.any x.meets = false) (h : aptAccess s x = some t) : tryAccess s x = t := by
  unfold tryAccess
  rw [h, hm]
  rfl

end

section
variable {s : State} {x : HostAcc} {y : Aperture} (hy : Tab.get {} s.cxl.apts (x.off / 2 ^ 32) = y)
include hy

/-- Outside what is bound, a read is answered with zeros (R403). -/
theorem aptAccess_unbound_read (h : y.state = .unbound ∨ y.len < x.off % 2 ^ 32 + x.len) (hw : x.wr = none) :
    aptAccess s x = some (send (bump s Key.cxlUnboundAccesses 1) (.hdmData (List.replicate x.len 0) false)) := by
  subst hy
  exact (if_pos h).trans (by rw [hw])

/-- A write there is discarded (R403). -/
theorem aptAccess_unbound_write (h : y.state = .unbound ∨ y.len < x.off % 2 ^ 32 + x.len) {bs : List Byte} (hw : x.wr = some bs) :
    aptAccess s x = some (bump s Key.cxlUnboundAccesses 1) := by
  subst hy
  exact (if_pos h).trans (by rw [hw])

variable (hb : y.state ≠ .unbound) (hlen : x.off % 2 ^ 32 + x.len ≤ y.len)
include hb hlen

theorem aptAccess_out_of_reach (hr : hostReach s (objOf s y.obj) (y.off + x.off % 2 ^ 32) x.len = false) : aptAccess s x = none := by
  subst hy
  exact (if_neg (by rw [not_or]; exact ⟨hb, by omega⟩)).trans (if_pos (by rw [hr]; rfl))

variable (hr : hostReach s (objOf s y.obj) (y.off + x.off % 2 ^ 32) x.len = true)
include hr

theorem aptAccess_read (hw : x.wr = none) :
    let r := hostRead s (objOf s y.obj) (y.off + x.off % 2 ^ 32) x.len
    aptAccess s x = some (send (trackLines (countHostRead s (objOf s y.obj) (y.off + x.off % 2 ^ 32) x.len) (x.off / 2 ^ 32)
      (x.off % 2 ^ 32) x.len) (.hdmData r.1 r.2)) := by
  subst hy
  exact (if_neg (by rw [not_or]; exact ⟨hb, by omega⟩)).trans ((if_neg (by rw [hr]; decide)).trans (by rw [hw]))

variable {bs : List Byte} (hw : x.wr = some bs)
include hw

theorem aptAccess_write_waits (hd : draftRows s (objOf s y.obj).num (y.off + x.off % 2 ^ 32) bs.length = .wait) :
    aptAccess s x = none := by
  subst hy
  exact (if_neg (by rw [not_or]; exact ⟨hb, by omega⟩)).trans ((if_neg (by rw [hr]; decide)).trans (by simp only [hw, hd]))

theorem aptAccess_write {s1 : State} (hd : draftRows s (objOf s y.obj).num (y.off + x.off % 2 ^ 32) bs.length = .ok s1) :
    aptAccess s x = some (markReady (writeLocal { s1 with cxl := { s1.cxl with
      filter := s1.cxl.filter.filter (fun l => !(l.apt == x.off / 2 ^ 32 && (linesOf (x.off % 2 ^ 32) x.len).contains l.line)) } }
      (objOf s1 (objOf s y.obj).num) (y.off + x.off % 2 ^ 32) bs)) := by
  subst hy
  exact (if_neg (by rw [not_or]; exact ⟨hb, by omega⟩)).trans ((if_neg (by rw [hr]; decide)).trans (by simp only [hw, hd]; rfl))

end

/-! ## The filter (R404) -/

/-- What the filter keeps of its lines when another is tracked. -/
def keptLines (s : State) (a line : ℕ) : List HostLine :=
  let rest := s.cxl.filter.filter (fun l => !(l.apt == a && l.line == line))
  if filterLines ≤ rest.length then rest.drop 1 else rest

theorem trackLine_filter (s : State) (a line : ℕ) :
    (trackLine s a line).cxl.filter = keptLines s a line ++ [{ apt := a, line := line, modified := true }] := by
  unfold trackLine keptLines
  generalize s.cxl.filter.filter (fun l => !(l.apt == a && l.line == line)) = rest
  by_cases hfull : filterLines ≤ rest.length
  · obtain ⟨l, ls, rfl⟩ := List.exists_cons_of_length_pos (by unfold filterLines at hfull; omega : 0 < rest.length)
    simp only [if_pos hfull, List.head?_cons]
    rfl
  · simp only [if_neg hfull]

theorem length_keptLines (s : State) (a line : ℕ) (h : s.cxl.filter.length ≤ filterLines) :
    (keptLines s a line).length < filterLines := by
  have hle := List.length_filter_le (fun l : HostLine => !(l.apt == a && l.line == line)) s.cxl.filter
  unfold keptLines
  generalize s.cxl.filter.filter (fun l => !(l.apt == a && l.line == line)) = rest at hle ⊢
  dsimp only
  split
  · have hpos : 0 < filterLines := by decide
    rw [List.length_drop]
    omega
  · omega

/-! ## The obligation -/

theorem exec_unbindComplete {s : State} {a : ℕ} (h : (Tab.get {} s.cxl.apts a).state = .unbinding) (hup : hostLinkUp s = true) :
    exec (.unbindComplete a) s = .next (markReady { s with cxl := { s.cxl with
      apts := Tab.set {} s.cxl.apts a {}, filter := s.cxl.filter.filter (fun l => l.apt != a) } }) :=
  congrArg Host.Outcome.next (if_pos ⟨h, hup⟩)

/-- Settles O43, clause by clause from what each operation of the host interface does. -/
theorem hostMemory : Obligations.HostMemory := by
  refine ⟨fun s base size hlink hready hbase => ⟨fun h => ?_, fun h1 h2 h3 => ?_⟩, ?_, ?_, ?_, ?_, ?_⟩
  · exact ⟨_, exec_hdmCommit_refused hlink hready h, rfl, reg_setReg_same _ _ _, fun k hk => reg_setReg_ne _ _ hk, rfl⟩
  · exact ⟨_, exec_hdmCommit_taken hlink hready h1 h2 h3 hbase, rfl, reg_setReg_same _ _ _, fun k hk => reg_setReg_ne _ _ hk⟩
  · intro s addr len wr b z hdm hlink hlo hhi hlen x off h waits
    have hexec := exec_hdmAccess wr hdm hlink hlo hhi hlen
    have hup {t : State} (hl : hostLinkUp s = true) (ht : hostAccess s h = t) : exec (.hdmAccess addr len wr) s = .next t := by
      rw [hexec, hl, ← ht]
      rfl
    have htry {t : State} (hl : hostLinkUp s = true) (hrun : reg s Key.frzState = 0) (ht : tryAccess s h = t) :
        exec (.hdmAccess addr len wr) s = .next t := hup hl ((hostAccess_running h hrun).trans ht)
    refine ⟨fun hl => by rw [hexec, hl]; rfl, fun hl hf => hup hl (hostAccess_freezing h hf),
      fun hl hrun hm => htry hl hrun (tryAccess_met h hm),
      fun hl hrun hb hlen hr => htry hl hrun (tryAccess_of_none h (aptAccess_out_of_reach rfl hb hlen hr)),
      fun hl hf => ?_, fun hl hrun hm => ⟨fun hu => ?_, fun hb hlen hr => ⟨fun hw => ?_, fun bs hw => ⟨fun hd => ?_, fun s1 hd => ?_⟩⟩⟩⟩
    · cases wr <;> exact hup hl (hostAccess_final h hf)
    · cases wr with
      | none => exact htry hl hrun (tryAccess_of_some h hm (aptAccess_unbound_read rfl hu rfl))
      | some bs => exact htry hl hrun (tryAccess_of_some h hm (aptAccess_unbound_write rfl hu rfl))
    · exact htry hl hrun (tryAccess_of_some h hm (aptAccess_read rfl hb hlen hr hw))
    · exact htry hl hrun (tryAccess_of_none h (aptAccess_write_waits rfl hb hlen hr hw hd))
    · exact htry hl hrun (tryAccess_of_some h hm (aptAccess_write rfl hb hlen hr hw hd))
  · intro s hheld hup hrun
    have hempty : s.cxl.held.isEmpty = false := by simpa using hheld
    unfold serveHeld
    rw [hempty, hup, hrun]
    rfl
  · intro s a line hlen
    rw [trackLine_filter]
    have hkept := length_keptLines s a line hlen
    refine ⟨?_, List.mem_append_right _ (List.mem_singleton_self _)⟩
    rw [List.length_append]
    exact hkept
  · exact fun s addr hlink haddr => congrArg Host.Outcome.next (if_pos ⟨hlink, haddr⟩)
  · intro s a h hup
    refine ⟨_, exec_unbindComplete h hup, Tab.get_set_same _ _ _ _, fun l hl => ?_, fun k hk => Tab.get_set_ne _ _ _ _ hk, rfl,
      rfl, rfl, rfl⟩
    simpa using (List.mem_filter.mp hl).2

end Sys2Proof.Scope

/-! The placement descriptors (R303 to R328): an EPOCH_ADVANCE whose list of members that leave lies in two frames, the second in a
channel R294 does not have. -/

namespace Sys2Proof.Scope
open Sys2Proof Sys2Proof.Machine Sys2Proof.Machine.Claim Sys2Proof.Tests

/-- An object whose first page lies in channel 0 and whose second in the ghost channel. -/
def twoChannelObj : Obj :=
  { num := 1, fmt := 4, rows := 131072, pages := [{ page := 0, home := .frame (65536 * channelFrame 0) },
                                                  { page := 1, home := .frame (65536 * channelFrame ghostChannel) }] }

/-- EPOCH_ADVANCE of a list of 16 members: 16 bytes of the first page, 16 of the second. -/
def twoChannelLeaveW : Work := work 0x0A02 [(16, 2, 1), (18, 2, 16), (24, 8, 2 ^ 40 + 65520)] .running

/-- The module it runs in, one read of 16 bytes of channel 0 before the read counter shows 5. -/
def epochGhost : State := primed 16 (arena twoChannelLeaveW [twoChannelObj] [])

theorem epochGhost_poison : statusAfter (.epochAdvance q0) epochGhost = some Status.poison := by decide +kernel

/-- Its list lies in this module. -/
theorem epochGhost_list : InReach epochGhost twoChannelLeaveW (twoChannelLeaveW.f 24 8) (2 * twoChannelLeaveW.f 18 2) := by
  have hhere : ∀ d < 32, (match locate epochGhost (objOf epochGhost 1) (65520 + d) with
      | .here _ => true
      | _ => false) = true := by decide +kernel
  refine ⟨by decide +kernel, by decide +kernel, by decide +kernel, by decide +kernel, fun h => absurd h (by decide +kernel), ?_⟩
  intro d hd
  have hd' := hhere d hd
  split at hd'
  next a ha => exact ⟨a, ha⟩
  · cases hd'

/-- A descriptor just set is found as it was set. -/
theorem eq_of_findWork_setWork {s : State} {w v : Work} (h : findWork (setWork s w) w.ref = some v) : v = w := by
  have hmem : v ∈ (setWork s w).work := List.mem_of_find?_eq_some h
  obtain ⟨x, -, rfl⟩ := List.mem_map.mp hmem
  have href := findWork_ref h
  split
  · rfl
  next hx =>
    rw [if_neg hx] at href
    exact absurd href hx

/-- Refutes O25: EPOCH_ADVANCE reads the first 16 bytes of its list of channel 0, which counts them into the state word of the
channel that homes the others, and ends FAULT_POISON. -/
theorem not_placementDescriptors : ¬ Obligations.PlacementDescriptors := by
  rintro ⟨-, -, -, -, -, -, hadvance⟩
  have hs : Still epochGhost := still_of (by decide +kernel)
  have hb : Begins 0x0A02 q0 epochGhost epochGhost twoChannelLeaveW := begins_of (by decide +kernel)
  obtain ⟨u, v, hu, -, -, -, hset⟩ := hadvance epochGhost q0 _ twoChannelLeaveW hb.1 hb.2 hs (by decide) (by decide) (by decide)
    epochGhost_list (by decide +kernel) (fun m hm => by rw [hs.pages] at hm; cases hm) nofun
  have hst := epochGhost_poison
  simp only [statusAfter, hu, Option.map_eq_some_iff] at hst
  obtain ⟨x, hx, hxst⟩ := hst
  rw [hset] at hx
  rw [eq_of_findWork_setWork hx] at hxst
  have hok : 0x0000 = Status.poison := hxst
  exact absurd hok (by decide)

end Sys2Proof.Scope

/-! Fatal handling (R483) of a queue whose completion ring lies in a channel R294 does not have: its write counter is the word
FRZ_STATE, so the record of a descriptor that ends CANCELLED makes the module read as frozen (R333, R489). -/

namespace Sys2Proof.Scope
open Sys2Proof Sys2Proof.Machine Sys2Proof.Machine.Claim Sys2Proof.Tests

/-- The channel whose write counter is the word FRZ_STATE. -/
def frzChannel : Nat := Key.frzState - Key.ddrWriteBytes

/-- A fetched NOP of a queue whose completion ring is object 1 behind aperture 0, in that channel. -/
def frzRing : State :=
  { withRegs noon [(Key.cxlLinkState, 2), (Key.queueComplBase, 2 ^ 40)] with
    work := [work 0x0900 [] .fetched]
    objs := [(1, pageObj 1 (channelFrame frzChannel))]
    queues := [(0, { complApt := true, hdmBase := 2 ^ 40 })]
    cxl := { ready := true, hdm := some (2 ^ 40, 2 ^ 38), apts := [(0, { state := .bound, obj := 1, len := 65536 })] } }

/-- FRZ_STATE after a fatal error of unit 0. -/
def frzStateAfter : Option Nat :=
  match exec (.errorRecord { code := 0x0301, unit := 0 } 0) frzRing with
  | .next u => some (reg u Key.frzState)
  | _ => none

/-- The 32 bytes of the record are counted there. -/
theorem frzStateAfter_eq : frzStateAfter = some 32 := by decide +kernel

/-- Refutes O51: a FATAL error in Noon, without FRZ_ON_FATAL, leaves FRZ_STATE at 32: the record of a descriptor that ends CANCELLED is
counted into it. -/
theorem not_errorsAndFreeze : ¬ Obligations.ErrorsAndFreeze := by
  rintro ⟨⟨-, -, -, -, -, hfatal, -, -⟩, -⟩
  obtain ⟨u, hu, -, -, -, hfrz, -⟩ := hfatal frzRing { code := 0x0301, unit := 0 } 0 (by decide) (by decide) rfl (by decide +kernel)
    (by decide +kernel) (by decide +kernel)
  have hafter : frzStateAfter = some (reg u Key.frzState) := by simp only [frzStateAfter, hu]
  rw [frzStateAfter_eq, hfrz] at hafter
  exact absurd hafter (by decide)

end Sys2Proof.Scope

/-! What every command keeps: nothing that lasts is taken back (R459 to R461), and the canonical form stays (R294, R426). One lemma
for each operation of the model, in the model's order. -/

namespace Sys2Proof.Scope
open Sys2Proof Sys2Proof.Machine Sys2Proof.Machine.Claim

-- One theorem after another: the many short proofs below would otherwise wait for each other, each on a thread with a stack of its own.
set_option Elab.async false

/-! ## The table of the dictionary -/

/-- The canonical form of the dictionary may start lower. -/
theorem dictWfFrom_mono {lo lo' : Nat} {t : Tab Nat} (hlo : lo' ≤ lo) (ht : dictWfFrom lo t = true) : dictWfFrom lo' t = true := by
  cases t with
  | nil => rfl
  | cons e t =>
    simp only [dictWfFrom, Bool.and_eq_true, decide_eq_true_eq] at ht ⊢
    exact ⟨hlo.trans ht.1, ht.2⟩

/-- A key may be set to its power-up value, which takes it off the list. -/
theorem dictWfFrom_clear {lo x : Nat} {t : Tab Nat} (ht : dictWfFrom lo t = true) :
    dictWfFrom lo (Tab.set (Machine.powerUp x) t x (Machine.powerUp x)) = true := by
  induction t generalizing lo with
  | nil => simp [Tab.set, dictWfFrom]
  | cons e t ih =>
    obtain ⟨k, w⟩ := e
    simp only [dictWfFrom, Bool.and_eq_true, decide_eq_true_eq] at ht
    simp only [Tab.set, if_true]
    split
    · exact dictWfFrom_mono (by omega) (ih ht.2.2)
    · simp only [dictWfFrom, Bool.and_eq_true, decide_eq_true_eq]
      exact ⟨ht.1, ht.2.1, ih ht.2.2⟩

/-- A register write keeps the canonical form of the dictionary. -/
theorem dictWfFrom_set {lo x : Nat} {t : Tab Nat} (v : Nat) (hx : lo ≤ x) (ht : dictWfFrom lo t = true) :
    dictWfFrom lo (Tab.set (Machine.powerUp x) t x v) = true := by
  by_cases hv : v = Machine.powerUp x
  · rw [hv]
    exact dictWfFrom_clear ht
  induction t generalizing lo with
  | nil => simp [Tab.set, dictWfFrom, hv, hx]
  | cons e t ih =>
    obtain ⟨k, w⟩ := e
    simp only [dictWfFrom, Bool.and_eq_true, decide_eq_true_eq] at ht
    simp only [Tab.set, if_neg hv]
    split
    · simp only [dictWfFrom, Bool.and_eq_true, decide_eq_true_eq]
      exact ⟨hx, hv, by omega, ht.2.1, ht.2.2⟩
    · split
      next hk =>
        subst hk
        simp only [dictWfFrom, Bool.and_eq_true, decide_eq_true_eq]
        exact ⟨hx, hv, ht.2.2⟩
      · simp only [dictWfFrom, Bool.and_eq_true, decide_eq_true_eq]
        exact ⟨ht.1, ht.2.1, ih (by omega) ht.2.2⟩

/-- Entries put back to their power-up values leave the canonical form. -/
theorem dictWfFrom_dropKeys {lo : Nat} {p : Nat → Bool} {t : Tab Nat} (ht : dictWfFrom lo t = true) :
    dictWfFrom lo (Tab.dropKeys p t) = true := by
  induction t generalizing lo with
  | nil => rfl
  | cons e t ih =>
    obtain ⟨k, w⟩ := e
    simp only [dictWfFrom, Bool.and_eq_true, decide_eq_true_eq] at ht
    have htail := ih ht.2.2
    by_cases hp : p k = true
    · simpa [Tab.dropKeys, hp] using dictWfFrom_mono (by omega) htail
    · simp only [Tab.dropKeys] at htail ⊢
      simp [hp, dictWfFrom, ht.1, ht.2.1, htail]

/-! ## What is kept -/

/-- What holds between a state and one that commands have made of it: what lasts has lasted, and the canonical form was kept. -/
structure Kept (s₀ s : State) : Prop where
  lasting : Lasting s₀ s
  canonical : Canonical s₀ → Canonical s

/-- The same of an answer that may be none. -/
def OptKept (s₀ : State) (o : Option State) : Prop := ∀ t, o = some t → Kept s₀ t

/-- The same of a command's answer. -/
def ResKept (s₀ : State) (r : Res) : Prop := ∀ t, r = .next t → Kept s₀ t

section
variable {s₀ s t : State}

theorem Kept.refl (s : State) : Kept s s := ⟨⟨rfl, List.prefix_rfl, le_rfl, le_rfl, fun _ => id⟩, id⟩

theorem Boot.svn_congr {b c : Boot} (h : b.cells = c.cells) : b.svn = c.svn := by rw [Boot.svn, Boot.svn, h]

/-- A change of the queue of commands, the fuses, module memory, host memory and the dictionary is judged by these alone. -/
theorem Kept.of_parts (h : Kept s₀ s) (hp : t.pending = s.pending) (ho : s.out <+: t.out) (hf : s.fresh ≤ t.fresh)
    (hsvn : s.boot.svn ≤ t.boot.svn) (hr : ∀ n, bit s.boot.revoked n = true → bit t.boot.revoked n = true)
    (hm : Tab.wf 0 s.mem.bytes = true → Tab.wf 0 t.mem.bytes = true) (hh : Tab.wf 0 s.host = true → Tab.wf 0 t.host = true)
    (hd : dictWfFrom 0 s.dict = true → dictWfFrom 0 t.dict = true) : Kept s₀ t := by
  obtain ⟨⟨hqueue, hsent, hdrawn, hblown, hrevoked⟩, hcanonical⟩ := h
  refine ⟨⟨hp.trans hqueue, hsent.trans ho, hdrawn.trans hf, hblown.trans hsvn, fun n hn => hr n (hrevoked n hn)⟩, fun h₀ => ?_⟩
  obtain ⟨hmem, hhost, hdict⟩ := hcanonical h₀
  exact ⟨hm hmem, hh hhost, hd hdict⟩

/-- What touches none of these keeps them. -/
theorem Kept.frame (h : Kept s₀ s) (hp : t.pending = s.pending := by rfl) (ho : t.out = s.out := by rfl)
    (hf : t.fresh = s.fresh := by rfl) (hc : t.boot.cells = s.boot.cells := by rfl)
    (hr : t.boot.revoked = s.boot.revoked := by rfl) (hm : t.mem.bytes = s.mem.bytes := by rfl)
    (hh : t.host = s.host := by rfl) (hd : t.dict = s.dict := by rfl) : Kept s₀ t :=
  h.of_parts hp (by rw [ho]) hf.ge (Boot.svn_congr hc).ge (fun n => by rw [hr]; exact id) (by rw [hm]; exact id)
    (by rw [hh]; exact id) (by rw [hd]; exact id)

theorem Kept.setReg {k v : ℕ} (h : Kept s₀ s) : Kept s₀ (setReg s k v) :=
  h.of_parts rfl List.prefix_rfl le_rfl le_rfl (fun _ => id) id id (dictWfFrom_set v (Nat.zero_le k))

theorem Kept.dropEntries {p : ℕ → Bool} (h : Kept s₀ s) : Kept s₀ { s with dict := Tab.dropKeys p s.dict } :=
  h.of_parts rfl List.prefix_rfl le_rfl le_rfl (fun _ => id) id id dictWfFrom_dropKeys

theorem Kept.send {o : Out} (h : Kept s₀ s) : Kept s₀ (send s o) :=
  h.of_parts rfl (List.prefix_append _ _) le_rfl le_rfl (fun _ => id) id id id

theorem Kept.sendAll {os : List Out} (h : Kept s₀ s) : Kept s₀ (sendAll s os) :=
  h.of_parts rfl (List.prefix_append _ _) le_rfl le_rfl (fun _ => id) id id id

theorem Kept.drawn (h : Kept s₀ s) : Kept s₀ { s with fresh := s.fresh + 1 } :=
  h.of_parts rfl List.prefix_rfl (Nat.le_succ _) le_rfl (fun _ => id) id id id

theorem Kept.drawFree (h : Kept s₀ s) : Kept s₀ (drawFree s).2 := h.drawn

theorem Kept.writePhys {a : ℕ} {bs : List Byte} (h : Kept s₀ s) : Kept s₀ (writePhys s a bs) :=
  h.of_parts rfl List.prefix_rfl le_rfl le_rfl (fun _ => id) (wf_writePhys s a bs) id id

theorem Kept.writeHost {a : ℕ} {bs : List Byte} (h : Kept s₀ s) : Kept s₀ (writeHost s a bs) :=
  h.of_parts rfl List.prefix_rfl le_rfl le_rfl (fun _ => id) id (Tab.wf_setRange 0 bs s.host a) id

theorem Kept.ite {c : Prop} [Decidable c] {x y : State} (h : Kept s₀ x) (h' : Kept s₀ y) : Kept s₀ (if c then x else y) := by
  split <;> assumption

theorem Kept.ite_fst {α : Type} {c : Prop} [Decidable c] {x y : State × α} (h : Kept s₀ x.1) (h' : Kept s₀ y.1) :
    Kept s₀ (if c then x else y).1 := by
  split <;> assumption

theorem Kept.ite_snd {α : Type} {c : Prop} [Decidable c] {x y : α × State} (h : Kept s₀ x.2) (h' : Kept s₀ y.2) :
    Kept s₀ (if c then x else y).2 := by
  split <;> assumption

/-- A run of steps that each keep it keeps it. -/
theorem Kept.foldl {α : Type} {f : State → α → State} {xs : List α} (h : Kept s₀ s)
    (hf : ∀ t x, Kept s₀ t → Kept s₀ (f t x)) : Kept s₀ (xs.foldl f s) := by
  induction xs generalizing s with
  | nil => exact h
  | cons x xs ih => exact ih (hf s x h)

theorem Kept.of_fst {α : Type} {p : State × α} {a : State} {b : α} (h : Kept s₀ p.1) (e : p = (a, b)) : Kept s₀ a := by
  subst e
  exact h

theorem Kept.of_snd {α : Type} {p : α × State} {a : State} {b : α} (h : Kept s₀ p.2) (e : p = (b, a)) : Kept s₀ a := by
  subst e
  exact h

theorem OptKept.some (h : Kept s₀ s) : OptKept s₀ (some s) := by
  rintro t ⟨⟩
  exact h

theorem OptKept.none : OptKept s₀ none := by rintro t ⟨⟩

theorem OptKept.ite {c : Prop} [Decidable c] {x y : Option State} (h : OptKept s₀ x) (h' : OptKept s₀ y) :
    OptKept s₀ (if c then x else y) := by
  split <;> assumption

theorem OptKept.getD {o : Option State} (h : OptKept s₀ o) (hs : Kept s₀ s) : Kept s₀ (o.getD s) := by
  cases o with
  | none => exact hs
  | some t => exact h t rfl

theorem ResKept.next (h : Kept s₀ s) : ResKept s₀ (.next s) := by
  rintro t ⟨⟩
  exact h

theorem ResKept.ite {c : Prop} [Decidable c] {x y : Res} (h : ResKept s₀ x) (h' : ResKept s₀ y) :
    ResKept s₀ (if c then x else y) := by
  split <;> assumption

end

/-! ## Runs of an engine -/

/-- Every run of `m` from a context whose state meets it leaves one whose state does, however it stops. -/
def EngKept (s₀ : State) {α : Type} (m : Eng α) : Prop := ∀ c : Ectx, Kept s₀ c.s → Kept s₀ (m.run.run c).2.s

section
variable {s₀ : State} {α β : Type}

theorem EngKept.pure {a : α} : EngKept s₀ (pure a) := fun _ => id
theorem EngKept.throw {x : Stop} : EngKept s₀ (throw x : Eng α) := fun _ => id
theorem EngKept.stopWith {code : ℕ} : EngKept s₀ (stopWith code : Eng α) := .throw

theorem EngKept.bind {m : Eng α} {f : α → Eng β} (h : EngKept s₀ m) (g : ∀ a, EngKept s₀ (f a)) : EngKept s₀ (m >>= f) := by
  intro c hc
  have hm := h c hc
  simp only [ExceptT.run_bind, StateT.run_bind]
  rcases hrun : m.run.run c with ⟨_ | a, c1⟩
  all_goals rw [hrun] at hm
  · exact hm
  · exact g a c1 hm

theorem EngKept.ite {b : Prop} [Decidable b] {m n : Eng α} (h : EngKept s₀ m) (h' : EngKept s₀ n) :
    EngKept s₀ (if b then m else n) := by
  split <;> assumption

/-- The context read is one that meets it. -/
theorem EngKept.get_bind {f : Ectx → Eng β} (g : ∀ c, Kept s₀ c.s → EngKept s₀ (f c)) : EngKept s₀ (get >>= f) :=
  fun c hc => g c hc c hc

theorem EngKept.getS_bind {f : State → Eng β} (g : ∀ s, Kept s₀ s → EngKept s₀ (f s)) : EngKept s₀ (getS >>= f) :=
  fun c hc => g c.s hc c hc

theorem EngKept.modify {f : Ectx → Ectx} (g : ∀ c, Kept s₀ c.s → Kept s₀ (f c).s) : EngKept s₀ (modify f) := g

theorem EngKept.modS {f : State → State} (g : ∀ s, Kept s₀ s → Kept s₀ (f s)) : EngKept s₀ (modS f) := fun c hc => g c.s hc

theorem EngKept.eachDo {f : α → Eng Unit} {xs : List α} (h : ∀ x, EngKept s₀ (f x)) : EngKept s₀ (eachDo f xs) := by
  induction xs with
  | nil => exact .pure
  | cons x xs ih => exact .bind (h x) fun _ => ih

theorem EngKept.mapDo {f : α → Eng β} {xs : List α} (h : ∀ x, EngKept s₀ (f x)) : EngKept s₀ (mapDo f xs) := by
  induction xs with
  | nil => exact .pure
  | cons x xs ih => exact .bind (h x) fun _ => .bind ih fun _ => .pure

end
end Sys2Proof.Scope

/-! What every command keeps, operation by operation, in the model's order. -/

namespace Sys2Proof.Scope
open Sys2Proof Sys2Proof.Machine Sys2Proof.Machine.Claim

-- One theorem after another: the many short proofs below would otherwise wait for each other, each on a thread with a stack of its own.
set_option Elab.async false

section
variable {s₀ s t : State}

/-! ## Registers, time, output -/

theorem Kept.bump {k n : ℕ} (h : Kept s₀ s) : Kept s₀ (bump s k n) := h.setReg

theorem Kept.bump32 {k n : ℕ} (h : Kept s₀ s) : Kept s₀ (bump32 s k n) := h.setReg

theorem Kept.atTime {t : ℕ} (h : Kept s₀ s) : Kept s₀ (atTime s t) := h.frame

theorem Kept.almFull {origin unit kind status step tag : ℕ} {data : List Byte} (h : Kept s₀ s) :
    Kept s₀ (almFull s origin unit kind status step tag data) :=
  .ite h.frame.bump h.frame

theorem Kept.alm {unit kind : ℕ} {data : List Byte} (h : Kept s₀ s) : Kept s₀ (alm s unit kind data) := h.almFull

theorem Kept.touch (h : Kept s₀ s) : Kept s₀ (touch s) := h.frame

theorem Kept.raiseWake {strong : Bool} (h : Kept s₀ s) : Kept s₀ (raiseWake s strong) := .ite h (.ite h h.frame)

/-! ## Module memory (R294, R298, R299) -/

theorem Kept.poison {a : ℕ} (h : Kept s₀ s) : Kept s₀ (poison s a) := .ite h h.frame

theorem Kept.putHost {a : ℕ} {bs : List Byte} (h : Kept s₀ s) : Kept s₀ (putHost s a bs) := h.sendAll.writeHost

theorem Kept.raiseMsix {v : ℕ} (h : Kept s₀ s) : Kept s₀ (raiseMsix s v) := .ite (.ite h h.frame) h.send

/-! ## Objects (R9, R10, R303-R309) -/

theorem Kept.setObj {o : Obj} (h : Kept s₀ s) : Kept s₀ (setObj s o) := h.frame

/-! ## What an access does beside moving bytes -/

theorem Kept.countBytes {wr : Bool} {a n : ℕ} (h : Kept s₀ s) : Kept s₀ (countBytes s wr a n) := .ite h (.ite h.bump h.bump)

theorem Kept.countRange {wr : Bool} {o : Obj} {off len : ℕ} (h : Kept s₀ s) : Kept s₀ (countRange s wr o off len) := by
  refine .foldl h fun t x ht => ?_
  split
  · exact ht.countBytes
  · exact ht

theorem Kept.sampleAccess {o : Obj} {off a byDie byCoord : ℕ} (h : Kept s₀ s) :
    Kept s₀ (sampleAccess s o off a byDie byCoord) := by
  unfold Machine.sampleAccess
  extract_lets u n src d s' src'
  have hs' : Kept s₀ s' := h.frame
  exact .ite h.frame (.ite hs'.bump hs'.frame)

theorem Kept.markDirty {n off : ℕ} (h : Kept s₀ s) : Kept s₀ (markDirty s n off) := h.frame

theorem Kept.snoopRange {n off len : ℕ} {inv : Bool} (h : Kept s₀ s) : Kept s₀ (snoopRange s n off len inv) := by
  refine .ite h ?_
  extract_lets hit hits s' src
  have hs' : Kept s₀ s' := h.foldl fun _ _ ht => ht.send
  exact .ite hs'.frame hs'.frame

/-! ## Rows a write meets (R239, R248, R254) -/

theorem Kept.askHost {n off len : ℕ} (h : Kept s₀ s) : Kept s₀ (askHost s n off len) := .ite h h.sendAll

theorem Kept.tellRead {o : Obj} {off len : ℕ} (h : Kept s₀ s) : Kept s₀ (tellRead s o off len) := h.snoopRange.askHost.countRange

theorem Kept.clearCovered {n off len : ℕ} (h : Kept s₀ s) : Kept s₀ (clearCovered s n off len) := .ite h h.frame

theorem Kept.setMigration {m : Migration} (h : Kept s₀ s) : Kept s₀ (setMigration s m) := h.frame

theorem Kept.setMState {o : Obj} {row : ℕ} {st : MState} (h : Kept s₀ s) : Kept s₀ (setMState s o row st) := h.frame

theorem Kept.refreshCopies {o : Obj} {row : ℕ} (h : Kept s₀ s) : Kept s₀ (refreshCopies s o row) := by
  unfold Machine.refreshCopies
  extract_lets mine due src
  refine .ite ?_ h
  split
  · exact h.frame
  · extract_lets s' src'
    have hs' : Kept s₀ s' := h.foldl fun _ _ ht => ht.writePhys
    exact hs'.frame

theorem Kept.postTxn {kind : TxKind} {issuer : Option WRef} {obj off : ℕ} {p : Pkt} (h : Kept s₀ s) :
    Kept s₀ (postTxn s kind issuer obj off p) :=
  h.frame

theorem Kept.sendSnapshot {m : Migration} (h : Kept s₀ s) : Kept s₀ (sendSnapshot s m) := .ite h.postTxn h

theorem Kept.postPlace {kind : TxKind} {coord obj unit : ℕ} {body : List Byte} (h : Kept s₀ s) :
    Kept s₀ (postPlace s kind coord obj unit body) :=
  h.postTxn

theorem Kept.abortMigration {m : Migration} (h : Kept s₀ s) : Kept s₀ (abortMigration s m) := by
  unfold Machine.abortMigration
  extract_lets o s' src s1 s2
  have hs' : Kept s₀ s' := h.bump
  have hs1 : Kept s₀ s1 := hs'.frame.touch
  have hs2 : Kept s₀ s2 := .ite hs1 hs1.setMState
  exact .ite hs2 hs2.postPlace

theorem Kept.restartMigration {o : Obj} {row : ℕ} (h : Kept s₀ s) : Kept s₀ (restartMigration s o row) := by
  unfold Machine.restartMigration
  split
  · exact h
  · extract_lets s' s1
    have hs' : Kept s₀ s' := h.bump
    have hs1 : Kept s₀ s1 := hs'.tellRead
    split
    · exact hs'.abortMigration
    · exact hs1.setMigration.setMState.sendSnapshot

theorem Kept.stampObj {n : ℕ} (h : Kept s₀ s) : Kept s₀ (stampObj s n) := .ite h.setObj h

theorem Kept.afterWrite {n off len : ℕ} (h : Kept s₀ s) : Kept s₀ (afterWrite s n off len) := by
  unfold Machine.afterWrite
  extract_lets o s'
  have hs' : Kept s₀ s' := .ite h (h.foldl fun _ _ ht => ht.refreshCopies.restartMigration)
  exact hs'.stampObj

/-! ## Descriptors held in order of arrival (R242, R323) -/

theorem Kept.joinLine {k : ℕ} {r : WRef} (h : Kept s₀ s) : Kept s₀ (joinLine s k r) := .ite h h.frame

theorem Kept.leaveLines {r : WRef} {ks : List ℕ} (h : Kept s₀ s) : Kept s₀ (leaveLines s r ks) := h.foldl fun _ _ ht => ht.frame

theorem Kept.leaveAll {r : WRef} (h : Kept s₀ s) : Kept s₀ (leaveAll s r) := .ite h h.leaveLines

/-! ## The engines' monad -/

theorem EngKept.getS : EngKept s₀ getS := .get_bind fun _ _ => .pure

theorem EngKept.require {b : Bool} {code : ℕ} : EngKept s₀ (require b code) := .ite .pure .stopWith

theorem EngKept.event {e : Ev} : EngKept s₀ (event e) := .modify fun _ hc => hc

theorem EngKept.eventsOf {a : Machine.Acc} : EngKept s₀ (eventsOf a) := .modify fun _ hc => hc

theorem EngKept.openAt {ks : List ℕ} : EngKept s₀ (openAt ks) := .get_bind fun _ _ => .pure

theorem EngKept.addEvents {n : ℕ} : EngKept s₀ (addEvents n) := .modify fun _ hc => hc

theorem EngKept.openBytes {n : ℕ} : EngKept s₀ (openBytes n) := .mapDo fun _ => .bind .openAt fun _ => .pure

theorem EngKept.takeTurn {k : ℕ} : EngKept s₀ (takeTurn k) := by
  refine .get_bind fun _ _ => ?_
  split
  · exact .pure
  · exact .ite (.modify fun _ hc' => hc'.leaveLines) .throw

theorem EngKept.rdSpan {n off len : ℕ} : EngKept s₀ (rdSpan n off len) := by
  refine .get_bind fun _ _ => ?_
  extract_lets o l go
  have hgo (x : Unit) : EngKept s₀ (go x) := by
    unfold go
    clear_value l
    split
    · split
      · exact .bind (.modS fun _ hs => hs.countBytes) fun _ => .pure
      · exact .stopWith
    · refine .ite ?_ .throw
      split
      · exact .pure
      · exact .stopWith
    · split
      · exact .pure
      · exact .stopWith
      · exact .throw
    · split
      · exact .pure
      · exact .stopWith
    · exact .throw
  exact .ite (.bind .takeTurn fun _ => hgo ()) (hgo ())

theorem EngKept.sampleRead {n off len : ℕ} : EngKept s₀ (sampleRead n off len) := by
  refine .get_bind fun _ _ => ?_
  extract_lets o
  refine .eachDo fun _ => .modS fun _ hs => ?_
  split
  · exact hs.sampleAccess
  · exact hs

theorem EngKept.rdPlain {n off len : ℕ} : EngKept s₀ (rdPlain n off len) :=
  .bind (.modS fun _ hs => hs.snoopRange.askHost) fun _ => .bind (.mapDo fun _ => .rdSpan) fun _ =>
    .bind .sampleRead fun _ => .pure

theorem EngKept.queryVer {o : Obj} : EngKept s₀ (queryVer o) := by
  refine .get_bind fun _ _ => ?_
  split
  · exact .pure
  · exact .bind .require fun _ => .bind (.modify fun _ hc' => hc') fun _ => .pure
  · exact .stopWith

theorem EngKept.rdUnder {o : Obj} {off len v : ℕ} : EngKept s₀ (rdUnder o off len v) := by
  refine .getS_bind fun _ _ => ?_
  split
  · exact .bind (.modS fun _ hs' => hs'.countRange) fun _ => .bind .sampleRead fun _ => .pure
  · exact .rdPlain

theorem EngKept.rdObj {n off len : ℕ} : EngKept s₀ (rdObj n off len) :=
  .get_bind fun _ _ => .ite (.bind .queryVer fun _ => .bind (.mapDo fun _ => .rdUnder) fun _ => .pure) .rdPlain

theorem EngKept.rdH {h len : ℕ} : EngKept s₀ (rdH h len) := .rdObj

theorem EngKept.rdNat {h len : ℕ} : EngKept s₀ (rdNat h len) := .bind .rdH fun _ => .pure

theorem EngKept.postWrite {coord h aux : ℕ} {flag : Bool} {bs : List Byte} : EngKept s₀ (postWrite coord h aux flag bs) :=
  .get_bind fun _ _ => .bind (.modS fun _ hs => hs.postTxn) fun _ => .modify fun _ hc' => hc'

theorem EngKept.wrSpan {n off : ℕ} {flag : Bool} {bs : List Byte} : EngKept s₀ (wrSpan n off flag bs) := by
  refine .get_bind fun _ _ => ?_
  extract_lets o l go
  have hgo (x : Unit) : EngKept s₀ (go x) := by
    unfold go
    clear_value l
    split
    · exact .modS fun _ hs => hs.writePhys.markDirty.countBytes
    · exact .throw
    · exact .postWrite
    · exact .stopWith
    · exact .throw
  exact .ite (.bind .takeTurn fun _ => hgo ()) (hgo ())

theorem EngKept.wrSpans {n off : ℕ} {flag : Bool} {bs : List Byte} : EngKept s₀ (wrSpans n off flag bs) :=
  .eachDo fun _ => .wrSpan

theorem EngKept.wrPiece {n off : ℕ} {flag : Bool} {bs : List Byte} : EngKept s₀ (wrPiece n off flag bs) := by
  refine .get_bind fun _ _ => ?_
  extract_lets o l die
  clear_value l
  split
  · exact .ite .postWrite .wrSpans
  · exact .bind .wrSpans fun _ => .modS fun _ hs => hs.sampleAccess
  · exact .wrSpans

theorem Kept.draftRow {n row : ℕ} (h : Kept s₀ s) (e : draftRow s n row = .ok t) : Kept s₀ t := by
  unfold Machine.draftRow at e
  dsimp only at e
  split at e
  · cases e
    exact h
  · split at e
    · cases e
    · split at e
      · cases e
        exact h.setObj
      · split at e
        · cases e
        · split at e
          · cases e
          · cases e
            exact h.countRange.countRange.setObj

theorem Kept.draftRows {n off len : ℕ} (h : Kept s₀ s) (e : draftRows s n off len = .ok t) : Kept s₀ t := by
  unfold Machine.draftRows at e
  dsimp only at e
  split at e
  · cases e
    exact h
  · refine List.foldlRecOn (motive := fun r => ∀ u, r = RowWrite.ok u → Kept s₀ u) _ _ ?_ ?_ t e
    · rintro u ⟨⟩
      exact h
    · intro r hr row _ u hu
      split at hu
      · split at hu
        · exact (hr _ rfl).draftRow hu
        · cases hu
          exact hr _ rfl
      · exact hr u hu

theorem EngKept.wrObj {n off : ℕ} {bs : List Byte} : EngKept s₀ (wrObj n off bs) := by
  refine .get_bind fun _ _ => .bind (.modS fun _ hs => hs.snoopRange) fun _ => ?_
  extract_lets o write
  have hwrite : EngKept s₀ (write ()) :=
    .bind (.eachDo fun _ => .bind .wrPiece fun _ => .modS fun _ hs => hs.clearCovered) fun _ => .modS fun _ hs => hs.afterWrite
  refine .getS_bind fun _ hs => ?_
  split
  · exact .throw
  · exact .stopWith
  next s' hd =>
    have hs' : Kept s₀ s' := hs.draftRows hd
    exact .ite (.bind .takeTurn fun _ => .bind (.modS fun _ _ => hs'.frame) fun _ => hwrite)
      (.bind (.modS fun _ _ => hs'.frame) fun _ => hwrite)

theorem EngKept.wrH {h : ℕ} {bs : List Byte} : EngKept s₀ (wrH h bs) := .wrObj

/-! ## Output ports -/

theorem Kept.setPort {p : ℕ} {x : Port} (h : Kept s₀ s) : Kept s₀ (setPort s p x) := h.frame

theorem Kept.sendWords {p : ℕ} (h : Kept s₀ s) : Kept s₀ (sendWords s p) := .ite h h.setPort.send

theorem Kept.widened {p : ℕ} (h : Kept s₀ s) : Kept s₀ (widened s p) := .ite h.setPort.setReg h

theorem Kept.putFlit {p : ℕ} {f : List Byte} (h : Kept s₀ s) : Kept s₀ (putFlit s p f) :=
  (Kept.ite h.setPort.widened h).send.setPort.sendWords

theorem Kept.sendIdle {p : ℕ} {nak : Bool} (h : Kept s₀ s) : Kept s₀ (sendIdle s p nak) := .ite h.setPort.putFlit h

theorem Kept.sendFlits {p n : ℕ} (h : Kept s₀ s) : Kept s₀ (sendFlits p n s) := by
  induction n generalizing s with
  | zero => exact h
  | succ n ih => exact .ite h (ih h.setPort.putFlit)

theorem Kept.grantPort {p : ℕ} (h : Kept s₀ s) : Kept s₀ (grantPort s p) := .ite h.setPort.bump h

theorem Kept.transmit {p : ℕ} (h : Kept s₀ s) : Kept s₀ (transmit s p) := .ite h.sendFlits.grantPort.sendFlits h

theorem Kept.isolatePort {p : ℕ} (h : Kept s₀ s) : Kept s₀ (isolatePort s p) := .ite h.setPort h.setPort.sendIdle

theorem Kept.isolatePorts (h : Kept s₀ s) : Kept s₀ (isolatePorts s) := h.foldl fun _ _ ht => ht.isolatePort

theorem Kept.enqueue {p : ℕ} {k : Pkt} (h : Kept s₀ s) : Kept s₀ (enqueue s p k) :=
  .ite h ((Kept.ite h.bump h).setPort.transmit)

theorem Kept.emitPkt {k : Pkt} (h : Kept s₀ s) : Kept s₀ (emitPkt s k) := by
  unfold Machine.emitPkt
  split
  · exact h
  · exact h.enqueue

/-! ## Sluice windows as their source -/

theorem Kept.pumpAddends (h : Kept s₀ s) : Kept s₀ (pumpAddends s) := by
  refine .foldl h fun t x ht => ?_
  split
  · exact .ite ht.frame ht
  · exact ht

theorem Kept.markSent {p : Pkt} (h : Kept s₀ s) : Kept s₀ (markSent s p) := .ite h.frame h

theorem Kept.toInbox {p : Pkt} (h : Kept s₀ s) : Kept s₀ (toInbox s p) := h.frame

theorem Kept.pumpWin {held n : ℕ} {w : SrcWin} (h : Kept s₀ s) : Kept s₀ (pumpWin held n w s).1 := by
  induction n generalizing w s with
  | zero => exact h
  | succ n ih =>
    unfold Machine.pumpWin
    split
    · exact h
    · split
      · split
        · exact ih h.markSent.toInbox
        · exact h
      · split
        · exact ih (.ite h.toInbox h)
        · split
          · exact ih h.markSent.emitPkt
          · exact h

theorem Kept.pumpAll {done ws : List SrcWin} (h : Kept s₀ s) : Kept s₀ (pumpAll done ws s).1 := by
  induction ws generalizing done s with
  | nil => exact h
  | cons w ws ih => exact ih h.pumpWin

theorem Kept.postLoose {p : Pkt} (h : Kept s₀ s) : Kept s₀ (postLoose s p) := h.emitPkt

theorem Kept.postCtrl {p : Pkt} (h : Kept s₀ s) : Kept s₀ (postCtrl s p) := .ite h.frame h.postLoose

theorem Kept.releaseCtrl (h : Kept s₀ s) : Kept s₀ (releaseCtrl s) := h.frame.foldl fun _ _ ht => ht.postCtrl

theorem Kept.pump (h : Kept s₀ s) : Kept s₀ (pump s) := by
  unfold Machine.pump
  extract_lets s' r
  have hr : Kept s₀ r.1 := h.releaseCtrl.pumpAddends.pumpAll
  exact hr.frame

theorem Kept.postPkt {p : Pkt} (h : Kept s₀ s) : Kept s₀ (postPkt s p) := h.frame.pump

theorem Kept.addAt {xa : Bool} {a hdr : ℕ} {v : ℤ} (h : Kept s₀ s) : OptKept s₀ (addAt s xa a hdr v) := by
  refine .ite ?_ ?_
  · split
    · extract_lets s'
      have hs' : Kept s₀ s' := h.writePhys.countBytes.countBytes
      exact .some hs'.writePhys
    · exact .none
  · split
    · exact .some h.writePhys
    · exact .none

theorem Kept.addApart {a : ℕ} {v : ℤ} (h : Kept s₀ s) : OptKept s₀ (addApart s a v) := by
  rintro t ht
  obtain ⟨e, -, rfl⟩ := Option.map_eq_some_iff.mp ht
  exact h.writePhys

theorem Kept.addMigrating {o : Obj} {row col : ℕ} {v : ℤ} (h : Kept s₀ s) : Kept s₀ (addMigrating s o row col v) := by
  unfold Machine.addMigrating
  split
  · exact h
  · split
    · exact h.setMigration
    · exact .ite (h.addAt.getD h) h.postPlace
    · exact h

theorem EngKept.sendAddend {n elem : ℕ} {f : Fmt} {tsrc : ℤ} {v : ℕ} : EngKept s₀ (sendAddend n elem f tsrc v) := by
  refine .get_bind fun _ _ => ?_
  extract_lets o x go
  have hgo : ∀ (x : Unit), EngKept s₀ (go x) := fun _ => .modify fun _ hc' => hc'
  refine .ite (.bind .stopWith fun _ => hgo ()) ?_
  split
  · exact .bind (.modS fun _ hs => hs.frame) fun _ => hgo ()
  · exact .bind (.modS fun _ hs => hs.frame) fun _ => hgo ()
  · exact .bind .stopWith fun _ => hgo ()
  · exact .bind .stopWith fun _ => hgo ()
  · exact .bind (.modS fun _ hs => hs.postTxn) fun _ => hgo ()

theorem EngKept.sendAddends {n elem : ℕ} {f : Fmt} {tsrc : ℤ} {vs : List ℕ} : EngKept s₀ (sendAddends n f tsrc elem vs) := by
  induction vs generalizing elem with
  | nil => exact .pure
  | cons v vs ih => exact .bind .sendAddend fun _ => ih

/-! ## Rows read out and cleared in one atomic step (R233, R236) -/

theorem Kept.postRelease {die tag coord n off : ℕ} (h : Kept s₀ s) : Kept s₀ (postRelease s die tag coord n off) := h.postTxn

theorem Kept.releaseHolds {w : Work} (h : Kept s₀ s) : Kept s₀ (releaseHolds s w) := h.foldl fun _ _ ht => ht.postRelease

theorem Kept.dropHold {x : RowHold} (h : Kept s₀ s) : Kept s₀ (dropHold s x) := h.frame

theorem Kept.addHold {x : RowHold} (h : Kept s₀ s) : Kept s₀ (addHold s x) := .ite h h.frame

theorem EngKept.takeRbuf {n off len : ℕ} : EngKept s₀ (takeRbuf n off len) := by
  refine .get_bind fun _ _ => ?_
  split
  · exact .bind (.modify fun _ hc' => hc') fun _ => .pure
  · exact .pure

theorem EngKept.partHere {o : Obj} {row off len aux : ℕ} : EngKept s₀ (partHere o row off len aux) := by
  unfold Machine.partHere
  extract_lets go
  have hgo (x : List Byte) : EngKept s₀ (go x) := by
    unfold go
    extract_lets go'
    have hgo' : ∀ (x : Unit), EngKept s₀ (go' x) := fun _ => .pure
    exact .ite (.bind .wrObj fun _ => hgo' ()) (hgo' ())
  exact .ite (.bind .pure fun a => hgo a) (.bind .rdObj fun a => hgo a)

theorem EngKept.partAway {o : Obj} {coord off len aux tag : ℕ} : EngKept s₀ (partAway o coord off len aux tag) := by
  unfold Machine.partAway
  extract_lets ps
  refine .get_bind fun _ _ => ?_
  extract_lets w from_
  refine .bind ?_ (fun _ => .pure)
  refine .mapDo fun _ => .bind .takeRbuf fun _ => ?_
  split
  · exact .pure
  · exact .stopWith
  · exact .throw

theorem EngKept.partAt {o : Obj} {row off len aux tag : ℕ} : EngKept s₀ (partAt o row off len aux tag) := by
  refine .get_bind fun _ _ => .ite .partAway ?_
  split
  · exact .partAway
  · exact .partHere

theorem EngKept.partFar {o : Obj} {off len aux tag : ℕ} : EngKept s₀ (partFar o off len aux tag) := by
  refine .get_bind fun _ _ => .ite .partAway ?_
  split
  · exact .partAway
  · exact .partAway
  · exact .stopWith
  · exact .stopWith
  · exact .throw

theorem EngKept.rowAtomic {o : Obj} {row aux : ℕ} : EngKept s₀ (rowAtomic o row aux) := by
  refine .get_bind fun _ _ => ?_
  extract_lets tag
  split
  · exact .pure
  · exact .partAt
  · exact .ite (.bind (.mapDo fun _ => .partFar) fun _ => .bind .partFar fun _ => .pure) (.ite .throw (.bind (.mapDo fun _ =>
      .partHere) fun _ => .pure))

theorem EngKept.clearRow {o : Obj} {row : ℕ} : EngKept s₀ (clearRow o row) := .bind .rowAtomic fun _ => .pure

/-! ## Finding and changing descriptors in flight -/

theorem Kept.setWork {w : Work} (h : Kept s₀ s) : Kept s₀ (setWork s w) := h.frame

theorem Kept.delWork {r : WRef} (h : Kept s₀ s) : Kept s₀ (delWork s r) := h.frame

theorem Kept.setQueue {q : ℕ} {x : Queue} (h : Kept s₀ s) : Kept s₀ (setQueue s q x) := h.frame

/-! ## Issue decisions (R146, R169, R170) -/

theorem Kept.markReady (h : Kept s₀ s) : Kept s₀ (markReady s) := h.frame

theorem Kept.issue {w : Work} (h : Kept s₀ s) : OptKept s₀ (issue s w) := by
  unfold Machine.issue
  extract_lets kind k s' contested s1
  have hs' : Kept s₀ s' := .ite h.frame h
  have hs1 : Kept s₀ s1 := hs'.frame
  refine .ite (.some h) (.ite .none ?_)
  refine .ite .none ?_
  split
  · exact .none
  · exact .ite .none (.ite (.some hs'.frame) (.some (.ite hs1.bump hs1)))

/-! ## Running an engine -/

theorem Kept.readReq {w : Work} {coord obj off len : ℕ} {aux : Option ℕ} (h : Kept s₀ s) :
    Kept s₀ (readReq s w coord obj off len aux) :=
  h.postTxn

theorem Kept.promotePages {o : Obj} {row die : ℕ} (h : Kept s₀ s) : Kept s₀ (promotePages s o row die) := by
  refine .foldl h fun t x ht => ?_
  split
  · split
    · exact .ite ht ht.frame
    · exact ht
  · exact ht

theorem Kept.planPromote {o : Obj} {row die : ℕ} (h : Kept s₀ s) : Kept s₀ (planPromote s o row die) :=
  .ite (.ite h h.frame) (.ite h.promotePages ((h.promotePages.foldl fun _ _ ht => ht.postPlace).pump))

theorem Kept.settle {s0 : State} {w0 : Work} {r : Except Stop Unit} {c : Ectx} (h : Kept s₀ s0) (hc : Kept s₀ c.s) :
    Kept s₀ (settle s0 w0 r c) := by
  unfold Machine.settle
  extract_lets kept src ended
  have hended : ∀ (code : ℕ), Kept s₀ (ended code) := fun _ => hc.releaseHolds.setWork.pump
  split
  · exact hended Status.ok
  next code' => exact hended code'
  · exact h.setWork
  · exact h.leaveLines.joinLine.setWork
  · exact .ite h.setWork h.readReq.pump.setWork
  · exact h.planPromote.setWork

theorem Kept.runBody {body : Eng Unit} {w : Work} (h : Kept s₀ s) (hbody : EngKept s₀ body) : Kept s₀ (runBody body w s) :=
  .settle h (hbody _ h)

theorem Kept.started {w : Work} {unit : ℕ} (h : Kept s₀ s) : Kept s₀ (started s w unit).1 := h.frame.setWork

theorem Kept.runEngine {op : ℕ} {body : Eng Unit} {r : WRef} (h : EngKept s₀ body) (hs : Kept s₀ s) :
    Kept s₀ (runEngine op body r s) := by
  unfold Machine.runEngine
  split
  · exact hs
  · refine .ite hs ?_
    split
    · exact hs.runBody h
    · refine .ite ?_ hs
      extract_lets st s'
      have hs' : Kept s₀ s' := hs.markReady
      refine .ite hs.setWork ?_
      split
      · exact hs'
      next heq2 => exact ((hs'.issue _ heq2).started).runBody h
    · exact hs

/-! ## Object bytes the host interface reaches (R404) -/

theorem Kept.sampleRange {o : Obj} {off len : ℕ} (h : Kept s₀ s) : Kept s₀ (sampleRange s o off len) := by
  refine .foldl h fun t x ht => ?_
  split
  · exact ht.sampleAccess
  · exact ht

theorem Kept.writeLocal {o : Obj} {off : ℕ} {bs : List Byte} (h : Kept s₀ s) : Kept s₀ (writeLocal s o off bs) := by
  unfold Machine.writeLocal
  extract_lets s'
  have hs' : Kept s₀ s' := by
    unfold s'
    refine .foldl h fun t x ht => ?_
    split
    · exact ht.writePhys.markDirty.countBytes
    · exact ht
  exact hs'.sampleRange.clearCovered.afterWrite

theorem Kept.ringSeen {apt : Bool} {base a n : ℕ} (h : Kept s₀ s) : Kept s₀ (ringSeen s apt base a n) :=
  .ite h.snoopRange.sampleRange.countRange h.sendAll

theorem Kept.ringWrite {apt : Bool} {base a : ℕ} {bs : List Byte} (h : Kept s₀ s) : Kept s₀ (ringWrite s apt base a bs) :=
  .ite h.snoopRange.writeLocal h.putHost

/-! ## Completion -/

theorem Kept.countCycles {w : Work} (h : Kept s₀ s) : Kept s₀ (countCycles s w) :=
  .ite (h.foldl fun _ _ ht => ht.drawFree.bump) h

theorem Kept.countStatus {w : Work} (h : Kept s₀ s) : Kept s₀ (countStatus s w) := by
  unfold Machine.countStatus
  extract_lets up
  have hup : ∀ (k : ℕ), Kept s₀ (up k) := fun _ => h.bump32
  refine .ite (hup Key.ephRejects) (.ite (hup Key.arrSparseMetaFaults) ?_)
  refine .ite (hup Key.arrExpmaxFaults) (.ite (hup Key.vecVprogFaults) ?_)
  refine .ite (hup Key.vecTimeouts) (.ite (hup Key.vecDrainFaults) ?_)
  refine .ite (hup Key.prdFaults) (.ite (hup Key.smpGraphFaults) ?_)
  refine .ite (hup Key.nblOverflows) (.ite (hup Key.nblCellFaults) ?_)
  refine .ite (hup Key.gseIndexFaults) ?_
  exact .ite (hup Key.gseVersionFaults) (.ite (hup Key.gseShadowFaults) (.ite (hup Key.savFullFaults) (.ite
    (hup Key.savRestoreFaults) h)))

theorem Kept.countRed {w : Work} (h : Kept s₀ s) : Kept s₀ (countRed s w) := .ite h.bump h

theorem Kept.dropRef {w : Work} (h : Kept s₀ s) : Kept s₀ (dropRef s w) := h.foldl fun _ _ ht => .ite ht.frame ht

theorem Kept.notify {q t : ℕ} (h : Kept s₀ s) : Kept s₀ (notify s q t) := by
  unfold Machine.notify
  extract_lets x x' s' cpi s1 v s2
  have hs' : Kept s₀ s' := h.setQueue
  have hs1 : Kept s₀ s1 := .ite hs' hs'.ringWrite
  have hs2 : Kept s₀ s2 := hs1.setQueue
  exact .ite (.ite hs2 hs2.raiseMsix) hs1

theorem Kept.writeRecord {q : ℕ} {w : Work} {t : ℕ} (h : Kept s₀ s) : Kept s₀ (writeRecord s q w t) :=
  .ite h.bump h.ringWrite.notify

theorem Kept.completeQ {q n : ℕ} {w : Work} {t : ℕ} (h : Kept s₀ s) : Kept s₀ (completeQ s q n w t) := by
  unfold Machine.completeQ
  extract_lets fail p s' s1 x x'
  have hs' : Kept s₀ s' := .ite h.writeRecord h
  have hs1 : Kept s₀ s1 := .ite hs'.setReg hs'
  exact .ite (.ite h.bump h) hs1.setQueue

/-! ## Strands of a batch that completes (R164) -/

theorem Kept.setLaunch {l : Launch} (h : Kept s₀ s) : Kept s₀ (setLaunch s l) := h.frame

theorem Kept.endLaunch {k : LKey} (h : Kept s₀ s) : Kept s₀ (endLaunch s k) := by
  unfold Machine.endLaunch
  split
  · exact h
  · refine .ite ?_ h
    split
    · exact h
    · exact h.frame.setWork

theorem Kept.postChain {l : Launch} {coord : ℕ} {chain : Tab (Option TRec)} (h : Kept s₀ s) :
    Kept s₀ (postChain s l coord chain) :=
  h.postTxn

theorem Kept.creditLaunch {k : LKey} {n status : ℕ} {acc : Machine.Acc} {spills : ℕ} (h : Kept s₀ s) :
    Kept s₀ (creditLaunch s k n status acc spills) := by
  unfold Machine.creditLaunch
  split
  · exact h
  · extract_lets bad failure idle waiting unborn s' src s1 s2
    have hs' : Kept s₀ s' := h.setLaunch
    have hs1 : Kept s₀ s1 := .ite hs'.frame hs'
    have hs2 : Kept s₀ s2 := .ite (hs1.foldl fun _ _ ht => ht.postChain) hs1
    exact hs2.pump.endLaunch

theorem Kept.failHere {k : LKey} (h : Kept s₀ s) : Kept s₀ (failHere s k).2 := by
  unfold Machine.failHere
  extract_lets idle src
  exact h.frame

theorem Kept.report {k : LKey} {n status : ℕ} {acc : Machine.Acc} {spills : ℕ} (h : Kept s₀ s) :
    Kept s₀ (report s k n status acc spills) := by
  refine .ite h.creditLaunch ?_
  extract_lets f s' body
  have hf : Kept s₀ f.2 := .ite_snd h h.failHere
  have hs' : Kept s₀ s' := hf
  exact hs'.postTxn.pump

theorem Kept.pumpForward {t n : ℕ} (h : Kept s₀ s) : Kept s₀ (pumpForward t n s) := by
  induction n generalizing s with
  | zero => exact h
  | succ n ih =>
    unfold Machine.pumpForward
    split
    · exact h
    next x _ =>
      have hs1 : Kept s₀ (Machine.bump s (Key.dspStrandsForwarded + x.die) 1) := h.bump
      exact ih (.ite hs1.frame hs1.frame.report)

theorem Kept.wakeForward (h : Kept s₀ s) : Kept s₀ (wakeForward s) := h.pumpForward

theorem Kept.freeLists {id : ℕ} (h : Kept s₀ s) : Kept s₀ (freeLists s id) := h.frame.foldl fun _ _ ht => .ite ht ht.frame

theorem Kept.retireBatch {w : Work} {b : BatchTag} {t : ℕ} (h : Kept s₀ s) : Kept s₀ (retireBatch s w b t) :=
  .ite h.frame.report h.frame.report

/-! ## The end of a descriptor -/

theorem Kept.completeWork {w : Work} {t : ℕ} (h : Kept s₀ s) : Kept s₀ (completeWork s w t) := by
  unfold Machine.completeWork
  extract_lets s' s1
  have hs' : Kept s₀ s' := h.countCycles.countStatus.countRed.delWork.leaveAll.dropRef.touch
  have hs1 : Kept s₀ s1 := by
    unfold s1
    split
    · exact hs'.completeQ
    · exact hs'.retireBatch.freeLists.pumpForward
    · exact hs'
  exact hs1.markReady

theorem ResKept.execDescriptorComplete {r : WRef} {t : ℕ} (h : Kept s₀ s) : ResKept s₀ (execDescriptorComplete r t s) := by
  refine .next ?_
  split
  · exact h
  · split
    · exact h
    · exact .ite h.atTime.completeWork h

theorem Kept.ackWork {r : WRef} {status : ℕ} {acc : Machine.Acc} (h : Kept s₀ s) : Kept s₀ (ackWork s r status acc) := by
  unfold Machine.ackWork
  split
  · exact h
  · exact h.setWork

/-! ## Units, registers, lanes -/

theorem Kept.setVec {tile : ℕ} {u : VecUnit} (h : Kept s₀ s) : Kept s₀ (setVec s tile u) := h.frame

theorem Kept.setArr {tile : ℕ} {a : ArrUnit} (h : Kept s₀ s) : Kept s₀ (setArr s tile a) := h.frame

/-! ## Batches -/

theorem Kept.endPair {tile : ℕ} {u : VecUnit} {status : ℕ} (h : Kept s₀ s) : Kept s₀ (endPair s tile u status) := by
  unfold Machine.endPair
  split
  · exact h
  · split
    · exact .ite h.setWork.setArr h
    · exact h

theorem Kept.endVec {tile status : ℕ} (h : Kept s₀ s) : Kept s₀ (endVec s tile status) := by
  unfold Machine.endVec
  extract_lets u s' src s1
  have hs' : Kept s₀ s' := h.setVec
  have hs1 : Kept s₀ s1 := .ite hs'.setArr hs'
  split
  · exact hs1
  · split
    · exact hs1.setWork
    · exact hs1

theorem Kept.faultVec {tile status : ℕ} (h : Kept s₀ s) : Kept s₀ (faultVec s tile status) := (Kept.ite h.endPair h).endVec

theorem Kept.releaseRows {tile : ℕ} {u : VecUnit} (h : Kept s₀ s) : Kept s₀ (releaseRows s tile u) := by
  unfold Machine.releaseRows
  extract_lets a a' s' rows
  have hs' : Kept s₀ s' := h.setArr
  split
  · exact hs'
  · split
    · exact .ite hs'.setWork.setArr hs'
    · exact hs'

theorem Kept.endBatch {tile : ℕ} (h : Kept s₀ s) : Kept s₀ (endBatch s tile) := by
  unfold Machine.endBatch
  extract_lets u
  split
  · exact h
  · split
    · exact h
    · refine .ite h.faultVec ?_
      extract_lets s' s1
      have hs' : Kept s₀ s' := h.setWork
      have hs1 : Kept s₀ s1 := .ite hs'.releaseRows hs'
      refine .ite hs1.endVec ?_
      split
      · exact hs1.setVec
      · exact hs1.endVec

/-! ## One instruction -/

theorem Kept.addAcc {r : WRef} {a : Machine.Acc} (h : Kept s₀ s) : Kept s₀ (addAcc s r a) := by
  unfold Machine.addAcc
  split
  · exact h.setWork
  · exact h

theorem Kept.retire {tile : ℕ} {w : Work} {u0 : VecUnit} {o : VOut} (h : Kept s₀ s) : Kept s₀ (retire s tile w u0 o) :=
  .ite h.setVec.bump.addAcc.endBatch h.setVec.bump.addAcc

theorem Kept.vecSettle {tile : ℕ} {w : Work} {r : Except Stop VOut} {c : Ectx} (h : Kept s₀ s) (hc : Kept s₀ c.s) :
    Kept s₀ (vecSettle s tile w r c) := by
  unfold Machine.vecSettle
  split
  · exact (Kept.ite (.ite hc hc.setWork) ((Kept.ite hc hc.setWork).setWork.pump)).retire
  · exact h.bump.faultVec
  · exact h.leaveLines.joinLine
  · exact h

theorem Kept.vecStep {op : ℕ} {body : VRun → Eng VOut} {tile : ℕ} (hbody : ∀ x, EngKept s₀ (body x)) (h : Kept s₀ s) :
    Kept s₀ (vecStep op body tile s) := by
  unfold Machine.vecStep
  split
  · exact h
  · exact .ite h (.vecSettle h (hbody _ _ h))

theorem Kept.vecPure {op : ℕ} {f : VRun → VOut} {tile : ℕ} (h : Kept s₀ s) : Kept s₀ (vecPure op f tile s) :=
  h.vecStep fun _ => .pure

/-! ## Operand blocks -/

theorem EngKept.readElems {h : ℕ} {f : Fmt} {lo n : ℕ} : EngKept s₀ (readElems h f lo n) :=
  .ite .pure (.bind .rdH fun _ => .pure)

theorem EngKept.readMants {h : ℕ} {f : Fmt} {n : ℕ} : EngKept s₀ (readMants h f n) := .bind .rdH fun _ => .pure

theorem EngKept.lineBlk {h : ℕ} {f : Fmt} {p len b : ℕ} : EngKept s₀ (lineBlk h f p len b) :=
  .ite (.bind .rdNat fun _ => .bind .readMants fun _ => .pure) (.bind .readElems fun _ => .pure)

theorem EngKept.sparseMeta {h : ℕ} {f : Fmt} {n g : ℕ} : EngKept s₀ (sparseMeta h f n g) := .bind .rdNat fun _ => .pure

theorem EngKept.sparseBlk {h : ℕ} {f : Fmt} {p len b : ℕ} : EngKept s₀ (sparseBlk h f p len b) :=
  .bind (.mapDo fun _ => .sparseMeta) fun _ => .ite (.bind .rdNat fun _ => .bind .readMants fun _ =>
    .pure) (.bind .readElems fun _ => .pure)

theorem EngKept.sparseElem {h : ℕ} {f : Fmt} {len j : ℕ} : EngKept s₀ (sparseElem h f len j) :=
  .bind .sparseMeta fun _ => .ite (.bind .readElems fun _ => .pure) (.ite (.bind .readElems fun _ => .pure) .pure)

theorem EngKept.wgtBlk {w : Work} {j b : ℕ} : EngKept s₀ (wgtBlk w j b) := by
  unfold Machine.wgtBlk
  extract_lets f k n rows
  refine .ite ?_ (.ite .sparseBlk .lineBlk)
  exact .ite (.bind (.mapDo fun _ => .sparseElem) fun _ => .pure) (.bind (.mapDo fun _ => .bind .readElems fun _ =>
    .pure) fun _ => .pure)

theorem EngKept.actBlk {w : Work} {i b : ℕ} : EngKept s₀ (actBlk w i b) := .lineBlk

/-! ## Magnitudes, windows, entries -/

theorem ResKept.execDescriptorFetch {q t : ℕ} (h : Kept s₀ s) : ResKept s₀ (execDescriptorFetch q t s) := by
  refine .next (.ite ?_ h)
  extract_lets s' x at_ w s1 src
  have hs' : Kept s₀ s' := h.atTime
  have hs1 : Kept s₀ s1 := hs'.ringSeen
  have hsrc : Kept s₀ src := hs1.setQueue
  exact hsrc.frame.markReady

theorem ResKept.execQueueIrqTimer {q t : ℕ} (h : Kept s₀ s) : ResKept s₀ (execQueueIrqTimer q t s) := by
  unfold Machine.execQueueIrqTimer
  extract_lets x us s' v
  have hs' : Kept s₀ s' := h.atTime.setQueue
  exact .next (.ite (.ite hs' hs'.raiseMsix) h)

/-! ## Enabling and disabling -/

theorem Kept.enableQueue {q : ℕ} (h : Kept s₀ s) : OptKept s₀ (enableQueue s q) := by
  refine .ite (.some h) (.ite .none ?_)
  split
  · refine .ite .none ?_
    extract_lets gen s'
    have hs' : Kept s₀ s' := h.setQueue
    exact .some hs'.setReg
  · exact .none

theorem Kept.disableQueue {q : ℕ} (h : Kept s₀ s) : Kept s₀ (disableQueue s q) := h.setReg

theorem Kept.abortQueue {q : ℕ} (h : Kept s₀ s) : Kept s₀ (abortQueue s q) :=
  h.setQueue.foldl fun _ _ ht => .ite ht.completeWork ht.setWork

/-! ## The dispatcher's own descriptors -/

theorem Kept.runControl {op : ℕ} {body : Work → State → State} {r : WRef}
    (h : ∀ (a : Work) (b : State), Kept s₀ b → Kept s₀ (body a b)) (hs : Kept s₀ s) :
    Kept s₀ (runControl op body r s) := by
  unfold Machine.runControl
  split
  · exact hs
  next v' _ => exact .ite (.ite hs.setWork (h v' s hs)) hs

theorem Kept.decide_ {w : Work} {status : ℕ} (h : Kept s₀ s) : Kept s₀ (decide_ s w status) := h.setWork

theorem ResKept.execNop {r : WRef} (h : Kept s₀ s) : ResKept s₀ (execNop r s) := .next (h.runControl fun _ _ hs' => hs'.decide_)

theorem ResKept.execWaitQueue {r : WRef} {t : ℕ} (h : Kept s₀ s) : ResKept s₀ (execWaitQueue r t s) := by
  unfold Machine.execWaitQueue
  extract_lets look
  have hlook : ∀ (w : Work) (s : State), Kept s₀ s → Kept s₀ (look w s) := fun _ _ hs' =>
    .ite hs'.decide_ (.ite hs'.decide_ hs'.setWork)
  refine .next ?_
  split
  · exact h
  next v' _ => exact .ite (hlook v' (atTime s t) h.atTime) (h.atTime.runControl fun _ s' hs' => hlook _ s' hs')

theorem ResKept.execWaitQueueTimeout {r : WRef} {t : ℕ} (h : Kept s₀ s) : ResKept s₀ (execWaitQueueTimeout r t s) := by
  refine .next ?_
  split
  · exact h
  · exact .ite h.atTime.decide_ h

/-! ## L1 words (R177) -/

theorem EngKept.fillL1 {b : Machine.Bind} : EngKept s₀ (fillL1 b) :=
  .eachDo fun _ => .eachDo fun _ => .bind .wgtBlk fun _ => .bind .openAt fun _ => .wrH

theorem EngKept.prdBindBody : EngKept s₀ prdBindBody :=
  .get_bind fun _ _ => .bind .require fun _ => .bind .require fun _ => .bind .require fun _ => .bind .fillL1 fun _ =>
    .modS fun _ hs => hs.frame

theorem ResKept.execPrdBind {r : WRef} (h : Kept s₀ s) : ResKept s₀ (execPrdBind r s) := .next (h.runEngine .prdBindBody)

theorem ResKept.execPrdUnbind {r : WRef} (h : Kept s₀ s) : ResKept s₀ (execPrdUnbind r s) :=
  .next (h.runControl fun _ _ hs' => .ite hs'.decide_ hs'.frame.decide_)

/-! ## Proposals and confirmation (R179, R180) -/

theorem EngKept.predictBatch {b : Machine.Bind} {f : Fmt} {p : ℕ} {rows : List (List OBlk × Option ℤ)} {wmax : List (Option ℤ)} :
    EngKept s₀ (predictBatch b f p rows wmax) := by
  unfold Machine.predictBatch
  extract_lets t nb
  refine .bind (.mapDo fun _ => .bind .rdH fun _ => .pure) fun _ => ?_
  refine .bind (.mapDo fun _ => .bind .rdH fun _ => .pure) fun _ => ?_
  exact .bind (.mapDo fun _ => .bind .rdNat fun _ => .ite (.bind .rdNat fun _ => .bind (.mapDo fun _ => .rdNat) fun _ =>
    .pure) .pure) fun _ => .pure

theorem EngKept.tauOf {b : Machine.Bind} {j : ℕ} : EngKept s₀ (tauOf b j) := .rdNat

/-! ## Checks (R110) -/

theorem EngKept.readMax {w : Work} {h expert : ℕ} {isCol : Bool} {i : ℕ} : EngKept s₀ (readMax w h expert isCol i) :=
  .getS_bind fun _ _ => .bind .rdNat fun _ => .pure

theorem EngKept.binHead {w : Work} : EngKept s₀ (binHead w) := .bind .rdH fun _ => .pure

theorem EngKept.loadBin {w : Work} : EngKept s₀ (loadBin w) := by
  refine .ite ?_ .pure
  refine .getS_bind fun _ _ => .bind .require fun _ => .bind .binHead fun _ => .bind .require ?_
  exact fun _ => .bind .require fun _ => .bind (.mapDo fun _ => .rdNat) fun _ => .bind (.modify fun _ hc => hc) fun _ =>
    .get_bind fun _ _ => .pure

theorem EngKept.matMemChecks {w : Work} {auxH expert : ℕ} : EngKept s₀ (matMemChecks w auxH expert) :=
  .getS_bind fun _ _ => .bind .require fun _ => .bind .require fun _ => .bind .require fun _ => .require

theorem EngKept.maximaOf {w : Work} : EngKept s₀ (maximaOf w) := .ite (.bind .binHead fun _ => .pure) .pure

theorem EngKept.rowMax {w : Work} {auxH expert i : ℕ} : EngKept s₀ (rowMax w auxH expert i) :=
  .ite .pure (.ite .readMax (.bind (.mapDo fun _ => .actBlk) fun _ => .pure))

theorem EngKept.colMax {w : Work} {auxH expert j : ℕ} : EngKept s₀ (colMax w auxH expert j) :=
  .ite .pure (.ite .readMax (.bind (.mapDo fun _ => .wgtBlk) fun _ => .pure))

/-! ## Start -/

theorem EngKept.beginArr {tile : ℕ} : EngKept s₀ (beginArr tile) := by
  refine .get_bind fun _ _ => ?_
  extract_lets st
  refine .bind .require fun _ => .bind .loadBin fun a' => ?_
  split
  · refine .bind .matMemChecks fun a' => ?_
    extract_lets bind b
    refine .bind .require fun _ => .bind (.ite .pure (.mapDo fun _ => .colMax)) fun _ => ?_
    extract_lets go
    have hgo (x : Unit) : EngKept s₀ (go x) := by
      unfold go
      refine .bind ?_ ?_
      · clear_value bind
        split
        · exact .ite (.bind .fillL1 fun _ => .modS fun _ hs => hs.frame.bump) .pure
        · exact .pure
      · exact fun _ => .bind (.modS fun _ hs => hs.setArr) fun _ => .get_bind fun _ _ => .modS fun _ hs => hs.setWork
    exact .ite (.bind (.mapDo fun _ => .readMax) fun _ => .bind .require fun _ => hgo ()) (hgo ())

theorem Kept.cancelPair {tile : ℕ} {r : WRef} (h : Kept s₀ s) : Kept s₀ (cancelPair s tile r) := .ite h.setVec h

theorem Kept.endArr {tile : ℕ} {w : Work} {status : ℕ} (h : Kept s₀ s) : Kept s₀ (endArr s tile w status) :=
  (Kept.ite h.setArr h.setArr.cancelPair).setWork

theorem Kept.startArr {op : ℕ} {r : WRef} (h : Kept s₀ s) : Kept s₀ (startArr op r s) := by
  unfold Machine.startArr
  split
  · exact h
  · refine .ite h ?_
    extract_lets st s'
    have hs' : Kept s₀ s' := h.markReady
    refine .ite h.setWork ?_
    split
    next hi =>
      have hi' := hs'.issue _ hi
      extract_lets p x src
      have hx : Kept s₀ x.2.s := EngKept.beginArr _ hi'.started
      split
      · exact hx
      · exact hx.setWork
      · exact hi'.joinLine
      · exact hi'
    · exact hs'

theorem ResKept.execDenseContraction {r : WRef} (h : Kept s₀ s) : ResKept s₀ (execDenseContraction r s) := .next h.startArr

theorem ResKept.execSparseContraction {r : WRef} (h : Kept s₀ s) : ResKept s₀ (execSparseContraction r s) := .next h.startArr

theorem ResKept.execElementWiseProduct {r : WRef} (h : Kept s₀ s) : ResKept s₀ (execElementWiseProduct r s) := .next h.startArr

theorem ResKept.execExpertRoutedContraction {r : WRef} (h : Kept s₀ s) : ResKept s₀ (execExpertRoutedContraction r s) :=
  .next h.startArr

/-! ## Swaps -/

theorem EngKept.beginBatchArr {tile : ℕ} {w : Work} {a : ArrUnit} : EngKept s₀ (beginBatchArr tile w a) := by
  unfold Machine.beginBatchArr
  extract_lets f base m c
  refine .bind .maximaOf fun a' => ?_
  split
  · refine .bind (.mapDo fun _ => .rowMax) fun a' => ?_
    split
    · exact .pure
    · refine .bind (.mapDo fun _ => .mapDo fun _ => .actBlk) fun _ => .bind .predictBatch fun _ => ?_
      extract_lets unconf active late counted
      refine .bind (.modify fun _ hc' => hc') ?_
      exact fun _ => .bind (.modS fun _ hs => hs.bump.bump) fun _ => .bind .require fun _ => .bind (.modS fun _ hs =>
        hs.bump.bump) fun _ => .pure

theorem EngKept.sparseFault {tile : ℕ} {w : Work} {row group : ℕ} : EngKept s₀ (sparseFault tile w row group) :=
  .bind (.modS fun _ hs => hs.almFull) fun _ => .stopWith

theorem EngKept.checkMeta {tile : ℕ} {w : Work} {cols : List ℕ} {ck : ℕ} : EngKept s₀ (checkMeta tile w cols ck) := by
  refine .ite ?_ .pure
  extract_lets f ks rows groups len
  refine .ite .sparseFault (.bind ?_ (fun _ => .ite (.eachDo fun _ => .eachDo fun _ => .ite .sparseFault .pure) .pure))
  refine .mapDo fun x => .bind ?_ (fun _ => .pure)
  refine .mapDo fun _ => .bind .sparseMeta fun _ => ?_
  extract_lets go
  have hgo : ∀ (x : Unit), EngKept s₀ (go x) := fun _ => .pure
  exact .ite (.bind .sparseFault fun _ => hgo ()) (hgo ())

theorem EngKept.selectsOf {w : Work} {ck j : ℕ} : EngKept s₀ (selectsOf w ck j) :=
  .ite .pure (.ite (.mapDo fun _ => .bind (.mapDo fun _ => .bind .sparseMeta fun _ => .pure) fun _ => .pure) (.mapDo fun _ =>
    .sparseMeta))

theorem EngKept.loadStat {tile : ℕ} {w : Work} {a : ArrUnit} : EngKept s₀ (loadStat tile w a) := by
  unfold Machine.loadStat
  extract_lets cols
  refine .bind .checkMeta fun _ => .bind (.mapDo fun _ => .mapDo fun _ => .wgtBlk) fun _ => ?_
  refine .bind (.mapDo fun _ => .selectsOf) fun _ => ?_
  extract_lets go
  have hgo : ∀ (x : Unit), EngKept s₀ (go x) := fun _ => .pure
  exact .ite (.bind (.eachDo fun _ => .ite .pure (.eachDo fun _ => .eventsOf)) fun _ => hgo ()) (hgo ())

theorem EngKept.streamStat {tile : ℕ} {w : Work} {a : ArrUnit} {ws : List (List OBlk)} : EngKept s₀ (streamStat tile w a ws) := by
  unfold Machine.streamStat
  extract_lets f base m cols streams ks
  refine .bind (.mapDo fun _ => .mapDo fun _ => .actBlk) fun _ => ?_
  extract_lets res acc go go'
  have hgo (x : Unit) : EngKept s₀ (go x) := by
    unfold go
    exact .bind (.eachDo fun _ => .eachDo fun _ => .eventsOf) fun _ => .bind (.modS fun _ hs => hs.bump.bump) fun _ => .pure
  have hgo' : ∀ (x : Unit), EngKept s₀ (go' x) := fun _ => .ite (.bind (.eachDo fun _ => .eachDo fun _ => .eventsOf) fun _ =>
    hgo ()) (hgo ())
  exact .ite (.bind .require fun _ => hgo' ()) (hgo' ())

theorem EngKept.swapOne {tile : ℕ} {a : ArrUnit} {w : Work} : EngKept s₀ (swapOne tile a w) := by
  refine .bind (.ite .pure .beginBatchArr) fun _ => .ite .pure (.bind .loadStat fun _ => ?_)
  split
  · exact .bind (.modS fun _ hs => hs.setArr.bump) fun _ => .bind .streamStat fun _ => .pure

theorem Kept.failArr {tile : ℕ} {a : ArrUnit} {w : Work} {code : ℕ} (h : Kept s₀ s) : Kept s₀ (failArr s tile a w code) := by
  unfold Machine.failArr
  split
  · exact h.setWork.setArr
  · exact h.endArr

theorem Kept.arrStep {body : ArrUnit → Work → Eng ArrUnit} {tile : ℕ} {a : ArrUnit} {w : Work}
    {after : State → Work → ArrUnit → State} {stop : State → Work → ℕ → State} (hbody : ∀ a w, EngKept s₀ (body a w))
    (h : Kept s₀ s) (hafter : ∀ s, Kept s₀ s → ∀ w a, Kept s₀ (after s w a))
      (hstop : ∀ s, Kept s₀ s → ∀ w st, Kept s₀ (stop s w st)) :
    Kept s₀ (arrStep body tile s a w after stop) := by
  unfold Machine.arrStep
  extract_lets r w'
  have hr : Kept s₀ r.2.s := hbody a w (arrCtx s w) h
  split
  · exact (hafter _ hr.setWork.setArr _ _).pump
  · exact (hstop _ hr _ _).pump
  · exact h.leaveLines.joinLine
  · exact h

theorem ResKept.execSwap {tile : ℕ} (h : Kept s₀ s) : ResKept s₀ (execSwap tile s) := by
  refine .next ?_
  split
  · exact h
  · exact .ite h (h.arrStep (fun _ _ => .swapOne) (fun _ hs' _ _ => hs') fun _ hs' _ _ => hs'.failArr)

/-! ## The drain -/

theorem EngKept.elemOut {w : Work} {i : ℕ} {cols : List ℕ} : EngKept s₀ (elemOut w i cols) := by
  unfold Machine.elemOut
  extract_lets f p bs
  refine .bind ?_ ?_
  · exact .mapDo fun _ => .bind .actBlk fun _ => .bind .lineBlk fun _ => .bind .eventsOf fun _ => .bind .eventsOf fun _ => .pure
  · intro a
    refine .mapDo fun _ => ?_
    split
    · exact .pure
    · exact .bind (.eachDo fun _ => .event) fun _ => .pure

theorem EngKept.outRow {w : Work} {a : ArrUnit} {d : DrainTile} {cols : List ℕ} : EngKept s₀ (outRow w a d cols) := by
  refine .ite .elemOut (.mapDo fun _ => ?_)
  extract_lets T v
  split
  · exact .pure
  · exact .ite .pure (.bind .tauOf fun _ => .pure)

theorem EngKept.roundRow {w : Work} {i : ℕ} {cols : List ℕ} {vs : List (ℤ × ℤ)} : EngKept s₀ (roundRow w i cols vs) :=
  .getS_bind fun _ _ => .ite (.bind (.mapDo fun _ => .bind .eventsOf fun _ => .pure) fun _ => .pure) (.mapDo fun _ =>
    .bind .event fun _ => .pure)

theorem EngKept.writeOut {w : Work} {i : ℕ} {cols bad : List ℕ} {vs : List (ℤ × ℤ)} : EngKept s₀ (writeOut w i cols bad vs) := by
  refine .getS_bind fun _ _ => ?_
  extract_lets f h first last nb n body pad
  refine .ite ?_ (.ite .wrH (.bind (.eachDo fun _ => .ite .pure .wrH) fun _ => .ite .pure .wrH))
  exact .eachDo fun _ => .bind (.ite (.bind .rdH fun _ => .pure) .pure) fun _ => .bind .wrH fun _ => .wrH

theorem EngKept.drainOne {tile : ℕ} {d : DrainTile} {a : ArrUnit} {w : Work} : EngKept s₀ (drainOne tile d a w) := by
  unfold Machine.drainOne
  extract_lets i cols bad a' queued
  refine .bind (.bind .outRow fun _ => .pure) fun _ => .bind (.ite .stopWith .pure) fun _ => ?_
  refine .bind (.ite (.modS fun _ hs => hs.bump.bump) .pure) fun _ => ?_
  split
  · exact .bind .roundRow fun _ => .bind .writeOut fun _ => .pure
  · exact .bind .roundRow fun _ => .pure
  · exact .pure
  · exact .bind (.eachDo fun _ => .ite .pure .sendAddend) fun _ => .pure

theorem Kept.afterRow {tile : ℕ} {w : Work} {a : ArrUnit} (h : Kept s₀ s) : Kept s₀ (afterRow tile s w a) := by
  unfold Machine.afterRow
  split
  · exact .ite h.endArr h
  · exact .ite h.endArr h

theorem ResKept.execDrainRow {tile : ℕ} (h : Kept s₀ s) : ResKept s₀ (execDrainRow tile s) := by
  refine .next ?_
  split
  · exact h
  · split
    · exact h
    · exact .ite h (h.arrStep (fun _ _ => .drainOne) (fun _ hs' _ _ => hs'.afterRow) fun _ hs' _ _ => hs'.endArr)

theorem Kept.trackLine {apt line : ℕ} (h : Kept s₀ s) : Kept s₀ (trackLine s apt line) := by
  unfold Machine.trackLine
  extract_lets rest src s' src'
  have hs' : Kept s₀ s' := by
    unfold s'
    split
    · exact h.frame.send.bump
    · exact h.frame
  exact hs'.frame

theorem Kept.trackLines {apt off len : ℕ} (h : Kept s₀ s) : Kept s₀ (trackLines s apt off len) :=
  h.foldl fun _ _ ht => ht.trackLine

theorem Kept.countHostRead {o : Obj} {off len : ℕ} (h : Kept s₀ s) : Kept s₀ (countHostRead s o off len) :=
  h.sampleRange.countRange

theorem Kept.aptAccess {x : HostAcc} (h : Kept s₀ s) : OptKept s₀ (aptAccess s x) := by
  unfold Machine.aptAccess
  extract_lets a off y s' o r back
  have hs' : Kept s₀ s' := h.bump
  refine .ite (.some ?_) (.ite .none ?_)
  · split
    · exact hs'.send
    · exact hs'
  · split
    · exact .some h.countHostRead.trackLines.send
    · split
      next hd =>
        have hd' := h.draftRows hd
        exact .some (hd'.frame.writeLocal.markReady)
      · exact .none
      · exact .some h

theorem Kept.tryAccess {x : HostAcc} (h : Kept s₀ s) : Kept s₀ (tryAccess s x) := .ite h.frame (h.aptAccess.getD h.frame)

theorem Kept.poisonAccess {x : HostAcc} (h : Kept s₀ s) : Kept s₀ (poisonAccess s x) := by
  unfold Machine.poisonAccess
  split
  · exact h.send
  · exact h

theorem Kept.hostAccess {x : HostAcc} (h : Kept s₀ s) : Kept s₀ (hostAccess s x) := by
  unfold Machine.hostAccess
  split
  · exact h.tryAccess
  · exact h.frame
  · exact h.frame
  · exact h.poisonAccess

theorem Kept.serveHeld (h : Kept s₀ s) : Kept s₀ (serveHeld s) := by
  refine .ite h ?_
  extract_lets xs src
  split
  · exact h.frame.foldl fun _ _ ht => ht.tryAccess
  · exact h
  · exact h
  · exact h.frame.foldl fun _ _ ht => ht.poisonAccess

/-! ## Notices -/

theorem Kept.notifyFln {event chan code seq : ℕ} (h : Kept s₀ s) : Kept s₀ (notifyFln s event chan code seq) := by
  refine .ite ?_ h
  extract_lets body mac
  refine .ite h.send ?_
  split
  · exact h.send
  · exact h

theorem Kept.alert {seq : ℕ} (h : Kept s₀ s) : Kept s₀ (alert s seq) := h.frame.notifyFln

theorem ResKept.execAlertPulseEnd {t : ℕ} (h : Kept s₀ s) : ResKept s₀ (execAlertPulseEnd t s) :=
  .next (.ite (Kept.frame (s := atTime s t) h.atTime) h)

/-! ## Control packets (R350, R490, R492) -/

theorem Kept.dropWatch (h : Kept s₀ s) : Kept s₀ (dropWatch s) := h.frame

theorem Kept.sendCtrl {p kind : ℕ} (h : Kept s₀ s) : Kept s₀ (sendCtrl s p kind) := .ite h h.setPort.transmit

/-! ## Freeze (R489-R493) -/

theorem Kept.enterFreeze {cause port : ℕ} (h : Kept s₀ s) : Kept s₀ (enterFreeze s cause port) := by
  unfold Machine.enterFreeze
  extract_lets s' s1 src
  have hs' : Kept s₀ s' := h.dropWatch.foldl fun _ _ ht => ht.sendCtrl
  have hs1 : Kept s₀ s1 := hs'.setReg.setReg.bump32
  exact hs1.frame.setReg

theorem Kept.freeze {cause port : ℕ} (h : Kept s₀ s) : Kept s₀ (freeze s cause port) := .ite h (.ite h.frame h.enterFreeze)

theorem ResKept.execFreezeComplete {t : ℕ} (h : Kept s₀ s) : ResKept s₀ (execFreezeComplete t s) :=
  .next (.ite h.atTime.setReg.setReg h)

theorem Kept.shiftTimers {d : ℕ} (h : Kept s₀ s) : Kept s₀ (shiftTimers s d) := h.frame

theorem Kept.doThaw (h : Kept s₀ s) : Kept s₀ (doThaw s) := by
  unfold Machine.doThaw
  extract_lets s' s1
  have hs' : Kept s₀ s' := h.setReg.dropWatch.shiftTimers
  have hs1 : Kept s₀ s1 := hs'.foldl fun _ _ ht => ht.sendCtrl
  exact ((hs1.foldl fun _ _ ht => ht.transmit).pump).serveHeld

theorem Kept.thaw (h : Kept s₀ s) : Kept s₀ (thaw s).1 := .ite_fst (.ite_fst h.setReg.serveHeld (.ite_fst h h.doThaw)) h

theorem ResKept.execFreezeTooLong {t : ℕ} (h : Kept s₀ s) : ResKept s₀ (execFreezeTooLong t s) :=
  .next (.ite h.atTime.setReg.setReg.serveHeld h)

theorem ResKept.execJtagInternalScan {t : ℕ} (h : Kept s₀ s) : ResKept s₀ (execJtagInternalScan t s) := by
  unfold Machine.execJtagInternalScan
  extract_lets f s' st s1
  have hs' : Kept s₀ s' := h.atTime
  have hs1 : Kept s₀ s1 := hs'.setReg
  exact .next (.ite (.ite hs1.setReg.serveHeld hs1) h)

/-! ## Units that stop (R482, R483) -/

theorem Kept.redCtrl {dst kind : ℕ} {body : List Byte} (h : Kept s₀ s) : Kept s₀ (redCtrl s dst kind body) := h.postCtrl

theorem Kept.endCtx {c : RedCtx} {status : ℕ} (h : Kept s₀ s) : Kept s₀ (endCtx s c status) := by
  unfold Machine.endCtx
  extract_lets src s'
  have hs' : Kept s₀ s' := h.frame
  split
  · exact hs'.setWork
  · exact hs'

theorem Kept.failCtx {c : RedCtx} {status : ℕ} {from_ : Option ℕ} (h : Kept s₀ s) : Kept s₀ (failCtx s c status from_) :=
  (h.foldl fun _ _ ht => ht.redCtrl).endCtx

theorem Kept.haltWork {p : Work → Bool} {status : ℕ} (h : Kept s₀ s) : Kept s₀ (haltWork s p status) := by
  refine .foldl h fun t x ht => .ite ?_ ?_
  · split
    · exact ht.creditLaunch
    · exact ht.setWork
  · split
    · exact ht.failCtx
    · exact ht.releaseHolds.setWork

theorem Kept.clearTiles {ts : List ℕ} (h : Kept s₀ s) : Kept s₀ (clearTiles s ts) := h.frame

theorem Kept.cancelFetched {p : Work → Bool} (h : Kept s₀ s) : Kept s₀ (cancelFetched s p) := h.frame

theorem Kept.stopUnit {e : ErrIn} (h : Kept s₀ s) : Kept s₀ (stopUnit s e) := by
  refine .ite h.setReg (.ite h.setReg ?_)
  extract_lets src s' s1 s2 src' src1
  have hs' : Kept s₀ s' := h.frame
  have hs1 : Kept s₀ s1 := hs'.haltWork.cancelFetched
  have hs2 : Kept s₀ s2 := .ite hs1.clearTiles hs1
  exact .ite hs2.frame (.ite (.ite hs2.frame (hs2.foldl fun _ _ ht => ht.creditLaunch)) (.ite hs2.frame hs2))

theorem ResKept.execReturnToService {unit t : ℕ} (h : Kept s₀ s) : ResKept s₀ (execReturnToService unit t s) := by
  refine .next (.ite ?_ h)
  extract_lets s' src
  have hs' : Kept s₀ s' := h.atTime
  exact hs'.frame.markReady

theorem Kept.abortAll (h : Kept s₀ s) : Kept s₀ (abortAll s) := h.foldl fun _ _ ht => ht.abortQueue

theorem Kept.startFatal (h : Kept s₀ s) : Kept s₀ (startFatal s) := by
  unfold Machine.startFatal
  extract_lets src s1 s2 s3
  have h1 : Kept s₀ s1 := Kept.abortAll h.frame
  clear_value s1
  have h2 : Kept s₀ s2 := h1.frame
  have h3 : Kept s₀ s3 := h2.haltWork.clearTiles
  exact h3.foldl fun _ _ ht => ht.setReg

theorem Kept.contain {seq : ℕ} (h : Kept s₀ s) : Kept s₀ (contain s seq) := by
  unfold Machine.contain
  extract_lets s' src s1 f s2 s3
  have hs' : Kept s₀ s' := h.setReg.setReg
  have hs1 : Kept s₀ s1 := hs'.frame.isolatePorts
  have hs2 : Kept s₀ s2 := .ite hs1.enterFreeze hs1
  have hs3 : Kept s₀ s3 := .ite hs2.setReg hs2
  exact hs3.setReg.serveHeld.alert

/-! ## Error records (R475-R480) -/

theorem Kept.placeRecord {e : ErrIn} {sev : ℕ} {rec_ : Bool → ℕ} (h : Kept s₀ s) : Kept s₀ (placeRecord s e sev rec_) :=
  .ite h.setReg.setReg (.ite h.setReg.setReg (.ite h.setReg.bump32 h.bump32))

theorem Kept.poisonEntry {tile : ℕ} (h : Kept s₀ s) : Kept s₀ (poisonEntry s tile) := .ite h h.drawn.frame

theorem Kept.markPoison {e : ErrIn} (h : Kept s₀ s) : Kept s₀ (markPoison s e) :=
  .ite h (.ite h.poisonEntry (.ite h.poison.bump32 (.ite h.poison.bump32 h.poison)))

theorem Kept.countCorrected {e : ErrIn} (h : Kept s₀ s) : Kept s₀ (countCorrected s e) := .ite h (.ite h.bump (.ite h.bump h))

theorem Kept.endStreams (h : Kept s₀ s) : Kept s₀ (endStreams s) := h.setReg.drawn

theorem Kept.recordError {e : ErrIn} (h : Kept s₀ s) : Kept s₀ (recordError e s) := by
  unfold Machine.recordError
  extract_lets sev seq b held grave low s1 s2 s3 st s4 s5 s6
  have h2 : Kept s₀ s2 := h.almFull.placeRecord
  have h3 : Kept s₀ s3 := .ite h2.notifyFln h2
  have h4 : Kept s₀ s4 := .ite h3.setReg h3
  have h5 : Kept s₀ s5 := .ite h4.endStreams h4
  have h6 : Kept s₀ s6 := h5.startFatal.alert
  refine .ite h.countCorrected (.ite (.ite h4.markPoison h4) ?_)
  clear_value s4 sev
  split
  · exact h4.markPoison
  · exact h4.stopUnit
  · exact .ite h5.contain (.ite h6.freeze h6)

theorem ResKept.execErrorRecord {e : ErrIn} {t : ℕ} (h : Kept s₀ s) : ResKept s₀ (execErrorRecord e t s) :=
  .next h.atTime.recordError

theorem Kept.releaseErrors {u v : ℕ} (h : Kept s₀ s) : Kept s₀ (releaseErrors s u v) := by
  unfold Machine.releaseErrors
  extract_lets k valid first ends s' s1 src
  have hs' : Kept s₀ s' := .ite (.ite h.setReg.setReg.setReg h.setReg.setReg) h
  have hs1 : Kept s₀ s1 := .ite (.ite (.ite hs'.setReg.setReg hs') (.ite hs'.setReg.setReg hs')) hs'
  exact .ite hs1.frame.pump hs1

/-! ## Freezing and thawing by pin and by packet (R489, R492) -/

theorem ResKept.execFreezeNLow {t : ℕ} (h : Kept s₀ s) : ResKept s₀ (execFreezeNLow t s) := by
  refine .next ?_
  extract_lets s' src s1
  have hs' : Kept s₀ s' := h.atTime
  have hs1 : Kept s₀ s1 := hs'.frame
  exact .ite (.ite hs1 hs1.freeze) hs'

/-! ## Index lists -/

theorem EngKept.readIndex {h : ℕ} {wide : Bool} {i : ℕ} : EngKept s₀ (readIndex h wide i) := .bind .rdNat fun _ => .pure

/-! ## The directory (R246-R252) -/

theorem Kept.halveSketch {die : ℕ} (h : Kept s₀ s) : Kept s₀ (halveSketch s die) := h.frame

theorem Kept.sketchHit {die table row : ℕ} (h : Kept s₀ s) : Kept s₀ (sketchHit s die table row) := by
  unfold Machine.sketchHit
  extract_lets s' up src
  have hs' : Kept s₀ s' := .ite h.halveSketch h
  exact hs'.frame

/-! ## A look-up (R240, R248, R249) -/

theorem EngKept.homeRead {o : Obj} {off len : ℕ} {v : Option ℕ} : EngKept s₀ (homeRead o off len v) := by
  unfold Machine.homeRead
  split
  · exact .rdUnder
  · exact .rdPlain

theorem EngKept.lookRow {o : Obj} {row off len : ℕ} {v : Option ℕ} {bypass : Bool} :
    EngKept s₀ (lookRow o row off len v bypass) := by
  refine .get_bind fun _ _ => ?_
  extract_lets q go
  have hgo (x : Unit) : EngKept s₀ (go x) := by
    unfold go
    split
    · split
      · exact .bind (.modS fun _ hs => hs.bump.sampleAccess) fun _ => .pure
      · exact .stopWith
    · refine .bind .homeRead fun a => ?_
      extract_lets go'
      have hgo' : ∀ (x : Unit), EngKept s₀ (go' x) := fun _ => .pure
      refine .ite ?_ (hgo' ())
      refine .bind (.modS fun _ hs => hs.bump) fun _ => .getS_bind fun _ hs => .ite ?_ (hgo' ())
      split
      · split
        · exact .bind (.modS fun _ hs' => hs'.frame) fun _ => hgo' ()
        · exact hgo' ()
      · exact hgo' ()
  refine .ite ?_ (.ite (.bind (.modS fun _ hs => hs.sketchHit) fun _ => hgo ()) (hgo ()))
  refine .bind .homeRead fun a => ?_
  extract_lets go'
  have hgo' : ∀ (x : Unit), EngKept s₀ (go' x) := fun _ => .pure
  exact .ite (.bind (.modS fun _ hs => hs.bump) fun _ => hgo' ()) (hgo' ())

theorem EngKept.lookRange {o : Obj} {off len : ℕ} {v : Option ℕ} {bypass : Bool} : EngKept s₀ (lookRange o off len v bypass) :=
  .ite .rdObj (.bind (.mapDo fun _ => .lookRow) fun _ => .pure)

theorem EngKept.versionFor {o : Obj} {v : ℕ} : EngKept s₀ (versionFor o v) := by
  refine .ite .pure (.get_bind fun _ _ => ?_)
  split
  · exact .ite .pure .stopWith
  · split
    · exact .bind (.modify fun _ hc' => hc') fun _ => .pure
    · exact .stopWith

theorem EngKept.rowList {o : Obj} {h : ℕ} {wide : Bool} {n : ℕ} {fits : ℕ → Bool} : EngKept s₀ (rowList o h wide n fits) :=
  .bind (.mapDo fun _ => .readIndex) fun _ => .bind .require fun _ => .pure

theorem EngKept.eachRow {rows : List (Option ℕ × ℕ) × Bool} {f : Option ℕ → ℕ → Eng Unit}
    (h : ∀ (a : Option ℕ) (b : ℕ), EngKept s₀ (f a b)) :
    EngKept s₀ (eachRow rows f) :=
  .bind (.eachDo fun x => h x.1 x.2) fun _ => .require

theorem EngKept.upTo {n : ℕ} {f : ℕ → Eng Unit} (h : ∀ (a : ℕ), EngKept s₀ (f a)) : EngKept s₀ (upTo n f) := .eachDo fun x =>
  h x

/-! ## GATHER (R223-R226) -/

theorem EngKept.gatherBody : EngKept s₀ gatherBody := by
  refine .get_bind fun _ _ => ?_
  extract_lets w src n col colb wide pitch
  refine .bind .require fun _ => .bind .require fun _ => .bind .require fun _ => .bind .require fun _ => ?_
  refine .bind .require fun _ => .bind .require fun _ => .bind .versionFor fun _ => .bind .rowList fun _ => ?_
  refine .eachRow fun _ _ => .bind ?_ (fun _ => .bind .wrH fun _ => .modS fun _ hs => hs.bump)
  split
  · exact .pure
  · exact .lookRange

theorem ResKept.execGather {r : WRef} (h : Kept s₀ s) : ResKept s₀ (execGather r s) := .next (h.runEngine .gatherBody)

/-! ## SCATTER_ADD (R234) -/

theorem EngKept.scatterAddBody : EngKept s₀ scatterAddBody := by
  refine .get_bind fun _ _ => ?_
  extract_lets w dst n el ne wide fc f eb pitch base
  refine .bind .require fun _ => .bind .require fun _ => .bind .require fun _ => .bind .require fun _ => ?_
  refine .bind .require fun _ => .bind .require fun _ => .bind .require fun _ => .bind .require fun _ => ?_
  refine .bind .require fun _ => .bind .rowList fun _ => .eachRow fun _ _ => ?_
  split
  · exact .pure
  · exact .bind .rdH fun _ => .bind .sendAddends fun _ => .bind .addEvents fun _ => .modS fun _ hs => hs.bump

theorem ResKept.execScatterAdd {r : WRef} (h : Kept s₀ s) : ResKept s₀ (execScatterAdd r s) :=
  .next (h.runEngine .scatterAddBody)

/-! ## SCATTER_WRITE (R244) -/

theorem EngKept.scatterWriteBody : EngKept s₀ scatterWriteBody := by
  refine .get_bind fun _ _ => ?_
  extract_lets w dst n col colb wide pitch
  refine .bind .require fun _ => .bind .require fun _ => .bind .require fun _ => .bind .require fun _ => ?_
  refine .bind .require fun _ => .bind .require fun _ => .bind .rowList fun _ => .eachRow fun _ _ => ?_
  split
  · exact .pure
  · exact .bind .rdH fun _ => .wrObj

theorem ResKept.execScatterWrite {r : WRef} (h : Kept s₀ s) : ResKept s₀ (execScatterWrite r s) :=
  .next (h.runEngine .scatterWriteBody)

/-! ## READOUT and CLEAR (R231, R233, R235, R236) -/

theorem EngKept.stageRows {h first n : ℕ} : EngKept s₀ (stageRows h first n) :=
  .get_bind fun _ _ => .bind .require fun _ => .bind .require fun _ => .pure

theorem EngKept.readoutBody : EngKept s₀ readoutBody := by
  refine .get_bind fun _ _ => ?_
  extract_lets w fc f md
  refine .bind .stageRows fun a => ?_
  split
  · refine .bind .require fun a => ?_
    extract_lets nat pitch
    refine .bind .require fun _ => .bind .require fun _ => .bind .require fun _ => .upTo fun x => ?_
    extract_lets row
    refine .bind .rowAtomic fun _ => .ite .wrH ?_
    extract_lets vs go
    have hgo : ∀ (x : Unit), EngKept s₀ (go x) := fun _ => .getS_bind fun _ _ => .bind .eventsOf fun _ => .wrH
    exact .ite (.bind .addEvents fun _ => .bind (.modS fun _ hs => hs.bump) fun _ => hgo ()) (hgo ())

theorem ResKept.execReadout {r : WRef} (h : Kept s₀ s) : ResKept s₀ (execReadout r s) := .next (h.runEngine .readoutBody)

theorem EngKept.clearBody : EngKept s₀ clearBody := by
  refine .get_bind fun _ _ => ?_
  extract_lets w
  refine .bind .stageRows fun _ => ?_
  split
  · exact .bind .require fun _ => .upTo fun _ => .clearRow

theorem ResKept.execClear {r : WRef} (h : Kept s₀ s) : ResKept s₀ (execClear r s) := .next (h.runEngine .clearBody)

/-! ## Publishing and releasing versions (R241, R242) -/

theorem Kept.refreshTable {x : TableSlot} (h : Kept s₀ s) : Kept s₀ (refreshTable s x) := h.foldl fun _ _ ht => ht.refreshCopies

theorem EngKept.publishBody {r : WRef} : EngKept s₀ (publishBody r) :=
  .get_bind fun _ _ => .bind .require fun _ => .bind .require fun _ => .ite .throw (.modS fun _ hs => hs.frame.refreshTable)

theorem ResKept.execTablePublish {r : WRef} {t : ℕ} (h : Kept s₀ s) : ResKept s₀ (execTablePublish r t s) :=
  .next (h.atTime.runEngine .publishBody)

theorem ResKept.execTableRelease {slot t : ℕ} (h : Kept s₀ s) : ResKept s₀ (execTableRelease slot t s) := by
  unfold Machine.execTableRelease
  extract_lets x s' s1 o
  have hs' : Kept s₀ s' := h.atTime
  have hs1 : Kept s₀ s1 := hs'.frame
  refine .next ?_
  split
  · exact h
  · exact .ite ((Kept.ite hs1.setObj hs1).serveHeld) h

/-! ## The pinned set and the query cache (R250-R252) -/

theorem Kept.pinRow {die : ℕ} {o : Obj} {row : ℕ} (h : Kept s₀ s) : Kept s₀ (pinRow s die o row).1 := by
  unfold Machine.pinRow
  extract_lets set old
  split
  · exact h
  · clear_value old
    split
    · extract_lets s' src
      have hs' : Kept s₀ s' := h.writePhys
      exact hs'.frame
    · extract_lets e s' src
      have hs' : Kept s₀ s' := h.writePhys
      exact hs'.frame
    · exact h

theorem EngKept.pinBody : EngKept s₀ pinBody := by
  refine .get_bind fun _ _ => ?_
  extract_lets w
  refine .bind .require fun _ => .bind .require fun _ => .bind (.mapDo fun _ => .rdH) fun _ => ?_
  extract_lets dies go
  have hgo (x : Unit) : EngKept s₀ (go x) := by
    unfold go
    refine .eachDo fun _ => .getS_bind fun _ hs => ?_
    extract_lets die
    split
    · exact .addEvents
    · refine .ite .addEvents (.bind (.modS fun _ hs' => hs'.snoopRange.countRange) fun _ => .bind .sampleRead fun _ => ?_)
      refine .getS_bind fun _ hs' => ?_
      extract_lets r
      have hr : Kept s₀ r.1 := hs'.pinRow
      exact .bind (.modS fun _ _ => hr) fun _ => .ite .addEvents .pure
  exact .ite (.bind (.modS fun _ hs => hs.frame) fun _ => hgo ()) (hgo ())

theorem ResKept.execPinRefresh {r : WRef} (h : Kept s₀ s) : ResKept s₀ (execPinRefresh r s) := .next (h.runEngine .pinBody)

theorem Kept.addRow {die set way : ℕ} {o : Obj} {row a ver : ℕ} {bs : List Byte} (h : Kept s₀ s) :
    Kept s₀ (addRow s die set way o row a ver bs) :=
  h.frame.writePhys.bump

theorem Kept.fillRow {die : ℕ} {o : Obj} {row ver : ℕ} {bs : List Byte} (h : Kept s₀ s) :
    Kept s₀ (fillRow s die o row ver bs) := by
  unfold Machine.fillRow
  extract_lets s' set n reject
  have hs' : Kept s₀ s' := .ite h.halveSketch h
  have hreject : Kept s₀ reject := hs'.bump
  refine .ite hs' ?_
  split
  · exact hs'.addRow
  · split
    · exact hreject
    · refine .ite hreject ?_
      split
      · exact hreject
      · exact hs'.addRow

theorem ResKept.execCacheFill {i : ℕ} (h : Kept s₀ s) : ResKept s₀ (execCacheFill i s) := by
  refine .next ?_
  split
  · exact h
  · extract_lets src s' o
    have hs' : Kept s₀ s' := h.frame
    split
    · exact .ite hs'.fillRow hs'
    · exact hs'

theorem ResKept.execSketchHalving {die : ℕ} (h : Kept s₀ s) : ResKept s₀ (execSketchHalving die s) :=
  .next (.ite h.halveSketch h)

/-! ## Entries at the adders (R229) -/

theorem Kept.enterAddend {x : Addend} {e : Ev} (h : Kept s₀ s) (hd : enterAddend s x = .done t e) : Kept s₀ t := by
  unfold Machine.enterAddend at hd
  extract_lets o off row c s1 v at hd
  have h1 : Kept s₀ s1 := h.snoopRange
  split at hd
  · cases hd
  · split at hd
    · cases hd
    · split at hd
      · cases hd
      · split at hd
        · cases hd
        · split at hd
          case h_1 =>
            split at hd
            · cases hd
            next hadd =>
              injection hd with ht
              subst ht
              exact (h1.addAt _ hadd).markDirty.markDirty.countBytes.countBytes.addMigrating.sampleAccess.refreshCopies.stampObj
          case h_9 =>
            split at hd
            · cases hd
            next hadd =>
              injection hd with ht
              subst ht
              exact (h1.addApart _ hadd).markDirty.countBytes.countBytes.sampleAccess.postPlace.pump.stampObj
          all_goals cases hd

theorem ResKept.execAddendEntry {i : ℕ} (h : Kept s₀ s) : ResKept s₀ (execAddendEntry i s) := by
  refine .next ?_
  split
  · exact h
  · extract_lets gone ack
    have hack {u : State} (hu : Kept s₀ u) (st : ℕ) (acc : Acc) : Kept s₀ (ack u st acc) := by
      refine .pump ?_
      split
      · exact hu.ackWork
      · exact hu
    refine .ite h ?_
    split
    next hd => exact hack (h.enterAddend hd).frame _ _
    · exact (Kept.frame (t := gone s) h).postTxn.pump
    · exact hack h.frame _ _
    · exact h

/-! ## PROMOTE (R256) -/

theorem EngKept.promoteBody : EngKept s₀ promoteBody := by
  refine .get_bind fun _ _ => ?_
  extract_lets w o wide at_
  refine .bind .require fun _ => .bind .require fun _ => .bind .rowList fun _ => .eachRow fun _ _ => ?_
  split
  · exact .pure
  · exact .ite .throw (.ite .throw .pure)

theorem ResKept.execPromote {r : WRef} {t : ℕ} (h : Kept s₀ s) : ResKept s₀ (execPromote r t s) :=
  .next (h.atTime.runEngine .promoteBody)

/-! ## Relocation entries (R246, R255) -/

theorem Kept.dropReloc {o : Obj} {row : ℕ} (h : Kept s₀ s) : Kept s₀ (dropReloc s o row) := h.frame

theorem Kept.dropCopies {o : Obj} {row : ℕ} (h : Kept s₀ s) : Kept s₀ (dropCopies s o row) := h.frame

theorem Kept.dropMigration {n row : ℕ} (h : Kept s₀ s) : Kept s₀ (dropMigration s n row) := h.frame.touch

theorem Kept.dropPlans {n row : ℕ} (h : Kept s₀ s) : Kept s₀ (dropPlans s n row) := h.frame

/-! ## Messages about rows (R350, log 34) -/

theorem Kept.rowMsg {op coord obj row : ℕ} {body : List Byte} (h : Kept s₀ s) : Kept s₀ (rowMsg s op coord obj row body) :=
  h.postPlace

theorem Kept.sendTag {kind : TxKind} {coord unit : ℕ} {o : Obj} {row : ℕ} (h : Kept s₀ s) :
    Kept s₀ (sendTag s kind coord unit o row) :=
  .ite h (.ite h.postPlace (h.foldl fun _ _ ht => ht.postPlace))

theorem Kept.dropTags {n : ℕ} {rows : List ℕ} (h : Kept s₀ s) : Kept s₀ (dropTags s n rows) := .ite h h.setObj

/-! ## The commands -/

theorem Kept.relocWay {die set table row way : ℕ} (h : Kept s₀ s) (e : relocWay s die set table row = some (way, t)) :
    Kept s₀ t := by
  unfold Machine.relocWay at e
  dsimp only at e
  split at e
  · cases e
    exact h.frame
  · cases e
    exact h
  · obtain ⟨x, -, hx⟩ := Option.map_eq_some_iff.mp e
    cases hx
    exact h.frame

theorem Kept.startMigration {p : MigPlan} {o : Obj} (h : Kept s₀ s) : Kept s₀ (startMigration s p o) := by
  have hplain : Kept s₀ (Machine.dropPlans s o.num p.row) := h.dropPlans
  unfold Machine.startMigration
  dsimp only
  split
  next way s1 delta bs hway _ _ =>
    have hs1 : Kept s₀ (Machine.tellRead s1 o (p.row * o.pitch) o.pitch) := (hplain.relocWay hway).tellRead
    split
    · exact hplain.bump
    · exact .ite (.ite hs1.frame (Kept.frame hs1).bump) (Kept.rowMsg (.ite hs1.frame (Kept.frame hs1).bump)).pump
  · exact hplain.bump
  · exact hplain.bump

theorem Kept.startReturn {o : Obj} {row coord : ℕ} (h : Kept s₀ s) : Kept s₀ (startReturn s o row coord) := by
  unfold Machine.startReturn
  split
  · exact h.frame.rowMsg.pump
  · exact h

theorem ResKept.execMigrationStart {obj row t : ℕ} (h : Kept s₀ s) : ResKept s₀ (execMigrationStart obj row t s) := by
  unfold Machine.execMigrationStart
  extract_lets o s'
  have hs' : Kept s₀ s' := h.atTime
  refine .next ?_
  split
  · exact h
  · refine .ite h (.ite ?_ (.ite hs'.dropPlans hs'.startMigration))
    split
    · exact .ite hs'.dropPlans hs'.dropPlans.startReturn
    · exact hs'.dropPlans

theorem Kept.foldMsgs {m : Migration} (h : Kept s₀ s) : Kept s₀ (foldMsgs s m) := h.postPlace.foldl fun _ _ ht => ht.postPlace

theorem ResKept.execSnapshotAck {obj row t : ℕ} (h : Kept s₀ s) : ResKept s₀ (execSnapshotAck obj row t s) := by
  refine .next ?_
  split
  · exact h
  · refine .ite ?_ h
    exact .ite h.atTime.setMigration.setMState.writePhys.countBytes
      (.ite h.atTime.setMigration.setMState h.atTime.setMigration.setMState.foldMsgs.pump)

theorem Kept.foldRow {xa : Bool} {a n high : ℕ} {vs : List (ℕ × ℕ)} (h : Kept s₀ s) : Kept s₀ (foldRow s xa a n high vs) := by
  unfold Machine.foldRow
  extract_lets w s'
  have hs' : Kept s₀ s' := h.foldl fun _ _ ht => ht.writePhys.countBytes.countBytes
  exact .ite hs'.writePhys.countBytes.countBytes hs'

theorem Kept.commitMigration {m : Migration} {o : Obj} (h : Kept s₀ s) : Kept s₀ (commitMigration s m o) := by
  unfold Machine.commitMigration
  extract_lets die s' s1 s2 s3 s4 src s5
  have hs' : Kept s₀ s' := h.setMigration
  have hs1 : Kept s₀ s1 := hs'.bump
  have hs2 : Kept s₀ s2 := .ite hs1.bump hs1
  have hs3 : Kept s₀ s3 := hs2.dropCopies
  have hs4 : Kept s₀ s4 := hs3.setMState
  have hs5 : Kept s₀ s5 := .ite hs4.frame (.ite hs4.frame hs4)
  exact .ite hs5 hs5.sendTag.dropTags.rowMsg.pump

theorem ResKept.execMigrationCommit {obj row t : ℕ} (h : Kept s₀ s) : ResKept s₀ (execMigrationCommit obj row t s) := by
  refine .next ?_
  split
  · exact h
  · exact .ite ((Kept.ite h.atTime.foldRow h.atTime).commitMigration.serveHeld) h

theorem ResKept.execMigOldFree {obj row t : ℕ} (h : Kept s₀ s) : ResKept s₀ (execMigOldFree obj row t s) := by
  refine .next ?_
  split
  · exact h
  · exact .ite (Kept.frame (s := atTime s t) h.atTime) h

theorem ResKept.execMigrationTimeout {obj row t : ℕ} (h : Kept s₀ s) : ResKept s₀ (execMigrationTimeout obj row t s) := by
  refine .next ?_
  split
  · exact h
  · exact .ite h.atTime.abortMigration.pump h

/-! ## Template chains -/

theorem EngKept.readChain {h n pos : ℕ} {t : Tab (Option TRec)} : EngKept s₀ (readChain h n pos t) := by
  induction n generalizing pos t with
  | zero => exact .pure
  | succ n ih =>
    exact .get_bind fun _ _ => .bind .require fun _ => .bind .rdH fun _ => .bind .require fun _ => .ite .pure ih

/-! ## LAUNCH (R157, R160) -/

theorem EngKept.launchBody : EngKept s₀ launchBody :=
  .get_bind fun _ _ => .bind .require fun _ => .bind .require fun _ => .readChain

theorem ResKept.execLaunch {r : WRef} {t : ℕ} (h : Kept s₀ s) : ResKept s₀ (execLaunch r t s) := by
  unfold Machine.execLaunch
  extract_lets go
  have hgo : ∀ (w : Work) (u : State), Kept s₀ u → Kept s₀ (go w u) := by
    intro w u hu
    unfold go
    split
    · exact hu
    · extract_lets p x
      have hp : Kept s₀ p.1 := .ite_fst hu hu.started
      have hx : Kept s₀ x.2.s := EngKept.launchBody _ hp
      split
      · exact hx.frame.setWork
      · exact hp.settle hx
  refine .next ?_
  split
  · exact h
  · exact .ite (.ite h (hgo _ _ h.atTime)) (h.atTime.runControl hgo)

/-! ## Creating and homing strands (R158, R167, R168) -/

theorem EngKept.listEntry {h n i : ℕ} : EngKept s₀ (listEntry h n i) := .get_bind fun _ _ => .bind .require fun _ => .rdNat

theorem EngKept.formStrand {w : Work} {q : ℕ} : EngKept s₀ (formStrand w q) := by
  unfold Machine.formStrand
  extract_lets go
  have hgo (x : ℕ) : EngKept s₀ (go x) := by
    unfold go
    extract_lets go'
    have hgo' : ∀ (x : ℕ), EngKept s₀ (go' x) := fun _ => .get_bind fun _ _ => .bind .require fun _ =>
      .ite (.bind .listEntry fun _ => .pure) .pure
    exact .ite (.bind .listEntry fun a => hgo' a) (.bind .pure fun a => hgo' a)
  exact .ite (.bind .pure fun a => hgo a) (.bind .listEntry fun a => hgo a)

theorem Kept.sendChain {l : Launch} {coord die : ℕ} (h : Kept s₀ s) : Kept s₀ (sendChain s l coord die) := by
  unfold Machine.sendChain
  extract_lets key s' src
  have hs' : Kept s₀ s' := h.setLaunch
  exact .ite h (.ite hs'.frame hs'.postChain)

theorem Kept.sendStrand {x : Strand} (h : Kept s₀ s) : Kept s₀ (sendStrand s x) := h.postTxn

theorem Kept.homeStrand {l : Launch} {x : Strand} {d : Homed} {t : ℕ} (h : Kept s₀ s) : Kept s₀ (homeStrand s l x d t) := by
  unfold Machine.homeStrand
  extract_lets put bad y
  have hput {u : State} (hu : Kept s₀ u) (x : Strand) : Kept s₀ (put u x) := hu.frame
  have hbad {u : State} (hu : Kept s₀ u) (ok : Bool) : Kept s₀ (bad u ok) := .ite hu hu.report.wakeForward
  split
  · exact .ite (hbad (hput h _) _) (hput h.sendChain _).pumpForward
  · exact (hput h.sendChain _).bump.sendStrand.pump
  · exact h.report.wakeForward
  · exact h

theorem ResKept.execStrandCreate {die entry t : ℕ} (h : Kept s₀ s) : ResKept s₀ (execStrandCreate die entry t s) := by
  refine .next ?_
  split
  · exact h
  · split
    · exact h
    next w _ =>
      refine .ite ?_ h
      extract_lets s1 x src s2
      have hs1 : Kept s₀ s1 := h.atTime
      have hx : Kept s₀ x.2.s := EngKept.formStrand { s := s1, w := w, die := die } hs1
      have hs2 : Kept s₀ s2 := hx.setWork
      split
      · extract_lets d y
        clear_value d
        split
        · exact hs2
        · exact hs2.setLaunch.homeStrand.markReady
      · exact hs1.report.wakeForward
      · exact hs1.settle hx

/-! ## Batches (R161, R171) -/

theorem Kept.areaObj {die : ℕ} (h : Kept s₀ s) : Kept s₀ (areaObj s die).2 := by
  unfold Machine.areaObj
  extract_lets n n' n1 o src src'
  have hsrc : Kept s₀ src := h.setObj
  exact .ite_snd h hsrc.frame

theorem Kept.putList {die batch : ℕ} {bs : List Byte} {p : ℕ × State} (h : Kept s₀ s) (e : putList s die batch bs = some p) :
    Kept s₀ p.2 := by
  unfold Machine.putList at e
  split at e
  · cases e
  · cases e
    exact Kept.frame (s := Machine.writeLocal _ _ _ bs) h.areaObj.writeLocal

theorem Kept.issueBatch {die : ℕ} {k : LKey} {pos : ℕ} {r : TRec} {xs : List Strand} {bin : Option ℕ} {spill : Bool}
    (h : Kept s₀ s) : OptKept s₀ (issueBatch s die k pos r xs bin spill) := by
  unfold Machine.issueBatch
  extract_lets ys id seqs taken
  split
  · exact .none
  next hl s1 hput =>
    have hs1 : Kept s₀ s1 := h.putList hput
    extract_lets withBin
    have hwith : ∀ p, withBin = some p → Kept s₀ p.2 := by
      intro p hp
      unfold withBin at hp
      split at hp
      · cases hp
        exact hs1
      · obtain ⟨q, hq, rfl⟩ := Option.map_eq_some_iff.mp hp
        exact hs1.putList hq
    clear_value withBin
    split
    · exact .none
    · exact .some (hwith _ rfl).frame

theorem ResKept.execBatchDue {die : ℕ} {k : LKey} {pos t : ℕ} (h : Kept s₀ s) : ResKept s₀ (execBatchDue die k pos t s) := by
  refine .next ?_
  split
  · exact h
  · refine .ite (OptKept.getD (fun _ hu => ?_) h) h
    obtain ⟨v, hv, rfl⟩ := Option.map_eq_some_iff.mp hu
    exact (h.atTime.issueBatch v hv).markReady

/-! ## Expert binning (R172, R173) -/

theorem Kept.issueBins {die : ℕ} {k : LKey} {pos : ℕ} {r : TRec} {spill : Bool} {bs : List (ℕ × List Strand)} (h : Kept s₀ s) :
    OptKept s₀ (issueBins die k pos r spill bs s) := by
  induction bs generalizing s with
  | nil => exact .some h
  | cons b bs ih =>
    unfold Machine.issueBins
    split
    · exact .none
    next hu => exact ih (h.issueBatch _ hu)

theorem ResKept.execBinRoundClose {die : ℕ} {k : LKey} {pos t : ℕ} (h : Kept s₀ s) :
    ResKept s₀ (execBinRoundClose die k pos t s) := by
  refine .next ?_
  split
  · exact h
  · extract_lets xs due byType prim spill
    refine .ite ?_ h
    split
    · exact h
    next u hu =>
      obtain ⟨v, hv, hu⟩ := Option.bind_eq_some_iff.mp hu
      have hu' : Kept s₀ u := (h.atTime.issueBins v hv).issueBins u hu
      exact (Kept.ite hu'.bump hu'.bump.report).markReady

/-! ## Running a descriptor that waits in stages -/

theorem Kept.runStaged {op : ℕ} {go : Work → State → State} {r : WRef} (hgo : ∀ w s, Kept s₀ s → Kept s₀ (go w s))
    (h : Kept s₀ s) : Kept s₀ (runStaged op go r s) := by
  unfold Machine.runStaged
  split
  · exact h
  · refine .ite h ?_
    split
    · exact hgo _ _ h
    · refine .ite ?_ h
      extract_lets st s1
      have hs1 : Kept s₀ s1 := h.markReady
      refine .ite h.setWork ?_
      split
      · exact hs1
      next hu => exact hgo _ _ (hs1.issue _ hu).started
    · exact h

/-! ## DECLARE (R303-R309) -/

theorem Kept.goDeclare {w : Work} (h : Kept s₀ s) : Kept s₀ (goDeclare w s) := by
  unfold Machine.goDeclare
  extract_lets o fin st base
  have hfin : ∀ s, Kept s₀ s → ∀ (st : ℕ), Kept s₀ (fin s st) := fun _ hs' _ => hs'.setWork
  refine .ite h.setWork (.ite (hfin s h st) ?_)
  clear_value base
  split
  · extract_lets s' s1
    have hs' : Kept s₀ s' := h.setObj
    have hs1 : Kept s₀ s1 := .ite hs'.frame hs'
    exact hfin s1 hs1 0
  · exact hfin s h Status.capacity

theorem ResKept.execDeclare {r : WRef} (h : Kept s₀ s) : ResKept s₀ (execDeclare r s) :=
  .next (h.runStaged fun _ _ hs' => hs'.goDeclare)

/-! ## UNDECLARE (R310) -/

theorem Kept.freeObj {o : Obj} (h : Kept s₀ s) : Kept s₀ (freeObj s o) := h.frame

theorem Kept.goUndeclare {w : Work} (h : Kept s₀ s) : Kept s₀ (goUndeclare w s) :=
  .ite h.setWork (.ite h.setObj.setWork h.setObj.freeObj.setWork)

theorem ResKept.execUndeclare {r : WRef} (h : Kept s₀ s) : ResKept s₀ (execUndeclare r s) :=
  .next (h.runStaged fun _ _ hs' => hs'.goUndeclare)

/-! ## RESIDE and RELEASE (R311, R312) -/

theorem Kept.addMove {m : Move} (h : Kept s₀ s) : Kept s₀ (addMove s m) := h.frame

theorem Kept.residePage {w : Work} {o : Obj} {order : List ℕ} {r : PageRec} (h : Kept s₀ s) :
    OptKept s₀ (residePage s w o order r) := by
  unfold Machine.residePage
  extract_lets die m
  split
  · exact .some h.addMove
  · split
    · exact .none
    · split
      · exact .none
      · extract_lets ev
        exact .some h.addMove.addMove

theorem Kept.resideAll {w : Work} {o : Obj} {order : List ℕ} {rs : List PageRec} (h : Kept s₀ s) :
    OptKept s₀ (resideAll w o order rs s) := by
  induction rs generalizing s with
  | nil => exact .some h
  | cons r rs ih =>
    unfold Machine.resideAll
    split
    · exact .none
    next hu => exact ih (h.residePage _ hu)

theorem Kept.goReside {w : Work} (h : Kept s₀ s) : Kept s₀ (goReside w s) := by
  unfold Machine.goReside
  extract_lets h' o fin die tile ps recs away other order room near
  have hfin : ∀ s, Kept s₀ s → ∀ (st ev : ℕ), Kept s₀ (fin s st ev) := fun _ hs' _ _ => hs'.setWork
  refine .ite (hfin s h Status.shape 0) (.ite (hfin s h Status.handle 0) ?_)
  refine .ite (hfin s h Status.tier 0) (.ite h.setWork ?_)
  refine .ite (hfin _ h.setObj 0 _) (.ite (hfin s h Status.capacity 0) ?_)
  split
  · exact hfin s h Status.capacity 0
  next heq' => exact ((h.resideAll _ heq').setObj).setWork

theorem ResKept.execReside {r : WRef} {t : ℕ} (h : Kept s₀ s) : ResKept s₀ (execReside r t s) :=
  .next (h.atTime.runStaged fun _ _ hs' => hs'.goReside)

theorem Kept.goRelease {w : Work} (h : Kept s₀ s) : Kept s₀ (goRelease w s) := by
  unfold Machine.goRelease
  extract_lets h' fin ps s' src
  have hfin : ∀ s, Kept s₀ s → ∀ (st : ℕ), Kept s₀ (fin s st) := fun _ hs1 _ => hs1.setWork
  have hs' : Kept s₀ s' := h.setObj
  exact .ite (hfin s h Status.shape) (.ite (hfin s h Status.handle) (hfin _ hs'.frame 0))

theorem ResKept.execRelease {r : WRef} (h : Kept s₀ s) : ResKept s₀ (execRelease r s) :=
  .next (h.runStaged fun _ _ hs' => hs'.goRelease)

/-! ## Planning moves (R319, R321, R327, R328) -/

theorem Kept.freshPage {o : Obj} {p : ℕ} (h : Kept s₀ s) : Kept s₀ (freshPage s o p) := by
  unfold Machine.freshPage
  extract_lets o' s'
  have hs' : Kept s₀ s' := h.setObj.bump
  split
  · exact hs'.setObj
  · exact hs'

theorem Kept.freshPages {n : ℕ} (h : Kept s₀ s) : Kept s₀ (freshPages s n) := h.foldl fun _ _ ht => ht.freshPage

theorem Kept.newRecord {old : Tab ℕ} {n p : ℕ} (h : Kept s₀ s) : Kept s₀ (newRecord old n s p) := by
  unfold Machine.newRecord
  extract_lets o mineNow was put held
  have hput : ∀ (h : Home), Kept s₀ (put h) := fun _ => h.setObj
  have hheld : ∀ (c : ℕ), Kept s₀ (held c) := fun c => .ite h.freshPage (.ite (hput (Home.awaiting c)) h)
  split
  · split
    · exact h
    · exact h
    next a' _ => exact hheld a'
    next a' _ => exact hheld a'
    next a' _ => exact hheld a'
  · exact .ite h (.ite h.freshPage (hput (Home.awaiting was)))

theorem Kept.mapObjs {f : State → Obj → Obj} (h : Kept s₀ s) : Kept s₀ (mapObjs f s) := h.foldl fun _ _ ht => ht.setObj

theorem Kept.advanceEpoch {epoch : ℕ} {leave : List ℕ} (h : Kept s₀ s) : Kept s₀ (advanceEpoch s epoch leave).1 := by
  unfold Machine.advanceEpoch
  extract_lets ms old same table src s' s1 spread gone live stays src' s2 s3 s4 kept src1 s5 must back src2 s6 s7 stats src3 src4 s8
  have hs' : Kept s₀ s' := h.frame
  have hs1 : Kept s₀ s1 := hs'.setReg.setReg
  have hs2 : Kept s₀ s2 := hs1.frame
  have hs3 : Kept s₀ s3 := hs2.foldl fun _ _ ht => ht.freshPages
  have hs4 : Kept s₀ s4 := hs3.foldl fun _ _ ht => ht.foldl fun _ _ ht' => ht'.newRecord
  have hs5 : Kept s₀ s5 := hs4.frame
  have hs6 : Kept s₀ s6 := hs5.frame
  have hs7 : Kept s₀ s7 := hs6.mapObjs
  have hs8 : Kept s₀ s8 := hs7.frame
  exact hs8

theorem Kept.goAdvance {w : Work} (h : Kept s₀ s) : Kept s₀ (goAdvance w s) := by
  unfold Machine.goAdvance
  extract_lets fin n x
  have hfin {u : State} (hu : Kept s₀ u) (st ev : ℕ) : Kept s₀ (fin u st ev) := hu.setWork
  have hx : Kept s₀ x.2.s := EngKept.ite .pure .rdH _ h
  refine .ite (hfin h _ _) (.ite (hfin h _ _) (.ite (hfin h _ _) (.ite (hfin h _ _) (.ite h.setWork ?_))))
  split
  · exact hfin hx.advanceEpoch _ _
  · exact h.settle hx

theorem ResKept.execEpochAdvance {r : WRef} (h : Kept s₀ s) : ResKept s₀ (execEpochAdvance r s) :=
  .next (h.runStaged fun _ _ hs' => hs'.goAdvance)

/-! ## Moves -/

theorem Kept.setMove {m m' : Move} (h : Kept s₀ s) : Kept s₀ (setMove s m m') := h.frame

theorem Kept.dropMove {m : Move} (h : Kept s₀ s) : Kept s₀ (dropMove s m) := h.frame.touch.serveHeld

theorem Kept.pageMsg {op coord obj page : ℕ} {body : List Byte} (h : Kept s₀ s) : Kept s₀ (pageMsg s op coord obj page body) :=
  h.postPlace

theorem Kept.countSrc {from_ : Home} {off n : ℕ} (h : Kept s₀ s) : Kept s₀ (countSrc s from_ off n) := by
  unfold Machine.countSrc
  split
  · exact h.countBytes
  · exact h.sendAll
  · exact h

theorem Kept.copySpan {src : Home} {dest k : ℕ} (h : Kept s₀ s) : Kept s₀ (copySpan src dest s k) :=
  h.countSrc.writePhys.countBytes.foldl fun _ _ ht => ht.poison

theorem Kept.sendSpans {m : Move} {ks : List ℕ} (h : Kept s₀ s) : Kept s₀ (sendSpans s m ks) := by
  unfold Machine.sendSpans
  extract_lets die s' s1 bad
  have hs' : Kept s₀ s' := h.snoopRange
  have hs1 : Kept s₀ s1 := hs'.foldl fun _ _ ht => ht.countSrc.postTxn
  exact hs1.foldl fun _ _ ht => ht.pageMsg

theorem Kept.refuseMove {m : Move} (h : Kept s₀ s) : Kept s₀ (refuseMove s m) := .ite h.dropMove.bump.setObj h.dropMove.bump

theorem ResKept.execPageMoveStart {obj page t : ℕ} (h : Kept s₀ s) : ResKept s₀ (execPageMoveStart obj page t s) := by
  unfold Machine.execPageMoveStart
  extract_lets o s' x shadows first
  have hs' : Kept s₀ s' := h.atTime
  refine .next ?_
  split
  · refine .ite h ?_
    extract_lets m'' s1 moved
    have hs1 : Kept s₀ s1 := hs'.setMove
    refine .ite hs'.dropMove (.ite ?_ (.ite hs'.dropMove hs1.pageMsg.pump))
    split
    · exact .ite hs' hs'.refuseMove
    · exact .ite hs'.refuseMove (hs'.snoopRange.setMove.foldl fun _ _ ht' => ht'.copySpan)
  · exact h

theorem ResKept.execPageCopyDone {obj page t : ℕ} (h : Kept s₀ s) : ResKept s₀ (execPageCopyDone obj page t s) := by
  refine .next ?_
  split
  · exact .ite (.ite h.atTime.snoopRange.setMove h.atTime.snoopRange.setMove.sendSpans.pump) h
  · exact h

theorem Kept.moveRelocs {o : Obj} {p die : ℕ} (h : Kept s₀ s) : Kept s₀ (moveRelocs s o p die) := by
  refine .foldl h fun u x hu => ?_
  split
  next hway => exact (hu.relocWay hway).frame
  · exact hu

theorem Kept.countPromoted {o : Obj} {p : ℕ} (h : Kept s₀ s) : Kept s₀ (countPromoted s o p) := by
  unfold Machine.countPromoted
  extract_lets rows
  refine .foldl h fun t x ht => ?_
  extract_lets done
  split
  · exact .ite ht.bump ht
  · exact ht

theorem Kept.leavePage {m : Move} {o : Obj} (h : Kept s₀ s) : Kept s₀ (leavePage s m o) := by
  unfold Machine.leavePage
  extract_lets rows gone s' src s1 s2 s3 o' s4
  have hs' : Kept s₀ s' := h.bump
  have hs1 : Kept s₀ s1 := hs'.frame
  have hs2 : Kept s₀ s2 := hs1.foldl fun _ _ ht => ht.sendTag
  have hs3 : Kept s₀ s3 := by
    unfold s3
    refine .foldl hs2 fun t x ht => ?_
    split
    · exact ht.pageMsg.dropReloc
    · exact ht
  have hs4 : Kept s₀ s4 := hs3.setObj.dropTags
  exact hs4.pageMsg.pump

theorem ResKept.execPageMoveCommit {obj page t : ℕ} (h : Kept s₀ s) : ResKept s₀ (execPageMoveCommit obj page t s) := by
  refine .next ?_
  split
  · refine .ite ?_ h
    extract_lets s' o s1 s2 s3 o' s4
    have hs' : Kept s₀ s' := h.atTime
    have hs1 : Kept s₀ s1 := hs'.setMove
    have hs2 : Kept s₀ s2 := hs1.bump
    have hs3 : Kept s₀ s3 := hs2.foldl fun _ _ ht' => ht'.copySpan
    have hs4 : Kept s₀ s4 := hs3.setObj.moveRelocs.serveHeld
    exact .ite (.ite hs4.countPromoted hs4) hs2.leavePage
  · exact h

theorem ResKept.execPageFrameFree {obj page t : ℕ} (h : Kept s₀ s) : ResKept s₀ (execPageFrameFree obj page t s) := by
  refine .next ?_
  split
  · exact .ite h.atTime.dropMove h
  · exact h

theorem Kept.abortMove {m : Move} (h : Kept s₀ s) : Kept s₀ (abortMove s m) := .ite h.dropMove.bump h.dropMove.bump.pageMsg.pump

theorem ResKept.execPageMoveTimeout {obj page t : ℕ} (h : Kept s₀ s) : ResKept s₀ (execPageMoveTimeout obj page t s) := by
  refine .next ?_
  split
  · exact .ite h.atTime.abortMove h
  · exact h

theorem Kept.reserveWays {o : Obj} {die : ℕ} {rows : List ℕ} (h : Kept s₀ s) : Kept s₀ (reserveWays s o die rows) := by
  refine .foldl h fun t x ht => ?_
  extract_lets set src
  split
  · exact ht.frame
  · exact ht

theorem Kept.releaseWays {o : Obj} {p : ℕ} (h : Kept s₀ s) : Kept s₀ (releaseWays s o p) := h.frame

theorem Kept.fenceMoves {c : ℕ} (h : Kept s₀ s) : Kept s₀ (fenceMoves s c) := by
  unfold Machine.fenceMoves
  extract_lets ms gs s' src s1
  have hs' : Kept s₀ s' := h.foldl fun _ _ ht => ht.releaseWays
  have hs1 : Kept s₀ s1 := hs'.frame
  exact ((hs1.foldl fun _ _ ht => ht.abortMove).foldl fun _ _ ht => ht.abortMigration).pump

/-! ## Messages received (log 34) -/

theorem Kept.displace {src : ℕ} {o : Obj} {p : ℕ} (h : Kept s₀ s) : Kept s₀ (displace s src o p) :=
  .ite h.setObj.pageMsg.pump h.setObj

theorem Kept.shutPage {o : Obj} {p : ℕ} (h : Kept s₀ s) : Kept s₀ (shutPage s o p) := h.setObj

theorem Kept.askPage {src : ℕ} {o : Obj} {p : ℕ} {bs : List Byte} (h : Kept s₀ s) : Kept s₀ (askPage s src o p bs).2 := by
  unfold Machine.askPage
  extract_lets x old rows
  refine .ite_snd h (.ite_snd h ?_)
  refine .ite_snd h (.ite_snd h.displace ?_)
  split
  · exact h.displace
  · extract_lets die s' g src' s1
    have hs' : Kept s₀ s' := h.reserveWays
    have hs1 : Kept s₀ s1 := hs'.frame
    exact .ite_snd h.displace hs1.pageMsg.pump

theorem Kept.takeTag {o : Obj} {row : ℕ} {bs : List Byte} (h : Kept s₀ s) : Kept s₀ (takeTag s o row bs) :=
  .ite h.setObj h.setObj

theorem Kept.dropGrant {isRow : Bool} {n u : ℕ} (h : Kept s₀ s) : Kept s₀ (dropGrant s isRow n u) := h.frame

theorem Kept.arrivePage {o : Obj} {p : ℕ} (h : Kept s₀ s) : Kept s₀ (arrivePage s o p) := by
  unfold Machine.arrivePage
  split
  · exact h
  · exact h.dropGrant.setObj

theorem Kept.takeReloc {o : Obj} {row : ℕ} {bs : List Byte} (h : Kept s₀ s) : Kept s₀ (takeReloc s o row bs) :=
  .ite h.dropReloc h.frame

theorem Kept.returnRow {src : ℕ} {o : Obj} {row addr : ℕ} (h : Kept s₀ s) : Kept s₀ (returnRow s src o row addr).2 := by
  unfold Machine.returnRow
  split
  · extract_lets m s' src'
    have hs' : Kept s₀ s' := h.tellRead
    exact hs'.frame.sendSnapshot.pump
  · exact h

theorem Kept.takeEntries {o : Obj} {row : ℕ} {bs : List Byte} (h : Kept s₀ s) : Kept s₀ (takeEntries s o row bs).2 := by
  unfold Machine.takeEntries
  extract_lets off
  refine .ite_snd h ?_
  split
  · extract_lets s'
    have hs' : Kept s₀ s' := h.snoopRange.foldRow
    exact hs'.markDirty.refreshCopies.stampObj
  · exact h.postPlace.pump
  · exact h
  · exact h
  · exact h

theorem Kept.placeMessage {src : ℕ} {bs : List Byte} (h : Kept s₀ s) : Kept s₀ (placeMessage s src bs).2 := by
  unfold Machine.placeMessage
  extract_lets o u src' vs at_ s' src1
  have hs' : Kept s₀ s' := h.dropGrant
  clear_value at_
  split
  · exact h.askPage
  · split
    · exact h.setMove.sendSpans.pump
    · exact h
  · exact h.takeTag
  · exact h.arrivePage
  · exact h.dropGrant.releaseWays
  · refine .ite_snd h ?_
    split
    · exact h
    · exact (Kept.rowMsg h.frame).pump
  · split
    next m _ =>
      have hm : Kept s₀ (Machine.setMigration s { m with granted := true, destAddr := field bs 12 8 }) := h.setMigration
      exact (Kept.sendSnapshot hm.frame).pump
    · exact h
  · split
    · exact h.foldRow
    · exact h
  · split
    · exact hs'.frame
    · exact h
  · exact h.dropGrant
  · exact h.returnRow
  · exact h.dropGrant.dropReloc
  · exact h.takeReloc
  · split
    · exact h.foldl fun _ _ ht => ht.poison
    · exact h
  · exact .ite_snd h.promotePages h
  · exact h.takeEntries
  · exact h.shutPage
  · exact h

theorem Kept.placeFailed {x : Txn} {status : ℕ} (h : Kept s₀ s) : Kept s₀ (placeFailed s x status) := by
  unfold Machine.placeFailed
  split
  · split
    · exact .ite h.refuseMove h.abortMove
    · exact h
  · split
    · exact h.abortMigration.pump
    · exact .ite h.dropGrant h
  · exact h

theorem ResKept.execPatrolScrub {unit addr : ℕ} (h : Kept s₀ s) : ResKept s₀ (execPatrolScrub unit addr s) := by
  unfold Machine.execPatrolScrub
  extract_lets hbm hours ready key base d
  have hd : Kept s₀ d.2 := h.bump.drawFree
  exact .next (.ite h (.ite hd.bump.bump hd))

/-! ## Keys and certificates (R470, log 141) -/

theorem Kept.deriveAlias (h : Kept s₀ s) : Kept s₀ (deriveAlias s) := h.frame

/-! ## Domains (R427, R504, R514) -/

theorem Kept.resetCounters {p : ℕ → Bool} (h : Kept s₀ s) : Kept s₀ (resetCounters s p) := h.dropEntries

theorem Kept.resetEntries (h : Kept s₀ s) : Kept s₀ (resetEntries s) := h.dropEntries

/-! ## Work in hand (R60, R506, R507) -/

theorem Kept.wakeLow (h : Kept s₀ s) : Kept s₀ (wakeLow s).2 := by
  refine .ite_snd h ?_
  extract_lets f low src src'
  have hf : Kept s₀ f.2 := h.drawFree
  have hsrc : Kept s₀ src := hf
  exact hsrc.frame

/-! ## Entries and exits (R506-R510) -/

theorem Kept.planEvictions (h : Kept s₀ s) : Kept s₀ (planEvictions s) := h.foldl fun _ _ ht => .ite ht ht.addMove

theorem Kept.beginEntry {v : ℕ} (h : Kept s₀ s) : Kept s₀ (beginEntry s v) := .ite h.frame.planEvictions h.frame

theorem Kept.beginExit {after : Option ℕ} (h : Kept s₀ s) : Kept s₀ (beginExit s after) := h.frame

theorem Kept.lateFreeze (h : Kept s₀ s) : Kept s₀ (lateFreeze s) := by
  unfold Machine.lateFreeze
  split
  · exact h.frame.enterFreeze
  · exact h

theorem Kept.stopEntry (h : Kept s₀ s) : Kept s₀ (stopEntry s) := .ite h.frame.lateFreeze h.beginExit

theorem Kept.requestPower {v : ℕ} (h : Kept s₀ s) : Kept s₀ (requestPower s v) := .ite h (.ite h.beginEntry h.beginExit)

theorem Kept.takeWake (h : Kept s₀ s) : Kept s₀ (takeWake s) := by
  refine .ite ?_ h
  extract_lets src s' src' src1 s1 src2
  have hs' : Kept s₀ s' := h.frame
  have hs1 : Kept s₀ s1 := hs'.frame
  split
  · exact hs'.frame
  · exact .ite hs1.stopEntry hs1.frame
  · exact .ite hs' hs'.beginExit

theorem ResKept.execWakeEvent {t : ℕ} (h : Kept s₀ s) : ResKept s₀ (execWakeEvent t s) := .next h.atTime.takeWake

theorem Kept.selfRefresh {on : Bool} (h : Kept s₀ s) : Kept s₀ (selfRefresh s on) :=
  (h.foldl fun _ _ ht => .ite ht.setReg ht).foldl fun _ _ ht => .ite ht.setReg ht

theorem Kept.parkPorts (h : Kept s₀ s) : Kept s₀ (parkPorts s) := h.foldl fun _ _ ht => ht.setReg.setPort.sendIdle

theorem Kept.darkPorts (h : Kept s₀ s) : Kept s₀ (darkPorts s) := by
  unfold Machine.darkPorts
  extract_lets s' s1 src
  have hs' : Kept s₀ s' := h.foldl fun _ _ ht => ht.setPort.sendIdle
  have hs1 : Kept s₀ s1 := hs'.foldl fun _ _ ht => ht.setReg
  exact hs1.frame

theorem Kept.discardVolatile (h : Kept s₀ s) : Kept s₀ (discardVolatile s) := h.frame

theorem Kept.resetCxl (h : Kept s₀ s) : Kept s₀ (resetCxl s) := h.frame.foldl fun _ _ ht => ht.setReg

theorem Kept.dropScratch (h : Kept s₀ s) : Kept s₀ (dropScratch s) :=
  h.of_parts rfl List.prefix_rfl le_rfl le_rfl (fun _ => id)
    (Tab.wfFrom_dropKeys 0 (fun k => decide (k < hbmBase)) s.mem.bytes) id id

theorem Kept.sleepSensors (h : Kept s₀ s) : Kept s₀ (sleepSensors s) :=
  h.foldl fun t x ht => Kept.frame (s := Machine.setReg t (Key.senState + 256 * x) 3) ht.setReg

theorem Kept.dropRetained (h : Kept s₀ s) : Kept s₀ (dropRetained s) :=
  .resetCxl (h.setReg.setReg.of_parts rfl List.prefix_rfl le_rfl le_rfl (fun _ => id) (fun _ => rfl) id id)

theorem Kept.entryStep {v k : ℕ} (h : Kept s₀ s) : Kept s₀ (entryStep s v k) := by
  have hself : Kept s₀ (Machine.selfRefresh (Machine.parkPorts s) true) := h.parkPorts.selfRefresh
  have hclock : Kept s₀ (Machine.setReg (Machine.dropScratch (Machine.selfRefresh s true)) Key.clkPllLocked 0) :=
    h.selfRefresh.dropScratch.setReg
  unfold Machine.entryStep
  generalize Machine.selfRefresh (Machine.parkPorts s) true = u at hself ⊢
  generalize Machine.setReg (Machine.dropScratch (Machine.selfRefresh s true)) Key.clkPllLocked 0 = u' at hclock ⊢
  refine .ite h (.ite hself.frame ?_)
  split
  · exact h
  · exact h.discardVolatile
  · exact h.darkPorts
  · exact hclock.frame
  · exact h.dropRetained

theorem Kept.leaveState {v : ℕ} (h : Kept s₀ s) : Kept s₀ (leaveState s v) := by
  unfold Machine.leaveState
  extract_lets s' s1
  have hs' : Kept s₀ s' := .ite h.selfRefresh h
  have hs1 : Kept s₀ s1 := .ite (hs'.foldl fun _ _ ht => .ite ht.setPort.sendIdle ht) hs'
  exact .ite hs1.resetCounters (.ite hs1.resetCounters hs1)

theorem Kept.sendNotices (h : Kept s₀ s) : Kept s₀ (sendNotices s) := by
  unfold Machine.sendNotices
  extract_lets s'
  have hs' : Kept s₀ s' := h.sendAll
  exact hs'.frame

theorem Kept.endTransition {v : ℕ} (h : Kept s₀ s) : Kept s₀ (endTransition s v) := h.frame.setReg.bump.sleepSensors.lateFreeze

theorem Kept.stepEntry {v : ℕ} (h : Kept s₀ s) : Kept s₀ (stepEntry s v) := by
  have hs' : Kept s₀ (Machine.entryStep s v (s.pwr.stage + 1)) := h.entryStep
  exact .ite hs'.stopEntry (.ite hs'.frame hs'.endTransition)

theorem ResKept.execPowerTransitionDone {t : ℕ} (h : Kept s₀ s) : ResKept s₀ (execPowerTransitionDone t s) := by
  have ht : Kept s₀ (atTime s t) := h.atTime
  refine .next ?_
  split
  · exact h
  · refine .ite h ?_
    extract_lets s1
    have hs1 : Kept s₀ s1 := ht.leaveState.endTransition.touch.sendNotices.markReady
    clear_value s1
    split
    · exact .ite (Kept.wakeLow hs1.frame) (Kept.wakeLow hs1.frame).requestPower
    · exact hs1
  · exact .ite h (.ite ht.stopEntry (.ite ht.planEvictions ht.stepEntry))

theorem ResKept.execAutoDusk {t : ℕ} (h : Kept s₀ s) : ResKept s₀ (execAutoDusk t s) := by
  unfold Machine.execAutoDusk
  extract_lets us
  exact .next (.ite h.atTime.beginEntry h)

/-! ## The input, the rails, the clocks (R498-R503, R511-R514) -/

theorem Kept.powerLoss {tripped : Bool} (h : Kept s₀ s) : Kept s₀ (powerLoss s tripped) :=
  h.of_parts rfl List.prefix_rfl le_rfl (Boot.svn_congr rfl).ge (fun _ => id) (fun _ => rfl) id (fun _ => rfl)

theorem ResKept.execColdPowerUp {t : ℕ} (h : Kept s₀ s) : ResKept s₀ (execColdPowerUp t s) :=
  .next (.ite (Kept.frame (s := atTime s t) h.atTime) h)

theorem ResKept.execManagementReady {t : ℕ} (h : Kept s₀ s) : ResKept s₀ (execManagementReady t s) := by
  refine .next (.ite ?_ h)
  extract_lets src src' s' slot s1
  have hsrc : Kept s₀ src := h.atTime
  have hs' : Kept s₀ s' := hsrc.frame
  have hs1 : Kept s₀ s1 := hs'.setReg.setReg
  exact hs1.setReg.setReg

theorem Kept.startRails (h : Kept s₀ s) : Kept s₀ (startRails s) := h.frame

theorem ResKept.execRailsUp {t : ℕ} (h : Kept s₀ s) : ResKept s₀ (execRailsUp t s) := by
  refine .next (.ite ?_ h)
  extract_lets s' src s1 src'
  have hs' : Kept s₀ s' := h.atTime
  have hs1 : Kept s₀ s1 := by
    unfold s1
    split
    · exact hs'.frame
    · exact hs'.frame
  exact hs1.frame

theorem Kept.lockReference (h : Kept s₀ s) : Kept s₀ (lockReference s) :=
  .ite h.setReg (.ite h.drawFree.setReg h.drawFree.drawFree.alm.setReg)

theorem ResKept.execRootPllLock {t : ℕ} (h : Kept s₀ s) : ResKept s₀ (execRootPllLock t s) := by
  refine .next (.ite ?_ h)
  extract_lets s' s1
  have hs' : Kept s₀ s' := h.atTime.setReg.lockReference
  have hs1 : Kept s₀ s1 := .ite hs'.setReg hs'
  exact .ite hs1.setReg.bump32.deriveAlias hs1

theorem ResKept.execReferenceLoss {t : ℕ} (h : Kept s₀ s) : ResKept s₀ (execReferenceLoss t s) :=
  .next (.ite h.atTime.drawFree.alm.setReg.alert h)

theorem ResKept.execUndervoltage {t : ℕ} (h : Kept s₀ s) : ResKept s₀ (execUndervoltage t s) :=
  .next (.ite h.atTime.powerLoss (.ite (Kept.frame (s := atTime s t) h.atTime) h))

theorem ResKept.execOvervoltage {t : ℕ} (h : Kept s₀ s) : ResKept s₀ (execOvervoltage t s) := .next (.ite h.atTime.powerLoss h)

theorem ResKept.execOvercurrentTrip {t : ℕ} (h : Kept s₀ s) : ResKept s₀ (execOvercurrentTrip t s) :=
  .next (.ite h.atTime.powerLoss h)

theorem ResKept.execSwitchRelease {t : ℕ} (h : Kept s₀ s) : ResKept s₀ (execSwitchRelease t s) :=
  .next (.ite (Kept.frame (s := atTime s t) h.atTime) h)

theorem ResKept.execThrottleStep {t : ℕ} (h : Kept s₀ s) : ResKept s₀ (execThrottleStep t s) := by
  unfold Machine.execThrottleStep
  extract_lets cur pow lim s' src
  have hs' : Kept s₀ s' := h.atTime
  exact .next (.ite hs'.frame (.ite hs'.frame hs'))

/-! ## Warm reset (R515, R516) -/

theorem Kept.dropDomains (h : Kept s₀ s) : Kept s₀ (dropDomains s) :=
  .sleepSensors (h.resetEntries.of_parts rfl List.prefix_rfl le_rfl (Boot.svn_congr rfl).ge (fun _ => id) (fun _ => rfl) id id)

theorem Kept.warmReset (h : Kept s₀ s) : Kept s₀ (warmReset s) := by
  unfold Machine.warmReset
  extract_lets cause s' src s1 b s2 s3
  have hs' : Kept s₀ s' := h.dropDomains
  have hs1 : Kept s₀ s1 := hs'.frame
  have hs2 : Kept s₀ s2 := hs1.setReg.setReg.setReg
  have hs3 : Kept s₀ s3 := hs2.setReg.setReg
  exact hs3.setReg.setReg.sleepSensors

theorem ResKept.execRailTimeout {t : ℕ} (h : Kept s₀ s) : ResKept s₀ (execRailTimeout t s) :=
  .next (.ite h.atTime.recordError.dropDomains.setReg h)

theorem ResKept.execPwrEnLow {t : ℕ} (h : Kept s₀ s) : ResKept s₀ (execPwrEnLow t s) := by
  refine .next ?_
  extract_lets s1 s2
  have h1 : Kept s₀ s1 := h.atTime
  have h2 : Kept s₀ s2 := h1.warmReset
  clear_value s1 s2
  exact .ite (.ite h2.frame h1) (.ite h1.frame h1)

theorem ResKept.execPwrEnHigh {t : ℕ} (h : Kept s₀ s) : ResKept s₀ (execPwrEnHigh t s) := by
  refine .next ?_
  extract_lets s' src s1
  have hs' : Kept s₀ s' := h.atTime
  have hs1 : Kept s₀ s1 := hs'.frame
  exact .ite (.ite hs' (.ite hs1 hs1.startRails)) (.ite hs'.frame hs')

theorem Kept.thermTrip (h : Kept s₀ s) : Kept s₀ (thermTrip s) := .ite h h.dropDomains.frame.setReg.setReg.sleepSensors

/-! ## Sensors (R448, R449, R454, R455) -/

theorem Kept.sensorValue {ss : ℕ} {vs : List ℤ} (h : Kept s₀ s) : Kept s₀ (sensorValue ss vs s).2 := by
  refine .ite_snd ?_ h
  extract_lets n q f
  have hf : Kept s₀ f.2 := h.drawFree
  exact .ite_snd h hf

theorem ResKept.execSensorSample {ss : ℕ} {vs : List ℤ} {t : ℕ} (h : Kept s₀ s) : ResKept s₀ (execSensorSample ss vs t s) := by
  refine .next (.ite h ?_)
  split
  next hv =>
    extract_lets k x lo hi old s1 s2 trip n src s3 out hbm s4 s5 s6 last seq s7 src'
    have hs2 : Kept s₀ s2 := (h.atTime.sensorValue.of_snd hv).setReg.setReg
    have hs3 : Kept s₀ s3 := hs2.frame
    have hs5 : Kept s₀ s5 := hs3.setReg.alm
    have hs7 : Kept s₀ s7 := hs3.setReg.alm
    exact .ite (.ite (.ite hs5 hs5.thermTrip) hs3.setReg)
      (.ite hs3 (.ite (.ite (Kept.alert hs7.frame) hs3.setReg) hs3.setReg))

/-! ## Control inputs (R525-R528) -/

theorem ResKept.execWakeNFall {t : ℕ} (h : Kept s₀ s) : ResKept s₀ (execWakeNFall t s) := by
  refine .next ?_
  extract_lets s' src
  have hs' : Kept s₀ s' := h.atTime
  exact .ite hs'.frame.raiseWake hs'

theorem ResKept.execFreezeNHigh {t : ℕ} (h : Kept s₀ s) : ResKept s₀ (execFreezeNHigh t s) := by
  refine .next ?_
  extract_lets s' src s1
  have hs' : Kept s₀ s' := h.atTime
  have hs1 : Kept s₀ s1 := hs'.frame
  exact .ite (.ite hs1.thaw.markReady hs1) hs'

theorem ResKept.execInputStorm {sig t : ℕ} (h : Kept s₀ s) : ResKept s₀ (execInputStorm sig t s) :=
  .next (.ite ((Kept.ite h.atTime.wakeLow h.atTime).alm) h)

theorem ResKept.execExtest {cells : List Bool} (h : Kept s₀ s) : ResKept s₀ (execExtest cells s) := .next h.frame

/-! ## Training (R337-R339) -/

theorem Kept.setLink {p v : ℕ} (h : Kept s₀ s) : Kept s₀ (setLink s p v) := h.setReg

theorem Kept.startTraining {p : ℕ} (h : Kept s₀ s) : Kept s₀ (startTraining s p) := h.setLink.setPort

theorem ResKept.execLinkTrainingStart {p t : ℕ} (h : Kept s₀ s) : ResKept s₀ (execLinkTrainingStart p t s) :=
  .next (.ite h.atTime.startTraining h)

theorem ResKept.execLightDetected {p t : ℕ} (h : Kept s₀ s) : ResKept s₀ (execLightDetected p t s) :=
  .next (.ite h.atTime.setLink h)

theorem ResKept.execFecLock {p t : ℕ} (h : Kept s₀ s) : ResKept s₀ (execFecLock p t s) :=
  .next (.ite h.atTime.setLink.setLink.setLink.send (.ite h.atTime.setPort h))

theorem Kept.replayAll {p : ℕ} {void : Bool} (h : Kept s₀ s) : Kept s₀ (replayAll s p void) :=
  .ite h (h.foldl fun _ _ ht => ht.putFlit)

theorem ResKept.execExchangeFrame {p : ℕ} {frame : List Byte} {t : ℕ} (h : Kept s₀ s) :
    ResKept s₀ (execExchangeFrame p frame t s) :=
  .next (.ite (.ite h.atTime.setReg (.ite h.atTime.setReg.setLink.alm h.atTime.setReg.setReg.setLink.setPort.replayAll.transmit)) h)

theorem ResKept.execLinkTrainTimeout {p t : ℕ} (h : Kept s₀ s) : ResKept s₀ (execLinkTrainTimeout p t s) :=
  .next (.ite h.atTime.bump32.startTraining h)

theorem Kept.retrain {p : ℕ} (h : Kept s₀ s) : Kept s₀ (retrain s p) := h.bump32.startTraining

theorem ResKept.execLinkRetrain {p t : ℕ} (h : Kept s₀ s) : ResKept s₀ (execLinkRetrain p t s) :=
  .next (.ite (.ite h.atTime.startTraining h.atTime.retrain) h)

theorem ResKept.execLinkTimeout {p t : ℕ} (h : Kept s₀ s) : ResKept s₀ (execLinkTimeout p t s) :=
  .next (.ite h.atTime.bump.setLink.setPort.alm.alert h)

/-! ## Flits (R340-R343, R491) -/

theorem Kept.nakOnce {p : ℕ} (h : Kept s₀ s) : Kept s₀ (nakOnce s p) := .ite h h.setPort.sendIdle

theorem Kept.takeWidth {p : ℕ} {park widen : Bool} {seq : ℕ} (h : Kept s₀ s) : Kept s₀ (takeWidth s p park widen seq) := by
  unfold Machine.takeWidth
  extract_lets x parked answer s' src s1
  have hs' : Kept s₀ s' := h.setPort
  have hs1 : Kept s₀ s1 := .ite hs'.setPort.widened hs'
  exact .ite h.setPort (.ite h.setLink.setPort.sendIdle (.ite h.setPort (.ite (.ite hs1.sendIdle hs1)
    (.ite h.setPort.widened h))))

theorem Kept.watchFlit {p : ℕ} {f : List Byte} {idle : Bool} {pstart : ℕ} (h : Kept s₀ s) :
    Kept s₀ (watchFlit s p f idle pstart) := by
  unfold Machine.watchFlit
  extract_lets r only ks st s' src
  have hs' : Kept s₀ s' := .ite h.setReg h
  exact hs'.frame

theorem Kept.takeFlit {p : ℕ} {f : List Byte} (h : Kept s₀ s) : Kept s₀ (takeFlit p f s) := by
  refine .ite h (.ite (.ite h.nakOnce h) ?_)
  extract_lets h' src x x' s' s1 s2 x1 data fresh r n s3
  have hs' : Kept s₀ s' := h.setPort
  have hs1 : Kept s₀ s1 := .ite hs'.bump.replayAll hs'
  have hs2 : Kept s₀ s2 := hs1.takeWidth
  have hs3 : Kept s₀ s3 := hs2.setPort
  exact .ite h.setPort.watchFlit (.ite h.nakOnce (.ite hs2.transmit hs3.bump.sendIdle.transmit))

theorem Kept.takeWords {p : ℕ} {ws : List (List ℕ)} (h : Kept s₀ s) : Kept s₀ (takeWords p ws s) := by
  unfold Machine.takeWords
  extract_lets x ds bad fixed s' rs c x' s1
  have hs' : Kept s₀ s' := h.bump.bump
  have hs1 : Kept s₀ s1 := hs'.setPort.foldl fun _ _ ht => ht.takeFlit
  exact .ite h (.ite hs1.retrain hs1)

theorem ResKept.execFlitReceive {p : ℕ} {line : LineIn} {t : ℕ} (h : Kept s₀ s) : ResKept s₀ (execFlitReceive p line t s) := by
  refine .next (.ite h ?_)
  split
  · exact h.atTime.takeFlit
  · exact h.atTime.takeWords

theorem ResKept.execNakRetry {p t : ℕ} (h : Kept s₀ s) : ResKept s₀ (execNakRetry p t s) := by
  refine .next ?_
  split
  · exact .ite h.atTime.setPort.sendIdle h
  · exact h

/-! ## Sluice windows as their receiver (R352, R354) -/

theorem Kept.setRcv {w : RcvWin} (h : Kept s₀ s) : Kept s₀ (setRcv s w) := h.frame

theorem Kept.sendSack {w : RcvWin} (h : Kept s₀ s) : Kept s₀ (sendSack s w) := h.setRcv.postLoose

theorem Kept.sluiceAccept {k : Pkt} (h : Kept s₀ s) : Kept s₀ (sluiceAccept s k).1 := by
  unfold Machine.sluiceAccept
  extract_lets w w'
  exact .ite_fst (.ite h.sendSack h.setRcv) (.ite_fst h.sendSack h.bump)

theorem ResKept.execSackTimer {peer tc t : ℕ} (h : Kept s₀ s) : ResKept s₀ (execSackTimer peer tc t s) := by
  unfold Machine.execSackTimer
  extract_lets w
  exact .next (.ite h.atTime.sendSack h)

/-! ## Delivery (R350, R351) -/

theorem Kept.deliver {k : Pkt} (h : Kept s₀ s) : Kept s₀ (deliver s k) := by
  refine .ite h.bump (.ite h ?_)
  extract_lets r src src' s' p
  have hr : Kept s₀ r.1 := .ite_fst h h.sluiceAccept
  have hsrc : Kept s₀ src := hr
  have hs' : Kept s₀ s' := hsrc.frame
  exact .ite hr (.ite hr.bump (.ite hs' ((Kept.ite hs'.raiseWake hs').touch)))

/-! ## Multicast (R357-R359) -/

theorem Kept.reportDrops {k : Pkt} {gone : List ℕ} (h : Kept s₀ s) : Kept s₀ (reportDrops s k gone) := .ite h h.bump.postPkt

theorem Kept.sendBranch {k : Pkt} {dim : ℕ} {dir : Bool} {start cur : ℕ} (h : Kept s₀ s) :
    Kept s₀ (sendBranch s k dim dir start cur) :=
  .ite h.reportDrops (h.reportDrops.foldl fun _ _ ht => ht.enqueue)

theorem Kept.mcStage {k : Pkt} {n dim : ℕ} (h : Kept s₀ s) : Kept s₀ (mcStage k n dim s) := by
  induction n generalizing dim s with
  | zero => exact h
  | succ n ih =>
    exact .ite (.ite h (.ite h.reportDrops h.deliver)) (.ite (ih h.sendBranch.sendBranch) h.sendBranch.sendBranch)

theorem Kept.mcReceive {k : Pkt} (h : Kept s₀ s) : Kept s₀ (mcReceive s k) := .ite h.sendBranch.mcStage h.sendBranch

/-! ## The router (R343, R351) -/

theorem Kept.freeBuffer {p : ℕ} {k : Pkt} (h : Kept s₀ s) : Kept s₀ (freeBuffer s p k) := h.setPort.sendIdle

theorem Kept.routePkt {p : ℕ} {k : Pkt} (h : Kept s₀ s) : Kept s₀ (routePkt s p k) := by
  unfold Machine.routePkt
  extract_lets me
  refine .ite h.bump (.ite h.bump ?_)
  refine .ite h.mcReceive (.ite h.bump ?_)
  refine .ite h.deliver ?_
  split
  · exact h.bump
  · exact .ite h.bump h.enqueue

theorem ResKept.execPacketRoute {p t : ℕ} (h : Kept s₀ s) : ResKept s₀ (execPacketRoute p t s) := by
  refine .next ?_
  split
  · exact h
  · exact .ite h (.ite h.atTime.setPort.freeBuffer h.atTime.setPort.freeBuffer.routePkt)

/-! ## FREEZE and THAW from a peer (R489, R492) -/

theorem Kept.takeInbox {f : Pkt → Bool} {k : Pkt} (h : Kept s₀ s) (e : takeInbox s f = some (k, t)) : Kept s₀ t := by
  unfold Machine.takeInbox at e
  split at e
  · cases e
  · cases e
    exact h.frame

theorem ResKept.execFreeze {t : ℕ} (h : Kept s₀ s) : ResKept s₀ (execFreeze t s) := by
  refine .next ?_
  split
  · exact h
  next he => exact .ite (h.takeInbox he).atTime.freeze (h.takeInbox he)

theorem ResKept.execThaw {t : ℕ} (h : Kept s₀ s) : ResKept s₀ (execThaw t s) := by
  refine .next ?_
  split
  · exact h
  next he => exact .ite (h.takeInbox he).atTime.thaw.markReady (h.takeInbox he)

/-! ## SAVE (R274, R278-R280) -/

theorem EngKept.saveRow {w : Work} {sf tf : Fmt} {row n : ℕ} {bs : List Byte} : EngKept s₀ (saveRow w sf tf row n bs) :=
  .ite .pure (.getS_bind fun _ _ => .bind .eventsOf fun _ => .pure)

theorem EngKept.saveBody : EngKept s₀ saveBody := by
  refine .get_bind fun _ _ => ?_
  extract_lets w rows n sc tc sf tf ao size nat pitch srcLen es stride
  refine .bind .require fun _ => .bind .require fun _ => .bind .require fun _ => .bind .require fun _ => ?_
  refine .bind .require fun _ => .bind (.mapDo fun _ => .bind .rdH fun _ => .saveRow) fun _ => ?_
  exact .bind .addEvents fun _ => .ite (.bind .openBytes fun _ => .bind .wrH fun _ => .stopWith) (.bind .wrH fun _ =>
    .modS fun _ hs => hs.bump.bump.bump)

theorem ResKept.execSave {r : WRef} (h : Kept s₀ s) : ResKept s₀ (execSave r s) := .next (h.runEngine .saveBody)

/-! ## RESTORE (R281) -/

theorem EngKept.tileHead {h : ℕ} {a : Area} {k : ℕ} : EngKept s₀ (tileHead h a k) :=
  .bind .rdNat fun _ => .bind .require fun _ => .bind .rdH fun _ => .bind .require fun _ => .pure

theorem EngKept.restoreRows {w : Work} {a : Area} {of : Fmt} {first base : ℕ} {dense : List Byte} {n : ℕ} :
    EngKept s₀ (restoreRows w a of first base dense n) :=
  .upTo fun _ => .ite (.getS_bind fun _ _ => .bind .eventsOf fun _ => .wrH) .pure

theorem EngKept.restoreBody : EngKept s₀ restoreBody := by
  refine .get_bind fun _ _ => ?_
  extract_lets w first n oc of
  refine .bind .require fun _ => .bind .require fun _ => .bind .require fun _ => .bind .rdH fun _ => ?_
  split
  · exact .stopWith
  · refine .bind .require fun _ => .bind .require fun _ => ?_
    extract_lets outLen t0 t1 es
    refine .bind .require fun _ => .bind .require fun _ => ?_
    refine .bind .require fun _ => .bind (.mapDo fun _ => .tileHead) fun _ => ?_
    refine .bind (.mapDo fun _ => .bind .rdH fun _ => .pure) ?_
    exact fun _ => .bind .restoreRows fun _ => .ite (.bind (.modS fun _ hs => hs.almFull) fun _ => .stopWith) .pure

theorem ResKept.execRestore {r : WRef} (h : Kept s₀ s) : ResKept s₀ (execRestore r s) := .next (h.runEngine .restoreBody)

/-! ## Checkpoints (R285-R288) -/

theorem EngKept.rdHost {a n : ℕ} : EngKept s₀ (rdHost a n) := by
  refine .getS_bind fun _ _ => .ite ?_ .throw
  refine .bind (.modS fun _ hs' => hs'.sendAll) fun _ => ?_
  split
  · exact .pure
  · exact .stopWith

theorem EngKept.wrHost {a : ℕ} {bs : List Byte} : EngKept s₀ (wrHost a bs) :=
  .getS_bind fun _ _ => .ite (.modS fun _ hs' => hs'.putHost) .throw

theorem EngKept.exportStart : EngKept s₀ exportStart :=
  .get_bind fun _ _ => .ite (.bind (.modify fun _ hc' => hc') fun _ => .pure) .pure

theorem EngKept.exportVersions {os : List Obj} : EngKept s₀ (exportVersions os) := by
  refine .get_bind fun _ _ => .ite ?_ .pure
  refine .bind ?_ (fun _ => .modify fun _ hc' => hc')
  refine .mapDo fun _ => .get_bind fun _ hc' => ?_
  split
  · exact .bind .require fun _ => .pure
  · exact .stopWith

theorem EngKept.exportObj {refs : List (ℕ × ℕ)} {o : Obj} : EngKept s₀ (exportObj refs o) := by
  unfold Machine.exportObj
  split
  · exact .bind .lookRange fun _ => .pure
  · exact .bind .rdObj fun _ => .pure

theorem EngKept.exportBody : EngKept s₀ exportBody := by
  refine .get_bind fun _ _ => ?_
  extract_lets w woff n
  refine .bind .require fun _ => .bind .require fun _ => ?_
  refine .bind .exportStart fun _ => .bind (.mapDo fun _ => .rdNat) fun _ => ?_
  extract_lets os offs total
  refine .bind .require fun _ => .bind .require fun _ => .bind .exportVersions ?_
  exact fun _ => .get_bind fun _ _ => .bind (.mapDo fun _ => .exportObj) fun _ => .bind .wrHost fun _ =>
    .bind (.eachDo fun _ => .wrHost) fun _ => .addEvents

theorem ResKept.execCkptExport {r : WRef} (h : Kept s₀ s) : ResKept s₀ (execCkptExport r s) := .next (h.runEngine .exportBody)

theorem EngKept.wrSpanInPlace {n off : ℕ} {bs : List Byte} : EngKept s₀ (wrSpanInPlace n off bs) := by
  refine .get_bind fun _ _ => ?_
  split
  · exact .postWrite
  · exact .wrSpan

theorem EngKept.wrInPlace {n off : ℕ} {bs : List Byte} : EngKept s₀ (wrInPlace n off bs) :=
  .bind (.modS fun _ hs => hs.snoopRange) fun _ => .bind (.eachDo fun _ => .wrSpanInPlace) fun _ => .modS fun _ hs =>
    hs.clearCovered.afterWrite

theorem Kept.zeroTags {n off len : ℕ} (h : Kept s₀ s) : Kept s₀ (zeroTags s n off len) := .ite h.setObj h

theorem EngKept.importObj {base : ℕ} {man : List Byte} {i : ℕ} : EngKept s₀ (importObj base man i) := by
  unfold Machine.importObj
  extract_lets m
  refine .getS_bind fun _ _ => ?_
  extract_lets o x go
  have hgo (x' : Unit) : EngKept s₀ (go x') := by
    unfold go
    refine .ite ?_ .pure
    refine .modS fun _ hs' => ?_
    extract_lets src s1 src'
    have hs1 : Kept s₀ s1 := hs'.setObj
    exact hs1.frame.serveHeld
  refine .bind .require fun _ => ?_
  exact .bind .rdHost fun _ => .bind .wrInPlace fun _ => .ite (.bind .openBytes fun _ => .bind .wrInPlace fun _ =>
    .bind .stopWith fun _ => hgo ()) (hgo ())

theorem EngKept.importBody : EngKept s₀ importBody := by
  refine .get_bind fun _ _ => ?_
  extract_lets w woff base
  refine .bind .require fun _ => .bind .require fun _ => ?_
  exact .bind .rdHost fun _ => .bind .require fun _ => .bind .rdHost fun _ => .bind .require fun _ => .bind .require fun _ =>
    .upTo fun _ => .importObj

theorem ResKept.execCkptImport {r : WRef} (h : Kept s₀ s) : ResKept s₀ (execCkptImport r s) := .next (h.runEngine .importBody)

/-! ## One row -/

theorem EngKept.satCounted {layer : ℕ} {m : Eng Unit} (h : EngKept s₀ m) : EngKept s₀ (satCounted layer m) :=
  fun c hc => (h c hc).bump

theorem EngKept.toC {c : Fmt} {x : Machine.Num} : EngKept s₀ (toC c x) := .bind .event fun _ => .pure

theorem EngKept.operandRow {h r : ℕ} : EngKept s₀ (operandRow h r) :=
  .getS_bind fun _ _ => .bind .require fun _ => .bind .rdObj fun _ => .pure

theorem EngKept.gradRow {h r : ℕ} {clear : Bool} : EngKept s₀ (gradRow h r clear) := by
  refine .getS_bind fun _ _ => ?_
  extract_lets o at_
  refine .bind .require fun _ => .ite ?_ ?_
  · refine .bind .rowAtomic fun a' => ?_
    extract_lets go
    have hgo : ∀ (x : Unit), EngKept s₀ (go x) := fun _ => .pure
    exact .ite (.bind .addEvents fun _ => .bind (.modS fun _ hs' => hs'.bump) fun _ => hgo ()) (hgo ())
  · refine .ite (.bind .rowAtomic fun _ => .pure) (.bind .operandRow fun a' => ?_)
    extract_lets go
    have hgo : ∀ (x : Unit), EngKept s₀ (go x) := fun _ => .pure
    exact .ite (.bind .wrObj fun _ => hgo ()) (hgo ())

theorem EngKept.storeRow {w : Work} {k h r : ℕ} {vs : List Machine.Num} : EngKept s₀ (storeRow w k h r vs) :=
  .getS_bind fun _ _ => .bind .eventsOf fun _ => .pure

theorem EngKept.updRow {p : Upd} {w : Work} {layer : Option ℕ} {r : ℕ} : EngKept s₀ (updRow p w layer r) := by
  refine .bind .operandRow fun _ => .bind (.mapDo fun _ => .toC) fun _ => ?_
  refine .bind .gradRow fun _ => .bind (.mapDo fun _ => .toC) fun _ => ?_
  refine .bind .operandRow fun _ => .bind (.mapDo fun _ => .toC) fun _ => ?_
  refine .bind (.ite (.bind .operandRow fun _ => .mapDo fun _ => .toC) .pure) fun _ => ?_
  extract_lets z n el a6 rs rs'
  refine .bind ?_ ?_
  · exact .ite (.bind .eventsOf fun _ => .bind (.eachDo fun _ => .event) fun _ => .pure) (.bind (.eachDo fun _ =>
      .eachDo fun _ => .event) fun _ => .pure)
  · intro a7
    split
    · refine .getS_bind fun _ _ => ?_
      extract_lets wo
      refine .bind .storeRow fun a7 => .bind .wrObj fun _ => .bind .storeRow fun _ => .bind .wrObj fun _ => ?_
      extract_lets k go
      have hgo (x : Unit) : EngKept s₀ (go x) := by
        unfold go
        refine .bind .addEvents fun _ => .get_bind fun _ _ => .bind (.modS fun _ hs' => hs'.bump) fun _ => ?_
        split
        · exact .modS fun _ hs' => hs'.bump.bump
        · exact .modify fun _ hc' => hc'
      exact .ite (.bind .storeRow fun _ => .bind .wrObj fun _ => hgo ()) (hgo ())

/-! ## Rows homed elsewhere (R268) -/

theorem EngKept.sendUpdate {coord : ℕ} {hyp : List Byte} {p : Upd} {r : ℕ} : EngKept s₀ (sendUpdate coord hyp p r) :=
  .get_bind fun _ _ => .bind (.modS fun _ hs => hs.postTxn) fun _ => .modify fun _ hc' => hc'

theorem EngKept.updParams {w : Work} {hyp : List Byte} {negEta : Machine.Num} {gsh : ℤ} {counted : Bool} :
    EngKept s₀ (updParams w hyp negEta gsh counted) := by
  unfold Machine.updParams
  extract_lets c used val go
  have hgo : ∀ (x : Unit), EngKept s₀ (go x) := fun _ => .pure
  exact .ite (.bind (.eachDo fun _ => .event) fun _ => hgo ()) (hgo ())

/-! ## The descriptors -/

theorem EngKept.updStart {w : Work} : EngKept s₀ (updStart w) := by
  refine .get_bind fun _ _ => ?_
  extract_lets go go'
  have hgo : ∀ (x : Unit), EngKept s₀ (go x) := fun _ => .get_bind fun _ _ => .pure
  have hgo' : ∀ (x : Unit), EngKept s₀ (go' x) := fun _ => .get_bind fun _ _ => .ite (.bind .rdH fun _ =>
    .bind (.modify fun _ hc1 => hc1) fun _ => hgo ()) (hgo ())
  exact .ite (.bind (.modify fun _ hc' => hc') fun _ => hgo' ()) (hgo' ())

theorem EngKept.updRows {w : Work} {hyp : List Byte} : EngKept s₀ (updRows w hyp) :=
  .ite (.bind (.mapDo fun _ => .readIndex) fun _ => .pure) .pure

theorem EngKept.updBody : EngKept s₀ updBody := by
  refine .get_bind fun _ _ => ?_
  extract_lets w ctl wo go s1 ss n cf
  refine .bind .require fun _ => .bind .require fun _ => .bind .updStart fun a1 => ?_
  split
  · refine .bind .require fun a1 => ?_
    refine .bind .require fun _ => .bind .require fun _ => .bind .require fun _ => .bind .require fun _ => ?_
    refine .bind .updRows fun _ => ?_
    extract_lets ok
    refine .bind .require fun _ => .satCounted (.bind .toC fun _ => .bind .updParams fun _ => ?_)
    refine .bind ?_ (fun _ => .require)
    refine .eachDo fun _ => .getS_bind fun _ _ => ?_
    split
    · exact .sendUpdate
    · exact .updRow

theorem ResKept.execUpdSgd {r : WRef} (h : Kept s₀ s) : ResKept s₀ (execUpdSgd r s) := .next (h.runEngine .updBody)

theorem ResKept.execUpdAdam {r : WRef} (h : Kept s₀ s) : ResKept s₀ (execUpdAdam r s) := .next (h.runEngine .updBody)

theorem ResKept.execUpdAdagrad {r : WRef} (h : Kept s₀ s) : ResKept s₀ (execUpdAdagrad r s) := .next (h.runEngine .updBody)

theorem EngKept.updServed {msg : List Byte} : EngKept s₀ (updServed msg) :=
  .get_bind fun _ _ => .bind .updParams fun _ => .updRow

theorem Kept.takeReport {msg : List Byte} (h : Kept s₀ s) : Kept s₀ (takeReport s msg) := by
  unfold Machine.takeReport
  extract_lets q r acc k
  split
  · exact h
  · exact h.setWork.bump.bump.bump.ackWork

/-! ## The end of a transaction -/

theorem Kept.dropTxn {x : Txn} (h : Kept s₀ s) : Kept s₀ (dropTxn s x) := h.frame

theorem Kept.ackIssuer {x : Txn} {status : ℕ} {acc : Machine.Acc} (h : Kept s₀ s) : Kept s₀ (ackIssuer s x status acc) := by
  unfold Machine.ackIssuer
  split
  · exact h.ackWork
  · exact h

theorem Kept.readFailed {x : Txn} {status : ℕ} (h : Kept s₀ s) : Kept s₀ (readFailed s x status) := by
  unfold Machine.readFailed
  split
  · exact h
  · split
    · exact h.report.wakeForward
    · exact h.setWork

theorem Kept.dropStrand {y : Strand} (h : Kept s₀ s) : Kept s₀ (dropStrand s y) := h.frame

theorem Kept.endTxn {x : Txn} {status : ℕ} (h : Kept s₀ s) : Kept s₀ (endTxn s x status) := by
  unfold Machine.endTxn
  extract_lets s'
  have hs' : Kept s₀ s' := h.dropTxn
  split
  · exact hs'.readFailed
  · exact hs'.ackIssuer
  · exact hs'.ackIssuer
  · exact hs'.ackIssuer
  · exact hs'.ackIssuer
  · split
    · exact .ite hs'.dropStrand.report.wakeForward hs'
    · exact hs'
  · exact hs'.report.wakeForward
  · exact hs'.placeFailed
  · exact hs'.placeFailed

/-! ## Multicast at its sender (R359) -/

theorem Kept.setMCast {m : MCast} (h : Kept s₀ s) : Kept s₀ (setMCast s m) := h.frame

theorem Kept.closeMCast {m : MCast} {status : ℕ} (h : Kept s₀ s) : Kept s₀ (closeMCast s m status) := by
  unfold Machine.closeMCast
  extract_lets src s'
  have hs' : Kept s₀ s' := .ite h.frame h.setMCast
  split
  · exact hs'
  · extract_lets w s1
    have hs1 : Kept s₀ s1 := hs'.setWork.ackWork
    refine .ite ?_ hs'.setWork
    split
    · exact .ite hs1.setWork hs1
    · exact hs1

theorem Kept.dropDests {m : MCast} {cs : List ℕ} (h : Kept s₀ s) : Kept s₀ (dropDests s m cs) := by
  unfold Machine.dropDests
  extract_lets gone s'
  have hs' : Kept s₀ s' := by
    unfold s'
    split
    · exact h.setWork
    · exact h
  exact .ite h hs'.closeMCast

theorem Kept.accountDest {m : MCast} {c status : ℕ} (h : Kept s₀ s) : Kept s₀ (accountDest s m c status) := h.closeMCast

/-! ## Serving requests (R353, R355) -/

theorem Kept.answer {k : Pkt} {ty status : ℕ} {body : List Byte} (h : Kept s₀ s) : Kept s₀ (answer s k ty status body) :=
  h.postPkt

theorem Kept.dropReq {k : Pkt} (h : Kept s₀ s) : Kept s₀ (dropReq s k) := by
  unfold Machine.dropReq
  extract_lets src s'
  have hs' : Kept s₀ s' := h.frame
  split
  · exact hs'
  · exact hs'.delWork.leaveAll.dropRef

theorem Kept.serveAny {serve : State → Pkt → State} {ks : List Pkt} (hserve : ∀ s, Kept s₀ s → ∀ k, Kept s₀ (serve s k))
    (h : Kept s₀ s) : Kept s₀ (serveAny serve ks s) := by
  induction ks generalizing s with
  | nil => exact h
  | cons k ks ih => exact .ite (ih (hserve _ h _)) (hserve _ h _)

theorem Kept.refusedReport {k : Pkt} (h : Kept s₀ s) : Kept s₀ (refusedReport s k) :=
  .ite h.creditLaunch.wakeForward (.ite h.ackWork h)

theorem Kept.guarded {serve : State → Pkt → State} {k : Pkt} (h : ∀ a, Kept s₀ a → ∀ (b : Pkt), Kept s₀ (serve a b))
    (hs : Kept s₀ s) :
    Kept s₀ (guarded serve s k) :=
  .ite hs.dropReq.answer (.ite hs.dropReq.answer.refusedReport (.ite hs.dropReq.answer (h s hs k)))

theorem Kept.serveKind {f : Pkt → Bool} {serve : State → Pkt → State} {t : ℕ}
    (h : ∀ a, Kept s₀ a → ∀ (b : Pkt), Kept s₀ (serve a b)) (hs : Kept s₀ s) :
    Kept s₀ (serveKind f serve t s) := by
  refine .ite ?_ hs
  split
  · exact hs
  · exact ((hs.atTime.serveAny fun _ hs' _ => hs'.guarded fun s1 hs1 x1 => h s1 hs1 x1).touch).markReady

theorem Kept.serveEng {die : ℕ} {desc : List Byte} {body : Eng Unit} {fin : Work → State → State} {k : Pkt}
    (hbody : EngKept s₀ body) (hfin : ∀ w s, Kept s₀ s → Kept s₀ (fin w s)) (h : Kept s₀ s) :
    Kept s₀ (serveEng die desc body fin s k) := by
  unfold Machine.serveEng
  extract_lets w src p s1
  have hp : Kept s₀ p.1 := by
    unfold p
    split
    · exact h
    · exact h.frame
  have hs1 : Kept s₀ s1 := .ite (hp.runBody hbody) hp
  split
  · exact .ite (hfin _ _ hs1.dropReq) hs1
  · exact hs1

theorem EngKept.keepBytes {bs : List Byte} : EngKept s₀ (keepBytes bs) := .modify fun _ hc => hc

theorem EngKept.readPart {k : Pkt} {o : Obj} {off len : ℕ} : EngKept s₀ (readPart k o off len) := by
  refine .getS_bind fun _ _ => .ite ?_ .rdPlain
  split
  · exact .stopWith
  · exact .bind (.modify fun _ hc => hc) fun _ => .rdUnder

theorem EngKept.readBody {k : Pkt} : EngKept s₀ (readBody k) :=
  .getS_bind fun _ _ => .bind .require fun _ => .bind (.mapDo fun _ => .readPart) fun _ => .keepBytes

theorem Kept.setReads {f : List RowRead → List RowRead} (h : Kept s₀ s) : Kept s₀ (setReads s f) := h.frame

theorem EngKept.releaseBody {k : Pkt} {o : Obj} : EngKept s₀ (releaseBody k o) := by
  refine .bind ?_ (fun _ => .keepBytes)
  refine .modS fun _ hs => ?_
  extract_lets s'
  have hs' : Kept s₀ s' := hs.dropHold
  split
  · exact hs'.postRelease
  · exact hs'

theorem EngKept.rowBody {k : Pkt} {op : ℕ} : EngKept s₀ (rowBody k op) := by
  refine .getS_bind fun _ _ => ?_
  extract_lets o off h
  refine .bind .require fun _ => .ite .releaseBody ?_
  split
  · exact .bind .keepBytes fun _ => .ite (.modS fun _ hs' => hs'.setReads) .pure
  · split
    · exact .stopWith
    · extract_lets go
      have hgo (x : Unit) : EngKept s₀ (go x) := by
        unfold go
        refine .bind .partAt fun _ => ?_
        extract_lets go'
        have hgo' : ∀ (x : Unit), EngKept s₀ (go' x) := fun _ => .ite .keepBytes (.bind .keepBytes fun _ =>
          .ite (.modS fun _ hs' => hs'.setReads) .pure)
        exact .ite (.bind (.modS fun _ hs' => hs'.addHold) fun _ => hgo' ()) (hgo' ())
      exact .ite (.bind .throw fun _ => hgo ()) (hgo ())

theorem ResKept.execRdReq {t : ℕ} (h : Kept s₀ s) : ResKept s₀ (execRdReq t s) := by
  refine .next (.serveKind ?_ h)
  intro s' hs' x
  refine .serveEng ?_ (fun _ _ hs1 => hs1.answer) hs'
  split
  · exact .rowBody
  · exact .readBody

theorem EngKept.writeBody {k : Pkt} : EngKept s₀ (writeBody k) :=
  .getS_bind fun _ _ => .bind .require fun _ => .ite (.bind .wrInPlace fun _ => .modS fun _ hs' => hs'.zeroTags) .wrObj

theorem ResKept.execWrReq {t : ℕ} (h : Kept s₀ s) : ResKept s₀ (execWrReq t s) := by
  refine .next ?_
  exact h.serveKind fun _ hs' _ => .ite (.ite hs'.dropReq.writePhys.countBytes.answer hs'.dropReq.answer)
    (hs'.serveEng .writeBody fun _ _ hs1 => hs1.answer)

theorem EngKept.enterHere {x : Addend} : EngKept s₀ (enterHere x) := by
  refine .get_bind fun _ hc => ?_
  split
  next hd => exact .bind (.modS fun _ _ => hc.enterAddend hd) fun _ => .event
  · exact .bind (.modS fun _ hs => hs.postTxn) fun _ => .modify fun _ => id
  · exact .stopWith
  · exact .throw

theorem EngKept.addBody {k : Pkt} : EngKept s₀ (addBody k) := by
  refine .getS_bind fun _ _ => ?_
  extract_lets o e
  split
  · exact .stopWith
  · exact .bind .require fun _ => .bind .require fun _ => .bind .require fun _ => .eachDo fun _ => .enterHere

theorem ResKept.execAddReq {t : ℕ} (h : Kept s₀ s) : ResKept s₀ (execAddReq t s) :=
  .next (h.serveKind fun _ hs' _ => hs'.serveEng .addBody fun _ _ hs1 => hs1.answer)

/-! ## Messages (R167, R268, R350) -/

theorem Kept.acceptStrand {k : Pkt} (h : Kept s₀ s) : Kept s₀ (acceptStrand s k) := by
  unfold Machine.acceptStrand
  extract_lets x die x' s' y src s1
  have hs' : Kept s₀ s' := h.dropReq.answer
  have hs1 : Kept s₀ s1 := hs'.frame
  exact .ite h.dropReq.answer.report.wakeForward (.ite h.dropReq.answer (.ite hs1 hs1.report.wakeForward))

theorem Kept.takeRetire {bs : List Byte} (h : Kept s₀ s) : Kept s₀ (takeRetire s bs) := h.creditLaunch.wakeForward

theorem ResKept.execStrand {t : ℕ} (h : Kept s₀ s) : ResKept s₀ (execStrand t s) :=
  .next (h.serveKind fun _ hs' _ => .ite hs'.acceptStrand hs'.dropReq.answer.takeRetire)

theorem Kept.takeChain {bs : List Byte} (h : Kept s₀ s) : Kept s₀ (takeChain s bs) :=
  .ite (.ite h.failHere h.failHere.report.wakeForward) h.frame

theorem ResKept.execChain {t : ℕ} (h : Kept s₀ s) : ResKept s₀ (execChain t s) :=
  .next (h.serveKind fun _ hs' _ => hs'.dropReq.answer.takeChain)

theorem Kept.serveRow {k : Pkt} (h : Kept s₀ s) : Kept s₀ (serveRow s k) := by
  unfold Machine.serveRow
  exact h.serveEng .updServed fun _ _ hs' => hs'.answer.postTxn.pump

theorem ResKept.execUpdate {t : ℕ} (h : Kept s₀ s) : ResKept s₀ (execUpdate t s) := by
  exact .next (h.serveKind fun _ hs' _ => .ite hs'.serveRow hs'.dropReq.answer.takeReport)

theorem ResKept.execPlace {t : ℕ} (h : Kept s₀ s) : ResKept s₀ (execPlace t s) :=
  .next (h.serveKind fun _ hs' _ => hs'.dropReq.placeMessage.answer)

/-! ## Responses (R355) -/

theorem Kept.onResponse {f : Pkt → Bool} {go : State → Pkt → State} {t : ℕ} (hgo : ∀ s, Kept s₀ s → ∀ k, Kept s₀ (go s k))
    (h : Kept s₀ s) : Kept s₀ (onResponse f go t s) := by
  refine .ite h ?_
  split
  · exact h
  next he => exact (hgo _ (h.takeInbox he).atTime _).pump.markReady

theorem Kept.takeBytes {x : Txn} {k : Pkt} (h : Kept s₀ s) : Kept s₀ (takeBytes s x k) := by
  unfold Machine.takeBytes
  extract_lets op letGo
  have hletGo : ∀ s, Kept s₀ s → Kept s₀ (letGo s) := fun _ hs' => .ite hs'.postRelease hs'
  split
  · exact hletGo s h
  · exact .ite (hletGo s h) (.ite h.releaseHolds.setWork h.setWork)

theorem ResKept.execRdRsp {t : ℕ} (h : Kept s₀ s) : ResKept s₀ (execRdRsp t s) := by
  refine .next (.onResponse ?_ h)
  intro s' hs' x
  split
  · exact hs'
  · exact .ite hs'.endTxn hs'.dropTxn.takeBytes

theorem ResKept.execWrAck {t : ℕ} (h : Kept s₀ s) : ResKept s₀ (execWrAck t s) := by
  refine .next (.onResponse ?_ h)
  intro s' hs' x
  split
  · exact hs'.accountDest
  · exact .ite hs'.endTxn hs'.dropTxn.ackIssuer
  · exact hs'

theorem ResKept.execAddAck {t : ℕ} (h : Kept s₀ s) : ResKept s₀ (execAddAck t s) := by
  refine .next (.onResponse ?_ h)
  intro s' hs' x
  split
  · exact hs'
  · exact hs'.dropTxn.ackIssuer

theorem Kept.accepted {x : Txn} (h : Kept s₀ s) : Kept s₀ (accepted s x) := by
  unfold Machine.accepted
  extract_lets s'
  have hs' : Kept s₀ s' := h.dropTxn
  split
  · split
    · exact .ite hs'.dropStrand.wakeForward hs'
    · exact hs'
  · exact hs'.ackIssuer
  · exact hs'

theorem ResKept.execMsgRsp {t : ℕ} (h : Kept s₀ s) : ResKept s₀ (execMsgRsp t s) := by
  refine .next (.onResponse ?_ h)
  intro s' hs' x
  split
  · exact hs'
  · exact .ite hs'.accepted (.ite hs'.frame hs'.endTxn)

theorem Kept.repost {p : Pkt} (h : Kept s₀ s) : Kept s₀ (repost s p) := h.frame.pump

theorem ResKept.execMsgRetry {id t : ℕ} (h : Kept s₀ s) : ResKept s₀ (execMsgRetry id t s) := by
  refine .next ?_
  split
  · exact h
  · extract_lets now first s' src s1
    have hs' : Kept s₀ s' := h.atTime
    have hs1 : Kept s₀ s1 := hs'.frame
    exact .ite (.ite hs'.endTxn hs1.repost) h

theorem ResKept.execDropReport {t : ℕ} (h : Kept s₀ s) : ResKept s₀ (execDropReport t s) := by
  refine .next (.onResponse ?_ h)
  intro s' hs' x
  split
  · exact hs'
  · exact hs'.dropDests

theorem ResKept.execMulticastResend {id t : ℕ} (h : Kept s₀ s) : ResKept s₀ (execMulticastResend id t s) := by
  refine .next ?_
  split
  · exact h
  · exact .ite (h.atTime.setMCast.foldl fun _ _ ht' => ht'.postPkt) h

/-! ## Sluice windows as their source (R352, R354) -/

theorem ResKept.execSack {t : ℕ} (h : Kept s₀ s) : ResKept s₀ (execSack t s) :=
  .next (h.onResponse fun _ hs' _ => hs'.frame.pump)

theorem Kept.endPackets {ps : List Pkt} {status : ℕ} (h : Kept s₀ s) : Kept s₀ (endPackets s ps status) := by
  refine .foldl h fun t x ht => ?_
  split
  · exact ht.endTxn
  · exact ht.accountDest
  · exact ht

theorem ResKept.execSluiceRto {peer tc t : ℕ} (h : Kept s₀ s) : ResKept s₀ (execSluiceRto peer tc t s) := by
  refine .next ?_
  split
  · exact h
  next w' _ =>
    refine .ite ?_ h
    extract_lets s' put s1 s2 s3
    have hs' : Kept s₀ s' := h.atTime
    have hput : ∀ s, Kept s₀ s → ∀ (w' : SrcWin), Kept s₀ (put s w') := fun _ hs4 _ => hs4.frame
    have hs1 : Kept s₀ s1 := (hput s' hs' _).bump
    have hs2 : Kept s₀ s2 := (hput s' hs' _).bump
    have hs3 : Kept s₀ s3 := hs2.alm
    exact .ite (hs1.foldl fun _ _ ht' => ht'.emitPkt) hs3.endPackets.pump.markReady

/-! ## FAB_PUT and FAB_MSG (R356, R359) -/

theorem Kept.startMulticast {m : MCast} (h : Kept s₀ s) : Kept s₀ (startMulticast s m) := h.setMCast.mcStage

theorem Kept.releaseMulticast (h : Kept s₀ s) : Kept s₀ (releaseMulticast s) :=
  .ite (h.foldl fun _ _ ht => ht.startMulticast.dropDests) h

theorem Kept.sendMulticast {w : Work} {left : List ℕ} {addr : ℕ} {ord flag : Bool} {bs : List Byte} (h : Kept s₀ s) :
    Kept s₀ (sendMulticast s w left addr ord flag bs) :=
  .ite h.frame.startMulticast h.frame

theorem EngKept.putReport : EngKept s₀ putReport := .get_bind fun _ _ => .bind .wrH fun _ => .bind .addEvents fun _ => .stopWith

theorem EngKept.putBody : EngKept s₀ putBody := by
  refine .get_bind fun _ _ => ?_
  extract_lets w n multi ord last dst g ps all out left d
  refine .ite .putReport (.bind .require fun _ => .bind .require fun _ => ?_)
  refine .bind .require fun _ => .ite ?_ ?_
  · refine .bind .require fun _ => .bind (.mapDo fun _ => .rdH) fun _ => .bind (.modify fun _ hc' => hc') ?_
    exact fun _ => .ite .putReport (.eachDo fun _ => .bind (.modS fun _ hs => hs.sendMulticast) fun _ => .modify fun _ hc' =>
      hc')
  · split
    · exact .bind (.mapDo fun _ => .rdH) fun _ => .eachDo fun _ => .bind (.modS fun _ hs => hs.postTxn) fun _ =>
        .modify fun _ hc' => hc'
    · exact .stopWith
    · exact .stopWith

theorem ResKept.execFabPut {r : WRef} {t : ℕ} (h : Kept s₀ s) : ResKept s₀ (execFabPut r t s) :=
  .next (h.atTime.runEngine .putBody)

theorem EngKept.msgBody : EngKept s₀ msgBody := by
  refine .get_bind fun _ _ => ?_
  extract_lets w n d
  refine .bind .require fun _ => .bind .require fun _ => ?_
  split
  · exact .bind .rdH fun _ => .bind (.modS fun _ hs => hs.postTxn) fun _ => .modify fun _ hc' => hc'
  · exact .stopWith
  · exact .stopWith

theorem ResKept.execFabMsg {r : WRef} {t : ℕ} (h : Kept s₀ s) : ResKept s₀ (execFabMsg r t s) :=
  .next (h.atTime.runEngine .msgBody)

/-! ## Fencing (R360) -/

theorem Kept.fenceTraffic {c : ℕ} (h : Kept s₀ s) : Kept s₀ (fenceTraffic s c) := by
  unfold Machine.fenceTraffic
  extract_lets s1 f s2 f' s3 s4
  have hs1 : Kept s₀ s1 := h.fenceMoves.setReads
  clear_value s1
  have hs2 : Kept s₀ s2 := hs1.frame
  have hs3 : Kept s₀ s3 := hs2.frame
  have hs4 : Kept s₀ s4 := hs3.foldl fun _ _ ht => ht.endTxn
  exact (hs4.foldl fun _ _ ht => ht.dropDests).wakeForward

theorem Kept.fabFence {m v : ℕ} (h : Kept s₀ s) : OptKept s₀ (fabFence m s v) := by
  unfold Machine.fabFence
  extract_lets c
  split
  · exact .none
  next r _ =>
    extract_lets s1 s2 src
    have hs2 : Kept s₀ s2 := h.setReg.almFull
    have hsrc : Kept s₀ src := hs2.fenceTraffic
    clear_value src
    exact .some (Kept.ite hs2 hsrc.frame).markReady

/-! ## Membership (R361, R362) -/

theorem Kept.drainFabric (h : Kept s₀ s) : OptKept s₀ (drainFabric s) :=
  .ite (.some (Kept.frame (s := Machine.setReg s Key.fabState 2) h.setReg)) .none

theorem ResKept.execDrainComplete {t : ℕ} (h : Kept s₀ s) : ResKept s₀ (execDrainComplete t s) := .next (.ite h.atTime.setReg h)

theorem ResKept.execFabDrainTimeout {t : ℕ} (h : Kept s₀ s) : ResKept s₀ (execFabDrainTimeout t s) := by
  refine .next (.ite ?_ h)
  extract_lets s' src
  have hs' : Kept s₀ s' := h.atTime
  exact hs'.frame.alm

theorem Kept.joinTable (h : Kept s₀ s) : Kept s₀ (joinTable s) := .ite h h.frame.setReg

theorem Kept.cutover (h : Kept s₀ s) : OptKept s₀ (cutover s) := by
  refine .ite .none ?_
  extract_lets bx part s' s1 s2 ports s3 src src'
  have hs' : Kept s₀ s' := h.setReg.setReg.setReg
  have hs1 : Kept s₀ s1 := hs'.setReg.setReg
  have hs2 : Kept s₀ s2 := hs1.setReg.setReg
  have hs3 : Kept s₀ s3 := hs2.joinTable
  exact .some hs3.frame

theorem Kept.resumeFabric (h : Kept s₀ s) : OptKept s₀ (resumeFabric s) := .ite (.some h.setReg.pump.releaseMulticast) .none

theorem Kept.isolateFabric (h : Kept s₀ s) : Kept s₀ (isolateFabric s) := h.setReg.isolatePorts

/-! ## Channels -/

theorem Kept.setChan {c : ℕ} {x : Chan} (h : Kept s₀ s) : Kept s₀ (setChan s c x) := h.frame

theorem Kept.denied (h : Kept s₀ s) : Kept s₀ (denied s) := h.bump

theorem Kept.freeChan {c : ℕ} {expired : Bool} (h : Kept s₀ s) : Kept s₀ (freeChan s c expired) := h.setChan

theorem Kept.grantChan {c m : ℕ} (h : Kept s₀ s) : Kept s₀ (grantChan s c m) := h.setChan

theorem Kept.mbxLock {m c : ℕ} (h : Kept s₀ s) : Kept s₀ (mbxLock s m c).1 := by
  unfold Machine.mbxLock
  extract_lets x
  refine .ite_fst h.denied (.ite_fst h.grantChan ?_)
  exact .ite_fst h h

theorem Kept.weir {n origin value : ℕ} (h : Kept s₀ s) : Kept s₀ (weir s n origin value) := by
  unfold Machine.weir
  extract_lets s' last src s1
  have hs' : Kept s₀ s' := h.bump
  have hs1 : Kept s₀ s1 := hs'.frame
  exact .ite hs' hs1.almFull

theorem Kept.inBand {c : ℕ} (h : Kept s₀ s) : Kept s₀ (inBand s c) := .ite h.weir h.frame.send

theorem Kept.notifyMbx {m c : ℕ} (h : Kept s₀ s) : Kept s₀ (notifyMbx s m c) := by
  unfold Machine.notifyMbx
  split
  · exact .ite h h.raiseMsix
  · exact h.inBand
  · exact h.notifyFln
  · exact h.send
  · exact .ite (.ite h.send (.ite h h.setChan)) h

theorem Kept.mbxWake (h : Kept s₀ s) : Kept s₀ (mbxWake s) := (Kept.ite h.bump h).raiseWake

theorem Kept.mbxDoorbell {m c code : ℕ} (h : Kept s₀ s) : Kept s₀ (mbxDoorbell s m c code) :=
  .ite ((Kept.ite h.setChan.mbxWake h.setChan).notifyMbx) h.denied

theorem Kept.mbxDone {m c : ℕ} (h : Kept s₀ s) : Kept s₀ (mbxDone s m c) := .ite (.ite h.freeChan h.setChan.notifyMbx) h.denied

theorem Kept.mbxRelease {m c : ℕ} (h : Kept s₀ s) : Kept s₀ (mbxRelease s m c) := .ite h.freeChan h.denied

theorem Kept.mbxForce {m c : ℕ} (h : Kept s₀ s) : Kept s₀ (mbxForce s m c) := .ite h.freeChan h.denied

theorem Kept.mbxControl {m c v : ℕ} (h : Kept s₀ s) : Kept s₀ (mbxControl s m c v) := by
  unfold Machine.mbxControl
  split
  · exact h.mbxRelease
  · exact h.mbxDoorbell
  · exact h.mbxDone
  · exact h.mbxForce
  · exact h.denied

theorem Kept.mbxWriteBuf {m c off : ℕ} {data : List Byte} (h : Kept s₀ s) : Kept s₀ (mbxWriteBuf s m c off data) :=
  .ite h.setChan h.denied

theorem Kept.mbxWriteLen {m c v : ℕ} (h : Kept s₀ s) : Kept s₀ (mbxWriteLen s m c v) := .ite h.setChan h.denied

theorem Kept.ignoreAccess {read : Bool} (h : Kept s₀ s) : Kept s₀ (ignoreAccess s read) := .ite h.bump.send h.bump

theorem Kept.bar0 {read : Bool} {go : State → State} (h : Kept s₀ s) (hgo : ∀ a, Kept s₀ a → Kept s₀ (go a)) :
    Kept s₀ (bar0 s read go) :=
  .ite h (.ite h.ignoreAccess (hgo s h))

theorem Kept.atChan {m c t : ℕ} {read : Bool} {go : State → State} (hgo : ∀ s, Kept s₀ s → Kept s₀ (go s)) (h : Kept s₀ s) :
    Kept s₀ (atChan m c t s read go) :=
  .ite h (.ite (h.atTime.bar0 hgo) (hgo _ h.atTime))

theorem ResKept.execMbxLock {m c t : ℕ} (h : Kept s₀ s) : ResKept s₀ (execMbxLock m c t s) :=
  .next (h.atChan fun _ hs' => hs'.mbxLock.send)

theorem ResKept.execMbxRelease {m c t : ℕ} (h : Kept s₀ s) : ResKept s₀ (execMbxRelease m c t s) :=
  .next (h.atChan fun _ hs' => hs'.mbxRelease)

theorem ResKept.execMbxDoorbell {m c code t : ℕ} (h : Kept s₀ s) : ResKept s₀ (execMbxDoorbell m c code t s) :=
  .next (h.atChan fun _ hs' => hs'.mbxDoorbell)

theorem ResKept.execMbxDone {m c t : ℕ} (h : Kept s₀ s) : ResKept s₀ (execMbxDone m c t s) :=
  .next (h.atChan fun _ hs' => hs'.mbxDone)

theorem ResKept.execForceFree {m c t : ℕ} (h : Kept s₀ s) : ResKept s₀ (execForceFree m c t s) :=
  .next (h.atChan fun _ hs' => hs'.mbxForce)

theorem ResKept.execMbxBufferWrite {m c off : ℕ} {data : List Byte} (h : Kept s₀ s) :
    ResKept s₀ (execMbxBufferWrite m c off data s) :=
  .next (h.atChan fun _ hs' => .ite hs'.ignoreAccess (.ite hs'.mbxWriteLen (.ite hs'.mbxWriteBuf (.ite hs'.ignoreAccess hs'))))

theorem Kept.mbxRead {m c off : ℕ} (h : Kept s₀ s) : Kept s₀ (mbxRead s m c off) := .ite h.send h.denied.send

theorem Kept.chanAccess {c off : ℕ} {wr : Option ℕ} (h : Kept s₀ s) : Kept s₀ (chanAccess s c off wr) := by
  unfold Machine.chanAccess
  split
  · exact .ite h.mbxControl (.ite h.mbxWriteLen (.ite h.mbxWriteBuf h.ignoreAccess))
  · exact .ite h.mbxLock.send (.ite h.mbxRead (.ite h.send (.ite h.send h.ignoreAccess)))

theorem ResKept.execMbxHoldExpiry {c t : ℕ} (h : Kept s₀ s) : ResKept s₀ (execMbxHoldExpiry c t s) := by
  unfold Machine.execMbxHoldExpiry
  extract_lets x s'
  have hs' : Kept s₀ s' := h.atTime.freeChan.bump
  exact .next (.ite hs'.alm h)

theorem Kept.takeMail {k : Pkt} (h : Kept s₀ s) : Kept s₀ (takeMail s k) :=
  .ite h.dropReq.answer (.ite h.dropReq.answer h.dropReq.grantChan.setChan.mbxDoorbell.answer)

theorem ResKept.execMailbox {t : ℕ} (h : Kept s₀ s) : ResKept s₀ (execMailbox t s) :=
  .next (h.serveKind fun _ hs' _ => hs'.takeMail)

/-! ## Queue doorbells (R395-R398) -/

theorem Kept.hostStores {xs : List HostStore} (h : Kept s₀ s) : Kept s₀ (hostStores s xs) := h.foldl fun _ _ ht => ht.writeHost

theorem Kept.refuseBell {q : ℕ} (h : Kept s₀ s) : Kept s₀ (refuseBell s q) := h.bump.almFull

theorem Kept.ringProducer {q v : ℕ} (h : Kept s₀ s) : Kept s₀ (ringProducer s q v) := .ite h.refuseBell h.setQueue.mbxWake

theorem Kept.ringConsumer {q v : ℕ} (h : Kept s₀ s) : Kept s₀ (ringConsumer s q v) := .ite h.refuseBell h.setQueue.mbxWake

theorem ResKept.execProducer {q v : ℕ} {stores : List HostStore} {t : ℕ} (h : Kept s₀ s) :
    ResKept s₀ (execProducer q v stores t s) :=
  .next (.ite h.atTime.hostStores (h.atTime.hostStores.bar0 fun _ hs' => hs'.ringProducer))

theorem ResKept.execComplConsumer {q v : ℕ} {stores : List HostStore} {t : ℕ} (h : Kept s₀ s) :
    ResKept s₀ (execComplConsumer q v stores t s) :=
  .next (.ite h.atTime.hostStores (h.atTime.hostStores.bar0 fun _ hs' => hs'.ringConsumer))

theorem Kept.bellAccess {q off : ℕ} {wr : Option ℕ} (h : Kept s₀ s) : Kept s₀ (bellAccess s q off wr) := by
  unfold Machine.bellAccess
  extract_lets x
  split
  · exact h.ringProducer
  · exact h.ringConsumer
  · exact h.send
  · exact h.send
  · exact h.send
  · exact h.ignoreAccess

/-! ## Link (R393, R394) -/

theorem Kept.perstEntries (h : Kept s₀ s) : Kept s₀ (perstEntries s) := by
  unfold Machine.perstEntries
  extract_lets back s'
  have hback : ∀ s, Kept s₀ s → ∀ (k : ℕ), Kept s₀ (back s k) := fun _ hs1 _ => hs1.setReg
  have hs' : Kept s₀ s' := h.foldl fun _ x ht => ht.foldl fun t' x' ht' => hback t' ht' (x' + 256 * x)
  exact hs'.foldl fun _ x ht => ht.foldl fun t' x' ht' => hback t' ht' (x' + 256 * x)

theorem Kept.perstMail (h : Kept s₀ s) : Kept s₀ (perstMail s) := h.foldl fun _ _ ht => .ite ht.freeChan ht

theorem Kept.loseQueue {q : ℕ} (h : Kept s₀ s) : Kept s₀ (loseQueue s q) := h.setQueue

theorem ResKept.execPerstNAssert {t : ℕ} (h : Kept s₀ s) : ResKept s₀ (execPerstNAssert t s) := by
  refine .next (.ite ?_ h)
  extract_lets s' src s1 src' s2 s3
  have hs' : Kept s₀ s' := h.atTime
  have hs1 : Kept s₀ s1 := hs'.frame.resetCxl
  have hs2 : Kept s₀ s2 := hs1.frame
  have hs3 : Kept s₀ s3 := hs2.foldl fun _ _ ht' => .ite ht'.abortQueue.disableQueue.loseQueue (.ite ht'.loseQueue ht')
  exact hs3.perstEntries.perstMail.markReady

theorem ResKept.execPerstNDeassert {t : ℕ} (h : Kept s₀ s) : ResKept s₀ (execPerstNDeassert t s) := by
  refine .next (.ite ?_ h)
  extract_lets s' src s1
  have hs' : Kept s₀ s' := h.atTime
  have hs1 : Kept s₀ s1 := hs'.frame
  exact .ite hs1.setReg hs1

theorem ResKept.execCxlLinkUp {cxl : Bool} {width speed t : ℕ} (h : Kept s₀ s) :
    ResKept s₀ (execCxlLinkUp cxl width speed t s) :=
  .next (.ite ((Kept.ite h.atTime.setReg.setReg.setReg.setReg.alm h.atTime.setReg.setReg.setReg.setReg).markReady) h)

theorem ResKept.execPrimaryMailboxReady {t : ℕ} (h : Kept s₀ s) : ResKept s₀ (execPrimaryMailboxReady t s) :=
  .next (.ite (Kept.frame (s := atTime s t) h.atTime) h)

/-! ## Configuration space and BAR0 (R394, R395) -/

theorem ResKept.execConfigRequest {r : ℕ} {wr : Option ℕ} (h : Kept s₀ s) : ResKept s₀ (execConfigRequest r wr s) := by
  refine .next (.ite h ?_)
  refine .ite h.send ?_
  split
  · exact h.send
  · exact (Kept.ite h h.frame).send

theorem Kept.setDev {o v : ℕ} (h : Kept s₀ s) : Kept s₀ (setDev s o v) := h.frame

theorem Kept.writeMsix {w v : ℕ} (h : Kept s₀ s) : Kept s₀ (writeMsix s w v) := by
  unfold Machine.writeMsix
  extract_lets x src s' n src'
  have hs' : Kept s₀ s' := h.frame
  exact .ite hs'.frame.send hs'

/-! ## HDM decoder and apertures (R400-R404) -/

theorem ResKept.execHdmCommit {base size : ℕ} (h : Kept s₀ s) : ResKept s₀ (execHdmCommit base size s) :=
  .next (.ite h (.ite h.frame.setReg h.frame.setReg))

theorem ResKept.execHdmAccess {addr len : ℕ} {wr : Option (List Byte)} (h : Kept s₀ s) :
    ResKept s₀ (execHdmAccess addr len wr s) := by
  refine .next ?_
  split
  · exact h
  · exact .ite h (.ite h.send h.hostAccess)

theorem ResKept.execH2dSnoop {addr : ℕ} (h : Kept s₀ s) : ResKept s₀ (execH2dSnoop addr s) := .next (.ite h.send h)

theorem Kept.bindApt {a : ℕ} (h : Kept s₀ s) : Kept s₀ (bindApt s a).2 := by
  unfold Machine.bindApt
  extract_lets x h' n o src
  exact .ite_snd h (.ite_snd h h.frame)

theorem Kept.snoopApt {a : ℕ} (h : Kept s₀ s) : Kept s₀ (snoopApt s a) := .ite h.sendAll h

theorem Kept.resumeSnoops (h : Kept s₀ s) : Kept s₀ (resumeSnoops s) := h.foldl fun _ _ ht => ht.snoopApt

theorem Kept.unbindApt {a : ℕ} (h : Kept s₀ s) : Kept s₀ (unbindApt s a).2 := by
  unfold Machine.unbindApt
  extract_lets x used s' y src
  have hs' : Kept s₀ s' := h.snoopApt
  exact .ite_snd h (.ite_snd h hs'.frame)

theorem ResKept.execUnbindComplete {a : ℕ} (h : Kept s₀ s) : ResKept s₀ (execUnbindComplete a s) :=
  .next (.ite h.frame.markReady h)

/-! ## The primary mailbox (R406) -/

theorem Kept.primary {go : State → State} (h : Kept s₀ s) (hgo : ∀ a, Kept s₀ a → Kept s₀ (go a)) :
    Kept s₀ (primary s go) :=
  .ite (hgo s h) h

theorem Kept.setStamp {v : ℕ} (h : Kept s₀ s) : Kept s₀ (setStamp s v) := h.frame

theorem ResKept.execGetTimestamp {t : ℕ} (h : Kept s₀ s) : ResKept s₀ (execGetTimestamp t s) :=
  .next (h.primary fun _ hs' => hs'.atTime.send)

theorem ResKept.execSetTimestamp {v t : ℕ} (h : Kept s₀ s) : ResKept s₀ (execSetTimestamp v t s) :=
  .next (h.primary fun _ hs' => hs'.atTime.setStamp.send)

theorem ResKept.execGetSupportedLogs (h : Kept s₀ s) : ResKept s₀ (execGetSupportedLogs s) :=
  .next (h.primary fun _ hs' => hs'.send)

theorem ResKept.execGetLog {off len : ℕ} (h : Kept s₀ s) : ResKept s₀ (execGetLog off len s) :=
  .next (h.primary fun _ hs' => hs'.send)

/-! ## DOE (R408) -/

theorem ResKept.execDoeDiscovery {i : ℕ} (h : Kept s₀ s) : ResKept s₀ (execDoeDiscovery i s) :=
  .next (h.primary fun _ hs' => hs'.send)

theorem ResKept.execCxlTableAccess {entry : ℕ} (h : Kept s₀ s) : ResKept s₀ (execCxlTableAccess entry s) := by
  refine .next (.primary h fun _ hs' => ?_)
  extract_lets es
  split
  · exact hs'.send
  · exact hs'

/-! ## Images (R463-R465) -/

theorem Kept.clearStaging (h : Kept s₀ s) : Kept s₀ (clearStaging s) := h.frame.setReg.setReg

theorem Kept.exchangeBanks (h : Kept s₀ s) : Kept s₀ (exchangeBanks s) :=
  h.frame.setReg.setReg.setReg.setReg.setReg.bump32.deriveAlias

theorem Kept.rejectImage {code : ℕ} (h : Kept s₀ s) : Kept s₀ (rejectImage s code) := h.almFull

theorem ResKept.execVerifyComplete {t : ℕ} (h : Kept s₀ s) : ResKept s₀ (execVerifyComplete t s) := by
  refine .next (.ite ?_ h)
  extract_lets s' code s1 seq
  have hs' : Kept s₀ s' := h.atTime
  have hs1 : Kept s₀ s1 := hs'.setReg.setReg
  exact .ite (.ite hs1.exchangeBanks.setReg hs1.setReg.setReg) hs1.rejectImage.clearStaging.setReg.alert

theorem Kept.discardImage (h : Kept s₀ s) : Kept s₀ (discardImage s) := h.clearStaging.setReg.setReg

theorem ResKept.execLoadIdleTimeout {t : ℕ} (h : Kept s₀ s) : ResKept s₀ (execLoadIdleTimeout t s) :=
  .next (.ite h.atTime.discardImage h)

theorem ResKept.execFirmwareReady {t : ℕ} (h : Kept s₀ s) : ResKept s₀ (execFirmwareReady t s) := by
  refine .next (.ite h ?_)
  refine .ite ?_ (.ite h.atTime.exchangeBanks.setReg.almFull.markReady.pump h)
  extract_lets s' s1
  have hs' : Kept s₀ s' := h.atTime.setReg
  have hs1 : Kept s₀ s1 := .ite hs'.setReg.touch.sendNotices hs'
  exact hs1.markReady.pump

theorem ResKept.execActivationFallback {t : ℕ} (h : Kept s₀ s) : ResKept s₀ (execActivationFallback t s) :=
  .next (.ite h.atTime.setReg.rejectImage.clearStaging.setReg.markReady.pump h)

theorem ResKept.execWatchdogExpiry {t : ℕ} (h : Kept s₀ s) : ResKept s₀ (execWatchdogExpiry t s) := by
  refine .next (.ite ?_ h)
  extract_lets s' dogs seq src s1 s2 s3
  have hs' : Kept s₀ s' := h.atTime
  have hs1 : Kept s₀ s1 := hs'.frame.bump32
  have hs2 : Kept s₀ s2 := hs1.alm
  have hs3 : Kept s₀ s3 := hs2.clearStaging.setReg.setReg
  exact .ite hs3.abortAll.alert hs2

theorem ResKept.execImageBankError {t : ℕ} (h : Kept s₀ s) : ResKept s₀ (execImageBankError t s) := by
  refine .next (.ite ?_ h)
  extract_lets s' s1 s2 src s3
  have hs' : Kept s₀ s' := h.atTime
  have hs1 : Kept s₀ s1 := hs'.setReg.setReg.setReg
  have hs2 : Kept s₀ s2 := hs1.clearStaging.setReg.setReg
  have hs3 : Kept s₀ s3 := hs2.frame
  exact hs3.alm

/-! ## Fuses (R459-R461) -/

/-- A weaker condition takes no fewer. -/
theorem length_takeWhile_le {α : Type} {p q : α → Bool} (h : ∀ a, p a = true → q a = true) (l : List α) :
    (l.takeWhile p).length ≤ (l.takeWhile q).length := by
  induction l with
  | nil => rfl
  | cons a l ih =>
    by_cases hp : p a = true
    · simp [hp, h a hp, ih]
    · simp [hp]

/-- Cells blown stay blown. -/
theorem cells_blowCells_of_blown {cells : Tab ℕ} {n free i : ℕ} (h : Tab.get 0 cells i = 1) :
    Tab.get 0 (blowCells cells n free) i = 1 := by
  have hset {c : Tab ℕ} {k : ℕ} (hc : Tab.get 0 c i = 1) : Tab.get 0 (Tab.set 0 c k 1) i = 1 := by
    rw [Tab.get_set]
    split
    · rfl
    · exact hc
  unfold blowCells
  extract_lets one
  split
  · exact hset h
  · exact hset h
  · exact hset (hset h)

theorem Boot.svn_le_of_cells {b c : Boot} (h : ∀ i, Tab.get 0 b.cells i = 1 → Tab.get 0 c.cells i = 1) : b.svn ≤ c.svn := by
  refine length_takeWhile_le (fun i hi => ?_) _
  simp only [Bool.or_eq_true, beq_iff_eq] at hi ⊢
  exact hi.imp (h _) (h _)

theorem ResKept.execFuseStepBlown {t : ℕ} (h : Kept s₀ s) : ResKept s₀ (execFuseStepBlown t s) := by
  refine .next ?_
  split
  · exact h
  · have hx : Kept s₀ (drawFree (atTime s t)).2 := h.atTime.drawFree
    exact .ite hx.frame (hx.of_parts rfl List.prefix_rfl le_rfl (Boot.svn_le_of_cells fun _ => cells_blowCells_of_blown)
      (fun _ => id) id id id)

/-! ## Memory comes up (R2, R301, R332, R333) -/

theorem Kept.setDimm {ch : ℕ} {d : DimmIn} {st : ℕ} (h : Kept s₀ s) : Kept s₀ (setDimm s ch d st) :=
  .ite h.setReg.setReg.setReg.alm (.ite h.setReg.setReg.setReg.setReg h.setReg.setReg.setReg)

theorem ResKept.execMemoryTrained {hbm : List Bool} {dimms : List DimmIn} {t : ℕ} (h : Kept s₀ s) :
    ResKept s₀ (execMemoryTrained hbm dimms t s) := by
  refine .next (.ite ?_ h)
  extract_lets s' src s1 s2 kind
  have hs' : Kept s₀ s' := h.atTime
  have hs1 : Kept s₀ s1 := hs'.frame
  have hs2 : Kept s₀ s2 := hs1.foldl fun _ _ ht' => .ite ht'.setReg.setReg ht'.setReg
  exact hs2.foldl fun _ _ ht' => ht'.setDimm

/-! ## Read-out (R494) -/

theorem Kept.noteUnmapped {a n : ℕ} (h : Kept s₀ s) : Kept s₀ (noteUnmapped s a n) := by
  unfold Machine.noteUnmapped
  split
  · exact h.alm
  · exact h

theorem ResKept.execReadoutDone {t : ℕ} (h : Kept s₀ s) : ResKept s₀ (execReadoutDone t s) := by
  refine .next (.ite ?_ h)
  extract_lets s' a n dest f x r s1 s2
  have hs' : Kept s₀ s' := h.atTime
  have hx : Kept s₀ x.2 := hs'.drawFree
  have hs1 : Kept s₀ s1 := hs'.noteUnmapped
  have hs2 : Kept s₀ s2 := .ite hs1.setReg hs1.putHost
  exact .ite hx.setReg.setReg hs2.setReg.setReg.setReg

/-! ## SPDM (R469, R470) -/

theorem Kept.spdmStep {req : List Byte} (h : Kept s₀ s) : Kept s₀ (spdmStep s req) := h.drawn.setReg

theorem Kept.ideStep {ide : ℕ} (h : Kept s₀ s) : Kept s₀ (ideStep s ide) := h.setReg.resumeSnoops.serveHeld.markReady

theorem ResKept.execSpdmRequest {viaDoe : Bool} {req : List Byte} (h : Kept s₀ s) : ResKept s₀ (execSpdmRequest viaDoe req s) :=
  .next (.ite (h.primary fun _ hs' => .ite hs'.spdmStep.send hs'.spdmStep.send.ideStep) (.ite h.spdmStep.send h))

/-! ## I3C and MCTP control (R436; DSP0236, log 52) -/

theorem Kept.asTarget {go : State → State} (h : Kept s₀ s) (hgo : ∀ a, Kept s₀ a → Kept s₀ (go a)) :
    Kept s₀ (asTarget s go) :=
  .ite (hgo s h) h

theorem ResKept.execEntdaa {addr : ℕ} (h : Kept s₀ s) : ResKept s₀ (execEntdaa addr s) :=
  .next (h.asTarget fun _ hs' => .ite hs'.send.setReg hs'.send)

theorem ResKept.execSetEndpointId {eid : ℕ} (h : Kept s₀ s) : ResKept s₀ (execSetEndpointId eid s) :=
  .next (h.asTarget fun _ hs' => .ite hs'.send hs'.frame.send)

theorem ResKept.execGetEndpointId (h : Kept s₀ s) : ResKept s₀ (execGetEndpointId s) := .next (h.asTarget fun _ hs' => hs'.send)

theorem ResKept.execGetMctpVersionSupport {ty : ℕ} (h : Kept s₀ s) : ResKept s₀ (execGetMctpVersionSupport ty s) :=
  .next (h.asTarget fun _ hs' => .ite hs'.send hs'.send)

theorem ResKept.execGetMessageTypeSupport (h : Kept s₀ s) : ResKept s₀ (execGetMessageTypeSupport s) :=
  .next (h.asTarget fun _ hs' => hs'.send)

/-! ## Memory (R370) -/

theorem Kept.tellPiece {c : RedCtx} {p : ℕ} (h : Kept s₀ s) : Kept s₀ (tellPiece s c p) := h.tellRead.tellRead

/-! ## Contexts -/

theorem Kept.setCtx {c : RedCtx} (h : Kept s₀ s) : Kept s₀ (setCtx s c) := h.frame

theorem Kept.sendRed {redid dst : ℕ} {payload : List Byte} (h : Kept s₀ s) : Kept s₀ (sendRed s redid dst payload) := h.postPkt

theorem Kept.sendPiece {c : RedCtx} {e : RedOut} (h : Kept s₀ s) : Kept s₀ (sendPiece s c e) := by
  unfold Machine.sendPiece
  extract_lets s'
  have hs' : Kept s₀ s' := h.bump
  refine .ite hs'.sendRed ?_
  split
  · exact hs'.sendRed
  · exact hs'.sendRed.bump

theorem Kept.consumed {c : RedCtx} {stream : ℕ} (h : Kept s₀ s) : Kept s₀ (consumed s c stream).1 := by
  unfold Machine.consumed
  extract_lets n c' upward dst
  exact .ite h.redCtrl h

/-! ## One thing a context can do -/

theorem Kept.onRead {α : Type} {c : RedCtx} {r : RedRead α} {go : α → State} (h : Kept s₀ s) (hgo : ∀ (a : α), Kept s₀ (go a)) :
    OptKept s₀ (onRead s c r go) := by
  unfold Machine.onRead
  split
  next x' => exact .some (hgo x')
  · exact .none
  · exact .some h.failCtx

theorem Kept.redFlush {c : RedCtx} (h : Kept s₀ s) : OptKept s₀ (redFlush s c) := by
  unfold Machine.redFlush
  split
  · exact .none
  · extract_lets c'
    exact .some h.setCtx.sendPiece

theorem Kept.tellBlocks {c : RedCtx} {bs : List ℕ} (h : Kept s₀ s) : Kept s₀ (tellBlocks s c bs) :=
  h.foldl fun _ _ ht => ht.tellRead

theorem Kept.takeAgreeUp {c : RedCtx} {k : Pkt} (h : Kept s₀ s) : OptKept s₀ (takeAgreeUp s c k) := by
  unfold Machine.takeAgreeUp
  extract_lets p bs s' r
  have hs' : Kept s₀ s' := h.tellBlocks
  have hr : Kept s₀ r.1 := hs'.consumed
  exact h.onRead fun _ => hr.setCtx

theorem Kept.takeAgreeDown {c : RedCtx} {k : Pkt} (h : Kept s₀ s) : OptKept s₀ (takeAgreeDown s c k) := by
  unfold Machine.takeAgreeDown
  extract_lets p bs es r
  have hr : Kept s₀ r.1 := h.consumed
  exact .some hr.setCtx

theorem Kept.takeReduce {c : RedCtx} {k : Pkt} (h : Kept s₀ s) : OptKept s₀ (takeReduce s c k) := by
  unfold Machine.takeReduce
  extract_lets p s'
  have hs' : Kept s₀ s' := h.tellPiece
  exact h.onRead fun _ => hs'.bump.consumed.setCtx

theorem Kept.writePiece {c : RedCtx} {p : ℕ} {own tot : RedPiece} (h : Kept s₀ s) (e : writePiece s c p own tot = .ok t) :
    Kept s₀ t := by
  unfold Machine.writePiece at e
  split at e
  · cases e
  · cases e
  · extract_lets s1 o row ts new s2 at e
    have hs2 : Kept s₀ s2 := h.tellPiece.writeLocal
    split at e
    · injection e with e
      exact e ▸ hs2
    · split at e
      · cases e
        exact (Kept.ite hs2.bump hs2).writeLocal
      · cases e
      · cases e

/-- What follows a read that answered keeps it; a failed read fails the context. -/
theorem Kept.onRead_of {α : Type} {c : RedCtx} {r : RedRead α} {go : α → State} (h : Kept s₀ s)
    (hgo : ∀ x, r = .ok x → Kept s₀ (go x)) : OptKept s₀ (Machine.onRead s c r go) := by
  unfold Machine.onRead
  split
  · exact .some (hgo _ rfl)
  · exact .none
  · exact .some h.failCtx

theorem Kept.takeResult {c : RedCtx} {k : Pkt} (h : Kept s₀ s) : OptKept s₀ (takeResult s c k) :=
  h.onRead_of fun _ hx => (h.writePiece hx).consumed.setCtx

theorem Kept.takeCheck {c : RedCtx} {k : Pkt} (h : Kept s₀ s) : OptKept s₀ (takeCheck s c k) := by
  unfold Machine.takeCheck
  extract_lets bs vs own r src
  have hr : Kept s₀ r.1 := h.consumed
  exact .ite .none (.some hr.setCtx)

theorem Kept.redTake {c : RedCtx} {stream : ℕ} (h : Kept s₀ s) : OptKept s₀ (redTake s c stream) := by
  unfold Machine.redTake
  split
  · exact .none
  · split
    · exact h.takeAgreeUp
    · exact h.takeAgreeDown
    · exact h.takeReduce
    · exact h.takeResult
    · exact h.takeCheck

theorem Kept.redAgree {c : RedCtx} (h : Kept s₀ s) : OptKept s₀ (redAgree s c) :=
  .ite (h.onRead fun _ => h.tellBlocks.setCtx) .none

theorem Kept.redStart {c : RedCtx} (h : Kept s₀ s) : OptKept s₀ (redStart s c) := by
  refine .ite .none (.ite (h.onRead fun _ => ?_) (.ite (h.onRead fun _ => h.tellPiece.bump.setCtx) .none))
  split
  next hx => exact (h.writePiece hx).setCtx
  · exact h

theorem Kept.redTurn {c : RedCtx} (h : Kept s₀ s) : OptKept s₀ (redTurn s c) :=
  .ite .none (h.onRead_of fun _ hx => (h.writePiece hx).bump.bump32.setCtx)

theorem Kept.redMismatch {c : RedCtx} (h : Kept s₀ s) : Kept s₀ (redMismatch s c) := by
  unfold Machine.redMismatch
  exact h.almFull.recordError

theorem Kept.redFinish {c : RedCtx} (h : Kept s₀ s) : OptKept s₀ (redFinish s c) := by
  refine .ite .none (.ite ?_ ?_)
  · extract_lets st s'
    have hs' : Kept s₀ s' := .ite h h.redMismatch
    exact .some ((Kept.ite hs' hs'.redCtrl).endCtx)
  · split
    · exact .none
    · exact .some ((Kept.ite h h.redCtrl).endCtx)

theorem OptKept.orElse {o : Option State} {f : Unit → Option State} (h : OptKept s₀ o) (hf : OptKept s₀ (f ())) :
    OptKept s₀ (o.orElse f) := by
  cases o with
  | none => exact hf
  | some s => exact h

theorem Kept.redOne {c : RedCtx} (h : Kept s₀ s) : OptKept s₀ (redOne s c) :=
  .orElse h.redFlush <| .orElse h.redTake <| .orElse h.redTake <| .orElse h.redTake <| .orElse h.redTake <|
    .orElse h.redTake <| .orElse h.redAgree <| .orElse h.redStart <| .orElse h.redTurn h.redFinish

theorem Kept.redRun {n id : ℕ} (h : Kept s₀ s) : Kept s₀ (redRun n id s) := by
  induction n generalizing s with
  | zero => exact h
  | succ n ih =>
    unfold Machine.redRun
    split
    · exact h
    · split
      · exact h
      next hu => exact ih (h.redOne _ hu)

theorem Kept.redProgress {id : ℕ} (h : Kept s₀ s) : Kept s₀ (redProgress s id) := h.redRun.markReady

/-! ## REDUCE (R366-R371) -/

theorem Kept.takeJoin {c : RedCtx} {src : ℕ} {body : List Byte} (h : Kept s₀ s) : Kept s₀ (takeJoin s c src body) :=
  .ite h.frame (.ite (.ite h.setCtx.redProgress h) h.failCtx.redCtrl)

theorem Kept.meetJoins {id : ℕ} (h : Kept s₀ s) : Kept s₀ (meetJoins s id) := by
  unfold Machine.meetJoins
  extract_lets mine src
  refine .foldl h.frame fun t x ht => ?_
  split
  · exact ht.takeJoin
  · exact ht

theorem Kept.startCtx {w : Work} (h : Kept s₀ s) : Kept s₀ (startCtx s w) := by
  unfold Machine.startCtx
  extract_lets id p src src' s' c src1 s1 s2
  have hp : Kept s₀ p.1 := h.started
  have hsrc : Kept s₀ src := hp
  have hs' : Kept s₀ s' := hsrc.frame
  have hs1 : Kept s₀ s1 := hs'.frame
  have hs2 : Kept s₀ s2 := .ite hs1 hs1.redCtrl
  refine .ite hs'.failCtx ?_
  split
  · exact hs'.frame.failCtx
  · exact hs2.meetJoins.redProgress

theorem Kept.tryReduce {w : Work} (h : Kept s₀ s) : Kept s₀ (tryReduce s w) := by
  unfold Machine.tryReduce
  split
  · exact h.decide_
  · exact .ite h.decide_.bump (.ite h h.startCtx)

theorem Kept.reachReduce {w : Work} (h : Kept s₀ s) : Kept s₀ (reachReduce s w) := h.frame.setWork.tryReduce

theorem ResKept.execReduce {r : WRef} {t : ℕ} (h : Kept s₀ s) : ResKept s₀ (execReduce r t s) := by
  refine .next ?_
  split
  · exact h
  · refine .ite h ?_
    split
    · split
      · exact h.atTime.redProgress
      · exact h
    · refine .ite ?_ h
      refine .ite h.atTime.tryReduce.markReady ?_
      extract_lets st
      refine .ite h.setWork ?_
      split
      · exact h
      next heq2 => exact (h.atTime.markReady.issue _ heq2).reachReduce
    · exact h

/-! ## Packets (R373, R374, R378, R381, R384) -/

theorem Kept.setRelay {r : Relay} (h : Kept s₀ s) : Kept s₀ (setRelay s r) := h.frame

theorem Kept.relayPump {redid origin n : ℕ} {hop : Bool × ℕ × ℕ}
  (h : Kept s₀ s) : Kept s₀ (relayPump redid origin hop n s) := by
  induction n generalizing s with
  | zero => exact h
  | succ n ih =>
    unfold Machine.relayPump
    split
    · exact h
    · split
      · exact h
      · exact .ite (ih (.ite h.setRelay.bump.sendRed.redCtrl h.setRelay.bump.sendRed)) h

theorem Kept.relayRed {k : Pkt} (h : Kept s₀ s) : Kept s₀ (relayRed s k) := by
  unfold Machine.relayRed
  extract_lets o
  split
  · exact h
  · exact h.setRelay.relayPump

theorem Kept.relayRefuses {k : Pkt} (h : Kept s₀ s) : Kept s₀ (relayRefuses s k) := h.redCtrl

theorem Kept.onRed {f : Pkt → Bool} {go : State → Pkt → State} {t : ℕ} (hgo : ∀ s, Kept s₀ s → ∀ k, Kept s₀ (go s k))
    (h : Kept s₀ s) : Kept s₀ (onRed f go t s) := by
  refine .ite h ?_
  split
  · exact h
  next he => exact hgo _ (h.takeInbox he).atTime _

theorem ResKept.execRed {t : ℕ} (h : Kept s₀ s) : ResKept s₀ (execRed t s) := by
  refine .next (.onRed ?_ h)
  intro s' hs' x
  refine .ite (.ite hs'.relayRed hs'.relayRefuses) ?_
  split
  · exact hs'
  · exact .ite hs'.failCtx (.ite hs'.failCtx (.ite hs'.failCtx hs'.setCtx.redProgress))

theorem ResKept.execRedJoin {t : ℕ} (h : Kept s₀ s) : ResKept s₀ (execRedJoin t s) := by
  refine .next (.onRed ?_ h)
  intro s' hs' x
  extract_lets id src
  split
  · exact hs'.takeJoin
  · exact hs'.frame

theorem Kept.relayCredit {redid origin count : ℕ} {hop : Bool × ℕ × ℕ} (h : Kept s₀ s) :
    Kept s₀ (relayCredit s redid origin count hop) := by
  unfold Machine.relayCredit
  split
  · exact h
  · exact h.setRelay.relayPump

theorem ResKept.execRedCredit {t : ℕ} (h : Kept s₀ s) : ResKept s₀ (execRedCredit t s) := by
  refine .next (.onRed ?_ h)
  intro s' hs' x
  extract_lets id stream count origin
  split
  · exact hs'.relayCredit
  · exact hs'
  · exact hs'.setCtx.redProgress

theorem ResKept.execRedEnd {t : ℕ} (h : Kept s₀ s) : ResKept s₀ (execRedEnd t s) := by
  refine .next (.onRed ?_ h)
  intro s' hs' x
  split
  · exact hs'
  · exact .ite hs'.setCtx.redProgress hs'

theorem ResKept.execRedAbort {t : ℕ} (h : Kept s₀ s) : ResKept s₀ (execRedAbort t s) := by
  refine .next (.onRed ?_ h)
  intro s' hs' x
  extract_lets id step st old src
  split
  · exact hs'.failCtx.markReady
  · exact .ite hs' hs'.frame

theorem ResKept.execRedAbortExpiry {redid t : ℕ} (h : Kept s₀ s) : ResKept s₀ (execRedAbortExpiry redid t s) := by
  refine .next ?_
  split
  · exact .ite (Kept.frame (s := atTime s t) h.atTime) h
  · exact h

theorem ResKept.execRedWatchdog {i t : ℕ} (h : Kept s₀ s) : ResKept s₀ (execRedWatchdog i t s) := by
  refine .next ?_
  split
  · exact h
  · exact .ite h.atTime.bump32.almFull.failCtx.markReady h

/-! ## Membership (R386, R387) -/

theorem Kept.fenceRed {m : ℕ} (h : Kept s₀ s) : Kept s₀ (fenceRed s m) := h.foldl fun _ _ ht => ht.failCtx

theorem Kept.fenceModule {m v : ℕ} (h : Kept s₀ s) : OptKept s₀ (fenceModule s m v) := (Kept.ite h h.fenceRed).fabFence

theorem Kept.cancelRed (h : Kept s₀ s) : Kept s₀ (cancelRed s) := h.foldl fun _ _ ht => ht.failCtx

/-! ## Reads -/

theorem Kept.readMbx {m : ℕ} {e : EntryD} {c off len : ℕ} (h : Kept s₀ s) : Kept s₀ (readMbx s m e c off len).1 := by
  refine .ite_fst ?_ ?_
  · extract_lets r
    have hr : Kept s₀ r.1 := h.mbxLock
    exact hr
  · exact .ite_fst h h.denied

theorem Kept.readEntry {m : ℕ} {e : EntryD} {k off len : ℕ} (h : Kept s₀ s) : Kept s₀ (readEntry s m e k off len).1 := by
  unfold Machine.readEntry
  extract_lets i r r'
  have hr' : Kept s₀ r'.1 := h.readMbx
  refine .ite_fst h (.ite_fst h ?_)
  refine .ite_fst h (.ite_fst h ?_)
  exact .ite_fst h (.ite_fst hr' h)

/-! ## Values that are refused (R433 check 8) -/

theorem Kept.onBadValue {e : EntryD} {m v : ℕ} (h : Kept s₀ s) : Kept s₀ (onBadValue s e m v) := .ite h.weir (.ite h.weir h)

theorem Kept.onNoRight {e : EntryD} {m v : ℕ} (h : Kept s₀ s) : Kept s₀ (onNoRight s e m v) :=
  .ite h (.ite h.weir (.ite h.weir h))

/-! ## What accepted writes do -/

theorem Kept.clearKeys {rs : List (ℕ × ℕ)} (h : Kept s₀ s) : Kept s₀ (clearKeys s rs) := h.dropEntries

theorem Kept.clearSubs {lo hi a b : ℕ} (h : Kept s₀ s) : Kept s₀ (clearSubs s lo hi a b) := h.dropEntries

theorem Kept.counterClear {b : ℕ} (h : Kept s₀ s) : OptKept s₀ (counterClear s b) := by
  refine .ite (.some h.clearKeys) (.ite (.some h.clearKeys) ?_)
  refine .ite (.some h.clearKeys) (.ite (.some h.clearKeys) ?_)
  refine .ite (.some h.clearKeys) (.ite (.some h.clearKeys) ?_)
  refine .ite (.some h.clearKeys.clearSubs) (.ite (.some h.clearKeys) ?_)
  exact .ite (.some h.clearKeys) (.ite (.some h.clearKeys) (.ite (.some h.clearKeys) (.ite (.some h.clearKeys.clearSubs) (.ite
    (.some h.clearKeys) .none))))

theorem Kept.writeLink {p v : ℕ} (h : Kept s₀ s) : Kept s₀ (writeLink s p v) := .ite h.setReg.setLink h.setReg

theorem Kept.writeSvn {m v : ℕ} (h : Kept s₀ s) : Kept s₀ (writeSvn s m v) := (Kept.ite h.frame h).almFull

/-- A key revoked stays revoked when another is. -/
theorem bit_or_of_bit {a b n : ℕ} (h : bit a n = true) : bit (a ||| b) n = true := by
  rw [bit, ← Nat.testBit_eq_decide_div_mod_eq] at h ⊢
  rw [Nat.testBit_or, h, Bool.true_or]

theorem Kept.writeRevoke {m v : ℕ} (h : Kept s₀ s) : Kept s₀ (writeRevoke s m v) :=
  .almFull (h.of_parts rfl List.prefix_rfl le_rfl (Boot.svn_congr rfl).ge (fun _ => bit_or_of_bit) id id id)

theorem Kept.writeMark {m v : ℕ} (h : Kept s₀ s) : Kept s₀ (writeMark s m v) := .ite h.almFull (.ite h.weir h.frame.almFull)

theorem Kept.accept {e : EntryD} {k : ℕ} (h : Kept s₀ s) : Kept s₀ (accept s e k) := by
  unfold Machine.accept
  extract_lets s' src s1
  have hs' : Kept s₀ s' := h.setReg
  have hs1 : Kept s₀ s1 := .ite hs'.frame hs'
  exact hs1.markReady

/-- The same of a write's own answer. -/
def ActKept (s₀ : State) : Acted → Prop
  | .inUse t => Kept s₀ t
  | .done t => Kept s₀ t

theorem ActKept.ite {c : Prop} [Decidable c] {x y : Acted} (h : ActKept s₀ x) (h' : ActKept s₀ y) :
    ActKept s₀ (if c then x else y) := by
  split <;> assumption

theorem ActKept.inUse (h : Kept s₀ s) : ActKept s₀ (.inUse s) := h

theorem ActKept.done (h : Kept s₀ s) : ActKept s₀ (.done s) := h

theorem ActKept.unlessUsed {used : Bool} (h : Kept s₀ s) (h' : Kept s₀ t) : ActKept s₀ (unlessUsed used s t) :=
  .ite (.inUse h) (.done h')

theorem ActKept.orInUse {o : Option State} (h : Kept s₀ s) (h' : OptKept s₀ o) : ActKept s₀ (orInUse s o) := by
  cases o with
  | none => exact h
  | some t => exact h' t rfl

theorem ActKept.writeHotMib {v : ℕ} (h : Kept s₀ s) : ActKept s₀ (writeHotMib s v) :=
  .ite (.inUse h) (.ite (.inUse h) (.ite (.inUse h) (.done (Kept.setReg h.frame))))

theorem ActKept.writePinWays {v : ℕ} (h : Kept s₀ s) : ActKept s₀ (writePinWays s v) :=
  .ite (.inUse h) (.ite (.inUse h) (.done (Kept.setReg h.frame)))

theorem ActKept.writePower {m v : ℕ} (h : Kept s₀ s) : ActKept s₀ (writePower s m v) := by
  refine .ite (.ite (.done h.raiseWake) (.inUse h)) ?_
  extract_lets x u
  have hu : Kept s₀ u := by
    unfold u x
    exact .ite_snd h.wakeLow h
  clear_value u
  exact .ite (.inUse hu) (.ite (.inUse (.ite hu (Kept.almFull hu.frame))) (.done hu.requestPower))

theorem ActKept.writeClock {v : ℕ} (h : Kept s₀ s) : ActKept s₀ (writeClock s v) :=
  .ite (.inUse h) (.done (.ite h.setReg.lockReference h.setReg))

theorem ActKept.writeFabric {v : ℕ} (h : Kept s₀ s) : ActKept s₀ (writeFabric s v) := by
  unfold Machine.writeFabric
  split
  · exact .orInUse h (Kept.ite h.cancelRed h).drainFabric
  · exact .orInUse h h.cutover
  · exact .orInUse h h.resumeFabric
  · exact .done h.isolateFabric

theorem ActKept.writeApt {a v : ℕ} (h : Kept s₀ s) : ActKept s₀ (writeApt s a v) := by
  unfold Machine.writeApt
  extract_lets r
  have hr : Kept s₀ r.2 := .ite_snd h.bindApt h.unbindApt
  exact .ite (.done hr) (.inUse h)

theorem ActKept.writeImage {m off : ℕ} {data : List Byte} (h : Kept s₀ s) : ActKept s₀ (writeImage s m off data) := by
  unfold Machine.writeImage
  extract_lets b src u src' u'
  refine .ite (.inUse h) ?_
  have hu : Kept s₀ u := .ite h (Kept.setReg h.frame).setReg.setReg
  clear_value u
  exact .done (Kept.setReg hu.frame)

theorem ActKept.writeBoot {m v : ℕ} (h : Kept s₀ s) : ActKept s₀ (writeBoot s m v) := by
  unfold Machine.writeBoot
  extract_lets b
  split
  · exact .unlessUsed h h.setReg
  · exact .unlessUsed h h.discardImage
  · exact .unlessUsed h (Kept.setReg h.frame).setReg

theorem ActKept.writeFreeze {v : ℕ} (h : Kept s₀ s) : ActKept s₀ (writeFreeze s v) :=
  .ite (.done h.freeze) (.ite (.done h.thaw) (.inUse h.thaw))

theorem ActKept.writeReadout (h : Kept s₀ s) : ActKept s₀ (writeReadout s) :=
  .unlessUsed h (Kept.setReg h.frame).setReg.setReg

theorem ActKept.actWrite {m i k off : ℕ} {e : EntryD} {data : List Byte} (h : Kept s₀ s) :
    ActKept s₀ (actWrite s m e i k off data) := by
  unfold Machine.actWrite
  extract_lets b v
  split
  next hc => exact .done (h.counterClear _ hc)
  · exact .ite (.ite (.orInUse h h.enableQueue) (.done h.disableQueue)) <| .ite (.unlessUsed h h.setReg) <|
      .ite (.done h.abortQueue) <| .ite (.done (.ite h.setReg h)) <| .ite (.unlessUsed h h.setReg) <|
      .ite (.unlessUsed h h.setReg) <| .ite (.writeHotMib h) <| .ite (.writePinWays h) <| .ite (.writePower h) <|
      .ite (.writeClock h) <| .ite (.unlessUsed h h.setReg) <| .ite (.writeFabric h) <| .ite (.orInUse h h.fenceModule) <|
      .ite (.done h.writeLink) <| .ite (.unlessUsed h h.setReg) <| .ite (.writeApt h) <| .ite (.unlessUsed h h.setReg) <|
      .ite (.done h.setReg) <| .ite (.done h.mbxControl) <| .ite (.done h.mbxWriteLen) <| .ite (.done h.mbxWriteBuf) <|
      .ite (.writeImage h) <| .ite (.writeBoot h) <| .ite (.done h.writeSvn) <| .ite (.done h.writeRevoke) <|
      .ite (.done h.writeMark) <| .ite (.done h.releaseErrors.releaseMulticast) <| .ite (.writeFreeze h) <|
      .ite (.writeReadout h) <| .ite (.done h.setReg) (.done h.setReg)

theorem Kept.writeEntry {m : ℕ} {e : EntryD} {k off : ℕ} {data : List Byte} {cond : Option ℕ} (h : Kept s₀ s) :
    Kept s₀ (writeEntry s m e k off data cond).1 := by
  refine .ite_fst h (.ite_fst h.onNoRight (.ite_fst h (.ite_fst h (.ite_fst h (.ite_fst h.onBadValue ?_)))))
  have hact := ActKept.actWrite (m := m) (i := (k - e.base) / e.stride) (k := k) (off := off) (e := e) (data := data) h
  split
  next ha => exact (ha ▸ hact : ActKept s₀ (.inUse _))
  next ha => exact .ite_fst h (Kept.accept (ha ▸ hact : ActKept s₀ (.done _)))

/-! ## Items and messages (R430-R434, R535) -/

theorem Kept.execItem {m : ℕ} {x : Item} (h : Kept s₀ s) : Kept s₀ (execItem s m x).1 := by
  refine .ite_fst h (.ite_fst ?_ ?_)
  · refine .ite_fst h ?_
    split
    · exact h
    · exact h
  · refine .ite_fst ?_ ?_
    · exact .ite_fst h (.ite_fst (.ite_fst h h) h)
    · split
      · exact h
      · refine .ite_fst ?_ ?_
        · exact .ite_fst h h
        · refine .ite_fst h.readEntry ?_
          extract_lets r
          have hr : Kept s₀ r.1 := h.writeEntry
          exact hr

theorem Kept.noteRefusal {m : ℕ} {x : Item} {code : ℕ} (h : Kept s₀ s) : Kept s₀ (noteRefusal s m x code) := .ite h.bump.setReg h

theorem Kept.execItems {m : ℕ} {stop failed : Bool} {xs : List Item}
    (h : Kept s₀ s) : Kept s₀ (execItems m stop xs failed s).1 := by
  induction xs generalizing failed s with
  | nil => exact h
  | cons x xs ih =>
    refine ih (.noteRefusal ?_)
    exact .ite_fst h h.execItem

theorem Kept.serveMessage {m limit : ℕ} {msg : List Byte} (h : Kept s₀ s) : Kept s₀ (serveMessage s m limit msg).1 := by
  unfold Machine.serveMessage
  extract_lets stop seq
  split
  · exact h.bump
  · extract_lets r
    have hr : Kept s₀ r.1 := h.bump.execItems
    exact hr

/-! ## Transports (R435-R440) -/

theorem Kept.bufferFrame {go : State → State} (h : Kept s₀ s) (hgo : ∀ a, Kept s₀ a → Kept s₀ (go a)) :
    Kept s₀ (bufferFrame s go) := by
  unfold Machine.bufferFrame
  extract_lets x src src'
  have hx : Kept s₀ x.2 := h.drawFree
  have hsrc : Kept s₀ src := hx
  split
  · exact hx.bump
  · exact hgo _ hsrc.frame

theorem Kept.bufferMessage {go : State → State} (h : Kept s₀ s) (hgo : ∀ a, Kept s₀ a → Kept s₀ (go a)) :
    Kept s₀ (bufferMessage s go) := by
  unfold Machine.bufferMessage
  extract_lets x src src'
  have hx : Kept s₀ x.2 := h.drawFree
  have hsrc : Kept s₀ src := hx
  split
  · exact hx.bump
  · exact hgo _ hsrc.frame

theorem Kept.serveMctp {msg : List Byte} (h : Kept s₀ s) : Kept s₀ (serveMctp s msg) :=
  .ite h (h.bufferMessage fun _ hs' => hs'.serveMessage.send)

theorem Kept.serveFrame {frame : List Byte} (h : Kept s₀ s) : Kept s₀ (serveFrame s frame) := by
  refine .ite h (.ite h.bump (h.bufferFrame fun _ hu => ?_))
  extract_lets src u1 rest keep r
  have hu1 : Kept s₀ u1 := hu.frame
  have hkeep {v : State} (hv : Kept s₀ v) (seq : ℕ) (resp : List Byte) : Kept s₀ (keep v seq resp) := Kept.send hv.frame
  split
  · exact hkeep hu1.bump _ _
  · exact hkeep hu1.serveMessage _ _

theorem ResKept.execDictMessage {src : DictSrc} {msg : List Byte} {t : ℕ} (h : Kept s₀ s) :
    ResKept s₀ (execDictMessage src msg t s) := by
  unfold Machine.execDictMessage
  extract_lets go s'
  have hs' : Kept s₀ s' := h.atTime
  refine .next (.ite h ?_)
  split
  · exact hs'.primary fun _ hs1 => hs1.serveMessage.send
  · exact hs'.serveMctp
  · exact .ite hs'.serveMessage.send hs'
  · exact hs'.serveFrame

/-! ## The primary mailbox by its registers (R406; layout and codes of CXL 3.1, logs 51, 146) -/

theorem Kept.mailboxCommand {op : ℕ} {pl : List Byte} (h : Kept s₀ s) : Kept s₀ (mailboxCommand s op pl).1 := by
  unfold Machine.mailboxCommand
  split
  · exact h
  · exact .ite_fst h.setStamp h
  · exact h
  · exact .ite_fst h (.ite_fst h h)
  · extract_lets r
    have hr : Kept s₀ r.1 := h.serveMessage
    exact hr
  · exact h

theorem Kept.setPayload {bs : List Byte} (h : Kept s₀ s) : Kept s₀ (setPayload s bs) := h.foldl fun _ _ ht => ht.setDev

theorem Kept.runMailbox (h : Kept s₀ s) : Kept s₀ (runMailbox s) := by
  unfold Machine.runMailbox
  extract_lets op len r n s' s1
  have hr : Kept s₀ r.1 := h.mailboxCommand
  have hs' : Kept s₀ s' := hr.setDev.setPayload
  have hs1 : Kept s₀ s1 := hs'.setDev.setDev
  exact hs1.setDev.send

/-! ## Accesses (R395) -/

theorem Kept.devAccess {o : ℕ} {wr : Option ℕ} (h : Kept s₀ s) : Kept s₀ (devAccess s o wr) := by
  refine .ite h.ignoreAccess ?_
  split
  · exact h.send
  · exact .ite h.setDev.runMailbox h.setDev

theorem Kept.msixAccess {w : ℕ} {wr : Option ℕ} (h : Kept s₀ s) : Kept s₀ (msixAccess s w wr) := by
  unfold Machine.msixAccess
  split
  · exact h.send
  · exact h.writeMsix

theorem Kept.pbaAccess {i : ℕ} {wr : Option ℕ} (h : Kept s₀ s) : Kept s₀ (pbaAccess s i wr) := .ite h.ignoreAccess h.send

theorem Kept.bar0Access {o : ℕ} {wr : Option ℕ} (h : Kept s₀ s) : Kept s₀ (bar0Access s o wr) :=
  .ite h.bellAccess (.ite h.devAccess (.ite h.msixAccess (.ite h.pbaAccess (.ite h.chanAccess h.ignoreAccess))))

theorem ResKept.execIgnoredRegisterAccess {off bytes : ℕ} {op : RegOp} (h : Kept s₀ s) :
    ResKept s₀ (execIgnoredRegisterAccess off bytes op s) :=
  .next (h.atTime.bar0 fun _ hs' => .ite hs'.ignoreAccess hs'.bar0Access)

theorem EngKept.entryAt {h n i : ℕ} : EngKept s₀ (entryAt h n i) :=
  .getS_bind fun _ _ => .get_bind fun _ _ => .bind .require fun _ => .rdNat

theorem EngKept.row {g : Machine.Graph} {n : ℕ} : EngKept s₀ (g.row n) :=
  .bind .require fun _ => .bind .entryAt fun _ => .bind .entryAt fun _ => .bind .require fun _ => .pure

theorem EngKept.neighbour {g : Machine.Graph} {e : ℕ} : EngKept s₀ (g.neighbour e) :=
  .bind .entryAt fun _ => .bind .require fun _ => .pure

theorem EngKept.cum {g : Machine.Graph} {o e : ℕ} : EngKept s₀ (g.cum o e) := by
  unfold Machine.Graph.cum
  refine .bind .entryAt fun _ => ?_
  extract_lets go
  have hgo : ∀ (x : Unit), EngKept s₀ (go x) := fun _ => .pure
  exact .ite (.bind .entryAt fun _ => .bind .require fun _ => hgo ()) (hgo ())

/-! ## Modes (R196-R200) -/

theorem EngKept.searchCum {g : Graph} {o target n lo hi : ℕ} : EngKept s₀ (searchCum g o target n lo hi) := by
  induction n generalizing lo hi with
  | zero => exact .pure
  | succ n ih => exact .ite .pure (.bind .cum fun _ => .ite ih ih)

theorem EngKept.choose {g : Machine.Graph} {mode f : ℕ} {k : DrawKey} {o d : ℕ} : EngKept s₀ (choose g mode f k o d) := by
  unfold Machine.choose
  split
  · exact .ite .pure .pure
  · extract_lets go
    have hgo : ∀ (x : ℕ), EngKept s₀ (go x) := fun _ => .ite .pure (.bind (.mapDo fun _ => .searchCum) fun _ => .pure)
    exact .ite (.bind .pure fun a => hgo a) (.bind .cum fun a => hgo a)
  · exact .bind (.mapDo fun _ => .entryAt) fun _ => .pure
  · extract_lets go
    have hgo : ∀ (x : Unit), EngKept s₀ (go x) := fun _ => .pure
    exact .ite (.bind .addEvents fun _ => hgo ()) (hgo ())

/-! ## SAMPLE (R193-R195, R201-R203) -/

theorem EngKept.writeSlots {path base l first : ℕ} {rs : List (ℕ × ℕ × ℕ)} : EngKept s₀ (writeSlots path base l first rs) :=
  .bind .wrH fun _ => .bind .wrH fun _ => .wrH

theorem EngKept.sampleParent {g : Machine.Graph} {mode f : ℕ} {k : DrawKey} {path base l node dsp : ℕ} :
    EngKept s₀ (sampleParent g mode f k path base l node dsp) := by
  refine .bind ?_ (fun _ => .bind .writeSlots fun _ => .modS fun _ hs => hs.bump)
  refine .ite .pure (.bind .row fun _ => .bind .choose fun _ => ?_)
  refine .bind (.modS fun _ hs => hs.bump) fun _ => .mapDo fun x => .bind .neighbour fun _ => ?_
  extract_lets go
  have hgo : ∀ (x : ℕ), EngKept s₀ (go x) := fun _ => .pure
  exact .ite (.bind .entryAt fun a3 => hgo a3) (.bind .pure fun a3 => hgo a3)

theorem EngKept.sampleHops {g : Graph} {w : Work} {key : DrawKey} {path hop frontier lo n : ℕ} {ls : List (ℕ × ℕ × ℕ)} :
    EngKept s₀ (sampleHops g w key path ls hop frontier lo n) := by
  induction ls generalizing hop frontier lo n with
  | nil => exact .pure
  | cons l ls ih => exact .bind (.upTo fun _ => .bind .entryAt fun _ => .sampleParent) fun _ => ih

theorem EngKept.sampleBody : EngKept s₀ sampleBody := by
  refine .get_bind fun _ _ => ?_
  extract_lets w path mode
  refine .bind .require fun _ => .bind .require fun _ => .bind .rdH fun _ => ?_
  extract_lets hops l0 fs ls starts total
  refine .bind .require fun _ => .bind .require fun _ => ?_
  exact .bind .rdH fun _ => .getS_bind fun _ _ => .bind .require fun _ => .bind .require fun _ => .bind .require fun _ =>
    .bind .require fun _ => .sampleHops

theorem ResKept.execSample {r : WRef} (h : Kept s₀ s) : ResKept s₀ (execSample r s) := .next (h.runEngine .sampleBody)

/-! ## PREFIX (R187, R205) -/

theorem EngKept.prefixBody : EngKept s₀ prefixBody := by
  refine .get_bind fun _ _ => ?_
  extract_lets w
  refine .bind .require fun _ => .bind .require fun _ => .bind .rdH fun _ => ?_
  extract_lets g
  refine .getS_bind fun _ _ => .bind .require fun _ => .bind .require fun _ => .bind .require fun _ => ?_
  refine .upTo fun _ => .bind .row fun _ => .bind (.mapDo fun _ => .entryAt) fun _ => ?_
  split
  · exact .stopWith
  · exact .ite .pure .wrH

theorem ResKept.execSmpPrefix {r : WRef} (h : Kept s₀ s) : ResKept s₀ (execSmpPrefix r s) := .next (h.runEngine .prefixBody)

/-! ## COMPACT (R206) -/

theorem EngKept.compactBody : EngKept s₀ compactBody := by
  refine .get_bind fun _ _ => ?_
  extract_lets w n ins outs meet
  refine .bind .require fun _ => .bind .require fun _ => .bind .require fun _ => .bind (.mapDo fun _ => .rdNat) fun _ => ?_
  extract_lets uniq go
  have hgo : ∀ (x : Unit), EngKept s₀ (go x) := fun _ => .bind .wrH fun _ => .bind .openBytes fun _ => .bind .wrH fun _ =>
    .addEvents
  exact .ite (hgo ()) (.bind .wrH fun _ => hgo ())

theorem ResKept.execCompact {r : WRef} (h : Kept s₀ s) : ResKept s₀ (execCompact r s) := .next (h.runEngine .compactBody)

/-! ## BUILD (R212-R214) -/

theorem EngKept.readSystem {h : ℕ} : EngKept s₀ (readSystem h) := .bind .rdH fun _ => .pure

theorem EngKept.readPlanes {h p n : ℕ} : EngKept s₀ (readPlanes h p n) := .mapDo fun _ => .bind .rdH fun _ => .pure

theorem EngKept.writeCentre {path evec count maxnb s4 i : ℕ} {es : List Edge} :
    EngKept s₀ (writeCentre path evec count maxnb s4 i es) := by
  unfold Machine.writeCentre
  extract_lets es' pad first
  refine .bind (.mapDo fun _ => .openAt) fun _ => .bind .wrH ?_
  exact fun _ => .bind .wrH fun _ => .bind .wrH fun _ => .bind (.eachDo fun _ => .wrH) fun _ => .bind .wrH fun _ =>
    .eachDo fun _ => .eachDo fun _ => .event

theorem EngKept.buildBody : EngKept s₀ buildBody := by
  refine .get_bind fun _ _ => ?_
  extract_lets w maxnb sys rc2 pbc meet
  refine .bind .require fun _ => .bind .require fun _ => .bind .require fun _ => .bind .readSystem fun _ => ?_
  split
  · refine .bind .require fun _ => ?_
    extract_lets plane cell sl s4 outs
    clear_value cell
    split
    · exact .stopWith
    · extract_lets ns ms ms'
      refine .bind .require fun _ => .bind .require fun _ => .getS_bind fun _ _ => .bind .require fun _ =>
        .bind .readPlanes fun _ => ?_
      extract_lets raw pos pts fr bins
      exact .bind .require fun _ => .getS_bind fun _ _ => .bind .require fun _ => .bind .require fun _ =>
        .bind .require fun _ =>
        .bind .wrH fun _ => .bind (.mapDo fun _ => .bind .writeCentre fun _ => .bind .addEvents fun _ =>
          .bind (.modS fun _ hs => hs.bump.bump) fun _ => .pure) fun _ => .require

theorem ResKept.execBuild {r : WRef} (h : Kept s₀ s) : ResKept s₀ (execBuild r s) := .next (h.runEngine .buildBody)

/-! ## EDGE_GRAD and EDGE_DIFF (R215-R217) -/

theorem EngKept.readRadius {w : Work} : EngKept s₀ (readRadius w) :=
  .getS_bind fun _ _ => .bind .require fun _ => .bind .require fun _ => .bind .rdH fun _ => .bind .require fun _ => .pure

theorem EngKept.readSlot {path s4 k : ℕ} : EngKept s₀ (readSlot path s4 k) :=
  .bind .rdNat fun _ => .bind .rdNat fun _ => .bind .rdNat fun _ => .pure

theorem EngKept.sendProduct {obj elem : ℕ} {n : ℤ} {g : ℕ} : EngKept s₀ (sendProduct obj elem n g) := by
  unfold Machine.sendProduct
  split
  · exact .sendAddend
  · exact .sendAddend
  · exact .sendAddend

theorem EngKept.edgeGradBody : EngKept s₀ edgeGradBody := by
  refine .get_bind fun _ _ => ?_
  extract_lets w cg
  refine .bind .readRadius fun a => ?_
  split
  · refine .getS_bind fun _ _ => ?_
    extract_lets fo co
    refine .bind .require fun a => .bind .require fun _ => .bind .require fun _ => .upTo fun _ => ?_
    extract_lets slot
    refine .bind .readSlot fun a2 => ?_
    split
    · exact .pure
    · refine .bind .addEvents fun a2 => ?_
      exact .eachDo fun _ => .bind .rdNat fun _ => .bind .sendAddend fun _ => .bind .sendAddend fun _ =>
        .ite (.eachDo fun _ => .ite .pure .sendProduct) .pure

theorem ResKept.execEdgeGrad {r : WRef} (h : Kept s₀ s) : ResKept s₀ (execEdgeGrad r s) := .next (h.runEngine .edgeGradBody)

theorem EngKept.edgeDiffBody : EngKept s₀ edgeDiffBody := by
  refine .get_bind fun _ _ => ?_
  extract_lets w cg md
  refine .bind .readRadius fun a => ?_
  split
  · refine .bind .require fun a => ?_
    extract_lets plane go
    have hgo (x : List ℕ) : EngKept s₀ (go x) := by
      unfold go
      refine .upTo fun _ => ?_
      extract_lets slot
      refine .bind .readSlot fun _ => ?_
      split
      · exact .eachDo fun _ => .wrH
      · exact .eachDo fun _ => .bind .entryAt fun _ => .bind .entryAt fun _ => .bind .openAt fun _ => .bind .event fun _ => .wrH
    refine .getS_bind fun _ _ => .bind .require ?_
    exact fun _ => .bind .require fun _ => .bind .require fun _ => .ite (.bind (.mapDo fun _ => .rdNat) fun a3 =>
      hgo a3) (.bind .pure fun a3 => hgo a3)

theorem ResKept.execEdgeDiff {r : WRef} (h : Kept s₀ s) : ResKept s₀ (execEdgeDiff r s) := .next (h.runEngine .edgeDiffBody)

/-! ## Floating arithmetic (R124) -/

theorem ResKept.execFadd {tile : ℕ} (h : Kept s₀ s) : ResKept s₀ (execFadd tile s) := .next h.vecPure

theorem ResKept.execFsub {tile : ℕ} (h : Kept s₀ s) : ResKept s₀ (execFsub tile s) := .next h.vecPure

theorem ResKept.execFmul {tile : ℕ} (h : Kept s₀ s) : ResKept s₀ (execFmul tile s) := .next h.vecPure

theorem ResKept.execFma {tile : ℕ} (h : Kept s₀ s) : ResKept s₀ (execFma tile s) := .next h.vecPure

theorem ResKept.execFnma {tile : ℕ} (h : Kept s₀ s) : ResKept s₀ (execFnma tile s) := .next h.vecPure

theorem ResKept.execFms {tile : ℕ} (h : Kept s₀ s) : ResKept s₀ (execFms tile s) := .next h.vecPure

theorem ResKept.execFabs {tile : ℕ} (h : Kept s₀ s) : ResKept s₀ (execFabs tile s) := .next h.vecPure

theorem ResKept.execFneg {tile : ℕ} (h : Kept s₀ s) : ResKept s₀ (execFneg tile s) := .next h.vecPure

/-! ## Comparison and selection -/

theorem ResKept.execCmp {tile : ℕ} (h : Kept s₀ s) : ResKept s₀ (execCmp tile s) := .next h.vecPure

theorem ResKept.execSel {tile : ℕ} (h : Kept s₀ s) : ResKept s₀ (execSel tile s) := .next h.vecPure

theorem ResKept.execVMin {tile : ℕ} (h : Kept s₀ s) : ResKept s₀ (execVMin tile s) := .next h.vecPure

theorem ResKept.execVMax {tile : ℕ} (h : Kept s₀ s) : ResKept s₀ (execVMax tile s) := .next h.vecPure

theorem ResKept.execFcls {tile : ℕ} (h : Kept s₀ s) : ResKept s₀ (execFcls tile s) := .next h.vecPure

/-! ## Conversions -/

theorem ResKept.execCvt {tile : ℕ} (h : Kept s₀ s) : ResKept s₀ (execCvt tile s) := .next h.vecPure

theorem ResKept.execCvtx {tile : ℕ} (h : Kept s₀ s) : ResKept s₀ (execCvtx tile s) := .next h.vecPure

theorem ResKept.execXadd {tile : ℕ} (h : Kept s₀ s) : ResKept s₀ (execXadd tile s) := .next h.vecPure

/-! ## Tables and sequences (R126, R127) -/

theorem ResKept.execTlu {tile : ℕ} (h : Kept s₀ s) : ResKept s₀ (execTlu tile s) := .next h.vecPure

theorem ResKept.execFrcp {tile : ℕ} (h : Kept s₀ s) : ResKept s₀ (execFrcp tile s) := .next h.vecPure

theorem ResKept.execFrsq {tile : ℕ} (h : Kept s₀ s) : ResKept s₀ (execFrsq tile s) := .next h.vecPure

theorem ResKept.execFdiv {tile : ℕ} (h : Kept s₀ s) : ResKept s₀ (execFdiv tile s) := .next h.vecPure

theorem ResKept.execFsqrt {tile : ℕ} (h : Kept s₀ s) : ResKept s₀ (execFsqrt tile s) := .next h.vecPure

theorem ResKept.execFexp {tile : ℕ} (h : Kept s₀ s) : ResKept s₀ (execFexp tile s) := .next h.vecPure

theorem ResKept.execFexp2 {tile : ℕ} (h : Kept s₀ s) : ResKept s₀ (execFexp2 tile s) := .next h.vecPure

theorem ResKept.execFlog {tile : ℕ} (h : Kept s₀ s) : ResKept s₀ (execFlog tile s) := .next h.vecPure

theorem ResKept.execFlog2 {tile : ℕ} (h : Kept s₀ s) : ResKept s₀ (execFlog2 tile s) := .next h.vecPure

theorem ResKept.execFsin {tile : ℕ} (h : Kept s₀ s) : ResKept s₀ (execFsin tile s) := .next h.vecPure

theorem ResKept.execFcos {tile : ℕ} (h : Kept s₀ s) : ResKept s₀ (execFcos tile s) := .next h.vecPure

theorem ResKept.execFtanh {tile : ℕ} (h : Kept s₀ s) : ResKept s₀ (execFtanh tile s) := .next h.vecPure

/-! ## Lane-reduce (R75, R128) -/

theorem ResKept.execLred {tile : ℕ} (h : Kept s₀ s) : ResKept s₀ (execLred tile s) := .next h.vecPure

theorem EngKept.takeTurns {n : ℕ} {as : List LaneAcc} : EngKept s₀ (takeTurns n as) :=
  .get_bind fun _ _ => .ite .pure (.eachDo fun _ => .takeTurn)

theorem Kept.sampleSpans {die n : ℕ} {as : List LaneAcc} (h : Kept s₀ s) : Kept s₀ (sampleSpans s die n as) := by
  refine .foldl h fun t x ht => ?_
  extract_lets o
  split
  · exact ht.sampleAccess
  · exact ht

theorem Kept.touchLoads {die n : ℕ} {as : List LaneAcc} (h : Kept s₀ s) : Kept s₀ (touchLoads s die n as) := by
  unfold Machine.touchLoads
  extract_lets ps s' s1
  have hs' : Kept s₀ s' := h.foldl fun _ _ ht => ht.snoopRange
  have hs1 : Kept s₀ s1 := hs'.sampleSpans
  refine .foldl hs1 fun t x ht => .foldl ht fun t' x' ht' => ?_
  split
  · exact ht'.countBytes
  · exact ht'

theorem EngKept.loadVer {x : VRun} : EngKept s₀ x.loadVer := .getS_bind fun _ _ => .ite (.bind .queryVer fun _ => .pure) .pure

theorem EngKept.load {x : VRun} {indexed : Bool} : EngKept s₀ (x.load indexed) := by
  unfold Machine.VRun.load
  extract_lets as
  refine .getS_bind fun _ _ => ?_
  split
  · exact .throw
  · exact .bind .takeTurns fun _ => .bind .loadVer fun _ => .bind (.modS fun _ hs' => hs'.touchLoads) fun _ =>
      .ite .stopWith .pure

theorem ResKept.execLdi {tile : ℕ} (h : Kept s₀ s) : ResKept s₀ (execLdi tile s) := .next (h.vecStep fun _ => .load)

theorem ResKept.execLdx {tile : ℕ} (h : Kept s₀ s) : ResKept s₀ (execLdx tile s) := .next (h.vecStep fun _ => .load)

section
variable {f : Fmt} {n : ℕ} {x : VRun}

theorem Kept.putBytes {p : ℤ × ℕ} {bs : List Byte} (h : Kept s₀ s) (e : putBytes s n p bs = .ok t) : Kept s₀ t := by
  unfold Machine.putBytes at e
  split at e
  · cases e
  · cases e
  next hd =>
    cases e
    exact (h.snoopRange.draftRows hd).writeLocal

theorem Kept.putNibble {p : ℤ × ℕ} {ix v : ℕ} (h : Kept s₀ s) (e : putNibble s n p ix v = .ok t) : Kept s₀ t := by
  unfold Machine.putNibble at e
  split at e
  · cases e
  · exact h.putBytes e

/-- An answer is that of the run it is computed from. -/
theorem exists_of_map_eq_ok {α β : Type} {r : Except Stop α} {g : α → β} {b : β}
    (e : r.map g = .ok b) : ∃ a, r = .ok a ∧ g a = b := by
  cases r with
  | error x => cases e
  | ok a => exact ⟨a, rfl, Except.ok.inj e⟩

theorem Kept.storeLane {a : LaneAcc} {v : Word} {r : State × List Ev} (h : Kept s₀ s) (e : x.storeLane s a v = .ok r) :
    Kept s₀ r.1 := by
  unfold Machine.VRun.storeLane at e
  extract_lets f p c at e
  split at e
  · obtain ⟨u, hu, rfl⟩ := exists_of_map_eq_ok e
    exact h.putBytes hu
  · split at e
    · obtain ⟨u, hu, rfl⟩ := exists_of_map_eq_ok e
      exact h.putNibble hu
    · obtain ⟨u, hu, rfl⟩ := exists_of_map_eq_ok e
      exact h.putBytes hu

theorem Kept.storeLanes {as : List LaneAcc} {r : State × List (ℕ × List Ev)} (h : Kept s₀ s) (e : x.storeLanes as s = .ok r) :
    Kept s₀ r.1 := by
  induction as generalizing s r with
  | nil =>
    cases e
    exact h
  | cons a as ih =>
    unfold Machine.VRun.storeLanes at e
    split at e
    · cases e
    next hl =>
      obtain ⟨q, hq, rfl⟩ := exists_of_map_eq_ok e
      have hq' : Kept s₀ q.1 := ih (h.storeLane hl) hq
      exact hq'

theorem Kept.putMant {a : LaneAcc} {ex : ℕ} {m : ℤ} (h : Kept s₀ s) (e : putMant f s n a ex m = .ok t) : Kept s₀ t := by
  unfold Machine.putMant at e
  split at e
  · cases e
  next hu =>
    dsimp only at e
    split at e
    · exact (h.putBytes hu).putNibble e
    · exact (h.putBytes hu).putBytes e

theorem Kept.putMants {ex : ℕ} {as : List (LaneAcc × ℤ)} (h : Kept s₀ s) (e : putMants f n ex as s = .ok t) : Kept s₀ t := by
  induction as generalizing s with
  | nil =>
    cases e
    exact h
  | cons a as ih =>
    unfold Machine.putMants at e
    split at e
    · cases e
    next hu => exact ih (h.putMant hu) e

theorem Kept.storeBlock {as : List (LaneAcc × Word)} {r : State × List (ℕ × List Ev)} (h : Kept s₀ s)
    (e : x.storeBlock s as = .ok r) : Kept s₀ r.1 := by
  unfold Machine.VRun.storeBlock at e
  extract_lets f xs c at_ evs at e
  split at e
  · cases e
    exact h
  · obtain ⟨u, hu, rfl⟩ := exists_of_map_eq_ok e
    split at hu
    · split at hu
      · cases hu
      next hp => exact (h.putBytes hp).putBytes hu
    · exact h.putMants hu

theorem Kept.storeBlocks {as : List LaneAcc} {qs : List ℕ} {r : State × List (ℕ × List Ev)} (h : Kept s₀ s)
    (e : x.storeBlocks as qs s = .ok r) : Kept s₀ r.1 := by
  induction qs generalizing s r with
  | nil =>
    cases e
    exact h
  | cons q qs ih =>
    unfold Machine.VRun.storeBlocks at e
    split at e
    · cases e
    next hb =>
      obtain ⟨v, hv, rfl⟩ := exists_of_map_eq_ok e
      have hv' : Kept s₀ v.1 := ih (h.storeBlock hb) hv
      exact hv'

theorem Kept.storeAll {as : List LaneAcc} {r : State × List (ℕ × List Ev)} (h : Kept s₀ s) (e : x.storeAll as s = .ok r) :
    Kept s₀ r.1 := by
  unfold Machine.VRun.storeAll at e
  split at e
  · exact h.storeBlocks e
  · exact h.storeLanes e

end

theorem EngKept.store {x : VRun} {indexed : Bool} : EngKept s₀ (x.store indexed) := by
  unfold Machine.VRun.store
  extract_lets as src go
  have hgo (y : Unit) : EngKept s₀ (go y) := by
    refine .getS_bind fun _ hu => ?_
    split
    · exact .throw
    next r hr => exact .bind (.modS fun _ _ => Kept.storeAll (.sampleSpans hu) hr) fun _ => .pure
  refine .getS_bind fun _ _ => ?_
  split
  · exact .throw
  · exact .bind .takeTurns fun _ => .ite (.bind .takeTurn fun _ => hgo ()) (hgo ())

theorem ResKept.execSti {tile : ℕ} (h : Kept s₀ s) : ResKept s₀ (execSti tile s) := .next (h.vecStep fun _ => .store)

theorem ResKept.execStx {tile : ℕ} (h : Kept s₀ s) : ResKept s₀ (execStx tile s) := .next (h.vecStep fun _ => .store)

theorem EngKept.sta {x : VRun} : EngKept s₀ x.sta := by
  unfold Machine.VRun.sta
  extract_lets as
  refine .getS_bind fun _ _ => .ite .stopWith ?_
  split
  · exact .throw
  · exact .bind (.eachDo fun _ => .sendAddend) fun _ => .pure

theorem ResKept.execSta {tile : ℕ} (h : Kept s₀ s) : ResKept s₀ (execSta tile s) := .next (h.vecStep fun _ => .sta)

/-! ## The drain queue (R134) -/

theorem EngKept.drainRows {x : VRun} : EngKept s₀ x.drainRows := .getS_bind fun _ _ => .ite .pure (.ite .stopWith .throw)

theorem EngKept.drv {x : VRun} : EngKept s₀ x.drv := .bind .drainRows fun _ => .pure

theorem ResKept.execDrv {tile : ℕ} (h : Kept s₀ s) : ResKept s₀ (execDrv tile s) := .next (h.vecStep fun _ => .drv)

theorem EngKept.drx {x : VRun} : EngKept s₀ x.drx := .bind .drainRows fun _ => .pure

theorem ResKept.execDrx {tile : ℕ} (h : Kept s₀ s) : ResKept s₀ (execDrx tile s) := .next (h.vecStep fun _ => .drx)

/-! ## Descriptor start -/

theorem EngKept.loadVec {tile : ℕ} {w : Work} {pair : Option Work} : EngKept s₀ (loadVec tile w pair) := by
  refine .getS_bind fun _ _ => ?_
  extract_lets u h plen stamp held go
  have hgo (x : List ℕ) : EngKept s₀ (go x) := by
    unfold go
    refine .bind .rdH fun a => .ite ?_ (.bind (.modS fun _ hs' => hs'.setVec) fun _ => .stopWith)
    extract_lets base n
    split
    · exact .modS fun _ hs' => hs'.setVec
    · exact .stopWith
  exact .ite (.bind .pure fun a => hgo a) (.bind (.modS fun _ hs' => .ite hs' hs'.bump) fun _ => .bind .rdH fun _ =>
    .bind .pure fun a1 => hgo a1)

theorem Kept.failStray {w : Work} (h : Kept s₀ s) : Kept s₀ (failStray s w) := by
  unfold Machine.failStray
  split
  · exact h
  · exact .ite h.endPair h.setWork

theorem Kept.cancelNamed {w : Work} (h : Kept s₀ s) : Kept s₀ (cancelNamed s w) := by
  unfold Machine.cancelNamed
  split
  · exact h
  · exact .ite h.endPair h.setWork

theorem Kept.startVec {op : ℕ} {r : WRef} (h : Kept s₀ s) : Kept s₀ (startVec op r s) := by
  unfold Machine.startVec
  split
  · exact h
  · refine .ite h ?_
    extract_lets st s'
    have hs' : Kept s₀ s' := h.markReady
    refine .ite h.setWork.cancelNamed ?_
    split
    next hi =>
      have hi' := hs'.issue _ hi
      extract_lets pair mode ok st' s2 p x src
      have hs2 : Kept s₀ s2 := hi'.setWork
      have hx : Kept s₀ x.2.s := EngKept.loadVec _ hi'.started
      clear_value pair
      refine .ite ?_ ?_
      · split
        · exact hs2.endPair
        · exact .ite hs2.failStray hs2
      · split
        · exact hx
        · exact hx.setWork.endPair
        · exact hi'.joinLine
        · exact hi'
    · exact hs'

theorem ResKept.execVectorProgram {r : WRef} (h : Kept s₀ s) : ResKept s₀ (execVectorProgram r s) := .next h.startVec

theorem ResKept.execDrainCoupledProgram {r : WRef} (h : Kept s₀ s) : ResKept s₀ (execDrainCoupledProgram r s) := .next h.startVec

theorem ResKept.execInstructionLimit {tile : ℕ} (h : Kept s₀ s) : ResKept s₀ (execInstructionLimit tile s) := by
  refine .next ?_
  split
  · exact .ite h.faultVec h
  · exact h

/-! ## Control and base registers -/

theorem ResKept.execVecNop {tile : ℕ} (h : Kept s₀ s) : ResKept s₀ (execVecNop tile s) := .next h.vecPure

theorem ResKept.execVEnd {tile : ℕ} (h : Kept s₀ s) : ResKept s₀ (execVEnd tile s) := .next h.vecPure

theorem ResKept.execBra {tile : ℕ} (h : Kept s₀ s) : ResKept s₀ (execBra tile s) := .next h.vecPure

theorem ResKept.execVLoop {tile : ℕ} (h : Kept s₀ s) : ResKept s₀ (execVLoop tile s) := .next h.vecPure

theorem ResKept.execSetl {tile : ℕ} (h : Kept s₀ s) : ResKept s₀ (execSetl tile s) := .next h.vecPure

theorem ResKept.execBany {tile : ℕ} (h : Kept s₀ s) : ResKept s₀ (execBany tile s) := .next h.vecPure

theorem ResKept.execBnone {tile : ℕ} (h : Kept s₀ s) : ResKept s₀ (execBnone tile s) := .next h.vecPure

theorem ResKept.execMovi {tile : ℕ} (h : Kept s₀ s) : ResKept s₀ (execMovi tile s) := .next h.vecPure

theorem ResKept.execMovb {tile : ℕ} (h : Kept s₀ s) : ResKept s₀ (execMovb tile s) := .next h.vecPure

theorem ResKept.execAddb {tile : ℕ} (h : Kept s₀ s) : ResKept s₀ (execAddb tile s) := .next h.vecPure

theorem ResKept.execAddbi {tile : ℕ} (h : Kept s₀ s) : ResKept s₀ (execAddbi tile s) := .next h.vecPure

theorem ResKept.execMovx {tile : ℕ} (h : Kept s₀ s) : ResKept s₀ (execMovx tile s) := .next h.vecPure

/-! ## Integer instructions -/

theorem ResKept.execVAdd {tile : ℕ} (h : Kept s₀ s) : ResKept s₀ (execVAdd tile s) := .next h.vecPure

theorem ResKept.execVSub {tile : ℕ} (h : Kept s₀ s) : ResKept s₀ (execVSub tile s) := .next h.vecPure

theorem ResKept.execVMul {tile : ℕ} (h : Kept s₀ s) : ResKept s₀ (execVMul tile s) := .next h.vecPure

theorem ResKept.execMulh {tile : ℕ} (h : Kept s₀ s) : ResKept s₀ (execMulh tile s) := .next h.vecPure

theorem ResKept.execAdds {tile : ℕ} (h : Kept s₀ s) : ResKept s₀ (execAdds tile s) := .next h.vecPure

theorem ResKept.execSubs {tile : ℕ} (h : Kept s₀ s) : ResKept s₀ (execSubs tile s) := .next h.vecPure

theorem ResKept.execMuls {tile : ℕ} (h : Kept s₀ s) : ResKept s₀ (execMuls tile s) := .next h.vecPure

theorem ResKept.execVAnd {tile : ℕ} (h : Kept s₀ s) : ResKept s₀ (execVAnd tile s) := .next h.vecPure

theorem ResKept.execVOr {tile : ℕ} (h : Kept s₀ s) : ResKept s₀ (execVOr tile s) := .next h.vecPure

theorem ResKept.execVXor {tile : ℕ} (h : Kept s₀ s) : ResKept s₀ (execVXor tile s) := .next h.vecPure

theorem ResKept.execAndn {tile : ℕ} (h : Kept s₀ s) : ResKept s₀ (execAndn tile s) := .next h.vecPure

theorem ResKept.execShl {tile : ℕ} (h : Kept s₀ s) : ResKept s₀ (execShl tile s) := .next h.vecPure

theorem ResKept.execShr {tile : ℕ} (h : Kept s₀ s) : ResKept s₀ (execShr tile s) := .next h.vecPure

theorem ResKept.execSra {tile : ℕ} (h : Kept s₀ s) : ResKept s₀ (execSra tile s) := .next h.vecPure

theorem ResKept.execAddi {tile : ℕ} (h : Kept s₀ s) : ResKept s₀ (execAddi tile s) := .next h.vecPure

theorem ResKept.execMov {tile : ℕ} (h : Kept s₀ s) : ResKept s₀ (execMov tile s) := .next h.vecPure

theorem ResKept.execQand {tile : ℕ} (h : Kept s₀ s) : ResKept s₀ (execQand tile s) := .next h.vecPure

theorem ResKept.execQor {tile : ℕ} (h : Kept s₀ s) : ResKept s₀ (execQor tile s) := .next h.vecPure

theorem ResKept.execQnot {tile : ℕ} (h : Kept s₀ s) : ResKept s₀ (execQnot tile s) := .next h.vecPure

theorem ResKept.execFlgq {tile : ℕ} (h : Kept s₀ s) : ResKept s₀ (execFlgq tile s) := .next h.vecPure

theorem ResKept.execLperm {tile : ℕ} (h : Kept s₀ s) : ResKept s₀ (execLperm tile s) := .next h.vecPure

theorem ResKept.execRnd {tile : ℕ} (h : Kept s₀ s) : ResKept s₀ (execRnd tile s) := .next h.vecPure

/-- Every command keeps it. -/
theorem ResKept.exec {i : Instr} (h : Kept s₀ s) : ResKept s₀ (exec i s) := by
  cases i with
  | descriptorFetch => exact .execDescriptorFetch h
  | descriptorComplete => exact .execDescriptorComplete h
  | queueIrqTimer => exact .execQueueIrqTimer h
  | denseContraction => exact .execDenseContraction h
  | sparseContraction => exact .execSparseContraction h
  | elementWiseProduct => exact .execElementWiseProduct h
  | expertRoutedContraction => exact .execExpertRoutedContraction h
  | swap => exact .execSwap h
  | drainRow => exact .execDrainRow h
  | vectorProgram => exact .execVectorProgram h
  | drainCoupledProgram => exact .execDrainCoupledProgram h
  | instructionLimit => exact .execInstructionLimit h
  | vecNop => exact .execVecNop h
  | vEnd => exact .execVEnd h
  | bra => exact .execBra h
  | vLoop => exact .execVLoop h
  | setl => exact .execSetl h
  | bany => exact .execBany h
  | bnone => exact .execBnone h
  | movi => exact .execMovi h
  | movb => exact .execMovb h
  | addb => exact .execAddb h
  | addbi => exact .execAddbi h
  | movx => exact .execMovx h
  | vAdd => exact .execVAdd h
  | vSub => exact .execVSub h
  | vMul => exact .execVMul h
  | mulh => exact .execMulh h
  | adds => exact .execAdds h
  | subs => exact .execSubs h
  | muls => exact .execMuls h
  | vAnd => exact .execVAnd h
  | vOr => exact .execVOr h
  | vXor => exact .execVXor h
  | andn => exact .execAndn h
  | shl => exact .execShl h
  | shr => exact .execShr h
  | sra => exact .execSra h
  | addi => exact .execAddi h
  | mov => exact .execMov h
  | fadd => exact .execFadd h
  | fsub => exact .execFsub h
  | fmul => exact .execFmul h
  | fma => exact .execFma h
  | fnma => exact .execFnma h
  | fms => exact .execFms h
  | fabs => exact .execFabs h
  | fneg => exact .execFneg h
  | cmp => exact .execCmp h
  | sel => exact .execSel h
  | vMin => exact .execVMin h
  | vMax => exact .execVMax h
  | fcls => exact .execFcls h
  | cvt => exact .execCvt h
  | cvtx => exact .execCvtx h
  | xadd => exact .execXadd h
  | tlu => exact .execTlu h
  | frcp => exact .execFrcp h
  | frsq => exact .execFrsq h
  | fdiv => exact .execFdiv h
  | fsqrt => exact .execFsqrt h
  | fexp => exact .execFexp h
  | fexp2 => exact .execFexp2 h
  | flog => exact .execFlog h
  | flog2 => exact .execFlog2 h
  | fsin => exact .execFsin h
  | fcos => exact .execFcos h
  | ftanh => exact .execFtanh h
  | lred => exact .execLred h
  | lperm => exact .execLperm h
  | ldi => exact .execLdi h
  | ldx => exact .execLdx h
  | sti => exact .execSti h
  | stx => exact .execStx h
  | sta => exact .execSta h
  | drv => exact .execDrv h
  | drx => exact .execDrx h
  | rnd => exact .execRnd h
  | qand => exact .execQand h
  | qor => exact .execQor h
  | qnot => exact .execQnot h
  | flgq => exact .execFlgq h
  | nop => exact .execNop h
  | waitQueue => exact .execWaitQueue h
  | waitQueueTimeout => exact .execWaitQueueTimeout h
  | launch => exact .execLaunch h
  | strandCreate => exact .execStrandCreate h
  | batchDue => exact .execBatchDue h
  | binRoundClose => exact .execBinRoundClose h
  | prdBind => exact .execPrdBind h
  | prdUnbind => exact .execPrdUnbind h
  | sample => exact .execSample h
  | smpPrefix => exact .execSmpPrefix h
  | compact => exact .execCompact h
  | build => exact .execBuild h
  | edgeGrad => exact .execEdgeGrad h
  | edgeDiff => exact .execEdgeDiff h
  | gather => exact .execGather h
  | scatterAdd => exact .execScatterAdd h
  | scatterWrite => exact .execScatterWrite h
  | readout => exact .execReadout h
  | clear => exact .execClear h
  | pinRefresh => exact .execPinRefresh h
  | tablePublish => exact .execTablePublish h
  | promote => exact .execPromote h
  | tableRelease => exact .execTableRelease h
  | addendEntry => exact .execAddendEntry h
  | cacheFill => exact .execCacheFill h
  | sketchHalving => exact .execSketchHalving h
  | migrationStart => exact .execMigrationStart h
  | snapshotAck => exact .execSnapshotAck h
  | migrationCommit => exact .execMigrationCommit h
  | migOldFree => exact .execMigOldFree h
  | migrationTimeout => exact .execMigrationTimeout h
  | updSgd => exact .execUpdSgd h
  | updAdam => exact .execUpdAdam h
  | updAdagrad => exact .execUpdAdagrad h
  | save => exact .execSave h
  | restore => exact .execRestore h
  | ckptExport => exact .execCkptExport h
  | ckptImport => exact .execCkptImport h
  | declare => exact .execDeclare h
  | undeclare => exact .execUndeclare h
  | epochAdvance => exact .execEpochAdvance h
  | reside => exact .execReside h
  | release => exact .execRelease h
  | pageMoveStart => exact .execPageMoveStart h
  | pageCopyDone => exact .execPageCopyDone h
  | pageMoveCommit => exact .execPageMoveCommit h
  | pageFrameFree => exact .execPageFrameFree h
  | pageMoveTimeout => exact .execPageMoveTimeout h
  | patrolScrub => exact .execPatrolScrub h
  | reduce => exact .execReduce h
  | fabPut => exact .execFabPut h
  | fabMsg => exact .execFabMsg h
  | msgRetry => exact .execMsgRetry h
  | redWatchdog => exact .execRedWatchdog h
  | redAbortExpiry => exact .execRedAbortExpiry h
  | linkTrainingStart => exact .execLinkTrainingStart h
  | exchangeFrame => exact .execExchangeFrame h
  | linkTrainTimeout => exact .execLinkTrainTimeout h
  | linkRetrain => exact .execLinkRetrain h
  | linkTimeout => exact .execLinkTimeout h
  | flitReceive => exact .execFlitReceive h
  | nakRetry => exact .execNakRetry h
  | packetRoute => exact .execPacketRoute h
  | rdReq => exact .execRdReq h
  | rdRsp => exact .execRdRsp h
  | wrReq => exact .execWrReq h
  | wrAck => exact .execWrAck h
  | addReq => exact .execAddReq h
  | addAck => exact .execAddAck h
  | strand => exact .execStrand h
  | chain => exact .execChain h
  | update => exact .execUpdate h
  | mailbox => exact .execMailbox h
  | place => exact .execPlace h
  | msgRsp => exact .execMsgRsp h
  | sack => exact .execSack h
  | sackTimer => exact .execSackTimer h
  | sluiceRto => exact .execSluiceRto h
  | dropReport => exact .execDropReport h
  | multicastResend => exact .execMulticastResend h
  | red => exact .execRed h
  | redJoin => exact .execRedJoin h
  | redCredit => exact .execRedCredit h
  | redEnd => exact .execRedEnd h
  | redAbort => exact .execRedAbort h
  | drainComplete => exact .execDrainComplete h
  | fabDrainTimeout => exact .execFabDrainTimeout h
  | dictMessage => exact .execDictMessage h
  | unbindComplete => exact .execUnbindComplete h
  | loadIdleTimeout => exact .execLoadIdleTimeout h
  | firmwareReady => exact .execFirmwareReady h
  | activationFallback => exact .execActivationFallback h
  | watchdogExpiry => exact .execWatchdogExpiry h
  | sensorSample => exact .execSensorSample h
  | errorRecord => exact .execErrorRecord h
  | imageBankError => exact .execImageBankError h
  | autoDusk => exact .execAutoDusk h
  | wakeEvent => exact .execWakeEvent h
  | powerTransitionDone => exact .execPowerTransitionDone h
  | referenceLoss => exact .execReferenceLoss h
  | coldPowerUp => exact .execColdPowerUp h
  | managementReady => exact .execManagementReady h
  | railsUp => exact .execRailsUp h
  | railTimeout => exact .execRailTimeout h
  | rootPllLock => exact .execRootPllLock h
  | memoryTrained => exact .execMemoryTrained h
  | undervoltage => exact .execUndervoltage h
  | overvoltage => exact .execOvervoltage h
  | overcurrentTrip => exact .execOvercurrentTrip h
  | throttleStep => exact .execThrottleStep h
  | pwrEnLow => exact .execPwrEnLow h
  | pwrEnHigh => exact .execPwrEnHigh h
  | perstNAssert => exact .execPerstNAssert h
  | perstNDeassert => exact .execPerstNDeassert h
  | cxlLinkUp => exact .execCxlLinkUp h
  | freezeNLow => exact .execFreezeNLow h
  | freezeNHigh => exact .execFreezeNHigh h
  | wakeNFall => exact .execWakeNFall h
  | inputStorm => exact .execInputStorm h
  | producer => exact .execProducer h
  | complConsumer => exact .execComplConsumer h
  | mbxLock => exact .execMbxLock h
  | mbxRelease => exact .execMbxRelease h
  | mbxDoorbell => exact .execMbxDoorbell h
  | mbxDone => exact .execMbxDone h
  | forceFree => exact .execForceFree h
  | mbxHoldExpiry => exact .execMbxHoldExpiry h
  | hdmCommit => exact .execHdmCommit h
  | hdmAccess => exact .execHdmAccess h
  | h2dSnoop => exact .execH2dSnoop h
  | configRequest => exact .execConfigRequest h
  | getTimestamp => exact .execGetTimestamp h
  | setTimestamp => exact .execSetTimestamp h
  | getSupportedLogs => exact .execGetSupportedLogs h
  | getLog => exact .execGetLog h
  | spdmRequest => exact .execSpdmRequest h
  | entdaa => exact .execEntdaa h
  | setEndpointId => exact .execSetEndpointId h
  | getEndpointId => exact .execGetEndpointId h
  | getMctpVersionSupport => exact .execGetMctpVersionSupport h
  | getMessageTypeSupport => exact .execGetMessageTypeSupport h
  | freeze => exact .execFreeze h
  | thaw => exact .execThaw h
  | freezeComplete => exact .execFreezeComplete h
  | freezeTooLong => exact .execFreezeTooLong h
  | readoutDone => exact .execReadoutDone h
  | jtagInternalScan => exact .execJtagInternalScan h
  | lightDetected => exact .execLightDetected h
  | fecLock => exact .execFecLock h
  | verifyComplete => exact .execVerifyComplete h
  | fuseStepBlown => exact .execFuseStepBlown h
  | primaryMailboxReady => exact .execPrimaryMailboxReady h
  | ignoredRegisterAccess => exact .execIgnoredRegisterAccess h
  | mbxBufferWrite => exact .execMbxBufferWrite h
  | doeDiscovery => exact .execDoeDiscovery h
  | cxlTableAccess => exact .execCxlTableAccess h
  | alertPulseEnd => exact .execAlertPulseEnd h
  | switchRelease => exact .execSwitchRelease h
  | returnToService => exact .execReturnToService h
  | extest => exact .execExtest h

end

/-- Settles O56: what a step makes of a state in canonical form is kept by every command, however the state came about. -/
theorem canonicalKept : Obligations.CanonicalKept := by
  intro s t hs hstep
  unfold step at hstep
  split at hstep
  · cases hstep
    exact hs
  next c rest _ =>
    obtain ⟨hmem, hhost, hdict⟩ := hs
    exact (ResKept.exec (Kept.refl { s with pending := rest }) t hstep).canonical ⟨hmem, hhost, hdict⟩

end Sys2Proof.Scope

/-! What the ends of descriptors leave of loading and start (R453, R467): the images and the counters of chapter 15 lie apart
from all that an abort of the queues brings about. One lemma for each operation on the way. -/

namespace Sys2Proof.Scope
open Sys2Proof Sys2Proof.Machine Sys2Proof.Machine.Claim

/-- The images, the alert pulse, and the entries up to BOOT_WATCHDOGS. -/
def bootView (s : State) : Boot × Nat × (Nat → Nat) :=
  (s.boot, s.pwr.alertEnd, fun k => if k ≤ Key.bootWatchdogs then reg s k else 0)

theorem boot_of_bootView {s t : State} (h : bootView t = bootView s) : t.boot = s.boot := congrArg Prod.fst h

theorem alertEnd_of_bootView {s t : State} (h : bootView t = bootView s) : t.pwr.alertEnd = s.pwr.alertEnd :=
  congrArg (fun x => x.2.1) h

theorem reg_of_bootView {s t : State} (h : bootView t = bootView s) {k : Nat} (hk : k ≤ Key.bootWatchdogs) : reg t k = reg s k := by
  have hreg : (bootView t).2.2 k = (bootView s).2.2 k := by rw [h]
  simpa [bootView, hk] using hreg

/-- A run of steps that each leave the view leaves it. -/
theorem foldl_bootView_of_mem {α : Type} {f : State → α → State} {xs : List α} (h : ∀ x ∈ xs, ∀ s, bootView (f s x) = bootView s)
    (s : State) : bootView (xs.foldl f s) = bootView s := by
  induction xs generalizing s with
  | nil => rfl
  | cons x xs ih =>
    rw [List.foldl_cons, ih fun y hy => h y (List.mem_cons_of_mem x hy)]
    exact h x List.mem_cons_self s

theorem foldl_bootView {α : Type} {f : State → α → State} (h : ∀ s x, bootView (f s x) = bootView s) (xs : List α) (s : State) :
    bootView (xs.foldl f s) = bootView s := foldl_bootView_of_mem (fun x _ s => h s x) s

/-- Either way the view is as it was. -/
theorem ite_bootView {c : Prop} [Decidable c] {a b s : State} (ha : bootView a = bootView s) (hb : bootView b = bootView s) :
    bootView (if c then a else b) = bootView s := by split <;> assumption

/-! ## Entries beyond -/

@[simp] theorem setReg_bootView (s : State) {k : Nat} (v : Nat) (h : Key.bootWatchdogs < k) :
    bootView (setReg s k v) = bootView s := by
  unfold bootView
  refine Prod.ext rfl (Prod.ext rfl (funext fun j => ?_))
  dsimp only
  split
  next hj => exact reg_setReg_ne s v (Nat.ne_of_lt (Nat.lt_of_le_of_lt hj h))
  · rfl

@[simp] theorem setReg_add_bootView (s : State) {k : Nat} (i v : Nat) (h : Key.bootWatchdogs < k) :
    bootView (setReg s (k + i) v) = bootView s := setReg_bootView s v (Nat.lt_of_lt_of_le h (Nat.le_add_right k i))

@[simp] theorem bump_bootView (s : State) {k : Nat} (n : Nat) (h : Key.bootWatchdogs < k) :
    bootView (bump s k n) = bootView s :=
  setReg_bootView s _ h

@[simp] theorem bump_add_bootView (s : State) {k : Nat} (i n : Nat) (h : Key.bootWatchdogs < k) :
    bootView (bump s (k + i) n) = bootView s := setReg_add_bootView s i _ h

@[simp] theorem bump32_bootView (s : State) {k : Nat} (n : Nat) (h : Key.bootWatchdogs < k) :
    bootView (bump32 s k n) = bootView s :=
  setReg_bootView s _ h

@[simp] theorem send_bootView (s : State) (o : Out) : bootView (send s o) = bootView s := rfl
@[simp] theorem touch_bootView (s : State) : bootView (touch s) = bootView s := rfl
@[simp] theorem writePhys_bootView (s : State) (a : Nat) (bs : List Byte) : bootView (writePhys s a bs) = bootView s := rfl
@[simp] theorem setObj_bootView (s : State) (o : Obj) : bootView (setObj s o) = bootView s := rfl
@[simp] theorem setQueue_bootView (s : State) (q : Nat) (x : Queue) : bootView (setQueue s q x) = bootView s := rfl
@[simp] theorem setWork_bootView (s : State) (w : Work) : bootView (setWork s w) = bootView s := rfl
@[simp] theorem delWork_bootView (s : State) (r : WRef) : bootView (delWork s r) = bootView s := rfl
@[simp] theorem setPort_bootView (s : State) (p : Nat) (x : Port) : bootView (setPort s p x) = bootView s := rfl
@[simp] theorem markReady_bootView (s : State) : bootView (markReady s) = bootView s := rfl

@[simp] theorem leaveLines_bootView (s : State) (r : WRef) (ks : List Nat) : bootView (leaveLines s r ks) = bootView s := by
  rw [leaveLines_eq]
  rfl

/-! ## What is sent -/

@[simp] theorem sendAll_bootView (s : State) (os : List Out) : bootView (sendAll s os) = bootView s := rfl
@[simp] theorem postTxn_bootView (s : State) (k : TxKind) (i : Option WRef) (n off : Nat) (p : Pkt) :
    bootView (postTxn s k i n off p) = bootView s := rfl
@[simp] theorem postPlace_bootView (s : State) (k : TxKind) (c n u : Nat) (b : List Byte) :
    bootView (postPlace s k c n u b) = bootView s :=
  rfl

@[simp] theorem sendWords_bootView (s : State) (p : Nat) : bootView (sendWords s p) = bootView s := by
  simp [sendWords, apply_ite bootView]

@[simp] theorem widened_bootView (s : State) (p : Nat) : bootView (widened s p) = bootView s := by
  simp (disch := decide) [widened, apply_ite bootView]

@[simp] theorem putFlit_bootView (s : State) (p : Nat) (f : List Byte) : bootView (putFlit s p f) = bootView s := by
  simp (disch := decide) [putFlit, apply_ite bootView]

@[simp] theorem sendFlits_bootView (p n : Nat) (s : State) : bootView (sendFlits p n s) = bootView s := by
  induction n generalizing s with
  | zero => rfl
  | succ n ih => simp (disch := decide) [sendFlits, apply_ite bootView, ih]

@[simp] theorem grantPort_bootView (s : State) (p : Nat) : bootView (grantPort s p) = bootView s := by
  simp (disch := decide) [grantPort, apply_ite bootView]

@[simp] theorem transmit_bootView (s : State) (p : Nat) : bootView (transmit s p) = bootView s := by
  simp (disch := decide) [transmit, apply_ite bootView]

@[simp] theorem enqueue_bootView (s : State) (p : Nat) (k : Pkt) : bootView (enqueue s p k) = bootView s := by
  simp (disch := decide) [enqueue, apply_ite bootView]

@[simp] theorem emitPkt_bootView (s : State) (k : Pkt) : bootView (emitPkt s k) = bootView s := by
  unfold emitPkt
  split <;> simp

@[simp] theorem postCtrl_bootView (s : State) (p : Pkt) : bootView (postCtrl s p) = bootView s := by
  unfold postCtrl
  split
  · rfl
  · exact emitPkt_bootView s _

@[simp] theorem markSent_bootView (s : State) (p : Pkt) : bootView (markSent s p) = bootView s := ite_bootView rfl rfl

@[simp] theorem toInbox_bootView (s : State) (p : Pkt) : bootView (toInbox s p) = bootView s := rfl

@[simp] theorem releaseCtrl_bootView (s : State) : bootView (releaseCtrl s) = bootView s :=
  foldl_bootView postCtrl_bootView _ _

@[simp] theorem pumpAddends_bootView (s : State) : bootView (pumpAddends s) = bootView s := by
  unfold pumpAddends
  refine foldl_bootView (fun t i => ?_) _ _
  split
  · split <;> rfl
  · rfl

@[simp] theorem pumpWin_bootView (held n : Nat) (w : SrcWin) (s : State) : bootView (pumpWin held n w s).1 = bootView s := by
  induction n generalizing w s with
  | zero => rfl
  | succ n ih =>
    unfold pumpWin
    split
    · rfl
    · split
      · split
        · simp [ih]
        · rfl
      · split
        · rw [ih]
          split <;> rfl
        · split
          · simp [ih]
          · rfl

@[simp] theorem pumpAll_bootView (done ws : List SrcWin) (s : State) : bootView (pumpAll done ws s).1 = bootView s := by
  induction ws generalizing done s with
  | nil => rfl
  | cons w ws ih => simp [pumpAll, ih]

@[simp] theorem pump_bootView (s : State) : bootView (pump s) = bootView s :=
  (pumpAll_bootView _ _ _).trans ((pumpAddends_bootView _).trans (releaseCtrl_bootView s))

@[simp] theorem notifyFln_bootView (s : State) (e c code seq : Nat) : bootView (notifyFln s e c code seq) = bootView s := by
  unfold notifyFln
  split
  · dsimp only
    split
    · rfl
    · split <;> rfl
  · rfl

/-! ## What a write of a completion ring does -/

@[simp] theorem countBytes_bootView (s : State) (wr : Bool) (a n : Nat) : bootView (countBytes s wr a n) = bootView s := by
  unfold countBytes
  refine ite_bootView rfl (ite_bootView (bump_add_bootView _ _ _ ?_) (bump_add_bootView _ _ _ ?_)) <;> cases wr <;> decide

@[simp] theorem countRange_bootView (s : State) (wr : Bool) (o : Obj) (off len : Nat) :
    bootView (countRange s wr o off len) = bootView s := by
  refine foldl_bootView (fun t p => ?_) _ _
  split <;> simp

@[simp] theorem sampleAccess_bootView (s : State) (o : Obj) (off a d c : Nat) :
    bootView (sampleAccess s o off a d c) = bootView s :=
  ite_bootView rfl (ite_bootView (bump_bootView _ _ (by decide)) rfl)

@[simp] theorem sampleRange_bootView (s : State) (o : Obj) (off len : Nat) :
    bootView (sampleRange s o off len) = bootView s := by
  refine foldl_bootView (fun t p => ?_) _ _
  split <;> simp

@[simp] theorem markDirty_bootView (s : State) (n off : Nat) : bootView (markDirty s n off) = bootView s := rfl

@[simp] theorem snoopRange_bootView (s : State) (n off len : Nat) (inv : Bool) :
    bootView (snoopRange s n off len inv) = bootView s := by
  have h (t : State) (l : List HostLine) (f : HostLine → Out) : bootView (l.foldl (fun s l => send s (f l)) t) = bootView t :=
    foldl_bootView (fun s x => send_bootView s (f x)) _ _
  exact ite_bootView rfl (ite_bootView (h _ _ _) (h _ _ _))

@[simp] theorem askHost_bootView (s : State) (n off len : Nat) : bootView (askHost s n off len) = bootView s := by
  simp [askHost, apply_ite bootView]

@[simp] theorem tellRead_bootView (s : State) (o : Obj) (off len : Nat) : bootView (tellRead s o off len) = bootView s := by
  simp [tellRead]

@[simp] theorem clearCovered_bootView (s : State) (n off len : Nat) : bootView (clearCovered s n off len) = bootView s :=
  ite_bootView rfl rfl

@[simp] theorem refreshCopies_bootView (s : State) (o : Obj) (row : Nat) :
    bootView (refreshCopies s o row) = bootView s := by
  unfold refreshCopies
  dsimp only
  split
  · split
    · rfl
    · exact foldl_bootView (fun s (e : DirEntry) => writePhys_bootView s e.addr _) _ _
  · rfl

@[simp] theorem setMState_bootView (s : State) (o : Obj) (row : Nat) (st : MState) :
    bootView (setMState s o row st) = bootView s :=
  rfl

@[simp] theorem sendSnapshot_bootView (s : State) (m : Migration) : bootView (sendSnapshot s m) = bootView s := by
  simp [sendSnapshot, apply_ite bootView]

@[simp] theorem abortMigration_bootView (s : State) (m : Migration) : bootView (abortMigration s m) = bootView s := by
  have hb : bootView (bump s (Key.migAborts + homeDie s (objOf s m.obj) (m.row * (objOf s m.obj).pitch)) 1) = bootView s :=
    bump_add_bootView _ _ _ (by decide)
  exact ite_bootView (ite_bootView hb hb) (ite_bootView hb hb)

@[simp] theorem restartMigration_bootView (s : State) (o : Obj) (row : Nat) :
    bootView (restartMigration s o row) = bootView s := by
  unfold restartMigration
  split
  · rfl
  · dsimp only
    split
    · simp (disch := decide)
    · refine (sendSnapshot_bootView _ _).trans ((tellRead_bootView _ _ _ _).trans ?_)
      simp (disch := decide)

@[simp] theorem stampObj_bootView (s : State) (n : Nat) : bootView (stampObj s n) = bootView s := by
  simp (disch := decide) [stampObj, apply_ite bootView]

@[simp] theorem afterWrite_bootView (s : State) (n off len : Nat) : bootView (afterWrite s n off len) = bootView s := by
  unfold afterWrite
  rw [stampObj_bootView]
  split
  · rfl
  · exact foldl_bootView (fun _ _ => by simp) _ _

@[simp] theorem writeLocal_bootView (s : State) (o : Obj) (off : Nat) (bs : List Byte) :
    bootView (writeLocal s o off bs) = bootView s := by
  unfold writeLocal
  simp only [afterWrite_bootView, clearCovered_bootView, sampleRange_bootView]
  refine foldl_bootView (fun t p => ?_) _ _
  split <;> simp

@[simp] theorem putHost_bootView (s : State) (a : Nat) (bs : List Byte) : bootView (putHost s a bs) = bootView s := rfl

@[simp] theorem ringWrite_bootView (s : State) (apt : Bool) (base a : Nat) (bs : List Byte) :
    bootView (ringWrite s apt base a bs) = bootView s := by
  simp [ringWrite, apply_ite bootView]

/-! ## Descriptors that end -/

@[simp] theorem raiseMsix_bootView (s : State) (v : Nat) : bootView (raiseMsix s v) = bootView s :=
  ite_bootView (ite_bootView rfl rfl) rfl

@[simp] theorem notify_bootView (s : State) (q t : Nat) : bootView (notify s q t) = bootView s := by
  have h (x : Queue) (a : Nat) (bs : List Byte) :
      bootView (if reg (setQueue s q x) (Key.queueCpiAddr + 256 * q) = 0 then setQueue s q x
        else ringWrite (setQueue s q x) x.cpiApt x.hdmBase a bs) = bootView s := ite_bootView rfl (ringWrite_bootView _ _ _ _ _)
  exact ite_bootView (ite_bootView (h _ _ _) ((raiseMsix_bootView _ _).trans (h _ _ _))) (h _ _ _)

@[simp] theorem writeRecord_bootView (s : State) (q : Nat) (w : Work) (t : Nat) :
    bootView (writeRecord s q w t) = bootView s := by
  simp (disch := decide) [writeRecord, apply_ite bootView]

@[simp] theorem completeQ_bootView (s : State) (q n : Nat) (w : Work) (t : Nat) :
    bootView (completeQ s q n w t) = bootView s := by
  simp (disch := decide) [completeQ, apply_ite bootView]

theorem lt_of_mem_busyKeys {w : Work} {k : Nat} (h : k ∈ busyKeys w) : Key.bootWatchdogs < k := by
  have hadd {a : Nat} (ha : Key.bootWatchdogs < a) (i : Nat) : Key.bootWatchdogs < a + i := Nat.lt_of_lt_of_le ha (Nat.le_add_right a i)
  unfold busyKeys at h
  split at h
  case h_2 => rcases List.mem_pair.mp h with rfl | rfl <;> exact hadd (by decide) _
  case h_8 => cases h
  all_goals
    cases List.mem_singleton.mp h
    exact hadd (by decide) _

@[simp] theorem countCycles_bootView (s : State) (w : Work) : bootView (countCycles s w) = bootView s := by
  unfold countCycles
  refine ite_bootView (foldl_bootView_of_mem (fun k hk t => ?_) _) rfl
  exact (bump_bootView _ _ (lt_of_mem_busyKeys hk)).trans rfl

@[simp] theorem countStatus_bootView (s : State) (w : Work) : bootView (countStatus s w) = bootView s := by
  have hup {c : Prop} [Decidable c] {k : Nat} {a : State} (hk : Key.bootWatchdogs < k) (ha : bootView a = bootView s) :
      bootView (if c then bump32 s k 1 else a) = bootView s := ite_bootView (bump32_bootView s _ hk) ha
  unfold countStatus
  iterate 15 refine hup (by decide) ?_
  rfl

@[simp] theorem countRed_bootView (s : State) (w : Work) : bootView (countRed s w) = bootView s :=
  ite_bootView (bump_bootView _ _ (by decide)) rfl

@[simp] theorem leaveAll_bootView (s : State) (r : WRef) : bootView (leaveAll s r) = bootView s :=
  ite_bootView rfl (leaveLines_bootView _ _ _)

@[simp] theorem dropRef_bootView (s : State) (w : Work) : bootView (dropRef s w) = bootView s := by
  refine foldl_bootView (fun _ _ => ite_bootView ?_ rfl) _ _
  rfl

/-- A descriptor of a queue that completes. -/
theorem completeWork_bootView (s : State) {w : Work} {q n : Nat} (h : w.ref = .q q n) (t : Nat) :
    bootView (completeWork s w t) = bootView s := by
  unfold completeWork
  rw [h]
  simp

/-- QUEUE_ABORT ends descriptors of its queue alone. -/
@[simp] theorem abortQueue_bootView (s : State) (q : Nat) : bootView (abortQueue s q) = bootView s := by
  unfold abortQueue
  refine (foldl_bootView_of_mem (fun w hw t => ?_) _).trans (setQueue_bootView s q _)
  have href := (List.mem_filter.mp hw).2
  simp only [Bool.and_eq_true] at href
  obtain ⟨-, href⟩ := href
  split at href
  next k n hk => exact ite_bootView (completeWork_bootView t (w := { w with status := Status.cancelled }) hk _) (setWork_bootView t _)
  · cases href

@[simp] theorem abortAll_bootView (s : State) : bootView (abortAll s) = bootView s := foldl_bootView abortQueue_bootView _ _

end Sys2Proof.Scope

/-! Loading, start, activation, watchdog, fuses, memory, read-out and the management bus (R436, R453, R459 to R467, R494). -/

namespace Sys2Proof.Scope
open Sys2Proof Sys2Proof.Machine Sys2Proof.Machine.Claim

/-! ## What a clause reads of the state an Almanac entry or the pump leaves -/

theorem memKept_pump (s : State) : MemKept s (pump s) :=
  ⟨mem_of_offSending (pump_offSending s), host_of_offSending (pump_offSending s), (congrArg State.hostPoison (pump_offSending s) :)⟩

theorem boot_almFull (s : State) (origin unit kind st step tag : Nat) (d : List Byte) :
    (almFull s origin unit kind st step tag d).boot = s.boot := (congrArg State.boot (almFull_frame s origin unit kind st step tag d) :)

theorem memKept_almFull (s : State) (origin unit kind st step tag : Nat) (d : List Byte) :
    MemKept s (almFull s origin unit kind st step tag d) :=
  have hframe := almFull_frame s origin unit kind st step tag d
  ⟨(congrArg State.mem hframe :), (congrArg State.host hframe :), (congrArg State.hostPoison hframe :)⟩

/-! ## Loading and start (R464 to R466) -/

theorem exec_loadIdleTimeout_of_idle {s : State} {t : Nat} (hb : reg s Key.bootState = 1)
    (ht : s.boot.loadAt + 1000000 * reg s Key.bootLoadIdleMs ≤ max s.time t) :
    ∃ u, exec (.loadIdleTimeout t) s = .next u ∧ reg u Key.bootState = s.boot.before ∧ reg u Key.bootLoadOwner = 0 ∧
      u.boot = { s.boot with staging := [] } ∧
      RegsKept s u [Key.bootState, Key.bootLoadOwner, Key.bootLoaded, Key.fwStagedVersion] ∧
      { u with dict := s.dict, boot := s.boot, time := s.time } = s := by
  refine ⟨discardImage (atTime s t), congrArg Host.Outcome.next (if_pos ⟨hb, ht⟩), ?_, ?_, rfl, fun k hk => ?_, rfl⟩
  · simp [discardImage, hb]
  · simp (disch := decide) [discardImage, reg_setReg_ne]
  · simp only [List.mem_cons, List.not_mem_nil, or_false, not_or] at hk
    obtain ⟨hstate, howner, hloaded, hversion⟩ := hk
    simp only [discardImage, clearStaging, reg_setReg_ne, hstate, howner, hloaded, hversion, ne_eq, not_false_eq_true]
    rfl

theorem exec_firmwareReady_of_start {s : State} {t : Nat} (hb : reg s Key.bootState = 3) (hm : s.boot.memReady = true)
    (hr : s.pwr.rows = railRows) (hl : reg s Key.clkPllLocked = 1) (hp : reg s Key.pwrState = 0xFF) (hf : reg s Key.frzState = 0) :
    exec (.firmwareReady t) s = .next (pump (markReady (sendNotices (touch
      (setReg (setReg (atTime s t) Key.bootState 4) Key.pwrState 0))))) := by
  have hp4 : reg (setReg (atTime s t) Key.bootState 4) Key.pwrState = 0xFF := (reg_setReg_ne _ _ (by decide)).trans hp
  refine congrArg Host.Outcome.next ((if_neg (fun h => h hf)).trans ((if_pos ⟨hb, hm, hr, hl⟩).trans ?_))
  dsimp only
  rw [if_pos hp4]

theorem exec_firmwareReady_of_frozen {s : State} {t : Nat} (hf : reg s Key.frzState ≠ 0) :
    exec (.firmwareReady t) s = .next s ∧ exec (.activationFallback t) s = .next s :=
  ⟨congrArg Host.Outcome.next (if_pos hf), congrArg Host.Outcome.next (if_neg fun h => hf h.2.1)⟩

theorem reg_clearStaging_of_ne (s : State) {k : Nat} (h₁ : k ≠ Key.bootLoaded) (h₂ : k ≠ Key.fwStagedVersion) :
    reg (clearStaging s) k = reg s k := (reg_setReg_ne _ _ h₂).trans (reg_setReg_ne _ _ h₁)

@[simp] theorem reg_deriveAlias (s : State) (k : Nat) : reg (deriveAlias s) k = reg s k := rfl

theorem reg_bump32_of_ne (s : State) {k j : Nat} (n : Nat) (h : j ≠ k) : reg (bump32 s k n) j = reg s j := by rw [reg_bump32, if_neg h]

/-- The staged image is the one FW_VERSION and FW_SVN speak of. -/
theorem reg_exchangeBanks (s : State) : reg (exchangeBanks s) Key.fwVersion = imgVersion s.boot.staging ∧
    reg (exchangeBanks s) Key.fwSvn = imgSvn s.boot.staging := by
  simp (disch := decide) [exchangeBanks, reg_setReg_ne, reg_bump32_of_ne]

theorem exec_firmwareReady_of_activating {s : State} {t : Nat} (hb : reg s Key.bootState = 6) (hf : reg s Key.frzState = 0) :
    ∃ u, exec (.firmwareReady t) s = .next u ∧ reg u Key.bootState = 4 ∧ u.boot.running = s.boot.staging ∧
      u.boot.staging = s.boot.running ∧ reg u Key.fwVersion = imgVersion s.boot.staging ∧
      reg u Key.fwSvn = imgSvn s.boot.staging ∧ u.alm.next = (s.alm.next + 1) % 2 ^ 32 ∧ MemKept s u := by
  have h3 : ¬ (reg s Key.bootState = 3 ∧ s.boot.memReady = true ∧ s.pwr.rows = railRows ∧ reg s Key.clkPllLocked = 1) := by
    rw [hb]
    rintro ⟨h, -⟩
    cases h
  have hexec : exec (.firmwareReady t) s = _ :=
    congrArg Host.Outcome.next ((if_neg (fun h => h hf)).trans ((if_neg h3).trans (if_pos hb)))
  refine ⟨_, hexec, ?_⟩
  extract_lets s₁ old s₂ s₃
  have hview : bootView (pump (markReady s₃)) = bootView s₃ := (pump_bootView _).trans (markReady_bootView _)
  have hreg {k : Nat} (hk : k ≤ Key.bootWatchdogs) : reg (pump (markReady s₃)) k = reg s₂ k :=
    (reg_of_bootView hview hk).trans (reg_almFull_of_ne _ _ _ _ _ _ _ _ (Nat.ne_of_lt (Nat.lt_of_le_of_lt hk (by decide))))
  have hboot : (pump (markReady s₃)).boot = s₂.boot := (boot_of_bootView hview).trans (boot_almFull _ _ _ _ _ _ _ _)
  obtain ⟨hmem, hhost, hpoison⟩ := memKept_pump (markReady s₃)
  obtain ⟨hmem', hhost', hpoison'⟩ := memKept_almFull s₂ s₂.boot.loader 0x7A 0x0003 0 0 0 (leBytes 4 old ++ leBytes 4 (reg s₂ Key.fwVersion))
  refine ⟨?_, ?_, ?_, ?_, ?_, ?_, hmem.trans hmem', hhost.trans hhost', hpoison.trans hpoison'⟩
  · rw [hreg (by decide)]
    exact reg_setReg_same _ _ _
  · rw [hboot]
    rfl
  · rw [hboot]
    rfl
  · rw [hreg (by decide)]
    exact (reg_setReg_ne _ _ (by decide)).trans (reg_exchangeBanks s₁).1
  · rw [hreg (by decide)]
    exact (reg_setReg_ne _ _ (by decide)).trans (reg_exchangeBanks s₁).2
  · rw [pump_alm, markReady_alm]
    exact almFull_next _ _ _ _ _ _ _ _

theorem exec_activationFallback_of_due {s : State} {t : Nat} (hb : reg s Key.bootState = 6) (hf : reg s Key.frzState = 0)
    (ht : s.boot.startAt + 1000000000 ≤ max s.time t) :
    ∃ u, exec (.activationFallback t) s = .next u ∧ reg u Key.bootState = 4 ∧ reg u Key.bootResult = 10 ∧
      u.boot = { s.boot with staging := [] } ∧ reg u Key.fwVersion = reg s Key.fwVersion ∧
      u.alm.next = (s.alm.next + 1) % 2 ^ 32 ∧ MemKept s u := by
  have hexec : exec (.activationFallback t) s = _ := congrArg Host.Outcome.next (if_pos ⟨hb, hf, ht⟩)
  refine ⟨_, hexec, ?_⟩
  extract_lets s₁
  have hboot₁ : s₁.boot = s.boot := boot_almFull (setReg (atTime s t) Key.bootResult 10) _ _ _ _ _ _ _
  have hreg₁ {k : Nat} (hk : k ≠ Key.almOverwritten) : reg s₁ k = reg (setReg (atTime s t) Key.bootResult 10) k :=
    reg_almFull_of_ne _ _ _ _ _ _ _ _ hk
  have hnext : s₁.alm.next = (s.alm.next + 1) % 2 ^ 32 := almFull_next _ _ _ _ _ _ _ _
  obtain ⟨hmem₁, hhost₁, hpoison₁⟩ : MemKept s s₁ := memKept_almFull (setReg (atTime s t) Key.bootResult 10) _ _ _ _ _ _ _
  clear_value s₁
  have hreg {k : Nat} (hk : k ≤ Key.bootWatchdogs) : reg (pump (markReady (setReg (clearStaging s₁) Key.bootState 4))) k =
      reg (setReg (clearStaging s₁) Key.bootState 4) k := reg_of_bootView ((pump_bootView _).trans (markReady_bootView _)) hk
  obtain ⟨hmem, hhost, hpoison⟩ := memKept_pump (markReady (setReg (clearStaging s₁) Key.bootState 4))
  refine ⟨?_, ?_, ?_, ?_, ?_, hmem.trans hmem₁, hhost.trans hhost₁, hpoison.trans hpoison₁⟩
  · rw [hreg (by decide), reg_setReg_same]
  · rw [hreg (by decide), reg_setReg_ne _ _ (by decide), reg_clearStaging_of_ne _ (by decide) (by decide), hreg₁ (by decide),
      reg_setReg_same]
  · exact (boot_of_bootView (pump_bootView _)).trans (congrArg (fun b : Boot => { b with staging := [] }) hboot₁)
  · rw [hreg (by decide), reg_setReg_ne _ _ (by decide), reg_clearStaging_of_ne _ (by decide) (by decide), hreg₁ (by decide),
      reg_setReg_ne _ _ (by decide), reg_atTime]
  · rw [pump_alm]
    exact hnext

/-! ## The watchdog (R467) -/

theorem reg_of_dict {s t : State} (h : t.dict = s.dict) (k : Nat) : reg t k = reg s k := by
  unfold reg
  rw [h]

theorem boot_alert (s : State) (seq : Nat) : (alert s seq).boot = s.boot :=
  boot_of_bootView (s := { s with pwr := { s.pwr with alertEnd := max s.pwr.alertEnd (s.time + 100000) } })
    (notifyFln_bootView _ _ _ _ _)

theorem exec_watchdogExpiry_of_runs {s : State} {t : Nat} (hd : dogRuns s = true) :
    let old := s.boot.dogs.filter (fun x => decide (max s.time t < x + 60000000000))
    ∃ u, exec (.watchdogExpiry t) s = .next u ∧ u.boot.dogs = old ++ [max s.time t] ∧
      reg u Key.bootWatchdogs = stick32 (reg s Key.bootWatchdogs + 1) ∧
      (old.length < 2 → RegsKept s u [Key.bootWatchdogs, Key.almOverwritten] ∧ u.boot.running = s.boot.running ∧
        u.alm.next = (s.alm.next + 1) % 2 ^ 32 ∧ MemKept s u) ∧
      (2 ≤ old.length → reg u Key.bootState = 7 ∧ u.boot.running = s.boot.running ∧ u.boot.staging = [] ∧
        s.pwr.alertEnd ≤ u.pwr.alertEnd) := by
  intro old
  have hexec : exec (.watchdogExpiry t) s = _ := congrArg Host.Outcome.next (if_pos hd)
  refine ⟨_, hexec, ?_⟩
  extract_lets s₁ dogs seq b s₂ s₃ s₄
  have hlen : dogs.length = old.length + 1 := List.length_append
  obtain ⟨-, hpwr, hboot⟩ : _ ∧ s₃.pwr = s₂.pwr ∧ s₃.boot = s₂.boot := alm_frame s₂ _ _ _
  have hregs₂ : RegsKept s₂ s₃ [Key.almOverwritten] := alm_regsKept s₂ _ _ _
  have hcount : reg s₃ Key.bootWatchdogs = stick32 (reg s Key.bootWatchdogs + 1) := by
    rw [hregs₂ _ (by decide), reg_bump32, if_pos rfl]
    rfl
  have hnext : s₃.alm.next = (s.alm.next + 1) % 2 ^ 32 := almFull_next _ _ _ _ _ _ _ _
  have hmem : MemKept s s₃ := alm_memKept s₂ _ _ _
  have hregs : RegsKept s s₃ [Key.bootWatchdogs, Key.almOverwritten] := by
    intro k hk
    simp only [List.mem_cons, List.not_mem_nil, or_false, not_or] at hk
    obtain ⟨hdogs, hover⟩ := hk
    rw [hregs₂ k (by simpa using hover), reg_bump32_of_ne _ _ hdogs]
    rfl
  split
  next h3 =>
    have hreg {k : Nat} (hk : k ≤ Key.bootWatchdogs) : reg (alert (abortAll s₄) seq) k = reg s₄ k :=
      (reg_of_dict (alert_dict _ _) k).trans (reg_of_bootView (abortAll_bootView s₄) hk)
    have hb : (alert (abortAll s₄) seq).boot = { s₂.boot with staging := [] } :=
      (boot_alert _ _).trans ((boot_of_bootView (abortAll_bootView s₄)).trans
        (congrArg (fun b : Boot => { b with staging := [] }) hboot))
    have hend : (abortAll s₄).pwr.alertEnd = s.pwr.alertEnd :=
      (alertEnd_of_bootView (abortAll_bootView s₄)).trans (congrArg Power.alertEnd hpwr)
    refine ⟨?_, ?_, fun h => absurd h3 (by omega), fun _ => ⟨?_, ?_, ?_, ?_⟩⟩
    · rw [hb]
      rfl
    · rw [hreg (by decide), ← hcount, reg_setReg_ne _ _ (by decide), reg_setReg_ne _ _ (by decide)]
      exact reg_clearStaging_of_ne _ (by decide) (by decide)
    · rw [hreg (by decide)]
      exact reg_setReg_same _ _ _
    · rw [hb]
      rfl
    · rw [hb]
    · rw [alert_alertEnd, hend]
      exact Nat.le_max_left _ _
  next h3 =>
    refine ⟨?_, hcount, fun _ => ⟨hregs, ?_, hnext, hmem⟩, fun h => absurd h (by omega)⟩
    · rw [hboot]
      rfl
    · rw [hboot]
      rfl

end Sys2Proof.Scope

namespace Sys2Proof.Scope
open Sys2Proof Sys2Proof.Machine Sys2Proof.Machine.Claim

/-! ## Banks and fuses (R453, R459, R460) -/

theorem exec_imageBankError_of_image {s : State} {t : Nat} (hp : s.pwr.target = some 0) (hs : 3 ≤ reg s Key.pwrState)
    (hi : s.boot.hasImage = true) :
    ∃ u, exec (.imageBankError t) s = .next u ∧ reg u Key.bootState = 0 ∧ reg u Key.fwVersion = 0 ∧ reg u Key.fwSvn = 0 ∧
      reg u Key.fwEphMask = 0 ∧ u.boot = { s.boot with running := [], staging := [], hasImage := false, before := 0 } ∧
      u.alm.next = (s.alm.next + 1) % 2 ^ 32 ∧ MemKept s u := by
  have hexec : exec (.imageBankError t) s = _ := congrArg Host.Outcome.next (if_pos ⟨hp, hs, hi⟩)
  refine ⟨_, hexec, ?_⟩
  extract_lets s₁ s₂ s₃ b s₄
  obtain ⟨-, -, hboot⟩ := alm_frame s₄ 0x7A 0x0001 (leBytes 1 0 ++ leBytes 1 (reg s₄ Key.bootResult) ++ leBytes 8 0)
  have hreg {k : Nat} (hk : k ≠ Key.almOverwritten) :
      reg (alm s₄ 0x7A 0x0001 (leBytes 1 0 ++ leBytes 1 (reg s₄ Key.bootResult) ++ leBytes 8 0)) k = reg s₃ k :=
    alm_regsKept s₄ _ _ _ k (by simpa using hk)
  refine ⟨?_, ?_, ?_, ?_, hboot, almFull_next _ _ _ _ _ _ _ _, alm_memKept s₄ _ _ _⟩
  · rw [hreg (by decide)]
    exact reg_setReg_same _ _ _
  all_goals
    rw [hreg (by decide), reg_setReg_ne _ _ (by decide), reg_setReg_ne _ _ (by decide),
      reg_clearStaging_of_ne _ (by decide) (by decide)]
    simp (disch := decide) [s₂, reg_setReg_ne]

/-- A run of range that a condition takes whole. -/
theorem lt_length_takeWhile_range {p : Nat → Bool} {n m : Nat} (hn : n < m) (h : ∀ i ≤ n, p i = true) :
    n < ((List.range m).takeWhile p).length := by
  obtain ⟨d, rfl⟩ := Nat.exists_eq_add_of_lt hn
  rw [Nat.add_right_comm, List.range_add, List.takeWhile_append_of_pos fun i hi => h i (Nat.lt_succ_iff.mp (List.mem_range.mp hi)),
    List.length_append, List.length_range]
  omega

/-- A condition holds of what it takes. -/
theorem of_lt_length_takeWhile_range {p : Nat → Bool} {i m : Nat} (h : i < ((List.range m).takeWhile p).length) : p i = true := by
  have htake : (List.range m).takeWhile p = List.range (min ((List.range m).takeWhile p).length m) := by
    rw [← List.take_range]
    exact List.prefix_iff_eq_take.mp (List.takeWhile_prefix p)
  have hmem : i ∈ (List.range m).takeWhile p := by
    have hlen := congrArg List.length htake
    rw [List.length_range] at hlen
    rw [htake, List.mem_range, ← hlen]
    exact h
  exact List.mem_takeWhile_imp hmem

theorem blowCells_of_step (cells : Tab Nat) (n free : Nat) :
    (Tab.get 0 (blowCells cells n free) (2 * n) = 1 ∨ Tab.get 0 (blowCells cells n free) (2 * n + 1) = 1) ∧
    ∀ i, i / 2 ≠ n → Tab.get 0 (blowCells cells n free) i = Tab.get 0 cells i := by
  have hne {i : Nat} (hi : i / 2 ≠ n) : i ≠ 2 * n + 0 ∧ i ≠ 2 * n + 1 := by omega
  unfold blowCells
  extract_lets one
  split
  · exact ⟨.inl (Tab.get_set_same _ _ _ _), fun i hi => Tab.get_set_ne _ _ _ _ (hne hi).1⟩
  · exact ⟨.inr (Tab.get_set_same _ _ _ _), fun i hi => Tab.get_set_ne _ _ _ _ (hne hi).2⟩
  · exact ⟨.inr (Tab.get_set_same _ _ _ _),
      fun i hi => (Tab.get_set_ne _ _ _ _ (hne hi).2).trans (Tab.get_set_ne _ _ _ _ (hne hi).1)⟩

/-- The step blown is the next. -/
theorem svn_lt_of_blowCells {b c : Boot} {free : Nat} (h : c.cells = blowCells b.cells b.svn free) (hb : b.svn < 64) : b.svn < c.svn := by
  refine lt_length_takeWhile_range hb fun i hi => ?_
  simp only [Bool.or_eq_true, beq_iff_eq, h]
  rcases Nat.lt_or_eq_of_le hi with hlt | rfl
  · have hblown := of_lt_length_takeWhile_range hlt
    simp only [Bool.or_eq_true, beq_iff_eq] at hblown
    exact hblown.imp cells_blowCells_of_blown cells_blowCells_of_blown
  · exact (blowCells_of_step b.cells _ free).1

theorem exec_fuseStepBlown_of_commit {s : State} {t v : Nat} (hc : s.boot.commit = some v) (hn : s.boot.svn < 64) :
    ∃ u, exec (.fuseStepBlown t) s = .next u ∧ s.boot.svn < u.boot.svn ∧
      (Tab.get 0 u.boot.cells (2 * s.boot.svn) = 1 ∨ Tab.get 0 u.boot.cells (2 * s.boot.svn + 1) = 1) ∧
      (∀ i, i / 2 ≠ s.boot.svn → Tab.get 0 u.boot.cells i = Tab.get 0 s.boot.cells i) ∧
      (∀ i, Tab.get 0 s.boot.cells i = 1 → Tab.get 0 u.boot.cells i = 1) ∧ u.boot.blown = s.boot.blown + 1 ∧
      u.boot.commit = (if v ≤ s.boot.svn + 1 ∨ 64 ≤ s.boot.svn + 1 then none else some v) ∧
      { u with boot := s.boot, time := s.time, fresh := s.fresh } = s := by
  show ∃ u, execFuseStepBlown t s = .next u ∧ _
  unfold execFuseStepBlown
  rw [hc]
  refine ⟨_, congrArg Host.Outcome.next (if_neg (Nat.not_le.mpr hn)), svn_lt_of_blowCells rfl hn, (blowCells_of_step _ _ _).1,
    (blowCells_of_step _ _ _).2, fun i => cells_blowCells_of_blown, rfl, rfl, rfl⟩

/-! ## Memory comes up (R301) -/

/-- A run of steps that each leave a register leaves it. -/
theorem reg_foldl_of_kept {α : Type} {f : State → α → State} {xs : List α} {k : Nat} (h : ∀ e ∈ xs, ∀ s, reg (f s e) k = reg s k)
    (s : State) : reg (xs.foldl f s) k = reg s k := by
  induction xs generalizing s with
  | nil => rfl
  | cons x xs ih =>
    rw [List.foldl_cons, ih fun y hy => h y (List.mem_cons_of_mem x hy)]
    exact h x List.mem_cons_self s

theorem boot_foldl_of_kept {α : Type} {f : State → α → State} {xs : List α} (h : ∀ s e, (f s e).boot = s.boot) (s : State) :
    (xs.foldl f s).boot = s.boot := by
  induction xs generalizing s with
  | nil => rfl
  | cons x xs ih => rw [List.foldl_cons, ih, h]

theorem mem_foldl_of_kept {α : Type} {f : State → α → State} {xs : List α} (h : ∀ s e, (f s e).mem = s.mem) (s : State) :
    (xs.foldl f s).mem = s.mem := by
  induction xs generalizing s with
  | nil => rfl
  | cons x xs ih => rw [List.foldl_cons, ih, h]

/-- A register that only the step of one number sets holds what that step gives it. -/
theorem reg_foldl_of_mem {α : Type} {f : State → Nat × α → State} {xs : List (Nat × α)} {k i v : Nat} {b : Boot}
    (hboot : ∀ s e, (f s e).boot = s.boot) (hset : ∀ s, s.boot = b → ∀ x, (i, x) ∈ xs → reg (f s (i, x)) k = v)
    (hkeep : ∀ e ∈ xs, e.1 ≠ i → ∀ s, reg (f s e) k = reg s k) {x : α} (hx : (i, x) ∈ xs) {s : State} (hs : s.boot = b) :
    reg (xs.foldl f s) k = v := by
  induction xs generalizing s x with
  | nil => cases hx
  | cons e xs ih =>
    have hkeep' : ∀ e ∈ xs, e.1 ≠ i → ∀ s, reg (f s e) k = reg s k := fun e he => hkeep e (List.mem_cons_of_mem _ he)
    rw [List.foldl_cons]
    by_cases hlater : ∃ y, (i, y) ∈ xs
    · obtain ⟨y, hy⟩ := hlater
      exact ih (fun s hs x hx => hset s hs x (List.mem_cons_of_mem _ hx)) hkeep' hy ((hboot s e).trans hs)
    · have he : (i, x) = e := (List.mem_cons.mp hx).resolve_right fun h => hlater ⟨x, h⟩
      rw [reg_foldl_of_kept fun y hy => hkeep' y hy fun hyi => hlater ⟨y.2, hyi ▸ hy⟩, ← he]
      exact hset s hs x hx

/-- What a numbered list holds. -/
theorem mem_zip_range_iff {α : Type} {n i : Nat} {xs : List α} {x : α} : (i, x) ∈ (List.range n).zip xs ↔ i < n ∧ xs[i]? = some x := by
  rw [List.mem_iff_getElem?]
  simp only [List.getElem?_zip_eq_some, List.getElem?_eq_some_iff (l := List.range n), List.getElem_range, List.length_range]
  constructor
  · rintro ⟨j, ⟨hj, rfl⟩, hx⟩
    exact ⟨hj, hx⟩
  · rintro ⟨hi, hx⟩
    exact ⟨i, ⟨hi, rfl⟩, hx⟩

theorem dimmState_congr {s t : State} (h : t.boot.running = s.boot.running) (kind : Option Bool) (d : DimmIn) : dimmState t kind d = dimmState s kind d := by
  unfold dimmState
  rw [h]

theorem dimmKind_congr {s t : State} (h : t.boot.running = s.boot.running) (ds : List DimmIn) : dimmKind t ds = dimmKind s ds := by
  unfold dimmKind
  rw [h]

/-- The registers of a channel as its training leaves them, before what the result adds. -/
def dimmRegs (s : State) (ch : Nat) (d : DimmIn) (st : Nat) : State :=
  setReg (setReg (setReg s (Key.ddrState + ch) st) (Key.ddrCapacity + ch) (if st = 1 then d.capacity % 2 ^ 64 else 0))
    (Key.ddrSpdId + ch) (if d.present then d.spdId % 2 ^ 128 else 0)

/-- A channel that comes up sets its own registers; the mode and the Almanac's counter are the module's. -/
theorem setDimm_spec (s : State) (ch : Nat) (d : DimmIn) (st : Nat) :
    (∀ k, k ≠ Key.ddrMode → k ≠ Key.almOverwritten → reg (setDimm s ch d st) k = reg (dimmRegs s ch d st) k) ∧
    (setDimm s ch d st).boot = s.boot ∧ (setDimm s ch d st).mem = s.mem := by
  unfold setDimm
  extract_lets s₁ s₂ s₃
  split
  · obtain ⟨hmem, -⟩ := alm_memKept s₃ (0x60 + ch) 0x0020 (leBytes 1 ch ++ leBytes 1 st ++ leBytes 2 0 ++ leBytes 16 d.spdId)
    obtain ⟨-, -, hboot⟩ := alm_frame s₃ (0x60 + ch) 0x0020 (leBytes 1 ch ++ leBytes 1 st ++ leBytes 2 0 ++ leBytes 16 d.spdId)
    exact ⟨fun k _ hk => alm_regsKept s₃ _ _ _ k (by simpa using hk), hboot, hmem⟩
  · split
    · exact ⟨fun k hk _ => reg_setReg_ne _ _ hk, rfl, rfl⟩
    · exact ⟨fun k _ _ => rfl, rfl, rfl⟩

/-- The addresses of the registers of the DDR channels. -/
theorem ddrKeys : Key.ddrMode = 0x32000200 ∧ Key.ddrState = 0x32001000 ∧ Key.ddrCapacity = 0x32001100 ∧ Key.ddrSpdId = 0x32001600 ∧
    Key.almOverwritten = 0x61000400 ∧ Key.hbmState = 0x31001000 ∧ Key.hbmCapacity = 0x31001100 := ⟨rfl, rfl, rfl, rfl, rfl, rfl, rfl⟩

theorem reg_dimmRegs (s : State) (d : DimmIn) (st ch : Nat) :
    reg (dimmRegs s ch d st) (Key.ddrState + ch) = st ∧
    reg (dimmRegs s ch d st) (Key.ddrCapacity + ch) = (if st = 1 then d.capacity % 2 ^ 64 else 0) := by
  obtain ⟨-, hs, hc, hp, -⟩ := ddrKeys
  refine ⟨?_, ?_⟩
  · rw [dimmRegs, reg_setReg_ne _ _ (by omega), reg_setReg_ne _ _ (by omega), reg_setReg_same]
  · rw [dimmRegs, reg_setReg_ne _ _ (by omega), reg_setReg_same]

/-- One stack comes up. -/
def hbmStep (s : State) (e : Nat × Bool) : State :=
  if e.2 then setReg (setReg s (Key.hbmState + e.1) 1) (Key.hbmCapacity + e.1) 0xB2D05E000 else setReg s (Key.hbmState + e.1) 3

/-- One channel comes up, of the kind the channels train to. -/
def dimmStep (kind : Option Bool) (s : State) (e : Nat × DimmIn) : State := setDimm s e.1 e.2 (dimmState s kind e.2)

theorem hbmStep_frame (s : State) (e : Nat × Bool) : (hbmStep s e).boot = s.boot ∧ (hbmStep s e).mem = s.mem := by
  unfold hbmStep
  split <;> exact ⟨rfl, rfl⟩

theorem reg_hbmStep_same (s : State) (i : Nat) (b : Bool) :
    reg (hbmStep s (i, b)) (Key.hbmState + i) = if b then 1 else 3 := by
  obtain ⟨-, -, -, -, -, hs, hc⟩ := ddrKeys
  cases b
  · exact reg_setReg_same _ _ _
  · exact (reg_setReg_ne _ _ (by dsimp only; omega)).trans (reg_setReg_same _ _ _)

theorem reg_hbmStep_ne (s : State) {e : Nat × Bool} {i : Nat} (hi : i < 8) (he : e.1 ≠ i) :
    reg (hbmStep s e) (Key.hbmState + i) = reg s (Key.hbmState + i) := by
  obtain ⟨-, -, -, -, -, hs, hc⟩ := ddrKeys
  unfold hbmStep
  split
  · rw [reg_setReg_ne _ _ (by omega), reg_setReg_ne _ _ (by omega)]
  · rw [reg_setReg_ne _ _ (by omega)]

/-- A channel leaves the registers of the stacks. -/
theorem reg_dimmStep_hbm (kind : Option Bool) (s : State) (e : Nat × DimmIn) {i : Nat} (hi : i < 8) :
    reg (dimmStep kind s e) (Key.hbmState + i) = reg s (Key.hbmState + i) := by
  obtain ⟨hm, hs, hc, hp, ho, hh, -⟩ := ddrKeys
  rw [dimmStep, (setDimm_spec s _ _ _).1 _ (by omega) (by omega), dimmRegs, reg_setReg_ne _ _ (by omega), reg_setReg_ne _ _ (by omega),
    reg_setReg_ne _ _ (by omega)]

/-- A channel leaves the registers of another. -/
theorem reg_dimmStep_ne (kind : Option Bool) (s : State) {e : Nat × DimmIn} {i : Nat} (hi : i < 16) (he : e.1 < 16) (hne : e.1 ≠ i) :
    reg (dimmStep kind s e) (Key.ddrState + i) = reg s (Key.ddrState + i) ∧
    reg (dimmStep kind s e) (Key.ddrCapacity + i) = reg s (Key.ddrCapacity + i) := by
  obtain ⟨hm, hs, hc, hp, ho, -, -⟩ := ddrKeys
  refine ⟨?_, ?_⟩
  all_goals
    rw [dimmStep, (setDimm_spec s _ _ _).1 _ (by omega) (by omega), dimmRegs, reg_setReg_ne _ _ (by omega),
      reg_setReg_ne _ _ (by omega), reg_setReg_ne _ _ (by omega)]

theorem reg_dimmStep_same (kind : Option Bool) (s : State) {i : Nat} (d : DimmIn) (hi : i < 16) :
    reg (dimmStep kind s (i, d)) (Key.ddrState + i) = dimmState s kind d ∧
    reg (dimmStep kind s (i, d)) (Key.ddrCapacity + i) = (if dimmState s kind d = 1 then d.capacity % 2 ^ 64 else 0) := by
  obtain ⟨hm, hs, hc, -, ho, -, -⟩ := ddrKeys
  obtain ⟨hstate, hcap⟩ := reg_dimmRegs s d (dimmState s kind d) i
  rw [dimmStep]
  exact ⟨((setDimm_spec s _ _ _).1 _ (by omega) (by omega)).trans hstate, ((setDimm_spec s _ _ _).1 _ (by omega) (by omega)).trans hcap⟩

/-- The memory marked ready, and the stacks that come up. -/
def stacksUp (s : State) (hbm : List Bool) (t : Nat) : State :=
  ((List.range 8).zip hbm).foldl hbmStep { atTime s t with boot := { s.boot with memReady := true } }

theorem stacksUp_frame (s : State) (hbm : List Bool) (t : Nat) :
    (stacksUp s hbm t).boot = { s.boot with memReady := true } ∧ (stacksUp s hbm t).mem = s.mem :=
  ⟨boot_foldl_of_kept (fun s e => (hbmStep_frame s e).1) _, mem_foldl_of_kept (fun s e => (hbmStep_frame s e).2) _⟩

theorem reg_stacksUp (s : State) {hbm : List Bool} (t : Nat) {i : Nat} {b : Bool} (hi : i < 8) (hx : hbm[i]? = some b) :
    reg (stacksUp s hbm t) (Key.hbmState + i) = if b then 1 else 3 := by
  refine reg_foldl_of_mem (fun s e => (hbmStep_frame s e).1) (fun s _ x hmem => ?_) (fun e _ hne s => reg_hbmStep_ne s hi hne)
    (mem_zip_range_iff.mpr ⟨hi, hx⟩) rfl
  obtain rfl : b = x := Option.some.inj (hx.symm.trans (mem_zip_range_iff.mp hmem).2)
  exact reg_hbmStep_same s i b

/-- The channels that come up after the stacks. -/
theorem exec_memoryTrained_eq {s : State} (hbm : List Bool) (dimms : List DimmIn) (t : Nat) (hb : reg s Key.bootState = 3)
    (hm : s.boot.memReady = false) (hr : 6 ≤ s.pwr.rows) (hl : reg s Key.clkPllLocked = 1) :
    exec (.memoryTrained hbm dimms t) s =
      .next (((List.range 16).zip dimms).foldl (dimmStep (dimmKind s dimms)) (stacksUp s hbm t)) := by
  rw [← dimmKind_congr (t := stacksUp s hbm t) ((congrArg Boot.running (stacksUp_frame s hbm t).1).trans rfl)]
  exact congrArg Host.Outcome.next (if_pos ⟨hb, hm, hr, hl⟩)

theorem exec_memoryTrained_of_start {s : State} {hbm : List Bool} {dimms : List DimmIn} {t : Nat} (hb : reg s Key.bootState = 3)
    (hm : s.boot.memReady = false) (hr : 6 ≤ s.pwr.rows) (hl : reg s Key.clkPllLocked = 1) :
    ∃ u, exec (.memoryTrained hbm dimms t) s = .next u ∧ u.boot = { s.boot with memReady := true } ∧ u.mem = s.mem ∧
      (∀ i b, i < 8 → hbm[i]? = some b → reg u (Key.hbmState + i) = if b then 1 else 3) ∧
      (∀ i d, i < 16 → dimms[i]? = some d → reg u (Key.ddrState + i) = dimmState s (dimmKind s dimms) d ∧
        reg u (Key.ddrCapacity + i) = if dimmState s (dimmKind s dimms) d = 1 then d.capacity % 2 ^ 64 else 0) := by
  obtain ⟨hboot, hmem⟩ := stacksUp_frame s hbm t
  have hstep (u : State) (e : Nat × DimmIn) : (dimmStep (dimmKind s dimms) u e).boot = u.boot := (setDimm_spec _ _ _ _).2.1
  have hlt {e : Nat × DimmIn} (he : e ∈ (List.range 16).zip dimms) : e.1 < 16 := (mem_zip_range_iff.mp he).1
  refine ⟨_, exec_memoryTrained_eq hbm dimms t hb hm hr hl, (boot_foldl_of_kept hstep _).trans hboot,
    (mem_foldl_of_kept (fun _ _ => (setDimm_spec _ _ _ _).2.2) _).trans hmem, fun i b hi hx => ?_, fun i d hi hx => ?_⟩
  · rw [reg_foldl_of_kept fun e _ u => reg_dimmStep_hbm _ u e hi]
    exact reg_stacksUp s t hi hx
  · have hsame {u : State} (hu : u.boot = { s.boot with memReady := true }) {x : DimmIn} (hmem : (i, x) ∈ (List.range 16).zip dimms) :
        reg (dimmStep (dimmKind s dimms) u (i, x)) (Key.ddrState + i) = dimmState s (dimmKind s dimms) d ∧
        reg (dimmStep (dimmKind s dimms) u (i, x)) (Key.ddrCapacity + i) =
          if dimmState s (dimmKind s dimms) d = 1 then d.capacity % 2 ^ 64 else 0 := by
      obtain rfl : d = x := Option.some.inj (hx.symm.trans (mem_zip_range_iff.mp hmem).2)
      rw [← dimmState_congr (t := u) ((congrArg Boot.running hu).trans rfl)]
      exact reg_dimmStep_same _ u d hi
    have hmem := mem_zip_range_iff.mpr ⟨hi, hx⟩
    exact ⟨reg_foldl_of_mem hstep (fun u hu x hm => (hsame hu hm).1) (fun e he hne u => (reg_dimmStep_ne _ u hi (hlt he) hne).1) hmem hboot,
      reg_foldl_of_mem hstep (fun u hu x hm => (hsame hu hm).2) (fun e he hne u => (reg_dimmStep_ne _ u hi (hlt he) hne).2) hmem hboot⟩

/-! ## Read-out (R294, R494) -/

@[simp] theorem strandRec_length (x : Strand) (st : Nat) : (strandRec x st).length = 32 := by simp [strandRec]

@[simp] theorem strandBytes_length (s : State) (tile o : Nat) : (strandBytes s tile o).length = 64 := by
  unfold strandBytes
  rw [List.length_flatMap]
  refine (congrArg List.sum (List.map_congr_left (g := fun _ => 32) fun i _ => ?_)).trans rfl
  split <;> simp

/-- A span of a read-out is 64 bytes. -/
@[simp] theorem readoutSpan_length (s : State) (a : Nat) : (readoutSpan s a).length = 64 := by
  unfold readoutSpan
  split
  · simp
  · split
    · simp
    · split
      · simp
      · simp

theorem flatMap_readoutSpan_length (s : State) (a n : Nat) :
    ((readoutAddrs a n).flatMap (readoutSpan s)).length = n / 64 * 64 := by
  simp [readoutAddrs, List.length_flatMap, Function.comp_def]

theorem mapped_atTime (s : State) (t a : Nat) : mapped (atTime s t) a = mapped s a := by unfold mapped; rfl
theorem strandBytes_atTime (s : State) (t a b : Nat) : strandBytes (atTime s t) a b = strandBytes s a b := by unfold strandBytes; rfl
theorem devWord_atTime (s : State) (t a : Nat) : devWord (atTime s t) a = devWord s a := rfl
theorem pbaWord_atTime (s : State) (t a : Nat) : pbaWord (atTime s t) a = pbaWord s a := rfl
theorem mbxStatusWord_atTime (s : State) (t a : Nat) : mbxStatusWord (atTime s t) a = mbxStatusWord s a := rfl
theorem chanOf_atTime (s : State) (t a : Nat) : chanOf (atTime s t) a = chanOf s a := rfl
theorem queueOf_atTime (s : State) (t a : Nat) : queueOf (atTime s t) a = queueOf s a := rfl

theorem deviceWord_atTime (s : State) (t a : Nat) : deviceWord (atTime s t) a = deviceWord s a := by
  unfold deviceWord
  simp only [devWord_atTime, pbaWord_atTime, mbxStatusWord_atTime, chanOf_atTime, queueOf_atTime, atTime_cxl]

theorem readoutSpan_atTime (s : State) (t a : Nat) : readoutSpan (atTime s t) a = readoutSpan s a := by
  unfold readoutSpan
  simp only [mapped_atTime, strandBytes_atTime, deviceWord_atTime, atTime_mem]

/-- A read-out's note is one entry at most, and changes nothing else but the Almanac's counter. -/
theorem noteUnmapped_spec (s : State) (a n : Nat) :
    (noteUnmapped s a n).alm.next =
      (if (readoutAddrs a n).all (mapped s) then s.alm.next else (s.alm.next + 1) % 2 ^ 32) ∧
    MemKept s (noteUnmapped s a n) := by
  unfold noteUnmapped
  split
  next x hx =>
    have hall : ¬ (readoutAddrs a n).all (mapped s) = true := by
      intro hall
      have hmap := List.all_eq_true.mp hall x (List.mem_of_find?_eq_some hx)
      have hnot := List.find?_some hx
      simp [hmap] at hnot
    rw [if_neg hall]
    exact ⟨almFull_next _ _ _ _ _ _ _ _, alm_memKept _ _ _ _⟩
  next hx =>
    have hall : (readoutAddrs a n).all (mapped s) = true :=
      List.all_eq_true.mpr fun x hmem => by simpa using List.find?_eq_none.mp hx x hmem
    rw [if_pos hall]
    exact ⟨rfl, rfl, rfl, rfl⟩

theorem exec_readoutDone_eq {s : State} {t : Nat} (hr : reg s Key.frzReadState = 1) (hf : 2 ≤ reg s Key.frzState)
    (hd : s.err.readDest ≠ 0 → reg s Key.frzState ≠ 4 ∧ reg s Key.cxlLinkState = 2) :
    let bs := (readoutAddrs s.err.readAddr s.err.readLen).flatMap (readoutSpan s)
    let v := noteUnmapped (atTime s t) s.err.readAddr s.err.readLen
    exec (.readoutDone t) s = .next (setReg (setReg (setReg
      (if s.err.readDest = 0 then setReg v Key.frzReadBuf (leNat bs) else putHost v s.err.readDest bs)
      Key.frzReadState 2) Key.frzReadDone s.err.readLen) Key.frzReadPoison (stick32 (readoutBytes s s.err.readAddr s.err.readLen).2)) := by
  intro bs v
  have hgo : ¬ (reg s Key.frzState < 2 ∨ (s.err.readDest ≠ 0 ∧ (reg s Key.frzState = 4 ∨ reg s Key.cxlLinkState ≠ 2))) := by
    rintro (h | ⟨hne, h | h⟩)
    · exact Nat.not_lt.mpr hf h
    · exact (hd hne).1 h
    · exact h (hd hne).2
  have hspan : (readoutAddrs s.err.readAddr s.err.readLen).flatMap (readoutSpan (atTime s t)) = bs :=
    congrArg (fun f => List.flatMap f _) (funext (readoutSpan_atTime s t))
  rw [← hspan]
  exact congrArg Host.Outcome.next ((if_pos hr).trans (if_neg hgo))

theorem exec_readoutDone_of_register {s : State} {t : Nat} (hr : reg s Key.frzReadState = 1) (hf : 2 ≤ reg s Key.frzState)
    (hd : s.err.readDest = 0) :
    let as := readoutAddrs s.err.readAddr s.err.readLen
    ∃ u, exec (.readoutDone t) s = .next u ∧ reg u Key.frzReadState = 2 ∧ reg u Key.frzReadDone = s.err.readLen ∧
      reg u Key.frzReadBuf = leNat (as.flatMap (readoutSpan s)) ∧
      u.alm.next = (if as.all (mapped s) then s.alm.next else (s.alm.next + 1) % 2 ^ 32) ∧ u.mem = s.mem ∧ u.host = s.host := by
  obtain ⟨hnext, hmem, hhost, -⟩ := noteUnmapped_spec (atTime s t) s.err.readAddr s.err.readLen
  have hexec := exec_readoutDone_eq hr hf (t := t) fun h => absurd hd h
  simp only [if_pos hd] at hexec
  refine ⟨_, hexec, ?_, ?_, ?_, ?_, hmem, hhost⟩
  · simp (disch := decide) [reg_setReg_ne]
  · simp (disch := decide) [reg_setReg_ne]
  · simp (disch := decide) [reg_setReg_ne]
  · simpa only [setReg_alm, atTime_alm, funext (mapped_atTime s t)] using hnext

theorem exec_readoutDone_of_host {s : State} {t : Nat} (hr : reg s Key.frzReadState = 1) (hf : 2 ≤ reg s Key.frzState)
    (hd : s.err.readDest ≠ 0) (hf4 : reg s Key.frzState ≠ 4) (hl : reg s Key.cxlLinkState = 2) :
    let as := readoutAddrs s.err.readAddr s.err.readLen
    ∃ u, exec (.readoutDone t) s = .next u ∧ reg u Key.frzReadState = 2 ∧ reg u Key.frzReadDone = s.err.readLen ∧
      (∀ i, i < s.err.readLen / 64 * 64 → Tab.get 0 u.host (s.err.readDest + i) = (as.flatMap (readoutSpan s)).getD i 0) ∧
      u.mem = s.mem := by
  obtain ⟨-, hmem, -⟩ := noteUnmapped_spec (atTime s t) s.err.readAddr s.err.readLen
  have hexec := exec_readoutDone_eq hr hf (t := t) fun _ => ⟨hf4, hl⟩
  simp only [if_neg hd] at hexec
  refine ⟨_, hexec, ?_, ?_, fun i hi => ?_, hmem⟩
  · simp (disch := decide) [reg_setReg_ne]
  · simp (disch := decide) [reg_setReg_ne]
  · exact Tab.get_setRange_at _ _ _ _ _ (by rwa [flatMap_readoutSpan_length])

theorem getElem?_getRange {α : Type} (d : α) (t : Tab α) (x : Nat) {n i : Nat} (hi : i < n) :
    (Tab.getRange d t x n)[i]? = some (Tab.get d t (x + i)) := by
  induction n generalizing x i with
  | zero => cases hi
  | succ n ih =>
    cases i with
    | zero => rfl
    | succ i =>
      rw [Tab.getRange, List.getElem?_cons_succ, ih _ (Nat.lt_of_succ_lt_succ hi), Nat.add_assoc, Nat.add_comm 1 i]

theorem readoutSpan_spec (s : State) (a : Nat) : (mapped s a = false → readoutSpan s a = List.replicate 64 0) ∧
    (mapped s a = true → hbmBase ≤ a → a < deviceBase → ∀ i, i < 64 → (readoutSpan s a)[i]? = some (byteAt s (a + i))) := by
  refine ⟨fun h => if_pos h, fun h hlo hhi i hi => ?_⟩
  have hspan : readoutSpan s a = Tab.getRange 0 s.mem.bytes a 64 := by
    rw [readoutSpan, if_neg (by simp [h]), if_neg fun hx => Nat.not_lt.mpr hlo hx.1,
      if_neg (Nat.not_le.mpr hhi)]
  rw [hspan]
  exact getElem?_getRange 0 s.mem.bytes a hi

/-! ## The management bus (R436) -/

theorem exec_bus_of_managed {s : State} (hm : s.pwr.managed = true) :
    (∀ a, 1 ≤ a → a ≤ 0x7E → exec (.entdaa a) s = .next
      (setReg (send s (.provisionalId (Config.provisionalId (reg s Key.idUnique) % 2 ^ 48))) Key.i3cDynAddr a)) ∧
    (∀ e, 1 ≤ e → e ≤ 254 → ∃ u, exec (.setEndpointId e) s = .next u ∧ u.srv.eid = e ∧
      { u with srv := s.srv, out := s.out } = s ∧
      ∃ v, exec .getEndpointId u = .next v ∧ v.out = u.out ++ [.mctp [2, 0, BitVec.ofNat 8 e, 0, 0]]) ∧
    exec .getEndpointId s = .next (send s (.mctp ([2, 0] ++ leBytes 1 s.srv.eid ++ [0, 0]))) ∧
    (∀ ty, ty ∈ [0xFF, 0x00, 0x05, 0x06, 0x7E] →
      exec (.getMctpVersionSupport ty) s = .next (send s (.mctp ([4, 0, 1] ++ leBytes 4 (Config.mctpVersion ty))))) ∧
    exec .getMessageTypeSupport s = .next (send s (.mctp [5, 0, 3, 5, 6, 0x7E])) := by
  have htarget {s : State} (hm : s.pwr.managed = true) (go : State → State) : asTarget s go = go s := if_pos hm
  refine ⟨fun a hlo hhi => ?_, fun e hlo hhi => ?_, congrArg Host.Outcome.next (htarget hm _), fun ty hty => ?_,
    congrArg Host.Outcome.next (htarget hm _)⟩
  · exact congrArg Host.Outcome.next ((htarget hm _).trans (if_pos ⟨hlo, hhi⟩))
  · have hne : ¬ (e = 0 ∨ 255 ≤ e) := by omega
    refine ⟨_, congrArg Host.Outcome.next ((htarget hm _).trans (if_neg hne)), rfl, rfl, _,
      congrArg Host.Outcome.next (if_pos hm), rfl⟩
  · have hknown : ty = 0xFF ∨ ty = 0 ∨ ty ∈ mctpTypes := by simpa [mctpTypes] using hty
    exact congrArg Host.Outcome.next ((htarget hm _).trans (if_pos hknown))

/-- Settles O50: one lemma for each command; the watchdog's third expiry by what an abort of the queues leaves, a fuse step by the
cells it leaves. -/
theorem firmwareCommands : Obligations.FirmwareCommands :=
  ⟨⟨fun _ _ => exec_loadIdleTimeout_of_idle, fun _ _ => exec_firmwareReady_of_start, fun _ _ => exec_firmwareReady_of_frozen,
    fun _ _ => exec_firmwareReady_of_activating, fun _ _ => exec_activationFallback_of_due, fun _ _ => exec_watchdogExpiry_of_runs,
    fun _ _ => exec_imageBankError_of_image, fun _ _ _ => exec_fuseStepBlown_of_commit, fun _ _ _ _ => exec_memoryTrained_of_start,
    fun _ _ hr hf => ⟨exec_readoutDone_of_register hr hf, exec_readoutDone_of_host hr hf⟩, readoutSpan_spec⟩,
    fun _ => exec_bus_of_managed⟩

end Sys2Proof.Scope

/-! The wire forms of the fabric (R335, R336, R341, R349, R357): numbers packed into a header field by field, a packet read from
its chunks, a flit, a lane's codeword and the dealing of bytes to lanes. -/

namespace Sys2Proof.Scope
open Sys2Proof Sys2Proof.Machine Sys2Proof.Machine.Claim

/-! ## Numbers packed field by field, the lowest first -/

/-- The number that fields of given widths make up, each a value and its width in bits. -/
def packed : List (Nat × Nat) → Nat
  | [] => 0
  | (v, n) :: fs => v + 2 ^ n * packed fs

/-- The lowest field. -/
theorem bits_packed_first {v n : Nat} (fs : List (Nat × Nat)) (h : v < 2 ^ n) : bits (packed ((v, n) :: fs)) 0 n = v := by
  simp [bits, packed, Nat.mod_eq_of_lt h]

/-- A field past the lowest. -/
theorem bits_packed_skip {v n lo k : Nat} (fs : List (Nat × Nat)) (h : v < 2 ^ n) (hlo : n ≤ lo) :
    bits (packed ((v, n) :: fs)) lo k = bits (packed fs) (lo - n) k := by
  obtain ⟨lo, rfl⟩ := Nat.exists_eq_add_of_le hlo
  rw [bits, bits, packed, Nat.pow_add, ← Nat.div_div_eq_div_mul, Nat.add_mul_div_left _ _ (Nat.two_pow_pos n),
    Nat.div_eq_of_lt h, Nat.zero_add, Nat.add_sub_cancel_left]

/-- Fields that fit their widths make up a number that fits them all. -/
theorem packed_lt (fs : List (Nat × Nat)) (h : ∀ f ∈ fs, f.1 < 2 ^ f.2) : packed fs < 2 ^ (fs.map (·.2)).sum := by
  induction fs with
  | nil => simp [packed]
  | cons f fs ih =>
    have hv : f.1 + 1 ≤ 2 ^ f.2 := h f (by simp)
    have hrest : packed fs + 1 ≤ 2 ^ (fs.map (·.2)).sum := ih fun g hg => h g (by simp [hg])
    calc f.1 + 2 ^ f.2 * packed fs < 2 ^ f.2 * (packed fs + 1) := by rw [Nat.mul_succ]; omega
      _ ≤ 2 ^ f.2 * 2 ^ (fs.map (·.2)).sum := Nat.mul_le_mul_left _ hrest
      _ = 2 ^ ((f :: fs).map (·.2)).sum := by rw [List.map_cons, List.sum_cons, Nat.pow_add]

/-- Fields that fit their widths are kept by as many bytes as hold them. -/
theorem leNat_leBytes_packed {fs : List (Nat × Nat)} {n : Nat} (h : ∀ f ∈ fs, f.1 < 2 ^ f.2) (hn : (fs.map (·.2)).sum ≤ 8 * n) :
    leNat (leBytes n (packed fs)) = packed fs := by
  rw [leNat_leBytes, show 256 = 2 ^ 8 from rfl, ← Nat.pow_mul]
  exact Nat.mod_eq_of_lt ((packed_lt fs h).trans_le (Nat.pow_le_pow_right (by decide) hn))

theorem bit_eq_bits (v i : Nat) : bit v i = decide (bits v i 1 = 1) := by simp [bit, bits]

theorem toNat_lt_two (b : Bool) : b.toNat < 2 ^ 1 := Bool.toNat_lt b

theorem decide_toNat_eq_one (b : Bool) : decide (b.toNat = 1) = b := by cases b <;> rfl

/-! ## Packets (R341, R349, R357) -/

/-- The fields of a header, the CRC's included, as R349 lays them out; reserved bits are 0. -/
def hdrFields (p : Pkt) : List (Nat × Nat) :=
  [(p.ty, 8), (p.tc, 2), (p.vc, 1), (p.ord.toNat, 1), (p.flag.toNat, 1), (p.ce.toNat, 1), (p.ece.toNat, 1), (p.mc.toNat, 1),
   (p.dst, 12), (p.src, 12), (p.epoch, 16), (p.part, 12), (p.eph, 16), (p.sdie, 2), (0, 2), (p.seq, 16), (p.txid, 16),
   (p.len, 13), (0, 3), (p.addr, 64), (p.aux, 16), (p.qc.toNat, 1), (p.shr.toNat, 1), (0, 6), (p.sum, 32)]

/-- The fields of the multicast extension (R357). -/
def extFields (p : Pkt) : List (Nat × Nat) := [(p.xmask, 16), (p.ymask, 16), (p.zmask, 16), (p.stage, 2), (p.dir.toNat, 1)]

theorem hdrNat_eq_packed {p : Pkt} (h : ∀ f ∈ hdrFields p, f.1 < 2 ^ f.2) :
    hdrNat p + p.sum % 2 ^ 32 * 2 ^ 224 = packed (hdrFields p) := by
  simp only [hdrFields, List.forall_mem_cons] at h
  simp only [hdrNat, hdrFields, packed]
  omega

theorem extNat_eq_packed {p : Pkt} (h : ∀ f ∈ extFields p, f.1 < 2 ^ f.2) : extNat p = packed (extFields p) := by
  simp only [extFields, List.forall_mem_cons] at h
  simp only [extNat, extFields, packed]
  omega

/-- The 32 bytes of a header are read field by field (R349). -/
theorem decodeHdr_append {p : Pkt} (h : ∀ f ∈ hdrFields p, f.1 < 2 ^ f.2) (bs : List Byte) :
    decodeHdr (leBytes 32 (hdrNat p + p.sum % 2 ^ 32 * 2 ^ 224) ++ bs) =
      { p with xmask := 0, ymask := 0, zmask := 0, stage := 0, dir := false, payload := [] } := by
  simp only [decodeHdr]
  rw [List.take_left' (leBytes_length _ _), hdrNat_eq_packed h, leNat_leBytes_packed h (by simp [hdrFields])]
  simp only [hdrFields, List.forall_mem_cons] at h
  simp only [hdrFields, bit_eq_bits, bits_packed_skip, bits_packed_first, Nat.reduceLeDiff, Nat.reduceSub, Nat.le_refl, Nat.sub_self,
    decide_toNat_eq_one, h]


/-- A payload takes whole chunks of 16 bytes (R341). -/
theorem pad16_length (bs : List Byte) : (pad16 bs).length = 16 * cdiv bs.length 16 := by
  simp only [pad16, List.length_append, List.length_replicate, cdiv]
  omega

/-- The header a packet's chunks begin with (R349). -/
def hdrBytes (p : Pkt) : List Byte := leBytes 32 (hdrNat p + p.sum % 2 ^ 32 * 2 ^ 224)

/-- The extension that follows a multicast packet's header (R357). -/
def extBytes (p : Pkt) : List Byte := if p.mc then leBytes 16 (extNat p) else []

theorem encodePkt_eq (p : Pkt) : encodePkt p = hdrBytes p ++ extBytes p ++ pad16 p.payload := rfl

/-- A packet occupies the chunks its header says (R341). -/
theorem encodePkt_length {p : Pkt} (h : p.payload.length = payloadLen p.ty p.len) : (encodePkt p).length = 16 * pktChunks p := by
  rw [encodePkt_eq, List.length_append, List.length_append, pad16_length, h, pktChunks]
  cases hmc : p.mc <;> simp [hdrBytes, extBytes, hmc] <;> omega

/-- The extension is read field by field (R357). -/
theorem decodeExt_append {p : Pkt} (h : ∀ f ∈ extFields p, f.1 < 2 ^ f.2) (bs : List Byte) :
    let e := leNat ((leBytes 16 (extNat p) ++ bs).take 16)
    bits e 0 16 = p.xmask ∧ bits e 16 16 = p.ymask ∧ bits e 32 16 = p.zmask ∧ bits e 48 2 = p.stage ∧ bit e 50 = p.dir := by
  simp only
  rw [List.take_left' (leBytes_length _ _), extNat_eq_packed h, leNat_leBytes_packed h (by simp [extFields])]
  simp only [extFields, List.forall_mem_cons] at h
  refine ⟨?_, ?_, ?_, ?_, ?_⟩ <;>
    simp only [extFields, bit_eq_bits, bits_packed_skip, bits_packed_first, Nat.reduceLeDiff, Nat.reduceSub, Nat.le_refl,
      Nat.sub_self, decide_toNat_eq_one, h]

/-- The front packet of a stream that is whole (R341, R349). -/
theorem decodePkt_of_whole {bs : List Byte} {n : Nat} (hn : 16 * pktChunks (decodeHdr bs) = n) (h : n ≤ bs.length) (h32 : 32 ≤ n) :
    decodePkt bs = 
      let h := decodeHdr bs
      let e := leNat ((bs.drop 32).take 16)
      let p := if h.mc then { h with xmask := bits e 0 16, ymask := bits e 16 16, zmask := bits e 32 16,
                                     stage := bits e 48 2, dir := bit e 50 } else h
      some ({ p with payload := (bs.drop (if h.mc then 48 else 32)).take (payloadLen h.ty h.len) }, bs.drop n) := by
  subst hn
  rw [decodePkt, if_neg (by omega)]
  exact if_neg (by omega)

/-- A receiver reads the packet that was sent, and what follows it (R341, R349, R357). -/
theorem decodePkt_encodePkt {p : Pkt} (hhdr : ∀ f ∈ hdrFields p, f.1 < 2 ^ f.2) (hext : ∀ f ∈ extFields p, f.1 < 2 ^ f.2)
    (hone : p.mc = false → p.xmask = 0 ∧ p.ymask = 0 ∧ p.zmask = 0 ∧ p.stage = 0 ∧ p.dir = false)
    (hlen : p.payload.length = payloadLen p.ty p.len) (rest : List Byte) :
    decodePkt (encodePkt p ++ rest) = some (p, rest) := by
  have hdec := decodeHdr_append hhdr (extBytes p ++ (pad16 p.payload ++ rest))
  have hbytes : encodePkt p ++ rest = hdrBytes p ++ (extBytes p ++ (pad16 p.payload ++ rest)) := by
    simp only [encodePkt_eq, List.append_assoc]
  have hpad : (pad16 p.payload ++ rest).take (payloadLen p.ty p.len) = p.payload := by
    rw [pad16, List.append_assoc, List.take_left' hlen]
  have hdrop : (encodePkt p ++ rest).drop (16 * pktChunks p) = rest := List.drop_left' (encodePkt_length hlen)
  have hd32 : ∀ bs, (hdrBytes p ++ bs).drop 32 = bs := fun bs => List.drop_left' (leBytes_length _ _)
  rw [decodePkt_of_whole (n := 16 * pktChunks p) (by rw [hbytes, hdrBytes, hdec]; rfl)
    (by rw [List.length_append, encodePkt_length hlen]; omega) (by rw [pktChunks]; omega), hdrop, hbytes]
  simp only [hdrBytes] at hd32 ⊢
  simp only [hdec, hd32]
  cases hmc : p.mc with
  | true =>
    obtain ⟨hx, hy, hz, hst, hdir⟩ := decodeExt_append hext (pad16 p.payload ++ rest)
    have hd48 : ((leBytes 32 (hdrNat p + p.sum % 2 ^ 32 * 2 ^ 224)) ++ (extBytes p ++ (pad16 p.payload ++ rest))).drop 48 =
        pad16 p.payload ++ rest := by
      rw [← List.append_assoc]
      exact List.drop_left' (by simp [extBytes, hmc])
    simp only [extBytes, hmc, if_true] at hd48 ⊢
    simp only [hx, hy, hz, hst, hdir, hd48, hpad, ← hmc]
  | false =>
    obtain ⟨hx, hy, hz, hst, hdir⟩ := hone hmc
    simp only [extBytes, hmc, Bool.false_eq_true, if_false, List.nil_append, hd32, hpad]
    cases p
    simp only at hx hy hz hst hdir hmc
    subst hx hy hz hst hdir hmc
    rfl


/-! ## Flits (R341) -/

theorem crcBit_lt {poly c : Nat} (hp : poly < 2 ^ 32) (hc : c < 2 ^ 32) : crcBit poly c < 2 ^ 32 := by
  have hhalf : c / 2 < 2 ^ 32 := by omega
  rw [crcBit]
  split
  · exact Nat.xor_lt_two_pow hhalf hp
  · exact hhalf

theorem crcByte_lt {poly c : Nat} (hp : poly < 2 ^ 32) (hc : c < 2 ^ 32) (b : Byte) : crcByte poly c b < 2 ^ 32 :=
  have hx : Nat.xor c b.toNat < 2 ^ 32 := Nat.xor_lt_two_pow hc (b.isLt.trans (by decide))
  crcBit_lt hp (crcBit_lt hp (crcBit_lt hp (crcBit_lt hp (crcBit_lt hp (crcBit_lt hp (crcBit_lt hp (crcBit_lt hp hx)))))))

/-- A CRC has 32 bits (R275, R341). -/
theorem crc32With_lt {poly : Nat} (hp : poly < 2 ^ 32) (bs : List Byte) : crc32With poly bs < 2 ^ 32 := by
  have hfold : ∀ c < 2 ^ 32, bs.foldl (crcByte poly) c < 2 ^ 32 := by
    induction bs with
    | nil => exact fun c hc => hc
    | cons b bs ih => exact fun c hc => ih _ (crcByte_lt hp hc b)
  exact Nat.xor_lt_two_pow (hfold _ (by decide)) (by decide)

/-- The fields of a flit's header (R341). -/
def flitFields (seq ack : Nat) (nak idle park widen : Bool) (start cr : Nat) : List (Nat × Nat) :=
  [(seq, 12), (ack, 12), (nak.toNat, 1), (idle.toNat, 1), (park.toNat, 1), (widen.toNat, 1), (start, 4), (cr, 32)]

/-- The 240 bytes of a flit that carry chunks: its payload, the rest zero (R341). -/
def flitBody (payload : List Byte) : List Byte := (payload ++ List.replicate 240 0).take 240

theorem flitBody_length (payload : List Byte) : (flitBody payload).length = 240 :=
  List.length_take_of_le (by rw [List.length_append, List.length_replicate]; exact Nat.le_add_left _ _)

section
variable {seq ack start cr : Nat} {nak idle park widen : Bool}

theorem mkFlit_eq (h : ∀ f ∈ flitFields seq ack nak idle park widen start cr, f.1 < 2 ^ f.2) (payload : List Byte) :
    let body := leBytes 12 (packed (flitFields seq ack nak idle park widen start cr)) ++ flitBody payload
    mkFlit seq ack nak idle park widen start cr payload = body ++ leBytes 4 (crc32c body) := by
  simp only [flitFields, List.forall_mem_cons] at h
  have hnum : seq % 4096 + ack % 4096 * 2 ^ 12 + nak.toNat * 2 ^ 24 + idle.toNat * 2 ^ 25 + park.toNat * 2 ^ 26 +
      widen.toNat * 2 ^ 27 + start % 16 * 2 ^ 28 + cr % 2 ^ 32 * 2 ^ 32 =
      packed (flitFields seq ack nak idle park widen start cr) := by
    simp only [flitFields, packed]
    omega
  rw [← hnum]
  rfl

/-- A flit's header is read from its first 12 bytes. -/
theorem leNat_take_mkFlit (h : ∀ f ∈ flitFields seq ack nak idle park widen start cr, f.1 < 2 ^ f.2) (payload : List Byte) :
    leNat ((mkFlit seq ack nak idle park widen start cr payload).take 12) =
      packed (flitFields seq ack nak idle park widen start cr) := by
  rw [mkFlit_eq h, List.append_assoc, List.take_left' (leBytes_length _ _)]
  exact leNat_leBytes_packed h (by simp [flitFields])

/-- The CRC of a flit as it was sent holds. -/
theorem flitOk_mkFlit (h : ∀ f ∈ flitFields seq ack nak idle park widen start cr, f.1 < 2 ^ f.2) (payload : List Byte) :
    flitOk (mkFlit seq ack nak idle park widen start cr payload) = true := by
  rw [mkFlit_eq h]
  set body := leBytes 12 (packed (flitFields seq ack nak idle park widen start cr)) ++ flitBody payload with hbody
  have hlen : body.length = 252 := by simp [hbody, flitBody_length]
  have hcrc : crc32c body < 2 ^ 32 := crc32With_lt (by decide) body
  have hfield : field (body ++ leBytes 4 (crc32c body)) 252 4 = crc32c body := by
    rw [field, List.drop_left' hlen, List.take_of_length_le (by simp), leNat_leBytes]
    exact Nat.mod_eq_of_lt hcrc
  rw [flitOk, hfield, List.take_left' hlen, List.length_append, hlen, leBytes_length, beq_self_eq_true, beq_self_eq_true]
  rfl

/-- The payload is read from the 240 bytes after the header. -/
theorem payload_mkFlit (h : ∀ f ∈ flitFields seq ack nak idle park widen start cr, f.1 < 2 ^ f.2) {payload : List Byte}
    (hlen : payload.length ≤ 240) :
    (((mkFlit seq ack nak idle park widen start cr payload).drop 12).take 240).take payload.length = payload := by
  rw [mkFlit_eq h, List.append_assoc, List.drop_left' (leBytes_length _ _), List.take_left' (flitBody_length payload), flitBody,
    List.take_take, Nat.min_eq_left hlen, List.take_left]

end

/-! ## The scrambler and the code of a lane (R335) -/

/-- The receiver takes off what the sender put on, and holds the same bits after it. -/
theorem descramble_scramble (h : Nat) (bs : List Bool) : descramble h (scramble h bs).1 = (bs, (scramble h bs).2) := by
  induction bs generalizing h with
  | nil => rfl
  | cons b bs ih => simp [scramble, descramble, ih]

theorem scramble_length (h : Nat) (bs : List Bool) : (scramble h bs).1.length = bs.length := by
  induction bs generalizing h with
  | nil => rfl
  | cons b bs ih => simp [scramble, ih]

/-- What a received word decodes to is a codeword no further than 13 symbols away (R335). -/
theorem rsDecode_spec {w c : List Nat} {k : Nat} (h : rsDecode w = some (c, k)) :
    c.length = w.length ∧ (rsSyndromes c).all (· == 0) = true ∧ k ≤ 13 ∧
      k = ((List.zip c w).filter (fun e => e.1 != e.2)).length := by
  simp only [rsDecode] at h
  split at h
  case isTrue hzero =>
    cases h
    refine ⟨rfl, hzero, by decide, Eq.symm (List.length_eq_zero_iff.mpr (List.filter_eq_nil_iff.mpr fun e he => ?_))⟩
    obtain ⟨i, hi, rfl⟩ := List.getElem_of_mem he
    simp
  case isFalse =>
    split at h
    case isTrue => cases h
    case isFalse =>
      split at h
      case isFalse => cases h
      case isTrue hfixed =>
        cases h
        simp only [Bool.and_eq_true, decide_eq_true_eq] at hfixed
        exact ⟨by simp, hfixed.1, hfixed.2, rfl⟩

/-! ## Bits of numbers, and pieces of a list -/

theorem bitsOf_length (n v : Nat) : (bitsOf n v).length = n := by simp [bitsOf]

theorem bitsOf_succ (n v : Nat) : bitsOf (n + 1) v = v.testBit 0 :: bitsOf n (v / 2) := by
  simp [bitsOf, List.range_succ_eq_map, Nat.testBit_succ]

/-- The number of a number's lowest bits. -/
theorem ofBits_bitsOf (n v : Nat) : ofBits (bitsOf n v) = v % 2 ^ n := by
  induction n generalizing v with
  | zero => simp [bitsOf, ofBits, Nat.mod_one]
  | succ n ih =>
    rw [bitsOf_succ, ofBits, List.foldr_cons]
    change (v.testBit 0).toNat + 2 * ofBits (bitsOf n (v / 2)) = _
    rw [ih, Nat.pow_succ', Nat.mod_mul, Nat.testBit_zero]
    rcases Nat.mod_two_eq_zero_or_one v with h | h <;> simp [h]

/-- The bits of the number that bits spell. -/
theorem bitsOf_ofBits (bs : List Bool) : bitsOf bs.length (ofBits bs) = bs := by
  induction bs with
  | nil => rfl
  | cons b bs ih =>
    have hcons : ofBits (b :: bs) = b.toNat + 2 * ofBits bs := rfl
    have hlow : (ofBits (b :: bs)).testBit 0 = b := by cases b <;> simp [hcons, Nat.testBit_zero, Nat.add_mod]
    have hhigh : ofBits (b :: bs) / 2 = ofBits bs := by
      have := Bool.toNat_lt b
      omega
    rw [List.length_cons, bitsOf_succ, hlow, hhigh, ih]

theorem cutInto_length {α : Type} (k n : Nat) (xs : List α) : (cutInto k n xs).length = n := by
  induction n generalizing xs with
  | zero => rfl
  | succ n ih => simp [cutInto, ih]

/-- The pieces make up the list they were cut from. -/
theorem flatten_cutInto {α : Type} {k n : Nat} {xs : List α} (h : xs.length = k * n) : (cutInto k n xs).flatten = xs := by
  induction n generalizing xs with
  | zero => simpa [cutInto] using Eq.symm (List.length_eq_zero_iff.mp h)
  | succ n ih =>
    rw [cutInto, List.flatten_cons, ih (by rw [List.length_drop, h, Nat.mul_succ]; omega), List.take_append_drop]

/-- Every piece has the length asked for. -/
theorem length_of_mem_cutInto {α : Type} {k n : Nat} {xs p : List α} (h : xs.length = k * n) (hp : p ∈ cutInto k n xs) :
    p.length = k := by
  induction n generalizing xs with
  | zero => cases hp
  | succ n ih =>
    have hk : k ≤ xs.length := by rw [h, Nat.mul_succ]; omega
    obtain rfl | hp := List.mem_cons.mp hp
    · exact List.length_take_of_le hk
    · exact ih (by rw [List.length_drop, h, Nat.mul_succ]; omega) hp

/-- What was joined of pieces of one length is cut into them again. -/
theorem cutInto_flatMap {α β : Type} {k : Nat} {f : α → List β} (xs : List α) (h : ∀ x, (f x).length = k) :
    cutInto k xs.length (xs.flatMap f) = xs.map f := by
  induction xs with
  | nil => rfl
  | cons x xs ih =>
    rw [List.length_cons, cutInto, List.flatMap_cons, List.take_left' (h x), List.drop_left' (h x), ih, List.map_cons]

/-! ## A lane (R335, R336) -/

/-- The symbols of the bits of a codeword's data (R335, log 120). -/
theorem flatMap_bitsOf_symbols {bs : List Bool} (h : bs.length = 10 * 520) :
    ((cutInto 10 520 bs).map ofBits).flatMap (bitsOf 10) = bs := by
  have hbits : ∀ p ∈ cutInto 10 520 bs, bitsOf 10 (ofBits p) = p := fun p hp => by
    have hback := bitsOf_ofBits p
    rwa [length_of_mem_cutInto h hp] at hback
  rw [List.flatMap_map, List.flatMap_congr hbits, List.flatMap_id', flatten_cutInto h]

/-- The bytes of the bits of bytes. -/
theorem bytes_of_bits (bs : List Byte) :
    (cutInto 8 bs.length (bs.flatMap (fun b => bitsOf 8 b.toNat))).map (fun b => BitVec.ofNat 8 (ofBits b)) = bs := by
  rw [cutInto_flatMap bs fun b => bitsOf_length 8 b.toNat, List.map_map]
  refine (List.map_congr_left fun b _ => ?_).trans (List.map_id bs)
  rw [Function.comp_apply, ofBits_bitsOf, Nat.mod_eq_of_lt b.isLt, BitVec.ofNat_toNat, BitVec.setWidth_eq]
  rfl

/-- The first 520 symbols of a codeword are its data (R335). -/
theorem take_rsEncode {data : List Nat} {n : Nat} (h : data.length = n) : (rsEncode data).take n = data :=
  List.take_left' h

/-- A lane reads the bytes that went into its codeword (R335, R336). -/
theorem laneData_laneWord (h : Nat) {bs : List Byte} (hlen : bs.length = wordBytes) :
    laneData h (laneWord h bs).1 = (bs, (laneWord h bs).2) := by
  set sent := scramble h (bs.flatMap (fun b => bitsOf 8 b.toNat)) with hsent
  have hbits : sent.1.length = 10 * 520 := by
    rw [hsent, scramble_length, List.length_flatMap]
    simp only [bitsOf_length, List.map_const', List.sum_replicate, hlen, wordBytes, smul_eq_mul]
  have hword : (laneWord h bs).1.take 520 = (cutInto 10 520 sent.1).map ofBits :=
    take_rsEncode (by rw [List.length_map, cutInto_length])
  rw [laneData, hword, flatMap_bitsOf_symbols hbits, hsent, descramble_scramble, ← hlen, bytes_of_bits]
  rfl

/-- The bytes lane `n` carries are those at positions n, L + n, 2L + n, and so on (R336). -/
theorem filter_range_mod {l n : Nat} (hn : n < l) (q : Nat) :
    (List.range (l * q)).filter (fun i => i % l == n) = (List.range q).map (fun j => l * j + n) := by
  induction q with
  | zero => simp
  | succ q ih =>
    have hlast : ((List.range l).map (l * q + ·)).filter (fun i => i % l == n) = [l * q + n] := by
      have hmod : ∀ i ∈ List.range l, (l * q + i) % l = i := fun i hi => by
        rw [Nat.mul_add_mod, Nat.mod_eq_of_lt (List.mem_range.mp hi)]
      rw [List.filter_map, List.filter_congr (q := (· == n)) fun i hi => by simp [hmod i hi], List.filter_beq,
        List.count_eq_one_of_mem List.nodup_range (List.mem_range.mpr hn)]
      rfl
    rw [Nat.mul_succ, List.range_add, List.filter_append, ih, hlast, List.range_succ, List.map_append]
    rfl

theorem laneBytes_eq {l n q : Nat} {bs : List Byte} (hn : n < l) (h : bs.length = l * q) :
    laneBytes l n bs = (List.range q).map (fun j => bs.getD (l * j + n) 0) := by
  have hzip : List.zip (List.range bs.length) bs = (List.range bs.length).map (fun i => (i, bs.getD i 0)) := by
    refine List.ext_getElem (by simp) fun i hi hi' => ?_
    have : i < bs.length := by simpa using hi'
    simp [this]
  rw [laneBytes, hzip, List.filter_map, List.map_map, h]
  change List.map _ ((List.range (l * q)).filter (fun i => i % l == n)) = _
  rw [filter_range_mod hn, List.map_map]
  rfl

/-- The lanes together give the stream that was dealt to them (R336). -/
theorem dealt_laneBytes {l : Nat} {bs : List Byte} (hl : 0 < l) (h : bs.length % l = 0) :
    dealt ((List.range l).map (fun n => laneBytes l n bs)) = bs := by
  obtain ⟨q, hq⟩ := Nat.dvd_of_mod_eq_zero h
  have hfirst : ((List.range l).map (fun n => laneBytes l n bs)).headD [] = laneBytes l 0 bs := by
    obtain ⟨m, rfl⟩ := Nat.exists_eq_succ_of_ne_zero hl.ne'
    simp [List.range_succ_eq_map]
  rw [dealt, hfirst, laneBytes_eq hl hq]
  refine List.ext_getElem (by simp [hq]) fun k hk hk' => ?_
  have hmod : k % l < l := Nat.mod_lt k hl
  have hdiv : k / l < q := by
    rw [hq] at hk'
    exact Nat.div_lt_of_lt_mul hk'
  simp [hmod, hdiv, laneBytes_eq hmod hq, Nat.div_add_mod, hk']

/-- Settles O28: a packet by its header and its extension, each read field by field, a flit by its header, a codeword by what
it decodes to, a lane by its bits, the lanes by the bytes each carries. -/
theorem packetRoundTrip : Obligations.PacketRoundTrip := by
  refine ⟨?_, fun w c k h _ => rsDecode_spec h, descramble_scramble, fun h bs => laneData_laneWord h, fun l bs => dealt_laneBytes, ?_⟩
  · intro p rest hty htc hvc hdst hsrc hepoch hpart heph hsdie hseq htxid hlen haddr haux hsum hpay hmulti hone
    have hhdr : ∀ f ∈ hdrFields p, f.1 < 2 ^ f.2 := by
      simp only [hdrFields, List.forall_mem_cons]
      exact ⟨hty, htc, hvc, toNat_lt_two _, toNat_lt_two _, toNat_lt_two _, toNat_lt_two _, toNat_lt_two _, hdst, hsrc, hepoch,
        hpart, heph, hsdie, by decide, hseq, htxid, hlen, by decide, haddr, haux, toNat_lt_two _, toNat_lt_two _, by decide, hsum,
        by simp⟩
    have hext : ∀ f ∈ extFields p, f.1 < 2 ^ f.2 := by
      obtain ⟨hx, hy, hz, hst⟩ : p.xmask < 2 ^ 16 ∧ p.ymask < 2 ^ 16 ∧ p.zmask < 2 ^ 16 ∧ p.stage < 2 ^ 2 := by
        cases hmc : p.mc with
        | true => exact hmulti hmc
        | false =>
          obtain ⟨hx, hy, hz, hst, -⟩ := hone hmc
          simp [hx, hy, hz, hst]
      simp only [extFields, List.forall_mem_cons]
      exact ⟨hx, hy, hz, hst, toNat_lt_two _, by simp⟩
    exact ⟨decodePkt_encodePkt hhdr hext hone hpay rest, encodePkt_length hpay⟩
  · intro seq ack nak idle park widen start cr body (hseq : seq < 2 ^ 12) (hack : ack < 2 ^ 12) (hstart : start < 2 ^ 4) hcr hlen
    have hfit : ∀ f ∈ flitFields seq ack nak idle park widen start cr, f.1 < 2 ^ f.2 := by
      simp only [flitFields, List.forall_mem_cons]
      exact ⟨hseq, hack, toNat_lt_two _, toNat_lt_two _, toNat_lt_two _, toNat_lt_two _, hstart, hcr, by simp⟩
    refine ⟨flitOk_mkFlit hfit body, ?_, ?_, ?_, ?_, ?_, ?_, ?_, ?_, payload_mkFlit hfit hlen⟩ <;>
      rw [leNat_take_mkFlit hfit] <;>
      simp only [flitFields, bit_eq_bits, bits_packed_skip, bits_packed_first, Nat.reduceLeDiff, Nat.reduceSub, Nat.le_refl,
        Nat.sub_self, decide_toNat_eq_one, hseq, hack, toNat_lt_two, hstart, hcr]

end Sys2Proof.Scope

/-! Ports (R335 to R342): what sending through a port and hearing from it leave as they were, how a link trains, stays away from
UP, retrains and fails, and what a flit or a codeword of the lanes does. -/

namespace Sys2Proof.Scope
open Sys2Proof Sys2Proof.Machine Sys2Proof.Machine.Claim

/-! ## What sending through a port leaves (R341, R342, R348) -/

@[simp] theorem portOf_setPort_same (s : State) (p : Nat) (x : Port) : portOf (setPort s p x) p = x := Tab.get_set_same _ _ _ _

theorem portOf_setPort_ne (s : State) {p j : Nat} (x : Port) (h : j ≠ p) : portOf (setPort s p x) j = portOf s j :=
  Tab.get_set_ne _ _ _ _ h

/-- The module without registers, ports and what was sent. -/
def offPorts (s : State) : State := { s with dict := [], out := [], fab := { s.fab with ports := [] } }

/-- A port without what belongs to its sending side: lanes, flits to replay, credit, packets on their way out. -/
def heard (x : Port) : Port :=
  { x with lanes := 16, parkSet := false, peerPark := false, widenSet := false, peerWiden := false, relocked := false, nextSeq := 0,
           replay := [], shared := 0, classes := [], freed := [], outq := [], stream := [], starts := [], streak := 0,
           txLine := [], txHist := [] }

/-- From `s` to `t` port `p` has sent: beside what was sent, its state and its byte count, its sending side alone has changed. -/
structure Sends (p : Nat) (s t : State) : Prop where
  rest : offPorts t = offPorts s
  regs : RegsKept s t [Key.linkState + 256 * p, Key.linkTxBytes + 256 * p]
  state : linkState s p ≠ 7 → linkState t p = linkState s p
  others : ∀ j, j ≠ p → portOf t j = portOf s j
  heard : heard (portOf t p) = heard (portOf s p)

section
variable {p : Nat} {s t u : State}

theorem Sends.refl (p : Nat) (s : State) : Sends p s s := ⟨rfl, fun _ _ => rfl, fun _ => rfl, fun _ _ => rfl, rfl⟩

theorem Sends.trans (h : Sends p s t) (g : Sends p t u) : Sends p s u where
  rest := g.rest.trans h.rest
  regs k hk := (g.regs k hk).trans (h.regs k hk)
  state hs := (g.state (by rwa [h.state hs])).trans (h.state hs)
  others j hj := (g.others j hj).trans (h.others j hj)
  heard := g.heard.trans h.heard

theorem Sends.setPort {x : Port} (h : Sends p s t) (hx : Scope.heard x = Scope.heard (portOf t p)) : Sends p s (setPort t p x) :=
  h.trans ⟨rfl, fun _ _ => rfl, fun _ => rfl, fun _ hj => portOf_setPort_ne t x hj, by rw [portOf_setPort_same, hx]⟩

theorem Sends.send {o : Out} (h : Sends p s t) : Sends p s (send t o) :=
  h.trans ⟨rfl, fun _ _ => rfl, fun _ => rfl, fun _ _ => rfl, rfl⟩

theorem Sends.widen (h : Sends p s t) (ht : linkState t p = 7) : Sends p s (setReg t (Key.linkState + 256 * p) 6) := by
  refine h.trans ⟨rfl, fun k hk => reg_setReg_ne _ _ ?_, fun hs => absurd ht hs, fun _ _ => rfl, rfl⟩
  simp only [List.mem_cons, not_or] at hk
  exact hk.1

theorem Sends.count {n : Nat} (h : Sends p s t) : Sends p s (bump t (Key.linkTxBytes + 256 * p) n) := by
  refine h.trans ⟨rfl, fun k hk => reg_setReg_ne _ _ ?_, fun _ => reg_setReg_ne _ _ ?_, fun _ _ => rfl, rfl⟩
  · simp only [List.mem_cons, List.not_mem_nil, or_false, not_or] at hk
    exact hk.2
  · simp [Key.linkState, Key.linkTxBytes]

theorem Sends.ite {c : Prop} [Decidable c] (ht : c → Sends p s t) (hu : ¬ c → Sends p s u) : Sends p s (if c then t else u) := by
  split
  · exact ht ‹_›
  · exact hu ‹_›

theorem Sends.sendWords (h : Sends p s t) : Sends p s (sendWords t p) :=
  .ite (fun _ => h) fun _ => .send (h.setPort (by rfl))

theorem Sends.widened (h : Sends p s t) : Sends p s (widened t p) :=
  .ite (fun hw => .widen (h.setPort (by rfl)) hw.2.2) fun _ => h

theorem Sends.putFlit {f : List Byte} (h : Sends p s t) : Sends p s (putFlit t p f) :=
  have hwide : Sends p s (if widens t p (field f 0 2 % 4096) then Machine.widened (Machine.setPort t p { portOf t p with lanes := 16 }) p
      else t) := .ite (fun _ => .widened (h.setPort (by rfl))) fun _ => h
  .sendWords (hwide.send.setPort (by rfl))

theorem Sends.sendIdle {nak : Bool} (h : Sends p s t) : Sends p s (sendIdle t p nak) :=
  .ite (fun _ => .putFlit (h.setPort (by rfl))) fun _ => h

theorem Sends.sendFlits {n : Nat} (h : Sends p s t) : Sends p s (sendFlits p n t) := by
  induction n generalizing t with
  | zero => exact h
  | succ n ih => exact .ite (fun _ => h) fun _ => ih (.putFlit (h.setPort (by rfl)))

theorem heard_grantAll (guard n : Nat) (x : Port) : Scope.heard (grantAll guard n x).2 = Scope.heard x := by
  induction n generalizing x with
  | zero => rfl
  | succ n ih =>
    rw [grantAll]
    split
    · rfl
    · next k y hg =>
      have hy : Scope.heard y = Scope.heard x := by
        unfold grant at hg
        dsimp only at hg
        split at hg
        · cases hg
        · cases hg
          rfl
      exact (ih y).trans hy

theorem Sends.grantPort (h : Sends p s t) : Sends p s (grantPort t p) :=
  .ite (fun _ => .count (h.setPort (by exact heard_grantAll _ _ _))) fun _ => h

theorem Sends.transmit (h : Sends p s t) : Sends p s (transmit t p) :=
  .ite (fun _ => h.sendFlits.grantPort.sendFlits) fun _ => h

theorem Sends.replayAll {void : Bool} (h : Sends p s t) : Sends p s (replayAll t p void) := by
  have hall (fs : List (Nat × List Byte)) (x : Port) {u : State} (hu : Sends p s u) :
      Sends p s (fs.foldl (fun s f => Machine.putFlit s p (refreshFlit x void f.2)) u) := by
    induction fs generalizing u with
    | nil => exact hu
    | cons f fs ih => exact ih hu.putFlit
  exact .ite (fun _ => h) fun _ => hall _ _ h

theorem Sends.memKept (h : Sends p s t) : MemKept s t :=
  ⟨(congrArg State.mem h.rest :), (congrArg State.host h.rest :), (congrArg State.hostPoison h.rest :)⟩

theorem Sends.offFabric (h : Sends p s t) : offFabric t = offFabric s :=
  congrArg (fun u : State => { u with fab := {} }) h.rest

end

/-! ## Training (R337 to R339, R509) -/

section
variable {s : State} {p t : Nat}

theorem lt_six_of_mayTrain (h : mayTrain s p = true) : p < 6 := by
  simp only [mayTrain, Bool.and_eq_true, decide_eq_true_eq] at h
  exact h.1.1.1

theorem exec_fecLock_of_light (h : mayTrain s p = true) (hs : linkState s p = 2) :
    ∃ u, exec (.fecLock p t) s = .next u ∧ u.out = s.out ++ [.exchange p (exchangeBytes s p)] ∧ linkState u p = 5 ∧
      RegsKept s u [Key.linkState + 256 * p] ∧ { u with dict := s.dict, time := s.time, out := s.out } = s := by
  refine ⟨_, congrArg Host.Outcome.next (if_pos ⟨h, hs⟩), rfl, reg_setReg_same _ _ _, fun k hk => ?_, rfl⟩
  have hk : k ≠ Key.linkState + 256 * p := by simpa using hk
  exact ((reg_setReg_ne _ _ hk).trans (reg_setReg_ne _ _ hk)).trans (reg_setReg_ne _ _ hk)

theorem exec_fecLock_of_parked (hp : p < 6) (hs : linkState s p = 7) :
    exec (.fecLock p t) s = .next (setPort (atTime s t) p { portOf s p with relocked := true }) :=
  congrArg Host.Outcome.next ((if_neg fun h => by rw [hs] at h; cases h.2).trans (if_pos ⟨hp, hs⟩))

/-- The module once the exchange frame has told which neighbour the port has (R337). -/
def peerKnown (s : State) (p t : Nat) (f : List Byte) : State := setReg (atTime s t) (Key.linkPeer + 256 * p) (field f 0 2)

theorem self_peerKnown (f : List Byte) : self (peerKnown s p t f) = self s :=
  reg_setReg_ne _ _ (by unfold Key.fabCoord Key.linkPeer; omega)

/-- The port record of a link that comes up: both directions wide, all credit back (R337, R340, R343). -/
def cameUp (x : Port) (peerPart now : Nat) : Port :=
  { x with lanes := 16, rxLanes := 16, darkDue := false, parkSet := false, peerPark := false, widenSet := false, peerWiden := false,
           relocked := false, shared := 8192, classes := [], freed := [], peerPart := peerPart, lastValid := now, nakAt := none,
           timed := true, txLine := [], txHist := [], rxLine := [], rxHist := [], badAt := [] }

/-- The module as its link comes up, before it sends what was not acknowledged (R337). -/
def linkCameUp (s : State) (p t : Nat) (f : List Byte) : State :=
  let v := setReg (peerKnown s p t f) (Key.linkLevel + 256 * p) (min (field f 3 1) (reg s Key.fabCompatMax))
  setPort (setLink v p 6) p (cameUp (portOf s p) (field f 4 2) (max s.time t))

theorem exec_exchangeFrame_of_neighbour {f : List Byte} (h : mayTrain s p = true) (hs : linkState s p = 5) (hf : f.length = 8)
    (hme : self s ≠ 0xFFFF) (hpeer : field f 0 2 ≠ 0xFFFF) (heq : field f 0 2 = portPeer (self s) p) :
    exec (.exchangeFrame p f t) s = .next (transmit (replayAll (linkCameUp s p t f) p true) p) := by
  have hmax : reg (peerKnown s p t f) Key.fabCompatMax = reg s Key.fabCompatMax :=
    reg_setReg_ne _ _ (by unfold Key.fabCompatMax Key.linkPeer; omega)
  refine congrArg Host.Outcome.next ((if_pos ⟨h, hs, hf⟩).trans ((if_neg ?_).trans ((if_neg ?_).trans ?_)))
  · exact fun hor => hor.elim (fun he => hme ((self_peerKnown f).symm.trans he)) hpeer
  · exact not_not_intro (heq.trans (congrArg (portPeer · p) (self_peerKnown f).symm))
  · rw [linkCameUp, ← hmax]
    rfl

/-- An exchange with the neighbour the port faces brings the link up; what is sent then changes no other port (R337, R338). -/
theorem exchangeFrame_up {f : List Byte} (h : mayTrain s p = true) (hs : linkState s p = 5) (hf : f.length = 8)
    (hme : self s ≠ 0xFFFF) (hpeer : field f 0 2 ≠ 0xFFFF) (heq : field f 0 2 = portPeer (self s) p) :
    ∃ u, exec (.exchangeFrame p f t) s = .next u ∧ linkState u p = 6 ∧ reg u (Key.linkPeer + 256 * p) = field f 0 2 ∧
      reg u (Key.linkLevel + 256 * p) = min (field f 3 1) (reg s Key.fabCompatMax) ∧ (portOf u p).peerPart = field f 4 2 ∧
      (∀ j, j < 6 → j ≠ p → portOf u j = portOf s j ∧ linkState u j = linkState s j) ∧ MemKept s u := by
  have hsent : Sends p (linkCameUp s p t f) _ := (Sends.refl p _).replayAll (void := true).transmit
  have hstate : linkState (linkCameUp s p t f) p = 6 := reg_setReg_same _ _ _
  have hheard : (portOf (linkCameUp s p t f) p).peerPart = field f 4 2 := congrArg Port.peerPart (portOf_setPort_same _ p _)
  refine ⟨_, exec_exchangeFrame_of_neighbour h hs hf hme hpeer heq, ?_, ?_, ?_, ?_, fun j _ hj => ⟨?_, ?_⟩, hsent.memKept⟩
  · rw [hsent.state (by rw [hstate]; decide), hstate]
  · rw [hsent.regs _ (by simp [Key.linkPeer, Key.linkState, Key.linkTxBytes])]
    refine ((reg_setReg_ne _ _ ?_).trans (reg_setReg_ne _ _ ?_)).trans (reg_setReg_same _ _ _) <;>
      simp [Key.linkPeer, Key.linkState, Key.linkLevel]
  · rw [hsent.regs _ (by simp [Key.linkLevel, Key.linkState, Key.linkTxBytes])]
    exact (reg_setReg_ne _ _ (by simp [Key.linkLevel, Key.linkState])).trans (reg_setReg_same _ _ _)
  · exact (congrArg Port.peerPart hsent.heard :).trans hheard
  · exact (hsent.others j hj).trans (portOf_setPort_ne _ _ hj)
  · have hne : ∀ k : Nat, k % 256 ≠ 1 → ∀ q, Key.linkState + 256 * j ≠ k + 256 * q := fun k hk q => by
      unfold Key.linkState
      omega
    have hown : Key.linkState + 256 * j ≠ Key.linkState + 256 * p := by omega
    refine (hsent.regs _ ?_).trans (((reg_setReg_ne _ _ hown).trans (reg_setReg_ne _ _ ?_)).trans (reg_setReg_ne _ _ ?_))
    · simp only [List.mem_cons, List.not_mem_nil, or_false, not_or]
      exact ⟨hown, hne _ (by decide) p⟩
    · exact hne _ (by decide) p
    · exact hne _ (by decide) p

/-- A link with another neighbour than the port faces stays MISWIRED and makes an entry of the Almanac (R337). -/
theorem exchangeFrame_miswired {f : List Byte} (h : mayTrain s p = true) (hs : linkState s p = 5) (hf : f.length = 8)
    (hme : self s ≠ 0xFFFF) (hpeer : field f 0 2 ≠ 0xFFFF) (hne : field f 0 2 ≠ portPeer (self s) p) :
    ∃ u, exec (.exchangeFrame p f t) s = .next u ∧ linkState u p = 8 ∧ u.alm.next = (s.alm.next + 1) % 2 ^ 32 ∧ u.fab = s.fab ∧
      MemKept s u := by
  have hp := lt_six_of_mayTrain h
  refine ⟨_, congrArg Host.Outcome.next ((if_pos ⟨h, hs, hf⟩).trans ((if_neg ?_).trans (if_pos ?_))), ?_, almFull_next _ _ _ _ _ _ _ _,
    (congrArg State.fab (almFull_frame _ _ _ _ _ _ _ _) :), memKept_almFull _ _ _ _ _ _ _ _⟩
  · exact fun hor => hor.elim (fun he => hme ((self_peerKnown f).symm.trans he)) hpeer
  · exact fun he => hne (he.trans (congrArg (portPeer · p) (self_peerKnown f)))
  · refine (alm_regsKept _ _ _ _ _ ?_).trans (reg_setReg_same _ _ _)
    simp only [List.mem_singleton]
    unfold Key.linkState Key.almOverwritten
    omega

/-- Training begins anew (R337, R338). -/
theorem startTraining_spec (s : State) (p : Nat) :
    linkState (startTraining s p) p = 1 ∧ RegsKept s (startTraining s p) [Key.linkState + 256 * p] ∧
      portOf (startTraining s p) p = { portOf s p with trainAt := s.time, darkDue := false } ∧
      (∀ j, j ≠ p → portOf (startTraining s p) j = portOf s j) ∧ MemKept s (startTraining s p) :=
  ⟨reg_setReg_same _ _ _, fun k hk => reg_setReg_ne _ _ (by simpa using hk), portOf_setPort_same _ _ _,
    fun _ hj => portOf_setPort_ne _ _ hj, rfl, rfl, rfl⟩

theorem exec_linkTrainTimeout_of_due (h : mayTrain s p = true) (hlo : 1 ≤ linkState s p) (hhi : linkState s p ≤ 5)
    (hdue : (portOf s p).trainAt + 10000000 ≤ max s.time t) :
    ∃ u, exec (.linkTrainTimeout p t) s = .next u ∧ linkState u p = 1 ∧
      reg u (Key.linkRetrains + 256 * p) = stick32 (reg s (Key.linkRetrains + 256 * p) + 1) ∧
      (portOf u p).replay = (portOf s p).replay ∧ MemKept s u := by
  obtain ⟨hstate, hregs, hport, -, hmem⟩ := startTraining_spec (bump32 (atTime s t) (Key.linkRetrains + 256 * p) 1) p
  refine ⟨_, congrArg Host.Outcome.next (if_pos ⟨h, hlo, hhi, hdue⟩), hstate, ?_, (congrArg Port.replay hport :), hmem⟩
  rw [hregs _ (by simp [Key.linkRetrains, Key.linkState])]
  exact reg_setReg_same _ _ _

theorem exec_linkRetrain_of_up (hp : p < 6) (hs : linkState s p = 6 ∨ linkState s p = 7) :
    ∃ u, exec (.linkRetrain p t) s = .next u ∧ linkState u p = 1 ∧
      reg u (Key.linkRetrains + 256 * p) = (if (portOf s p).darkDue then reg s (Key.linkRetrains + 256 * p)
        else stick32 (reg s (Key.linkRetrains + 256 * p) + 1)) ∧
      RegsKept s u [Key.linkState + 256 * p, Key.linkRetrains + 256 * p] ∧
      portOf u p = { portOf s p with trainAt := max s.time t, darkDue := false } ∧ (∀ j, j ≠ p → portOf u j = portOf s j) ∧
      MemKept s u := by
  have hup : linkUp s p = true := by simpa [linkUp] using hs
  have hne : Key.linkRetrains + 256 * p ∉ [Key.linkState + 256 * p] := by simp [Key.linkRetrains, Key.linkState]
  refine ⟨_, congrArg Host.Outcome.next (if_pos ⟨hp, hup⟩), ?_⟩
  cases hdark : (portOf s p).darkDue with
  | true =>
    obtain ⟨hstate, hregs, hport, hothers, hmem⟩ := startTraining_spec (atTime s t) p
    exact ⟨hstate, hregs _ hne, fun k hk => hregs k fun h => hk (by simp at h; simp [h]), hport, hothers, hmem⟩
  | false =>
    obtain ⟨hstate, hregs, hport, hothers, hmem⟩ := startTraining_spec (bump32 (atTime s t) (Key.linkRetrains + 256 * p) 1) p
    refine ⟨hstate, (hregs _ hne).trans (reg_setReg_same _ _ _), fun k hk => ?_, hport, hothers, hmem⟩
    simp only [List.mem_cons, List.not_mem_nil, or_false, not_or] at hk
    exact (hregs k (by simpa using hk.1)).trans (reg_setReg_ne _ _ hk.2)

theorem notifyFln_fab (s : State) (event chan code seq : Nat) : (notifyFln s event chan code seq).fab = s.fab := by
  unfold notifyFln
  split
  · dsimp only
    split
    · rfl
    · split <;> rfl
  · rfl

/-- An entry of the Almanac that drives ALERT_N low leaves the fabric and the memories (R456, R524). -/
theorem alert_alm_spec (s : State) (unit kind seq : Nat) (data : List Byte) :
    (alert (alm s unit kind data) seq).fab = s.fab ∧ RegsKept s (alert (alm s unit kind data) seq) [Key.almOverwritten] ∧
      MemKept s (alert (alm s unit kind data) seq) := by
  obtain ⟨hmem, hhost, hpoison⟩ := alm_memKept s unit kind data
  obtain ⟨hmem', hhost', hpoison'⟩ := alert_memKept (alm s unit kind data) seq
  have hfab : (alm s unit kind data).fab = s.fab := (congrArg State.fab (almFull_frame s 0 unit kind 0 0 0 data) :)
  refine ⟨(notifyFln_fab _ _ _ _ _).trans hfab, fun k hk => ?_, hmem'.trans hmem, hhost'.trans hhost, hpoison'.trans hpoison⟩
  rw [reg, alert_dict]
  exact alm_regsKept s unit kind data k hk

/-- The port record of a link that has failed: the sequence begins anew (R339). -/
def fallenSilent (x : Port) : Port :=
  { x with replay := [], outq := [], stream := [], starts := [], nextSeq := 0, expect := 0, chunks := [], nakAt := none,
           timed := false }

/-- The module whose link has failed, before the entry of the Almanac (R339). -/
def linkFailed (s : State) (p t : Nat) : State :=
  setPort (setLink (bump (atTime s t) Key.fabLinkDrops ((portOf s p).outq.length + (portOf s p).starts.length)) p 9) p
    (fallenSilent (portOf s p))

theorem exec_linkTimeout_of_silent (hp : p < 6) (hmay : mayTimeOut s p = true)
    (hdue : (portOf s p).lastValid + 1000 * reg s Key.linkTimeoutUs ≤ max s.time t) :
    exec (.linkTimeout p t) s = .next (alert (alm (linkFailed s p t) (0x70 + p) 0x0040 (linkData (linkFailed s p t) p))
      (linkFailed s p t).alm.next) :=
  congrArg Host.Outcome.next (if_pos ⟨hp, hmay, hdue⟩)

/-- A link that brings no valid flit in time fails, and with it what waited to be sent through it (R339). -/
theorem linkTimeout_fails (hp : p < 6) (hmay : mayTimeOut s p = true)
    (hdue : (portOf s p).lastValid + 1000 * reg s Key.linkTimeoutUs ≤ max s.time t) :
    ∃ u, exec (.linkTimeout p t) s = .next u ∧ linkState u p = 9 ∧ (portOf u p).replay = [] ∧ (portOf u p).outq = [] ∧
      reg u Key.fabLinkDrops = wrap64 (reg s Key.fabLinkDrops + ((portOf s p).outq.length + (portOf s p).starts.length)) ∧
      (∀ j, j ≠ p → portOf u j = portOf s j) ∧ MemKept s u := by
  obtain ⟨hfab, hregs, hmem⟩ := alert_alm_spec (linkFailed s p t) (0x70 + p) 0x0040 (linkFailed s p t).alm.next
    (linkData (linkFailed s p t) p)
  have hport (j : Nat) := congrArg (fun f : Fabric => Tab.get {} f.ports j) hfab
  have hown : portOf (linkFailed s p t) p = fallenSilent (portOf s p) := portOf_setPort_same _ _ _
  refine ⟨_, exec_linkTimeout_of_silent hp hmay hdue, (hregs _ ?_).trans (reg_setReg_same _ _ _),
    (congrArg Port.replay ((hport p).trans hown) :), (congrArg Port.outq ((hport p).trans hown) :),
    (hregs _ (by decide)).trans ((reg_setReg_ne _ _ ?_).trans (reg_setReg_same _ _ _)),
    fun j hj => (hport j).trans (portOf_setPort_ne _ _ hj), hmem⟩
  · rw [List.mem_singleton]
    unfold Key.linkState Key.almOverwritten
    omega
  · unfold Key.linkState Key.fabLinkDrops
    omega

end

/-! ## Flits that come in (R340 to R343, R491) -/

/-- The registers a flit at a port may change: the state and counters of the link, and what a watch receiver notes. -/
def flitRegs (p : Nat) : List Nat :=
  [Key.linkState + 256 * p, Key.linkTxBytes + 256 * p, Key.linkRxBytes + 256 * p, Key.linkReplays + 256 * p, Key.frzStatus]

/-- From `s` to `t` port `p` has taken flits: beside the fabric and what was sent, their registers alone have changed. -/
structure Hears (p : Nat) (s t : State) : Prop where
  rest : offFabric t = offFabric s
  regs : RegsKept s t (flitRegs p)

section
variable {p : Nat} {s t u : State}

theorem Hears.refl (p : Nat) (s : State) : Hears p s s := ⟨rfl, fun _ _ => rfl⟩

theorem Hears.sends (h : Hears p s t) (g : Sends p t u) : Hears p s u where
  rest := g.offFabric.trans h.rest
  regs k hk := (g.regs k fun hmem => hk (by simp at hmem; simp [flitRegs, hmem.imp_right Or.inl])).trans (h.regs k hk)

theorem Hears.setPort {x : Port} (h : Hears p s t) : Hears p s (setPort t p x) := ⟨h.rest, h.regs⟩

theorem Hears.setReg {k v : Nat} (h : Hears p s t) (hk : k ∈ flitRegs p) : Hears p s (setReg t k v) where
  rest := h.rest
  regs j hj := (reg_setReg_ne _ _ fun he : j = k => hj (he ▸ hk)).trans (h.regs j hj)

theorem Hears.setLink {v : Nat} (h : Hears p s t) : Hears p s (setLink t p v) := h.setReg (by simp [flitRegs])

theorem Hears.bump {k n : Nat} (h : Hears p s t) (hk : k ∈ flitRegs p) : Hears p s (bump t k n) := h.setReg hk

theorem Hears.sendIdle {nak : Bool} (h : Hears p s t) : Hears p s (sendIdle t p nak) := h.sends (Sends.refl p t).sendIdle

theorem Hears.widened (h : Hears p s t) : Hears p s (widened t p) := h.sends (Sends.refl p t).widened

theorem Hears.transmit (h : Hears p s t) : Hears p s (transmit t p) := h.sends (Sends.refl p t).transmit

theorem Hears.ite {c : Prop} [Decidable c] (ht : Hears p s t) (hu : Hears p s u) : Hears p s (if c then t else u) := by
  split
  · exact ht
  · exact hu

theorem Hears.nakOnce (h : Hears p s t) : Hears p s (nakOnce t p) := .ite h h.setPort.sendIdle

theorem Hears.takeWidth {park widen : Bool} {n : Nat} (h : Hears p s t) : Hears p s (takeWidth t p park widen n) := by
  have hwide {v : State} (hv : Hears p s v) :
      Hears p s (if widens v p n then Machine.widened (Machine.setPort v p { portOf v p with rxLanes := 16 }) p else v) :=
    .ite hv.setPort.widened hv
  exact .ite h.setPort (.ite h.setLink.setPort.sendIdle (.ite h.setPort
    (.ite (.ite (hwide h.setPort).sendIdle (hwide h.setPort)) (hwide h))))

theorem Hears.watchFlit {f : List Byte} {idle : Bool} {start : Nat} (h : Hears p s t) : Hears p s (watchFlit t p f idle start) := by
  have hstatus {c : Prop} [Decidable c] {v : Nat} : Hears p s (if c then Machine.setReg t Key.frzStatus v else t) :=
    .ite (h.setReg (by simp [flitRegs])) h
  exact ⟨hstatus.rest, hstatus.regs⟩

theorem Hears.takeFlit {f : List Byte} (h : Hears p s t) : Hears p s (takeFlit p f t) := by
  have hreplay {v : State} {void : Bool} (hv : Hears p s v) : Hears p s (replayAll v p void) := hv.sends (Sends.refl p v).replayAll
  have hrx {v : State} {n : Nat} (hv : Hears p s v) : Hears p s (Machine.bump v (Key.linkRxBytes + 256 * p) n) :=
    hv.bump (by simp [flitRegs])
  have hnak {v : State} (hv : Hears p s v) {c : Prop} [Decidable c] :
      Hears p s (if c then replayAll (Machine.bump v (Key.linkReplays + 256 * p) 1) p false else v) :=
    .ite (hreplay (hv.bump (by simp [flitRegs]))) hv
  exact .ite h (.ite (.ite h.nakOnce h) (.ite h.setPort.watchFlit (.ite h.nakOnce
    (.ite (hnak h.setPort).takeWidth.transmit (hrx (hnak h.setPort).takeWidth.setPort).sendIdle.transmit))))

theorem Hears.memKept (h : Hears p s t) : MemKept s t :=
  ⟨mem_of_offFabric h.rest, (congrArg State.host h.rest :), (congrArg State.hostPoison h.rest :)⟩

end

section
variable {s : State} {p : Nat} {f : List Byte}

theorem exec_flitReceive_of_up {line : LineIn} {t : Nat} (hp : p < 6) (hup : linkUp s p = true) :
    exec (.flitReceive p line t) s = .next (match line with
      | .flit f => takeFlit p f (atTime s t)
      | .codewords ws => takeWords p ws (atTime s t)) :=
  congrArg Host.Outcome.next ((if_neg (by simp [hup]; omega)).trans (by cases line <;> rfl))

/-- A flit whose CRC fails has the port ask for it again (R342). -/
theorem takeFlit_of_bad (hup : linkUp s p = true) (hf : flitOk f = false) (hz : reg s Key.frzState = 0) :
    takeFlit p f s = nakOnce s p := by
  simp [takeFlit, hup, hf, hz]

/-- So does a non-idle flit out of order (R342). -/
theorem takeFlit_of_gap (hup : linkUp s p = true) (hf : flitOk f = true) (hz : reg s Key.frzState = 0)
    (hidle : bit (leNat (f.take 12)) 25 = false) (hseq : leNat (f.take 12) % 4096 ≠ (portOf s p).expect) :
    takeFlit p f s = nakOnce s p := by
  simp [takeFlit, hup, hf, hz, hidle, hseq]

/-- A port as what a flit's header acknowledges and the credit it returns leave it (R342, R343). -/
def credited (x : Port) (now h : Nat) : Port :=
  takeCredit (takeCredit (takeAck { x with lastValid := now } (bits h 12 12)) (bits h 32 16)) (bits h 48 16)

theorem heard_takeCredit (x : Port) (c : Nat) : heard (takeCredit x c) = heard x := by
  unfold takeCredit
  dsimp only
  split
  · rfl
  · split <;> rfl

theorem heard_credited (x : Port) (now h : Nat) : heard (credited x now h) = heard { x with lastValid := now } :=
  (heard_takeCredit _ _).trans (heard_takeCredit _ _)

/-- What a flit in order acknowledges and, with NAK set, asks for again (R342). -/
def acked (s : State) (p h : Nat) : State :=
  let v := setPort s p (credited (portOf s p) s.time h)
  if bit h 24 then replayAll (bump v (Key.linkReplays + 256 * p) 1) p false else v

/-- The chunks of a flit in order join those of the packet under way, and whole packets the input buffer (R341). -/
def takeChunks (s : State) (p : Nat) (f : List Byte) : State :=
  let x := portOf s p
  let data := (f.drop 12).take 240
  let start := bits (leNat (f.take 12)) 28 4
  let r := cutPackets 8 (if x.chunks.isEmpty then (if start = 15 then [] else data.drop (16 * start)) else x.chunks ++ data)
  let y : Port := { x with expect := (x.expect + 1) % 4096, nakAt := none, chunks := r.2, inq := x.inq ++ r.1 }
  transmit (sendIdle (bump (setPort s p y) (Key.linkRxBytes + 256 * p) (r.1.map (fun k => 16 * pktChunks k)).sum) p false) p

/-- A flit whose CRC holds and, if it is not idle, the next in order, of a module that is not frozen. -/
theorem takeFlit_of_good (hup : linkUp s p = true) (hf : flitOk f = true) (hz : reg s Key.frzState = 0)
    (hseq : bit (leNat (f.take 12)) 25 = true ∨ leNat (f.take 12) % 4096 = (portOf s p).expect) :
    takeFlit p f s =
      let h := leNat (f.take 12)
      let v := takeWidth (acked s p h) p (bit h 26) (bit h 27) (h % 4096)
      if bit h 25 then transmit v p else takeChunks v p f :=
  (if_neg (by simp [hup])).trans ((if_neg (by simp [hf])).trans ((if_neg (not_not_intro hz)).trans
    (if_neg (by rintro ⟨hidle, hne⟩; simp [hidle, hne] at hseq))))

theorem takeWidth_of_plain {n : Nat} (hs : linkState s p = 6) : takeWidth s p false false n = s := by
  have hwide : widens s p n = false := by simp [widens, hs]
  simp [takeWidth, hwide]

/-- A plain flit in order acknowledges, returns credit, and brings chunks (R341 to R343). -/
theorem takeFlit_of_plain (hs : linkState s p = 6) (hf : flitOk f = true) (hz : reg s Key.frzState = 0)
    (hplain : bits (leNat (f.take 12)) 24 4 = 0) (hseq : leNat (f.take 12) % 4096 = (portOf s p).expect) :
    takeFlit p f s = takeChunks (setPort s p (credited (portOf s p) s.time (leNat (f.take 12)))) p f := by
  have hup : linkUp s p = true := by simp [linkUp, hs]
  have hflag (i : Nat) (hlo : 24 ≤ i) (hhi : i < 28) : bit (leNat (f.take 12)) i = false := by
    simp only [bits] at hplain
    obtain rfl | rfl | rfl | rfl : i = 24 ∨ i = 25 ∨ i = 26 ∨ i = 27 := by omega
    all_goals simp only [bit, decide_eq_false_iff_not]; omega
  have hacked : acked s p (leNat (f.take 12)) = setPort s p (credited (portOf s p) s.time (leNat (f.take 12))) :=
    if_neg (by simp [hflag 24])
  simp only [takeFlit_of_good hup hf hz (.inr hseq), hacked, hflag 25, hflag 26, hflag 27, Nat.reduceLeDiff, Nat.reduceLT,
    Bool.false_eq_true, if_false]
  exact congrArg (takeChunks · p f) (takeWidth_of_plain hs)

/-- The packets that start in a flit, and what is left of them (R341). -/
def freshPackets (f : List Byte) : List Pkt × List Byte :=
  cutPackets 8 (((f.drop 12).take 240).drop (16 * bits (leNat (f.take 12)) 28 4))

/-- Where no packet is under way, those that start in the flit join the input buffer; what is sent then changes no other port. -/
theorem takeChunks_spec (hnone : (portOf s p).chunks = []) (hstart : bits (leNat (f.take 12)) 28 4 ≠ 15) :
    let u := takeChunks s p f
    (portOf u p).expect = ((portOf s p).expect + 1) % 4096 ∧ (portOf u p).nakAt = none ∧
      (portOf u p).lastValid = (portOf s p).lastValid ∧ (portOf u p).inq = (portOf s p).inq ++ (freshPackets f).1 ∧
      (∀ j, j ≠ p → portOf u j = portOf s j) ∧ MemKept s u := by
  intro u
  set y : Port := { portOf s p with
    expect := ((portOf s p).expect + 1) % 4096, nakAt := none, chunks := (freshPackets f).2
    inq := (portOf s p).inq ++ (freshPackets f).1 }
  set v := bump (setPort s p y) (Key.linkRxBytes + 256 * p) ((freshPackets f).1.map (fun k => 16 * pktChunks k)).sum with hv
  have hu : u = transmit (sendIdle v p false) p := by
    simp only [u, takeChunks, hnone, List.isEmpty_nil, if_true, if_neg hstart]
    rfl
  have hsent : Sends p v u := hu ▸ (Sends.refl p v).sendIdle.transmit
  have hport : heard (portOf u p) = heard y := hsent.heard.trans (congrArg heard (portOf_setPort_same s p y))
  exact ⟨(congrArg Port.expect hport :), (congrArg Port.nakAt hport :), (congrArg Port.lastValid hport :),
    (congrArg Port.inq hport :), fun j hj => (hsent.others j hj).trans (portOf_setPort_ne s y hj), hsent.memKept⟩

/-! ## Codewords of the lanes (R335, R338) -/

theorem retrain_spec (s : State) (p : Nat) :
    RegsKept s (retrain s p) [Key.linkState + 256 * p, Key.linkRetrains + 256 * p] ∧ MemKept s (retrain s p) := by
  obtain ⟨-, hregs, -, -, hmem⟩ := startTraining_spec (bump32 s (Key.linkRetrains + 256 * p) 1) p
  refine ⟨fun k hk => ?_, hmem⟩
  simp only [List.mem_cons, List.not_mem_nil, or_false, not_or] at hk
  exact (hregs k (by simpa using hk.1)).trans (reg_setReg_ne _ _ hk.2)

/-- The module that has counted the codewords of its lanes that were corrected, and those past correction. -/
def wordsCounted (s : State) (p : Nat) (ws : List (List Nat)) : State :=
  bump (bump s (Key.linkFecCorrected + 256 * p) (ws.filter (fun w => ((rsDecode w).map (·.2)).getD 0 != 0)).length)
    (Key.linkFecUncorrected + 256 * p) (ws.filter (fun w => (rsDecode w).isNone)).length

/-- What the lanes bring is counted, its flits are taken, and too many uncorrectable codewords make the link retrain. -/
theorem takeWords_of_lanes {ws : List (List Nat)} (hup : linkUp s p = true)
    (hlen : ws.length = 1 ∨ (ws.length = 16 ∧ ((portOf s p).rxLanes = 16 ∨ (portOf s p).relocked = true))) :
    ∃ v, Hears p (wordsCounted s p ws) v ∧ (takeWords p ws s = retrain v p ∨ takeWords p ws s = v) := by
  have hflits (fs : List (List Byte)) {u v : State} (h : Hears p u v) : Hears p u (fs.foldl (fun s f => takeFlit p f s) v) := by
    induction fs generalizing v with
    | nil => exact h
    | cons f fs ih => exact ih h.takeFlit
  have hcounted : bump (bump s (Key.linkFecCorrected + 256 * p) ((ws.map rsDecode).filter (fun d => (d.map (·.2)).getD 0 != 0)).length)
      (Key.linkFecUncorrected + 256 * p) ((ws.map rsDecode).filter (·.isNone)).length = wordsCounted s p ws := by
    simp only [List.filter_map, List.length_map]
    rfl
  unfold takeWords
  dsimp only
  rw [if_neg (by simp [hup]; tauto), hcounted]
  split
  · exact ⟨_, hflits _ (Hears.refl p _).setPort, .inl rfl⟩
  · exact ⟨_, hflits _ (Hears.refl p _).setPort, .inr rfl⟩

theorem takeWords_counts {ws : List (List Nat)} (hp : p < 6) (hup : linkUp s p = true)
    (hlen : ws.length = 1 ∨ (ws.length = 16 ∧ ((portOf s p).rxLanes = 16 ∨ (portOf s p).relocked = true))) :
    MemKept s (takeWords p ws s) ∧
      reg (takeWords p ws s) (Key.linkFecCorrected + 256 * p) = wrap64 (reg s (Key.linkFecCorrected + 256 * p) +
        (ws.filter (fun w => ((rsDecode w).map (·.2)).getD 0 != 0)).length) ∧
      reg (takeWords p ws s) (Key.linkFecUncorrected + 256 * p) = wrap64 (reg s (Key.linkFecUncorrected + 256 * p) +
        (ws.filter (fun w => (rsDecode w).isNone)).length) := by
  obtain ⟨v, hv, hw⟩ := takeWords_of_lanes hup hlen
  have hflit (k : Nat) (hk : k = Key.linkFecCorrected ∨ k = Key.linkFecUncorrected) : reg (takeWords p ws s) (k + 256 * p) =
      reg (wordsCounted s p ws) (k + 256 * p) := by
    have hother : k + 256 * p ∉ flitRegs p := by
      obtain rfl | rfl := hk <;>
        simp [flitRegs, Key.linkFecCorrected, Key.linkFecUncorrected, Key.linkState, Key.linkTxBytes, Key.linkRxBytes, Key.linkReplays,
          Key.frzStatus] <;> omega
    obtain hw | hw := hw <;> rw [hw]
    · refine ((retrain_spec v p).1 _ ?_).trans (hv.regs _ hother)
      obtain rfl | rfl := hk <;> simp [Key.linkFecCorrected, Key.linkFecUncorrected, Key.linkState, Key.linkRetrains]
    · exact hv.regs _ hother
  refine ⟨?_, (hflit _ (.inl rfl)).trans ((reg_setReg_ne _ _ ?_).trans (reg_setReg_same _ _ _)),
    (hflit _ (.inr rfl)).trans ((reg_setReg_same _ _ _).trans ?_)⟩
  · obtain ⟨hmem, hhost, hpoison⟩ := hv.memKept
    obtain ⟨hmem', hhost', hpoison'⟩ := (retrain_spec v p).2
    obtain hw | hw := hw <;> rw [hw]
    · exact ⟨hmem'.trans hmem, hhost'.trans hhost, hpoison'.trans hpoison⟩
    · exact ⟨hmem, hhost, hpoison⟩
  · simp [Key.linkFecCorrected, Key.linkFecUncorrected]
  · rw [reg_bump, if_neg (by simp [Key.linkFecCorrected, Key.linkFecUncorrected])]

/-- A flit not taken is asked for at once, or again once a microsecond has passed (R342). -/
theorem nakOnce_of_none (h : (portOf s p).nakAt = none) :
    nakOnce s p = sendIdle (setPort s p { portOf s p with nakAt := some s.time }) p true :=
  if_neg (by simp [h])

end

/-- Settles O27: training command by command, a flit by what of it fails, the lanes by what their codewords count. -/
theorem linksAndFlits : Obligations.LinksAndFlits := by
  refine ⟨⟨fun s p t h hs => congrArg Host.Outcome.next (if_pos ⟨h, hs⟩), fun s p t h hs => congrArg Host.Outcome.next (if_pos ⟨h, hs⟩),
    fun s p t => exec_fecLock_of_light, fun s p t => exec_fecLock_of_parked, fun s p f t => exchangeFrame_up,
    fun s p f t => exchangeFrame_miswired, fun s p t => exec_linkTrainTimeout_of_due, fun s p t => exec_linkRetrain_of_up,
    fun s p t => linkTimeout_fails⟩, fun s p f t hp hup hf hz hnak => ?_, fun s p f t hp hup hf hz hnak => ?_,
    fun s p f t hp hs hf hz hplain hseq _ hnone hstart => ?_, fun s p f t hp hup hf hz hidle hseq => ?_,
    fun s p ws t hp hup hlen => ⟨_, exec_flitReceive_of_up hp hup, takeWords_counts (s := atTime s t) hp hup hlen⟩,
    fun s p t a hp hnak hup hz hdue => ?_⟩
  · refine (exec_flitReceive_of_up hp hup).trans (congrArg Host.Outcome.next ?_)
    exact (takeFlit_of_bad (s := atTime s t) hup hf hz).trans (nakOnce_of_none (s := atTime s t) hnak)
  · refine (exec_flitReceive_of_up hp hup).trans (congrArg Host.Outcome.next ?_)
    exact (takeFlit_of_bad (s := atTime s t) hup hf hz).trans (if_pos hnak)
  · have hup : linkUp s p = true := by simp [linkUp, hs]
    have hcredited := heard_credited (portOf s p) (max s.time t) (leNat (f.take 12))
    set v := setPort (atTime s t) p (credited (portOf s p) (max s.time t) (leNat (f.take 12))) with hv
    have hport : heard (portOf v p) = heard { portOf s p with lastValid := max s.time t } :=
      (congrArg heard (portOf_setPort_same _ _ _)).trans hcredited
    obtain ⟨hexpect, hnak, hvalid, hinq, hothers, hmem⟩ :=
      takeChunks_spec (s := v) ((congrArg Port.chunks hport :).trans hnone) hstart
    refine ⟨_, (exec_flitReceive_of_up hp hup).trans (congrArg Host.Outcome.next
      (takeFlit_of_plain (s := atTime s t) hs hf hz hplain hseq)), hexpect.trans ?_, hnak, hvalid.trans (congrArg Port.lastValid hport :),
      hinq.trans ?_, fun j hj => (hothers j hj).trans (portOf_setPort_ne _ _ hj), hmem⟩
    · exact congrArg (fun n => (n + 1) % 4096) (congrArg Port.expect hport :)
    · exact congrArg (· ++ (freshPackets f).1) (congrArg Port.inq hport :)
  · refine (exec_flitReceive_of_up hp hup).trans (congrArg Host.Outcome.next ?_)
    exact takeFlit_of_gap (s := atTime s t) hup hf hz hidle hseq
  · refine congrArg Host.Outcome.next ?_
    rw [hnak]
    exact if_pos ⟨hp, hup, hz, hdue⟩

end Sys2Proof.Scope

/-! Sluice windows (R352, R354): what a receiver accepts and acknowledges, what a source frees, resends and gives up. -/

namespace Sys2Proof.Scope
open Sys2Proof Sys2Proof.Machine Sys2Proof.Machine.Claim

/-! ## What a packet on its way out leaves -/

@[simp] theorem transmit_offPorts (s : State) (p : Nat) : offPorts (transmit s p) = offPorts s := (Sends.refl p s).transmit.rest

@[simp] theorem enqueue_offPorts (s : State) (p : Nat) (k : Pkt) : offPorts (enqueue s p k) = offPorts s := by
  have hmarked {c : Prop} [Decidable c] : offPorts (if c then bump s Key.fabCeMarks 1 else s) = offPorts s :=
    (apply_ite offPorts _ _ _).trans (ite_self _)
  unfold enqueue
  split
  · rfl
  · exact (transmit_offPorts _ p).trans hmarked

@[simp] theorem emitPkt_offPorts (s : State) (k : Pkt) : offPorts (emitPkt s k) = offPorts s := by
  unfold emitPkt
  split
  · rfl
  · exact enqueue_offPorts s _ _

/-! ## Receive windows -/

/-- A window found names the module and class it was sought for. -/
theorem rcvOf_names (s : State) (peer tc : Nat) : (rcvOf s peer tc).peer = peer ∧ (rcvOf s peer tc).tc = tc := by
  unfold rcvOf
  cases h : s.fab.rcv.find? (fun x => x.peer == peer && x.tc == tc) with
  | none => exact ⟨rfl, rfl⟩
  | some w => simpa using List.find?_some h

@[simp] theorem rcvOf_setRcv_same (s : State) (w : RcvWin) : rcvOf (setRcv s w) w.peer w.tc = w := by
  have hothers : (s.fab.rcv.filter (fun x => !(x.peer == w.peer && x.tc == w.tc))).find? (fun x => x.peer == w.peer && x.tc == w.tc) =
      none := List.find?_eq_none.mpr fun x hx => by simpa [imp_iff_not_or] using (List.mem_filter.mp hx).2
  simp only [rcvOf, setRcv, List.find?_append, hothers, Option.none_or]
  simp

/-- Acknowledged, a window owes nothing. -/
def sacked (w : RcvWin) : RcvWin := { w with unacked := 0, ce := false }

theorem sendSack_offPorts (s : State) (w : RcvWin) : offPorts (sendSack s w) = offPorts (setRcv s (sacked w)) :=
  emitPkt_offPorts _ _

theorem rcvOf_sendSack (s : State) (w : RcvWin) : rcvOf (sendSack s w) w.peer w.tc = sacked w := by
  have hrcv : (sendSack s w).fab.rcv = (setRcv s (sacked w)).fab.rcv := (congrArg (·.fab.rcv) (sendSack_offPorts s w) :)
  have hsame := rcvOf_setRcv_same s (sacked w)
  rw [rcvOf, ← hrcv] at hsame
  exact hsame

theorem sendSack_memKept (s : State) (w : RcvWin) : MemKept s (sendSack s w) :=
  have h := sendSack_offPorts s w
  ⟨(congrArg State.mem h :), (congrArg State.host h :), (congrArg State.hostPoison h :)⟩

/-- A window that has accepted the next packet (R352, R354). -/
def nextAccepted (w : RcvWin) (now : Nat) (ce : Bool) : RcvWin :=
  { w with expect := (w.expect + 1) % 65536, unacked := w.unacked + 1, firstAt := if w.unacked = 0 then now else w.firstAt,
           ce := w.ce || ce }

theorem sluiceAccept_of_next {s : State} {k : Pkt} (h : k.seq = (rcvOf s k.src k.tc).expect) :
    let w := nextAccepted (rcvOf s k.src k.tc) s.time k.ce
    sluiceAccept s k = (if reg s Key.sluiceAckEvery ≤ w.unacked then sendSack s w else setRcv s w, true) := if_pos h

theorem sluiceAccept_of_duplicate {s : State} {k : Pkt} (h : seqLt k.seq (rcvOf s k.src k.tc).expect = true) :
    sluiceAccept s k = (sendSack s (rcvOf s k.src k.tc), false) := by
  have hne : k.seq ≠ (rcvOf s k.src k.tc).expect := by
    simp only [seqLt, Bool.and_eq_true, decide_eq_true_eq] at h
    exact h.1
  exact (if_neg hne).trans (if_pos h)

/-! ## Windows as their source -/

/-- A command that takes a kind of packet from the inbox takes the first of it. -/
theorem exec_of_onResponse {c : Nat → Instr} {f : Pkt → Bool} {go : State → Pkt → State}
    (hc : ∀ s t, exec (c t) s = .next (onResponse f go t s)) {s s1 : State} {k : Pkt} (t : Nat) (hz : reg s Key.frzState < 2)
    (hk : takeInbox s f = some (k, s1)) : exec (c t) s = .next (markReady (pump (go (atTime s1 t) k))) := by
  rw [hc, onResponse, if_neg (by omega), hk]

/-- What a SACK covers is freed, and the window's limit moves (R352, R354). -/
theorem onSack_spec (top t : Nat) (w : SrcWin) (ack : Nat) (ece : Bool) :
    (onSack top t w ack ece).kept = w.kept.filter (fun p => seqLt ack p.seq) ∧
    let newly := w.kept.length - (w.kept.filter (fun p => seqLt ack p.seq)).length
    (onSack top t w ack ece).cw =
      (if ece = true ∧ seqLt ack w.recover = false then max 4 (w.cw / 2)
       else if w.cw ≤ w.ackRun + newly then min top (w.cw + 1) else w.cw) := by
  by_cases hmark : ece = true ∧ seqLt ack w.recover = false
  · simp [onSack, hmark]
  · have hmark' : (ece && !seqLt ack w.recover) = false := by
      rw [Bool.eq_false_iff]
      simpa using hmark
    by_cases hrun : w.cw ≤ w.ackRun + (w.kept.length - (w.kept.filter (fun p => seqLt ack p.seq)).length)
    · simp [onSack, hmark, hmark', hrun]
    · simp [onSack, hmark, hmark', hrun]

section
variable {s : State} {peer tc t : Nat} {w : SrcWin}

theorem exec_sluiceRto_of_resend (hw : s.fab.src.find? (fun w => w.peer == peer && w.tc == tc) = some w) (hkept : w.kept ≠ [])
    (hdue : w.since + 1000 * reg s Key.sluiceRtoUs ≤ max s.time t) (hz : reg s Key.frzState = 0)
    (hmay : w.resends < reg s Key.sluiceRetries) :
    exec (.sluiceRto peer tc t) s = .next (w.kept.foldl emitPkt (bump { atTime s t with fab := { s.fab with
      src := s.fab.src.map (fun x => if x.peer == peer && x.tc == tc
        then { w with resends := w.resends + 1, since := max s.time t } else x) } } Key.fabRetransmits 1)) := by
  change execSluiceRto peer tc t s = _
  unfold execSluiceRto
  rw [hw]
  exact congrArg Host.Outcome.next ((if_pos ⟨hkept, hdue, hz⟩).trans (if_pos hmay))

theorem exec_sluiceRto_of_reset (hw : s.fab.src.find? (fun w => w.peer == peer && w.tc == tc) = some w) (hkept : w.kept ≠ [])
    (hdue : w.since + 1000 * reg s Key.sluiceRtoUs ≤ max s.time t) (hz : reg s Key.frzState = 0)
    (hmay : reg s Key.sluiceRetries ≤ w.resends) :
    exec (.sluiceRto peer tc t) s = .next (markReady (pump (endPackets
      (alm (bump { atTime s t with fab := { s.fab with src := s.fab.src.map (fun x => if x.peer == peer && x.tc == tc
        then { peer := peer, tc := tc, waiting := w.waiting, cw := reg s Key.sluiceWin } else x) } } Key.fabTimeouts 1)
        0x54 0x0041 (leBytes 1 1 ++ leBytes 1 0 ++ leBytes 2 peer)) w.kept 0x0003))) := by
  change execSluiceRto peer tc t s = _
  unfold execSluiceRto
  rw [hw]
  exact congrArg Host.Outcome.next ((if_pos ⟨hkept, hdue, hz⟩).trans (if_neg (Nat.not_lt.mpr hmay)))

end

/-- Settles O31: a receiver by where the packet's number stands, a source by what covers its packets and how often it has sent
them. -/
theorem sluice : Obligations.Sluice := by
  refine ⟨⟨fun s k _ hseq => ?_, fun s k hdup => ?_, fun s k hne hgap => (if_neg hne).trans (if_neg (by simp [hgap])),
    fun s peer tc t hun hdue hz hpeer htc => ?_⟩, fun s t k s1 hz hk _ =>
      exec_of_onResponse (c := .sack) (fun _ _ => rfl) t hz hk, onSack_spec,
    fun s peer tc t w => exec_sluiceRto_of_resend, fun s peer tc t w => exec_sluiceRto_of_reset⟩
  · obtain ⟨hpeer, htc⟩ := rcvOf_names s k.src k.tc
    set w := nextAccepted (rcvOf s k.src k.tc) s.time k.ce with hw
    have hsack := rcvOf_sendSack s w
    have hset := rcvOf_setRcv_same s w
    rw [show w.peer = k.src from hpeer, show w.tc = k.tc from htc] at hsack hset
    have hexpect : w.expect = (k.seq + 1) % 65536 := by rw [hseq]; rfl
    rw [sluiceAccept_of_next hseq, ← hw]
    change true = true ∧ _ ∧ _ = if reg s Key.sluiceAckEvery ≤ w.unacked then 0 else w.unacked
    split
    · exact ⟨rfl, (congrArg RcvWin.expect hsack).trans hexpect, congrArg RcvWin.unacked hsack⟩
    · exact ⟨rfl, (congrArg RcvWin.expect hset).trans hexpect, congrArg RcvWin.unacked hset⟩
  · obtain ⟨hpeer, htc⟩ := rcvOf_names s k.src k.tc
    have hsack := rcvOf_sendSack s (rcvOf s k.src k.tc)
    rw [hpeer, htc] at hsack
    rw [sluiceAccept_of_duplicate hdup]
    exact ⟨rfl, rfl, (congrArg RcvWin.expect hsack :)⟩
  · have hsack := rcvOf_sendSack (atTime s t) (rcvOf s peer tc)
    rw [hpeer, htc] at hsack
    exact ⟨_, congrArg Host.Outcome.next (if_pos ⟨hun, hdue, hz⟩), rfl, hsack, sendSack_memKept (atTime s t) _⟩

end Sys2Proof.Scope

/-! Answers to a module's own requests, retries, draining, and FREEZE and THAW of a neighbour (R31, R355, R359, R361, R417, R489,
R492). -/

namespace Sys2Proof.Scope
open Sys2Proof Sys2Proof.Machine Sys2Proof.Machine.Claim

/-! ## A packet taken from the inbox -/

theorem findTxn_taken {s s1 : State} {f : Pkt → Bool} {k : Pkt} {t id peer : Nat} (h : takeInbox s f = some (k, s1)) :
    findTxn (atTime s1 t) id peer = findTxn s id peer := by
  rw [takeInbox_state h]
  rfl

theorem mcasts_taken {s s1 : State} {f : Pkt → Bool} {k : Pkt} {t : Nat} (h : takeInbox s f = some (k, s1)) :
    (atTime s1 t).fab.mcasts = s.fab.mcasts := by
  rw [takeInbox_state h]
  rfl

/-! ## Answers (R233, R355) -/

section
variable {s s1 : State} {k : Pkt} {x : Txn} {t : Nat}

theorem exec_onResponse_eq {c : Nat → Instr} {f : Pkt → Bool} {go : State → Pkt → State} {u : State}
    (hc : ∀ s t, exec (c t) s = .next (onResponse f go t s)) (hz : reg s Key.frzState < 2) (hk : takeInbox s f = some (k, s1))
    (hu : go (atTime s1 t) k = u) : exec (c t) s = .next (markReady (pump u)) :=
  hu ▸ exec_of_onResponse hc t hz hk

theorem exec_rdRsp_of_bytes (hz : reg s Key.frzState < 2) (hk : takeInbox s (fun k => k.ty == 2) = some (k, s1))
    (hx : findTxn s k.txid k.src = some x) (hok : k.aux = 0) :
    exec (.rdRsp t) s = .next (markReady (pump (takeBytes (dropTxn (atTime s1 t) x) x k))) := by
  refine exec_onResponse_eq (c := .rdRsp) (fun _ _ => rfl) hz hk ?_
  simp only [findTxn_taken hk, hx]
  exact if_neg (not_not_intro hok)

theorem exec_rdRsp_of_failure (hz : reg s Key.frzState < 2) (hk : takeInbox s (fun k => k.ty == 2) = some (k, s1))
    (hx : findTxn s k.txid k.src = some x) (hbad : k.aux ≠ 0) :
    exec (.rdRsp t) s = .next (markReady (pump (endTxn (atTime s1 t) x k.aux))) := by
  refine exec_onResponse_eq (c := .rdRsp) (fun _ _ => rfl) hz hk ?_
  simp only [findTxn_taken hk, hx]
  exact if_pos hbad

/-- The record of a descriptor with the bytes an answer brings. -/
def withBytes (w : Work) (x : Txn) (k : Pkt) : Work :=
  { w with rbuf := w.rbuf ++ [{ obj := x.obj, off := x.off, data := k.payload, peer := k.src }] }

/-- What an answer's bytes do to the descriptor that asked, by what it asked for (log 107). -/
theorem takeBytes_spec {u : State} {r : WRef} {w : Work} (hr : x.issuer = some r) (hw : findWork u r = some w) :
    let op := (rowOpOf (objOf u x.obj) x.pkt.aux).getD 0
    (w.phase = .running → op = 0 ∨ 4 ≤ op → takeBytes u x k = setWork u (withBytes w x k)) ∧
    (w.phase = .running → 1 ≤ op → op < 4 → takeBytes u x k = setWork (releaseHolds u w) { withBytes w x k with holds := [] }) ∧
    (w.phase ≠ .running → op ≤ 4 → takeBytes u x k = u) ∧
    (w.phase ≠ .running → 4 < op → takeBytes u x k = postRelease u x.pkt.sdie (x.pkt.aux % 2 ^ 13) x.pkt.dst x.obj x.off) := by
  intro op
  have hbind : x.issuer.bind (findWork u) = some w := by rw [hr]; exact hw
  simp only [takeBytes, hbind]
  refine ⟨fun hrun hop => ?_, fun hrun hlo hhi => ?_, fun hrun hop => ?_, fun hrun hop => ?_⟩
  · rw [if_neg (not_not_intro hrun)]
    exact if_neg (by unfold auxRelease; omega)
  · rw [if_neg (not_not_intro hrun)]
    exact if_pos ⟨hlo, hhi⟩
  · rw [if_pos hrun]
    exact if_neg fun h => Nat.not_lt.mpr hop h.1
  · rw [if_pos hrun]
    exact if_pos ⟨hop, by rw [hr]; rfl⟩

theorem exec_wrAck_of_multicast {m : MCast} (hz : reg s Key.frzState < 2) (hk : takeInbox s (fun k => k.ty == 4) = some (k, s1))
    (hm : s.fab.mcasts.find? (fun m => m.id == k.txid && m.left.contains k.src) = some m) :
    exec (.wrAck t) s = .next (markReady (pump (closeMCast (atTime s1 t) { m with left := m.left.filter (· != k.src) } k.aux))) := by
  refine exec_onResponse_eq (c := .wrAck) (fun _ _ => rfl) hz hk ?_
  simp only [mcasts_taken hk, hm]
  rfl

theorem exec_wrAck_of_write (hz : reg s Key.frzState < 2) (hk : takeInbox s (fun k => k.ty == 4) = some (k, s1))
    (hm : s.fab.mcasts.find? (fun m => m.id == k.txid && m.left.contains k.src) = none) (hx : findTxn s k.txid k.src = some x) :
    exec (.wrAck t) s = .next (markReady (pump (if k.aux = 0 then ackIssuer (dropTxn (atTime s1 t) x) x 0 {}
      else endTxn (atTime s1 t) x k.aux))) := by
  refine exec_onResponse_eq (c := .wrAck) (fun _ _ => rfl) hz hk ?_
  simp only [mcasts_taken hk, hm, findTxn_taken hk, hx]
  exact ite_not _ _ _

theorem exec_addAck_of_add (hz : reg s Key.frzState < 2) (hk : takeInbox s (fun k => k.ty == 6) = some (k, s1))
    (hx : findTxn s k.txid k.src = some x) :
    exec (.addAck t) s = .next (markReady (pump (ackIssuer (dropTxn (atTime s1 t) x) x k.aux
      { flags := Ev.ofNat (field k.payload 0 2), satN := field k.payload 4 4, fluN := field k.payload 8 4,
        invN := field k.payload 12 4 }))) := by
  refine exec_onResponse_eq (c := .addAck) (fun _ _ => rfl) hz hk ?_
  simp only [findTxn_taken hk, hx]

theorem exec_msgRsp_of_message (hz : reg s Key.frzState < 2) (hk : takeInbox s (fun k => k.ty == 8) = some (k, s1))
    (hx : findTxn s k.txid k.src = some x) :
    exec (.msgRsp t) s = .next (markReady (pump (
      if k.aux = 0 then accepted (atTime s1 t) x
      else if k.aux = 0xFFFF then { atTime s1 t with fab := { s1.fab with txns := s1.fab.txns.map (fun y =>
        if y = x then { y with busyAt := some (max s.time t) } else y) } }
      else endTxn (atTime s1 t) x k.aux))) := by
  refine exec_onResponse_eq (c := .msgRsp) (fun _ _ => rfl) hz hk ?_
  simp only [findTxn_taken hk, hx, ← taken_time hk]
  rfl

theorem exec_dropReport_of_multicast {m : MCast} (hz : reg s Key.frzState < 2)
    (hk : takeInbox s (fun k => k.ty == 0xA) = some (k, s1)) (hm : s.fab.mcasts.find? (fun m => m.id == k.txid) = some m) :
    exec (.dropReport t) s = .next (markReady (pump (dropDests (atTime s1 t) m
      ((List.range k.aux).map (fun i => field k.payload (2 * i) 2))))) := by
  refine exec_onResponse_eq (c := .dropReport) (fun _ _ => rfl) hz hk ?_
  simp only [mcasts_taken hk, hm]

end

/-! ## Retries (R31, R355, R359, R417) -/

section
variable {s : State} {x : Txn} {id t : Nat}

/-- A message that BUSY has put off goes again, or times out, once its time has come and it is the first to go. -/
theorem exec_msgRetry_of_due (hx : s.fab.txns.find? (fun x => x.id == id && x.busyAt.isSome) = some x)
    (hfirst : x.kind = .strand →
      s.fab.txns.find? (fun y => decide (y.kind = .strand) && y.pkt.dst == x.pkt.dst && y.busyAt.isSome) = some x)
    (hdue : x.busyAt.getD 0 + 1000 * reg s Key.fabBusyBackoffUs ≤ max s.time t) :
    exec (.msgRetry id t) s = .next (if x.kind = .mailbox ∧ x.start + 1000 * reg s Key.mbxFabRetryUs ≤ max s.time t
      then endTxn (atTime s t) x 0x0003
      else repost { atTime s t with fab := { s.fab with txns := s.fab.txns.map (fun y =>
        if y = x then { y with busyAt := none } else y) } } x.pkt) := by
  have hgo : (x.kind != .strand || s.fab.txns.find? (fun y => decide (y.kind = .strand) && y.pkt.dst == x.pkt.dst &&
      y.busyAt.isSome) == some x) = true := by
    by_cases hs : x.kind = .strand
    · rw [hfirst hs, beq_self_eq_true, Bool.or_true]
    · rw [bne_iff_ne.mpr hs, Bool.true_or]
  change execMsgRetry id t s = _
  unfold execMsgRetry
  rw [hx]
  exact congrArg Host.Outcome.next (if_pos ⟨hdue, hgo⟩)

theorem exec_multicastResend_of_due {m : MCast} (hm : s.fab.mcasts.find? (fun m => m.id == id && !m.resent && !m.held) = some m)
    (hdue : m.start + 1000 * reg s Key.sluiceRtoUs ≤ max s.time t) (hz : reg s Key.frzState = 0) :
    exec (.multicastResend id t) s =
      .next (m.left.foldl (fun s c => postPkt s { m.pkt with mc := false, dst := c, txid := m.id })
        (setMCast (atTime s t) { m with resent := true })) := by
  change execMulticastResend id t s = _
  unfold execMulticastResend
  rw [hm]
  exact congrArg Host.Outcome.next (if_pos ⟨hdue, hz⟩)

end

/-! ## Draining, FREEZE and THAW (R361, R489, R492) -/

theorem exec_fabDrainTimeout_of_due {s : State} {t : Nat} (hs : reg s Key.fabState = 2) (hrun : s.fab.drainAt ≠ 0)
    (hdue : s.fab.drainAt + 1000 * reg s Key.fabDrainTimeoutUs ≤ max s.time t) :
    ∃ u, exec (.fabDrainTimeout t) s = .next u ∧ reg u Key.fabState = 2 ∧ u.fab = { s.fab with drainAt := 0 } ∧
      u.alm.next = (s.alm.next + 1) % 2 ^ 32 ∧ MemKept s u :=
  ⟨_, congrArg Host.Outcome.next (if_pos ⟨hs, hrun, by omega⟩), (alm_regsKept _ _ _ _ _ (by decide)).trans hs,
    (congrArg State.fab (almFull_frame _ _ _ _ _ _ _ _) :), almFull_next _ _ _ _ _ _ _ _, memKept_almFull _ _ _ _ _ _ _ _⟩

section
variable {s s1 : State} {k : Pkt} {t : Nat}

theorem exec_freeze_of_packet (hk : takeInbox s (fun k => k.ty == 0x0C && k.aux == ctrlFreeze) = some (k, s1)) :
    exec (.freeze t) s = .next (if reg s Key.frzPropagate = 1 ∧ fromMember s (portTo s k.src) k = true
      then Machine.freeze (atTime s1 t) 3 (portTo s k.src) else s1) := by
  change execFreeze t s = _
  unfold execFreeze
  rw [hk, takeInbox_state hk]
  rfl

theorem exec_thaw_of_packet (hk : takeInbox s (fun k => k.ty == 0x0C && k.aux == ctrlThaw) = some (k, s1)) :
    exec (.thaw t) s = .next (if reg s Key.frzCause = 3 ∧ fromMember s (portTo s k.src) k = true ∧ reg s Key.frzState = 2
      then markReady (Machine.thaw (atTime s1 t)).1 else s1) := by
  change execThaw t s = _
  unfold execThaw
  rw [hk, takeInbox_state hk]
  rfl

end

/-- Settles O35: answers by the transaction or multicast they name, retries by what is due, the commands that end draining, freeze
and thaw by their conditions. -/
theorem fabricResponses : Obligations.FabricResponses := by
  refine ⟨⟨fun s t k s1 x r w hz hk hx hok hr hw => ?_, fun s t k s1 x => exec_rdRsp_of_failure,
    fun s t k s1 x => exec_wrAck_of_write, fun s t k s1 m => exec_wrAck_of_multicast, fun s t k s1 x => exec_addAck_of_add,
    fun s t k s1 x => exec_msgRsp_of_message, fun s t k s1 m => exec_dropReport_of_multicast,
    fun s id t x hx hfirst hdue hin => ?_, fun s id t x hx hmail hdue hout => ?_, fun s id t m => exec_multicastResend_of_due⟩,
    fun s t hs hd => congrArg Host.Outcome.next (if_pos ⟨hs, hd⟩), fun s t => exec_fabDrainTimeout_of_due,
    fun s s1 t k => exec_freeze_of_packet, fun s s1 t k => exec_thaw_of_packet, fun s p k h => ?_⟩
  · have hobj : objOf (dropTxn (atTime s1 t) x) x.obj = objOf s x.obj := by rw [takeInbox_state hk]; rfl
    have hwork : findWork (dropTxn (atTime s1 t) x) r = some w := by rw [takeInbox_state hk]; exact hw
    obtain ⟨hplain, hrow, hlate, hheld⟩ := takeBytes_spec (k := k) hr hwork
    have hexec := exec_rdRsp_of_bytes (t := t) hz hk hx hok
    rw [hobj] at hplain hrow hlate hheld
    exact ⟨fun hp ho => hplain hp ho ▸ hexec, fun hp hlo hhi => hrow hp hlo hhi ▸ hexec, fun hp ho => hlate hp ho ▸ hexec,
      fun hp ho => hheld hp ho ▸ hexec⟩
  · exact (exec_msgRetry_of_due hx hfirst hdue).trans (congrArg Host.Outcome.next
      (if_neg fun h => Nat.not_le.mpr (hin h.1) h.2))
  · refine (exec_msgRetry_of_due hx (fun hs => ?_) hdue).trans (congrArg Host.Outcome.next ((if_pos ⟨hmail, hout⟩).trans ?_))
    · rw [hmail] at hs
      cases hs
    · simp only [endTxn, hmail]
  · simp only [fromMember, Bool.and_eq_true, beq_iff_eq] at h
    obtain ⟨⟨⟨⟨hport, hsrc⟩, hpart⟩, hepoch⟩, hcrc⟩ := h
    exact ⟨hcrc, hpart, hepoch, hsrc, hport⟩

end Sys2Proof.Scope

/-! The router (R345, R351, R357, R358): masks as sets of coordinates, the branches of a multicast packet, and what becomes of
a packet that reaches the router. -/

namespace Sys2Proof.Scope
open Sys2Proof Sys2Proof.Machine Sys2Proof.Machine.Claim

/-! ## Masks as lists of coordinates -/

theorem nodup_eraseDups (l : List Nat) : l.eraseDups.Nodup :=
  match l with
  | [] => List.nodup_nil
  | a :: l => by
    rw [List.eraseDups_cons]
    exact List.nodup_cons.mpr ⟨by simp [List.mem_eraseDups], nodup_eraseDups _⟩
termination_by l.length
decreasing_by exact Nat.lt_succ_of_le (List.length_filter_le _ _)

theorem length_eraseDups_of_mem_iff {l m : List Nat} (hm : m.Nodup) (h : ∀ a, a ∈ l ↔ a ∈ m) : l.eraseDups.length = m.length :=
  ((List.perm_ext_iff_of_nodup (nodup_eraseDups l) hm).mpr fun a => List.mem_eraseDups.trans (h a)).length_eq

theorem bit_eq_testBit (v i : Nat) : bit v i = v.testBit i := (Nat.testBit_eq_decide_div_mod_eq).symm

theorem testBit_add_two_pow {n v : Nat} (h : n.testBit v = false) (i : Nat) :
    (n + 2 ^ v).testBit i = (n.testBit i || i == v) := by
  obtain ⟨m, hm⟩ : ∃ m, n / 2 ^ v = 2 * m :=
    ⟨n / 2 ^ v / 2, by rw [Nat.testBit_eq_decide_div_mod_eq, decide_eq_false_iff_not] at h; omega⟩
  have hlow := Nat.mod_lt n (Nat.two_pow_pos v)
  have hn : n = 2 ^ v * (2 * m) + n % 2 ^ v := hm ▸ (Nat.div_add_mod n (2 ^ v)).symm
  have hsum : n + 2 ^ v = 2 ^ v * (2 * m + 1) + n % 2 ^ v := by rw [Nat.mul_succ]; omega
  rw [hsum, Nat.testBit_two_pow_mul_add _ hlow]
  conv_rhs => rw [hn, Nat.testBit_two_pow_mul_add _ hlow]
  rcases lt_trichotomy i v with hi | rfl | hi
  · simp [hi, hi.ne]
  · simp
  · obtain ⟨j, rfl⟩ := Nat.exists_eq_add_of_lt hi
    have hj : v + j + 1 - v = j + 1 := by omega
    have hhalf : (2 * m + 1) / 2 = m := by omega
    simp only [if_neg (show ¬ v + j + 1 < v by omega), hj, Nat.testBit_succ, hhalf, Nat.mul_div_cancel_left m Nat.two_pos,
      beq_eq_false_iff_ne.mpr (show v + j + 1 ≠ v by omega), Bool.or_false]

theorem testBit_sum_two_pow {l : List Nat} (hl : l.Nodup) {n : Nat} (hn : ∀ v ∈ l, n.testBit v = false) (i : Nat) :
    (l.foldl (fun n v => n + 2 ^ v) n).testBit i = (n.testBit i || decide (i ∈ l)) := by
  induction l generalizing n with
  | nil => simp
  | cons v l ih =>
    obtain ⟨hv, hl⟩ := List.nodup_cons.mp hl
    have hbit := testBit_add_two_pow (hn v (by simp))
    rw [List.foldl_cons, ih hl fun u hu => ?_, hbit]
    · simp only [Bool.or_assoc, List.mem_cons, Bool.decide_or, beq_eq_decide]
    · rw [hbit, hn u (by simp [hu])]
      exact beq_eq_false_iff_ne.mpr fun h => hv (h ▸ hu)

/-- A mask has the bits of the coordinates it is made of. -/
theorem bit_maskOf (vs : List Nat) (v : Nat) : bit (maskOf vs) v = decide (v ∈ vs) := by
  rw [bit_eq_testBit, maskOf, testBit_sum_two_pow (nodup_eraseDups vs) fun _ _ => Nat.zero_testBit _]
  simp [List.mem_eraseDups]

/-! ## Boxes of destinations (R358, log 45) -/

/-- The coordinates of a box, x outermost. -/
def boxList (xs ys zs : List Nat) : List Nat := (xs ×ˢ (ys ×ˢ zs)).map (fun p => coordOf p.1 p.2.1 p.2.2)

section
variable {xs ys zs : List Nat} (hx : ∀ v ∈ xs, v < 16) (hy : ∀ v ∈ ys, v < 16) (hz : ∀ v ∈ zs, v < 16)

theorem mem_boxList {c : Nat} : c ∈ boxList xs ys zs ↔ ∃ x ∈ xs, ∃ y ∈ ys, ∃ z ∈ zs, coordOf x y z = c := by
  simp [boxList, and_assoc]

include hx hy hz

theorem nodup_boxList (nx : xs.Nodup) (ny : ys.Nodup) (nz : zs.Nodup) : (boxList xs ys zs).Nodup := by
  refine List.Nodup.map_on (fun ⟨x, y, z⟩ hp ⟨x', y', z'⟩ hq h => ?_) (nx.product (ny.product nz))
  simp only [List.mem_product] at hp hq
  have hcx := congrArg cx h
  have hcy := congrArg cy h
  have hcz := congrArg cz h
  simp only [cx_coordOf, cy_coordOf, cz_coordOf, Nat.mod_eq_of_lt, hx _ hp.1, hx _ hq.1, hy _ hp.2.1, hy _ hq.2.1, hz _ hp.2.2,
    hz _ hq.2.2] at hcx hcy hcz
  rw [hcx, hcy, hcz]

theorem mem_sides_boxList (ex : xs ≠ []) (ey : ys ≠ []) (ez : zs ≠ []) (v : Nat) :
    (v ∈ (boxList xs ys zs).map cx ↔ v ∈ xs) ∧ (v ∈ (boxList xs ys zs).map cy ↔ v ∈ ys) ∧
    (v ∈ (boxList xs ys zs).map cz ↔ v ∈ zs) := by
  obtain ⟨x, hx'⟩ := List.exists_mem_of_ne_nil xs ex
  obtain ⟨y, hy'⟩ := List.exists_mem_of_ne_nil ys ey
  obtain ⟨z, hz'⟩ := List.exists_mem_of_ne_nil zs ez
  simp only [List.mem_map, mem_boxList]
  refine ⟨⟨?_, fun h => ⟨_, ⟨v, h, y, hy', z, hz', rfl⟩, ?_⟩⟩, ⟨?_, fun h => ⟨_, ⟨x, hx', v, h, z, hz', rfl⟩, ?_⟩⟩,
    ?_, fun h => ⟨_, ⟨x, hx', y, hy', v, h, rfl⟩, ?_⟩⟩
  · rintro ⟨_, ⟨a, ha, _, _, _, _, rfl⟩, rfl⟩
    rwa [cx_coordOf, Nat.mod_eq_of_lt (hx a ha)]
  · rw [cx_coordOf, Nat.mod_eq_of_lt (hx v h)]
  · rintro ⟨_, ⟨_, _, a, ha, _, _, rfl⟩, rfl⟩
    rwa [cy_coordOf, Nat.mod_eq_of_lt (hy a ha)]
  · rw [cy_coordOf, Nat.mod_eq_of_lt (hy v h)]
  · rintro ⟨_, ⟨_, _, _, _, a, ha, rfl⟩, rfl⟩
    rwa [cz_coordOf, Nat.mod_eq_of_lt (hz a ha)]
  · rw [cz_coordOf, Nat.mod_eq_of_lt (hz v h)]

/-- A box is named by the masks of one packet. -/
theorem splitSet_boxList (nx : xs.Nodup) (ny : ys.Nodup) (nz : zs.Nodup) (ex : xs ≠ []) (ey : ys ≠ []) (ez : zs ≠ []) :
    splitSet (boxList xs ys zs) = [boxOfSet (boxList xs ys zs)] := by
  have hsides := mem_sides_boxList hx hy hz ex ey ez
  refine if_pos (beq_iff_eq.mpr ?_)
  simp only [boxOfSet]
  rw [length_eraseDups_of_mem_iff (nodup_boxList hx hy hz nx ny nz) fun _ => Iff.rfl,
    length_eraseDups_of_mem_iff nx fun v => (hsides v).1, length_eraseDups_of_mem_iff ny fun v => (hsides v).2.1,
    length_eraseDups_of_mem_iff nz fun v => (hsides v).2.2]
  simp [boxList, List.length_product, Nat.mul_assoc]

end

/-! ## The destinations of a branch (R358) -/

theorem mem_maskCoords {bx : Box} {k : Pkt} {d v : Nat} (h : v ∈ maskCoords bx k d) : v < 16 :=
  List.mem_range.mp (List.mem_filter.mp h).1

theorem nodup_maskCoords (bx : Box) (k : Pkt) (d : Nat) : (maskCoords bx k d).Nodup := List.nodup_range.filter _

section
variable {bx : Box} {k : Pkt} {d me start cur : Nat} {dir : Bool}

theorem nodup_ahead : (ahead bx k d dir start cur).Nodup := (nodup_maskCoords bx k d).filter _

theorem lt_of_mem_ahead {v : Nat} (h : v ∈ ahead bx k d dir start cur) : v < 16 := mem_maskCoords (List.mem_filter.mp h).1

/-- No branch turns back to the coordinate it was made at. -/
theorem ne_start_of_mem_ahead {v : Nat} (h : v ∈ ahead bx k d dir start cur) : v ≠ start := by
  rintro rfl
  have hdir := (List.mem_filter.mp h).2
  simp [dirOf] at hdir

/-- The sides of the box a branch of dimension `d` goes to: this module's own coordinates, then those still ahead, then the masks
of the later dimensions. -/
def sidesOf (bx : Box) (k : Pkt) (me d : Nat) (vs : List Nat) : List Nat × List Nat × List Nat := match d with
  | 0 => (vs, maskCoords bx k 1, maskCoords bx k 2)
  | 1 => ([cx me], vs, maskCoords bx k 2)
  | _ => ([cx me], [cy me], vs)

/-- The destinations of a branch, by the coordinates still ahead. -/
def branchDests (bx : Box) (k : Pkt) (me d : Nat) (vs : List Nat) : List (Nat × Nat) :=
  vs.flatMap (fun v => (behind bx k d (withCoord me d v)).map (fun c => (v, c)))

@[simp] theorem coordOf_mod (x y z : Nat) : coordOf (x % 16) y z = coordOf x y z ∧ coordOf x (y % 16) z = coordOf x y z :=
  ⟨coordOf_congr (Nat.mod_mod _ _) rfl rfl, coordOf_congr rfl (Nat.mod_mod _ _) rfl⟩

theorem map_branchDests (vs : List Nat) (hd : d < 3) : (branchDests bx k me d vs).map (·.2) =
    boxList (sidesOf bx k me d vs).1 (sidesOf bx k me d vs).2.1 (sidesOf bx k me d vs).2.2 := by
  have hmap : (branchDests bx k me d vs).map (·.2) = vs.flatMap (fun v => behind bx k d (withCoord me d v)) := by
    simp [branchDests, List.map_flatMap, Function.comp_def]
  rw [hmap]
  match d, hd with
  | 0, _ => simp [sidesOf, boxList, SProd.sprod, List.product, behind, withCoord, List.map_flatMap, Function.comp_def, coordOf_mod]
  | 1, _ => simp [sidesOf, boxList, SProd.sprod, List.product, behind, withCoord, List.map_flatMap, Function.comp_def, coordOf_mod]
  | 2, _ => simp [sidesOf, boxList, SProd.sprod, List.product, behind, withCoord, ← List.map_eq_flatMap, Function.comp_def]

end

end Sys2Proof.Scope

/-! Packets that reach the router (R351, R357, R358): where the branches of a multicast packet go, and what the checks of a
packet decide. -/

namespace Sys2Proof.Scope
open Sys2Proof Sys2Proof.Machine Sys2Proof.Machine.Claim

/-! ## A queue of a port that carries nothing -/

theorem fenced_of_empty_table {s : State} (h : reg s Key.fabFenceTable = 0) (c : Nat) : fenced s c = false := by
  unfold fenced
  split <;> simp [h, bit]

theorem noFwd_of_empty_table {s : State} (h : reg s Key.fabFenceTable = 0) (c : Nat) : noFwd s c = false := by
  unfold noFwd
  split <;> simp [h, bit]

/-- A packet at the end of a port's output queue. -/
def queued (s : State) (q : Nat) (r : Pkt) : State := setPort s q { portOf s q with outq := (portOf s q).outq ++ [r] }

/-- From `s` to `t` marked packets may have been counted, and queues of the ports have changed. -/
structure Queues (s t : State) : Prop where
  rest : offPorts t = offPorts s
  regs : RegsKept s t [Key.fabCeMarks]
  peers : ∀ j, (portOf t j).peerPart = (portOf s j).peerPart

section
variable {s t u : State} {q : Nat} {r : Pkt}

theorem Queues.refl (s : State) : Queues s s := ⟨rfl, fun _ _ => rfl, fun _ => rfl⟩

theorem Queues.trans (h : Queues s t) (g : Queues t u) : Queues s u :=
  ⟨g.rest.trans h.rest, fun k hk => (g.regs k hk).trans (h.regs k hk), fun j => (g.peers j).trans (h.peers j)⟩

theorem Queues.queued : Queues s (queued s q r) := by
  refine ⟨rfl, fun _ _ => rfl, fun j => ?_⟩
  by_cases hj : j = q
  · rw [hj, Scope.queued, portOf_setPort_same]
  · rw [Scope.queued, portOf_setPort_ne _ _ hj]

theorem Queues.mark {n : Nat} : Queues s (bump s Key.fabCeMarks n) :=
  ⟨rfl, fun _ hk => reg_setReg_ne _ _ (by simpa using hk), fun _ => rfl⟩

theorem Queues.reg (h : Queues s t) {k : Nat} (hk : k ≠ Key.fabCeMarks := by decide) : reg t k = reg s k :=
  h.regs k (by simpa using hk)

theorem Queues.carries (h : Queues s t) (j : Nat) : carries t j = carries s j := by
  have hstate : linkState t j = linkState s j := h.reg (by simp only [Key.linkState, Key.fabCeMarks]; omega)
  rw [Machine.carries, Machine.carries, hstate, h.peers, h.reg (k := Key.fabPartId)]

theorem Queues.memKept (h : Queues s t) : MemKept s t :=
  ⟨(congrArg State.mem h.rest :), (congrArg State.host h.rest :), (congrArg State.hostPoison h.rest :)⟩

/-- A port that carries nothing keeps what is queued. -/
theorem enqueue_of_dark (hopen : reg s Key.fabState ≠ 5) (hdark : carries s q = false) :
    ∃ ce u, (r.ce = true → ce = true) ∧ Queues s u ∧ u.fab = s.fab ∧ enqueue s q r = queued u q { r with ce := ce } := by
  set mark := decide (reg s Key.fabCeThresh < queuedChunks (portOf s q) r.cls) with hmark
  have hmarked : ∃ u, u = (if (mark && !r.ce) = true then bump s Key.fabCeMarks 1 else s) ∧ Queues s u ∧ u.fab = s.fab := by
    refine ⟨_, rfl, ?_⟩
    split
    · exact ⟨.mark, rfl⟩
    · exact ⟨.refl s, rfl⟩
  obtain ⟨u, hu, hq, hfab⟩ := hmarked
  refine ⟨r.ce || mark, u, fun h => by rw [h, Bool.true_or], hq, hfab, ?_⟩
  have hport : portOf s q = portOf u q := by rw [portOf, portOf, hfab]
  have hsent : enqueue s q r = transmit (queued u q { r with ce := r.ce || mark }) q := by
    rw [queued, ← hport, hu]
    exact if_neg hopen
  have hquiet : Machine.carries (queued u q { r with ce := r.ce || mark }) q = false :=
    ((hq.trans .queued).carries q).trans hdark
  exact hsent.trans (if_neg fun h => Bool.false_ne_true (hquiet.symm.trans h.1))

end

/-! ## One branch (R358, R359, log 45) -/

/-- Dimension `d` of the branches made here: the coordinate they start at. -/
def branchStart (me : Nat) (k : Pkt) (d : Nat) : Nat := if d = k.stage then coordIn k.src d else coordIn me d

/-- The coordinates of dimension `d` a branch of direction `dir` still has to reach from here. -/
def branchAhead (bx : Box) (me : Nat) (k : Pkt) (d : Nat) (dir : Bool) : List Nat :=
  ahead bx k d dir (branchStart me k d) (coordIn me d)

/-- A branch has a destination. -/
def hasDest (bx : Box) (me : Nat) (k : Pkt) (d : Nat) (dir : Bool) : Prop :=
  branchAhead bx me k d dir ≠ [] ∧ ∀ j, d < j → j < 3 → maskCoords bx k j ≠ []

/-- `r` is the replica of `k` for a branch: its masks name the coordinates of its dimension still ahead and, of the later
dimensions, those of the packet. -/
def IsReplica (bx : Box) (me : Nat) (k : Pkt) (d : Nat) (dir : Bool) (r : Pkt) : Prop :=
  r.mc = true ∧ r.stage = d ∧ r.dir = dir ∧
  r.vc = vcOn bx me (2 * d + (if dir then 0 else 1))
    (if branchStart me k d = coordIn me d then none else some (2 * d + (if dir then 0 else 1))) k.vc ∧
  r.src = k.src ∧ r.txid = k.txid ∧ r.addr = k.addr ∧ r.len = k.len ∧ r.payload = k.payload ∧
  (∀ v, v < 16 → bit (r.mask d) v = decide (v ∈ branchAhead bx me k d dir)) ∧ (∀ j, j < d → r.mask j = k.mask j) ∧
  ∀ j v, d < j → j < 3 → v < 16 → bit (r.mask j) v = decide (v ∈ maskCoords bx k j)

/-- The replica for the box `b` of destinations of a branch, before its CRC. -/
def replicaOf (bx : Box) (me : Nat) (k : Pkt) (d : Nat) (dir : Bool) (start cur : Nat) (b : List Nat × List Nat × List Nat) : Pkt :=
  { k with
    xmask := if d = 0 then maskOf b.1 else k.xmask
    ymask := if d ≤ 1 then maskOf b.2.1 else k.ymask
    zmask := maskOf b.2.2, stage := d, dir := dir
    vc := vcOn bx me (2 * d + (if dir then 0 else 1))
      (if start = cur then none else some (2 * d + (if dir then 0 else 1))) k.vc }

/-- A module that forwards every packet and sends none: what the branches of a packet leave as it is. -/
structure Forwards (bx : Box) (me : Nat) (s : State) : Prop where
  box : boxOf s = bx
  own : self s = me
  unfenced : reg s Key.fabFenceTable = 0
  joined : reg s Key.fabState ≠ 5
  dark : ∀ q, carries s q = false
  noon : reg s Key.pwrState = 0
  stays : s.pwr.target = none

/-- A multicast packet on its way through `me`. -/
structure OnItsWay (me : Nat) (k : Pkt) : Prop where
  stage : k.stage ≤ 2
  away : coordIn k.src k.stage ≠ coordIn me k.stage
  multicast : k.mc = true
  request : k.tc = 0
  known : knownType k.ty = true
  sealed : pktCrc k = k.sum

theorem Forwards.queues {bx : Box} {me : Nat} {s t : State} (h : Forwards bx me s) (g : Queues s t) : Forwards bx me t where
  box := by rw [← h.box, boxOf, boxOf, g.reg (k := Key.fabBoxSize), g.reg (k := Key.fabBoxOrigin)]
  own := (g.reg (k := Key.fabCoord)).trans h.own
  unfenced := g.reg.trans h.unfenced
  joined := fun h5 => h.joined (g.reg.symm.trans h5)
  dark := fun q => (g.carries q).trans (h.dark q)
  noon := g.reg.trans h.noon
  stays := (congrArg (·.pwr.target) g.rest :).trans h.stays

theorem coordIn_withCoord_same {c d v : Nat} (hd : d < 3) (hv : v < 16) : coordIn (withCoord c d v) d = v := by
  match d, hd with
  | 0, _ => exact (cx_coordOf ..).trans (Nat.mod_eq_of_lt hv)
  | 1, _ => exact (cy_coordOf ..).trans (Nat.mod_eq_of_lt hv)
  | 2, _ => exact (cz_coordOf ..).trans (Nat.mod_eq_of_lt hv)

theorem coordIn_withCoord_lt {c d v j : Nat} (hd : d < 3) (hj : j < d) : coordIn (withCoord c d v) j = coordIn c j := by
  match d, hd, j, hj with
  | 1, _, 0, _ => exact (cx_coordOf ..).trans (Nat.mod_eq_of_lt (cx_lt _))
  | 2, _, 0, _ => exact (cx_coordOf ..).trans (Nat.mod_eq_of_lt (cx_lt _))
  | 2, _, 1, _ => exact (cy_coordOf ..).trans (Nat.mod_eq_of_lt (cy_lt _))

/-- What lies behind a coordinate of a branch shares the coordinates up to the branch's dimension. -/
theorem coordIn_of_mem_behind {bx : Box} {k : Pkt} {d at_ c j : Nat} (hd : d < 3) (h : c ∈ behind bx k d at_) (hj : j ≤ d) :
    coordIn c j = coordIn at_ j := by
  match d, hd with
  | 0, _ =>
    simp only [behind, List.mem_flatMap, List.mem_map] at h
    obtain ⟨y, -, z, -, rfl⟩ := h
    obtain rfl : j = 0 := by omega
    exact (cx_coordOf ..).trans (Nat.mod_eq_of_lt (cx_lt _))
  | 1, _ =>
    simp only [behind, List.mem_map] at h
    obtain ⟨z, -, rfl⟩ := h
    obtain rfl | rfl : j = 0 ∨ j = 1 := by omega
    · exact (cx_coordOf ..).trans (Nat.mod_eq_of_lt (cx_lt _))
    · exact (cy_coordOf ..).trans (Nat.mod_eq_of_lt (cy_lt _))
  | 2, _ => rw [List.mem_singleton.mp h]

section
variable {bx : Box} {me d : Nat} {k : Pkt} {s : State} {dir : Bool}

/-- A branch has other destinations than the packet's source. -/
theorem branch_ne_source (hk : OnItsWay me k) (hd : d < 3) (hstage : k.stage ≤ d) {e : Nat × Nat}
    (he : e ∈ branchDests bx k me d (branchAhead bx me k d dir)) : e.2 ≠ k.src := by
  simp only [branchDests, List.mem_flatMap, List.mem_map] at he
  obtain ⟨v, hv, c, hc, rfl⟩ := he
  rintro rfl
  have hcoord := coordIn_of_mem_behind hd hc hstage
  rcases Nat.eq_or_lt_of_le hstage with h | h
  · subst h
    rw [coordIn_withCoord_same hd (lt_of_mem_ahead hv)] at hcoord
    exact ne_start_of_mem_ahead hv (by rw [branchStart, if_pos rfl, hcoord])
  · exact hk.away (hcoord.trans (coordIn_withCoord_lt hd h))

/-- The fence table or the source takes a destination from a branch. -/
def taken (s : State) (k : Pkt) (d : Nat) (dir : Bool) (cur : Nat) (e : Nat × Nat) : Bool :=
  fenced s e.2 || e.2 == k.src || (List.range 16).any (fun u =>
    decide (0 < hopsIn dir cur u) && decide (hopsIn dir cur u ≤ hopsIn dir cur e.1) && noFwd s (withCoord (self s) d u) &&
    e.2 != withCoord (self s) d u)

theorem not_taken (hs : Forwards bx me s) {cur : Nat} {e : Nat × Nat} (he : e.2 ≠ k.src) : taken s k d dir cur e = false := by
  simp [taken, fenced_of_empty_table hs.unfenced, noFwd_of_empty_table hs.unfenced, he]

/-- A branch that loses no destination goes nowhere, or as the packets its destinations split into. -/
theorem sendBranch_of_none_taken {start cur : Nat} {dests : List (Nat × Nat)}
    (hdests : dests = branchDests (boxOf s) k (self s) d (ahead (boxOf s) k d dir start cur))
    (h : ∀ e ∈ dests, taken s k d dir cur e = false) :
    sendBranch s k d dir start cur = if dests.isEmpty then s else (splitSet (dests.map (·.2))).foldl (fun t b =>
      enqueue t (2 * d + (if dir then 0 else 1)) (reseal k (replicaOf (boxOf s) (self s) k d dir start cur b))) s := by
  have hleft : dests.filter (fun e => !taken s k d dir cur e) = dests :=
    List.filter_eq_self.mpr fun e he => by rw [h e he]; rfl
  have hgone : dests.filter (fun e => taken s k d dir cur e && e.2 != k.src) = [] :=
    List.filter_eq_nil_iff.mpr fun e he => by rw [h e he]; exact Bool.false_ne_true
  have hdef : sendBranch s k d dir start cur = if (dests.filter (fun e => !taken s k d dir cur e)).isEmpty
      then reportDrops s k ((dests.filter (fun e => taken s k d dir cur e && e.2 != k.src)).map (·.2))
      else (splitSet ((dests.filter (fun e => !taken s k d dir cur e)).map (·.2))).foldl (fun t b =>
        enqueue t (2 * d + (if dir then 0 else 1)) (reseal k (replicaOf (boxOf s) (self s) k d dir start cur b)))
        (reportDrops s k ((dests.filter (fun e => taken s k d dir cur e && e.2 != k.src)).map (·.2))) := by
    subst hdests
    rfl
  rw [hdef, hleft, hgone]
  rfl

/-- The sides of a branch's box. -/
abbrev branchSides (bx : Box) (me : Nat) (k : Pkt) (d : Nat) (dir : Bool) : List Nat × List Nat × List Nat :=
  sidesOf bx k me d (branchAhead bx me k d dir)

/-- The destinations of a branch form a box with coordinates of four bits. -/
theorem branchSides_wf (dir : Bool) :
    let b := branchSides bx me k d dir
    ((∀ v ∈ b.1, v < 16) ∧ (∀ v ∈ b.2.1, v < 16) ∧ ∀ v ∈ b.2.2, v < 16) ∧ b.1.Nodup ∧ b.2.1.Nodup ∧ b.2.2.Nodup := by
  have hmask (j : Nat) : ∀ v ∈ maskCoords bx k j, v < 16 := fun v => mem_maskCoords
  have hahead : ∀ v ∈ branchAhead bx me k d dir, v < 16 := fun v => lt_of_mem_ahead
  have hx : ∀ v ∈ [cx me], v < 16 := by simpa using cx_lt me
  have hy : ∀ v ∈ [cy me], v < 16 := by simpa using cy_lt me
  unfold branchSides sidesOf
  split
  · exact ⟨⟨hahead, hmask 1, hmask 2⟩, nodup_ahead, nodup_maskCoords .., nodup_maskCoords ..⟩
  · exact ⟨⟨hx, hahead, hmask 2⟩, List.nodup_singleton _, nodup_ahead, nodup_maskCoords ..⟩
  · exact ⟨⟨hx, hy, hahead⟩, List.nodup_singleton _, List.nodup_singleton _, nodup_ahead⟩

theorem hasDest_iff (hd : d < 3) : hasDest bx me k d dir ↔
    (branchSides bx me k d dir).1 ≠ [] ∧ (branchSides bx me k d dir).2.1 ≠ [] ∧ (branchSides bx me k d dir).2.2 ≠ [] := by
  match d, hd with
  | 0, _ =>
    refine and_congr_right fun _ => ⟨fun h => ⟨h 1 (by omega) (by omega), h 2 (by omega) (by omega)⟩, fun h j h1 h3 => ?_⟩
    obtain rfl | rfl : j = 1 ∨ j = 2 := by omega
    · exact h.1
    · exact h.2
  | 1, _ =>
    refine ⟨fun h => ⟨List.cons_ne_nil _ _, h.1, h.2 2 (by omega) (by omega)⟩, fun h => ⟨h.2.1, fun j h1 h3 => ?_⟩⟩
    obtain rfl : j = 2 := by omega
    exact h.2.2
  | 2, _ => exact ⟨fun h => ⟨List.cons_ne_nil _ _, List.cons_ne_nil _ _, h.1⟩, fun h => ⟨h.2.2, fun j h1 h3 => by omega⟩⟩

theorem branchDests_eq_nil_iff (hd : d < 3) :
    branchDests bx k me d (branchAhead bx me k d dir) = [] ↔ ¬ hasDest bx me k d dir := by
  rw [← List.map_eq_nil_iff (f := (·.2)), map_branchDests _ hd, boxList, List.map_eq_nil_iff, hasDest_iff hd,
    ← List.length_eq_zero_iff, List.length_product, List.length_product]
  simp only [Nat.mul_eq_zero, List.length_eq_zero_iff]
  tauto

/-- One side of a box. -/
def sideOf (b : List Nat × List Nat × List Nat) (j : Nat) : List Nat := match j with
  | 0 => b.1
  | 1 => b.2.1
  | _ => b.2.2

theorem sideOf_branchSides_same (hd : d < 3) : sideOf (branchSides bx me k d dir) d = branchAhead bx me k d dir := by
  match d, hd with
  | 0, _ => rfl
  | 1, _ => rfl
  | 2, _ => rfl

theorem sideOf_branchSides_gt {j : Nat} (hj : d < j) (h3 : j < 3) : sideOf (branchSides bx me k d dir) j = maskCoords bx k j := by
  match d, j, hj, h3 with
  | 0, 1, _, _ => rfl
  | 0, 2, _, _ => rfl
  | 1, 2, _, _ => rfl
  | _ + 2, _, hj, h3 => exact absurd h3 (by omega)

theorem replicaOf_mask {start cur j : Nat} (b : List Nat × List Nat × List Nat) :
    (j < d → d < 3 → (replicaOf bx me k d dir start cur b).mask j = k.mask j) ∧
    (d ≤ j → j < 3 → (replicaOf bx me k d dir start cur b).mask j = maskOf (sideOf b j)) := by
  refine ⟨fun hj hd => ?_, fun hj h3 => ?_⟩
  · obtain rfl | rfl : j = 0 ∨ j = 1 := by omega
    · exact if_neg (by omega)
    · exact if_neg (by omega)
  · obtain rfl | rfl | rfl : j = 0 ∨ j = 1 ∨ j = 2 := by omega
    · exact if_pos (by omega)
    · exact if_pos hj
    · rfl

/-- The masks of a box of coordinates name its sides. -/
theorem bit_mask_boxList {b : List Nat × List Nat × List Nat}
    (hlt : (∀ v ∈ b.1, v < 16) ∧ (∀ v ∈ b.2.1, v < 16) ∧ ∀ v ∈ b.2.2, v < 16) (hne : b.1 ≠ [] ∧ b.2.1 ≠ [] ∧ b.2.2 ≠ [])
    (j v : Nat) : bit (maskOf (sideOf (boxOfSet (boxList b.1 b.2.1 b.2.2)) j)) v = decide (v ∈ sideOf b j) := by
  obtain ⟨hx, hy, hz⟩ := hlt
  obtain ⟨ex, ey, ez⟩ := hne
  obtain ⟨hmx, hmy, hmz⟩ := mem_sides_boxList hx hy hz ex ey ez v
  rw [bit_maskOf]
  refine decide_eq_decide.mpr ?_
  unfold sideOf boxOfSet
  split
  · exact List.mem_eraseDups.trans hmx
  · exact List.mem_eraseDups.trans hmy
  · exact List.mem_eraseDups.trans hmz

/-- The replica a branch sends. -/
def branchReplica (bx : Box) (me : Nat) (k : Pkt) (d : Nat) (dir : Bool) : Pkt :=
  replicaOf bx me k d dir (branchStart me k d) (coordIn me d)
    (boxOfSet ((branchDests bx k me d (branchAhead bx me k d dir)).map (·.2)))

theorem isReplica_branchReplica (hk : OnItsWay me k) (hd : d < 3) (hdest : hasDest bx me k d dir) :
    IsReplica bx me k d dir (branchReplica bx me k d dir) := by
  obtain ⟨hlt, -⟩ := branchSides_wf (bx := bx) (me := me) (k := k) (d := d) dir
  have hbits := bit_mask_boxList hlt ((hasDest_iff hd).mp hdest)
  rw [branchReplica, map_branchDests _ hd]
  refine ⟨hk.multicast, rfl, rfl, rfl, rfl, rfl, rfl, rfl, rfl, fun v _ => ?_, fun j hj => (replicaOf_mask _).1 hj hd,
    fun j v hj h3 _ => ?_⟩
  · rw [(replicaOf_mask _).2 (Nat.le_refl d) hd, hbits, sideOf_branchSides_same hd]
  · rw [(replicaOf_mask _).2 (Nat.le_of_lt hj) h3, hbits, sideOf_branchSides_gt hj h3]

/-- A CRC and a congestion mark make no other replica. -/
theorem IsReplica.sent {r : Pkt} (h : IsReplica bx me k d dir r) (ce : Bool) : IsReplica bx me k d dir { reseal k r with ce := ce } := by
  unfold reseal
  split
  · exact h
  · exact h

/-- The branch of dimension `d` and direction `dir` made or carried on here. -/
abbrev branch (me : Nat) (k : Pkt) (d : Nat) (dir : Bool) (s : State) : State :=
  sendBranch s k d dir (branchStart me k d) (coordIn me d)

theorem sendBranch_of_no_dest (hs : Forwards bx me s) (hk : OnItsWay me k) (hd : d < 3) (hstage : k.stage ≤ d)
    (hdest : ¬ hasDest bx me k d dir) : branch me k d dir s = s := by
  obtain ⟨rfl, rfl⟩ : boxOf s = bx ∧ self s = me := ⟨hs.box, hs.own⟩
  rw [branch, sendBranch_of_none_taken rfl fun e he => not_taken hs (branch_ne_source hk hd hstage he), if_pos]
  rw [List.isEmpty_iff]
  exact (branchDests_eq_nil_iff hd).mpr hdest

theorem sendBranch_of_dest (hs : Forwards bx me s) (hk : OnItsWay me k) (hd : d < 3) (hstage : k.stage ≤ d)
    (hdest : hasDest bx me k d dir) : branch me k d dir s =
      enqueue s (2 * d + (if dir then 0 else 1)) (reseal k (branchReplica bx me k d dir)) := by
  obtain ⟨rfl, rfl⟩ : boxOf s = bx ∧ self s = me := ⟨hs.box, hs.own⟩
  obtain ⟨⟨hx, hy, hz⟩, nx, ny, nz⟩ := branchSides_wf (bx := boxOf s) (me := self s) (k := k) (d := d) dir
  obtain ⟨ex, ey, ez⟩ := (hasDest_iff hd).mp hdest
  have hsplit := splitSet_boxList hx hy hz nx ny nz ex ey ez
  rw [← map_branchDests _ hd] at hsplit
  rw [branch, sendBranch_of_none_taken rfl fun e he => not_taken hs (branch_ne_source hk hd hstage he), if_neg]
  · exact congrArg (List.foldl _ s) hsplit
  · rw [List.isEmpty_iff]
    exact fun h => (branchDests_eq_nil_iff hd).mp h hdest

end

/-! ## All branches of a packet (R358) -/

/-- From `s` to `t` the branches of `A` have each sent one replica of `k`, the other ports are as they were, `more` has reached
this module, and no memory has changed. -/
structure Fans (bx : Box) (me : Nat) (k : Pkt) (A : Nat → Bool → Prop) (more : List Pkt) (s t : State) : Prop where
  idle : ∀ d dir, d < 3 → ¬ A d dir → portOf t (2 * d + (if dir then 0 else 1)) = portOf s (2 * d + (if dir then 0 else 1))
  sends : ∀ d dir, d < 3 → A d dir → ∃ r, (portOf t (2 * d + (if dir then 0 else 1))).outq =
    (portOf s (2 * d + (if dir then 0 else 1))).outq ++ [r] ∧ IsReplica bx me k d dir r
  inbox : t.fab.inbox = s.fab.inbox ++ more
  mem : MemKept s t

/-- A port names its dimension and direction. -/
theorem port_inj {d e : Nat} {dir dir' : Bool} (h : 2 * d + (if dir then 0 else 1) = 2 * e + (if dir' then 0 else 1)) :
    d = e ∧ dir = dir' := by
  cases dir <;> cases dir' <;> simp at h ⊢ <;> omega

section
variable {bx : Box} {me d : Nat} {k : Pkt} {s t u : State} {dir : Bool} {A B : Nat → Bool → Prop} {more : List Pkt}

theorem Fans.trans (h : Fans bx me k A [] s t) (g : Fans bx me k B more t u) (hAB : ∀ d dir, A d dir → ¬ B d dir) :
    Fans bx me k (fun d dir => A d dir ∨ B d dir) more s u where
  idle d dir hd hn := by
    rw [not_or] at hn
    exact (g.idle d dir hd hn.2).trans (h.idle d dir hd hn.1)
  sends d dir hd hor := by
    rcases hor with ha | hb
    · obtain ⟨r, hr, hrep⟩ := h.sends d dir hd ha
      exact ⟨r, (congrArg Port.outq (g.idle d dir hd (hAB d dir ha))).trans hr, hrep⟩
    · obtain ⟨r, hr, hrep⟩ := g.sends d dir hd hb
      exact ⟨r, hr.trans (by rw [h.idle d dir hd fun ha => hAB d dir ha hb]), hrep⟩
  inbox := by rw [g.inbox, h.inbox, List.append_nil]
  mem := ⟨g.mem.1.trans h.mem.1, g.mem.2.1.trans h.mem.2.1, g.mem.2.2.trans h.mem.2.2⟩

theorem Fans.congr (h : Fans bx me k A more s t) (hAB : ∀ d dir, d < 3 → (A d dir ↔ B d dir)) :
    Fans bx me k B more s t :=
  { h with
    idle := fun d dir hd hn => h.idle d dir hd fun ha => hn ((hAB d dir hd).mp ha)
    sends := fun d dir hd hb => h.sends d dir hd ((hAB d dir hd).mpr hb) }

theorem fans_branch (hs : Forwards bx me s) (hk : OnItsWay me k) (hd : d < 3) (hstage : k.stage ≤ d) (dir : Bool) :
    Forwards bx me (branch me k d dir s) ∧
    Fans bx me k (fun e dir' => e = d ∧ dir' = dir ∧ hasDest bx me k d dir) [] s (branch me k d dir s) := by
  by_cases hdest : hasDest bx me k d dir
  · obtain ⟨ce, u, -, hq, hfab, henq⟩ :=
      enqueue_of_dark (r := reseal k (branchReplica bx me k d dir)) hs.joined (hs.dark (2 * d + (if dir then 0 else 1)))
    rw [sendBranch_of_dest hs hk hd hstage hdest, henq]
    have hqueues := hq.trans (Queues.queued (q := 2 * d + (if dir then 0 else 1))
      (r := { reseal k (branchReplica bx me k d dir) with ce := ce }))
    have hport (j : Nat) : portOf u j = portOf s j := by rw [portOf, portOf, hfab]
    refine ⟨hs.queues hqueues, ⟨fun e dir' _ hne => ?_, fun e dir' _ heq => ?_, ?_, hqueues.memKept⟩⟩
    · exact (portOf_setPort_ne _ _ fun h => hne ⟨(port_inj h).1, (port_inj h).2, hdest⟩).trans (hport _)
    · obtain ⟨rfl, rfl, -⟩ := heq
      refine ⟨_, ?_, (isReplica_branchReplica hk hd hdest).sent ce⟩
      rw [queued, portOf_setPort_same, hport]
    · exact (congrArg (·.inbox) hfab :).trans (List.append_nil _).symm
  · rw [sendBranch_of_no_dest hs hk hd hstage hdest]
    exact ⟨hs, ⟨fun _ _ _ _ => rfl, fun e dir' _ h => absurd h.2.2 hdest, (List.append_nil _).symm, rfl, rfl, rfl⟩⟩

/-- A multicast packet for this module waits for its step. -/
theorem fans_deliver (hs : Forwards bx me s) (hk : OnItsWay me k) : Fans bx me k (fun _ _ => False) [k] s (deliver s k) := by
  have hdeliver : deliver s k = touch { s with fab := { s.fab with inbox := s.fab.inbox ++ [k] } } := by
    have hnowake : ¬ (reg s Key.pwrState = 1 ∨ reg s Key.pwrState = 2 ∨ s.pwr.target.isSome = true) := by
      rw [hs.noon, hs.stays]
      decide
    have hfirst : (if k.tc = 3 ∨ k.mc = true then (s, true) else sluiceAccept s k) = (s, true) := if_pos (.inr hk.multicast)
    refine (if_neg (not_not_intro hk.sealed)).trans ((if_neg (by rw [fenced_of_empty_table hs.unfenced]; decide)).trans ?_)
    rw [hfirst]
    refine (if_neg (by simp)).trans ((if_neg (by rw [hk.known]; decide)).trans ((if_neg (not_not_intro hk.request)).trans ?_))
    exact congrArg touch (if_neg hnowake)
  rw [hdeliver]
  exact ⟨fun _ _ _ _ => rfl, fun _ _ _ h => h.elim, rfl, rfl, rfl, rfl⟩

/-- A packet that has come to dimension `d` here has a branch of dimension `e` and direction `dir`. -/
def Spreads (bx : Box) (me : Nat) (k : Pkt) (d e : Nat) (dir : Bool) : Prop :=
  d ≤ e ∧ (∀ j, d ≤ j → j < e → bit (k.mask j) (coordIn me j) = true) ∧ hasDest bx me k e dir

theorem spreads_iff_of_named (h : bit (k.mask d) (coordIn me d) = true) (e : Nat) (dir : Bool) :
    Spreads bx me k d e dir ↔ e = d ∧ hasDest bx me k d dir ∨ Spreads bx me k (d + 1) e dir := by
  constructor
  · rintro ⟨hde, hnamed, hdest⟩
    rcases Nat.eq_or_lt_of_le hde with rfl | hlt
    · exact .inl ⟨rfl, hdest⟩
    · exact .inr ⟨hlt, fun j hj => hnamed j (by omega), hdest⟩
  · rintro (⟨rfl, hdest⟩ | ⟨hde, hnamed, hdest⟩)
    · exact ⟨Nat.le_refl _, fun j hj hje => absurd hj (by omega), hdest⟩
    · refine ⟨by omega, fun j hj hje => ?_, hdest⟩
      rcases Nat.eq_or_lt_of_le hj with rfl | hlt
      · exact h
      · exact hnamed j hlt hje

theorem spreads_iff_of_not_named (h : bit (k.mask d) (coordIn me d) ≠ true) (e : Nat) (dir : Bool) :
    Spreads bx me k d e dir ↔ e = d ∧ hasDest bx me k d dir := by
  constructor
  · rintro ⟨hde, hnamed, hdest⟩
    rcases Nat.eq_or_lt_of_le hde with rfl | hlt
    · exact ⟨rfl, hdest⟩
    · exact absurd (hnamed d (Nat.le_refl d) hlt) h
  · rintro ⟨rfl, hdest⟩
    exact ⟨Nat.le_refl _, fun j hj hje => absurd hj (by omega), hdest⟩

/-- The packets that reach this module from dimension `d` on. -/
def arrivals (me : Nat) (k : Pkt) (d : Nat) : List Pkt :=
  if ∀ j, d ≤ j → j < 3 → bit (k.mask j) (coordIn me j) = true then [k] else []

theorem arrivals_of_named (h : bit (k.mask d) (coordIn me d) = true) : arrivals me k d = arrivals me k (d + 1) := by
  unfold arrivals
  congr 1
  refine propext ⟨fun hall j hj => hall j (by omega), fun hall j hj h3 => ?_⟩
  rcases Nat.eq_or_lt_of_le hj with rfl | hlt
  · exact h
  · exact hall j hlt h3

theorem arrivals_of_not_named (hd : d < 3) (h : bit (k.mask d) (coordIn me d) ≠ true) : arrivals me k d = [] :=
  if_neg fun hall => h (hall d (Nat.le_refl d) hd)

/-- A packet at dimension `d` here branches both ways, and goes on to the next dimension where its mask names this module. -/
theorem fans_mcStage (hk : OnItsWay me k) {n d : Nat} {s : State} (hs : Forwards bx me s) (hstage : k.stage < d) (hd : d ≤ 3)
    (hn : 3 < n + d) : Fans bx me k (Spreads bx me k d) (arrivals me k d) s (mcStage k n d s) := by
  induction n generalizing d s with
  | zero => omega
  | succ n ih =>
    rcases Nat.eq_or_lt_of_le hd with rfl | hlt
    · have hsrc : k.src ≠ self s := fun h => hk.away (by rw [h, hs.own])
      have hstep : mcStage k (n + 1) 3 s = deliver s k :=
        (if_neg hsrc).trans (if_neg (by rw [fenced_of_empty_table hs.unfenced]; decide))
      rw [hstep, arrivals, if_pos fun j hj h3 => absurd h3 (by omega)]
      exact (fans_deliver hs hk).congr fun e dir he => ⟨False.elim, fun h => absurd h.1 (by omega)⟩
    · have hstart : branchStart me k d = coordIn me d := if_neg (by omega)
      obtain ⟨hs1, hfan1⟩ := fans_branch hs hk hlt (Nat.le_of_lt hstage) true
      obtain ⟨hs2, hfan2⟩ := fans_branch hs1 hk hlt (Nat.le_of_lt hstage) false
      have hboth := (hfan1.trans hfan2 fun e dir h h' => by simp [h.2.1] at h').congr
        (B := fun e dir => e = d ∧ hasDest bx me k d dir) fun e dir _ => by cases dir <;> simp
      have hstep : mcStage k (n + 1) d s = if bit (k.mask d) (coordIn me d) = true
          then mcStage k n (d + 1) (branch me k d false (branch me k d true s)) else branch me k d false (branch me k d true s) := by
        rw [branch, branch, hstart, ← hs.own]
        exact if_neg (by omega)
      rw [hstep]
      split
      · next h =>
        rw [arrivals_of_named h]
        exact (hboth.trans (ih hs2 (by omega) (by omega) (by omega)) fun e dir h h' => absurd h'.1 (by omega)).congr
          fun e dir _ => (spreads_iff_of_named h e dir).symm
      · next h =>
        rw [arrivals_of_not_named hlt h]
        exact hboth.congr fun e dir _ => (spreads_iff_of_not_named h e dir).symm

/-- A branch that has come here goes on, and what its mask names of this module spreads in the later dimensions. -/
theorem fans_mcReceive (hs : Forwards bx me s) (hk : OnItsWay me k) :
    Fans bx me k (fun d dir => (d = k.stage ∧ dir = k.dir ∨ k.stage < d ∧ ∀ j, k.stage ≤ j → j < d →
      bit (k.mask j) (coordIn me j) = true) ∧ hasDest bx me k d dir) (arrivals me k k.stage) s (mcReceive s k) := by
  have hstage := hk.stage
  have hstart : branchStart me k k.stage = coordIn k.src k.stage := if_pos rfl
  obtain ⟨hs1, hfan⟩ := fans_branch hs hk (by omega) (Nat.le_refl _) k.dir
  have hstep : mcReceive s k = if bit (k.mask k.stage) (coordIn me k.stage) = true
      then mcStage k 4 (k.stage + 1) (branch me k k.stage k.dir s) else branch me k k.stage k.dir s := by
    rw [branch, hstart, ← hs.own]
    rfl
  rw [hstep]
  split
  · next h =>
    rw [arrivals_of_named h]
    refine (hfan.trans (fans_mcStage hk hs1 (by omega) (by omega) (by omega)) fun e dir h h' => absurd h'.1 (by omega)).congr
      fun e dir _ => ⟨?_, ?_⟩
    · rintro (⟨rfl, rfl, hdest⟩ | ⟨hlt, hnamed, hdest⟩)
      · exact ⟨.inl ⟨rfl, rfl⟩, hdest⟩
      · refine ⟨.inr ⟨hlt, fun j hj hje => ?_⟩, hdest⟩
        rcases Nat.eq_or_lt_of_le hj with rfl | hgt
        · exact h
        · exact hnamed j hgt hje
    · rintro ⟨⟨rfl, rfl⟩ | ⟨hlt, hnamed⟩, hdest⟩
      · exact .inl ⟨rfl, rfl, hdest⟩
      · exact .inr ⟨hlt, fun j hj => hnamed j (by omega), hdest⟩
  · next h =>
    rw [arrivals_of_not_named (by omega) h]
    refine hfan.congr fun e dir _ => ⟨?_, ?_⟩
    · rintro ⟨rfl, rfl, hdest⟩
      exact ⟨.inl ⟨rfl, rfl⟩, hdest⟩
    · rintro ⟨⟨rfl, rfl⟩ | ⟨hlt, hnamed⟩, hdest⟩
      · exact ⟨rfl, rfl, hdest⟩
      · exact absurd (hnamed _ (Nat.le_refl _) hlt) h

end


/-! ## The router's checks (R351) -/

section
variable {s : State} {p q t : Nat} {k : Pkt} {ks : List Pkt}

theorem reg_freeBuffer_fabState (hp : p < 6) : reg (freeBuffer s p k) Key.fabState = reg s Key.fabState := by
  have hsends : Sends p s (freeBuffer s p k) := .sendIdle (Sends.setPort (.refl p s) (by rfl))
  refine hsends.regs _ ?_
  simp only [List.mem_cons, List.not_mem_nil, or_false, Key.fabState, Key.linkState, Key.linkTxBytes]
  omega

theorem exec_packetRoute (hp : p < 6) (hin : (portOf s p).inq = k :: ks) (hpwr : reg s Key.pwrState < 3)
    (hz : reg s Key.frzState = 0) :
    let s1 := freeBuffer (setPort (atTime s t) p { portOf s p with inq := ks }) p k
    exec (.packetRoute p t) s = .next (if reg s Key.fabState = 5 then s1 else routePkt s1 p k) := by
  intro s1
  have hstate : reg s1 Key.fabState = reg s Key.fabState :=
    reg_freeBuffer_fabState (s := setPort (atTime s t) p { portOf s p with inq := ks }) hp
  have hguard : ¬ (6 ≤ p ∨ 3 ≤ reg s Key.pwrState ∨ reg s Key.frzState ≠ 0) := by
    simp only [not_or, not_le, ne_eq, not_not]
    exact ⟨hp, hpwr, hz⟩
  change execPacketRoute p t s = _
  unfold execPacketRoute
  rw [hin, ← hstate]
  exact congrArg Host.Outcome.next (if_neg hguard)

theorem routePkt_of_member (hpart : k.part = reg s Key.fabPartId) (hepoch : k.epoch = reg s Key.fabEpoch) :
    routePkt s p k = if k.mc = true then mcReceive s k else if fenced s k.dst = true then bump s Key.fabFenceDrops 1
      else if k.dst = self s then deliver s k else match nextPort (boxOf s) (self s) k.dst with
      | none => bump s Key.fabFenceDrops 1
      | some q => if noFwd s (portPeer (self s) q) = true then bump s Key.fabFenceDrops 1
        else enqueue s q { k with vc := vcOn (boxOf s) (self s) q (some p) k.vc } :=
  (if_neg (not_not_intro hpart)).trans ((if_neg (not_not_intro hepoch)).trans rfl)

theorem deliver_of_sack (hcrc : pktCrc k = k.sum) (hsrc : fenced s k.src = false) (htc : k.tc = 3) (hty : k.ty = 9) :
    deliver s k = { s with fab := { s.fab with inbox := s.fab.inbox ++ [k] } } := by
  have hfirst : (if k.tc = 3 ∨ k.mc = true then (s, true) else sluiceAccept s k) = (s, true) := if_pos (.inl htc)
  refine (if_neg (not_not_intro hcrc)).trans ((if_neg (by rw [hsrc]; decide)).trans ?_)
  rw [hfirst]
  refine (if_neg (by simp)).trans ((if_neg (by rw [hty]; decide)).trans (if_pos ?_))
  rw [htc]
  decide

theorem portOf_queued_outq {u : State} (hfab : u.fab = s.fab) (r : Pkt) : (portOf (queued u q r) q).outq = (portOf s q).outq ++ [r] := by
  rw [queued, portOf_setPort_same, portOf, portOf, hfab]

end

/-- Settles O30: the router's checks in order, and the branches of a multicast packet by the dimensions it still has to cross. -/
theorem packetChecks : Obligations.PacketChecks := by
  refine ⟨⟨fun s p t k ks hp hin hpwr hz => ?_, fun s p k hpart => if_pos hpart,
    fun s p k hpart hepoch => (if_neg (not_not_intro hpart)).trans (if_pos hepoch), fun s p k hpart hepoch hmc => ?_⟩,
    fun s p k hpart hepoch hmc hstage htc hty hcrc haway htable hopen hdark hnoon hstays => ?_⟩
  · have hexec := exec_packetRoute (t := t) hp hin hpwr hz
    exact ⟨fun h => hexec.trans (congrArg Host.Outcome.next (if_neg h)), fun h => hexec.trans (congrArg Host.Outcome.next (if_pos h))⟩
  · have hroute := routePkt_of_member (p := p) hpart hepoch
    rw [if_neg (by rw [hmc]; decide)] at hroute
    refine ⟨fun h => hroute.trans (if_pos h), fun h hdst => ?_, fun h hdst q hq => ?_⟩
    · rw [if_neg (by rw [h]; decide), if_pos hdst] at hroute
      exact ⟨fun hbad => hroute.trans (if_pos hbad),
        fun hok hsrc => hroute.trans ((if_neg (not_not_intro hok)).trans (if_pos hsrc)),
        fun hok hsrc h3 h9 => hroute.trans (deliver_of_sack hok hsrc h3 h9)⟩
    · rw [if_neg (by rw [h]; decide), if_neg hdst, hq] at hroute
      refine ⟨fun hno => hroute.trans (if_pos hno), fun hno hopen hdark => ?_⟩
      obtain ⟨ce, u, hce, -, hfab, henq⟩ :=
        enqueue_of_dark (r := { k with vc := vcOn (boxOf s) (self s) q (some p) k.vc }) hopen hdark
      refine ⟨ce, hce, ?_⟩
      rw [hroute.trans (if_neg (by rw [hno]; decide)), henq, portOf_queued_outq hfab]
  · have hfan := fans_mcReceive (me := self s) (bx := boxOf s) ⟨rfl, rfl, htable, hopen, hdark, hnoon, hstays⟩
      ⟨hstage, haway, hmc, htc, hty, hcrc⟩
    have hroute := (routePkt_of_member (p := p) hpart hepoch).trans (if_pos hmc)
    rw [hroute]
    exact ⟨fun d dir hd => ⟨hfan.idle d dir hd, hfan.sends d dir hd⟩, hfan.inbox, hfan.mem⟩

end Sys2Proof.Scope

/-! Requests a module serves (R350, R351, R353, R355): what answers them without effect, how their work runs, and the bodies of a
read and of a write that lie in one span of this module's memory. -/

namespace Sys2Proof.Scope
open Sys2Proof Sys2Proof.Machine Sys2Proof.Machine.Claim

/-! ## Requests answered without effect (R61, R483) -/

theorem guarded_of_refused {s : State} {k : Pkt} (serve : State → Pkt → State)
    (h : s.err.fatal = true ∨ (ephChecked k = true ∧ k.eph ≠ reg s Key.ephPin)) :
    guarded serve s k = if s.err.fatal = true then answer (dropReq s k) k (k.ty + 1) 0x001A []
      else refusedReport (answer (dropReq s k) k (k.ty + 1) 0x0015 []) k := by
  by_cases hfatal : s.err.fatal = true
  · exact (if_pos hfatal).trans (if_pos hfatal).symm
  · obtain ⟨hcheck, heph⟩ := h.resolve_left hfatal
    refine ((if_neg hfatal).trans (if_pos ?_)).trans (if_neg hfatal).symm
    rw [hcheck, Bool.true_and]
    exact bne_iff_ne.mpr heph

/-- A command that serves a kind of request answers the first of them that is refused. -/
theorem exec_of_refused {c : Nat → Instr} {f : Pkt → Bool} {go : State → Pkt → State}
    (hc : ∀ s t, exec (c t) s = .next (serveKind f go t s)) {s : State} {t : Nat} {k : Pkt} {ks : List Pkt} {u : State}
    (hserving : serving s = true) (hk : candidates f [] s.fab.inbox = k :: ks) (hu : guarded go (atTime s t) k = u)
    (hone : ks = [] ∨ u.fab.inbox.contains k = false) : exec (c t) s = .next (markReady (touch u)) := by
  subst hu
  rw [hc, serveKind, if_pos hserving, hk]
  exact congrArg (fun u => Host.Outcome.next (markReady (touch u))) (serveAny_cons hone)

/-! ## The work of a request (R353) -/

theorem serveEng_of_runs {s : State} {die : Nat} {desc : List Byte} {body : Eng Unit} {fin : Work → State → State} {k : Pkt}
    {e : Ectx} {w : Work} (hnew : findReq s k = none)
    (hrun : (body.run).run { s := serverState s die desc k, w := reqWork s k die desc, die := (reqWork s k die desc).die } =
      (.ok (), e))
    (hw : findReq (ended e 0x0000) k = some w) (hdone : w.phase = .done) :
    serveEng die desc body fin s k = fin w (dropReq (ended e 0x0000) k) := by
  have hbody : runBody body (reqWork s k die desc) (serverState s die desc k) = ended e 0x0000 := by
    rw [runBody, hrun]
    rfl
  have hstart : serveEng die desc body fin s k = match findReq (runBody body (reqWork s k die desc) (serverState s die desc k)) k with
      | some w => if w.phase = .done then fin w (dropReq (runBody body (reqWork s k die desc) (serverState s die desc k)) k)
        else runBody body (reqWork s k die desc) (serverState s die desc k)
      | none => runBody body (reqWork s k die desc) (serverState s die desc k) := by
    unfold serveEng
    rw [hnew]
    rfl
  rw [hstart, hbody, hw]
  exact if_pos hdone

/-! ## Ranges in one span (R221, R226) -/

/-- A range that ends in the span it begins in is one piece. -/
theorem pieces_of_one {g n off len : Nat} (h : 0 < len) (hspan : len ≤ g - off % g) : pieces g (n + 2) off len = [(off, len)] := by
  simp only [pieces, if_neg (Nat.ne_of_gt h), Nat.min_eq_left hspan, Nat.sub_self]
  rfl

section
variable {off len : Nat} (h : 0 < len) (hspan : len ≤ 16 - off % 16)
include h hspan

theorem spans16_of_one : spans16 off len = [(off, len)] := pieces_of_one h hspan

theorem pieces256_of_one (n : Nat) : pieces 256 (n + 2) off len = [(off, len)] := pieces_of_one h (by omega)

end

/-! ## Where a byte is served does not depend on what was sent or on the host's lines (R292, R404) -/

/-- The module without what was sent and the host link's own state. -/
def offLink (s : State) : State := { s with out := [], cxl := {} }

theorem pathBlocked_offLink (s : State) (bx : Box) (dst n c : Nat) :
    pathBlocked (offLink s) bx dst n c = pathBlocked s bx dst n c := by
  induction n generalizing c with
  | zero => rfl
  | succ n ih =>
    simp only [pathBlocked, ih]
    rfl

theorem remoteLoc_offLink (s : State) (c : Nat) : remoteLoc (offLink s) c = remoteLoc s c := by
  unfold remoteLoc
  rw [pathBlocked_offLink]
  rfl

theorem homeLoc_offLink (s : State) (shut : Bool) (off : Nat) (h : Home) : homeLoc (offLink s) shut off h = homeLoc s shut off h := by
  simp only [homeLoc, remoteLoc_offLink]

theorem locatePage_offLink (s : State) (o : Obj) (off : Nat) : locatePage (offLink s) o off = locatePage s o off := by
  simp only [locatePage, remoteLoc_offLink, homeLoc_offLink]
  rfl

theorem locate_offLink (s : State) (o : Obj) (off : Nat) : locate (offLink s) o off = locate s o off := by
  simp only [locate, remoteLoc_offLink, locatePage_offLink]
  rfl

theorem locate_congr_link {s t : State} (h : offLink t = offLink s) (o : Obj) (off : Nat) : locate t o off = locate s o off := by
  rw [← locate_offLink t, h, locate_offLink]

theorem snoopRange_offLink (s : State) (n off len : Nat) (inv : Bool) : offLink (snoopRange s n off len inv) = offLink s := by
  have hsend (f : HostLine → Out) (ls : List HostLine) : offLink (ls.foldl (fun s l => send s (f l)) s) = offLink s := by
    induction ls generalizing s with
    | nil => rfl
    | cons l ls ih => exact ih _
  unfold snoopRange
  split
  · rfl
  · cases inv <;> exact hsend _ _

theorem askHost_offLink (s : State) (n off len : Nat) : offLink (askHost s n off len) = offLink s := by
  unfold askHost
  exact (apply_ite offLink _ _ _).trans (ite_self _)

/-! ## The body of a read (R226, R353) -/

section
variable {c : Ectx} {n off len a : Nat} {bs : List Byte}

theorem runs_takeTurn_of_no_lines (k : Nat) (h : c.s.lines = []) : Runs (takeTurn k) c () c := by
  refine Runs.bind (Runs.get c) ?_
  have hline : lineOf c.s k = [] := by rw [lineOf, h]; rfl
  rw [hline]
  exact Runs.pure _ _

theorem runs_rdSpan_of_here (hlines : c.s.lines = []) (hloc : locate c.s (objOf c.s n) off = .here a)
    (hbs : readPhys c.s a len = some bs) : Runs (rdSpan n off len) c bs { c with s := countBytes c.s false a len } := by
  refine Runs.bind (Runs.get c) ?_
  simp only [hloc, hbs, ne_eq, reduceCtorEq, not_false_eq_true, if_true]
  exact Runs.bind (runs_takeTurn_of_no_lines _ hlines) (Runs.bind (Runs.modS _ _) (Runs.pure _ _))

theorem memKept_of_offReads {s t : State} (h : offReads t = offReads s) : MemKept s t :=
  ⟨(congrArg State.mem h :), (congrArg State.host h :), (congrArg State.hostPoison h :)⟩

theorem memKept_of_offLink {s t : State} (h : offLink t = offLink s) : MemKept s t :=
  ⟨(congrArg State.mem h :), (congrArg State.host h :), (congrArg State.hostPoison h :)⟩

theorem memKept_countBytes (s : State) (wr : Bool) (a n : Nat) : MemKept s (countBytes s wr a n) :=
  memKept_of_offReads (by simp only [countBytes, apply_ite offReads, bump_offReads, ite_self])

theorem memKept_trans {s t u : State} (h : MemKept s t) (g : MemKept t u) : MemKept s u :=
  ⟨g.1.trans h.1, g.2.1.trans h.2.1, g.2.2.trans h.2.2⟩

/-- From `c` to `c'` an engine has kept memory, its record and what it owes. -/
def ReadsOnly (c c' : Ectx) : Prop := MemKept c.s c'.s ∧ c'.w = c.w ∧ c'.owed = c.owed

theorem memKept_sampled (s : State) (o : Obj) (p : Nat) (die peer : Nat) :
    MemKept s (match locate s o p with
      | .here a => sampleAccess s o p a die peer
      | _ => s) := by
  split
  · exact memKept_of_offReads (sampleAccess_offReads _ _ _ _ _ _)
  · exact ⟨rfl, rfl, rfl⟩

theorem runs_sampleRead (n off len : Nat) (c : Ectx) : ∃ c', Runs (sampleRead n off len) c () c' ∧ ReadsOnly c c' := by
  have hall := Runs.eachDo (ReadsOnly c) (pieces 256 (len / 256 + 2) off len)
    (f := fun (p : Nat × Nat) => modS (fun s => match locate s (objOf c.s n) p.1 with
      | .here a => sampleAccess s (objOf c.s n) p.1 a c.die ((c.w.req.map (·.1)).getD (self s))
      | _ => s))
    (fun p _ c1 h1 => ⟨_, Runs.modS _ c1, memKept_trans h1.1 (memKept_sampled c1.s _ _ _ _), h1.2⟩)
  obtain ⟨c', hrun, hkept⟩ := hall c ⟨⟨rfl, rfl, rfl⟩, rfl, rfl⟩
  exact ⟨c', Runs.bind (Runs.get c) hrun, hkept⟩

/-- A read of one span of this module's memory answers its bytes. -/
theorem runs_rdPlain_of_here (hlines : c.s.lines = []) (hlen : 0 < len) (hspan : len ≤ 16 - off % 16)
    (hloc : locate c.s (objOf c.s n) off = .here a) (hbs : readPhys c.s a len = some bs) :
    ∃ e, Runs (rdPlain n off len) c bs e ∧ ReadsOnly c e := by
  set s1 := askHost (snoopRange c.s n off len false) n off len with hs1
  have hlink : offLink s1 = offLink c.s := (askHost_offLink _ _ _ _).trans (snoopRange_offLink _ _ _ _ _)
  have hobj : objOf s1 n = objOf c.s n := (congrArg (objOf · n) hlink :)
  obtain ⟨e, hrun, hmem, hw, howed⟩ := runs_sampleRead n off len { c with s := countBytes s1 false a len }
  refine ⟨e, Runs.bind (Runs.modS _ c) (Runs.bind (c1 := { c with s := countBytes s1 false a len }) (a := [bs]) ?_
    (Runs.bind hrun ?_)), memKept_trans (memKept_trans (memKept_of_offLink hlink) (memKept_countBytes _ _ _ _)) hmem, hw, howed⟩
  · rw [spans16_of_one hlen hspan]
    refine Runs.bind (runs_rdSpan_of_here (c := { c with s := s1 }) ?_ ?_ ?_) (Runs.bind (Runs.pure _ _) (Runs.pure _ _))
    · exact (congrArg State.lines hlink).trans hlines
    · exact (locate_congr_link hlink _ _).trans (by rw [hobj]; exact hloc)
    · exact (congrArg (readPhys · a len) hlink).trans hbs
  · simp only [List.flatten_cons, List.flatten_nil, List.append_nil]
    exact Runs.pure _ _

/-- A read of a plain object: its bytes are left in the work's record. -/
theorem runs_readBody {k : Pkt} (hnum : (objOf c.s (hObj k.addr)).num = hObj k.addr)
    (hin : (objOf c.s (hObj k.addr)).spans (hOff k.addr) k.len = true) (hrow : (objOf c.s (hObj k.addr)).rowlen = 0)
    (hver : (objOf c.s (hObj k.addr)).versioned = false) (hlen : 0 < k.len) (hspan : k.len ≤ 16 - hOff k.addr % 16)
    (hlines : c.s.lines = []) (hloc : locate c.s (objOf c.s (hObj k.addr)) (hOff k.addr) = .here a)
    (hbs : readPhys c.s a k.len = some bs) :
    ∃ e, Runs (readBody k) c () e ∧ e.w.desc = bs ∧ e.owed = c.owed ∧ MemKept c.s e.s := by
  obtain ⟨e, hrun, hmem, -, howed⟩ := runs_rdPlain_of_here hlines hlen hspan hloc hbs
  have hpart : Runs (readPart k (objOf c.s (hObj k.addr)) (hOff k.addr) k.len) c bs e := by
    refine Runs.bind (Runs.getS c) ?_
    rw [hver, hnum]
    exact hrun
  refine ⟨{ e with w := { e.w with desc := bs } }, Runs.bind (Runs.getS c) (Runs.bind (Runs.require _ c hin)
    (Runs.bind (c1 := e) (a := [bs]) ?_ ?_)), rfl, howed, hmem⟩
  · rw [if_pos hrow]
    exact Runs.bind hpart (Runs.bind (Runs.pure _ _) (Runs.pure _ _))
  · simp only [List.flatten_cons, List.flatten_nil, List.append_nil]
    exact Runs.modify _ e

end

/-! ## The body of a write (R239, R299, R353) -/

/-- The module after bytes were written at an address, but for counters, samples, the lines the host holds, what was sent and the
dirty spans of pages on their way. -/
def WroteAt (a : Nat) (bs : List Byte) (s t : State) : Prop := offReads t = offReads (writePhys s a bs)

theorem WroteAt.kept {a : Nat} {bs : List Byte} {s t : State} (h : WroteAt a bs s t) :
    t.mem = (writePhys s a bs).mem ∧ t.host = s.host ∧ t.dir = s.dir :=
  ⟨(congrArg State.mem h :), (congrArg State.host h :), (congrArg State.dir h :)⟩

theorem writePhys_mem_congr {s t : State} (h : t.mem = s.mem) (a : Nat) (bs : List Byte) :
    (writePhys t a bs).mem = (writePhys s a bs).mem := by rw [writePhys, writePhys, h]

theorem draftRows_of_plain {s : State} {n off len : Nat} (h : (objOf s n).versioned = false) : draftRows s n off len = .ok s :=
  if_pos (by rw [h]; rfl)

section
variable {c : Ectx} {n off a : Nat} {bs : List Byte}

/-- The module after the bytes of one span were written here. -/
def spanWritten (s : State) (n off a : Nat) (bs : List Byte) : State :=
  countBytes (markDirty (writePhys s a bs) n off) true a bs.length

theorem spanWritten_wroteAt (s : State) (n off a : Nat) (bs : List Byte) : WroteAt a bs s (spanWritten s n off a bs) := by
  have hcount (t : State) : offReads (countBytes t true a bs.length) = offReads t := by
    simp only [countBytes, apply_ite offReads, bump_offReads, ite_self]
  exact hcount _

theorem runs_wrSpan_of_here (flag : Bool) (hlines : c.s.lines = []) (hloc : locate c.s (objOf c.s n) off = .here a) :
    Runs (wrSpan n off flag bs) c () { c with s := spanWritten c.s n off a bs } := by
  refine Runs.bind (Runs.get c) ?_
  simp only [hloc, ne_eq, reduceCtorEq, not_false_eq_true, if_true]
  exact Runs.bind (runs_takeTurn_of_no_lines _ hlines) (Runs.modS _ _)

theorem runs_wrPiece_of_here (flag : Bool) (hlines : c.s.lines = []) (hlen : 0 < bs.length) (hspan : bs.length ≤ 16 - off % 16)
    (hloc : locate c.s (objOf c.s n) off = .here a) :
    ∃ t, Runs (wrPiece n off flag bs) c () { c with s := t } ∧ WroteAt a bs c.s t := by
  have hspans : Runs (wrSpans n off flag bs) c () { c with s := spanWritten c.s n off a bs } := by
    rw [wrSpans, spans16_of_one hlen hspan]
    refine Runs.bind (a := ()) ?_ (Runs.pure _ _)
    simp only [Nat.sub_self, List.drop_zero, List.take_length]
    exact runs_wrSpan_of_here _ hlines hloc
  refine ⟨sampleAccess (spanWritten c.s n off a bs) (objOf c.s n) off a c.die
    ((c.w.req.map (·.1)).getD (self (spanWritten c.s n off a bs))), Runs.bind (Runs.get c) ?_,
    (sampleAccess_offReads _ _ _ _ _ _).trans (spanWritten_wroteAt _ _ _ _ _)⟩
  simp only [hloc]
  exact Runs.bind hspans (Runs.modS _ _)

end

/-- No poison is left to clear. -/
theorem clearCovered_of_no_poison {s : State} (h : s.mem.poison = []) (n off len : Nat) : clearCovered s n off len = s :=
  if_pos (by rw [h]; rfl)

/-- `t` has the memory of `s`, and neither has hot copies or migrations. -/
structure PlainKept (s t : State) : Prop where
  mem : t.mem = s.mem
  host : t.host = s.host
  entries : t.dir.entries = []
  migs : t.dir.migs = []

theorem refreshCopies_of_plain {s t : State} (h : PlainKept s t) (o : Obj) (row : Nat) : PlainKept s (refreshCopies t o row) := by
  obtain ⟨hmem, hhost, hentries, hmigs⟩ := h
  unfold refreshCopies
  dsimp only
  split
  · split
    · exact ⟨hmem, hhost, by rw [hentries]; rfl, hmigs⟩
    · rw [hentries]
      exact ⟨hmem, hhost, List.map_eq_nil_iff.mpr hentries, hmigs⟩
  · exact ⟨hmem, hhost, hentries, hmigs⟩

theorem restartMigration_of_plain {s t : State} (h : PlainKept s t) (o : Obj) (row : Nat) : restartMigration t o row = t := by
  have hnone : migrationOf t o.num row = none := by rw [migrationOf, h.migs]; rfl
  unfold restartMigration
  rw [hnone]

/-- What follows a write changes no memory where no row is copied or moves. -/
theorem afterWrite_of_plain {s : State} (hentries : s.dir.entries = []) (hmigs : s.dir.migs = []) (n off len : Nat) :
    PlainKept s (afterWrite s n off len) := by
  have hrows (rows : List Nat) {t : State} (h : PlainKept s t) :
      PlainKept s (rows.foldl (fun s' row => restartMigration (refreshCopies s' (objOf s n) row) (objOf s n) row) t) := by
    induction rows generalizing t with
    | nil => exact h
    | cons row rows ih =>
      have hrow := refreshCopies_of_plain h (objOf s n) row
      rw [List.foldl_cons, restartMigration_of_plain hrow]
      exact ih hrow
  have hstamp {t : State} (h : PlainKept s t) : PlainKept s (stampObj t n) := by
    unfold stampObj
    dsimp only
    split
    · exact ⟨h.mem, h.host, h.entries, h.migs⟩
    · exact h
  refine hstamp ?_
  split
  · exact ⟨rfl, rfl, hentries, hmigs⟩
  · exact hrows _ ⟨rfl, rfl, hentries, hmigs⟩

section
variable {c : Ectx} {n off a : Nat} {bs : List Byte}

/-- A write of one span of this module's memory, of an object of which no row is copied or moves, stores its bytes there. -/
theorem runs_wrObj_of_here (hplain : Plain c.s n) (hpoison : c.s.mem.poison = []) (hlines : c.s.lines = [])
    (hlen : 0 < bs.length) (hspan : bs.length ≤ 16 - off % 16) (hloc : locate c.s (objOf c.s n) off = .here a) :
    ∃ t, Runs (wrObj n off bs) c () { c with s := t } ∧ t.mem = (writePhys c.s a bs).mem ∧ t.host = c.s.host := by
  obtain ⟨hentries, hmigs, hver⟩ := hplain
  set s1 := snoopRange c.s n off bs.length true with hs1
  have hlink : offLink s1 = offLink c.s := snoopRange_offLink _ _ _ _ _
  have hobj : objOf s1 n = objOf c.s n := (congrArg (objOf · n) hlink :)
  obtain ⟨t, hpiece, hwrote⟩ := runs_wrPiece_of_here (c := { c with s := s1 }) (n := n) (flagsRows c.w && off + bs.length == off + bs.length)
    ((congrArg State.lines hlink).trans hlines) hlen hspan ((locate_congr_link hlink _ _).trans (by rw [hobj]; exact hloc))
  obtain ⟨hmem, hhost, hdir⟩ := hwrote.kept
  obtain ⟨hmem1, hhost1, -⟩ := memKept_of_offLink hlink
  have hdir1 : s1.dir = c.s.dir := (congrArg State.dir hlink :)
  replace hmem := hmem.trans (writePhys_mem_congr hmem1 a bs)
  replace hhost := hhost.trans hhost1
  replace hdir := hdir.trans hdir1
  have hclear : clearCovered t n off bs.length = t := clearCovered_of_no_poison (by rw [hmem, writePhys, hpoison]; rfl) _ _ _
  have hkept := afterWrite_of_plain (s := t) (by rw [hdir, hentries]) (by rw [hdir, hmigs]) n off bs.length
  have hdraft : draftRows s1 n off bs.length = .ok s1 := draftRows_of_plain (by rw [hobj, hver])
  have hpieces : Runs (eachDo (fun p => do
      wrPiece n p.1 (flagsRows c.w && p.1 + p.2 == off + bs.length) (List.take p.2 (List.drop (p.1 - off) bs))
      modS fun s => clearCovered s n off (p.1 + p.2 - off)) (pieces 256 (bs.length / 256 + 2) off bs.length))
      { c with s := s1 } () { c with s := t } := by
    rw [pieces256_of_one hlen hspan]
    refine Runs.bind (a := ()) (c1 := { c with s := t }) ?_ (Runs.pure _ _)
    simp only [Nat.sub_self, List.drop_zero, List.take_length, Nat.add_sub_cancel_left]
    refine Runs.bind hpiece ?_
    have hrun := Runs.modS (fun s => clearCovered s n off bs.length) { c with s := t }
    simp only [hclear] at hrun
    exact hrun
  refine ⟨afterWrite t n off bs.length, Runs.bind (Runs.get c) (Runs.bind (Runs.modS _ c) (Runs.bind (Runs.getS _) ?_)),
    hkept.mem.trans hmem, hkept.host.trans hhost⟩
  simp only [← hs1, hdraft, hver, Bool.false_eq_true, if_false]
  exact Runs.bind (Runs.modS _ _) (Runs.bind hpieces (Runs.modS _ _))

/-- A write to a plain object: its bytes are stored there, and no other byte changes. -/
theorem runs_writeBody {k : Pkt} (hnum : (objOf c.s (hObj k.addr)).num = hObj k.addr)
    (hin : (objOf c.s (hObj k.addr)).spans (hOff k.addr) k.len = true) (hplain : Plain c.s (objOf c.s (hObj k.addr)).num)
    (hpoison : c.s.mem.poison = []) (hpay : k.payload.length = k.len) (hlen : 0 < k.len) (hspan : k.len ≤ 16 - hOff k.addr % 16)
    (hlines : c.s.lines = []) (hloc : locate c.s (objOf c.s (hObj k.addr)) (hOff k.addr) = .here a) :
    ∃ e, Runs (writeBody k) c () e ∧ e.owed = c.owed ∧ e.s.host = c.s.host ∧
      Tab.getRange 0 e.s.mem.bytes a k.len = k.payload ∧ ∀ b, b < a ∨ a + k.len ≤ b → byteAt e.s b = byteAt c.s b := by
  rw [hnum] at hplain
  have hver : (objOf c.s (hObj k.addr)).versioned = false := hplain.2.2
  rw [← hpay] at hlen hspan ⊢
  obtain ⟨t, hrun, hmem, hhost⟩ := runs_wrObj_of_here hplain hpoison hlines hlen hspan hloc
  refine ⟨{ c with s := t }, Runs.bind (Runs.getS c) (Runs.bind (Runs.require _ c hin) ?_), rfl, hhost, ?_, fun b hb => ?_⟩
  · rw [hnum, hver]
    exact hrun
  · exact (congrArg (fun m : Memory => Tab.getRange 0 m.bytes a k.payload.length) hmem).trans (getRange_setRange_same _ _ _ _)
  · exact (congrArg (fun m : Memory => Tab.get 0 m.bytes b) hmem).trans (byte_writePhys c.s a k.payload b hb)

end

/-- The commands that serve requests serve them by what each kind does. -/
theorem exec_serveKind {c : Nat → Instr} {f : Pkt → Bool} (h : ((c : Nat → Instr), (f : Pkt → Bool)) ∈
    ([(.rdReq, fun k => k.ty == 1), (.wrReq, fun k => k.ty == 3), (.addReq, fun k => k.ty == 5), (.strand, isMsg 1),
      (.chain, isMsg 2), (.update, isMsg 3), (.mailbox, isMsg 4), (.place, isMsg 5)] : List ((Nat → Instr) × (Pkt → Bool)))) :
    ∃ go, ∀ s t, exec (c t) s = .next (serveKind f go t s) := by
  simp only [List.mem_cons, List.not_mem_nil, or_false, Prod.mk.injEq] at h
  obtain ⟨rfl, rfl⟩ | ⟨rfl, rfl⟩ | ⟨rfl, rfl⟩ | ⟨rfl, rfl⟩ | ⟨rfl, rfl⟩ | ⟨rfl, rfl⟩ | ⟨rfl, rfl⟩ | ⟨rfl, rfl⟩ := h
  all_goals exact ⟨_, fun _ _ => rfl⟩

/-- Settles O32: a request by the checks it passes or fails, a read and a write by the run of their bodies. -/
theorem fabricRequests : Obligations.FabricRequests :=
  ⟨⟨serves_of_serveKind fun _ _ => rfl, serves_of_serveKind fun _ _ => rfl, serves_of_serveKind fun _ _ => rfl,
    fun _ _ _ _ _ _ _ _ hnew hrun hw hdone => serveEng_of_runs hnew hrun hw hdone,
    fun _ _ _ _ hnum hin hrow hver hlen hspan hlines hloc hbs =>
      runs_readBody hnum hin hrow hver hlen hspan hlines hloc hbs,
    fun _ _ _ hnum hin _ hplain hpoison hpay hlen hspan hlines hloc =>
      runs_writeBody hnum hin hplain hpoison hpay hlen hspan hlines hloc⟩,
    fun c f hmem s t k ks hserving hk hone hrefused => by
      obtain ⟨go, hgo⟩ := exec_serveKind hmem
      exact exec_of_refused hgo hserving hk (guarded_of_refused (s := atTime s t) go hrefused) hone⟩

end Sys2Proof.Scope

namespace Sys2Proof.Scope
open Sys2Proof Sys2Proof.Machine Sys2Proof.Machine.Claim

/-- Settles O57: what every command keeps, fuses and what was sent among it. -/
theorem fusesLast : Obligations.FusesLast := fun _ s t h => (ResKept.exec (Kept.refl s) t h).lasting

/-- Settles O55: a step by whether the queue is empty, an answer by the meaning of each command. -/
theorem stepRunsFront : Obligations.StepRunsFront := by
  refine ⟨fun c rest s h => ?_, fun s h => ?_, fun c s => ?_⟩
  · simp only [step, h]
  · simp only [step, h]
  · cases c <;> exact ⟨_, rfl⟩
end Sys2Proof.Scope

/-! Gradient reduction as arithmetic (R376, R378): the exact sum along the chain, and a block's mantissas. -/

namespace Sys2Proof.Scope
open Sys2Proof Sys2Proof.Machine Sys2Proof.Machine.Claim

/-! ## Exact transport (R376) -/

/-- Two values agree as 128-bit patterns just where they are congruent. -/
theorem unsigned_eq_iff {x y : Int} : unsigned 128 x = unsigned 128 y ↔ x % ((2 ^ 128 : Nat) : Int) = y % ((2 ^ 128 : Nat) : Int) := by
  have hx := Int.emod_nonneg x (show ((2 ^ 128 : Nat) : Int) ≠ 0 by decide)
  have hy := Int.emod_nonneg y (show ((2 ^ 128 : Nat) : Int) ≠ 0 by decide)
  unfold unsigned
  omega

theorem signed_emod (v : Nat) : signed 128 v % ((2 ^ 128 : Nat) : Int) = (v : Int) % ((2 ^ 128 : Nat) : Int) := by
  unfold signed
  dsimp only
  split <;> omega

/-- The two's complement reading of a pattern is congruent to what it was made of. -/
theorem signed_unsigned_emod (x : Int) : signed 128 (unsigned 128 x) % ((2 ^ 128 : Nat) : Int) = x % ((2 ^ 128 : Nat) : Int) := by
  rw [signed_emod]
  have hx := Int.emod_nonneg x (show ((2 ^ 128 : Nat) : Int) ≠ 0 by decide)
  unfold unsigned
  omega

/-- One rank's values added to the partial sums under exact transport. -/
def exactSums (p x : RedPiece) : List Int := (List.zip p.vals x.vals).map (fun v => signed 128 (unsigned 128 (v.1 + v.2)))

section
variable {c : RedCtx} (h : c.exact = true)
include h

theorem pieceStep_first (x : RedPiece) : (pieceStep c none x []).1.vals = x.vals := by
  simp only [pieceStep, h, if_true]

theorem pieceStep_next (p x : RedPiece) : (pieceStep c (some p) x []).1.vals = exactSums p x := by
  simp only [pieceStep, h, if_true]
  rfl

theorem pieceStep_quiet (inc : Option RedPiece) (own : RedPiece) (e : List Nat) : (pieceStep c inc own e).2 = ([], 0) := by
  simp only [pieceStep, h, if_true]

/-- The partial sums keep their length, and each is congruent to the sum of what has been added. -/
theorem foldl_pieceStep (rest : List RedPiece) (p : RedPiece) (hlen : ∀ x ∈ rest, x.vals.length = p.vals.length) :
    (rest.foldl (fun p x => (pieceStep c (some p) x []).1) p).vals.length = p.vals.length ∧
    ∀ i, i < p.vals.length →
      unsigned 128 ((rest.foldl (fun p x => (pieceStep c (some p) x []).1) p).vals.getD i 0) =
        unsigned 128 (p.vals.getD i 0 + (rest.map (fun x => x.vals.getD i 0)).sum) := by
  induction rest generalizing p with
  | nil => exact ⟨rfl, fun i _ => by simp⟩
  | cons x rest ih =>
    have hx : x.vals.length = p.vals.length := hlen x List.mem_cons_self
    have hsum : (pieceStep c (some p) x []).1.vals = exactSums p x := pieceStep_next h p x
    have hl : (pieceStep c (some p) x []).1.vals.length = p.vals.length := by
      rw [hsum, exactSums, List.length_map, List.length_zip, hx, min_self]
    obtain ⟨hlength, hvals⟩ := ih (pieceStep c (some p) x []).1 fun y hy => (hlen y (List.mem_cons_of_mem x hy)).trans hl.symm
    refine ⟨hlength.trans hl, fun i hi => ?_⟩
    have hat : (exactSums p x).getD i 0 = signed 128 (unsigned 128 (p.vals.getD i 0 + x.vals.getD i 0)) := by
      simp [exactSums, List.getD_eq_getElem?_getD, hi, hx]
    rw [List.foldl_cons, hvals i (hl ▸ hi), hsum, hat, List.map_cons, List.sum_cons, ← add_assoc]
    exact unsigned_eq_iff.mpr (Int.emod_add_cancel_right _ |>.mpr (signed_unsigned_emod _))

end

/-- Settles O37: rank by rank the partial sums stay congruent to the sum of the contributions. -/
theorem exactTotal : Obligations.ExactTotal := by
  intro c first rest hexact hlen
  have hfirst : (pieceStep c none first []).1.vals = first.vals := pieceStep_first hexact first
  have hsteps := foldl_pieceStep hexact rest (pieceStep c none first []).1 fun x hx => by rw [hfirst, hlen x hx]
  rw [hfirst] at hsteps
  exact ⟨hsteps.1, fun i hi => by simpa using hsteps.2 i hi, fun inc own e => pieceStep_quiet hexact inc own e⟩

/-! ## A block-scaled step (R378) -/

/-- A mantissa's range. -/
def InMantissa (v : Int) : Prop := -128 ≤ v ∧ v ≤ 127

/-- The sum of two mantissas halved, rounded to nearest, is a mantissa. -/
theorem inMantissa_halved {v : Int} (hlo : -256 ≤ v) (hhi : v ≤ 254) : InMantissa (roundScaled .nearest 0 v (-1)) := by
  have hr := roundScaled_roundsTo .nearest 0 v (-1)
  rw [scaled_of_neg (by decide)] at hr
  have hd : scale (-1) = 2 := rfl
  exact ⟨hr.le (scale_pos _) (by omega), hr.ge (scale_pos _) (by omega)⟩

/-- The element sums of two blocks of mantissas. -/
theorem mem_blockSums {m q : List Int} (hm : ∀ v ∈ m, InMantissa v) (hq : ∀ v ∈ q, InMantissa v) {v : Int}
    (hv : v ∈ (List.zip m q).map (fun x : Int × Int => x.1 + x.2)) : -256 ≤ v ∧ v ≤ 254 := by
  obtain ⟨⟨a, b⟩, hab, rfl⟩ := List.mem_map.mp hv
  obtain ⟨ha, hb⟩ := List.of_mem_zip hab
  have h1 := hm a ha
  have h2 := hq b hb
  unfold InMantissa at h1 h2
  dsimp only
  omega

/-- Settles O38: the sums of two blocks of mantissas are mantissas, or are halved with the exponent one up, or saturate. -/
theorem blockStep : Obligations.BlockStep := by
  intro e m own t hm hown hmr hownr
  by_cases he : e = 0
  · subst he
    have hzero : rankStep 0 m own t = (0, List.replicate 32 0, false, []) := rfl
    simp [hzero]
  · have hne : m.isEmpty = false := by
      cases m with
      | nil => cases hm
      | cons => rfl
    have hq : ∀ v ∈ own.map (fun v => roundScaled .nearest 0 v (t - e)), InMantissa v := by
      intro v hv
      obtain ⟨x, hx, rfl⟩ := List.mem_map.mp hv
      exact hownr x hx
    have hsums := fun v => mem_blockSums (v := v) hmr hq
    have hlen : ((List.zip m (own.map (fun v => roundScaled .nearest 0 v (t - e)))).map (fun x : Int × Int => x.1 + x.2)).length = 32 := by
      simp [hm, hown]
    simp only [rankStep, if_neg he, hne, Bool.false_eq_true, if_false]
    generalize (List.zip m (own.map (fun v => roundScaled .nearest 0 v (t - e)))).map (fun x : Int × Int => x.1 + x.2) = sums at hsums hlen
    split
    next hover =>
      split
      next hlt =>
        refine ⟨by simpa using hlen, fun v hv => ?_, fun h => absurd h he, fun _ => ⟨hlt, rfl⟩, nofun⟩
        obtain ⟨x, hx, rfl⟩ := List.mem_map.mp hv
        exact inMantissa_halved (hsums x hx).1 (hsums x hx).2
      next hge =>
        refine ⟨by simpa using hlen, fun v hv => ?_, fun h => absurd h he, nofun, fun _ => rfl⟩
        obtain ⟨x, hx, rfl⟩ := List.mem_map.mp hv
        omega
    next hin =>
      refine ⟨hlen, fun v hv => ?_, fun h => absurd h he, nofun, fun _ => rfl⟩
      simp only [List.any_eq_true, decide_eq_true_eq, not_exists, not_and] at hin
      have := hin v hv
      omega

end Sys2Proof.Scope

/-! Doorbells and mailbox channels (R395 to R398, R409 to R418). -/

namespace Sys2Proof.Scope
open Sys2Proof Sys2Proof.Machine Sys2Proof.Machine.Claim

/-! ## Accesses of the host (R394, R395) -/

section
variable {s : State} (hlink : 2 ≤ reg s Key.cxlLinkState)
include hlink

theorem bar0_of_ready (hready : s.cxl.ready = true) (read : Bool) (go : State → State) : bar0 s read go = go s := by
  simp [bar0, hready, Nat.not_lt.mpr hlink]

theorem bar0_of_early (hready : s.cxl.ready = false) (read : Bool) (go : State → State) : bar0 s read go = ignoreAccess s read := by
  simp [bar0, hready, Nat.not_lt.mpr hlink]

/-- An aligned 32-bit access has its register's effect. -/
theorem exec_access (hready : s.cxl.ready = true) {o : Nat} (ho : o % 4 = 0) (wr : Option Nat) (t : Nat) :
    exec (.ignoredRegisterAccess o 4 ⟨wr, t⟩) s = .next (bar0Access (atTime s t) o (wr.map (· % 2 ^ 32))) := by
  refine congrArg Host.Outcome.next ((bar0_of_ready (s := atTime s t) hlink hready _ _).trans (if_neg ?_))
  simp [ho]

end

theorem atTime_self (s : State) : atTime s s.time = s := by
  unfold atTime
  rw [max_self]

/-! ## Doorbells (R396 to R398) -/

/-- What the host stores before it rings is host memory alone. -/
theorem hostStores_eq (s : State) (xs : List HostStore) : hostStores s xs = { s with host := (hostStores s xs).host } := by
  unfold hostStores
  induction xs generalizing s with
  | nil => rfl
  | cons x xs ih => rw [List.foldl_cons, ih]; rfl

section
variable {s : State} {q v : Nat}

theorem ringProducer_refused (h : enabled s q = false ∨ 2 ^ 31 ≤ (v + 2 ^ 32 - (queueOf s q).prod % 2 ^ 32) % 2 ^ 32 ∨
    ringSlots s q < (v + 2 ^ 32 - (queueOf s q).cons % 2 ^ 32) % 2 ^ 32) : ringProducer s q v = refuseBell s q := by
  refine if_pos ?_
  simpa [or_assoc] using h

theorem ringProducer_taken (he : enabled s q = true) (hd : (v + 2 ^ 32 - (queueOf s q).prod % 2 ^ 32) % 2 ^ 32 < 2 ^ 31)
    (hroom : (v + 2 ^ 32 - (queueOf s q).cons % 2 ^ 32) % 2 ^ 32 ≤ ringSlots s q) :
    ringProducer s q v = mbxWake (setQueue s q { queueOf s q with
      prod := (queueOf s q).prod + (v + 2 ^ 32 - (queueOf s q).prod % 2 ^ 32) % 2 ^ 32 }) := by
  refine if_neg ?_
  simpa [he] using ⟨hd, hroom⟩

theorem ringConsumer_refused (h : enabled s q = false ∨ ((queueOf s q).compl + 2 ^ 32 - (queueOf s q).cons % 2 ^ 32) % 2 ^ 32 <
    (v + 2 ^ 32 - (queueOf s q).cons % 2 ^ 32) % 2 ^ 32) : ringConsumer s q v = refuseBell s q := by
  refine if_pos ?_
  simpa using h

theorem ringConsumer_taken (he : enabled s q = true) (hd : (v + 2 ^ 32 - (queueOf s q).cons % 2 ^ 32) % 2 ^ 32 ≤
    ((queueOf s q).compl + 2 ^ 32 - (queueOf s q).cons % 2 ^ 32) % 2 ^ 32) :
    ringConsumer s q v = mbxWake (setQueue s q { queueOf s q with
      cons := (queueOf s q).cons + (v + 2 ^ 32 - (queueOf s q).cons % 2 ^ 32) % 2 ^ 32 }) := by
  refine if_neg ?_
  simpa [he] using hd

/-- An index moved forward to the one written. -/
theorem index_moved (i : Nat) (hv : v < 2 ^ 32) : (i + (v + 2 ^ 32 - i % 2 ^ 32) % 2 ^ 32) % 2 ^ 32 = v := by omega

end

section
variable {s : State} {q : Nat} (hq : q < 64) (hlink : 2 ≤ reg s Key.cxlLinkState) (hready : s.cxl.ready = true)
include hq hlink hready

theorem exec_producer (v : Nat) (stores : List HostStore) (t : Nat) :
    exec (.producer q v stores t) s = .next (ringProducer (hostStores (atTime s t) stores) q v) := by
  refine congrArg Host.Outcome.next ((if_neg (Nat.not_le.mpr hq)).trans (bar0_of_ready ?_ ?_ _ _))
  · rw [hostStores_eq]
    exact hlink
  · rw [hostStores_eq]
    exact hready

theorem exec_complConsumer (v : Nat) (stores : List HostStore) (t : Nat) :
    exec (.complConsumer q v stores t) s = .next (ringConsumer (hostStores (atTime s t) stores) q v) := by
  refine congrArg Host.Outcome.next ((if_neg (Nat.not_le.mpr hq)).trans (bar0_of_ready ?_ ?_ _ _))
  · rw [hostStores_eq]
    exact hlink
  · rw [hostStores_eq]
    exact hready

/-- A read of an index in the page of a queue's doorbells (R396). -/
theorem exec_index_read (t : Nat) {e : Nat × Nat} (he : e ∈ [(0, (queueOf s q).prod), (8, (queueOf s q).cons), (0x10, (queueOf s q).compl)]) :
    exec (.ignoredRegisterAccess (0x1000 * q + e.1) 4 ⟨none, t⟩) s = .next (send (atTime s t) (.register (e.2 % 2 ^ 32))) := by
  have hat : e.1 = 0 ∨ e.1 = 8 ∨ e.1 = 0x10 := by
    simp only [List.mem_cons, List.not_mem_nil, or_false] at he
    obtain rfl | rfl | rfl := he <;> simp
  have hpage : (0x1000 * q + e.1) / 0x1000 = q ∧ (0x1000 * q + e.1) % 0x1000 = e.1 := by omega
  rw [exec_access hlink hready (by omega) none t]
  refine congrArg Host.Outcome.next ((if_pos (by omega)).trans ?_)
  rw [hpage.1, hpage.2]
  simp only [List.mem_cons, List.not_mem_nil, or_false] at he
  obtain rfl | rfl | rfl := he <;> rfl

end

/-- Settles O39: a doorbell by what its rule allows, a read by the index it names. -/
theorem queueDoorbells : Obligations.QueueDoorbells := by
  intro s q v stores t hq hv hlink hready s1 x ignored
  have hs1 : s1 = { atTime s t with host := s1.host } := hostStores_eq _ _
  have hx : queueOf s1 q = x := by rw [hs1]; rfl
  have he : enabled s1 q = enabled s q := by rw [hs1]; rfl
  have hslots : ringSlots s1 q = 2 ^ reg s (Key.queueSize + 256 * q) := by rw [hs1]; rfl
  rw [exec_producer hq hlink hready, exec_complConsumer hq hlink hready]
  change _ ∧ _ ∧ _ ∧ _ ∧ ∀ e ∈ _, _
  refine ⟨fun h => ?_, fun hon hd hroom => ⟨_, ?_, index_moved x.prod hv, Nat.le_add_right _ _⟩, fun h => ?_,
    fun hon hd => ⟨_, ?_, index_moved x.cons hv, Nat.le_add_right _ _⟩, fun e hmem => exec_index_read hq hlink hready t hmem⟩
  · exact congrArg Host.Outcome.next (ringProducer_refused (by rwa [he, hx, hslots]))
  · rw [← hx]
    exact congrArg Host.Outcome.next (ringProducer_taken (by rwa [he]) (by rwa [hx]) (by rwa [hx, hslots]))
  · exact congrArg Host.Outcome.next (ringConsumer_refused (by rwa [he, hx]))
  · rw [← hx]
    exact congrArg Host.Outcome.next (ringConsumer_taken (by rwa [he]) (by rwa [hx]))

/-! ## A master's access to a channel (R394, R409, R415) -/

section
variable {s : State} {c : Nat} (hc : c < 64)
include hc

theorem atChan_of_reach {m : Nat} (hreach : MailboxReach s m) (t : Nat) (read : Bool) (go : State → State) :
    atChan m c t s read go = go (atTime s t) := by
  obtain ⟨hon, hhost⟩ := hreach
  have hoff : ¬ (64 ≤ c ∨ mbxOn s = false) := by simp [hon, Nat.not_le.mpr hc]
  refine (if_neg hoff).trans ?_
  split
  next hm => exact bar0_of_ready (s := atTime s t) (hhost hm).2 (hhost hm).1 _ _
  next => rfl

theorem atChan_of_early (hon : mbxOn s = true) (hlink : 2 ≤ reg s Key.cxlLinkState) (hready : s.cxl.ready = false) (t : Nat)
    (read : Bool) (go : State → State) : atChan 1 c t s read go = ignoreAccess (atTime s t) read := by
  have hoff : ¬ (64 ≤ c ∨ mbxOn s = false) := by simp [hon, Nat.not_le.mpr hc]
  exact (if_neg hoff).trans ((if_pos rfl).trans (bar0_of_early (s := atTime s t) hlink hready _ _))

end

@[simp] theorem chanOf_setChan_same (s : State) (c : Nat) (x : Chan) : chanOf (setChan s c x) c = x := Tab.get_set_same _ _ _ _

theorem chanOf_setChan_ne (s : State) {c k : Nat} (x : Chan) (h : k ≠ c) : chanOf (setChan s c x) k = chanOf s k :=
  Tab.get_set_ne _ _ _ _ h

/-! ## STATUS and the actions (R412) -/

theorem ChState.code_lt (x : ChState) : x.code < 4 := by cases x <;> decide

theorem mbxStatusWord_eq (s : State) (c : Nat) : mbxStatusWord s c =
    (chanOf s c).state.code + 8 * (chanOf s c).expired.toNat + 256 * (chanOf s c).owner + 65536 * (chanOf s c).code := rfl

/-- The fields of STATUS stand apart. -/
theorem mbxStatusWord_fields (s : State) (c : Nat) (howner : (chanOf s c).owner < 256) (hcode : (chanOf s c).code < 65536) :
    bits (mbxStatusWord s c) 0 3 = (chanOf s c).state.code ∧ bit (mbxStatusWord s c) 3 = (chanOf s c).expired ∧
      bits (mbxStatusWord s c) 4 4 = 0 ∧ bits (mbxStatusWord s c) 8 8 = (chanOf s c).owner ∧
      bits (mbxStatusWord s c) 16 16 = (chanOf s c).code := by
  have hstate := ChState.code_lt (chanOf s c).state
  have hexpired : (chanOf s c).expired.toNat < 2 := Bool.toNat_lt _
  have hbit : bit (mbxStatusWord s c) 3 = (chanOf s c).expired := by
    have hword : mbxStatusWord s c / 2 ^ 3 % 2 = (chanOf s c).expired.toNat := by
      rw [mbxStatusWord_eq]
      omega
    unfold bit
    rw [hword]
    cases (chanOf s c).expired <;> rfl
  refine ⟨?_, hbit, ?_, ?_, ?_⟩
  all_goals
    rw [bits, mbxStatusWord_eq]
    omega

section
variable {s : State} {m c : Nat}

theorem mbxDoorbell_of_held (h : (chanOf s c).state = .held ∧ (chanOf s c).owner = m) (code : Nat) :
    mbxDoorbell s m c code =
      let s1 := setChan s c { chanOf s c with state := .posted, code := code % 65536 }
      notifyMbx (if isControl (receiver s c) then mbxWake s1 else s1) (receiver s c) c := if_pos h

theorem mbxDone_of_posted (h : (chanOf s c).state = .posted ∧ receiver s c = m) :
    mbxDone s m c = if (chanOf s c).owner = 32 then freeChan s c false
      else notifyMbx (setChan s c { chanOf s c with state := .replied }) (chanOf s c).owner c := if_pos h

theorem mbxRelease_of_owner (h : ((chanOf s c).state = .held ∨ (chanOf s c).state = .replied) ∧ (chanOf s c).owner = m) :
    mbxRelease s m c = freeChan s c false := if_pos h

theorem mbxForce_of_right (h : 1 ≤ m ∧ m ≤ 4) : mbxForce s m c = freeChan s c true := if_pos h

theorem mbxControl_unlisted {v : Nat} (h : v % 256 = 0 ∨ 5 ≤ v % 256) : mbxControl s m c v = denied s := by
  unfold mbxControl
  split
  case h_5 => rfl
  all_goals omega

theorem mbxLock_refused (h : receiver s c = 0 ∨ allows s c m = false) : mbxLock s m c = (denied s, 0xFF) := if_pos h

theorem mbxLock_of_free (hr : receiver s c ≠ 0) (ha : allows s c m = true) (hf : (chanOf s c).state = .free) :
    mbxLock s m c = (grantChan s c m, 0) := (if_neg (by simp [hr, ha])).trans (if_pos hf)

theorem mbxLock_of_taken (hr : receiver s c ≠ 0) (ha : allows s c m = true) (hf : (chanOf s c).state ≠ .free) :
    mbxLock s m c = (s, if (chanOf s c).owner = m then 0 else (chanOf s c).owner) := by
  refine (if_neg (by simp [hr, ha])).trans ((if_neg hf).trans ?_)
  split <;> rfl

/-- A read of LOCK that reaches its channel. -/
theorem exec_mbxLock (hc : c < 64) (hreach : MailboxReach s m) (t : Nat) :
    exec (.mbxLock m c t) s = .next (send (mbxLock (atTime s t) m c).1 (.register (mbxLock (atTime s t) m c).2)) :=
  congrArg Host.Outcome.next (atChan_of_reach hc hreach t _ _)

end

/-- Settles O41: STATUS field by field, each action by the states it is allowed in. -/
theorem mailboxActions : Obligations.MailboxActions := by
  refine ⟨fun s c howner hcode => ?_, fun s m c t hc hreach => ?_⟩
  · obtain ⟨hstate, hrest⟩ := mbxStatusWord_fields s c howner hcode
    refine ⟨?_, hrest⟩
    rw [hstate]
    cases (chanOf s c).state <;> rfl
  · intro x freed ignored
    have hexec {c' : Instr} {go : State → State} (h : exec c' s = .next (atChan m c t s false go)) : exec c' s = .next (go (atTime s t)) :=
      h.trans (congrArg Host.Outcome.next (atChan_of_reach hc hreach t _ _))
    refine ⟨fun code => ⟨fun h => ?_, fun h => ?_⟩, fun h => ?_, fun h => ?_, fun h => ?_, fun h => ?_, fun h => ?_, fun h => ?_,
      fun hr ha hf => ?_, fun v hv => mbxControl_unlisted hv⟩
    · exact (hexec rfl).trans (congrArg Host.Outcome.next (mbxDoorbell_of_held (s := atTime s t) h code))
    · exact (hexec rfl).trans (congrArg Host.Outcome.next (if_neg h))
    · exact (hexec rfl).trans (congrArg Host.Outcome.next (mbxDone_of_posted (s := atTime s t) h))
    · exact (hexec rfl).trans (congrArg Host.Outcome.next (if_neg h))
    · exact (hexec rfl).trans (congrArg Host.Outcome.next (mbxRelease_of_owner (s := atTime s t) h))
    · exact (hexec rfl).trans (congrArg Host.Outcome.next (if_neg h))
    · exact (hexec rfl).trans (congrArg Host.Outcome.next (mbxForce_of_right h))
    · exact (hexec rfl).trans (congrArg Host.Outcome.next (if_neg h))
    · rw [exec_mbxLock hc hreach, mbxLock_of_free (s := atTime s t) hr ha hf]
      rfl

end Sys2Proof.Scope

namespace Sys2Proof.Scope
open Sys2Proof Sys2Proof.Machine Sys2Proof.Machine.Claim

/-! ## LOCK, and the host's accesses before configuration answers (R394, R411) -/

section
variable {s : State} {m c : Nat}

theorem exec_mbxLock_refused (hc : c < 64) (hreach : MailboxReach s m) (t : Nat)
    (h : receiver s c = 0 ∨ bit (reg s (Key.mbxAllow + 256 * c)) m = false) :
    exec (.mbxLock m c t) s = .next (send (bump (atTime s t) Key.mbxDenied 1) (.register 0xFF)) := by
  have hdenied : receiver (atTime s t) c = 0 ∨ allows (atTime s t) c m = false :=
    h.imp id fun hbit => by simp [allows, hbit]
  rw [exec_mbxLock hc hreach, mbxLock_refused hdenied]
  rfl

theorem allows_of_bit (hm : m ≠ 0) (h : bit (reg s (Key.mbxAllow + 256 * c)) m = true) : allows s c m = true := by
  simp [allows, hm, h]

theorem exec_mbxLock_admitted (hm : m ≠ 0) (hc : c < 64) (hreach : MailboxReach s m) (t : Nat) (hr : receiver s c ≠ 0)
    (ha : bit (reg s (Key.mbxAllow + 256 * c)) m = true) :
    ((chanOf s c).state = .free →
      exec (.mbxLock m c t) s = .next (send (setChan (atTime s t) c { chanOf s c with
        state := .held, owner := m, buf := [], len := 0, expired := false, grantAt := max s.time t }) (.register 0))) ∧
    ((chanOf s c).state ≠ .free →
      exec (.mbxLock m c t) s = .next (send (atTime s t) (.register (if (chanOf s c).owner = m then 0 else (chanOf s c).owner)))) := by
  have hallow : allows (atTime s t) c m = true := allows_of_bit hm ha
  refine ⟨fun hf => ?_, fun hf => ?_⟩
  · rw [exec_mbxLock hc hreach, mbxLock_of_free (s := atTime s t) hr hallow hf]
    rfl
  · rw [exec_mbxLock hc hreach, mbxLock_of_taken (s := atTime s t) hr hallow hf]
    rfl

/-- Before step 5 each access of the host is counted and has no effect. -/
theorem exec_host_early (hc : c < 64) (hon : mbxOn s = true) (hlink : 2 ≤ reg s Key.cxlLinkState) (hready : s.cxl.ready = false)
    (t : Nat) : let ignored := bump (atTime s t) Key.cxlDbRejects 1
    exec (.mbxLock 1 c t) s = .next (send ignored (.register 0)) ∧ exec (.mbxDone 1 c t) s = .next ignored ∧
    exec (.mbxRelease 1 c t) s = .next ignored ∧ exec (.forceFree 1 c t) s = .next ignored ∧
    (∀ code, exec (.mbxDoorbell 1 c code t) s = .next ignored) ∧
    ∀ off data, exec (.mbxBufferWrite 1 c off data) s = .next (bump s Key.cxlDbRejects 1) := by
  have hearly (t : Nat) (read : Bool) (go : State → State) := atChan_of_early hc hon hlink hready t read go
  refine ⟨congrArg Host.Outcome.next (hearly _ _ _), congrArg Host.Outcome.next (hearly _ _ _),
    congrArg Host.Outcome.next (hearly _ _ _), congrArg Host.Outcome.next (hearly _ _ _),
    fun code => congrArg Host.Outcome.next (hearly _ _ _), fun off data => congrArg Host.Outcome.next ((hearly _ _ _).trans ?_)⟩
  rw [atTime_self]
  rfl

end

/-! ## BUFFER and LEN (R413) -/

/-- The master that may write BUFFER and LEN. -/
theorem mayWriteBuf_iff {s : State} {m c : Nat} : mayWriteBuf s m c = true ↔
    ((chanOf s c).state = .held ∧ (chanOf s c).owner = m) ∨ ((chanOf s c).state = .posted ∧ receiver s c = m) := by
  simp [mayWriteBuf]

/-- What a write of BUFFER or LEN does that reaches its channel: aligned as the host's must be, it is one of LEN or BUFFER. -/
def bufferWrite (s : State) (m c off : Nat) (data : List Byte) : State :=
  if aligned32 m off data.length = false then ignoreAccess s false
  else if off = 8 ∧ data.length ≤ 4 then mbxWriteLen s m c (leNat data)
  else if 0x1000 ≤ off then mbxWriteBuf s m c (off - 0x1000) data
  else if m = 1 then ignoreAccess s false
  else s

section
variable {s : State} {m c off : Nat} {data : List Byte} (hc : c < 64) (hreach : MailboxReach s m)
include hc hreach

theorem exec_mbxBufferWrite : exec (.mbxBufferWrite m c off data) s = .next (bufferWrite s m c off data) := by
  refine congrArg Host.Outcome.next ((atChan_of_reach hc hreach _ _ _).trans ?_)
  rw [atTime_self]
  rfl

theorem exec_mbxBufferWrite_buffer (hoff : 0x1000 ≤ off) (hfits : off - 0x1000 + data.length ≤ 4096)
    (hal : aligned32 m off data.length = true) (hmay : mayWriteBuf s m c = true) :
    ∃ u, exec (.mbxBufferWrite m c off data) s = .next u ∧
      (∀ i, i < data.length → Tab.get 0 (chanOf u c).buf (off - 0x1000 + i) = data.getD i 0) ∧
      (∀ i, i < off - 0x1000 ∨ off - 0x1000 + data.length ≤ i → Tab.get 0 (chanOf u c).buf i = Tab.get 0 (chanOf s c).buf i) ∧
      (∀ k, k ≠ c → chanOf u k = chanOf s k) ∧ { u with mbx := s.mbx } = s := by
  have hwrite : bufferWrite s m c off data =
      setChan s c { chanOf s c with buf := Tab.setRange 0 (chanOf s c).buf (off - 0x1000) data } := by
    unfold bufferWrite
    rw [if_neg (by simp [hal]), if_neg (by omega), if_pos hoff]
    exact if_pos (by simp [hmay, hfits])
  refine ⟨_, (exec_mbxBufferWrite hc hreach).trans (congrArg Host.Outcome.next hwrite), fun i hi => ?_, fun i hi => ?_,
    fun k hk => chanOf_setChan_ne s _ hk, rfl⟩
  · rw [chanOf_setChan_same]
    exact Tab.get_setRange_at _ _ _ _ _ hi
  · rw [chanOf_setChan_same]
    exact Tab.get_setRange_ne _ _ _ _ _ hi

theorem exec_mbxBufferWrite_len (hlen : leNat data ≤ 4096) (hbytes : data.length ≤ 4) (hal : aligned32 m 8 data.length = true)
    (hmay : mayWriteBuf s m c = true) :
    exec (.mbxBufferWrite m c 8 data) s = .next (setChan s c { chanOf s c with len := leNat data }) := by
  have hmod : leNat data % 8192 = leNat data := Nat.mod_eq_of_lt (by omega)
  refine (exec_mbxBufferWrite hc hreach).trans (congrArg Host.Outcome.next ?_)
  unfold bufferWrite
  rw [if_neg (by simp [hal]), if_pos ⟨rfl, hbytes⟩]
  unfold mbxWriteLen
  rw [hmod]
  exact if_pos (by simp [hmay, hlen])

theorem exec_mbxBufferWrite_denied (hoff : (off = 8 ∧ data.length ≤ 4) ∨ 0x1000 ≤ off) (hal : aligned32 m off data.length = true)
    (hmay : mayWriteBuf s m c = false) : exec (.mbxBufferWrite m c off data) s = .next (bump s Key.mbxDenied 1) := by
  refine (exec_mbxBufferWrite hc hreach).trans (congrArg Host.Outcome.next ?_)
  unfold bufferWrite
  rw [if_neg (by simp [hal])]
  split
  · exact if_neg (by simp [hmay])
  next h => exact (if_pos (hoff.resolve_left h)).trans (if_neg (by simp [hmay]))

end

theorem exec_mbxBufferWrite_unaligned {s : State} {c off : Nat} {data : List Byte} (hc : c < 64) (hreach : MailboxReach s 1)
    (h : off % 4 ≠ 0 ∨ data.length % 4 ≠ 0 ∨ data.length = 0) :
    exec (.mbxBufferWrite 1 c off data) s = .next (bump s Key.cxlDbRejects 1) := by
  refine (exec_mbxBufferWrite hc hreach).trans (congrArg Host.Outcome.next (if_pos ?_))
  rw [← Bool.not_eq_true]
  simp only [aligned32, bne_self_eq_false, Bool.false_or, Bool.and_eq_true, beq_iff_eq, bne_iff_ne]
  omega

/-! ## The end of a hold (R416) -/

theorem exec_mbxHoldExpiry_of_due {s : State} {c t : Nat} (hc : c < 64) (hf : (chanOf s c).state ≠ .free) (hon : mbxOn s = true)
    (hfrz : reg s Key.frzState = 0) (hdue : (chanOf s c).grantAt + 1000 * reg s Key.mbxHoldUs ≤ max s.time t) :
    exec (.mbxHoldExpiry c t) s = .next (alm (bump (setChan (atTime s t) c
      { chanOf s c with state := .free, owner := 0, expired := true, notice := [] }) Key.mbxExpired 1)
      0x79 0x0050 (leBytes 1 3 ++ leBytes 1 c)) :=
  congrArg Host.Outcome.next (if_pos ⟨hc, hf, hon, hfrz, hdue⟩)

/-! ## A message of a fabric peer (R417) -/

theorem dropRef_eq (s : State) (w : Work) : dropRef s w = { s with slots := (dropRef s w).slots } := by
  unfold dropRef
  generalize w.refs = refs
  induction refs generalizing s with
  | nil => rfl
  | cons r refs ih =>
    rw [List.foldl_cons, ih]
    dsimp only
    split <;> rfl

/-- A request leaves the inbox with what was kept for it. -/
theorem dropReq_eq (s : State) (k : Pkt) :
    dropReq s k = { s with fab := (dropReq s k).fab, work := (dropReq s k).work, lines := (dropReq s k).lines,
                           slots := (dropReq s k).slots } := by
  unfold dropReq
  dsimp only
  cases findReq { s with fab := { s.fab with inbox := s.fab.inbox.erase k } } k with
  | none => rfl
  | some w =>
    dsimp only
    rw [dropRef_eq]
    unfold leaveAll
    split
    · rfl
    · rw [leaveLines_eq]
      rfl

/-- The channel a message names, granted to the fabric and filled. -/
def mailIn (s : State) (k : Pkt) : State :=
  let g := grantChan s k.addr 32
  setChan g k.addr { chanOf g k.addr with buf := Tab.setRange 0 [] 0 k.payload, len := k.len, peer := k.src }

section
variable {s : State} {k : Pkt}

theorem takeMail_refused (h : 64 ≤ k.addr ∨ allows s k.addr 32 = false ∨ receiver s k.addr = 0) :
    takeMail s k = answer (dropReq s k) k 8 0x0811 [] := if_pos h

variable (hc : k.addr < 64) (ha : allows s k.addr 32 = true) (hr : receiver s k.addr ≠ 0)
include hc ha hr

theorem takeMail_busy (hf : (chanOf s k.addr).state ≠ .free) : takeMail s k = answer (dropReq s k) k 8 0xFFFF [] :=
  (if_neg (by simp [Nat.not_le.mpr hc, ha, hr])).trans (if_pos hf)

/-- A message that is delivered: the channel is granted to the fabric, filled and posted in one operation. -/
theorem takeMail_free (hf : (chanOf s k.addr).state = .free) :
    takeMail s k = answer (mbxDoorbell (mailIn (dropReq s k) k) 32 k.addr 0) k 8 0 [] :=
  (if_neg (by simp [Nat.not_le.mpr hc, ha, hr])).trans (if_neg (not_not.mpr hf))

end

/-- The channel a message of the fabric has been delivered to. -/
theorem chanOf_mailDelivered {s : State} {k : Pkt} (hr4 : receiver s k.addr = 4) :
    let u := mbxDoorbell (mailIn s k) 32 k.addr 0
    (chanOf u k.addr).state = .posted ∧ (chanOf u k.addr).owner = 32 ∧
      (chanOf u k.addr).peer = k.src ∧ (chanOf u k.addr).len = k.len ∧ (chanOf u k.addr).code = 0 ∧
      (∀ i, i < k.payload.length → Tab.get 0 (chanOf u k.addr).buf i = k.payload.getD i 0) ∧ u.out = s.out ++ [.irq 4] := by
  intro u
  have hheld : (chanOf (mailIn s k) k.addr).state = .held ∧ (chanOf (mailIn s k) k.addr).owner = 32 := by
    simp [mailIn, grantChan]
  have hu : u = send (setChan (mailIn s k) k.addr { chanOf (mailIn s k) k.addr with state := .posted, code := 0 }) (.irq 4) := by
    have hrecv : receiver (mailIn s k) k.addr = 4 := hr4
    refine (mbxDoorbell_of_held hheld 0).trans ?_
    rw [hrecv]
    rfl
  have hchan : chanOf u k.addr = { chanOf (mailIn s k) k.addr with state := .posted, code := 0 } := by
    rw [hu]
    exact chanOf_setChan_same _ _ _
  rw [hchan]
  refine ⟨rfl, hheld.2, ?_, ?_, rfl, fun i hi => ?_, by rw [hu]; rfl⟩
  · simp [mailIn]
  · simp [mailIn]
  · simpa [mailIn] using Tab.get_setRange_at (0 : Byte) k.payload [] 0 i hi

/-- Settles O40: LOCK by its right and state, BUFFER and LEN by the hold, a message by the channel it names. -/
theorem mailboxMessages : Obligations.MailboxMessages := by
  refine ⟨⟨fun s m c t hm hc hreach => ⟨exec_mbxLock_refused hc hreach t, exec_mbxLock_admitted hm hc hreach t⟩,
    fun s c t hc hon hlink hready => exec_host_early hc hon hlink hready t⟩, ?_⟩
  refine ⟨fun s m c off data hc hreach hoff hfits hal hmay =>
      exec_mbxBufferWrite_buffer hc hreach hoff hfits hal (mayWriteBuf_iff.mpr hmay),
    fun s m c data hc hreach hlen hbytes hal hmay => exec_mbxBufferWrite_len hc hreach hlen hbytes hal (mayWriteBuf_iff.mpr hmay),
    fun s m c off data hc hreach hoff hal hmay => exec_mbxBufferWrite_denied hc hreach hoff hal (Bool.eq_false_iff.mpr (mt mayWriteBuf_iff.mp hmay)),
    fun s c off data hc hreach h => exec_mbxBufferWrite_unaligned hc hreach h,
    fun s c t hc hf hon hfrz hdue => exec_mbxHoldExpiry_of_due hc hf hon hfrz hdue,
    serves_of_serveKind fun _ _ => rfl, fun s k h => takeMail_refused h,
    fun s k hc ha hr => ⟨takeMail_busy hc ha hr, fun hf hr4 => ?_⟩⟩
  have hd := dropReq_eq s k
  have hout : (dropReq s k).out = s.out := by rw [hd]
  obtain ⟨hstate, howner, hpeer, hlen, hcode, hbuf, hirq⟩ := chanOf_mailDelivered (s := dropReq s k) (k := k) (by rw [hd]; exact hr4)
  exact ⟨_, takeMail_free hc ha hr hf, hstate, howner, hpeer, hlen, hcode, hbuf, hout ▸ hirq⟩

end Sys2Proof.Scope

namespace Sys2Proof.Scope
open Sys2Proof Sys2Proof.Machine Sys2Proof.Machine.Claim

/-! ## The keys of the dictionary (R422, R432) -/

/-- A family has keys, apart from each other, all below group 0x7F. -/
def entryFormed (e : EntryD) : Bool := decide (0 < e.stride ∧ 0 < e.count ∧ e.base + e.stride * e.count ≤ 0x7F000000)

theorem dictEntries_formed : dictEntries.all entryFormed = true := by decide +kernel

theorem formed_of_mem {e : EntryD} (he : e ∈ dictEntries) : 0 < e.stride ∧ 0 < e.count ∧ e.base + e.stride * e.count ≤ 0x7F000000 :=
  of_decide_eq_true (List.all_eq_true.mp dictEntries_formed e he)

theorem entryOf_eq_none_iff {k : Nat} : entryOf k = none ↔ ∀ e ∈ dictEntries, e.holds k = false := by
  simp [entryOf]

theorem entryOf_isSome {e : EntryD} {k : Nat} (he : e ∈ dictEntries) (hk : e.holds k = true) : (entryOf k).isSome = true :=
  List.find?_isSome.mpr ⟨e, he, hk⟩

theorem EntryD.holds_iff {e : EntryD} {k : Nat} (hs : 0 < e.stride) :
    e.holds k = true ↔ ∃ j, j < e.count ∧ k = e.base + e.stride * j := by
  simp only [EntryD.holds, Bool.and_eq_true, decide_eq_true_eq]
  constructor
  · rintro ⟨hbase, hlt, hmod⟩
    refine ⟨(k - e.base) / e.stride, Nat.div_lt_of_lt_mul hlt, ?_⟩
    rw [Nat.mul_div_cancel' (Nat.dvd_of_mod_eq_zero hmod)]
    omega
  · rintro ⟨j, hj, rfl⟩
    simp [Nat.mul_lt_mul_of_pos_left hj hs]

/-- What the lowest key of a family above a key is. -/
theorem EntryD.nextKey_spec {e : EntryD} (hs : 0 < e.stride) (hc : 0 < e.count) (k : Nat) :
    (∀ n, e.nextKey k = some n → k < n ∧ e.holds n = true) ∧
    (∀ j, k < j → e.holds j = true → ∃ n, e.nextKey k = some n ∧ n ≤ j) := by
  by_cases hlow : k < e.base
  · have hnext : e.nextKey k = some e.base := if_pos hlow
    simp only [hnext, Option.some.injEq]
    refine ⟨fun n hn => hn ▸ ⟨hlow, (EntryD.holds_iff hs).mpr ⟨0, hc, rfl⟩⟩, fun j _ hj => ⟨_, rfl, ?_⟩⟩
    obtain ⟨i, _, rfl⟩ := (EntryD.holds_iff hs).mp hj
    omega
  · have hnext : e.nextKey k = if (k - e.base) / e.stride + 1 < e.count then some (e.base + e.stride * ((k - e.base) / e.stride + 1))
        else none := if_neg hlow
    have habove : k < e.base + e.stride * ((k - e.base) / e.stride + 1) := by
      have := Nat.lt_mul_div_succ (k - e.base) hs
      omega
    refine ⟨fun n hn => ?_, fun j hkj hj => ?_⟩
    · rw [hnext] at hn
      split at hn
      next hcount => exact Option.some.inj hn ▸ ⟨habove, (EntryD.holds_iff hs).mpr ⟨_, hcount, rfl⟩⟩
      next => cases hn
    · obtain ⟨i, hi, rfl⟩ := (EntryD.holds_iff hs).mp hj
      have hstep : (k - e.base) / e.stride < i := Nat.div_lt_of_lt_mul (by omega)
      refine ⟨_, hnext.trans (if_pos (by omega)), ?_⟩
      have := Nat.mul_le_mul_left e.stride (Nat.succ_le_of_lt hstep)
      rw [Nat.succ_eq_add_one] at this
      omega

theorem nextKey_eq (k : Nat) : nextKey k = dictEntries.foldl (fun best e => Option.merge min best (e.nextKey k)) none := by
  refine congrFun (congrFun (congrArg List.foldl ?_) _) _
  funext best e
  cases best <;> cases e.nextKey k <;> rfl

/-- The least of some optional numbers: one of them, and none below it. -/
theorem foldl_merge_min {α : Type} (f : α → Option Nat) (xs : List α) (best : Option Nat) :
    let r := xs.foldl (fun best x => Option.merge min best (f x)) best
    (∀ n, r = some n → best = some n ∨ ∃ x ∈ xs, f x = some n) ∧
    ∀ n, best = some n ∨ (∃ x ∈ xs, f x = some n) → ∃ a, r = some a ∧ a ≤ n := by
  induction xs generalizing best with
  | nil => exact ⟨fun n hn => .inl hn, fun n hn => ⟨n, by simpa using hn, le_rfl⟩⟩
  | cons x xs ih =>
    obtain ⟨hof, hle⟩ := ih (Option.merge min best (f x))
    refine ⟨fun n hn => ?_, fun n hn => ?_⟩
    · obtain h | ⟨y, hy, hf⟩ := hof n hn
      · cases hb : best with
        | none => exact .inr ⟨x, by simp, by simpa [hb] using h⟩
        | some a =>
          cases hx : f x with
          | none => exact .inl (by simpa [hb, hx] using h)
          | some b =>
            have hmin : min a b = n := by simpa [hb, hx] using h
            obtain ha | hb' := min_choice a b
            · exact .inl (by rw [← hmin, ha])
            · exact .inr ⟨x, by simp, by rw [hx, ← hmin, hb']⟩
      · exact .inr ⟨y, by simp [hy], hf⟩
    · have hcarry : ∀ m, best = some m ∨ f x = some m → ∃ a, Option.merge min best (f x) = some a ∧ a ≤ m := by
        rintro m (rfl | hx)
        · cases f x <;> simp
        · rw [hx]
          cases best <;> simp
      have hdone : ∀ m, Option.merge min best (f x) = some m → m ≤ n → ∃ a, xs.foldl _ (Option.merge min best (f x)) = some a ∧ a ≤ n :=
        fun m hm hmn => (hle m (.inl hm)).imp fun a ha => ⟨ha.1, ha.2.trans hmn⟩
      obtain h | ⟨y, hy, hf⟩ := hn
      · obtain ⟨a, ha, han⟩ := hcarry n (.inl h)
        exact hdone a ha han
      · obtain rfl | hy := List.mem_cons.mp hy
        · obtain ⟨a, ha, han⟩ := hcarry n (.inr hf)
          exact hdone a ha han
        · exact hle n (.inr ⟨y, hy, hf⟩)

theorem nextKey_some {k n : Nat} (h : nextKey k = some n) : ∃ e ∈ dictEntries, k < n ∧ e.holds n = true := by
  rw [nextKey_eq] at h
  obtain h | ⟨e, he, hn⟩ := (foldl_merge_min _ dictEntries none).1 n h
  · cases h
  · obtain ⟨hs, hc, _⟩ := formed_of_mem he
    exact ⟨e, he, (EntryD.nextKey_spec hs hc k).1 n hn⟩

theorem exists_nextKey_le {k j : Nat} {e : EntryD} (he : e ∈ dictEntries) (hkj : k < j) (hj : e.holds j = true) :
    ∃ n, nextKey k = some n ∧ n ≤ j := by
  obtain ⟨hs, hc, _⟩ := formed_of_mem he
  obtain ⟨m, hm, hmj⟩ := (EntryD.nextKey_spec hs hc k).2 j hkj hj
  obtain ⟨n, hn, hnm⟩ := (foldl_merge_min (fun e => e.nextKey k) dictEntries none).2 m (.inr ⟨e, he, hm⟩)
  exact ⟨n, (nextKey_eq k).trans hn, hnm.trans hmj⟩

theorem entryOf_eq_none_of_below_nextKey {k j : Nat} (hkj : k < j) (h : ∀ n, nextKey k = some n → j < n) : entryOf j = none := by
  refine entryOf_eq_none_iff.mpr fun e he => Bool.eq_false_iff.mpr fun hj => ?_
  obtain ⟨n, hn, hnj⟩ := exists_nextKey_le he hkj hj
  exact absurd (h n hn) (by omega)

theorem nextKey_lt_reserved {k n : Nat} (h : nextKey k = some n) : n < 0x7F000000 := by
  obtain ⟨e, he, -, hn⟩ := nextKey_some h
  obtain ⟨hs, hc, htop⟩ := formed_of_mem he
  obtain ⟨j, hj, rfl⟩ := (EntryD.holds_iff hs).mp hn
  have := Nat.mul_lt_mul_of_pos_left hj hs
  omega

/-! ## Items (R433, R535) -/

section
variable {s : State} {m : Nat} {x : Item}

theorem execItem_badOp (h : x.op = 0 ∨ 5 < x.op) : execItem s m x = (s, 0x0D, []) := if_pos h

/-- An item other than NEXT_KEY, by its group. -/
theorem execItem_reserved (hop : 1 ≤ x.op ∧ x.op ≤ 4) (hg : keyGroup x.key = 0x7F) : execItem s m x =
    (if x.op = 1 then (s, Rc.ok, List.replicate x.dlen 0)
     else if x.op = 4 then (if x.dlen ≠ 0 then (s, Rc.badLength, []) else (s, Rc.ok, List.replicate 16 0))
     else (s, Rc.access, [])) :=
  (if_neg (by omega)).trans ((if_neg (by omega)).trans (if_pos hg))

theorem execItem_undefined (hop : 1 ≤ x.op ∧ x.op ≤ 4) (hg : keyGroup x.key ≠ 0x7F) (hk : entryOf x.key = none) :
    execItem s m x = (s, 0x01, []) := by
  refine (if_neg (by omega)).trans ((if_neg (by omega)).trans ((if_neg hg).trans ?_))
  rw [hk]
  rfl

theorem noteRefusal_kept {code : Nat} (h : refuses code = false) : noteRefusal s m x code = s := if_neg (by simp [h])

theorem noteRefusal_counted {code : Nat} (h : refuses code = true) (hm : m < 256) :
    reg (noteRefusal s m x code) Key.dictRefusals = wrap64 (reg s Key.dictRefusals + 1) ∧
      reg (noteRefusal s m x code) Key.dictLastRefusal = x.key + m * 2 ^ 32 + code * 2 ^ 40 := by
  have hnote : noteRefusal s m x code =
      setReg (bump s Key.dictRefusals 1) Key.dictLastRefusal (x.key + m % 256 * 2 ^ 32 + code * 2 ^ 40) := if_pos h
  rw [hnote, Nat.mod_eq_of_lt hm]
  refine ⟨?_, reg_setReg_same _ _ _⟩
  rw [reg_setReg_ne _ _ (by decide)]
  exact reg_setReg_same _ _ _

end

/-- Settles O47: the least key of all families above KEY, a refusal by its code. -/
theorem dictionaryKeys : Obligations.DictionaryKeys := by
  refine ⟨fun s m x h => execItem_badOp h, fun s m x h1 h4 hg hk => execItem_undefined ⟨h1, h4⟩ hg hk, fun k n h => ?_,
    fun k h j hj => entryOf_eq_none_of_below_nextKey hj (by simp [h]), fun s m x code hm => ⟨fun h => ?_, fun h => ?_⟩⟩
  · obtain ⟨e, he, hkn, hn⟩ := nextKey_some h
    refine ⟨hkn, entryOf_isSome he hn, fun j hkj hjn => entryOf_eq_none_of_below_nextKey hkj fun a ha => ?_⟩
    exact Option.some.inj (h.symm.trans ha) ▸ hjn
  · have hkept : ∀ c ∈ [0x00, 0x0A, 0x0B, 0x0C], refuses c = false := by decide
    exact noteRefusal_kept (hkept code h)
  · have hcounted : ∀ c ∈ [0x01, 0x02, 0x03, 0x04, 0x05, 0x06, 0x07, 0x08, 0x09, 0x0D], refuses c = true := by decide
    exact noteRefusal_counted (hcounted code h) hm

/-- Settles O48: items of the group by their operation, keys of families by where the table ends. -/
theorem reservedGroup : Obligations.ReservedGroup := by
  refine ⟨fun s m x hg => ⟨fun h => ?_, fun h hd => ?_, fun h => ?_⟩, fun k n h => ?_⟩
  · exact (execItem_reserved (by omega) hg).trans (if_pos h)
  · exact (execItem_reserved (by omega) hg).trans ((if_neg (by omega)).trans ((if_pos h).trans (if_neg (not_not.mpr hd))))
  · exact (execItem_reserved (by omega) hg).trans ((if_neg (by omega)).trans (if_neg (by omega)))
  · have := nextKey_lt_reserved h
    unfold keyGroup
    omega

end Sys2Proof.Scope

namespace Sys2Proof.Scope
open Sys2Proof Sys2Proof.Machine Sys2Proof.Machine.Claim

/-! ## A write of a defined entry (R433) -/

section
variable {s : State} {m : Nat} {e : EntryD} {v : Nat}

/-- Without a right no effect follows but the note of a Weir limit, which firmware alone meets. -/
theorem onNoRight_kept (h : isFirmware m = false ∨ e.base ∉ [Key.secSvnCommit, Key.secKeyRevoke, Key.pwrLimitW]) : onNoRight s e m v = s := by
  obtain h | h := h
  · exact if_pos h
  · simp only [List.mem_cons, List.not_mem_nil, or_false, not_or] at h
    obtain ⟨hsvn, hrevoke, hlimit⟩ := h
    simp [onNoRight, hsvn, hrevoke, hlimit]

theorem onNoRight_fuses (hm : isFirmware m = true) (h : e.base = Key.secSvnCommit ∨ e.base = Key.secKeyRevoke) :
    onNoRight s e m v = weir s 2 m v := (if_neg (by simp [hm])).trans (if_pos h)

theorem onBadValue_kept (hsvn : e.base ≠ Key.secSvnCommit) (hlimit : ¬ (e.base = Key.pwrLimitW ∧ isFirmware m = true)) :
    onBadValue s e m v = s := (if_neg fun h => hsvn h.1).trans (if_neg fun h => hlimit ⟨h.1, h.2.2⟩)

theorem dict_accept (k : Nat) : (accept s e k).dict = (setReg s Key.dictGeneration ((reg s Key.dictGeneration + 1) % 2 ^ 32)).dict := by
  unfold accept
  split <;> simp

theorem reg_accept_generation (k : Nat) : reg (accept s e k) Key.dictGeneration = (reg s Key.dictGeneration + 1) % 2 ^ 32 :=
  (reg_of_dict (dict_accept k) _).trans (reg_setReg_same _ _ _)

theorem reg_accept_of_ne (k : Nat) {j : Nat} (h : j ≠ Key.dictGeneration) : reg (accept s e k) j = reg s j :=
  (reg_of_dict (dict_accept k) _).trans (reg_setReg_ne _ _ h)

theorem mem_accept (k : Nat) : (accept s e k).mem = s.mem := by
  unfold accept
  split <;> simp

end

section
variable {s : State} {m : Nat} {e : EntryD} {k off : Nat} {data : List Byte} {cond : Option Nat}

theorem writeEntry_readOnly (hacc : e.acc = 1) : writeEntry s m e k off data cond = (s, 0x03) := if_pos hacc

theorem writeEntry_noRight (hacc : e.acc ≠ 1) (hright : maskGrants (writeMask s e k) m = false) :
    writeEntry s m e k off data cond = (onNoRight s e m (leNat data), 0x02) := (if_neg hacc).trans (if_pos (by simp [hright]))

variable (hacc : e.acc ≠ 1) (hright : maskGrants (writeMask s e k) m = true)
include hacc hright

theorem writeEntry_locked (hlock : isLocked s e k = true) : writeEntry s m e k off data cond = (s, 0x06) :=
  (if_neg hacc).trans ((if_neg (by simp [hright])).trans (if_pos hlock))

variable (hlock : isLocked s e k = false)
include hlock

theorem writeEntry_badLength (hfits : itemFits e k off data.length = false) : writeEntry s m e k off data cond = (s, 0x05) :=
  (if_neg hacc).trans ((if_neg (by simp [hright])).trans ((if_neg (by simp [hlock])).trans (if_pos (by simp [hfits]))))

variable (hfits : itemFits e k off data.length = true)
include hfits

theorem writeEntry_stale {g : Nat} (hcond : cond = some g) (hg : g ≠ reg s Key.dictGeneration) :
    writeEntry s m e k off data cond = (s, 0x08) :=
  (if_neg hacc).trans ((if_neg (by simp [hright])).trans ((if_neg (by simp [hlock])).trans ((if_neg (by simp [hfits])).trans
    (if_pos (by simp [hcond, hg])))))

variable (hcond : ∀ g, cond = some g → g = reg s Key.dictGeneration)
include hcond

/-- A write that passes the checks before that of its value. -/
theorem writeEntry_value : writeEntry s m e k off data cond =
    let i := (k - e.base) / e.stride
    if badValue s e i (leNat data) then (onBadValue s e m (leNat data), Rc.badValue)
    else match actWrite s m e i k off data with
      | .inUse t => (t, Rc.inUse)
      | .done t => if !keyOn s k && (e.acc == 4 || e.acc == 6) then (s, Rc.asleep) else (accept t e k, Rc.ok) := by
  refine (if_neg hacc).trans ((if_neg (by simp [hright])).trans ((if_neg (by simp [hlock])).trans ((if_neg (by simp [hfits])).trans
    (if_neg ?_))))
  cases hc : cond with
  | none => simp
  | some g => simp [hcond g hc]

theorem writeEntry_badValue (hbad : badValue s e ((k - e.base) / e.stride) (leNat data) = true) :
    writeEntry s m e k off data cond = (onBadValue s e m (leNat data), 0x04) :=
  (writeEntry_value hacc hright hlock hfits hcond).trans (if_pos hbad)

variable (hgood : badValue s e ((k - e.base) / e.stride) (leNat data) = false)
include hgood

theorem writeEntry_inUse {t : State} (hact : actWrite s m e ((k - e.base) / e.stride) k off data = .inUse t) :
    writeEntry s m e k off data cond = (t, 0x07) := by
  refine (writeEntry_value hacc hright hlock hfits hcond).trans ((if_neg (by simp [hgood])).trans ?_)
  rw [hact]
  rfl

section
variable {t : State} (hact : actWrite s m e ((k - e.base) / e.stride) k off data = .done t)
include hact

theorem writeEntry_asleep (hoff : keyOn s k = false) (hkind : e.acc = 4 ∨ e.acc = 6) :
    writeEntry s m e k off data cond = (s, 0x09) := by
  refine (writeEntry_value hacc hright hlock hfits hcond).trans ((if_neg (by simp [hgood])).trans ?_)
  rw [hact]
  exact if_pos (by simp [hoff, hkind])

theorem writeEntry_accepted (hawake : keyOn s k = true ∨ (e.acc ≠ 4 ∧ e.acc ≠ 6)) :
    writeEntry s m e k off data cond = (accept t e k, 0x00) := by
  refine (writeEntry_value hacc hright hlock hfits hcond).trans ((if_neg (by simp [hgood])).trans ?_)
  rw [hact]
  refine if_neg ?_
  obtain h | ⟨h4, h6⟩ := hawake
  · simp [h]
  · simp [h4, h6]

end
end

/-- Settles O46: one lemma for each check a write can fail at, in their order. -/
theorem dictionaryWrites : Obligations.DictionaryWrites := by
  intro s m e k off data cond i w
  refine ⟨writeEntry_readOnly, fun hacc hright => ?_, fun hacc hright => ⟨writeEntry_locked hacc hright,
    writeEntry_badLength hacc hright, fun hlock hfits => ⟨fun g => writeEntry_stale hacc hright hlock hfits,
      fun hcond => ⟨fun hbad => ?_, fun hgood => ⟨fun t => writeEntry_inUse hacc hright hlock hfits hcond hgood,
        fun t => writeEntry_asleep hacc hright hlock hfits hcond hgood, fun t hact hawake => ?_⟩⟩⟩⟩⟩
  · have hw : w = _ := writeEntry_noRight hacc hright
    rw [hw]
    exact ⟨rfl, onNoRight_kept, onNoRight_fuses⟩
  · have hw : w = _ := writeEntry_badValue hacc hright hlock hfits hcond hbad
    rw [hw]
    exact ⟨rfl, onBadValue_kept⟩
  · have hw : w = _ := writeEntry_accepted hacc hright hlock hfits hcond hgood hact hawake
    rw [hw]
    exact ⟨rfl, reg_accept_generation k, fun j => reg_accept_of_ne k, mem_accept k⟩

end Sys2Proof.Scope

namespace Sys2Proof.Scope
open Sys2Proof Sys2Proof.Machine Sys2Proof.Machine.Claim

/-! ## A message that is not well formed, items that are skipped (R430, R434) -/

theorem goodMessage_eq_none {limit : Nat} {msg : List Byte}
    (h : field msg 0 1 ≠ 1 ∨ 128 ≤ field msg 1 1 ∨ field msg 4 2 = 0 ∨ field msg 6 2 ≠ msg.length ∨ limit < 24) :
    goodMessage limit msg = none := by
  unfold goodMessage
  dsimp only
  split
  next => rfl
  next hhead =>
    simp only [not_or, not_not] at hhead
    obtain ⟨-, hversion, hflags, hcount, hlen⟩ := hhead
    split
    next => rfl
    next => exact if_pos (by omega)

theorem serveMessage_bad {limit : Nat} {msg : List Byte} (s : State) (m : Nat) (h : goodMessage limit msg = none) :
    serveMessage s m limit msg = (bump s Key.dictBadMessages 1, respHeader (bit (field msg 1 1) 0) (field msg 2 2) 0 8) := by
  unfold serveMessage
  rw [h]

theorem itemBytes_nil_length (s : State) (x : Item) (code : Nat) : (itemBytes s x code []).length = 16 := by
  simp [itemBytes, pad4, cdiv]

theorem execItems_skipped (m : Nat) (xs : List Item) (s : State) :
    (execItems m true xs true s).1 = s ∧ (execItems m true xs true s).2.length = 16 * xs.length := by
  induction xs with
  | nil => exact ⟨rfl, rfl⟩
  | cons x xs ih =>
    obtain ⟨hstate, hlen⟩ := ih
    have hcons : execItems m true (x :: xs) true s =
        ((execItems m true xs true s).1, itemBytes s x Rc.skipped [] ++ (execItems m true xs true s).2) := rfl
    rw [hcons]
    refine ⟨hstate, ?_⟩
    rw [List.length_append, itemBytes_nil_length, hlen, List.length_cons]
    omega

/-! ## The buffers of a transport (R436, R438) -/

theorem le_foldl_max (xs : List Nat) (a : Nat) :
    a ≤ xs.foldl max a ∧ (∀ x ∈ xs, x ≤ xs.foldl max a) ∧ (xs.foldl max a = a ∨ xs.foldl max a ∈ xs) := by
  induction xs generalizing a with
  | nil => simp
  | cons x xs ih =>
    obtain ⟨hstart, hall, hof⟩ := ih (max a x)
    rw [List.foldl_cons]
    refine ⟨(le_max_left a x).trans hstart, ?_, ?_⟩
    · rintro y hy
      obtain rfl | hy := List.mem_cons.mp hy
      · exact (le_max_right a y).trans hstart
      · exact hall y hy
    · obtain h | h := hof
      · rw [h]
        exact (max_choice a x).imp_right fun hx => by simp [hx]
      · exact .inr (by simp [h])

theorem buffered_full {s : State} {due : List Nat} {n free : Nat} (h : n ≤ (due.filter (fun d => decide (s.time < d))).length) :
    buffered s due n free = none := if_pos h

/-- What a buffer with room holds: those that wait, and the arrival's end, in order and in time. -/
theorem buffered_room {s : State} {due : List Nat} {n : Nat} (free : Nat) (h : (due.filter (fun d => decide (s.time < d))).length < n) :
    ∃ d, s.time ≤ d ∧ (∀ x ∈ due.filter (fun d => decide (s.time < d)), x ≤ d) ∧
      (d ≤ s.time + 10000000 ∨ d ∈ due.filter (fun d => decide (s.time < d))) ∧
      buffered s due n free = some (due.filter (fun d => decide (s.time < d)) ++ [d]) := by
  obtain ⟨hstart, hall, hof⟩ := le_foldl_max (due.filter (fun d => decide (s.time < d))) (s.time + free % 10000001)
  refine ⟨_, by omega, hall, hof.imp_left fun h => ?_, if_neg (Nat.not_le.mpr h)⟩
  omega

section
variable {s : State} {go : State → State}

theorem bufferMessage_full (h : 4 ≤ (s.srv.i3cDue.filter (fun d => decide (s.time < d))).length) :
    bufferMessage s go = bump { s with fresh := s.fresh + 1 } Key.dictDropped 1 := by
  unfold bufferMessage
  dsimp only
  rw [buffered_full h]
  rfl

theorem bufferMessage_room (h : (s.srv.i3cDue.filter (fun d => decide (s.time < d))).length < 4) :
    ∃ d, s.time ≤ d ∧ (∀ x ∈ s.srv.i3cDue.filter (fun d => decide (s.time < d)), x ≤ d) ∧
      (d ≤ s.time + 10000000 ∨ d ∈ s.srv.i3cDue.filter (fun d => decide (s.time < d))) ∧
      bufferMessage s go = go { s with
        fresh := s.fresh + 1
        srv := { s.srv with i3cDue := s.srv.i3cDue.filter (fun d => decide (s.time < d)) ++ [d] } } := by
  obtain ⟨d, hd, hall, hend, hdue⟩ := buffered_room (Config.freeValue s.fresh) h
  refine ⟨d, hd, hall, hend, ?_⟩
  unfold bufferMessage
  dsimp only [drawFree]
  rw [hdue]

theorem bufferFrame_full (h : 8 ≤ (s.srv.flnDue.filter (fun d => decide (s.time < d))).length) :
    bufferFrame s go = bump { s with fresh := s.fresh + 1 } Key.dictDropped 1 := by
  unfold bufferFrame
  dsimp only
  rw [buffered_full h]
  rfl

theorem bufferFrame_room (h : (s.srv.flnDue.filter (fun d => decide (s.time < d))).length < 8) :
    ∃ d, s.time ≤ d ∧ (∀ x ∈ s.srv.flnDue.filter (fun d => decide (s.time < d)), x ≤ d) ∧
      (d ≤ s.time + 10000000 ∨ d ∈ s.srv.flnDue.filter (fun d => decide (s.time < d))) ∧
      bufferFrame s go = go { s with
        fresh := s.fresh + 1
        srv := { s.srv with flnDue := s.srv.flnDue.filter (fun d => decide (s.time < d)) ++ [d] } } := by
  obtain ⟨d, hd, hall, hend, hdue⟩ := buffered_room (Config.freeValue s.fresh) h
  refine ⟨d, hd, hall, hend, ?_⟩
  unfold bufferFrame
  dsimp only [drawFree]
  rw [hdue]

end

/-! ## Messages of the BMC, the host and the firmware (R428, R435, R436, R490) -/

/-- What DICT_MESSAGE does while the management domain runs, on each transport. -/
def dictServed (s : State) (msg : List Byte) : DictSrc → State
  | .cxl => primary s fun s => send (serveMessage s 1 4096 msg).1 (.dictResp .cxl (serveMessage s 1 4096 msg).2)
  | .mctp => serveMctp s msg
  | .firmware m => if isFirmware m = true ∧ reg s Key.frzState = 0 then
      send (serveMessage s m 65535 msg).1 (.dictResp (.firmware m) (serveMessage s m 65535 msg).2) else s
  | .fln => serveFrame s msg

section
variable {s : State} {msg : List Byte} {t : Nat} (hon : s.pwr.managed = true)
include hon

theorem exec_dictMessage (src : DictSrc) : exec (.dictMessage src msg t) s = .next (dictServed (atTime s t) msg src) := by
  refine congrArg Host.Outcome.next ((if_neg (by simp [hon])).trans ?_)
  cases src <;> rfl

theorem exec_dictMessage_otherVendor (h : msg.take 4 ≠ mctpHead) : exec (.dictMessage .mctp msg t) s = .next (atTime s t) :=
  (exec_dictMessage hon .mctp).trans (congrArg Host.Outcome.next (if_pos h))

/-- A message in the dictionary's envelope goes through the buffer of 4. -/
theorem exec_dictMessage_mctp (h : msg.take 4 = mctpHead) : exec (.dictMessage .mctp msg t) s =
    .next (bufferMessage (atTime s t) fun s => send (serveMessage s 2 4096 (msg.drop 4)).1
      (.dictResp .mctp (mctpHead ++ (serveMessage s 2 4096 (msg.drop 4)).2))) :=
  (exec_dictMessage hon .mctp).trans (congrArg Host.Outcome.next (if_neg (not_not.mpr h)))

theorem exec_dictMessage_cxl (hlink : 2 ≤ reg s Key.cxlLinkState) (hready : s.cxl.ready = true) :
    exec (.dictMessage .cxl msg t) s = .next (send (serveMessage (atTime s t) 1 4096 msg).1
      (.dictResp .cxl (serveMessage (atTime s t) 1 4096 msg).2)) :=
  (exec_dictMessage hon .cxl).trans (congrArg Host.Outcome.next (if_pos ⟨hlink, hready⟩))

theorem exec_dictMessage_firmware {m : Nat} (hm : isFirmware m = true) (hfrz : reg s Key.frzState = 0) :
    exec (.dictMessage (.firmware m) msg t) s = .next (send (serveMessage (atTime s t) m 65535 msg).1
      (.dictResp (.firmware m) (serveMessage (atTime s t) m 65535 msg).2)) :=
  (exec_dictMessage hon (.firmware m)).trans (congrArg Host.Outcome.next (if_pos ⟨hm, hfrz⟩))

theorem exec_dictMessage_frozen (m : Nat) (hfrz : reg s Key.frzState ≠ 0) :
    exec (.dictMessage (.firmware m) msg t) s = .next (atTime s t) :=
  (exec_dictMessage hon (.firmware m)).trans (congrArg Host.Outcome.next (if_neg fun h => hfrz h.2))

end

theorem isFirmware_of_range {m : Nat} (h : m = 4 ∨ (8 ≤ m ∧ m ≤ 23)) : isFirmware m = true := by
  simpa [isFirmware, isControl] using h

/-! ## Frames of the field network (R437-R440) -/

/-- The end of a frame's service: the answer is kept for its sender and sent. -/
def keepAnswer (kept : List (Nat × Nat × List Byte)) (src seq : Nat) (s : State) (resp : List Byte) : State :=
  let all := kept.filter (fun e => e.1 != src) ++ [(src, seq, resp)]
  send { s with srv := { s.srv with kept := all.drop (all.length - 4) } } (.frame src (flnFrame s src (leBytes 4 2 ++ resp)))

/-- The service of a frame the buffer took: the kept answer, or the server's. -/
def serveTaken (msg : List Byte) (src : Nat) (s : State) : State :=
  let s := { s with srv := { s.srv with lastSrc := some src } }
  match s.srv.kept.find? (fun e => e.1 == src && e.2.1 == field msg 2 2) with
  | some e => keepAnswer s.srv.kept src e.2.1 (bump s Key.flnDuplicates 1) e.2.2
  | none => keepAnswer s.srv.kept src (field msg 2 2) (serveMessage s 3 1496 msg).1 (serveMessage s 3 1496 msg).2

/-- A frame for this module goes through the buffer of 8. -/
theorem serveFrame_good {s : State} {frame : List Byte} (hon : reg s Key.flnEnable ≠ 0) (hlen : 18 ≤ frame.length)
    (htype : beNat ((frame.drop 12).take 2) = 0x88B5) (hkind : field frame 14 1 = 1) (hdst : field frame 0 6 = reg s Key.flnMac)
    (hone : field frame 0 6 ≠ broadcastMac) :
    serveFrame s frame = bufferFrame s (serveTaken (frame.drop 18) (field frame 6 6)) := by
  refine (if_neg hon).trans ((if_neg ?_).trans rfl)
  simp [htype, hkind, hdst, hdst ▸ hone, Nat.not_lt.mpr hlen]

theorem serveTaken_repeated {msg : List Byte} {src : Nat} {s : State} {e : Nat × Nat × List Byte}
    (h : s.srv.kept.find? (fun e => e.1 == src && e.2.1 == field msg 2 2) = some e) :
    (serveTaken msg src s).out = s.out ++ [.frame src (flnFrame s src (leBytes 4 2 ++ e.2.2))] ∧
      reg (serveTaken msg src s) Key.flnDuplicates = wrap64 (reg s Key.flnDuplicates + 1) ∧
      RegsKept s (serveTaken msg src s) [Key.flnDuplicates] := by
  have htaken : serveTaken msg src s = keepAnswer s.srv.kept src e.2.1
      (bump { s with srv := { s.srv with lastSrc := some src } } Key.flnDuplicates 1) e.2.2 := by
    unfold serveTaken
    dsimp only
    rw [h]
  have hmac : reg (bump s Key.flnDuplicates 1) Key.flnMac = reg s Key.flnMac := reg_setReg_ne _ _ (by decide)
  rw [htaken]
  refine ⟨?_, reg_setReg_same _ _ _, fun k hk => reg_setReg_ne _ _ (List.ne_of_not_mem_cons hk)⟩
  change s.out ++ [.frame src (flnFrame (bump s Key.flnDuplicates 1) src _)] = _
  rw [flnFrame, hmac]
  rfl

theorem serveTaken_new {msg : List Byte} {src : Nat} {s : State}
    (h : s.srv.kept.find? (fun e => e.1 == src && e.2.1 == field msg 2 2) = none) :
    serveTaken msg src s = keepAnswer s.srv.kept src (field msg 2 2)
      (serveMessage { s with srv := { s.srv with lastSrc := some src } } 3 1496 msg).1
      (serveMessage { s with srv := { s.srv with lastSrc := some src } } 3 1496 msg).2 := by
  unfold serveTaken
  dsimp only
  rw [h]

/-- Settles O45: each transport by what it takes, each buffer by whether it has room. -/
theorem dictionaryMessages : Obligations.DictionaryMessages := by
  refine ⟨fun s msg t hon => ⟨exec_dictMessage_otherVendor hon, fun hhead => ?_, exec_dictMessage_cxl hon, fun m hm =>
    ⟨exec_dictMessage_firmware hon (isFirmware_of_range hm), exec_dictMessage_frozen hon m⟩, fun hfln hlen htype hkind hdst hone => ?_⟩,
    fun s m limit msg h => serveMessage_bad s m (goodMessage_eq_none h), execItems_skipped⟩
  · intro waits s1
    rw [exec_dictMessage_mctp hon hhead]
    refine ⟨fun hfull => congrArg Host.Outcome.next (bufferMessage_full hfull), fun hroom => ?_⟩
    obtain ⟨d, hd, hall, hend, hgo⟩ := bufferMessage_room (s := atTime s t) (go := fun s => send (serveMessage s 2 4096 (msg.drop 4)).1
      (.dictResp .mctp (mctpHead ++ (serveMessage s 2 4096 (msg.drop 4)).2))) hroom
    exact ⟨d, hd, hall, hend, congrArg Host.Outcome.next hgo⟩
  · intro waits s1
    have hexec : exec (.dictMessage .fln msg t) s = .next (bufferFrame (atTime s t) (serveTaken (msg.drop 18) (field msg 6 6))) :=
      (exec_dictMessage hon .fln).trans (congrArg Host.Outcome.next (serveFrame_good hfln hlen htype hkind hdst hone))
    rw [hexec]
    refine ⟨fun hfull => congrArg Host.Outcome.next (bufferFrame_full hfull), fun hroom => ?_⟩
    obtain ⟨d, hd, hall, hend, hgo⟩ := bufferFrame_room (s := atTime s t) (go := serveTaken (msg.drop 18) (field msg 6 6)) hroom
    rw [hgo]
    refine ⟨d, hd, hall, hend, fun e he => ⟨_, rfl, ?_⟩, fun hnew => ⟨_, congrArg Host.Outcome.next (serveTaken_new ?_), rfl, rfl, rfl⟩⟩
    · exact serveTaken_repeated (msg := msg.drop 18) (src := field msg 6 6) he
    · exact hnew

end Sys2Proof.Scope

namespace Sys2Proof.Scope
open Sys2Proof Sys2Proof.Machine Sys2Proof.Machine.Claim

/-! ## The checks of VERIFY (R463) -/

theorem verify_eq_one {s : State} (h : verify s = 1) :
    let b := s.boot.staging
    imgNat b 0 4 = 0x5746344C ∧ imgNat b 4 2 = 1 ∧ 512 ≤ imgLength b ∧ imgLength b ≤ 8388608 ∧
    imgSlot b ≤ 3 ∧ bit s.boot.revoked (imgSlot b) = false ∧ Config.sha384 (imgBytes b 64 97) = Config.keyHash (imgSlot b) ∧
    inOrder (beNat (imgBytes b 416 48)) = true ∧ inOrder (beNat (imgBytes b 464 48)) = true ∧
    Config.ecdsaValid (Config.sha384 (imgBytes b 0 416)) (beNat ((imgBytes b 64 97).drop 1)) (beNat (imgBytes b 416 96)) = true ∧
    Config.sha384 (imgBytes b 512 (imgLength b - 512)) = beNat (imgBytes b 176 48) ∧ s.boot.svn ≤ imgSvn b ∧
    imgEph b &&& reg s Key.ephSupported ≠ 0 ∧ (reg s Key.ephPin ≠ 0 → bit (imgEph b) (reg s Key.ephPin) = true) := by
  unfold verify at h
  dsimp only at h
  split at h
  next => cases h
  next hhead =>
  split at h
  next => cases h
  next hlen =>
  split at h
  next => cases h
  next hslot =>
  split at h
  next => cases h
  next hkey =>
  split at h
  next => cases h
  next hsig =>
  split at h
  next => cases h
  next hbody =>
  split at h
  next => cases h
  next hsvn =>
  split at h
  next => cases h
  next heph =>
  simp only [not_or, not_not, not_lt, Bool.not_eq_true, Bool.not_eq_false] at hhead hlen hslot hkey hsig hbody hsvn
  obtain ⟨hmagic, hformat⟩ := hhead
  obtain ⟨hlow, hhigh, -⟩ := hlen
  obtain ⟨hslot, hrevoked⟩ := hslot
  obtain ⟨-, hr, hs, hvalid⟩ := hsig
  simp only [not_or, not_and, Bool.not_eq_false] at heph
  obtain ⟨hsupported, hpin⟩ := heph
  exact ⟨hmagic, hformat, hlow, hhigh, hslot, hrevoked, hkey, hr, hs, hvalid, hbody, hsvn, hsupported, hpin⟩

/-! ## What VERIFY leaves (R465, R470) -/

/-- The state in which VERIFY's result is noted. -/
def verified (s : State) (code : Nat) : State := setReg (setReg s Key.bootResult code) Key.bootLoadOwner 0

theorem verify_atTime (s : State) (t : Nat) : verify (atTime s t) = verify s := rfl

section
variable {s : State} {t : Nat} (hb : reg s Key.bootState = 2)
include hb

theorem exec_verifyComplete_first (hv : verify s = 1) (hfirst : s.boot.hasImage = false ∨ s.boot.before = 7) :
    exec (.verifyComplete t) s = .next (setReg (exchangeBanks (verified (atTime s t) 1)) Key.bootState 3) := by
  refine congrArg Host.Outcome.next ((if_pos hb).trans ?_)
  dsimp only
  rw [verify_atTime, if_pos hv, hv]
  exact if_pos hfirst

theorem exec_verifyComplete_staged (hv : verify s = 1) (himage : s.boot.hasImage = true) (hbefore : s.boot.before ≠ 7) :
    exec (.verifyComplete t) s =
      .next (setReg (setReg (verified (atTime s t) 1) Key.fwStagedVersion (imgVersion s.boot.staging)) Key.bootState 5) := by
  have hlater : ¬ (s.boot.hasImage = false ∨ s.boot.before = 7) := by simp [himage, hbefore]
  refine congrArg Host.Outcome.next ((if_pos hb).trans ?_)
  dsimp only
  rw [verify_atTime, if_pos hv, hv]
  exact if_neg hlater

theorem exec_verifyComplete_rejected (hv : verify s ≠ 1) :
    exec (.verifyComplete t) s = .next (alert (setReg (clearStaging (rejectImage (verified (atTime s t) (verify s)) (verify s)))
      Key.bootState s.boot.before) s.alm.next) := by
  refine congrArg Host.Outcome.next ((if_pos hb).trans ?_)
  dsimp only
  rw [verify_atTime, if_neg hv]
  rfl

end

/-- The measurements do not hang on BOOT_STATE. -/
theorem measurement_setReg_bootState (s : State) (v n : Nat) : measurement (setReg s Key.bootState v) n = measurement s n := by
  have hreg {k : Nat} (hk : k ≠ Key.bootState) : reg (setReg s Key.bootState v) k = reg s k := reg_setReg_ne _ _ hk
  have hfuses : fuseItems (setReg s Key.bootState v) = fuseItems s := by simp (disch := decide) [fuseItems, hreg]
  unfold measurement
  rw [hfuses, hreg (k := Key.fwVersion) (by decide), hreg (k := Key.fwSvn) (by decide), hreg (k := Key.dictWriters) (by decide),
    hreg (k := Key.cxlIdeRequired) (by decide), hreg (k := Key.mbxBindLocked) (by decide), hreg (k := Key.errContained) (by decide)]
  rfl

theorem measurements_setReg_bootState (s : State) (v n : Nat) : measurements (setReg s Key.bootState v) n = measurements s n :=
  List.map_congr_left fun i _ => measurement_setReg_bootState s v i

/-- The chain of slot 1 after an image started: slot 0's, then the certificate of its measurements. -/
theorem slotOne_deriveAlias (s : State) (v : Nat) :
    let u := setReg (deriveAlias s) Key.bootState v
    slotOne u = slotZero u ++ [Config.aliasCert (deviceIdKey u) (Config.publicKey (Config.deriveKey Config.deviceSecret
      (measurements u 4))) (reg u Key.fwVersion) (reg u Key.fwSvn)] := by
  intro u
  have hkey : deviceIdKey u = deviceIdKey s := congrArg (Config.deriveKey Config.deviceSecret) (measurements_setReg_bootState _ v 1)
  have hmeas : measurements u 4 = measurements s 4 := measurements_setReg_bootState _ v 4
  have hversion : reg u Key.fwVersion = reg s Key.fwVersion := reg_setReg_ne _ _ (by decide)
  have hsvn : reg u Key.fwSvn = reg s Key.fwSvn := reg_setReg_ne _ _ (by decide)
  rw [hkey, hmeas, hversion, hsvn]
  rfl

/-- The entries an exchange of banks sets. -/
theorem reg_exchangeBanks_of_ne (s : State) {k : Nat} (h : k ∉ [Key.fwVersion, Key.fwSvn, Key.fwEphMask, Key.bootLoaded,
    Key.fwStagedVersion, Key.bootStarts]) : reg (exchangeBanks s) k = reg s k := by
  simp only [List.mem_cons, List.not_mem_nil, or_false, not_or] at h
  obtain ⟨hversion, hsvn, heph, hloaded, hstaged, hstarts⟩ := h
  simp only [exchangeBanks, reg_deriveAlias, reg_bump32, hstarts, if_false, reg_setReg, hstaged, hloaded, heph, hsvn, hversion]
  rfl

theorem reg_exchangeBanks_starts (s : State) : reg (exchangeBanks s) Key.bootStarts = stick32 (reg s Key.bootStarts + 1) := by
  simp only [exchangeBanks, reg_deriveAlias, reg_bump32, if_true]
  simp (disch := decide) only [reg_setReg_ne]
  rfl

theorem exec_verifyComplete_runs {s : State} (t : Nat) (hb : reg s Key.bootState = 2) (hv : verify s = 1)
    (hfirst : s.boot.hasImage = false ∨ s.boot.before = 7) :
    ∃ u, exec (.verifyComplete t) s = .next u ∧ reg u Key.bootState = 3 ∧ reg u Key.bootResult = 1 ∧
      u.boot.running = s.boot.staging ∧ u.boot.staging = s.boot.running ∧ u.boot.hasImage = true ∧
      reg u Key.fwVersion = imgVersion s.boot.staging ∧ reg u Key.bootLoadOwner = 0 ∧
      reg u Key.bootStarts = stick32 (reg s Key.bootStarts + 1) ∧ MemKept s u ∧
      slotOne u = slotZero u ++ [Config.aliasCert (deviceIdKey u) (Config.publicKey
        (Config.deriveKey Config.deviceSecret (measurements u 4))) (reg u Key.fwVersion) (reg u Key.fwSvn)] := by
  refine ⟨_, exec_verifyComplete_first hb hv hfirst, reg_setReg_same _ _ _, ?_, rfl, rfl, rfl, ?_, ?_, ?_, ⟨rfl, rfl, rfl⟩,
    slotOne_deriveAlias _ _⟩
  · rw [reg_setReg_ne _ _ (by decide), reg_exchangeBanks_of_ne _ (by decide), verified, reg_setReg_ne _ _ (by decide), reg_setReg_same]
  · rw [reg_setReg_ne _ _ (by decide), (reg_exchangeBanks _).1]
    rfl
  · rw [reg_setReg_ne _ _ (by decide), reg_exchangeBanks_of_ne _ (by decide), verified, reg_setReg_same]
  · rw [reg_setReg_ne _ _ (by decide), reg_exchangeBanks_starts, verified, reg_setReg_ne _ _ (by decide),
      reg_setReg_ne _ _ (by decide), reg_atTime]

theorem exec_verifyComplete_stages {s : State} (t : Nat) (hb : reg s Key.bootState = 2) (hv : verify s = 1)
    (himage : s.boot.hasImage = true) (hbefore : s.boot.before ≠ 7) :
    ∃ u, exec (.verifyComplete t) s = .next u ∧ u.boot = s.boot ∧
      RegsKept s u [Key.bootResult, Key.bootLoadOwner, Key.fwStagedVersion, Key.bootState] ∧ reg u Key.bootResult = 1 ∧
      reg u Key.bootLoadOwner = 0 ∧ reg u Key.fwStagedVersion = imgVersion s.boot.staging ∧ reg u Key.bootState = 5 ∧
      { u with dict := s.dict, time := s.time } = s := by
  refine ⟨_, exec_verifyComplete_staged hb hv himage hbefore, rfl, fun k hk => ?_, ?_, ?_, ?_, reg_setReg_same _ _ _, rfl⟩
  · simp only [List.mem_cons, List.not_mem_nil, or_false, not_or] at hk
    obtain ⟨hresult, howner, hversion, hstate⟩ := hk
    simp [verified, reg_setReg_ne, hresult, howner, hversion, hstate]
  · simp (disch := decide) [verified, reg_setReg_ne]
  · simp (disch := decide) [verified, reg_setReg_ne]
  · simp (disch := decide) [reg_setReg_ne]

theorem exec_verifyComplete_rejects {s : State} (t : Nat) (hb : reg s Key.bootState = 2) (hv : verify s ≠ 1) :
    ∃ u, exec (.verifyComplete t) s = .next u ∧ reg u Key.bootState = s.boot.before ∧ reg u Key.bootResult = verify s ∧
      u.boot = { s.boot with staging := [] } ∧ reg u Key.bootLoaded = 0 ∧ reg u Key.bootLoadOwner = 0 ∧
      u.alm.next = (s.alm.next + 1) % 2 ^ 32 ∧ u.pwr.alertEnd = max s.pwr.alertEnd (max s.time t + 100000) ∧ MemKept s u := by
  refine ⟨_, exec_verifyComplete_rejected hb hv, ?_⟩
  generalize hr : rejectImage (verified (atTime s t) (verify s)) (verify s) = r
  have hregs {k : Nat} (hk : k ≠ Key.almOverwritten) : reg r k = reg (verified (atTime s t) (verify s)) k :=
    hr ▸ reg_almFull_of_ne _ _ _ _ _ _ _ _ hk
  have hframe : { r with alm := s.alm, dict := (verified (atTime s t) (verify s)).dict } = verified (atTime s t) (verify s) :=
    hr ▸ almFull_frame _ _ _ _ _ _ _ _
  have hnext : r.alm.next = (s.alm.next + 1) % 2 ^ 32 := hr ▸ almFull_next _ _ _ _ _ _ _ _
  have hboot : r.boot = s.boot := (congrArg State.boot hframe :)
  have htime : r.time = max s.time t := (congrArg State.time hframe :)
  have hpwr : r.pwr = s.pwr := (congrArg State.pwr hframe :)
  have hmem : MemKept s r := ⟨(congrArg State.mem hframe :), (congrArg State.host hframe :), (congrArg State.hostPoison hframe :)⟩
  have hdict (k : Nat) := reg_of_dict (alert_dict (setReg (clearStaging r) Key.bootState s.boot.before) s.alm.next) k
  obtain ⟨halertMem, halertHost, halertPoison⟩ := alert_memKept (setReg (clearStaging r) Key.bootState s.boot.before) s.alm.next
  obtain ⟨hm, hh, hp⟩ := hmem
  refine ⟨?_, ?_, ?_, ?_, ?_, ?_, ?_, halertMem.trans hm, halertHost.trans hh, halertPoison.trans hp⟩
  · rw [hdict]
    exact reg_setReg_same _ _ _
  · rw [hdict, reg_setReg_ne _ _ (by decide), reg_clearStaging_of_ne _ (by decide) (by decide), hregs (by decide), verified,
      reg_setReg_ne _ _ (by decide), reg_setReg_same]
  · exact (boot_alert _ _).trans (congrArg (fun b : Boot => { b with staging := [] }) hboot)
  · rw [hdict, reg_setReg_ne _ _ (by decide), clearStaging, reg_setReg_ne _ _ (by decide), reg_setReg_same]
  · rw [hdict, reg_setReg_ne _ _ (by decide), reg_clearStaging_of_ne _ (by decide) (by decide), hregs (by decide), verified,
      reg_setReg_same]
  · rw [alert_alm]
    exact hnext
  · rw [alert_alertEnd]
    exact congrArg₂ (fun (p : Power) t => max p.alertEnd (t + 100000)) hpwr htime

/-- Settles O49: what the chain of checks lets through, and the three ends of VERIFY. -/
theorem imageVerify : Obligations.ImageVerify :=
  ⟨fun _ => verify_eq_one, fun _ t hb => ⟨exec_verifyComplete_runs t hb, exec_verifyComplete_stages t hb,
    exec_verifyComplete_rejects t hb⟩⟩

end Sys2Proof.Scope

namespace Sys2Proof.Scope
open Sys2Proof Sys2Proof.Machine Sys2Proof.Machine.Claim

/-! ## The primary mailbox and DOE (R406, R408) -/

theorem mailboxBase_range : 0x40000 ≤ mailboxBase ∧ mailboxBase + 8 < 0x60000 ∧ mailboxBase % 4 = 0 := by
  unfold mailboxBase
  omega

section
variable {s : State} (hlink : 2 ≤ reg s Key.cxlLinkState) (hready : s.cxl.ready = true)
include hlink hready

theorem primary_of_ready (go : State → State) : primary s go = go s := if_pos ⟨hlink, hready⟩

theorem exec_getTimestamp (t : Nat) : exec (.getTimestamp t) s = .next (send (atTime s t)
    (.mailbox 0 (leBytes 8 (s.cxl.stamp + (max s.time t - s.cxl.stampAt))))) :=
  congrArg Host.Outcome.next (primary_of_ready hlink hready _)

theorem exec_setTimestamp (v t : Nat) : exec (.setTimestamp v t) s = .next (send (setStamp (atTime s t) v) (.mailbox 0 [])) :=
  congrArg Host.Outcome.next (primary_of_ready hlink hready _)

/-- A timestamp runs on from the value it was set to. -/
theorem exec_getTimestamp_of_set {v t t2 : Nat} (hv : v < 2 ^ 64) (ht : max s.time t ≤ t2) :
    exec (.getTimestamp t2) (send (setStamp (atTime s t) v) (.mailbox 0 [])) = .next (send (atTime (send (setStamp (atTime s t) v)
      (.mailbox 0 [])) t2) (.mailbox 0 (leBytes 8 (v + (t2 - max s.time t))))) := by
  have hnow : (send (setStamp (atTime s t) v) (.mailbox 0 [])).cxl.stamp +
      (max (send (setStamp (atTime s t) v) (.mailbox 0 [])).time t2 - (send (setStamp (atTime s t) v) (.mailbox 0 [])).cxl.stampAt) =
      v + (t2 - max s.time t) := congrArg₂ (fun x y => x + (y - max s.time t)) (Nat.mod_eq_of_lt hv) (max_eq_right ht)
  rw [exec_getTimestamp (s := send (setStamp (atTime s t) v) (.mailbox 0 [])) hlink hready, hnow]

theorem exec_getLog {off len : Nat} (h : off + len ≤ 20) :
    exec (.getLog off len) s = .next (send s (.mailbox 0 ((effectsLog.drop off).take len))) := by
  have hpart : logPart off len = (0, (effectsLog.drop off).take len) := if_pos h
  refine congrArg Host.Outcome.next ((primary_of_ready hlink hready _).trans ?_)
  rw [hpart]

theorem exec_cxlTableAccess {i : Nat} {e : List Byte} (h : (cdatHeader :: cdatEntries)[i]? = some e) :
    exec (.cxlTableAccess i) s = .next (send s (.doe (leBytes 2 0 ++ leBytes 2 (if i < 5 then i + 1 else 0xFFFF) ++ e))) := by
  refine congrArg Host.Outcome.next ((primary_of_ready hlink hready _).trans ?_)
  have hmore : (i + 1 < (cdatHeader :: cdatEntries).length) = (i < 5) := propext Nat.succ_lt_succ_iff
  dsimp only
  rw [h]
  simp only [hmore]

/-- An access to the first two words of the mailbox's registers reaches them. -/
theorem exec_mailboxWord {o : Nat} (ho : o = mailboxBase ∨ o = mailboxBase + 4) (wr : Option Nat) (t : Nat) :
    exec (.ignoredRegisterAccess o 4 ⟨wr, t⟩) s = .next (devAccess (atTime s t) o (wr.map (· % 2 ^ 32))) := by
  obtain ⟨hlow, hhigh, hal⟩ := mailboxBase_range
  rw [exec_access hlink hready (by omega)]
  exact congrArg Host.Outcome.next ((if_neg (by omega)).trans (if_pos (by omega)))

theorem exec_mailboxControl {v : Nat} (t : Nat) (hv : v < 2 ^ 32) (hodd : v % 2 = 1) :
    exec (.ignoredRegisterAccess (mailboxBase + 4) 4 ⟨some v, t⟩) s = .next (runMailbox (setDev (atTime s t) (mailboxBase + 4) v)) := by
  have hwr : (some v).map (· % 2 ^ 32) = some v := congrArg some (Nat.mod_eq_of_lt hv)
  have hin : inMailbox (mailboxBase + 4) = true := by simp [inMailbox, mailboxSpan]
  rw [exec_mailboxWord hlink hready (.inr rfl), hwr]
  refine congrArg Host.Outcome.next ((if_neg ?_).trans (if_pos ⟨rfl, hodd⟩))
  simp [devDefined, devReadOnly, hin]

theorem exec_mailboxCaps (t : Nat) (h : Tab.get 0 s.cxl.regs mailboxBase = 0) :
    exec (.ignoredRegisterAccess mailboxBase 4 ⟨none, t⟩) s = .next (send (atTime s t) (.register 12)) := by
  have hin : inMailbox mailboxBase = true := by simp [inMailbox, mailboxSpan]
  have hword : devWord (atTime s t) mailboxBase = 12 := by
    simp [devWord, devPowerUp, hin, h]
  rw [exec_mailboxWord hlink hready (.inl rfl)]
  refine congrArg Host.Outcome.next ((if_neg ?_).trans ?_)
  · simp [devDefined, hin]
  · exact congrArg (fun w => send (atTime s t) (.register w)) hword

end

/-- An opcode R406 does not list. -/
theorem mailboxCommand_unlisted (s : State) {op : Nat} (pl : List Byte) (h : op ∉ [0x0300, 0x0301, 0x0400, 0x0401, 0xC000]) :
    mailboxCommand s op pl = (s, 3, []) := by
  unfold mailboxCommand
  split
  case h_6 => rfl
  all_goals simp at h

/-! ## SPDM (R468 to R470) -/

section
variable (s : State) (req : List Byte) (o : Out)

theorem reg_spdmStep_sessions : reg (send (spdmStep s req) o) Key.secSpdmSessions ≤ 4 := by
  have hset : reg (send (spdmStep s req) o) Key.secSpdmSessions = Config.sessionsAfter s.fresh req % 5 := reg_setReg_same _ _ _
  omega

theorem regsKept_spdmStep : RegsKept s (send (spdmStep s req) o) [Key.secSpdmSessions] :=
  fun _ hk => reg_setReg_ne _ _ (List.ne_of_not_mem_cons hk)

end

/-- Nothing waits for an unbind or a stream: IDE_KM moves the streams alone. -/
theorem dict_ideStep (s : State) (ide : Nat) (hheld : s.cxl.held = []) (hbound : ∀ e ∈ s.cxl.apts, e.2.state ≠ .unbinding) :
    (ideStep s ide).dict = (setReg s Key.cxlIdeState ide).dict := by
  have hresume : resumeSnoops (setReg s Key.cxlIdeState ide) = setReg s Key.cxlIdeState ide := by
    have hnone : s.cxl.apts.filter (fun e => decide (e.2.state = .unbinding)) = [] := by simpa using hbound
    unfold resumeSnoops
    rw [setReg_cxl, hnone]
    rfl
  have hserve : serveHeld (setReg s Key.cxlIdeState ide) = setReg s Key.cxlIdeState ide := if_pos (by simp [hheld])
  unfold ideStep
  rw [hresume, hserve, markReady_dict]

theorem length_measurement (s : State) (n : Nat) : (measurement s n).length = 48 := by
  unfold measurement
  simp

/-- Settles O44: each command by its own answer, SPDM by what its step and the IDE streams change. -/
theorem primaryMailbox : Obligations.PrimaryMailbox := by
  intro s hlink hready
  refine ⟨fun v t t2 hv ht => ⟨_, exec_setTimestamp hlink hready v t, rfl, rfl, _, exec_getTimestamp_of_set hlink hready hv ht, rfl⟩,
    exec_getTimestamp hlink hready, congrArg Host.Outcome.next (primary_of_ready hlink hready _),
    fun off len h => exec_getLog hlink hready h, fun i => congrArg Host.Outcome.next (primary_of_ready hlink hready _),
    fun i e h => exec_cxlTableAccess hlink hready h, fun v t hv hodd => exec_mailboxControl hlink hready t hv hodd,
    fun op pl h => mailboxCommand_unlisted s pl h, fun t h => exec_mailboxCaps hlink hready t h, fun req => ?_, fun req hm => ?_, rfl, ?_⟩
  · intro v
    have hexec : exec (.spdmRequest true req) s = .next (if reg s Key.secSpdmSessions = 0 then v
        else ideStep v (Config.ideAfter s.fresh req % 4)) :=
      congrArg Host.Outcome.next ((if_pos rfl).trans (primary_of_ready hlink hready _))
    refine ⟨reg_spdmStep_sessions _ _ _, regsKept_spdmStep _ _ _, rfl, rfl, fun h => ?_, fun h => ⟨?_, fun hheld hbound => ?_⟩⟩
    · rw [hexec, if_pos h]
    · rw [hexec, if_neg h]
    · have hdict := dict_ideStep v (Config.ideAfter s.fresh req % 4) hheld hbound
      refine ⟨?_, fun k hk => (reg_of_dict hdict k).trans (reg_setReg_ne _ _ (List.ne_of_not_mem_cons hk))⟩
      rw [reg_of_dict hdict, reg_setReg_same]
      omega
  · exact ⟨_, congrArg Host.Outcome.next ((if_neg Bool.false_ne_true).trans (if_pos hm)), rfl, reg_spdmStep_sessions _ _ _, regsKept_spdmStep _ _ _, rfl⟩
  · intro m hm
    obtain ⟨n, -, rfl⟩ := List.mem_map.mp hm
    exact length_measurement s n

end Sys2Proof.Scope

namespace Sys2Proof.Scope
open Sys2Proof Sys2Proof.Machine Sys2Proof.Machine.Claim

/-! ## Sensors of domains that are off (R449, R454) -/

theorem sensorOn_congr {s t : State} (hrows : t.pwr.rows = s.pwr.rows) (hstate : reg t Key.pwrState = reg s Key.pwrState)
    (hddr : ∀ u, u < 16 → reg t (Key.ddrState + u) = reg s (Key.ddrState + u)) (ss : Nat) : sensorOn t ss = sensorOn s ss := by
  have hdomain (d : Nat) : domainOn t d = domainOn s d := by
    unfold domainOn
    rw [hrows, hstate]
  unfold sensorOn
  simp only [hdomain, hrows, hstate]
  by_cases hss : ss ≤ 0x27
  · by_cases hlow : ss ≤ 0x17
    · simp only [hlow, if_true]
    · rw [hddr _ (by omega)]
  · simp only [hss, if_false]

/-- SEN_STATE of one sensor becomes 3. -/
def sleepSensor (s : State) (ss : Nat) : State :=
  { (setReg s (Key.senState + 256 * ss) 3) with sens := { s.sens with hot := Tab.set 0 s.sens.hot ss 0 } }

theorem sleepSensors_eq (s : State) : sleepSensors s = ((List.range 0x28).filter (fun ss => !sensorOn s ss)).foldl sleepSensor s := rfl

theorem reg_sleepSensor (s : State) (ss k : Nat) : reg (sleepSensor s ss) k = if k = Key.senState + 256 * ss then 3 else reg s k :=
  reg_setReg _ _ _ _

theorem mem_sensorsOff {s : State} {ss : Nat} : ss ∈ (List.range 0x28).filter (fun ss => !sensorOn s ss) ↔ ss < 0x28 ∧ sensorOn s ss = false := by
  simp

theorem reg_sleepSensors_of_ne {s : State} {k : Nat} (h : ∀ ss, ss < 0x28 → sensorOn s ss = false → k ≠ Key.senState + 256 * ss) :
    reg (sleepSensors s) k = reg s k := by
  rw [sleepSensors_eq]
  refine reg_foldl_of_kept (fun ss hss t => ?_) s
  obtain ⟨hlt, hoff⟩ := mem_sensorsOff.mp hss
  rw [reg_sleepSensor, if_neg (h ss hlt hoff)]

/-- A sensor put to sleep stays asleep while others are. -/
theorem reg_foldl_sleepSensor_of_mem {xs : List Nat} {ss : Nat} (h : ss ∈ xs) (s : State) :
    reg (xs.foldl sleepSensor s) (Key.senState + 256 * ss) = 3 := by
  induction xs generalizing s with
  | nil => cases h
  | cons x xs ih =>
    rw [List.foldl_cons]
    by_cases hlater : ss ∈ xs
    · exact ih hlater _
    · have hx : ss = x := (List.mem_cons.mp h).resolve_right hlater
      rw [reg_foldl_of_kept fun y hy t => ?_, reg_sleepSensor, if_pos (by rw [hx])]
      rw [reg_sleepSensor, if_neg]
      have : ss ≠ y := fun he => hlater (he ▸ hy)
      omega

theorem reg_sleepSensors_off {s : State} {ss : Nat} (hss : ss < 0x28) (hoff : sensorOn s ss = false) :
    reg (sleepSensors s) (Key.senState + 256 * ss) = 3 := by
  rw [sleepSensors_eq]
  exact reg_foldl_sleepSensor_of_mem (mem_sensorsOff.mpr ⟨hss, hoff⟩) s

/-- Sleeping sensors change SEN_STATE and the counts of samples at a trip alone. -/
theorem sleepSensors_rest (s : State) : { sleepSensors s with dict := s.dict, sens := s.sens } = s := by
  rw [sleepSensors_eq]
  generalize (List.range 0x28).filter (fun ss => !sensorOn s ss) = xs
  induction xs generalizing s with
  | nil => rfl
  | cons x xs ih => exact congrArg (fun t : State => { t with dict := s.dict, sens := s.sens }) (ih (sleepSensor s x))

/-- A register that is no SEN_STATE is none that sleep changes. -/
theorem reg_sleepSensors_of_group {s : State} {k : Nat} (h : k < Key.senState ∨ Key.senState + 256 * 0x28 ≤ k) :
    reg (sleepSensors s) k = reg s k := reg_sleepSensors_of_ne fun ss hss _ => by omega

@[simp] theorem sensorOn_sleepSensors (s : State) (ss : Nat) : sensorOn (sleepSensors s) ss = sensorOn s ss :=
  sensorOn_congr (congrArg Power.rows (sleepSensors_frame s).1) (reg_sleepSensors_of_group (.inl (by decide)))
    (fun u hu => reg_sleepSensors_of_group (.inl (Nat.lt_of_lt_of_le (Nat.add_lt_add_left hu _) (by decide)))) ss

/-- Entries kept up to the sleep of sensors. -/
theorem asleepKept_sleepSensors {s u : State} {ks : List Nat} (h : RegsKept s u ks) : AsleepKept s (sleepSensors u) ks := by
  refine ⟨fun k hk hoff => (reg_sleepSensors_of_ne fun ss hss hs => ?_).trans (h k hk), fun ss hss hoff => ?_⟩
  · exact hoff ss hss (by rwa [sensorOn_sleepSensors])
  · exact reg_sleepSensors_off hss (by rwa [sensorOn_sleepSensors] at hoff)

/-! ## Entries that return to their power-up value (R427, R516) -/

theorem get_dropKeys {α : Type} (d : α) (p : Nat → Bool) (t : Tab α) (x : Nat) :
    Tab.get d (Tab.dropKeys p t) x = if p x then d else Tab.get d t x := by
  induction t with
  | nil => simp [Tab.dropKeys, Tab.get]
  | cons e t ih =>
    obtain ⟨k, v⟩ := e
    unfold Tab.dropKeys at ih ⊢
    by_cases hk : p k = true
    · rw [List.filter_cons_of_neg (by simp [hk]), ih]
      by_cases hx : x = k
      · simp [hx, hk]
      · simp [Tab.get, hx]
    · rw [List.filter_cons_of_pos (by simp [hk])]
      by_cases hx : x = k
      · simp [Tab.get, hx, hk]
      · simp [Tab.get, hx, ih]

/-- A reset of the domains returns an entry to its power-up value (R516). -/
def resetsEntry (k : Nat) : Bool :=
  decide (domainOf (keyGroup k) ≠ 0) && k != Key.mbxBindLocked &&
    (decide (Key.queueEnable ≤ k) && decide (k < Key.queueEnable + 256 * 64) && decide ((k - Key.queueEnable) % 256 = 0) ||
     (match entryOf k with
      | some e => e.acc == 1 || e.acc == 4
      | none => false))

theorem dict_resetEntries (s : State) : (resetEntries s).dict = Tab.dropKeys resetsEntry s.dict := rfl

theorem reg_resetEntries (s : State) (k : Nat) : reg (resetEntries s) k = if resetsEntry k then Machine.powerUp k else reg s k := by
  unfold reg
  rw [dict_resetEntries, get_dropKeys]

theorem resetsEntry_of_management {k : Nat} (h : domainOf (keyGroup k) = 0) : resetsEntry k = false := by
  simp [resetsEntry, h]

/-- What a reset of every domain but management leaves before its sensors sleep. -/
def droppedDomains (s : State) : State :=
  { State.reset with
    pending := s.pending, time := s.time, fresh := s.fresh, out := s.out, dict := (resetEntries s).dict, host := s.host
    hostPoison := s.hostPoison, srv := s.srv, alm := s.alm, boot := { s.boot with memReady := false }
    sens := s.sens
    pwr := { s.pwr with
      rows := 0, down := [], raising := false, target := none, stopping := false, stage := 0, deep := 0, after := none
      wakeHeld := false, freezeDue := none, throttle := 0 }
    err := s.err
    mbx := (List.range 64).map (fun c => (c, { expired := true })) }

theorem dropDomains_eq (s : State) : dropDomains s = sleepSensors (droppedDomains s) := rfl

/-- A register of the management domain that is no SEN_STATE keeps its value when the domains go. -/
theorem reg_dropDomains_of_management (s : State) {k : Nat} (h : domainOf (keyGroup k) = 0)
    (hk : k < Key.senState ∨ Key.senState + 256 * 0x28 ≤ k) : reg (dropDomains s) k = reg s k := by
  rw [dropDomains_eq, reg_sleepSensors_of_group hk]
  exact (reg_resetEntries s k).trans (if_neg (by simp [resetsEntry_of_management h]))

end Sys2Proof.Scope

namespace Sys2Proof.Scope
open Sys2Proof Sys2Proof.Machine Sys2Proof.Machine.Claim

/-! ## What a sensor reports (R454) -/

theorem signed_unsigned_of_range {v : Int} (hlo : -2 ^ 31 ≤ v) (hhi : v < 2 ^ 31) : signed 32 (unsigned 32 v) = v := by
  unfold signed unsigned
  dsimp only
  split <;> omega

theorem signed_range (n : Nat) : -2 ^ 31 ≤ signed 32 n ∧ signed 32 n < 2 ^ 31 := by
  unfold signed
  dsimp only
  split <;> omega

/-- The largest of some readings. -/
theorem foldl_max_eq {vs : List Int} {v a : Int} (ha : a ≤ v) (hle : ∀ x ∈ vs, x ≤ v) (hv : a = v ∨ v ∈ vs) : vs.foldl max a = v := by
  induction vs generalizing a with
  | nil => exact hv.resolve_right List.not_mem_nil
  | cons x vs ih =>
    have hx : x ≤ v := hle x List.mem_cons_self
    refine ih (max_le ha hx) (fun y hy => hle y (List.mem_cons_of_mem x hy)) ?_
    obtain rfl | hv := hv
    · exact .inl (max_eq_left hx)
    · obtain rfl | hv := List.mem_cons.mp hv
      · exact .inl (max_eq_right ha)
      · exact .inr hv

theorem sensorValue_of_reads {ss : Nat} {vs : List Int} {v : Int} (h : ReadsAs ss vs v) (s : State) : sensorValue ss vs s = (v, s) := by
  obtain ⟨hss, hmem, hle⟩ | ⟨hss, hne, hsum⟩ := h
  · refine (if_neg (by omega)).trans ?_
    have hhead : vs.headD 0 ∈ vs := by
      cases vs with
      | nil => cases hmem
      | cons x vs => exact List.mem_cons_self
    rw [foldl_max_eq (hle _ hhead) hle (.inr hmem)]
  · have hlen : 1 ≤ vs.length := List.length_pos_of_ne_nil hne
    have hn : max 1 (vs.length : Int) = vs.length := max_eq_right (by omega)
    refine (if_pos (by omega)).trans ?_
    dsimp only
    rw [hn, hsum, Int.mul_ediv_cancel _ (by omega), Int.mul_emod_left, if_pos rfl]

/-- A mean that is not exact is one of the two numbers beside it (log 158). -/
theorem sensorValue_mean {ss : Nat} {vs : List Int} (hss : ss < 3) (hne : vs ≠ []) (hrange : ∀ x ∈ vs, -2 ^ 31 ≤ x ∧ x < 2 ^ 31 - 1)
    (s : State) : ∃ v f, sensorValue ss vs s = (v, { s with fresh := f }) ∧ -2 ^ 31 ≤ v ∧ v < 2 ^ 31 ∧
      (vs.length : Int) * (v - 1) < vs.sum ∧ vs.sum < (vs.length : Int) * (v + 1) := by
  have hlen : 1 ≤ vs.length := List.length_pos_of_ne_nil hne
  have hn : max 1 (vs.length : Int) = vs.length := max_eq_right (by omega)
  have hlo : (vs.length : Int) * -2 ^ 31 ≤ vs.sum := by
    rw [← nsmul_eq_mul]
    exact List.card_nsmul_le_sum vs _ fun x hx => (hrange x hx).1
  have hhi : vs.sum ≤ (vs.length : Int) * (2 ^ 31 - 2) := by
    rw [← nsmul_eq_mul]
    exact List.sum_le_card_nsmul vs _ fun x hx => Int.le_sub_one_of_lt (hrange x hx).2
  obtain ⟨q, hq⟩ : ∃ q, q = vs.sum / (vs.length : Int) := ⟨_, rfl⟩
  have hlow : (vs.length : Int) * q ≤ vs.sum := hq ▸ Int.mul_ediv_self_le (by omega)
  have hhigh : vs.sum < (vs.length : Int) * (q + 1) := by
    rw [hq, mul_add, mul_one]
    exact Int.lt_mul_ediv_self_add (by omega)
  have hqlo : -2 ^ 31 ≤ q := by
    have := lt_of_mul_lt_mul_left (hlo.trans_lt hhigh) (by omega)
    omega
  have hqhi : q ≤ 2 ^ 31 - 2 := le_of_mul_le_mul_left (hlow.trans hhi) (by omega)
  have hval : sensorValue ss vs s = if vs.sum % (vs.length : Int) = 0 then (q, s)
      else (q + (Config.freeValue s.fresh % 2 : Nat), { s with fresh := s.fresh + 1 }) := by
    refine (if_pos (by omega)).trans ?_
    dsimp only
    rw [hn, ← hq]
    rfl
  by_cases hexact : vs.sum % (vs.length : Int) = 0
  · refine ⟨q, s.fresh, hval.trans (if_pos hexact), hqlo, by omega, ?_, hhigh⟩
    rw [mul_sub, mul_one]
    omega
  · have hfree := Nat.mod_lt (Config.freeValue s.fresh) (show 0 < 2 by decide)
    refine ⟨_, _, hval.trans (if_neg hexact), by omega, by omega, ?_, hhigh.trans_le ?_⟩
    · have hstrict : (vs.length : Int) * q < vs.sum := by
        refine lt_of_le_of_ne hlow fun h => hexact ?_
        rw [← h]
        exact Int.mul_emod_right _ _
      refine (mul_le_mul_of_nonneg_left ?_ (by omega)).trans_lt hstrict
      omega
    · refine mul_le_mul_of_nonneg_left ?_ (by omega)
      omega

/-! ## A sample (R449, R455) -/

/-- Samples at the sensor's trip in a row, this one among them. -/
def tripCount (s : State) (ss : Nat) (x : Int) : Nat :=
  match tripAt ss with
  | some l => if l ≤ x then Tab.get 0 s.sens.hot ss + 1 else 0
  | none => 0

/-- Value, peak and the count of samples at the trip are noted. -/
def sampled (s : State) (ss : Nat) (x : Int) : State :=
  let u := setReg s (Key.senValue + 256 * ss) (unsigned 32 x)
  let u := setReg u (Key.senValue + 256 * ss + 3) (unsigned 32 (max x (signed 32 (reg u (Key.senValue + 256 * ss + 3)))))
  { u with sens := { u.sens with hot := Tab.set 0 u.sens.hot ss (tripCount s ss x) } }

/-- The second sample at a trip. -/
def tripped (s : State) (ss : Nat) (x : Int) (old : Nat) : State :=
  let hbm := decide (8 ≤ ss) && decide (ss ≤ 0x0F)
  let u := setReg s (Key.senValue + 256 * ss + 4) 2
  if old ≠ 2 ∨ (hbm = false ∧ u.pwr.thermtrip = false) then
    let u := alm u 0x7C 0x0011 (sensorData ss x ((tripAt ss).getD 0))
    if hbm then u else thermTrip u
  else u

/-- The state of a sensor whose sample does not trip it. -/
def judged (s : State) (ss : Nat) (x lo hi : Int) (old : Nat) : State :=
  if old = 2 ∧ (decide (8 ≤ ss) && decide (ss ≤ 0x0F)) = true ∧ 90000 ≤ x then s
  else if decide (x < lo) || decide (hi < x) then
    let u := setReg s (Key.senValue + 256 * ss + 4) 1
    let last := Tab.get 0 u.sens.warned ss
    if old ≠ 1 ∧ (last = 0 ∨ last + 1000000000 ≤ u.time) then
      let seq := u.alm.next
      let u := alm u 0x7C 0x0010 (sensorData ss x (if x < lo then lo else hi))
      alert { u with sens := { u.sens with warned := Tab.set 0 u.sens.warned ss (max 1 u.time) } } seq
    else u
  else setReg s (Key.senValue + 256 * ss + 4) 0

/-- A sample by whether it is the second at a trip. -/
theorem exec_sensorSample {s u : State} {ss : Nat} {vs : List Int} {v : Int} {t : Nat} (hss : ss < 0x28) (hon : sensorOn s ss = true)
    (hm : s.pwr.managed = true) (hne : vs ≠ []) (hval : sensorValue ss vs (atTime s t) = (v, u)) (hlo : -2 ^ 31 ≤ v) (hhi : v < 2 ^ 31) :
    exec (.sensorSample ss vs t) s = .next (
      if 2 ≤ tripCount u ss v then tripped (sampled u ss v) ss v (reg u (Key.senValue + 256 * ss + 4))
      else judged (sampled u ss v) ss v (signed 32 (reg u (Key.senValue + 256 * ss + 1))) (signed 32 (reg u (Key.senValue + 256 * ss + 2)))
        (reg u (Key.senValue + 256 * ss + 4))) := by
  have hgo : ¬ (0x28 ≤ ss ∨ vs.isEmpty = true ∨ sensorOn s ss = false ∨ s.pwr.managed = false) := by
    simp [Nat.not_le.mpr hss, hne, hon, hm]
  have hexec : exec (.sensorSample ss vs t) s = _ := congrArg Host.Outcome.next (if_neg hgo)
  rw [hexec, hval]
  dsimp only
  rw [signed_unsigned_of_range hlo hhi]
  rfl

/-! ## The entries of a sensor -/

/-- An entry of a sensor is not the counter of entries lost. -/
theorem sensorKey_ne {ss i : Nat} (hss : ss < 0x28) (hi : i < 256) : Key.senValue + 256 * ss + i ≠ Key.almOverwritten := by
  have hlast : Key.senValue + 256 * 0x28 ≤ Key.almOverwritten := by decide
  omega

theorem senState_eq (ss : Nat) : Key.senValue + 256 * ss + 4 = Key.senState + 256 * ss := Nat.add_right_comm _ _ _

section
variable (s : State) {ss : Nat} (x : Int)

theorem reg_sampled_value : reg (sampled s ss x) (Key.senValue + 256 * ss) = unsigned 32 x :=
  (reg_setReg_ne (setReg s (Key.senValue + 256 * ss) (unsigned 32 x)) _ (by omega)).trans (reg_setReg_same _ _ _)

theorem reg_sampled_peak : reg (sampled s ss x) (Key.senValue + 256 * ss + 3) =
    unsigned 32 (max x (signed 32 (reg s (Key.senValue + 256 * ss + 3)))) := by
  have hold : reg (setReg s (Key.senValue + 256 * ss) (unsigned 32 x)) (Key.senValue + 256 * ss + 3) =
      reg s (Key.senValue + 256 * ss + 3) := reg_setReg_ne _ _ (by omega)
  rw [← hold]
  exact reg_setReg_same (setReg s (Key.senValue + 256 * ss) (unsigned 32 x)) _ _

theorem reg_sampled_of_ne {j : Nat} (hvalue : j ≠ Key.senValue + 256 * ss) (hpeak : j ≠ Key.senValue + 256 * ss + 3) :
    reg (sampled s ss x) j = reg s j :=
  (reg_setReg_ne (setReg s (Key.senValue + 256 * ss) (unsigned 32 x)) _ hpeak).trans (reg_setReg_ne _ _ hvalue)

variable {x}

/-- Value and peak read as numbers. -/
theorem signed_sampled (hlo : -2 ^ 31 ≤ x) (hhi : x < 2 ^ 31) :
    signed 32 (reg (sampled s ss x) (Key.senValue + 256 * ss)) = x ∧
      signed 32 (reg (sampled s ss x) (Key.senValue + 256 * ss + 3)) = max x (signed 32 (reg s (Key.senValue + 256 * ss + 3))) := by
  obtain ⟨hpeaklo, hpeakhi⟩ := signed_range (reg s (Key.senValue + 256 * ss + 3))
  rw [reg_sampled_value, reg_sampled_peak]
  exact ⟨signed_unsigned_of_range hlo hhi, signed_unsigned_of_range (by omega) (by omega)⟩

end

/-! ## A sample that does not trip its sensor -/

section
variable (s : State) (ss : Nat) (x lo hi : Int) (old : Nat)

/-- A warning's entry and pulse of ALERT_N leave every other entry. -/
theorem reg_warned (seq unit kind : Nat) (data : List Byte) (w : Sensors) {j : Nat} (hj : j ≠ Key.almOverwritten) :
    reg (alert { alm s unit kind data with sens := w } seq) j = reg s j :=
  (reg_of_dict (alert_dict _ _) j).trans (alm_regsKept s unit kind data j (by simpa using hj))

theorem memKept_warned (seq unit kind : Nat) (data : List Byte) (w : Sensors) :
    MemKept s (alert { alm s unit kind data with sens := w } seq) := by
  obtain ⟨hmem, hhost, hpoison⟩ := alert_memKept { alm s unit kind data with sens := w } seq
  obtain ⟨hmem', hhost', hpoison'⟩ := alm_memKept s unit kind data
  exact ⟨hmem.trans hmem', hhost.trans hhost', hpoison.trans hpoison'⟩

theorem reg_judged_of_ne {j : Nat} (hj : j ≠ Key.senValue + 256 * ss + 4) (hover : j ≠ Key.almOverwritten) :
    reg (judged s ss x lo hi old) j = reg s j := by
  unfold judged
  split
  · rfl
  · split
    · dsimp only
      split
      · rw [reg_warned _ _ _ _ _ _ hover, reg_setReg_ne _ _ hj]
      · exact reg_setReg_ne _ _ hj
    · exact reg_setReg_ne _ _ hj

theorem memKept_judged : MemKept s (judged s ss x lo hi old) := by
  unfold judged
  split
  · exact ⟨rfl, rfl, rfl⟩
  · split
    · dsimp only
      split
      · exact memKept_warned (setReg s _ 1) _ _ _ _ _
      · exact ⟨rfl, rfl, rfl⟩
    · exact ⟨rfl, rfl, rfl⟩

variable {ss x lo hi old}

theorem reg_judged_outside (hss : ss < 0x28) (hout : x < lo ∨ hi < x) (hold : old ≠ 2) :
    reg (judged s ss x lo hi old) (Key.senValue + 256 * ss + 4) = 1 := by
  have hjudged : judged s ss x lo hi old = _ := (if_neg fun h => hold h.1).trans (if_pos (by simpa using hout))
  rw [hjudged]
  dsimp only
  split
  · rw [reg_warned _ _ _ _ _ _ (sensorKey_ne hss (by decide)), reg_setReg_same]
  · exact reg_setReg_same _ _ _

theorem reg_judged_inside (hlo : lo ≤ x) (hhi : x ≤ hi) (hold : old ≠ 2 ∨ x < 90000) :
    reg (judged s ss x lo hi old) (Key.senValue + 256 * ss + 4) = 0 := by
  have hjudged : judged s ss x lo hi old = setReg s (Key.senValue + 256 * ss + 4) 0 :=
    (if_neg fun h => hold.elim (fun h2 => h2 h.1) fun hx => absurd h.2.2 (by omega)).trans (if_neg (by simp [hlo, hhi]))
  rw [hjudged]
  exact reg_setReg_same _ _ _

end

theorem tripCount_of_below {s : State} {ss : Nat} {x : Int} (h : ∀ l, tripAt ss = some l → x < l) : tripCount s ss x = 0 := by
  unfold tripCount
  cases ht : tripAt ss with
  | none => rfl
  | some l => exact if_neg (by have := h l ht; omega)

theorem tripCount_of_hot {s : State} {ss : Nat} {x l : Int} (ht : tripAt ss = some l) (hx : l ≤ x) (hhot : Tab.get 0 s.sens.hot ss = 1) :
    tripCount s ss x = 2 := by
  unfold tripCount
  rw [ht]
  simp [hx, hhot]

theorem exec_sensorSample_below {s : State} {ss : Nat} {vs : List Int} {v : Int} (t : Nat) (hss : ss < 0x28) (hon : sensorOn s ss = true)
    (hm : s.pwr.managed = true) (hlo : -2 ^ 31 ≤ v) (hhi : v < 2 ^ 31) (hreads : ReadsAs ss vs v) (htrip : ∀ l, tripAt ss = some l → v < l) :
    let k := Key.senValue + 256 * ss
    let lo := signed 32 (reg s (k + 1))
    let hi := signed 32 (reg s (k + 2))
    ∃ u, exec (.sensorSample ss vs t) s = .next u ∧ signed 32 (reg u k) = v ∧
      signed 32 (reg u (k + 3)) = max v (signed 32 (reg s (k + 3))) ∧
      (v < lo ∨ hi < v → reg s (k + 4) ≠ 2 → reg u (k + 4) = 1) ∧
      (lo ≤ v → v ≤ hi → (reg s (k + 4) ≠ 2 ∨ v < 90000) → reg u (k + 4) = 0) ∧
      (∀ j, j ≠ k → j ≠ k + 3 → j ≠ k + 4 → j ≠ Key.almOverwritten → reg u j = reg s j) ∧ MemKept s u := by
  intro k lo hi
  have hne : vs ≠ [] := by
    rintro rfl
    obtain ⟨-, hmem, -⟩ | ⟨-, hne, -⟩ := hreads
    · cases hmem
    · exact hne rfl
  have hexec := exec_sensorSample (t := t) hss hon hm hne (sensorValue_of_reads hreads _) hlo hhi
  rw [tripCount_of_below htrip, if_neg (by decide)] at hexec
  obtain ⟨hvalue, hpeak⟩ := signed_sampled (atTime s t) (ss := ss) hlo hhi
  have hover {i : Nat} (hi : i < 256) := sensorKey_ne hss hi
  refine ⟨_, hexec, ?_, ?_, reg_judged_outside _ hss, reg_judged_inside _, fun j hk hk3 hk4 hj => ?_, ?_⟩
  · rw [reg_judged_of_ne _ _ _ _ _ _ (j := k) (by omega) (hover (i := 0) (by decide))]
    exact hvalue
  · rw [reg_judged_of_ne _ _ _ _ _ _ (by omega) (hover (by decide))]
    exact hpeak
  · rw [reg_judged_of_ne _ _ _ _ _ _ hk4 hj, reg_sampled_of_ne _ _ hk hk3, reg_atTime]
  · exact memKept_judged (sampled (atTime s t) ss v) _ _ _ _ _

theorem exec_sensorSample_mean {s : State} {ss : Nat} {vs : List Int} (t : Nat) (hss : ss < 3) (hm : s.pwr.managed = true) (hne : vs ≠ [])
    (hrange : ∀ x ∈ vs, -2 ^ 31 ≤ x ∧ x < 2 ^ 31 - 1) :
    ∃ u v, exec (.sensorSample ss vs t) s = .next u ∧ signed 32 (reg u (Key.senValue + 256 * ss)) = v ∧
      (vs.length : Int) * (v - 1) < vs.sum ∧ vs.sum < (vs.length : Int) * (v + 1) := by
  have hon : sensorOn s ss = true := if_pos (by omega)
  have htrip : tripAt ss = none :=
    (if_neg (by omega)).trans ((if_neg (by omega)).trans (if_neg (by omega)))
  obtain ⟨v, f, hval, hlo, hhi, hlow, hhigh⟩ := sensorValue_mean hss hne hrange (atTime s t)
  have hexec := exec_sensorSample (by omega) hon hm hne hval hlo hhi
  rw [tripCount_of_below (by simp [htrip]), if_neg (by decide)] at hexec
  refine ⟨_, v, hexec, ?_, hlow, hhigh⟩
  rw [reg_judged_of_ne _ _ _ _ _ _ (j := Key.senValue + 256 * ss) (by omega) (sensorKey_ne (i := 0) (by omega) (by decide))]
  exact (signed_sampled _ hlo hhi).1

/-! ## The second sample at a trip (R455, R501) -/

theorem thermTrip_of_clear {s : State} (h : s.pwr.thermtrip = false) : thermTrip s =
    sleepSensors (setReg (setReg { dropDomains s with pwr := { (dropDomains s).pwr with thermtrip := true } } Key.pwrState 0xFF)
      Key.clkPllLocked 0) := if_neg (by simp [h])

theorem domainOn_of_tripped {s : State} (hstate : reg s Key.pwrState = 0xFF) (hrows : s.pwr.rows = 0) {d : Nat} (hd : d ≠ 0) :
    domainOn s d = false := by
  have hneeds : domainRows d ≠ 0 := by
    unfold domainRows
    split <;> simp at hd ⊢
  simp [domainOn, hstate, hrows, hd, hneeds]

/-- The module after THERMTRIP_N: every rail off, memory lost, the Almanac kept. -/
theorem thermTrip_frame {s : State} (h : s.pwr.thermtrip = false) :
    (thermTrip s).pwr.thermtrip = true ∧ (thermTrip s).pwr.rows = 0 ∧ reg (thermTrip s) Key.pwrState = 0xFF ∧ (thermTrip s).mem = {} ∧
      (thermTrip s).alm = s.alm := by
  rw [thermTrip_of_clear h]
  obtain ⟨hpwr, hmem, halm⟩ := sleepSensors_frame (setReg (setReg { dropDomains s with
    pwr := { (dropDomains s).pwr with thermtrip := true } } Key.pwrState 0xFF) Key.clkPllLocked 0)
  obtain ⟨hdpwr, hdmem, hdalm⟩ := sleepSensors_frame (droppedDomains s)
  refine ⟨congrArg Power.thermtrip hpwr, (congrArg Power.rows hpwr).trans (congrArg Power.rows hdpwr), ?_, hmem.trans hdmem,
    halm.trans hdalm⟩
  rw [reg_sleepSensors_of_group (.inl (by decide)), reg_setReg_ne _ _ (by decide), reg_setReg_same]

/-- Die and engine sensors go off with their rails; that of the board's input stays. -/
theorem reg_thermTrip_senState {s : State} (h : s.pwr.thermtrip = false) {ss : Nat} (hss : (3 ≤ ss ∧ ss ≤ 7) ∨ ss = 0x11) :
    reg (thermTrip s) (Key.senState + 256 * ss) = if ss ≤ 7 then 3 else reg s (Key.senState + 256 * ss) := by
  rw [thermTrip_of_clear h]
  generalize hu : setReg (setReg { dropDomains s with pwr := { (dropDomains s).pwr with thermtrip := true } } Key.pwrState 0xFF)
    Key.clkPllLocked 0 = u
  have hstate : reg u Key.pwrState = 0xFF := by
    rw [← hu, reg_setReg_ne _ _ (by decide), reg_setReg_same]
  have hrows : u.pwr.rows = 0 := by
    rw [← hu]
    exact congrArg Power.rows (sleepSensors_frame (droppedDomains s)).1
  obtain hdie | rfl := hss
  · have hoff : sensorOn u ss = false := by
      have hdomain (d : Nat) (hd : d ≠ 0) : domainOn u d = false := domainOn_of_tripped hstate hrows hd
      obtain h6 | h7 : ss ≤ 6 ∨ ss = 7 := by omega
      · exact (if_neg (by omega)).trans ((if_pos h6).trans (hdomain 4 (by decide)))
      · refine (if_neg (by omega)).trans ((if_neg (by omega)).trans ((if_pos h7).trans ?_))
        rw [hdomain 3 (by decide), hdomain 1 (by decide)]
        rfl
    rw [reg_sleepSensors_off (by omega) hoff, if_pos hdie.2]
  · have hother {t : State} (ss' : Nat) (hoff : sensorOn t ss' = false) : Key.senState + 256 * 0x11 ≠ Key.senState + 256 * ss' := by
      have hne : ss' ≠ 0x11 := by
        rintro rfl
        cases hoff
      omega
    rw [reg_sleepSensors_of_ne fun ss' _ hoff => hother ss' hoff, ← hu, reg_setReg_ne _ _ (by decide), reg_setReg_ne _ _ (by decide)]
    exact (reg_sleepSensors_of_ne fun ss' _ hoff => hother ss' hoff).trans
      ((reg_resetEntries s _).trans (if_neg (by simp [resetsEntry_of_management (k := Key.senState + 256 * 0x11) (by decide)])))

section
variable {s : State} {ss : Nat} {x : Int} {old : Nat}

theorem tripped_hbm (hss : 8 ≤ ss ∧ ss ≤ 0xF) (hold : old ≠ 2) : tripped s ss x old =
    alm (setReg s (Key.senValue + 256 * ss + 4) 2) 0x7C 0x0011 (sensorData ss x ((tripAt ss).getD 0)) :=
  (if_pos (.inl hold)).trans (if_pos (by simp [hss]))

theorem tripped_other (hss : ss < 8 ∨ 0xF < ss) (hclear : s.pwr.thermtrip = false) : tripped s ss x old =
    thermTrip (alm (setReg s (Key.senValue + 256 * ss + 4) 2) 0x7C 0x0011 (sensorData ss x ((tripAt ss).getD 0))) := by
  have hhbm : (decide (8 ≤ ss) && decide (ss ≤ 0x0F)) = false := by
    simp only [Bool.and_eq_false_iff, decide_eq_false_iff_not]
    omega
  refine (if_pos (.inr ⟨hhbm, hclear⟩)).trans (if_neg ?_)
  simp [hhbm]

theorem tripped_hbm_spec (s : State) (x : Int) (hss : 8 ≤ ss ∧ ss ≤ 0xF) (hold : old ≠ 2) :
    reg (tripped s ss x old) (Key.senValue + 256 * ss + 4) = 2 ∧ (tripped s ss x old).alm.next = (s.alm.next + 1) % 2 ^ 32 ∧
      MemKept s (tripped s ss x old) := by
  rw [tripped_hbm hss hold]
  refine ⟨?_, almFull_next _ _ _ _ _ _ _ _, alm_memKept (setReg s _ 2) _ _ _⟩
  rw [alm_regsKept _ _ _ _ _ (by simpa using sensorKey_ne (by omega) (by decide)), reg_setReg_same]

theorem tripped_other_spec {s : State} (x : Int) (old : Nat) (hss : (3 ≤ ss ∧ ss ≤ 7) ∨ ss = 0x11) (hclear : s.pwr.thermtrip = false) :
    let u := tripped s ss x old
    reg u (Key.senValue + 256 * ss + 4) = (if ss ≤ 7 then 3 else 2) ∧ u.alm.next = (s.alm.next + 1) % 2 ^ 32 ∧
      u.pwr.thermtrip = true ∧ u.pwr.rows = 0 ∧ reg u Key.pwrState = 0xFF ∧ u.mem = {} := by
  dsimp only
  rw [tripped_other (by omega) hclear]
  generalize hv : alm (setReg s (Key.senValue + 256 * ss + 4) 2) 0x7C 0x0011 (sensorData ss x ((tripAt ss).getD 0)) = v
  have hclear' : v.pwr.thermtrip = false := by
    rw [← hv, (alm_frame _ _ _ _).2.1]
    exact hclear
  have hnext : v.alm.next = (s.alm.next + 1) % 2 ^ 32 := hv ▸ almFull_next _ _ _ _ _ _ _ _
  have hstate : reg v (Key.senState + 256 * ss) = 2 := by
    rw [← senState_eq, ← hv, alm_regsKept _ _ _ _ _ (by simpa using sensorKey_ne (by omega) (by decide)), reg_setReg_same]
  obtain ⟨htrip, hrows, hpwr, hmem, halm⟩ := thermTrip_frame hclear'
  refine ⟨?_, (congrArg Almanac.next halm).trans hnext, htrip, hrows, hpwr, hmem⟩
  rw [senState_eq, reg_thermTrip_senState hclear' hss, hstate]

end

/-- Only dies, stacks and the board's input have a trip (R455). -/
theorem tripAt_range {ss : Nat} {l : Int} (h : tripAt ss = some l) : ((3 ≤ ss ∧ ss ≤ 7) ∨ (8 ≤ ss ∧ ss ≤ 0xF) ∨ ss = 0x11) ∧ 0 ≤ l := by
  unfold tripAt at h
  split at h
  next h7 => exact ⟨.inl h7, by cases h; decide⟩
  next =>
  split at h
  next hF => exact ⟨.inr (.inl hF), by cases h; decide⟩
  next =>
  split at h
  next h11 => exact ⟨.inr (.inr h11), by cases h; decide⟩
  next => cases h

theorem exec_sensorSample_trips {s : State} {ss : Nat} {vs : List Int} {v l : Int} (t : Nat) (hss : ss < 0x28) (hon : sensorOn s ss = true)
    (hm : s.pwr.managed = true) (hhi : v < 2 ^ 31) (hreads : ReadsAs ss vs v) (htrip : tripAt ss = some l) (hl : l ≤ v)
    (hhot : Tab.get 0 s.sens.hot ss = 1) : exec (.sensorSample ss vs t) s =
      .next (tripped (sampled (atTime s t) ss v) ss v (reg s (Key.senValue + 256 * ss + 4))) := by
  have hne : vs ≠ [] := by
    rintro rfl
    obtain ⟨-, hmem, -⟩ | ⟨-, hne, -⟩ := hreads
    · cases hmem
    · exact hne rfl
  have hl0 := (tripAt_range htrip).2
  have hexec := exec_sensorSample (t := t) hss hon hm hne (sensorValue_of_reads hreads _) (by omega) hhi
  rwa [tripCount_of_hot (s := atTime s t) htrip hl hhot, if_pos (by decide)] at hexec

/-! ## The throttle and the inputs (R498, R500, R526) -/

theorem exec_throttleStep (s : State) (t : Nat) : exec (.throttleStep t) s = .next (
    if 50000 < signed 32 (reg s (Key.senValue + 256)) ∨ 1000 * (reg s Key.pwrLimitW : Int) < signed 32 (reg s (Key.senValue + 512)) then
      { atTime s t with pwr := { s.pwr with throttle := min 15 (s.pwr.throttle + 1) } }
    else if 100 * signed 32 (reg s (Key.senValue + 256)) < 95 * 50000 ∧
        100 * signed 32 (reg s (Key.senValue + 512)) < 95 * (1000 * (reg s Key.pwrLimitW : Int)) then
      { atTime s t with pwr := { s.pwr with throttle := s.pwr.throttle - 1 } }
    else atTime s t) := rfl

theorem exec_inputStorm {s : State} {sig t : Nat} (hm : s.pwr.managed = true) (hsig : 1 ≤ sig ∧ sig ≤ 4) : exec (.inputStorm sig t) s =
    .next (alm (if sig = 4 then (wakeLow (atTime s t)).2 else atTime s t) 0xFF 0x0012
      (leBytes 1 sig ++ leBytes 1 (inputLevel (if sig = 4 then (wakeLow (atTime s t)).2 else atTime s t) sig).toNat)) :=
  congrArg Host.Outcome.next (if_pos ⟨hm, hsig⟩)

theorem wakeLow_of_high {s : State} (h : s.pwr.wakeN = true) : wakeLow s = (false, s) := if_pos h

theorem wakeLow_of_fallen {s : State} (h : s.pwr.wakeN = false) :
    (wakeLow s).2 = { s with fresh := s.fresh + 1, pwr := { s.pwr with wakeN := !(Config.freeValue s.fresh % 2 == 1) } } :=
  congrArg Prod.snd (if_neg (by simp [h]))

theorem exec_inputStorm_held {s : State} {sig : Nat} (t : Nat) (hm : s.pwr.managed = true) (hsig : 1 ≤ sig ∧ sig ≤ 4)
    (h : sig ≤ 3 ∨ s.pwr.wakeN = true) : exec (.inputStorm sig t) s =
      .next (alm (atTime s t) 0xFF 0x0012 (leBytes 1 sig ++ leBytes 1 (inputLevel s sig).toNat)) := by
  have hstate : (if sig = 4 then (wakeLow (atTime s t)).2 else atTime s t) = atTime s t := by
    obtain h3 | hw := h
    · exact if_neg (by omega)
    · rw [wakeLow_of_high (s := atTime s t) hw, ite_self]
  rw [exec_inputStorm hm hsig, hstate]
  rfl

theorem exec_inputStorm_open {s : State} (t : Nat) (hm : s.pwr.managed = true) (hw : s.pwr.wakeN = false) :
    ∃ level : Bool, exec (.inputStorm 4 t) s =
      .next (alm { atTime s t with fresh := s.fresh + 1, pwr := { s.pwr with wakeN := level } } 0xFF 0x0012
        (leBytes 1 4 ++ leBytes 1 level.toNat)) := by
  refine ⟨!(Config.freeValue s.fresh % 2 == 1), (exec_inputStorm hm (by decide)).trans ?_⟩
  rw [if_pos rfl, wakeLow_of_fallen (s := atTime s t) hw]
  rfl

/-- Settles O54: a sample by what it reads and whether it trips, the throttle and a storm by their levels. -/
theorem sensorsAndInputs : Obligations.SensorsAndInputs := by
  refine ⟨fun s ss vs v t hss hon hm hlo hhi hreads htrip => exec_sensorSample_below t hss hon hm hlo hhi hreads htrip,
    fun s ss vs t hss hm hne hrange => exec_sensorSample_mean t hss hm hne hrange,
    fun s ss vs v t l hss hon hm hhi hreads htrip hl hhot => ?_, fun s t => ⟨fun h => ?_, fun hcur hpow => ?_⟩,
    fun s sig t hm h1 h4 => ⟨exec_inputStorm_held t hm ⟨h1, h4⟩, ?_⟩⟩
  · have hexec := exec_sensorSample_trips t hss hon hm hhi hreads htrip hl hhot
    refine ⟨fun h8 hF hold => ?_, fun hnot hclear => ?_⟩
    · obtain ⟨hstate, hnext, hkept⟩ := tripped_hbm_spec (sampled (atTime s t) ss v) v ⟨h8, hF⟩ hold
      exact ⟨_, hexec, hstate, hnext, hkept⟩
    · obtain ⟨hrange, -⟩ := tripAt_range htrip
      exact ⟨_, hexec, tripped_other_spec (s := sampled (atTime s t) ss v) v _ (by omega) hclear⟩
  · exact (exec_throttleStep s t).trans (congrArg Host.Outcome.next (if_pos h))
  · exact (exec_throttleStep s t).trans (congrArg Host.Outcome.next ((if_neg (by omega)).trans (if_pos ⟨hcur, hpow⟩)))
  · rintro rfl hw
    exact exec_inputStorm_open t hm hw

end Sys2Proof.Scope

namespace Sys2Proof.Scope
open Sys2Proof Sys2Proof.Machine Sys2Proof.Machine.Claim

/-! ## What sleeping sensors leave -/

section
variable (s : State)

@[simp] theorem sleepSensors_pwr : (sleepSensors s).pwr = s.pwr := (sleepSensors_frame s).1
@[simp] theorem sleepSensors_mem : (sleepSensors s).mem = s.mem := (sleepSensors_frame s).2.1
@[simp] theorem sleepSensors_alm : (sleepSensors s).alm = s.alm := (sleepSensors_frame s).2.2
@[simp] theorem sleepSensors_boot : (sleepSensors s).boot = s.boot := (congrArg State.boot (sleepSensors_rest s) :)
@[simp] theorem sleepSensors_host : (sleepSensors s).host = s.host := (congrArg State.host (sleepSensors_rest s) :)
@[simp] theorem sleepSensors_hostPoison : (sleepSensors s).hostPoison = s.hostPoison :=
  (congrArg State.hostPoison (sleepSensors_rest s) :)
@[simp] theorem sleepSensors_objs : (sleepSensors s).objs = s.objs := (congrArg State.objs (sleepSensors_rest s) :)
@[simp] theorem sleepSensors_slots : (sleepSensors s).slots = s.slots := (congrArg State.slots (sleepSensors_rest s) :)
@[simp] theorem sleepSensors_queues : (sleepSensors s).queues = s.queues := (congrArg State.queues (sleepSensors_rest s) :)
@[simp] theorem sleepSensors_work : (sleepSensors s).work = s.work := (congrArg State.work (sleepSensors_rest s) :)
@[simp] theorem sleepSensors_err : (sleepSensors s).err = s.err := (congrArg State.err (sleepSensors_rest s) :)
@[simp] theorem sleepSensors_mbx : (sleepSensors s).mbx = s.mbx := (congrArg State.mbx (sleepSensors_rest s) :)
@[simp] theorem sleepSensors_dir : (sleepSensors s).dir = s.dir := (congrArg State.dir (sleepSensors_rest s) :)
@[simp] theorem sleepSensors_fab : (sleepSensors s).fab = s.fab := (congrArg State.fab (sleepSensors_rest s) :)
@[simp] theorem sleepSensors_red : (sleepSensors s).red = s.red := (congrArg State.red (sleepSensors_rest s) :)

end

/-- A state with the registers and rails of another has its sensors asleep. -/
theorem AsleepKept.congr {s u v : State} {ks : List Nat} (h : AsleepKept s u ks) (hdict : v.dict = u.dict) (hrows : v.pwr.rows = u.pwr.rows) :
    AsleepKept s v ks := by
  have hreg (k : Nat) : reg v k = reg u k := reg_of_dict hdict k
  have hon (ss : Nat) : sensorOn v ss = sensorOn u ss := sensorOn_congr hrows (hreg _) (fun _ _ => hreg _) ss
  obtain ⟨hkept, hoff⟩ := h
  refine ⟨fun k hk hsen => (hreg k).trans (hkept k hk fun ss hss h => hsen ss hss ((hon ss).trans h)), fun ss hss h => ?_⟩
  rw [hreg]
  exact hoff ss hss ((hon ss).symm.trans h)

/-! ## Self-refresh (R504, R509) -/

/-- One memory unit whose state is `a` goes to `b`. -/
def refreshUnit (base a b : Nat) (s : State) (u : Nat) : State := if reg s (base + u) = a then setReg s (base + u) b else s

theorem reg_refreshUnit (base a b : Nat) (s : State) (u k : Nat) :
    reg (refreshUnit base a b s u) k = if k = base + u ∧ reg s k = a then b else reg s k := by
  unfold refreshUnit
  by_cases hk : k = base + u
  · subst hk
    split <;> simp_all
  · split <;> simp [hk, reg_setReg]

theorem reg_foldl_refreshUnit {a b : Nat} (hab : a ≠ b) (base : Nat) (us : List Nat) (s : State) (k : Nat) :
    reg (us.foldl (refreshUnit base a b) s) k = if (∃ u ∈ us, k = base + u) ∧ reg s k = a then b else reg s k := by
  induction us generalizing s with
  | nil => simp
  | cons u us ih =>
    rw [List.foldl_cons, ih, reg_refreshUnit]
    by_cases hk : k = base + u
    · subst hk
      by_cases ha : reg s (base + u) = a
      · simp [ha, Ne.symm hab]
      · simp [ha]
    · simp [hk]

theorem foldl_refreshUnit_eq (base a b : Nat) (us : List Nat) (s : State) :
    us.foldl (refreshUnit base a b) s = { s with dict := (us.foldl (refreshUnit base a b) s).dict } := by
  induction us generalizing s with
  | nil => rfl
  | cons u us ih =>
    have hstep (d : Tab Nat) : { refreshUnit base a b s u with dict := d } = { s with dict := d } := by
      unfold refreshUnit
      split <;> rfl
    exact (ih (refreshUnit base a b s u)).trans (hstep _)

theorem selfRefresh_on (s : State) : selfRefresh s true =
    (List.range 16).foldl (refreshUnit Key.ddrState 1 2) ((List.range 8).foldl (refreshUnit Key.hbmState 1 2) s) := rfl

theorem selfRefresh_on_eq (s : State) : selfRefresh s true = { s with dict := (selfRefresh s true).dict } := by
  rw [selfRefresh_on]
  generalize List.range 16 = vs
  generalize List.range 8 = us
  generalize hu : us.foldl (refreshUnit Key.hbmState 1 2) s = u
  have hus : u = { s with dict := u.dict } := hu ▸ foldl_refreshUnit_eq Key.hbmState 1 2 us s
  have hother (d : Tab Nat) : { u with dict := d } = { s with dict := d } := congrArg (fun t : State => { t with dict := d }) hus
  exact (foldl_refreshUnit_eq Key.ddrState 1 2 vs u).trans (hother _)

/-- Self-refresh changes the memory units' states alone. -/
theorem selfRefresh_on_frame (s : State) : let u := selfRefresh s true
    u.pwr = s.pwr ∧ u.work = s.work ∧ u.mem = s.mem ∧ MemKept s u := by
  intro u
  have hu : u = { s with dict := u.dict } := selfRefresh_on_eq s
  rw [hu]
  exact ⟨rfl, rfl, rfl, rfl, rfl, rfl⟩

/-- Memory units that run go into self-refresh. -/
theorem reg_selfRefresh_on (s : State) :
    (∀ i, i < 8 → reg s (Key.hbmState + i) = 1 → reg (selfRefresh s true) (Key.hbmState + i) = 2) ∧
    (∀ i, i < 16 → reg s (Key.ddrState + i) = 1 → reg (selfRefresh s true) (Key.ddrState + i) = 2) ∧
    ∀ k, (∀ i, i < 8 → k ≠ Key.hbmState + i) → (∀ i, i < 16 → k ≠ Key.ddrState + i) → reg (selfRefresh s true) k = reg s k := by
  have happart : Key.hbmState + 16 ≤ Key.ddrState := by decide
  simp only [selfRefresh_on, reg_foldl_refreshUnit (show 1 ≠ 2 by decide), List.mem_range]
  refine ⟨fun i hi h => ?_, fun i hi h => ?_, fun k hh hd => ?_⟩
  · rw [if_neg (fun ⟨⟨u, _, hu⟩, _⟩ => by omega), if_pos ⟨⟨i, hi, rfl⟩, h⟩]
  · have hkept : ¬ ((∃ u, u < 8 ∧ Key.ddrState + i = Key.hbmState + u) ∧ reg s (Key.ddrState + i) = 1) := by
      rintro ⟨⟨u, hu, he⟩, -⟩
      omega
    rw [if_neg hkept, if_pos ⟨⟨i, hi, rfl⟩, h⟩]
  · rw [if_neg (fun ⟨⟨u, hu, he⟩, _⟩ => hd u hu he), if_neg (fun ⟨⟨u, hu, he⟩, _⟩ => hh u hu he)]

/-! ## Ports that park, go dark or send a packet (R340, R490, R509) -/

/-- From `s` to `t` ports have sent and changed: registers below those of the ports, and the rest of the module, are as they were. -/
structure PortsOnly (s t : State) : Prop where
  rest : offPorts t = offPorts s
  regs : ∀ k, k < Key.linkState → reg t k = reg s k

section
variable {s t u : State}

theorem PortsOnly.refl (s : State) : PortsOnly s s := ⟨rfl, fun _ _ => rfl⟩

theorem PortsOnly.trans (h : PortsOnly s t) (g : PortsOnly t u) : PortsOnly s u :=
  ⟨g.rest.trans h.rest, fun k hk => (g.regs k hk).trans (h.regs k hk)⟩

theorem Sends.portsOnly {p : Nat} (h : Sends p s t) : PortsOnly s t := by
  refine ⟨h.rest, fun k hk => h.regs k ?_⟩
  have hcount : Key.linkState < Key.linkTxBytes := by decide
  simp only [List.mem_cons, List.not_mem_nil, or_false, not_or]
  omega

theorem PortsOnly.foldl {f : State → Nat → State} (h : ∀ s p, PortsOnly s (f s p)) (ps : List Nat) (s : State) :
    PortsOnly s (ps.foldl f s) := by
  induction ps generalizing s with
  | nil => exact .refl s
  | cons p ps ih => exact (h s p).trans (ih (f s p))

theorem PortsOnly.memKept (h : PortsOnly s t) : MemKept s t :=
  ⟨(congrArg State.mem h.rest :), (congrArg State.host h.rest :), (congrArg State.hostPoison h.rest :)⟩

theorem PortsOnly.pwr (h : PortsOnly s t) : t.pwr = s.pwr := (congrArg State.pwr h.rest :)

theorem PortsOnly.work (h : PortsOnly s t) : t.work = s.work := (congrArg State.work h.rest :)

end

theorem portsOnly_setPort (s : State) (p : Nat) (x : Port) : PortsOnly s (setPort s p x) := ⟨rfl, fun _ _ => rfl⟩

theorem portsOnly_setLinkState (s : State) (p v : Nat) : PortsOnly s (setReg s (Key.linkState + 256 * p) v) :=
  ⟨rfl, fun _ hk => reg_setReg_ne _ _ (by omega)⟩

theorem portsOnly_sendIdle (s : State) (p : Nat) (nak : Bool) : PortsOnly s (sendIdle s p nak) := (Sends.refl p s).sendIdle.portsOnly

theorem portsOnly_parkPorts (s : State) : PortsOnly s (parkPorts s) :=
  .foldl (fun s p => ((portsOnly_setLinkState s p 7).trans (portsOnly_setPort _ p _)).trans (portsOnly_sendIdle _ p false)) _ s

theorem reg_foldl_setLinkState {ps : List Nat} {p : Nat} (hp : p ∈ ps) (s : State) :
    reg (ps.foldl (fun s p => setReg s (Key.linkState + 256 * p) 0) s) (Key.linkState + 256 * p) = 0 := by
  induction ps generalizing s with
  | nil => cases hp
  | cons q ps ih =>
    rw [List.foldl_cons]
    by_cases hlater : p ∈ ps
    · exact ih hlater _
    · obtain rfl : p = q := (List.mem_cons.mp hp).resolve_right hlater
      rw [reg_foldl_of_kept fun q hq t => reg_setReg_ne t 0 ?_, reg_setReg_same]
      have : p ≠ q := fun he => hlater (he ▸ hq)
      omega

/-- Every port is off in the dark. -/
theorem darkPorts_spec (s : State) : PortsOnly s (darkPorts s) ∧ ∀ p, p < 6 → reg (darkPorts s) (Key.linkState + 256 * p) = 0 := by
  have hsent : PortsOnly s ((upPorts s).foldl (fun s p =>
      sendIdle (setPort s p { portOf s p with parkSet := true, widenSet := true }) p false) s) :=
    .foldl (fun s p => (portsOnly_setPort s p _).trans (portsOnly_sendIdle _ p false)) _ s
  unfold darkPorts
  dsimp only
  generalize (upPorts s).foldl _ s = t at hsent ⊢
  have hoff : PortsOnly t ((List.range 6).foldl (fun s p => setReg s (Key.linkState + 256 * p) 0) t) :=
    .foldl (fun s p => portsOnly_setLinkState s p 0) _ t
  have hzero (p : Nat) (hp : p < 6) := reg_foldl_setLinkState (List.mem_range.mpr hp) t
  generalize (List.range 6).foldl _ t = u at hoff hzero ⊢
  exact ⟨(hsent.trans hoff).trans ⟨rfl, fun _ _ => rfl⟩, fun p hp => hzero p hp⟩

theorem portsOnly_sendCtrl (s : State) (p kind : Nat) : PortsOnly s (sendCtrl s p kind) := by
  unfold sendCtrl
  dsimp only
  split
  · exact .refl s
  · exact (portsOnly_setPort s p _).trans (Sends.refl p _).transmit.portsOnly

/-- A freeze that is entered: its registers, and the power sequencer as it was. -/
theorem enterFreeze_spec (s : State) (cause port : Nat) :
    (enterFreeze s cause port).pwr = s.pwr ∧ reg (enterFreeze s cause port) Key.frzState = 1 ∧
      reg (enterFreeze s cause port) Key.frzCause = cause := by
  unfold enterFreeze
  dsimp only
  have hsent : PortsOnly (dropWatch s) (((List.range 6).filter (memberPort s)).foldl (fun s p => sendCtrl s p ctrlFreeze) (dropWatch s)) :=
    .foldl (fun s p => portsOnly_sendCtrl s p ctrlFreeze) _ _
  generalize ((List.range 6).filter (memberPort s)).foldl (fun s p => sendCtrl s p ctrlFreeze) (dropWatch s) = t at hsent
  refine ⟨hsent.pwr, reg_setReg_same _ _ _, ?_⟩
  rw [reg_setReg_ne _ _ (by decide)]
  change reg (bump32 (setReg (setReg t Key.frzCause cause) Key.frzStatus (port * 2 ^ 24)) Key.frzCount 1) Key.frzCause = cause
  rw [reg_bump32_of_ne _ _ (by decide), reg_setReg_ne _ _ (by decide), reg_setReg_same]

end Sys2Proof.Scope

namespace Sys2Proof.Scope
open Sys2Proof Sys2Proof.Machine Sys2Proof.Machine.Claim

/-! ## Warm reset (R515, R516) -/

/-- The entries of queues a reset of the domains clears, and those it keeps. -/
theorem resetsEntry_queue : ∀ q < 64, resetsEntry (Key.queueEnable + 256 * q) = true ∧ Machine.powerUp (Key.queueEnable + 256 * q) ≠ 1 ∧
    resetsEntry (Key.queueBase + 256 * q) = false := by decide +kernel

theorem chan_free_after_reset : ∀ c < 64,
    (Tab.get ({} : Chan) ((List.range 64).map (fun c => (c, ({ expired := true } : Chan)))) c).state = .free := by decide +kernel

/-- Registers set one after another. -/
def setRegs (s : State) (es : List (Nat × Nat)) : State := es.foldl (fun s e => setReg s e.1 e.2) s

theorem setRegs_eq (es : List (Nat × Nat)) (s : State) : setRegs s es = { s with dict := (setRegs s es).dict } := by
  unfold setRegs
  induction es generalizing s with
  | nil => rfl
  | cons e es ih => exact ih (setReg s e.1 e.2)

theorem reg_setRegs_of_ne {es : List (Nat × Nat)} {k : Nat} (hk : ∀ e ∈ es, k ≠ e.1) (s : State) : reg (setRegs s es) k = reg s k :=
  reg_foldl_of_kept (fun e he t => reg_setReg_ne t e.2 (hk e he)) s

/-- What a warm reset gives the entries of firmware, freeze, reset and power. -/
def warmValues (boot cause : Nat) : List (Nat × Nat) :=
  [(Key.bootState, if boot = 7 then 7 else 0), (Key.bootLoadOwner, 0), (Key.fwStagedVersion, 0), (Key.frzState, 0), (Key.rstCause, cause),
   (Key.pwrState, 0xFF), (Key.clkPllLocked, 0)]

/-- The module between the loss of its domains and the sleep of its sensors in a warm reset. -/
def warmEntries (s : State) (cause : Nat) : State :=
  setRegs { s with err := {}, pwr := { s.pwr with thermtrip := false } } (warmValues (reg s Key.bootState) cause)

theorem warmReset_eq (s : State) :
    warmReset s = sleepSensors (warmEntries (dropDomains s) (if reg s Key.frzState = 4 then 2 else 1)) := rfl

theorem reg_warmEntries (s : State) (cause : Nat) :
    reg (warmEntries s cause) Key.pwrState = 0xFF ∧ reg (warmEntries s cause) Key.clkPllLocked = 0 ∧
    reg (warmEntries s cause) Key.frzState = 0 ∧ reg (warmEntries s cause) Key.rstCause = cause ∧
    reg (warmEntries s cause) Key.bootState = (if reg s Key.bootState = 7 then 7 else 0) ∧
    ∀ k, k ∉ [Key.bootState, Key.bootLoadOwner, Key.fwStagedVersion, Key.frzState, Key.rstCause, Key.pwrState, Key.clkPllLocked] →
      reg (warmEntries s cause) k = reg s k := by
  refine ⟨?_, ?_, ?_, ?_, ?_, fun k hk => ?_⟩
  case refine_6 => 
    refine reg_setRegs_of_ne (fun e he hke => hk ?_) _
    rw [hke]
    exact List.mem_map_of_mem (f := Prod.fst) he
  all_goals simp (disch := decide) only [warmEntries, warmValues, setRegs, List.foldl_cons, List.foldl_nil, reg_setReg_ne, reg_setReg_same]

/-- A register of the warm reset that is no SEN_STATE. -/
theorem reg_warmReset (s : State) {k : Nat} (hk : ∀ ss, ss < 0x28 → k ≠ Key.senState + 256 * ss) :
    reg (warmReset s) k = reg (warmEntries (dropDomains s) (if reg s Key.frzState = 4 then 2 else 1)) k := by
  rw [warmReset_eq]
  exact reg_sleepSensors_of_ne fun ss hss _ => hk ss hss

theorem reg_warmReset_kept (s : State) {k : Nat} (hk : ∀ ss, ss < 0x28 → k ≠ Key.senState + 256 * ss)
    (hset : k ∉ [Key.bootState, Key.bootLoadOwner, Key.fwStagedVersion, Key.frzState, Key.rstCause, Key.pwrState, Key.clkPllLocked]) :
    reg (warmReset s) k = if resetsEntry k then Machine.powerUp k else reg s k := by
  obtain ⟨-, -, -, -, -, hother⟩ := reg_warmEntries (dropDomains s) (if reg s Key.frzState = 4 then 2 else 1)
  rw [reg_warmReset s hk, hother k hset, dropDomains_eq, reg_sleepSensors_of_ne fun ss hss _ => hk ss hss]
  exact reg_resetEntries s k

theorem not_senState_of_low {k : Nat} (h : k < Key.senState) : ∀ ss, ss < 0x28 → k ≠ Key.senState + 256 * ss := fun ss _ => by omega

theorem warmEntries_lost (s : State) (cause : Nat) : let w := warmEntries s cause
    w.mem = s.mem ∧ w.objs = s.objs ∧ w.queues = s.queues ∧ w.work = s.work ∧ w.mbx = s.mbx ∧ w.err = {} := by
  intro w
  have hw : w = { s with dict := w.dict, err := {}, pwr := { s.pwr with thermtrip := false } } := setRegs_eq _ _
  rw [hw]
  exact ⟨rfl, rfl, rfl, rfl, rfl, rfl⟩

theorem warmEntries_kept (s : State) (cause : Nat) : let w := warmEntries s cause
    w.alm = s.alm ∧ w.boot = s.boot ∧ w.host = s.host ∧ w.pwr.rows = s.pwr.rows := by
  intro w
  have hw : w = { s with dict := w.dict, err := {}, pwr := { s.pwr with thermtrip := false } } := setRegs_eq _ _
  rw [hw]
  exact ⟨rfl, rfl, rfl, rfl⟩

theorem dropDomains_lost (s : State) : let d := dropDomains s
    d.mem = {} ∧ d.objs = [] ∧ d.queues = [] ∧ d.work = [] ∧ d.mbx = (droppedDomains s).mbx := by
  intro d
  have hd : d = _ := dropDomains_eq s
  rw [hd, sleepSensors_mem, sleepSensors_objs, sleepSensors_queues, sleepSensors_work, sleepSensors_mbx]
  exact ⟨rfl, rfl, rfl, rfl, rfl⟩

theorem dropDomains_kept (s : State) : let d := dropDomains s
    d.alm = s.alm ∧ d.boot = { s.boot with memReady := false } ∧ d.host = s.host ∧ d.pwr.rows = 0 := by
  intro d
  have hd : d = _ := dropDomains_eq s
  rw [hd, sleepSensors_alm, sleepSensors_boot, sleepSensors_host, sleepSensors_pwr]
  exact ⟨rfl, rfl, rfl, rfl⟩

/-- What the domains lose in a warm reset. -/
theorem warmReset_lost (s : State) : let w := warmReset s
    w.mem = {} ∧ w.objs = [] ∧ w.queues = [] ∧ w.work = [] ∧ w.mbx = (droppedDomains s).mbx ∧ w.err = {} := by
  intro w
  obtain ⟨hmem, hobjs, hqueues, hwork, hmbx⟩ := dropDomains_lost s
  obtain ⟨hmem', hobjs', hqueues', hwork', hmbx', herr⟩ := warmEntries_lost (dropDomains s) (if reg s Key.frzState = 4 then 2 else 1)
  have hw : w = _ := warmReset_eq s
  rw [hw, sleepSensors_mem, sleepSensors_objs, sleepSensors_queues, sleepSensors_work, sleepSensors_mbx, sleepSensors_err]
  exact ⟨hmem'.trans hmem, hobjs'.trans hobjs, hqueues'.trans hqueues, hwork'.trans hwork, hmbx'.trans hmbx, herr⟩

/-- What a warm reset keeps, and the rails. -/
theorem warmReset_kept (s : State) : let w := warmReset s
    w.alm = s.alm ∧ w.boot = { s.boot with memReady := false } ∧ w.host = s.host ∧ w.pwr.rows = 0 := by
  intro w
  obtain ⟨halm, hboot, hhost, hrows⟩ := dropDomains_kept s
  obtain ⟨halm', hboot', hhost', hrows'⟩ := warmEntries_kept (dropDomains s) (if reg s Key.frzState = 4 then 2 else 1)
  have hw : w = _ := warmReset_eq s
  rw [hw, sleepSensors_alm, sleepSensors_boot, sleepSensors_host, sleepSensors_pwr]
  exact ⟨halm'.trans halm, hboot'.trans hboot, hhost'.trans hhost, hrows'.trans hrows⟩

/-- The registers of a warm reset. -/
theorem reg_warmReset_set (s : State) : let w := warmReset s
    reg w Key.pwrState = 0xFF ∧ reg w Key.clkPllLocked = 0 ∧ reg w Key.frzState = 0 ∧
      reg w Key.rstCause = (if reg s Key.frzState = 4 then 2 else 1) ∧ (reg s Key.bootState ≠ 7 → reg w Key.bootState = 0) := by
  obtain ⟨hstate, hpll, hfrz, hcause, hboot, -⟩ := reg_warmEntries (dropDomains s) (if reg s Key.frzState = 4 then 2 else 1)
  have hlow {k : Nat} (hk : k < Key.senState) := reg_warmReset s (not_senState_of_low hk)
  refine ⟨(hlow (by decide)).trans hstate, (hlow (by decide)).trans hpll, (reg_warmReset s fun ss hss => ?_).trans hfrz,
    (hlow (by decide)).trans hcause, fun h7 => ((hlow (by decide)).trans hboot).trans (if_neg ?_)⟩
  · have hafter : Key.senState + 256 * 0x28 ≤ Key.frzState := by decide
    omega
  · rwa [reg_dropDomains_of_management _ (by decide) (.inl (by decide))]

/-- Queues are disabled by a warm reset; their rings stay where they are. -/
theorem reg_warmReset_queue (s : State) {q : Nat} (hq : q < 64) :
    reg (warmReset s) (Key.queueEnable + 256 * q) ≠ 1 ∧ reg (warmReset s) (Key.queueBase + 256 * q) = reg s (Key.queueBase + 256 * q) := by
  have hset : ∀ k ∈ [Key.bootState, Key.bootLoadOwner, Key.fwStagedVersion, Key.frzState, Key.rstCause, Key.pwrState, Key.clkPllLocked],
      k < Key.queueBase ∨ Key.queueEnable + 256 * 64 ≤ k := by decide
  have hsen : Key.queueEnable + 256 * 64 ≤ Key.senState := by decide
  have horder : Key.queueBase ≤ Key.queueEnable := by decide
  have hkept {k : Nat} (hlo : Key.queueBase ≤ k) (hhi : k < Key.queueEnable + 256 * 64) :
      reg (warmReset s) k = if resetsEntry k then Machine.powerUp k else reg s k :=
    reg_warmReset_kept s (not_senState_of_low (hhi.trans_le hsen)) fun hmem => (hset k hmem).elim hlo.not_gt hhi.not_ge
  have henable := hkept (k := Key.queueEnable + 256 * q) (horder.trans (Nat.le_add_right _ _))
    (Nat.add_lt_add_left (by omega) _)
  have hbase := hkept (k := Key.queueBase + 256 * q) (Nat.le_add_right _ _)
    (Nat.add_lt_add_of_le_of_lt horder (by omega))
  obtain ⟨hdrops, hoff, hkeeps⟩ := resetsEntry_queue q hq
  exact ⟨by rwa [henable, if_pos hdrops], hbase.trans (if_neg (by simp [hkeeps]))⟩

theorem reg_warmReset_senValue (s : State) {ss : Nat} (hss : ss < 64) :
    reg (warmReset s) (Key.senValue + 256 * ss) = reg s (Key.senValue + 256 * ss) := by
  have hset : ∀ k ∈ [Key.bootState, Key.bootLoadOwner, Key.fwStagedVersion, Key.frzState, Key.rstCause, Key.pwrState, Key.clkPllLocked],
      k < Key.senValue ∨ Key.senValue + 256 * 64 ≤ k := by decide
  have hsen : Key.senState = Key.senValue + 4 := rfl
  have hdomain : ∀ ss < 64, domainOf (keyGroup (Key.senValue + 256 * ss)) = 0 := by decide +kernel
  refine (reg_warmReset_kept s (fun ss' _ => by omega) fun hmem => ?_).trans (if_neg ?_)
  · have := hset _ hmem
    omega
  · simp [resetsEntry_of_management (hdomain ss hss)]

theorem exec_pwrEnLow {s : State} (t : Nat) (hm : s.pwr.managed = true) (hen : s.pwr.pwrEn = true) : exec (.pwrEnLow t) s =
    .next { warmReset (atTime s t) with pwr := { (warmReset (atTime s t)).pwr with
      pwrEn := false, lowAt := (warmReset (atTime s t)).time } } :=
  congrArg Host.Outcome.next ((if_pos hm).trans (if_pos (.inl hen)))

theorem pwrEnLow_resets (s : State) (t : Nat) (hm : s.pwr.managed = true) (hen : s.pwr.pwrEn = true) :
    ∃ u, exec (.pwrEnLow t) s = .next u ∧ u.pwr.pwrEn = false ∧ u.pwr.rows = 0 ∧ reg u Key.pwrState = 0xFF ∧
      reg u Key.clkPllLocked = 0 ∧ reg u Key.frzState = 0 ∧ reg u Key.rstCause = (if reg s Key.frzState = 4 then 2 else 1) ∧
      (reg s Key.bootState ≠ 7 → reg u Key.bootState = 0) ∧ u.mem = {} ∧ u.objs = [] ∧ u.queues = [] ∧ u.work = [] ∧
      u.alm = s.alm ∧ u.boot.running = s.boot.running ∧ u.boot.cells = s.boot.cells ∧ u.boot.sram = s.boot.sram ∧ u.host = s.host ∧ u.err.fatal = false ∧
      (∀ q, q < 64 → enabled u q = false ∧ reg u (Key.queueBase + 256 * q) = reg s (Key.queueBase + 256 * q)) ∧
      (∀ ss, ss < 64 → reg u (Key.senValue + 256 * ss) = reg s (Key.senValue + 256 * ss)) ∧
      (∀ c, c < 64 → (chanOf u c).state = .free) := by
  refine ⟨_, exec_pwrEnLow t hm hen, ?_⟩
  obtain ⟨hmem, hobjs, hqueues, hwork, hmbx, herr⟩ := warmReset_lost (atTime s t)
  obtain ⟨halm, hboot, hhost, hrows⟩ := warmReset_kept (atTime s t)
  obtain ⟨hstate, hpll, hfrz, hcause, hboots⟩ := reg_warmReset_set (atTime s t)
  have hqueue (q : Nat) (hq : q < 64) := reg_warmReset_queue (atTime s t) hq
  have hsen (ss : Nat) (hss : ss < 64) := reg_warmReset_senValue (atTime s t) hss
  generalize warmReset (atTime s t) = w at *
  refine ⟨rfl, hrows, hstate, hpll, hfrz, hcause, hboots, hmem, hobjs, hqueues, hwork, halm, (congrArg Boot.running hboot :),
    (congrArg Boot.cells hboot :), (congrArg Boot.sram hboot :), hhost, congrArg ErrState.fatal herr,
    fun q hq => ⟨decide_eq_false (hqueue q hq).1, (hqueue q hq).2⟩, hsen, fun c hc => ?_⟩
  exact (congrArg (fun m => (Tab.get ({} : Chan) m c).state) hmbx).trans (chan_free_after_reset c hc)

theorem exec_pwrEnHigh_raises {s : State} (t : Nat) (hm : s.pwr.managed = true) (hen : s.pwr.pwrEn = false) (htrip : s.pwr.thermtrip = false) :
    exec (.pwrEnHigh t) s = .next { atTime s t with pwr := { s.pwr with pwrEn := true, raising := true, rowAt := max s.time t } } :=
  congrArg Host.Outcome.next ((if_pos hm).trans ((if_neg (by simp [hen])).trans (if_neg (by simp [htrip]))))

end Sys2Proof.Scope

namespace Sys2Proof.Scope
open Sys2Proof Sys2Proof.Machine Sys2Proof.Machine.Claim

/-! ## Wake events (R508, R510) -/

theorem exec_autoDusk_of_due {s : State} (t : Nat) (hus : reg s Key.pwrAutoDuskUs ≠ 0) (hnoon : reg s Key.pwrState = 0)
    (hok : powerRefused s 1 false = false) (hdue : s.pwr.idleAt + 1000 * reg s Key.pwrAutoDuskUs ≤ max s.time t) :
    exec (.autoDusk t) s = .next { atTime s t with pwr := { s.pwr with
      target := some 1, stopping := false, stage := 0, deep := 0, wakeHeld := false } } :=
  congrArg Host.Outcome.next (if_pos ⟨hus, hnoon, hok, hdue⟩)

theorem lateFreeze_of_none {s : State} (h : s.pwr.freezeDue = none) : lateFreeze s = s := by
  unfold lateFreeze
  rw [h]

theorem lateFreeze_of_some {s : State} {x : Nat × Nat} (h : s.pwr.freezeDue = some x) :
    lateFreeze s = enterFreeze { s with pwr := { s.pwr with freezeDue := none } } x.1 x.2 := by
  unfold lateFreeze
  rw [h]

/-- A stopped entry no rail or memory action of which has begun. -/
theorem stopEntry_of_noon {s : State} (hnoon : reg s Key.pwrState = 0) (hdeep : s.pwr.deep = 0) :
    stopEntry s = lateFreeze { s with pwr := { s.pwr with target := none, stopping := false, stage := 0 } } :=
  if_pos ⟨hnoon, hdeep⟩

section
variable {s : State} {t : Nat}

theorem exec_wakeEvent_held (hrun : reg s Key.frzState ≠ 0) : exec (.wakeEvent t) s = .next (atTime s t) :=
  congrArg Host.Outcome.next (if_neg fun h => hrun h.2)

theorem exec_wakeEvent_exit (hheld : s.pwr.wakeHeld = true) (hrun : reg s Key.frzState = 0) (htarget : s.pwr.target = none)
    (hlo : 1 ≤ reg s Key.pwrState) (hhi : reg s Key.pwrState ≤ 4) :
    exec (.wakeEvent t) s = .next { atTime s t with pwr := { s.pwr with
      wakeHeld := false, target := some 0, stopping := false, after := none, rowAt := max s.time t, raising := !railsUp s } } := by
  refine congrArg Host.Outcome.next ((if_pos ⟨hheld, hrun⟩).trans ?_)
  dsimp only [atTime_pwr]
  rw [htarget]
  refine (if_neg ?_).trans rfl
  change ¬ (reg s Key.pwrState = 0 ∨ reg s Key.pwrState = 0xFF)
  omega

/-- An entry the wake event has reached: no move that has not begun is left, and nothing follows it. -/
def wakeStopped (s : State) : State :=
  { s with place := { s.place with moves := s.place.moves.filter (fun m => decide (m.state ≠ .planned)) },
           pwr := { s.pwr with wakeHeld := false, after := none } }

theorem exec_wakeEvent_entry {v : Nat} (hheld : s.pwr.wakeHeld = true) (hrun : reg s Key.frzState = 0) (htarget : s.pwr.target = some v)
    (hv : 0 < v) : exec (.wakeEvent t) s = .next (
      if (wakeStopped (atTime s t)).place.moves.isEmpty && reg s Key.pwrState == 0 && s.pwr.stage == 0 then
        stopEntry (wakeStopped (atTime s t))
      else { wakeStopped (atTime s t) with pwr := { (wakeStopped (atTime s t)).pwr with stopping := true } }) := by
  obtain ⟨v, rfl⟩ : ∃ n, v = n + 1 := ⟨v - 1, by omega⟩
  refine congrArg Host.Outcome.next ((if_pos ⟨hheld, hrun⟩).trans ?_)
  dsimp only [atTime_pwr]
  split
  next h => cases htarget.symm.trans h
  next => rfl
  next h => cases htarget.symm.trans h

theorem wakeEvent_stops {v : Nat} (t : Nat) (hheld : s.pwr.wakeHeld = true) (hrun : reg s Key.frzState = 0)
    (htarget : s.pwr.target = some v) (hv : 0 < v) (hdeep : s.pwr.deep = 0) (hdue : s.pwr.freezeDue = none) :
    ∃ u, exec (.wakeEvent t) s = .next u ∧ u.pwr.wakeHeld = false ∧ (∀ m ∈ u.place.moves, m.state ≠ .planned) ∧
      (u.pwr.target = none ∨ u.pwr.stopping = true) ∧ u.dict = s.dict ∧ MemKept s u := by
  have hmoves : ∀ m ∈ (wakeStopped (atTime s t)).place.moves, m.state ≠ .planned := fun m hm =>
    of_decide_eq_true (List.mem_filter.mp hm).2
  refine ⟨_, exec_wakeEvent_entry hheld hrun htarget hv, ?_⟩
  split
  next hstop =>
    simp only [Bool.and_eq_true, beq_iff_eq] at hstop
    have hend : stopEntry (wakeStopped (atTime s t)) = _ :=
      (stopEntry_of_noon (s := wakeStopped (atTime s t)) hstop.1.2 hdeep).trans (lateFreeze_of_none hdue)
    rw [hend]
    exact ⟨rfl, hmoves, .inl rfl, rfl, rfl, rfl, rfl⟩
  next => exact ⟨rfl, hmoves, .inr rfl, rfl, rfl, rfl, rfl⟩

theorem wakeEvent_freezes {v : Nat} {x : Nat × Nat} (t : Nat) (hheld : s.pwr.wakeHeld = true) (hrun : reg s Key.frzState = 0)
    (htarget : s.pwr.target = some v) (hv : 0 < v) (hmoves : s.place.moves = []) (hnoon : reg s Key.pwrState = 0)
    (hstage : s.pwr.stage = 0) (hdeep : s.pwr.deep = 0) (hdue : s.pwr.freezeDue = some x) :
    ∃ u, exec (.wakeEvent t) s = .next u ∧ u.pwr.target = none ∧ u.pwr.freezeDue = none ∧ reg u Key.frzState = 1 ∧
      reg u Key.frzCause = x.1 := by
  have hstop : ((wakeStopped (atTime s t)).place.moves.isEmpty && reg s Key.pwrState == 0 && s.pwr.stage == 0) = true := by
    simp [wakeStopped, hmoves, hnoon, hstage]
  have hexec := exec_wakeEvent_entry (t := t) hheld hrun htarget hv
  have hend : stopEntry (wakeStopped (atTime s t)) = _ :=
    (stopEntry_of_noon (s := wakeStopped (atTime s t)) hnoon hdeep).trans (lateFreeze_of_some hdue)
  rw [if_pos hstop, hend] at hexec
  obtain ⟨hpwr, hstate, hcause⟩ := enterFreeze_spec { wakeStopped (atTime s t) with pwr := { (wakeStopped (atTime s t)).pwr with
    target := none, stopping := false, stage := 0, freezeDue := none } } x.1 x.2
  exact ⟨_, hexec, congrArg Power.target hpwr, congrArg Power.freezeDue hpwr, hstate, hcause⟩

theorem exec_wakeNFall (t : Nat) (hm : s.pwr.managed = true) : exec (.wakeNFall t) s = .next
    (if reg s Key.pwrState = 0xFF ∨ (reg s Key.pwrState = 0 ∧ s.pwr.target = none)
      then { atTime s t with pwr := { s.pwr with wakeN := false } }
      else { atTime s t with pwr := { s.pwr with wakeN := false, wakeHeld := true } }) := by
  have hexec : exec (.wakeNFall t) s = .next (raiseWake { atTime s t with pwr := { s.pwr with wakeN := false } } true) :=
    congrArg Host.Outcome.next (if_pos hm)
  have hnoon : (reg { atTime s t with pwr := { s.pwr with wakeN := false } } Key.pwrState = 0 ∧ s.pwr.target = none) =
      (reg s Key.pwrState = 0 ∧ s.pwr.target = none) := rfl
  have hreset : (reg { atTime s t with pwr := { s.pwr with wakeN := false } } Key.pwrState = 0xFF ∨
      (reg { atTime s t with pwr := { s.pwr with wakeN := false } } Key.pwrState = 4 ∧ true = false)) = (reg s Key.pwrState = 0xFF) := by
    simp [reg]
  rw [hexec]
  unfold raiseWake
  simp only [hnoon, hreset]
  by_cases hn : reg s Key.pwrState = 0 ∧ s.pwr.target = none
  · rw [if_pos hn, if_pos (.inr hn)]
  · rw [if_neg hn]
    by_cases hr : reg s Key.pwrState = 0xFF
    · rw [if_pos hr, if_pos (.inl hr)]
    · rw [if_neg hr, if_neg (fun h => h.elim hr hn)]

end

/-! ## Entries (R504, R506, R509) -/

section
variable {s : State} {t v : Nat}

/-- A step of an entry that nothing stops or delays. -/
theorem exec_powerTransitionDone_entry (htarget : s.pwr.target = some v) (hv : 0 < v) (hrun : reg s Key.frzState = 0)
    (hmoves : s.place.moves = []) : exec (.powerTransitionDone t) s = .next (
      if s.pwr.stopping = true ∧ s.pwr.stage = 0 then stopEntry (atTime s t)
      else if 3 ≤ v ∧ s.pwr.stage = 0 ∧ scratchPages s ≠ [] then planEvictions (atTime s t)
      else stepEntry (atTime s t) v) := by
  obtain ⟨v, rfl⟩ : ∃ n, v = n + 1 := ⟨v - 1, by omega⟩
  refine congrArg Host.Outcome.next ?_
  rw [htarget]
  exact if_neg (by simp [hrun, hmoves])

variable (htarget : s.pwr.target = some v) (hv : 0 < v) (hrun : reg s Key.frzState = 0) (hmoves : s.place.moves = [])
include htarget hv hrun hmoves

/-- The step that comes next, where no eviction is due. -/
theorem exec_powerTransitionDone_step (hgo : s.pwr.stopping = false) (hempty : v < 3 ∨ s.pwr.stage ≠ 0 ∨ scratchPages s = []) :
    exec (.powerTransitionDone t) s = .next (stepEntry (atTime s t) v) := by
  rw [exec_powerTransitionDone_entry htarget hv hrun hmoves, if_neg (by simp [hgo]), if_neg]
  rintro ⟨h3, h0, hpages⟩
  obtain h | h | h := hempty
  · omega
  · exact h h0
  · exact hpages h

theorem exec_powerTransitionDone_stopped (hstop : s.pwr.stopping = true) (hstage : s.pwr.stage = 0) (hdue : s.pwr.freezeDue = none)
    (hnoon : reg s Key.pwrState = 0) (hdeep : s.pwr.deep = 0) :
    exec (.powerTransitionDone t) s = .next { atTime s t with pwr := { s.pwr with target := none, stopping := false } } := by
  rw [exec_powerTransitionDone_entry htarget hv hrun hmoves, if_pos ⟨hstop, hstage⟩]
  have hend : stopEntry (atTime s t) = _ := (stopEntry_of_noon (s := atTime s t) hnoon hdeep).trans (lateFreeze_of_none hdue)
  rw [hend]
  exact congrArg (fun n => Host.Outcome.next { atTime s t with pwr := { s.pwr with target := none, stopping := false, stage := n } })
    hstage.symm

end

/-- A step of an entry that does not end it. -/
theorem stepEntry_goesOn {s u : State} {v : Nat} (hu : entryStep s v (s.pwr.stage + 1) = u) (hgo : u.pwr.stopping = false)
    (hmore : s.pwr.stage + 1 < entrySteps v) : stepEntry s v = { u with pwr := { u.pwr with stage := s.pwr.stage + 1 } } := by
  unfold stepEntry
  dsimp only
  rw [hu, if_neg (by simp [hgo]), if_pos hmore]

theorem stepEntry_ends {s u : State} {v : Nat} (hu : entryStep s v (s.pwr.stage + 1) = u) (hgo : u.pwr.stopping = false)
    (hlast : entrySteps v ≤ s.pwr.stage + 1) : stepEntry s v = endTransition u v := by
  unfold stepEntry
  dsimp only
  rw [hu, if_neg (by simp [hgo]), if_neg (by omega)]

/-- The module in its new state, before its sensors sleep. -/
def arrived (s : State) (v : Nat) : State :=
  bump (setReg { s with pwr := { s.pwr with target := none, stopping := false, stage := 0, deep := 0 } } Key.pwrState v) Key.pwrTransitions 1

theorem endTransition_of_none {s : State} (v : Nat) (hdue : s.pwr.freezeDue = none) : endTransition s v = sleepSensors (arrived s v) := by
  refine lateFreeze_of_none ?_
  rw [sleepSensors_pwr]
  exact hdue

section
variable (s : State) (v : Nat)

theorem reg_arrived : reg (arrived s v) Key.pwrState = v ∧ reg (arrived s v) Key.pwrTransitions = wrap64 (reg s Key.pwrTransitions + 1) ∧
    RegsKept s (arrived s v) [Key.pwrState, Key.pwrTransitions] := by
  unfold arrived bump
  refine ⟨?_, ?_, fun k hk => ?_⟩
  · rw [reg_setReg_ne _ _ (by decide), reg_setReg_same]
  · rw [reg_setReg_same, reg_setReg_ne _ _ (by decide)]
    rfl
  · simp only [List.mem_cons, List.not_mem_nil, or_false, not_or] at hk
    rw [reg_setReg_ne _ _ hk.2, reg_setReg_ne _ _ hk.1]
    rfl

/-- Arriving changes two entries and the sequencer. -/
theorem arrived_frame : (arrived s v).pwr = { s.pwr with target := none, stopping := false, stage := 0, deep := 0 } ∧
    (arrived s v).work = s.work ∧ MemKept s (arrived s v) := ⟨rfl, rfl, rfl, rfl, rfl⟩

variable {s v}

/-- A register of the new state that is no SEN_STATE. -/
theorem reg_sleepSensors_arrived {k : Nat} (hk : k < Key.senState) : reg (sleepSensors (arrived s v)) k = reg (arrived s v) k :=
  reg_sleepSensors_of_group (.inl hk)

end

theorem powerTransitionDone_dusk {s : State} (t : Nat) (htarget : s.pwr.target = some 1) (hrun : reg s Key.frzState = 0)
    (hmoves : s.place.moves = []) (hgo : s.pwr.stopping = false) (hdue : s.pwr.freezeDue = none) :
    ∃ u, exec (.powerTransitionDone t) s = .next u ∧ reg u Key.pwrState = 1 ∧
      reg u Key.pwrTransitions = wrap64 (reg s Key.pwrTransitions + 1) ∧
      AsleepKept s u [Key.pwrState, Key.pwrTransitions] ∧
      u.pwr = { s.pwr with target := none, stopping := false, stage := 0, deep := 0 } ∧
      { u with dict := s.dict, pwr := s.pwr, time := s.time, sens := s.sens } = s := by
  have hexec := exec_powerTransitionDone_step (t := t) htarget (by decide) hrun hmoves hgo (.inl (by decide))
  have hstep : stepEntry (atTime s t) 1 = sleepSensors (arrived (atTime s t) 1) :=
    (stepEntry_ends (s := atTime s t) (u := atTime s t) rfl hgo (Nat.le_add_left 1 _)).trans (endTransition_of_none 1 hdue)
  rw [hstep] at hexec
  obtain ⟨hstate, hcount, hkept⟩ := reg_arrived (atTime s t) 1
  refine ⟨_, hexec, (reg_sleepSensors_arrived (by decide)).trans hstate, (reg_sleepSensors_arrived (by decide)).trans hcount,
    asleepKept_sleepSensors hkept, sleepSensors_pwr _, ?_⟩
  exact congrArg (fun u : State => { u with dict := s.dict, pwr := s.pwr, time := s.time, sens := s.sens })
    (sleepSensors_rest (arrived (atTime s t) 1))

end Sys2Proof.Scope

namespace Sys2Proof.Scope
open Sys2Proof Sys2Proof.Machine Sys2Proof.Machine.Claim

/-! ## Twilight (R504, R509) -/

/-- What the entry into Twilight leaves: ports parked, memory in self-refresh, compute rails off. -/
def twilight (s : State) : State :=
  { selfRefresh (parkPorts s) true with pwr := { s.pwr with deep := 2, down := railsOff 2 } }

theorem entryStep_twilight (s : State) (k : Nat) : entryStep s 2 k = twilight s := by
  have hpwr : (selfRefresh (parkPorts s) true).pwr = s.pwr := (selfRefresh_on_frame (parkPorts s)).1.trans (portsOnly_parkPorts s).pwr
  unfold twilight
  rw [← hpwr]
  exact if_neg (by decide)

theorem twilight_kept (s : State) : (twilight s).work = s.work ∧ MemKept s (twilight s) := by
  obtain ⟨-, hwork, -, hmem', hhost', hpoison'⟩ := selfRefresh_on_frame (parkPorts s)
  obtain ⟨hmem, hhost, hpoison⟩ := (portsOnly_parkPorts s).memKept
  unfold twilight MemKept
  dsimp only
  exact ⟨hwork.trans (portsOnly_parkPorts s).work, hmem'.trans hmem, hhost'.trans hhost, hpoison'.trans hpoison⟩

theorem reg_twilight (s : State) :
    (∀ i, i < 8 → reg s (Key.hbmState + i) = 1 → reg (twilight s) (Key.hbmState + i) = 2) ∧
    (∀ i, i < 16 → reg s (Key.ddrState + i) = 1 → reg (twilight s) (Key.ddrState + i) = 2) := by
  obtain ⟨hhbm, hddr, -⟩ := reg_selfRefresh_on (parkPorts s)
  have hdict : (twilight s).dict = (selfRefresh (parkPorts s) true).dict := by
    unfold twilight
    dsimp only
  simp only [reg_of_dict hdict]
  have hparked (k : Nat) (hk : k < Key.linkState) : reg (parkPorts s) k = reg s k := (portsOnly_parkPorts s).regs k hk
  have hhbmLow : Key.hbmState + 8 ≤ Key.linkState := by decide
  have hddrLow : Key.ddrState + 16 ≤ Key.linkState := by decide
  exact ⟨fun i hi h => hhbm i hi ((hparked _ ((Nat.add_lt_add_left hi _).trans_le hhbmLow)).trans h),
    fun i hi h => hddr i hi ((hparked _ ((Nat.add_lt_add_left hi _).trans_le hddrLow)).trans h)⟩

/-- Memory's state is no entry of a transition's end. -/
theorem reg_sleepSensors_arrived_memory (s : State) (v : Nat) :
    (∀ i, i < 8 → reg (sleepSensors (arrived s v)) (Key.hbmState + i) = reg s (Key.hbmState + i)) ∧
    ∀ i, i < 16 → reg (sleepSensors (arrived s v)) (Key.ddrState + i) = reg s (Key.ddrState + i) := by
  have hset : ∀ k ∈ [Key.pwrState, Key.pwrTransitions], k < Key.hbmState := by decide
  have hlast : Key.ddrState + 16 ≤ Key.senState := by decide
  have horder : Key.hbmState + 8 ≤ Key.ddrState := by decide
  have hkept {k : Nat} (hlo : Key.hbmState ≤ k) (hhi : k < Key.ddrState + 16) : reg (sleepSensors (arrived s v)) k = reg s k :=
    (reg_sleepSensors_arrived (hhi.trans_le hlast)).trans ((reg_arrived s v).2.2 k fun hk => (hset k hk).not_ge hlo)
  exact ⟨fun i hi => hkept (by omega) (by omega), fun i hi => hkept (by omega) (by omega)⟩

theorem powerTransitionDone_twilight {s : State} (t : Nat) (htarget : s.pwr.target = some 2) (hrun : reg s Key.frzState = 0)
    (hmoves : s.place.moves = []) (hgo : s.pwr.stopping = false) (hdue : s.pwr.freezeDue = none) :
    ∃ u, exec (.powerTransitionDone t) s = .next u ∧ reg u Key.pwrState = 2 ∧ u.pwr.target = none ∧ u.pwr.down = [8] ∧
      (∀ i, i < 8 → reg s (Key.hbmState + i) = 1 → reg u (Key.hbmState + i) = 2) ∧
      (∀ i, i < 16 → reg s (Key.ddrState + i) = 1 → reg u (Key.ddrState + i) = 2) ∧ u.work = s.work ∧ MemKept s u := by
  have hexec := exec_powerTransitionDone_step (t := t) htarget (by decide) hrun hmoves hgo (.inl (by decide))
  have hstep : stepEntry (atTime s t) 2 = sleepSensors (arrived (twilight (atTime s t)) 2) :=
    (stepEntry_ends (s := atTime s t) (entryStep_twilight _ _) hgo (Nat.le_add_left 1 _)).trans (endTransition_of_none 2 hdue)
  rw [hstep] at hexec
  obtain ⟨hwork, hmem, hhost, hpoison⟩ := twilight_kept (atTime s t)
  obtain ⟨hhbm, hddr⟩ := reg_twilight (atTime s t)
  obtain ⟨hhbm', hddr'⟩ := reg_sleepSensors_arrived_memory (twilight (atTime s t)) 2
  have htwilight : (twilight (atTime s t)).pwr = { s.pwr with deep := 2, down := railsOff 2 } := by
    unfold twilight
    rfl
  generalize twilight (atTime s t) = w at *
  obtain ⟨hpwr, hwork', hmem', hhost', hpoison'⟩ := arrived_frame w 2
  refine ⟨_, hexec, (reg_sleepSensors_arrived (by decide)).trans (reg_arrived w 2).1, ?_, ?_,
    fun i hi h => (hhbm' i hi).trans (hhbm i hi h), fun i hi h => (hddr' i hi).trans (hddr i hi h), ?_, ?_, ?_, ?_⟩
  · rw [sleepSensors_pwr, hpwr]
  · rw [sleepSensors_pwr, hpwr, htwilight]
    rfl
  · rw [sleepSensors_work, hwork', hwork]
    rfl
  · rw [sleepSensors_mem, hmem', hmem]
    rfl
  · rw [sleepSensors_host, hhost', hhost]
    rfl
  · rw [sleepSensors_hostPoison, hpoison', hpoison]
    rfl

end Sys2Proof.Scope

namespace Sys2Proof.Scope
open Sys2Proof Sys2Proof.Machine Sys2Proof.Machine.Claim

/-! ## The CXL controller is reset (R394) -/

/-- Registers return to their power-up values. -/
def powerUps (ks : List Nat) (s : State) : State := ks.foldl (fun s k => setReg s k (Machine.powerUp k)) s

theorem powerUps_eq (ks : List Nat) (s : State) : powerUps ks s = { s with dict := (powerUps ks s).dict } := by
  unfold powerUps
  induction ks generalizing s with
  | nil => rfl
  | cons k ks ih => exact ih (setReg s k (Machine.powerUp k))

theorem reg_powerUps (ks : List Nat) (s : State) (j : Nat) : reg (powerUps ks s) j = if j ∈ ks then Machine.powerUp j else reg s j := by
  unfold powerUps
  induction ks generalizing s with
  | nil => simp
  | cons k ks ih =>
    rw [List.foldl_cons, ih, reg_setReg]
    by_cases hmem : j ∈ ks
    · simp [hmem]
    · by_cases hk : j = k
      · simp [hk]
      · simp [hmem, hk]

/-- The registers a reset of the CXL controller returns. -/
def cxlKeys : List Nat :=
  [Key.cxlLinkState, Key.cxlLinkWidth, Key.cxlLinkSpeed, Key.cxlLinkDegraded, Key.cxlIdeState, Key.cxlHdmBase]

theorem resetCxl_eq_powerUps (s : State) : resetCxl s = powerUps cxlKeys { s with cxl := { viral := s.cxl.viral } } := rfl

theorem resetCxl_eq (s : State) : resetCxl s = { s with cxl := { viral := s.cxl.viral }, dict := (resetCxl s).dict } := by
  rw [resetCxl_eq_powerUps]
  exact powerUps_eq cxlKeys { s with cxl := { viral := s.cxl.viral } }

theorem reg_resetCxl (s : State) (j : Nat) : reg (resetCxl s) j = if j ∈ cxlKeys then Machine.powerUp j else reg s j := by
  rw [resetCxl_eq_powerUps]
  exact reg_powerUps cxlKeys { s with cxl := { viral := s.cxl.viral } } j

/-! ## The steps into Midnight and New Moon (R505, R509) -/

/-- What the fourth step leaves of a module whose memory is in self-refresh: the scratchpad empty, the clocks and rails off. -/
def darkened (r : State) : State :=
  { setReg (dropScratch r) Key.clkPllLocked 0 with pwr := { r.pwr with deep := 3, down := railsOff 3 } }

section
variable (s : State) {v : Nat} (hv : v = 3 ∨ v = 4)
include hv

theorem entryStep_first : entryStep s v 1 = s := by
  obtain rfl | rfl := hv <;> rfl

theorem entryStep_second : entryStep s v 2 = discardVolatile s := by
  obtain rfl | rfl := hv <;> rfl

theorem entryStep_third : entryStep s v 3 = darkPorts s := by
  obtain rfl | rfl := hv <;> rfl

theorem entryStep_fourth : entryStep s v 4 = darkened (selfRefresh s true) := by
  unfold entryStep
  generalize selfRefresh s true = r
  obtain rfl | rfl := hv <;> rfl

end

theorem entryStep_fifth (s : State) : entryStep s 4 5 = dropRetained s := rfl

theorem discardVolatile_spec (s : State) : (discardVolatile s).binds = s.binds ∧ (discardVolatile s).slots = s.slots ∧
    (∀ e ∈ (discardVolatile s).dir.entries, e.kind = .reloc ∧ e ∈ s.dir.entries) ∧ (discardVolatile s).strands.pool = [] ∧
    (discardVolatile s).dict = s.dict ∧ MemKept s (discardVolatile s) := by
  refine ⟨rfl, rfl, fun e he => ?_, rfl, rfl, rfl, rfl, rfl⟩
  obtain ⟨hmem, hkind⟩ := List.mem_filter.mp he
  exact ⟨of_decide_eq_true hkind, hmem⟩

theorem byteAt_darkened (r : State) (a : Nat) : byteAt (darkened r) a = if a < hbmBase then 0 else byteAt r a := by
  have hbytes : (darkened r).mem.bytes = Tab.dropKeys (fun k => decide (k < hbmBase)) r.mem.bytes := rfl
  unfold byteAt
  rw [hbytes, get_dropKeys]
  simp only [decide_eq_true_eq]

theorem reg_darkened (r : State) (k : Nat) : reg (darkened r) k = if k = Key.clkPllLocked then 0 else reg r k :=
  reg_setReg (dropScratch r) Key.clkPllLocked 0 k

/-- The module in the dark: the scratchpad empty, the rest of memory kept, in self-refresh. -/
theorem midnight_spec (s : State) : let u := darkened (selfRefresh s true)
    (∀ a, byteAt u a = if a < hbmBase then 0 else byteAt s a) ∧ reg u Key.clkPllLocked = 0 ∧
      (∀ i, i < 8 → reg s (Key.hbmState + i) = 1 → reg u (Key.hbmState + i) = 2) ∧ reg u Key.pwrState = reg s Key.pwrState ∧
      u.pwr = { s.pwr with deep := 3, down := railsOff 3 } := by
  intro u
  obtain ⟨hhbm, -, hother⟩ := reg_selfRefresh_on s
  obtain ⟨hframe, -, hmem, -⟩ := selfRefresh_on_frame s
  have hu : u = darkened (selfRefresh s true) := rfl
  clear_value u
  generalize selfRefresh s true = r at *
  subst hu
  have hpll : Key.clkPllLocked < Key.hbmState := by decide
  have hpwr : Key.pwrState < Key.hbmState := by decide
  have horder : Key.hbmState < Key.ddrState := by decide
  refine ⟨fun a => ?_, (reg_darkened r _).trans (if_pos rfl), fun i hi h => ?_, ?_, ?_⟩
  · rw [byteAt_darkened, byteAt, hmem]
    rfl
  · rw [reg_darkened, if_neg (hpll.trans_le (Nat.le_add_right _ _)).ne', hhbm i hi h]
  · rw [reg_darkened, if_neg (by decide), hother _ (fun i _ => (hpwr.trans_le (Nat.le_add_right _ _)).ne)
      (fun i _ => ((hpwr.trans horder).trans_le (Nat.le_add_right _ _)).ne)]
  · rw [← hframe]
    rfl

/-- What New Moon keeps before the CXL controller is reset. -/
def retained (s : State) : State :=
  { setReg (setReg s Key.plcEpoch (Machine.powerUp Key.plcEpoch)) Key.plcMembers (Machine.powerUp Key.plcMembers) with
    mem := {}, objs := [], slots := [], queues := [], work := [], lines := [], guard := [], turn := [], addends := [], arr := []
    vec := [], strands := {}, binds := [], dir := {}, place := {}, fab := {}, mbx := [], red := {}
    pwr := { s.pwr with rows := 0, down := [], raising := false } }

theorem dropRetained_eq (s : State) : dropRetained s = resetCxl (retained s) := rfl

/-- What New Moon keeps of the entries: all but those of the fabric's members and the CXL link. -/
theorem reg_dropRetained (s : State) : reg (dropRetained s) Key.plcEpoch = Machine.powerUp Key.plcEpoch ∧
    reg (dropRetained s) Key.cxlLinkState = Machine.powerUp Key.cxlLinkState := by
  rw [dropRetained_eq, reg_resetCxl, reg_resetCxl, if_neg (by decide), if_pos (by decide)]
  exact ⟨(reg_setReg_ne (setReg s Key.plcEpoch _) _ (by decide)).trans (reg_setReg_same _ _ _), rfl⟩

/-- What New Moon loses. -/
theorem dropRetained_lost (s : State) : let u := dropRetained s
    u.mem = {} ∧ u.mbx = [] ∧ u.dir = {} ∧ u.slots = [] ∧ u.objs = [] ∧ u.fab = {} ∧ u.red = {} ∧ u.alm = s.alm ∧ u.boot = s.boot ∧
      u.pwr = { s.pwr with rows := 0, down := [], raising := false } := by
  intro u
  have hu : u = { retained s with cxl := { viral := (retained s).cxl.viral }, dict := u.dict } := resetCxl_eq (retained s)
  rw [hu]
  exact ⟨rfl, rfl, rfl, rfl, rfl, rfl, rfl, rfl, rfl, rfl⟩

theorem entrySteps_gt {v : Nat} (hv : v = 3 ∨ v = 4) : 3 < entrySteps v := by
  obtain rfl | rfl := hv <;> decide

section
variable {s : State} {t v : Nat} (hv : v = 3 ∨ v = 4) (htarget : s.pwr.target = some v) (hrun : reg s Key.frzState = 0)
  (hmoves : s.place.moves = []) (hgo : s.pwr.stopping = false)
include hv htarget hrun hmoves hgo

/-- A step of the entry that is not its last. -/
theorem exec_powerTransitionDone_stage {u : State} (hstart : s.pwr.stage ≠ 0 ∨ scratchPages s = [])
    (hu : entryStep (atTime s t) v (s.pwr.stage + 1) = u) (hugo : u.pwr.stopping = false) (hmore : s.pwr.stage + 1 < entrySteps v) :
    exec (.powerTransitionDone t) s = .next { u with pwr := { u.pwr with stage := s.pwr.stage + 1 } } := by
  rw [exec_powerTransitionDone_step htarget (by omega) hrun hmoves hgo (.inr hstart)]
  exact congrArg Host.Outcome.next (stepEntry_goesOn (s := atTime s t) hu hugo hmore)

/-- The last step of the entry. -/
theorem exec_powerTransitionDone_last {u : State} (hstart : s.pwr.stage ≠ 0)
    (hu : entryStep (atTime s t) v (s.pwr.stage + 1) = u) (hugo : u.pwr.stopping = false) (hlast : entrySteps v ≤ s.pwr.stage + 1)
    (hdue : u.pwr.freezeDue = none) : exec (.powerTransitionDone t) s = .next (sleepSensors (arrived u v)) := by
  rw [exec_powerTransitionDone_step htarget (by omega) hrun hmoves hgo (.inr (.inl hstart))]
  exact congrArg Host.Outcome.next ((stepEntry_ends (s := atTime s t) hu hugo hlast).trans (endTransition_of_none v hdue))

theorem powerTransitionDone_discards (hstage : s.pwr.stage = 1) :
    ∃ u, exec (.powerTransitionDone t) s = .next u ∧ (u.pwr.stage = 2 ∧ u.pwr.target = some v ∧ reg u Key.pwrState = reg s Key.pwrState) ∧
      u.binds = s.binds ∧ u.slots = s.slots ∧ (∀ e ∈ u.dir.entries, e.kind = .reloc ∧ e ∈ s.dir.entries) ∧ u.strands.pool = [] ∧
      u.dict = s.dict ∧ MemKept s u := by
  have hstep : entryStep (atTime s t) v (s.pwr.stage + 1) = discardVolatile (atTime s t) := by
    rw [hstage]
    exact entryStep_second _ hv
  have hsteps := entrySteps_gt hv
  have hexec := exec_powerTransitionDone_stage (t := t) hv htarget hrun hmoves hgo (.inl (by omega)) hstep hgo (by omega)
  exact ⟨_, hexec, ⟨congrArg (· + 1) hstage, htarget, rfl⟩, discardVolatile_spec (atTime s t)⟩

theorem powerTransitionDone_darkens (hstage : s.pwr.stage = 2) :
    ∃ u, exec (.powerTransitionDone t) s = .next u ∧ (u.pwr.stage = 3 ∧ u.pwr.target = some v ∧ reg u Key.pwrState = reg s Key.pwrState) ∧
      (∀ p, p < 6 → reg u (Key.linkState + 256 * p) = 0) ∧ u.work = s.work ∧ MemKept s u := by
  have hstep : entryStep (atTime s t) v (s.pwr.stage + 1) = darkPorts (atTime s t) := by
    rw [hstage]
    exact entryStep_third _ hv
  obtain ⟨hports, hdark⟩ := darkPorts_spec (atTime s t)
  generalize darkPorts (atTime s t) = d at *
  have hpwr : d.pwr = s.pwr := hports.pwr
  have hsteps := entrySteps_gt hv
  have hexec := exec_powerTransitionDone_stage hv htarget hrun hmoves hgo (.inl (by omega)) hstep (by rw [hpwr, hgo]) (by omega)
  exact ⟨_, hexec, ⟨congrArg (· + 1) hstage, by rw [hpwr, htarget], hports.regs _ (by decide)⟩, hdark, hports.work, hports.memKept⟩

theorem powerTransitionDone_midnight (hstage : s.pwr.stage = 3) (h3 : v = 3) (hdue : s.pwr.freezeDue = none) :
    ∃ u, exec (.powerTransitionDone t) s = .next u ∧ reg u Key.pwrState = 3 ∧ reg u Key.clkPllLocked = 0 ∧
      u.pwr.target = none ∧ u.pwr.down = railsOff 3 ∧ (∀ a, byteAt u a = if a < hbmBase then 0 else byteAt s a) ∧
      (∀ i, i < 8 → reg s (Key.hbmState + i) = 1 → reg u (Key.hbmState + i) = 2) := by
  subst h3
  have hstep : entryStep (atTime s t) 3 (s.pwr.stage + 1) = darkened (selfRefresh (atTime s t) true) := by
    rw [hstage]
    exact entryStep_fourth _ hv
  obtain ⟨hbytes, hpll, hhbm, -, hpwr⟩ := midnight_spec (atTime s t)
  generalize darkened (selfRefresh (atTime s t) true) = d at *
  have hexec := exec_powerTransitionDone_last hv htarget hrun hmoves hgo (by omega) hstep (by rw [hpwr]; exact hgo)
    (by rw [hstage]; decide) (by rw [hpwr]; exact hdue)
  obtain ⟨hstate, -, hkept⟩ := reg_arrived d 3
  obtain ⟨hpwr', -, hmem, -⟩ := arrived_frame d 3
  refine ⟨_, hexec, (reg_sleepSensors_arrived (by decide)).trans hstate,
    ((reg_sleepSensors_arrived (by decide)).trans (hkept _ (by decide))).trans hpll, ?_, ?_, fun a => ?_, fun i hi h => ?_⟩
  · rw [sleepSensors_pwr, hpwr']
  · rw [sleepSensors_pwr, hpwr', hpwr]
  · rw [byteAt, sleepSensors_mem, hmem]
    exact hbytes a
  · exact ((reg_sleepSensors_arrived_memory d 3).1 i hi).trans (hhbm i hi h)

theorem powerTransitionDone_goesDark (hstage : s.pwr.stage = 3) (h4 : v = 4) :
    ∃ u, exec (.powerTransitionDone t) s = .next u ∧ (u.pwr.stage = 4 ∧ u.pwr.target = some v ∧ reg u Key.pwrState = reg s Key.pwrState) ∧
      u.pwr.deep = 3 ∧ reg u Key.clkPllLocked = 0 := by
  subst h4
  have hstep : entryStep (atTime s t) 4 (s.pwr.stage + 1) = darkened (selfRefresh (atTime s t) true) := by
    rw [hstage]
    exact entryStep_fourth _ hv
  obtain ⟨-, hpll, -, hstate, hpwr⟩ := midnight_spec (atTime s t)
  generalize darkened (selfRefresh (atTime s t) true) = d at *
  have hexec := exec_powerTransitionDone_stage hv htarget hrun hmoves hgo (.inl (by omega)) hstep (by rw [hpwr]; exact hgo)
    (by rw [hstage]; decide)
  refine ⟨_, hexec, ⟨congrArg (· + 1) hstage, ?_, hstate⟩, ?_, hpll⟩
  · rw [hpwr]
    exact htarget
  · rw [hpwr]

theorem powerTransitionDone_newMoon (hstage : s.pwr.stage = 4) (h4 : v = 4) (hdue : s.pwr.freezeDue = none) :
    ∃ u, exec (.powerTransitionDone t) s = .next u ∧ reg u Key.pwrState = 4 ∧ u.mem = {} ∧ u.mbx = [] ∧ u.dir = {} ∧
      u.slots = [] ∧ u.objs = [] ∧ u.fab = {} ∧ u.red = {} ∧ u.pwr.rows = 0 ∧ u.alm = s.alm ∧
      u.boot.running = s.boot.running ∧ reg u Key.plcEpoch = Machine.powerUp Key.plcEpoch ∧
      reg u Key.cxlLinkState = Machine.powerUp Key.cxlLinkState := by
  subst h4
  have hstep : entryStep (atTime s t) 4 (s.pwr.stage + 1) = dropRetained (atTime s t) := by
    rw [hstage]
    exact entryStep_fifth _
  obtain ⟨hmem, hmbx, hdir, hslots, hobjs, hfab, hred, halm, hboot, hpwr⟩ := dropRetained_lost (atTime s t)
  obtain ⟨hepoch, hlink⟩ := reg_dropRetained (atTime s t)
  generalize dropRetained (atTime s t) = d at *
  have hexec := exec_powerTransitionDone_last hv htarget hrun hmoves hgo (by omega) hstep (by rw [hpwr]; exact hgo)
    (by rw [hstage]; decide) (by rw [hpwr]; exact hdue)
  obtain ⟨hstate, -, hkept⟩ := reg_arrived d 4
  have hlow {k : Nat} (hk : k < Key.senState) := reg_sleepSensors_arrived (s := d) (v := 4) hk
  refine ⟨_, hexec, (hlow (by decide)).trans hstate, (sleepSensors_mem _).trans hmem, (sleepSensors_mbx _).trans hmbx,
    (sleepSensors_dir _).trans hdir, (sleepSensors_slots _).trans hslots, (sleepSensors_objs _).trans hobjs,
    (sleepSensors_fab _).trans hfab, (sleepSensors_red _).trans hred, ?_, (sleepSensors_alm _).trans halm, ?_,
    ((hlow (by decide)).trans (hkept _ (by decide))).trans hepoch, ((hlow (by decide)).trans (hkept _ (by decide))).trans hlink⟩
  · rw [sleepSensors_pwr, (arrived_frame d 4).1, hpwr]
  · rw [sleepSensors_boot]
    exact congrArg Boot.running hboot

end

/-! ## The exit from Dusk (R506) -/

theorem exec_powerTransitionDone_railsDown {s : State} (t : Nat) (htarget : s.pwr.target = some 0)
    (hdeep : 2 ≤ max (reg s Key.pwrState) s.pwr.deep) (hdown : railsUp s = false) : exec (.powerTransitionDone t) s = .next s := by
  refine congrArg Host.Outcome.next ?_
  rw [htarget]
  exact if_pos (.inl ⟨hdeep, hdown⟩)

/-- The exit from Dusk: nothing was switched off. -/
theorem exec_powerTransitionDone_fromDusk {s : State} (t : Nat) (htarget : s.pwr.target = some 0) (hstate : reg s Key.pwrState = 1)
    (hdeep : s.pwr.deep = 0) (hrun : reg s Key.frzState = 0) (hdue : s.pwr.freezeDue = none) (hafter : s.pwr.after = none) :
    exec (.powerTransitionDone t) s = .next (markReady (sendNotices (touch (sleepSensors (arrived (atTime s t) 0))))) := by
  have hend : endTransition (leaveState (atTime s t) 1) 0 = sleepSensors (arrived (atTime s t) 0) := endTransition_of_none 0 hdue
  refine congrArg Host.Outcome.next ?_
  rw [htarget, hstate, hdeep]
  refine (if_neg (by simp [hrun])).trans ?_
  dsimp only
  have hnext : (markReady (sendNotices (touch (sleepSensors (arrived (atTime s t) 0))))).pwr.after = none :=
    (congrArg Power.after (sleepSensors_pwr (arrived (atTime s t) 0))).trans hafter
  rw [show max 1 0 = 1 from rfl, hend]
  generalize markReady (sendNotices (touch (sleepSensors (arrived (atTime s t) 0)))) = u at hnext ⊢
  rw [hnext]

theorem powerTransitionDone_noon {s : State} (t : Nat) (htarget : s.pwr.target = some 0) (hstate : reg s Key.pwrState = 1)
    (hdeep : s.pwr.deep = 0) (hrun : reg s Key.frzState = 0) (hdue : s.pwr.freezeDue = none) (hafter : s.pwr.after = none) :
    ∃ u, exec (.powerTransitionDone t) s = .next u ∧ reg u Key.pwrState = 0 ∧ u.pwr.target = none ∧
      reg u Key.pwrTransitions = wrap64 (reg s Key.pwrTransitions + 1) ∧
      AsleepKept s u [Key.pwrState, Key.pwrTransitions] ∧ MemKept s u := by
  refine ⟨_, exec_powerTransitionDone_fromDusk t htarget hstate hdeep hrun hdue hafter, ?_⟩
  obtain ⟨hnoon, hcount, hkept⟩ := reg_arrived (atTime s t) 0
  have hasleep : AsleepKept s (sleepSensors (arrived (atTime s t) 0)) [Key.pwrState, Key.pwrTransitions] := asleepKept_sleepSensors hkept
  have hmem := sleepSensors_mem (arrived (atTime s t) 0)
  have hhost := sleepSensors_host (arrived (atTime s t) 0)
  have hpoison := sleepSensors_hostPoison (arrived (atTime s t) 0)
  have hpwr := sleepSensors_pwr (arrived (atTime s t) 0)
  have hstate' := (reg_sleepSensors_arrived (s := atTime s t) (v := 0) (k := Key.pwrState) (by decide)).trans hnoon
  have hcount' := (reg_sleepSensors_arrived (s := atTime s t) (v := 0) (k := Key.pwrTransitions) (by decide)).trans hcount
  generalize sleepSensors (arrived (atTime s t) 0) = a at *
  exact ⟨hstate', congrArg Power.target hpwr, hcount', AsleepKept.congr hasleep rfl rfl, hmem, hhost, hpoison⟩

/-- Settles O53: reset, wake and each step of an entry or exit by what the sequencer holds. -/
theorem powerStates : Obligations.PowerStates := by
  refine ⟨⟨pwrEnLow_resets, fun s t hm hen htrip => exec_pwrEnHigh_raises t hm hen htrip⟩,
    fun s t hus hnoon hok hdue => exec_autoDusk_of_due t hus hnoon hok hdue,
    fun s t hheld hrun htarget hlo hhi => exec_wakeEvent_exit hheld hrun htarget hlo hhi,
    fun s t _ hrun => exec_wakeEvent_held hrun,
    fun s t v hheld hrun htarget hv hdeep hdue => wakeEvent_stops t hheld hrun htarget hv hdeep hdue,
    fun s t v x hheld hrun htarget hv hmoves hnoon hstage hdeep hdue =>
      wakeEvent_freezes t hheld hrun htarget hv hmoves hnoon hstage hdeep hdue,
    fun s t hm => exec_wakeNFall t hm,
    fun s t htarget hrun hmoves hgo hdue => powerTransitionDone_dusk t htarget hrun hmoves hgo hdue,
    fun s t htarget hrun hmoves hgo hdue => powerTransitionDone_twilight t htarget hrun hmoves hgo hdue,
    fun s t v hv htarget hrun hmoves hgo => ?_,
    fun s t v htarget hv hrun hmoves hstop hstage hdue hnoon hdeep =>
      exec_powerTransitionDone_stopped htarget hv hrun hmoves hstop hstage hdue hnoon hdeep,
    fun s t htarget hdeep hdown => exec_powerTransitionDone_railsDown t htarget hdeep hdown,
    fun s t htarget hstate hdeep hrun hdue hafter => powerTransitionDone_noon t htarget hstate hdeep hrun hdue hafter⟩
  have hsteps := entrySteps_gt hv
  refine ⟨fun hstage hpages => ?_, powerTransitionDone_discards hv htarget hrun hmoves hgo,
    powerTransitionDone_darkens hv htarget hrun hmoves hgo, powerTransitionDone_midnight hv htarget hrun hmoves hgo,
    powerTransitionDone_goesDark hv htarget hrun hmoves hgo, powerTransitionDone_newMoon hv htarget hrun hmoves hgo⟩
  have hstep : entryStep (atTime s t) v (s.pwr.stage + 1) = atTime s t := by
    rw [hstage]
    exact entryStep_first _ hv
  rw [exec_powerTransitionDone_stage hv htarget hrun hmoves hgo (.inr hpages) hstep hgo (by omega), hstage]
  rfl

end Sys2Proof.Scope

namespace Sys2Proof.Scope
open Sys2Proof Sys2Proof.Machine Sys2Proof.Machine.Claim

/-! ## What the ends of descriptors leave while the link is down (R394) -/

/-- The module without what the end of a descriptor changes while no completion record can be written. -/
def offQueues (s : State) : State :=
  { s with dict := [], fresh := 0, queues := [], work := [], lines := [], slots := [], tick := 0, pwr := { s.pwr with idleAt := 0 } }

/-- LINK_STATE, the enables of the queues, and the entries from the receivers of the mailbox on. -/
def hostKey (k : Nat) : Bool :=
  k == Key.cxlLinkState || (decide (Key.queueEnable ≤ k) && decide (k < Key.queueEnable + 256 * 64) && (k - Key.queueEnable) % 256 == 0) ||
    decide (Key.mbxReceiver ≤ k)

/-- From `s` to `t` descriptors have ended without a record: queues, work and counters alone have changed. -/
structure Quiet (s t : State) : Prop where
  rest : offQueues t = offQueues s
  regs : ∀ k, hostKey k = true → reg t k = reg s k

section
variable {s t u : State}

theorem Quiet.refl (s : State) : Quiet s s := ⟨rfl, fun _ _ => rfl⟩

theorem Quiet.trans (h : Quiet s t) (g : Quiet t u) : Quiet s u := ⟨g.rest.trans h.rest, fun k hk => (g.regs k hk).trans (h.regs k hk)⟩

theorem Quiet.ite {c : Prop} [Decidable c] (ht : Quiet s t) (hu : Quiet s u) : Quiet s (if c then t else u) := by
  split
  · exact ht
  · exact hu

theorem Quiet.setReg {k : Nat} (v : Nat) (hk : hostKey k = false) (h : Quiet s t) : Quiet s (setReg t k v) :=
  h.trans ⟨rfl, fun j hj => reg_setReg_ne t v fun he => by simp [he, hk] at hj⟩

theorem Quiet.bump {k : Nat} (n : Nat) (hk : hostKey k = false) (h : Quiet s t) : Quiet s (bump t k n) := h.setReg _ hk

theorem Quiet.bump32 {k : Nat} (n : Nat) (hk : hostKey k = false) (h : Quiet s t) : Quiet s (bump32 t k n) := h.setReg _ hk

theorem Quiet.foldl {α : Type} {f : State → α → State} {xs : List α} (h : ∀ x ∈ xs, ∀ s, Quiet s (f s x)) (s : State) :
    Quiet s (xs.foldl f s) := by
  induction xs generalizing s with
  | nil => exact .refl s
  | cons x xs ih => exact (h x List.mem_cons_self s).trans (ih (fun y hy => h y (List.mem_cons_of_mem x hy)) _)

theorem Quiet.link (h : Quiet s t) : reg t Key.cxlLinkState = reg s Key.cxlLinkState := h.regs _ (by decide)

end

theorem quiet_setQueue (s : State) (q : Nat) (x : Queue) : Quiet s (setQueue s q x) := ⟨rfl, fun _ _ => rfl⟩

theorem quiet_setWork (s : State) (w : Work) : Quiet s (setWork s w) := ⟨rfl, fun _ _ => rfl⟩

theorem quiet_delWork (s : State) (r : WRef) : Quiet s (delWork s r) := ⟨rfl, fun _ _ => rfl⟩

theorem quiet_touch (s : State) : Quiet s (touch s) := ⟨rfl, fun _ _ => rfl⟩

theorem quiet_markReady (s : State) : Quiet s (markReady s) := ⟨rfl, fun _ _ => rfl⟩

theorem quiet_dropRef (s : State) (w : Work) : Quiet s (dropRef s w) := by
  rw [dropRef_eq]
  exact ⟨rfl, fun _ _ => rfl⟩

theorem quiet_leaveAll (s : State) (r : WRef) : Quiet s (leaveAll s r) := by
  refine .ite (.refl s) ?_
  rw [leaveLines_eq]
  exact ⟨rfl, fun _ _ => rfl⟩

/-- Counters of a unit's cycles lie below the host's entries. -/
theorem hostKey_of_mem_busyKeys {w : Work} {k : Nat} (h : k ∈ busyKeys w) : hostKey k = false := by
  have hcounters : ∀ i < 64, ∀ b ∈ [Key.arrHoldCycles, Key.vecStallCycles, Key.vecPortWaitCycles, Key.smpBusyCycles, Key.nblBusyCycles,
      Key.gseBusyCycles, Key.updBusyCycles, Key.savBusyCycles], hostKey (b + i) = false := by decide +kernel
  unfold busyKeys at h
  split at h
  case h_2 =>
    rcases List.mem_pair.mp h with rfl | rfl
    · exact hcounters _ (Nat.mod_lt _ (by decide)) _ (by simp)
    · exact hcounters _ (Nat.mod_lt _ (by decide)) _ (by simp)
  case h_8 => cases h
  all_goals
    cases List.mem_singleton.mp h
    exact hcounters _ (by omega) _ (by simp)

theorem quiet_countCycles (s : State) (w : Work) : Quiet s (countCycles s w) := by
  refine .ite (.foldl (fun k hk t => ?_) s) (.refl s)
  exact .bump _ (hostKey_of_mem_busyKeys hk) ⟨rfl, fun _ _ => rfl⟩

theorem quiet_countStatus (s : State) (w : Work) : Quiet s (countStatus s w) := by
  unfold countStatus
  iterate 15 refine .ite (.bump32 1 (by decide) (.refl s)) ?_
  exact .refl s

theorem quiet_countRed (s : State) (w : Work) : Quiet s (countRed s w) := .ite (.bump 1 (by decide) (.refl s)) (.refl s)

theorem hostKey_queueFaultLatch : ∀ q < 64, hostKey (Key.queueFaultLatch + 256 * q) = false := by decide +kernel

/-- A position completes while the link is down: its record is discarded. -/
theorem quiet_completeQ {s : State} {q : Nat} (hq : q < 64) (hlink : reg s Key.cxlLinkState ≠ 2) (n : Nat) (w : Work) (t : Nat) :
    Quiet s (completeQ s q n w t) := by
  have hrecord (u : State) (hu : Quiet s u) : Quiet s (writeRecord u q w t) := by
    have hdown : writeRecord u q w t = bump u Key.cxlComplDropped 1 := if_pos (.inl (by rwa [hu.link]))
    rw [hdown]
    exact hu.bump 1 (by decide)
  unfold completeQ
  dsimp only
  refine .ite (.ite (.bump 1 (by decide) (.refl s)) (.refl s)) (Quiet.trans ?_ (quiet_setQueue _ q _))
  have hrecorded : Quiet s (if w.cw || !success w.status then writeRecord s q w t else s) := .ite (hrecord s (.refl s)) (.refl s)
  exact .ite (hrecorded.setReg 1 (hostKey_queueFaultLatch q hq)) hrecorded

theorem quiet_completeWork {s : State} {w : Work} {q n : Nat} (hw : w.ref = .q q n) (hq : q < 64) (hlink : reg s Key.cxlLinkState ≠ 2)
    (t : Nat) : Quiet s (completeWork s w t) := by
  have hcounted : Quiet s (countRed (countStatus (countCycles s w) w) w) :=
    ((quiet_countCycles s w).trans (quiet_countStatus _ w)).trans (quiet_countRed _ w)
  have hleft : Quiet s (touch (dropRef (leaveAll (delWork (countRed (countStatus (countCycles s w) w) w) w.ref) w.ref) w)) :=
    (((hcounted.trans (quiet_delWork _ _)).trans (quiet_leaveAll _ _)).trans (quiet_dropRef _ w)).trans (quiet_touch _)
  unfold completeWork
  rw [hw] at hleft ⊢
  exact (hleft.trans (quiet_completeQ hq (by rwa [hleft.link]) n w t)).trans (quiet_markReady _)

/-- QUEUE_ABORT while the link is down. -/
theorem quiet_abortQueue {s : State} {q : Nat} (hq : q < 64) (hlink : reg s Key.cxlLinkState ≠ 2) : Quiet s (abortQueue s q) := by
  have hall (ws : List Work) (hws : ∀ w ∈ ws, ∃ n, w.ref = .q q n) (u : State) (hu : Quiet s u) : Quiet s (ws.foldl (fun s w =>
      if canRecord s { w with status := Status.cancelled } then completeWork s { w with status := Status.cancelled } s.time
      else setWork s { w with status := Status.cancelled, phase := .done }) u) := by
    induction ws generalizing u with
    | nil => exact hu
    | cons w ws ih =>
      obtain ⟨n, hn⟩ := hws w List.mem_cons_self
      refine ih (fun x hx => hws x (List.mem_cons_of_mem w hx)) _ (.ite ?_ (hu.trans (quiet_setWork u _)))
      exact hu.trans (quiet_completeWork (w := { w with status := Status.cancelled }) hn hq (by rwa [hu.link]) u.time)
  refine hall _ (fun w hw => ?_) _ (quiet_setQueue s q _)
  have href := (List.mem_filter.mp hw).2
  simp only [Bool.and_eq_true] at href
  obtain ⟨-, href⟩ := href
  split at href
  next k n hk => exact ⟨n, by rw [hk, beq_iff_eq.mp href]⟩
  · cases href

/-! ## The queues PERST_N takes (R394) -/

/-- PERST_N takes queue `q`. -/
def takeQueue (s : State) (q : Nat) : State :=
  if enabled s q then loseQueue (disableQueue (abortQueue s q) q) q else if draining s q then loseQueue s q else s

/-- From `s` to `t` queues have been taken: beside their enables the host's entries are as they were. -/
structure QueuesTaken (s t : State) : Prop where
  rest : offQueues t = offQueues s
  regs : ∀ k, hostKey k = true → (∀ q, q < 64 → k ≠ Key.queueEnable + 256 * q) → reg t k = reg s k
  off : ∀ q, q < 64 → enabled s q = false → enabled t q = false

theorem QueuesTaken.trans {s t u : State} (h : QueuesTaken s t) (g : QueuesTaken t u) : QueuesTaken s u :=
  ⟨g.rest.trans h.rest, fun k hk hne => (g.regs k hk hne).trans (h.regs k hk hne), fun q hq ho => g.off q hq (h.off q hq ho)⟩

theorem Quiet.queuesTaken {s t : State} (h : Quiet s t) : QueuesTaken s t := by
  have henable : ∀ q < 64, hostKey (Key.queueEnable + 256 * q) = true := by decide +kernel
  refine ⟨h.rest, fun k hk _ => h.regs k hk, fun q hq ho => ?_⟩
  rw [enabled, h.regs _ (henable q hq)]
  exact ho

theorem taken_disableQueue (s : State) {q : Nat} (hq : q < 64) : QueuesTaken s (disableQueue s q) := by
  refine ⟨rfl, fun k _ hne => reg_setReg_ne _ _ (hne q hq), fun j _ ho => ?_⟩
  unfold enabled disableQueue at *
  rw [reg_setReg]
  split
  · rfl
  · exact ho

theorem takeQueue_spec {s : State} {q : Nat} (hq : q < 64) (hlink : reg s Key.cxlLinkState ≠ 2) :
    QueuesTaken s (takeQueue s q) ∧ enabled (takeQueue s q) q = false := by
  unfold takeQueue
  have hlose (u : State) : QueuesTaken u (loseQueue u q) := (quiet_setQueue u q _).queuesTaken
  split
  · refine ⟨((quiet_abortQueue hq hlink).queuesTaken.trans (taken_disableQueue _ hq)).trans (hlose _), decide_eq_false ?_⟩
    have hoff : reg (loseQueue (disableQueue (abortQueue s q) q) q) (Key.queueEnable + 256 * q) = 0 := reg_setReg_same (abortQueue s q) _ _
    rw [hoff]
    decide
  next hen =>
    have hoff : enabled s q = false := by simpa using hen
    split
    · exact ⟨hlose s, (hlose s).off q hq hoff⟩
    · exact ⟨(Quiet.refl s).queuesTaken, hoff⟩

theorem QueuesTaken.link {s t : State} (h : QueuesTaken s t) : reg t Key.cxlLinkState = reg s Key.cxlLinkState := by
  have hbelow : Key.queueEnable + 256 * 64 < Key.cxlLinkState := by decide
  refine h.regs _ (by decide) fun q hq => ?_
  exact ((Nat.add_lt_add_left (show 256 * q < 256 * 64 by omega) _).trans hbelow).ne'

theorem foldl_takeQueue_spec {qs : List Nat} (hqs : ∀ q ∈ qs, q < 64) {s : State} (hlink : reg s Key.cxlLinkState ≠ 2) :
    QueuesTaken s (qs.foldl takeQueue s) ∧ ∀ q ∈ qs, enabled (qs.foldl takeQueue s) q = false := by
  induction qs generalizing s with
  | nil => exact ⟨(Quiet.refl s).queuesTaken, fun q hq => nomatch hq⟩
  | cons q qs ih =>
    obtain ⟨htaken, hoff⟩ := takeQueue_spec (hqs q List.mem_cons_self) hlink
    obtain ⟨hrest, hall⟩ := ih (fun x hx => hqs x (List.mem_cons_of_mem q hx)) (s := takeQueue s q) (by rwa [htaken.link])
    refine ⟨htaken.trans hrest, fun x hx => ?_⟩
    obtain rfl | hx := List.mem_cons.mp hx
    · exact hrest.off x (hqs x List.mem_cons_self) hoff
    · exact hall x hx

end Sys2Proof.Scope

namespace Sys2Proof.Scope
open Sys2Proof Sys2Proof.Machine Sys2Proof.Machine.Claim

/-! ## PERST_N (R394, R418) -/

/-- The entries that PERST_N returns to their power-up values. -/
def perstKeys : List Nat :=
  (List.range 64).flatMap (fun q => [Key.queueCpiAddr, Key.queueVector, Key.queueIrqCount, Key.queueIrqUs].map (· + 256 * q)) ++
  (List.range 64).flatMap (fun a => [Key.aptObject, Key.aptLength, Key.mbxHostVector].map (· + 256 * a))

theorem perstEntries_eq (s : State) : perstEntries s = powerUps perstKeys s := by
  simp only [perstEntries, powerUps, perstKeys, List.foldl_append, List.foldl_flatMap, List.foldl_map]

theorem mem_perstKeys_queue {q k : Nat} (hq : q < 64) (hk : k ∈ [Key.queueCpiAddr, Key.queueVector, Key.queueIrqCount, Key.queueIrqUs]) :
    k + 256 * q ∈ perstKeys :=
  List.mem_append_left _ (List.mem_flatMap.mpr ⟨q, List.mem_range.mpr hq, List.mem_map_of_mem (f := (· + 256 * q)) hk⟩)

theorem mem_perstKeys_aperture {a k : Nat} (ha : a < 64) (hk : k ∈ [Key.aptObject, Key.aptLength, Key.mbxHostVector]) :
    k + 256 * a ∈ perstKeys :=
  List.mem_append_right _ (List.mem_flatMap.mpr ⟨a, List.mem_range.mpr ha, List.mem_map_of_mem (f := (· + 256 * a)) hk⟩)

/-- They lie beyond the enables of the queues and LINK_STATE, apart from the receivers of the mailbox. -/
theorem perstKeys_apart : perstKeys.all (fun k => decide (Key.queueEnable + 256 * 64 ≤ k) && decide (Key.cxlLinkState < k) &&
    decide (k < Key.mbxReceiver ∨ (k - Key.mbxReceiver) % 256 ≠ 0)) = true := by decide +kernel

theorem apart_of_mem_perstKeys {k : Nat} (h : k ∈ perstKeys) :
    Key.queueEnable + 256 * 64 ≤ k ∧ Key.cxlLinkState < k ∧ (k < Key.mbxReceiver ∨ (k - Key.mbxReceiver) % 256 ≠ 0) := by
  have hk := List.all_eq_true.mp perstKeys_apart k h
  simpa only [Bool.and_eq_true, decide_eq_true_eq, and_assoc] using hk

theorem not_mem_perstKeys : Key.cxlLinkState ∉ perstKeys ∧
    ∀ i < 64, Key.queueEnable + 256 * i ∉ perstKeys ∧ Key.mbxReceiver + 256 * i ∉ perstKeys := by
  refine ⟨fun h => lt_irrefl _ (apart_of_mem_perstKeys h).2.1, fun i hi => ⟨fun h => ?_, fun h => ?_⟩⟩
  · have hlow := Nat.le_of_add_le_add_left (apart_of_mem_perstKeys h).1
    omega
  · obtain ⟨-, -, hbelow | hapart⟩ := apart_of_mem_perstKeys h
    · exact absurd hbelow (Nat.not_lt.mpr (Nat.le_add_right _ _))
    · exact hapart (by rw [Nat.add_sub_cancel_left]; exact Nat.mul_mod_right 256 i)

/-- The host owns a channel or receives by it. -/
def hostChan (s : State) (c : Nat) : Prop := (chanOf s c).owner = 1 ∨ receiver s c = 1

/-- A channel that PERST_N has freed. -/
def chanLost (s : State) (c : Nat) : Prop := (chanOf s c).state = .free ∧ (chanOf s c).owner = 0 ∧ (chanOf s c).expired = true

/-- One channel of the host becomes FREE. -/
def loseChan (s : State) (c : Nat) : State := if (chanOf s c).owner = 1 ∨ receiver s c = 1 then freeChan s c true else s

theorem chanLost_freeChan (s : State) (c : Nat) : chanLost (freeChan s c true) c := by
  unfold chanLost freeChan
  rw [chanOf_setChan_same]
  exact ⟨rfl, rfl, rfl⟩

theorem chanLost_loseChan {s : State} {c : Nat} (h : chanLost s c) (k : Nat) : chanLost (loseChan s k) c := by
  unfold loseChan
  split
  · by_cases hk : c = k
    · exact hk ▸ chanLost_freeChan s c
    · unfold chanLost freeChan
      rwa [chanOf_setChan_ne s _ hk]
  · exact h

theorem hostChan_loseChan {s : State} {c k : Nat} (hk : c ≠ k) (h : hostChan s c) : hostChan (loseChan s k) c := by
  unfold loseChan
  split
  · unfold hostChan freeChan
    rw [chanOf_setChan_ne s _ hk]
    exact h
  · exact h

theorem chanLost_foldl_loseChan (cs : List Nat) {s : State} {c : Nat} (h : chanLost s c ∨ (c ∈ cs ∧ hostChan s c)) :
    chanLost (cs.foldl loseChan s) c := by
  induction cs generalizing s with
  | nil => exact h.resolve_right fun h => nomatch h.1
  | cons k cs ih =>
    refine ih ?_
    obtain h | ⟨hmem, h⟩ := h
    · exact .inl (chanLost_loseChan h k)
    · by_cases hk : c = k
      · have hlose : loseChan s k = freeChan s k true := if_pos (hk ▸ h)
        exact .inl (by rw [hlose, hk]; exact chanLost_freeChan s k)
      · exact .inr ⟨(List.mem_cons.mp hmem).resolve_left hk, hostChan_loseChan hk h⟩

theorem foldl_loseChan_eq (cs : List Nat) (s : State) : cs.foldl loseChan s = { s with mbx := (cs.foldl loseChan s).mbx } := by
  induction cs generalizing s with
  | nil => rfl
  | cons c cs ih =>
    have hstep (m : Tab Chan) : { loseChan s c with mbx := m } = { s with mbx := m } := by
      unfold loseChan
      split <;> rfl
    exact (ih (loseChan s c)).trans (hstep _)

theorem perstMail_rest (v : State) : let w := perstMail v
    w.pwr = v.pwr ∧ w.objs = v.objs ∧ w.cxl = v.cxl ∧ MemKept v w ∧ ∀ k, reg w k = reg v k := by
  intro w
  have hw : w = { v with mbx := w.mbx } := foldl_loseChan_eq (List.range 64) v
  generalize w.mbx = m at hw
  rw [hw]
  exact ⟨rfl, rfl, rfl, ⟨rfl, rfl, rfl⟩, fun _ => rfl⟩

/-- The module with its CXL controller reset, before its queues are taken. -/
def hostGone (s : State) : State :=
  let u := resetCxl { s with pwr := { s.pwr with perstN := false } }
  { u with cxl := { u.cxl with stampAt := u.time } }

theorem hostGone_eq (s : State) : hostGone s = { s with
    pwr := { s.pwr with perstN := false }, cxl := { viral := s.cxl.viral, stampAt := s.time }, dict := (hostGone s).dict } := by
  have hdict : (hostGone s).dict = (resetCxl { s with pwr := { s.pwr with perstN := false } }).dict := rfl
  rw [hdict]
  unfold hostGone
  rw [resetCxl_eq]

theorem reg_hostGone (s : State) (k : Nat) : reg (hostGone s) k = if k ∈ cxlKeys then Machine.powerUp k else reg s k :=
  reg_resetCxl { s with pwr := { s.pwr with perstN := false } } k

/-- The module after its queues and the entries of the host are gone. -/
def hostTaken (s : State) : State := perstEntries ((List.range 64).foldl takeQueue (hostGone s))

theorem exec_perstNAssert {s : State} (t : Nat) (hm : s.pwr.managed = true) (hp : s.pwr.perstN = true) :
    exec (.perstNAssert t) s = .next (markReady (perstMail (hostTaken (atTime s t)))) :=
  congrArg Host.Outcome.next (if_pos ⟨hm, hp⟩)

/-- What PERST_N leaves outside the queues. -/
theorem hostTaken_rest (s : State) : let u := hostTaken s
    u.pwr.perstN = false ∧ u.cxl = { viral := s.cxl.viral, stampAt := s.time } ∧ u.objs = s.objs ∧ u.mbx = s.mbx ∧ MemKept s u := by
  intro u
  have hlink : reg (hostGone s) Key.cxlLinkState ≠ 2 := by
    rw [reg_hostGone, if_pos (by decide)]
    decide
  obtain ⟨⟨hrest, -, -⟩, -⟩ := foldl_takeQueue_spec (qs := List.range 64) (fun q hq => List.mem_range.mp hq) hlink
  generalize hv : (List.range 64).foldl takeQueue (hostGone s) = v at hrest
  have hu : u = { v with dict := u.dict } := by
    have hpowered : u = powerUps perstKeys v := by rw [← perstEntries_eq, ← hv]; rfl
    rw [hpowered]
    exact powerUps_eq perstKeys v
  rw [hostGone_eq] at hrest
  rw [hu]
  exact ⟨(congrArg (fun x : State => x.pwr.perstN) hrest :), (congrArg State.cxl hrest :), (congrArg State.objs hrest :),
    (congrArg State.mbx hrest :), (congrArg State.mem hrest :), (congrArg State.host hrest :), (congrArg State.hostPoison hrest :)⟩

theorem reg_hostTaken (s : State) :
    reg (hostTaken s) Key.cxlLinkState = 0 ∧ (∀ q, q < 64 → enabled (hostTaken s) q = false) ∧
    (∀ k ∈ perstKeys, reg (hostTaken s) k = Machine.powerUp k) ∧
    ∀ c, c < 64 → receiver (hostTaken s) c = receiver s c := by
  have hlink : reg (hostGone s) Key.cxlLinkState = 0 := by
    rw [reg_hostGone, if_pos (by decide)]
    decide
  obtain ⟨htaken, hoff⟩ := foldl_takeQueue_spec (qs := List.range 64) (fun q hq => List.mem_range.mp hq) (s := hostGone s) (by omega)
  obtain ⟨hlinkKey, hkeys⟩ := not_mem_perstKeys
  have hreg (k : Nat) : reg (hostTaken s) k = if k ∈ perstKeys then Machine.powerUp k
      else reg ((List.range 64).foldl takeQueue (hostGone s)) k := by
    rw [hostTaken, perstEntries_eq, reg_powerUps]
  have hmail : ∀ c < 64, hostKey (Key.mbxReceiver + 256 * c) = true ∧ Key.mbxReceiver + 256 * c ∉ cxlKeys := by decide +kernel
  refine ⟨?_, fun q hq => ?_, fun k hk => (hreg k).trans (if_pos hk), fun c hc => ?_⟩
  · rw [hreg, if_neg hlinkKey, htaken.link, hlink]
  · rw [enabled, hreg, if_neg (hkeys q hq).1]
    exact hoff q (List.mem_range.mpr hq)
  · obtain ⟨hhost, hcxl⟩ := hmail c hc
    have hbelow : Key.queueEnable + 256 * 64 < Key.mbxReceiver := by decide
    have hne (q : Nat) (hq : q < 64) : Key.mbxReceiver + 256 * c ≠ Key.queueEnable + 256 * q :=
      (((Nat.add_lt_add_left (show 256 * q < 256 * 64 by omega) _).trans hbelow).trans_le (Nat.le_add_right _ _)).ne'
    rw [receiver, hreg, if_neg (hkeys c hc).2, htaken.regs _ hhost hne, reg_hostGone, if_neg hcxl]
    rfl

theorem perstNAssert_spec (s : State) (t : Nat) (hm : s.pwr.managed = true) (hp : s.pwr.perstN = true) :
    ∃ u, exec (.perstNAssert t) s = .next u ∧ u.pwr.perstN = false ∧ reg u Key.cxlLinkState = 0 ∧ u.cxl.ready = false ∧
      u.cxl.apts = [] ∧ u.cxl.filter = [] ∧ u.cxl.hdm = none ∧ u.cxl.msix = [] ∧ u.cxl.msixDue = [] ∧
      (∀ q, q < 64 → enabled u q = false ∧ ∀ k ∈ [Key.queueCpiAddr, Key.queueVector, Key.queueIrqCount, Key.queueIrqUs],
        reg u (k + 256 * q) = Machine.powerUp (k + 256 * q)) ∧
      (∀ a, a < 64 → ∀ k ∈ [Key.aptObject, Key.aptLength, Key.mbxHostVector], reg u (k + 256 * a) = Machine.powerUp (k + 256 * a)) ∧
      (∀ c, c < 64 → (chanOf s c).owner = 1 ∨ receiver s c = 1 →
        (chanOf u c).state = .free ∧ (chanOf u c).owner = 0 ∧ (chanOf u c).expired = true) ∧
      u.objs = s.objs ∧ MemKept s u := by
  refine ⟨_, exec_perstNAssert t hm hp, ?_⟩
  obtain ⟨hperst, hcxl, hobjs, hmbx, hmem⟩ := hostTaken_rest (atTime s t)
  obtain ⟨hlink, hoff, hkeys, hrecv⟩ := reg_hostTaken (atTime s t)
  generalize hostTaken (atTime s t) = v at *
  have hlost {c : Nat} (hc : c < 64) (h : (chanOf s c).owner = 1 ∨ receiver s c = 1) : chanLost (perstMail v) c := by
    have hhost : hostChan v c := by
      unfold hostChan
      rw [hrecv c hc, chanOf, hmbx]
      exact h
    exact chanLost_foldl_loseChan (List.range 64) (.inr ⟨List.mem_range.mpr hc, hhost⟩)
  obtain ⟨hpwr, hobjs', hcxl', ⟨hbytes', hhost', hpoison'⟩, hreg⟩ := perstMail_rest v
  generalize perstMail v = w at *
  obtain ⟨hbytes, hhost, hpoison⟩ := hmem
  rw [markReady_cxl, hcxl', hcxl, reg_markReady, hreg, markReady_pwr, hpwr]
  refine ⟨hperst, hlink, rfl, rfl, rfl, rfl, rfl, rfl, fun q hq => ⟨?_, fun k hk => ?_⟩, fun a ha k hk => ?_, fun c hc h => hlost hc h,
    hobjs'.trans hobjs, hbytes'.trans hbytes, hhost'.trans hhost, hpoison'.trans hpoison⟩
  · rw [enabled, reg_markReady, hreg]
    exact hoff q hq
  · rw [reg_markReady, hreg]
    exact hkeys _ (mem_perstKeys_queue hq hk)
  · rw [reg_markReady, hreg]
    exact hkeys _ (mem_perstKeys_aperture ha hk)

end Sys2Proof.Scope

namespace Sys2Proof.Scope
open Sys2Proof Sys2Proof.Machine Sys2Proof.Machine.Claim

/-! ## The link and configuration space (R393, R394) -/

theorem exec_perstNDeassert {s : State} (t : Nat) (hm : s.pwr.managed = true) (hp : s.pwr.perstN = false) :
    exec (.perstNDeassert t) s = .next (if domainOn s 1 = true ∧ (reg s Key.clkPllLocked = 1 ∨ reg s Key.pwrState = 3)
      then setReg { atTime s t with pwr := { s.pwr with perstN := true } } Key.cxlLinkState 1
      else { atTime s t with pwr := { s.pwr with perstN := true } }) := by
  have hcond : (domainOn s 1 && (reg s Key.clkPllLocked == 1 || reg s Key.pwrState == 3)) =
      decide (domainOn s 1 = true ∧ (reg s Key.clkPllLocked = 1 ∨ reg s Key.pwrState = 3)) := by
    simp [Bool.beq_eq_decide_eq]
  refine congrArg Host.Outcome.next ((if_pos ⟨hm, hp⟩).trans ?_)
  change (if (domainOn s 1 && (reg s Key.clkPllLocked == 1 || reg s Key.pwrState == 3)) = true then _ else _) = _
  simp only [hcond, decide_eq_true_eq]
  rfl

/-- The registers of a link that has come up. -/
def linkUpRegs (s : State) (cxl : Bool) (width speed : Nat) : State :=
  setReg (setReg (setReg (setReg s Key.cxlLinkWidth width) Key.cxlLinkSpeed speed) Key.cxlLinkState (if cxl then 2 else 3))
    Key.cxlLinkDegraded (if width < 16 ∨ speed < 64 then 1 else 0)

theorem linkUpRegs_spec (s : State) (cxl : Bool) (width speed : Nat) :
    reg (linkUpRegs s cxl width speed) Key.cxlLinkState = (if cxl then 2 else 3) ∧
    reg (linkUpRegs s cxl width speed) Key.cxlLinkWidth = width ∧ reg (linkUpRegs s cxl width speed) Key.cxlLinkSpeed = speed ∧
    reg (linkUpRegs s cxl width speed) Key.cxlLinkDegraded = (if width < 16 ∨ speed < 64 then 1 else 0) := by
  unfold linkUpRegs
  refine ⟨?_, ?_, ?_, reg_setReg_same _ _ _⟩
  · rw [reg_setReg_ne _ _ (by decide), reg_setReg_same]
  · rw [reg_setReg_ne _ _ (by decide), reg_setReg_ne _ _ (by decide), reg_setReg_ne _ _ (by decide), reg_setReg_same]
  · rw [reg_setReg_ne _ _ (by decide), reg_setReg_ne _ _ (by decide), reg_setReg_same]

theorem exec_cxlLinkUp {s : State} {cxl : Bool} {width speed : Nat} (t : Nat) (h : reg s Key.cxlLinkState = 1)
    (hw : width < 256) (hs : speed < 256) : exec (.cxlLinkUp cxl width speed t) s =
      .next (markReady (if width < 16 ∨ speed < 64 then alm (linkUpRegs (atTime s t) cxl width speed) 0x78 0x0050 (hostData 1 0)
        else linkUpRegs (atTime s t) cxl width speed)) := by
  refine congrArg Host.Outcome.next ((if_pos h).trans ?_)
  dsimp only
  rw [Nat.mod_eq_of_lt hw, Nat.mod_eq_of_lt hs]
  by_cases hbad : width < 16 ∨ speed < 64
  · have hb : (decide (width < 16) || decide (speed < 64)) = true := by simpa using hbad
    rw [hb, linkUpRegs, if_pos hbad, if_pos hbad]
    rfl
  · have hb : (decide (width < 16) || decide (speed < 64)) = false := by simpa using hbad
    rw [hb, linkUpRegs, if_neg hbad, if_neg hbad]
    rfl

theorem cxlLinkUp_spec (s : State) (cxl : Bool) (width speed t : Nat) (h : reg s Key.cxlLinkState = 1)
    (hw : width < 256) (hs : speed < 256) :
    ∃ u, exec (.cxlLinkUp cxl width speed t) s = .next u ∧ reg u Key.cxlLinkState = (if cxl then 2 else 3) ∧
      reg u Key.cxlLinkWidth = width ∧ reg u Key.cxlLinkSpeed = speed ∧
      reg u Key.cxlLinkDegraded = (if width < 16 ∨ speed < 64 then 1 else 0) ∧
      u.alm.next = (if width < 16 ∨ speed < 64 then (s.alm.next + 1) % 2 ^ 32 else s.alm.next) ∧ MemKept s u := by
  refine ⟨_, exec_cxlLinkUp t h hw hs, ?_⟩
  obtain ⟨hstate, hwidth, hspeed, hdegraded⟩ := linkUpRegs_spec (atTime s t) cxl width speed
  have hmem : MemKept s (linkUpRegs (atTime s t) cxl width speed) := ⟨rfl, rfl, rfl⟩
  have halm : (linkUpRegs (atTime s t) cxl width speed).alm = s.alm := rfl
  generalize linkUpRegs (atTime s t) cxl width speed = v at *
  simp only [reg_markReady, markReady_alm]
  by_cases hbad : width < 16 ∨ speed < 64
  · simp only [if_pos hbad] at hdegraded ⊢
    have hreg {k : Nat} (hk : k ≠ Key.almOverwritten) : reg (alm v 0x78 0x0050 (hostData 1 0)) k = reg v k :=
      alm_regsKept v _ _ _ k (by simpa using hk)
    rw [hreg (by decide), hreg (by decide), hreg (by decide), hreg (by decide)]
    exact ⟨hstate, hwidth, hspeed, hdegraded, (almFull_next v _ _ _ _ _ _ _).trans (by rw [halm]), memKept_trans hmem (alm_memKept v _ _ _)⟩
  · simp only [if_neg hbad] at hdegraded ⊢
    exact ⟨hstate, hwidth, hspeed, hdegraded, congrArg Almanac.next halm, hmem⟩

theorem exec_primaryMailboxReady {s : State} (t : Nat) (hp : s.pwr.perstN = true) (hl : 1 ≤ reg s Key.cxlLinkState) :
    exec (.primaryMailboxReady t) s = .next { atTime s t with cxl := { s.cxl with ready := true } } :=
  congrArg Host.Outcome.next (if_pos ⟨hp, hl⟩)

section
variable {s : State} {r : Nat} (hlink : reg s Key.cxlLinkState ≠ 0) (hr : r < 4096) (hal : r % 4 = 0)
include hlink hr hal

theorem exec_configRequest_early (wr : Option Nat) (hready : s.cxl.ready = false) :
    exec (.configRequest r wr) s = .next (send s (.config 0 true)) := by
  have hno : ¬ (reg s Key.cxlLinkState = 0 ∨ 4096 ≤ r ∨ r % 4 ≠ 0) := by omega
  exact congrArg Host.Outcome.next ((if_neg hno).trans (if_pos (by rw [hready]; rfl)))

theorem exec_configRequest_read (hready : s.cxl.ready = true) :
    exec (.configRequest r none) s = .next (send s (.config (configValue s r) false)) := by
  have hno : ¬ (reg s Key.cxlLinkState = 0 ∨ 4096 ≤ r ∨ r % 4 ≠ 0) := by omega
  exact congrArg Host.Outcome.next ((if_neg hno).trans (if_neg (by rw [hready]; decide)))

theorem exec_configRequest_write (v : Nat) (hready : s.cxl.ready = true) : exec (.configRequest r (some v)) s =
    .next (send (if r = 0 ∨ r = 8 then s
      else { s with cxl := { s.cxl with config := (s.cxl.config.filter (fun e => e.1 != r)) ++ [(r, v % 2 ^ 32)] } }) (.config 0 false)) := by
  have hno : ¬ (reg s Key.cxlLinkState = 0 ∨ 4096 ≤ r ∨ r % 4 ≠ 0) := by omega
  exact congrArg Host.Outcome.next ((if_neg hno).trans (if_neg (by rw [hready]; decide)))

end

/-- The entry of a register that has been written. -/
theorem find?_written (cs : List (Nat × Nat)) (r x j : Nat) :
    ((cs.filter (fun e => e.1 != r)) ++ [(r, x)]).find? (fun e => e.1 == j) =
      if j = r then some (r, x) else cs.find? (fun e => e.1 == j) := by
  rw [List.find?_append, List.find?_filter]
  split
  case isTrue h =>
    have hnone : cs.find? (fun e => decide ((e.1 != r) = true ∧ (e.1 == j) = true)) = none :=
      List.find?_eq_none.mpr (by simp [h])
    rw [hnone]
    simp [h]
  case isFalse h =>
    have hsame (e : Nat × Nat) : decide ((e.1 != r) = true ∧ (e.1 == j) = true) = (e.1 == j) := by
      by_cases he : e.1 = j <;> simp [he, h]
    have hlast : [(r, x)].find? (fun e => e.1 == j) = none := List.find?_eq_none.mpr (by simpa using Ne.symm h)
    simp only [hsame, hlast, Option.or_none]

/-- A write of configuration space changes the register it names, where the host may write it. -/
theorem configWrite_spec (s : State) (r v : Nat) (hv : v < 2 ^ 32) :
    let u := send (if r = 0 ∨ r = 8 then s
      else { s with cxl := { s.cxl with config := (s.cxl.config.filter (fun e => e.1 != r)) ++ [(r, v % 2 ^ 32)] } }) (.config 0 false)
    u.out = s.out ++ [.config 0 false] ∧ (r ≠ 0 → r ≠ 8 → configValue u r = v) ∧ (∀ j, j ≠ r → configValue u j = configValue s j) ∧
      { u with cxl := { u.cxl with config := s.cxl.config }, out := s.out } = s := by
  intro u
  by_cases hfixed : r = 0 ∨ r = 8
  · have hu : u = send s (.config 0 false) := congrArg (send · _) (if_pos hfixed)
    rw [hu]
    exact ⟨rfl, fun h0 h8 => absurd hfixed (not_or.mpr ⟨h0, h8⟩), fun _ _ => rfl, rfl⟩
  · have hu : u = send { s with cxl := { s.cxl with
        config := (s.cxl.config.filter (fun e => e.1 != r)) ++ [(r, v % 2 ^ 32)] } } (.config 0 false) := congrArg (send · _) (if_neg hfixed)
    have hfind (j : Nat) : u.cxl.config.find? (fun e => e.1 == j) =
        if j = r then some (r, v % 2 ^ 32) else s.cxl.config.find? (fun e => e.1 == j) := by
      rw [hu]
      exact find?_written _ _ _ _
    refine ⟨by rw [hu]; rfl, fun h0 h8 => ?_, fun j hj => ?_, by rw [hu]; rfl⟩
    · rw [configValue, hfind, if_neg h0, if_neg h8, if_pos rfl]
      exact Nat.mod_eq_of_lt hv
    · rw [configValue, hfind, if_neg hj]
      rfl

/-! ## BAR0 (R395) -/

/-- What an ignored access gives. -/
theorem ignoreAccess_eq (s : State) (wr : Option Nat) : ignoreAccess s wr.isNone = match wr with
    | some _ => bump s Key.cxlDbRejects 1
    | none => send (bump s Key.cxlDbRejects 1) (.register 0) := by
  cases wr <;> rfl

/-- The offsets at which BAR0 has no register, or one that the host may not write. -/
def NoRegister (o : Nat) (wr : Option Nat) : Prop :=
  (0x61020 ≤ o ∧ o < 0x100000) ∨ 0x180000 ≤ o ∨ (0x61000 ≤ o ∧ o < 0x61020 ∧ wr.isSome = true) ∨
    (0x40000 ≤ o ∧ o < 0x60000 ∧ (devDefined o = false ∨ (devReadOnly o = true ∧ wr.isSome = true)))

section
variable (s : State) {o : Nat} (wr : Option Nat)

theorem bar0Access_dev (h : 0x40000 ≤ o ∧ o < 0x60000) : bar0Access s o wr = devAccess s o wr :=
  (if_neg (by omega)).trans (if_pos h.2)

theorem bar0Access_msix (h : 0x60000 ≤ o ∧ o < 0x61000) : bar0Access s o wr = msixAccess s ((o - 0x60000) / 4) wr :=
  (if_neg (by omega)).trans ((if_neg (by omega)).trans (if_pos h.2))

theorem bar0Access_pba (h : 0x61000 ≤ o ∧ o < 0x62000) : bar0Access s o wr = pbaAccess s ((o - 0x61000) / 4) wr :=
  (if_neg (by omega)).trans ((if_neg (by omega)).trans ((if_neg (by omega)).trans (if_pos h.2)))

theorem bar0Access_beyond (h : 0x62000 ≤ o) (hchan : o < 0x100000 ∨ 0x180000 ≤ o) : bar0Access s o wr = ignoreAccess s wr.isNone :=
  (if_neg (by omega)).trans ((if_neg (by omega)).trans ((if_neg (by omega)).trans ((if_neg (by omega)).trans (if_neg (by omega)))))

theorem bar0Access_noRegister (h : NoRegister o wr) : bar0Access s o wr = ignoreAccess s wr.isNone := by
  obtain ⟨hlow, hhigh⟩ | hbeyond | ⟨hlow, hhigh, hwr⟩ | ⟨hlow, hhigh, hdev⟩ := h
  · by_cases hpba : o < 0x62000
    · have hi : 8 ≤ (o - 0x61000) / 4 := by omega
      exact (bar0Access_pba s wr ⟨by omega, hpba⟩).trans (if_pos (by simp [hi]))
    · exact bar0Access_beyond s wr (by omega) (.inl hhigh)
  · exact bar0Access_beyond s wr (by omega) (.inr hbeyond)
  · exact (bar0Access_pba s wr ⟨hlow, by omega⟩).trans (if_pos (by simp [hwr]))
  · have hignored : (!devDefined o || (wr.isSome && devReadOnly o)) = true := by
      obtain hdef | ⟨hread, hwr⟩ := hdev
      · simp [hdef]
      · simp [hread, hwr]
    exact (bar0Access_dev s wr ⟨hlow, hhigh⟩).trans (if_pos hignored)

end

theorem exec_ignoredRegisterAccess {s : State} {off bytes : Nat} {wr : Option Nat} (t : Nat) (hlink : 2 ≤ reg s Key.cxlLinkState)
    (h : s.cxl.ready = false ∨ bytes ≠ 4 ∨ off % 4 ≠ 0 ∨ NoRegister off wr) :
    exec (.ignoredRegisterAccess off bytes ⟨wr, t⟩) s = .next (ignoreAccess (atTime s t) wr.isNone) := by
  refine congrArg Host.Outcome.next ?_
  by_cases hready : s.cxl.ready = true
  · refine (bar0_of_ready (s := atTime s t) hlink hready _ _).trans ?_
    by_cases hshape : bytes ≠ 4 ∨ off % 4 ≠ 0
    · exact if_pos hshape
    · have hno : NoRegister off (wr.map (· % 2 ^ 32)) := by
        have hno : NoRegister off wr := by
          obtain hearly | hbytes | hal | hno := h
          · exact absurd hearly (by simp [hready])
          · exact absurd (.inl hbytes) hshape
          · exact absurd (.inr hal) hshape
          · exact hno
        unfold NoRegister
        rwa [Option.isSome_map]
      refine (if_neg hshape).trans ((bar0Access_noRegister _ _ hno).trans ?_)
      rw [Option.isNone_map]
  · exact bar0_of_early (s := atTime s t) hlink (by simpa using hready) _ _

/-! ## The CXL registers, the MSI-X table and pending bits (R391, R395) -/

theorem devWord_setDev_same (s : State) (o : Nat) {v : Nat} (hv : v < 2 ^ 32) : devWord (setDev s o v) o = v := by
  have hget : Tab.get 0 (setDev s o v).cxl.regs o = Nat.xor (v % 2 ^ 32) (devPowerUp o) := Tab.get_set_same 0 _ o _
  rw [devWord, hget, Nat.mod_eq_of_lt hv]
  exact Nat.xor_xor_cancel_right v _

theorem devWord_setDev_ne (s : State) {o p : Nat} (v : Nat) (h : p ≠ o) : devWord (setDev s o v) p = devWord s p :=
  congrArg (Nat.xor · (devPowerUp p)) (Tab.get_set_ne 0 0 _ _ h)

section
variable {s : State} {o : Nat} (hdef : devDefined o = true)
include hdef

theorem devAccess_read : devAccess s o none = send s (.register (devWord s o)) := if_neg (by simp [hdef])

theorem devAccess_write (v : Nat) (hwrite : devReadOnly o = false) (hbell : o ≠ mailboxBase + 4) :
    devAccess s o (some v) = setDev s o v :=
  (if_neg (by simp [hdef, hwrite])).trans (if_neg fun h => hbell h.1)

end

/-- The word of the table that a write leaves. -/
def msixStored (w v : Nat) : Nat := if w % 4 = 3 then Nat.xor (v % 2) 1 else v % 2 ^ 32

theorem msixWord_stored {c c' : Cxl} {w v : Nat} (h : c'.msix = Tab.set 0 c.msix w (msixStored w v)) (hv : v < 2 ^ 32) :
    msixWord c' w = (if w % 4 = 3 then v % 2 else v) ∧ ∀ x, x ≠ w → msixWord c' x = msixWord c x := by
  refine ⟨?_, fun x hx => ?_⟩
  · unfold msixWord
    rw [h, Tab.get_set_same, msixStored]
    split
    · exact Nat.xor_xor_cancel_right (v % 2) 1
    · exact Nat.mod_eq_of_lt hv
  · unfold msixWord
    rw [h, Tab.get_set_ne 0 0 _ _ hx]

theorem writeMsix_spec (s : State) (w v : Nat) (hv : v < 2 ^ 32) :
    msixWord (writeMsix s w v).cxl w = (if w % 4 = 3 then v % 2 else v) ∧
    (∀ x, x ≠ w → msixWord (writeMsix s w v).cxl x = msixWord s.cxl x) ∧
    (w % 4 = 3 ∧ v % 2 = 0 ∧ w / 4 ∈ s.cxl.msixDue →
      (writeMsix s w v).out = s.out ++ [.msix (w / 4)] ∧ w / 4 ∉ (writeMsix s w v).cxl.msixDue) := by
  have hmsix : (writeMsix s w v).cxl.msix = Tab.set 0 s.cxl.msix w (msixStored w v) := by
    unfold writeMsix
    dsimp only
    split <;> rfl
  obtain ⟨hsame, hothers⟩ := msixWord_stored hmsix hv
  refine ⟨hsame, hothers, fun hsent => ?_⟩
  unfold writeMsix
  dsimp only
  rw [if_pos hsent]
  exact ⟨rfl, fun hmem => by simpa using (List.mem_filter.mp hmem).2⟩

theorem raiseMsix_masked {s : State} {v : Nat} (h : msixWord s.cxl (4 * v + 3) % 2 = 1) :
    (raiseMsix s v).out = s.out ∧ v ∈ (raiseMsix s v).cxl.msixDue := by
  have hbit : bit (msixWord s.cxl (4 * v + 3)) 0 = true := by simp [bit, h]
  unfold raiseMsix
  rw [if_pos hbit]
  split
  case isTrue hmem => exact ⟨rfl, hmem⟩
  case isFalse => exact ⟨rfl, by simp⟩

theorem raiseMsix_unmasked {s : State} {v : Nat} (h : msixWord s.cxl (4 * v + 3) % 2 = 0) : raiseMsix s v = send s (.msix v) := by
  have hbit : bit (msixWord s.cxl (4 * v + 3)) 0 = false := by simp [bit, h]
  exact if_neg (by simp [hbit])

section
variable {s : State} {o : Nat} (t : Nat) (hlink : 2 ≤ reg s Key.cxlLinkState) (hready : s.cxl.ready = true) (ho : o % 4 = 0)
include hlink hready ho

theorem exec_devAccess (h : 0x40000 ≤ o ∧ o < 0x60000) (wr : Option Nat) :
    exec (.ignoredRegisterAccess o 4 ⟨wr, t⟩) s = .next (devAccess (atTime s t) o (wr.map (· % 2 ^ 32))) := by
  rw [exec_access hlink hready ho, bar0Access_dev _ _ h]

theorem exec_msixAccess (h : 0x60000 ≤ o ∧ o < 0x61000) (wr : Option Nat) : exec (.ignoredRegisterAccess o 4 ⟨wr, t⟩) s =
    .next (msixAccess (atTime s t) ((o - 0x60000) / 4) (wr.map (· % 2 ^ 32))) := by
  rw [exec_access hlink hready ho, bar0Access_msix _ _ h]

theorem exec_pbaRead (h : 0x61000 ≤ o ∧ o < 0x61020) : exec (.ignoredRegisterAccess o 4 ⟨none, t⟩) s =
    .next (send (atTime s t) (.register (pbaWord s ((o - 0x61000) / 4)))) := by
  have hi : ¬ 8 ≤ (o - 0x61000) / 4 := by omega
  rw [exec_access hlink hready ho, bar0Access_pba _ _ ⟨h.1, by omega⟩]
  exact congrArg Host.Outcome.next (if_neg (by simp [hi]))

/-- The CXL registers read as they were written. -/
theorem devRegister_spec (hlow : 0x40000 ≤ o) (hhigh : o < 0x60000) (hdef : devDefined o = true) :
    exec (.ignoredRegisterAccess o 4 ⟨none, t⟩) s = .next (send (atTime s t) (.register (devWord s o))) ∧
    ∀ v, v < 2 ^ 32 → devReadOnly o = false → o ≠ mailboxBase + 4 →
      ∃ u, exec (.ignoredRegisterAccess o 4 ⟨some v, t⟩) s = .next u ∧ devWord u o = v ∧
        (∀ p, p ≠ o → devWord u p = devWord s p) ∧ u.out = s.out := by
  have hexec := exec_devAccess t hlink hready ho ⟨hlow, hhigh⟩
  refine ⟨(hexec none).trans (congrArg Host.Outcome.next (devAccess_read hdef)), fun v hv hwrite hbell =>
    ⟨setDev (atTime s t) o v, ?_, devWord_setDev_same _ o hv, fun p hp => devWord_setDev_ne _ v hp, rfl⟩⟩
  rw [hexec, Option.map_some, Nat.mod_eq_of_lt hv, devAccess_write hdef v hwrite hbell]

/-- The words of the MSI-X table read as they were written, of a vector's control the mask bit alone. -/
theorem msixTable_spec (hlow : 0x60000 ≤ o) (hhigh : o < 0x61000) :
    exec (.ignoredRegisterAccess o 4 ⟨none, t⟩) s = .next (send (atTime s t) (.register (msixWord s.cxl ((o - 0x60000) / 4)))) ∧
    ∀ v, v < 2 ^ 32 → ∃ u, exec (.ignoredRegisterAccess o 4 ⟨some v, t⟩) s = .next u ∧
      msixWord u.cxl ((o - 0x60000) / 4) = (if o % 16 = 12 then v % 2 else v) ∧
      (∀ w, w ≠ (o - 0x60000) / 4 → msixWord u.cxl w = msixWord s.cxl w) ∧
      (o % 16 = 12 ∧ v % 2 = 0 ∧ (o - 0x60000) / 16 ∈ s.cxl.msixDue →
        u.out = s.out ++ [.msix ((o - 0x60000) / 16)] ∧ (o - 0x60000) / 16 ∉ u.cxl.msixDue) := by
  have hexec := exec_msixAccess t hlink hready ho ⟨hlow, hhigh⟩
  have hcontrol : (o % 16 = 12) = ((o - 0x60000) / 4 % 4 = 3) := propext (by omega)
  have hvector : (o - 0x60000) / 16 = (o - 0x60000) / 4 / 4 := by omega
  refine ⟨hexec none, fun v hv => ⟨writeMsix (atTime s t) ((o - 0x60000) / 4) v, ?_, ?_⟩⟩
  · rw [hexec, Option.map_some, Nat.mod_eq_of_lt hv]
    rfl
  · simp only [hcontrol, hvector]
    exact writeMsix_spec (atTime s t) _ v hv

end

/-- Settles O42, clause by clause. -/
theorem hostLink : Obligations.HostLink := by
  unfold Obligations.HostLink
  refine ⟨perstNAssert_spec, fun s t hm hp => exec_perstNDeassert t hm hp, cxlLinkUp_spec, fun s t hp hl => exec_primaryMailboxReady t hp hl,
    fun s r v hlink hr hal hv => ⟨fun wr hready => exec_configRequest_early hlink hr hal wr hready, fun hready =>
      ⟨exec_configRequest_read hlink hr hal hready, _, exec_configRequest_write hlink hr hal v hready, configWrite_spec s r v hv⟩⟩,
    fun s off bytes wr t hlink h => ?_,
    fun s o t hlink hready ho => ⟨devRegister_spec t hlink hready ho, msixTable_spec t hlink hready ho,
      fun hlow hhigh => exec_pbaRead t hlink hready ho ⟨hlow, hhigh⟩⟩,
    fun s v => ⟨raiseMsix_masked, raiseMsix_unmasked⟩⟩
  exact (exec_ignoredRegisterAccess t hlink h).trans (congrArg Host.Outcome.next (ignoreAccess_eq _ wr))

end Sys2Proof.Scope
